-- ==== Sys2Proof/Word.lean ====
section
/-! DEFINITION. The word types of the Amvos package and the one container shape the state uses.
Registers are 32 bits (R3); the device-physical address is 48 bits (R35). -/
namespace Sys2Proof

abbrev Byte := BitVec 8
abbrev W16 := BitVec 16
abbrev W32 := BitVec 32
abbrev W48 := BitVec 48
abbrev W64 := BitVec 64

/-- A finite map from numbers, as plain data: entries in strictly rising key order, none of them equal to
what an unlisted key reads as. The operations that keep this form stand in `Sys2Proof.Machine.FMap`. -/
abbrev FMap (α : Type) := List (Nat × α)

end Sys2Proof
end

