-- ==== Sys2Proof/Syntax.lean ====
section
/-! DEFINITION. The commands the package takes: one constructor of `Instr` per row of the opcode table, with the
operands the row's chapter gives it. -/
namespace Sys2Proof

/-! ### Sedun instruction formats (R91) -/

/-- S class: D [52:45], A [44:37], B [36:29], SUB [28:24], IMM24 [23:0]. -/
structure FmtS where
  d : BitVec 8
  a : BitVec 8
  b : BitVec 8
  sub : BitVec 5
  imm : BitVec 24
  deriving DecidableEq, Repr

/-- V class: D [52:45], A [44:37], B [36:29], C [28:21], PG [20:18], ET [17:14], SR [13], SATM [12], SUB [11:8],
IMM8 [7:0]. -/
structure FmtV where
  d : BitVec 8
  a : BitVec 8
  b : BitVec 8
  c : BitVec 8
  pg : BitVec 3
  et : BitVec 4
  sr : Bool
  satm : Bool
  sub : BitVec 4
  imm : BitVec 8
  deriving DecidableEq, Repr

/-- M class: T [52:51], VA [50:43], VB [42:35], ETA [34:31], ETB [30:27], Z [26], ROW [25:22], reserved [21:0]. -/
structure FmtM where
  t : BitVec 2
  va : BitVec 8
  vb : BitVec 8
  eta : BitVec 4
  etb : BitVec 4
  z : Bool
  row : BitVec 4
  rsv : BitVec 22
  deriving DecidableEq, Repr

/-- X class: D [52:45], BASE [44:37], IDX [36:29], SUB [28:24], ET [23:20], OFF20 [19:0]. -/
structure FmtX where
  d : BitVec 8
  base : BitVec 8
  idx : BitVec 8
  sub : BitVec 5
  et : BitVec 4
  off : BitVec 20
  deriving DecidableEq, Repr

/-- C class: A [52:45], B [44:37], COND [36:32], IMM32 [31:0]. -/
structure FmtC where
  a : BitVec 8
  b : BitVec 8
  cond : BitVec 5
  imm : BitVec 32
  deriving DecidableEq, Repr

/-- E class: D [52:45], A [44:37], B [36:29], TGT [28:25], DIE [24:22], IMM22 [21:0]. -/
structure FmtE where
  d : BitVec 8
  a : BitVec 8
  b : BitVec 8
  tgt : BitVec 4
  die : BitVec 3
  imm : BitVec 22
  deriving DecidableEq, Repr

/-! ### Operands beside the instruction word

What the environment decides (a physical error, an operand of a register write, the byte a wire carries) comes with the
command (log entry 6). -/

/-- Who makes a register access (R7): the host, a Quoin, or job code of a context. -/
inductive Writer where
  | host
  | quoin
  | ctx (n : Nat)
  deriving DecidableEq, Repr

/-- A storage error met inside a step (R48). -/
inductive StorageEvent where
  | none
  /-- single-bit and double-bit local-store error in the word at the address -/
  | lsCorrected (addr : Nat)
  | lsUncorrected (addr : Nat)
  /-- parity error in the register or tile with the code of R87 -/
  | rfParity (reg : BitVec 8)
  /-- crossbar parity error, and whether the retry fails -/
  | xbarParity (addr : Nat) (fails : Bool)
  deriving DecidableEq, Repr

/-- One instruction issued: the core by global core ID, a storage error it meets, and the lanes in which the halves of a
joined couple differ (R431). -/
structure Issue where
  core : Nat
  err : StorageEvent
  diff : BitVec 12
  deriving DecidableEq, Repr

/-- An ECC event of a DRAM or Mortar read: the address, whether it is uncorrectable, and whether the second copy (mirror or
migration copy) is uncorrectable as well (R315, R316). -/
structure MemEvent where
  addr : Nat
  ue : Bool
  copyUe : Bool
  deriving DecidableEq, Repr

/-- An engine command taken from the head of a partition's queue: die, partition, the buffer errors it meets (corrected words, and the
address of a double-bit error), and memory errors of its reads. -/
structure EngIssue where
  die : Nat
  part : Nat
  bufCe : Nat
  bufUe : Option Nat
  mem : List MemEvent
  deriving DecidableEq, Repr

/-- What start-up meets (R503, R504): failed steps, by unit. -/
structure BootInput where
  /-- the three copies of a fuse bit disagree -/
  tamper : Bool
  /-- the key store partition is absent, or fails its tag -/
  storeAbsent : Bool
  storeFails : Bool
  /-- dies, stacks and links (die, port) that fail training, and links that fail their identity proof -/
  dies : List Nat
  badStacks : List Nat
  links : List (Nat × Nat)
  auth : List (Nat × Nat)
  /-- couples (lead / 2) whose comparator misses an injection, with the lane -/
  couples : List (Nat × Nat)
  /-- units failing a segment: core or 0x8000_0000 + engine, segment, cell 4T + A -/
  failed : List (Nat × Nat × Nat)
  /-- RATE and WIDTH the host link trains to; no link for other values than those of R163 -/
  rate : Nat
  width : Nat
  /-- microseconds from P to the end -/
  time : Nat
  deriving DecidableEq, Repr

/-- The ECC of a CSI-2 packet header (R368). -/
inductive CsiHeader where
  | good
  | corrected
  | uncorrectable
  deriving DecidableEq, Repr

/-- What a scan of a die's IEEE 1687 network does once IJTAG has selected it (R513, R515). -/
inductive Instrument where
  /-- the network is selected, and no instrument accessed -/
  | select
  | dieStatus
  /-- the exchange of R501: a fresh challenge, and the 132 bytes of a response -/
  | challenge
  | response (data : List Byte)
  /-- the Gauge central registers, by block offset -/
  | gaugeRead (off : Nat)
  | gaugeWrite (off : Nat) (v : W32)
  /-- CORE, and what the core debug instrument shows: STATUS and PC, REG_DATA, LS_DATA -/
  | coreSelect (core : Nat)
  | coreStatus
  | regRead (spec : BitVec 8) (row : BitVec 4)
  | lsRead (addr : BitVec 18)
  /-- BP0–BP3 and WP0–WP1: the PC, or start and end, when enabled -/
  | breakpoint (i : Nat) (pc : Option (BitVec 48))
  | watchpoint (i : Nat) (range : Option (BitVec 18 × BitVec 18))
  /-- queue levels and running command of an engine, or of Cairn on the Keystone -/
  | engineState (e : Nat)
  | firmware
  | quoinState
  deriving DecidableEq, Repr

/-- The commands: one constructor per row of the opcode table. They stand chapter by chapter, but for the test port's rows and those without
operands, which come last: compiled Lean numbers no more than 245 constructors that carry operands. -/
inductive Instr where
  -- Registers and the host window (R3–R11, R165–R167)
  | registerWrite (w : Writer) (off : Nat) (v : W32)
  | lockSet (w : Writer) (off : Nat) (v : W32)
  | bar0OddAccess (write : Bool) (off size : Nat)
  | hostBar2Access (write : Bool) (off len : Nat) (data : List Byte) (mem : List MemEvent)
  | hostWinBaseWrite (w : Writer) (hi : Bool) (v : W32)
  -- Sedun, S class (R98)
  | nop (u : Issue) (f : FmtS)
  | add (u : Issue) (f : FmtS)
  | sub (u : Issue) (f : FmtS)
  | mul (u : Issue) (f : FmtS)
  | mulh (u : Issue) (f : FmtS)
  | div (u : Issue) (f : FmtS)
  | rem (u : Issue) (f : FmtS)
  | and (u : Issue) (f : FmtS)
  | or (u : Issue) (f : FmtS)
  | xor (u : Issue) (f : FmtS)
  | shl (u : Issue) (f : FmtS)
  | shr (u : Issue) (f : FmtS)
  | sar (u : Issue) (f : FmtS)
  | scmp (u : Issue) (f : FmtS)
  | min (u : Issue) (f : FmtS)
  | max (u : Issue) (f : FmtS)
  | movi (u : Issue) (f : FmtS)
  | movhi (u : Issue) (f : FmtS)
  | fadd (u : Issue) (f : FmtS)
  | fsub (u : Issue) (f : FmtS)
  | fmul (u : Issue) (f : FmtS)
  | ffma (u : Issue) (f : FmtS)
  | fmin (u : Issue) (f : FmtS)
  | fmax (u : Issue) (f : FmtS)
  | fcmp (u : Issue) (f : FmtS)
  | fcvt (u : Issue) (f : FmtS)
  | pmask (u : Issue) (f : FmtS)
  | plog (u : Issue) (f : FmtS)
  | pcnt (u : Issue) (f : FmtS)
  -- Sedun, V class (R99)
  | vadd (u : Issue) (f : FmtV)
  | vsub (u : Issue) (f : FmtV)
  | vmul (u : Issue) (f : FmtV)
  | vfma (u : Issue) (f : FmtV)
  | vmax (u : Issue) (f : FmtV)
  | vmin (u : Issue) (f : FmtV)
  | vabs (u : Issue) (f : FmtV)
  | vneg (u : Issue) (f : FmtV)
  | vcmp (u : Issue) (f : FmtV)
  | vsel (u : Issue) (f : FmtV)
  | vlog (u : Issue) (f : FmtV)
  | vsh (u : Issue) (f : FmtV)
  | vcvt (u : Issue) (f : FmtV)
  | vrq (u : Issue) (f : FmtV)
  | vqmx (u : Issue) (f : FmtV)
  | vfn (u : Issue) (f : FmtV)
  | vred (u : Issue) (f : FmtV)
  | vbc (u : Issue) (f : FmtV)
  | vperm (u : Issue) (f : FmtV)
  | vmov (u : Issue) (f : FmtV)
  | vext (u : Issue) (f : FmtV)
  | vins (u : Issue) (f : FmtV)
  -- Sedun, M class (R103)
  | mma (u : Issue) (f : FmtM)
  | tzero (u : Issue) (f : FmtM)
  | trd (u : Issue) (f : FmtM)
  | twr (u : Issue) (f : FmtM)
  -- Sedun, X class (R104)
  | ld (u : Issue) (f : FmtX)
  | st (u : Issue) (f : FmtX)
  | vld (u : Issue) (f : FmtX)
  | vst (u : Issue) (f : FmtX)
  | mxl (u : Issue) (f : FmtX)
  | dma (u : Issue) (f : FmtX)
  | dmaw (u : Issue) (f : FmtX)
  | sema (u : Issue) (f : FmtX)
  | semt (u : Issue) (f : FmtX)
  | semr (u : Issue) (f : FmtX)
  | amo (u : Issue) (f : FmtX)
  | mwait (u : Issue) (f : FmtX)
  | fence (u : Issue) (f : FmtX)
  -- Sedun, C class (R117)
  | br (u : Issue) (f : FmtC)
  | call (u : Issue) (f : FmtC)
  | jr (u : Issue) (f : FmtC)
  | yld (u : Issue) (f : FmtC)
  | end_ (u : Issue) (f : FmtC)
  -- Sedun, E class (R112)
  | eiss (u : Issue) (f : FmtE)
  | ewait (u : Issue) (f : FmtE)
  | epoll (u : Issue) (f : FmtE)
  | crdb (u : Issue) (f : FmtE)
  | crdr (u : Issue) (f : FmtE)
  | eprd (u : Issue) (f : FmtE)
  | epwait (u : Issue) (f : FmtE)
  | eprslv (u : Issue) (f : FmtE)
  | cid (u : Issue) (f : FmtE)
  | time (u : Issue) (f : FmtE)
  | flgr (u : Issue) (f : FmtE)
  | flgc (u : Issue) (f : FmtE)
  | grd (u : Issue) (f : FmtE)
  -- DMA completion (R50, R108, R258)
  | dmaComplete (core : Nat) (err : StorageEvent) (mem : List MemEvent)
  | multicastReadStart (core : Nat)
  | kvAppendComplete (core : Nat) (err : StorageEvent)
  -- Submission and descriptors (R168–R180); `host` is what the host has put into its own memory
  | submissionPoll (host : List (Nat × Byte))
  | ringEnable (w : Writer) (ring : Nat) (v : W32)
  | sqPause (w : Writer) (v : W32)
  | completionRecordWrite (host : List (Nat × Byte))
  | eventRecordWrite (host : List (Nat × Byte))
  | coalesceTimeout (vector : Nat)
  -- The host link (R163, R164)
  /-- `bme`: a write of Bus Master Enable, or another request -/
  | configRequest (bme : Option Bool)
  | perstDeassert (b : BootInput)
  | hostReset (flr : Bool)
  /-- RATE and WIDTH trained to (R189) -/
  | linkUp (rate width : Nat)
  -- The Quadrille and jobs (R141–R158)
  | figureOpen (fig : Nat)
  | figureClose (fig : Nat)
  | jobStart (ctx : Nat)
  | zeroingComplete (core : Nat)
  /-- couples of the cluster that fail their short pass: couple, lanes, and whether an injection was missed -/
  | joinHandoverComplete (cluster : Nat) (failed : List (Nat × Nat × Bool))
  | splitHandoverComplete (cluster : Nat)
  | jobDeadline (ctx : Nat)
  | jobComplete (ctx : Nat)
  | remoteDrainExpiry (ctx : Nat)
  | teardownComplete (ctx : Nat)
  | remoteWaitTimeout (core : Nat)
  | preemptLimitExpiry (ctx : Nat)
  | jobResume (ctx : Nat)
  | resumeComplete (ctx : Nat)
  | dieFence (die : Nat)
  -- Speculation (R192–R212)
  | specEnable (w : Writer) (v : W32)
  | shadowWritebackDone (die epoch : Nat)
  | mirrorCommitDone (epoch : Nat)
  -- Engine commands (R213–R270)
  | conv (g : EngIssue)
  | convTransposed (g : EngIssue)
  | pool (g : EngIssue)
  | resample (g : EngIssue)
  | ingest (g : EngIssue)
  | plinthConv (g : EngIssue)
  | ingestConv (g : EngIssue)
  | detect (g : EngIssue)
  | suppress (g : EngIssue)
  | attend (g : EngIssue)
  | verify (g : EngIssue)
  | truncate (g : EngIssue)
  | attendBwd (g : EngIssue)
  /-- engine 0–3 of a die, 4 Cairn's check path, 5 its world path -/
  | engineCommandComplete (die engine : Nat)
  | trcSeqLoad (w : Writer) (die : Nat) (v : W32)
  | trcSeqRelease (w : Writer) (die : Nat) (v : W32)
  -- Cairn (R271–R309)
  | worldLoad (g : EngIssue)
  | worldUpdate (g : EngIssue)
  | roadmapLoad (g : EngIssue)
  | plan (g : EngIssue)
  | storeFallback (g : EngIssue)
  /-- candidates with a verdict when the end time comes -/
  | planEndTime (resolved : List Nat)
  | fallbackAck (quoin : Nat)
  /-- a fence by the Quoins, or an uncorrected world-store error at a byte address -/
  | cairnFence (storeUe : Option Nat)
  | probe (w : Writer) (v : W32)
  | pqPush (w : Writer)
  | pqPop (w : Writer)
  | pqClear (w : Writer)
  | edgeInvalidate (w : Writer) (v : W32)
  -- Memory (R310–R342)
  /-- banks with no access waiting, 32·layer + bank -/
  | refreshInterval (stack : Nat) (idle : List Nat)
  | caParityError (stack addr : Nat)
  | caParityRetry (stack : Nat) (fails : Bool)
  | migrationUnitCopied (stack : Nat) (spareUe : Bool)
  | resyncComplete (part region : Nat)
  | semParityError (die index : Nat)
  /-- bursts served in the interval, at levels 0 to 3 -/
  | regulationInterval (cls stack : Nat) (bursts : List Nat)
  | dramModeWrite (w : Writer) (die : Nat) (v : W32)
  -- Arch links (R343–R365)
  /-- the 256 bytes the far end sends and what arrives -/
  | flitReceive (die port : Nat) (sent got : List Byte)
  | replayTimeout (die port : Nat)
  | retrainComplete (die port : Nat) (badLanes : List Nat)
  | retrainTimeout (die port : Nat)
  | linkFence (die port : Nat)
  -- Sensor ingest (R366–R384)
  | streamEnable (w : Writer) (off : Nat) (v : W32)
  | frameStart (port vc num : Nat) (hdr : CsiHeader)
  /-- `full`: the staging buffer is full -/
  | longPacket (port vc dt : Nat) (hdr : CsiHeader) (data : List Byte) (crcOk full : Bool)
  | frameEnd (port vc : Nat) (hdr : CsiHeader)
  /-- `data`, here and below: what an I2C transaction had received -/
  | aphyLinkDown (port : Nat) (data : List Byte)
  | aphyLinkUp (port gear : Nat)
  | i2cTransaction (w : Writer) (v : W32)
  | i2cDone (port : Nat) (nack : Bool) (data : List Byte)
  | i2cTimeout (port : Nat) (data : List Byte)
  /-- the frame without its FCS, whether the FCS is good, whether the staging buffer is full, and the offset in ns of a sync that the
  message completes -/
  | ethFrameReceive (port : Nat) (data : List Byte) (ok full : Bool) (sync : Option Int)
  | ethLinkDown (port : Nat)
  | hostFrameTx (w : Writer) (v : W32)
  | hodQueueEnable (w : Writer) (v : W32)
  | hodStallTimeout (q source : Nat)
  | hodReleasePoll (q : Nat)
  -- Plumb (R385–R400)
  | plbIncrWrite (w : Writer) (v : W32)
  | plbSet (w : Writer)
  | plbAdd (w : Writer)
  | plbSlew (w : Writer)
  | plbSourceWrite (w : Writer) (v : W32)
  | triggerArm (w : Writer) (trig : Nat) (v : W32)
  | triggerFire (trig : Nat)
  | captureEdge (input : Nat) (rising : Bool)
  | capStampRead (input : Nat)
  -- Output records and the Quoins (R401–R430)
  | recordClose (stream : Nat)
  | recordRelease (stream : Nat)
  | verdictTimeout (stream : Nat)
  | releaseGap (stream : Nat)
  | canFrameSent (quoin ctl : Nat)
  | statusPeriod (quoin : Nat)
  /-- on the pair of a die: 0 to 3, or 8 for the Keystone -/
  | heartbeatFrame (quoin die : Nat) (frame : W64)
  | heartbeatMiss (quoin die : Nat)
  /-- the Quoin that receives it -/
  | verdictFrame (quoin : Nat)
  | partnerLost (quoin : Nat)
  | quoinLockstepError (quoin : Nat)
  | quoinWatchdogExpiry (quoin : Nat)
  | clockFault (quoin count : Nat)
  | supplyFault (quoin : Nat)
  | loadStreams (w : Writer) (quoin : Nat)
  | safeExit (w : Writer) (quoin : Nat)
  | forceSafe (w : Writer) (quoin : Nat)
  -- Couples and Pavane (R431–R453); a place is cluster 8n + c or 0x100 + 4n + e
  | sliceStart (place : Nat)
  /-- failing cores (or the engine), and couples whose comparator misses an injection, with its lanes -/
  | sliceComplete (place : Nat) (cores : List Nat) (lanes : List (Nat × Nat))
  | sliceAbandon (place : Nat)
  | coverageExpiry (unit : Nat)
  | bandChange (die tband aband : Nat)
  | export_ (w : Writer)
  | import_ (w : Writer)
  | none_ (w : Writer)
  | inject (w : Writer) (die : Nat) (v : W32)
  -- Power, thermal and cooling (R454–R483)
  /-- power of each die and the Keystone over the last 1 ms, in 0.1 W -/
  | powerControlStep (powers : List Nat)
  | throttleRaiseDone (die : Nat)
  | domainPowerOn (domain : Nat)
  | standbyEnter (w : Writer)
  | standbyLeave (w : Writer)
  /-- die, pair, sensor, 1/16 degrees -/
  | thermalSample (samples : List (Nat × Nat × Nat × Int))
  | sentFrame (input : Nat) (status raw : Nat) (crcOk tickOk : Bool)
  | sentInputLost (input : Nat)
  | avsRead (bus rail : Nat) (current : Option Nat)
  -- Nguldoel and start-up (R484–R508)
  | quote (w : Writer)
  | getCerts (w : Writer)
  | flashWrite (w : Writer)
  | svnCommit (w : Writer)
  | debugChallenge (w : Writer)
  | debugResponse (w : Writer)
  | quoinUpdate (w : Writer)
  | securityAlarm (source : Nat)
  | fuseReread (tampered : Bool)
  /-- which Quoins have a valid firmware bank -/
  | quoinRailsValid (ok : List Bool)
  -- Rows at the table's end
  | illegalOpcode (u : Issue) (word : W64)
  | ethLinkUp (port rate : Nat)
  /-- 0 Sync, 1 Delay_Req, 2 Pdelay_Req -/
  | ptpMessageInterval (port : Nat) (kind : Nat)
  | triggerPulseEnd (trig : Nat)
  | hostFrameSent (port : Nat)
  | patrolScrub (stack addr : Nat) (mem : List MemEvent)
  | lsPatrolScrub (core addr : Nat) (err : StorageEvent)
  | canBusOff (quoin ctl : Nat) (enter : Bool)
  | layerTestDone (stack layer : Nat) (pass : Bool)
  | quoinRailLoss (quoin : Nat)
  /-- whether the groups came up in the order of R541 -/
  | mainRailsValid (ordered : Bool) (b : BootInput)
  -- The test port, the debugger, the online test, Gauge and provisioning (R502, R509–R530)
  | provision (w : Writer)
  | revokeModelKey (w : Writer)
  | bypass (die : Nat)
  | idcode (die : Nat)
  | samplePreload (die : Nat)
  | extest (die : Nat)
  | clamp (die : Nat)
  | highz (die : Nat)
  | ijtag (die : Nat) (ins : Instrument)
  | dieBypass (die : Nat)
  | halt (core : Nat)
  | resume (core : Nat)
  | step (u : Issue)
  | haltContext (core : Nat)
  | resumeContext (core : Nat)
  | debugRegWrite (core : Nat) (spec : BitVec 8) (row : BitVec 4) (data : BitVec 640)
  | debugLsWrite (core : Nat) (addr : BitVec 18) (data : W64)
  | memoryAccess (write : Bool) (addr len : Nat) (data : List Byte)
  | scanDump (die : Nat)
  | isolate (w : Writer)
  | test (w : Writer)
  | release (w : Writer)
  | onlineTestDone (die kind unit : Nat) (pass : Bool) (detail : Nat)
  | gauModeWrite (w : Writer) (v : W32)
  | snapshot (w : Writer)
  | dumpEnable (w : Writer) (v : W32)
  -- Rows without operands
  | invoke
  | loadModel
  | unloadModel
  | bindPartition
  | setQuadrille
  | planRequest
  | queryFence
  | testRequest
  | descNop
  | perstAssert
  | linkDown
  | d3hotEntry
  | bmeClear
  | majorFrameBoundary
  | cairnSliceBoundary
  | edgeBatchComplete
  | fallbackAckTimeout
  | guaranteeRecompute
  | plbTimeRead
  | syncTimeout
  | holdoverExpiry
  | testReset
  | snapshotPeriod
  | gauRead
  | slewDone
  deriving DecidableEq, Repr

end Sys2Proof
end

