-- ==== Sys2Proof/Decode.lean ====
section
/-! DEFINITION. The words of Sedun instructions (R89–R91, R98–R117, R129), read by STEP from memory and by ILLEGAL_OPCODE from its operand, the
encoder beside the decoder, and the word decoder of the opcode table, which gives no row bits. -/
namespace Sys2Proof

/-! ### Formats (R91) -/

/-- A word of class S: the opcode in [63:56], the class in [55:53], the fields below. -/
def wordS (op : BitVec 8) (f : FmtS) : W64 := op ++ 0#3 ++ f.d ++ f.a ++ f.b ++ f.sub ++ f.imm
def fieldsS (w : W64) : FmtS := { d := w.extractLsb' 45 8, a := w.extractLsb' 37 8, b := w.extractLsb' 29 8, sub := w.extractLsb' 24 5, imm := w.extractLsb' 0 24 }
/-- A word of class V: the opcode in [63:56], the class in [55:53], the fields below. -/
def wordV (op : BitVec 8) (f : FmtV) : W64 := op ++ 1#3 ++ f.d ++ f.a ++ f.b ++ f.c ++ f.pg ++ f.et ++ BitVec.ofBool f.sr ++ BitVec.ofBool f.satm ++ f.sub ++ f.imm
def fieldsV (w : W64) : FmtV := { d := w.extractLsb' 45 8, a := w.extractLsb' 37 8, b := w.extractLsb' 29 8, c := w.extractLsb' 21 8, pg := w.extractLsb' 18 3, et := w.extractLsb' 14 4, sr := w.getLsbD 13, satm := w.getLsbD 12, sub := w.extractLsb' 8 4, imm := w.extractLsb' 0 8 }
/-- A word of class M: the opcode in [63:56], the class in [55:53], the fields below. -/
def wordM (op : BitVec 8) (f : FmtM) : W64 := op ++ 2#3 ++ f.t ++ f.va ++ f.vb ++ f.eta ++ f.etb ++ BitVec.ofBool f.z ++ f.row ++ f.rsv
def fieldsM (w : W64) : FmtM := { t := w.extractLsb' 51 2, va := w.extractLsb' 43 8, vb := w.extractLsb' 35 8, eta := w.extractLsb' 31 4, etb := w.extractLsb' 27 4, z := w.getLsbD 26, row := w.extractLsb' 22 4, rsv := w.extractLsb' 0 22 }
/-- A word of class X: the opcode in [63:56], the class in [55:53], the fields below. -/
def wordX (op : BitVec 8) (f : FmtX) : W64 := op ++ 3#3 ++ f.d ++ f.base ++ f.idx ++ f.sub ++ f.et ++ f.off
def fieldsX (w : W64) : FmtX := { d := w.extractLsb' 45 8, base := w.extractLsb' 37 8, idx := w.extractLsb' 29 8, sub := w.extractLsb' 24 5, et := w.extractLsb' 20 4, off := w.extractLsb' 0 20 }
/-- A word of class C: the opcode in [63:56], the class in [55:53], the fields below. -/
def wordC (op : BitVec 8) (f : FmtC) : W64 := op ++ 4#3 ++ f.a ++ f.b ++ f.cond ++ f.imm
def fieldsC (w : W64) : FmtC := { a := w.extractLsb' 45 8, b := w.extractLsb' 37 8, cond := w.extractLsb' 32 5, imm := w.extractLsb' 0 32 }
/-- A word of class E: the opcode in [63:56], the class in [55:53], the fields below. -/
def wordE (op : BitVec 8) (f : FmtE) : W64 := op ++ 5#3 ++ f.d ++ f.a ++ f.b ++ f.tgt ++ f.die ++ f.imm
def fieldsE (w : W64) : FmtE := { d := w.extractLsb' 45 8, a := w.extractLsb' 37 8, b := w.extractLsb' 29 8, tgt := w.extractLsb' 25 4, die := w.extractLsb' 22 3, imm := w.extractLsb' 0 22 }

/-! ### Opcodes (R98, R99, R103, R104, R112, R117) -/

/-- The instruction of class S with an opcode. -/
def classS (op : Nat) (u : Issue) (f : FmtS) : Option Instr :=
  match op with
  | 0x00 => some (.nop u f)
  | 0x01 => some (.add u f)
  | 0x02 => some (.sub u f)
  | 0x03 => some (.mul u f)
  | 0x04 => some (.mulh u f)
  | 0x05 => some (.div u f)
  | 0x06 => some (.rem u f)
  | 0x07 => some (.and u f)
  | 0x08 => some (.or u f)
  | 0x09 => some (.xor u f)
  | 0x0A => some (.shl u f)
  | 0x0B => some (.shr u f)
  | 0x0C => some (.sar u f)
  | 0x0D => some (.scmp u f)
  | 0x0E => some (.min u f)
  | 0x0F => some (.max u f)
  | 0x10 => some (.movi u f)
  | 0x11 => some (.movhi u f)
  | 0x12 => some (.fadd u f)
  | 0x13 => some (.fsub u f)
  | 0x14 => some (.fmul u f)
  | 0x15 => some (.ffma u f)
  | 0x16 => some (.fmin u f)
  | 0x17 => some (.fmax u f)
  | 0x18 => some (.fcmp u f)
  | 0x19 => some (.fcvt u f)
  | 0x1A => some (.pmask u f)
  | 0x1B => some (.plog u f)
  | 0x1C => some (.pcnt u f)
  | _ => none
/-- The instruction of class V with an opcode. -/
def classV (op : Nat) (u : Issue) (f : FmtV) : Option Instr :=
  match op with
  | 0x30 => some (.vadd u f)
  | 0x31 => some (.vsub u f)
  | 0x32 => some (.vmul u f)
  | 0x33 => some (.vfma u f)
  | 0x34 => some (.vmax u f)
  | 0x35 => some (.vmin u f)
  | 0x36 => some (.vabs u f)
  | 0x37 => some (.vneg u f)
  | 0x38 => some (.vcmp u f)
  | 0x39 => some (.vsel u f)
  | 0x3A => some (.vlog u f)
  | 0x3B => some (.vsh u f)
  | 0x3C => some (.vcvt u f)
  | 0x3D => some (.vrq u f)
  | 0x3E => some (.vqmx u f)
  | 0x3F => some (.vfn u f)
  | 0x40 => some (.vred u f)
  | 0x41 => some (.vbc u f)
  | 0x42 => some (.vperm u f)
  | 0x43 => some (.vmov u f)
  | 0x44 => some (.vext u f)
  | 0x45 => some (.vins u f)
  | _ => none
/-- The instruction of class M with an opcode. -/
def classM (op : Nat) (u : Issue) (f : FmtM) : Option Instr :=
  match op with
  | 0x70 => some (.mma u f)
  | 0x71 => some (.tzero u f)
  | 0x72 => some (.trd u f)
  | 0x73 => some (.twr u f)
  | _ => none
/-- The instruction of class X with an opcode. -/
def classX (op : Nat) (u : Issue) (f : FmtX) : Option Instr :=
  match op with
  | 0x80 => some (.ld u f)
  | 0x81 => some (.st u f)
  | 0x82 => some (.vld u f)
  | 0x83 => some (.vst u f)
  | 0x84 => some (.mxl u f)
  | 0x85 => some (.dma u f)
  | 0x86 => some (.dmaw u f)
  | 0x87 => some (.sema u f)
  | 0x88 => some (.semt u f)
  | 0x89 => some (.semr u f)
  | 0x8A => some (.amo u f)
  | 0x8B => some (.mwait u f)
  | 0x8C => some (.fence u f)
  | _ => none
/-- The instruction of class C with an opcode. -/
def classC (op : Nat) (u : Issue) (f : FmtC) : Option Instr :=
  match op with
  | 0xA0 => some (.br u f)
  | 0xA1 => some (.call u f)
  | 0xA2 => some (.jr u f)
  | 0xA3 => some (.yld u f)
  | 0xA4 => some (.end_ u f)
  | _ => none
/-- The instruction of class E with an opcode. -/
def classE (op : Nat) (u : Issue) (f : FmtE) : Option Instr :=
  match op with
  | 0xB0 => some (.eiss u f)
  | 0xB1 => some (.ewait u f)
  | 0xB2 => some (.epoll u f)
  | 0xB3 => some (.crdb u f)
  | 0xB4 => some (.crdr u f)
  | 0xB5 => some (.eprd u f)
  | 0xB6 => some (.epwait u f)
  | 0xB7 => some (.eprslv u f)
  | 0xB8 => some (.cid u f)
  | 0xB9 => some (.time u f)
  | 0xBA => some (.flgr u f)
  | 0xBB => some (.flgc u f)
  | 0xBC => some (.grd u f)
  | _ => none
/-- The Sedun instruction a word spells, none where R129 raises ILLEGAL_OPCODE: the class bits must agree with the opcode's range (R89). -/
def decodeSedun (u : Issue) (w : W64) : Option Instr :=
  let op := (w.extractLsb' 56 8).toNat
  match (w.extractLsb' 53 3).toNat with
  | 0 => classS op u (fieldsS w)
  | 1 => classV op u (fieldsV w)
  | 2 => classM op u (fieldsM w)
  | 3 => classX op u (fieldsX w)
  | 4 => classC op u (fieldsC w)
  | 5 => classE op u (fieldsE w)
  | _ => none
/-- The word of a Sedun instruction; none for a command that is no instruction. -/
def encodeSedun (i : Instr) : Option W64 :=
  match i with
  | .nop _ f => some (wordS 0x00 f)
  | .add _ f => some (wordS 0x01 f)
  | .sub _ f => some (wordS 0x02 f)
  | .mul _ f => some (wordS 0x03 f)
  | .mulh _ f => some (wordS 0x04 f)
  | .div _ f => some (wordS 0x05 f)
  | .rem _ f => some (wordS 0x06 f)
  | .and _ f => some (wordS 0x07 f)
  | .or _ f => some (wordS 0x08 f)
  | .xor _ f => some (wordS 0x09 f)
  | .shl _ f => some (wordS 0x0A f)
  | .shr _ f => some (wordS 0x0B f)
  | .sar _ f => some (wordS 0x0C f)
  | .scmp _ f => some (wordS 0x0D f)
  | .min _ f => some (wordS 0x0E f)
  | .max _ f => some (wordS 0x0F f)
  | .movi _ f => some (wordS 0x10 f)
  | .movhi _ f => some (wordS 0x11 f)
  | .fadd _ f => some (wordS 0x12 f)
  | .fsub _ f => some (wordS 0x13 f)
  | .fmul _ f => some (wordS 0x14 f)
  | .ffma _ f => some (wordS 0x15 f)
  | .fmin _ f => some (wordS 0x16 f)
  | .fmax _ f => some (wordS 0x17 f)
  | .fcmp _ f => some (wordS 0x18 f)
  | .fcvt _ f => some (wordS 0x19 f)
  | .pmask _ f => some (wordS 0x1A f)
  | .plog _ f => some (wordS 0x1B f)
  | .pcnt _ f => some (wordS 0x1C f)
  | .vadd _ f => some (wordV 0x30 f)
  | .vsub _ f => some (wordV 0x31 f)
  | .vmul _ f => some (wordV 0x32 f)
  | .vfma _ f => some (wordV 0x33 f)
  | .vmax _ f => some (wordV 0x34 f)
  | .vmin _ f => some (wordV 0x35 f)
  | .vabs _ f => some (wordV 0x36 f)
  | .vneg _ f => some (wordV 0x37 f)
  | .vcmp _ f => some (wordV 0x38 f)
  | .vsel _ f => some (wordV 0x39 f)
  | .vlog _ f => some (wordV 0x3A f)
  | .vsh _ f => some (wordV 0x3B f)
  | .vcvt _ f => some (wordV 0x3C f)
  | .vrq _ f => some (wordV 0x3D f)
  | .vqmx _ f => some (wordV 0x3E f)
  | .vfn _ f => some (wordV 0x3F f)
  | .vred _ f => some (wordV 0x40 f)
  | .vbc _ f => some (wordV 0x41 f)
  | .vperm _ f => some (wordV 0x42 f)
  | .vmov _ f => some (wordV 0x43 f)
  | .vext _ f => some (wordV 0x44 f)
  | .vins _ f => some (wordV 0x45 f)
  | .mma _ f => some (wordM 0x70 f)
  | .tzero _ f => some (wordM 0x71 f)
  | .trd _ f => some (wordM 0x72 f)
  | .twr _ f => some (wordM 0x73 f)
  | .ld _ f => some (wordX 0x80 f)
  | .st _ f => some (wordX 0x81 f)
  | .vld _ f => some (wordX 0x82 f)
  | .vst _ f => some (wordX 0x83 f)
  | .mxl _ f => some (wordX 0x84 f)
  | .dma _ f => some (wordX 0x85 f)
  | .dmaw _ f => some (wordX 0x86 f)
  | .sema _ f => some (wordX 0x87 f)
  | .semt _ f => some (wordX 0x88 f)
  | .semr _ f => some (wordX 0x89 f)
  | .amo _ f => some (wordX 0x8A f)
  | .mwait _ f => some (wordX 0x8B f)
  | .fence _ f => some (wordX 0x8C f)
  | .br _ f => some (wordC 0xA0 f)
  | .call _ f => some (wordC 0xA1 f)
  | .jr _ f => some (wordC 0xA2 f)
  | .yld _ f => some (wordC 0xA3 f)
  | .end_ _ f => some (wordC 0xA4 f)
  | .eiss _ f => some (wordE 0xB0 f)
  | .ewait _ f => some (wordE 0xB1 f)
  | .epoll _ f => some (wordE 0xB2 f)
  | .crdb _ f => some (wordE 0xB3 f)
  | .crdr _ f => some (wordE 0xB4 f)
  | .eprd _ f => some (wordE 0xB5 f)
  | .epwait _ f => some (wordE 0xB6 f)
  | .eprslv _ f => some (wordE 0xB7 f)
  | .cid _ f => some (wordE 0xB8 f)
  | .time _ f => some (wordE 0xB9 f)
  | .flgr _ f => some (wordE 0xBA f)
  | .flgc _ f => some (wordE 0xBB f)
  | .grd _ f => some (wordE 0xBC f)
  | _ => none
/-- The core and the storage error an instruction comes with. -/
def issueOf (i : Instr) : Option Issue :=
  match i with
  | .nop u _ => some u
  | .add u _ => some u
  | .sub u _ => some u
  | .mul u _ => some u
  | .mulh u _ => some u
  | .div u _ => some u
  | .rem u _ => some u
  | .and u _ => some u
  | .or u _ => some u
  | .xor u _ => some u
  | .shl u _ => some u
  | .shr u _ => some u
  | .sar u _ => some u
  | .scmp u _ => some u
  | .min u _ => some u
  | .max u _ => some u
  | .movi u _ => some u
  | .movhi u _ => some u
  | .fadd u _ => some u
  | .fsub u _ => some u
  | .fmul u _ => some u
  | .ffma u _ => some u
  | .fmin u _ => some u
  | .fmax u _ => some u
  | .fcmp u _ => some u
  | .fcvt u _ => some u
  | .pmask u _ => some u
  | .plog u _ => some u
  | .pcnt u _ => some u
  | .vadd u _ => some u
  | .vsub u _ => some u
  | .vmul u _ => some u
  | .vfma u _ => some u
  | .vmax u _ => some u
  | .vmin u _ => some u
  | .vabs u _ => some u
  | .vneg u _ => some u
  | .vcmp u _ => some u
  | .vsel u _ => some u
  | .vlog u _ => some u
  | .vsh u _ => some u
  | .vcvt u _ => some u
  | .vrq u _ => some u
  | .vqmx u _ => some u
  | .vfn u _ => some u
  | .vred u _ => some u
  | .vbc u _ => some u
  | .vperm u _ => some u
  | .vmov u _ => some u
  | .vext u _ => some u
  | .vins u _ => some u
  | .mma u _ => some u
  | .tzero u _ => some u
  | .trd u _ => some u
  | .twr u _ => some u
  | .ld u _ => some u
  | .st u _ => some u
  | .vld u _ => some u
  | .vst u _ => some u
  | .mxl u _ => some u
  | .dma u _ => some u
  | .dmaw u _ => some u
  | .sema u _ => some u
  | .semt u _ => some u
  | .semr u _ => some u
  | .amo u _ => some u
  | .mwait u _ => some u
  | .fence u _ => some u
  | .br u _ => some u
  | .call u _ => some u
  | .jr u _ => some u
  | .yld u _ => some u
  | .end_ u _ => some u
  | .eiss u _ => some u
  | .ewait u _ => some u
  | .epoll u _ => some u
  | .crdb u _ => some u
  | .crdr u _ => some u
  | .eprd u _ => some u
  | .epwait u _ => some u
  | .eprslv u _ => some u
  | .cid u _ => some u
  | .time u _ => some u
  | .flgr u _ => some u
  | .flgc u _ => some u
  | .grd u _ => some u
  | _ => none

/-- The command that a word of the opcode table spells: no row has bits, so none does (log entry 2). -/
def decodeTableWord (_nbits _w : Nat) : Option Instr := none

end Sys2Proof
end

