-- ==== Sys2Proof/Machine/Map.lean ====
section
/-! DEFINITION. Reading and writing the finite maps of the state (memory bytes, registers, contexts …).
Every map has ONE value that an unlisted key reads as (`d` below); writing that value removes the entry, so
equal contents are equal data. -/
namespace Sys2Proof.Machine

/-- The value at key `k`; `d` where the map lists none. -/
def FMap.get {α : Type} (d : α) : FMap α → Nat → α
  | [], _ => d
  | (j, x) :: m, k => if j = k then x else FMap.get d m k

/-- Take key `k` out of the map. -/
def FMap.erase {α : Type} : FMap α → Nat → FMap α
  | [], _ => []
  | (j, x) :: m, k => if j = k then FMap.erase m k else (j, x) :: FMap.erase m k

/-- Put `v` at key `k`, keeping the keys in rising order. -/
def FMap.insert {α : Type} : FMap α → Nat → α → FMap α
  | [], k, v => [(k, v)]
  | (j, x) :: m, k, v =>
    if j = k then (k, v) :: m else if k < j then (k, v) :: (j, x) :: m else (j, x) :: FMap.insert m k v

/-- Write `v` at key `k`: writing the unlisted value removes the entry. -/
def FMap.set {α : Type} [DecidableEq α] (d : α) (m : FMap α) (k : Nat) (v : α) : FMap α :=
  if v = d then FMap.erase m k else FMap.insert m k v

/-- The keys rise strictly from `lo` on and no entry equals `d`. -/
def FMap.wfFrom {α : Type} [DecidableEq α] (d : α) : Nat → FMap α → Bool
  | _, [] => true
  | lo, (j, x) :: m => decide (lo ≤ j) && decide (x ≠ d) && FMap.wfFrom d (j + 1) m

/-- The canonical form of a map. -/
def FMap.wf {α : Type} [DecidableEq α] (d : α) (m : FMap α) : Bool := FMap.wfFrom d 0 m

/-- Change the value at key `k` by `f`. -/
def FMap.modify {α : Type} [DecidableEq α] (d : α) (m : FMap α) (k : Nat) (f : α → α) : FMap α :=
  FMap.set d m k (f (FMap.get d m k))

/-- Write the values of `vs` at the keys from `k` on. -/
def FMap.setMany {α : Type} [DecidableEq α] (d : α) : FMap α → Nat → List α → FMap α
  | m, _, [] => m
  | m, k, v :: vs => FMap.setMany d (FMap.set d m k v) (k + 1) vs

/-- The `n` values from key `k` on. -/
def FMap.getMany {α : Type} (d : α) (m : FMap α) (k : Nat) : Nat → List α
  | 0 => []
  | n + 1 => FMap.get d m k :: FMap.getMany d m (k + 1) n

/-- Change every listed value by `f`, dropping what becomes the unlisted value. -/
def FMap.mapAll {α : Type} [DecidableEq α] (d : α) (f : Nat → α → α) : FMap α → FMap α
  | [] => []
  | (k, x) :: m => if f k x = d then FMap.mapAll d f m else (k, f k x) :: FMap.mapAll d f m

/-- Keep only the entries whose key and value satisfy `p`. -/
def FMap.keep {α : Type} (p : Nat → α → Bool) (m : FMap α) : FMap α := m.filter (fun e => p e.1 e.2)

/-- Little-endian value of a list of bytes (R3). -/
def leNat : List Byte → Nat
  | [] => 0
  | b :: bs => b.toNat + 256 * leNat bs

/-- The `n` little-endian bytes of a number (R3). -/
def leBytes : Nat → Nat → List Byte
  | 0, _ => []
  | n + 1, x => BitVec.ofNat 8 (x % 256) :: leBytes n (x / 256)

/-- Bits [hi:lo] of a number. -/
def bitsOf (x hi lo : Nat) : Nat := (x >>> lo) % 2 ^ (hi + 1 - lo)

/-- Bit `i` of a number. -/
def bitOf (x i : Nat) : Bool := (x >>> i) % 2 == 1

/-- A `w`-bit code read as two's complement. -/
def sext (w x : Nat) : Int :=
  if x % 2 ^ w < 2 ^ (w - 1) then ((x % 2 ^ w : Nat) : Int) else ((x % 2 ^ w : Nat) : Int) - (2 ^ w : Nat)

/-- The `w`-bit two's complement code of an integer. -/
def wrap (w : Nat) (x : Int) : Nat := (x % ((2 ^ w : Nat) : Int)).toNat

/-- An integer held within `lo … hi`. -/
def clampInt (lo hi x : Int) : Int := if x < lo then lo else if hi < x then hi else x

/-- Round `n / 2^k` to the nearest integer, ties to even (R71). -/
def rneShift (n k : Nat) : Nat :=
  if k = 0 then n
  else if n % 2 ^ k < 2 ^ (k - 1) then n / 2 ^ k
  else if 2 ^ (k - 1) < n % 2 ^ k then n / 2 ^ k + 1
  else if (n / 2 ^ k) % 2 = 0 then n / 2 ^ k else n / 2 ^ k + 1

end Sys2Proof.Machine
end

