-- ==== Sys2Proof/Machine/Crypto.lean ====
section
/-! DEFINITION. The named algorithms the package's security and safety messages use: SHA-256, ECDSA verification on
P-256, AES-256 in counter mode and its GCM tag (R484–R502), CRC-32C (R425), CRC-16 of the flits and CRC-8 of the heartbeat.
The spec names the standards and not their tables, which are taken from the standards (PRESUMED, log entry 12). -/
namespace Sys2Proof.Machine

/-! ### SHA-256 -/

def shaK : List W32 :=
  [0x428a2f98, 0x71374491, 0xb5c0fbcf, 0xe9b5dba5, 0x3956c25b, 0x59f111f1, 0x923f82a4, 0xab1c5ed5,
   0xd807aa98, 0x12835b01, 0x243185be, 0x550c7dc3, 0x72be5d74, 0x80deb1fe, 0x9bdc06a7, 0xc19bf174,
   0xe49b69c1, 0xefbe4786, 0x0fc19dc6, 0x240ca1cc, 0x2de92c6f, 0x4a7484aa, 0x5cb0a9dc, 0x76f988da,
   0x983e5152, 0xa831c66d, 0xb00327c8, 0xbf597fc7, 0xc6e00bf3, 0xd5a79147, 0x06ca6351, 0x14292967] ++
  [0x27b70a85, 0x2e1b2138, 0x4d2c6dfc, 0x53380d13, 0x650a7354, 0x766a0abb, 0x81c2c92e, 0x92722c85,
   0xa2bfe8a1, 0xa81a664b, 0xc24b8b70, 0xc76c51a3, 0xd192e819, 0xd6990624, 0xf40e3585, 0x106aa070,
   0x19a4c116, 0x1e376c08, 0x2748774c, 0x34b0bcb5, 0x391c0cb3, 0x4ed8aa4a, 0x5b9cca4f, 0x682e6ff3,
   0x748f82ee, 0x78a5636f, 0x84c87814, 0x8cc70208, 0x90befffa, 0xa4506ceb, 0xbef9a3f7, 0xc67178f2]

def shaInit : List W32 :=
  [0x6a09e667, 0xbb67ae85, 0x3c6ef372, 0xa54ff53a, 0x510e527f, 0x9b05688c, 0x1f83d9ab, 0x5be0cd19]

def beNat (bs : List Byte) : Nat := bs.foldl (fun a b => a * 256 + b.toNat) 0
def beBytes (n x : Nat) : List Byte := (List.range n).map (fun i => BitVec.ofNat 8 (x / 256 ^ (n - 1 - i)))

/-- The message padded to whole 64-byte blocks. -/
def shaPad (m : List Byte) : List Byte :=
  m ++ [0x80] ++ List.replicate ((119 - m.length % 64) % 64) 0 ++ beBytes 8 (8 * m.length)

/-- The next schedule word, from the words so far, newest first. -/
def shaNextW (ws : List W32) : W32 :=
  let x (i : Nat) : W32 := ws.getD (i - 1) 0
  let s0 := (x 15).rotateRight 7 ^^^ (x 15).rotateRight 18 ^^^ (x 15 >>> 3)
  let s1 := (x 2).rotateRight 17 ^^^ (x 2).rotateRight 19 ^^^ (x 2 >>> 10)
  x 16 + s0 + x 7 + s1

def shaSchedule : Nat → List W32 → List W32
  | 0, ws => ws.reverse
  | n + 1, ws => shaSchedule n (shaNextW ws :: ws)

def shaRound (s : List W32) (kw : W32 × W32) : List W32 :=
  match s with
  | [a, b, c, d, e, f, g, h] =>
    let t1 := h + (e.rotateRight 6 ^^^ e.rotateRight 11 ^^^ e.rotateRight 25) + ((e &&& f) ^^^ (~~~e &&& g)) + kw.1 + kw.2
    let t2 := (a.rotateRight 2 ^^^ a.rotateRight 13 ^^^ a.rotateRight 22) + ((a &&& b) ^^^ (a &&& c) ^^^ (b &&& c))
    [t1 + t2, a, b, c, d + t1, e, f, g]
  | _ => s

def shaBlock (s : List W32) (block : List Byte) : List W32 :=
  let w0 := (List.range 16).map (fun i => BitVec.ofNat 32 (beNat ((block.drop (4 * i)).take 4)))
  let ws := shaSchedule 48 w0.reverse
  List.zipWith (· + ·) s ((shaK.zip ws).foldl shaRound s)

/-- SHA-256 of a byte string: 32 bytes. -/
def sha256 (m : List Byte) : List Byte :=
  let p := shaPad m
  let s := (List.range (p.length / 64)).foldl (fun s i => shaBlock s ((p.drop (64 * i)).take 64)) shaInit
  s.flatMap (fun w => beBytes 4 w.toNat)

/-! ### ECDSA on P-256 -/

def p256p : Nat := 2 ^ 256 - 2 ^ 224 + 2 ^ 192 + 2 ^ 96 - 1
def p256n : Nat := 0xffffffff00000000ffffffffffffffffbce6faada7179e84f3b9cac2fc632551
def p256b : Nat := 0x5ac635d8aa3a93e7b3ebbd55769886bc651d06b0cc53b0f63bce3c3e27d2604b
def p256g : Nat × Nat :=
  (0x6b17d1f2e12c4247f8bce6e563a440f277037d812deb33a0f4a13945d898c296,
   0x4fe342e2fe1a7f9b8ee7eb4a7c0f9e162bce33576b315ececbb6406837bf51f5)

/-- x ^ e mod m, by the bits of e from `n` down. -/
def powMod (m x e : Nat) : Nat → Nat
  | 0 => 1 % m
  | n + 1 => let h := powMod m x (e / 2) n
             if e % 2 = 1 then h * h % m * x % m else h * h % m
def invMod (m x : Nat) : Nat := powMod m (x % m) (m - 2) 256

abbrev EcPoint := Option (Nat × Nat)
def subMod (m a b : Nat) : Nat := (a + m - b % m) % m

def ecAdd (a b : EcPoint) : EcPoint :=
  match a, b with
  | none, q => q
  | p, none => p
  | some (x1, y1), some (x2, y2) =>
    let line (l : Nat) : EcPoint :=
      let x3 := subMod p256p (subMod p256p (l * l) x1) x2
      some (x3, subMod p256p (l * subMod p256p x1 x3) y1)
    if x1 = x2 then
      if (y1 + y2) % p256p = 0 then none
      else line (subMod p256p (3 * x1 * x1) 3 * invMod p256p (2 * y1) % p256p)
    else line (subMod p256p y2 y1 * invMod p256p (subMod p256p x2 x1) % p256p)

def ecMul (p : EcPoint) (k : Nat) : Nat → EcPoint
  | 0 => none
  | n + 1 => let h := ecMul p (k / 2) n
             let d := ecAdd h h
             if k % 2 = 1 then ecAdd d p else d

/-- Is the 64-byte key a point of the curve? -/
def ecKeyOk (key : List Byte) : Bool :=
  let x := beNat (key.take 32)
  let y := beNat ((key.drop 32).take 32)
  decide (x < p256p) && decide (y < p256p) && (y * y % p256p == (x * x * x + subMod p256p p256b (3 * x)) % p256p)

/-- Does the 64-byte signature over the digest verify under the 64-byte key? -/
def ecdsaVerify (key digest sig : List Byte) : Bool :=
  let r := beNat (sig.take 32)
  let s := beNat ((sig.drop 32).take 32)
  if !ecKeyOk key || r == 0 || decide (p256n ≤ r) || s == 0 || decide (p256n ≤ s) then false
  else
    let w := invMod p256n s
    let q : EcPoint := some (beNat (key.take 32), beNat ((key.drop 32).take 32))
    let pt := ecAdd (ecMul (some p256g) (beNat digest * w % p256n) 256) (ecMul q (r * w % p256n) 256)
    match pt with
    | some (x, _) => x % p256n == r
    | none => false

/-! ### AES-256 and GCM -/

/-- Multiplication in GF(2^8) with the AES polynomial. -/
def gfMul8 (a b : Byte) : Byte :=
  ((List.range 8).foldl (fun (s : Byte × Byte) i =>
    let acc := if b.getLsbD i then s.1 ^^^ s.2 else s.1
    (acc, if s.2.getLsbD 7 then (s.2 <<< 1) ^^^ 0x1B else s.2 <<< 1)) (0, a)).1
def gfPow8 (a : Byte) : Nat → Byte
  | 0 => 1
  | n + 1 => gfMul8 a (gfPow8 a n)
/-- The AES substitution: inverse in the field, then the affine map. -/
def aesSub (a : Byte) : Byte :=
  let b := gfPow8 a 254
  b ^^^ b.rotateLeft 1 ^^^ b.rotateLeft 2 ^^^ b.rotateLeft 3 ^^^ b.rotateLeft 4 ^^^ 0x63

/-- Round keys: 60 words of 4 bytes, oldest first. -/
def aesExpand (key : List Byte) : List (List Byte) :=
  let w0 := (List.range 8).map (fun i => (key.drop (4 * i)).take 4)
  (List.range 52).foldl (fun ws j =>
    let i := j + 8
    let t := ws.getD (i - 1) []
    let t1 := if i % 8 = 0 then (match (t.drop 1 ++ t.take 1).map aesSub with
        | b :: r => (b ^^^ gfPow8 2 (i / 8 - 1)) :: r
        | [] => [])
      else if i % 8 = 4 then t.map aesSub else t
    ws ++ [List.zipWith (· ^^^ ·) (ws.getD (i - 8) []) t1]) w0

def xorBytes (a b : List Byte) : List Byte := List.zipWith (· ^^^ ·) a b
/-- The state is 16 bytes by columns. -/
def aesShift (s : List Byte) : List Byte :=
  (List.range 16).map (fun i => s.getD ((i + 4 * (i % 4)) % 16) 0)
def aesMix (s : List Byte) : List Byte :=
  (List.range 16).map (fun i =>
    let c (k : Nat) : Byte := s.getD (i / 4 * 4 + (i + k) % 4) 0
    gfMul8 2 (c 0) ^^^ gfMul8 3 (c 1) ^^^ c 2 ^^^ c 3)
/-- AES-256 of one block under expanded keys. -/
def aesBlock (ws : List (List Byte)) (block : List Byte) : List Byte :=
  let rk (r : Nat) : List Byte := ((ws.drop (4 * r)).take 4).flatten
  let s := (List.range 13).foldl (fun s r => xorBytes (aesMix (aesShift (s.map aesSub))) (rk (r + 1))) (xorBytes block (rk 0))
  xorBytes (aesShift (s.map aesSub)) (rk 14)

/-- Counter block of R495: IV followed by a 32-bit big-endian count. -/
def ctrBlock (ws : List (List Byte)) (iv : List Byte) (n : Nat) : List Byte := aesBlock ws (iv ++ beBytes 4 n)
/-- Counter-mode text of `bs` starting at block count `n`. -/
def ctrMode (ws : List (List Byte)) (iv : List Byte) (n : Nat) (bs : List Byte) : List Byte :=
  (List.range ((bs.length + 15) / 16)).flatMap (fun i => xorBytes ((bs.drop (16 * i)).take 16) (ctrBlock ws iv (n + i)))

/-- Multiplication in GF(2^128) in GCM's bit order: the first bit of a block is the coefficient of x^0. -/
def ghashMul (x y : BitVec 128) : BitVec 128 :=
  ((List.range 128).foldl (fun (s : BitVec 128 × BitVec 128) i =>
    let z := if x.getLsbD (127 - i) then s.1 ^^^ s.2 else s.1
    (z, if s.2.getLsbD 0 then (s.2 >>> 1) ^^^ (BitVec.ofNat 128 (0xE1 * 2 ^ 120)) else s.2 >>> 1)) (0, y)).1
def padTo16 (bs : List Byte) : List Byte := bs ++ List.replicate ((16 - bs.length % 16) % 16) 0
def gcmTag (key iv aad ct : List Byte) : List Byte :=
  let ws := aesExpand key
  let h : BitVec 128 := BitVec.ofNat 128 (beNat (aesBlock ws (List.replicate 16 0)))
  let m := padTo16 aad ++ padTo16 ct ++ beBytes 8 (8 * aad.length) ++ beBytes 8 (8 * ct.length)
  let y := (List.range (m.length / 16)).foldl (fun (y : BitVec 128) i =>
    ghashMul (y ^^^ BitVec.ofNat 128 (beNat ((m.drop (16 * i)).take 16))) h) 0
  xorBytes (beBytes 16 y.toNat) (ctrBlock ws iv 1)
/-- Decrypt and check the tag: none when it fails. -/
def gcmOpen (key iv aad ct tag : List Byte) : Option (List Byte) :=
  if gcmTag key iv aad ct = tag then some (ctrMode (aesExpand key) iv 2 ct) else none

/-! ### CRCs -/

/-- CRC-32C, reflected (R425). -/
def crc32c (bs : List Byte) : Nat :=
  let bit (c : W32) : W32 := if c.getLsbD 0 then (c >>> 1) ^^^ 0x82F63B78 else c >>> 1
  (~~~(bs.foldl (fun (c : W32) b => Nat.repeat bit 8 (c ^^^ b.setWidth 32)) 0xFFFFFFFF)).toNat

/-- CRC-16 with polynomial 0x1021 and initial value 0xFFFF, most significant bit first (R345). -/
def crc16 (bs : List Byte) : Nat :=
  let bit (c : W16) : W16 := if c.getLsbD 15 then (c <<< 1) ^^^ 0x1021 else c <<< 1
  (bs.foldl (fun (c : W16) b => Nat.repeat bit 8 (c ^^^ (BitVec.ofNat 16 (b.toNat * 256)))) (0xFFFF : W16)).toNat

/-- CRC-8 with polynomial 0x2F over bytes, most significant bit first, from an initial value. -/
def crc8 (init : Byte) (bs : List Byte) : Byte :=
  let bit (c : Byte) : Byte := if c.getLsbD 7 then (c <<< 1) ^^^ 0x2F else c <<< 1
  bs.foldl (fun (c : Byte) b => Nat.repeat bit 8 (c ^^^ b)) init

end Sys2Proof.Machine
end

