-- ==== Sys2Proof/Config.lean ====
section
/-! DEFINITION. What an implementation fixes and the spec leaves open: constants with no body. Nothing can
evaluate them; a claim that holds of the model holds whatever they are. -/
namespace Sys2Proof.Config

/-- A fresh value the spec leaves open, drawn with the state's draw counter (log entry 9). -/
opaque freeWord : Nat → W64
/-- A fresh byte the spec leaves open (an undefined 64-byte line of a transfer, R121; log entry 9). -/
opaque freeByte : Nat → Byte
/-- The next state of the 64-bit maximal-length generator of R76: the spec gives no polynomial. -/
opaque lfsrNext : W64 → W64
/-- The 16 random bits the generator gives for one element (R75, R76). -/
opaque lfsrBits : W64 → W16
/-- The FP32 result of an approximate function of R70 on an input that is no special input: the spec bounds
its error and fixes no value. First argument: 0 exp2, 1 log2, 2 reciprocal, 3 reciprocal square root, 4 sine, 5 cosine. -/
opaque vfn : Nat → W32 → W32
/-- The integer VABS or VNEG of a lane whose exact result lies outside the lane type: R99 states none.
Arguments: the lane type's code, the lane. -/
opaque vabsOut : Nat → Nat → Nat

/-- The exponential of R239, R240 and R250 on a finite FP32 argument: a relative error bound, no value. -/
opaque fexp : W32 → W32
/-- atan2 of R239. -/
opaque fatan2 : W32 → W32 → W32
/-- The natural logarithm of R265 on a positive finite FP32 argument. -/
opaque fln : W32 → W32
/-- The intersection area of two rotated rectangles (R242): clipping and shoelace in FP32, in no stated order. -/
opaque rotInter : List Nat → List Nat → Nat
/-- A colour that edge-directed demosaic interpolates (R235 step 3), from the colour wanted, the CFA position and
the 5 x 5 window: the spec names the method and no formula. -/
opaque edgeColour : Nat → Nat → List Nat → Nat
/-- The average of a pooling window that counts no position (R232 states no result), from the output index. -/
opaque emptyAverage : Nat → Nat
/-- Does a compressing DMA write read 2-byte elements as FP16 where it looks for a NaN (R221, R224)? The
descriptor does not say which 16-bit form they are. -/
opaque dmaHalfIsF16 : Bool

/-- What a byte of a die's memory holds after the n-th loss of its contents (R339: undefined at every address; R158: lost). -/
opaque dramByte : Nat → Nat → Byte

/-- The YAW or SPEED field of a CAN FD point whose value its 16 bits cannot hold (R425). Arguments: 0 yaw or 1 speed, the FP16 code. -/
opaque canField : Nat → Nat → W16

/-- A local-store byte, and register `i`, of a core that an earlier job of the same partition left (R54): undefined. The first argument
is a draw. -/
opaque lsByte : Nat → Nat → Byte
opaque regBits : Nat → Nat → BitVec 512

/-- Which free model slot a load takes, by a draw: R133 names none. -/
opaque slotPick : Nat → Nat
/-- The bindings a tensor map declares (R131, R136): index, permissions needed (bit 0 read, bit 1 write), and whether it is a key-value
sequence. The spec gives the map no layout (log entry 50). -/
opaque tensorBinds : List Byte → List (Nat × Nat × Bool)
/-- Offsets of the Window Engine commands in an engine-stream section, which the spec gives no layout (R131, R133 check 7; log entry 50). -/
opaque streamCommands : List Byte → List Nat

/-- The secret scalars of the identity, attestation and wrap keys (0, 1, 2) of a key generation: no one outside the device knows them
(R492). -/
opaque secretScalar : Nat → Nat → Nat
/-- The DER certificates of the three keys (R492). -/
opaque certificate : Nat → Nat → List Byte
/-- The random scalar of a signature (R492). -/
opaque signScalar : List Byte → Nat

/-- The die field of a Cairn ticket: R113 gives the field a die and Cairn stands on none of the Course dies. -/
opaque cairnTicketDie : BitVec 3

/-- The increment and the slew, in units of 2^−32 ns, that the Plumb servo chooses at a draw: R389 and R395 name its gains and state no
formula. -/
opaque servoIncr : Nat → Nat
opaque servoSlew : Nat → Int

/-- The image of the fuse array, other than its hardware keys, that a quote digests (R493), from the fields one after the other in the order
of R484: the spec gives the array no layout. -/
opaque fuseLayout : List Byte → List Byte

/-- Helbiquin's JEDEC manufacturer identity code in IDCODE (R510): the spec does not print it. -/
opaque jedecCode : BitVec 11

end Sys2Proof.Config
end

