-- ==== Sys2Proof/Machine/Hw.lean ====
section
/-! DEFINITION. The package: which part it is, its dies and links, and the device-physical address map
(R22–R41). -/
namespace Sys2Proof.Machine

/-- The three parts (R30). -/
inductive PartNo where
  | c4 | c3 | c2
  deriving DecidableEq, Repr

/-- The hardware a machine is: its part and the stepping code of each die (R23, R547). Nothing changes it. -/
structure Hw where
  part : PartNo
  /-- stepping codes of C0–C3 -/
  course : List Nat
  keystone : Nat
  quoin : Nat
  deriving DecidableEq, Repr

/-- Course dies of the part (R30). -/
def Hw.dies (h : Hw) : Nat :=
  match h.part with
  | .c4 => 4 | .c3 => 3 | .c2 => 2

/-- The PCI device ID (R163). -/
def Hw.deviceId (h : Hw) : Nat :=
  match h.part with
  | .c4 => 0xA4C4 | .c3 => 0xA4C3 | .c2 => 0xA4C2

/-- Stepping code of a die by die code; A1 is 0x01, B0 is 0x10 (R11, R547). -/
def Hw.stepping (h : Hw) (die : Nat) : Nat :=
  if die < 4 then h.course.getD die 0 else if die = 8 then h.keystone else h.quoin

def dramDie : Nat := 0x800000000
def mortarBase (n : Nat) : Nat := 0x4000000000 + n * 0x100000000
def mortarSize : Nat := 0x4000000
def regBase : Nat := 0xF000000000
def regSize : Nat := 0x2000000

/-- What an address of R35's map reaches. -/
inductive Place where
  | dram (die : Nat)
  | mortar (die : Nat)
  | regs
  | nothing
  deriving DecidableEq, Repr

/-- The address map (R35, R37): a reserved range, or a die the part lacks, is nothing. -/
def placeOf (h : Hw) (a : Nat) : Place :=
  if a < 0x2000000000 then
    if a / dramDie < h.dies then .dram (a / dramDie) else .nothing
  else if 0x4000000000 ≤ a ∧ a < 0x4400000000 then
    if (a - 0x4000000000) / 0x100000000 < h.dies ∧ a % 0x100000000 < mortarSize
    then .mortar ((a - 0x4000000000) / 0x100000000) else .nothing
  else if regBase ≤ a ∧ a < regBase + regSize then .regs
  else .nothing

/-- The Course die that holds an address. -/
def Place.die : Place → Option Nat
  | .dram n => some n
  | .mortar n => some n
  | _ => none

def Place.isDram : Place → Bool
  | .dram _ => true
  | _ => false
def Place.isMem : Place → Bool
  | .dram _ => true
  | .mortar _ => true
  | _ => false

/-- Does the whole range [a, a+n) lie in one kind of place: all DRAM, all in one die's Mortar, or all register
space? The DRAM of neighbouring present dies is contiguous. -/
def rangeKind (h : Hw) (a n : Nat) : Place :=
  match placeOf h a, placeOf h (a + n - 1) with
  | .dram d, .dram _ => .dram d
  | .mortar d, .mortar e => if d = e then .mortar d else .nothing
  | .regs, .regs => .regs
  | _, _ => .nothing

/-- A range inside device DRAM. -/
def inDram (h : Hw) (a n : Nat) : Bool := (rangeKind h a n).isDram
/-- A range inside device DRAM or one Mortar. -/
def inMem (h : Hw) (a n : Nat) : Bool := (rangeKind h a n).isMem

/-- Stack and address within it for a DRAM address (R36): interleaved, or linear. -/
def stackOf (linear : Bool) (a : Nat) : Nat × Nat :=
  let n := a / dramDie
  let o := a % dramDie
  if linear then (2 * n + o / 2 ^ 34, o % 2 ^ 34)
  else (2 * n + o / 4096 % 2, o / 8192 * 4096 + o % 4096)

/-- The DRAM address of a stack address: the inverse of `stackOf`. -/
def stackAddr (linear : Bool) (st sa : Nat) : Nat :=
  if linear then st / 2 * dramDie + st % 2 * 2 ^ 34 + sa
  else st / 2 * dramDie + sa / 4096 * 8192 + st % 2 * 4096 + sa % 4096

/-! ### Dies and links (R26–R28). Port codes: 0 east, 1 west, 2 spoke (R112). -/

/-- Is the port connected in the part? -/
def connected (h : Hw) (die port : Nat) : Bool :=
  if h.dies ≤ die ∨ 3 ≤ port then false
  else if port = 2 then true
  else match h.part with
    | .c4 => true
    | .c3 => if port = 0 then decide (die < 2) else decide (0 < die)
    | .c2 => if port = 0 then die == 0 else die == 1

/-- The neighbour over a ring port. -/
def neighbour (h : Hw) (die port : Nat) : Nat :=
  if port = 0 then (die + 1) % h.dies else (die + h.dies - 1) % h.dies

/-- Ring hops from one die to another leaving by the east, and by the west (none where the chain ends). -/
def hopsEast (h : Hw) (a b : Nat) : Option Nat :=
  if h.part = .c4 then some ((b + 4 - a) % 4) else if a ≤ b then some (b - a) else none
def hopsWest (h : Hw) (a b : Nat) : Option Nat :=
  if h.part = .c4 then some ((a + 4 - b) % 4) else if b ≤ a then some (a - b) else none

/-- Cluster bit n·8 + c of a placement. -/
def clusterBit (mask die c : Nat) : Bool := bitOf mask (8 * die + c)

/-- Global core IDs of the clusters in a mask (R23), in rising order. -/
def coresOf (mask : Nat) : List Nat :=
  (List.range 32).flatMap (fun k =>
    if bitOf mask k then (List.range 128).map (fun i => k / 8 * 1024 + k % 8 * 128 + i) else [])

def coreDie (gid : Nat) : Nat := gid / 1024
def coreCluster (gid : Nat) : Nat := gid / 128 % 8
def coreIndex (gid : Nat) : Nat := gid % 128
/-- Global number of the cluster of a core: 8n + c. -/
def coreClusterBit (gid : Nat) : Nat := gid / 128

/-- Engines named in an ENGINES mask: die and engine (R137). -/
def enginesOf (mask : Nat) : List (Nat × Nat) :=
  (List.range 16).filterMap (fun k => if bitOf mask k then some (k / 4, k % 4) else none)

/-- Every bit of `a` is in `b`. -/
def subMask (a b : Nat) : Bool := a &&& b == a

/-- The mirror partner of a die (R30). -/
def mirrorPartner (h : Hw) (die : Nat) : Nat :=
  match h.part with
  | .c4 => (die + 2) % 4
  | .c3 => if die = 0 then 2 else 0
  | .c2 => 1 - die

end Sys2Proof.Machine
end

