-- ==== Sys2Proof/Machine/DebugState.lean ====
section
/-! DEFINITION. The state of the test port, the debugger, the online test and the Gauge counters (R509–R530). -/
namespace Sys2Proof.Machine

/-- The test logic of one die (R509–R512). -/
structure TapDie where
  /-- instruction in effect -/
  instr : Nat
  refused : Bool
  bypassed : Bool
  deriving DecidableEq, Repr

/-- Test reset selects IDCODE (R510). -/
def TapDie.reset : TapDie := { instr := 0x01, refused := false, bypassed := false }

/-- Breakpoints and watchpoints of a core (R515): enabled PCs; enabled ranges, start and end. -/
structure Points where
  bp : List (Option Nat)
  wp : List (Option (Nat × Nat))
  deriving DecidableEq, Repr

def Points.none : Points := { bp := [Option.none, Option.none, Option.none, Option.none], wp := [Option.none, Option.none] }

/-- The core debug instrument of a Course die: the core it names on this die, whether that core's context was torn down since, and
whether the last request was refused. -/
structure CoreDebug where
  core : Nat
  detached : Bool
  refused : Bool
  deriving DecidableEq, Repr

def CoreDebug.reset : CoreDebug := { core := 0, detached := false, refused := false }

inductive OtSt where
  | inService | isolated | underTest
  deriving DecidableEq, Repr

def OtSt.code : OtSt → Nat
  | .inService => 0 | .isolated => 1 | .underTest => 2

/-- A unit of the online test (R519, R529). -/
structure OtUnit where
  st : OtSt
  /-- released while fenced: it stays isolated until it is re-admitted (R520) -/
  released : Bool
  result : Nat
  detail : Nat
  deriving DecidableEq, Repr

def OtUnit.reset : OtUnit := { st := .inService, released := false, result := 0, detail := 0 }

/-- The Gauge central reader. -/
structure Gauge where
  /-- event selections of block counters, key 16·block + counter -/
  blkEvt : FMap Nat
  /-- counters, key 16·core + j, and 16·block + i -/
  core : FMap Nat
  blk : FMap Nat
  /-- cycles a core's counter starts from -/
  base : FMap Nat
  wrapped : FMap Bool
  readHi : W32
  /-- SNAP_SEQ of the last snapshot written -/
  seq : W32
  skipped : Nat
  /-- skipped since the last one written -/
  skippedNow : Nat
  busy : Bool
  toldTick : Option Nat
  lastSnapNs : Nat
  deriving DecidableEq, Repr

def Gauge.reset : Gauge :=
  { blkEvt := [], core := [], blk := [], base := [], wrapped := [], readHi := 0, seq := 0xFFFFFFFF, skipped := 0, skippedNow := 0,
    busy := false, toldTick := none, lastSnapNs := 0 }

structure Debug where
  tap : FMap TapDie
  points : FMap Points
  dies : FMap CoreDebug
  /-- what halted each core: 1 HALT, 2 a breakpoint, 3 a watchpoint, 4 HALT_CONTEXT -/
  cause : FMap Nat
  ot : FMap OtUnit
  deriving DecidableEq, Repr

def Debug.reset : Debug := { tap := [], points := [], dies := [], cause := [], ot := [] }

end Sys2Proof.Machine
end

