-- ==== Sys2Proof/Machine/CoreRegs.lean ====
section
/-! DEFINITION. The register state of one Ashlar core (R42) and the fault causes of R125. -/
namespace Sys2Proof.Machine

/-- The fault causes of R125. -/
inductive SedunFault where
  | illegalOpcode | reservedField | registerKind | typeCombination | lsAddress | misaligned | fetch
  | dmaAddress | dmaDescriptor | semaphore | heldAtBoundary | yieldIndex | credit | engine | epoch
  | gauge | divideZero | atomicAddress
  deriving DecidableEq, Repr

/-- The code of a cause, as ASH_CORE_STATE.FAULT shows it (R125). -/
def SedunFault.code : SedunFault → Nat
  | .illegalOpcode => 0x01 | .reservedField => 0x02 | .registerKind => 0x03 | .typeCombination => 0x04
  | .lsAddress => 0x05 | .misaligned => 0x06 | .fetch => 0x07 | .dmaAddress => 0x08 | .dmaDescriptor => 0x09
  | .semaphore => 0x0A | .heldAtBoundary => 0x0B | .yieldIndex => 0x0C | .credit => 0x0D | .engine => 0x0E
  | .epoch => 0x0F | .gauge => 0x10 | .divideZero => 0x11 | .atomicAddress => 0x12

/-- The registers of one core (R42): 32 scalar registers of 64 bits, 16 address registers of 48, 8 predicates
of 64, 64 vector registers of 512 with their 128-bit sidebands, 4 tiles of 16 rows of 512 bits (row r of tile t
at key 16·t + r), the five sticky flags and the generator. Unlisted registers hold 0. -/
structure Regs where
  s : FMap (BitVec 64)
  a : FMap (BitVec 48)
  p : FMap (BitVec 64)
  v : FMap (BitVec 512)
  side : FMap (BitVec 128)
  t : FMap (BitVec 512)
  flags : BitVec 5
  lfsr : BitVec 64
  deriving DecidableEq, Repr

/-- Every register zero: what zeroing leaves (R54), and the model's choice for registers at reset. -/
def Regs.zero : Regs := ⟨[], [], [], [], [], [], 0, 0⟩

end Sys2Proof.Machine
end

