-- ==== Sys2Proof/Machine/CoreState.lean ====
section
/-! DEFINITION. Everything one Ashlar core holds beside its registers: local store, program counter, checkpoint,
DMA queue, what it waits for, borrows and tickets (R42, R50, R86, R93, R113, R116, R119). -/
namespace Sys2Proof.Machine

/-- A checkpoint buffer (R119): the registers of the live-range entry, the PC after the YLD, the watched ranges. -/
structure Checkpoint where
  /-- yield index of the YLD that took it -/
  index : Nat
  /-- the instruction after the YLD -/
  pc : BitVec 48
  /-- the REGS mask of the live-range entry (R132) -/
  mask : BitVec 128
  regs : Regs
  /-- watched local-store ranges: first byte and length -/
  ranges : List (Nat × Nat)
  deriving DecidableEq, Repr

/-- A save slot in the partition's save area (R154): the checkpoint and the bytes of its ranges, which only the
device reads and writes. -/
structure SaveSlot where
  ck : Checkpoint
  bytes : List (Nat × List Byte)
  deriving DecidableEq, Repr

/-- One descriptor of a core's DMA queue (R106), its source as it stood at issue (R121). -/
structure DmaEntry where
  /-- 0 read, 1 write, 2 multicast read, 3 key-value append -/
  kind : Nat
  /-- element size in bytes -/
  es : Nat
  comp : Bool
  /-- 4:1 compression -/
  ratio : Bool
  credit : Bool
  ls : Nat
  remote : Nat
  n0 : Nat
  n1 : Nat
  n2 : Nat
  rs0 : Int
  rs1 : Int
  rs2 : Int
  ls0 : Int
  ls1 : Int
  ls2 : Int
  /-- TARGET: multicast mask, or the named sequence, layer, head group and key/value bit -/
  target : Nat
  /-- the source bytes of a write or append, dimension 0 innermost -/
  data : List Byte
  /-- 64-byte local-store lines stored to since the descriptor issued (R121) -/
  taint : List Nat
  /-- a multicast read has started (R108) -/
  started : Bool
  deriving DecidableEq, Repr

/-- The instruction a core is held in. -/
inductive Wait where
  | none
  /-- DMA to a full queue (R50) -/
  | dma (f : FmtX)
  | dmaw (f : FmtX)
  /-- SEMA queued at semaphore `num` (R110) -/
  | sema (f : FmtX) (num : Nat)
  /-- a release or full fence waiting for the core's earlier DMA writes (R123) -/
  | semr (f : FmtX)
  | amo (f : FmtX)
  | mwait (f : FmtX)
  | fence (f : FmtX)
  /-- a yielding YLD draining its DMA queue (R118) -/
  | yld (f : FmtC)
  /-- END waiting for its queue and tickets (R120) -/
  | ends (f : FmtC)
  /-- EISS waiting for earlier writes or for a queue slot (R113, R123) -/
  | eiss (f : FmtE)
  | ewait (f : FmtE)
  | epwait (f : FmtE)
  | eprslv (f : FmtE)
  | crdb (f : FmtE)
  deriving DecidableEq, Repr

/-- What a core is doing (R86); waiting is running with a `Wait`. -/
inductive CoreSt where
  | idle | running | zeroing | underTest | poweredDown
  /-- stopped at a yield point or by a rollback, its state saved (R118, R154) -/
  | saved
  deriving DecidableEq, Repr

/-- One Ashlar core. -/
structure Core where
  regs : Regs
  /-- 256 KiB local store: core addresses 0x0_0000–0x3_FFFF (R42) -/
  ls : FMap Byte
  /-- the local store holds undefined bytes where nothing has been written since: the mask they read under (R54); 0 after
  zeroing -/
  lsGen : Nat
  /-- zeroed, and no job has run on it since -/
  fresh : Bool
  pc : BitVec 48
  st : CoreSt
  /-- the fault cause of ASH_CORE_STATE (R86, R125) -/
  fault : BitVec 8
  /-- the job context the core works for, while it runs one -/
  ctx : Option Nat
  /-- the partition that last ran on the core (R54) -/
  lastPart : Option Nat
  ckpt : Option Checkpoint
  /-- the DMA queue, oldest first: at most 16 (R50) -/
  dma : List DmaEntry
  wait : Wait
  /-- borrowed credits: port and flits; a borrow of zero counts (R116) -/
  borrow : FMap (Option Nat)
  /-- tickets the core issued and has not discarded (R120) -/
  tickets : List Nat
  /-- the last TIME result: successive reads never decrease (R115) -/
  lastTime : Nat
  /-- ticks of the corrected local-store errors of the last second (R87) -/
  ceTicks : List Nat
  /-- halted by the debug unit (R515) -/
  halted : Bool
  /-- tick at which the present wait over an Arch link began (R154) -/
  remoteSince : Option Nat
  deriving DecidableEq, Repr

/-- A core as it is at reset: powered down (ASH_CORE_STATE 0x6000_0000, R81), every register zero. -/
def Core.off : Core :=
  { regs := Regs.zero, ls := [], lsGen := 0, fresh := false, pc := 0, st := .poweredDown, fault := 0, ctx := none, lastPart := none,
    ckpt := none, dma := [], wait := .none, borrow := [], tickets := [], lastTime := 0, ceTicks := [],
    halted := false, remoteSince := none }

end Sys2Proof.Machine
end

