-- ==== Sys2Proof/Machine/Flags.lean ====
section
/-! DEFINITION. The sticky arithmetic flags of a core (R77), held in the order FLGR reads them: NV, OF, UF,
SAT, SNAN from bit 0 up (R112). -/
namespace Sys2Proof.Machine

/-- The five sticky flags, NV in bit 0 (R112). -/
abbrev Flags := BitVec 5

def Flags.none : Flags := 0
def Flags.nv : Flags := 1
def Flags.ovf : Flags := 2
def Flags.uf : Flags := 4
def Flags.sat : Flags := 8
def Flags.snan : Flags := 16

/-- The flag `f` where `c` holds. -/
def Flags.when (c : Bool) (f : Flags) : Flags := if c then f else 0

/-- All flags a list of lanes raised. -/
def Flags.all : List Flags → Flags
  | [] => 0
  | f :: fs => f ||| Flags.all fs

end Sys2Proof.Machine
end

