-- ==== Sys2Proof/Machine/Float.lean ====
section
/-! DEFINITION. The number formats (R59–R63) and their exact arithmetic: a code is read as an exact value
`± m · 2^e`, every operation works on exact values, and one rounding at the end writes the destination
format (R68, R70–R75). -/
namespace Sys2Proof.Machine

/-- The element types of R92. -/
inductive ElemType where
  | i8 | u8 | i4 | i32 | e4m3 | e5m2 | e3m2 | e2m3 | e2m1 | bf16 | f16 | f32 | mxi8
  deriving DecidableEq, Repr

/-- The element type of a 4-bit code; codes 0xD–0xF are reserved (R92). -/
def ElemType.ofCode (c : Nat) : Option ElemType :=
  match c with
  | 0 => some .i8 | 1 => some .u8 | 2 => some .i4 | 3 => some .i32 | 4 => some .e4m3 | 5 => some .e5m2
  | 6 => some .e3m2 | 7 => some .e2m3 | 8 => some .e2m1 | 9 => some .bf16 | 10 => some .f16
  | 11 => some .f32 | 12 => some .mxi8 | _ => none

/-- The lane width of R44: FP6 elements are held one per byte. -/
def ElemType.width : ElemType → Nat
  | .i4 | .e2m1 => 4
  | .i8 | .u8 | .e4m3 | .e5m2 | .e3m2 | .e2m3 | .mxi8 => 8
  | .bf16 | .f16 => 16
  | .i32 | .f32 => 32

def ElemType.isInt : ElemType → Bool
  | .i8 | .u8 | .i4 | .i32 => true
  | _ => false

def ElemType.isFloat : ElemType → Bool
  | .e4m3 | .e5m2 | .e3m2 | .e2m3 | .e2m1 | .bf16 | .f16 | .f32 => true
  | _ => false

/-- The MX element types (R62, R105). -/
def ElemType.isMx : ElemType → Bool
  | .e4m3 | .e5m2 | .e3m2 | .e2m3 | .e2m1 | .mxi8 => true
  | _ => false

/-- The types of the vector unit's arithmetic (R99). -/
def ElemType.isVector : ElemType → Bool
  | .i8 | .u8 | .i32 | .bf16 | .f16 | .f32 => true
  | _ => false

/-- The exact value a code stands for. -/
inductive FV where
  /-- A NaN; `sig` says it is a signalling one. -/
  | nan (sig : Bool)
  | inf (neg : Bool)
  /-- `(-1)^neg · m · 2^e`. -/
  | fin (neg : Bool) (m : Nat) (e : Int)
  deriving DecidableEq, Repr

/-- How a format spends its top codes (R60). -/
inductive TopCodes where
  | ieee | e4m3 | finite
  deriving DecidableEq, Repr

/-- A row of R60's table. -/
structure FFmt where
  eb : Nat
  mb : Nat
  bias : Int
  top : TopCodes
  deriving DecidableEq, Repr

/-- R60's table. MXINT8 and the integer types are no floating formats; they get FP32's row and no caller asks. -/
def ElemType.fmt : ElemType → FFmt
  | .bf16 => ⟨8, 7, 127, .ieee⟩
  | .f16 => ⟨5, 10, 15, .ieee⟩
  | .e5m2 => ⟨5, 2, 15, .ieee⟩
  | .e4m3 => ⟨4, 3, 7, .e4m3⟩
  | .e3m2 => ⟨3, 2, 3, .finite⟩
  | .e2m3 => ⟨2, 3, 1, .finite⟩
  | .e2m1 => ⟨2, 1, 1, .finite⟩
  | _ => ⟨8, 23, 127, .ieee⟩

/-- The exponent of the least subnormal unit. -/
def FFmt.qmin (f : FFmt) : Int := 1 - f.bias - f.mb

/-- The magnitude code of the largest finite value (R60). -/
def FFmt.maxCode (f : FFmt) : Nat :=
  match f.top with
  | .ieee => (2 ^ f.eb - 1) * 2 ^ f.mb - 1
  | .e4m3 => 2 ^ (f.eb + f.mb) - 2
  | .finite => 2 ^ (f.eb + f.mb) - 1

/-- The canonical NaN of R61. -/
def FFmt.canonNaN (f : FFmt) : Nat :=
  match f.top with
  | .ieee => (2 ^ f.eb - 1) * 2 ^ f.mb + 2 ^ (f.mb - 1)
  | .e4m3 => 2 ^ (f.eb + f.mb) - 1
  | .finite => 0

def FFmt.signBit (f : FFmt) : Nat := 2 ^ (f.eb + f.mb)

/-- Read a code of a floating format (R60, R61). Bits above the format's width are not read. -/
def FFmt.decode (f : FFmt) (x : Nat) : FV :=
  match f.top with
  | .ieee =>
    if (x >>> f.mb) % 2 ^ f.eb = 2 ^ f.eb - 1 then
      if x % 2 ^ f.mb = 0 then .inf (bitOf x (f.eb + f.mb))
      else .nan (decide (x % 2 ^ f.mb < 2 ^ (f.mb - 1)))
    else if (x >>> f.mb) % 2 ^ f.eb = 0 then .fin (bitOf x (f.eb + f.mb)) (x % 2 ^ f.mb) f.qmin
    else .fin (bitOf x (f.eb + f.mb)) (2 ^ f.mb + x % 2 ^ f.mb) (f.qmin + ((x >>> f.mb) % 2 ^ f.eb : Nat) - 1)
  | .e4m3 =>
    if x % 2 ^ (f.eb + f.mb) = 2 ^ (f.eb + f.mb) - 1 then .nan false
    else if (x >>> f.mb) % 2 ^ f.eb = 0 then .fin (bitOf x (f.eb + f.mb)) (x % 2 ^ f.mb) f.qmin
    else .fin (bitOf x (f.eb + f.mb)) (2 ^ f.mb + x % 2 ^ f.mb) (f.qmin + ((x >>> f.mb) % 2 ^ f.eb : Nat) - 1)
  | .finite =>
    if (x >>> f.mb) % 2 ^ f.eb = 0 then .fin (bitOf x (f.eb + f.mb)) (x % 2 ^ f.mb) f.qmin
    else .fin (bitOf x (f.eb + f.mb)) (2 ^ f.mb + x % 2 ^ f.mb) (f.qmin + ((x >>> f.mb) % 2 ^ f.eb : Nat) - 1)

/-- The exact value of an element of a floating type or of MXINT8 (implied factor 2^−6, R62). -/
def ElemType.decode (t : ElemType) (x : Nat) : FV :=
  match t with
  | .mxi8 => .fin (bitOf x 7) (sext 8 x).natAbs (-6)
  | _ => t.fmt.decode x

/-- The integer a lane of an integer type holds (R59). -/
def ElemType.int (t : ElemType) (x : Nat) : Int :=
  match t with
  | .u8 => ((x % 256 : Nat) : Int)
  | _ => sext t.width x

def ElemType.intLo : ElemType → Int
  | .u8 => 0 | .i4 => -8 | .i32 => -2147483648 | _ => -128
def ElemType.intHi : ElemType → Int
  | .u8 => 255 | .i4 => 7 | .i32 => 2147483647 | _ => 127

/-- The exact value of an integer. -/
def FV.ofInt (x : Int) : FV := .fin (decide (x < 0)) x.natAbs 0

def FV.isNaN : FV → Bool
  | .nan _ => true
  | _ => false
def FV.isSig : FV → Bool
  | .nan s => s
  | _ => false
def FV.isInf : FV → Bool
  | .inf _ => true
  | _ => false
def FV.isZero : FV → Bool
  | .fin _ m _ => m == 0
  | _ => false
def FV.sign : FV → Bool
  | .nan _ => false
  | .inf n => n
  | .fin n _ _ => n
def FV.neg : FV → FV
  | .nan s => .nan s
  | .inf n => .inf (!n)
  | .fin n m e => .fin (!n) m e
/-- Multiply by a power of two: exact (R68 step 3). -/
def FV.scale (k : Int) : FV → FV
  | .fin n m e => .fin n m (e + k)
  | v => v

/-- `± m` as an integer. -/
def signed (n : Bool) (m : Nat) : Int := if n then -(m : Int) else (m : Int)

/-- The exact sum (IEEE 754-2019): an exact zero sum is +0 unless both terms are −0; a NaN operand or
infinities of opposite sign give a NaN, the second with NV (R69, R70). -/
def FV.add (a b : FV) : FV × Flags :=
  match a, b with
  | .nan s, .nan t => (.nan false, Flags.when (s || t) .nv)
  | .nan s, _ => (.nan false, Flags.when s .nv)
  | _, .nan s => (.nan false, Flags.when s .nv)
  | .inf n, .inf k => if n = k then (.inf n, 0) else (.nan false, .nv)
  | .inf n, _ => (.inf n, 0)
  | _, .inf n => (.inf n, 0)
  | .fin n m e, .fin k l g =>
    let lo := if e ≤ g then e else g
    let x := signed n (m * 2 ^ (e - lo).toNat) + signed k (l * 2 ^ (g - lo).toNat)
    if x = 0 then (.fin (n && k) 0 lo, 0) else (.fin (decide (x < 0)) x.natAbs lo, 0)

/-- The exact product: infinity × 0 is a NaN with NV (R69). -/
def FV.mul (a b : FV) : FV × Flags :=
  match a, b with
  | .nan s, .nan t => (.nan false, Flags.when (s || t) .nv)
  | .nan s, _ => (.nan false, Flags.when s .nv)
  | _, .nan s => (.nan false, Flags.when s .nv)
  | .inf n, .inf k => (.inf (n != k), 0)
  | .inf n, .fin k l _ => if l = 0 then (.nan false, .nv) else (.inf (n != k), 0)
  | .fin n m _, .inf k => if m = 0 then (.nan false, .nv) else (.inf (n != k), 0)
  | .fin n m e, .fin k l g => (.fin (n != k) (m * l) (e + g), 0)

/-- Exact comparison of finite magnitudes-with-sign: `a − b` as an integer at a common scale. -/
def FV.diff (a b : FV) : Int :=
  match a, b with
  | .fin n m e, .fin k l g =>
    let lo := if e ≤ g then e else g
    signed n (m * 2 ^ (e - lo).toNat) - signed k (l * 2 ^ (g - lo).toNat)
  | .inf n, .inf k => (if n then -1 else 1) - (if k then -1 else 1)
  | .inf n, _ => if n then -1 else 1
  | _, .inf k => if k then 1 else -1
  | _, _ => 0

/-- Numeric order; −0 equals +0 (R60). Neither side is a NaN. -/
def FV.lt (a b : FV) : Bool := decide (FV.diff a b < 0)
def FV.eq (a b : FV) : Bool := decide (FV.diff a b = 0)
/-- Order of the minimum and maximum operations: −0 below +0 (R70). -/
def FV.below (a b : FV) : Bool := FV.lt a b || (FV.eq a b && a.sign && !b.sign)

/-- Rounding of an exact value to the destination precision: nearest, ties to even (R71), or stochastic
with 16 random bits (R75). `k` is how many bits below the destination's unit the value carries. -/
def roundBits (sr : Option W16) (m k : Nat) : Nat :=
  match sr with
  | none => rneShift m k
  | some r =>
    let t := if 16 ≤ k then m / 2 ^ (k - 16) else m * 2 ^ (16 - k)
    (t + r.toNat) / 2 ^ 16

/-- `m · 2^e` on a grid of unit `2^q`: the count of units after rounding. -/
def roundGrid (sr : Option W16) (m : Nat) (e q : Int) : Nat :=
  if q ≤ e then m * 2 ^ (e - q).toNat else roundBits sr m (q - e).toNat

/-- Is `m · 2^e` a multiple of `2^q`? -/
def onGrid (m : Nat) (e q : Int) : Bool := if q ≤ e then true else m % 2 ^ (q - e).toNat == 0

/-- The magnitude code of `n` units of `2^q`, `n ≤ 2^(mb+1)`: codes of one sign rise with the value. -/
def FFmt.code (f : FFmt) (n : Nat) (q : Int) : Nat :=
  if n = 0 then 0
  else if n < 2 ^ f.mb then n
  else (q - f.qmin).toNat * 2 ^ f.mb + n

/-- The unit a value of leading exponent `lead` is rounded on. -/
def FFmt.unit (f : FFmt) (lead : Int) : Int := if lead - f.mb < f.qmin then f.qmin else lead - f.mb

/-- Is the value, rounded as if the exponent range were unbounded, nonzero and below min normal (R77)? -/
def FFmt.tiny (f : FFmt) (sr : Option W16) (m : Nat) (e : Int) : Bool :=
  let lead := e + (Nat.log2 m : Int)
  if 1 - f.bias ≤ lead then false
  else if lead < -f.bias then true
  else !(roundGrid sr m e (lead - f.mb) == 2 ^ (f.mb + 1))

/-- What becomes of a value beyond max finite, and of an infinity (R72, R549). -/
inductive Over where
  /-- arithmetic and the non-saturating mode -/
  | plain
  /-- the saturating mode of a conversion -/
  | sat
  deriving DecidableEq, Repr

def FFmt.sgn (f : FFmt) (neg : Bool) (code : Nat) : Nat := if neg then code + f.signBit else code

/-- The overflow rows of R72; a result beyond max finite of an IEEE format without saturation is the infinity. -/
def FFmt.overflow (f : FFmt) (o : Over) (neg : Bool) : Nat × Flags :=
  match f.top, o with
  | .finite, _ => (f.sgn neg f.maxCode, .ovf)
  | _, .sat => (f.sgn neg f.maxCode, .ovf)
  | .ieee, .plain => (f.sgn neg ((2 ^ f.eb - 1) * 2 ^ f.mb), .ovf)
  | .e4m3, .plain => (f.canonNaN, .ovf ||| .nv)

/-- The infinity rows of R72. -/
def FFmt.infinity (f : FFmt) (o : Over) (neg : Bool) : Nat × Flags :=
  match f.top, o with
  | .finite, _ => (f.sgn neg f.maxCode, .ovf)
  | _, .sat => (f.sgn neg f.maxCode, .ovf)
  | .ieee, .plain => (f.sgn neg ((2 ^ f.eb - 1) * 2 ^ f.mb), 0)
  | .e4m3, .plain => (f.canonNaN, .nv)

/-- The NaN rows of R72. -/
def FFmt.nanCode (f : FFmt) (sig : Bool) : Nat × Flags :=
  match f.top with
  | .finite => (0, .nv)
  | _ => (f.canonNaN, Flags.when sig .nv)

/-- Write an exact value in a floating format: the one rounding of R71 or R75, then R72 and the flags of R77. -/
def FFmt.encode (f : FFmt) (o : Over) (sr : Option W16) (v : FV) : Nat × Flags :=
  match v with
  | .nan s => f.nanCode s
  | .inf n => f.infinity o n
  | .fin n m e =>
    if m = 0 then (f.sgn n 0, 0)
    else
      let q := f.unit (e + (Nat.log2 m : Int))
      let code := f.code (roundGrid sr m e q) q
      if f.maxCode < code then f.overflow o n
      else (f.sgn n code, Flags.when (f.tiny sr m e && !onGrid m e q) .uf)

/-- Conversion to a `w`-bit integer range: nearest, ties to even; beyond the range or an infinity gives the
end of the same sign with SAT; a NaN gives 0 with NV (R71). -/
def FV.toInt (v : FV) (lo hi : Int) : Int × Flags :=
  match v with
  | .nan _ => (0, .nv)
  | .inf n => (if n then lo else hi, .sat)
  | .fin n m e =>
    let x := signed n (roundGrid none m e 0)
    if x < lo then (lo, .sat) else if hi < x then (hi, .sat) else (x, 0)

/-- IEEE 754-2019 minimum or maximum of two codes (R70). -/
def FFmt.minmax (f : FFmt) (wantMin : Bool) (x y : Nat) : Nat × Flags :=
  let a := f.decode x
  let b := f.decode y
  if a.isNaN || b.isNaN then (f.canonNaN, Flags.when (a.isSig || b.isSig) .nv)
  else if FV.below b a == wantMin && !(FV.eq a b && a.sign == b.sign) then (y, 0) else (x, 0)

/-- The comparison conditions of R98 on floating values: false with a NaN, except NE; LT and LE set NV on any
NaN, EQ and NE on a signalling one. Codes: 0 EQ, 1 NE, 2 LT, 3 LE. -/
def FV.cmp (c : Nat) (a b : FV) : Bool × Flags :=
  let fl := Flags.when (a.isSig || b.isSig || ((a.isNaN || b.isNaN) && decide (2 ≤ c))) .nv
  if a.isNaN || b.isNaN then (c == 1, fl)
  else
    (match c with
     | 0 => FV.eq a b
     | 1 => !FV.eq a b
     | 2 => FV.lt a b
     | _ => FV.lt a b || FV.eq a b, fl)

/-- The integer comparison conditions of R98 on `w`-bit codes: 0 EQ, 1 NE, 2 LT, 3 LE, 4 LTU, 5 LEU. For
UINT8 lanes the signed conditions compare the values the lanes hold. -/
def intCmp (c : Nat) (a b : Int) (x y : Nat) : Bool :=
  match c with
  | 0 => a == b
  | 1 => a != b
  | 2 => decide (a < b)
  | 3 => decide (a ≤ b)
  | 4 => decide (x < y)
  | _ => decide (x ≤ y)

def f32 : FFmt := ElemType.fmt .f32

/-- FP32 arithmetic of the scalar unit and of float lanes: exact, then one rounding (R70). -/
def FFmt.addCodes (f : FFmt) (sr : Option W16) (x y : Nat) : Nat × Flags :=
  let r := FV.add (f.decode x) (f.decode y)
  let c := f.encode .plain sr r.1
  (c.1, r.2 ||| c.2)
def FFmt.subCodes (f : FFmt) (sr : Option W16) (x y : Nat) : Nat × Flags :=
  let r := FV.add (f.decode x) (f.decode y).neg
  let c := f.encode .plain sr r.1
  (c.1, r.2 ||| c.2)
def FFmt.mulCodes (f : FFmt) (sr : Option W16) (x y : Nat) : Nat × Flags :=
  let r := FV.mul (f.decode x) (f.decode y)
  let c := f.encode .plain sr r.1
  (c.1, r.2 ||| c.2)
/-- `x · y + z`, rounded once (R70). -/
def FFmt.fmaCodes (f : FFmt) (sr : Option W16) (x y z : Nat) : Nat × Flags :=
  let p := FV.mul (f.decode x) (f.decode y)
  let r := FV.add p.1 (f.decode z)
  let c := f.encode .plain sr r.1
  (c.1, p.2 ||| r.2 ||| c.2)

/-- Is the code a result below 2^−126 in magnitude (zero too)? -/
def f32Small (x : Nat) : Bool := (x >>> 23) % 256 == 0

/-- The approximate functions of R70 (VFN): special inputs as IEEE 754-2019 and R549 lay down; every other
input gives the open value `Config.vfn`. 0 exp2, 1 log2, 2 reciprocal, 3 reciprocal square root, 4 sine, 5 cosine. -/
def vfnLane (fn x : Nat) : Nat × Flags :=
  let v := f32.decode x
  let nan := f32.canonNaN
  let pinf := 0x7F800000
  let open_ := (Config.vfn fn (BitVec.ofNat 32 x)).toNat
  let free := (open_, Flags.when (f32Small open_) .uf)
  match v with
  | .nan s => (nan, Flags.when s .nv)
  | .inf n =>
    match fn with
    | 0 => (if n then 0 else pinf, 0)
    | 1 => if n then (nan, .nv) else (pinf, 0)
    | 2 => (if n then 0x80000000 else 0, 0)
    | 3 => if n then (nan, .nv) else (0, 0)
    | _ => (nan, .nv)
  | .fin n m e =>
    if m = 0 then
      match fn with
      | 0 => (0x3F800000, 0)
      | 1 => (0xFF800000, 0)
      | 2 => (if n then 0xFF800000 else pinf, 0)
      | 3 => (if n then 0xFF800000 else pinf, 0)
      | 4 => (x, 0)
      | _ => (0x3F800000, 0)
    else
      match fn with
      | 0 => if !n && !FV.lt v (.fin false 1 7) then (pinf, .ovf) else free
      | 1 => if n then (nan, .nv) else if FV.eq v (.fin false 1 0) then (0, 0) else (open_, 0)
      | 2 => if !FV.lt (.fin false 1 (-128)) (.fin false m e) then (if n then 0xFF800000 else pinf, .ovf) else free
      | 3 => if n then (nan, .nv) else (open_, 0)
      | _ => free

end Sys2Proof.Machine
end

