-- ==== Sys2Proof/Machine/Operands.lean ====
section
/-! DEFINITION. The register operands of Sedun: the specifier codes of R90, reading and writing the registers
of R42, and lanes of a vector register (R44). -/
namespace Sys2Proof.Machine

/-- The kinds of register a specifier can name (R90). -/
inductive RegKind where
  | s | a | p | v | t | none
  deriving DecidableEq, Repr

/-- A specifier code: its kind and number (R90); other codes name nothing. -/
def regOf (c : BitVec 8) : Option (RegKind × Nat) :=
  let n := c.toNat
  if n < 0x20 then some (.s, n)
  else if n < 0x30 then some (.a, n - 0x20)
  else if n < 0x38 then some (.p, n - 0x30)
  else if n < 0x40 then Option.none
  else if n < 0x80 then some (.v, n - 0x40)
  else if n < 0x84 then some (.t, n - 0x80)
  else if n = 0xFF then some (.none, 0)
  else Option.none

/-- Does the code name a register of kind `k`? -/
def isKind (c : BitVec 8) (k : RegKind) : Bool :=
  match regOf c with
  | some (j, _) => j == k
  | Option.none => false

/-- An s or an a register: what most scalar operands accept (R98). -/
def isSA (c : BitVec 8) : Bool := isKind c .s || isKind c .a
/-- An s or an a register, or none (0xFF). -/
def isSANone (c : BitVec 8) : Bool := isSA c || isKind c .none
/-- A vector register of even number: a register pair (R55, R90). -/
def isPair (c : BitVec 8) : Bool := isKind c .v && c.toNat % 2 == 0

/-- The number within its kind. -/
def regNum (c : BitVec 8) : Nat :=
  match regOf c with
  | some (_, n) => n
  | Option.none => 0

def Regs.getS (r : Regs) (i : Nat) : BitVec 64 := FMap.get 0 r.s i
def Regs.getA (r : Regs) (i : Nat) : BitVec 48 := FMap.get 0 r.a i
/-- p0 reads as all ones (R42). -/
def Regs.getP (r : Regs) (i : Nat) : BitVec 64 := if i = 0 then BitVec.allOnes 64 else FMap.get 0 r.p i
def Regs.getV (r : Regs) (i : Nat) : BitVec 512 := FMap.get 0 r.v i
def Regs.getSide (r : Regs) (i : Nat) : BitVec 128 := FMap.get 0 r.side i
def Regs.getTRow (r : Regs) (t row : Nat) : BitVec 512 := FMap.get 0 r.t (16 * t + row)

def Regs.setS (r : Regs) (i : Nat) (x : BitVec 64) : Regs := { r with s := FMap.set 0 r.s i x }
def Regs.setA (r : Regs) (i : Nat) (x : BitVec 48) : Regs := { r with a := FMap.set 0 r.a i x }
/-- Writes to p0 are ignored (R42). -/
def Regs.setP (r : Regs) (i : Nat) (x : BitVec 64) : Regs :=
  if i = 0 then r else { r with p := FMap.set 0 r.p i x }
/-- Sixteen scales of 2^0: 0x7F in each byte (R45). -/
def sideOne : BitVec 128 := 0x7F7F7F7F7F7F7F7F7F7F7F7F7F7F7F7F#128
/-- A write to a vector register sets its sideband to 0x7F in every scale (R45). -/
def Regs.setV (r : Regs) (i : Nat) (x : BitVec 512) : Regs :=
  { r with v := FMap.set 0 r.v i x, side := FMap.set 0 r.side i sideOne }
/-- The MX loads write the sideband (R45, R105). -/
def Regs.setVMx (r : Regs) (i : Nat) (x : BitVec 512) (sc : BitVec 128) : Regs :=
  { r with v := FMap.set 0 r.v i x, side := FMap.set 0 r.side i sc }
def Regs.setTRow (r : Regs) (t row : Nat) (x : BitVec 512) : Regs := { r with t := FMap.set 0 r.t (16 * t + row) x }
/-- The flags are sticky (R77). -/
def Regs.raise (r : Regs) (f : Flags) : Regs := { r with flags := r.flags ||| f }

/-- Read an s or a register as 64 bits, an a register zero-extended (R98); 0xFF reads 0. -/
def Regs.readSA (r : Regs) (c : BitVec 8) : BitVec 64 :=
  match regOf c with
  | some (.s, i) => r.getS i
  | some (.a, i) => (r.getA i).setWidth 64
  | _ => 0

/-- Write an s register, or bits [47:0] of the result to an a register (R98). -/
def Regs.writeSA (r : Regs) (c : BitVec 8) (x : BitVec 64) : Regs :=
  match regOf c with
  | some (.s, i) => r.setS i x
  | some (.a, i) => r.setA i (x.setWidth 48)
  | _ => r

/-- A write of a number as a 64-bit result. -/
def Regs.writeNat (r : Regs) (c : BitVec 8) (x : Nat) : Regs := r.writeSA c (BitVec.ofNat 64 x)

/-! ### Lanes (R44) -/

/-- Lane `i` of width `w`: bits [w·i + w − 1 : w·i]. -/
def laneOf (w : Nat) (x : BitVec 512) (i : Nat) : Nat := (x.toNat >>> (w * i)) % 2 ^ w

/-- All lanes of width `w`, lane 0 first. -/
def lanesOf (w : Nat) (x : BitVec 512) : List Nat := (List.range (512 / w)).map (laneOf w x)

/-- The number whose lanes are `xs`. -/
def packNat (w : Nat) : List Nat → Nat
  | [] => 0
  | x :: xs => x % 2 ^ w + 2 ^ w * packNat w xs

def packLanes (w : Nat) (xs : List Nat) : BitVec 512 := BitVec.ofNat 512 (packNat w xs)

/-- The governing bit of a lane is the predicate bit of its lowest byte (R100). -/
def laneOn (p : BitVec 64) (w i : Nat) : Bool := p.getLsbD (w * i / 8)

/-- The new lanes where they are given, the old ones elsewhere. -/
def mergeLanes : List Nat → List (Option Nat) → List Nat
  | [], _ => []
  | x :: xs, [] => x :: xs
  | x :: xs, n :: ns => n.getD x :: mergeLanes xs ns

/-- One step of checking: a violated check raises its fault, and the checks are made in the order of their
codes so that the lowest code is the one raised (R125). -/
def faultIf {α : Type} (bad : Bool) (f : SedunFault) (k : Except SedunFault α) : Except SedunFault α :=
  if bad then .error f else k

end Sys2Proof.Machine
end

