-- ==== Sys2Proof/Machine/ScalarOps.lean ====
section
/-! DEFINITION. What the S-class instructions compute on one core's registers (R98), and the branch conditions
of R117. Each answers the new registers or the fault it raises. -/
namespace Sys2Proof.Machine

/-- Operand B: IMM24 sign-extended when the specifier is 0xFF (R91, R98). -/
def operandB (i : FmtS) (r : Regs) : BitVec 64 :=
  if i.b = 0xFF then i.imm.signExtend 64 else r.readSA i.b

/-- The shape of the integer instructions: SUB checked, then the operand kinds, then D ← f SUB A B (R98). -/
def aluOp (subOk : Nat → Bool) (f : Nat → BitVec 64 → BitVec 64 → BitVec 64) (i : FmtS) (r : Regs) :
    Except SedunFault Regs :=
  faultIf (!subOk i.sub.toNat) .reservedField <|
  faultIf (!(isSA i.d && isSA i.a && isSANone i.b)) .registerKind <|
  .ok (r.writeSA i.d (f i.sub.toNat (r.readSA i.a) (operandB i r)))

/-- An instruction that defines no SUB accepts only 0. -/
def subZero (n : Nat) : Bool := n == 0
/-- SUB[0] selects unsigned. -/
def subBit (n : Nat) : Bool := decide (n ≤ 1)

def opAdd (i : FmtS) (r : Regs) := aluOp subZero (fun _ a b => a + b) i r
def opSub (i : FmtS) (r : Regs) := aluOp subZero (fun _ a b => a - b) i r
def opMul (i : FmtS) (r : Regs) := aluOp subZero (fun _ a b => a * b) i r
/-- High 64 bits of the product, signed or unsigned. -/
def mulHigh (u : Nat) (a b : BitVec 64) : BitVec 64 :=
  if u = 1 then BitVec.ofNat 64 (a.toNat * b.toNat / 2 ^ 64)
  else BitVec.ofInt 64 (a.toInt * b.toInt / 2 ^ 64)
def opMulh (i : FmtS) (r : Regs) := aluOp subBit mulHigh i r
def divOp (u : Nat) (a b : BitVec 64) : BitVec 64 := if u = 1 then a / b else a.sdiv b
def remOp (u : Nat) (a b : BitVec 64) : BitVec 64 := if u = 1 then a % b else a.srem b
/-- DIV and REM check the divisor last: the cause has the highest code (R98, R125). -/
def divLike (f : Nat → BitVec 64 → BitVec 64 → BitVec 64) (i : FmtS) (r : Regs) : Except SedunFault Regs :=
  faultIf (!subBit i.sub.toNat) .reservedField <|
  faultIf (!(isSA i.d && isSA i.a && isSANone i.b)) .registerKind <|
  faultIf (operandB i r == 0) .divideZero <|
  .ok (r.writeSA i.d (f i.sub.toNat (r.readSA i.a) (operandB i r)))
def opDiv (i : FmtS) (r : Regs) := divLike divOp i r
def opRem (i : FmtS) (r : Regs) := divLike remOp i r
def opAnd (i : FmtS) (r : Regs) := aluOp subZero (fun _ a b => a &&& b) i r
def opOr (i : FmtS) (r : Regs) := aluOp subZero (fun _ a b => a ||| b) i r
def opXor (i : FmtS) (r : Regs) := aluOp subZero (fun _ a b => a ^^^ b) i r
/-- Shifts take the amount modulo 64. -/
def opShl (i : FmtS) (r : Regs) := aluOp subZero (fun _ a b => a <<< (b.toNat % 64)) i r
def opShr (i : FmtS) (r : Regs) := aluOp subZero (fun _ a b => a >>> (b.toNat % 64)) i r
def opSar (i : FmtS) (r : Regs) := aluOp subZero (fun _ a b => a.sshiftRight (b.toNat % 64)) i r
def opScmp (i : FmtS) (r : Regs) :=
  aluOp (fun n => decide (n ≤ 5))
    (fun c a b => if intCmp c a.toInt b.toInt a.toNat b.toNat then 1 else 0) i r
def opMin (i : FmtS) (r : Regs) :=
  aluOp subBit (fun u a b => if (if u = 1 then a.ult b else a.slt b) then a else b) i r
def opMax (i : FmtS) (r : Regs) :=
  aluOp subBit (fun u a b => if (if u = 1 then a.ult b else a.slt b) then b else a) i r

/-- MOVI: D ← IMM24 sign-extended. -/
def opMovi (i : FmtS) (r : Regs) : Except SedunFault Regs :=
  faultIf (!subZero i.sub.toNat) .reservedField <|
  faultIf (!isSA i.d) .registerKind <|
  .ok (r.writeSA i.d (i.imm.signExtend 64))

/-- The bits MOVHI replaces: SUB 0 D[47:24], SUB 1 D[63:48]; the others are kept. -/
def movhiVal (sub : Nat) (d : BitVec 64) (imm : BitVec 24) : BitVec 64 :=
  if sub = 0 then (d &&& ~~~(0xFFFFFF000000 : BitVec 64)) ||| (imm.setWidth 64 <<< 24)
  else (d &&& ~~~(0xFFFF000000000000 : BitVec 64)) ||| ((imm.setWidth 16).setWidth 64 <<< 48)
def opMovhi (i : FmtS) (r : Regs) : Except SedunFault Regs :=
  faultIf (!subBit i.sub.toNat) .reservedField <|
  faultIf (!isSA i.d) .registerKind <|
  .ok (r.writeSA i.d (movhiVal i.sub.toNat (r.readSA i.d) i.imm))

/-- The low 32 bits of an operand: the FP32 value (R98). -/
def low32 (x : BitVec 64) : Nat := x.toNat % 2 ^ 32

/-- The shape of the FP32 instructions: bits [63:32] of D are written 0 (R98). `f` gets A, B and the old D. -/
def fpOp (f : Nat → Nat → Nat → Nat × Flags) (i : FmtS) (r : Regs) : Except SedunFault Regs :=
  faultIf (!subZero i.sub.toNat) .reservedField <|
  faultIf (!(isSA i.d && isSA i.a && isSANone i.b)) .registerKind <|
  .ok ((r.writeNat i.d (f (low32 (r.readSA i.a)) (low32 (operandB i r)) (low32 (r.readSA i.d))).1).raise
    (f (low32 (r.readSA i.a)) (low32 (operandB i r)) (low32 (r.readSA i.d))).2)
def opFadd (i : FmtS) (r : Regs) := fpOp (fun a b _ => f32.addCodes none a b) i r
def opFsub (i : FmtS) (r : Regs) := fpOp (fun a b _ => f32.subCodes none a b) i r
def opFmul (i : FmtS) (r : Regs) := fpOp (fun a b _ => f32.mulCodes none a b) i r
/-- D ← A × B + D, rounded once. -/
def opFfma (i : FmtS) (r : Regs) := fpOp (fun a b d => f32.fmaCodes none a b d) i r
def opFmin (i : FmtS) (r : Regs) := fpOp (fun a b _ => f32.minmax true a b) i r
def opFmax (i : FmtS) (r : Regs) := fpOp (fun a b _ => f32.minmax false a b) i r

/-- FCMP: LTU and LEU are integer comparisons only, so SUB 4 and above are undefined here. -/
def opFcmp (i : FmtS) (r : Regs) : Except SedunFault Regs :=
  faultIf (decide (3 < i.sub.toNat)) .reservedField <|
  faultIf (!(isSA i.d && isSA i.a && isSANone i.b)) .registerKind <|
  let c := FV.cmp i.sub.toNat (f32.decode (low32 (r.readSA i.a))) (f32.decode (low32 (operandB i r)))
  .ok ((r.writeNat i.d (if c.1 then 1 else 0)).raise c.2)

/-- FCVT: SUB 0 INT64 to FP32, SUB 1 FP32 to INT64 (R71). -/
def opFcvt (i : FmtS) (r : Regs) : Except SedunFault Regs :=
  faultIf (!subBit i.sub.toNat) .reservedField <|
  faultIf (!(isSA i.d && isSA i.a)) .registerKind <|
  if i.sub = 0 then
    let c := f32.encode .plain none (FV.ofInt (r.readSA i.a).toInt)
    .ok ((r.writeNat i.d c.1).raise c.2)
  else
    let c := (f32.decode (low32 (r.readSA i.a))).toInt (-(2 ^ 63)) (2 ^ 63 - 1)
    .ok ((r.writeSA i.d (BitVec.ofInt 64 c.1)).raise c.2)

/-- PMASK: bits [n − 1:0] set, a value above 64 taken as 64. -/
def opPmask (i : FmtS) (r : Regs) : Except SedunFault Regs :=
  faultIf (!subZero i.sub.toNat) .reservedField <|
  faultIf (!(isKind i.d .p && isSA i.a)) .registerKind <|
  .ok (r.setP (regNum i.d) (BitVec.ofNat 64 (2 ^ (min (r.readSA i.a).toNat 64) - 1)))

/-- The logic operations of PLOG and VLOG: 0 AND, 1 OR, 2 XOR, 3 NOT A. -/
def logOp {w : Nat} (sub : Nat) (a b : BitVec w) : BitVec w :=
  match sub with
  | 0 => a &&& b
  | 1 => a ||| b
  | 2 => a ^^^ b
  | _ => ~~~a

/-- PLOG: NOT A uses no B. -/
def opPlog (i : FmtS) (r : Regs) : Except SedunFault Regs :=
  faultIf (decide (3 < i.sub.toNat)) .reservedField <|
  faultIf (!(isKind i.d .p && isKind i.a .p && (isKind i.b .p || i.sub == 3))) .registerKind <|
  .ok (r.setP (regNum i.d) (logOp i.sub.toNat (r.getP (regNum i.a)) (r.getP (regNum i.b))))

/-- The number of set bits. -/
def popcount (n x : Nat) : Nat := ((List.range n).filter (fun j => bitOf x j)).length

def opPcnt (i : FmtS) (r : Regs) : Except SedunFault Regs :=
  faultIf (!subZero i.sub.toNat) .reservedField <|
  faultIf (!(isSA i.d && isKind i.a .p)) .registerKind <|
  .ok (r.writeNat i.d (popcount 64 (r.getP (regNum i.a)).toNat))

/-- NOP uses no operand; its SUB must be 0. -/
def opNop (i : FmtS) (r : Regs) : Except SedunFault Regs :=
  faultIf (!subZero i.sub.toNat) .reservedField <| .ok r

/-! ### Branch conditions (R117) -/

/-- Is the COND code assigned? -/
def condOk (c : Nat) : Bool := decide (c ≤ 5) || c == 8 || c == 9 || c == 10 || c == 31

/-- Are the operand kinds those the condition takes? -/
def condKinds (i : FmtC) : Bool :=
  if i.cond.toNat ≤ 5 then isSA i.a && isSANone i.b
  else if i.cond = 31 then true
  else isKind i.a .p

/-- Does the condition hold? B is zero when its specifier is 0xFF. -/
def condHolds (i : FmtC) (r : Regs) : Bool :=
  let a := r.readSA i.a
  let b := r.readSA i.b
  match i.cond.toNat with
  | 0 => a == b
  | 1 => a != b
  | 2 => a.slt b
  | 3 => !a.slt b
  | 4 => a.ult b
  | 5 => !a.ult b
  | 8 => r.getP (regNum i.a) != 0
  | 9 => r.getP (regNum i.a) == BitVec.allOnes 64
  | 10 => r.getP (regNum i.a) == 0
  | _ => true

/-- PC + IMM32 × 8 (R93). -/
def branchTarget (pc : BitVec 48) (imm : BitVec 32) : BitVec 48 := pc + (imm.signExtend 48 <<< 3)

end Sys2Proof.Machine
end

