-- ==== Sys2Proof/Machine/VectorOps.lean ====
section
/-! DEFINITION. What the V-class instructions compute on one core's registers (R99–R102, R71–R76). -/
namespace Sys2Proof.Machine

/-- The element type a V-class instruction names; a reserved ET has faulted before it is asked for (R92). -/
def vty (i : FmtV) : ElemType := (ElemType.ofCode i.et.toNat).getD .i8

/-- A reserved ET raises RESERVED_FIELD in every instruction (R92). -/
def etBad (c : BitVec 4) : Bool := decide (0xD ≤ c.toNat)

/-- The predicate register PG names. -/
def Regs.pg (r : Regs) (i : FmtV) : BitVec 64 := r.getP i.pg.toNat

/-- Draw 16 bits per written lane in ascending lane order (R76): the lanes' random bits and the generator
afterwards. Nothing is drawn where stochastic rounding is not selected. -/
def drawLanes (sr : Bool) : List Bool → BitVec 64 → List (Option W16) × BitVec 64
  | [], g => ([], g)
  | on :: ons, g =>
    if sr && on then
      let rest := drawLanes sr ons (Config.lfsrNext g)
      (some (Config.lfsrBits g) :: rest.1, rest.2)
    else
      let rest := drawLanes sr ons g
      (none :: rest.1, rest.2)

/-- Which of the `512 / w` lanes the predicate governs as written (R100). -/
def lanesOn (p : BitVec 64) (w : Nat) : List Bool := (List.range (512 / w)).map (laneOn p w)

/-- Write the lanes of D that are `on`, raise their flags (R100, R77). -/
def writeLanes (r : Regs) (d : BitVec 8) (w : Nat) (on : List Bool) (res : List (Nat × Flags)) : Regs :=
  let news := List.zipWith (fun o (x : Nat × Flags) => if o then some x.1 else none) on res
  let fls := List.zipWith (fun o (x : Nat × Flags) => if o then x.2 else 0) on res
  (r.setV (regNum d) (packLanes w (mergeLanes (lanesOf w (r.getV (regNum d))) news))).raise (Flags.all fls)

/-- An integer lane result: the exact value wrapped, or clamped with SAT (R99). -/
def intLane (t : ElemType) (satm : Bool) (x : Int) : Nat × Flags :=
  if satm then
    (wrap t.width (clampInt t.intLo t.intHi x), Flags.when (decide (x < t.intLo) || decide (t.intHi < x)) .sat)
  else (wrap t.width x, 0)

/-- A lane result the spec does not state: beyond the type's range (log entry 11). -/
def intLaneOpen (t : ElemType) (code x : Nat) (v : Int) : Nat × Flags :=
  if v < t.intLo ∨ t.intHi < v then (Config.vabsOut code x % 2 ^ t.width, 0) else (wrap t.width v, 0)

/-- The lane arithmetic of R99, by operation. -/
inductive LaneOp where
  | add | sub | mul | fma | max | min | abs | neg
  deriving DecidableEq, Repr

/-- Make a signalling NaN quiet (R61). -/
def FFmt.quiet (f : FFmt) (x : Nat) : Nat :=
  if (f.decode x).isSig then x + 2 ^ (f.mb - 1) else x

/-- One lane of VADD … VNEG on codes a, b, c. VABS and VNEG act on the sign bit alone. -/
def laneArith (op : LaneOp) (t : ElemType) (satm : Bool) (sr : Option W16) (a b c : Nat) : Nat × Flags :=
  if t.isInt then
    match op with
    | .add => intLane t satm (t.int a + t.int b)
    | .sub => intLane t satm (t.int a - t.int b)
    | .mul => intLane t false (t.int a * t.int b)
    | .fma => intLane t false (t.int a * t.int b + t.int c)
    | .max => (if t.int a < t.int b then b else a, 0)
    | .min => (if t.int b < t.int a then b else a, 0)
    | .abs => intLaneOpen t (0x10 + t.width) a (t.int a).natAbs
    | .neg => intLaneOpen t (0x20 + t.width) a (-(t.int a))
  else
    match op with
    | .add => t.fmt.addCodes sr a b
    | .sub => t.fmt.subCodes sr a b
    | .mul => t.fmt.mulCodes sr a b
    | .fma => t.fmt.fmaCodes sr a b c
    | .max => t.fmt.minmax false a b
    | .min => t.fmt.minmax true a b
    | .abs => (t.fmt.quiet (a % t.fmt.signBit), 0)
    | .neg => (t.fmt.quiet (if t.fmt.signBit ≤ a then a - t.fmt.signBit else a + t.fmt.signBit), 0)

/-- Does the operation read B, and C? -/
def LaneOp.usesB : LaneOp → Bool
  | .abs | .neg => false
  | _ => true
def LaneOp.usesC : LaneOp → Bool
  | .fma => true
  | _ => false
/-- SR may be set on VADD, VSUB, VMUL and VFMA alone (R75). -/
def LaneOp.allowsSr : LaneOp → Bool
  | .add | .sub | .mul | .fma => true
  | _ => false

/-- The instructions VADD … VNEG (R99): checks in the order of R125's codes, then every governed lane. -/
def vArith (op : LaneOp) (i : FmtV) (r : Regs) : Except SedunFault Regs :=
  faultIf (etBad i.et || i.sub != 0) .reservedField <|
  faultIf (!(isKind i.d .v && isKind i.a .v && (!op.usesB || isKind i.b .v) && (!op.usesC || isKind i.c .v)))
    .registerKind <|
  faultIf (!(vty i).isVector || (i.sr && ((vty i).isInt || !op.allowsSr))) .typeCombination <|
  let w := (vty i).width
  let on := lanesOn (r.pg i) w
  let dr := drawLanes i.sr on r.lfsr
  let a := lanesOf w (r.getV (regNum i.a))
  let b := lanesOf w (r.getV (regNum i.b))
  let c := lanesOf w (r.getV (regNum i.c))
  let res := (List.range (512 / w)).map (fun j =>
    laneArith op (vty i) i.satm (dr.1.getD j none) (a.getD j 0) (b.getD j 0) (c.getD j 0))
  .ok (writeLanes { r with lfsr := dr.2 } i.d w on res)

def opVadd (i : FmtV) (r : Regs) := vArith .add i r
def opVsub (i : FmtV) (r : Regs) := vArith .sub i r
def opVmul (i : FmtV) (r : Regs) := vArith .mul i r
def opVfma (i : FmtV) (r : Regs) := vArith .fma i r
def opVmax (i : FmtV) (r : Regs) := vArith .max i r
def opVmin (i : FmtV) (r : Regs) := vArith .min i r
def opVabs (i : FmtV) (r : Regs) := vArith .abs i r
def opVneg (i : FmtV) (r : Regs) := vArith .neg i r

/-- One lane's comparison (R98, R99). -/
def laneCmp (c : Nat) (t : ElemType) (x y : Nat) : Bool × Flags :=
  if t.isInt then (intCmp c (t.int x) (t.int y) x y, 0)
  else FV.cmp c (t.fmt.decode x) (t.fmt.decode y)

/-- All byte bits of a lane take the lane's result (R99). -/
def predOf (w : Nat) (xs : List Bool) : BitVec 64 :=
  BitVec.ofNat 64 (packNat (w / 8) (xs.map (fun b => if b then 2 ^ (w / 8) - 1 else 0)))

/-- VCMP: p register D ← A cond B; PG is ignored (R100). The conditions LTU and LEU take integer lanes only. -/
def opVcmp (i : FmtV) (r : Regs) : Except SedunFault Regs :=
  faultIf (etBad i.et || decide (5 < i.sub.toNat)) .reservedField <|
  faultIf (!(isKind i.d .p && isKind i.a .v && isKind i.b .v)) .registerKind <|
  faultIf (!(vty i).isVector || i.sr || (decide (4 ≤ i.sub.toNat) && !(vty i).isInt)) .typeCombination <|
  let w := (vty i).width
  let res := List.zipWith (laneCmp i.sub.toNat (vty i)) (lanesOf w (r.getV (regNum i.a))) (lanesOf w (r.getV (regNum i.b)))
  .ok ((r.setP (regNum i.d) (predOf w (res.map (·.1)))).raise (Flags.all (res.map (·.2))))

/-- The shape of the lane moves: ET gives the lane width only (R99). -/
def vMove (subOk : Bool) (useB : Bool) (kindA : Bool) (tyOk : Bool) (f : Nat → Nat → List Nat) (i : FmtV) (r : Regs) :
    Except SedunFault Regs :=
  faultIf (etBad i.et || !subOk) .reservedField <|
  faultIf (!(isKind i.d .v && kindA && (!useB || isKind i.b .v))) .registerKind <|
  faultIf (i.sr || !tyOk) .typeCombination <|
  .ok (writeLanes r i.d (vty i).width (lanesOn (r.pg i) (vty i).width)
    ((f (vty i).width (512 / (vty i).width)).map (fun x => (x, 0))))

/-- VSEL: D lane ← A lane where PG is 1, B lane where it is 0: every lane is written. -/
def opVsel (i : FmtV) (r : Regs) : Except SedunFault Regs :=
  faultIf (etBad i.et || i.sub != 0) .reservedField <|
  faultIf (!(isKind i.d .v && isKind i.a .v && isKind i.b .v)) .registerKind <|
  faultIf i.sr .typeCombination <|
  let w := (vty i).width
  let news := List.zipWith (fun o (x : Nat) => if o then some x else none) (lanesOn (r.pg i) w)
    (lanesOf w (r.getV (regNum i.a)))
  .ok (r.setV (regNum i.d) (packLanes w (mergeLanes (lanesOf w (r.getV (regNum i.b))) news)))

def opVlog (i : FmtV) (r : Regs) : Except SedunFault Regs :=
  vMove (decide (i.sub.toNat ≤ 3)) (i.sub != 3) (isKind i.a .v) true
    (fun w _ => lanesOf w (logOp i.sub.toNat (r.getV (regNum i.a)) (r.getV (regNum i.b)))) i r

/-- One lane's shift, the amount modulo the lane width. -/
def laneShift (sub w x amt : Nat) : Nat :=
  match sub with
  | 0 => x <<< (amt % w) % 2 ^ w
  | 1 => x >>> (amt % w)
  | _ => wrap w (sext w x / (2 ^ (amt % w) : Nat))

def opVsh (i : FmtV) (r : Regs) : Except SedunFault Regs :=
  vMove (decide (i.sub.toNat ≤ 2)) (i.b != 0xFF) (isKind i.a .v) ((vty i) == .i8 || (vty i) == .u8 || (vty i) == .i32)
    (fun w n => (List.range n).map (fun j => laneShift i.sub.toNat w (laneOf w (r.getV (regNum i.a)) j)
      (if i.b = 0xFF then i.imm.toNat else laneOf w (r.getV (regNum i.b)) j))) i r

def opVbc (i : FmtV) (r : Regs) : Except SedunFault Regs :=
  vMove (i.sub == 0) false (isSA i.a) true
    (fun w n => List.replicate n ((r.readSA i.a).toNat % 2 ^ w)) i r
def opVperm (i : FmtV) (r : Regs) : Except SedunFault Regs :=
  vMove (i.sub == 0) true (isKind i.a .v) true
    (fun w n => (List.range n).map (fun j =>
      laneOf w (r.getV (regNum i.a)) (laneOf w (r.getV (regNum i.b)) j % n))) i r
def opVmov (i : FmtV) (r : Regs) : Except SedunFault Regs :=
  vMove (i.sub == 0) false (isKind i.a .v) true (fun w _ => lanesOf w (r.getV (regNum i.a))) i r

/-- VEXT: scalar D ← lane IMM8 of A, sign-extended; PG is ignored. A lane the register does not have is an
undefined field value. -/
def opVext (i : FmtV) (r : Regs) : Except SedunFault Regs :=
  faultIf (etBad i.et || i.sub != 0 || decide (512 / (vty i).width ≤ i.imm.toNat)) .reservedField <|
  faultIf (!(isSA i.d && isKind i.a .v)) .registerKind <|
  faultIf i.sr .typeCombination <|
  .ok (r.writeSA i.d (BitVec.ofInt 64 (sext (vty i).width (laneOf (vty i).width (r.getV (regNum i.a)) i.imm.toNat))))

/-- VINS: lane IMM8 of D ← scalar A, where PG governs that lane; other lanes kept. -/
def opVins (i : FmtV) (r : Regs) : Except SedunFault Regs :=
  faultIf (etBad i.et || i.sub != 0 || decide (512 / (vty i).width ≤ i.imm.toNat)) .reservedField <|
  faultIf (!(isKind i.d .v && isSA i.a)) .registerKind <|
  faultIf i.sr .typeCombination <|
  let w := (vty i).width
  let on := (List.range (512 / w)).map (fun j => j == i.imm.toNat && laneOn (r.pg i) w j)
  .ok (writeLanes r i.d w on (List.replicate (512 / w) ((r.readSA i.a).toNat % 2 ^ w, 0)))

/-! ### Conversions (R71–R75, R101, R102) -/

/-- The lane slices of R101: how many lanes move, and the first lane on each side. -/
structure Slice where
  n : Nat
  src : Nat
  dst : Nat
  deriving DecidableEq, Repr

/-- Slice `g` between `ns` source lanes and `nd` destination lanes; none beyond the last slice (R101). -/
def sliceOf (ns nd g : Nat) : Option Slice :=
  let n := min ns nd
  if max ns nd / n ≤ g then none
  else some ⟨n, if nd < ns then g * n else 0, if ns < nd then g * n else 0⟩

/-- Which destination lanes are in the slice and governed. -/
def sliceOn (p : BitVec 64) (w : Nat) (s : Slice) : List Bool :=
  (List.range (512 / w)).map (fun j => decide (s.dst ≤ j) && decide (j < s.dst + s.n) && laneOn p w j)

/-- The integer pairs VCVT converts: to a wider lane, exactly (R102). -/
def widens (s d : ElemType) : Bool :=
  match s, d with
  | .i4, .i8 | .i4, .i32 | .i8, .i32 | .u8, .i32 => true
  | _, _ => false

/-- The pairs R71, R72 and R102 define. -/
def cvtOk (s d : ElemType) : Bool :=
  s != .mxi8 && d != .mxi8 && (d.isFloat || s.isFloat || widens s d)

/-- Convert one lane (R71, R72, R102). -/
def cvtLane (s d : ElemType) (o : Over) (sr : Option W16) (x : Nat) : Nat × Flags :=
  let v := if s.isInt then FV.ofInt (s.int x) else s.fmt.decode x
  if d.isInt then
    let c := v.toInt d.intLo d.intHi
    (wrap d.width c.1, c.2)
  else d.fmt.encode o sr v

/-- SATM governs every destination but FP32 (R549). -/
def overOf (satm : Bool) (dt : ElemType) : Over := if satm && dt != .f32 then .sat else .plain

/-- VCVT: A from ET to the type in IMM8[3:0], slice in IMM8[6:4]. -/
def opVcvt (i : FmtV) (r : Regs) : Except SedunFault Regs :=
  match ElemType.ofCode (i.imm.toNat % 16) with
  | none =>
    faultIf (etBad i.et || decide (128 ≤ i.imm.toNat) || i.sub != 0) .reservedField <|
    faultIf (!(isKind i.d .v && isKind i.a .v)) .registerKind <| .error .typeCombination
  | some dt =>
    match sliceOf (512 / (vty i).width) (512 / dt.width) (i.imm.toNat / 16 % 8) with
    | none => .error .reservedField
    | some sl =>
      faultIf (etBad i.et || decide (128 ≤ i.imm.toNat) || i.sub != 0) .reservedField <|
      faultIf (!(isKind i.d .v && isKind i.a .v)) .registerKind <|
      faultIf (!cvtOk (vty i) dt || (i.sr && dt.isInt)) .typeCombination <|
      let on := sliceOn (r.pg i) dt.width sl
      let dr := drawLanes i.sr on r.lfsr
      let res := (List.range (512 / dt.width)).map (fun j =>
        cvtLane (vty i) dt (overOf i.satm dt) (dr.1.getD j none)
          (laneOf (vty i).width (r.getV (regNum i.a)) (sl.src + (j - sl.dst))))
      .ok (writeLanes { r with lfsr := dr.2 } i.d dt.width on res)

/-- Requantise one INT32 value (R74): p = x·M, q = p·2^−S to nearest even, y = q + Z, clamped. -/
def requant (lo hi x m : Int) (s : Nat) (z : Int) : Int × Flags :=
  let p := x * m
  let q := signed (decide (p < 0)) (rneShift p.natAbs s)
  let y := q + z
  (clampInt lo hi y, Flags.when (decide (y < lo) || decide (hi < y)) .sat)

/-- The destinations of requantisation (R74). -/
def rqOk (t : ElemType) : Bool := t == .i8 || t == .u8 || t == .i4

/-- VRQ: B holds M in [31:0] and S in [37:32], C holds Z in [7:0], signed but for UINT8. -/
def opVrq (i : FmtV) (r : Regs) : Except SedunFault Regs :=
  let sl := sliceOf 16 (512 / (vty i).width) (i.imm.toNat % 8)
  faultIf (etBad i.et || i.sub != 0 || decide (8 ≤ i.imm.toNat) || (rqOk (vty i) && sl.isNone)) .reservedField <|
  faultIf (!(isKind i.d .v && isKind i.a .v && isSA i.b && isSA i.c)) .registerKind <|
  faultIf (!rqOk (vty i) || i.sr) .typeCombination <|
  let s := sl.getD ⟨0, 0, 0⟩
  let b := (r.readSA i.b).toNat
  let c := (r.readSA i.c).toNat
  let z : Int := if (vty i) = .u8 then ((c % 256 : Nat) : Int) else sext 8 c
  let on := sliceOn (r.pg i) (vty i).width s
  let res := (List.range (512 / (vty i).width)).map (fun j =>
    let y := requant (vty i).intLo (vty i).intHi (sext 32 (laneOf 32 (r.getV (regNum i.a)) (s.src + (j - s.dst))))
      (sext 32 b) (bitsOf b 37 32) z
    (wrap (vty i).width y.1, y.2))
  .ok (writeLanes r i.d (vty i).width on res)

/-- emax of R73: the exponent of the element type's largest normal power of two. -/
def mxEmax : ElemType → Int
  | .e4m3 => 8 | .e5m2 => 15 | .e3m2 => 4 | .e2m3 => 2 | .e2m1 => 2 | _ => 0

/-- The exponent floor(log2 |v|) of a nonzero finite value. -/
def FV.lead : FV → Int
  | .fin _ m e => e + (Nat.log2 m : Int)
  | _ => 0

/-- The leading exponent of the largest magnitude; none for a block of zeros. -/
def blockLead : List FV → Option Int
  | [] => none
  | v :: vs =>
    if v.isZero then blockLead vs
    else match blockLead vs with
      | none => some v.lead
      | some k => some (if k < v.lead then v.lead else k)

/-- The scale byte of a block without NaN or infinity (R73 step 2). -/
def blockScale (t : ElemType) (vs : List FV) : Nat :=
  match blockLead vs with
  | none => 0
  | some k => (clampInt (-127) 127 (k - mxEmax t) + 127).toNat

/-- One element of an MX block (R73 step 3): the value divided by the scale, converted. MXINT8 always rounds to
nearest even and saturates with OF. -/
def mxElem (t : ElemType) (scale : Nat) (sr : Option W16) (v : FV) : Nat × Flags :=
  let x := v.scale (127 - (scale : Int))
  if t = .mxi8 then
    let c := (x.scale 6).toInt (-128) 127
    (wrap 8 c.1, Flags.when (c.2 != 0) .ovf)
  else t.fmt.encode .sat sr x

/-- VQMX: one MX block from the FP32 pair A; the scale byte goes to scalar C (R73, R99, R101). -/
def opVqmx (i : FmtV) (r : Regs) : Except SedunFault Regs :=
  let sl := sliceOf 32 (512 / (vty i).width) (i.imm.toNat % 4)
  faultIf (etBad i.et || i.sub != 0 || decide (4 ≤ i.imm.toNat) || ((vty i).isMx && sl.isNone)) .reservedField <|
  faultIf (!(isKind i.d .v && isPair i.a && isSA i.c)) .registerKind <|
  faultIf (!(vty i).isMx || (i.sr && (vty i) == .mxi8)) .typeCombination <|
  let s := sl.getD ⟨0, 0, 0⟩
  let vals := (lanesOf 32 (r.getV (regNum i.a)) ++ lanesOf 32 (r.getV (regNum i.a + 1))).map f32.decode
  let on := sliceOn (r.pg i) (vty i).width s
  let dr := drawLanes i.sr on r.lfsr
  let special := vals.any (fun v => v.isNaN || v.isInf)
  let scale := if special then 0xFF else blockScale (vty i) vals
  let res := (List.range (512 / (vty i).width)).map (fun j =>
    if special then (0, 0)
    else mxElem (vty i) scale (dr.1.getD j none) (vals.getD (j - s.dst) (.fin false 0 0)))
  .ok (((writeLanes { r with lfsr := dr.2 } i.d (vty i).width on res).writeNat i.c scale).raise
    (Flags.when special .nv))

/-- VFN: the approximate functions on FP32 lanes. -/
def opVfn (i : FmtV) (r : Regs) : Except SedunFault Regs :=
  faultIf (etBad i.et || decide (5 < i.sub.toNat)) .reservedField <|
  faultIf (!(isKind i.d .v && isKind i.a .v)) .registerKind <|
  faultIf ((vty i) != .f32 || i.sr) .typeCombination <|
  .ok (writeLanes r i.d 32 (lanesOn (r.pg i) 32) ((lanesOf 32 (r.getV (regNum i.a))).map (vfnLane i.sub.toNat)))

/-- The fixed pairwise tree of R102: lane j with lane j + N/2, for N halving to 1. `fuel` is log2 of the lanes. -/
def treeReduce {α : Type} (f : α → α → α) : Nat → List α → List α
  | 0, xs => xs
  | k + 1, xs => treeReduce f k (List.zipWith f (xs.take (xs.length / 2)) (xs.drop (xs.length / 2)))

/-- One add, maximum or minimum of a floating reduction in the lane type, carrying the flags. -/
def redFloat (f : FFmt) (sub : Nat) (x y : Nat × Flags) : Nat × Flags :=
  let c := match sub with
    | 0 => f.addCodes none x.1 y.1
    | 1 => f.minmax false x.1 y.1
    | _ => f.minmax true x.1 y.1
  (c.1, x.2 ||| y.2 ||| c.2)

def redInt (sub : Nat) (x y : Int) : Int :=
  match sub with
  | 0 => x + y
  | 1 => if x < y then y else x
  | _ => if y < x then y else x

/-- VRED: 0 sum, 1 max, 2 min (R102). PG is ignored. -/
def opVred (i : FmtV) (r : Regs) : Except SedunFault Regs :=
  faultIf (etBad i.et || decide (2 < i.sub.toNat)) .reservedField <|
  faultIf (!(isSA i.d && isKind i.a .v)) .registerKind <|
  faultIf (!(vty i).isVector || i.sr) .typeCombination <|
  let w := (vty i).width
  let xs := lanesOf w (r.getV (regNum i.a))
  if (vty i).isInt then
    .ok (r.writeSA i.d (BitVec.ofInt 64 ((treeReduce (redInt i.sub.toNat) (Nat.log2 (512 / w)) (xs.map (vty i).int)).headD 0)))
  else
    let z := (treeReduce (redFloat (vty i).fmt i.sub.toNat) (Nat.log2 (512 / w)) (xs.map (fun x => (x, (0 : Flags))))).headD (0, 0)
    let c := f32.encode .plain none ((vty i).fmt.decode z.1)
    .ok ((r.writeNat i.d c.1).raise (z.2 ||| c.2))

end Sys2Proof.Machine
end

