-- ==== Sys2Proof/Machine/MatrixOps.lean ====
section
/-! DEFINITION. The matrix unit (R55–R58, R67–R69, R103): matrix steps, tile moves, and the MX load's unpacking. -/
namespace Sys2Proof.Machine

/-- A row of R56: K per step, the lane widths of A and B, and whether the step is an integer step. -/
structure StepShape where
  k : Nat
  wa : Nat
  wb : Nat
  int : Bool
  deriving DecidableEq, Repr

def isFp8 (t : ElemType) : Bool := t == .e4m3 || t == .e5m2
def isFp6 (t : ElemType) : Bool := t == .e3m2 || t == .e2m3

/-- R56's table of accepted pairs. INT4 elements beside INT8 lie one per 8-bit lane. -/
def stepShape (a b : ElemType) : Option StepShape :=
  match a, b with
  | .i8, .i8 | .u8, .i8 | .i8, .i4 => some ⟨4, 8, 8, true⟩
  | .i4, .i4 => some ⟨8, 4, 4, true⟩
  | .mxi8, .mxi8 => some ⟨4, 8, 8, false⟩
  | .e2m1, .e2m1 => some ⟨8, 4, 4, false⟩
  | .bf16, .bf16 | .f16, .f16 => some ⟨2, 16, 16, false⟩
  | _, _ =>
    if isFp8 a && isFp8 b then some ⟨4, 8, 8, false⟩
    else if isFp6 a && isFp6 b then some ⟨4, 8, 8, false⟩
    else if isFp8 a && b == .e2m1 then some ⟨8, 8, 4, false⟩
    else none

/-- Lane `j` of an operand of one register or of a pair (R55). -/
def opLane (r : Regs) (reg w j : Nat) : Nat :=
  if j < 512 / w then laneOf w (r.getV reg) j else laneOf w (r.getV (reg + 1)) (j - 512 / w)

/-- One integer step's element: products exact, one saturation (R67). -/
def intElem (old : Int) (xs ys : List Int) : Int × Flags :=
  let s := old + (List.zipWith (· * ·) xs ys).sum
  (clampInt (-2147483648) 2147483647 s, Flags.when (decide (s < -2147483648) || decide (2147483647 < s)) .sat)

/-- The exact sum of the exact products (R68 steps 1 and 2), with the invalid cases of R69. -/
def dotExact : List FV → List FV → FV × Flags
  | x :: xs, y :: ys =>
    match xs with
    | [] => FV.mul x y
    | _ =>
      let p := FV.mul x y
      let t := dotExact xs ys
      let s := FV.add p.1 t.1
      (s.1, p.2 ||| t.2 ||| s.2)
  | _, _ => (.fin false 0 0, 0)

/-- One floating step's element (R68, R69): `old` is the tile element's code, `sa` and `sb` the scale bytes. -/
def fltElem (old : Nat) (sa sb : Nat) (xs ys : List FV) : Nat × Flags :=
  if sa = 0xFF ∨ sb = 0xFF then (f32.canonNaN, .nv ||| .snan)
  else if xs.any FV.isNaN || ys.any FV.isNaN then (f32.canonNaN, .nv)
  else
    let d := dotExact xs ys
    let s := FV.add (f32.decode old) (d.1.scale ((sa : Int) + sb - 254))
    let c := f32.encode .plain none s.1
    (c.1, d.2 ||| s.2 ||| c.2)

/-- Row `row` of a matrix step: the 16 new lanes and their flags. -/
def stepRow (sh : StepShape) (ta tb : ElemType) (r : Regs) (i : FmtM) (row : Nat) : List (Nat × Flags) :=
  let va := regNum i.va
  let vb := regNum i.vb
  let old := if i.z then (0 : BitVec 512) else r.getTRow i.t.toNat row
  let sa := ((r.getSide va).toNat >>> (8 * row)) % 256
  let as := (List.range sh.k).map (fun k => opLane r va sh.wa (row * sh.k + k))
  (List.range 16).map (fun c =>
    let bs := (List.range sh.k).map (fun k => opLane r vb sh.wb (c * sh.k + k))
    if sh.int then
      let e := intElem (sext 32 (laneOf 32 old c))
        (as.map (fun x => if ta = .u8 then ((x : Nat) : Int) else sext sh.wa x)) (bs.map (sext sh.wb))
      (wrap 32 e.1, e.2)
    else
      fltElem (laneOf 32 old c) sa (((r.getSide vb).toNat >>> (8 * c)) % 256)
        (as.map ta.decode) (bs.map tb.decode))

/-- Write the 16 rows of a step into the tile, raising the flags. -/
def writeRows (f : Nat → List (Nat × Flags)) (t : Nat) : List Nat → Regs → Regs
  | [], r => r
  | row :: rows, r =>
    writeRows f t rows ((r.setTRow t row (packLanes 32 ((f row).map (·.1)))).raise (Flags.all ((f row).map (·.2))))

/-- MMA: one matrix step into tile T (R103). The operands are read as they stand when the step is accepted (R96). -/
def opMma (i : FmtM) (r : Regs) : Except SedunFault Regs :=
  faultIf (etBad i.eta || etBad i.etb || i.row != 0 || i.rsv != 0) .reservedField <|
  match ElemType.ofCode i.eta.toNat, ElemType.ofCode i.etb.toNat with
  | some ta, some tb =>
    match stepShape ta tb with
    | none => faultIf (!(isKind i.va .v && isKind i.vb .v)) .registerKind <| .error .typeCombination
    | some sh =>
      faultIf (!(isKind i.va .v && isKind i.vb .v && (sh.wa * 16 * sh.k != 1024 || isPair i.va))) .registerKind <|
      .ok (writeRows (stepRow sh ta tb r i) i.t.toNat (List.range 16) r)
  | _, _ => .error .reservedField

/-- TZERO: every element of tile T ← 0. -/
def opTzero (i : FmtM) (r : Regs) : Except SedunFault Regs :=
  faultIf (i.va != 0 || i.vb != 0 || i.eta != 0 || i.etb != 0 || i.z || i.row != 0 || i.rsv != 0) .reservedField <|
  .ok ((List.range 16).foldl (fun r row => r.setTRow i.t.toNat row 0) r)

/-- The unused fields of TRD and TWR (R103). -/
def moveBad (i : FmtM) : Bool := i.vb != 0 || i.eta != 0 || i.etb != 0 || i.z || i.rsv != 0

/-- TRD: vector register VA ← row ROW of tile T (R58). -/
def opTrd (i : FmtM) (r : Regs) : Except SedunFault Regs :=
  faultIf (moveBad i) .reservedField <|
  faultIf (!isKind i.va .v) .registerKind <|
  .ok (r.setV (regNum i.va) (r.getTRow i.t.toNat i.row.toNat))

/-- TWR: row ROW of tile T ← vector register VA (R58). -/
def opTwr (i : FmtM) (r : Regs) : Except SedunFault Regs :=
  faultIf (moveBad i) .reservedField <|
  faultIf (!isKind i.va .v) .registerKind <|
  .ok (r.setTRow i.t.toNat i.row.toNat (r.getV (regNum i.va)))

/-- Four FP6 elements per three bytes: element j of a group in bits [6j + 5 : 6j] (R64), one per byte lane (R65). -/
def unpack6 (bs : List Byte) : List Nat :=
  (List.range (bs.length * 4 / 3)).map (fun j => (leNat bs >>> (6 * j)) % 64)

/-- 64 nibbles sign-extended into 8-bit lanes (R104). -/
def unpackI4 (bs : List Byte) : List Nat :=
  (List.range (bs.length * 2)).map (fun j => wrap 8 (sext 4 ((leNat bs >>> (4 * j)) % 16)))

end Sys2Proof.Machine
end

