-- ==== Sys2Proof/Machine/LsOps.lean ====
section
/-! DEFINITION. The local-store instructions of one core (R43, R104, R105): the checks of each, in the order of
R125's codes, and what it does with the bytes it reads or writes. -/
namespace Sys2Proof.Machine

/-- The size of the local store (R42). -/
def lsSize : Nat := 0x40000

/-- BASE + OFF20, as an exact integer (R91, R104). -/
def lsAddr (f : FmtX) (r : Regs) : Int := ((r.getA (regNum f.base)).toNat : Int) + f.off.toInt

/-- Is any byte of the access outside 0x0_0000–0x3_FFFF? -/
def lsOut (a : Int) (n : Nat) : Bool := decide (a < 0) || decide ((lsSize : Int) < a + n)

/-- The mask local-store bytes stand under: 0, or the undefined contents an earlier job left (R54). -/
def Core.lsMask (c : Core) (a : Nat) : Byte := if c.lsGen = 0 then 0 else Config.lsByte c.lsGen a
def Core.lsRead (c : Core) (a n : Nat) : List Byte := (List.range n).map (fun i => FMap.get 0 c.ls (a + i) ^^^ c.lsMask (a + i))
def Core.lsWrite (c : Core) (a : Nat) (bs : List Byte) : Core :=
  { c with ls := FMap.setMany 0 c.ls a (List.zipWith (fun b i => b ^^^ c.lsMask (a + i)) bs (List.range bs.length)) }

/-- Registers whose contents are undefined (R54), free under a draw. The flags are clear. -/
def Regs.undefined (k : Nat) : Regs :=
  let fill {w : Nat} (n base : Nat) : FMap (BitVec w) :=
    (List.range n).foldl (fun m i => FMap.set 0 m i ((Config.regBits k (base + i)).setWidth w)) []
  { s := fill 32 0, a := fill 16 32, p := (fill 8 48 : FMap (BitVec 64)).filter (fun e => e.1 != 0), v := fill 64 64, side := fill 64 128,
    t := fill 64 192, flags := 0, lfsr := 0 }

/-- Do the byte ranges [a, a+n) and [b, b+m) share a byte? -/
def overlaps (a n b m : Nat) : Bool := decide (a < b + m) && decide (b < a + n) && decide (0 < n) && decide (0 < m)

/-- A store or DMA write into a watched range voids the checkpoint (R119). -/
def Core.touch (c : Core) (a n : Nat) : Core :=
  match c.ckpt with
  | some k => if k.ranges.any (fun g => overlaps a n g.1 g.2) then { c with ckpt := none } else c
  | none => c

/-- 64-byte lines a range meets. -/
def linesOf (a n : Nat) : List Nat :=
  if n = 0 then [] else (List.range ((a + n - 1) / 64 - a / 64 + 1)).map (· + a / 64)

/-- Scalar access size: 1, 2, 4 or 8 bytes (R104). -/
def accSize (sub : BitVec 5) : Nat := 2 ^ (sub.toNat % 4)

/-- The checks common to the local-store instructions, once SUB and the operand kinds are judged: LS_ADDRESS
before MISALIGNED (R125). Answers the address. -/
def lsCheck (subBad kindBad : Bool) (f : FmtX) (r : Regs) (n align : Nat) : Except SedunFault Nat :=
  faultIf (etBad f.et || subBad) .reservedField <|
  faultIf (kindBad || !isKind f.base .a) .registerKind <|
  faultIf (lsOut (lsAddr f r) n) .lsAddress <|
  faultIf ((lsAddr f r).toNat % align != 0) .misaligned <|
  .ok (lsAddr f r).toNat

/-- LD: SUB[1:0] the size, SUB[2] sign-extends; other SUB undefined. -/
def ldCheck (f : FmtX) (r : Regs) : Except SedunFault Nat :=
  lsCheck (decide (8 ≤ f.sub.toNat)) (!isSA f.d) f r (accSize f.sub) (accSize f.sub)
def ldDone (f : FmtX) (bs : List Byte) (r : Regs) : Regs :=
  if f.sub.toNat / 4 % 2 = 1 then r.writeSA f.d (BitVec.ofInt 64 (sext (8 * accSize f.sub) (leNat bs)))
  else r.writeNat f.d (leNat bs)

/-- ST: the low bytes of scalar IDX. -/
def stCheck (f : FmtX) (r : Regs) : Except SedunFault Nat :=
  lsCheck (decide (4 ≤ f.sub.toNat)) (!isSA f.idx) f r (accSize f.sub) (accSize f.sub)
def stBytes (f : FmtX) (r : Regs) : List Byte := leBytes (accSize f.sub) (r.readSA f.idx).toNat

/-- VLD: SUB[0] a pair, SUB[1] INT4 unpacked; bytes read per register. -/
def vldPair (f : FmtX) : Bool := f.sub.toNat % 2 == 1
def vldUnit (f : FmtX) : Nat := if f.sub.toNat / 2 % 2 = 1 then 32 else 64
def vldLen (f : FmtX) : Nat := if vldPair f then 2 * vldUnit f else vldUnit f
def vldCheck (f : FmtX) (r : Regs) : Except SedunFault Nat :=
  lsCheck (decide (4 ≤ f.sub.toNat)) (!(isKind f.d .v) || (vldPair f && !isPair f.d)) f r (vldLen f) 64
def bytesVec (bs : List Byte) : BitVec 512 := BitVec.ofNat 512 (leNat bs)
def vldVec (f : FmtX) (bs : List Byte) : BitVec 512 :=
  if vldUnit f = 32 then packLanes 8 (unpackI4 bs) else bytesVec bs
def vldDone (f : FmtX) (bs : List Byte) (r : Regs) : Regs :=
  let r1 := r.setV (regNum f.d) (vldVec f (bs.take (vldUnit f)))
  if vldPair f then r1.setV (regNum f.d + 1) (vldVec f (bs.drop (vldUnit f))) else r1

/-- VST: byte lanes whose bit in p register SUB[2:0] is 1; SUB[3] a pair, one predicate for both. -/
def vstPair (f : FmtX) : Bool := f.sub.toNat / 8 % 2 == 1
def vstLen (f : FmtX) : Nat := if vstPair f then 128 else 64
def vstCheck (f : FmtX) (r : Regs) : Except SedunFault Nat :=
  lsCheck (decide (16 ≤ f.sub.toNat)) (!(isKind f.idx .v) || (vstPair f && !isPair f.idx)) f r (vstLen f) 64
/-- The line after a predicated store of a vector register. -/
def vstMerge (p : BitVec 64) (v : BitVec 512) (old : List Byte) : List Byte :=
  List.zipWith (fun (i : Nat) (o : Byte) => if p.getLsbD i then BitVec.ofNat 8 (laneOf 8 v i) else o)
    (List.range 64) old
def vstBytes (f : FmtX) (r : Regs) (old : List Byte) : List Byte :=
  let p := r.getP (f.sub.toNat % 8)
  vstMerge p (r.getV (regNum f.idx)) (old.take 64) ++
    (if vstPair f then vstMerge p (r.getV (regNum f.idx + 1)) (old.drop 64) else [])

/-- MXL (R105): bytes per register, 48 for FP6 and 64 otherwise. -/
def mxTy (f : FmtX) : ElemType := (ElemType.ofCode f.et.toNat).getD .i8
def mxUnit (f : FmtX) : Nat := if isFp6 (mxTy f) then 48 else 64
def mxPair (f : FmtX) : Bool := f.sub.toNat % 2 == 1
def mxLen (f : FmtX) : Nat := if mxPair f then 2 * mxUnit f else mxUnit f
/-- Element address and scale address; both are range-checked before alignment is judged (R125). -/
def mxlCheck (f : FmtX) (r : Regs) : Except SedunFault (Nat × Nat) :=
  let sa : Nat := (r.getA (regNum f.idx)).toNat
  faultIf (etBad f.et || decide (2 ≤ f.sub.toNat)) .reservedField <|
  faultIf (!(isKind f.d .v) || (mxPair f && !isPair f.d) || !isKind f.base .a || !isKind f.idx .a) .registerKind <|
  faultIf (!(mxTy f).isMx) .typeCombination <|
  faultIf (lsOut (lsAddr f r) (mxLen f) || lsOut sa 16) .lsAddress <|
  faultIf ((lsAddr f r).toNat % 64 != 0 || sa % 16 != 0) .misaligned <|
  .ok ((lsAddr f r).toNat, sa)
def mxVec (f : FmtX) (bs : List Byte) : BitVec 512 :=
  if isFp6 (mxTy f) then packLanes 8 (unpack6 bs) else bytesVec bs
def mxlDone (f : FmtX) (bs scales : List Byte) (r : Regs) : Regs :=
  let sc := BitVec.ofNat 128 (leNat scales)
  let r1 := r.setVMx (regNum f.d) (mxVec f (bs.take (mxUnit f))) sc
  if mxPair f then r1.setVMx (regNum f.d + 1) (mxVec f (bs.drop (mxUnit f))) sc else r1

/-! ### DMA descriptors (R106, R107) -/

/-- A little-endian field of a byte list. -/
def fieldAt (bs : List Byte) (off n : Nat) : Nat := leNat ((bs.drop off).take n)
/-- A signed 32-bit field. -/
def fieldInt (bs : List Byte) (off : Nat) : Int := sext 32 (fieldAt bs off 4)

/-- Read the 64 bytes of a descriptor; `data` and the rest are filled in at issue. -/
def dmaParse (bs : List Byte) : DmaEntry :=
  { kind := fieldAt bs 1 1, es := 2 ^ (fieldAt bs 2 1 % 4), comp := bitOf (fieldAt bs 3 1) 0,
    ratio := bitOf (fieldAt bs 3 1) 1, credit := bitOf (fieldAt bs 3 1) 2,
    ls := fieldAt bs 4 4 % lsSize, remote := fieldAt bs 8 6,
    n0 := fieldAt bs 0x10 2 + 1, n1 := fieldAt bs 0x12 2 + 1, n2 := fieldAt bs 0x14 2 + 1,
    rs0 := fieldInt bs 0x18, rs1 := fieldInt bs 0x1C, rs2 := fieldInt bs 0x20,
    ls0 := fieldInt bs 0x24, ls1 := fieldInt bs 0x28, ls2 := fieldInt bs 0x2C,
    target := fieldAt bs 0x30 16, data := [], taint := [], started := false }

/-- FORMAT, KIND or ESIZE invalid: the descriptor names no transfer. -/
def dmaNoTransfer (bs : List Byte) : Bool :=
  fieldAt bs 0 1 != 1 || decide (3 < fieldAt bs 1 1) || decide (4 ≤ fieldAt bs 2 1)

/-- A reserved field not 0 (R106): ATTR [7:3], LS_ADDR [31:18], REMOTE [63:48], 0x16, and TARGET by KIND. -/
def dmaReserved (bs : List Byte) : Bool :=
  let t := fieldAt bs 0x30 16
  decide (8 ≤ fieldAt bs 3 1) || decide (lsSize ≤ fieldAt bs 4 4) || fieldAt bs 0xE 2 != 0 ||
  fieldAt bs 0x16 2 != 0 ||
  (match fieldAt bs 1 1 with
   | 2 => false
   | 3 => bitsOf t 15 12 != 0 || bitsOf t 127 41 != 0
   | _ => t != 0)

/-- The lowest and one past the highest byte a side of a transfer touches. -/
def boxOf (base : Int) (es n0 n1 n2 : Nat) (s0 s1 s2 : Int) : Int × Int :=
  let ext (n : Nat) (s : Int) : Int × Int :=
    if s < 0 then (((n : Int) - 1) * s, 0) else (0, ((n : Int) - 1) * s)
  let a := ext n0 s0
  let b := ext n1 s1
  let c := ext n2 s2
  (base + a.1 + b.1 + c.1, base + a.2 + b.2 + c.2 + es)

def DmaEntry.lsBox (e : DmaEntry) : Int × Int := boxOf e.ls e.es e.n0 e.n1 e.n2 e.ls0 e.ls1 e.ls2
def DmaEntry.remBox (e : DmaEntry) : Int × Int := boxOf e.remote e.es e.n0 e.n1 e.n2 e.rs0 e.rs1 e.rs2

/-- Is some element not aligned to ESIZE: REMOTE, or the RSTRIDE of a dimension whose COUNT is above 0 (R107)? -/
def DmaEntry.misaligned (e : DmaEntry) : Bool :=
  e.remote % e.es != 0 || (decide (1 < e.n0) && e.rs0 % e.es != 0) || (decide (1 < e.n1) && e.rs1 % e.es != 0) ||
  (decide (1 < e.n2) && e.rs2 % e.es != 0)

/-- Element addresses, dimension 0 innermost: local-store side and remote side. -/
def DmaEntry.elems (e : DmaEntry) : List (Nat × Nat) :=
  (List.range e.n2).flatMap (fun (i2 : Nat) => (List.range e.n1).flatMap (fun (i1 : Nat) => (List.range e.n0).map (fun (i0 : Nat) =>
    (((e.ls : Int) + (i0 : Int) * e.ls0 + (i1 : Int) * e.ls1 + (i2 : Int) * e.ls2).toNat,
     ((e.remote : Int) + (i0 : Int) * e.rs0 + (i1 : Int) * e.rs1 + (i2 : Int) * e.rs2).toNat))))

/-- Does the transfer's local-store side meet line `l`? -/
def DmaEntry.meetsLine (e : DmaEntry) (l : Nat) : Bool :=
  e.elems.any (fun p => (linesOf p.1 e.es).contains l)

end Sys2Proof.Machine
end

