-- ==== Sys2Proof/Machine/EngineOps.lean ====
section
/-! DEFINITION. What the fixed engines share (chapter 07): the command header (R213), tensor descriptors (R214), the
checks and their order (R215), fixed-rate compression (R218–R224), and single FP32 operations. -/
namespace Sys2Proof.Machine

/-! ### FP32 on codes, each with one rounding to nearest even -/
def fEnc (v : FV) : Nat := (f32.encode .plain none v).1
def fDec (x : Nat) : FV := f32.decode x
def fAdd (x y : Nat) : Nat := (f32.addCodes none x y).1
def fSub (x y : Nat) : Nat := (f32.subCodes none x y).1
def fMul (x y : Nat) : Nat := (f32.mulCodes none x y).1
def fOfInt (i : Int) : Nat := fEnc (FV.ofInt i)
def fNaN : Nat := f32.canonNaN
def fNegInf : Nat := 0xFF800000

/-- The exact quotient of `m·2^e` by `l·2^g`, `l` not 0, to 69 bits and more with a sticky bit: one rounding to
any format of 24 bits or fewer gives the correctly rounded quotient. -/
def quotient (n : Bool) (m : Nat) (e : Int) (l : Nat) (g : Int) : FV :=
  let k : Nat := 70 + Nat.log2 l
  let q := m * 2 ^ k / l
  .fin n (2 * q + (if m * 2 ^ k % l = 0 then 0 else 1)) (e - g - k - 1)

/-- IEEE 754-2019 division before rounding. -/
def FV.div (a b : FV) : FV :=
  match a, b with
  | .nan _, _ => .nan false
  | _, .nan _ => .nan false
  | .inf _, .inf _ => .nan false
  | .inf n, .fin k _ _ => .inf (n != k)
  | .fin n _ _, .inf k => .fin (n != k) 0 0
  | .fin n m e, .fin k l g =>
    if l = 0 then (if m = 0 then .nan false else .inf (n != k))
    else if m = 0 then .fin (n != k) 0 0 else quotient (n != k) m e l g

def fDiv (x y : Nat) : Nat := fEnc (FV.div (fDec x) (fDec y))
/-- A rational, exactly. -/
def FV.ofRat (num : Int) (den : Nat) : FV := FV.div (FV.ofInt num) (FV.ofInt den)
/-- `x < y`, false with a NaN. -/
def fLt (x y : Nat) : Bool := (FV.cmp 2 (fDec x) (fDec y)).1
def fLe (x y : Nat) : Bool := (FV.cmp 3 (fDec x) (fDec y)).1
def fMin (x y : Nat) : Nat := (f32.minmax true x y).1
def fMax (x y : Nat) : Nat := (f32.minmax false x y).1
def fFinite (x : Nat) : Bool :=
  match fDec x with
  | .fin _ _ _ => true
  | _ => false
/-- exp of R239, R240 and R250: 0 at −∞, +∞ at +∞, the canonical NaN for a NaN; otherwise the open value. -/
def fExp (x : Nat) : Nat :=
  match fDec x with
  | .nan _ => fNaN
  | .inf n => if n then 0 else 0x7F800000
  | .fin _ _ _ => (Config.fexp (BitVec.ofNat 32 x)).toNat
def fNeg (x : Nat) : Nat := if 0x80000000 ≤ x then x - 0x80000000 else x + 0x80000000

/-! ### Checks (R215) -/

/-- A check: it fails, the status it gives, the byte offset of its field. -/
abbrev Check := Bool × Nat × Nat

def vVersion : Nat := 0x0C
def vDesc : Nat := 0x04
def vShape : Nat := 0x80
def vType : Nat := 0x81
def vAlign : Nat := 0x82
def vRegion : Nat := 0x83
def vPsum : Nat := 0x84
def vOutSpace : Nat := 0x85

/-- The first check that fails: the order of R215's rows, and within a row of the command's fields. -/
def firstBad : List Check → Option (Nat × Nat)
  | [] => none
  | (b, st, f) :: cs => if b then some (st, f) else firstBad cs

/-- A nonzero byte among reserved ones. -/
def reservedAt (bs : List Byte) (off n : Nat) : Check := (!((bs.drop off).take n).all (· == 0), vDesc, off)

/-- The header checks of R213 for engine `e` and length `len`. -/
def headerChecks (bs : List Byte) (e len : Nat) (known : Bool) : List Check :=
  [(fieldAt bs 0 1 != 1, vVersion, 0), (fieldAt bs 1 1 != e, vDesc, 1), (!known, vDesc, 2),
   (fieldAt bs 4 2 != len, vDesc, 4), reservedAt bs 6 2]

/-! ### Tensors (R214) -/

structure Tensor where
  addr : Nat
  type : Nat
  layout : Nat
  comp : Bool
  ratio : Bool
  n : Nat
  d : Nat
  h : Nat
  w : Nat
  c : Nat
  strideH : Nat
  strideD : Nat
  deriving DecidableEq, Repr

def parseTensor (bs : List Byte) (o : Nat) : Tensor :=
  { addr := fieldAt bs o 6, type := fieldAt bs (o + 6) 1, layout := fieldAt bs (o + 7) 1,
    comp := bitOf (fieldAt bs (o + 8) 1) 0, ratio := bitOf (fieldAt bs (o + 8) 1) 1,
    n := fieldAt bs (o + 0xC) 2, d := fieldAt bs (o + 0xE) 2, h := fieldAt bs (o + 0x10) 2,
    w := fieldAt bs (o + 0x12) 2, c := fieldAt bs (o + 0x14) 2, strideH := fieldAt bs (o + 0x18) 4,
    strideD := fieldAt bs (o + 0x1C) 4 }

def Tensor.ty (t : Tensor) : ElemType := (ElemType.ofCode t.type).getD .i8
def Tensor.bits (t : Tensor) : Nat := t.ty.width
/-- Index bits of a compressed sub-block (R219). -/
def compIndexBits (bits : Nat) (ratio : Bool) : Nat :=
  if bits = 8 then (if ratio then 1 else 3) else (if ratio then 2 else 6)
/-- Bytes of a sub-block (R219). -/
def compSubBytes (bits : Nat) (ratio : Bool) : Nat :=
  if bits = 8 then (if ratio then 4 else 8) else (if ratio then 8 else 16)
/-- The stored block size of a BLK8 tensor. -/
def Tensor.blockBytes (t : Tensor) : Nat :=
  if t.comp then 64 * compSubBytes t.bits t.ratio else 1024 * t.bits / 8
def Tensor.hb (t : Tensor) : Nat := (t.h + 7) / 8
def Tensor.wb (t : Tensor) : Nat := (t.w + 7) / 8
def Tensor.cb (t : Tensor) : Nat := (t.c + 15) / 16
def Tensor.blocks (t : Tensor) : Nat := t.n * t.d * t.hb * t.wb * t.cb
def Tensor.rowBytes (t : Tensor) : Nat := (t.w * t.c * t.bits + 7) / 8
/-- Bytes from the address to one past the last byte of the tensor. -/
def Tensor.extent (t : Tensor) : Nat :=
  if t.layout = 2 then t.blocks * t.blockBytes
  else (t.n * t.d - 1) * t.strideD + (t.h - 1) * t.strideH + t.rowBytes

/-- The types compression accepts (R219). -/
def compType (t : ElemType) : Bool := t == .i8 || t == .e4m3 || t == .e5m2 || t == .bf16 || t == .f16

def Tensor.descChecks (bs : List Byte) (o : Nat) : List Check :=
  [(decide (2 < fieldAt bs (o + 7) 1), vDesc, o + 7), (decide (4 ≤ fieldAt bs (o + 8) 1), vDesc, o + 8),
   reservedAt bs (o + 9) 3, reservedAt bs (o + 0x16) 2]

def dimBad (x hi : Nat) : Bool := x == 0 || decide (hi < x)

/-- Shape checks of one tensor. `mortar` says that its address lies in a Mortar. -/
def Tensor.shapeChecks (t : Tensor) (mortar : Bool) (o : Nat) : List Check :=
  [(t.comp && (t.layout != 2 || mortar), vShape, o + 8),
   (dimBad t.n 64, vShape, o + 0xC), (dimBad t.d 8192 || (t.layout == 0 && t.d != 1), vShape, o + 0xE),
   (dimBad t.h 8192, vShape, o + 0x10), (dimBad t.w 8192, vShape, o + 0x12),
   (dimBad t.c 8192 || (t.type == 2 && t.c % 2 == 1), vShape, o + 0x14),
   (if t.layout = 2 then t.strideH != 0 else decide (t.strideH < t.rowBytes), vShape, o + 0x18),
   (t.layout == 2 && t.strideD != 0, vShape, o + 0x1C)]

def Tensor.typeChecks (t : Tensor) (o : Nat) : List Check := [(t.comp && !compType t.ty, vType, o + 6)]

def Tensor.alignChecks (t : Tensor) (o : Nat) : List Check :=
  [(if t.layout = 2 then t.addr % t.blockBytes != 0 else t.addr % 64 != 0, vAlign, o),
   (t.strideH % 64 != 0, vAlign, o + 0x18), (t.strideD % 64 != 0, vAlign, o + 0x1C)]

/-! ### Compression (R218–R222) -/

/-- The key of a code: it orders codes by value (R220). `int8` is the kind. -/
def compKey (int8 : Bool) (e x : Nat) : Nat :=
  if int8 then (x + 128) % 256
  else if x < 2 ^ (e - 1) then x + 2 ^ (e - 1) else 2 ^ e - 1 - x
def compUnkey (int8 : Bool) (e k : Nat) : Nat :=
  if int8 then (k + 128) % 256
  else if 2 ^ (e - 1) ≤ k then k - 2 ^ (e - 1) else 2 ^ e - 1 - k

/-- Round a nonnegative quotient to nearest, ties to even. -/
def rneDiv (a b : Nat) : Nat :=
  let q := a / b
  let r := a % b
  if 2 * r < b then q else if b < 2 * r then q + 1 else if q % 2 = 0 then q else q + 1

/-- Key of level j between keys k0 and k1 with `top` = 2^k − 1 (R220). -/
def compLevel (k0 k1 top j : Nat) : Nat :=
  if k0 ≤ k1 then k0 + rneDiv (j * (k1 - k0)) top else k0 - rneDiv (j * (k0 - k1)) top

def natDist (a b : Nat) : Nat := if a ≤ b then b - a else a - b

/-- The index of the level nearest to key x, the lower index on a tie. -/
def nearestLevel (k0 k1 top x : Nat) : Nat → Nat
  | 0 => 0
  | j + 1 =>
    let best := nearestLevel k0 k1 top x j
    if natDist (compLevel k0 k1 top (j + 1)) x < natDist (compLevel k0 k1 top best) x then j + 1 else best

def minBy (f : Nat → Nat) : Nat → List Nat → Nat
  | b, [] => b
  | b, x :: xs => minBy f (if f x < f b then x else b) xs
def maxBy (f : Nat → Nat) : Nat → List Nat → Nat
  | b, [] => b
  | b, x :: xs => maxBy f (if f b < f x then x else b) xs

/-- Bits of a list of indices of k bits each, the first lowest. -/
def packBits (k : Nat) : List Nat → Nat
  | [] => 0
  | x :: xs => x + 2 ^ k * packBits k xs

/-- How elements are taken by the encoder: INT8, or a floating format (for 16 bits a DMA leaves open which). -/
inductive CompKind where
  | int8
  | flt (t : ElemType)
  deriving DecidableEq, Repr

def CompKind.isNaN (k : CompKind) (x : Nat) : Bool :=
  match k with
  | .int8 => false
  | .flt t => (t.decode x).isNaN

/-- Encode one sub-block of 16 codes of `e` bits (R220, R221) as its bytes. -/
def compEncode (kind : CompKind) (e : Nat) (ratio : Bool) (xs : List Nat) : List Byte :=
  let k := compIndexBits e ratio
  let top := 2 ^ k - 1
  let int8 := kind == .int8
  let key := compKey int8 e
  if xs.any kind.isNaN then
    let c : Nat := match kind with
      | .int8 => 0
      | .flt t => t.fmt.canonNaN
    leBytes (compSubBytes e ratio) (c + 2 ^ e * c)
  else
    let lo := minBy key (xs.headD 0) xs
    let hi := maxBy key (xs.headD 0) xs
    let e0 := if e = 16 then lo else if int8 then min lo hi else max lo hi
    let e1 := if e = 16 then hi else if int8 then max lo hi else min lo hi
    let idx := xs.map (fun x => nearestLevel (key e0) (key e1) top (key x) top)
    leBytes (compSubBytes e ratio) (e0 + 2 ^ e * e1 + 2 ^ (2 * e) * packBits k idx)

/-- Decode element i of a sub-block (R220). -/
def compDecode (e : Nat) (ratio : Bool) (sub : List Byte) (i : Nat) : Nat :=
  let x := leNat sub
  let k := compIndexBits e ratio
  let e0 := x % 2 ^ e
  let e1 := (x >>> e) % 2 ^ e
  let j := (x >>> (2 * e + k * i)) % 2 ^ k
  if e0 = e1 then e0
  else
    let int8 := decide (e = 8) && decide (e0 < e1)
    compUnkey int8 e (compLevel (compKey int8 e e0) (compKey int8 e e1) (2 ^ k - 1) j)

/-- Sub-block and element of block position (h, w, c) (R219). -/
def compSub (h w c : Nat) : Nat := c * 4 + (h / 4 * 2 + w / 4)
def compElem (h w : Nat) : Nat := h % 4 * 4 + w % 4

/-- Encode a block of 1,024 codes in block order. -/
def compBlock (kind : CompKind) (e : Nat) (ratio : Bool) (xs : List Nat) : List Byte :=
  (List.range 64).flatMap (fun s =>
    compEncode kind e ratio ((List.range 16).map (fun i =>
      let h := s % 4 / 2 * 4 + i / 4
      let w := s % 2 * 4 + i % 4
      xs.getD ((h * 8 + w) * 16 + s / 4) 0)))

/-- Decode a stored block into its 1,024 codes in block order. -/
def decompBlock (e : Nat) (ratio : Bool) (bs : List Byte) : List Nat :=
  (List.range 1024).map (fun p =>
    let h := p / 128
    let w := p / 16 % 8
    let sb := compSubBytes e ratio
    compDecode e ratio ((bs.drop (compSub h w (p % 16) * sb)).take sb) (compElem h w))

/-- The encoder's kind for an engine tensor of type t. -/
def compKindOf (t : ElemType) : CompKind := if t == .i8 then .int8 else .flt t
/-- The kind a compressing DMA write uses (R224). -/
def compKindDma (es : Nat) : CompKind :=
  if es = 1 then .int8 else .flt (if Config.dmaHalfIsF16 then .f16 else .bf16)

/-! ### Reading and writing tensors -/

/-- A code of `bits` bits at bit position `bits·i` of a byte string read through `rd`. -/
def codeAt (rd : Nat → Nat → List Byte) (base bits i : Nat) : Nat :=
  if bits = 4 then (leNat (rd (base + i / 2) 1) >>> (4 * (i % 2))) % 16
  else leNat (rd (base + i * (bits / 8)) (bits / 8))

def Tensor.blockIndex (t : Tensor) (n d h w c : Nat) : Nat :=
  (((n * t.d + d) * t.hb + h / 8) * t.wb + w / 8) * t.cb + c / 16

/-- Address of row (n, d, h) of an NHWC or NDHWC tensor. -/
def Tensor.rowAddr (t : Tensor) (n d h : Nat) : Nat := t.addr + (n * t.d + d) * t.strideD + h * t.strideH

/-- The code of element (n, d, h, w, c). -/
def Tensor.read (rd : Nat → Nat → List Byte) (t : Tensor) (n d h w c : Nat) : Nat :=
  if t.layout = 2 then
    let b := t.addr + t.blockIndex n d h w c * t.blockBytes
    if t.comp then
      compDecode t.bits t.ratio
        (rd (b + compSub (h % 8) (w % 8) (c % 16) * compSubBytes t.bits t.ratio) (compSubBytes t.bits t.ratio))
        (compElem (h % 8) (w % 8))
    else codeAt rd b t.bits ((h % 8 * 8 + w % 8) * 16 + c % 16)
  else codeAt rd (t.rowAddr n d h) t.bits (w * t.c + c)

/-- What writing the tensor stores: address and bytes of each row or block. Padding of a block is 0 (R218). -/
def Tensor.store (t : Tensor) (val : Nat → Nat → Nat → Nat → Nat → Nat) : List (Nat × List Byte) :=
  (List.range t.n).flatMap (fun n => (List.range t.d).flatMap (fun d =>
    if t.layout = 2 then
      (List.range t.hb).flatMap (fun bh => (List.range t.wb).flatMap (fun bw => (List.range t.cb).map (fun bc =>
        let at_ (p : Nat) : Nat :=
          let h := 8 * bh + p / 128
          let w := 8 * bw + p / 16 % 8
          let c := 16 * bc + p % 16
          if h < t.h ∧ w < t.w ∧ c < t.c then val n d h w c else 0
        let xs := (List.range 1024).map at_
        (t.addr + t.blockIndex n d (8 * bh) (8 * bw) (16 * bc) * t.blockBytes,
          if t.comp then compBlock (compKindOf t.ty) t.bits t.ratio xs else xs.flatMap (leBytes (t.bits / 8))))))
    else
      (List.range t.h).map (fun h =>
        (t.rowAddr n d h,
          (List.range t.w).flatMap (fun w => (List.range t.c).flatMap (fun c => leBytes (t.bits / 8) (val n d h w c)))))))

/-- Sum of a count over every position of a tensor. -/
def Tensor.total (t : Tensor) (cnt : Nat → Nat → Nat → Nat → Nat → Nat) : Nat :=
  ((List.range t.n).map (fun n => ((List.range t.d).map (fun d => ((List.range t.h).map (fun h =>
    ((List.range t.w).map (fun w => ((List.range t.c).map (fun c => cnt n d h w c)).sum)).sum)).sum)).sum)).sum

/-- What a command that passed its checks does: the bytes it stores, its saturations, its status, and whether and
with what KEPT it reports SIEVE_TRUNCATED. -/
structure EngOut where
  stores : List (Nat × List Byte)
  sat : Nat
  status : Nat
  truncated : Option Nat
  /-- ranges whose contents the spec leaves undefined afterwards: address and bytes -/
  undef : List (Nat × Nat)
  deriving DecidableEq, Repr

def EngOut.ok (stores : List (Nat × List Byte)) (sat : Nat) : EngOut :=
  { stores := stores, sat := sat, status := 0, truncated := none, undef := [] }

/-- An output code with 1 where a saturation or a clamp changed it. -/
abbrev Cell1 := Nat × Nat

/-- The flag SAT counted. -/
def satOf (f : Flags) : Nat := if f &&& .sat = 0 then 0 else 1

end Sys2Proof.Machine
end

