-- ==== Sys2Proof/Machine/JobState.lean ====
section
/-! DEFINITION. The state the job front-end holds: contexts, partitions, models, the Quadrille, speculation
epochs, the rings and their records (R130–R212). -/
namespace Sys2Proof.Machine

/-- The states of a context (R148). -/
inductive CtxState where
  | free | queued | ready | running | yielding | suspended | resuming | draining | ending
  deriving DecidableEq, Repr

/-- The code of a context state (R148). -/
def CtxState.code : CtxState → Nat
  | .free => 0 | .queued => 1 | .ready => 2 | .running => 3 | .yielding => 4 | .suspended => 5
  | .resuming => 6 | .draining => 7 | .ending => 8

/-- The fields of an accepted INVOKE or PLAN_REQUEST that the job keeps (R136, R176, R179). -/
structure Invoke where
  model : Nat
  /-- figure index, or 0xFF for the next such figure -/
  figure : Nat
  /-- nanoseconds from the figure's start; 0 for its end -/
  deadline : Nat
  /-- bit 8n + c: cluster c of die n -/
  clusters : Nat
  /-- bit 4n + e: engine e of die n; bit 16 Cairn -/
  engines : Nat
  readEpochs : List Nat
  writeEpoch : Nat
  resolver : Nat
  /-- SQUASH_ACTION is re-run -/
  rerun : Bool
  seed : BitVec 64
  /-- bindings: index, address, 4 KiB pages -/
  bindings : List (Nat × Nat × Nat)
  /-- the PLAN_REQUEST's Cairn command address -/
  command : Nat
  deriving DecidableEq, Repr

def Invoke.empty : Invoke :=
  { model := 0, figure := 0, deadline := 0, clusters := 0, engines := 0, readEpochs := [], writeEpoch := 0,
    resolver := 0, rerun := false, seed := 0, bindings := [], command := 0 }

/-- One job context. -/
structure Ctx where
  state : CtxState
  part : Nat
  /-- the context is held by a PLAN_REQUEST (R179) -/
  isPlan : Bool
  inv : Invoke
  seq : BitVec 32
  notify : Bool
  /-- order of acceptance (R146) -/
  order : Nat
  /-- figure released in; none before the release -/
  figure : Option Nat
  /-- Plumb time of the deadline, once released (R147) -/
  deadlineAt : Nat
  /-- status of the last completed job (R161) -/
  status : BitVec 8
  /-- status the running teardown, or the ending, will report -/
  ending : BitVec 8
  rolledBack : Bool
  wasSuspended : Bool
  cseq : BitVec 32
  /-- Plumb ns of the first instruction; none before it -/
  startNs : Option Nat
  /-- Plumb ns at which the context was last suspended -/
  suspendNs : Nat
  /-- tick of the pre-emption request (R154) -/
  preemptTick : Nat
  /-- the epochs are taken as 0x00 (R195, R207) -/
  noEpoch : Bool
  /-- re-run under R207 has been used -/
  rerunDone : Bool
  /-- READY, but waiting for the resolvers of its epoch to end (R207) -/
  rerunWait : Bool
  /-- EPOCH_LIMIT written for this job (R194) -/
  limitTold : Bool
  /-- the job opened or joined its write epoch -/
  joined : Bool
  /-- cores still to execute END -/
  coresLeft : Nat
  /-- key-value sequences the job declared (R256) -/
  sequences : List Nat
  /-- completion result fields of a PLAN_REQUEST -/
  res16 : Nat
  res32 : Nat
  /-- tick at which the trigger of the teardown or ending was recorded (R150) -/
  trigTick : Option Nat
  /-- a couple of the job reported a difference; it issued a Cairn command (R409) -/
  mismatched : Bool
  usedCairn : Bool
  /-- the fault that ends it is a storage error (R427) -/
  storage : Bool
  deriving DecidableEq, Repr

def Ctx.free : Ctx :=
  { state := .free, part := 0, isPlan := false, inv := Invoke.empty, seq := 0, notify := false, order := 0,
    figure := none, deadlineAt := 0, status := 0, ending := 0, rolledBack := false, wasSuspended := false,
    cseq := 0, startNs := none, suspendNs := 0, preemptTick := 0, noEpoch := false, rerunDone := false,
    rerunWait := false, limitTold := false, joined := false, coresLeft := 0,
    sequences := [], res16 := 0, res32 := 0, trigTick := none, mismatched := false, usedCairn := false, storage := false }

/-- A memory region of a partition (R138). -/
structure Region where
  /-- 0 unused, 1 DRAM, 2 Mortar, 3 register pages, 4 semaphores -/
  kind : Nat
  base : Nat
  /-- pages of 4 KiB, or the count of semaphores -/
  size : Nat
  r : Bool
  w : Bool
  x : Bool
  mirror : Bool
  deriving DecidableEq, Repr

/-- A partition entry (R137). -/
structure Part where
  index : Nat
  /-- 0 QM, 1 A, 2 B, 3 C, 4 D -/
  cls : Nat
  paired : Bool
  expert : Bool
  gauUser : Bool
  preemptible : Bool
  clusters : Nat
  engines : Nat
  bwClasses : Nat
  bwDefault : Nat
  /-- weights of Window Engine, Plinth, Sieve, Tracery -/
  share : List Nat
  saveBase : Nat
  saveSize : Nat
  regions : List Region
  /-- the 384 bytes of the entry, which a quote digests (R493) -/
  bytes : List Byte
  deriving DecidableEq, Repr

/-- A model slot (R133). -/
structure Model where
  loaded : Bool
  gen : Nat
  part : Nat
  image : Nat
  size : Nat
  /-- BOUNDED, MULTIPASS, ENCRYPTED, KV_APPEND -/
  flags : Nat
  dies : Nat
  clusters : Nat
  /-- device-physical address of the code section, its bytes, and the entry PC -/
  code : Nat
  codeSize : Nat
  entry : Nat
  /-- yield entries: index, live-range entry, code offset in instructions -/
  yields : List (Nat × Nat × Nat)
  /-- live-range entries: register mask and ranges -/
  lives : List (Nat × List (Nat × Nat))
  /-- range and bytes of the constants section -/
  consts : Nat
  constsSize : Nat
  /-- a key entry stands in the decryption tables (R497) -/
  keyed : Bool
  /-- bindings of the tensor map: index, permissions needed (bit 0 read, bit 1 write), key-value sequence (log entry 50) -/
  binds : List (Nat × Nat × Bool)
  /-- digest of the image (R131) -/
  digest : List Byte
  deriving DecidableEq, Repr

def Model.none : Model :=
  { loaded := false, gen := 0, part := 0, image := 0, size := 0, flags := 0, dies := 0, clusters := 0, code := 0,
    codeSize := 0, entry := 0, yields := [], lives := [], consts := 0, constsSize := 0, keyed := false, binds := [], digest := [] }

/-- A figure of the Quadrille (R141). -/
structure Figure where
  start : Nat
  length : Nat
  /-- 0 compute, 1 test, 2 guard -/
  type : Nat
  part : Nat
  clusters : Nat
  engines : Nat
  deriving DecidableEq, Repr

/-- A Quadrille table. -/
structure Quadrille where
  frame : Nat
  figures : List Figure
  /-- the bytes of the table, which a quote digests (R493) -/
  bytes : List Byte
  deriving DecidableEq, Repr

/-- The states of an epoch (R194). -/
inductive EpochState where
  | free | opened | confirmed | squashed
  deriving DecidableEq, Repr

/-- A speculation epoch (R193, R194). -/
structure Epoch where
  state : EpochState
  owner : Nat
  /-- reason of the squash (R205) -/
  reason : Nat
  /-- the entry as read when the epoch opened: kinds, predicted values, tolerances (FP32 codes) -/
  kinds : List Nat
  predicted : List Nat
  tolerance : List Nat
  openedNs : Nat
  /-- figure in which it opened -/
  figure : Nat
  /-- the prediction held; confirmation waits for dependencies (R203) -/
  held : Bool
  /-- contexts that joined as writers in this frame -/
  writers : List Nat
  /-- dependencies: the epochs its writers read (R203) -/
  deps : List Nat
  /-- writer contexts ended by the squash -/
  ended : Nat
  deriving DecidableEq, Repr

def Epoch.free : Epoch :=
  { state := .free, owner := 0, reason := 0, kinds := [], predicted := [], tolerance := [], openedNs := 0,
    figure := 0, held := false, writers := [], deps := [], ended := 0 }

/-- A register write of a job's DMA that an open epoch holds (R198). -/
structure HeldWrite where
  epoch : Nat
  ctx : Nat
  offset : Nat
  value : BitVec 32
  deriving DecidableEq, Repr

/-- An event record (R21), before it is in the ring. -/
structure Event where
  ns : BitVec 64
  frac : BitVec 32
  source : BitVec 32
  code : BitVec 16
  sev : Nat
  seq : BitVec 32
  arg0 : BitVec 32
  arg1 : BitVec 32
  deriving DecidableEq, Repr

/-- A completion record (R180), before it is in the ring; its CSEQ is given when it is written. -/
structure Completion where
  seq : BitVec 32
  type : Nat
  status : BitVec 8
  /-- [0] ROLLED_BACK, [1] WAS_SUSPENDED -/
  flags : Nat
  /-- context, or 0xFFFF -/
  ctx : Nat
  res16 : Nat
  res32 : Nat
  ns : BitVec 64
  notify : Bool
  /-- partition whose vector is signalled; none: vector 0 -/
  part : Option Nat
  deriving DecidableEq, Repr

/-- An accepted descriptor that has not been carried out. -/
structure Accepted where
  seq : BitVec 32
  /-- the 64 bytes -/
  bytes : List Byte
  deriving DecidableEq, Repr

/-- The job front-end and the host rings. -/
structure Jfe where
  ctxs : FMap Ctx
  /-- partition entries in force, and entries waiting for a frame boundary (R140) -/
  parts : FMap (Option Part)
  waiting : FMap (Option Part)
  models : FMap Model
  quad : Option Quadrille
  /-- the accepted Quadrille and the Plumb time of its ORIGIN, 0 for none given -/
  quadNext : Option (Quadrille × Nat)
  /-- origin of the current frame, on the elapsed clock -/
  origin : Nat
  /-- major frames since the running Quadrille took effect -/
  frameCount : BitVec 32
  /-- major frames since power-up, counted across switches (R438) -/
  frames : Nat
  /-- open figures, by index -/
  opened : List Nat
  /-- figures already opened in this frame -/
  done : List Nat
  epochs : FMap Epoch
  /-- frames of warm-up left (R209) -/
  warmup : Nat
  heldWrites : List HeldWrite
  /-- squash triggers met and not yet acted on: epoch and reason -/
  squash : List (Nat × Nat)
  /-- next acceptance order number -/
  order : Nat
  /-- accepted descriptors, oldest first -/
  accepted : List Accepted
  /-- SEQ the ring expects next -/
  expected : BitVec 32
  /-- START of each ring as latched by its enable -/
  sqStart : BitVec 32
  cqStart : BitVec 32
  eqStart : BitVec 32
  /-- out-of-sequence values already reported since the slot last matched (R171) -/
  seqTold : List (BitVec 32)
  stallTold : Bool
  /-- completion records not yet written, and how many of them have entered the hold buffer -/
  cq : List Completion
  held : Nat
  /-- event records not yet written or discarded -/
  ev : List Event
  evSeq : BitVec 32
  /-- event records discarded since room was last found, and the SEQ of the first -/
  lost : Nat
  lostFirst : BitVec 32
  /-- records written per vector since its last signal, and the tick of the oldest unsignalled -/
  coalCount : FMap Nat
  coalTick : FMap (Option Nat)
  /-- CSEQ of the last completion and CONSUMED values last read -/
  lastCseq : BitVec 32
  /-- contexts whose job-saving slot is held: core to its save (R154) -/
  saves : FMap (Option SaveSlot)
  deriving DecidableEq, Repr

def Jfe.reset : Jfe :=
  { ctxs := [], parts := [], waiting := [], models := [], quad := none, quadNext := none, origin := 0,
    frameCount := 0, frames := 0, opened := [], done := [], epochs := [], warmup := 8, heldWrites := [], squash := [], order := 0,
    accepted := [], expected := 0, sqStart := 0, cqStart := 0, eqStart := 0, seqTold := [], stallTold := false,
    cq := [], held := 0, ev := [], evSeq := 0, lost := 0, lostFirst := 0, coalCount := [], coalTick := [],
    lastCseq := 0xFFFFFFFF, saves := [] }

end Sys2Proof.Machine
end

