-- ==== Sys2Proof/Machine/JobFormats.lean ====
section
/-! DEFINITION. The tables and images the job front-end reads, and the checks that need nothing but their bytes:
partition entries (R137–R139), Quadrille tables (R141–R143), job images (R130–R133), INVOKE and the other
descriptors (R174–R178), epoch entries and the comparison of resolved values (R193, R202), and the records it
writes (R21, R161, R180). -/
namespace Sys2Proof.Machine

/-! ### Completion status codes (R15) -/
def stOk : BitVec 8 := 0x00
def stDroppedLate : BitVec 8 := 0x01
def stFaultContext : BitVec 8 := 0x02
def stPreemptedDiscarded : BitVec 8 := 0x03
def stInvalidDesc : BitVec 8 := 0x04
def stFencedResource : BitVec 8 := 0x05
def stSpecSquashed : BitVec 8 := 0x06
def stMismatch : BitVec 8 := 0x07
def stNoPath : BitVec 8 := 0x08
def stPlanTimeout : BitVec 8 := 0x09
def stSecurityDenied : BitVec 8 := 0x0A
def stMemoryUncorrectable : BitVec 8 := 0x0B
def stVersionUnsupported : BitVec 8 := 0x0C
def stSafeState : BitVec 8 := 0x0D
def stPoisonedRelease : BitVec 8 := 0x0E

/-- Rank of a reason when several apply at once (R19): lower ranks first. -/
def reasonRank (c : Nat) : Nat :=
  match c with
  | 0x0D => 0 | 0x07 => 1 | 0x05 => 2 | 0x0B => 3 | 0x80 => 4 | 0x01 => 5 | 0x81 => 6
  | _ => 0x100 + c

/-- All bytes of a field are 0. -/
def zeroAt (bs : List Byte) (off n : Nat) : Bool := ((bs.drop off).take n).all (· == 0)

/-! ### Partition entries -/

/-- One region entry (R138): memory kinds take BASE [47:12] and pages, semaphores a first number and a count. -/
def parseRegion (bs : List Byte) : Region :=
  let a := fieldAt bs 12 4
  let k := a % 8
  let b := fieldAt bs 0 8
  { kind := k, base := if k = 4 then b else b % 2 ^ 48 / 4096 * 4096, size := fieldAt bs 8 4,
    r := bitOf a 3, w := bitOf a 4, x := bitOf a 5, mirror := bitOf a 6 }

def parsePart (bs : List Byte) : Part :=
  let fl := fieldAt bs 3 1
  { index := fieldAt bs 1 1, cls := fieldAt bs 2 1, paired := bitOf fl 0, expert := bitOf fl 1,
    gauUser := bitOf fl 2, preemptible := bitOf fl 3, clusters := fieldAt bs 4 4, engines := fieldAt bs 8 4,
    bwClasses := fieldAt bs 0xC 2, bwDefault := fieldAt bs 0xE 1,
    share := (List.range 4).map (fun e => max 1 (fieldAt bs (0x10 + e) 1)),
    saveBase := fieldAt bs 0x18 6, saveSize := fieldAt bs 0x20 4,
    regions := (List.range 16).map (fun j => parseRegion ((bs.drop (0x80 + 16 * j)).take 16)), bytes := bs }

/-- A reserved field or value not 0, or a FORMAT other than 0x01 (R137–R139). X stands for DRAM only; MIRROR for
DRAM and classes C and D only. -/
def partReserved (bs : List Byte) : Bool :=
  fieldAt bs 0 1 != 1 || decide (15 < fieldAt bs 1 1) || decide (4 < fieldAt bs 2 1) || decide (16 ≤ fieldAt bs 3 1) ||
  decide (2 ^ 17 ≤ fieldAt bs 8 4) || decide (16 ≤ fieldAt bs 0xE 1) || !zeroAt bs 0xF 1 || !zeroAt bs 0x14 4 ||
  !zeroAt bs 0x1E 2 || fieldAt bs 0x18 6 % 4096 != 0 || !zeroAt bs 0x24 92 ||
  (List.range 16).any (fun j =>
    let a := fieldAt bs (0x80 + 16 * j + 12) 4
    let base := fieldAt bs (0x80 + 16 * j) 8
    let mem := decide (1 ≤ a % 8) && decide (a % 8 ≤ 3)
    decide (128 ≤ a) || decide (4 < a % 8) || (mem && (base % 4096 != 0 || decide (2 ^ 48 ≤ base))) ||
    (a % 8 != 0 && ((bitOf a 5 && a % 8 != 1) || (bitOf a 6 && (a % 8 != 1 || decide (fieldAt bs 2 1 < 3))))))

/-- Byte extent of a memory or register region. -/
def Region.bytes (g : Region) : Nat := g.size * 4096
def Region.isMem (g : Region) : Bool := g.kind == 1 || g.kind == 2 || g.kind == 3
def regionsMeet (g h : Region) : Bool := g.isMem && h.isMem && overlaps g.base g.bytes h.base h.bytes
def semsMeet (g h : Region) : Bool := g.kind == 4 && h.kind == 4 && overlaps g.base g.size h.base h.size

/-- Save slots: one per couple for a PAIRED partition, otherwise one per core (R154). -/
def Part.slots (p : Part) : Nat := (coresOf p.clusters).length / (if p.paired then 2 else 1)

/-- Does [a, a+n) meet the JFE, the Host rings, Nguldoel or a Quoin mailbox in register space (R139)? -/
def forbiddenPages (a n : Nat) : Bool :=
  overlaps a n (regBase + 0x10000) 0x20000 || overlaps a n (regBase + 0xA0000) 0x10000 ||
  overlaps a n (regBase + 0xE0000) 0x20000

/-- The rules of R139 that an entry breaks: alone, or against the entries of the other partitions. -/
def partRuleBroken (h : Hw) (p : Part) (others : List Part) : Bool :=
  (decide (3 ≤ p.cls) && !p.paired) ||
  (p.preemptible && decide (p.saveSize < 32768 * p.slots)) ||
  (decide (0 < p.saveSize) && (!inMem h p.saveBase p.saveSize ||
    (p :: others).any (fun q => q.regions.any (fun g => g.isMem && overlaps p.saveBase p.saveSize g.base g.bytes)))) ||
  others.any (fun q => p.regions.any (fun g => q.regions.any (fun k =>
    semsMeet g k || (regionsMeet g k && (g.w || k.w))))) ||
  others.any (fun q => decide (0 < q.saveSize) &&
    p.regions.any (fun g => g.isMem && overlaps q.saveBase q.saveSize g.base g.bytes)) ||
  p.regions.any (fun g => g.kind == 3 && forbiddenPages g.base g.bytes)

/-- Does some region of the partition cover [a, a+n) with the permission? Regions may adjoin: the range is
followed from region to region. `need`: 0 read, 1 write, 2 execute. -/
def Region.perm (g : Region) (need : Nat) : Bool :=
  match need with
  | 0 => g.r
  | 1 => g.w
  | _ => g.x

def coverFrom (gs : List Region) (need : Nat) : Nat → Nat → Nat → Bool
  | 0, a, e => decide (e ≤ a)
  | k + 1, a, e =>
    if e ≤ a then true
    else match gs.find? (fun g => g.isMem && g.perm need && decide (g.base ≤ a) && decide (a < g.base + g.bytes)) with
      | some g => coverFrom gs need k (g.base + g.bytes) e
      | none => false

/-- Is [a, a+n) within the partition's memory regions with the permission? -/
def Part.allows (p : Part) (a n need : Nat) : Bool := coverFrom p.regions need 16 a (a + n)

/-- Does a semaphore region grant the semaphore (R109)? -/
def Part.grantsSem (p : Part) (num : Nat) : Bool :=
  p.regions.any (fun g => g.kind == 4 && decide (g.base ≤ num) && decide (num < g.base + g.size))

/-! ### Quadrille tables (R141–R143) -/

def parseFigure (bs : List Byte) : Figure :=
  { start := fieldAt bs 0 4, length := fieldAt bs 4 4, type := fieldAt bs 8 1, part := fieldAt bs 9 1 % 16,
    clusters := fieldAt bs 0xC 4, engines := fieldAt bs 0x10 4 }

def figureBytes (bs : List Byte) (i : Nat) : List Byte := (bs.drop (64 + 32 * i)).take 32

def parseQuadrille (bs : List Byte) : Quadrille :=
  { frame := fieldAt bs 4 4, figures := (List.range (fieldAt bs 1 1)).map (fun i => parseFigure (figureBytes bs i)), bytes := bs }

/-- FORMAT, a reserved field or a reserved value of the table (R141). A guard figure's PARTITION is ignored. -/
def quadReserved (bs : List Byte) : Bool :=
  fieldAt bs 0 1 != 1 || !zeroAt bs 2 2 || !zeroAt bs 0x10 48 ||
  (List.range (fieldAt bs 1 1)).any (fun i =>
    let f := figureBytes bs i
    decide (2 < fieldAt f 8 1) || (fieldAt f 8 1 != 2 && decide (16 ≤ fieldAt f 9 1)) || !zeroAt f 0xA 2 ||
    decide (2 ^ 17 ≤ fieldAt f 0x10 4) || !zeroAt f 0x14 12)

def figMeet (f g : Figure) : Bool := overlaps f.start f.length g.start g.length
def shareCluster (f g : Figure) : Bool := f.clusters &&& g.clusters != 0
/-- Cairn may be shared by any figures (R143). -/
def shareEngine (f g : Figure) : Bool := (f.engines &&& g.engines) % 65536 != 0

/-- Do two figures that overlap in time break R143? `cls` and `pre` give a partition's class and PREEMPTIBLE. -/
def overlapBroken (cls : Nat → Nat) (pre : Nat → Bool) (f g : Figure) : Bool :=
  figMeet f g && (shareCluster f g || shareEngine f g) &&
  (f.type != 0 || g.type != 0 ||
   (shareCluster f g && cls f.part == cls g.part) ||
   (decide (cls f.part < cls g.part) && !pre f.part) ||
   (decide (cls g.part < cls f.part) && !pre g.part))

/-- Some pair of a list breaks a rule. -/
def anyPair {α : Type} (r : α → α → Bool) : List α → Bool
  | [] => false
  | x :: xs => xs.any (r x) || anyPair r xs

/-- The reason a table's own shape is refused (R142 checks 2, 4 and 5), 0 for none. -/
def quadShape (bs : List Byte) (q : Quadrille) : Nat :=
  if quadReserved bs then 0x01
  else if fieldAt bs 1 1 = 0 ∨ 64 < fieldAt bs 1 1 ∨ q.frame < 1000000 ∨ 1000000000 < q.frame then 0x02
  else 0

def figureBounds (q : Quadrille) : Bool :=
  q.figures.any (fun f => decide (q.frame < f.start + f.length) || (f.type == 0 && decide (f.length < 50000)) ||
    (f.type == 1 && decide (f.length < 202000)))
def figureTooLate (q : Quadrille) : Bool :=
  q.figures.any (fun f => f.type == 0 && decide (q.frame < f.start + f.length + 50000))

/-! ### Job images (R130–R133) -/

/-- A section: type, size, offset. -/
structure Section where
  type : Nat
  size : Nat
  off : Nat
  deriving DecidableEq, Repr

def imageSections (hd : List Byte) : List Section :=
  (List.range 8).map (fun i =>
    { type := fieldAt hd (0x40 + 16 * i) 2, size := fieldAt hd (0x44 + 16 * i) 4,
      off := fieldAt hd (0x48 + 16 * i) 8 })

def sectionOf (ss : List Section) (t : Nat) : Option Section := ss.find? (fun s => s.type == t)

def imageFlags (hd : List Byte) : Nat := fieldAt hd 8 4
def imageMagicBad (hd : List Byte) : Bool := fieldAt hd 0 4 != 0x314A5744 || fieldAt hd 4 2 != 1

/-- Check 5 of R133 over the 192-byte header. -/
def imageShapeBad (h : Hw) (hd : List Byte) (image size : Nat) : Bool :=
  let ss := imageSections hd
  let used := ss.filter (fun s => s.type != 0)
  let isz := fieldAt hd 0x18 8
  let has (t : Nat) : Bool := used.any (fun s => s.type == t)
  let bounded := bitOf (imageFlags hd) 0
  image % 4096 != 0 || size != isz || !inDram h image isz || decide (isz < 192) ||
  decide (16 ≤ imageFlags hd) || fieldAt hd 0xC 1 == 0 || decide (4 < fieldAt hd 0xC 1) ||
  fieldAt hd 0xD 1 == 0 || decide (8 < fieldAt hd 0xD 1) || !zeroAt hd 0xE 2 || !zeroAt hd 0x20 32 ||
  (List.range 8).any (fun i => !zeroAt hd (0x42 + 16 * i) 2) ||
  used.any (fun s => decide (7 < s.type) || decide (s.off < 192) || decide (isz < s.off + s.size)) ||
  anyPair (fun s t => s.type == t.type || overlaps s.off s.size t.off t.size) used ||
  !has 1 || !has 3 || !has 7 || (bounded && (!has 4 || !has 5)) ||
  (match sectionOf used 7 with
   | some s => s.size != 64 || s.off + s.size != isz
   | none => true) ||
  (match sectionOf used 1 with
   | some s => s.off % 8 != 0 || s.size % 8 != 0 || s.size == 0 || fieldAt hd 0x10 8 % 8 != 0 ||
       decide (s.size ≤ fieldAt hd 0x10 8)
   | none => true) ||
  (match sectionOf used 4 with
   | some s => s.size % 8 != 0
   | none => false) ||
  (match sectionOf used 5 with
   | some s => s.size % 88 != 0
   | none => false)

/-- A section's entries of `n` bytes each, read through `rd`. -/
def sectionEntries (rd : Nat → Nat → List Byte) (image : Nat) (s : Option Section) (n : Nat) : List (List Byte) :=
  match s with
  | some s => (List.range (s.size / n)).map (fun i => rd (image + s.off + n * i) n)
  | none => []

def parseYield (bs : List Byte) : Nat × Nat × Nat := (fieldAt bs 0 2, fieldAt bs 2 2, fieldAt bs 4 4)
def parseLive (bs : List Byte) : Nat × List (Nat × Nat) :=
  (fieldAt bs 0 16, (List.range (min 8 (fieldAt bs 0x10 1))).map (fun i =>
    (fieldAt bs (0x18 + 8 * i) 4 % lsSize, fieldAt bs (0x1C + 8 * i) 4)))

/-- A live-range entry that breaks check 6: a range outside the local store, unaligned, or over 16,384 bytes in all. -/
def liveBad (bs : List Byte) : Bool :=
  let rs := (parseLive bs).2
  decide (8 < fieldAt bs 0x10 1) || !zeroAt bs 0x11 7 || decide (2 ^ 124 ≤ fieldAt bs 0 16) ||
  (List.range (min 8 (fieldAt bs 0x10 1))).any (fun i => decide (lsSize ≤ fieldAt bs (0x18 + 8 * i) 4)) ||
  rs.any (fun g => g.1 % 64 != 0 || g.2 % 64 != 0 || decide (lsSize < g.1 + g.2)) ||
  decide (16384 < (rs.map (·.2)).sum)

/-- The word of a YLD: opcode 0xA3 in class 0b100 (R89, R117). -/
def isYldWord (w : Nat) : Bool := bitsOf w 63 56 == 0xA3 && bitsOf w 55 53 == 4

/-- Check 6 of R133. -/
def yieldsBad (rd : Nat → Nat → List Byte) (image : Nat) (hd : List Byte) : Bool :=
  let ss := imageSections hd
  let ys := sectionEntries rd image (sectionOf ss 4) 8
  let ls := sectionEntries rd image (sectionOf ss 5) 88
  let code := (sectionOf ss 1).getD ⟨0, 0, 0⟩
  ls.any liveBad || ys.any (fun y =>
    let e := parseYield y
    decide (ls.length ≤ e.2.1) || decide (code.size ≤ 8 * e.2.2) ||
    !isYldWord (leNat (rd (image + code.off + 8 * e.2.2) 8)))

/-- The dies of a cluster mask that offer at least `c` clusters. -/
def diesWith (mask c : Nat) : Nat :=
  ((List.range 4).filter (fun n => decide (c ≤ ((List.range 8).filter (fun k => bitOf mask (8 * n + k))).length))).length

/-- The model an image's header and tables describe. -/
def parseModel (rd : Nat → Nat → List Byte) (image : Nat) (hd : List Byte) (part gen : Nat) : Model :=
  let ss := imageSections hd
  let code := (sectionOf ss 1).getD ⟨0, 0, 0⟩
  let cs := (sectionOf ss 2).getD ⟨0, 0, 0⟩
  { loaded := true, gen := gen, part := part, image := image, size := fieldAt hd 0x18 8, flags := imageFlags hd,
    dies := fieldAt hd 0xC 1, clusters := fieldAt hd 0xD 1, code := image + code.off, codeSize := code.size,
    entry := image + code.off + fieldAt hd 0x10 8,
    yields := (sectionEntries rd image (sectionOf ss 4) 8).map parseYield,
    lives := (sectionEntries rd image (sectionOf ss 5) 88).map parseLive,
    consts := image + cs.off, constsSize := cs.size, keyed := false, binds := [], digest := [] }

/-! ### Descriptors (R174–R178) -/

def descType (bs : List Byte) : Nat := fieldAt bs 0 1
def descFormat (bs : List Byte) : Nat := fieldAt bs 1 1
def descNotify (bs : List Byte) : Bool := bitOf (fieldAt bs 2 2) 0
def descSeq (bs : List Byte) : BitVec 32 := BitVec.ofNat 32 (fieldAt bs 0x3C 4)

/-- Reserved bytes and bits of a descriptor, by type (R174, R176, R178). -/
def descReserved (bs : List Byte) : Bool :=
  decide (2 ≤ fieldAt bs 2 2) ||
  (match descType bs with
   | 1 => decide (0x1000 ≤ fieldAt bs 4 2) || !zeroAt bs 0x1E 2 || !zeroAt bs 0x2E 2 || !zeroAt bs 0x30 12
   | 2 => decide (16 ≤ fieldAt bs 4 1) || !zeroAt bs 5 3 || !zeroAt bs 0x20 28
   | 3 => !zeroAt bs 6 54
   | 4 => !zeroAt bs 4 4 || !zeroAt bs 0x10 44
   | 5 => !zeroAt bs 4 4 || !zeroAt bs 0x10 44
   | 6 => decide (0x1000 ≤ fieldAt bs 4 2) || decide (16 ≤ fieldAt bs 6 1) || !zeroAt bs 0xC 4 || !zeroAt bs 0x18 36
   | 7 => !zeroAt bs 4 4 || !zeroAt bs 0x10 44
   | 8 => decide (1 < fieldAt bs 8 1) || !zeroAt bs 9 51
   | 15 => !zeroAt bs 4 56
   | _ => false)

/-- Is the descriptor type one of R175? -/
def descKnown (t : Nat) : Bool := (decide (1 ≤ t) && decide (t ≤ 8)) || t == 15
/-- BIND_PARTITION, SET_QUADRILLE and UNLOAD_MODEL block acceptance (R172). -/
def descBlocks (t : Nat) : Bool := t == 3 || t == 4 || t == 5

/-- The fields of an INVOKE (R176). -/
def parseInvoke (bs : List Byte) (bindings : List (Nat × Nat × Nat)) : Invoke :=
  { model := fieldAt bs 6 2, figure := fieldAt bs 8 1, deadline := fieldAt bs 0x10 4, clusters := fieldAt bs 0x14 4,
    engines := fieldAt bs 0x18 4,
    readEpochs := ((List.range 4).map (fun i => fieldAt bs (0xC + i) 1)).filter (· != 0),
    writeEpoch := fieldAt bs 9 1, resolver := fieldAt bs 0xA 1, rerun := fieldAt bs 0xB 1 == 1,
    seed := BitVec.ofNat 64 (fieldAt bs 0x20 8), bindings := bindings, command := 0 }

/-- The declaration rules of R192. -/
def epochsBad (bs : List Byte) (v : Invoke) : Bool :=
  (!v.readEpochs.isEmpty && v.writeEpoch == 0) ||
  (v.readEpochs.contains v.writeEpoch) || anyPair (· == ·) v.readEpochs ||
  (v.resolver != 0 && (v.writeEpoch != 0 || !v.readEpochs.isEmpty)) || decide (1 < fieldAt bs 0xB 1)

/-- A binding entry (R177): index, address, pages. -/
def parseBinding (bs : List Byte) : Nat × Nat × Nat := (fieldAt bs 0 2, fieldAt bs 4 6, fieldAt bs 10 4)
def bindingReserved (bs : List Byte) : Bool := !zeroAt bs 2 2 || !zeroAt bs 14 2

/-! ### Epoch entries and resolution (R193, R202) -/

def epochKind (bs : List Byte) (i : Nat) : Nat := bitsOf (fieldAt bs 4 4) (4 * i + 3) (4 * i)
def f32At (bs : List Byte) (off i : Nat) : Nat := fieldAt bs (off + 4 * i) 4

/-- Which counted values a DIST2 consumes: the one after each unconsumed DIST2 (R202). -/
def consumedBy (kind : Nat → Nat) : Nat → Nat → Bool → List Bool
  | 0, _, _ => []
  | n + 1, i, eaten => eaten :: consumedBy kind n (i + 1) (!eaten && kind i == 2)

/-- A tolerance is good when it is finite and not negative; −0 is not negative (R193). -/
def toleranceBad (x : Nat) : Bool :=
  match f32.decode x with
  | .fin n m _ => n && m != 0
  | _ => true

/-- The entry breaks a rule of R193: BAD_ENTRY. -/
def epochEntryBad (bs : List Byte) : Bool :=
  let n := fieldAt bs 1 1
  let eaten := consumedBy (epochKind bs) n 0 false
  fieldAt bs 0 1 != 1 || n == 0 || decide (8 < n) || !zeroAt bs 2 2 || !zeroAt bs 8 8 || !zeroAt bs 0x50 48 ||
  (epochKind bs (n - 1) == 2 && !(eaten.getD (n - 1) false)) ||
  (List.range n).any (fun i => !(eaten.getD i false) &&
    (decide (2 < epochKind bs i) || toleranceBad (f32At bs 0x30 i)))

/-- 2π to 400 binary places, as a numerator: the exact remainder of R202 needs the value of π, and this is it far
below the spacing at which any FP32 difference could tell (log entry 21). -/
def twoPiNum : Nat :=
  16224754493461942477724542702601789038322303200358530407182382075230461810747980997491046721853633630855133559454655152472

/-- Remainder of `± m·2^e` with respect to 2π, taken into (−π, π], as an exact value at scale 2^−400. -/
def reduceAngle (n : Bool) (m : Nat) (e : Int) : FV :=
  let x : Nat := if -400 ≤ e then m * 2 ^ (e + 400).toNat else m
  let p : Nat := if -400 ≤ e then twoPiNum else twoPiNum * 2 ^ (-400 - e).toNat
  let u : Int := if -400 ≤ e then -400 else e
  let s : Int := signed n x
  let r : Int := s % (p : Int)
  let r2 : Int := if (p : Int) < 2 * r then r - p else r
  .fin (decide (r2 < 0)) r2.natAbs u

/-- The FP32 code of an exact value. -/
def f32Round (v : FV) : FV := f32.decode (f32.encode .plain none v).1

/-- |v| ≤ t for finite values; a NaN fails, an infinite |v| fails against a finite tolerance. -/
def within (v : FV) (t : FV) : Bool :=
  match v, t with
  | .nan _, _ => false
  | _, .nan _ => false
  | .inf _, _ => false
  | .fin _ m e, t => FV.lt (.fin false m e) t || FV.eq (.fin false m e) t

/-- Integer square root by Newton steps from above. -/
def sqrtIter (n : Nat) : Nat → Nat → Nat
  | 0, x => x
  | k + 1, x => let y := (x + n / x) / 2
    if y < x then sqrtIter n k y else x
def isqrt (n : Nat) : Nat := if n = 0 then 0 else sqrtIter n (Nat.log2 n + 2) (2 ^ (Nat.log2 n / 2 + 1))

/-- The correctly rounded FP32 square root of a nonnegative exact value: the root to 64 extra bits with a sticky bit. -/
def f32Sqrt (v : FV) : FV :=
  match v with
  | .fin _ m e =>
    if m = 0 then .fin false 0 0
    else
      let k : Nat := if (e - 128) % 2 = 0 then 128 else 129
      let n := m * 2 ^ k
      let r := isqrt n
      let st := if r * r = n then 2 * r else 2 * r + 1
      f32Round (.fin false st ((e - k) / 2 - 1))
  | v => v

/-- Does value i pass (R202)? `a`, `p` actual and predicted codes from i on, `t` the tolerance code. -/
def valuePasses (kind : Nat) (a p : List Nat) (t : Nat) : Bool :=
  let d (i : Nat) : FV := f32Round (FV.add (f32.decode (a.getD i 0)) (f32.decode (p.getD i 0)).neg).1
  match kind with
  | 1 =>
    (match d 0 with
     | .fin n m e => within (f32Round (reduceAngle n m e)) (f32.decode t)
     | _ => false)
  | 2 =>
    let sq (v : FV) : FV := f32Round (FV.mul v v).1
    let s := f32Round (FV.add (sq (d 0)) (sq (d 1))).1
    within (f32Sqrt s) (f32.decode t)
  | _ => within (d 0) (f32.decode t)

/-- The prediction holds when every value passes; a DIST2 takes two (R202). -/
def predictionHolds : List Nat → List Nat → List Nat → List Nat → Bool
  | k :: ks, a, p, t :: ts =>
    if k = 2 then
      valuePasses 2 a p t && (match ks, ts with
        | _ :: ks', _ :: ts' => predictionHolds ks' (a.drop 2) (p.drop 2) ts'
        | _, _ => true)
    else valuePasses k a p t && predictionHolds ks (a.drop 1) (p.drop 1) ts
  | _, _, _, _ => true

/-! ### Records -/

/-- The 32 bytes of an event record (R21). -/
def Event.bytes (e : Event) : List Byte :=
  leBytes 8 e.ns.toNat ++ leBytes 4 e.frac.toNat ++ leBytes 4 e.source.toNat ++ leBytes 2 e.code.toNat ++
  [0x01, BitVec.ofNat 8 e.sev] ++ leBytes 4 e.seq.toNat ++ leBytes 4 e.arg0.toNat ++ leBytes 4 e.arg1.toNat

/-- The 32 bytes of a completion record with its CSEQ (R180). -/
def Completion.bytes (c : Completion) (cseq : BitVec 32) : List Byte :=
  leBytes 4 c.seq.toNat ++ [BitVec.ofNat 8 c.type, 0x01, c.status, BitVec.ofNat 8 c.flags] ++ leBytes 2 c.ctx ++
  leBytes 2 c.res16 ++ leBytes 4 c.res32 ++ leBytes 8 c.ns.toNat ++ leBytes 4 0 ++ leBytes 4 cseq.toNat

/-- Word 0 of a context-table entry (R161). -/
def Ctx.word0 (c : Ctx) : Nat :=
  c.state.code + 16 * (c.part % 16) + 256 * c.status.toNat + 65536 * (c.figure.getD 0 % 64) +
  (if c.rolledBack then 2 ^ 22 else 0) + (if c.wasSuspended then 2 ^ 23 else 0)

/-- The 16 bytes of a context-table entry (R161). -/
def Ctx.entry (c : Ctx) : List Byte :=
  leBytes 4 c.word0 ++ leBytes 4 c.seq.toNat ++ leBytes 2 c.inv.model ++ leBytes 1 c.inv.writeEpoch ++ leBytes 1 0 ++
  leBytes 4 c.cseq.toNat

end Sys2Proof.Machine
end

