-- ==== Sys2Proof/Machine/CairnOps.lean ====
section
/-! DEFINITION. Cairn's data and geometry (R274–R302): the world and its voxel tree, the roadmap, footprints,
trajectories, the tests of a sample, edge verdicts, and the fields and checks of its commands. The spec fixes the tests
(separating axes, FP32, nearest even) and not the order of their operations; the order here is the model's choice
(log entry 40). -/
namespace Sys2Proof.Machine

/-! ### FP32 helpers -/
def fAbs (x : Nat) : Nat := x % 2 ^ 31
def fSqrt (x : Nat) : Nat := fEnc (f32Sqrt (fDec x))
def fHyp (x y : Nat) : Nat := fSqrt (fAdd (fMul x x) (fMul y y))
def fSin (x : Nat) : Nat := (vfnLane 4 x).1
def fCos (x : Nat) : Nat := (vfnLane 5 x).1
def fTwo (x : Nat) : Nat := fMul x 0x40000000
/-- Below 0.001 m: touching (R274). -/
def fTouch (sep : Nat) : Bool := fLt sep 0x3A83126F
/-- A coordinate within ±8,192 m (R274). -/
def coordOk (x : Nat) : Bool := fFinite x && fLe (fAbs x) 0x46000000
def posFinite (x : Nat) : Bool := fFinite x && fLt 0 x
def f16to32 (x : Nat) : Nat := fEnc (ElemType.f16.decode x)
def f32to16 (x : Nat) : Nat := (ElemType.f16.fmt.encode .plain none (fDec x)).1
/-- The least integer not below a finite nonnegative value. -/
def fCeil (x : Nat) : Nat :=
  match fDec x with
  | .fin false m e => if 0 ≤ e then m * 2 ^ e.toNat else (m + 2 ^ (-e).toNat - 1) / 2 ^ (-e).toNat
  | _ => 0
/-- An angle brought into (−π, π]. -/
def fWrapAngle (x : Nat) : Nat :=
  match fDec x with
  | .fin n m e => fEnc (reduceAngle n m e)
  | _ => x
def fSumL (xs : List Nat) : Nat := xs.foldl fAdd 0
def fMaxL : List Nat → Nat
  | [] => fNegInf
  | x :: xs => fMax x (fMaxL xs)
def fMinL : List Nat → Nat
  | [] => 0x7F800000
  | x :: xs => fMin x (fMinL xs)

/-! ### The voxel tree (R276) -/

/-- A cube of the tree: free, wholly occupied, or divided; octant o = xbit + 2·ybit + 4·zbit. -/
inductive Oct where
  | free
  | full
  | node (a b c d e f g h : Oct)
  deriving DecidableEq, Repr

def Oct.child : Oct → Nat → Oct
  | .free, _ => .free
  | .full, _ => .full
  | .node a b c d e f g h, o =>
    match o with
    | 0 => a | 1 => b | 2 => c | 3 => d | 4 => e | 5 => f | 6 => g | _ => h

def Oct.mk (f : Nat → Oct) : Oct := .node (f 0) (f 1) (f 2) (f 3) (f 4) (f 5) (f 6) (f 7)

/-- Merge eight equal plain octants. -/
def Oct.merge (t : Oct) : Oct :=
  match t with
  | .node .free .free .free .free .free .free .free .free => .free
  | .node .full .full .full .full .full .full .full .full => .full
  | t => t

/-- Records the tree takes: one per divided cube. -/
def Oct.nodes : Oct → Nat
  | .node a b c d e f g h => 1 + a.nodes + b.nodes + c.nodes + d.nodes + e.nodes + f.nodes + g.nodes + h.nodes
  | _ => 0

/-- Octant of a leaf index at a level whose octants span 2^k leaves. -/
def octOf (k ix iy iz : Nat) : Nat := ix / 2 ^ k % 2 + 2 * (iy / 2 ^ k % 2) + 4 * (iz / 2 ^ k % 2)

/-- Set or clear a leaf; `k` levels of halving remain. The root stays divided. -/
def Oct.setLeaf (v : Oct) : Nat → Oct → Nat → Nat → Nat → Oct
  | 0, _, _, _, _ => v
  | k + 1, t, ix, iy, iz =>
    let o := octOf k ix iy iz
    let s := Oct.setLeaf v k (t.child o) ix iy iz
    let r := Oct.mk (fun j => if j = o then s else t.child j)
    if k = 11 then r else r.merge

def Oct.leaf : Nat → Oct → Nat → Nat → Nat → Bool
  | 0, t, _, _, _ => t == .full
  | k + 1, t, ix, iy, iz => Oct.leaf k (t.child (octOf k ix iy iz)) ix iy iz

/-- A node record: EXISTS, FULL, FIRST, reserved bits set. -/
def nodeRec (rd : Nat → Nat → List Byte) (base i : Nat) : Nat := leNat (rd (base + 8 * i) 8)
def recExists (r o : Nat) : Bool := bitOf r o
def recFull (r o : Nat) : Bool := bitOf r (8 + o)
def recFirst (r : Nat) : Nat := bitsOf r 47 16
/-- Index of the record of octant o: FIRST plus how many lower octants have records. -/
def recChild (r o : Nat) : Nat :=
  recFirst r + ((List.range o).filter (fun j => recExists r j && !recFull r j)).length

/-- The tree below record i; `k` levels of halving remain. -/
def Oct.build (rd : Nat → Nat → List Byte) (base : Nat) : Nat → Nat → Oct
  | 0, _ => .free
  | k + 1, i =>
    let r := nodeRec rd base i
    Oct.mk (fun o => if !recExists r o then .free else if recFull r o then .full else Oct.build rd base k (recChild r o))

/-- Every record reached below record i, and whether a record breaks R276. -/
def treeWalk (rd : Nat → Nat → List Byte) (base count : Nat) : Nat → Nat → List Nat × Bool
  | 0, i => ([i], true)
  | k + 1, i =>
    let r := nodeRec rd base i
    let kids := (List.range 8).filter (fun o => recExists r o && !recFull r o)
    let bad := bitsOf r 63 48 != 0 || (List.range 8).any (fun o => recFull r o && !recExists r o) ||
      (k == 0 && !kids.isEmpty) || (!kids.isEmpty && decide (recFirst r ≤ i)) || kids.any (fun o => decide (count ≤ recChild r o))
    if bad then ([i], true)
    else
      let sub := kids.map (fun o => treeWalk rd base count k (recChild r o))
      (i :: sub.flatMap (·.1), sub.any (·.2))

def hasDup : List Nat → Bool
  | [] => false
  | x :: xs => xs.contains x || hasDup xs

/-- Is a node array a tree that reaches each of its records once? -/
def treeOk (rd : Nat → Nat → List Byte) (base count : Nat) : Bool :=
  if count = 0 then true
  else
    let w := treeWalk rd base count 12 0
    !w.2 && w.1.length == count && !hasDup w.1

/-! ### Objects (R275) -/

structure WBox where
  id : Nat
  c : List Nat
  h : List Nat
  yaw : Nat
  v : List Nat
  cls : Nat
  moving : Bool
  /-- T_REF of the command that last set it -/
  tref : Nat
  deriving DecidableEq, Repr

structure WSphere where
  id : Nat
  c : List Nat
  r : Nat
  v : List Nat
  cls : Nat
  moving : Bool
  tref : Nat
  deriving DecidableEq, Repr

structure WTri where
  /-- three vertices of X, Y, Z -/
  p : List Nat
  mesh : Nat
  deriving DecidableEq, Repr

def f32s (bs : List Byte) (off n : Nat) : List Nat := (List.range n).map (fun i => fieldAt bs (off + 4 * i) 4)

def parseBox (bs : List Byte) (tref : Nat) : WBox :=
  { id := fieldAt bs 0x1C 4, c := f32s bs 0 3, h := f32s bs 0xC 3, yaw := fieldAt bs 0x18 4, v := f32s bs 0x20 2,
    cls := fieldAt bs 0x28 2, moving := bitOf (fieldAt bs 0x2A 2) 1, tref := tref }
def boxRecBad (bs : List Byte) : Bool :=
  decide (4 ≤ fieldAt bs 0x2A 2) || fieldAt bs 0x2C 4 != 0 ||
  (bitOf (fieldAt bs 0x2A 2) 0 && ((f32s bs 0 3).any (fun x => !coordOk x) || (f32s bs 0xC 3).any (fun x => !posFinite x) ||
    !fFinite (fieldAt bs 0x18 4) || (f32s bs 0x20 2).any (fun x => !fFinite x)))
def parseSphere (bs : List Byte) (tref : Nat) : WSphere :=
  { id := fieldAt bs 0x18 4, c := f32s bs 0 3, r := fieldAt bs 0xC 4, v := f32s bs 0x10 2, cls := fieldAt bs 0x1C 2,
    moving := bitOf (fieldAt bs 0x1E 2) 1, tref := tref }
def sphereRecBad (bs : List Byte) : Bool :=
  decide (4 ≤ fieldAt bs 0x1E 2) ||
  (bitOf (fieldAt bs 0x1E 2) 0 && ((f32s bs 0 3).any (fun x => !coordOk x) || !posFinite (fieldAt bs 0xC 4) ||
    (f32s bs 0x10 2).any (fun x => !fFinite x)))
def parseTri (bs : List Byte) : WTri := { p := f32s bs 0 9, mesh := fieldAt bs 0x24 2 }
def triRecBad (bs : List Byte) : Bool :=
  decide (2 ≤ fieldAt bs 0x26 2) || (f32s bs 0 9).any (fun x => !coordOk x)
def recValid (bs : List Byte) (off : Nat) : Bool := bitOf (fieldAt bs off 2) 0

/-- The world (R281). -/
structure World where
  origin : List Nat
  nx : Nat
  ny : Nat
  nz : Nat
  /-- space outside the region is free -/
  outFree : Bool
  growth : Nat
  tree : Oct
  boxes : List WBox
  spheres : List WSphere
  tris : List WTri
  deriving DecidableEq, Repr

/-! ### Footprints and poses (R277–R279) -/

structure Footprint where
  n : Nat
  margin : Nat
  step : Nat
  zGround : Nat
  /-- OX, OY, L, W, Z0, H of each box -/
  boxes : List (List Nat)
  deriving DecidableEq, Repr

def parseFootprint (bs : List Byte) : Footprint :=
  { n := fieldAt bs 0 1, margin := fieldAt bs 4 4, step := fieldAt bs 8 4, zGround := fieldAt bs 0xC 4,
    boxes := (List.range (fieldAt bs 0 1)).map (fun i => f32s bs (0x10 + 24 * i) 6) }

/-- A field of the footprint outside its range or reserved. -/
def footprintBad (bs : List Byte) : Bool :=
  let n := fieldAt bs 0 1
  let z (o k : Nat) : Bool := ((bs.drop o).take k).any (· != 0)
  dimBad n 4 || z 1 3 || z 0x70 16 || z (0x10 + 24 * min n 4) (24 * (4 - n)) ||
  !(fFinite (fieldAt bs 4 4) && fLe 0 (fieldAt bs 4 4) && fLe (fieldAt bs 4 4) 0x40000000) ||
  !(fFinite (fieldAt bs 8 4) && fLe 0x3C23D70A (fieldAt bs 8 4) && fLe (fieldAt bs 8 4) 0x3F000000) ||
  !fFinite (fieldAt bs 0xC 4) ||
  (List.range (min n 4)).any (fun i => (f32s bs (0x10 + 24 * i) 6).any (fun x => !fFinite x))

/-- R_MAX: the largest plan distance from the ego origin to a corner of a box. -/
def Footprint.rMax (f : Footprint) : Nat :=
  fMaxL (f.boxes.map (fun b => fHyp (fAdd (fAbs (b.getD 0 0)) (fHalf (b.getD 2 0))) (fAdd (fAbs (b.getD 1 0)) (fHalf (b.getD 3 0)))))
where fHalf (x : Nat) : Nat := fMul x 0x3F000000

structure Pose where
  x : Nat
  y : Nat
  yaw : Nat
  deriving DecidableEq, Repr

/-- A rectangle in plan with a height range. -/
structure Prism where
  cx : Nat
  cy : Nat
  hl : Nat
  hw : Nat
  cos : Nat
  sin : Nat
  z0 : Nat
  z1 : Nat
  deriving DecidableEq, Repr

def fHalf2 (x : Nat) : Nat := fMul x 0x3F000000

/-- Inflated footprint boxes at a pose (R279); `extra` is EDGE_TOL for an edge. -/
def Footprint.prisms (f : Footprint) (p : Pose) (extra : Nat) : List Prism :=
  let c := fCos p.yaw
  let s := fSin p.yaw
  let grow := fAdd (fAdd f.margin (fHalf2 f.step)) extra
  f.boxes.map (fun b =>
    { cx := fAdd p.x (fSub (fMul (b.getD 0 0) c) (fMul (b.getD 1 0) s)),
      cy := fAdd p.y (fAdd (fMul (b.getD 0 0) s) (fMul (b.getD 1 0) c)),
      hl := fAdd (fHalf2 (b.getD 2 0)) grow, hw := fAdd (fHalf2 (b.getD 3 0)) grow, cos := c, sin := s,
      z0 := fSub (fAdd f.zGround (b.getD 4 0)) f.margin,
      z1 := fAdd (fAdd (fAdd f.zGround (b.getD 4 0)) (b.getD 5 0)) f.margin })

/-- Extent of a prism along a unit axis in plan. -/
def Prism.reach (a : Prism) (ux uy : Nat) : Nat :=
  fAdd (fMul a.hl (fAbs (fAdd (fMul ux a.cos) (fMul uy a.sin)))) (fMul a.hw (fAbs (fSub (fMul uy a.cos) (fMul ux a.sin))))
def Prism.sepAlong (a b : Prism) (ux uy : Nat) : Nat :=
  fSub (fAbs (fAdd (fMul (fSub b.cx a.cx) ux) (fMul (fSub b.cy a.cy) uy))) (fAdd (a.reach ux uy) (b.reach ux uy))
/-- Separation in plan by the four axes, and in z. -/
def Prism.touches (a b : Prism) : Bool :=
  fTouch (fMaxL [a.sepAlong b a.cos a.sin, a.sepAlong b (fNeg a.sin) a.cos, a.sepAlong b b.cos b.sin,
    a.sepAlong b (fNeg b.sin) b.cos]) &&
  fTouch (fMax (fSub a.z0 b.z1) (fSub b.z0 a.z1))

/-- Axis-aligned bounds: xmin, ymin, zmin, xmax, ymax, zmax. -/
abbrev Aabb := List Nat
def Prism.bounds (a : Prism) : Aabb :=
  let rx := a.reach 0x3F800000 0
  let ry := a.reach 0 0x3F800000
  [fSub a.cx rx, fSub a.cy ry, a.z0, fAdd a.cx rx, fAdd a.cy ry, a.z1]
def Aabb.join (a b : Aabb) : Aabb :=
  (List.range 3).map (fun i => fMin (a.getD i 0) (b.getD i 0)) ++ (List.range 3).map (fun i => fMax (a.getD (i + 3) 0) (b.getD (i + 3) 0))
def Aabb.meets (a b : Aabb) : Bool :=
  (List.range 3).all (fun i => fTouch (fMax (fSub (a.getD i 0) (b.getD (i + 3) 0)) (fSub (b.getD i 0) (a.getD (i + 3) 0))))
def joinAll : List Aabb → Aabb
  | [] => []
  | [a] => a
  | a :: as => Aabb.join a (joinAll as)

/-! ### Tests of one inflated box (R280) -/

/-- What blocks a sample: HIT_KIND and HIT_ID (R296). -/
abbrev Hit := Nat × Nat

/-- The prism of a cube of 2^k leaves whose lowest leaf is (ix, iy, iz). -/
def leafPrism (w : World) (k ix iy iz : Nat) : Prism :=
  let lo (j i : Nat) : Nat := fAdd (w.origin.getD j 0) (fEnc (FV.ofRat i 10))
  let half := fEnc (FV.ofRat ((2 ^ k : Nat) : Int) 20)
  { cx := fAdd (lo 0 ix) half, cy := fAdd (lo 1 iy) half, hl := half, hw := half, cos := 0x3F800000, sin := 0,
    z0 := lo 2 iz, z1 := lo 2 (iz + 2 ^ k) }

/-- The first occupied leaf inside the region that touches, in octant order. -/
def Oct.hit (w : World) (a : Prism) : Nat → Oct → Nat → Nat → Nat → Option Hit
  | 0, t, ix, iy, iz =>
    if t == .full && decide (ix < w.nx) && decide (iy < w.ny) && decide (iz < w.nz) && a.touches (leafPrism w 0 ix iy iz)
    then some (1, ix * 2 / 5 + 1024 * (iy * 2 / 5) + 2 ^ 20 * (iz * 2 / 5)) else none
  | k + 1, t, ix, iy, iz =>
    if t == .free || decide (w.nx ≤ ix) || decide (w.ny ≤ iy) || decide (w.nz ≤ iz) || !a.touches (leafPrism w (k + 1) ix iy iz)
    then none
    else (List.range 8).findSome? (fun o =>
      Oct.hit w a k (t.child o) (ix + o % 2 * 2 ^ k) (iy + o / 2 % 2 * 2 ^ k) (iz + o / 4 * 2 ^ k))

/-- Does the box reach outside the region? -/
def outsideRegion (w : World) (a : Prism) : Bool :=
  let b := a.bounds
  let hi (j n : Nat) : Nat := fAdd (w.origin.getD j 0) (fEnc (FV.ofRat n 10))
  fLt (b.getD 0 0) (w.origin.getD 0 0) || fLt (b.getD 1 0) (w.origin.getD 1 0) || fLt (b.getD 2 0) (w.origin.getD 2 0) ||
  fLt (hi 0 w.nx) (b.getD 3 0) || fLt (hi 1 w.ny) (b.getD 4 0) || fLt (hi 2 w.nz) (b.getD 5 0)

/-- Seconds from T_REF to a time of `num / den` ns, as FP32. -/
def sinceRef (num den tref : Nat) : Nat := fEnc (FV.ofRat ((num : Int) - (tref * den : Nat)) (den * 1000000000))
/-- Growth of a moving object, capped at 10 m. -/
def growthAt (w : World) (dt : Nat) : Nat := fMin (fMul w.growth (fAbs dt)) 0x41200000

def WBox.prism (b : WBox) (dx dy g : Nat) : Prism :=
  { cx := fAdd (b.c.getD 0 0) dx, cy := fAdd (b.c.getD 1 0) dy, hl := fAdd (b.h.getD 0 0) g, hw := fAdd (b.h.getD 1 0) g,
    cos := fCos b.yaw, sin := fSin b.yaw, z0 := fSub (b.c.getD 2 0) (b.h.getD 2 0), z1 := fAdd (b.c.getD 2 0) (b.h.getD 2 0) }
def WBox.at (w : World) (b : WBox) (num den : Nat) : Prism :=
  if b.moving then
    let dt := sinceRef num den b.tref
    b.prism (fMul (b.v.getD 0 0) dt) (fMul (b.v.getD 1 0) dt) (growthAt w dt)
  else b.prism 0 0 0

/-- Coordinates of a point in a prism's own axes, from its centre; z from its middle. -/
def Prism.local (a : Prism) (p : List Nat) : List Nat :=
  let dx := fSub (p.getD 0 0) a.cx
  let dy := fSub (p.getD 1 0) a.cy
  [fAdd (fMul dx a.cos) (fMul dy a.sin), fSub (fMul dy a.cos) (fMul dx a.sin),
   fSub (p.getD 2 0) (fHalf2 (fAdd a.z0 a.z1))]
def Prism.halves (a : Prism) : List Nat := [a.hl, a.hw, fHalf2 (fSub a.z1 a.z0)]

/-- Distance from a point to a box, against the radius. -/
def sphereTouches (a : Prism) (c : List Nat) (r : Nat) : Bool :=
  let d := List.zipWith (fun x h => fMax 0 (fSub (fAbs x) h)) (a.local c) a.halves
  fTouch (fSub (fSqrt (fSumL (d.map (fun x => fMul x x)))) r)

def WSphere.touches (w : World) (a : Prism) (s : WSphere) (num den : Nat) : Bool :=
  if s.moving then
    let dt := sinceRef num den s.tref
    sphereTouches a [fAdd (s.c.getD 0 0) (fMul (s.v.getD 0 0) dt), fAdd (s.c.getD 1 0) (fMul (s.v.getD 1 0) dt), s.c.getD 2 0]
      (fAdd s.r (growthAt w dt))
  else sphereTouches a s.c s.r

def dot3 (a b : List Nat) : Nat := fSumL (List.zipWith fMul a b)
def sub3 (a b : List Nat) : List Nat := List.zipWith fSub a b
def cross3 (a b : List Nat) : List Nat :=
  let x (i : Nat) : Nat := a.getD i 0
  let y (i : Nat) : Nat := b.getD i 0
  [fSub (fMul (x 1) (y 2)) (fMul (x 2) (y 1)), fSub (fMul (x 2) (y 0)) (fMul (x 0) (y 2)), fSub (fMul (x 0) (y 1)) (fMul (x 1) (y 0))]

/-- Separation of a triangle and a box centred at the origin along an axis, in metres; −∞ for an axis of no length. -/
def triSep (h : List Nat) (v : List (List Nat)) (u : List Nat) : Nat :=
  let len := fSqrt (dot3 u u)
  if (fDec len).isZero then fNegInf
  else
    let ps := v.map (fun p => dot3 p u)
    let r := dot3 h (u.map fAbs)
    fDiv (fMax (fSub (fMinL ps) r) (fSub (fNeg r) (fMaxL ps))) len

/-- The 13 separating axes of a triangle and a box (R280). -/
def triTouches (a : Prism) (t : WTri) : Bool :=
  let v := (List.range 3).map (fun i => a.local ((t.p.drop (3 * i)).take 3))
  let e (i j : Nat) : List Nat := sub3 (v.getD j []) (v.getD i [])
  let es := [e 0 1, e 1 2, e 2 0]
  let ax : List (List Nat) := [[0x3F800000, 0, 0], [0, 0x3F800000, 0], [0, 0, 0x3F800000]]
  let axes := ax ++ [cross3 (e 0 1) (e 1 2)] ++ ax.flatMap (fun x => es.map (cross3 x))
  fTouch (fMaxL (axes.map (triSep a.halves v)))

/-- What of the static world an inflated box touches first: leaf, outside, box, sphere, triangle. -/
def staticHit (w : World) (a : Prism) : Option Hit :=
  (Oct.hit w a 12 w.tree 0 0 0).orElse fun _ =>
  (if !w.outFree && outsideRegion w a then some (5, 0) else none).orElse fun _ =>
  (w.boxes.findSome? (fun b => if !b.moving && a.touches (b.at w 0 1) then some (2, b.id) else none)).orElse fun _ =>
  (w.spheres.findSome? (fun s => if !s.moving && s.touches w a 0 1 then some (3, s.id) else none)).orElse fun _ =>
  (w.tris.zipIdx.findSome? (fun t => if triTouches a t.1 then some (4, t.2) else none))

/-- What moving object an inflated box touches at a time of `num / den` ns. -/
def movingHit (w : World) (a : Prism) (num den : Nat) : Option Hit :=
  (w.boxes.findSome? (fun b => if b.moving && a.touches (b.at w num den) then some (2, b.id) else none)).orElse fun _ =>
  (w.spheres.findSome? (fun s => if s.moving && s.touches w a num den then some (3, s.id) else none))

/-- The first item that blocks a sample. -/
def sampleHit (w : World) (f : Footprint) (p : Pose) (extra : Nat) (static moving : Bool) (num den : Nat) : Option Hit :=
  (f.prisms p extra).findSome? (fun a =>
    (if static then staticHit w a else none).orElse fun _ => if moving then movingHit w a num den else none)

/-! ### Sampling (R279) -/

/-- A sample: segment, fraction k / n, pose. -/
structure Sample where
  seg : Nat
  k : Nat
  n : Nat
  pose : Pose
  deriving DecidableEq, Repr

def segYaw (a b : Pose) : Nat := fWrapAngle (fSub b.yaw a.yaw)
def segSamples (f : Footprint) (a b : Pose) : Nat :=
  max 1 (fCeil (fDiv (fAdd (fHyp (fSub b.x a.x) (fSub b.y a.y)) (fMul f.rMax (fAbs (segYaw a b)))) f.step))

def poseAt (a b : Pose) (k n : Nat) : Pose :=
  let t := fEnc (FV.ofRat k n)
  { x := fAdd a.x (fMul (fSub b.x a.x) t), y := fAdd a.y (fMul (fSub b.y a.y) t), yaw := fAdd a.yaw (fMul (segYaw a b) t) }

/-- Samples of a path of poses. -/
def pathSamples (f : Footprint) (ps : List Pose) : List Sample :=
  (List.range (ps.length - 1)).flatMap (fun i =>
    let a := ps.getD i ⟨0, 0, 0⟩
    let b := ps.getD (i + 1) ⟨0, 0, 0⟩
    let n := segSamples f a b
    (if i = 0 then [{ seg := 0, k := 0, n := n, pose := a }] else []) ++
    (List.range n).map (fun k => { seg := i, k := k + 1, n := n, pose := poseAt a b (k + 1) n }))

/-! ### Trajectories (R278) -/

structure Point where
  pose : Pose
  /-- FP16 codes as stored -/
  yaw16 : Nat
  speed16 : Nat
  edge : Nat
  deriving DecidableEq, Repr

def parsePoint (bs : List Byte) : Point :=
  { pose := ⟨fieldAt bs 0 4, fieldAt bs 4 4, f16to32 (fieldAt bs 8 2)⟩, yaw16 := fieldAt bs 8 2, speed16 := fieldAt bs 0xA 2,
    edge := fieldAt bs 0xC 4 }
def Point.bytes (p : Point) : List Byte :=
  leBytes 4 p.pose.x ++ leBytes 4 p.pose.y ++ leBytes 2 p.yaw16 ++ leBytes 2 p.speed16 ++ leBytes 4 p.edge
def pointBad (p : Point) : Bool :=
  let s := f16to32 p.speed16
  !coordOk p.pose.x || !coordOk p.pose.y || !fFinite p.pose.yaw || !fFinite s || fLt s 0

/-! ### The roadmap (R284, R285) -/

structure REdge where
  src : Nat
  dst : Nat
  cost : Nat
  speed16 : Nat
  bidir : Bool
  /-- poses from FROM to TO -/
  path : List Pose
  box : Aabb
  /-- bit 8·row + column of the 8 × 8 cells of the swept box -/
  sig : Nat
  /-- 0 UNKNOWN, 1 FREE, 2 BLOCKED -/
  state : Nat
  epoch : Nat
  deriving DecidableEq, Repr

structure Roadmap where
  nodes : List Pose
  edges : List REdge
  tol : Nat
  /-- the footprint block, byte for byte -/
  block : List Byte
  deriving DecidableEq, Repr

def Roadmap.fp (r : Roadmap) : Footprint := parseFootprint r.block

def cellOf (b : Aabb) (i : Nat) : Aabb :=
  let w := fMul (fSub (b.getD 3 0) (b.getD 0 0)) 0x3E000000
  let h := fMul (fSub (b.getD 4 0) (b.getD 1 0)) 0x3E000000
  let x (k : Nat) : Nat := fAdd (b.getD 0 0) (fMul w (fOfInt k))
  let y (k : Nat) : Nat := fAdd (b.getD 1 0) (fMul h (fOfInt k))
  [x (i % 8), y (i / 8), b.getD 2 0, x (i % 8 + 1), y (i / 8 + 1), b.getD 5 0]

/-- The prism of a box aligned with the axes. -/
def Aabb.prism (b : Aabb) : Prism :=
  { cx := fHalf2 (fAdd (b.getD 0 0) (b.getD 3 0)), cy := fHalf2 (fAdd (b.getD 1 0) (b.getD 4 0)),
    hl := fHalf2 (fSub (b.getD 3 0) (b.getD 0 0)), hw := fHalf2 (fSub (b.getD 4 0) (b.getD 1 0)),
    cos := 0x3F800000, sin := 0, z0 := b.getD 2 0, z1 := b.getD 5 0 }

/-- Inflated boxes of all samples of an edge. -/
def edgePrisms (f : Footprint) (tol : Nat) (path : List Pose) : List Prism :=
  (pathSamples f path).flatMap (fun s => f.prisms s.pose tol)

def edgeSig (ps : List Prism) (b : Aabb) : Nat :=
  ((List.range 64).filter (fun i => ps.any (fun p => p.touches (Aabb.prism (cellOf b i))))).foldl (fun a i => a + 2 ^ i) 0

/-- Read an edge record; swept box and signature computed. -/
def parseEdge (f : Footprint) (tol : Nat) (nodes : List Pose) (bs : List Byte) : REdge :=
  let mid := (List.range (min 4 (fieldAt bs 0xA 1))).map (fun i =>
    (⟨fieldAt bs (0xC + 10 * i) 4, fieldAt bs (0x10 + 10 * i) 4, f16to32 (fieldAt bs (0x14 + 10 * i) 2)⟩ : Pose))
  let path := [nodes.getD (fieldAt bs 0 2) ⟨0, 0, 0⟩] ++ mid ++ [nodes.getD (fieldAt bs 2 2) ⟨0, 0, 0⟩]
  let ps := edgePrisms f tol path
  let b := joinAll (ps.map Prism.bounds)
  { src := fieldAt bs 0 2, dst := fieldAt bs 2 2, cost := fieldAt bs 4 4, speed16 := fieldAt bs 8 2,
    bidir := bitOf (fieldAt bs 0xB 1) 0, path := path, box := b, sig := edgeSig ps b, state := 0, epoch := 0 }

def edgeRecBad (f : Footprint) (nodes : List Pose) (bs : List Byte) : Bool :=
  let e := parseEdge f 0 nodes bs
  decide (nodes.length ≤ e.src) || decide (nodes.length ≤ e.dst) || !fFinite e.cost || fLt e.cost 0 ||
  !posFinite (f16to32 e.speed16) || decide (4 < fieldAt bs 0xA 1) || decide (2 ≤ fieldAt bs 0xB 1) ||
  ((bs.drop 0x34).take 12).any (· != 0) || e.path.any (fun p => !coordOk p.x || !coordOk p.y || !fFinite p.yaw) ||
  decide (1024 < (pathSamples f e.path).length)

/-- The verdict of an edge against the static world (R285): 1 FREE, 2 BLOCKED. -/
def edgeVerdict (w : World) (r : Roadmap) (e : REdge) : Nat :=
  if (pathSamples r.fp e.path).any (fun s => (sampleHit w r.fp s.pose r.tol true false 0 1).isSome) then 2 else 1

/-- Might a static change of these bounds affect the edge (R283)? -/
def edgeAffected (e : REdge) (c : Aabb) : Bool :=
  e.box.meets c && (List.range 64).any (fun i => bitOf e.sig i && (cellOf e.box i).meets c)

/-! ### World commands (R281) -/

def recordsAt (rd : Nat → Nat → List Byte) (base n size : Nat) : List (List Byte) :=
  (List.range n).map (fun i => rd (base + size * i) size)

/-- The tables a WORLD_LOAD or WORLD_UPDATE reads: field offset, address, bytes. -/
def worldTables (bs : List Byte) : List (Nat × Nat × Nat) :=
  [(0x30, addrAt8 bs 0x30, 8 * fieldAt bs 0x38 4), (0x40, addrAt8 bs 0x40, 48 * fieldAt bs 0x48 2),
   (0x50, addrAt8 bs 0x50, 32 * fieldAt bs 0x4A 2), (0x58, addrAt8 bs 0x58, 40 * fieldAt bs 0x4C 2)]
where addrAt8 (bs : List Byte) (o : Nat) : Nat := fieldAt bs o 8

def WBox.bounds (b : WBox) : Aabb := (b.prism 0 0 0).bounds
def WSphere.bounds (s : WSphere) : Aabb :=
  (List.range 3).map (fun i => fSub (s.c.getD i 0) s.r) ++ (List.range 3).map (fun i => fAdd (s.c.getD i 0) s.r)

/-- Build the world of a WORLD_LOAD; error status 0x94 or 0x95. -/
def loadWorld (bs : List Byte) (rd : Nat → Nat → List Byte) : Except Nat World :=
  let tref := fieldAt bs 0x28 8
  let bx := recordsAt rd (fieldAt bs 0x40 8) (fieldAt bs 0x48 2) 48
  let sp := recordsAt rd (fieldAt bs 0x50 8) (fieldAt bs 0x4A 2) 32
  let tr := recordsAt rd (fieldAt bs 0x58 8) (fieldAt bs 0x4C 2) 40
  let cv := fieldAt bs 0x38 4
  if bx.any (fun r => boxRecBad r || !recValid r 0x2A) || sp.any (fun r => sphereRecBad r || !recValid r 0x1E) ||
     tr.any (fun r => triRecBad r || !recValid r 0x26) || hasDup (bx.map (fieldAt · 0x1C 4)) ||
     hasDup (sp.map (fieldAt · 0x18 4)) || !treeOk rd (fieldAt bs 0x30 8) cv
  then .error 0x94
  else .ok { origin := f32s bs 0x10 3, nx := fieldAt bs 0x1C 2, ny := fieldAt bs 0x1E 2, nz := fieldAt bs 0x20 2,
             outFree := fieldAt bs 0x22 1 == 1, growth := fieldAt bs 0x24 4,
             tree := if cv = 0 then .free else Oct.build rd (fieldAt bs 0x30 8) 12 0,
             boxes := bx.map (parseBox · tref), spheres := sp.map (parseSphere · tref), tris := tr.map parseTri }

structure Delta where
  ix : Nat
  iy : Nat
  iz : Nat
  set : Bool
  deriving DecidableEq, Repr

def parseDelta (bs : List Byte) : Delta :=
  let x := leNat bs
  { ix := bitsOf x 11 0, iy := bitsOf x 23 12, iz := bitsOf x 35 24, set := bitOf x 36 }
def deltaBad (w : World) (bs : List Byte) : Bool :=
  let d := parseDelta bs
  decide (w.nx ≤ d.ix) || decide (w.ny ≤ d.iy) || decide (w.nz ≤ d.iz) || bitsOf (leNat bs) 63 37 != 0

/-- Apply leaf deltas, collecting the bounds of the leaves that changed. -/
def applyDeltas (w : World) : List Delta → Oct → List Aabb → Oct × List Aabb
  | [], t, c => (t, c)
  | d :: ds, t, c =>
    if Oct.leaf 12 t d.ix d.iy d.iz = d.set then applyDeltas w ds t c
    else applyDeltas w ds (Oct.setLeaf (if d.set then .full else .free) 12 t d.ix d.iy d.iz)
      (c ++ [(leafPrism w 0 d.ix d.iy d.iz).bounds])

/-- Apply box records: new list, and the bounds of static changes. -/
def applyBoxes (tref : Nat) : List (List Byte) → List WBox → List Aabb → List WBox × List Aabb
  | [], xs, c => (xs, c)
  | r :: rs, xs, c =>
    let b := parseBox r tref
    let old := xs.filter (fun x => x.id == b.id)
    let gone := (old.filter (fun x => !x.moving)).map WBox.bounds
    let keep := xs.filter (fun x => x.id != b.id)
    if recValid r 0x2A then
      applyBoxes tref rs (keep ++ [b])
        (c ++ gone ++ (if b.moving then [] else [b.bounds]))
    else applyBoxes tref rs keep (c ++ gone)

def applySpheres (tref : Nat) : List (List Byte) → List WSphere → List Aabb → List WSphere × List Aabb
  | [], xs, c => (xs, c)
  | r :: rs, xs, c =>
    let b := parseSphere r tref
    let gone := (xs.filter (fun x => x.id == b.id && !x.moving)).map WSphere.bounds
    let keep := xs.filter (fun x => x.id != b.id)
    if recValid r 0x1E then applySpheres tref rs (keep ++ [b]) (c ++ gone ++ (if b.moving then [] else [b.bounds]))
    else applySpheres tref rs keep (c ++ gone)

/-- The world after a WORLD_UPDATE with the bounds of its static changes; error status 0x94 or 0x95. -/
def updateWorld (w : World) (bs : List Byte) (rd : Nat → Nat → List Byte) : Except Nat (World × List Aabb) :=
  let tref := fieldAt bs 0x28 8
  let bx := recordsAt rd (fieldAt bs 0x40 8) (fieldAt bs 0x48 2) 48
  let sp := recordsAt rd (fieldAt bs 0x50 8) (fieldAt bs 0x4A 2) 32
  let dv := recordsAt rd (fieldAt bs 0x30 8) (fieldAt bs 0x38 4) 8
  if bx.any boxRecBad || sp.any sphereRecBad || hasDup (bx.map (fieldAt · 0x1C 4)) || hasDup (sp.map (fieldAt · 0x18 4)) ||
     dv.any (deltaBad w)
  then .error 0x94
  else
    let t := applyDeltas w (dv.map parseDelta) w.tree []
    let b := applyBoxes tref bx w.boxes []
    let s := applySpheres tref sp w.spheres []
    if 4096 < b.1.length ∨ 4096 < s.1.length ∨ 2097152 < t.1.nodes then .error 0x95
    else .ok ({ w with tree := t.1, boxes := b.1, spheres := s.1 }, t.2 ++ b.2 ++ s.2)

/-- Build the roadmap of a ROADMAP_LOAD; error status 0x94. -/
def loadRoadmap (bs : List Byte) (rd : Nat → Nat → List Byte) : Except Nat Roadmap :=
  let ns := recordsAt rd (fieldAt bs 0x10 8) (fieldAt bs 0x18 4) 16
  let nodes := ns.map (fun r => (⟨fieldAt r 0 4, fieldAt r 4 4, fieldAt r 8 4⟩ : Pose))
  let es := recordsAt rd (fieldAt bs 0x20 8) (fieldAt bs 0x1C 4) 64
  let block := (bs.drop 0x80).take 128
  let f := parseFootprint block
  if ns.any (fun r => fieldAt r 0xC 4 != 0) || nodes.any (fun p => !coordOk p.x || !coordOk p.y || !fFinite p.yaw) ||
     es.any (edgeRecBad f nodes)
  then .error 0x94
  else .ok { nodes := nodes, edges := es.map (parseEdge f (fieldAt bs 0x28 4) nodes), tol := fieldAt bs 0x28 4, block := block }

/-! ### Command checks (R273), before regions and issuer -/

def cOp (bs : List Byte) : Nat := fieldAt bs 2 1
def cResult (bs : List Byte) : Nat := fieldAt bs 8 8
def cRange (x : Nat) (lo hi : Nat) (off : Nat) : Check := (decide (x < lo) || decide (hi < x), vDesc, off)
def fRange (x lo hi : Nat) (off : Nat) : Check := (!(fFinite x && fLe lo x && fLe x hi), vDesc, off)

/-- Address fields: 64-byte alignment is asked of RESULT; [63:48] beyond the address space are INVALID_DESC. -/
def cAddr (bs : List Byte) (off : Nat) : Check := (decide (2 ^ 48 ≤ fieldAt bs off 8), vDesc, off)

def cairnFormChecks (bs : List Byte) : List Check :=
  let zero (o n : Nat) : Check := reservedAt bs o n
  let op := cOp bs
  let flags := match op with
    | 4 => 3 | 5 => 2 | _ => 0
  headerChecks bs 4 256 (decide (1 ≤ op) && decide (op ≤ 5)) ++
  [(fieldAt bs 3 1 &&& flags != fieldAt bs 3 1, vDesc, 3), (cResult bs % 64 != 0, vDesc, 8), cAddr bs 8] ++
  (match op with
   | 1 =>
     (List.range 3).map (fun i => (!coordOk (fieldAt bs (0x10 + 4 * i) 4), vDesc, 0x10 + 4 * i)) ++
     (List.range 3).map (fun i => cRange (fieldAt bs (0x1C + 2 * i) 2) 1 2560 (0x1C + 2 * i)) ++
     [cRange (fieldAt bs 0x22 1) 0 1 0x22, zero 0x23 1, fRange (fieldAt bs 0x24 4) 0 0x41200000 0x24, cAddr bs 0x30,
      cRange (fieldAt bs 0x38 4) 0 2097152 0x38, zero 0x3C 4, cAddr bs 0x40, cRange (fieldAt bs 0x48 2) 0 4096 0x48,
      cRange (fieldAt bs 0x4A 2) 0 4096 0x4A, cRange (fieldAt bs 0x4C 2) 0 16384 0x4C, zero 0x4E 2, cAddr bs 0x50, cAddr bs 0x58] ++
     ((worldTables bs).filter (fun t => t.2.2 == 0)).map (fun t => (t.2.1 != 0, vDesc, t.1)) ++ [zero 0x60 160]
   | 2 =>
     [zero 0x10 24, cAddr bs 0x30, cRange (fieldAt bs 0x38 4) 0 65536 0x38, zero 0x3C 4, cAddr bs 0x40,
      cRange (fieldAt bs 0x48 2) 0 4096 0x48, cRange (fieldAt bs 0x4A 2) 0 4096 0x4A, zero 0x4C 4, cAddr bs 0x50] ++
     ((worldTables bs).filter (fun t => t.2.2 == 0)).map (fun t => (t.2.1 != 0, vDesc, t.1)) ++ [zero 0x60 160]
   | 3 =>
     [cAddr bs 0x10, cRange (fieldAt bs 0x18 4) 1 65536 0x18, cRange (fieldAt bs 0x1C 4) 1 262144 0x1C, cAddr bs 0x20,
      fRange (fieldAt bs 0x28 4) 0 0x3F000000 0x28, zero 0x2C 84, (footprintBad ((bs.drop 0x80).take 128), vDesc, 0x80)]
   | 4 =>
     let goals := (List.range 16).map (fun i => fieldAt bs (0x38 + 2 * i) 2)
     let search := bitOf (fieldAt bs 3 1) 0
     [cRange (fieldAt bs 0x10 1) 0 1 0x10, (search && fieldAt bs 0x10 1 == 1, vDesc, 3), cRange (fieldAt bs 0x11 1) 0 1 0x11,
      cRange (fieldAt bs 0x14 2) 1 1024 0x14, cRange (fieldAt bs 0x16 1) 2 64 0x16, zero 0x17 1, cAddr bs 0x18, cAddr bs 0x20,
      cRange (fieldAt bs 0x30 4) 1000000 1000000000 0x30, cRange (fieldAt bs 0x34 2) 1 65535 0x34,
      (search && goals.all (· == 0xFFFF), vDesc, 0x38), fRange (fieldAt bs 0x58 4) 0 0x41800000 0x58, zero 0x5C 36,
      (footprintBad ((bs.drop 0x80).take 128), vDesc, 0x80)]
   | _ =>
     [cRange (fieldAt bs 0x10 2) 0 3 0x10, zero 0x14 4, cAddr bs 0x18, zero 0x20 8,
      cRange (fieldAt bs 0x30 4) 1000000 1000000000 0x30, cRange (fieldAt bs 0x34 2) 1 65535 0x34,
      cRange (fieldAt bs 0x36 1) 2 64 0x36, zero 0x37 0x49, (footprintBad ((bs.drop 0x80).take 128), vDesc, 0x80)])

/-- The memory a command reads and writes: field, address, bytes, 0 read or 1 write (checks 3 and 4 of R273). -/
def cairnAreas (bs : List Byte) : List (Nat × Nat × Nat × Nat) :=
  (8, cResult bs, if cOp bs = 4 then 1344 else 64, 1) ::
  (match cOp bs with
   | 1 | 2 => ((worldTables bs).filter (fun t => t.2.2 != 0)).map (fun t => (t.1, t.2.1, t.2.2, 0))
   | 3 => [(0x10, fieldAt bs 0x10 8, 16 * fieldAt bs 0x18 4, 0), (0x20, fieldAt bs 0x20 8, 64 * fieldAt bs 0x1C 4, 0)]
   | 4 => [(0x18, fieldAt bs 0x18 8, 16 * fieldAt bs 0x14 2 * fieldAt bs 0x16 1, 0), (0x20, fieldAt bs 0x20 8, 4 * fieldAt bs 0x14 2, 0)]
   | _ => [(0x18, fieldAt bs 0x18 8, 16 * fieldAt bs 0x36 1, 0)])

end Sys2Proof.Machine
end

