-- ==== Sys2Proof/Machine/PlanOps.lean ====
section
/-! DEFINITION. Planning (R287–R296): candidate verdicts, the priority queue, the roadmap search, and what the result
area of a PLAN holds. -/
namespace Sys2Proof.Machine

/-! ### The priority queue (R289) -/

/-- KEY and VALUE; the list is in pop order. -/
abbrev Entry := Nat × Nat
def entryBefore (a b : Entry) : Bool := decide (a.1 < b.1) || (a.1 == b.1 && decide (a.2 ≤ b.2))
def pqInsert (e : Entry) : List Entry → List Entry
  | [] => [e]
  | x :: xs => if entryBefore e x then e :: x :: xs else x :: pqInsert e xs
/-- Push, dropping the greatest entry of a full queue: the queue and whether an entry was dropped. -/
def pqPush (cap : Nat) (e : Entry) (q : List Entry) : List Entry × Bool :=
  let r := pqInsert e q
  if cap < r.length then (r.dropLast, true) else (r, false)
def pqCap : Nat := 65536
/-- KEY of an FP32 cost. -/
def costKey (c : Nat) : Nat := if c < 2 ^ 31 then c + 2 ^ 31 else 2 ^ 32 - 1 - c

/-! ### Candidates -/

structure PlanIn where
  roadmapMode : Bool
  all : Bool
  search : Bool
  nPts : Nat
  tStart : Nat
  dt : Nat
  startNode : Nat
  goals : List Nat
  hWeight : Nat
  block : List Byte
  cands : List (List Point)
  costs : List Nat
  deriving DecidableEq, Repr

def parsePlan (bs : List Byte) (rd : Nat → Nat → List Byte) : PlanIn :=
  let np := fieldAt bs 0x16 1
  let nc := fieldAt bs 0x14 2
  { roadmapMode := fieldAt bs 0x10 1 == 0, all := fieldAt bs 0x11 1 == 1, search := bitOf (fieldAt bs 3 1) 0, nPts := np,
    tStart := fieldAt bs 0x28 8, dt := fieldAt bs 0x30 4, startNode := fieldAt bs 0x36 2,
    goals := ((List.range 16).map (fun i => fieldAt bs (0x38 + 2 * i) 2)).filter (· != 0xFFFF), hWeight := fieldAt bs 0x58 4,
    block := (bs.drop 0x80).take 128,
    cands := (List.range nc).map (fun j => (List.range np).map (fun i => parsePoint (rd (fieldAt bs 0x18 8 + 16 * (j * np + i)) 16))),
    costs := (List.range nc).map (fun j => leNat (rd (fieldAt bs 0x20 8 + 4 * j) 4)) }

/-- The fallback trajectory of a STORE_FALLBACK as the one candidate of a SWEPT plan (R302). -/
def parseFallback (bs : List Byte) (rd : Nat → Nat → List Byte) : PlanIn :=
  let np := fieldAt bs 0x36 1
  { roadmapMode := false, all := true, search := false, nPts := np, tStart := fieldAt bs 0x28 8, dt := fieldAt bs 0x30 4,
    startNode := 0, goals := [], hWeight := 0, block := (bs.drop 0x80).take 128,
    cands := [(List.range np).map (fun i => parsePoint (rd (fieldAt bs 0x18 8 + 16 * i) 16))], costs := [0] }

def PlanIn.fp (p : PlanIn) : Footprint := parseFootprint p.block
/-- Do samples have edge cover: ROADMAP mode and the roadmap's own footprint block (R287)? -/
def PlanIn.covers (p : PlanIn) (r : Option Roadmap) : Bool :=
  p.roadmapMode && (match r with
    | some r => r.block == p.block
    | none => false)

def candInvalid (pts : List Point) (cost : Nat) : Bool := pts.any pointBad || !fFinite cost

/-- The edge both points of segment i name, if any. -/
def segEdge (r : Option Roadmap) (pts : List Point) (i : Nat) : Option Nat :=
  match r, pts[i]?, pts[i + 1]? with
  | some (r : Roadmap), some (a : Point), some (b : Point) =>
    if a.edge = b.edge ∧ a.edge < r.edges.length then some a.edge else none
  | _, _, _ => none

/-- Edges that covered samples of a candidate depend on. -/
def candEdges (r : Option Roadmap) (pts : List Point) : List Nat := (List.range (pts.length - 1)).filterMap (segEdge r pts)

/-- Is a pose within EDGE_TOL of the edge's sampled path, yaw counted at R_MAX? -/
def nearEdge (r : Roadmap) (e : REdge) (p : Pose) : Bool :=
  (pathSamples r.fp e.path).any (fun s =>
    fLe (fAdd (fHyp (fSub p.x s.pose.x) (fSub p.y s.pose.y)) (fMul r.fp.rMax (fAbs (fWrapAngle (fSub p.yaw s.pose.yaw))))) r.tol)

def covered (r : Option Roadmap) (pts : List Point) (s : Sample) : Bool :=
  match r, segEdge r pts s.seg with
  | some r, some i =>
    (match r.edges[i]? with
     | some e => e.state == 1 && nearEdge r e s.pose
     | none => false)
  | _, _ => false

/-- The first blocked sample of a trajectory: segment, hit, and whether a moving object blocked it. -/
def trajHit (w : World) (r : Option Roadmap) (p : PlanIn) (pts : List Point) : Option (Nat × Hit × Bool) :=
  let cov := p.covers r
  (pathSamples p.fp (pts.map (·.pose))).findSome? (fun s =>
    let num := (p.tStart + s.seg * p.dt) * s.n + s.k * p.dt
    let st := if cov && covered r pts s then none else sampleHit w p.fp s.pose 0 true false num s.n
    match st with
    | some h => some (s.seg, h, false)
    | none => (sampleHit w p.fp s.pose 0 false true num s.n).map (fun h => (s.seg, h, true)))

/-- Verdict codes of R296: 0 unchecked, 1 free, 2 blocked, 3 invalid. -/
def candVerdict (w : World) (r : Option Roadmap) (p : PlanIn) (j : Nat) : Nat :=
  let pts := p.cands.getD j []
  if candInvalid pts (p.costs.getD j 0) then 3 else if (trajHit w r p pts).isSome then 2 else 1

/-- Valid candidates in queue order (R290). -/
def candOrder (p : PlanIn) : List Nat :=
  (((List.range p.cands.length).filter (fun j => !candInvalid (p.cands.getD j []) (p.costs.getD j 0))).foldl
    (fun q j => pqInsert (costKey (p.costs.getD j 0), j) q) []).map (·.2)

/-! ### Roadmap search (R291) -/

structure SearchSt where
  queue : List Entry
  /-- least g found, and how the node was reached: edge and whether from TO to FROM -/
  best : FMap (Option (Nat × Option (Nat × Nat × Bool)))
  closed : List Nat
  looked : List Nat
  dropped : Nat

def heurist (r : Roadmap) (goals : List Nat) (n : Nat) : Nat :=
  let at_ (i : Nat) : Pose := r.nodes.getD i ⟨0, 0, 0⟩
  fMinL (goals.map (fun g => fHyp (fSub (at_ g).x (at_ n).x) (fSub (at_ g).y (at_ n).y)))

/-- An edge's state, an UNKNOWN one being checked first. -/
def edgeState (w : World) (r : Roadmap) (e : REdge) : Nat := if e.state = 0 then edgeVerdict w r e else e.state

/-- The moves out of a node: edge, end, reversed. -/
def movesFrom (r : Roadmap) (excluded : List Nat) (n : Nat) : List (Nat × Nat × Bool) :=
  (List.range r.edges.length).flatMap (fun i =>
    match r.edges[i]? with
    | some e =>
      if excluded.contains i then []
      else (if e.src = n then [(i, e.dst, false)] else []) ++ (if e.bidir && e.dst == n then [(i, e.src, true)] else [])
    | none => [])

def relax (r : Roadmap) (p : PlanIn) (n g : Nat) (s : SearchSt) (m : Nat × Nat × Bool) : SearchSt :=
  match r.edges[m.1]? with
  | none => s
  | some e =>
    let g' := fAdd g e.cost
    let better := match FMap.get none s.best m.2.1 with
      | none => true
      | some (old, _) => fLt g' old
    if !better || s.closed.contains m.2.1 then s
    else
      let q := pqPush pqCap (costKey (fAdd g' (fMul p.hWeight (heurist r p.goals m.2.1))), m.2.1) s.queue
      { s with queue := q.1, best := FMap.set none s.best m.2.1 (some (g', some (m.1, n, m.2.2))),
               dropped := s.dropped + (if q.2 then 1 else 0) }

/-- Pop until a goal is popped or the queue is empty; the goal reached. -/
def searchLoop (w : World) (r : Roadmap) (p : PlanIn) (excluded : List Nat) : Nat → SearchSt → Option Nat × SearchSt
  | 0, s => (none, s)
  | k + 1, s =>
    match s.queue with
    | [] => (none, s)
    | (_, n) :: q =>
      if p.goals.contains n then (some n, { s with queue := q })
      else if s.closed.contains n then searchLoop w r p excluded k { s with queue := q }
      else
        let g := ((FMap.get none s.best n).map (·.1)).getD 0
        let ms := movesFrom r excluded n
        let free := ms.filter (fun m => match r.edges[m.1]? with
          | some e => edgeState w r e == 1
          | none => false)
        searchLoop w r p excluded k
          (free.foldl (relax r p n g) { s with queue := q, closed := n :: s.closed, looked := s.looked ++ ms.map (·.1) })

def traceBack (best : FMap (Option (Nat × Option (Nat × Nat × Bool)))) : Nat → Nat → List (Nat × Bool)
  | 0, _ => []
  | k + 1, n =>
    match FMap.get none best n with
    | some (_, some (e, prev, rev)) => traceBack best k prev ++ [(e, rev)]
    | _ => []

/-- The legs of a path: start and end pose, speed (FP16 code), edge. -/
def pathLegs (r : Roadmap) (path : List (Nat × Bool)) : List (Pose × Pose × Nat × Nat) :=
  path.flatMap (fun m =>
    match r.edges[m.1]? with
    | some e =>
      let ps := if m.2 then e.path.reverse else e.path
      (List.range (ps.length - 1)).map (fun i => (ps.getD i ⟨0, 0, 0⟩, ps.getD (i + 1) ⟨0, 0, 0⟩, e.speed16, m.1))
    | none => [])

/-- The point a time after the start of a path; whether the path has ended. -/
def alongLegs (last : Pose) (lastEdge : Nat) : List (Pose × Pose × Nat × Nat) → Nat → Point × Bool
  | [], _ => (⟨last, f32to16 last.yaw, 0, lastEdge⟩, true)
  | (a, b, sp, e) :: ls, t =>
    let d := fDiv (fHyp (fSub b.x a.x) (fSub b.y a.y)) (f16to32 sp)
    if fLt t d then
      let f := fDiv t d
      let yaw := fAdd a.yaw (fMul (segYaw a b) f)
      (⟨⟨fAdd a.x (fMul (fSub b.x a.x) f), fAdd a.y (fMul (fSub b.y a.y) f), f16to32 (f32to16 yaw)⟩, f32to16 yaw, sp, e⟩, false)
    else alongLegs b e ls (fSub t d)

/-- The trajectory of a path (R291 step 4) and CUT_HORIZON. -/
def pathTraj (r : Roadmap) (p : PlanIn) (path : List (Nat × Bool)) : List Point × Bool :=
  let legs := pathLegs r path
  let start := r.nodes.getD p.startNode ⟨0, 0, 0⟩
  let pts := (List.range p.nPts).map (fun i => alongLegs start 0xFFFFFFFF legs (fEnc (FV.ofRat ((i * p.dt : Nat) : Int) 1000000000)))
  (pts.map (·.1), match pts.getLast? with
    | some l => !l.2
    | none => false)

/-- What a search gives: a free path's trajectory, CUT_HORIZON, exclusions, DYNAMIC_BLOCKED, INCOMPLETE, edges looked
at, entries dropped. -/
structure SearchOut where
  traj : Option (List Point)
  cut : Bool
  exclusions : Nat
  dynamicBlocked : Bool
  incomplete : Bool
  looked : List Nat
  dropped : Nat
  deriving DecidableEq, Repr

def searchRounds (w : World) (r : Roadmap) (p : PlanIn) : Nat → List Nat → List Nat → Nat → SearchOut
  | 0, ex, lk, dr => ⟨none, false, ex.length, true, false, lk, dr⟩
  | k + 1, ex, lk, dr =>
    let s0 : SearchSt :=
      { queue := [(costKey (fMul p.hWeight (heurist r p.goals p.startNode)), p.startNode)],
        best := FMap.set none [] p.startNode (some (0, none)), closed := [], looked := lk, dropped := dr }
    let o := searchLoop w r p ex (2 * r.edges.length + 2) s0
    match o.1 with
    | none => ⟨none, false, ex.length, false, decide (0 < o.2.dropped), o.2.looked, o.2.dropped⟩
    | some g =>
      let t := pathTraj r p (traceBack o.2.best (r.nodes.length + 1) g)
      match trajHit w (some r) p t.1 with
      | none => ⟨some t.1, t.2, ex.length, false, false, o.2.looked, o.2.dropped⟩
      | some (seg, _, mov) =>
        match mov, t.1[seg]? with
        | true, some pt => if ex.length < 16 then searchRounds w r p k (pt.edge :: ex) o.2.looked o.2.dropped
            else ⟨none, false, ex.length, true, false, o.2.looked, o.2.dropped⟩
        | _, _ => ⟨none, false, ex.length, false, false, o.2.looked, o.2.dropped⟩

/-! ### The outcome (R294) and the result area (R296) -/

structure PlanOut where
  status : Nat
  flags : Nat
  chosen : Nat
  traj : List Point
  verdicts : List Nat
  exclusions : Nat
  looked : List Nat
  dropped : Nat
  deriving DecidableEq, Repr

def flagSuboptimal : Nat := 2
def flagSearched : Nat := 0x10
def flagIncomplete : Nat := 0x20
def flagDynamic : Nat := 0x40
def flagNoCover : Nat := 0x80
def flagCut : Nat := 0x100

/-- Verdicts taken: all of them under ALL; under FIRST up to the first free candidate in queue order; at the end time
only those of `resolved`. -/
def planVerdicts (w : World) (r : Option Roadmap) (p : PlanIn) (resolved : Option (List Nat)) : List Nat :=
  let v (j : Nat) : Nat := candVerdict w r p j
  let ord := candOrder p
  let upto := match ord.findIdx? (fun j => v j == 1) with
    | some i => ord.take (i + 1)
    | none => ord
  (List.range p.cands.length).map (fun j =>
    if candInvalid (p.cands.getD j []) (p.costs.getD j 0) then 3
    else match resolved with
      | some rs => if rs.contains j then v j else 0
      | none => if p.all || upto.contains j then v j else 0)

def planOutcome (w : World) (r : Option Roadmap) (p : PlanIn) (resolved : Option (List Nat)) : PlanOut :=
  let vs := planVerdicts w r p resolved
  let ord := candOrder p
  let nc := if p.roadmapMode && !p.covers r then flagNoCover else 0
  match ord.find? (fun j => vs.getD j 0 == 1) with
  | some j =>
    let earlier := ord.takeWhile (fun i => i != j)
    let sub := resolved.isSome && earlier.any (fun i => vs.getD i 0 == 0)
    { status := 0, flags := nc + (if sub then flagSuboptimal else 0), chosen := j, traj := p.cands.getD j [], verdicts := vs,
      exclusions := 0, looked := [], dropped := 0 }
  | none =>
    match resolved with
    | some _ => { status := if !p.search && vs.all (· != 0) then 8 else 9, flags := nc, chosen := 0xFFFF, traj := [], verdicts := vs, exclusions := 0, looked := [], dropped := 0 }
    | none =>
      match p.search, r with
      | true, some rm =>
        let s := searchRounds w rm p 17 [] [] 0
        (match s.traj with
         | some t => { status := 0, flags := nc + flagSearched + (if s.cut then flagCut else 0), chosen := 0xFFFE, traj := t,
                       verdicts := vs, exclusions := s.exclusions, looked := s.looked, dropped := s.dropped }
         | none => { status := 8, flags := nc + (if s.dynamicBlocked then flagDynamic else 0) + (if s.incomplete then flagIncomplete else 0),
                     chosen := 0xFFFF, traj := [], verdicts := vs, exclusions := s.exclusions, looked := s.looked, dropped := s.dropped })
      | _, _ => { status := 8, flags := nc, chosen := 0xFFFF, traj := [], verdicts := vs, exclusions := 0, looked := [], dropped := 0 }

/-- Fields of a result header that a command without candidates leaves 0. -/
structure ResultHead where
  op : Nat
  status : Nat
  flags : Nat
  epoch : Nat
  chosen : Nat
  checked : Nat
  blocked : Nat
  invalid : Nat
  cycles : Nat
  rechecks : Nat
  restarts : Nat
  exclusions : Nat
  hit : Option (Nat × Nat × Hit)
  endNs : Nat
  edges : Nat
  deriving DecidableEq, Repr

/-- The 64 bytes of a result header. HIT_SEG and HIT_CAND of the hit: segment, candidate. -/
def ResultHead.bytes (r : ResultHead) : List Byte :=
  let h := r.hit.getD (0, 0, 0, 0)
  [0x01, BitVec.ofNat 8 r.op, BitVec.ofNat 8 r.status, 0] ++ leBytes 2 r.flags ++ leBytes 2 r.epoch ++ leBytes 2 r.chosen ++
  leBytes 2 r.checked ++ leBytes 2 r.blocked ++ leBytes 2 r.invalid ++ leBytes 4 r.cycles ++ leBytes 2 r.rechecks ++
  leBytes 1 r.restarts ++ leBytes 1 r.exclusions ++ leBytes 4 h.2.2.2 ++ leBytes 1 h.2.2.1 ++ leBytes 1 h.1 ++ leBytes 2 h.2.1 ++
  leBytes 8 r.endNs ++ leBytes 4 r.edges ++ List.replicate 20 0

/-- The hit a result reports: the first blocked sample of the blocked candidate of least KEY. -/
def planHit (w : World) (r : Option Roadmap) (p : PlanIn) (vs : List Nat) : Option (Nat × Nat × Hit) :=
  match (candOrder p).find? (fun j => vs.getD j 0 == 2) with
  | some j => (trajHit w r p (p.cands.getD j [])).map (fun h => (h.1, j, h.2.1))
  | none => none

def countOf (v : Nat) (vs : List Nat) : Nat := (vs.filter (· == v)).length

/-- TRAJECTORY and VERDICTS after the header. -/
def planTail (o : PlanOut) : List Byte :=
  let t := o.traj.flatMap Point.bytes
  t ++ List.replicate (1024 - t.length) 0 ++ leBytes 256 ((o.verdicts.zipIdx.map (fun x => x.1 * 4 ^ x.2)).sum)

end Sys2Proof.Machine
end

