-- ==== Sys2Proof/Machine/WindowOps.lean ====
section
/-! DEFINITION. The Window Engine's commands (R226–R232): their checks and what each output element is. -/
namespace Sys2Proof.Machine

/-- One dimension of a windowed operation: input and output extent, window, stride, dilation, pads before and after. -/
structure Dim where
  inn : Nat
  out : Nat
  k : Nat
  s : Nat
  dil : Nat
  pa : Nat
  pb : Nat
  deriving DecidableEq, Repr

/-- K' of R228. -/
def Dim.reach (x : Dim) : Int := (x.dil : Int) * ((x.k : Int) - 1) + 1
/-- The extent CONV and POOL give (R228). -/
def Dim.convExtent (x : Dim) : Int := ((x.inn : Int) + x.pa + x.pb - x.reach) / (x.s : Int) + 1
/-- The extent CONV_TRANSPOSED gives (R228). -/
def Dim.transExtent (x : Dim) : Int := ((x.inn : Int) - 1) * x.s - x.pa - x.pb + x.reach

/-- Where a tap reads: nothing (a transposed tap that meets no input element), padding, or an input index. -/
inductive Src where
  | skip | pad
  | at (i : Nat)
  deriving DecidableEq, Repr

def Dim.convSrc (x : Dim) (o k : Nat) : Src :=
  let i : Int := (o : Int) * x.s - x.pa + (k : Int) * x.dil
  if i < 0 ∨ (x.inn : Int) ≤ i then .pad else .at i.toNat

def Dim.transSrc (x : Dim) (o k : Nat) : Src :=
  let t : Int := (o : Int) + x.pa - (k : Int) * x.dil
  if t < 0 ∨ t % (x.s : Int) ≠ 0 ∨ (x.inn : Int) ≤ t / (x.s : Int) then .skip else .at (t / (x.s : Int)).toNat

/-! ### The command (R226) -/

def wIn (bs : List Byte) : Tensor := parseTensor bs 0x20
def wOut (bs : List Byte) : Tensor := parseTensor bs 0x40
def wOp (bs : List Byte) : Nat := fieldAt bs 2 1
def wMulti (bs : List Byte) : Bool := bitOf (fieldAt bs 3 1) 0
def wGroups (bs : List Byte) : Nat := fieldAt bs 0x1A 2
def wAct (bs : List Byte) : Nat := fieldAt bs 0x80 1
def wPool (bs : List Byte) : Nat := fieldAt bs 0x82 1
def wGlobal (bs : List Byte) : Bool := wOp bs == 3 && decide (2 ≤ wPool bs)
def wMode (bs : List Byte) : Nat := fieldAt bs 0x83 1
/-- An address field of 8 bytes whose bits [63:48] are reserved. -/
def addrAt (bs : List Byte) (off : Nat) : Nat := fieldAt bs off 6

/-- Dimension j: 0 depth, 1 height, 2 width. Global pooling takes the whole height and width as its window. -/
def wDim (bs : List Byte) (j : Nat) : Dim :=
  let i := wIn bs
  let o := wOut bs
  let e := if j = 0 then i.d else if j = 1 then i.h else i.w
  if wGlobal bs && j != 0 then { inn := e, out := 1, k := e, s := 1, dil := 1, pa := 0, pb := 0 }
  else
    { inn := e, out := if j = 0 then o.d else if j = 1 then o.h else o.w, k := fieldAt bs (8 + j) 1,
      s := fieldAt bs (0xC + j) 1, dil := fieldAt bs (0x10 + j) 1, pa := fieldAt bs (0x14 + 2 * j) 1,
      pb := fieldAt bs (0x15 + 2 * j) 1 }

def isFlt16or8 (t : ElemType) : Bool := t == .e4m3 || t == .e5m2 || t == .bf16 || t == .f16

/-- The rows of R227. -/
def convTypes (i w o : ElemType) : Bool :=
  let fo := isFlt16or8 o || o == .f32
  ((i == .i8 || i == .u8) && (w == .i8 || w == .i4) && (o == .i8 || o == .u8 || o == .i32)) ||
  ((i == .e4m3 || i == .e5m2) && (w == .e4m3 || w == .e5m2) && fo) ||
  (i == .bf16 && w == .bf16 && fo) || (i == .f16 && w == .f16 && fo)
def poolType (t : ElemType) : Bool := t == .i8 || t == .u8 || isFlt16or8 t

def typeBad (c : Nat) : Bool := decide (0xD ≤ c)

/-- INVALID_DESC causes: reserved bits and values, fields the operation does not use (0; sizes, strides and dilations
1; GROUPS 0 or 1), and the filter limit of R229. -/
def wDescChecks (bs : List Byte) (qm : Bool) : List Check :=
  let conv := wOp bs == 1 || wOp bs == 2
  let rs := wOp bs == 4
  let one (o : Nat) : Check := (fieldAt bs o 1 != 1, vDesc, o)
  let zero (o n : Nat) : Check := reservedAt bs o n
  let lim := if qm && wMulti bs then 31 else 7
  [(decide (2 ≤ fieldAt bs 3 1) || (!conv && wMulti bs) || (conv && !qm && wMulti bs), vDesc, 3)] ++
  (if conv then (List.range 3).map (fun j => (decide (lim < fieldAt bs (8 + j) 1), vDesc, 8 + j)) else []) ++
  (if rs then (List.range 3).flatMap (fun j => [one (8 + j), one (0xC + j), one (0x10 + j)]) ++ [zero 0x14 6, zero 0x1C 4]
   else []) ++
  (if wGlobal bs then [one 9, one 0xA, one 0xD, one 0xE, one 0x11, one 0x12, zero 0x16 4] else []) ++
  [zero 0xB 1, zero 0xF 1, zero 0x13 1] ++
  (if conv then [] else [(decide (1 < wGroups bs), vDesc, 0x1A)]) ++
  Tensor.descChecks bs 0x20 ++ Tensor.descChecks bs 0x40 ++
  (if conv then [zero 0x66 2] else [zero 0x60 9]) ++ [zero 0x69 7] ++
  (if conv then [zero 0x76 2, zero 0x7E 2] else [zero 0x70 17]) ++
  (if conv && (wOut bs).ty == .i32 then [zero 0x78 8] else []) ++
  [(decide (3 < wAct bs), vDesc, 0x80), (decide (1 < fieldAt bs 0x81 1) || (!conv && fieldAt bs 0x81 1 != 0), vDesc, 0x81),
   (if wOp bs = 3 then decide (3 < wPool bs) else wPool bs != 0, vDesc, 0x82),
   (if wOp bs = 3 then decide (1 < wMode bs) || (wMode bs == 1 && wPool bs % 2 == 0) else if rs then decide (3 < wMode bs)
    else wMode bs != 0, vDesc, 0x83)] ++
  (if conv && wAct bs == 2 then [] else [zero 0x84 8]) ++ (if conv && wAct bs == 3 then [] else [zero 0x8C 4]) ++
  (if wMulti bs then [zero 0x96 2] else [zero 0x90 12]) ++ [zero 0x9C 100]

/-- Output extents (R228), ranges of sizes, strides, dilations, pads and groups. -/
def wShapeChecks (bs : List Byte) (mortarIn mortarOut : Bool) : List Check :=
  let conv := wOp bs == 1 || wOp bs == 2
  let i := wIn bs
  let o := wOut bs
  let size (off hi : Nat) : Check := (dimBad (fieldAt bs off 1) hi, vShape, off)
  let ext (j : Nat) : Check :=
    let x := wDim bs j
    let want : Int :=
      if wOp bs = 2 then x.transExtent else x.convExtent
    let bad :=
      if wOp bs = 4 then decide (8 * x.out < x.inn) || decide (8 * x.inn < x.out)
      else decide (want < 1) || (x.out : Int) != want
    (bad, vShape, 0x40 + 0xE + 2 * j)
  (List.range 3).flatMap (fun j => [size (8 + j) 31, size (0xC + j) 8, size (0x10 + j) 8]) ++
  (List.range 6).map (fun j => (decide (31 < fieldAt bs (0x14 + j) 1), vShape, 0x14 + j)) ++
  (if conv then [(dimBad (wGroups bs) 8192 || i.c % wGroups bs != 0 || o.c % wGroups bs != 0, vShape, 0x1A)] else []) ++
  i.shapeChecks mortarIn 0x20 ++ o.shapeChecks mortarOut 0x40 ++
  [(o.n != i.n, vShape, 0x4C)] ++ (List.range 3).map ext ++ [(!conv && o.c != i.c, vShape, 0x54)] ++
  (if conv && i.ty.isInt && o.ty != .i32 then [(addrAt bs 0x78 == 0, vShape, 0x78)] else [])

def wTypeChecks (bs : List Byte) : List Check :=
  let i := wIn bs
  let o := wOut bs
  let w := (ElemType.ofCode (fieldAt bs 0x68 1)).getD .i8
  let bad :=
    if wOp bs = 1 ∨ wOp bs = 2 then typeBad (fieldAt bs 0x68 1) || typeBad i.type || typeBad o.type || !convTypes i.ty w o.ty
    else typeBad i.type || !poolType i.ty || o.type != i.type
  [(bad, vType, 0x26)] ++ i.typeChecks 0x20 ++ o.typeChecks 0x40 ++
  [((wOp bs == 1 || wOp bs == 2) && i.ty.isInt && wAct bs == 3, vType, 0x80)]

def wAlignChecks (bs : List Byte) : List Check := (wIn bs).alignChecks 0x20 ++ (wOut bs).alignChecks 0x40

def wWeightBits (bs : List Byte) : Nat := ((ElemType.ofCode (fieldAt bs 0x68 1)).getD .i8).width
def wCinG (bs : List Byte) : Nat := (wIn bs).c / wGroups bs
def wCoutG (bs : List Byte) : Nat := (wOut bs).c / wGroups bs
/-- Rows per band of a multipass command (R230). -/
def wBand (bs : List Byte) : Nat :=
  min (wOut bs).h (fieldAt bs 0x98 4 / (4 * (wOut bs).w * (wOut bs).c))

/-- Region and partial-sum checks; `ok a n need` says that a range lies in the partition's regions. -/
def wRegionChecks (h : Hw) (die : Nat) (ok : Nat → Nat → Nat → Bool) (bs : List Byte) : List Check :=
  let i := wIn bs
  let o := wOut bs
  let conv := wOp bs == 1 || wOp bs == 2
  let kk := (wDim bs 0).k * (wDim bs 1).k * (wDim bs 2).k
  [(!ok i.addr i.extent 0, vRegion, 0x20), (!ok o.addr o.extent 1, vRegion, 0x40)] ++
  (if conv then
    [(!ok (addrAt bs 0x60) ((o.c * kk * wCinG bs * wWeightBits bs + 7) / 8) 0, vRegion, 0x60),
     (addrAt bs 0x70 != 0 && !ok (addrAt bs 0x70) (4 * o.c) 0, vRegion, 0x70),
     (addrAt bs 0x78 != 0 && !ok (addrAt bs 0x78) ((if i.ty.isInt then 8 else 4) * o.c) 0, vRegion, 0x78)]
   else []) ++
  (if wMulti bs then
    [(rangeKind h (addrAt bs 0x90) (fieldAt bs 0x98 4) != .mortar die || !ok (addrAt bs 0x90) (fieldAt bs 0x98 4) 1 ||
      wBand bs == 0, vPsum, 0x90)]
   else [])

/-- Every check of a Window Engine command, in R215's order. -/
def windowChecks (h : Hw) (die : Nat) (qm : Bool) (ok : Nat → Nat → Nat → Bool) (bs : List Byte) : Option (Nat × Nat) :=
  let mo (t : Tensor) : Bool := (placeOf h t.addr).isMem && !(placeOf h t.addr).isDram
  firstBad (headerChecks bs 0 256 (decide (1 ≤ wOp bs) && decide (wOp bs ≤ 4)) ++ wDescChecks bs qm ++
    wShapeChecks bs (mo (wIn bs)) (mo (wOut bs)) ++ wTypeChecks bs ++ wAlignChecks bs ++ wRegionChecks h die ok bs)

/-! ### CONV and CONV_TRANSPOSED (R231) -/

/-- Channel groups of up to 64 (R231): first channel and count. -/
def chunks64 (n : Nat) : List (Nat × Nat) := (List.range ((n + 63) / 64)).map (fun j => (64 * j, min 64 (n - 64 * j)))

/-- The taps of one filter tile, kd outermost. -/
def tapsIn (d0 dn h0 hn w0 wn : Nat) : List (Nat × Nat × Nat) :=
  (List.range dn).flatMap (fun a => (List.range hn).flatMap (fun b => (List.range wn).map (fun c => (d0 + a, h0 + b, w0 + c))))

/-- The passes of a command: one of all taps, or one per filter tile of at most 7 taps a side (R230). -/
def passesOf (multi : Bool) (kd kh kw : Nat) : List (List (Nat × Nat × Nat)) :=
  if multi then
    (List.range ((kd + 6) / 7)).flatMap (fun a => (List.range ((kh + 6) / 7)).flatMap (fun b =>
      (List.range ((kw + 6) / 7)).map (fun c =>
        tapsIn (7 * a) (min 7 (kd - 7 * a)) (7 * b) (min 7 (kh - 7 * b)) (7 * c) (min 7 (kw - 7 * c)))))
  else [tapsIn 0 kd 0 kh 0 kw]

/-- A convolution as Plinth and the Window Engine share it. -/
structure ConvSpec where
  inp : Tensor
  out : Tensor
  dims : List Dim
  transposed : Bool
  groups : Nat
  padCode : Nat
  weights : Nat
  wtype : ElemType
  bias : Nat
  quant : Nat
  act : Nat
  satm : Bool
  clampLo : Nat
  clampHi : Nat
  slope : Nat
  multi : Bool
  deriving DecidableEq, Repr

def ConvSpec.dim (s : ConvSpec) (j : Nat) : Dim := s.dims.getD j ⟨1, 1, 1, 1, 1, 0, 0⟩
def ConvSpec.cinG (s : ConvSpec) : Nat := s.inp.c / s.groups

/-- The input codes a tap and channel chunk read; none where a transposed tap meets no input. -/
def ConvSpec.inputs (s : ConvSpec) (read : Nat → Nat → Nat → Nat → Nat → Nat) (n d h w co : Nat) (tap : Nat × Nat × Nat)
    (ch : Nat × Nat) : Option (List Nat) :=
  let src (j o k : Nat) : Src := if s.transposed then (s.dim j).transSrc o k else (s.dim j).convSrc o k
  let g := co / (s.out.c / s.groups)
  match src 0 d tap.1, src 1 h tap.2.1, src 2 w tap.2.2 with
  | .skip, _, _ | _, .skip, _ | _, _, .skip => none
  | .at a, .at b, .at c => some ((List.range ch.2).map (fun k => read n a b c (g * s.cinG + ch.1 + k)))
  | _, _, _ => some (List.replicate ch.2 s.padCode)

/-- The weights of a tap and chunk for output channel co: layout [OUT.C][KD][KH][KW][IN.C / GROUPS]. -/
def ConvSpec.wts (s : ConvSpec) (rd : Nat → Nat → List Byte) (co : Nat) (tap : Nat × Nat × Nat) (ch : Nat × Nat) : List Nat :=
  let base := (((co * (s.dim 0).k + tap.1) * (s.dim 1).k + tap.2.1) * (s.dim 2).k + tap.2.2) * s.cinG + ch.1
  (List.range ch.2).map (fun k => codeAt rd s.weights s.wtype.width (base + k))

/-- The operand lists of a pass, in accumulation order. -/
def ConvSpec.terms (s : ConvSpec) (rd : Nat → Nat → List Byte) (read : Nat → Nat → Nat → Nat → Nat → Nat)
    (n d h w co : Nat) (taps : List (Nat × Nat × Nat)) : List (List Nat × List Nat) :=
  taps.flatMap (fun tap => (chunks64 s.cinG).filterMap (fun ch =>
    (s.inputs read n d h w co tap ch).map (fun xs => (xs, s.wts rd co tap ch))))

def sumInt (ti tw : ElemType) : Int → List (List Nat × List Nat) → Int × Nat
  | a, [] => (a, 0)
  | a, (xs, ws) :: ts =>
    let r := intElem a (xs.map ti.int) (ws.map tw.int)
    let k := sumInt ti tw r.1 ts
    (k.1, satOf r.2 + k.2)

def sumFlt (ti tw : ElemType) : Nat → List (List Nat × List Nat) → Nat
  | a, [] => a
  | a, (xs, ws) :: ts => sumFlt ti tw (fltElem a 127 127 (xs.map ti.decode) (ws.map tw.decode)).1 ts

/-- An integer clamp that counts when it changes the value. -/
def clampCount (lo hi x : Int) : Int × Nat := (clampInt lo hi x, if clampInt lo hi x = x then 0 else 1)
/-- CLAMP_LO or CLAMP_HI rounded to an integer (R231). -/
def clampBound (c : Nat) : Int := ((fDec c).toInt (-2147483648) 2147483647).1

/-- Bias, quantisation, activation and output of the integer path (R231, R74). -/
def ConvSpec.finishInt (s : ConvSpec) (rd : Nat → Nat → List Byte) (co : Nat) (acc : Int) : Cell1 :=
  let b := clampCount (-2147483648) 2147483647 (acc + (if s.bias = 0 then 0 else sext 32 (leNat (rd (s.bias + 4 * co) 4))))
  let t := s.out.ty
  let q := leNat (rd (s.quant + 8 * co) 8)
  let z : Int := if t == .i32 then 0 else if t == .u8 then (bitsOf q 47 40 : Nat) else sext 8 (bitsOf q 47 40)
  let p : Int := b.1 * sext 32 q
  let y : Int := if t == .i32 then b.1 else signed (decide (p < 0)) (rneShift p.natAbs (bitsOf q 37 32)) + z
  let a : Int × Nat :=
    match s.act with
    | 1 => (if y < z then z else y, 0)
    | 2 => clampCount (clampBound s.clampLo) (clampBound s.clampHi) y
    | _ => (y, 0)
  let o := clampCount t.intLo t.intHi a.1
  (wrap t.width o.1, b.2 + a.2 + o.2)

/-- Bias, scale, activation and output of the float path. -/
def ConvSpec.finishFlt (s : ConvSpec) (rd : Nat → Nat → List Byte) (co : Nat) (acc : Nat) : Cell1 :=
  let b := if s.bias = 0 then acc else fAdd acc (leNat (rd (s.bias + 4 * co) 4))
  let q := if s.quant = 0 then b else fMul b (leNat (rd (s.quant + 4 * co) 4))
  let a : Nat :=
    match s.act with
    | 1 => fMax q 0
    | 2 => fMin (fMax q s.clampLo) s.clampHi
    | 3 => if fLt q 0 then fMul q s.slope else q
    | _ => q
  let c := cvtLane .f32 s.out.ty (overOf s.satm s.out.ty) none a
  (c.1, (if s.act = 2 ∧ a ≠ q then 1 else 0) + (if s.satm && c.2 &&& .ovf != 0 then 1 else 0))

/-- One output element. A float pass of a multipass command is summed from 0 and added to the partial sum with one
rounding (R230, log entry 30); an integer pass goes on from the partial sum. -/
def ConvSpec.elem (s : ConvSpec) (rd : Nat → Nat → List Byte) (read : Nat → Nat → Nat → Nat → Nat → Nat)
    (n d h w co : Nat) : Cell1 :=
  let ps := (passesOf s.multi (s.dim 0).k (s.dim 1).k (s.dim 2).k).map (s.terms rd read n d h w co)
  if s.inp.ty.isInt then
    let r := sumInt s.inp.ty s.wtype 0 ps.flatten
    let f := s.finishInt rd co r.1
    (f.1, f.2 + r.2)
  else
    match ps.map (sumFlt s.inp.ty s.wtype 0) with
    | [] => s.finishFlt rd co 0
    | a :: as => s.finishFlt rd co (as.foldl fAdd a)

def ConvSpec.run (s : ConvSpec) (rd : Nat → Nat → List Byte) (read : Nat → Nat → Nat → Nat → Nat → Nat) : EngOut :=
  EngOut.ok (s.out.store (fun n d h w c => (s.elem rd read n d h w c).1))
    (s.out.total (fun n d h w c => (s.elem rd read n d h w c).2))

def windowConvSpec (bs : List Byte) : ConvSpec :=
  { inp := wIn bs, out := wOut bs, dims := (List.range 3).map (wDim bs), transposed := wOp bs == 2,
    groups := wGroups bs, padCode := fieldAt bs 0x1C 4 % 2 ^ (wIn bs).bits, weights := addrAt bs 0x60,
    wtype := (ElemType.ofCode (fieldAt bs 0x68 1)).getD .i8, bias := addrAt bs 0x70, quant := addrAt bs 0x78,
    act := wAct bs, satm := fieldAt bs 0x81 1 == 1, clampLo := fieldAt bs 0x84 4, clampHi := fieldAt bs 0x88 4,
    slope := fieldAt bs 0x8C 4, multi := wMulti bs }

/-- CONV and CONV_TRANSPOSED; the partial-sum area of a multipass command is undefined afterwards (R230). -/
def runConv (bs : List Byte) (rd : Nat → Nat → List Byte) : EngOut :=
  let r := (windowConvSpec bs).run rd ((wIn bs).read rd)
  if wMulti bs then { r with undef := [(addrAt bs 0x90, fieldAt bs 0x98 4)] } else r

/-! ### POOL and RESAMPLE (R232) -/

/-- The codes of a pooling window, padding as none. -/
def poolWindow (bs : List Byte) (rd : Nat → Nat → List Byte) (n d h w c : Nat) : List (Option Nat) :=
  (tapsIn 0 (wDim bs 0).k 0 (wDim bs 1).k 0 (wDim bs 2).k).map (fun t =>
    match (wDim bs 0).convSrc d t.1, (wDim bs 1).convSrc h t.2.1, (wDim bs 2).convSrc w t.2.2 with
    | .at a, .at b, .at e => some ((wIn bs).read rd n a b e c)
    | _, _, _ => none)

def maxCodes (t : ElemType) : List Nat → Nat
  | [] => 0
  | [x] => if t.isInt then x else if (t.decode x).isNaN then t.fmt.canonNaN else x
  | x :: xs =>
    let y := maxCodes t xs
    if t.isInt then (if t.int x < t.int y then y else x) else (t.fmt.minmax false x y).1

/-- Convert an FP32 code to the tensor's type, to nearest even and saturated. -/
def satConvert (t : ElemType) (x : Nat) : Cell1 :=
  let c := cvtLane .f32 t (overOf true t) none x
  (c.1, if c.2 &&& (.sat ||| .ovf) = 0 then 0 else 1)

def toF32 (t : ElemType) (x : Nat) : Nat := if t.isInt then fOfInt (t.int x) else fEnc (t.decode x)

/-- An average: INT32 or FP32 sum, over the count. -/
def average (t : ElemType) (xs : List Nat) (count idx : Nat) : Cell1 :=
  if count = 0 then (Config.emptyAverage idx % 2 ^ t.width, 0)
  else if t.isInt then
    let s := clampInt (-2147483648) 2147483647 (xs.map t.int).sum
    let q := signed (decide (s < 0)) (rneDiv s.natAbs count)
    let c := clampCount t.intLo t.intHi q
    (wrap t.width c.1, c.2)
  else satConvert t (fDiv ((xs.map (toF32 t)).foldl fAdd 0) (fOfInt count))

def poolElem (bs : List Byte) (rd : Nat → Nat → List Byte) (n d h w c : Nat) : Cell1 :=
  let t := (wIn bs).ty
  let win := poolWindow bs rd n d h w c
  let pad := fieldAt bs 0x1C 4 % 2 ^ t.width
  let all := win.map (·.getD pad)
  if wPool bs % 2 = 0 then (maxCodes t all, 0)
  else if wMode bs % 2 = 1 then average t all all.length 0
  else average t (win.filterMap id) (win.filterMap id).length ((((n * (wOut bs).d + d) * (wOut bs).h + h) * (wOut bs).w + w) * (wOut bs).c + c)

def runPool (bs : List Byte) (rd : Nat → Nat → List Byte) : EngOut :=
  EngOut.ok ((wOut bs).store (fun n d h w c => (poolElem bs rd n d h w c).1))
    ((wOut bs).total (fun n d h w c => (poolElem bs rd n d h w c).2))

/-- Source coordinate of output coordinate o as a fraction (R232). -/
def sampleCoord (corners : Bool) (inn out o : Nat) : Int × Nat :=
  if corners then (if out = 1 then (0, 1) else ((o * (inn - 1) : Nat), out - 1))
  else (((2 * o + 1 : Nat) : Int) * inn - out, 2 * out)

def nearestSrc (inn : Nat) (q : Int × Nat) : Nat :=
  (clampInt 0 ((inn : Int) - 1) (signed (decide (q.1 < 0)) (rneDiv q.1.natAbs q.2))).toNat

/-- The two elements a clamped coordinate lies between, and the FP32 weight of the second; 0 at an element. -/
def linearSrc (inn : Nat) (q : Int × Nat) : Nat × Nat × Nat :=
  let p := (clampInt 0 (((inn : Int) - 1) * q.2) q.1).toNat
  (p / q.2, min (p / q.2 + 1) (inn - 1), fEnc (FV.ofRat ((p % q.2 : Nat) : Int) q.2))

def lerp (f a b : Nat) : Nat := if f = 0 then a else fAdd (fMul a (fSub 0x3F800000 f)) (fMul b f)

def resampleElem (bs : List Byte) (rd : Nat → Nat → List Byte) (n d h w c : Nat) : Cell1 :=
  let i := wIn bs
  let o := wOut bs
  let corners := bitOf (wMode bs) 1
  let cd := sampleCoord corners i.d o.d d
  let ch := sampleCoord corners i.h o.h h
  let cw := sampleCoord corners i.w o.w w
  if bitOf (wMode bs) 0 then
    let x := linearSrc i.d cd
    let y := linearSrc i.h ch
    let z := linearSrc i.w cw
    let at_ (a b e : Nat) : Nat := toF32 i.ty (i.read rd n a b e c)
    let row (a b : Nat) : Nat := lerp z.2.2 (at_ a b z.1) (at_ a b z.2.1)
    let plane (a : Nat) : Nat := lerp y.2.2 (row a y.1) (row a y.2.1)
    satConvert i.ty (lerp x.2.2 (plane x.1) (plane x.2.1))
  else (i.read rd n (nearestSrc i.d cd) (nearestSrc i.h ch) (nearestSrc i.w cw) c, 0)

def runResample (bs : List Byte) (rd : Nat → Nat → List Byte) : EngOut :=
  EngOut.ok ((wOut bs).store (fun n d h w c => (resampleElem bs rd n d h w c).1))
    ((wOut bs).total (fun n d h w c => (resampleElem bs rd n d h w c).2))

end Sys2Proof.Machine
end

