-- ==== Sys2Proof/Machine/TraceryOps.lean ====
section
/-! DEFINITION. Tracery (R249–R268): key-value sequences and their tables, the command, its checks, attention, draft
verification and the backward pass. -/
namespace Sys2Proof.Machine

/-- An append's reservation on a stream (R257, R258). -/
structure Reservation where
  /-- stream number (layer × GROUPS + group) × 2 + v -/
  stream : Nat
  core : Nat
  ctx : Nat
  start : Nat
  count : Nat
  /-- the append has completed and waits for earlier reservations -/
  done : Bool
  deriving DecidableEq, Repr

/-- An active sequence: the entry as read when it was loaded (R252). Stream lengths stand in the stream table. -/
structure Seq where
  owner : Nat
  home : Nat
  groups : Nat
  layers : Nat
  hg : Nat
  kv : Nat
  headDim : Nat
  maxTokens : Nat
  ptBase : Nat
  streamBase : Nat
  /-- oldest first -/
  res : List Reservation
  deriving DecidableEq, Repr

def parseSeq (bs : List Byte) : Seq :=
  { owner := fieldAt bs 1 1 % 16, home := fieldAt bs 2 1, groups := fieldAt bs 3 1, layers := fieldAt bs 4 2,
    hg := fieldAt bs 6 1, kv := fieldAt bs 7 1, headDim := fieldAt bs 8 2, maxTokens := fieldAt bs 0xA 2,
    ptBase := fieldAt bs 0x10 6, streamBase := fieldAt bs 0x18 6, res := [] }

/-- FORMAT, a reserved field, or a field value outside R252. -/
def seqEntryBad (bs : List Byte) : Bool :=
  let q := parseSeq bs
  let z (o n : Nat) : Bool := ((bs.drop o).take n).any (· != 0)
  fieldAt bs 0 1 != 1 || decide (16 ≤ fieldAt bs 1 1) || dimBad q.groups 16 || dimBad q.layers 256 ||
  !(q.hg == 1 || q.hg == 2 || q.hg == 4 || q.hg == 8) || !(q.kv == 4 || q.kv == 5 || q.kv == 9) ||
  !(q.headDim == 64 || q.headDim == 128 || q.headDim == 256) || decide (q.maxTokens < 64) ||
  decide (32768 < q.maxTokens) || q.maxTokens % 64 != 0 || z 0xC 4 || z 0x16 2 || z 0x1E 2 || z 0x20 32 ||
  q.ptBase % 64 != 0 || q.streamBase % 64 != 0

def Seq.ty (q : Seq) : ElemType := (ElemType.ofCode q.kv).getD .bf16
def Seq.es (q : Seq) : Nat := q.ty.width / 8
/-- Blocks per layer and group. -/
def Seq.blocks (q : Seq) : Nat := q.maxTokens / 64
def Seq.tableBytes (q : Seq) : Nat := q.layers * q.groups * q.blocks * 8
def Seq.streams (q : Seq) : Nat := q.layers * q.groups * 2
def Seq.streamBytes (q : Seq) : Nat := q.streams * 8
def Seq.pageBytes (q : Seq) : Nat := 2 * 64 * q.hg * q.headDim * q.es
def Seq.stream (q : Seq) (l g v : Nat) : Nat := (l * q.groups + g) * 2 + v
def Seq.recordAddr (q : Seq) (st : Nat) : Nat := q.streamBase + 8 * st

/-- A stream record (R254). -/
def recLen (r : Nat) : Nat := r % 65536
def recConf (r : Nat) : Nat := bitsOf r 31 16
def recEpoch (r : Nat) : Nat := bitsOf r 39 32
def mkRec (len conf ep : Nat) : Nat := len % 65536 + 65536 * (conf % 65536) + 2 ^ 32 * (ep % 256)
def Seq.record (q : Seq) (rd : Nat → Nat → List Byte) (st : Nat) : Nat := leNat (rd (q.recordAddr st) 8)

/-- Page address of block b of (layer, group) (R253). -/
def Seq.page (q : Seq) (rd : Nat → Nat → List Byte) (l g b : Nat) : Nat :=
  leNat (rd (q.ptBase + ((l * q.groups + g) * q.blocks + b) * 8) 8) % 2 ^ 48

/-- Address of element (position p, head h of the group, dimension d) of keys (v = 0) or values. -/
def Seq.elemAddr (q : Seq) (rd : Nat → Nat → List Byte) (l g v p h d : Nat) : Nat :=
  q.page rd l g (p / 64) + v * (q.pageBytes / 2) + ((p % 64 * q.hg + h) * q.headDim + d) * q.es

/-- The end of a stream's last reservation, or LEN (R257). -/
def Seq.resEnd (q : Seq) (st len : Nat) : Nat :=
  match (q.res.filter (fun r => r.stream == st)).getLast? with
  | some r => r.start + r.count
  | none => len

/-- Drop reservations beyond a stream's new length. -/
def Seq.voidBeyond (q : Seq) (st len : Nat) : Seq :=
  { q with res := q.res.filter (fun r => r.stream != st || decide (r.start + r.count ≤ len)) }

/-! ### The command (R259) -/

def tOp (bs : List Byte) : Nat := fieldAt bs 2 1
def tFlag (bs : List Byte) (i : Nat) : Bool := bitOf (fieldAt bs 3 1) i
def tPaged (bs : List Byte) : Bool := tOp bs == 1 && fieldAt bs 8 1 == 0
def tMask (bs : List Byte) : Nat := fieldAt bs 9 1
def tSeqNo (bs : List Byte) : Nat := fieldAt bs 0xC 2 % 4096
def tLayer (bs : List Byte) : Nat := fieldAt bs 0xE 2
def tGroup (bs : List Byte) : Nat := fieldAt bs 0x10 1
def tQpk (bs : List Byte) : Nat := fieldAt bs 0x11 1
def tQCount (bs : List Byte) : Nat := fieldAt bs 0x14 4
def tQPos (bs : List Byte) : Nat := fieldAt bs 0x18 4
def tWindow (bs : List Byte) : Nat := fieldAt bs 0x1C 4
def tScale (bs : List Byte) : Nat := fieldAt bs 0x20 4
def tQType (bs : List Byte) : ElemType := (ElemType.ofCode (fieldAt bs 0x24 1)).getD .bf16
def tOType (bs : List Byte) : ElemType := (ElemType.ofCode (fieldAt bs 0x25 1)).getD .f32
def tKvType (bs : List Byte) : ElemType := (ElemType.ofCode (fieldAt bs 0x26 1)).getD .bf16
def tQ (bs : List Byte) : Nat := addrAt bs 0x28
def tO (bs : List Byte) : Nat := addrAt bs 0x30
def tStats (bs : List Byte) : Nat := addrAt bs 0x50
def tKvLen (bs : List Byte) : Nat := fieldAt bs 0x48 4
def tBase (bs : List Byte) : Nat := fieldAt bs 0x7C 4
def tDrafts (bs : List Byte) : Nat := fieldAt bs 0x78 1

/-- INVALID_DESC causes: reserved bits and values, fields the operation does not use. -/
def traceryDescChecks (bs : List Byte) : List Check :=
  let zero (o n : Nat) : Check := reservedAt bs o n
  let op := tOp bs
  let att := op == 1 || op == 4
  let dense := att && !tPaged bs
  let allowed := match op with
    | 1 => 3 | 4 => 6 | _ => 0
  let hi (o : Nat) : Check := zero (o + 6) 2
  [(fieldAt bs 3 1 &&& allowed != fieldAt bs 3 1, vDesc, 3)] ++
  (if att then [(decide (1 < fieldAt bs 8 1), vDesc, 8), (decide (2 < tMask bs), vDesc, 9)] else [zero 8 4]) ++
  (if dense then [] else [zero 0xA 2]) ++
  (if dense then [zero 0xC 5] else [(decide (4096 ≤ fieldAt bs 0xC 2), vDesc, 0xC)] ++ (if tPaged bs then [] else [zero 0xE 3])) ++
  (if att then [] else [zero 0x11 1]) ++ (if dense then [] else [zero 0x12 2]) ++
  (if att then (if tMask bs = 2 then [] else [zero 0x1C 4]) else [zero 0x14 0x13]) ++
  (if tPaged bs then [zero 0x26 1] else []) ++ [zero 0x27 1] ++
  (if att then [hi 0x28, hi 0x30] else [zero 0x28 16]) ++ (if dense then [hi 0x38, hi 0x40] else [zero 0x38 20]) ++ [zero 0x4C 4] ++
  (if att && (op == 4 || tFlag bs 0) then [hi 0x50] else [zero 0x50 8]) ++
  (if op = 4 then [hi 0x58, hi 0x60, hi 0x68, hi 0x70] else [zero 0x58 32]) ++
  (if op = 2 then [(decide (1 < fieldAt bs 0x79 1), vDesc, 0x79), zero 0x7A 2, hi 0x80, hi 0x88, hi 0x90] else [zero 0x78 0x20]) ++
  (if op = 3 then [] else [zero 0x98 4]) ++ [zero 0x9C 100]

def traceryShapeChecks (bs : List Byte) : List Check :=
  let op := tOp bs
  let att := op == 1 || op == 4
  let hd := fieldAt bs 0xA 2
  (if att && !tPaged bs then
    [(!(hd == 64 || hd == 128 || hd == 256), vShape, 0xA), (dimBad (fieldAt bs 0x12 2) 64, vShape, 0x12),
     (dimBad (tKvLen bs) 32768, vShape, 0x48)] else []) ++
  (if att then
    [(dimBad (tQpk bs) 16, vShape, 0x11), (dimBad (tQCount bs) 65536, vShape, 0x14),
     (tMask bs == 2 && dimBad (tWindow bs) 32768, vShape, 0x1C), (!fFinite (tScale bs) || (fDec (tScale bs)).isZero, vShape, 0x20)]
   else []) ++
  (if op = 2 then [(dimBad (tDrafts bs) 8, vShape, 0x78)] else [])

def qkType (t : ElemType) : Bool := t == .e4m3 || t == .e5m2 || t == .bf16

def traceryTypeChecks (bs : List Byte) : List Check :=
  let code (o : Nat) : Nat := fieldAt bs o 1
  match tOp bs with
  | 1 =>
    [(typeBad (code 0x24) || !qkType (tQType bs), vType, 0x24),
     (typeBad (code 0x25) || !(isFlt16or8 (tOType bs) || tOType bs == .f32), vType, 0x25),
     (!tPaged bs && (typeBad (code 0x26) || !qkType (tKvType bs)), vType, 0x26)]
  | 4 =>
    [(fieldAt bs 8 1 != 1, vType, 8), (code 0x24 != 9, vType, 0x24),
     (!(code 0x25 == 9 || code 0x25 == 11) || (tFlag bs 2 && code 0x25 != 11), vType, 0x25), (code 0x26 != 9, vType, 0x26)]
  | _ => []

def traceryAlignChecks (bs : List Byte) : List Check :=
  [0x28, 0x30, 0x38, 0x40, 0x50, 0x58, 0x60, 0x68, 0x70, 0x80, 0x88, 0x90].map (fun o => (addrAt bs o % 64 != 0, vAlign, o))

/-- The checks before the sequence and the regions are looked at. -/
def traceryFormChecks (bs : List Byte) : List Check :=
  headerChecks bs 3 256 (decide (1 ≤ tOp bs) && decide (tOp bs ≤ 4)) ++ traceryDescChecks bs ++ traceryShapeChecks bs ++
  traceryTypeChecks bs ++ traceryAlignChecks bs

/-- What an attention command reads its keys and values from. -/
structure Att where
  dim : Nat
  kvHeads : Nat
  len : Nat
  ty : ElemType
  deriving DecidableEq, Repr

def attDense (bs : List Byte) : Att :=
  { dim := fieldAt bs 0xA 2, kvHeads := fieldAt bs 0x12 2, len := tKvLen bs, ty := tKvType bs }
def attPaged (q : Seq) (len : Nat) : Att := { dim := q.headDim, kvHeads := q.hg, len := len, ty := q.ty }

def Att.hq (a : Att) (bs : List Byte) : Nat := a.kvHeads * tQpk bs

/-- Region checks of ATTEND and ATTEND_BWD. -/
def attRegionChecks (ok : Nat → Nat → Nat → Bool) (bs : List Byte) (a : Att) : List Check :=
  let qn := tQCount bs * a.hq bs * a.dim
  let kn := a.len * a.kvHeads * a.dim
  let es := a.ty.width / 8
  let os := (tOType bs).width / 8
  let bwd := tOp bs == 4
  [(!ok (tQ bs) (qn * ((tQType bs).width / 8)) 0, vRegion, 0x28),
   (!ok (tO bs) (qn * (if bwd then 2 else os)) (if bwd then 0 else 1), vRegion, 0x30)] ++
  (if tPaged bs then [] else [(!ok (addrAt bs 0x38) (kn * es) 0, vRegion, 0x38), (!ok (addrAt bs 0x40) (kn * es) 0, vRegion, 0x40)]) ++
  (if bwd || tFlag bs 0 then [(!ok (tStats bs) (8 * tQCount bs * a.hq bs) (if bwd then 0 else 1), vRegion, 0x50)] else []) ++
  (if bwd then [(!ok (addrAt bs 0x58) (qn * 2) 0, vRegion, 0x58), (!ok (addrAt bs 0x60) (qn * os) 1, vRegion, 0x60),
    (!ok (addrAt bs 0x68) (kn * os) 1, vRegion, 0x68), (!ok (addrAt bs 0x70) (kn * os) 1, vRegion, 0x70)] else [])

def verifyRegionChecks (ok : Nat → Nat → Nat → Bool) (bs : List Byte) : List Check :=
  if tOp bs = 2 then
    [(!ok (addrAt bs 0x80) (4 * tDrafts bs) 0, vRegion, 0x80),
     (!ok (addrAt bs 0x88) (if fieldAt bs 0x79 1 = 0 then 4 * (tDrafts bs + 1) else 12 * tDrafts bs) 0, vRegion, 0x88),
     (!ok (addrAt bs 0x90) 16 1, vRegion, 0x90)]
  else []

/-! ### Attention (R250, R251) -/

def keyVisible (bs : List Byte) (len i j : Nat) : Bool :=
  decide (j < len) &&
  (match tMask bs with
   | 0 => true
   | 1 => decide (j ≤ tQPos bs + i)
   | _ => decide (j ≤ tQPos bs + i) && decide (tQPos bs + i < j + tWindow bs))

def fMaxOf (m : Nat) (xs : List Nat) : Nat := xs.foldl (fun a x => if fLt a x then x else a) m

/-- The running maximum, sum and accumulator row of online softmax. -/
structure SoftRow where
  m : Nat
  l : Nat
  acc : List Nat
  deriving DecidableEq, Repr

/-- One tile of R250 step 2: `ks` the visible keys of the tile with their scores. -/
def softTile (pty : ElemType) (val : Nat → Nat → Nat) (vty : ElemType) (r : SoftRow) (ks : List (Nat × Nat)) : SoftRow :=
  match ks with
  | [] => r
  | _ =>
    let m' := fMaxOf r.m (ks.map (·.2))
    let al := if r.m = fNegInf then 0 else fExp (fSub r.m m')
    let ps := ks.map (fun k => fExp (fSub k.2 m'))
    let pv := ps.map (fun p => pty.decode (cvtLane .f32 pty .plain none p).1)
    { m := m', l := fAdd (fMul r.l al) (ps.foldl fAdd 0),
      acc := (List.range r.acc.length).map (fun d =>
        (fltElem (fMul (r.acc.getD d 0) al) 127 127 pv (ks.map (fun k => vty.decode (val k.1 d)))).1) }

/-- The score of a query row and a key: the D products summed exactly, rounded to FP32, times SCALE. -/
def attScore (scale : Nat) (qs ks : List FV) : Nat := fMul (fEnc (dotExact qs ks).1) scale

/-- The result of one query row: none where it sees no key, the accumulator otherwise; `bad` the NaN rule. -/
def attRow (bs : List Byte) (a : Att) (q : Nat → Nat) (key val : Nat → Nat → Nat) (i : Nat) : Option (Bool × SoftRow) :=
  let vis := (List.range a.len).filter (keyVisible bs a.len i)
  let qs := (List.range a.dim).map (fun d => (tQType bs).decode (q d))
  let kv (j : Nat) : List FV := (List.range a.dim).map (fun d => a.ty.decode (key j d))
  let sc := vis.map (fun j => (j, attScore (tScale bs) qs (kv j)))
  let bad := qs.any FV.isNaN || vis.any (fun j => (kv j).any FV.isNaN) || sc.any (fun k => !fFinite k.2)
  let pty : ElemType := if a.ty == .bf16 then .bf16 else .e4m3
  if vis.isEmpty then none
  else some (bad, (List.range ((a.len + 63) / 64)).foldl (fun r t => softTile pty val a.ty r (sc.filter (fun k => k.1 / 64 == t)))
    { m := fNegInf, l := 0, acc := List.replicate a.dim 0 })

def fLn (x : Nat) : Nat := (Config.fln (BitVec.ofNat 32 x)).toNat

/-- Output codes with saturations, and the two statistics (R265). -/
def attOut (bs : List Byte) (a : Att) (r : Option (Bool × SoftRow)) : List Cell1 × Nat × Nat :=
  let t := tOType bs
  match r with
  | none => (List.replicate a.dim (0, 0), fNegInf, fNegInf)
  | some (true, _) => (List.replicate a.dim (t.fmt.canonNaN, 0), fNaN, fNaN)
  | some (false, r) =>
    (r.acc.map (fun x => let c := cvtLane .f32 t (overOf (tFlag bs 1) t) none (fDiv x r.l)
       (c.1, if tFlag bs 1 && c.2 &&& .ovf != 0 then 1 else 0)), r.m, fAdd r.m (fLn r.l))

/-- ATTEND: `key` and `val` give a key-value head's element codes. -/
def runAttend (bs : List Byte) (rd : Nat → Nat → List Byte) (a : Att) (key val : Nat → Nat → Nat → Nat) : EngOut :=
  let hq := a.hq bs
  let rows := (List.range (tQCount bs)).flatMap (fun i => (List.range hq).map (fun h =>
    (i, h, attOut bs a (attRow bs a (fun d => codeAt rd (tQ bs) (tQType bs).width ((i * hq + h) * a.dim + d))
      (key (h / tQpk bs)) (val (h / tQpk bs)) i))))
  let os := (tOType bs).width / 8
  EngOut.ok (rows.map (fun r => (tO bs + (r.1 * hq + r.2.1) * a.dim * os, r.2.2.1.flatMap (fun c => leBytes os c.1))) ++
      (if tFlag bs 0 then rows.map (fun r => (tStats bs + (r.2.1 * tQCount bs + r.1) * 8,
        leBytes 4 r.2.2.2.1 ++ leBytes 4 r.2.2.2.2)) else []))
    ((rows.map (fun r => (r.2.2.1.map (·.2)).sum)).sum)

def denseElem (bs : List Byte) (rd : Nat → Nat → List Byte) (a : Att) (off h j d : Nat) : Nat :=
  codeAt rd (addrAt bs off) a.ty.width ((j * a.kvHeads + h) * a.dim + d)
def pagedElem (q : Seq) (rd : Nat → Nat → List Byte) (l g v h j d : Nat) : Nat :=
  leNat (rd (q.elemAddr rd l g v j h d) q.es)

def runAttendDense (bs : List Byte) (rd : Nat → Nat → List Byte) : EngOut :=
  let a := attDense bs
  runAttend bs rd a (denseElem bs rd a 0x38) (denseElem bs rd a 0x40)

/-- A paged ATTEND; an absent page ends it with TRC_PAGE_ABSENT and undefined outputs (R260). -/
def runAttendPaged (ok : Nat → Nat → Nat → Bool) (bs : List Byte) (rd : Nat → Nat → List Byte) (q : Seq) (len : Nat) : EngOut :=
  let a := attPaged q len
  let l := tLayer bs
  let g := tGroup bs
  let missing := (List.range ((len + 63) / 64)).any (fun b =>
    q.page rd l g b == 0 || !ok (q.page rd l g b) q.pageBytes 0)
  if missing then
    { stores := [], sat := 0, status := 0x88, truncated := none,
      undef := (tO bs, tQCount bs * a.hq bs * a.dim * ((tOType bs).width / 8)) ::
        (if tFlag bs 0 then [(tStats bs, 8 * tQCount bs * a.hq bs)] else []) }
  else runAttend bs rd a (pagedElem q rd l g 0) (pagedElem q rd l g 1)

/-! ### Verification (R262) -/

/-- The largest count whose every earlier position is accepted. -/
def acceptedPrefix (good : Nat → Bool) : Nat → Nat → Nat
  | 0, i => i
  | k + 1, i => if good i then acceptedPrefix good k (i + 1) else i

/-- `u × p_d ≤ p_t` on the exact values, a NaN failing. -/
def ratioAccepts (pt pd u : Nat) : Bool :=
  let x := (FV.mul (fDec u) (fDec pd)).1
  !x.isNaN && !(fDec pt).isNaN && !FV.lt (fDec pt) x

def acceptedCount (bs : List Byte) (rd : Nat → Nat → List Byte) : Nat :=
  let w (a i : Nat) : Nat := leNat (rd (a + 4 * i) 4)
  let dr := addrAt bs 0x80
  let ju := addrAt bs 0x88
  acceptedPrefix (fun i =>
    if fieldAt bs 0x79 1 = 0 then w ju i == w dr i
    else ratioAccepts (w ju (3 * i)) (w ju (3 * i + 1)) (w ju (3 * i + 2))) (tDrafts bs) 0

/-- The 16-byte result. -/
def verifyResult (bs : List Byte) (rd : Nat → Nat → List Byte) (rolled : Nat) : List Byte :=
  let a := acceptedCount bs rd
  leBytes 4 a ++ (if fieldAt bs 0x79 1 = 0 then rd (addrAt bs 0x88 + 4 * a) 4 else leBytes 4 0xFFFFFFFF) ++
  leBytes 4 (tBase bs + a + 1) ++ leBytes 4 rolled

/-! ### Backward pass (R266) -/

/-- Multiply and add with one rounding. -/
def fFma (x y z : Nat) : Nat := (f32.fmaCodes none x y z).1

/-- Row quantities of the backward pass: δ, and for each visible key the pair P, dS. -/
structure BwdRow where
  i : Nat
  h : Nat
  ps : List (Nat × Nat × Nat)
  deriving DecidableEq, Repr

/-- Statistics R265 cannot produce. -/
def statsBad (m lse : Nat) : Bool :=
  (fDec m).isNaN || (fDec lse).isNaN || m == 0x7F800000 || lse == 0x7F800000 || ((m == fNegInf) != (lse == fNegInf)) ||
  fLt lse m

def runAttendBwd (bs : List Byte) (rd : Nat → Nat → List Byte) : EngOut :=
  let a := attDense bs
  let hq := a.hq bs
  let bf (base i : Nat) : Nat := codeAt rd base 16 i * 65536
  let qv (i h d : Nat) : Nat := bf (tQ bs) ((i * hq + h) * a.dim + d)
  let ov (i h d : Nat) : Nat := bf (tO bs) ((i * hq + h) * a.dim + d)
  let gv (i h d : Nat) : Nat := bf (addrAt bs 0x58) ((i * hq + h) * a.dim + d)
  let kv (off j h d : Nat) : Nat := bf (addrAt bs off) ((j * a.kvHeads + h) * a.dim + d)
  let dot (f g : Nat → Nat) : Nat := (List.range a.dim).foldl (fun s d => fFma (f d) (g d) s) 0
  let dims := List.range a.dim
  let rows := (List.range (tQCount bs)).flatMap (fun i => (List.range hq).map (fun h =>
    let kh := h / tQpk bs
    let st := tStats bs + (h * tQCount bs + i) * 8
    let m := leNat (rd st 4)
    let lse := leNat (rd (st + 4) 4)
    let delta := dot (gv i h) (ov i h)
    let vis := (List.range a.len).filter (keyVisible bs a.len i)
    ({ i := i, h := h, ps := vis.map (fun j =>
        let s := attScore (tScale bs) (dims.map (fun d => fDec (qv i h d))) (dims.map (fun d => fDec (kv 0x38 j kh d)))
        let p := if statsBad m lse then fNaN else fExp (fSub s lse)
        (j, p, fMul p (fSub (dot (gv i h) (kv 0x40 j kh)) delta))) } : BwdRow)))
  let os := (tOType bs).width / 8
  let enc (x : Nat) : List Byte := leBytes os (cvtLane .f32 (tOType bs) (overOf (tFlag bs 1) (tOType bs)) none x).1
  let prior (off n : Nat) : Nat := if tFlag bs 2 then leNat (rd (addrAt bs off + 4 * n) 4) else 0
  let dq := rows.map (fun r => (addrAt bs 0x60 + (r.i * hq + r.h) * a.dim * os, dims.flatMap (fun d =>
    enc (fMul (tScale bs) (r.ps.foldl (fun s p => fFma p.2.2 (kv 0x38 p.1 (r.h / tQpk bs) d) s) 0)))))
  let grad (off : Nat) (term : BwdRow → Nat × Nat × Nat → Nat → Nat × Nat) : List (Nat × List Byte) :=
    (List.range a.len).flatMap (fun j => (List.range a.kvHeads).map (fun kh =>
      (addrAt bs off + (j * a.kvHeads + kh) * a.dim * os, dims.flatMap (fun d =>
        enc ((rows.filter (fun r => r.h / tQpk bs == kh)).foldl (fun s r =>
          (r.ps.filter (fun p => p.1 == j)).foldl (fun s p => fFma (term r p d).1 (term r p d).2 s) s)
          (prior off ((j * a.kvHeads + kh) * a.dim + d)))))))
  EngOut.ok (dq ++ grad 0x68 (fun r p d => (fMul (tScale bs) p.2.2, qv r.i r.h d)) ++
    grad 0x70 (fun r p d => (p.2.1, gv r.i r.h d))) 0

end Sys2Proof.Machine
end

