-- ==== Sys2Proof/Machine/EngineState.lean ====
section
/-! DEFINITION. The state of the fixed engines and of Cairn (R113, R143, R213–R309): their command queues, the command
each runs, and Cairn's world store. -/
namespace Sys2Proof.Machine

/-- A command waiting in an engine's or Cairn's queue. -/
structure EngCmd where
  ctx : Nat
  part : Nat
  /-- device-physical address of the command block -/
  addr : Nat
  /-- the EISS's ticket; none for a PLAN_REQUEST -/
  ticket : Option Nat
  /-- order of acceptance -/
  order : Nat
  /-- Plumb ns of a Cairn command's first start -/
  firstStart : Option Nat
  restarts : Nat
  /-- the issuing core, whose earlier appends VERIFY and TRUNCATE wait for -/
  core : Option Nat
  deriving DecidableEq, Repr

/-- The command an engine runs: its final status, and the ranges it wrote. -/
structure EngRun where
  cmd : EngCmd
  status : Nat
  outs : List (Nat × Nat)
  deriving DecidableEq, Repr

/-- One engine of a Course die. -/
structure Eng where
  /-- queue of each partition, at most 16 (R113) -/
  queues : FMap (List EngCmd)
  run : Option EngRun
  underTest : Bool
  /-- cost served per partition, in the weighted share of R143 -/
  served : FMap Nat
  deriving DecidableEq, Repr

def Eng.idle : Eng := { queues := [], run := none, underTest := false, served := [] }

/-- The states of a ticket (R113). -/
inductive TicketSt where
  | pending
  | done (status : BitVec 8)
  deriving DecidableEq, Repr

/-- A ticket: the context that holds it and what became of it. -/
structure Ticket where
  ctx : Nat
  core : Nat
  st : TicketSt
  deriving DecidableEq, Repr

/-- A check-path command that runs (R290–R299, R302). -/
structure CrnRun where
  cmd : EngCmd
  bytes : List Byte
  /-- SWEEP_OWED was set when it started: FULL (R286) -/
  full : Bool
  /-- a world command has committed since it started (R293) -/
  committed : Bool
  epochWait : Bool
  /-- the world was newer than the command's EPOCH when it started (R292) -/
  advanced : Bool
  edges : Nat
  /-- a STORE_FALLBACK whose delivery has begun: tick of the check's end, and which Quoins have acknowledged -/
  delivery : Option (Nat × Bool × Bool)
  deriving DecidableEq, Repr

/-- What a world-path command has prepared (R282). -/
inductive Prepared where
  | world (w : World) (changed : List Aabb) (load : Bool)
  | roadmap (r : Roadmap)
  deriving DecidableEq, Repr

structure CrnWorldRun where
  cmd : EngCmd
  bytes : List Byte
  prep : Prepared
  committed : Bool
  deriving DecidableEq, Repr

structure Cairn where
  queues : FMap (List EngCmd)
  check : Option CrnRun
  worldRun : Option CrnWorldRun
  world : Option World
  roadmap : Option Roadmap
  epoch : Nat
  sweepOwed : Bool
  /-- edges in the batch the checkers work on -/
  batch : List Nat
  /-- a probe waits for a slice boundary at which the check path is idle (R305) -/
  probe : Bool
  /-- the direct queue (R305) -/
  pq : List Entry
  pqLost : Bool
  pqOverflow : Bool
  pqPopEmpty : Bool
  deriving DecidableEq, Repr

def Cairn.reset : Cairn :=
  { queues := [], check := none, worldRun := none, world := none, roadmap := none, epoch := 0, sweepOwed := false,
    batch := [], probe := false, pq := [], pqLost := false, pqOverflow := false, pqPopEmpty := false }

end Sys2Proof.Machine
end

