-- ==== Sys2Proof/Machine/IngestState.lean ====
section
/-! DEFINITION. The state of sensor ingest and of the Plumb time unit (R366–R400). Configuration registers, banked ones
included, stand in the register map; this is what the units hold beside them. -/
namespace Sys2Proof.Machine

/-- A packet a Hod queue is receiving (R369, R378–R381). -/
structure OpenPkt where
  /-- SOURCE byte (R379) -/
  source : Nat
  bytes : List Byte
  lines : Nat
  /-- it fails a check of R369 -/
  damaged : Bool
  /-- capture time, in units of 2^−32 ns -/
  stamp : Nat
  info : Nat
  /-- tick of the last data -/
  last : Nat
  deriving DecidableEq, Repr

/-- One Hod queue (R377–R384). -/
structure HodQ where
  enabled : Bool
  fenced : Bool
  /-- write offset W -/
  w : Nat
  /-- SEQ of the next packet -/
  seq : Nat
  released : Nat
  /-- committed packets not released: SEQ, OFFSET, rounded LENGTH -/
  held : List (Nat × Nat × Nat)
  lostBefore : Bool
  /-- packets open now, one per source -/
  opened : List OpenPkt
  deriving DecidableEq, Repr

def HodQ.reset : HodQ :=
  { enabled := false, fenced := false, w := 0, seq := 0, released := 0xFFFFFFFF, held := [], lostBefore := false, opened := [] }

/-- One A-PHY port (R368–R372). -/
structure Aphy where
  link : Bool
  gear : Nat
  /-- the I2C transaction in progress: tick it began, the bytes it sends -/
  i2c : Option (Nat × List Byte)
  deriving DecidableEq, Repr

def Aphy.reset : Aphy := { link := false, gear := 0, i2c := none }

/-- One Ethernet port (R373–R376). -/
structure EthPort where
  link : Bool
  rate : Nat
  /-- a host frame waits or is being sent -/
  hostTx : Bool
  deriving DecidableEq, Repr

def EthPort.reset : EthPort := { link := false, rate := 0, hostTx := false }

/-- The sync states of R388. -/
inductive SyncSt where
  | freeRun | acquiring | locked | holdover
  deriving DecidableEq, Repr

def SyncSt.code : SyncSt → Nat
  | .freeRun => 0 | .acquiring => 1 | .locked => 2 | .holdover => 3

/-- A trigger's running state (R392, R393). -/
structure Trig where
  next : Option Nat
  fired : Nat
  late : Bool
  /-- pulse in progress -/
  pulse : Bool
  /-- elapsed time at which it was armed -/
  armed : Nat
  deriving DecidableEq, Repr

def Trig.reset : Trig := { next := none, fired := 0, late := false, pulse := false, armed := 0 }

/-- The Plumb time unit. Times are units of 2^−32 ns where a name says `fx`. -/
structure Plumb where
  ns : BitVec 64
  frac : BitVec 32
  /-- increment in force, fx -/
  incr : Nat
  /-- a slew in progress, and what remains of it, fx, signed -/
  slew : Option Int
  /-- what the ticks have added up to, fx: the time since reset without its steps -/
  run : Nat
  latchHi : BitVec 32
  latchFrac : BitVec 32
  sync : SyncSt
  syncSince : Nat
  /-- consecutive intervals within the threshold -/
  good : Nat
  offset : Int
  /-- increments of the last 64 intervals, newest first -/
  history : List Nat
  everLocked : Bool
  trigs : FMap Trig
  /-- stamps in each capture FIFO, oldest first: ns -/
  caps : FMap (List Nat)
  capHi : FMap Nat
  capOver : FMap Bool
  deriving DecidableEq, Repr

/-- 2.500 ns in units of 2^−32 ns. -/
def nominalIncr : Nat := 0x280000000

def Plumb.reset : Plumb :=
  { ns := 0, frac := 0, incr := nominalIncr, slew := none, run := 0, latchHi := 0, latchFrac := 0, sync := .freeRun, syncSince := 0, good := 0,
    offset := 0, history := [], everLocked := false, trigs := [], caps := [], capHi := [], capOver := [] }

end Sys2Proof.Machine
end

