-- ==== Sys2Proof/Machine/MemState.lean ====
section
/-! DEFINITION. The state of the memory system (R310–R342), of semaphores (R109, R329) and of the Arch links
(R343–R365). Lines are 64 bytes, numbered by device-physical address / 64. -/
namespace Sys2Proof.Machine

/-- The states of a data layer (R318). -/
inductive LayerSt where
  | inService | migrating | spared | fenced
  deriving DecidableEq, Repr

def LayerSt.code : LayerSt → Nat
  | .inService => 0 | .migrating => 1 | .spared => 2 | .fenced => 3

/-- The states of the spare (R318). -/
inductive SpareSt where
  | free | migrating | inUse | failed
  deriving DecidableEq, Repr

def SpareSt.code : SpareSt → Nat
  | .free => 0 | .migrating => 1 | .inUse => 2 | .failed => 3

/-- One memory stack and its controller. -/
structure Stack where
  layers : List LayerSt
  spare : SpareSt
  spareLayer : Nat
  /-- 4 KiB units copied -/
  mig : Nat
  migStart : Nat
  /-- refresh debt of bank b of layer l at key 32·l + b; the spare is layer 8 -/
  debt : FMap Int
  /-- ticks of the corrected errors of the last second, by layer -/
  ceTicks : FMap (List Nat)
  /-- address of a command whose parity failed and whose retry is due -/
  retry : Option Nat
  trained : Bool
  selfRefresh : Bool
  lost : Nat
  /-- layers powered down in standby -/
  down : Nat
  deriving DecidableEq, Repr

def Stack.reset : Stack :=
  { layers := List.replicate 8 .inService, spare := .free, spareLayer := 0, mig := 0, migStart := 0, debt := [],
    ceTicks := [], retry := none, trained := false, selfRefresh := false, lost := 0, down := 0 }

/-- The states of a MIRROR region (R325). -/
inductive MirrorSt where
  | mirrored
  /-- the copy is the source -/
  | resync (fromCopy : Bool)
  | primaryOnly | copyOnly
  deriving DecidableEq, Repr

def MirrorSt.code : MirrorSt → Nat
  | .mirrored => 1 | .resync _ => 2 | .primaryOnly => 3 | .copyOnly => 4

/-- A MIRROR region: partition and region, primary range, copy base. -/
structure Mirror where
  base : Nat
  bytes : Nat
  copy : Nat
  st : MirrorSt
  /-- tick at which the resync began -/
  since : Nat
  deriving DecidableEq, Repr

/-- A semaphore (R109, R110, R329): holder core and context, waiters oldest first. -/
structure Sem where
  holder : Option (Nat × Nat)
  poisoned : Bool
  waiters : List Nat
  deriving DecidableEq, Repr

def Sem.free : Sem := { holder := none, poisoned := false, waiters := [] }

/-- The speculation tag of a line (R199): none, tagged by an open epoch, or tagged by a squashed one and not yet
written back from its shadow. -/
inductive LineTag where
  | none
  | opened (epoch : Nat)
  | squashed (epoch : Nat)
  deriving DecidableEq, Repr

/-- The states of an Arch port (R363). -/
inductive PortSt where
  | notConnected | training | active | retraining | fenced | securityFailed
  deriving DecidableEq, Repr

def PortSt.code : PortSt → Nat
  | .notConnected => 0 | .training => 1 | .active => 2 | .retraining => 3 | .fenced => 4 | .securityFailed => 5

/-- One Arch port: both directions' protocol state (R344–R356). -/
structure Port where
  st : PortSt
  /-- transmit side: next SEQ, unacknowledged DATA flits oldest first -/
  txNext : Nat
  unacked : List (Nat × List Byte)
  /-- receive side: next SEQ, and discarding until it arrives (R347) -/
  rxNext : Nat
  discarding : Bool
  /-- SEQ last refused and how often in a row -/
  failSeq : Nat
  failRun : Nat
  retryTicks : List Nat
  retrainTicks : List Nat
  /-- tick and cause of the retrain that runs -/
  retrain : Option (Nat × Nat)
  lane : Option Nat
  underTest : Bool
  /-- borrowed credits by partition -/
  borrowed : FMap Nat
  /-- pools in force -/
  pools : List Nat
  peer : Option (Nat × Nat × Nat)
  deriving DecidableEq, Repr

def Port.reset : Port :=
  { st := .notConnected, txNext := 0, unacked := [], rxNext := 0, discarding := false, failSeq := 0,
    failRun := 0, retryTicks := [], retrainTicks := [], retrain := none, lane := none, underTest := false,
    borrowed := [], pools := List.replicate 16 0x70, peer := none }

/-- The Bandwidth Regulator's values in force (R334–R337). Key 8·class + stack. -/
structure Bw where
  /-- guarantee set, budget and guarantee in force -/
  gSet : FMap Nat
  gForce : FMap Nat
  budget : FMap Nat
  rt : FMap Nat
  critical : FMap Bool
  /-- stack capacity last used -/
  capacity : FMap Nat
  /-- class of each context, once READY (R331) -/
  label : FMap Nat
  deriving DecidableEq, Repr

def Bw.reset : Bw := { gSet := [], gForce := [], budget := [], rt := [], critical := [], capacity := [], label := [] }

end Sys2Proof.Machine
end

