-- ==== Sys2Proof/Machine/PavaneState.lean ====
section
/-! DEFINITION. The state of couples and of Pavane (R431–R453). A testable unit is a core by global core ID, or engine e of
die n as 0x8000_0000 + 4n + e; a slice's place is cluster 8n + c, or 0x100 + 4n + e. Couples are numbered by their lead's
global core ID / 2. -/
namespace Sys2Proof.Machine

/-- A slice in progress. -/
structure PavSlice where
  seg : Nat
  startNs : Nat
  startTick : Nat
  /-- highest bands reached -/
  tband : Nat
  aband : Nat
  /-- die's throttle state when it started -/
  throttle : Nat
  /-- it runs outside a test figure: start-up, R449 or a fenced unit's requested test -/
  atOnce : Bool
  deriving DecidableEq, Repr

/-- A core's band history (R445–R447). -/
structure CoreBands where
  /-- bit 4T + A -/
  cells : Nat
  fails : Nat
  outright : Bool
  deriving DecidableEq, Repr

def CoreBands.clear : CoreBands := { cells := 0, fails := 0, outright := false }

structure Couple where
  armed : Bool
  pairFenced : Bool
  cmpDisabled : Bool
  lanes : Nat
  /-- values of JFE_FRAME_COUNT with a difference, newest first -/
  frames : List Nat
  deriving DecidableEq, Repr

def Couple.reset : Couple := { armed := false, pairFenced := false, cmpDisabled := false, lanes := 0, frames := [] }

/-- A requested test under way (R450): its request, the places still to pass and what failed. -/
structure PavReq where
  seq : W32
  notify : Bool
  die : Nat
  kind : Nat
  unit : Nat
  readmit : Bool
  /-- frames since it was accepted with no slice started -/
  frames : Nat
  /-- segments still to pass: place and segment -/
  left : List (Nat × Nat)
  started : Bool
  failed : Bool
  bandReached : Bool
  /-- every segment passed: waiting for the frame boundary -/
  passed : Bool
  order : Nat
  deriving DecidableEq, Repr

structure Pavane where
  /-- start time of the last passing slice of segment s of unit u, key 8·u + s -/
  passes : FMap (Option Nat)
  /-- is the unit withdrawn (an unlisted unit is), and the frame in which each change was last told -/
  withdrawn : FMap Bool
  toldFrame : FMap (Option Nat)
  running : FMap (Option PavSlice)
  bands : FMap CoreBands
  couples : FMap Couple
  engFailed : FMap Bool
  /-- full passes scheduled, oldest first: order, place, segments to go -/
  scheduled : List (Nat × Nat × List Nat)
  requests : List PavReq
  /-- (temperature band, activity band) of each die -/
  cell : FMap (Nat × Nat)
  /-- an IMPORT succeeded; NONE was written or an IMPORT failed -/
  loaded : Bool
  noLog : Bool
  result : Nat
  entries : Nat
  /-- R449: segments still to pass under a forced throttle state, key 64·place + 8·state + segment -/
  multi : FMap Bool
  startup : Bool
  /-- injections waiting: couple and lane (R452) -/
  inject : FMap (Option Nat)
  deriving DecidableEq, Repr

def Pavane.reset : Pavane :=
  { passes := [], withdrawn := [], toldFrame := [], running := [], bands := [], couples := [], engFailed := [], scheduled := [],
    requests := [], cell := [], loaded := false, noLog := false, result := 0, entries := 0, multi := [],
    startup := false, inject := [] }

end Sys2Proof.Machine
end

