-- ==== Sys2Proof/Machine/PowerState.lean ====
section
/-! DEFINITION. The state of the power manager (R454–R483). Die index 4 is the Keystone. Temperatures are in 1/16 K,
powers in 1/10 W, flows in 1/100 L/min, signed. -/
namespace Sys2Proof.Machine

/-- One thermal sensor. -/
structure Sensor where
  last : Option Int
  lastTick : Nat
  /-- accepted samples in a row while lost -/
  run : Nat
  lost : Bool
  deriving DecidableEq, Repr

def Sensor.reset : Sensor := { last := none, lastTick := 0, run := 0, lost := false }

structure SensorPair where
  /-- ticks since which the two have differed by more, and agreed within, 5 K -/
  apart : Option Nat
  agree : Option Nat
  flagged : Bool
  reading : Option Int
  deriving DecidableEq, Repr

def SensorPair.reset : SensorPair := { apart := none, agree := none, flagged := false, reading := none }

structure SentIn where
  value : Int
  valid : Bool
  lost : Bool
  lastTick : Nat
  deriving DecidableEq, Repr

/-- Inputs start without a reading: the value 0, not valid. -/
def SentIn.reset : SentIn := { value := 0, valid := false, lost := false, lastTick := 0 }

structure DiePower where
  /-- throttle state in force -/
  state : Nat
  /-- a faster state waiting for its voltage -/
  raising : Option Nat
  /-- states asked by temperature -/
  temp : Nat
  /-- highest of the pairs in the last samples, newest first: 10 make 1 ms -/
  recent : List Int
  junction : Int
  known : Bool
  /-- junctions of the last 100 samples, newest first: 10 ms; and tick of the last temperature step -/
  past : List Int
  stepTick : Nat
  coolSince : Option Nat
  shut : Bool
  /-- tick of the last THROTTLE_CHANGE, and whether a later change is still to be told -/
  owed : Bool
  toldTick : Option Nat
  /-- power over 1 ms -/
  power : Nat
  deriving DecidableEq, Repr

/-- PWR_DIE_STATE resets to T4 on every die. -/
def DiePower.reset : DiePower :=
  { state := 4, raising := none, temp := 0, recent := [], junction := 0, known := false, past := [], stepTick := 0, coolSince := none,
    shut := false, owed := false, toldTick := none, power := 0 }

structure Power where
  dies : FMap DiePower
  domains : FMap Bool
  /-- domains waiting to ramp or ramping, in order -/
  ramping : List Nat
  sensors : FMap Sensor
  pairs : FMap SensorPair
  sent : FMap SentIn
  /-- valid flow readings of the last 200 ms: tick and value -/
  flows : List (Nat × Int)
  flowStop : Bool
  /-- tick since which a flow stop's clearing condition holds -/
  flowGood : Option Nat
  flowLow : Bool
  implausSince : Option Nat
  implausible : Bool
  worstCase : Bool
  sentSince : Option Nat
  pairsSince : Option Nat
  standby : Bool
  standbyTick : Nat
  /-- power state common to the Course dies -/
  pstate : Nat
  pTick : Nat
  lowSince : Option Nat
  /-- P_lim in 1/700 W: what one step of a ramp of 1 K/s adds -/
  pLim : Nat
  /-- package power in 1/10 W -/
  package : Nat
  /-- consecutive failures and last current of rail r of bus b, key 8·b + r -/
  railFails : FMap Nat
  railCur : FMap Nat
  /-- ACLK cycles × 240 run by each die, for the cycle counters -/
  aclk : FMap Nat
  /-- dies whose clocks a scan dump has stopped -/
  scanned : FMap Bool
  deriving DecidableEq, Repr

def Power.reset : Power :=
  { dies := [], domains := [], ramping := [], sensors := [], pairs := [], sent := [], flows := [], flowStop := false, flowGood := none,
    flowLow := false, implausSince := none, implausible := false, worstCase := true, sentSince := none, pairsSince := none,
    standby := false, standbyTick := 0, pstate := 0, pTick := 0, lowSince := none, pLim := 0, package := 0, railFails := [],
    railCur := [], aclk := [], scanned := [] }

end Sys2Proof.Machine
end

