-- ==== Sys2Proof/Machine/QuoinState.lean ====
section
/-! DEFINITION. The state of the two Quoins (R401–R430): output streams, records under check, fallback slots, CAN queues,
fences, heartbeats and the safe state. A unit is numbered die code + 256·KIND + 4096·UNIT, as RESOURCE_FENCED names it
(R430). -/
namespace Sys2Proof.Machine

/-- An entry of the output-stream table (R406). -/
structure StreamCfg where
  enable : Bool
  safety : Bool
  sync : Bool
  tx : Bool
  /-- Ethernet port 4 or 5 -/
  port : Nat
  part : Nat
  slot : Nat
  ageLimit : Nat
  relLimit : Nat
  record : Nat
  size : Nat
  fbMaxAge : Nat
  vlan : Nat
  dest : Nat
  deriving DecidableEq, Repr

/-- A stream table: its entries and its digest. -/
structure StreamTable where
  entries : List StreamCfg
  digest : List Byte
  deriving DecidableEq, Repr

/-- A closed record whose verdicts are not both in (R409, R411). -/
structure RecordCheck where
  ctx : Nat
  /-- the closing context's placement, partition, and whether it issued a Cairn command, had a couple difference, and wrote
  under an open epoch -/
  clusters : Nat
  engines : Nat
  part : Nat
  cairn : Bool
  mismatch : Bool
  spec : Bool
  /-- a header field is wrong -/
  malformed : Bool
  /-- what the closing write carried: VALID, or the REASON of an INVALID record -/
  valid : Bool
  reason : Nat
  seq : Nat
  oldest : Nat
  /-- verdict of each Quoin: 0 pass, else the reason it gives -/
  verdictA : Option Nat
  verdictB : Option Nat
  since : Nat
  deriving DecidableEq, Repr

/-- What the Quoins hold of one output stream. -/
structure StreamSt where
  fallback : Bool
  /-- reason and RECORD_SEQ that the fallback carries (R415) -/
  reason : Nat
  failedSeq : Nat
  /-- context whose record is open (R408) -/
  opened : Option Nat
  check : Option RecordCheck
  /-- the open record is already INVALID with SAFE_STATE (R423) -/
  dead : Bool
  lastReason : Nat
  lastAge : Nat
  lastSeq : Nat
  /-- tick of the last VALID release -/
  lastValid : Option Nat
  deriving DecidableEq, Repr

def StreamSt.reset : StreamSt :=
  { fallback := false, reason := 0, failedSeq := 0xFFFFFFFF, opened := none,
    check := none, dead := false, lastReason := 0, lastAge := 0, lastSeq := 0, lastValid := none }

/-- A fallback record in a slot (R302, R413). -/
structure Slot where
  points : List Point
  tStart : Nat
  dt : Nat
  epoch : Nat
  deriving DecidableEq, Repr

/-- A CAN FD frame waiting at a controller: identifier offset, stream, whether another message may follow it, 64 data bytes. -/
structure CanMsg where
  off : Nat
  stream : Nat
  last : Bool
  bytes : List Byte
  deriving DecidableEq, Repr

inductive QuoinSt where
  | boot | safe | run | failed
  deriving DecidableEq, Repr

def QuoinSt.code : QuoinSt → Nat
  | .boot => 0 | .safe => 1 | .run => 2 | .failed => 3

/-- One Quoin. -/
structure Quoin where
  powered : Bool
  st : QuoinSt
  stopped : Bool
  reason : Nat
  /-- every reason decided since the last exit, oldest first; one adopted from the partner stands 0x100 higher -/
  reasons : List Nat
  partnerOk : Bool
  /-- tick of the partner's last verdict frame -/
  partnerTick : Nat
  /-- the result of the last mailbox command -/
  result : Nat
  /-- table loaded here and waiting for the partner or the frame boundary -/
  pending : Option StreamTable
  exitAsked : Bool
  /-- bit c: controller c is bus-off -/
  busOff : Nat
  canLost : Nat
  canA : List CanMsg
  canB : List CanMsg
  /-- message counter per identifier offset -/
  counters : FMap Nat
  statusTick : Nat
  slots : FMap (Option Slot)
  /-- slots treated as empty since their digests differ (R421) -/
  slotBad : FMap Bool
  /-- COUNTER expected of each die, once a frame has come -/
  hbNext : FMap (Option Nat)
  hbMiss : FMap Nat
  /-- consecutive frames with ALIVE bit b of die n at 0, key 32·n + b -/
  aliveMiss : FMap Nat
  /-- units this Quoin has declared fenced -/
  fences : FMap Bool
  /-- re-admission passes recorded -/
  passes : FMap Bool
  oper : W32
  lossDev : W32
  lossSys : W32
  commanded : W32
  safeCount : Nat
  safeTick : Nat
  /-- a rail sequence that broke R542: held until the rails fall -/
  railsBad : Bool
  /-- tick at which its firmware came up -/
  bootTick : Nat
  deriving DecidableEq, Repr

/-- A Quoin as QNx_STATUS resets: SAFE with reason STARTUP once its rails are valid; before that it is unpowered. -/
def Quoin.off : Quoin :=
  { powered := false, st := .boot, stopped := false, reason := 0x01, reasons := [0x01], partnerOk := false, partnerTick := 0,
    result := 0, pending := none, exitAsked := false, busOff := 0, canLost := 0, canA := [], canB := [],
    counters := [], statusTick := 0, slots := [], slotBad := [], hbNext := [], hbMiss := [], aliveMiss := [], fences := [],
    passes := [], oper := 0, lossDev := 0, lossSys := 0, commanded := 0, safeCount := 0, safeTick := 0, railsBad := false, bootTick := 0 }

/-- Both Quoins and what they hold together. -/
structure Quoins where
  a : Quoin
  b : Quoin
  table : Option StreamTable
  streams : FMap StreamSt
  /-- the fence on SAFE_EXIT after a FULL debug unlock (R514) -/
  exitBarred : Bool
  /-- the last THERMAL or BW_CRITICAL cause has not cleared -/
  thermal : Bool
  critical : Bool
  /-- what the present loss of availability is charged to (R427): 0 available, 1 device, 2 system, 3 commanded -/
  loss : Nat
  /-- tick of the last SAFE_EXIT -/
  exitTick : Option Nat
  deriving DecidableEq, Repr

def Quoins.reset : Quoins :=
  { a := Quoin.off, b := Quoin.off, table := none, streams := [], exitBarred := false, thermal := false, critical := false, loss := 3, exitTick := none }

end Sys2Proof.Machine
end

