-- ==== Sys2Proof/Machine/RegTable.lean ====
section
/-! DEFINITION. The register map: for every block the registers its chapter lists, with offset, access type,
reset value and the bits a write can change (R6, R10, R39–R41 and the register rules of each chapter), and a name
for the BAR0 offset of each register. -/
namespace Sys2Proof.Machine

/-- The access types of R6. -/
inductive Access where
  | rw | ro | w1c | wo | rwl | exp
  deriving DecidableEq, Repr

/-- A register of a block, or `n` of them `step` apart: first offset in the block, access, reset value, and the
bits that are not reserved to a write. -/
structure RegDef where
  off : Nat
  step : Nat
  n : Nat
  acc : Access
  reset : BitVec 32
  mask : BitVec 32
  deriving DecidableEq, Repr

/-- Registers of the ash block (R81). -/
def ashRegs : List RegDef :=
  [⟨0x10, 0x4, 1, .ro, 0x0, 0x0⟩,
   ⟨0x14, 0x4, 1, .ro, 0x0, 0x0⟩,
   ⟨0x18, 0x4, 1, .ro, 0x0, 0x0⟩,
   ⟨0x20, 0x4, 4, .ro, 0x0, 0x0⟩,
   ⟨0x30, 0x4, 1, .w1c, 0x0, 0xF⟩,
   ⟨0x34, 0x4, 1, .ro, 0x0, 0x0⟩,
   ⟨0x38, 0x4, 1, .ro, 0x0, 0x0⟩,
   ⟨0x800, 0x4, 1, .exp, 0x4, 0xF⟩,
   ⟨0x804, 0x4, 1, .exp, 0x3E8, 0xFFFF⟩,
   ⟨0x1010, 0x4, 128, .ro, 0x60000000, 0x0⟩]

/-- Registers of the jfe block (R159, R187, R210). -/
def jfeRegs : List RegDef :=
  [⟨0x100, 0x4, 1, .rwl, 0x0, 0x1⟩,
   ⟨0x104, 0x4, 1, .rw, 0x64, 0x3FF⟩,
   ⟨0x108, 0x4, 1, .rw, 0x0, 0xFFFF0000⟩,
   ⟨0x10C, 0x4, 1, .rw, 0x0, 0xFFFF⟩,
   ⟨0x110, 0x4, 1, .rw, 0x0, 0xFFF⟩,
   ⟨0x114, 0x4, 1, .ro, 0x0, 0x0⟩,
   ⟨0x118, 0x4, 1, .ro, 0x0, 0x0⟩,
   ⟨0x11C, 0x4, 1, .ro, 0x0, 0x0⟩,
   ⟨0x120, 0x4, 1, .ro, 0x0, 0x0⟩,
   ⟨0x124, 0x4, 1, .ro, 0x0, 0x0⟩,
   ⟨0x128, 0x4, 1, .ro, 0x0, 0x0⟩,
   ⟨0x12C, 0x4, 1, .ro, 0x0, 0x0⟩,
   ⟨0x130, 0x4, 1, .ro, 0x0, 0x0⟩,
   ⟨0x134, 0x4, 1, .ro, 0x0, 0x0⟩,
   ⟨0x138, 0x4, 1, .ro, 0x0, 0x0⟩,
   ⟨0x900, 0x4, 1, .exp, 0x5, 0x1F⟩,
   ⟨0x10, 0x4, 1, .rw, 0x2, 0x7F⟩,
   ⟨0x18, 0x4, 1, .ro, 0xFFFFFFFF, 0x0⟩,
   ⟨0x1C, 0x4, 1, .ro, 0xFFFFFFFF, 0x0⟩,
   ⟨0x20, 0x4, 1, .ro, 0x0, 0x0⟩,
   ⟨0x24, 0x4, 1, .ro, 0x0, 0x0⟩,
   ⟨0x28, 0x4, 1, .rw, 0x0, 0xFF⟩,
   ⟨0x2C, 0x4, 1, .ro, 0x0, 0x0⟩,
   ⟨0x800, 0x4, 1, .exp, 0x20, 0x3F⟩] ++
  [⟨0x140, 0x4, 1, .rwl, 0x0, 0x1⟩,
   ⟨0x144, 0x4, 1, .rw, 0x0, 0xFFFF8000⟩,
   ⟨0x148, 0x4, 1, .rw, 0x0, 0xFFFF⟩,
   ⟨0x14C, 0x4, 1, .rw, 0x0, 0xFF800000⟩,
   ⟨0x150, 0x4, 1, .rw, 0x0, 0xFFFF⟩,
   ⟨0x154, 0x4, 1, .ro, 0x8, 0x0⟩,
   ⟨0x158, 0x4, 1, .rw, 0x0, 0xFF⟩,
   ⟨0x15C, 0x4, 1, .ro, 0x0, 0x0⟩,
   ⟨0x160, 0x4, 1, .ro, 0x0, 0x0⟩]

/-- Registers of the host block (R188). -/
def hostRegs : List RegDef :=
  [⟨0x10, 0x4, 1, .rwl, 0x0, 0x1⟩,
   ⟨0x14, 0x4, 1, .rw, 0x0, 0xC0000000⟩,
   ⟨0x18, 0x4, 1, .rw, 0x0, 0xFFFF⟩,
   ⟨0x20, 0x4, 1, .rw, 0x0, 0xFFFFF000⟩,
   ⟨0x24, 0x4, 1, .rw, 0x0, 0xFFFFFFFF⟩,
   ⟨0x28, 0x4, 1, .rw, 0x0, 0xC00001F1⟩,
   ⟨0x2C, 0x4, 1, .rw, 0x0, 0xFFFFFFFF⟩,
   ⟨0x30, 0x4, 1, .rw, 0x0, 0xFFFFF000⟩,
   ⟨0x34, 0x4, 1, .rw, 0x0, 0xFFFFFFFF⟩,
   ⟨0x38, 0x4, 1, .rw, 0x0, 0x800001F1⟩,
   ⟨0x3C, 0x4, 1, .rw, 0x0, 0xFFFFFFFF⟩,
   ⟨0x40, 0x4, 1, .rw, 0x0, 0xFFFFF000⟩,
   ⟨0x44, 0x4, 1, .rw, 0x0, 0xFFFFFFFF⟩,
   ⟨0x48, 0x4, 1, .rw, 0x0, 0x800001F1⟩,
   ⟨0x4C, 0x4, 1, .rw, 0x0, 0xFFFFFFFF⟩,
   ⟨0x50, 0x4, 1, .rw, 0x0, 0xFFFFFFC1⟩,
   ⟨0x54, 0x4, 1, .rw, 0x0, 0xFFFFFFFF⟩,
   ⟨0x58, 0x4, 4, .rw, 0x0, 0xF0F0F0F⟩,
   ⟨0x68, 0x4, 1, .ro, 0x0, 0x0⟩,
   ⟨0x6C, 0x4, 1, .ro, 0x0, 0x0⟩,
   ⟨0x100, 0x4, 17, .rw, 0x140010, 0x3FF01FF⟩]

/-- Registers of the win block (R245). -/
def winRegs : List RegDef :=
  [⟨0x10, 0x4, 1, .ro, 0x0, 0x0⟩,
   ⟨0x14, 0x4, 4, .ro, 0x0, 0x0⟩,
   ⟨0x24, 0x4, 1, .ro, 0x0, 0x0⟩,
   ⟨0x28, 0x4, 1, .ro, 0x0, 0x0⟩,
   ⟨0x2C, 0x4, 1, .ro, 0x0, 0x0⟩,
   ⟨0x30, 0x4, 1, .w1c, 0x0, 0x3⟩,
   ⟨0x34, 0x4, 1, .ro, 0x0, 0x0⟩,
   ⟨0x38, 0x4, 1, .ro, 0x0, 0x0⟩,
   ⟨0x800, 0x4, 1, .exp, 0x1000, 0x1FFF⟩]

/-- Registers of the trc block (R267). -/
def trcRegs : List RegDef :=
  [⟨0x40, 0x4, 1, .rw, 0x0, 0xFFFC0000⟩,
   ⟨0x44, 0x4, 1, .rw, 0x0, 0xFFFF⟩,
   ⟨0x48, 0x4, 1, .wo, 0x0, 0xFFFFFFFF⟩,
   ⟨0x4C, 0x4, 1, .ro, 0x0, 0x0⟩,
   ⟨0x50, 0x4, 1, .rw, 0x0, 0xFFF⟩,
   ⟨0x54, 0x4, 1, .ro, 0x0, 0x0⟩,
   ⟨0x58, 0x4, 1, .ro, 0x0, 0x0⟩]

/-- Registers of the crn block (R306). -/
def crnRegs : List RegDef :=
  [⟨0x10, 0x4, 1, .ro, 0x0, 0x0⟩,
   ⟨0x14, 0x4, 1, .ro, 0x0, 0x0⟩,
   ⟨0x18, 0x4, 1, .rwl, 0x0, 0xFFFF⟩,
   ⟨0x1C, 0x4, 1, .rwl, 0x0, 0xFFFF⟩,
   ⟨0x20, 0x4, 1, .ro, 0x0, 0x0⟩,
   ⟨0x24, 0x4, 1, .ro, 0x0, 0x0⟩,
   ⟨0x28, 0x4, 1, .ro, 0x0, 0x0⟩,
   ⟨0x2C, 0x4, 1, .ro, 0x0, 0x0⟩,
   ⟨0x30, 0x4, 1, .ro, 0x0, 0x0⟩,
   ⟨0x34, 0x4, 1, .ro, 0x0, 0x0⟩,
   ⟨0x38, 0x4, 4, .ro, 0x0, 0x0⟩,
   ⟨0x48, 0x4, 1, .ro, 0x0, 0x0⟩,
   ⟨0x4C, 0x4, 1, .ro, 0x0, 0x0⟩,
   ⟨0x50, 0x4, 1, .ro, 0x0, 0x0⟩,
   ⟨0x54, 0x4, 1, .w1c, 0x0, 0x3⟩,
   ⟨0x58, 0x4, 1, .ro, 0x0, 0x0⟩,
   ⟨0x5C, 0x4, 1, .ro, 0x0, 0x0⟩,
   ⟨0x60, 0x4, 1, .rw, 0x0, 0x3FFFF⟩,
   ⟨0x64, 0x4, 1, .ro, 0x0, 0x0⟩,
   ⟨0x800, 0x4, 1, .exp, 0x0, 0x1⟩,
   ⟨0x804, 0x4, 1, .exp, 0x0, 0xFFFFFFFF⟩,
   ⟨0x808, 0x4, 1, .exp, 0x0, 0xFFFFFFFF⟩,
   ⟨0x80C, 0x4, 1, .exp, 0x0, 0xFFFFFFFF⟩,
   ⟨0x810, 0x4, 1, .exp, 0x0, 0x1⟩] ++
  [⟨0x814, 0x4, 1, .ro, 0x0, 0x0⟩,
   ⟨0x818, 0x4, 1, .ro, 0x0, 0x0⟩,
   ⟨0x820, 0x4, 1, .exp, 0x0, 0xFFFFFFFF⟩,
   ⟨0x824, 0x4, 1, .exp, 0x0, 0xFFFFFFFF⟩,
   ⟨0x828, 0x4, 1, .exp, 0x0, 0x3⟩,
   ⟨0x82C, 0x4, 1, .ro, 0x80000000, 0x0⟩,
   ⟨0x830, 0x4, 1, .exp, 0x0, 0x3FFFF⟩]

/-- Registers of the smc block (R338). -/
def smcRegs : List RegDef :=
  [⟨0x10, 0x4, 1, .ro, 0x0, 0x0⟩,
   ⟨0x14, 0x4, 1, .ro, 0x0, 0x0⟩,
   ⟨0x18, 0x4, 1, .ro, 0x0, 0x0⟩,
   ⟨0x1C, 0x4, 1, .ro, 0x0, 0x0⟩,
   ⟨0x20, 0x4, 1, .w1c, 0x0, 0xF⟩,
   ⟨0x24, 0x4, 1, .ro, 0x0, 0x0⟩,
   ⟨0x28, 0x4, 1, .ro, 0x0, 0x0⟩,
   ⟨0x2C, 0x4, 1, .ro, 0x0, 0x0⟩,
   ⟨0x30, 0x4, 1, .ro, 0x0, 0x0⟩,
   ⟨0x34, 0x4, 1, .rw, 0xFF, 0xFF⟩,
   ⟨0x38, 0x4, 1, .ro, 0x0, 0x0⟩,
   ⟨0x40, 0x4, 8, .ro, 0x0, 0x0⟩,
   ⟨0x800, 0x4, 1, .exp, 0x8, 0xF⟩,
   ⟨0x804, 0x4, 1, .exp, 0x1E0, 0x3FFF⟩,
   ⟨0x808, 0x4, 1, .exp, 0x18, 0xFF⟩,
   ⟨0x80C, 0x4, 1, .exp, 0x10, 0xFFFF⟩]

/-- Registers of the mrt block (R339). -/
def mrtRegs : List RegDef :=
  [⟨0x10, 0x4, 1, .rwl, 0x0, 0x1⟩,
   ⟨0x14, 0x4, 1, .ro, 0x0, 0x0⟩,
   ⟨0x18, 0x4, 1, .w1c, 0x0, 0x7⟩,
   ⟨0x1C, 0x4, 1, .ro, 0x0, 0x0⟩,
   ⟨0x20, 0x4, 1, .rw, 0x0, 0x3FF⟩,
   ⟨0x24, 0x4, 1, .ro, 0x0, 0x0⟩,
   ⟨0x28, 0x4, 1, .ro, 0x0, 0x0⟩,
   ⟨0x2C, 0x4, 1, .rw, 0x0, 0xFFFFF000⟩,
   ⟨0x30, 0x4, 1, .rw, 0x0, 0xFFFF⟩,
   ⟨0x34, 0x4, 1, .rw, 0x0, 0xFFFFFF⟩,
   ⟨0x38, 0x4, 1, .ro, 0x0, 0x0⟩,
   ⟨0x3C, 0x4, 1, .rw, 0x0, 0xFF⟩,
   ⟨0x40, 0x4, 1, .ro, 0x0, 0x0⟩]

/-- Registers of the bwr block (R340). -/
def bwrRegs : List RegDef :=
  [⟨0x10, 0x4, 1, .rw, 0x0, 0xFFFFF000⟩,
   ⟨0x14, 0x4, 1, .rw, 0x0, 0xFFFF⟩,
   ⟨0x18, 0x4, 1, .rwl, 0x0, 0xFFF⟩,
   ⟨0x1C, 0x4, 1, .ro, 0x0, 0x0⟩,
   ⟨0x20, 0x4, 8, .rw, 0x0, 0x3FFF⟩,
   ⟨0x40, 0x4, 8, .ro, 0x0, 0x0⟩,
   ⟨0x100, 0x4, 128, .rw, 0x0, 0x80003FFF⟩,
   ⟨0x300, 0x4, 128, .ro, 0x0, 0x0⟩,
   ⟨0x500, 0x4, 16, .ro, 0x0, 0x0⟩,
   ⟨0x800, 0x4, 1, .exp, 0x40, 0x7F⟩]

/-- Registers of the arc block (R362). -/
def arcRegs : List RegDef :=
  [⟨0x10, 0x4, 1, .ro, 0x0, 0x0⟩,
   ⟨0x14, 0x4, 1, .ro, 0x0, 0x0⟩,
   ⟨0x18, 0x4, 1, .ro, 0x0, 0x0⟩,
   ⟨0x1C, 0x4, 1, .ro, 0x0, 0x0⟩,
   ⟨0x20, 0x4, 1, .ro, 0x0, 0x0⟩,
   ⟨0x24, 0x4, 1, .ro, 0x0, 0x0⟩,
   ⟨0x40, 0x4, 16, .rwl, 0x700070, 0x7FF⟩,
   ⟨0x80, 0x4, 16, .ro, 0x0, 0x0⟩,
   ⟨0x800, 0x4, 1, .exp, 0x3E80004, 0x3FF000F⟩,
   ⟨0x804, 0x4, 1, .exp, 0xC8, 0x3FF⟩]

/-- Registers of the key block (R364, R505, R529). -/
def keyRegs : List RegDef :=
  [⟨0x40, 0x4, 1, .ro, 0x0, 0x0⟩,
   ⟨0x44, 0x4, 1, .ro, 0x0, 0x0⟩,
   ⟨0x48, 0x4, 1, .ro, 0x0, 0x0⟩,
   ⟨0x10, 0x4, 1, .ro, 0x0, 0x0⟩,
   ⟨0x14, 0x4, 1, .ro, 0x0, 0x0⟩,
   ⟨0x18, 0x4, 1, .ro, 0x0, 0x0⟩,
   ⟨0x800, 0x4, 1, .exp, 0x0, 0xFFFFFFF⟩,
   ⟨0x804, 0x4, 1, .exp, 0x0, 0x3⟩,
   ⟨0x808, 0x4, 1, .ro, 0x0, 0x0⟩,
   ⟨0x80C, 0x4, 1, .ro, 0x0, 0x0⟩]

/-- Registers of the plb block (R395). -/
def plbRegs : List RegDef :=
  [⟨0x10, 0x4, 1, .ro, 0x0, 0x0⟩,
   ⟨0x14, 0x4, 1, .ro, 0x0, 0x0⟩,
   ⟨0x18, 0x4, 1, .ro, 0x0, 0x0⟩,
   ⟨0x1C, 0x4, 1, .rw, 0x2, 0xFF⟩,
   ⟨0x20, 0x4, 1, .rw, 0x80000000, 0xFFFFFFFF⟩,
   ⟨0x24, 0x4, 1, .rw, 0x0, 0xFFFFFFFF⟩,
   ⟨0x28, 0x4, 1, .rw, 0x0, 0xFFFFFFFF⟩,
   ⟨0x2C, 0x4, 1, .wo, 0x0, 0x3⟩,
   ⟨0x30, 0x4, 1, .rwl, 0x0, 0x1F⟩,
   ⟨0x34, 0x4, 1, .ro, 0x0, 0x0⟩,
   ⟨0x38, 0x4, 1, .ro, 0x0, 0x0⟩,
   ⟨0x3C, 0x4, 1, .rw, 0xA, 0xFFF⟩,
   ⟨0x40, 0x4, 1, .rw, 0x64, 0x3FFF⟩,
   ⟨0x44, 0x4, 1, .rw, 0x186A0, 0xFFFFFFFF⟩,
   ⟨0x100, 0x20, 16, .rw, 0x0, 0xFFFFFFFF⟩,
   ⟨0x104, 0x20, 16, .rw, 0x0, 0xFFFFFFFF⟩,
   ⟨0x108, 0x20, 16, .rw, 0x0, 0xFFFFFFFF⟩,
   ⟨0x10C, 0x20, 16, .rw, 0x0, 0xFFFFFFFF⟩,
   ⟨0x110, 0x20, 16, .rw, 0x0, 0xF000FFFF⟩,
   ⟨0x114, 0x20, 16, .ro, 0x0, 0x0⟩,
   ⟨0x118, 0x20, 16, .ro, 0x0, 0x0⟩,
   ⟨0x11C, 0x20, 16, .ro, 0x0, 0x0⟩,
   ⟨0x300, 0x10, 8, .rw, 0x0, 0xF000001F⟩,
   ⟨0x304, 0x10, 8, .ro, 0x0, 0x0⟩] ++
  [⟨0x308, 0x10, 8, .ro, 0x0, 0x0⟩,
   ⟨0x30C, 0x10, 8, .w1c, 0x0, 0x100⟩,
   ⟨0x800, 0x4, 1, .exp, 0xC04, 0xFFFF⟩,
   ⟨0x804, 0x4, 1, .exp, 0x1F4, 0x3FF⟩]

/-- Registers of the hod block (R397). -/
def hodRegs : List RegDef :=
  [⟨0x10, 0x4, 1, .ro, 0x0, 0x0⟩,
   ⟨0x14, 0x4, 1, .rw, 0x0, 0x1F⟩,
   ⟨0x18, 0x4, 1, .ro, 0x0, 0x0⟩,
   ⟨0x1C, 0x4, 1, .ro, 0x0, 0x0⟩,
   ⟨0x20, 0x4, 1, .rw, 0x0, 0xC1F0001F⟩,
   ⟨0x24, 0x4, 1, .rw, 0x0, 0xFFFFF000⟩,
   ⟨0x28, 0x4, 1, .rw, 0x0, 0xFFFF⟩,
   ⟨0x2C, 0x4, 1, .rw, 0x0, 0x1FFFFF⟩,
   ⟨0x30, 0x4, 1, .rw, 0x0, 0xFFFFF000⟩,
   ⟨0x34, 0x4, 1, .rw, 0x0, 0xFFFF⟩,
   ⟨0x38, 0x4, 1, .rw, 0x0, 0xFFFFFFFC⟩,
   ⟨0x3C, 0x4, 1, .rw, 0x0, 0xFFFF⟩,
   ⟨0x40, 0x4, 1, .rw, 0x0, 0xFFFFFFFC⟩,
   ⟨0x44, 0x4, 1, .rw, 0x0, 0xFFFF⟩,
   ⟨0x48, 0x4, 1, .rw, 0x2400, 0x7FFFFFF⟩,
   ⟨0x4C, 0x4, 1, .rw, 0x1, 0x1FFFF⟩,
   ⟨0x50, 0x4, 1, .rw, 0x1F4, 0xFFFF⟩,
   ⟨0x54, 0x4, 1, .ro, 0x0, 0x0⟩,
   ⟨0x58, 0x4, 1, .ro, 0xFFFFFFFF, 0x0⟩,
   ⟨0x5C, 0x4, 1, .ro, 0x0, 0x0⟩,
   ⟨0x60, 0x4, 1, .ro, 0x0, 0x0⟩,
   ⟨0x800, 0x4, 1, .exp, 0x1, 0x7F⟩]

/-- Registers of the eth block (R398). -/
def ethRegs : List RegDef :=
  [⟨0x10, 0x4, 1, .rw, 0x0, 0x7⟩,
   ⟨0x14, 0x4, 1, .rw, 0x0, 0x80000007⟩,
   ⟨0x18, 0x4, 1, .ro, 0x0, 0x0⟩,
   ⟨0x1C, 0x4, 1, .rw, 0x0, 0xFFFFFFFF⟩,
   ⟨0x20, 0x4, 1, .rw, 0x0, 0xFFFF⟩,
   ⟨0x24, 0x4, 1, .rw, 0x0, 0xFFFFFFFF⟩,
   ⟨0x28, 0x4, 1, .rw, 0x0, 0xF87FFFFF⟩,
   ⟨0x2C, 0x4, 1, .ro, 0x0, 0x0⟩,
   ⟨0x30, 0x4, 1, .ro, 0x0, 0x0⟩,
   ⟨0x34, 0x4, 1, .ro, 0x0, 0x0⟩,
   ⟨0x38, 0x4, 1, .rw, 0x0, 0x7⟩,
   ⟨0x3C, 0x4, 1, .rw, 0x0, 0xFFFF8FFF⟩,
   ⟨0x40, 0x4, 1, .rw, 0x0, 0xFFFF⟩,
   ⟨0x44, 0x4, 1, .rw, 0x0, 0x801F3FFF⟩,
   ⟨0x48, 0x4, 1, .rw, 0x0, 0xFFFFFFFF⟩,
   ⟨0x4C, 0x4, 1, .rw, 0x0, 0xFFFFFFC0⟩,
   ⟨0x50, 0x4, 1, .rw, 0x0, 0xFFFF⟩,
   ⟨0x54, 0x4, 1, .rw, 0x0, 0x80003FFF⟩,
   ⟨0x58, 0x4, 1, .ro, 0x0, 0x0⟩]

/-- Registers of the aphy block (R399). -/
def aphyRegs : List RegDef :=
  [⟨0x10, 0x4, 1, .rw, 0x0, 0xF⟩,
   ⟨0x14, 0x4, 1, .rw, 0x5, 0x80000007⟩,
   ⟨0x18, 0x4, 1, .ro, 0x0, 0x0⟩,
   ⟨0x1C, 0x4, 1, .ro, 0x0, 0x0⟩,
   ⟨0x20, 0x4, 1, .ro, 0x0, 0x0⟩,
   ⟨0x24, 0x4, 1, .ro, 0x0, 0x0⟩,
   ⟨0x28, 0x4, 1, .rw, 0x0, 0xFFFF⟩,
   ⟨0x2C, 0x4, 1, .rw, 0x0, 0xF⟩,
   ⟨0x30, 0x4, 1, .rw, 0x0, 0x3⟩,
   ⟨0x34, 0x4, 1, .rw, 0x0, 0xC01F0F3F⟩,
   ⟨0x38, 0x4, 1, .rw, 0x0, 0xFFFFFFFF⟩,
   ⟨0x3C, 0x4, 1, .rw, 0x0, 0xFFFFFFFF⟩,
   ⟨0x40, 0x4, 1, .rw, 0x0, 0x807F7F7F⟩,
   ⟨0x44, 0x4, 1, .ro, 0x0, 0x0⟩,
   ⟨0x100, 0x4, 16, .rw, 0x0, 0xFFFFFFFF⟩]

/-- Registers of the qn block (R428). -/
def qnRegs : List RegDef :=
  [⟨0x10, 0x4, 1, .ro, 0x40000001, 0x0⟩,
   ⟨0x14, 0x4, 1, .ro, 0x0, 0x0⟩,
   ⟨0x18, 0x4, 1, .rwl, 0x0, 0xFFFFFFC0⟩,
   ⟨0x1C, 0x4, 1, .rwl, 0x0, 0xFFFF⟩,
   ⟨0x20, 0x4, 1, .wo, 0x0, 0xFFFFFFFF⟩,
   ⟨0x24, 0x4, 1, .ro, 0x0, 0x0⟩,
   ⟨0x28, 0x4, 1, .rw, 0x0, 0x3F⟩,
   ⟨0x2C, 0x4, 1, .ro, 0x0, 0x0⟩,
   ⟨0x30, 0x4, 1, .ro, 0x0, 0x0⟩,
   ⟨0x34, 0x4, 1, .rwl, 0xA000100, 0xFF00FF00⟩,
   ⟨0x38, 0x4, 1, .ro, 0x0, 0x0⟩,
   ⟨0x3C, 0x4, 1, .ro, 0x0, 0x0⟩,
   ⟨0x40, 0x4, 1, .ro, 0x0, 0x0⟩,
   ⟨0x44, 0x4, 1, .ro, 0x0, 0x0⟩,
   ⟨0x48, 0x4, 1, .ro, 0x0, 0x0⟩,
   ⟨0x4C, 0x4, 1, .ro, 0x0, 0x0⟩,
   ⟨0x50, 0x4, 1, .ro, 0x0, 0x0⟩,
   ⟨0x54, 0x4, 1, .rwl, 0x10, 0x7FF⟩,
   ⟨0x800, 0x4, 1, .exp, 0x3, 0x3⟩]

/-- Registers of the pav block (R451). -/
def pavRegs : List RegDef :=
  [⟨0x10, 0x4, 1, .rwl, 0x4, 0xF⟩,
   ⟨0x14, 0x4, 1, .rwl, 0x32, 0x3FF⟩,
   ⟨0x18, 0x4, 1, .ro, 0x0, 0x0⟩,
   ⟨0x1C, 0x4, 1, .ro, 0x0, 0x0⟩,
   ⟨0x20, 0x4, 1, .rw, 0x0, 0x3FF⟩,
   ⟨0x24, 0x4, 1, .ro, 0x80000000, 0x0⟩,
   ⟨0x28, 0x4, 1, .ro, 0x0, 0x0⟩,
   ⟨0x2C, 0x4, 1, .rw, 0x0, 0x1FF⟩,
   ⟨0x30, 0x4, 1, .ro, 0x0, 0x0⟩,
   ⟨0x34, 0x4, 1, .ro, 0xF, 0x0⟩,
   ⟨0x38, 0x4, 4, .ro, 0xFFFF, 0x0⟩,
   ⟨0x48, 0x4, 1, .ro, 0x400, 0x0⟩,
   ⟨0x4C, 0x4, 1, .ro, 0x0, 0x0⟩,
   ⟨0x50, 0x4, 1, .ro, 0x0, 0x0⟩,
   ⟨0x54, 0x4, 1, .ro, 0x0, 0x0⟩,
   ⟨0x58, 0x4, 1, .ro, 0x0, 0x0⟩,
   ⟨0x60, 0x4, 1, .rw, 0x0, 0xFFFFFFC0⟩,
   ⟨0x64, 0x4, 1, .rw, 0x0, 0xFFFF⟩,
   ⟨0x68, 0x4, 1, .rw, 0x0, 0x1FFFF⟩,
   ⟨0x6C, 0x4, 1, .wo, 0x0, 0x3⟩,
   ⟨0x70, 0x4, 1, .ro, 0x0, 0x0⟩,
   ⟨0x800, 0x4, 1, .exp, 0x0, 0x80001FFF⟩]

/-- Registers of the pwr block (R481). -/
def pwrRegs : List RegDef :=
  [⟨0x10, 0x4, 1, .ro, 0x40000000, 0x0⟩,
   ⟨0x14, 0x4, 1, .ro, 0x0, 0x0⟩,
   ⟨0x18, 0x4, 1, .ro, 0x44444, 0x0⟩,
   ⟨0x1C, 0x4, 1, .ro, 0x0, 0x0⟩,
   ⟨0x20, 0x4, 1, .rw, 0x0, 0x77777⟩,
   ⟨0x24, 0x4, 1, .ro, 0x0, 0x0⟩,
   ⟨0x28, 0x4, 1, .ro, 0x0, 0x0⟩,
   ⟨0x2C, 0x4, 1, .rwl, 0x1, 0x1⟩,
   ⟨0x30, 0x4, 1, .wo, 0x0, 0x3⟩,
   ⟨0x34, 0x4, 1, .rw, 0x0, 0xFFFF⟩,
   ⟨0x40, 0x4, 5, .ro, 0x0, 0x0⟩,
   ⟨0x60, 0x4, 5, .ro, 0x0, 0x0⟩,
   ⟨0x80, 0x4, 1, .rw, 0x0, 0x177⟩,
   ⟨0x84, 0x4, 1, .ro, 0x0, 0x0⟩,
   ⟨0x90, 0x4, 1, .ro, 0x0, 0x0⟩,
   ⟨0x94, 0x4, 1, .ro, 0x0, 0x0⟩,
   ⟨0x98, 0x4, 1, .ro, 0x0, 0x0⟩,
   ⟨0x9C, 0x4, 1, .rwl, 0x258, 0xFFFF⟩,
   ⟨0xA0, 0x4, 3, .rwl, 0x3, 0x8000000F⟩,
   ⟨0xB0, 0x4, 3, .rwl, 0x0, 0xFFFFFFFF⟩,
   ⟨0xC0, 0x4, 3, .rwl, 0x0, 0xFFFFFFFF⟩,
   ⟨0xD0, 0x4, 1, .ro, 0x0, 0x0⟩,
   ⟨0x800, 0x4, 1, .exp, 0x3, 0xF⟩,
   ⟨0x804, 0x4, 1, .exp, 0x0, 0x3FF⟩]

/-- Registers of the ngd block (R506). -/
def ngdRegs : List RegDef :=
  [⟨0x10, 0x4, 1, .ro, 0x0, 0x0⟩,
   ⟨0x14, 0x4, 1, .wo, 0x0, 0xF0000000⟩,
   ⟨0x18, 0x4, 1, .ro, 0x0, 0x0⟩,
   ⟨0x1C, 0x4, 1, .rw, 0x0, 0xFFFFFFC0⟩,
   ⟨0x20, 0x4, 1, .rw, 0x0, 0xFFFF⟩,
   ⟨0x24, 0x4, 1, .rw, 0x0, 0xFFFFFFFF⟩,
   ⟨0x28, 0x4, 1, .rw, 0x0, 0x7⟩,
   ⟨0x2C, 0x4, 1, .w1c, 0x0, 0x3F⟩,
   ⟨0x30, 0x4, 1, .ro, 0x0, 0x0⟩,
   ⟨0x34, 0x4, 1, .ro, 0x0, 0x0⟩,
   ⟨0x38, 0x4, 1, .ro, 0x0, 0x0⟩,
   ⟨0x3C, 0x4, 1, .ro, 0x0, 0x0⟩,
   ⟨0x40, 0x4, 1, .ro, 0x0, 0x0⟩,
   ⟨0x44, 0x4, 1, .ro, 0x0, 0x0⟩,
   ⟨0x48, 0x4, 1, .ro, 0x0, 0x0⟩,
   ⟨0x100, 0x4, 8, .ro, 0x0, 0x0⟩]

/-- Registers of the gau block (R527). -/
def gauRegs : List RegDef :=
  [⟨0x10, 0x4, 1, .rw, 0x2, 0x3⟩,
   ⟨0x14, 0x4, 1, .rw, 0x0, 0xFFFFFFFF⟩,
   ⟨0x18, 0x4, 1, .rw, 0x0, 0xFFFFFFFF⟩,
   ⟨0x1C, 0x4, 1, .rw, 0x0, 0xFFFFFFFF⟩,
   ⟨0x20, 0x4, 4, .rw, 0x0, 0xFFFFFFFF⟩,
   ⟨0x30, 0x4, 1, .wo, 0x0, 0x1⟩,
   ⟨0x34, 0x4, 1, .rw, 0x0, 0x3FF⟩,
   ⟨0x38, 0x4, 1, .rw, 0x0, 0xFFFFF000⟩,
   ⟨0x3C, 0x4, 1, .rw, 0x0, 0xFFFFFFFF⟩,
   ⟨0x40, 0x4, 1, .rw, 0x0, 0xC00FFF0F⟩,
   ⟨0x44, 0x4, 1, .rw, 0xFFFFFFFF, 0xFFFFFFFF⟩,
   ⟨0x48, 0x4, 1, .ro, 0xFFFFFFFF, 0x0⟩,
   ⟨0x4C, 0x4, 1, .ro, 0x0, 0x0⟩,
   ⟨0x50, 0x4, 1, .ro, 0x0, 0x0⟩,
   ⟨0x54, 0x4, 1, .rw, 0x0, 0xF0FFF⟩,
   ⟨0x58, 0x4, 1, .ro, 0x0, 0x0⟩,
   ⟨0x5C, 0x4, 1, .ro, 0x0, 0x0⟩]

/-! ### Offsets -/

/-- Slot base of Course die n (R39). -/
def dieSlot (n : Nat) : Nat := 0x1000000 + n * 0x400000

/-- Power, owner and counts (R81). -/
def ASH_CL_STATUS (n c : Nat) : Nat := dieSlot n + 0x100000 + 0x40000 * c + 0x10
/-- Bit k = 1: couple k (0–31) joined (R81). -/
def ASH_COUPLE_JOINED_LO (n c : Nat) : Nat := dieSlot n + 0x100000 + 0x40000 * c + 0x14
/-- Bit k = 1: couple 32 + k joined (R81). -/
def ASH_COUPLE_JOINED_HI (n c : Nat) : Nat := dieSlot n + 0x100000 + 0x40000 * c + 0x18
/-- Register j, bit i = 1: core 32j + i fenced (R81). -/
def ASH_CORE_FENCED (n c j : Nat) : Nat := dieSlot n + 0x100000 + 0x40000 * c + 0x20 + 0x4 * j
/-- Storage error flags (R81). -/
def ASH_ERR_STATUS (n c : Nat) : Nat := dieSlot n + 0x100000 + 0x40000 * c + 0x30
/-- Core of the last uncorrected error (R81). -/
def ASH_ERR_CORE (n c : Nat) : Nat := dieSlot n + 0x100000 + 0x40000 * c + 0x34
/-- Corrected local-store errors since reset, saturating at 0xFFFF_FFFF (R81). -/
def ASH_LS_CE_COUNT (n c : Nat) : Nat := dieSlot n + 0x100000 + 0x40000 * c + 0x38
/-- Local-store bank arbitration (R47) (R81). -/
def ASH_LS_DMA_WAIT (n c : Nat) : Nat := dieSlot n + 0x100000 + 0x40000 * c + 0x800
/-- Local-store patrol scrub period (R81). -/
def ASH_LS_SCRUB (n c : Nat) : Nat := dieSlot n + 0x100000 + 0x40000 * c + 0x804
/-- State of core c of the cluster, c = 0–127 (R81). -/
def ASH_CORE_STATE (n c j : Nat) : Nat := dieSlot n + 0x100000 + 0x40000 * c + 0x1010 + 0x4 * j
/-- Freezing of partitions and schedule (R159). -/
def JFE_CFG : Nat := 0x10100
/-- Yield limit for pre-emption (R154) (R159). -/
def JFE_PREEMPT_LIMIT : Nat := 0x10104
/-- Context table base [31:16] in bits [31:16]; bits [15:0] reserved (R159). -/
def JFE_CTX_TABLE_LO : Nat := 0x10108
/-- Context table base [47:32] in bits [15:0]; bits [31:16] reserved (R159). -/
def JFE_CTX_TABLE_HI : Nat := 0x1010C
/-- [11:0] context shown in JFE_CTX_STATUS; [31:12] reserved (R159). -/
def JFE_CTX_SEL : Nat := 0x10110
/-- Word 0 of the selected context's entry (R159). -/
def JFE_CTX_STATUS : Nat := 0x10114
/-- Quadrille state (R159). -/
def JFE_QDR_STATUS : Nat := 0x10118
/-- Major frames since the running Quadrille took effect, wrapping at 2^32 (R159). -/
def JFE_FRAME_COUNT : Nat := 0x1011C
/-- Origin of the current frame in Plumb ns, [31:0] (R159). -/
def JFE_FRAME_ORIGIN_LO : Nat := 0x10120
/-- Origin of the current frame in Plumb ns, [63:32] (R159). -/
def JFE_FRAME_ORIGIN_HI : Nat := 0x10124
/-- Bit i = 1: figure i (0–31) open (R159). -/
def JFE_FIGURE_OPEN_LO : Nat := 0x10128
/-- Bit i = 1: figure 32 + i open (R159). -/
def JFE_FIGURE_OPEN_HI : Nat := 0x1012C
/-- [15:0] bit p = 1: partition p bound; [31:16] reserved (R159). -/
def JFE_PART_BOUND : Nat := 0x10130
/-- Contexts suspended since reset, saturating at 0xFFFF_FFFF (R159). -/
def JFE_PREEMPT_COUNT : Nat := 0x10134
/-- PREEMPTED_DISCARDED teardowns since reset, saturating at 0xFFFF_FFFF (R159). -/
def JFE_DISCARD_COUNT : Nat := 0x10138
/-- Remote drain time (R151, R154) (R159). -/
def JFE_REMOTE_DRAIN : Nat := 0x10900
/-- Poll period (R187). -/
def JFE_POLL : Nat := 0x10010
/-- SEQ of the last accepted descriptor (R187). -/
def JFE_LAST_ACCEPTED_SEQ : Nat := 0x10018
/-- CSEQ of the last record written to the ring (R187). -/
def JFE_LAST_COMPLETED_CSEQ : Nat := 0x1001C
/-- Acceptance state (R187). -/
def JFE_ACCEPT_STATUS : Nat := 0x10020
/-- Last out-of-sequence SEQ seen (R187). -/
def JFE_SEQ_ERROR_VALUE : Nat := 0x10024
/-- [7:0] model slot shown in JFE_MODEL_STATUS; [31:8] reserved (R187). -/
def JFE_MODEL_SEL : Nat := 0x10028
/-- State of the selected model slot (R187). -/
def JFE_MODEL_STATUS : Nat := 0x1002C
/-- Descriptors accepted per poll at most (R187). -/
def JFE_ACCEPT_BATCH : Nat := 0x10800
/-- [0] EXPERT_EN; [31:1] reserved (R188). -/
def HOST_CFG : Nat := 0x20010
/-- [31:30] window base [31:30]; [29:0] reserved (R188). -/
def HOST_WIN_BASE_LO : Nat := 0x20014
/-- [15:0] window base [47:32]; [31:16] reserved (R188). -/
def HOST_WIN_BASE_HI : Nat := 0x20018
/-- [31:12] base [31:12]; [11:0] reserved (R188). -/
def HOST_SQ_BASE_LO : Nat := 0x20020
/-- Base [63:32] (R188). -/
def HOST_SQ_BASE_HI : Nat := 0x20024
/-- Submission ring control (R188). -/
def HOST_SQ_CFG : Nat := 0x20028
/-- START of the submission ring (R188). -/
def HOST_SQ_START : Nat := 0x2002C
/-- Completion ring, as the submission ring (R188). -/
def HOST_CQ_BASE_LO : Nat := 0x20030
/-- Completion ring, as the submission ring (R188). -/
def HOST_CQ_BASE_HI : Nat := 0x20034
/-- Completion ring, as the submission ring (R188). -/
def HOST_CQ_CFG : Nat := 0x20038
/-- Completion ring, as the submission ring (R188). -/
def HOST_CQ_START : Nat := 0x2003C
/-- Event ring, as the submission ring (R188). -/
def HOST_EQ_BASE_LO : Nat := 0x20040
/-- Event ring, as the submission ring (R188). -/
def HOST_EQ_BASE_HI : Nat := 0x20044
/-- Event ring, as the submission ring (R188). -/
def HOST_EQ_CFG : Nat := 0x20048
/-- Event ring, as the submission ring (R188). -/
def HOST_EQ_START : Nat := 0x2004C
/-- [31:6] control block base [31:6]; [5:1] reserved; [0] LOC (R188). -/
def HOST_RCB_BASE_LO : Nat := 0x20050
/-- Base [63:32] (R188). -/
def HOST_RCB_BASE_HI : Nat := 0x20054
/-- Register j, byte i: [3:0] vector for partition 4j + i; [7:4] reserved (R188). -/
def HOST_IRQ_MAP (j : Nat) : Nat := 0x20058 + 0x4 * j
/-- Link state (R188). -/
def HOST_LINK_STATUS : Nat := 0x20068
/-- SEQ of the oldest event record neither written to the event ring nor discarded (R548) (R188). -/
def HOST_EQ_NEXT : Nat := 0x2006C
/-- Coalescing for vector v, v = 0–16 (R188). -/
def HOST_COAL (j : Nat) : Nat := 0x20100 + 0x4 * j
/-- Speculation enable (R210). -/
def JFE_SPEC_CFG : Nat := 0x10140
/-- [31:15] table base [31:15]; [14:0] reserved (R210). -/
def JFE_EPOCH_TABLE_LO : Nat := 0x10144
/-- [15:0] table base [47:32]; [31:16] reserved (R210). -/
def JFE_EPOCH_TABLE_HI : Nat := 0x10148
/-- [31:23] shadow base [31:23]; [22:0] reserved (R210). -/
def JFE_SPEC_SHADOW_LO : Nat := 0x1014C
/-- [15:0] shadow base [47:32]; [31:16] reserved (R210). -/
def JFE_SPEC_SHADOW_HI : Nat := 0x10150
/-- Warm-up and open count (R210). -/
def JFE_SPEC_STATUS : Nat := 0x10154
/-- [7:0] epoch shown in JFE_EPOCH_STATE; [31:8] reserved (R210). -/
def JFE_EPOCH_SEL : Nat := 0x10158
/-- State of the selected epoch (R210). -/
def JFE_EPOCH_STATE : Nat := 0x1015C
/-- Epochs squashed since reset, saturating at 0xFFFF_FFFF (R210). -/
def JFE_SPEC_SQUASH_COUNT : Nat := 0x10160
/-- Engine state (R245). -/
def ENG_STATUS (n e : Nat) : Nat := dieSlot n + 0x40000 + 0x10000 * e + 0x10
/-- Register j, byte i: commands queued for partition 4j + i, 0–16 (R245). -/
def ENG_QUEUE_LEVEL (n e j : Nat) : Nat := dieSlot n + 0x40000 + 0x10000 * e + 0x14 + 0x4 * j
/-- Commands ended since reset, saturating at 0xFFFF_FFFF (R245). -/
def ENG_CMD_COUNT (n e : Nat) : Nat := dieSlot n + 0x40000 + 0x10000 * e + 0x24
/-- Commands ended with a status other than OK, saturating at 0xFFFF_FFFF (R245). -/
def ENG_ERR_COUNT (n e : Nat) : Nat := dieSlot n + 0x40000 + 0x10000 * e + 0x28
/-- Saturations (R231, R235), or for Sieve discarded candidates (R240), saturating at 0xFFFF_F (R245). -/
def ENG_SAT_COUNT (n e : Nat) : Nat := dieSlot n + 0x40000 + 0x10000 * e + 0x2C
/-- Buffer ECC flags (R217) (R245). -/
def ENG_ERR_STATUS (n e : Nat) : Nat := dieSlot n + 0x40000 + 0x10000 * e + 0x30
/-- Last rejected command (R215) (R245). -/
def ENG_LAST_REJECT (n e : Nat) : Nat := dieSlot n + 0x40000 + 0x10000 * e + 0x34
/-- Corrected buffer errors since reset, saturating at 0xFFFF_FFFF (R245). -/
def ENG_BUF_CE_COUNT (n e : Nat) : Nat := dieSlot n + 0x40000 + 0x10000 * e + 0x38
/-- Stop-point interval (R216) (R245). -/
def ENG_STOP_INTERVAL (n e : Nat) : Nat := dieSlot n + 0x40000 + 0x10000 * e + 0x800
/-- [31:18] sequence table base [31:18]; [17:0] reserved (R267). -/
def TRC_SEQ_TABLE_LO (n : Nat) : Nat := dieSlot n + 0x70040
/-- [15:0] base [47:32]; [31:16] reserved (R267). -/
def TRC_SEQ_TABLE_HI (n : Nat) : Nat := dieSlot n + 0x70044
/-- Load or release a sequence (R267). -/
def TRC_SEQ_CMD (n : Nat) : Nat := dieSlot n + 0x70048
/-- Outcome of the last TRC_SEQ_CMD (R267). -/
def TRC_SEQ_CMD_STATUS (n : Nat) : Nat := dieSlot n + 0x7004C
/-- [11:0] sequence shown in TRC_SEQ_STATE; [31:12] reserved (R267). -/
def TRC_SEQ_SEL (n : Nat) : Nat := dieSlot n + 0x70050
/-- State of the selected sequence (R267). -/
def TRC_SEQ_STATE (n : Nat) : Nat := dieSlot n + 0x70054
/-- [12:0] active sequences, 0–4,096; [31:13] reserved (R267). -/
def TRC_SEQ_ACTIVE (n : Nat) : Nat := dieSlot n + 0x70058
/-- Cairn state (R306). -/
def CRN_STATUS : Nat := 0x80010
/-- [15:0] current map epoch; [31:16] reserved (R306). -/
def CRN_EPOCH : Nat := 0x80014
/-- [15:0] bit p: partition p may issue world-path commands; [31:16] reserved (R306). -/
def CRN_WORLD_WRITERS : Nat := 0x80018
/-- [15:0] bit p: partition p may issue STORE_FALLBACK; [31:16] reserved (R306). -/
def CRN_FALLBACK_WRITERS : Nat := 0x8001C
/-- [12:0] boxes; [28:16] spheres; others reserved (R306). -/
def CRN_OBJ_COUNT : Nat := 0x80020
/-- [14:0] triangles; [31:15] reserved (R306). -/
def CRN_TRI_COUNT : Nat := 0x80024
/-- [21:0] nodes in use; [31:22] reserved (R306). -/
def CRN_VOXEL_NODES : Nat := 0x80028
/-- [16:0] roadmap nodes; [31:17] reserved (R306). -/
def CRN_RM_NODES : Nat := 0x8002C
/-- [18:0] roadmap edges; [31:19] reserved (R306). -/
def CRN_RM_EDGES : Nat := 0x80030
/-- [18:0] edges in state UNKNOWN; [31:19] reserved (R306). -/
def CRN_EDGE_UNKNOWN : Nat := 0x80034
/-- Register j, byte i: commands queued for partition 4j + i, 0–16 (R306). -/
def CRN_QUEUE_LEVEL (j : Nat) : Nat := 0x80038 + 0x4 * j
/-- PLANs ended since reset, saturating at 0xFFFF_FFFF (R306). -/
def CRN_PLAN_COUNT : Nat := 0x80048
/-- PLANs ended with NO_PATH, saturating at 0xFFFF_FFFF (R306). -/
def CRN_NOPATH_COUNT : Nat := 0x8004C
/-- PLANs ended with PLAN_TIMEOUT, saturating at 0xFFFF_FFFF (R306). -/
def CRN_TIMEOUT_COUNT : Nat := 0x80050
/-- World store ECC flags (R306). -/
def CRN_ERR_STATUS : Nat := 0x80054
/-- Corrected store errors since reset, saturating at 0xFFFF_FFFF (R306). -/
def CRN_STORE_CE_COUNT : Nat := 0x80058
/-- Last command refused by R273 (R306). -/
def CRN_LAST_REJECT : Nat := 0x8005C
/-- [17:0] edge shown in CRN_EDGE_STATE; [31:18] reserved (R306). -/
def CRN_EDGE_SEL : Nat := 0x80060
/-- State of the selected edge (R306). -/
def CRN_EDGE_STATE : Nat := 0x80064
/-- [0] ENABLE; [31:1] reserved (R306). -/
def CRN_DIRECT : Nat := 0x80800
/-- FP32 (R306). -/
def CRN_PROBE_X : Nat := 0x80804
/-- FP32 (R306). -/
def CRN_PROBE_Y : Nat := 0x80808
/-- FP32 (R306). -/
def CRN_PROBE_YAW : Nat := 0x8080C
/-- [0] write 1 to start a probe; reads 0; [31:1] reserved (R306). -/
def CRN_PROBE_CMD : Nat := 0x80810
/-- Probe outcome (R306). -/
def CRN_PROBE_RESULT : Nat := 0x80814
/-- HIT_ID of the probe (R306). -/
def CRN_PROBE_ID : Nat := 0x80818
/-- Queue KEY (R306). -/
def CRN_PQ_KEY : Nat := 0x80820
/-- Queue VALUE (R306). -/
def CRN_PQ_VALUE : Nat := 0x80824
/-- [1:0] 1 push, 2 pop, 3 clear, 0 ignored; reads 0; [31:2] reserved (R306). -/
def CRN_PQ_CMD : Nat := 0x80828
/-- Direct queue state (R306). -/
def CRN_PQ_STATUS : Nat := 0x8082C
/-- [17:0] edge made UNKNOWN on write; reads 0; [31:18] reserved (R306). -/
def CRN_EDGE_INVALIDATE : Nat := 0x80830
/-- Stack state (R338). -/
def SMC_STATUS (n i : Nat) : Nat := dieSlot n + 0x20000 + 0x10000 * i + 0x10
/-- State of each layer (R318) (R338). -/
def SMC_LAYER_STATE (n i : Nat) : Nat := dieSlot n + 0x20000 + 0x10000 * i + 0x14
/-- State of the spare (R338). -/
def SMC_SPARE (n i : Nat) : Nat := dieSlot n + 0x20000 + 0x10000 * i + 0x18
/-- [19:0] 4 KiB units copied, 0–524,288; [31:20] reserved (R338). -/
def SMC_MIG_PROGRESS (n i : Nat) : Nat := dieSlot n + 0x20000 + 0x10000 * i + 0x1C
/-- Error flags (R338). -/
def SMC_ERR_STATUS (n i : Nat) : Nat := dieSlot n + 0x20000 + 0x10000 * i + 0x20
/-- Stack address [31:0] of the last uncorrectable error (R338). -/
def SMC_UE_ADDR_LO (n i : Nat) : Nat := dieSlot n + 0x20000 + 0x10000 * i + 0x24
/-- [1:0] stack address [33:32]; [31] VALID; [30:2] reserved (R338). -/
def SMC_UE_ADDR_HI (n i : Nat) : Nat := dieSlot n + 0x20000 + 0x10000 * i + 0x28
/-- Lines poisoned since reset, saturating at 0xFFFF_FFFF (R338). -/
def SMC_POISON_COUNT (n i : Nat) : Nat := dieSlot n + 0x20000 + 0x10000 * i + 0x2C
/-- Forced refreshes since reset, saturating at 0xFFFF_FFFF (R338). -/
def SMC_FORCED_REFRESH (n i : Nat) : Nat := dieSlot n + 0x20000 + 0x10000 * i + 0x30
/-- [7:0] layers kept in standby; [31:8] reserved (R338). -/
def SMC_PASR_KEEP (n i : Nat) : Nat := dieSlot n + 0x20000 + 0x10000 * i + 0x34
/-- [7:0] layers lost at the last standby; [31:8] reserved (R338). -/
def SMC_PASR_LOST (n i : Nat) : Nat := dieSlot n + 0x20000 + 0x10000 * i + 0x38
/-- Corrected errors of layer L, L = 0–7, since reset, saturating at 0xFFFF_FFFF (R338). -/
def SMC_LAYER_CE (n i j : Nat) : Nat := dieSlot n + 0x20000 + 0x10000 * i + 0x40 + 0x4 * j
/-- [3:0] debt that forces refresh, 1–8; other writes ignored; [31:4] reserved (R338). -/
def SMC_REFRESH_POSTPONE (n i : Nat) : Nat := dieSlot n + 0x20000 + 0x10000 * i + 0x800
/-- [13:0] maintenance floor, 240–1,920 bursts per µs; other writes ignored; [31:14] reserved (R338). -/
def SMC_MIG_FLOOR (n i : Nat) : Nat := dieSlot n + 0x20000 + 0x10000 * i + 0x804
/-- [7:0] hours in which the patrol scrub reads every line at level 3, 1–255, or 0 for off; [3 (R338). -/
def SMC_SCRUB (n i : Nat) : Nat := dieSlot n + 0x20000 + 0x10000 * i + 0x808
/-- [15:0] corrected errors per layer per 1 s that raise MEM_CE_THRESHOLD; [31:16] reserved (R338). -/
def SMC_CE_THRESHOLD (n i : Nat) : Nat := dieSlot n + 0x20000 + 0x10000 * i + 0x80C
/-- [0] LINEAR: 1 linear mode, 0 interleaved (R36); [31:1] reserved (R339). -/
def MRT_DRAM_CFG (n : Nat) : Nat := dieSlot n + 0x10010
/-- [17:0] speculation-tagged lines, 0–131,072; [30:18] reserved; [31] FENCED (R339). -/
def MRT_STATUS (n : Nat) : Nat := dieSlot n + 0x10014
/-- [0] CE; [1] UE; [2] SEM_PE; [31:3] reserved (R339). -/
def MRT_ERR_STATUS (n : Nat) : Nat := dieSlot n + 0x10018
/-- Corrected Mortar errors since reset, saturating at 0xFFFF_FFFF (R339). -/
def MRT_CE_COUNT (n : Nat) : Nat := dieSlot n + 0x1001C
/-- [9:0] semaphore index shown in MRT_SEM_STATE; [31:10] reserved (R339). -/
def MRT_SEM_SEL (n : Nat) : Nat := dieSlot n + 0x10020
/-- [31] HELD; [30] POISONED; [29:16] waiters, saturating at 0x3FFF; [15:12] reserved; [11:0]  (R339). -/
def MRT_SEM_STATE (n : Nat) : Nat := dieSlot n + 0x10024
/-- [10:0] semaphores held, 0–1,024; [31:11] reserved (R339). -/
def MRT_SEM_HELD (n : Nat) : Nat := dieSlot n + 0x10028
/-- [31:12] reserve base [31:12]; [11:0] reserved (R339). -/
def MRT_MIRROR_BASE_LO (n : Nat) : Nat := dieSlot n + 0x1002C
/-- [15:0] reserve base [47:32]; [31:16] reserved (R339). -/
def MRT_MIRROR_BASE_HI (n : Nat) : Nat := dieSlot n + 0x10030
/-- [23:0] reserve size in 4 KiB pages; [31:24] reserved (R339). -/
def MRT_MIRROR_SIZE (n : Nat) : Nat := dieSlot n + 0x10034
/-- [23:0] pages allocated; [31:24] reserved (R339). -/
def MRT_MIRROR_USED (n : Nat) : Nat := dieSlot n + 0x10038
/-- [7:4] partition, [3:0] region shown in MRT_REGION_STATE; [31:8] reserved (R339). -/
def MRT_REGION_SEL (n : Nat) : Nat := dieSlot n + 0x1003C
/-- [2:0] 0 not a MIRROR region of this die or its partner, 1 MIRRORED, 2 RESYNC, 3 PRIMARY_ON (R339). -/
def MRT_REGION_STATE (n : Nat) : Nat := dieSlot n + 0x10040
/-- [31:12] label table base [31:12]; [11:0] reserved (R340). -/
def BWR_LABEL_TABLE_LO : Nat := 0xB0010
/-- [15:0] base [47:32]; [31:16] reserved (R340). -/
def BWR_LABEL_TABLE_HI : Nat := 0xB0014
/-- [3:0] HOST; [7:4] JFE; [11:8] NGD; [31:12] reserved (R340). -/
def BWR_PORT_CLASS : Nat := 0xB0018
/-- [31] CRITICAL on any stack; [15:8] stacks with any cut; [7:0] stacks with capacity below a (R340). -/
def BWR_STATUS : Nat := 0xB001C
/-- [13:0] staged real-time reserve, bursts per µs; [31:14] reserved (R340). -/
def BWR_RT_RESERVE (j : Nat) : Nat := 0xB0020 + 0x4 * j
/-- Capacity in force (R340). -/
def BWR_CAPACITY (j : Nat) : Nat := 0xB0040 + 0x4 * j
/-- Staged budget and guarantee (R340). -/
def BWR_BUDGET (j : Nat) : Nat := 0xB0100 + 0x4 * j
/-- Values in force (R340). -/
def BWR_GUARANTEE (j : Nat) : Nat := 0xB0300 + 0x4 * j
/-- Intervals in which class k went over budget on any stack, saturating at 0xFFFF_FFFF (R340). -/
def BWR_OVER_COUNT (j : Nat) : Nat := 0xB0500 + 0x4 * j
/-- [6:0] one level-3 burst in N, 8–127; other writes ignored; [31:7] reserved (R340). -/
def BWR_BG_SHARE : Nat := 0xB0800
/-- Port state (R362). -/
def ARC_STATUS (n i : Nat) : Nat := dieSlot n + 0x90000 + 0x10000 * i + 0x10
/-- Partner found at training (R362). -/
def ARC_PEER (n i : Nat) : Nat := dieSlot n + 0x90000 + 0x10000 * i + 0x14
/-- Retries since reset, saturating at 0xFFFF_FFFF (R362). -/
def ARC_RETRY_COUNT (n i : Nat) : Nat := dieSlot n + 0x90000 + 0x10000 * i + 0x18
/-- Flits failing CRC since reset, saturating at 0xFFFF_FFFF (R362). -/
def ARC_CRC_ERR_COUNT (n i : Nat) : Nat := dieSlot n + 0x90000 + 0x10000 * i + 0x1C
/-- Retrains since reset, saturating at 0xFFFF_FFFF (R362). -/
def ARC_RETRAIN_COUNT (n i : Nat) : Nat := dieSlot n + 0x90000 + 0x10000 * i + 0x20
/-- [10:0] credits borrowed on this port, all partitions; [31:11] reserved (R362). -/
def ARC_BORROWED (n i : Nat) : Nat := dieSlot n + 0x90000 + 0x10000 * i + 0x24
/-- Pool of partition p, p = 0–15 (R362). -/
def ARC_POOL (n i j : Nat) : Nat := dieSlot n + 0x90000 + 0x10000 * i + 0x40 + 0x4 * j
/-- DATA flits sent for partition p, in units of 65,536, saturating at 0xFFFF_FFFF. Reads 0 wh (R362). -/
def ARC_PART_FLITS (n i j : Nat) : Nat := dieSlot n + 0x90000 + 0x10000 * i + 0x80 + 0x4 * j
/-- Retrain triggers (R348) (R362). -/
def ARC_RETRY_LIMIT (n i : Nat) : Nat := dieSlot n + 0x90000 + 0x10000 * i + 0x800
/-- [9:0] ns, 100–1,000; other writes ignored; [31:10] reserved (R362). -/
def ARC_REPLAY_TIMEOUT (n i : Nat) : Nat := dieSlot n + 0x90000 + 0x10000 * i + 0x804
/-- [15:0] package feature level (R360); [31:16] reserved (R364). -/
def KEY_FEATURE_LEVEL : Nat := 0x40
/-- [0] CREDIT1: the second credit return of protocol version 2 (R344); [1] PART_COUNT: the pe (R364). -/
def KEY_FEATURE_DISABLED : Nat := 0x44
/-- Stepping code of C0 [7:0], C1 [15:8], C2 [23:16] and C3 [31:24]; 0x00 for an absent die (R364). -/
def KEY_DIE_STEPPING : Nat := 0x48
/-- Time ns [31:0]; read latches the next two (R395). -/
def PLB_TIME_LO : Nat := 0x30010
/-- Time ns [63:32] (R395). -/
def PLB_TIME_HI : Nat := 0x30014
/-- Fraction (R395). -/
def PLB_TIME_FRAC : Nat := 0x30018
/-- [7:0] ns of the increment; [31:8] reserved (R395). -/
def PLB_INCR_NS : Nat := 0x3001C
/-- Fraction of the increment (R395). -/
def PLB_INCR_FRAC : Nat := 0x30020
/-- Operand [31:0] (R395). -/
def PLB_ADJ_LO : Nat := 0x30024
/-- Operand [63:32] (R395). -/
def PLB_ADJ_HI : Nat := 0x30028
/-- [1:0] 1 SET, 2 ADD, 3 SLEW; 0 ignored; [31:2] reserved (R395). -/
def PLB_CMD : Nat := 0x3002C
/-- Source and step policy (R395). -/
def PLB_CFG : Nat := 0x30030
/-- Sync state (R395). -/
def PLB_SYNC : Nat := 0x30034
/-- Last measured offset, signed ns, saturating (R395). -/
def PLB_OFFSET : Nat := 0x30038
/-- [11:0] s, 1–3,600; other writes ignored; [31:12] reserved (R395). -/
def PLB_HOLDOVER : Nat := 0x3003C
/-- [13:0] ns, 10–10,000; other writes ignored; [31:14] reserved (R395). -/
def PLB_LOCK_THRESHOLD : Nat := 0x30040
/-- ns, 1,000–1,000,000,000; other writes ignored (R395). -/
def PLB_STEP_THRESHOLD : Nat := 0x30044
/-- START [31:0], t = 0–15 (R395). -/
def PLB_TRIG_START_LO (j : Nat) : Nat := 0x30100 + 0x20 * j
/-- START [63:32] (R395). -/
def PLB_TRIG_START_HI (j : Nat) : Nat := 0x30104 + 0x20 * j
/-- PERIOD, ns (R395). -/
def PLB_TRIG_PERIOD (j : Nat) : Nat := 0x30108 + 0x20 * j
/-- WIDTH, ns (R395). -/
def PLB_TRIG_WIDTH (j : Nat) : Nat := 0x3010C + 0x20 * j
/-- Control (R395). -/
def PLB_TRIG_CTL (j : Nat) : Nat := 0x30110 + 0x20 * j
/-- Next firing time [31:0] (R395). -/
def PLB_TRIG_NEXT_LO (j : Nat) : Nat := 0x30114 + 0x20 * j
/-- Next firing time [63:32] (R395). -/
def PLB_TRIG_NEXT_HI (j : Nat) : Nat := 0x30118 + 0x20 * j
/-- Firings since arming, saturating at 0xFFFF_FFFF (R395). -/
def PLB_TRIG_FIRED (j : Nat) : Nat := 0x3011C + 0x20 * j
/-- Capture control, c = 0–7 (R395). -/
def PLB_CAP_CFG (j : Nat) : Nat := 0x30300 + 0x10 * j
/-- Oldest stamp [31:0]; read removes it (R395). -/
def PLB_CAP_STAMP_LO (j : Nat) : Nat := 0x30304 + 0x10 * j
/-- Stamp [63:32] as latched (R395). -/
def PLB_CAP_STAMP_HI (j : Nat) : Nat := 0x30308 + 0x10 * j
/-- FIFO state (R395). -/
def PLB_CAP_STATUS (j : Nat) : Nat := 0x3030C + 0x10 * j
/-- [7:0] proportional gain shift, 1–16; [15:8] integral gain shift, 1–24; other writes ignore (R395). -/
def PLB_SERVO : Nat := 0x30800
/-- [9:0] ppm, 10–1,000; other writes ignored; [31:10] reserved (R395). -/
def PLB_SLEW_RATE : Nat := 0x30804
/-- [4:0] streams enabled, 0–24; [31:5] reserved (R397). -/
def HOD_STATUS : Nat := 0x40010
/-- [4:0] queue; [31:5] reserved (R397). -/
def HOD_Q_SEL : Nat := 0x40014
/-- Bit q: queue q not empty (R383) (R397). -/
def HOD_Q_NONEMPTY : Nat := 0x40018
/-- Bit q: queue q at level (R397). -/
def HOD_Q_AT_LEVEL : Nat := 0x4001C
/-- Queue control (R397). -/
def HOD_Q_CFG : Nat := 0x40020
/-- [31:12] data area base [31:12]; [11:0] reserved (R397). -/
def HOD_Q_DATA_LO : Nat := 0x40024
/-- [15:0] base [47:32]; [31:16] reserved (R397). -/
def HOD_Q_DATA_HI : Nat := 0x40028
/-- [20:0] 4 KiB pages, 16–1,048,576; [31:21] reserved (R397). -/
def HOD_Q_DATA_SIZE : Nat := 0x4002C
/-- [31:12] ring base [31:12]; [11:0] reserved (R397). -/
def HOD_Q_DESC_LO : Nat := 0x40030
/-- [15:0] base [47:32]; [31:16] reserved (R397). -/
def HOD_Q_DESC_HI : Nat := 0x40034
/-- [31:2] release word address [31:2]; [1:0] reserved (R397). -/
def HOD_Q_RELEASE_LO : Nat := 0x40038
/-- [15:0] address [47:32]; [31:16] reserved (R397). -/
def HOD_Q_RELEASE_HI : Nat := 0x4003C
/-- [31:2] notify word address [31:2]; [1:0] reserved (R397). -/
def HOD_Q_NOTIFY_LO : Nat := 0x40040
/-- [15:0] address [47:32]; [31:16] reserved (R397). -/
def HOD_Q_NOTIFY_HI : Nat := 0x40044
/-- [26:0] bytes, 64–67,108,864, a multiple of 64; [31:27] reserved (R397). -/
def HOD_Q_MAX_PACKET : Nat := 0x40048
/-- [16:0] packets, 1–65,536; other writes ignored; [31:17] reserved (R397). -/
def HOD_Q_LEVEL : Nat := 0x4004C
/-- [15:0] µs, 10–65,535; other writes ignored; [31:16] reserved (R397). -/
def HOD_Q_STALL : Nat := 0x40050
/-- [31] ENABLED; [30] FENCED (R384); [29:17] reserved; [16:0] committed packets not released (R397). -/
def HOD_Q_STATUS : Nat := 0x40054
/-- SEQ of the last committed packet (R397). -/
def HOD_Q_COMMIT_SEQ : Nat := 0x40058
/-- Packets dropped for space (R382), saturating at 0xFFFF_FFFF (R397). -/
def HOD_Q_DROPPED : Nat := 0x4005C
/-- Packets rewound (R381), saturating at 0xFFFF_FFFF (R397). -/
def HOD_Q_REWOUND : Nat := 0x40060
/-- [6:0] µs, 1–100; other writes ignored; [31:7] reserved (R397). -/
def HOD_RELEASE_POLL : Nat := 0x40800
/-- [2:0] port 0–5; [31:3] reserved (R398). -/
def ETH_PORT_SEL : Nat := 0x50010
/-- [31] ENABLE; [2:0] RATE: 0 10 Gb/s, 1 5 Gb/s, 2 2.5 Gb/s, 3 1 Gb/s, 4 100 Mb/s, as R373 al (R398). -/
def ETH_PORT_CFG : Nat := 0x50014
/-- [31] LINK; [2:0] RATE in use; [30:3] reserved (R398). -/
def ETH_PORT_STATUS : Nat := 0x50018
/-- MAC address [31:0] (R398). -/
def ETH_MAC_LO : Nat := 0x5001C
/-- [15:0] MAC address [47:32]; [31:16] reserved (R398). -/
def ETH_MAC_HI : Nat := 0x50020
/-- [15:0] receive and [31:16] transmit PHY delay, units of 0.1 ns (R398). -/
def ETH_PHY_DELAY : Nat := 0x50024
/-- PTP settings (R398). -/
def ETH_PTP_CFG : Nat := 0x50028
/-- Frames received, saturating at 0xFFFF_FFFF (R398). -/
def ETH_RX_FRAMES : Nat := 0x5002C
/-- Frames that matched nothing, saturating at 0xFFFF_FFFF (R398). -/
def ETH_RX_DROPPED : Nat := 0x50030
/-- Frames with a bad FCS or length, saturating at 0xFFFF_FFFF (R398). -/
def ETH_RX_FCS_ERR : Nat := 0x50034
/-- [2:0] filter 0–7; [31:3] reserved (R398). -/
def ETH_FILT_SEL : Nat := 0x50038
/-- [31:16] EtherType, 0 any; [15] VID_EN; [11:0] VLAN ID; [14:12] reserved (R398). -/
def ETH_FILT_MATCH : Nat := 0x5003C
/-- [15:0] UDP destination port, 0 any; [31:16] reserved (R398). -/
def ETH_FILT_UDP : Nat := 0x50040
/-- [31] ENABLE; [20:16] queue; [13:0] STRIP, 0–9,216; other bits reserved (R398). -/
def ETH_FILT_ACTION : Nat := 0x50044
/-- Capture offset, ns (R398). -/
def ETH_FILT_OFFSET : Nat := 0x50048
/-- [31:6] frame address [31:6] in device DRAM; [5:0] reserved (R398). -/
def ETH_HOST_TX_LO : Nat := 0x5004C
/-- [15:0] address [47:32]; [31:16] reserved (R398). -/
def ETH_HOST_TX_HI : Nat := 0x50050
/-- [31] GO: write 1 to send; reads 1 until the frame is sent or dropped; [13:0] LENGTH, 60–9, (R398). -/
def ETH_HOST_TX_CTL : Nat := 0x50054
/-- [31] DONE; [30] DROPPED; [29:0] reserved (R398). -/
def ETH_HOST_TX_STATUS : Nat := 0x50058
/-- [3:0] port; [31:4] reserved (R399). -/
def APHY_PORT_SEL : Nat := 0x60010
/-- [31] ENABLE; [2:0] MAX_GEAR, 1–5; [30:3] reserved (R399). -/
def APHY_PORT_CFG : Nat := 0x60014
/-- [31] LINK; [2:0] gear in use; [30:3] reserved (R399). -/
def APHY_PORT_STATUS : Nat := 0x60018
/-- Corrected headers, saturating at 0xFFFF_FFFF (R399). -/
def APHY_HDR_CORRECTED : Nat := 0x6001C
/-- Lines with a bad CRC, saturating at 0xFFFF_FFFF (R399). -/
def APHY_CRC_ERR : Nat := 0x60020
/-- Packets matching no slot, saturating at 0xFFFF_FFFF (R399). -/
def APHY_DISCARDED : Nat := 0x60024
/-- [15:0] ns, 0–50,000; other writes ignored; [31:16] reserved (R399). -/
def APHY_TRIG_LEAD : Nat := 0x60028
/-- [3:0] remote GPIO, 0–15; [31:4] reserved (R399). -/
def APHY_TRIG_CFG : Nat := 0x6002C
/-- [1:0] slot; [31:2] reserved (R399). -/
def APHY_VC_SEL : Nat := 0x60030
/-- [31] ENABLE; [30] LINE_ALIGN; [20:16] queue; [11:8] virtual channel; [5:0] data type; othe (R399). -/
def APHY_VC_CFG : Nat := 0x60034
/-- [31:16] LINES, 1–8,192; [15:0] LINE_BYTES, 1–16,384 (R399). -/
def APHY_VC_SHAPE : Nat := 0x60038
/-- Capture offset, ns (R399). -/
def APHY_VC_OFFSET : Nat := 0x6003C
/-- [31] GO; [22:16] address; [14:8] READ_LEN; [6:0] WRITE_LEN; other bits reserved (R399). -/
def APHY_I2C_CMD : Nat := 0x60040
/-- [31] BUSY; [7:0] RESULT (R371); [30:8] reserved (R399). -/
def APHY_I2C_STATUS : Nat := 0x60044
/-- Bytes 4i to 4i + 3 of the transaction, little-endian, i = 0–15 (R399). -/
def APHY_I2C_DATA (j : Nat) : Nat := 0x60100 + 0x4 * j
/-- Quoin state (R428). -/
def QN_STATUS (q : Nat) : Nat := 0xE0000 + 0x10000 * q + 0x10
/-- VERSION field (R486) of the Quoin's running firmware image: major [31:16], minor [15:0] (R428). -/
def QN_FW_VERSION (q : Nat) : Nat := 0xE0000 + 0x10000 * q + 0x14
/-- [31:6] table base [31:6]; [5:0] reserved (R428). -/
def QN_STREAM_TABLE_LO (q : Nat) : Nat := 0xE0000 + 0x10000 * q + 0x18
/-- [15:0] base [47:32]; [31:16] reserved (R428). -/
def QN_STREAM_TABLE_HI (q : Nat) : Nat := 0xE0000 + 0x10000 * q + 0x1C
/-- Command (R428). -/
def QN_CMD (q : Nat) : Nat := 0xE0000 + 0x10000 * q + 0x20
/-- Outcome of the last command (R428). -/
def QN_CMD_STATUS (q : Nat) : Nat := 0xE0000 + 0x10000 * q + 0x24
/-- [5:0] stream shown in QNA_STREAM_STATE; [31:6] reserved (R428). -/
def QN_STREAM_SEL (q : Nat) : Nat := 0xE0000 + 0x10000 * q + 0x28
/-- State of the selected stream (R428). -/
def QN_STREAM_STATE (q : Nat) : Nat := 0xE0000 + 0x10000 * q + 0x2C
/-- RECORD_SEQ of its last VALID release (R428). -/
def QN_STREAM_SEQ (q : Nat) : Nat := 0xE0000 + 0x10000 * q + 0x30
/-- CAN FD settings (R428). -/
def QN_CAN_CFG (q : Nat) : Nat := 0xE0000 + 0x10000 * q + 0x34
/-- [0] A0 bus-off; [1] A1 bus-off; [15:8] frames lost to bus-off, saturating; [31:16] reserve (R428). -/
def QN_CAN_STATUS (q : Nat) : Nat := 0xE0000 + 0x10000 * q + 0x38
/-- [3:0] slots holding a record; [31:16] map epoch of slot QNA_STREAM_SEL's FB_SLOT (R428). -/
def QN_SLOTS (q : Nat) : Nat := 0xE0000 + 0x10000 * q + 0x3C
/-- R427, wrapping at 2^32 (R428). -/
def QN_OPER_MS (q : Nat) : Nat := 0xE0000 + 0x10000 * q + 0x40
/-- R427, wrapping at 2^32 (R428). -/
def QN_LOSS_DEVICE_MS (q : Nat) : Nat := 0xE0000 + 0x10000 * q + 0x44
/-- R427, wrapping at 2^32 (R428). -/
def QN_LOSS_SYSTEM_MS (q : Nat) : Nat := 0xE0000 + 0x10000 * q + 0x48
/-- R427, wrapping at 2^32 (R428). -/
def QN_COMMANDED_MS (q : Nat) : Nat := 0xE0000 + 0x10000 * q + 0x4C
/-- Safe-state entries since power-up, saturating at 0xFFFF_FFFF (R428). -/
def QN_SAFE_COUNT (q : Nat) : Nat := 0xE0000 + 0x10000 * q + 0x50
/-- [10:0] BASE_ID, 0x000–0x7FC; [31:11] reserved (R428). -/
def QN_CAN_CFG2 (q : Nat) : Nat := 0xE0000 + 0x10000 * q + 0x54
/-- [1:0] missed frames for a verdict, 2–3; other writes ignored; [31:2] reserved (R428). -/
def QN_HB_MISS (q : Nat) : Nat := 0xE0000 + 0x10000 * q + 0x800
/-- [3:0] PARALLEL, 1–8: 0 is taken as 1 and values above 8 as 8; [31:4] reserved (R451). -/
def PAV_CFG (n : Nat) : Nat := dieSlot n + 0x80010
/-- [9:0] ms, 10–1,000; other writes ignored; [31:10] reserved (R451). -/
def PAV_MAX_INTERVAL (n : Nat) : Nat := dieSlot n + 0x80014
/-- [31] test figure open; [30] start-up pass running; [23:16] clusters under test; [11:8] eng (R451). -/
def PAV_STATUS (n : Nat) : Nat := dieSlot n + 0x80018
/-- [2:0] temperature band; [5:4] activity band; others reserved (R451). -/
def PAV_BANDS (n : Nat) : Nat := dieSlot n + 0x8001C
/-- [9:0] core within the die; [31:10] reserved (R451). -/
def PAV_CORE_SEL (n : Nat) : Nat := dieSlot n + 0x80020
/-- State of the selected core (R451). -/
def PAV_CORE_STATE (n : Nat) : Nat := dieSlot n + 0x80024
/-- Failed cells of the selected core, as CELLS (R447) (R451). -/
def PAV_CORE_CELLS (n : Nat) : Nat := dieSlot n + 0x80028
/-- [8:0] cluster × 64 + couple; [31:9] reserved (R451). -/
def PAV_COUPLE_SEL (n : Nat) : Nat := dieSlot n + 0x8002C
/-- State of the selected couple (R451). -/
def PAV_COUPLE_STATE (n : Nat) : Nat := dieSlot n + 0x80030
/-- [3:0] withdrawn, [7:4] fenced, [11:8] under test: bit e for engine e; [31:12] reserved (R451). -/
def PAV_ENGINE_STATE (n : Nat) : Nat := dieSlot n + 0x80034
/-- [15:0] coverage age of engine e in ms, saturating at 0xFFFF; [31:16] reserved (R451). -/
def PAV_ENGINE_AGE (n j : Nat) : Nat := dieSlot n + 0x80038 + 0x4 * j
/-- [10:0] cores withdrawn, 0–1,024; [31:11] reserved (R451). -/
def PAV_WITHDRAWN (n : Nat) : Nat := dieSlot n + 0x80048
/-- Slices passed since reset, saturating at 0xFFFF_FFFF (R451). -/
def PAV_SLICE_COUNT (n : Nat) : Nat := dieSlot n + 0x8004C
/-- Slices abandoned (R441), saturating at 0xFFFF_FFFF (R451). -/
def PAV_ABANDON_COUNT (n : Nat) : Nat := dieSlot n + 0x80050
/-- Slices failed, saturating at 0xFFFF_FFFF (R451). -/
def PAV_FAIL_COUNT (n : Nat) : Nat := dieSlot n + 0x80054
/-- Differences under R432 since reset, saturating at 0xFFFF_FFFF (R451). -/
def PAV_MISMATCH_COUNT (n : Nat) : Nat := dieSlot n + 0x80058
/-- [31:6] log buffer base [31:6] in device DRAM; [5:0] reserved (R451). -/
def PAV_LOG_BASE_LO (n : Nat) : Nat := dieSlot n + 0x80060
/-- [15:0] base [47:32]; [31:16] reserved (R451). -/
def PAV_LOG_BASE_HI (n : Nat) : Nat := dieSlot n + 0x80064
/-- [16:0] buffer bytes; [31:17] reserved (R451). -/
def PAV_LOG_SIZE (n : Nat) : Nat := dieSlot n + 0x80068
/-- [1:0] 1 EXPORT, 2 IMPORT, 3 NONE; 0 ignored; [31:2] reserved (R451). -/
def PAV_LOG_CMD (n : Nat) : Nat := dieSlot n + 0x8006C
/-- Log state (R451). -/
def PAV_LOG_STATUS (n : Nat) : Nat := dieSlot n + 0x80070
/-- Fault injection into a running couple (R451). -/
def PAV_INJECT (n : Nat) : Nat := dieSlot n + 0x80800
/-- Package state (R481). -/
def PWR_STATUS : Nat := 0xC0010
/-- [15:0] P_lim, W; [31:16] P_allow, W (R481). -/
def PWR_LIMIT : Nat := 0xC0014
/-- Bits [4n + 2 : 4n]: throttle state of die n; others reserved (R481). -/
def PWR_DIE_STATE : Nat := 0xC0018
/-- Bits [4n + 3 : 4n]: causes of die n (R457) (R481). -/
def PWR_THROTTLE_CAUSE : Nat := 0xC001C
/-- Bits [4n + 2 : 4n]: software's slowest state for die n, 0–4; other writes ignored (R481). -/
def PWR_THROTTLE_MIN : Nat := 0xC0020
/-- Bit d: domain d (0–31) powered (R481). -/
def PWR_DOMAIN_ON_LO : Nat := 0xC0024
/-- Bit d − 32: domain d (32–47) powered; [31:16] reserved (R481). -/
def PWR_DOMAIN_ON_HI : Nat := 0xC0028
/-- [0] AUTO_GATE (R460); [31:1] reserved (R481). -/
def PWR_CFG : Nat := 0xC002C
/-- [1:0] 1 ENTER, 2 LEAVE; 0 and 3 ignored; [31:2] reserved (R481). -/
def PWR_STANDBY_CMD : Nat := 0xC0030
/-- [15:0] W, 0 for none; [31:16] reserved (R481). -/
def PWR_SW_LIMIT : Nat := 0xC0034
/-- [15:0] power over 1 ms, units of 0.1 W; [31:16] reserved (R481). -/
def PWR_DIE_POWER (j : Nat) : Nat := 0xC0040 + 0x4 * j
/-- Junction and pair state (R481). -/
def THM_DIE_TEMP (j : Nat) : Nat := 0xC0060 + 0x4 * j
/-- [2:0] die n; [6:4] pair; [8] sensor; others reserved (R481). -/
def THM_SENSOR_SEL : Nat := 0xC0080
/-- [31] LOST; [15:0] last accepted sample, signed, 0.0625 °C; others reserved (R481). -/
def THM_SENSOR : Nat := 0xC0084
/-- [31] VALID; [15:0] signed, 0.0625 °C; others reserved (R481). -/
def THM_COOLANT_IN : Nat := 0xC0090
/-- As THM_COOLANT_IN (R481). -/
def THM_COOLANT_OUT : Nat := 0xC0094
/-- [31] VALID; [15:0] 0.01 L/min; others reserved (R481). -/
def THM_FLOW : Nat := 0xC0098
/-- [15:0] 0.01 L/min, 100–3,000; other writes ignored; [31:16] reserved (R481). -/
def THM_FLOW_NOMINAL : Nat := 0xC009C
/-- [31] ENABLE; [3:0] tick, µs, 3–10, other values ignored; others reserved; i = 0–2 (R481). -/
def THM_SENT_CFG (j : Nat) : Nat := 0xC00A0 + 0x4 * j
/-- FP32 (R481). -/
def THM_SENT_SCALE (j : Nat) : Nat := 0xC00B0 + 0x4 * j
/-- FP32 (R481). -/
def THM_SENT_OFFSET (j : Nat) : Nat := 0xC00C0 + 0x4 * j
/-- Invalid frames on all inputs since reset, saturating at 0xFFFF_FFFF (R481). -/
def THM_SENT_ERR_COUNT : Nat := 0xC00D0
/-- [3:0] K/s, 1–10; other writes ignored; [31:4] reserved (R481). -/
def PWR_RAMP : Nat := 0xC0800
/-- [9:0] W per Course die, 0 for off (R479); [31:10] reserved (R481). -/
def PWR_WARM_FLOOR : Nat := 0xC0804
/-- [7:0] stage (R503); [15:8] detail: image type for 0xE1, die code for 0xE2, otherwise 0; [3 (R505). -/
def KEY_BOOT_STAGE : Nat := 0x10
/-- [19:0] µs from P to READY or to the error stage, saturating; [31:20] reserved (R505). -/
def KEY_BOOT_TIME : Nat := 0x14
/-- [0] stage-1 slot booted; [1] main slot booted; [2] stage-1 fallback; [3] main fallback; [3 (R505). -/
def KEY_BOOT_SLOTS : Nat := 0x18
/-- Security state (R506). -/
def NGD_STATUS : Nat := 0xA0010
/-- [31:28] OP; [27:0] reserved (R506). -/
def NGD_CMD : Nat := 0xA0014
/-- [31] BUSY; [7:0] RESULT; [30:8] reserved (R506). -/
def NGD_CMD_STATUS : Nat := 0xA0018
/-- [31:6] buffer address [31:6] in device DRAM; [5:0] reserved (R506). -/
def NGD_ARG_LO : Nat := 0xA001C
/-- [15:0] address [47:32]; [31:16] reserved (R506). -/
def NGD_ARG_HI : Nat := 0xA0020
/-- Buffer bytes (R506). -/
def NGD_ARG_SIZE : Nat := 0xA0024
/-- [2:0] partition (R490) or slot (R502); [31:3] reserved (R506). -/
def NGD_ARG_PARAM : Nat := 0xA0028
/-- [5:0] bit per source (R498); [31:6] reserved (R506). -/
def NGD_ALARM_LATCHED : Nat := 0xA002C
/-- [2s + 1 : 2s] response of source s in force; [31:12] reserved (R506). -/
def NGD_ALARM_RESPONSE : Nat := 0xA0030
/-- Alarms since reset, saturating at 0xFFFF_FFFF (R506). -/
def NGD_ALARM_COUNT : Nat := 0xA0034
/-- [5:0] stage 1; [13:8] main; [21:16] Quoin; [27:24] MIN_KEY_INDEX; others reserved (R506). -/
def NGD_MIN_SVN : Nat := 0xA0038
/-- VERSION of the running stage 1 (R506). -/
def NGD_STAGE1_VERSION : Nat := 0xA003C
/-- VERSION of the running main image (R506). -/
def NGD_MAIN_VERSION : Nat := 0xA0040
/-- [1:0] slots provisioned; [3:2] slots revoked; [15:8] encrypted models loaded; others reser (R506). -/
def NGD_MODEL_KEYS : Nat := 0xA0044
/-- Bytes written by the last command (R506). -/
def NGD_OUT_SIZE : Nat := 0xA0048
/-- Challenge bytes 4i to 4i + 3, i = 0–7 (R506). -/
def NGD_DEBUG_CHALLENGE (j : Nat) : Nat := 0xA0100 + 0x4 * j
/-- [0] MODE: 0 per-core, 1 per-block (R523); [1] RUN: 1 counters count; [31:2] reserved (R527). -/
def GAU_CFG : Nat := 0xD0010
/-- Byte i: event of per-core counter i + 1 (R527). -/
def GAU_CORE_EVT0 : Nat := 0xD0014
/-- Byte i: event of per-core counter i + 5 (R527). -/
def GAU_CORE_EVT1 : Nat := 0xD0018
/-- Block in the form of its ID register; a block not counted reads back 0 (R527). -/
def GAU_BLK_SEL : Nat := 0xD001C
/-- Register j, byte i: event of counter 4j + i of the selected block (R527). -/
def GAU_BLK_EVT (j : Nat) : Nat := 0xD0020 + 0x4 * j
/-- [0] write 1 to take a snapshot; [31:1] reserved (R527). -/
def GAU_SNAP_CMD : Nat := 0xD0030
/-- [9:0] µs, 1–1,000, or 0 for none; other writes ignored; [31:10] reserved (R527). -/
def GAU_SNAP_PERIOD : Nat := 0xD0034
/-- [31:12] ring base [31:12]; [11:0] reserved (R527). -/
def GAU_DUMP_BASE_LO : Nat := 0xD0038
/-- Base [63:32] (R527). -/
def GAU_DUMP_BASE_HI : Nat := 0xD003C
/-- Ring control (R527). -/
def GAU_DUMP_CFG : Nat := 0xD0040
/-- SNAP_SEQ of the last slot software has finished with (R527). -/
def GAU_DUMP_CONSUMED : Nat := 0xD0044
/-- SNAP_SEQ of the last snapshot written (R527). -/
def GAU_SNAP_SEQ : Nat := 0xD0048
/-- [31] BUSY: a snapshot is being written; [30] ENABLED; [29:0] reserved (R527). -/
def GAU_SNAP_STATUS : Nat := 0xD004C
/-- Snapshots skipped since reset, saturating at 0xFFFF_FFFF (R527). -/
def GAU_SNAP_SKIPPED : Nat := 0xD0050
/-- [11:0] global core ID in per-core mode; [19:16] counter, 0 the cycle counter, 1–8 per core (R527). -/
def GAU_READ_SEL : Nat := 0xD0054
/-- Counter [31:0], read now, not from a snapshot; latches GAU_READ_HI (R527). -/
def GAU_READ_LO : Nat := 0xD0058
/-- Counter [63:32] (R527). -/
def GAU_READ_HI : Nat := 0xD005C
/-- [7:0] die code; [11:8] KIND; [27:12] UNIT; [31:28] reserved (R529). -/
def KEY_OT_SEL : Nat := 0x800
/-- [1:0] 1 ISOLATE, 2 TEST, 3 RELEASE, 0 ignored; reads 0; [31:2] reserved (R529). -/
def KEY_OT_CMD : Nat := 0x804
/-- State of the selected unit (R529). -/
def KEY_OT_STATUS : Nat := 0x808
/-- [4:0] units isolated in the package, 0–17; [31:5] reserved (R529). -/
def KEY_OT_ACTIVE : Nat := 0x80C

end Sys2Proof.Machine
end

