-- ==== Sys2Proof/Machine/SecurityState.lean ====
section
/-! DEFINITION. The state of Nguldoel and of start-up (R484–R508). -/
namespace Sys2Proof.Machine

/-- The fuse array (R484). The four hardware unique keys are known to Nguldoel alone and are named by their generation. -/
structure Fuses where
  hukRetired : Nat
  fwKeyHash : List (List Byte)
  minKey : Nat
  minSvnS1 : Nat
  minSvnMain : Nat
  minSvnQuoin : Nat
  provisioned : Bool
  modelKeys : List (List Byte)
  revoked : Nat
  debugKeyHash : List Byte
  alarmResponse : Nat
  deriving DecidableEq, Repr

/-- A device as it leaves manufacture: no minimum raised, nothing provisioned. The firmware key hashes are the maker's
(an all-zero hash here: the spec does not print them; log entry 13). -/
def Fuses.manufactured : Fuses :=
  { hukRetired := 0, fwKeyHash := List.replicate 4 (List.replicate 32 0), minKey := 0, minSvnS1 := 0, minSvnMain := 0, minSvnQuoin := 0,
    provisioned := false, modelKeys := List.replicate 2 (List.replicate 64 0), revoked := 0, debugKeyHash := List.replicate 32 0,
    alarmResponse := 0 }

/-- Where start-up stands (R503). -/
structure Boot where
  stage : Nat
  detail : Nat
  /-- tick of P -/
  since : Nat
  time : Nat
  slots : Nat
  /-- PERST# is deasserted; the main rails are in their windows; tick since which they are -/
  perst : Bool
  rails : Bool
  railsTick : Nat
  deriving DecidableEq, Repr

/-- Header fields of an image that runs: SVN, KEY_INDEX, VERSION, measurement. -/
structure RunImage where
  svn : Nat
  key : Nat
  version : Nat
  digest : List Byte
  deriving DecidableEq, Repr

def RunImage.none : RunImage := { svn := 0, key := 0, version := 0, digest := List.replicate 32 0 }

structure Security where
  fuses : Fuses
  flash : FMap Byte
  boot : Boot
  stage1 : RunImage
  main : RunImage
  /-- running and inactive firmware banks of the Quoins -/
  quoinA : RunImage
  quoinB : RunImage
  quoinNextA : Option RunImage
  quoinNextB : Option RunImage
  /-- keys of the key store in Nguldoel's SRAM -/
  keys : Bool
  /-- generation of the identity in use -/
  identity : Nat
  /-- model keys by slot -/
  modelKeys : FMap (Option (List Byte))
  /-- keys installed in the dies' tables -/
  installed : Bool
  debug : Nat
  challenge : Option (List Byte × Nat)
  failures : Nat
  lockedOut : Bool
  busy : Bool
  result : Nat
  outSize : Nat
  /-- strongest response since reset: 0 none -/
  action : Nat
  alarms : Nat
  /-- sources that triggered before the fuses were read -/
  early : List Nat
  fusesRead : Bool
  zeroized : Bool
  deriving DecidableEq, Repr

def Security.reset : Security :=
  { fuses := Fuses.manufactured, flash := [],
    boot := { stage := 0, detail := 0, since := 0, time := 0, slots := 0, perst := false, rails := false, railsTick := 0 },
    stage1 := RunImage.none, main := RunImage.none, quoinA := RunImage.none, quoinB := RunImage.none, quoinNextA := none, quoinNextB := none,
    keys := false, identity := 0, modelKeys := [], installed := false, debug := 0, challenge := none, failures := 0, lockedOut := false,
    busy := false, result := 0, outSize := 0, action := 0, alarms := 0, early := [], fusesRead := false, zeroized := false }

end Sys2Proof.Machine
end

