-- ==== Sys2Proof/Machine/State.lean ====
section
/-! DEFINITION. The state of the package as plain data: every register, memory, queue and mode the spec gives it (`Dev`),
and the queue of commands that wait. -/
namespace Sys2Proof.Machine

/-- What the package put on its outputs during the last command. -/
inductive Out where
  /-- an MSI-X message -/
  | msix (vector : Nat)
  /-- data answered to a host access or a register read -/
  | reply (data : List Byte)
  /-- a host read answered with the poisoned-data (EP) bit and so many bytes of 0x00 (R317) -/
  | replyPoisoned (len : Nat)
  /-- a configuration request answered with Configuration Request Retry Status -/
  | retryStatus
  | flit (die port : Nat) (bytes : List Byte)
  | can (quoin ctl id : Nat) (bytes : List Byte)
  | eth (port : Nat) (bytes : List Byte)
  /-- a trigger pin driven to a level -/
  | pin (i : Nat) (high : Bool)
  /-- a trigger message on an A-PHY link -/
  | aphyTrigger (port i : Nat)
  /-- bytes of a tunnelled I2C transfer: address, bytes written, count read -/
  | i2c (port addr : Nat) (bytes : List Byte) (reads : Nat)
  /-- a PTP message: port and kind -/
  | ptp (port kind : Nat)
  /-- a voltage command: die index -/
  | voltage (die state : Nat)
  deriving DecidableEq, Repr

/-- The PCI Express link as the rings see it (R164). -/
structure HostLink where
  up : Bool
  d3 : Bool
  bme : Bool
  /-- tick at which the link went down -/
  downTick : Option Nat
  /-- RATE and WIDTH as trained -/
  rate : Nat
  width : Nat
  /-- the base of the BAR2 window in force: HOST_WIN_BASE as it was at the last write to HOST_WIN_BASE_HI (R166) -/
  winBase : Nat
  deriving DecidableEq, Repr

/-- HOST_LINK_STATUS resets to 0: not trained, Bus Master Enable clear. -/
def HostLink.reset : HostLink := { up := false, d3 := false, bme := false, downTick := none, rate := 0, width := 0, winBase := 0 }

/-- Everything the spec gives the package. -/
structure Dev where
  hw : Hw
  out : List Out
  /-- registers by BAR0 offset; none is the reset value -/
  regs : FMap (Option W32)
  /-- device memory by device-physical address, and the host's memory by bus address -/
  mem : FMap Byte
  hostMem : FMap Byte
  /-- speculation tag and shadow copy of each 64-byte line -/
  tags : FMap LineTag
  shadow : FMap (List Byte)
  /-- poisoned lines, and those already reported -/
  poison : FMap Bool
  poisonTold : FMap Bool
  /-- lines confirmed in a MIRROR region whose copy the commit has not reached yet: the epoch (R204) -/
  mirrorDue : FMap Nat
  /-- the draw that stands for what a part of memory holds since it lost its contents, 0 for none: layer l of stack s at 8s + l, the
  Mortar of die n at 64 + n (R158, R322, R339) -/
  dramGen : FMap Nat
  cores : FMap Core
  /-- joined couples, by lead / 2 -/
  joined : FMap Bool
  jfe : Jfe
  link : HostLink
  sems : FMap Sem
  engs : FMap Eng
  tickets : FMap (Option Ticket)
  /-- next ticket sequence number of a context and engine -/
  ticketSeq : FMap Nat
  crn : Cairn
  /-- active key-value sequences, by sequence number -/
  seqs : FMap (Option Seq)
  stackTbl : FMap Stack
  mirrors : FMap (Option Mirror)
  bw : Bw
  ports : FMap Port
  hod : FMap HodQ
  aphy : FMap Aphy
  eth : FMap EthPort
  plb : Plumb
  qn : Quoins
  pav : Pavane
  pwr : Power
  sec : Security
  dbg : Debug
  gau : Gauge
  /-- fences in force, by unit number (R418), and those whose effects are still to be applied -/
  fences : FMap Bool
  newFences : List Nat
  /-- tick of the last record and records suppressed since, of each rate-limited event -/
  rate : FMap (Option (Nat × Nat))
  /-- TCLK ticks that have passed -/
  ticks : Nat
  /-- draws of free values: the model's own field (log entry 9) -/
  freeCtr : Nat
  deriving DecidableEq, Repr

/-- The machine: the package and the commands that wait, first in, first out. -/
structure State where
  dev : Dev
  pending : List Instr
  deriving DecidableEq, Repr

/-- Why the machine stops. -/
inductive Fault where
  /-- Raised by a command addressed to a core of a Course die that the part does not have (R30): there is no such core to do
  anything. Safe: the machine stops where the hardware has nothing. -/
  | absentUnit
  deriving DecidableEq, Repr

/-- Why a command has no meaning. -/
inductive Refusal where
  /-- Raised by an arm of `exec` whose row has no meaning yet. Safe: nothing can be proved through it. -/
  | notModelled (mnemonic : String)
  deriving DecidableEq, Repr

/-- The package with nothing powered: every unit at its reset value, every memory unlisted, AMV-C4 with every die at
stepping B0 (log entries 3 to 5). Rails, PERST# and start-up are commands. -/
def Dev.reset : Dev :=
  { hw := { part := .c4, course := [0x10, 0x10, 0x10, 0x10], keystone := 0x10, quoin := 0x10 },
    out := [], regs := [], mem := [], hostMem := [], tags := [], shadow := [], poison := [], poisonTold := [], mirrorDue := [], dramGen := [], cores := [], joined := [],
    jfe := Jfe.reset, link := HostLink.reset, sems := [], engs := [], tickets := [], ticketSeq := [], crn := Cairn.reset, seqs := [],
    stackTbl := [], mirrors := [], bw := Bw.reset, ports := [], hod := [], aphy := [], eth := [], plb := Plumb.reset, qn := Quoins.reset,
    pav := Pavane.reset, pwr := Power.reset, sec := Security.reset, dbg := Debug.reset, gau := Gauge.reset, fences := [], newFences := [], rate := [],
    ticks := 0, freeCtr := 0 }

/-- The machine right after reset: nothing powered and no command waiting. -/
def State.reset : State := { dev := Dev.reset, pending := [] }

end Sys2Proof.Machine
end

