-- ==== Sys2Proof/Machine/Ops.lean ====
section
/-! DEFINITION. The named operations every meaning is written over: registers and their blocks, event records, time, free
values, fences, and device memory with its speculation tags, poison and mirrors. -/
namespace Sys2Proof.Machine

/-! ### Blocks of BAR0 (R39–R41) -/

inductive Block where
  | key | jfe | host | plb | hod | eth | aphy | crn | ngd | bwr | pwr | gau
  | qn (q : Nat)
  | crs (n : Nat) | mrt (n : Nat) | smc (n i : Nat) | eng (n e : Nat) | pav (n : Nat) | arc (n i : Nat) | ash (n c : Nat)
  deriving DecidableEq, Repr

/-- Base offset in BAR0. -/
def Block.base : Block → Nat
  | .key => 0 | .jfe => 0x10000 | .host => 0x20000 | .plb => 0x30000 | .hod => 0x40000 | .eth => 0x50000 | .aphy => 0x60000
  | .crn => 0x80000 | .ngd => 0xA0000 | .bwr => 0xB0000 | .pwr => 0xC0000 | .gau => 0xD0000 | .qn q => 0xE0000 + 0x10000 * q
  | .crs n => dieSlot n | .mrt n => dieSlot n + 0x10000 | .smc n i => dieSlot n + 0x20000 + 0x10000 * i
  | .eng n e => dieSlot n + 0x40000 + 0x10000 * e | .pav n => dieSlot n + 0x80000 | .arc n i => dieSlot n + 0x90000 + 0x10000 * i
  | .ash n c => dieSlot n + 0x100000 + 0x40000 * c

/-- Code of the die that holds the block. -/
def Block.die : Block → Nat
  | .crs n => n | .mrt n => n | .smc n _ => n | .eng n _ => n | .pav n => n | .arc n _ => n | .ash n _ => n
  | _ => 8

/-- Block type and instance (R41). -/
def Block.kind : Block → Nat × Nat
  | .key => (0x01, 0) | .jfe => (0x02, 0) | .host => (0x03, 0) | .plb => (0x04, 0) | .hod => (0x05, 0) | .eth => (0x06, 0)
  | .aphy => (0x07, 0) | .crn => (0x08, 0) | .ngd => (0x09, 0) | .bwr => (0x0A, 0) | .pwr => (0x0B, 0) | .gau => (0x0C, 0)
  | .qn q => (0x0D, q) | .crs _ => (0x10, 0) | .mrt _ => (0x11, 0) | .smc _ i => (0x12, i) | .eng _ e => (0x13 + e, 0)
  | .pav _ => (0x18, 0) | .arc _ i => (0x19, i) | .ash _ c => (0x17, c)

/-- The ID register (R10, R41). -/
def Block.id (b : Block) : Nat := b.kind.1 * 65536 + b.kind.2 * 256 + b.die

/-- The registers of the block's own chapter. -/
def Block.regs : Block → List RegDef
  | .key => keyRegs | .jfe => jfeRegs | .host => hostRegs | .plb => plbRegs | .hod => hodRegs | .eth => ethRegs | .aphy => aphyRegs
  | .crn => crnRegs | .ngd => ngdRegs | .bwr => bwrRegs | .pwr => pwrRegs | .gau => gauRegs | .qn _ => qnRegs | .crs _ => []
  | .mrt _ => mrtRegs | .smc _ _ => smcRegs | .eng _ e => if e = 3 then winRegs ++ trcRegs else winRegs | .pav _ => pavRegs
  | .arc _ _ => arcRegs | .ash _ _ => ashRegs

/-- The block whose slot holds a BAR0 offset (R39, R40); none where no block is, the slot of an absent die included. -/
def blockAt (h : Hw) (off : Nat) : Option Block :=
  let s := off / 0x10000
  if s < 0x10 then
    (if s = 0 then some .key else if s = 1 then some .jfe else if s = 2 then some .host else if s = 3 then some .plb
     else if s = 4 then some .hod else if s = 5 then some .eth else if s = 6 then some .aphy else if s = 8 ∨ s = 9 then some .crn
     else if s = 10 then some .ngd else if s = 11 then some .bwr else if s = 12 then some .pwr else if s = 13 then some .gau
     else if s = 14 then some (.qn 0) else if s = 15 then some (.qn 1) else none)
  else if off < 0x1000000 then none
  else
    let n := (off - 0x1000000) / 0x400000
    let o := (off - 0x1000000) % 0x400000
    let t := o / 0x10000
    if h.dies ≤ n then none
    else if t < 12 then
      (if t = 0 then some (.crs n) else if t = 1 then some (.mrt n) else if t < 4 then some (.smc n (t - 2))
       else if t < 8 then some (.eng n (t - 4)) else if t = 8 then some (.pav n) else some (.arc n (t - 9)))
    else if 0x100000 ≤ o ∧ o < 0x300000 then some (.ash n ((o - 0x100000) / 0x40000))
    else none

/-- The register that holds block offset `o`. -/
def findReg (rs : List RegDef) (o : Nat) : Option RegDef :=
  rs.find? (fun r => decide (r.off ≤ o) && decide (o < r.off + r.step * r.n) && (o - r.off) % r.step == 0)

/-! Registers behind a selector have one value per queue, port, filter or slot; each value stands under a key of its own,
above BAR0 (log entry 15). -/

def hodKey (q off : Nat) : Nat := 0x4000000 + q * 0x1000 + off
def ethKey (p off : Nat) : Nat := 0x5000000 + p * 0x1000 + off
def filtKey (p f off : Nat) : Nat := 0x5800000 + (8 * p + f) * 0x1000 + off
def aphyKey (p off : Nat) : Nat := 0x6000000 + p * 0x1000 + off
def slotKey (p s off : Nat) : Nat := 0x6800000 + (4 * p + s) * 0x1000 + off

/-- The register list and block offset behind a register key. -/
def keyRegsAt (h : Hw) (k : Nat) : List RegDef × Nat :=
  if k < 0x4000000 then
    match blockAt h k with
    | some b => (b.regs, k - b.base)
    | none => ([], 0)
  else if k < 0x5000000 then (hodRegs, k % 0x1000)
  else if k < 0x6000000 then (ethRegs, k % 0x1000)
  else (aphyRegs, k % 0x1000)

/-- Reset value of a register by key; 0 where there is none. -/
def resetVal (h : Hw) (k : Nat) : W32 :=
  let p := keyRegsAt h k
  match findReg p.1 p.2 with
  | some r => r.reset
  | none => 0

/-- The stored value of a register. -/
def Dev.reg (d : Dev) (k : Nat) : W32 :=
  match FMap.get none d.regs k with
  | some v => v
  | none => resetVal d.hw k
def Dev.rn (d : Dev) (k : Nat) : Nat := (d.reg k).toNat
/-- A field of a register. -/
def Dev.rf (d : Dev) (k hi lo : Nat) : Nat := bitsOf (d.rn k) hi lo
def Dev.rbit (d : Dev) (k i : Nat) : Bool := bitOf (d.rn k) i
/-- A 64-bit value in a LO and a HI register. -/
def Dev.rpair (d : Dev) (lo hi : Nat) : Nat := d.rn lo + 2 ^ 32 * d.rn hi

/-- Put a value into a register, whatever its access type. -/
def Dev.setReg (d : Dev) (k : Nat) (v : W32) : Dev :=
  { d with regs := FMap.set none d.regs k (if v = resetVal d.hw k then none else some v) }
def Dev.setNat (d : Dev) (k v : Nat) : Dev := d.setReg k (BitVec.ofNat 32 v)
/-- Add to a counter that saturates at 0xFFFF_FFFF. -/
def Dev.bump (d : Dev) (k n : Nat) : Dev := d.setNat k (min (d.rn k + n) 0xFFFFFFFF)
/-- Set bits of a register. -/
def Dev.orBits (d : Dev) (k m : Nat) : Dev := d.setReg k (d.reg k ||| BitVec.ofNat 32 m)
def Dev.clearBits (d : Dev) (k m : Nat) : Dev := d.setReg k (d.reg k &&& ~~~(BitVec.ofNat 32 m))
/-- Put back every register of a block. -/
def Dev.resetRegs (d : Dev) (p : Nat → Bool) : Dev := { d with regs := d.regs.filter (fun e => !p e.1) }

/-! ### Gauge counters of blocks (R522, R523) -/

/-- Add `n` to the counters of a block that count event `ev`, while per-block counters are active and run. -/
def Dev.blkCount (d : Dev) (b : Block) (ev n : Nat) : Dev :=
  if n = 0 ∨ !d.rbit GAU_CFG 0 ∨ !d.rbit GAU_CFG 1 then d
  else (List.range 16).foldl (fun d i =>
    let k := 16 * b.id + i
    if FMap.get 0 d.gau.blkEvt k = ev then
      let v := FMap.get 0 d.gau.blk k + n
      { d with gau := { d.gau with blk := FMap.set 0 d.gau.blk k (v % 2 ^ 48),
                                   wrapped := if 2 ^ 48 ≤ v then FMap.set false d.gau.wrapped (2 ^ 32 + k) true else d.gau.wrapped } }
    else d) d

/-! ### Time, free values, event records -/

/-- Plumb time in nanoseconds. -/
def Dev.now (d : Dev) : Nat := d.plb.ns.toNat
/-- Elapsed time in nanoseconds, which steps of Plumb time leave alone (R145). It starts at 2^64, so that any Plumb time not later than the
present has a place on it. -/
def Dev.clock (d : Dev) : Nat := 2 ^ 64 + d.plb.run / 2 ^ 32
/-- Plumb time of a point on the elapsed clock, and the reverse for a time that has come. -/
def Dev.toPlumb (d : Dev) (t : Nat) : Nat := (d.now + t + 2 ^ 64 - d.clock) % 2 ^ 64
def Dev.ofPlumb (d : Dev) (t : Nat) : Nat := d.clock + t - d.now
/-- TCLK ticks in microseconds and milliseconds (R454). -/
def ticksUs (n : Nat) : Nat := 400 * n
def ticksMs (n : Nat) : Nat := 400000 * n

/-- A fresh free value (log entry 9). -/
def Dev.draw (d : Dev) : W64 × Dev := (Config.freeWord d.freeCtr, { d with freeCtr := d.freeCtr + 1 })
/-- `n` fresh free bytes. -/
def Dev.drawBytes (d : Dev) (n : Nat) : List Byte × Dev :=
  ((List.range n).map (fun i => Config.freeByte (d.freeCtr + i)), { d with freeCtr := d.freeCtr + n })

/-- Is the Keystone out of reset (R503)? It alone numbers and writes records. -/
def Dev.keystoneUp (d : Dev) : Bool := d.sec.boot.stage != 0

/-- Produce an event record (R21, R548); a Keystone in reset produces none. -/
def Dev.emit (d : Dev) (src : Block) (code sev a0 a1 : Nat) : Dev :=
  if d.keystoneUp then
    let e : Event := { ns := d.plb.ns, frac := d.plb.frac, source := BitVec.ofNat 32 src.id, code := BitVec.ofNat 16 code, sev := sev,
                       seq := d.jfe.evSeq, arg0 := BitVec.ofNat 32 a0, arg1 := BitVec.ofNat 32 a1 }
    { d with jfe := { d.jfe with ev := d.jfe.ev ++ [e], evSeq := d.jfe.evSeq + 1 } }
  else d

/-- Produce a record at most once per `gap` ticks under the key; `f` builds it from the count suppressed since the last. -/
def Dev.limited (d : Dev) (key gap : Nat) (f : Nat → Dev → Dev) : Dev :=
  match FMap.get none d.rate key with
  | some (t, n) =>
    if d.ticks < t + gap then { d with rate := FMap.set none d.rate key (some (t, n + 1)) }
    else f n { d with rate := FMap.set none d.rate key (some (d.ticks, 0)) }
  | none => f 0 { d with rate := FMap.set none d.rate key (some (d.ticks, 0)) }

/-- Key of a rate limit: event code and what it is counted for. -/
def rateKey (code id : Nat) : Nat := code * 2 ^ 64 + id

def Dev.put (d : Dev) (o : Out) : Dev := { d with out := d.out ++ [o] }

/-! ### Units and fences (R418, R430) -/

/-- A unit's number: die code, KIND, UNIT. -/
def unitNo (die kind unit : Nat) : Nat := die + 256 * kind + 4096 * unit
def cairnUnit : Nat := unitNo 8 2 4
def unitDie (u : Nat) : Nat := u % 256
def unitKind (u : Nat) : Nat := u / 256 % 16
def unitNum (u : Nat) : Nat := u / 4096

def Dev.fenced (d : Dev) (u : Nat) : Bool := FMap.get false d.fences u
def Dev.dieFenced (d : Dev) (n : Nat) : Bool := d.fenced (unitNo n 5 0)
def Dev.clusterFenced (d : Dev) (n c : Nat) : Bool := d.dieFenced n || d.fenced (unitNo n 1 c)
def Dev.engFenced (d : Dev) (n e : Nat) : Bool := d.dieFenced n || d.fenced (unitNo n 2 e)
def Dev.linkFenced (d : Dev) (n p : Nat) : Bool := d.dieFenced n || d.fenced (unitNo n 3 p)

def Dev.bandsOf (d : Dev) (gid : Nat) : CoreBands := FMap.get CoreBands.clear d.pav.bands gid
/-- The band cell a die is in, 4T + A (R445). -/
def Dev.cellOf (d : Dev) (n : Nat) : Nat := let c := FMap.get (0, 0) d.pav.cell n; 4 * c.1 + c.2
/-- Is a core's conditional fence active (R446)? -/
def Dev.bandActive (d : Dev) (gid : Nat) : Bool :=
  let b := d.bandsOf gid
  !b.outright && bitOf b.cells (d.cellOf (coreDie gid))
def Dev.coreFenced (d : Dev) (gid : Nat) : Bool :=
  d.clusterFenced (coreDie gid) (coreCluster gid) || d.fenced (unitNo (coreDie gid) 0 (gid % 1024)) || d.bandActive gid

/-- Is the unit isolated by the online test, and closed to every other test (R519, R520)? -/
def Dev.ot (d : Dev) (u : Nat) : OtUnit := FMap.get OtUnit.reset d.dbg.ot u
def Dev.isolated (d : Dev) (u : Nat) : Bool := (d.ot u).st != .inService
def Dev.wrapped (d : Dev) (u : Nat) : Bool := d.isolated u && !(d.ot u).released

/-- Put a fence in force; what follows from it is applied when the command's consequences are settled. -/
def Dev.setFence (d : Dev) (u : Nat) : Dev :=
  if d.fenced u then d else { d with fences := FMap.set false d.fences u true, newFences := d.newFences ++ [u] }
def Dev.liftFence (d : Dev) (u : Nat) : Dev := { d with fences := FMap.set false d.fences u false }

/-- Is a power domain powered (R458)? -/
def Dev.domainOn (d : Dev) (k : Nat) : Bool := FMap.get false d.pwr.domains k

/-! ### Cores, contexts, partitions -/

def Dev.core (d : Dev) (gid : Nat) : Core := FMap.get Core.off d.cores gid
def Dev.setCore (d : Dev) (gid : Nat) (c : Core) : Dev := { d with cores := FMap.set Core.off d.cores gid c }
def Dev.modCore (d : Dev) (gid : Nat) (f : Core → Core) : Dev := d.setCore gid (f (d.core gid))
def Dev.ctx (d : Dev) (c : Nat) : Ctx := FMap.get Ctx.free d.jfe.ctxs c
def Dev.setCtx (d : Dev) (c : Nat) (x : Ctx) : Dev := { d with jfe := { d.jfe with ctxs := FMap.set Ctx.free d.jfe.ctxs c x } }
def Dev.modCtx (d : Dev) (c : Nat) (f : Ctx → Ctx) : Dev := d.setCtx c (f (d.ctx c))
def Dev.part (d : Dev) (p : Nat) : Option Part := FMap.get none d.jfe.parts p
def Dev.model (d : Dev) (h : Nat) : Model := FMap.get Model.none d.jfe.models (h % 256)
def Dev.epoch (d : Dev) (e : Nat) : Epoch := FMap.get Epoch.free d.jfe.epochs e
def Dev.setEpoch (d : Dev) (e : Nat) (x : Epoch) : Dev := { d with jfe := { d.jfe with epochs := FMap.set Epoch.free d.jfe.epochs e x } }
def Dev.partOfCtx (d : Dev) (c : Nat) : Option Part := d.part (d.ctx c).part
/-- Is the core half of a joined couple? -/
def Dev.isJoined (d : Dev) (gid : Nat) : Bool := FMap.get false d.joined (gid / 2)
def Dev.sem (d : Dev) (n : Nat) : Sem := FMap.get Sem.free d.sems n
def Dev.setSem (d : Dev) (n : Nat) (x : Sem) : Dev := { d with sems := FMap.set Sem.free d.sems n x }
def Dev.port (d : Dev) (n p : Nat) : Port := FMap.get Port.reset d.ports (3 * n + p)
def Dev.setPort (d : Dev) (n p : Nat) (x : Port) : Dev := { d with ports := FMap.set Port.reset d.ports (3 * n + p) x }
def Dev.stack (d : Dev) (s : Nat) : Stack := FMap.get Stack.reset d.stackTbl s
def Dev.setStack (d : Dev) (s : Nat) (x : Stack) : Dev := { d with stackTbl := FMap.set Stack.reset d.stackTbl s x }
def Dev.eng (d : Dev) (n e : Nat) : Eng := FMap.get Eng.idle d.engs (4 * n + e)
def Dev.setEng (d : Dev) (n e : Nat) (x : Eng) : Dev := { d with engs := FMap.set Eng.idle d.engs (4 * n + e) x }

/-- The class rank of a partition: 0 QM to 4 D; an unbound one counts as QM. -/
def Dev.classOf (d : Dev) (p : Nat) : Nat := match d.part p with
  | some q => q.cls
  | none => 0

/-- Is compute stopped by a safe state (R182, R422)? -/
def Dev.stopped (d : Dev) : Bool := d.qn.a.stopped || d.qn.b.stopped

/-! ### Device memory -/

/-- What a master sees and how it writes: the open epoch its writes carry, and the epochs whose provisional data it may
read (R197). -/
structure View where
  write : Option Nat
  sees : List Nat
  deriving DecidableEq, Repr

/-- The view of a master that declares nothing. -/
def View.plain : View := { write := none, sees := [] }

/-- The view of a context's DMA, AMO and engine commands. -/
def Dev.viewOf (d : Dev) (c : Nat) : View :=
  let x := d.ctx c
  if x.noEpoch then View.plain
  else { write := if x.inv.writeEpoch != 0 && (d.epoch x.inv.writeEpoch).state == .opened then some x.inv.writeEpoch else none,
         sees := x.inv.writeEpoch :: x.inv.readEpochs }

/-- The stack and layer that serve a DRAM address. -/
def Dev.linear (d : Dev) (n : Nat) : Bool := d.rbit (MRT_DRAM_CFG n) 0
def Dev.stackOf (d : Dev) (a : Nat) : Nat × Nat := Sys2Proof.Machine.stackOf (d.linear (a / dramDie)) a
def layerOf (sa : Nat) : Nat := sa / 2 ^ 31 % 8
def Dev.layerAt (d : Dev) (a : Nat) : LayerSt :=
  let s := d.stackOf a
  (d.stack s.1).layers.getD (layerOf s.2) .inService

/-- The MIRROR region that holds a primary address: its key and entry. -/
def Dev.mirrorAt (d : Dev) (a : Nat) : Option (Nat × Mirror) :=
  d.mirrors.findSome? (fun e => match e.2 with
    | some m => if m.base ≤ a ∧ a < m.base + m.bytes then some (e.1, m) else none
    | none => none)

/-- Where a read of the address is served: the copy of a COPY_ONLY region and of one being rebuilt from its copy (R325); a line that a
commit has not copied yet has no copy (R204). -/
def Dev.served (d : Dev) (a : Nat) : Nat :=
  match d.mirrorAt a with
  | some (_, m) => if FMap.get 0 d.mirrorDue (a / 64) != 0 then a else (match m.st with
    | .copyOnly => m.copy + (a - m.base)
    | .resync true => m.copy + (a - m.base)
    | _ => a)
  | none => a

/-- Where a write of the address goes (R325). -/
def Dev.writtenTo (d : Dev) (a : Nat) : List Nat :=
  match d.mirrorAt a with
  | some (_, m) => (match m.st with
    | .mirrored => [a, m.copy + (a - m.base)]
    | .resync _ => [a, m.copy + (a - m.base)]
    | .primaryOnly => [a]
    | .copyOnly => [m.copy + (a - m.base)])
  | none => [a]

/-- The part of memory that loses its contents as one: layer l of stack s is 8s + l, the Mortar of die n is 64 + n. -/
def Dev.lossKey (d : Dev) (a : Nat) : Nat :=
  if a < 4 * dramDie then let s := d.stackOf a; 8 * s.1 + layerOf s.2 else if a < 0x4400000000 then 64 + (a - 0x4000000000) / 0x100000000 else 128
/-- The mask bytes are stored under: 0, or the undefined contents that the last loss left (R158, R322, R339). -/
def Dev.mask (d : Dev) (a : Nat) : Byte :=
  let g := FMap.get 0 d.dramGen (d.lossKey a)
  if g = 0 then 0 else Config.dramByte g a
/-- The parts of memory that `p` holds of are emptied: every byte undefined, or 0x00. -/
def Dev.dropContents (d : Dev) (p : Nat → Bool) (undef : Bool) : Dev :=
  let g := d.freeCtr + 1
  { d with freeCtr := g, mem := d.mem.filter (fun e => !p (d.lossKey e.1)),
           poison := d.poison.filter (fun e => decide (2 ^ 48 ≤ e.1) || !p (d.lossKey (64 * e.1))),
           dramGen := (List.range 68).foldl (fun m k => if p k then FMap.set 0 m k (if undef then g else 0) else m) d.dramGen }
/-- The byte stored in place at an address. -/
def Dev.cell (d : Dev) (a : Nat) : Byte := FMap.get 0 d.mem a ^^^ d.mask a
def Dev.setCell (d : Dev) (a : Nat) (b : Byte) : Dev := { d with mem := FMap.set 0 d.mem a (b ^^^ d.mask a) }
def Dev.cells (d : Dev) (a n : Nat) : List Byte := (List.range n).map (fun i => d.cell (a + i))
def Dev.setCells (d : Dev) (a : Nat) : List Byte → Dev
  | [] => d
  | b :: bs => (d.setCell a b).setCells (a + 1) bs

def Dev.tag (d : Dev) (line : Nat) : LineTag := FMap.get .none d.tags line
/-- Does a read of the line by this master take the shadow copy (R197, R206)? -/
def Dev.readsShadow (d : Dev) (v : View) (line : Nat) : Bool :=
  match d.tag line with
  | .none => false
  | .opened e => !v.sees.contains e
  | .squashed _ => true

/-- One byte as a master reads it. -/
def Dev.rdByte (d : Dev) (v : View) (a : Nat) : Byte :=
  let a' := d.served a
  if d.readsShadow v (a' / 64) then (FMap.get [] d.shadow (a' / 64)).getD (a' % 64) 0 else d.cell a'
def Dev.rd (d : Dev) (v : View) (a n : Nat) : List Byte := (List.range n).map (fun i => d.rdByte v (a + i))

def shadowPoison (line : Nat) : Nat := 2 ^ 48 + line
/-- Does a read of the range meet a poisoned line? Answers the first. -/
def Dev.poisonedIn (d : Dev) (v : View) (a n : Nat) : Option Nat :=
  (linesOf a n).find? (fun l =>
    let l' := d.served (64 * l) / 64
    FMap.get false d.poison (if d.readsShadow v l' then shadowPoison l' else l'))

/-- Is the address in fenced memory: a FENCED layer, or a fenced die, that no mirror copy serves (R320, R158)? -/
def Dev.memFenced (d : Dev) (a : Nat) : Bool :=
  let a' := d.served a
  match placeOf d.hw a' with
  | .dram n => d.dieFenced n || d.layerAt a' == .fenced
  | .mortar n => d.dieFenced n
  | _ => false
def Dev.fencedIn (d : Dev) (a n : Nat) : Bool := (linesOf a n).any (fun l => d.memFenced (64 * l))

/-- Ask for a squash (R205); it takes effect when the command's consequences are settled. -/
def Dev.askSquash (d : Dev) (e reason : Nat) : Dev := { d with jfe := { d.jfe with squash := d.jfe.squash ++ [(e, reason)] } }

/-- Lines of a die that carry a tag (R199). -/
def lineDie (line : Nat) : Nat := if line < dramDie / 64 * 4 then line / (dramDie / 64) else (64 * line - 0x4000000000) / 0x100000000
def Dev.taggedOn (d : Dev) (n : Nat) : Nat := (d.tags.filter (fun e => lineDie e.1 == n)).length
def tagCapacity : Nat := 131072

/-- Replace the bytes from `off` on. -/
def patch (old : List Byte) (off : Nat) (new : List Byte) : List Byte := old.take off ++ new ++ old.drop (off + new.length)

/-- Store confirmed bytes at every home of an address; a whole line lifts its poison (R317). -/
def Dev.storeAt (d : Dev) (a : Nat) (bs : List Byte) : Dev :=
  let d1 := d.setCells a bs
  if bs.length = 64 then { d1 with poison := FMap.set false d1.poison (a / 64) false } else d1
def Dev.storeAll (d : Dev) (as : List Nat) (bs : List Byte) : Dev := as.foldl (fun d a => d.storeAt a bs) d

/-- Keep the confirmed contents of a line in the shadow area, and its poison (R199, R317). -/
def Dev.shadowLine (d : Dev) (l : Nat) : Dev :=
  { d with shadow := FMap.set [] d.shadow l (d.cells (64 * l) 64),
           poison := FMap.set false d.poison (shadowPoison l) (FMap.get false d.poison l) }
/-- Free a line's shadow and tag. -/
def Dev.untag (d : Dev) (l : Nat) : Dev :=
  { d with tags := FMap.set .none d.tags l .none, shadow := FMap.set [] d.shadow l [], poison := FMap.set false d.poison (shadowPoison l) false }
/-- Write a squashed line back from its shadow and untag it (R206). -/
def Dev.writeBack (d : Dev) (l : Nat) : Dev :=
  let d1 := d.setCells (64 * l) (FMap.get [] d.shadow l)
  ({ d1 with poison := FMap.set false d1.poison l (FMap.get false d1.poison (shadowPoison l)) } : Dev).untag l

/-- Tag a line with an open epoch. -/
def Dev.setTag (d : Dev) (l e : Nat) : Dev := { d with tags := FMap.set .none d.tags l (.opened e) }

/-- Change bytes of a line's shadow copy. -/
def Dev.patchShadow (d : Dev) (l off : Nat) (bs : List Byte) : Dev :=
  let d1 := { d with shadow := FMap.set [] d.shadow l (patch (FMap.get [] d.shadow l) off bs) }
  if bs.length = 64 then { d1 with poison := FMap.set false d1.poison (shadowPoison l) false } else d1

/-- Write within one line (R199, R200, R325). -/
def Dev.wrLine (d : Dev) (v : View) (a : Nat) (bs : List Byte) : Dev :=
  let homes := d.writtenTo a
  let p := homes.headD a
  let l := p / 64
  match d.tag l, v.write with
  | .none, none => d.storeAll homes bs
  | .opened e, none => ((d.patchShadow l (p % 64) bs).storeAll homes.tail bs).askSquash e 0x06
  | .squashed _, none => (d.patchShadow l (p % 64) bs).storeAll homes.tail bs
  | t, some w =>
    if d.jfe.squash.any (fun q => q.1 == w) then d
    else match t with
      | .opened e => if e = w then d.storeAt p bs else d.askSquash w 0x07
      | .squashed _ => (((d.writeBack l).shadowLine l).setTag l w).storeAt p bs
      | .none => if tagCapacity ≤ d.taggedOn (lineDie l) then d.askSquash w 0x08 else ((d.shadowLine l).setTag l w).storeAt p bs

/-- Pieces of a byte list that lie in one line each. -/
def linePieces : Nat → Nat → List Byte → List (Nat × List Byte)
  | 0, _, _ => []
  | f + 1, a, bs =>
    let k := 64 - a % 64
    if bs.length ≤ k then (if bs.isEmpty then [] else [(a, bs)]) else (a, bs.take k) :: linePieces f (a + k) (bs.drop k)

/-- Write bytes to device memory as this master. -/
def Dev.wr (d : Dev) (v : View) (a : Nat) (bs : List Byte) : Dev :=
  (linePieces (bs.length + 1) a bs).foldl (fun d p => d.wrLine v p.1 p.2) d

/-- Poison a line at every home it has (R316, R326). -/
def Dev.poisonLine (d : Dev) (l : Nat) : Dev := { d with poison := FMap.set false d.poison l true }

/-! ### Host memory, and structures that stand in either -/

def Dev.hostBytes (d : Dev) (a n : Nat) : List Byte := FMap.getMany 0 d.hostMem a n
def Dev.hostPut (d : Dev) (a : Nat) (bs : List Byte) : Dev := { d with hostMem := FMap.setMany 0 d.hostMem a bs }
/-- What the host has put into its own memory. -/
def Dev.hostTake (d : Dev) (w : List (Nat × Byte)) : Dev := { d with hostMem := w.foldl (fun m p => FMap.set 0 m p.1 p.2) d.hostMem }
/-- Read and write a structure in host memory (loc false) or device memory. -/
def Dev.locRd (d : Dev) (loc : Bool) (a n : Nat) : List Byte :=
  if !loc then d.hostBytes a n else if inMem d.hw a n then d.rd View.plain a n else List.replicate n 0
def Dev.locWr (d : Dev) (loc : Bool) (a : Nat) (bs : List Byte) : Dev :=
  if !loc then d.hostPut a bs else if inMem d.hw a bs.length then d.wr View.plain a bs else d

/-! ### Arithmetic of the counters and sequence numbers -/

/-- a − b modulo 2^32. -/
def sub32 (a b : Nat) : Nat := (a + 2 ^ 32 - b % 2 ^ 32) % 2 ^ 32
def add32 (a b : Nat) : Nat := (a + b) % 2 ^ 32

end Sys2Proof.Machine
end

