-- ==== Sys2Proof/Machine/QuoinOps.lean ====
section
/-! DEFINITION. What the Quoins do (R401–R430): CAN FD messages, FALLBACK, safe-state decisions, fences, and the release
check of output records. -/
namespace Sys2Proof.Machine

/-! ### The two Quoins -/

def Dev.quoin (d : Dev) (q : Nat) : Quoin := if q = 0 then d.qn.a else d.qn.b
def Dev.setQuoin (d : Dev) (q : Nat) (x : Quoin) : Dev := if q = 0 then { d with qn := { d.qn with a := x } } else { d with qn := { d.qn with b := x } }
def Dev.modQuoin (d : Dev) (q : Nat) (f : Quoin → Quoin) : Dev := d.setQuoin q (f (d.quoin q))

/-- A Quoin whose firmware runs: SAFE or RUN. -/
def Quoin.live (x : Quoin) : Bool := x.powered && (x.st == .safe || x.st == .run)

/-- Do something at each Quoin that runs. -/
def Dev.eachQuoin (d : Dev) (f : Dev → Nat → Dev) : Dev :=
  let d1 := if d.qn.a.live then f d 0 else d
  if d1.qn.b.live then f d1 1 else d1

/-- The record of each mailbox whose Quoin runs. -/
def Dev.quoinEvent (d : Dev) (code sev a0 a1 : Nat) : Dev := d.eachQuoin (fun d q => d.emit (.qn q) code sev a0 a1)

/-- The reason behind an entry of a Quoin's list, and the code shown for it (R422). -/
def reasonEff (r : Nat) : Nat := r % 256
def reasonShown (r : Nat) : Nat := if r < 256 then r else 0x0A
def reasonStops (r : Nat) : Bool := [2, 3, 4, 5, 6, 8].contains (reasonEff r)
/-- Reasons that only a supply cycle or a reset leaves. -/
def reasonHard (r : Nat) : Bool := [3, 4, 5, 8, 9, 0x0B].contains (reasonEff r)
/-- The reason reported: one that only a supply cycle leaves stands over one that SAFE_EXIT leaves (R542); among equals the latest. -/
def shownReason (rs : List Nat) : Nat :=
  match (rs.filter reasonHard).getLast? with
  | some r => reasonShown r
  | none => (match rs.getLast? with
    | some r => reasonShown r
    | none => 0)
def Quoin.withReasons (x : Quoin) (rs : List Nat) : Quoin :=
  { x with reasons := rs, stopped := rs.any reasonStops, reason := shownReason rs }

/-- Is the package in safe state? A FAILED Quoin holds SELF_FAULT (R404, R422). -/
def Dev.inSafe (d : Dev) : Bool := d.qn.a.st == .safe || d.qn.b.st == .safe || d.qn.a.st == .failed || d.qn.b.st == .failed

/-! ### Streams -/

/-- An enabled entry of the table in force. -/
def Dev.streamCfg (d : Dev) (n : Nat) : Option StreamCfg :=
  match d.qn.table with
  | some t => (match t.entries[n]? with
    | some e => if e.enable then some e else none
    | none => none)
  | none => none
def Dev.stream (d : Dev) (n : Nat) : StreamSt := FMap.get StreamSt.reset d.qn.streams n
def Dev.setStream (d : Dev) (n : Nat) (x : StreamSt) : Dev := { d with qn := { d.qn with streams := FMap.set StreamSt.reset d.qn.streams n x } }
def Dev.modStream (d : Dev) (n : Nat) (f : StreamSt → StreamSt) : Dev := d.setStream n (f (d.stream n))
/-- Numbers of the enabled streams, with their entries. -/
def Dev.streamList (d : Dev) : List (Nat × StreamCfg) :=
  (List.range 64).filterMap (fun n => (d.streamCfg n).map (fun c => (n, c)))

/-- The FALLBACK bit of each stream. -/
def Dev.fallbackBits (d : Dev) : Nat := ((List.range 64).filter (fun n => (d.stream n).fallback)).foldl (fun a n => a + 2 ^ n) 0

/-- Charge a loss of availability to the cause that starts it (R427). -/
def Dev.charge (d : Dev) (k : Nat) : Dev := if d.qn.loss = 0 then { d with qn := { d.qn with loss := k } } else d

/-! ### CAN FD messages (R414, R425) -/

/-- BASE_ID of a Quoin. -/
def Dev.canBase (d : Dev) (q : Nat) : Nat := d.rf (QN_CAN_CFG2 q) 10 0

/-- The 64 data bytes: 58 bytes of content, the counter, a reserved byte and the CRC. -/
def canBytes (id : Nat) (content : List Byte) (counter : Nat) : List Byte :=
  let b := content.take 58 ++ List.replicate (58 - content.length) 0 ++ [BitVec.ofNat 8 counter, 0]
  b ++ leBytes 4 (crc32c (leBytes 2 (id % 2048) ++ b))

/-- Put a STATUS behind the messages of the stream being sent, any other message at the end. -/
def canInsert (queue : List CanMsg) (m : CanMsg) : List CanMsg :=
  if m.off = 0 then
    let k := match queue.findIdx? (·.last) with
      | some i => i + 1
      | none => queue.length
    queue.take k ++ (queue.drop k).takeWhile (fun x => x.off == 0) ++ [m] ++ (queue.drop k).dropWhile (fun x => x.off == 0)
  else queue ++ [m]

/-- Queue a message on both controllers of a Quoin; a controller in bus-off loses it (R428). -/
def Dev.canQueue (d : Dev) (q off stream : Nat) (last : Bool) (content : List Byte) : Dev :=
  let x := d.quoin q
  if !x.live then d
  else
    let n := FMap.get 0 x.counters off
    let m : CanMsg := { off := off, stream := stream, last := last, bytes := canBytes (d.canBase q + off) content n }
    let offA := bitOf x.busOff 0
    let offB := bitOf x.busOff 1
    let lost := (if offA then 1 else 0) + (if offB then 1 else 0)
    d.setQuoin q { x with counters := FMap.set 0 x.counters off ((n + 1) % 256),
                          canA := if offA then x.canA else canInsert x.canA m,
                          canB := if offB then x.canB else canInsert x.canB m,
                          canLost := min 255 (x.canLost + lost) }

/-- A STATUS message. -/
def Dev.statusMsg (d : Dev) (q : Nat) : Dev :=
  let x := d.quoin q
  let st := if x.st = .run then 0 else if x.stopped then 2 else 1
  d.canQueue q 0 0 true
    ([0x01, BitVec.ofNat 8 (0x0A + q), BitVec.ofNat 8 st, BitVec.ofNat 8 (if x.st = .run then 0 else x.reason)] ++
     leBytes 8 d.now ++ [BitVec.ofNat 8 d.plb.sync.code, 0] ++ leBytes 8 d.fallbackBits ++ leBytes 2 d.fences.length)
/-- STATUS from both Quoins after a change. -/
def Dev.statusBoth (d : Dev) : Dev := d.eachQuoin Dev.statusMsg

/-- A coordinate's offset from point 0 in centimetres, to nearest even; none where it does not fit (R425). -/
def cmOffset (a b : Nat) : Option Int :=
  match FV.mul (FV.add (f32.decode a) (f32.decode b).neg).1 (FV.ofInt 100) with
  | (.fin n m e, _) =>
    let x := signed n (roundGrid none m e 0)
    if x < -32768 ∨ 32767 < x then none else some x
  | _ => none

/-- The yaw field: units of 2π/65,536 to nearest even. -/
def canYaw (code : Nat) : Nat :=
  match ElemType.fmt .f16 |>.decode code with
  | .fin n m e =>
    let num : Nat := m * 65536 * (if 0 ≤ e then 2 ^ e.toNat else 1) * 2 ^ 400
    let den : Nat := twoPiNum * (if 0 ≤ e then 1 else 2 ^ (-e).toNat)
    let k := num / den
    let r := num % den
    let u : Nat := if den < 2 * r ∨ (2 * r = den ∧ k % 2 = 1) then k + 1 else k
    ((if n then -(u : Int) else (u : Int)) % 65536).toNat
  | _ => (Config.canField 0 code).toNat
/-- The speed field: units of 0.01 m/s to nearest even. -/
def canSpeed (code : Nat) : Nat :=
  match FV.mul ((ElemType.fmt .f16).decode code) (FV.ofInt 100) with
  | (.fin n m e, _) =>
    let x := roundGrid none m e 0
    if (n && x != 0) || decide (65535 < x) then (Config.canField 1 code).toNat else x
  | _ => (Config.canField 1 code).toNat

/-- The 8 bytes of a point, relative to point 0. -/
def canPoint (p0 p : Point) : Option (List Byte) :=
  match cmOffset p.pose.x p0.pose.x, cmOffset p.pose.y p0.pose.y with
  | some dx, some dy => some (leBytes 2 (wrap 16 dx) ++ leBytes 2 (wrap 16 dy) ++ leBytes 2 (canYaw p.yaw16) ++ leBytes 2 (canSpeed p.speed16))
  | _, _ => none
def canPoints (ps : List Point) : Option (List (List Byte)) :=
  match ps with
  | [] => some []
  | p0 :: _ => ps.mapM (canPoint p0)

/-! ### FALLBACK (R412–R415) -/

/-- The slot a Quoin would send, or the cause of STOP_NOW: 1 empty, 2 too old, 3 not encodable. -/
def Dev.slotFor (d : Dev) (q : Nat) (c : StreamCfg) : Except Nat (Slot × List (List Byte)) :=
  let x := d.quoin q
  match if FMap.get false x.slotBad c.slot then none else FMap.get none x.slots c.slot with
  | none => .error 1
  | some s =>
    if c.fbMaxAge * 1000000 + s.tStart < d.now then .error 2
    else match canPoints s.points with
      | some ps => .ok (s, ps)
      | none => .error 3

/-- The frames of six points each. -/
def pointFrames : Nat → Nat → List (List Byte) → List (Nat × List (List Byte))
  | 0, _, _ => []
  | f + 1, i, ps => if ps.isEmpty then [] else (i, ps.take 6) :: pointFrames f (i + 6) (ps.drop 6)

/-- A Quoin's messages for one stream. -/
def Dev.canFallback (d : Dev) (q n : Nat) (c : StreamCfg) : Dev :=
  let st := d.stream n
  match d.slotFor q c with
  | .error k => d.canQueue q 3 n true [0x04, BitVec.ofNat 8 n, BitVec.ofNat 8 k]
  | .ok (s, ps) =>
    let p0 := s.points.headD ⟨⟨0, 0, 0⟩, 0, 0, 0⟩
    let d1 := d.canQueue q 1 n ps.isEmpty
      ([0x02, BitVec.ofNat 8 n, BitVec.ofNat 8 c.slot, BitVec.ofNat 8 ps.length] ++ leBytes 8 s.tStart ++ leBytes 4 s.dt ++
       leBytes 4 p0.pose.x ++ leBytes 4 p0.pose.y ++ leBytes 2 s.epoch ++ leBytes 4 st.failedSeq ++ [BitVec.ofNat 8 st.reason])
    (pointFrames ps.length 0 ps).foldl (fun d f =>
      d.canQueue q 2 n (decide (ps.length ≤ f.1 + 6))
        ([0x03, BitVec.ofNat 8 n, BitVec.ofNat 8 f.1, BitVec.ofNat 8 f.2.length, 0, 0, 0, 0] ++ f.2.flatten)) d1

/-- The Ethernet frame of a record fragment (R376), padded to the minimum length. -/
def recordFrame (mac : Nat) (c : StreamCfg) (n idx cnt seq ns : Nat) (bs : List Byte) : List Byte :=
  let f := leBytes 6 c.dest ++ leBytes 6 mac ++ [0x81, 0x00] ++ beBytes 2 c.vlan ++ [0x88, 0xB5, 0x01, BitVec.ofNat 8 n,
    BitVec.ofNat 8 (16 * idx + cnt), 0, 0, 0] ++ leBytes 4 seq ++ leBytes 8 ns ++ bs
  f ++ List.replicate (60 - f.length) 0
def Dev.macOf (d : Dev) (p : Nat) : Nat := d.rn (ethKey p 0x1C) + 2 ^ 32 * (d.rn (ethKey p 0x20) % 65536)
/-- Send a record's bytes on its port in fragments of up to 1,472 bytes; a port whose link is down sends nothing. -/
def Dev.sendRecord (d : Dev) (n : Nat) (c : StreamCfg) (seq ns : Nat) (bs : List Byte) : Dev :=
  let cnt := (bs.length + 1471) / 1472
  if !(FMap.get EthPort.reset d.eth c.port).link then d
  else (List.range cnt).foldl (fun d i =>
    d.put (.eth c.port (recordFrame (d.macOf c.port) c n i (cnt - 1) seq ns ((bs.drop (1472 * i)).take 1472)))) d

/-- The fallback record of R415. -/
def fallbackRecord (n : Nat) (c : StreamCfg) (st : StreamSt) (now : Nat) (r : Except Nat (Slot × List (List Byte))) : List Byte :=
  let (s, cause) : Slot × Nat := match r with
    | .ok (s, _) => (s, 0)
    | .error k => (⟨[], 0, 0, 0⟩, k)
  leBytes 4 (0x41000000 + st.reason * 65536) ++ [0x01, BitVec.ofNat 8 n, 0, 0] ++ leBytes 4 st.failedSeq ++ List.replicate 12 0 ++
  leBytes 8 now ++ List.replicate 32 0 ++ [BitVec.ofNat 8 c.slot, BitVec.ofNat 8 s.points.length] ++ leBytes 2 s.epoch ++
  [BitVec.ofNat 8 cause, 0, 0, 0] ++ leBytes 8 s.tStart ++ leBytes 4 s.dt ++ List.replicate 12 0 ++ s.points.flatMap Point.bytes

/-- Send a stream's fallback on every channel (R413, R415). Answers whether a STOP_NOW was sent. -/
def Dev.sendFallback (d : Dev) (n : Nat) (c : StreamCfg) : Dev × Bool :=
  let stop (q : Nat) : Bool := match d.slotFor q c with
    | .ok _ => false
    | .error _ => true
  let age (q : Nat) : Nat := match FMap.get none (d.quoin q).slots c.slot with
    | some s => min 0xFFFFFFFF ((d.now - s.tStart) / 1000)
    | none => 0xFFFFFFFF
  let d1 := d.eachQuoin (fun d q =>
    (d.canFallback q n c).emit (.qn q) 0x0B06 3 (n + 256 * c.slot + (if stop q then 65536 else 0)) (age q))
  let d2 := if c.tx && (d.qn.a.live || d.qn.b.live) then
      d1.sendRecord n c (d.stream n).failedSeq d.now (fallbackRecord n c (d.stream n) d.now (d.slotFor (if d.qn.a.live then 0 else 1) c))
    else d1
  (d2, (d.qn.a.live && stop 0) || (d.qn.b.live && stop 1))

/-- A SAFETY stream enters FALLBACK: once per stay (R412, R413). Answers whether a STOP_NOW was sent. -/
def Dev.enterFallback (d : Dev) (n reason seq : Nat) : Dev × Bool :=
  match d.streamCfg n with
  | some c =>
    if !c.safety || (d.stream n).fallback then (d, false)
    else (d.modStream n (fun s => { s with fallback := true, reason := reason, failedSeq := seq })).sendFallback n c
  | none => (d, false)

/-! ### Safe state (R422, R423) -/

/-- Rewrite a record's validity word (R16). -/
def validity (state reason epoch : Nat) : List Byte := leBytes 4 (state * 2 ^ 28 + 2 ^ 24 + reason * 65536 + epoch * 256)
def Dev.putValidity (d : Dev) (a state reason : Nat) : Dev := d.wr View.plain a (validity state reason 0)

/-- What the release loss of a reason is charged to (R427). -/
def lossOf (reason : Nat) (storage : Bool) : Nat :=
  if reason = 0x07 ∨ reason = 0x05 ∨ reason = 0x0B then 1 else if reason = 0x02 ∧ storage then 1 else 2
def safeLoss (reason : Nat) : Nat :=
  if [3, 4, 9, 0x0B, 7].contains reason then 1 else if [1, 2, 0x0D].contains reason then 3 else 2

/-- Add a reason at one Quoin, and report it. -/
def Dev.addReason (d : Dev) (q r : Nat) (decider : Nat) : Dev :=
  let x := d.quoin q
  if !x.live || x.reasons.any (fun y => reasonEff y == reasonEff r) then d
  else
    let x1 := if x.st = .run then { x with st := .safe, safeCount := min 0xFFFFFFFF (x.safeCount + 1), safeTick := d.ticks, exitAsked := false } else x
    ((d.charge (safeLoss (reasonEff r))).setQuoin q (x1.withReasons (x1.reasons ++ [r]))).emit (.qn q) 0x0B01 3 (reasonShown r) (12 + decider)

/-- Every SAFETY stream's open or unchecked record is INVALID, and the stream in FALLBACK (R423 steps 2 and 5). Answers whether
a STOP_NOW was sent. -/
def Dev.safeStreams (d : Dev) : Dev × Bool :=
  d.streamList.foldl (fun (d, stop) p =>
    if !p.2.safety then (d, stop)
    else
      let st := d.stream p.1
      let seq := match st.check with
        | some k => k.seq
        | none => leNat (d.rd View.plain (p.2.record + 8) 4)
      let bad := (st.opened.isSome && !st.dead) || st.check.isSome
      let d1 := if bad then
          ((d.putValidity p.2.record 2 0x0D).modStream p.1 (fun s => { s with dead := s.opened.isSome, check := none, lastReason := 0x0D })).quoinEvent
            0x0B05 2 (p.1 + 256 * 0x0D) seq
        else d
      let r := d1.enterFallback p.1 0x0D (if bad then seq else 0xFFFFFFFF)
      (r.1, stop || r.2)) (d, false)

/-- Quoin `q` decides a safe state; a STOP_NOW that this sends is a further reason. -/
def Dev.decideSafe (d : Dev) (q reason : Nat) : Dev :=
  if !(d.quoin q).live then d
  else
    let r := (d.addReason q reason q).safeStreams
    (if r.2 then r.1.addReason q 0x0C q else r.1).statusMsg q
/-- Both decide, each for itself. -/
def Dev.decideBoth (d : Dev) (reason : Nat) : Dev := (d.decideSafe 0 reason).decideSafe 1 reason

/-- A stream enters FALLBACK for a reason of R412; a STOP_NOW is a safe state of its own (R422). -/
def Dev.fallback (d : Dev) (n reason seq : Nat) (storage : Bool) : Dev :=
  match d.streamCfg n with
  | some c =>
    if !c.safety || (d.stream n).fallback then d
    else
      let r := (d.charge (lossOf reason storage)).enterFallback n reason seq
      let d1 := r.1.statusBoth
      if r.2 then d1.decideBoth 0x0C else d1
  | none => d

/-! ### Fences (R417, R418) -/

/-- A Quoin declares a unit fenced; cause 1 heartbeat, 2 test, 3 unit report. The Keystone applies it. -/
def Dev.declareFence (d : Dev) (q u cause : Nat) : Dev :=
  let x := d.quoin q
  if !x.live || FMap.get false x.fences u then d
  else (((d.setQuoin q { x with fences := FMap.set false x.fences u true }).emit (.qn q) 0x0B03 3 u cause).setFence u).statusMsg q
def Dev.declareBoth (d : Dev) (u cause : Nat) : Dev := (d.declareFence 0 u cause).declareFence 1 u cause

/-! ### Records (R407–R411) -/

/-- Open the records that a starting job's bindings name (R408). -/
def Dev.openRecords (d : Dev) (c : Nat) : Dev :=
  let addrs := (d.ctx c).inv.bindings.map (fun b => b.2.1)
  d.streamList.foldl (fun d p =>
    if addrs.contains p.2.record then
      ((d.wr (d.viewOf c) p.2.record (validity 0 0 0)).wr (d.viewOf c) (p.2.record + 0x18) (List.replicate 8 0)).modStream p.1
        (fun s => { s with opened := some c, dead := false })
    else d) d

/-- Does an INVOKE bind a record that is open in another context (R408)? -/
def Dev.recordBusy (d : Dev) (c : Nat) (bindings : List (Nat × Nat × Nat)) : Bool :=
  d.streamList.any (fun p => bindings.any (fun b => b.2.1 == p.2.record) && (match (d.stream p.1).opened with
    | some c' => c' != c
    | none => false))

/-- A record fails: rewritten INVALID, reported with every reason in the order of R19, its stream in FALLBACK (R409, R412). -/
def sortReasons (rs : List Nat) : List Nat :=
  rs.foldl (fun acc r => if acc.contains r then acc else
    acc.takeWhile (fun x => decide (reasonRank x < reasonRank r)) ++ [r] ++ acc.dropWhile (fun x => decide (reasonRank x < reasonRank r))) []
def Dev.failRecord (d : Dev) (n : Nat) (rs : List Nat) (seq : Nat) (storage : Bool) : Dev :=
  match d.streamCfg n, sortReasons rs with
  | some c, r :: more =>
    let d1 := (d.putValidity c.record 2 r).modStream n (fun s => { s with check := none, lastReason := r })
    ((r :: more).foldl (fun d x => d.quoinEvent 0x0B05 2 (n + 256 * x) seq) d1).fallback n r seq storage
  | _, _ => d.modStream n (fun s => { s with check := none })

/-- A job that ends without closing its records (R32): after a failure they carry its status. -/
def Dev.closeUnclosed (d : Dev) (c : Nat) (status : Nat) (storage : Bool) : Dev :=
  d.streamList.foldl (fun d p =>
    let st := d.stream p.1
    if st.opened != some c then d
    else
      let d1 := d.modStream p.1 (fun s => { s with opened := none, dead := false })
      if st.dead || status == 0 then d1
      else d1.failRecord p.1 ((if p.2.safety && d.inSafe then [0x0D] else []) ++ [status]) (leNat (d.rd (d.viewOf c) (p.2.record + 8) 4)) storage) d

/-- May job code write this REASON with STATE INVALID (R408)? -/
def jobReason (r : Nat) : Bool := (decide (1 ≤ r) && decide (r ≤ 0x0E)) || decide (0xC0 ≤ r)

/-- The job of context `c` has completed a write over the validity word of the stream's record: the record closes. `w` is the
word the write carried. -/
def Dev.closeRecord (d : Dev) (n : Nat) (c : Nat) (w : Nat) : Dev :=
  match d.streamCfg n with
  | some cfg =>
    let st := d.stream n
    let x := d.ctx c
    let hd := d.rd (d.viewOf c) cfg.record 64
    let state := w / 2 ^ 28
    let reason := w / 65536 % 256
    let valid := state == 1 && reason == 0
    let e := x.inv.writeEpoch
    let open_ := !x.noEpoch && e != 0 && (d.epoch e).state == .opened
    let d1 := if open_ then d.wr (d.viewOf c) cfg.record (validity 3 0 e) else d
    if st.dead then (d1.putValidity cfg.record 2 0x0D).modStream n (fun s => { s with opened := none, dead := false })
    else
      let k : RecordCheck :=
        { ctx := c, clusters := x.inv.clusters, engines := x.inv.engines, part := x.part, cairn := x.usedCairn, mismatch := x.mismatched,
          spec := open_,
          malformed := hd.getD 4 0 != 1 || (hd.getD 5 0).toNat != n || !zeroAt hd 6 2 || !zeroAt hd 0xC 4 || !zeroAt hd 0x20 32 ||
            w / 2 ^ 24 % 16 != 1 || w % 65536 != 0 || x.part != cfg.part,
          valid := valid, reason := if state = 2 ∧ jobReason reason then reason else 0x04, seq := fieldAt hd 8 4, oldest := fieldAt hd 0x10 8,
          verdictA := none, verdictB := none, since := d.ticks }
      d1.modStream n (fun s => { s with opened := none, check := some k })
  | none => d

/-- A contributing resource is fenced (R409). -/
def Dev.contributorFenced (d : Dev) (cfg : StreamCfg) (k : RecordCheck) : Bool :=
  (coresOf k.clusters).any d.coreFenced || (enginesOf k.engines).any (fun p => d.engFenced p.1 p.2) ||
  (k.cairn && d.fenced cairnUnit) ||
  (linesOf cfg.record cfg.size).any (fun l => match (placeOf d.hw (d.served (64 * l))).die with
    | some n => d.dieFenced n
    | none => false)

/-- The reasons a Quoin finds against a record closed VALID (R409, R410). -/
def Dev.recordFaults (d : Dev) (cfg : StreamCfg) (k : RecordCheck) : List Nat :=
  (if cfg.safety && d.inSafe then [0x0D] else []) ++
  (if k.mismatch then [0x07] else []) ++
  (if d.contributorFenced cfg k then [0x05] else []) ++
  (if (d.poisonedIn View.plain cfg.record cfg.size).isSome || d.fencedIn cfg.record cfg.size then [0x0B] else []) ++
  (if decide (k.oldest + cfg.ageLimit * 10000 < d.now) || (cfg.sync && (d.plb.sync == .freeRun || d.plb.sync == .acquiring)) then [0x80] else []) ++
  (if k.spec then [0x81] else []) ++
  (if k.malformed then [0x04] else [])

end Sys2Proof.Machine
end

