-- ==== Sys2Proof/Machine/MemOps.lean ====
section
/-! DEFINITION. What the memory system does (R310–R330): errors and poisoned lines, retiring a layer, migration, mirrors,
and the bandwidth regulator's admission and cuts (R331–R337). -/
namespace Sys2Proof.Machine

/-- The controller block of a stack. -/
def smcOf (s : Nat) : Block := .smc (s / 2) (s % 2)
/-- The block that serves an address. -/
def Dev.memBlock (d : Dev) (a : Nat) : Block :=
  match placeOf d.hw a with
  | .mortar n => .mrt n
  | _ => smcOf (d.stackOf a).1

/-! ### Layers a range meets -/

/-- Stack and layer pairs that a DRAM range on one die meets (R36, R310). -/
def Dev.layersOf (d : Dev) (a n : Nat) : List (Nat × Nat) :=
  if n = 0 then []
  else
    let die := a / dramDie
    let o := a % dramDie
    let e := (a + n - 1) % dramDie
    if d.linear die then
      (List.range (e / 2 ^ 31 - o / 2 ^ 31 + 1)).map (fun i => let k := o / 2 ^ 31 + i; (2 * die + k / 8 % 2, k % 8))
    else
      let one := o / 4096 == e / 4096
      (List.range (e / 2 ^ 32 - o / 2 ^ 32 + 1)).flatMap (fun i =>
        let l := (o / 2 ^ 32 + i) % 8
        if one then [(2 * die + o / 4096 % 2, l)] else [(2 * die, l), (2 * die + 1, l)])

def Dev.layerSt (d : Dev) (s l : Nat) : LayerSt := (d.stack s).layers.getD l .inService
def Dev.setLayer (d : Dev) (s l : Nat) (x : LayerSt) : Dev := let st := d.stack s; d.setStack s { st with layers := st.layers.set l x }

/-- Is some part of a range on a fenced die or layer? -/
def Dev.rangeLost (d : Dev) (a n : Nat) : Bool :=
  match placeOf d.hw a with
  | .dram k => d.dieFenced k || (d.layersOf a n).any (fun p => d.layerSt p.1 p.2 == .fenced)
  | .mortar k => d.dieFenced k
  | _ => false

/-! ### Mirrors (R323–R326) -/

def regionArg (key : Nat) : Nat := key % 16 + 16 * (key / 16 % 16)
/-- A region's state changes because one of its copies is lost. -/
def Dev.mirrorTo (d : Dev) (key : Nat) (m : Mirror) (st : MirrorSt) : Dev :=
  if m.st = st then d
  else
    let die := match st with
      | .copyOnly => m.copy / dramDie
      | _ => m.base / dramDie
    { d with mirrors := FMap.set none d.mirrors key (some { m with st := st, since := d.ticks }) }.emit (.mrt die) 0x0707 2 (regionArg key) st.code

/-- The state of a region whose sides are lost as given (R325). -/
def mirrorAfter (st : MirrorSt) (primary copy : Bool) : MirrorSt :=
  match st with
  | .mirrored => if copy then .primaryOnly else if primary then .copyOnly else st
  | .resync fromCopy => if copy then .primaryOnly else if primary then (if fromCopy then .copyOnly else .primaryOnly) else st
  | st => st

/-- Apply fences of dies and layers to every MIRROR region. -/
def Dev.mirrorsLost (d : Dev) : Dev :=
  d.mirrors.foldl (fun d e => match e.2 with
    | some m => d.mirrorTo e.1 m (mirrorAfter m.st (d.rangeLost m.base m.bytes) (d.rangeLost m.copy m.bytes))
    | none => d) d

/-- A readable side comes back: the region resyncs from the other (R325). -/
def Dev.mirrorsBack (d : Dev) : Dev :=
  d.mirrors.foldl (fun d e => match e.2 with
    | some m =>
      if d.rangeLost m.base m.bytes || d.rangeLost m.copy m.bytes then d
      else match m.st with
        | .primaryOnly => { d with mirrors := FMap.set none d.mirrors e.1 (some { m with st := .resync false, since := d.ticks }) }
        | .copyOnly => { d with mirrors := FMap.set none d.mirrors e.1 (some { m with st := .resync true, since := d.ticks }) }
        | _ => d
    | none => d) d

/-- Copy a range byte for byte, its poison, and the confirmed version of its tagged lines. -/
def Dev.copyRange (d : Dev) (src dst n : Nat) : Dev :=
  let d1 := if d.dramGen.isEmpty then
      let kept := FMap.keep (fun k _ => !(decide (dst ≤ k) && decide (k < dst + n))) d.mem
      { d with mem := (d.mem.filter (fun e => decide (src ≤ e.1) && decide (e.1 < src + n))).foldl (fun m e => FMap.set 0 m (dst + (e.1 - src)) e.2) kept }
    else (List.range n).foldl (fun e i => e.setCell (dst + i) (d.cell (src + i))) d
  let old := FMap.keep (fun k _ => !(decide (dst / 64 ≤ k) && decide (k < (dst + n) / 64))) d1.poison
  let marks := d1.poison.filter (fun e => decide (src / 64 ≤ e.1) && decide (e.1 < (src + n) / 64))
  let d2 := { d1 with poison := marks.foldl (fun m e => FMap.set false m (dst / 64 + (e.1 - src / 64)) true) old }
  (d.tags.filter (fun e => decide (src / 64 ≤ e.1) && decide (e.1 < (src + n) / 64))).foldl
    (fun e t => e.setCells (dst + 64 * (t.1 - src / 64)) (FMap.get [] d.shadow t.1)) d2

/-- RESYNC_COMPLETE: the region's copies hold the same bytes. -/
def Dev.resyncDone (d : Dev) (key : Nat) : Dev :=
  match FMap.get none d.mirrors key with
  | some m => (match m.st with
    | .resync fromCopy =>
      let d1 := if fromCopy then d.copyRange m.copy m.base m.bytes else d.copyRange m.base m.copy m.bytes
      { d1 with mirrors := FMap.set none d1.mirrors key (some { m with st := .mirrored }) }.emit (.mrt (m.base / dramDie)) 0x0708 0 (regionArg key)
        ((d.ticks - m.since) / 400)
    | _ => d)
  | none => d

/-- The reserve of a die: base and bytes (R323). -/
def Dev.reserve (d : Dev) (n : Nat) : Nat × Nat := (d.rpair (MRT_MIRROR_BASE_LO n) (MRT_MIRROR_BASE_HI n), 4096 * d.rn (MRT_MIRROR_SIZE n))
/-- Copies allocated in a list of mirrors: base and bytes. -/
def copiesOf (ms : FMap (Option Mirror)) : List (Nat × Nat) :=
  ms.filterMap (fun e => e.2.map (fun m => (m.copy, m.bytes)))
/-- The lowest address of the partner's reserve where a copy fits (R324). -/
def Dev.mirrorPlace (d : Dev) (ms : FMap (Option Mirror)) (g : Region) : Option Nat :=
  let die := g.base / dramDie
  if d.hw.dies ≤ die ∨ g.base / dramDie ≠ (g.base + g.bytes - 1) / dramDie then none
  else
    let r := d.reserve (mirrorPartner d.hw die)
    let used := copiesOf ms
    let fits (a : Nat) : Bool := decide (r.1 ≤ a) && decide (a + g.bytes ≤ r.1 + r.2) && !used.any (fun u => overlaps a g.bytes u.1 u.2)
    (r.1 :: used.map (fun u => u.1 + u.2)).foldl (fun best a =>
      if fits a && (match best with
        | some b => decide (a < b)
        | none => true) then some a else best) none

/-- The mirrors a partition's entry asks for, allocated region by region; none when one does not fit. Answers the new map. -/
def Dev.mirrorsFor (d : Dev) (p : Part) (ms : FMap (Option Mirror)) : Option (FMap (Option Mirror)) :=
  (List.range 16).foldl (fun acc j => acc.bind (fun ms =>
    match p.regions[j]? with
    | some g =>
      if g.kind = 1 ∧ g.mirror ∧ 0 < g.size then
        (d.mirrorPlace ms g).map (fun a => FMap.set none ms (16 * p.index + j)
          (some { base := g.base, bytes := g.bytes, copy := a, st := .resync false, since := d.ticks }))
      else some ms
    | none => some ms)) (some ms)
/-- The mirrors without those of partition `p`. -/
def mirrorsWithout (ms : FMap (Option Mirror)) (p : Nat) : FMap (Option Mirror) := FMap.keep (fun k _ => k / 16 != p) ms

/-! ### Layers (R318–R321) -/

def layerUnit (s l : Nat) : Nat := unitNo (s / 2) 4 (8 * (s % 2) + l)

/-- A layer becomes FENCED; `failed` when the spare failed with it. -/
def Dev.fenceLayer (d : Dev) (s l : Nat) (failed : Bool) : Dev :=
  let st := d.stack s
  let d1 := (d.setStack s { st with layers := st.layers.set l .fenced, spare := if failed then .failed else st.spare })
  let d2 := (d1.emit (smcOf s) 0x0705 3 l (if failed then 1 else 0)).declareBoth (layerUnit s l) 3
  ({ d2 with newFences := d2.newFences ++ [layerUnit s l] } : Dev).mirrorsLost

/-- Retire a layer (R316, R318). `inSpare`: the error is in the spare. -/
def Dev.retire (d : Dev) (s l : Nat) (inSpare : Bool) : Dev :=
  let st := d.stack s
  match st.layers.getD l .inService with
  | .inService =>
    if st.spare = .free then
      let d1 := d.setStack s { st with layers := st.layers.set l .migrating, spare := .migrating, spareLayer := l, mig := 0, migStart := d.ticks }
      (d1.emit (smcOf s) 0x0703 1 l st.spare.code).declareBoth (layerUnit s l) 3
    else d.fenceLayer s l false
  | .migrating => if inSpare then d.fenceLayer s l true else d
  | .spared => d.fenceLayer s l true
  | .fenced => d

/-- Does the address fall into the part of a migrating layer already in the spare, or into a spared layer? -/
def Dev.inSpare (d : Dev) (a : Nat) : Bool :=
  let sa := d.stackOf a
  let st := d.stack sa.1
  match st.layers.getD (layerOf sa.2) .inService with
  | .spared => true
  | .migrating => decide (sa.2 % 2 ^ 31 / 4096 < st.mig)
  | _ => false

/-- MIGRATION_UNIT_COPIED: one more 4 KiB unit; the last makes the layer SPARED. -/
def Dev.unitCopied (d : Dev) (s : Nat) (spareUe : Bool) : Dev :=
  let st := d.stack s
  if st.spare ≠ .migrating then d
  else if spareUe then d.retire s st.spareLayer true
  else if st.mig + 1 < 524288 then d.setStack s { st with mig := st.mig + 1 }
  else (d.setStack s { st with mig := 524288, spare := .inUse, layers := st.layers.set st.spareLayer .spared }).emit (smcOf s) 0x0704 1 st.spareLayer
    ((d.ticks - st.migStart) / 400)

/-! ### Errors and poison (R315–R317) -/

/-- Count a corrected error of a layer; the threshold within 1 s is reported. -/
def Dev.countCe (d : Dev) (s l : Nat) : Dev :=
  let st := d.stack s
  let ts := d.ticks :: (FMap.get [] st.ceTicks l).filter (fun t => decide (d.ticks < t + 400000000))
  let d1 := ((d.setStack s { st with ceTicks := FMap.set [] st.ceTicks l ts }).orBits (SMC_ERR_STATUS (s / 2) (s % 2)) 1).bump
    (SMC_LAYER_CE (s / 2) (s % 2) l) 1
  if ts.length = d.rf (SMC_CE_THRESHOLD (s / 2) (s % 2)) 15 0 then d1.emit (smcOf s) 0x0701 1 l ts.length else d1

/-- Poison a line of DRAM, counted at its controller, or of Mortar. -/
def Dev.poisonAt (d : Dev) (a : Nat) : Dev :=
  let d1 := d.poisonLine (a / 64)
  match placeOf d.hw a with
  | .dram _ => let s := (d.stackOf a).1; d1.bump (SMC_POISON_COUNT (s / 2) (s % 2)) 1
  | _ => d1

/-- Record an uncorrectable error of a stack: data, or (R312) a command. -/
def Dev.recordUe (d : Dev) (s sa : Nat) (cmd : Bool) : Dev :=
  let n := s / 2
  let i := s % 2
  (((d.orBits (SMC_ERR_STATUS n i) (if cmd then 4 else 2)).setNat (SMC_UE_ADDR_LO n i) (sa % 2 ^ 32)).setNat (SMC_UE_ADDR_HI n i) (sa / 2 ^ 32 + 2 ^ 31)).emit
    (smcOf s) 0x0702 2 (sa % 2 ^ 32) (sa / 2 ^ 32 + 256 * layerOf sa + (if cmd then 65536 else 0))

/-- An ECC event of a read of device memory. -/
def Dev.memEvent (d : Dev) (e : MemEvent) : Dev :=
  let a := d.served e.addr
  match placeOf d.hw a with
  | .mortar n =>
    if e.ue then
      ((d.orBits (MRT_ERR_STATUS n) 2).emit (.mrt n) 0x0702 2 (a % 2 ^ 32) (2 ^ 17)).poisonAt a
    else ((d.orBits (MRT_ERR_STATUS n) 1).bump (MRT_CE_COUNT n) 1).blkCount (.mrt n) 6 1
  | .dram _ =>
    let sa := d.stackOf a
    if e.ue then
      let d1 := d.recordUe sa.1 sa.2 false
      let mirrored := match d.mirrorAt e.addr with
        | some (_, m) => if m.st = .mirrored then some (m.copy + (e.addr - m.base)) else none
        | none => none
      let d2 := match mirrored with
        | some c => if e.copyUe then (d1.poisonAt a).poisonAt c else d1
        | none => d1.poisonAt a
      d2.retire sa.1 (layerOf sa.2) (d.inSpare a)
    else d.countCe sa.1 (layerOf sa.2)
  | _ => d
/-- The events of a read that lie in the range read. -/
def Dev.memEvents (d : Dev) (a n : Nat) (es : List MemEvent) : Dev :=
  (es.filter (fun e => decide (a ≤ e.addr) && decide (e.addr < a + n))).foldl Dev.memEvent d

/-- A poisoned read is reported once per line per major frame (R317). -/
def Dev.tellPoison (d : Dev) (l : Nat) : Dev :=
  let a := 64 * l
  let d1 := match placeOf d.hw (d.served a) with
    | .dram _ => let s := (d.stackOf (d.served a)).1; d.orBits (SMC_ERR_STATUS (s / 2) (s % 2)) 8
    | _ => d
  if FMap.get false d.poisonTold l then d1
  else
    let m := match placeOf d.hw a with
      | .mortar _ => 2 ^ 31
      | _ => 0
    { d1 with poisonTold := FMap.set false d1.poisonTold l true }.emit (d.memBlock (d.served a)) 0x0706 2 (a % 2 ^ 32) (a / 2 ^ 32 + m)

/-- The teardown status a context's access meets, in fenced memory or on a poisoned line it reads (R149, R317, R320). -/
def Dev.accessStatus (d : Dev) (v : View) (a n : Nat) (read : Bool) : Option (BitVec 8) :=
  if (linesOf a n).any (fun l => match (placeOf d.hw (d.served (64 * l))).die with
      | some k => d.dieFenced k
      | none => false) then some stFencedResource
  else if d.fencedIn a n then some stMemoryUncorrectable
  else if read && (d.poisonedIn v a n).isSome then some stMemoryUncorrectable
  else none
/-- The record of a context's poisoned read. -/
def Dev.noteRead (d : Dev) (v : View) (a n : Nat) : Dev :=
  match d.poisonedIn v a n with
  | some l => d.tellPoison l
  | none => d

/-! ### Regulation (R331–R337) -/

/-- Admission capacity of a stack (R335). -/
def Dev.admitCap (d : Dev) (s : Nat) : Nat :=
  if d.hw.dies ≤ s / 2 ∨ d.dieFenced (s / 2) then 0
  else 7680 * (8 - ((d.stack s).layers.filter (· == .fenced)).length) / 8
def Dev.diePower (d : Dev) (n : Nat) : DiePower := FMap.get DiePower.reset d.pwr.dies n
/-- The stack throttle: quarters of capacity, by the junction of the die beneath, and a half in a flow stop (R337, R474). -/
def Dev.capQuarters (d : Dev) (s : Nat) : Nat :=
  let p := d.diePower (s / 2)
  if d.pwr.flowStop then 2 else if !p.known then 4 else if 105 * 16 < p.junction then 2 else if 95 * 16 < p.junction then 3 else 4
def Dev.stackCap (d : Dev) (s : Nat) : Nat := d.admitCap s * d.capQuarters s / 4

/-- Starts of the compute and test figures, with the classes of the partition of each figure open there. -/
def classesAt (cls : Nat → Nat) (q : Quadrille) (t : Nat) : Nat :=
  (q.figures.filter (fun f => f.type != 2 && decide (f.start ≤ t) && decide (t < f.start + f.length))).foldl (fun m f => m ||| cls f.part) 0
def loadAt (rt : Nat) (g : Nat → Nat) (mask : Nat) : Nat := rt + ((List.range 16).map (fun k => if bitOf mask k then g k else 0)).sum

/-- Is the load of every figure start within the admission capacity of every stack (R336)? -/
def Dev.admits (d : Dev) (q : Quadrille) (cls : Nat → Nat) (rt : Nat → Nat) (g : Nat → Nat → Nat) : Bool :=
  (List.range (2 * d.hw.dies)).all (fun s => d.admitCap s == 0 ||
    q.figures.all (fun f => decide (loadAt (rt s) (fun k => g k s) (classesAt cls q f.start) ≤ d.admitCap s)))

/-- The staged values (R334): guarantee of class k on stack s, and the reserve. -/
def Dev.stagedG (d : Dev) (k s : Nat) : Nat := let v := d.rn (BWR_BUDGET (8 * k + s)); if bitOf v 31 then v % 2 ^ 14 else 0
def Dev.stagedRt (d : Dev) (s : Nat) : Nat := d.rn (BWR_RT_RESERVE s) % 2 ^ 14
/-- BW_CLASSES of a partition in force. -/
def Dev.bwClasses (d : Dev) (p : Nat) : Nat := match d.part p with
  | some x => x.bwClasses
  | none => 0

/-- Copy the staged values into force at a switch. -/
def Dev.stageBw (d : Dev) : Dev :=
  let keys := List.range 128
  { d with bw := { d.bw with gSet := keys.foldl (fun m i => FMap.set 0 m i (d.stagedG (i / 8) (i % 8))) [],
                             gForce := keys.foldl (fun m i => FMap.set 0 m i (d.stagedG (i / 8) (i % 8))) [],
                             budget := keys.foldl (fun m i => FMap.set 0 m i (d.rn (BWR_BUDGET i) % 2 ^ 14)) [],
                             rt := (List.range 8).foldl (fun m s => FMap.set 0 m s (d.stagedRt s)) [] } }

/-- Highest partition class that lists a bandwidth class, and the lowest such partition's index (R337). -/
def Dev.criticality (d : Dev) (k : Nat) : Option (Nat × Nat) :=
  (List.range 16).foldl (fun best p => match d.part p with
    | some x => if bitOf x.bwClasses k && (match best with
        | some b => decide (b.1 < x.cls)
        | none => true) then some (x.cls, p) else best
    | none => best) none

/-- Classes that may be cut, in the order in which they are: QM, A, B; within a class the lowest rank (highest index) first. -/
def Dev.cutOrder (d : Dev) : List Nat :=
  let ks := (List.range 16).filterMap (fun k => match d.criticality k with
    | some (c, p) => if c < 3 then some (k, c * 16 + (15 - p)) else none
    | none => some (k, 0))
  (List.range 64).flatMap (fun r => (ks.filter (fun x => x.2 == r)).map (·.1))

/-- The greatest load of the running Quadrille over figure starts where class `k` (or any class, for 16) is active. -/
def Dev.maxLoad (d : Dev) (s : Nat) (g : Nat → Nat) (k : Nat) : Nat :=
  match d.jfe.quad with
  | some q => q.figures.foldl (fun m f =>
      let mask := classesAt d.bwClasses q f.start
      if k = 16 ∨ bitOf mask k then max m (loadAt (FMap.get 0 d.bw.rt s) g mask) else m) 0
  | none => 0

/-- Recompute one stack's guarantees (R337), and report what changed. -/
def Dev.recomputeStack (d : Dev) (s : Nat) : Dev :=
  let cap := d.stackCap s
  let g0 : FMap Nat := (List.range 16).foldl (fun m k => FMap.set 0 m k (FMap.get 0 d.bw.gSet (8 * k + s))) []
  let g := d.cutOrder.foldl (fun m k =>
    let load := d.maxLoad s (fun j => FMap.get 0 m j) k
    if cap < load then FMap.set 0 m k (FMap.get 0 m k - (load - cap)) else m) g0
  let crit := decide (cap < d.maxLoad s (fun j => FMap.get 0 g j) 16)
  let old := d.bw
  let d1 := { d with bw := { old with gForce := (List.range 16).foldl (fun m k => FMap.set 0 m (8 * k + s) (FMap.get 0 g k)) old.gForce,
                                      capacity := FMap.set 0 old.capacity s cap, critical := FMap.set false old.critical s crit } }
  let d2 := (List.range 16).foldl (fun d k =>
    let was := FMap.get 0 old.gForce (8 * k + s)
    let is := FMap.get 0 g k
    if is = was then d else d.emit .bwr (if is < was then 0x0801 else 0x0802) (if is < was then 1 else 0) (k + 256 * s)
      (is + 65536 * FMap.get 0 old.gSet (8 * k + s))) d1
  let wasCrit := FMap.get false old.critical s
  if crit = wasCrit then d2
  else
    let load := (List.range 16).foldl (fun a k => match d.criticality k with
      | some (c, _) => if 3 ≤ c then a + FMap.get 0 old.gSet (8 * k + s) else a
      | none => a) (FMap.get 0 old.rt s)
    let d3 := d2.emit .bwr 0x0803 3 (s + (if crit then 2 ^ 31 else 0)) (cap % 2 ^ 14 + 65536 * (load % 2 ^ 14))
    let any := (List.range 8).any (fun i => FMap.get false d3.bw.critical i)
    let d4 := { d3 with qn := { d3.qn with critical := any } }
    if crit then d4.decideBoth 0x07 else d4

/-- GUARANTEE_RECOMPUTE: every stack whose capacity changed. -/
def Dev.recompute (d : Dev) : Dev :=
  (List.range (2 * d.hw.dies)).foldl (fun d s => if d.stackCap s = FMap.get 0 d.bw.capacity s then d else d.recomputeStack s) d

/-- The class a context's requests carry (R331), found when it becomes READY. -/
def Dev.labelCtx (d : Dev) (c : Nat) : Dev :=
  let base := d.rpair BWR_LABEL_TABLE_LO BWR_LABEL_TABLE_HI
  match d.partOfCtx c with
  | none => d
  | some p =>
    let b := if base = 0 then 0 else leNat (d.rd View.plain (base + c) 1)
    let k := b % 16
    let valid := decide (128 ≤ b) && base != 0
    let d1 := { d with bw := { d.bw with label := FMap.set 16 d.bw.label c (if valid && bitOf p.bwClasses k then k else p.bwDefault) } }
    if valid && !bitOf p.bwClasses k then d1.emit .bwr 0x0804 1 c b else d1

end Sys2Proof.Machine
end

