-- ==== Sys2Proof/Machine/JobOps.lean ====
section
/-! DEFINITION. How a job's context moves and ends (R148–R152, R161, R180): the context table, completions, and what a
job gives back — cores, semaphores, credits, tickets, engine commands, records and epochs. -/
namespace Sys2Proof.Machine

/-! ### The context table (R161) -/

def Dev.ctxTable (d : Dev) : Nat := d.rf JFE_CTX_TABLE_LO 31 16 * 65536 + d.rf JFE_CTX_TABLE_HI 15 0 * 2 ^ 32
/-- Write a context's entry; there is no table at base 0. -/
def Dev.writeEntry (d : Dev) (c : Nat) : Dev :=
  let b := d.ctxTable
  if b = 0 ∨ !inDram d.hw b 65536 then d else d.wr View.plain (b + 16 * c) (d.ctx c).entry
/-- Change a context and its entry. -/
def Dev.putCtx (d : Dev) (c : Nat) (x : Ctx) : Dev := (d.setCtx c x).writeEntry c

/-- Contexts that are not FREE, in the order of acceptance (R146). -/
def ctxInsert (e : Nat × Ctx) : List (Nat × Ctx) → List (Nat × Ctx)
  | [] => [e]
  | x :: xs => if e.2.order ≤ x.2.order then e :: x :: xs else x :: ctxInsert e xs
def Dev.ctxList (d : Dev) : List (Nat × Ctx) := (d.jfe.ctxs.filter (fun e => e.2.state != .free)).foldr ctxInsert []
/-- Do something for every context of the list as it is before. -/
def Dev.eachCtx (d : Dev) (f : Dev → Nat → Dev) : Dev := d.ctxList.foldl (fun d e => f d e.1) d

/-- States in which a context holds cores, or Cairn (R148). -/
def CtxState.holds : CtxState → Bool
  | .running => true | .yielding => true | .resuming => true | .draining => true
  | _ => false
/-- Released and not yet ended. -/
def CtxState.released : CtxState → Bool
  | .free => false | .queued => false | .ending => false
  | _ => true
/-- Instructions issue. -/
def CtxState.executes : CtxState → Bool
  | .running => true | .yielding => true
  | _ => false

/-! ### Cores of a context -/

def Dev.isFollow (d : Dev) (g : Nat) : Bool := g % 2 == 1 && d.isJoined g
def Dev.coresOn (d : Dev) (c : Nat) : List Nat := (coresOf (d.ctx c).inv.clusters).filter (fun g => (d.core g).ctx == some c)
def Dev.leadsOn (d : Dev) (c : Nat) : List Nat := (d.coresOn c).filter (fun g => !d.isFollow g)

/-- The follow of a joined couple holds what its lead holds; the requests are the lead's alone (R53, R80, R97). -/
def Dev.follow (d : Dev) (g : Nat) : Dev :=
  if d.isJoined g && g % 2 == 0 then
    let l := d.core g
    d.setCore (g + 1) { l with dma := [], borrow := [], tickets := [], ceTicks := (d.core (g + 1)).ceTicks }
  else d
/-- Change a core, and the follow with it. -/
def Dev.putCore (d : Dev) (g : Nat) (c : Core) : Dev := (d.setCore g c).follow g

/-- The debugger halts a core (R515): cause 1 HALT, 2 a breakpoint, 3 a watchpoint, 4 HALT_CONTEXT. -/
def Dev.haltCore (d : Dev) (g cause : Nat) : Dev :=
  let d1 := { d.putCore g { d.core g with halted := true } with dbg := { d.dbg with cause := FMap.set 0 d.dbg.cause g cause } }
  d1.limited (rateKey 0x0F03 g) (ticksMs 1) (fun _ d => d.emit .key 0x0F03 1 g cause)
/-- A core comes to its next instruction: an enabled breakpoint there halts it. -/
def Dev.arrive (d : Dev) (g : Nat) : Dev :=
  let k := d.core g
  if k.st == .running && !k.halted && (FMap.get Points.none d.dbg.points g).bp.any (fun b => b == some k.pc.toNat) then d.haltCore g 2 else d

/-- A wait ends: the core goes on at the next instruction. -/
def Dev.wake (d : Dev) (g : Nat) (f : Regs → Regs) : Dev :=
  let c := d.core g
  (d.putCore g { c with wait := .none, remoteSince := none, regs := f c.regs, pc := c.pc + 8 }).arrive g

/-! ### Borrowed credits (R116, R356) -/

def Dev.returnBorrow (d : Dev) (g p : Nat) : Dev :=
  let c := d.core g
  match FMap.get none c.borrow p with
  | some n =>
    let pt := d.port (coreDie g) p
    let part := match c.ctx with
      | some k => (d.ctx k).part
      | none => 0
    (d.setPort (coreDie g) p { pt with borrowed := FMap.set 0 pt.borrowed part (FMap.get 0 pt.borrowed part - n) }).modCore g
      (fun c => { c with borrow := FMap.set none c.borrow p none })
  | none => d
def Dev.returnBorrows (d : Dev) (g : Nat) : Dev := ((d.returnBorrow g 0).returnBorrow g 1).returnBorrow g 2

/-! ### Semaphores (R109, R110) -/

/-- The register a waiting SEMA writes. -/
def Wait.semaDest : Wait → BitVec 8
  | .sema f _ => f.d
  | _ => 0xFF

/-- A free semaphore goes to its oldest waiter. -/
def Dev.grantSem (d : Dev) (n : Nat) : Dev :=
  let s := d.sem n
  match s.holder, s.waiters with
  | none, g :: rest =>
    let c := d.core g
    ((d.setSem n { holder := some (g, c.ctx.getD 0), poisoned := false, waiters := rest }).blkCount (.mrt (n / 1024)) 3 1).wake g
      (fun r => r.writeNat c.wait.semaDest (if s.poisoned then 0x0E else 0))
  | _, _ => d
/-- Release one, poisoned or not, and grant it on. -/
def Dev.releaseSem (d : Dev) (n : Nat) (poison : Bool) : Dev :=
  (d.setSem n { d.sem n with holder := none, poisoned := poison }).grantSem n
/-- Numbers of the semaphores a context holds. -/
def Dev.semsHeld (d : Dev) (c : Nat) : List Nat :=
  (d.sems.filter (fun e => match e.2.holder with
    | some (_, k) => k == c
    | none => false)).map (·.1)
/-- Take a core out of every waiting list. -/
def Dev.unwait (d : Dev) (g : Nat) : Dev :=
  { d with sems := FMap.mapAll Sem.free (fun _ s => { s with waiters := s.waiters.filter (· != g) }) d.sems }

/-! ### Tickets and engine commands (R113, R151 step 3) -/

def ticketKey (c t : Nat) : Nat := c * 2 ^ 32 + t
def Dev.ticket (d : Dev) (c t : Nat) : Option Ticket := FMap.get none d.tickets (ticketKey c t)
def Dev.setTicket (d : Dev) (c t : Nat) (x : Option Ticket) : Dev := { d with tickets := FMap.set none d.tickets (ticketKey c t) x }
/-- A ticket completes with its status; a PLAN_REQUEST's command has none. -/
def Dev.completeTicket (d : Dev) (c : Nat) (t : Option Nat) (status : BitVec 8) : Dev :=
  match t with
  | some t => (match d.ticket c t with
    | some k => d.setTicket c t (some { k with st := .done status })
    | none => d)
  | none => d
/-- Every ticket of a context that is not complete completes with the status. -/
def Dev.completeTickets (d : Dev) (c : Nat) (status : BitVec 8) : Dev :=
  { d with tickets := FMap.mapAll none (fun _ k => k.map (fun k => if k.ctx = c ∧ k.st = .pending then { k with st := .done status } else k)) d.tickets }
/-- The statuses of a context are discarded. -/
def Dev.dropTickets (d : Dev) (c : Nat) : Dev := { d with tickets := FMap.keep (fun k _ => k / 2 ^ 32 != c) d.tickets }

def dropCmds (c : Nat) (q : FMap (List EngCmd)) : FMap (List EngCmd) := FMap.mapAll [] (fun _ l => l.filter (fun k => k.ctx != c)) q
/-- Queued engine commands of a context are discarded; a Cairn world command not yet committed is discarded whole (R300). -/
def Dev.dropEngines (d : Dev) (c : Nat) : Dev :=
  { d with engs := FMap.mapAll Eng.idle (fun _ e => { e with queues := dropCmds c e.queues }) d.engs,
           crn := { d.crn with queues := dropCmds c d.crn.queues,
                               worldRun := match d.crn.worldRun with
                                 | some w => if w.cmd.ctx = c then none else some w
                                 | none => none } }

/-- The outputs of a command that stops part way are undefined (R216). -/
def Dev.scramble (d : Dev) (v : View) (rs : List (Nat × Nat)) : Dev :=
  rs.foldl (fun d r => let b := d.drawBytes r.2; b.2.wr v r.1 b.1) d
/-- A command of an engine has ended (R245). -/
def Dev.engEnded (d : Dev) (n e : Nat) (status : Nat) : Dev :=
  let b := Block.eng n e
  let d1 := (d.bump (b.base + 0x24) 1).blkCount b 1 1
  if status = 0 then d1 else d1.bump (b.base + 0x28) 1
/-- The running commands of a context stop: an engine's outputs are undefined, a Cairn check ends without a header (R300). A
STORE_FALLBACK whose delivery has begun goes on. -/
def Dev.stopEngines (d : Dev) (c : Nat) : Dev :=
  let d1 := d.engs.foldl (fun d e => match e.2.run with
    | some r => if r.cmd.ctx = c then
        (({ d with engs := FMap.set Eng.idle d.engs e.1 { FMap.get Eng.idle d.engs e.1 with run := none } }).scramble (d.viewOf c) r.outs).engEnded
          (e.1 / 4) (e.1 % 4) 1 else d
    | none => d) d
  match d1.crn.check with
  | some r => if r.cmd.ctx = c ∧ r.delivery = none then { d1 with crn := { d1.crn with check := none } } else d1
  | none => d1

/-- A torn-down context's reservations that have not completed are void (R258). -/
def Dev.voidReservations (d : Dev) (c : Nat) : Dev :=
  { d with seqs := FMap.mapAll none (fun _ s => s.map (fun q => { q with res := q.res.filter (fun r => r.ctx != c) })) d.seqs }

/-! ### Completions (R180) -/

def Dev.complete (d : Dev) (k : Completion) : Dev := { d with jfe := { d.jfe with cq := d.jfe.cq ++ [k] } }
/-- The completion of a descriptor that uses no context, or is refused at acceptance. -/
def Dev.answer (d : Dev) (seq : W32) (notify : Bool) (type : Nat) (status : BitVec 8) (ctx : Nat) (part : Option Nat) (res16 res32 : Nat) : Dev :=
  d.complete { seq := seq, type := type, status := status, flags := 0, ctx := ctx, res16 := res16, res32 := res32, ns := d.plb.ns,
               notify := notify, part := part }

/-! ### A job's part in its epochs -/

/-- Is a job released that names the epoch as RESOLVER (R205, R207)? -/
def Dev.resolverAlive (d : Dev) (e : Nat) : Bool :=
  d.jfe.ctxs.any (fun x => x.2.state.released && x.2.inv.resolver == e)
/-- The last resolver of an open epoch has ended without an EPRSLV (R205). -/
def Dev.resolverGone (d : Dev) (e : Nat) : Dev :=
  if e != 0 && (d.epoch e).state == .opened && !(d.epoch e).held && !d.resolverAlive e then d.askSquash e 0x04 else d
/-- Is the context a writer of its epoch in this frame? -/
def Dev.writes (d : Dev) (c : Nat) : Bool :=
  let w := (d.ctx c).inv.writeEpoch
  w != 0 && !(d.ctx c).noEpoch && (d.epoch w).writers.contains c
/-- A writer is torn down for a reason other than the squash of its epoch (R205). -/
def Dev.writerLost (d : Dev) (c : Nat) (status : BitVec 8) : Dev :=
  if d.writes c && status != stSpecSquashed && status != stOk && (d.epoch (d.ctx c).inv.writeEpoch).state == .opened
  then d.askSquash (d.ctx c).inv.writeEpoch 0x03 else d
/-- The writer has ended. -/
def Dev.leaveEpoch (d : Dev) (c : Nat) : Dev :=
  if d.writes c then
    let w := (d.ctx c).inv.writeEpoch
    d.setEpoch w { d.epoch w with writers := (d.epoch w).writers.filter (· != c) }
  else d

/-! ### Ending (R148–R151) -/

/-- Forget what was saved for a context (R154). -/
def Dev.dropSaves (d : Dev) (c : Nat) : Dev := { d with jfe := { d.jfe with saves := FMap.keep (fun k _ => k / 4096 != c) d.jfe.saves } }

/-- The context's completion record is produced: ENDING (R148, R180). -/
def Dev.endCtx (d : Dev) (c : Nat) (status : BitVec 8) : Dev :=
  let x := d.ctx c
  let d1 := ((d.closeUnclosed c status.toNat x.storage).writerLost c status).leaveEpoch c
  let us := match x.startNs with
    | some t => min 0xFFFFFFFF ((d.clock - t) / 1000)
    | none => 0
  let k : Completion :=
    { seq := x.seq, type := if x.isPlan then 6 else 1, status := status,
      flags := (if x.rolledBack then 1 else 0) + (if x.wasSuspended then 2 else 0), ctx := c,
      res16 := if x.isPlan then x.res16 else x.figure.getD 0xFFFF, res32 := if x.isPlan then x.res32 else us,
      ns := d.plb.ns, notify := x.notify, part := some x.part }
  (((((d1.dropSaves c).dropTickets c).putCtx c { x with state := .ending, status := status, ending := status, cseq := 0 }).complete k).resolverGone
    x.inv.resolver)

/-- A placed resource is fenced; `pair` counts couples fenced for paired work as well (R147, R435, R446). -/
def Dev.placedFenced (d : Dev) (c : Nat) (pair : Bool) : Bool :=
  let x := d.ctx c
  let paired := pair && (match d.partOfCtx c with
    | some p => p.paired
    | none => false)
  (coresOf x.inv.clusters).any (fun g => d.coreFenced g || (paired && (FMap.get Couple.reset d.pav.couples (g / 2)).pairFenced)) ||
  (enginesOf x.inv.engines).any (fun p => d.engFenced p.1 p.2) || (bitOf x.inv.engines 16 && d.fenced cairnUnit)

/-- Is a core or engine withdrawn from class B–D work (R444)? Units start withdrawn, all cores are while no log is known
(R448), and after that a unit is until it has passed in every throttle state (R449). -/
def Dev.withdrawn (d : Dev) (u : Nat) : Bool :=
  let place := if u < 2 ^ 31 then u / 128 else 0x100 + (u - 2 ^ 31)
  FMap.get true d.pav.withdrawn u || (decide (u < 2 ^ 31) && !d.pav.loaded && !d.pav.noLog) || d.pav.multi.any (fun e => e.1 / 64 == place)
def Dev.placedWithdrawn (d : Dev) (c : Nat) : Bool :=
  decide (2 ≤ d.classOf (d.ctx c).part) && (coresOf (d.ctx c).inv.clusters).any d.withdrawn

/-- A writer squashed with SQUASH_ACTION re-run becomes READY again without an epoch, once (R207). -/
def Dev.rerun (d : Dev) (c : Nat) : Dev :=
  let x := d.ctx c
  let d1 := ((d.leaveEpoch c).dropSaves c).dropTickets c
  let d2 := (d1.putCtx c { x with state := .ready, noEpoch := true, rerunDone := true, rerunWait := true, joined := true, startNs := none,
                                  trigTick := none, mismatched := false, usedCairn := false, storage := false, sequences := [] }).emit
              .jfe 0x0312 0 c x.inv.writeEpoch
  if d2.placedFenced c true || d2.placedWithdrawn c then d2.endCtx c stFencedResource else d2

/-- A context ends with a status, or is re-run. -/
def Dev.endOrRerun (d : Dev) (c : Nat) (status : BitVec 8) : Dev :=
  let x := d.ctx c
  if status = stSpecSquashed ∧ x.inv.rerun ∧ !x.rerunDone then d.rerun c else d.endCtx c status

/-- Stop a core of a torn-down job: descriptors not yet started are discarded, the one in progress ends later (R151 step 2). -/
def Dev.stopCore (d : Dev) (g : Nat) : Dev :=
  (d.unwait g).modCore g (fun c =>
    { c with st := .idle, wait := .none, remoteSince := none, ckpt := none, halted := false,
             dma := (c.dma.take 1).filter (fun e => e.kind != 2 || e.started) })
/-- The debug instrument that names a core of a torn-down context shows DETACHED (R517). -/
def Dev.detach (d : Dev) (g : Nat) : Dev :=
  let n := coreDie g
  let i := FMap.get CoreDebug.reset d.dbg.dies n
  if 1024 * n + i.core = g then { d with dbg := { d.dbg with dies := FMap.set CoreDebug.reset d.dbg.dies n { i with detached := true } } } else d

/-- A trigger of R149. The first one recorded decides; those of the same tick are ranked by R19 (R150). -/
def Dev.trigger (d : Dev) (c : Nat) (status : BitVec 8) (storage : Bool := false) : Dev :=
  let x := d.ctx c
  match x.state with
  | .free => d
  | .draining =>
    if x.trigTick = some d.ticks ∧ reasonRank status.toNat < reasonRank x.ending.toNat
    then d.setCtx c { x with ending := status, storage := storage } else d
  | .ending =>
    if x.trigTick = some d.ticks ∧ reasonRank status.toNat < reasonRank x.ending.toNat then
      let d1 := d.putCtx c { x with ending := status, status := status }
      { d1 with jfe := { d1.jfe with cq := d1.jfe.cq.map (fun k => if k.ctx = c ∧ k.seq = x.seq then { k with status := status } else k) } }
    else d
  | s =>
    if s.holds then
      let d1 := (d.writerLost c status).putCtx c { x with state := .draining, ending := status, storage := storage, trigTick := some d.ticks }
      let d2 := (d1.coresOn c).foldl (fun d g => (d.stopCore g).detach g) d1
      let d3 := if status = stPreemptedDiscarded then d2.bump JFE_DISCARD_COUNT 1 else d2
      ((d3.voidReservations c).dropEngines c).completeTickets c status
    else (d.modCtx c (fun x => { x with trigTick := some d.ticks, storage := storage })).endOrRerun c status

/-- Step 5 of R151, once every core's queue is empty: what the job holds is given back, and its record produced. -/
def Dev.teardownDone (d : Dev) (c : Nat) : Dev :=
  let x := d.ctx c
  if x.state ≠ .draining ∨ (d.coresOn c).any (fun g => !(d.core g).dma.isEmpty) then d
  else
    let d1 := d.stopEngines c
    let d2 := (d1.semsHeld c).foldl (fun d n => d.releaseSem n true) d1
    let d3 := (d2.coresOn c).foldl (fun d g => (d.returnBorrows g).modCore g (fun k => { k with ctx := none, tickets := [], st := if k.st = .saved then .idle else k.st })) d2
    d3.endOrRerun c x.ending

end Sys2Proof.Machine
end

