-- ==== Sys2Proof/Machine/SpecOps.lean ====
section
/-! DEFINITION. Speculation epochs (R192–R212) and the release of jobs (R146, R147): opening, confirming and squashing an epoch, and
a context becoming READY. -/
namespace Sys2Proof.Machine

/-- No partition owns the epoch. -/
def noOwner : Nat := 16

/-- Speculation is off: disabled, or in warm-up (R209). -/
def Dev.specOff (d : Dev) : Bool := !d.rbit JFE_SPEC_CFG 0 || d.jfe.warmup != 0
def Dev.epochsOpen (d : Dev) : Nat := (d.jfe.epochs.filter (fun e => e.2.state == .opened)).length
def Dev.epochTable (d : Dev) : Nat := d.rf JFE_EPOCH_TABLE_LO 31 15 * 32768 + d.rf JFE_EPOCH_TABLE_HI 15 0 * 2 ^ 32
def Dev.epochEntry (d : Dev) (e : Nat) : List Byte := d.rd View.plain (d.epochTable + 128 * e) 128

/-! ### Streams of key-value sequences under an epoch (R264) -/

/-- Rewrite every stream record of an active sequence whose EPOCH is `e`. -/
def Dev.mapStreams (d : Dev) (e : Nat) (f : Nat → Nat) (void : Bool) : Dev :=
  d.seqs.foldl (fun d s => match s.2 with
    | some q => (List.range q.streams).foldl (fun d st =>
        let r := q.record (d.rd View.plain) st
        if recEpoch r = e then
          let d1 := d.wr View.plain (q.recordAddr st) (leBytes 8 (f r))
          if void then (match FMap.get none d1.seqs s.1 with
            | some q1 => { d1 with seqs := FMap.set none d1.seqs s.1 (some (q1.voidBeyond st (recConf r))) }
            | none => d1) else d1
        else d) d
    | none => d) d

/-! ### Confirmation and squash -/

/-- Lines tagged by an open epoch. -/
def Dev.linesTagged (d : Dev) (e : Nat) : List Nat := (d.tags.filter (fun t => t.2 == .opened e)).map (·.1)

/-- Confirmation (R204): tags clear, shadows are freed, what was held starts, MIRROR lines await their copy. -/
def Dev.confirm (d : Dev) (e : Nat) : Dev :=
  let x := d.epoch e
  let ls := d.linesTagged e
  let d1 := ls.foldl Dev.untag d
  let due := ls.filter (fun l => (d.mirrorAt (64 * l)).isSome)
  let held := d1.jfe.heldWrites.map (fun (h : HeldWrite) => if h.epoch = e then { h with epoch := 0 } else h)
  let d2 := { d1 with mirrorDue := due.foldl (fun m l => FMap.set 0 m l e) d1.mirrorDue, jfe := { d1.jfe with heldWrites := held } }
  let d3 := d2.mapStreams e (fun r => mkRec (recLen r) (recLen r) 0) false
  (d3.setEpoch e { x with state := .confirmed, held := false }).emit .jfe 0x0310 0 e (min 0xFFFFFFFF (d.clock - x.openedNs))

/-- QUEUED writers that a squash ends at once: their figure opens later in this frame, and they are not re-run (R206, R207). -/
def Dev.queuedWriters (d : Dev) (e : Nat) : List Nat :=
  (d.ctxList.filter (fun x => x.2.state == .queued && x.2.inv.writeEpoch == e && !x.2.inv.rerun && x.2.inv.figure != 0xFF &&
    !d.jfe.done.contains x.2.inv.figure)).map (·.1)

/-- A squash (R206); nothing unless the epoch is OPEN. -/
def Dev.squash (d : Dev) (e reason : Nat) : Dev :=
  let x := d.epoch e
  if x.state ≠ .opened then d
  else
    let live := x.writers.filter (fun c => match (d.ctx c).state with
      | .free => false
      | .draining => false
      | .ending => false
      | _ => true) ++ d.queuedWriters e
    let d1 := { d with tags := FMap.mapAll LineTag.none (fun _ (t : LineTag) => if t = LineTag.opened e then LineTag.squashed e else t) d.tags,
                       jfe := { d.jfe with heldWrites := d.jfe.heldWrites.filter (fun (h : HeldWrite) => h.epoch != e) } }
    let d2 := d1.mapStreams e (fun r => mkRec (recConf r) (recConf r) 0) true
    let d3 := ((d2.setEpoch e { x with state := .squashed, reason := reason, held := false, ended := live.length }).bump JFE_SPEC_SQUASH_COUNT 1).emit
      .jfe 0x0311 1 e (reason + 256 * live.length)
    let d4 := live.foldl (fun d c => d.trigger c stSpecSquashed) d3
    d4.jfe.epochs.foldl (fun (d : Dev) (k : Nat × Epoch) => if k.2.state == EpochState.opened && k.2.deps.contains e then d.askSquash k.1 0x05 else d) d4

/-- The lowest reason asked for an epoch (R208). -/
def lowestReason (q : List (Nat × Nat)) (e r : Nat) : Nat := q.foldl (fun m x => if x.1 = e ∧ x.2 < m then x.2 else m) r
/-- Carry out one squash that was asked for; answers whether there was one. -/
def Dev.squashStep (d : Dev) : Option Dev :=
  match d.jfe.squash with
  | [] => none
  | (e, r) :: rest =>
    some (({ d with jfe := { d.jfe with squash := rest.filter (fun x => x.1 != e) } }).squash e (lowestReason rest e r))

/-- An epoch whose prediction held confirms once every dependency has; one squashed dependency squashes it (R203). -/
def Dev.confirmStep (d : Dev) : Option Dev :=
  d.jfe.epochs.findSome? (fun k =>
    if k.2.state == .opened && k.2.held then
      if k.2.deps.any (fun p => (d.epoch p).state == .squashed) then some (d.squash k.1 0x05)
      else if k.2.deps.all (fun p => (d.epoch p).state == .confirmed) then some (d.confirm k.1) else none
    else none)

/-! ### Opening and joining (R194–R196) -/

/-- Open an epoch for a writer: its entry is read once; a bad one squashes it. -/
def Dev.openEpoch (d : Dev) (e c : Nat) : Dev :=
  let bs := d.epochEntry e
  let n := fieldAt bs 1 1
  let x := d.ctx c
  let d1 := d.setEpoch e
    { Epoch.free with state := .opened, owner := x.part, openedNs := d.clock, figure := x.figure.getD 0,
                      kinds := (List.range n).map (epochKind bs), predicted := (List.range n).map (f32At bs 0x10),
                      tolerance := (List.range n).map (f32At bs 0x30) }
  if epochEntryBad bs then d1.squash e 0x09 else d1

/-- A READY writer joins its epoch; a dependency already squashed squashes it. -/
def Dev.join (d : Dev) (c : Nat) : Dev :=
  let v := (d.ctx c).inv
  let x := d.epoch v.writeEpoch
  let d1 := (d.setEpoch v.writeEpoch { x with writers := x.writers ++ [c], deps := x.deps ++ v.readEpochs.filter (fun r => !x.deps.contains r) }).modCtx c
    (fun k => { k with joined := true })
  if v.readEpochs.any (fun r => (d1.epoch r).state == .squashed) then d1.askSquash v.writeEpoch 0x05 else d1

/-- Does a declaration break the class rules of R196, against epochs that have an owner? -/
def Dev.epochClassBad (d : Dev) (c : Nat) : Bool :=
  let x := d.ctx c
  let cls := d.classOf x.part
  let owned (e : Nat) : Bool := (d.epoch e).state != .free && (d.epoch e).owner != noOwner
  (x.inv.writeEpoch != 0 && owned x.inv.writeEpoch && (d.epoch x.inv.writeEpoch).owner != x.part) ||
  x.inv.readEpochs.any (fun e => owned e && decide (d.classOf (d.epoch e).owner < cls)) ||
  (x.inv.resolver != 0 && owned x.inv.resolver && (d.epoch x.inv.resolver).owner != x.part &&
    decide (cls ≤ d.classOf (d.epoch x.inv.resolver).owner))

/-- The epochs of a context that is READY (R194–R196, R209). -/
def Dev.epochReady (d : Dev) (c : Nat) : Dev :=
  let x := d.ctx c
  let w := x.inv.writeEpoch
  if x.noEpoch ∨ x.joined ∨ x.isPlan then d
  else if d.specOff then (if w = 0 then d else d.endOrRerun c stSpecSquashed)
  else if d.epochClassBad c then d.endCtx c stInvalidDesc
  else if w = 0 then d
  else match (d.epoch w).state with
    | .opened => d.join c
    | .confirmed => d.setCtx c { x with noEpoch := true, joined := true }
    | .squashed => d.endOrRerun c stSpecSquashed
    | .free =>
      if 16 ≤ d.epochsOpen then
        (if x.limitTold then d else (d.setCtx c { x with limitTold := true }).emit .jfe 0x0313 1 c w)
      else
        let d1 := d.openEpoch w c
        if (d1.epoch w).state = .opened then d1.join c else d1.endOrRerun c stSpecSquashed

/-- A READY writer held by the limit of 16 tries again. -/
def Dev.limitStep (d : Dev) : Option Dev :=
  if 16 ≤ d.epochsOpen then none
  else d.ctxList.findSome? (fun e => if e.2.state == .ready && e.2.limitTold && !e.2.joined && !e.2.noEpoch then some (d.epochReady e.1) else none)

/-! ### Release (R146, R147) -/

def Dev.figure (d : Dev) (i : Nat) : Option Figure := d.jfe.quad.bind (fun q => q.figures[i]?)
/-- A compute figure of the context's partition whose resources cover its placement. -/
def Figure.covers (f : Figure) (x : Ctx) : Bool :=
  f.type == 0 && f.part == x.part && subMask x.inv.clusters f.clusters && subMask x.inv.engines f.engines

/-- A QUEUED context becomes READY in figure `i`. -/
def Dev.release (d : Dev) (c i : Nat) : Dev :=
  match d.figure i with
  | none => d
  | some f =>
    let x := d.ctx c
    let fin := d.jfe.origin + f.start + f.length
    let dl := if x.inv.deadline = 0 then fin else min fin (d.jfe.origin + f.start + x.inv.deadline)
    let d1 := (d.putCtx c { x with state := .ready, figure := some i, deadlineAt := dl }).labelCtx c
    if d1.placedFenced c true || d1.placedWithdrawn c then (d1.modCtx c (fun k => { k with trigTick := some d.ticks })).endCtx c stFencedResource
    else d1.epochReady c

/-- The figure a QUEUED context is released in now, if one is open. -/
def Dev.openFor (d : Dev) (x : Ctx) : Option Nat :=
  d.jfe.opened.find? (fun i => match d.figure i with
    | some f => if x.inv.figure = 0xFF then f.covers x else i == x.inv.figure && f.type == 0
    | none => false)
def Dev.releaseIfOpen (d : Dev) (c : Nat) : Dev :=
  match d.openFor (d.ctx c) with
  | some i => d.release c i
  | none => d

/-! ### Start conditions and pre-emption (R146, R153–R156) -/

def shares (x y : Ctx) : Bool := x.inv.clusters &&& y.inv.clusters != 0
/-- Other contexts that hold a cluster the context needs. -/
def Dev.holders (d : Dev) (c : Nat) : List (Nat × Ctx) := d.ctxList.filter (fun e => e.1 != c && e.2.state.holds && shares e.2 (d.ctx c))
/-- READY, its epochs settled, its resources in service, and no earlier READY context needs one of its clusters. -/
def Dev.eligible (d : Dev) (c : Nat) : Bool :=
  let x := d.ctx c
  x.state == .ready && !d.stopped && (x.joined || x.noEpoch || x.isPlan || x.inv.writeEpoch == 0) &&
  !(x.rerunWait && d.resolverAlive x.inv.writeEpoch) && !d.placedFenced c true && !d.placedWithdrawn c &&
  !d.ctxList.any (fun e => decide (e.2.order < x.order) && e.2.state == .ready && shares e.2 x)
/-- The couples of a cluster are joined. -/
def Dev.clusterJoined (d : Dev) (k : Nat) : Bool := (List.range 64).any (fun i => FMap.get false d.joined (64 * (8 * (k / 8) + k % 8) + i))
def clustersOf (mask : Nat) : List Nat := (List.range 32).filter (bitOf mask)
def Dev.ctxPaired (d : Dev) (c : Nat) : Bool := match d.partOfCtx c with
  | some p => p.paired
  | none => false
/-- Are the context's clusters in its partition's couple mode? -/
def Dev.modeRight (d : Dev) (c : Nat) : Bool := (clustersOf (d.ctx c).inv.clusters).all (fun k => d.clusterJoined k == d.ctxPaired c)
/-- Does some cluster have to be split first? -/
def Dev.mustSplit (d : Dev) (c : Nat) : Bool := !d.ctxPaired c && (clustersOf (d.ctx c).inv.clusters).any d.clusterJoined
/-- Every core is idle and zeroed for the context's partition, or last ran it, and every placed engine is powered (R460). -/
def Dev.coresReady (d : Dev) (c : Nat) : Bool :=
  (enginesOf (d.ctx c).inv.engines).all (fun p => d.domainOn (10 * p.1 + 8)) && (!bitOf (d.ctx c).inv.engines 16 || d.domainOn 44) &&
  (coresOf (d.ctx c).inv.clusters).all (fun g => (d.core g).st == .idle && (d.core g).lastPart == some (d.ctx c).part && (d.core g).ctx == none)

/-- Raise a pre-emption request against a running job (R153, R155); `by` is the context, or 0xFFFF_FFFF. -/
def Dev.request (d : Dev) (c by_ : Nat) : Dev :=
  let x := d.ctx c
  match d.part x.part with
  | none => d
  | some p =>
    if x.state ≠ .running ∨ !p.preemptible ∨ p.saveSize = 0 then d
    else if d.rangeLost p.saveBase p.saveSize then d.trigger c stMemoryUncorrectable
    else (d.putCtx c { x with state := .yielding, preemptTick := d.ticks }).emit .jfe 0x0301 0 c by_
/-- A released job of higher class needs clusters that a running job holds. -/
def Dev.requestStep (d : Dev) : Option Dev :=
  d.ctxList.findSome? (fun e =>
    if d.eligible e.1 then
      (d.holders e.1).findSome? (fun h =>
        if h.2.state == .running && decide (d.classOf h.2.part < d.classOf e.2.part) then
          let d1 := d.request h.1 e.1
          if (d1.ctx h.1).state = .running then none else some d1
        else none)
    else none)

/-- Zeroing begins (R54, R147 step 4) on the idle cores of a context that may start or resume, once they are split where they must be. -/
def Dev.zeroStep (d : Dev) : Option Dev :=
  d.ctxList.findSome? (fun e =>
    if ((d.eligible e.1 && (d.holders e.1).isEmpty) || e.2.state == .resuming) && !d.mustSplit e.1 then
      let gs := (coresOf e.2.inv.clusters).filter (fun g => (d.core g).st == .idle && (d.core g).lastPart != some e.2.part && (d.core g).ctx == none)
      if gs.isEmpty then none
      else some (gs.foldl (fun d g => d.modCore g (fun k => { k with st := .zeroing, lastPart := some e.2.part })) d)
    else none)

/-- Every core of a YIELDING context has been saved: SUSPENDED (R154). -/
def Dev.suspendIfSaved (d : Dev) (c : Nat) : Dev :=
  let x := d.ctx c
  let gs := d.coresOn c
  if x.state = .yielding ∧ !gs.isEmpty ∧ gs.all (fun g => (d.core g).st == .saved) then
    let d1 := gs.foldl (fun d g => d.modCore g (fun k => { k with st := .idle, ctx := none })) d
    (d1.putCtx c { x with state := .suspended, wasSuspended := true, suspendNs := d.clock }).bump JFE_PREEMPT_COUNT 1
  else d

end Sys2Proof.Machine
end

