-- ==== Sys2Proof/Machine/RingFx.lean ====
section
/-! DEFINITION. The host rings (R164–R191): placement and enabling, acceptance of descriptors, completion and event records, MSI-X. -/
namespace Sys2Proof.Machine

/-! ### Rings: 0 submission, 1 completion, 2 event -/

def ringCfg (r : Nat) : Nat := HOST_SQ_CFG + 16 * r
def Dev.ringOn (d : Dev) (r : Nat) : Bool := d.rbit (ringCfg r) 31
def Dev.ringLoc (d : Dev) (r : Nat) : Bool := d.rbit (ringCfg r) 0
def Dev.ringN (d : Dev) (r : Nat) : Nat := 2 ^ d.rf (ringCfg r) 8 4
def Dev.ringBase (d : Dev) (r : Nat) : Nat := d.rn (ringCfg r - 8) / 4096 * 4096 + 2 ^ 32 * d.rn (ringCfg r - 4)
def entryBytes (r : Nat) : Nat := if r = 0 then 64 else 32
/-- The START an enable latched. -/
def Dev.ringStart (d : Dev) (r : Nat) : Nat := (if r = 0 then d.jfe.sqStart else if r = 1 then d.jfe.cqStart else d.jfe.eqStart).toNat
/-- Address of the slot of sequence number `s` (R168). -/
def Dev.ringSlot (d : Dev) (r s : Nat) : Nat := d.ringBase r + entryBytes r * (sub32 s (d.ringStart r) % d.ringN r)

def Dev.rcbLoc (d : Dev) : Bool := d.rbit HOST_RCB_BASE_LO 0
def Dev.rcbBase (d : Dev) : Nat := d.rn HOST_RCB_BASE_LO / 64 * 64 + 2 ^ 32 * d.rn HOST_RCB_BASE_HI
def Dev.rcbRead (d : Dev) (off : Nat) : Nat := leNat (d.locRd d.rcbLoc (d.rcbBase + off) 4)
def Dev.rcbWrite (d : Dev) (off v : Nat) : Dev := d.locWr d.rcbLoc (d.rcbBase + off) (leBytes 4 v)

/-- May the ring be used over the link now (R164)? -/
def Dev.ringLink (d : Dev) (r : Nat) : Bool := d.link.up && !d.link.d3 && (d.ringLoc r || d.link.bme)

/-- Memory that belongs to a partition: its regions and its save area. -/
def Part.touches (p : Part) (a n : Nat) : Bool :=
  p.regions.any (fun g => g.isMem && overlaps a n g.base g.bytes) || (decide (0 < p.saveSize) && overlaps a n p.saveBase p.saveSize)
/-- Every partition entry, in force or waiting. -/
def Dev.allParts (d : Dev) : List Part := (d.jfe.parts ++ d.jfe.waiting).filterMap (·.2)
/-- Does a structure in device memory meet a partition region or save area (R168)? -/
def Dev.meetsPartition (d : Dev) (a n : Nat) : Bool := d.allParts.any (fun p => p.touches a n)
/-- Rings and control block that stand in device memory, once some ring is enabled: base and bytes. -/
def Dev.ringAreas (d : Dev) : List (Nat × Nat) :=
  ((List.range 3).filter (fun r => d.ringOn r && d.ringLoc r)).map (fun r => (d.ringBase r, entryBytes r * d.ringN r)) ++
  (if d.rcbLoc && (List.range 3).any d.ringOn then [(d.rcbBase, 64)] else [])

/-! ### Interrupts (R184, R185) -/

/-- Is the vector masked? The mask bit of each MSI-X table entry resets to 1 (log entry 16). -/
def msixCtl (v : Nat) : Nat := 0x24000 + 16 * v + 12
def Dev.msixMasked (d : Dev) (v : Nat) : Bool := !d.rbit (msixCtl v) 0
/-- Signal a vector; masked, or with no way to the host, it stays pending. -/
def Dev.msix (d : Dev) (v : Nat) : Dev :=
  if d.msixMasked v || !d.link.up || d.link.d3 || !d.link.bme then d.orBits (0x25000 + v / 32 * 4) (2 ^ (v % 32)) else d.put (.msix v)
/-- What is pending is sent once it can be. -/
def Dev.msixFlush (d : Dev) : Dev :=
  (List.range 64).foldl (fun d v =>
    if d.rbit (0x25000 + v / 32 * 4) (v % 32) && !d.msixMasked v && d.link.up && !d.link.d3 && d.link.bme
    then (d.clearBits (0x25000 + v / 32 * 4) (2 ^ (v % 32))).put (.msix v) else d) d
/-- Signal a coalesced vector and restart both its counts. -/
def Dev.signal (d : Dev) (v : Nat) : Dev :=
  ({ d with jfe := { d.jfe with coalCount := FMap.set 0 d.jfe.coalCount v 0, coalTick := FMap.set none d.jfe.coalTick v none } }).msix v
/-- A record was written for a vector: 17 and 18 are signalled at once, the others as HOST_COAL says. -/
def Dev.noteRecord (d : Dev) (v : Nat) (notify : Bool) : Dev :=
  if 17 ≤ v then d.msix v
  else
    let n := FMap.get 0 d.jfe.coalCount v + 1
    let t := match FMap.get none d.jfe.coalTick v with
      | some t => t
      | none => d.ticks
    if notify || d.rf (HOST_COAL v) 25 16 == 0 || decide (max 1 (d.rf (HOST_COAL v) 8 0) ≤ n) then d.signal v
    else { d with jfe := { d.jfe with coalCount := FMap.set 0 d.jfe.coalCount v n, coalTick := FMap.set none d.jfe.coalTick v (some t) } }
/-- Vector of a partition's completions. -/
def Dev.vectorOf (d : Dev) (p : Option Nat) : Nat := match p with
  | some p => d.rf (HOST_IRQ_MAP (p / 4)) (8 * (p % 4) + 3) (8 * (p % 4))
  | none => 0

/-! ### Enabling a ring (R168, R187, R189) -/

/-- What bars an enable: its RING_CONFIG arguments. -/
def Dev.ringFault (d : Dev) (r : Nat) : Option (Nat × Nat) :=
  let lg := d.rf (ringCfg r) 8 4
  let n := entryBytes r * d.ringN r
  if lg < 6 ∨ 16 < lg then some (r + 1, 2)
  else if d.ringBase r % max 4096 n ≠ 0 then some (r + 1, 1)
  else if d.ringLoc r ∧ d.meetsPartition (d.ringBase r) n then some (r + 1, 3)
  else if d.rcbLoc ∧ d.meetsPartition d.rcbBase 64 then some (4, 3)
  else none

/-- ENABLE goes from 0 to 1: START is latched, or the enable fails. -/
def Dev.ringStartUp (d : Dev) (r : Nat) : Dev :=
  match d.ringFault r with
  | some (a, b) => (d.emit .host 0x0408 2 a b).noteRecord 18 false
  | none =>
    let s := d.reg (ringCfg r + 4)
    let d1 := d.orBits (ringCfg r) (2 ^ 31)
    if r = 0 then { d1 with jfe := { d1.jfe with sqStart := s, expected := s, seqTold := [] } }.setReg JFE_LAST_ACCEPTED_SEQ (s - 1)
    else if r = 1 then { d1 with jfe := { d1.jfe with cqStart := s, lastCseq := s - 1 } }.setReg JFE_LAST_COMPLETED_CSEQ (s - 1)
    else { d1 with jfe := { d1.jfe with eqStart := s } }

/-- A write of HOST_SQ_CFG, HOST_CQ_CFG or HOST_EQ_CFG: while the ring is enabled only ENABLE and PAUSE change. -/
def Dev.ringCfgWrite (d : Dev) (r : Nat) (v : W32) : Dev :=
  let n := v.toNat
  let pause := if r = 0 ∧ bitOf n 30 then 2 ^ 30 else 0
  if d.ringOn r then d.setNat (ringCfg r) ((if bitOf n 31 then 2 ^ 31 else 0) + pause + d.rn (ringCfg r) % 512)
  else
    let d1 := d.setNat (ringCfg r) (pause + bitsOf n 8 4 * 16 + n % 2)
    if bitOf n 31 then d1.ringStartUp r else d1

/-! ### Submission (R169–R172) -/

def Dev.blocked (d : Dev) : Bool := d.jfe.accepted.any (fun a => descBlocks (descType a.bytes))
def Dev.holdFull (d : Dev) : Bool := decide (256 ≤ d.jfe.held)

/-- A ring event that the JFE and the Host rings block both count. -/
def Dev.ringCount (d : Dev) (ev n : Nat) : Dev := (d.blkCount .jfe ev n).blkCount .host ev n
/-- Accept a descriptor: one with a bad FORMAT or an unknown TYPE completes at once (R13, R175). -/
def Dev.accept (d : Dev) (bs : List Byte) : Dev :=
  let t := descType bs
  let seq := descSeq bs
  let c := if t = 1 ∨ t = 6 then fieldAt bs 4 2 % 4096 else 0xFFFF
  let r16 := if t = 1 then 0xFFFF else 0
  if descFormat bs ≠ 1 then d.answer seq (descNotify bs) t stVersionUnsupported c none r16 0
  else if !descKnown t then d.answer seq (descNotify bs) t stInvalidDesc 0xFFFF none 0 0
  else { d with jfe := { d.jfe with accepted := d.jfe.accepted ++ [{ seq := seq, bytes := bs }] } }

/-- The acceptance loop; `n` descriptors at most. Answers whether anything was accepted. -/
def Dev.pollLoop : Nat → Dev → Bool → Dev × Bool
  | 0, d, any => (d, any)
  | n + 1, d, any =>
    if d.blocked || d.holdFull then (d, any)
    else
      let e := d.jfe.expected
      let bs := d.locRd (d.ringLoc 0) (d.ringSlot 0 e.toNat) 64
      let s := descSeq bs
      if s = e then
        let d1 := { d with jfe := { d.jfe with expected := e + 1, seqTold := [] } }
        Dev.pollLoop n ((((d1.ringCount 1 1).setReg JFE_LAST_ACCEPTED_SEQ e).clearBits JFE_ACCEPT_STATUS (2 ^ 27)).accept bs) true
      else if s = e - BitVec.ofNat 32 (d.ringN 0) then (d, any)
      else
        let d1 := (d.orBits JFE_ACCEPT_STATUS (2 ^ 27)).setReg JFE_SEQ_ERROR_VALUE s
        let d2 := if d1.jfe.seqTold.contains s then d1
          else (({ d1 with jfe := { d1.jfe with seqTold := d1.jfe.seqTold ++ [s] } }).emit .host 0x0401 2 s.toNat e.toNat).noteRecord 18 false
        (d2, any)

/-- SUBMISSION_POLL. -/
def Dev.poll (d : Dev) : Dev :=
  if !d.ringOn 0 || d.rbit HOST_SQ_CFG 30 || !d.ringLink 0 then d
  else
    let r := d.pollLoop (d.rf JFE_ACCEPT_BATCH 5 0) false
    if r.2 then r.1.rcbWrite 0 (r.1.rn JFE_LAST_ACCEPTED_SEQ) else r.1.ringCount 3 1

/-! ### Completion records (R180, R181) -/

/-- The next record enters the hold buffer; its context becomes FREE. -/
def Dev.admitRecord (d : Dev) : Dev :=
  if d.holdFull then d
  else match d.jfe.cq[d.jfe.held]? with
    | none => d
    | some k =>
      let d1 := { d with jfe := { d.jfe with held := d.jfe.held + 1 } }
      if k.ctx < 4096 ∧ (d1.ctx k.ctx).state = .ending ∧ (d1.ctx k.ctx).seq = k.seq
      then d1.putCtx k.ctx { d1.ctx k.ctx with state := .free } else d1

/-- The oldest held record is written when the ring has room. -/
def Dev.writeRecord (d : Dev) : Dev :=
  match d.jfe.cq with
  | [] => d
  | k :: rest =>
    let c := d.jfe.lastCseq + 1
    if d.jfe.held = 0 ∨ !d.ringOn 1 ∨ !d.ringLink 1 ∨ d.ringN 1 < sub32 c.toNat (d.rcbRead 8) then d
    else
      let d1 := (({ d with jfe := { d.jfe with cq := rest, held := d.jfe.held - 1, lastCseq := c } }).locWr (d.ringLoc 1) (d.ringSlot 1 c.toNat)
        (k.bytes c)).setReg JFE_LAST_COMPLETED_CSEQ c
      let d2 := d1.rcbWrite 4 c.toNat
      let d3 := if k.ctx < 4096 ∧ (d2.ctx k.ctx).state = .free ∧ (d2.ctx k.ctx).seq = k.seq then d2.putCtx k.ctx { d2.ctx k.ctx with cseq := c } else d2
      (d3.ringCount 2 1).noteRecord (d3.vectorOf k.part) k.notify

/-- COMPLETION_RECORD_WRITE: one record enters the hold buffer, and one is written if it can be; a buffer that is full is reported
once. -/
def Dev.recordStep (d : Dev) : Dev :=
  let d1 := d.admitRecord.writeRecord
  if !d1.holdFull then { d1 with jfe := { d1.jfe with stallTold := false } }
  else if d1.jfe.stallTold then d1
  else (({ d1 with jfe := { d1.jfe with stallTold := true } }).emit .host 0x0402 1 (d1.rn JFE_LAST_COMPLETED_CSEQ) (d1.rcbRead 8)).noteRecord 18 false

/-! ### Event records (R21, R183) -/

/-- Put a record into the event ring. -/
def Dev.writeEvent (d : Dev) (e : Event) : Dev :=
  let d1 := (d.locWr (d.ringLoc 2) (d.ringSlot 2 e.seq.toNat) e.bytes).rcbWrite 0xC e.seq.toNat
  d1.noteRecord (if e.sev = 3 then 17 else 16) false
/-- EVENT_RECORD_WRITE: the oldest record is written when there is room, else discarded; once there is room after discards an EVENT_LOST goes
first and takes the next SEQ, so that the records still waiting follow it. -/
def Dev.eventStep (d : Dev) : Dev :=
  if !d.ringOn 2 || !d.ringLink 2 then d
  else
    let next := match d.jfe.ev with
      | e :: _ => e.seq
      | [] => d.jfe.evSeq
    let room := decide (sub32 next.toNat (d.rcbRead 0x10) ≤ d.ringN 2)
    if d.jfe.lost ≠ 0 ∧ room then
      let l : Event := { ns := d.plb.ns, frac := d.plb.frac, source := BitVec.ofNat 32 Block.host.id, code := 0x0403, sev := 1,
                         seq := next, arg0 := BitVec.ofNat 32 d.jfe.lost, arg1 := d.jfe.lostFirst }
      ({ d with jfe := { d.jfe with lost := 0, ev := d.jfe.ev.map (fun (e : Event) => { e with seq := e.seq + 1 }), evSeq := d.jfe.evSeq + 1 } }).writeEvent l
    else match d.jfe.ev with
      | [] => d
      | e :: rest =>
        if room then ({ d with jfe := { d.jfe with ev := rest } }).writeEvent e
        else { d with jfe := { d.jfe with ev := rest, lost := d.jfe.lost + 1, lostFirst := if d.jfe.lost = 0 then e.seq else d.jfe.lostFirst } }
/-- SEQ of the oldest record neither written nor discarded (R548). -/
def Dev.eqNext (d : Dev) : W32 := match d.jfe.ev with
  | e :: _ => e.seq
  | [] => d.jfe.evSeq

/-! ### Link events (R164) -/

/-- A hot reset or Function Level Reset. -/
def Dev.hostResetFx (d : Dev) (flr : Bool) : Dev :=
  let ringReg (k : Nat) : Bool := (decide (0x20000 ≤ k) && decide (k < 0x30000)) || (decide (0x10010 ≤ k) && decide (k < 0x10030)) || k == JFE_ACCEPT_BATCH
  let d1 := d.resetRegs ringReg
  ({ d1 with link := { d1.link with bme := false, winBase := 0 },
             jfe := { d1.jfe with seqTold := [], coalCount := [], coalTick := [] } }).emit .host 0x0405 1 (if flr then 2 else 1) d1.jfe.held
/-- RATE and WIDTH that the endpoint can train to (R163, R189). -/
def linkLegal (rate width : Nat) : Bool := [3, 4, 5].contains rate && [1, 2, 4, 8].contains width
/-- The link comes back: LINK_DOWN says how long it was down. -/
def Dev.linkBack (d : Dev) (rate width : Nat) : Dev :=
  if !linkLegal rate width then d
  else
    let d1 : Dev := { d with link := { d.link with up := true, d3 := false, downTick := none, rate := rate, width := width } }
    match d.link.downTick with
    | some t => d1.emit .host 0x0404 1 (min 0xFFFFFFFF ((d.ticks - t) / 400)) d.jfe.held
    | none => d1

end Sys2Proof.Machine
end

