-- ==== Sys2Proof/Machine/KeyOps.lean ====
section
/-! DEFINITION. The device's keys and what is done with them (R492–R497): its identity, signing, the unwrapping of model keys, and the
decryption of encrypted constants in the memory path. -/
namespace Sys2Proof.Machine

/-- A point as 64 bytes. -/
def ecBytes : EcPoint → List Byte
  | some (x, y) => beBytes 32 x ++ beBytes 32 y
  | none => List.replicate 64 0
/-- Public key of the identity, attestation or wrap key (0, 1, 2) of the generation in use. -/
def Dev.publicKey (d : Dev) (k : Nat) : List Byte := ecBytes (ecMul (some p256g) (Config.secretScalar d.sec.identity k) 256)
/-- Low 64 bits of the SHA-256 of the identity key (R492). -/
def Dev.deviceId (d : Dev) : List Byte := leBytes 8 (beNat (sha256 (d.publicKey 0)) % 2 ^ 64)
/-- A signature with key `k` (ECDSA on P-256; log entry 12). -/
def Dev.sign (d : Dev) (k : Nat) (digest : List Byte) : List Byte :=
  let n := Config.signScalar digest
  let r := (match ecMul (some p256g) n 256 with
    | some (x, _) => x
    | none => 0) % p256n
  beBytes 32 r ++ beBytes 32 (invMod p256n n * (beNat digest + r * Config.secretScalar d.sec.identity k) % p256n)

/-- The model key of a 144-byte wrapped key (R494, R495 steps 1 and 2). -/
def Dev.unwrapKey (d : Dev) (bs : List Byte) : Option (List Byte) :=
  let eph := (bs.drop 0x10).take 64
  if fieldAt bs 0 1 ≠ 1 ∨ !zeroAt bs 1 7 ∨ !zeroAt bs 0x5C 4 ∨ (bs.drop 8).take 8 ≠ d.deviceId ∨ !ecKeyOk eph then none
  else
    match ecMul (some (beNat (eph.take 32), beNat (eph.drop 32))) (Config.secretScalar d.sec.identity 2) 256 with
    | some (z, _) =>
      gcmOpen (sha256 ([0, 0, 0, 1] ++ beBytes 32 z ++ eph)) ((bs.drop 0x50).take 12) (bs.take 0x50) ((bs.drop 0x60).take 32) ((bs.drop 0x80).take 16)
    | none => none

/-- Is the section's tag good under the key (R495 step 3)? -/
def constsTagOk (key hdr sec : List Byte) : Bool :=
  decide (32 ≤ sec.length) &&
  (gcmOpen key (sec.take 12) hdr ((sec.drop 16).take (sec.length - 32)) (sec.drop (sec.length - 16))).isSome

/-! ### Reads of a context: its model's constants are decrypted in the path (R496) -/

/-- The range and key of the encrypted constants of a context's model. -/
def Dev.cryptOf (d : Dev) (c : Nat) : Option (Nat × Nat × List Byte) :=
  let m := d.model (d.ctx c).inv.model
  if m.loaded && m.gen == (d.ctx c).inv.model / 256 && m.keyed && d.sec.installed then
    (FMap.get none d.sec.modelKeys ((d.ctx c).inv.model % 256)).map (fun k => (m.consts, m.constsSize, k))
  else none
/-- Bytes of a range as stored, with those of the encrypted ciphertext decrypted. -/
def Dev.decryptRead (d : Dev) (cr : Nat × Nat × List Byte) (a : Nat) (bs : List Byte) : List Byte :=
  let (base, size, key) := cr
  if !overlaps a bs.length base size then bs
  else
    let ws := aesExpand key
    let iv := d.cells base 12
    List.zipWith (fun (b : Byte) i =>
      let p := a + i
      if base + 16 ≤ p ∧ p < base + size - 16 then
        let o := p - base - 16
        b ^^^ (ctrBlock ws iv (o / 16 + 2)).getD (o % 16) 0
      else b) bs (List.range bs.length)
/-- What a context reads: its view of speculation, its model's constants decrypted. -/
def Dev.rdFor (d : Dev) (c : Nat) (a n : Nat) : List Byte :=
  let bs := d.rd (d.viewOf c) a n
  match d.cryptOf c with
  | some cr => d.decryptRead cr a bs
  | none => bs

end Sys2Proof.Machine
end

