-- ==== Sys2Proof/Machine/JobFx.lean ====
section
/-! DEFINITION. What the descriptors do (R133–R144, R174–R180): INVOKE, PLAN_REQUEST, models, partitions, the Quadrille table and the
fence report. -/
namespace Sys2Proof.Machine

/-! ### Areas of device memory that others must keep out of -/

def Dev.saveAreas (d : Dev) : List (Nat × Nat) := d.allParts.filterMap (fun p => if p.saveSize = 0 then none else some (p.saveBase, p.saveSize))
/-- Epoch table and speculation shadow area, while speculation is enabled (R193, R199). -/
def Dev.shadowBase (d : Dev) : Nat := d.rf JFE_SPEC_SHADOW_LO 31 23 * 2 ^ 23 + d.rf JFE_SPEC_SHADOW_HI 15 0 * 2 ^ 32
def Dev.specAreas (d : Dev) : List (Nat × Nat) := if d.rbit JFE_SPEC_CFG 0 then [(d.epochTable, 32768), (d.shadowBase, 2 ^ 25)] else []
/-- The label table (R331). -/
def Dev.labelArea (d : Dev) : List (Nat × Nat) :=
  let b := d.rpair BWR_LABEL_TABLE_LO BWR_LABEL_TABLE_HI
  if b = 0 then [] else [(b, 4096)]
/-- Sequence table, and the stream tables of active sequences (R252, R254). -/
def Dev.seqTable (d : Dev) : Nat := d.rf (TRC_SEQ_TABLE_LO 0) 31 18 * 2 ^ 18 + d.rf (TRC_SEQ_TABLE_HI 0) 15 0 * 2 ^ 32
def Dev.activeSeqs (d : Dev) : List (Nat × Seq) := d.seqs.filterMap (fun e => e.2.map (fun q => (e.1, q)))
def Dev.streamTables (d : Dev) : List (Nat × Nat) := d.activeSeqs.map (fun e => (e.2.streamBase, 8 * e.2.streams))
def Dev.traceryAreas (d : Dev) : List (Nat × Nat) := (if d.seqTable = 0 ∧ d.activeSeqs.isEmpty then [] else [(d.seqTable, 2 ^ 18)]) ++ d.streamTables
/-- Mirror reserves (R323). -/
def Dev.reserveAreas (d : Dev) : List (Nat × Nat) := ((List.range d.hw.dies).map d.reserve).filter (fun r => r.2 != 0)

/-- The parts of a Hod queue: data area, descriptor ring, release word, notify word (R377). -/
def Dev.hodData (d : Dev) (q : Nat) : Nat × Nat := (d.rpair (hodKey q 0x24) (hodKey q 0x28), 4096 * d.rn (hodKey q 0x2C))
def Dev.hodRing (d : Dev) (q : Nat) : Nat × Nat := (d.rpair (hodKey q 0x30) (hodKey q 0x34), 32 * 2 ^ d.rf (hodKey q 0x20) 4 0)
def Dev.hodRelease (d : Dev) (q : Nat) : Nat := d.rpair (hodKey q 0x38) (hodKey q 0x3C)
def Dev.hodNotify (d : Dev) (q : Nat) : Nat := d.rpair (hodKey q 0x40) (hodKey q 0x44)
def Dev.hodParts (d : Dev) (q : Nat) : List (Nat × Nat) :=
  [d.hodData q, d.hodRing q, (d.hodRelease q, 4)] ++ (if d.hodNotify q = 0 then [] else [(d.hodNotify q, 4)])
/-- Do a queue's parts lie in its owner's regions with the permissions R377 asks? -/
def Dev.hodWithin (d : Dev) (q : Nat) (p : Part) : Bool :=
  p.allows (d.hodData q).1 (d.hodData q).2 0 && p.allows (d.hodRing q).1 (d.hodRing q).2 0 && p.allows (d.hodRelease q) 4 1 &&
  (d.hodNotify q == 0 || p.allows (d.hodNotify q) 4 0)
/-- Enabled queues that partition `p` owns. -/
def Dev.hodOwned (d : Dev) (p : Nat) : List Nat :=
  (List.range 32).filter (fun q => (FMap.get HodQ.reset d.hod q).enabled && !d.rbit (hodKey q 0x20) 24 && d.rf (hodKey q 0x20) 23 20 == p)

/-! ### Taking a descriptor -/

/-- The oldest accepted descriptor that is not a LOAD_MODEL, when its type is `t`; the rest of the list. -/
def Dev.takeDesc (d : Dev) (t : Nat) : Option (List Byte × Dev) :=
  match d.jfe.accepted.find? (fun a => (descType a.bytes == 2) == (t == 2)) with
  | some a => if descType a.bytes = t then some (a.bytes, { d with jfe := { d.jfe with accepted := d.jfe.accepted.erase a } }) else none
  | none => none
/-- The completion of a descriptor that uses no context. -/
def Dev.reply (d : Dev) (bs : List Byte) (status : BitVec 8) (res16 res32 : Nat) : Dev :=
  d.answer (descSeq bs) (descNotify bs) (descType bs) status 0xFFFF none res16 res32
/-- Refuse a descriptor that names a context. -/
def Dev.refuse (d : Dev) (bs : List Byte) (status : BitVec 8) : Dev :=
  let p := if descType bs = 6 then some (fieldAt bs 6 1 % 16) else
    let m := d.model (fieldAt bs 6 2)
    if m.loaded && m.gen == fieldAt bs 6 2 / 256 then some m.part else none
  d.answer (descSeq bs) (descNotify bs) (descType bs) status (fieldAt bs 4 2 % 4096) p (if descType bs = 1 then 0xFFFF else 0) 0
/-- CONFIG_REJECTED (R162). -/
def Dev.configRejected (d : Dev) (kind reason : Nat) : Dev := d.emit .jfe 0x0305 1 kind reason

/-! ### INVOKE and PLAN_REQUEST (R136, R176–R179, R192, R256) -/

/-- The model a handle names: loaded, and of its generation. -/
def Dev.modelOf (d : Dev) (h : Nat) : Option Model := let m := d.model h; if m.loaded && m.gen == h / 256 then some m else none
/-- Clusters of dies the part has. -/
def Dev.presentClusters (d : Dev) : Nat := 2 ^ (8 * d.hw.dies) - 1
/-- DIES dies, each with CLUSTERS clusters. -/
def placeShape (mask dies clusters : Nat) : Bool :=
  let per := (List.range 4).map (fun n => ((List.range 8).filter (fun k => bitOf mask (8 * n + k))).length)
  (per.filter (· != 0)).length == dies && per.all (fun k => k == 0 || k == clusters)
/-- FIGURE: a compute figure of the partition in the running Quadrille whose resources cover the placement, or 0xFF. -/
def Dev.figureOk (d : Dev) (v : Invoke) (part : Nat) : Bool :=
  v.figure == 0xFF || (match d.figure v.figure with
    | some f => f.covers { Ctx.free with part := part, inv := v }
    | none => false)
/-- Is every binding of the model given once, within the partition's regions with the permissions it needs (R177)? -/
def bindingsOk (p : Part) (m : Model) (bs : List (Nat × Nat × Nat)) : Bool :=
  !anyPair (fun a b => a.1 == b.1) bs &&
  m.binds.all (fun n => bs.any (fun b => b.1 == n.1)) &&
  bs.all (fun b => match m.binds.find? (fun n => n.1 == b.1) with
    | some n => (!bitOf n.2.1 0 || p.allows b.2.1 (4096 * b.2.2) 0) && (!bitOf n.2.1 1 || p.allows b.2.1 (4096 * b.2.2) 1)
    | none => false)
/-- Addresses that bindings give for key-value sequences. -/
def kvBindings (m : Model) (bs : List (Nat × Nat × Nat)) : List Nat :=
  (bs.filter (fun b => m.binds.any (fun n => n.1 == b.1 && n.2.2))).map (fun b => b.2.1)
/-- The active sequence of the partition with this page table. -/
def Dev.seqAt (d : Dev) (part pt : Nat) : Option Nat := (d.activeSeqs.find? (fun e => e.2.owner == part && e.2.ptBase == pt)).map (·.1)

/-- Does the placement lie within the partition, on dies the part has? -/
def Dev.placeOk (d : Dev) (p : Part) (v : Invoke) : Bool :=
  subMask v.clusters p.clusters && subMask v.clusters d.presentClusters && subMask v.engines p.engines

/-- What an INVOKE gives: the job's fields, its partition and its sequences; none when a check of R136, R177, R192, R256 or R408 fails. -/
def Dev.invokeOf (d : Dev) (bs : List Byte) : Option (Invoke × Nat × List Nat) :=
  match d.modelOf (fieldAt bs 6 2) with
  | none => none
  | some m =>
    match d.part m.part with
    | none => none
    | some p =>
      let n := fieldAt bs 0x1C 2
      let tab := fieldAt bs 0x28 8
      if descReserved bs || (d.ctx (fieldAt bs 4 2 % 4096)).state != .free || n == 0 || decide (1024 < n) || tab % 16 != 0 || !inDram d.hw tab (16 * n) then none
      else
        let es := (List.range n).map (fun i => d.rd View.plain (tab + 16 * i) 16)
        let v := parseInvoke bs (es.map parseBinding)
        let kv := kvBindings m v.bindings
        let seqs := kv.filterMap (d.seqAt m.part)
        if es.any bindingReserved || !placeShape v.clusters m.dies m.clusters || !d.placeOk p v || !d.figureOk v m.part || epochsBad bs v ||
          !bindingsOk p m v.bindings || decide (64 < kv.length) || seqs.length != kv.length || d.recordBusy (fieldAt bs 4 2 % 4096) v.bindings
        then none else some (v, m.part, seqs)

/-- A context takes an accepted job: QUEUED, and released at once if its figure is open (R146). -/
def Dev.enqueueJob (d : Dev) (c : Nat) (x : Ctx) : Dev :=
  let d1 := { d with jfe := { d.jfe with order := d.jfe.order + 1 } }
  (d1.putCtx c { x with state := .queued, order := d.jfe.order, status := (d.ctx c).status }).releaseIfOpen c

def Dev.invokeFx (d : Dev) : Dev :=
  match d.takeDesc 1 with
  | none => d
  | some (bs, d) =>
    if d.stopped then d.refuse bs stSafeState
    else match d.invokeOf bs with
      | none => d.refuse bs stInvalidDesc
      | some (v, p, seqs) =>
        d.enqueueJob (fieldAt bs 4 2 % 4096)
          { Ctx.free with part := p, inv := v, seq := descSeq bs, notify := descNotify bs, sequences := seqs }

/-- The fields of a PLAN_REQUEST; none when a check fails. -/
def Dev.planReqOf (d : Dev) (bs : List Byte) : Option (Invoke × Nat) :=
  let k := fieldAt bs 6 1 % 16
  let v := { Invoke.empty with figure := fieldAt bs 7 1, deadline := fieldAt bs 8 4, engines := 2 ^ 16, command := fieldAt bs 0x10 8 }
  match d.part k with
  | none => none
  | some p =>
    if descReserved bs || (d.ctx (fieldAt bs 4 2 % 4096)).state != .free || !bitOf p.engines 16 || v.command % 64 != 0 || decide (2 ^ 48 ≤ v.command) ||
      !d.figureOk v k then none else some (v, k)

def Dev.planRequestFx (d : Dev) : Dev :=
  match d.takeDesc 6 with
  | none => d
  | some (bs, d) =>
    if d.stopped then d.refuse bs stSafeState
    else match d.planReqOf bs with
      | none => d.refuse bs stInvalidDesc
      | some (v, p) =>
        d.enqueueJob (fieldAt bs 4 2 % 4096) { Ctx.free with part := p, isPlan := true, inv := v, seq := descSeq bs, notify := descNotify bs }

/-! ### Models (R133–R135, R495, R497) -/

/-- Model-signing keys provisioned and not revoked (R502). -/
def Security.signers (s : Security) : List (List Byte) :=
  (List.range 2).filterMap (fun k => let key := s.fuses.modelKeys.getD k []; if key.all (· == 0) || bitOf s.fuses.revoked k then none else some key)

/-- A Window Engine convolution beyond the filter limit of R229. -/
def filterTooLarge (cmd : List Byte) : Bool :=
  fieldAt cmd 1 1 == 0 && (fieldAt cmd 2 1 == 1 || fieldAt cmd 2 1 == 2) && (decide (7 < fieldAt cmd 8 1) || decide (7 < fieldAt cmd 9 1) || decide (7 < fieldAt cmd 0xA 1))

/-- Free model slots. -/
def Dev.freeSlots (d : Dev) : List Nat := (List.range 256).filter (fun s => !(d.model s).loaded)
/-- Bytes of an image section. -/
def Dev.sectionBytes (d : Dev) (image : Nat) (s : Option Section) : List Byte :=
  match s with
  | some s => d.rd View.plain (image + s.off) s.size
  | none => []

/-- A failed check of R133: order number and status. -/
abbrev LoadFail := Nat × BitVec 8
def loadIf (bad : Bool) (n : Nat) (st : BitVec 8) (k : Except LoadFail (Nat × Model × Option (List Byte))) :
    Except LoadFail (Nat × Model × Option (List Byte)) := if bad then .error (n, st) else k

/-- The checks of R133 in order: the slot, the model, and its key when the constants are encrypted. -/
def Dev.loadOf (d : Dev) (bs : List Byte) : Except LoadFail (Nat × Model × Option (List Byte)) :=
  let pi := fieldAt bs 4 1 % 16
  let image := fieldAt bs 8 8
  let wrapped := fieldAt bs 0x18 8
  let hd := if inDram d.hw image 192 then d.rd View.plain image 192 else []
  let ss := imageSections hd
  let sigOff := match ss.find? (fun s => s.type == 7) with
    | some s => s.off
    | none => 0
  let signed := decide (192 ≤ sigOff) && inDram d.hw image (sigOff + 64)
  let digest := if signed then sha256 (d.rd View.plain image sigOff) else []
  let sig := if signed then d.rd View.plain (image + sigOff) 64 else []
  let flags := imageFlags hd
  let slots := d.freeSlots
  let slot := slots.getD (Config.slotPick d.freeCtr % max 1 slots.length) 0
  loadIf (!inDram d.hw image 192 || imageMagicBad hd) 1 stVersionUnsupported <|
  loadIf (decide (d.rn KEY_FEATURE_LEVEL % 65536 < fieldAt hd 6 2)) 2 stVersionUnsupported <|
  loadIf (!signed || !d.sec.signers.any (fun k => ecdsaVerify k digest sig)) 3 stSecurityDenied <|
  (match d.part pi with
   | none => .error (4, stInvalidDesc)
   | some p =>
     let m := { parseModel (d.rd View.plain) image hd pi ((d.model slot).gen % 255 + 1) with
                  digest := digest, binds := Config.tensorBinds (d.sectionBytes image (ss.find? (fun s => s.type == 3))), keyed := bitOf flags 2 }
     let streams := d.sectionBytes image (ss.find? (fun s => s.type == 6))
     loadIf (imageShapeBad d.hw hd image (fieldAt bs 0x10 8) || (wrapped != 0 && !bitOf flags 2)) 5 stInvalidDesc <|
     loadIf (yieldsBad (d.rd View.plain) image hd) 6 stInvalidDesc <|
     loadIf (p.cls != 0 && (bitOf flags 1 || (Config.streamCommands streams).any (fun o => filterTooLarge (streams.drop o)))) 7 stInvalidDesc <|
     loadIf (p.preemptible && !bitOf flags 0) 8 stInvalidDesc <|
     loadIf (decide (diesWith (p.clusters &&& d.presentClusters) m.clusters < m.dies)) 9 stInvalidDesc <|
     loadIf (slots.isEmpty || !p.allows m.code m.codeSize 2 || (decide (0 < m.constsSize) && !p.allows m.consts m.constsSize 0)) 10 stInvalidDesc <|
     if bitOf flags 2 then
       (match if d.sec.keys then d.unwrapKey (d.locRd true wrapped 144) else none with
        | some key => if constsTagOk key hd (d.rd View.plain m.consts m.constsSize) then .ok (slot, m, some key) else .error (10, stSecurityDenied)
        | none => .error (10, stSecurityDenied))
     else .ok (slot, m, none))

def Dev.loadModelFx (d : Dev) : Dev :=
  match d.takeDesc 2 with
  | none => d
  | some (bs, d) =>
    let reply (d : Dev) (st : BitVec 8) (r16 r32 : Nat) : Dev :=
      d.answer (descSeq bs) (descNotify bs) 2 st 0xFFFF (some (fieldAt bs 4 1 % 16)) r16 r32
    if descReserved bs then reply (d.configRejected 3 1) stInvalidDesc 0 0
    else match d.loadOf bs with
      | .error (n, st) => reply ((d.configRejected 3 9).configRejected 3 n) st 0 n
      | .ok (slot, m, key) =>
        let d1 := { d with freeCtr := d.freeCtr + 1, jfe := { d.jfe with models := FMap.set Model.none d.jfe.models slot m },
                           sec := { d.sec with modelKeys := FMap.set none d.sec.modelKeys slot key, installed := d.sec.installed || key.isSome } }
        reply d1 stOk (256 * m.gen + slot) 0

def Dev.unloadModelFx (d : Dev) : Dev :=
  match d.takeDesc 3 with
  | none => d
  | some (bs, d) =>
    let h := fieldAt bs 4 2
    match d.modelOf h with
    | none => d.reply bs stInvalidDesc h 0
    | some m =>
      if descReserved bs || d.ctxList.any (fun e => !e.2.isPlan && e.2.inv.model == h) then
        d.answer (descSeq bs) (descNotify bs) 3 stInvalidDesc 0xFFFF (some m.part) h 0
      else
        let d1 := { d with jfe := { d.jfe with models := FMap.set Model.none d.jfe.models (h % 256) { Model.none with gen := m.gen } },
                           sec := { d.sec with modelKeys := FMap.set none d.sec.modelKeys (h % 256) none } }
        d1.answer (descSeq bs) (descNotify bs) 3 stOk 0xFFFF (some m.part) h 0

/-! ### Partitions (R137–R140, R190, R324, R332, R336, R377) -/

/-- The reason a BIND_PARTITION is refused, 0 for none. -/
def Dev.bindReason (d : Dev) (desc bs : List Byte) : Nat :=
  let p := parsePart bs
  let others := d.allParts.filter (fun q => q.index != p.index)
  if d.rbit JFE_CFG 0 then 0x0A
  else if descReserved desc || fieldAt desc 8 8 % 64 != 0 || !inMem d.hw (fieldAt desc 8 8) 384 || partReserved bs then 0x01
  else if partRuleBroken d.hw p others || !bitOf p.bwClasses p.bwDefault || d.ringAreas.any (fun a => p.touches a.1 a.2) ||
    (d.mirrorsFor p (mirrorsWithout d.mirrors p.index)).isNone || (d.hodOwned p.index).any (fun q => !d.hodWithin q p) then 0x08
  else match d.jfe.quad with
    | some q => if d.admits q (fun k => if k = p.index then p.bwClasses else d.bwClasses k) (fun s => FMap.get 0 d.bw.rt s)
        (fun k s => FMap.get 0 d.bw.gSet (8 * k + s)) then 0 else 0x07
    | none => 0

/-- Does a QUEUED context still pass R136 against its partition's entry? -/
def Dev.stillFits (d : Dev) (c : Nat) : Bool :=
  let x := d.ctx c
  match d.part x.part with
  | none => false
  | some p =>
    if x.isPlan then bitOf p.engines 16
    else d.placeOk p x.inv && (match d.modelOf x.inv.model with
      | some m => bindingsOk p m x.inv.bindings
      | none => false)
/-- A binding takes effect: its copies are allocated, its semaphores reset, its QUEUED contexts checked again. -/
def Dev.applyPart (d : Dev) (p : Part) : Dev :=
  let ms := match d.mirrorsFor p (mirrorsWithout d.mirrors p.index) with
    | some ms => ms
    | none => mirrorsWithout d.mirrors p.index
  let d1 := { d with mirrors := ms, jfe := { d.jfe with parts := FMap.set none d.jfe.parts p.index (some p) } }
  let mine := (d1.sems.map (·.1)).filter (fun n => p.grantsSem n)
  let d2 := mine.foldl (fun d n => d.releaseSem n false) d1
  d2.eachCtx (fun d c => if (d.ctx c).state = .queued ∧ (d.ctx c).part = p.index ∧ !d.stillFits c then d.endCtx c stInvalidDesc else d)

/-- Does a compute or test figure of the running Quadrille name the partition (R140)? -/
def Dev.scheduled (d : Dev) (p : Nat) : Bool := match d.jfe.quad with
  | some q => q.figures.any (fun f => f.type != 2 && f.part == p)
  | none => false

def Dev.bindFx (d : Dev) : Dev :=
  match d.takeDesc 4 with
  | none => d
  | some (desc, d) =>
    let bs := d.locRd true (fieldAt desc 8 8) 384
    let r := d.bindReason desc bs
    let p := parsePart bs
    if r ≠ 0 then (d.configRejected 1 r).reply desc (if r = 0x0A then stSecurityDenied else stInvalidDesc) p.index r
    else if d.scheduled p.index then ({ d with jfe := { d.jfe with waiting := FMap.set none d.jfe.waiting p.index (some p) } }).reply desc stOk p.index 1
    else (d.applyPart p).reply desc stOk p.index 0

/-! ### The Quadrille table (R141–R143, R336) -/

/-- The reason a SET_QUADRILLE is refused, 0 for none. -/
def Dev.quadReason (d : Dev) (desc bs : List Byte) (q : Quadrille) (origin : Nat) : Nat :=
  let cls := d.classOf
  let pre (p : Nat) : Bool := match d.part p with
    | some x => x.preemptible
    | none => false
  if d.rbit JFE_CFG 0 then 0x0A
  else if descReserved desc || fieldAt desc 8 8 % 64 != 0 || !inMem d.hw (fieldAt desc 8 8) 64 then 0x01
  else if quadShape bs q ≠ 0 then quadShape bs q
  else if origin ≠ 0 ∧ origin < d.now + 1000000 then 0x03
  else if figureBounds q then 0x02
  else if figureTooLate q then 0x04
  else if q.figures.any (fun f => f.type != 2 && (match d.part f.part with
      | none => true
      | some p => !subMask f.clusters d.presentClusters || !subMask (f.engines % 65536) (2 ^ (4 * d.hw.dies) - 1) ||
          (f.type == 0 && (!subMask f.clusters p.clusters || !subMask f.engines p.engines)))) then 0x05
  else if anyPair (overlapBroken cls pre) q.figures then 0x06
  else if !d.admits q d.bwClasses d.stagedRt d.stagedG then 0x07
  else 0

def Dev.setQuadrilleFx (d : Dev) : Dev :=
  match d.takeDesc 5 with
  | none => d
  | some (desc, d) =>
    let t := fieldAt desc 8 8
    let hd := d.locRd true t 64
    let bs := hd ++ d.locRd true (t + 64) (32 * fieldAt hd 1 1)
    let q := parseQuadrille bs
    let origin := fieldAt bs 8 8
    let r := d.quadReason desc bs q origin
    if r ≠ 0 then (d.configRejected 2 r).reply desc (if r = 0x0A then stSecurityDenied else stInvalidDesc) 0 r
    else
      let o := if origin = 0 ∧ d.jfe.quad.isNone then d.now + 1000000 else origin
      ({ d with jfe := { d.jfe with quadNext := some (q, o) } }).reply desc stOk 1 0

/-! ### The fence report (R420) -/

def Dev.anyBanded (d : Dev) (g : Nat) : Bool := let b := d.bandsOf g; !b.outright && b.cells != 0
/-- Fenced units of kind `k` on a die. -/
def Dev.fencedKind (d : Dev) (n k : Nat) : List Nat :=
  (d.fences.filter (fun e => e.2 && unitDie e.1 == n && unitKind e.1 == k)).map (fun e => unitNum e.1)
/-- Layers of a die in a state, bit 8i + l. -/
def Dev.layerBits (d : Dev) (n : Nat) (p : LayerSt → Bool) : Nat :=
  ((List.range 16).filter (fun k => p (d.layerSt (2 * n + k / 8) (k % 8)))).foldl (fun a k => a + 2 ^ k) 0
def bitsSum (ks : List Nat) : Nat := ks.foldl (fun a k => a + 2 ^ k) 0
def Dev.reportDie (d : Dev) (n : Nat) : List Byte :=
  let some_ (k : Nat) : Nat := bitsSum ((d.fencedKind n k).filter (fun u => decide (u < 8)))
  leBytes 1 (some_ 1) ++ leBytes 1 (some_ 2) ++ leBytes 1 (some_ 3) ++ leBytes 1 0 ++
  leBytes 2 (d.layerBits n (· == .fenced)) ++ leBytes 2 (d.layerBits n (· == .spared)) ++ leBytes 2 (d.fencedKind n 0).length ++
  leBytes 2 ((d.pav.bands.filter (fun e => coreDie e.1 == n && d.anyBanded e.1)).length) ++ List.replicate 36 0
/-- Fenced units: dies, clusters, engines, links, cores and Cairn, and layers. -/
def Dev.fencedCount (d : Dev) : Nat :=
  (d.fences.filter (fun e => e.2 && unitKind e.1 != 4)).length +
  ((List.range 4).map (fun n => ((List.range 16).filter (fun k => d.layerSt (2 * n + k / 8) (k % 8) == .fenced)).length)).sum
def Dev.fenceReport (d : Dev) : List Byte :=
  let summary := bitsSum ((List.range 4).filter d.dieFenced) + (if d.fenced cairnUnit then 2 ^ 8 else 0) + (if d.qn.a.st = .failed then 2 ^ 9 else 0) +
    (if d.qn.b.st = .failed then 2 ^ 10 else 0)
  leBytes 1 1 ++ leBytes 1 0 ++ leBytes 2 d.fencedCount ++ leBytes 4 summary ++ leBytes 8 d.now ++ List.replicate 16 0 ++
  (List.range 4).flatMap d.reportDie ++ List.replicate 32 0

def Dev.queryFenceFx (d : Dev) : Dev :=
  match d.takeDesc 7 with
  | none => d
  | some (bs, d) =>
    let a := fieldAt bs 8 8
    if descReserved bs || !inDram d.hw a 256 then d.reply bs stInvalidDesc 0 0
    else (d.wr View.plain a d.fenceReport).reply bs stOk 0 d.fencedCount

def Dev.descNopFx (d : Dev) : Dev :=
  match d.takeDesc 15 with
  | none => d
  | some (bs, d) => d.reply bs (if descReserved bs then stInvalidDesc else stOk) 0 0

end Sys2Proof.Machine
end

