-- ==== Sys2Proof/Machine/FrameFx.lean ====
section
/-! DEFINITION. What happens to jobs in a frame (R53, R54, R144–R157, R434–R437): figures, starts, couple hand-overs, the end of a job,
and pre-emption. -/
namespace Sys2Proof.Machine

/-! ### Registers of a save (R132, R154) -/

/-- Entries of `a` where `keep` holds, of `b` elsewhere. -/
def mergeMap {α : Type} (keep : Nat → Bool) (a b : FMap α) : FMap α :=
  (a.filter (fun e => keep e.1)).foldl (fun m e => FMap.insert m e.1 e.2) (b.filter (fun e => !keep e.1))
/-- The registers a live-range mask lists from `a`, the others from `b`; flags and generator state from `a`. -/
def Regs.blend (mask : BitVec 128) (a b : Regs) : Regs :=
  { s := mergeMap (fun i => mask.getLsbD i) a.s b.s, a := mergeMap (fun i => mask.getLsbD (0x20 + i)) a.a b.a,
    p := mergeMap (fun i => mask.getLsbD (0x30 + i)) a.p b.p, v := mergeMap (fun i => mask.getLsbD (0x38 + i)) a.v b.v,
    side := mergeMap (fun i => mask.getLsbD (0x38 + i)) a.side b.side, t := mergeMap (fun i => mask.getLsbD (0x78 + i / 16)) a.t b.t,
    flags := a.flags, lfsr := a.lfsr }

def saveKey (c g : Nat) : Nat := 4096 * c + g
/-- Save a core's checkpoint with the ranges it watches, and stop it (R118 step 6, R154). -/
def Dev.saveCore (d : Dev) (c g : Nat) (k : Checkpoint) : Dev :=
  let x := d.core g
  let slot : SaveSlot := { ck := k, bytes := k.ranges.map (fun r => (r.1, x.lsRead r.1 r.2)) }
  let d1 := { d with jfe := { d.jfe with saves := FMap.set none d.jfe.saves (saveKey c g) (some slot) } }
  (d1.putCore g { x with st := .saved, wait := .none, remoteSince := none, dma := [] }).suspendIfSaved c

/-! ### Figures (R146, R153) -/

/-- FIGURE_OPEN: the figure's Plumb time has come. -/
def Dev.figureOpenFx (d : Dev) (i : Nat) : Dev :=
  match d.figure i with
  | none => d
  | some f =>
    if d.jfe.opened.contains i || d.jfe.done.contains i || f.length == 0 || decide (d.clock < d.jfe.origin + f.start) then d
    else
      let d1 := { d with jfe := { d.jfe with opened := d.jfe.opened ++ [i], done := d.jfe.done ++ [i] } }
      if f.type ≠ 0 then d1
      else
        let paired := match d1.part f.part with
          | some p => p.paired
          | none => false
        let d2 := d1.eachCtx (fun d c =>
          let x := d.ctx c
          if x.state == .running && decide (d.classOf x.part < d.classOf f.part) &&
            (clustersOf (x.inv.clusters &&& f.clusters)).any (fun k => d.clusterJoined k != paired) then d.request c 0xFFFFFFFF else d)
        d2.eachCtx (fun d c =>
          let x := d.ctx c
          if x.state == .queued && (x.inv.figure == i || (x.inv.figure == 0xFF && f.covers x)) then d.release c i else d)

/-- FIGURE_CLOSE: epochs opened in it are squashed with DEADLINE, then every job released in it that is left ends (R34, R147, R205). -/
def Dev.figureCloseFx (d : Dev) (i : Nat) : Dev :=
  match d.figure i with
  | none => d
  | some f =>
    if !d.jfe.opened.contains i || decide (d.clock < d.jfe.origin + f.start + f.length) then d
    else
      let d1 := { d with jfe := { d.jfe with opened := d.jfe.opened.erase i } }
      if f.type ≠ 0 then d1
      else
        let d2 := d1.jfe.epochs.foldl (fun (d : Dev) (e : Nat × Epoch) => if e.2.state == EpochState.opened && e.2.figure == i then d.squash e.1 0x02 else d) d1
        d2.eachCtx (fun d c =>
          let x := d.ctx c
          if x.figure = some i ∧ x.state.released ∧ x.state ≠ .draining then d.trigger c stDroppedLate else d)

/-- JOB_DEADLINE. -/
def Dev.jobDeadlineFx (d : Dev) (c : Nat) : Dev :=
  let x := d.ctx c
  if x.state.released ∧ x.state ≠ .draining ∧ x.deadlineAt ≤ d.clock then d.trigger c stDroppedLate else d

/-! ### Starting (R54, R76, R146, R408) -/

/-- A command enters its partition's Cairn queue. -/
def Dev.pushCairn (d : Dev) (k : EngCmd) : Dev :=
  { d with crn := { d.crn with queues := FMap.modify [] d.crn.queues k.part (· ++ [k]) } }
def Dev.cairnQueued (d : Dev) (p : Nat) : Nat := (FMap.get [] d.crn.queues p).length

/-- A core as the job finds it: its registers and local store undefined unless it was zeroed (R54). -/
def Core.begin (k : Core) (draw : Nat) (c part : Nat) (pc : BitVec 48) (lfsr : BitVec 64) : Core :=
  let k1 := if k.fresh then k else { k with regs := Regs.undefined draw, ls := [], lsGen := draw + 1 }
  { k1 with fresh := false, st := .running, ctx := some c, lastPart := some part, pc := pc, ckpt := none, dma := [], wait := .none, borrow := [],
            tickets := [], regs := { k1.regs with flags := 0, lfsr := lfsr }, remoteSince := none }
/-- The generator's state: the seed, exclusive-or the global core ID of the couple's lead; 0 becomes 1 (R76). -/
def seedOf (seed : BitVec 64) (g : Nat) : BitVec 64 := let x := seed ^^^ BitVec.ofNat 64 (g / 2 * 2); if x = 0 then 1 else x

/-- May the context start now? -/
def Dev.canStart (d : Dev) (c : Nat) : Bool :=
  d.eligible c && (d.holders c).isEmpty && d.coresReady c && d.modeRight c && (!(d.ctx c).isPlan || decide (d.cairnQueued (d.ctx c).part < 16))

/-- JOB_START: RUNNING, every core at ENTRY together. -/
def Dev.jobStartFx (d : Dev) (c : Nat) : Dev :=
  if !d.canStart c then d
  else
    let x := d.ctx c
    let gs := (coresOf x.inv.clusters).filter (fun g => !d.isFollow g)
    let d1 := d.putCtx c { x with state := .running, startNs := some d.clock, coresLeft := gs.length, rerunWait := false }
    if x.isPlan then
      { d1.pushCairn { ctx := c, part := x.part, addr := x.inv.command, ticket := none, order := d1.jfe.order, firstStart := none, restarts := 0,
                       core := none } with jfe := { d1.jfe with order := d1.jfe.order + 1 } }
    else
      let entry := BitVec.ofNat 48 (d1.model x.inv.model).entry
      let d2 := gs.foldl (fun d g =>
        (({ d with freeCtr := d.freeCtr + 1 }).putCore g ((d.core g).begin d.freeCtr c x.part entry (seedOf x.inv.seed g))).arrive g) d1
      d2.openRecords c

/-- ZEROING_COMPLETE: everything of the core is zero, its programmable Gauge counters and its breakpoints with it (R54, R517, R521). -/
def Dev.zeroingDoneFx (d : Dev) (g : Nat) : Dev :=
  let k := d.core g
  if k.st ≠ .zeroing then d
  else
    { d.setCore g { k with st := .idle, regs := Regs.zero, ls := [], lsGen := 0, dma := [], fresh := true, ckpt := none } with
      dbg := { d.dbg with points := FMap.set Points.none d.dbg.points g Points.none },
      gau := { d.gau with core := FMap.keep (fun j _ => j / 16 != g) d.gau.core, wrapped := FMap.keep (fun j _ => j / 16 != g) d.gau.wrapped } }

/-! ### Couple hand-overs (R433–R437) -/

/-- Cores of cluster 8n + c. -/
def clusterCores (k : Nat) : List Nat := coresOf (2 ^ k)
def Dev.couple (d : Dev) (i : Nat) : Couple := FMap.get Couple.reset d.pav.couples i
def Dev.setCouple (d : Dev) (i : Nat) (x : Couple) : Dev := { d with pav := { d.pav with couples := FMap.set Couple.reset d.pav.couples i x } }
/-- Schedule a full pass of a place, once (R439). -/
def Dev.schedulePass (d : Dev) (place : Nat) : Dev :=
  if d.pav.scheduled.any (fun x => x.2.1 == place) then d
  else { d with pav := { d.pav with scheduled := d.pav.scheduled ++ [(d.jfe.order, place, [0, 1, 2, 3, 4])] },
                jfe := { d.jfe with order := d.jfe.order + 1 } }

/-- A context of a PAIRED partition is placed on the couple. -/
def Dev.pairedOn (d : Dev) (c i : Nat) : Bool := d.ctxPaired c && bitOf (d.ctx c).inv.clusters (i / 64)
/-- Fence a couple for paired work (R436): cause 1 thresholds, 2 short pass, 3 comparator. Jobs of PAIRED partitions placed on it that
wait or are suspended end with FENCED_RESOURCE. -/
def Dev.pairFence (d : Dev) (i cause : Nat) (disable : Bool) : Dev :=
  let k := d.couple i
  let d1 := d.setCouple i { k with pairFenced := true, cmpDisabled := k.cmpDisabled || disable }
  if k.pairFenced then d1
  else
    let d2 := d1.emit (.pav (i / 512)) 0x0C02 3 (2 * i) cause
    d2.eachCtx (fun d c =>
      let s := (d.ctx c).state
      if d.pairedOn c i && (s == .ready || s == .suspended || s == .resuming) then d.trigger c stFencedResource else d)

/-- May cluster `k` change to the mode that some context waits for? Its cores are idle, and for a join zeroed. -/
def Dev.handoverDue (d : Dev) (k : Nat) (join : Bool) : Bool :=
  d.ctxList.any (fun e =>
    ((d.eligible e.1 && (d.holders e.1).isEmpty) || e.2.state == .resuming) && d.ctxPaired e.1 == join && bitOf e.2.inv.clusters k &&
    d.clusterJoined k != join &&
    (clusterCores k).all (fun g => (d.core g).st == .idle && (d.core g).ctx == none && (!join || (d.core g).lastPart == some e.2.part)))

/-- JOIN_HANDOVER_COMPLETE: the follow takes the lead's state, the short pass is judged, and the couples that pass are joined and armed.
`failed`: couple within the cluster, lanes, and whether an injection was missed. -/
def Dev.joinFx (d : Dev) (k : Nat) (failed : List (Nat × Nat × Bool)) : Dev :=
  if !d.handoverDue k true then d
  else
    let d1 := (List.range 64).foldl (fun d j =>
      let i := 64 * k + j
      let d1 := d.setCore (2 * i + 1) { d.core (2 * i) with ceTicks := (d.core (2 * i + 1)).ceTicks }
      match failed.find? (fun f => f.1 == j) with
      | some f => (d1.setCouple i { d1.couple i with lanes := f.2.1 % 4096 }).pairFence i 2 f.2.2
      | none => { d1.setCouple i { d1.couple i with armed := true } with joined := FMap.set false d1.joined i true }) d
    if (List.range 64).any (fun j => failed.any (fun f => f.1 == j)) then d1.schedulePass k else d1

/-- SPLIT_HANDOVER_COMPLETE: comparators disarmed, the follows' state discarded; an injection still pending is dropped (R434, R452). -/
def Dev.splitFx (d : Dev) (k : Nat) : Dev :=
  if !d.handoverDue k false then d
  else (List.range 64).foldl (fun d j =>
    let i := 64 * k + j
    if !FMap.get false d.joined i then d
    else
      let d1 := d.setCouple i { d.couple i with armed := false }
      let f := d1.core (2 * i + 1)
      { d1.setCore (2 * i + 1) { Core.off with st := .idle, lastPart := none, ceTicks := f.ceTicks, lastTime := f.lastTime } with
        joined := FMap.set false d1.joined i false, pav := { d1.pav with inject := FMap.set none d1.pav.inject i none } }) d

/-! ### Ending (R120, R148, R151, R154) -/

/-- Has the context commands in an engine or in Cairn? -/
def Dev.engineBusy (d : Dev) (c : Nat) : Bool :=
  let mine (q : FMap (List EngCmd)) : Bool := q.any (fun e => e.2.any (fun k => k.ctx == c))
  d.engs.any (fun e => mine e.2.queues || (match e.2.run with
    | some r => r.cmd.ctx == c
    | none => false)) || mine d.crn.queues ||
  (match d.crn.check with
    | some r => r.cmd.ctx == c
    | none => false) ||
  (match d.crn.worldRun with
    | some r => r.cmd.ctx == c
    | none => false)

/-- JOB_COMPLETE: every core has executed END and every write is complete. -/
def Dev.jobCompleteFx (d : Dev) (c : Nat) : Dev :=
  let x := d.ctx c
  if x.state.executes ∧ x.coresLeft = 0 ∧ !x.isPlan ∧ !d.engineBusy c ∧ !d.jfe.heldWrites.any (fun h => h.ctx == c && h.epoch == 0)
  then d.endCtx c stOk else d

/-- Is an address on another die than the core's? -/
def Dev.remoteTo (d : Dev) (g a : Nat) : Bool := match (placeOf d.hw a).die with
  | some n => n != coreDie g
  | none => false
/-- Remote transactions of a core: its descriptors that reach another die, and a wait that does. -/
def Dev.remoteCount (d : Dev) (g : Nat) : Nat :=
  let k := d.core g
  (k.dma.filter (fun e => d.remoteTo g e.remote)).length + (match k.wait with
    | .sema _ _ => 1
    | .mwait _ => 1
    | .amo _ => 1
    | _ => 0)

/-- REMOTE_DRAIN_EXPIRY (R151 step 4): what a torn-down job still has over Arch links is aborted. -/
def Dev.remoteDrainFx (d : Dev) (c : Nat) : Dev :=
  let x := d.ctx c
  let due := match x.trigTick with
    | some t => decide (t + ticksUs (d.rn JFE_REMOTE_DRAIN % 32) ≤ d.ticks)
    | none => false
  if x.state ≠ .draining ∨ !due then d
  else
    let gs := (d.coresOn c).filter (fun g => (d.core g).dma.any (fun e => d.remoteTo g e.remote))
    if gs.isEmpty then d
    else
      let n := (gs.map (fun g => ((d.core g).dma.filter (fun e => d.remoteTo g e.remote)).length)).sum
      (gs.foldl (fun d g => d.modCore g (fun k => { k with dma := k.dma.filter (fun e => !d.remoteTo g e.remote) })) d).emit .jfe 0x0304 1 c n

/-- REMOTE_WAIT_TIMEOUT (R154 step 2). -/
def Dev.remoteWaitFx (d : Dev) (g : Nat) : Dev :=
  let k := d.core g
  match k.ctx, k.remoteSince with
  | some c, some t =>
    let x := d.ctx c
    if x.state ≠ .yielding ∨ k.st ≠ .running ∨ d.isFollow g ∨ d.ticks < t + ticksUs (d.rn JFE_REMOTE_DRAIN % 32) then d
    else
      let d1 := (d.unwait g).emit .jfe 0x0304 1 c (d.remoteCount g)
      match k.ckpt with
      | some ck =>
        if !k.borrow.isEmpty || !(d1.semsHeld c).isEmpty then d1.trigger c stPreemptedDiscarded
        else ((d1.modCtx c (fun x => { x with rolledBack := true })).emit .jfe 0x0303 1 g ck.index).saveCore c g ck
      | none => d1.trigger c stPreemptedDiscarded
  | _, _ => d

/-- PREEMPT_LIMIT_EXPIRY (R154 step 3). -/
def Dev.preemptLimitFx (d : Dev) (c : Nat) : Dev :=
  let x := d.ctx c
  if x.state = .yielding ∧ x.preemptTick + ticksUs (d.rn JFE_PREEMPT_LIMIT % 1024) ≤ d.ticks then d.trigger c stPreemptedDiscarded else d

/-! ### Resuming (R156) -/

/-- May a suspended context take its clusters back? -/
def Dev.canResume (d : Dev) (c : Nat) : Bool :=
  let x := d.ctx c
  x.state == .suspended && !d.stopped && (d.holders c).isEmpty && !d.placedFenced c true &&
  (d.modeRight c || !d.jfe.opened.any (fun i => match d.figure i with
    | some f => f.type == 0 && decide (d.classOf x.part < d.classOf f.part) && f.clusters &&& x.inv.clusters != 0
    | none => false)) &&
  !d.ctxList.any (fun e => d.eligible e.1 && shares e.2 x && decide (d.classOf x.part < d.classOf e.2.part))

/-- JOB_RESUME. -/
def Dev.jobResumeFx (d : Dev) (c : Nat) : Dev :=
  let x := d.ctx c
  if !d.canResume c then d
  else match d.partOfCtx c with
    | none => d
    | some p =>
      if d.rangeLost p.saveBase p.saveSize then d.trigger c stMemoryUncorrectable
      else (d.putCtx c { x with state := .resuming }).emit .jfe 0x0302 0 c (min 0xFFFFFFFF ((d.clock - x.suspendNs) / 1000))

/-- A core takes its save back: the listed registers and ranges, all else as zeroing left it, or undefined. -/
def Core.restore (k : Core) (draw c : Nat) (s : SaveSlot) : Core :=
  let k1 := if k.fresh then k else { k with regs := Regs.undefined draw, ls := [], lsGen := draw + 1 }
  let k2 := s.bytes.foldl (fun k r => k.lsWrite r.1 r.2) k1
  { k2 with fresh := false, st := .running, ctx := some c, pc := s.ck.pc, ckpt := some s.ck, dma := [], wait := .none, borrow := [], tickets := [],
            regs := Regs.blend s.ck.mask s.ck.regs k1.regs, remoteSince := none }

/-- The saves of a context: core and slot. -/
def Dev.savesOf (d : Dev) (c : Nat) : List (Nat × SaveSlot) :=
  d.jfe.saves.filterMap (fun e => if e.1 / 4096 = c then e.2.map (fun s => (e.1 % 4096, s)) else none)
/-- RESUME_COMPLETE: every core is restored. -/
def Dev.resumeDoneFx (d : Dev) (c : Nat) : Dev :=
  let x := d.ctx c
  if x.state ≠ .resuming ∨ !d.coresReady c ∨ !d.modeRight c then d
  else
    let d1 := (d.savesOf c).foldl (fun d e =>
      (({ d with freeCtr := d.freeCtr + 1 }).putCore e.1 ((d.core e.1).restore d.freeCtr c e.2)).arrive e.1) d
    (d1.dropSaves c).putCtx c { x with state := .running }

/-! ### The frame boundary, as far as jobs go (R34, R140, R144, R194, R209) -/

/-- May the boundary come? The frame has run its length, its figures are closed and its jobs have ended, as R34, R142 and R151 make sure;
with no Quadrille running, the pending one's origin has come. -/
def Dev.boundaryDue (d : Dev) : Bool :=
  d.jfe.opened.isEmpty && !d.ctxList.any (fun e => e.2.state.released) &&
  (match d.jfe.quad, d.jfe.quadNext with
    | some q, _ => decide (d.jfe.origin + q.frame ≤ d.clock)
    | none, some (_, o) => decide (o ≤ d.now)
    | none, none => false)

/-- Origin of the frame that begins, on the elapsed clock. -/
def Dev.nextOrigin (d : Dev) : Nat := match d.jfe.quad, d.jfe.quadNext with
  | some q, _ => d.jfe.origin + q.frame
  | none, some (_, o) => d.ofPlumb o
  | none, none => d.jfe.origin
/-- The Quadrille that takes effect at this boundary. -/
def Dev.switchTo (d : Dev) : Option Quadrille := match d.jfe.quadNext with
  | some (q, o) => if d.jfe.quad.isNone ∨ o + d.clock ≤ d.now + d.nextOrigin then some q else none
  | none => none

/-- Bindings that waited take effect. -/
def Dev.applyWaiting (d : Dev) : Dev :=
  let ps := d.jfe.waiting.filterMap (·.2)
  ps.foldl Dev.applyPart { d with jfe := { d.jfe with waiting := [] } }

/-- The switch: counters, bandwidth values, and QUEUED contexts whose figure is gone (R144, R209, R334). -/
def Dev.switchQuad (d : Dev) (q : Quadrille) : Dev :=
  let d1 := d.emit .jfe 0x0306 0 d.jfe.frameCount.toNat q.figures.length
  let d2 := { d1 with jfe := { d1.jfe with quad := some q, quadNext := none, frameCount := 0, warmup := 8 } }
  let d3 := (List.range (2 * d.hw.dies)).foldl Dev.recomputeStack d2.stageBw
  d3.eachCtx (fun d c =>
    let x := d.ctx c
    if x.state == .queued && x.inv.figure != 0xFF && !(match d.figure x.inv.figure with
      | some f => f.type == 0 && f.part == x.part
      | none => false) then d.endCtx c stInvalidDesc else d)

/-- A major frame begins. -/
def Dev.frameCore (d : Dev) : Dev :=
  let o := d.nextOrigin
  let sw := d.switchTo
  let gone (e : Epoch) : Bool := e.state == EpochState.confirmed || e.state == EpochState.squashed
  let es := FMap.mapAll Epoch.free (fun _ (e : Epoch) => if gone e then Epoch.free else e) d.jfe.epochs
  let d1 := { d with jfe := { d.jfe with epochs := es, origin := o, done := [], frames := d.jfe.frames + 1 }, poisonTold := [] }
  let d2 := d1.applyWaiting
  match sw with
  | some q => d2.switchQuad q
  | none => { d2 with jfe := { d2.jfe with frameCount := d2.jfe.frameCount + 1, warmup := d2.jfe.warmup - 1 } }

end Sys2Proof.Machine
end

