-- ==== Sys2Proof/Machine/RouteOps.lean ====
section
/-! DEFINITION. The routes between dies (R26–R28, R351). A route is the list of the links it takes, each named by the Course die
and port it leaves from or, for a spoke, by the spoke. The Keystone is die 8. -/
namespace Sys2Proof.Machine

/-- The port at the other end of a ring port: east meets west. -/
def oppositePort (p : Nat) : Nat := 1 - p
/-- Is the link of a port in service at both its ends? -/
def Dev.linkUp (d : Dev) (n p : Nat) : Bool :=
  connected d.hw n p && !d.linkFenced n p &&
  (p == 2 || !d.linkFenced (neighbour d.hw n p) (oppositePort p))

/-- The ring path from `a` to `b` leaving by port `p`, when every link of it is in service. -/
def Dev.ringWalk (d : Dev) (p b : Nat) : Nat → Nat → Option (List (Nat × Nat))
  | 0, a => if a = b then some [] else none
  | f + 1, a =>
    if a = b then some []
    else if d.linkUp a p then (d.ringWalk p b f (neighbour d.hw a p)).map (fun r => (a, p) :: r) else none

/-- The shorter of two routes, the first on a tie. -/
def shorter (x y : Option (List (Nat × Nat))) : Option (List (Nat × Nat)) :=
  match x, y with
  | some r, some s => if s.length < r.length then some s else some r
  | some r, none => some r
  | none, y => y
/-- The ring path between two Course dies: fewest hops, east on a tie. -/
def Dev.ringRoute (d : Dev) (a b : Nat) : Option (List (Nat × Nat)) := shorter (d.ringWalk 0 b 3 a) (d.ringWalk 1 b 3 a)

/-- The route between a Course die and the Keystone: its spoke, else the spoke of the nearest die that has a route, lower number on a
tie. -/
def Dev.keyRoute (d : Dev) (n : Nat) : Option (List (Nat × Nat)) :=
  if d.linkUp n 2 then some [(n, 2)]
  else (List.range d.hw.dies).foldl (fun best m =>
    if m != n && d.linkUp m 2 then shorter best ((d.ringRoute n m).map (fun r => r ++ [(m, 2)])) else best) none

/-- The route from one die to another. -/
def Dev.route (d : Dev) (a b : Nat) : Option (List (Nat × Nat)) :=
  if a = b then some []
  else if b = 8 then d.keyRoute a
  else if a = 8 then (d.keyRoute b).map List.reverse
  else match d.ringRoute a b with
    | some r => some r
    | none => (d.keyRoute a).bind (fun r => (d.keyRoute b).map (fun t => r ++ t.reverse))

/-- The port a route from a Course die leaves by; none within the die. -/
def Dev.firstPort (d : Dev) (a b : Nat) : Option Nat :=
  match d.route a b with
  | some ((_, p) :: _) => some p
  | _ => none

end Sys2Proof.Machine
end

