-- ==== Sys2Proof/Machine/CoreFx.lean ====
section
/-! DEFINITION. How a Sedun instruction issues (R48, R49, R93–R97, R125–R127, R431, R432): what must hold, the storage errors it meets,
its fault, and a difference between the halves of its couple. -/
namespace Sys2Proof.Machine

/-! ### Gauge counters of a core (R521) -/

/-- Are the per-core counters active (R523)? -/
def Dev.coreGauges (d : Dev) : Bool := !d.rbit GAU_CFG 0
/-- The event that counter `j` (1–8) counts. -/
def Dev.gaugeEvent (d : Dev) (j : Nat) : Nat := bitsOf (d.rn GAU_CORE_EVT0 + 2 ^ 32 * d.rn GAU_CORE_EVT1) (8 * j - 1) (8 * j - 8)
/-- Add `n` to a counter of 48 bits and note a wrap. -/
def Dev.addGauge (d : Dev) (g j n : Nat) : Dev :=
  let v := FMap.get 0 d.gau.core (16 * g + j) + n
  { d with gau := { d.gau with core := FMap.set 0 d.gau.core (16 * g + j) (v % 2 ^ 48),
                               wrapped := if 2 ^ 48 ≤ v then FMap.set false d.gau.wrapped (16 * g + j) true else d.gau.wrapped } }
/-- `n` events of a kind at one core. -/
def Dev.count1 (d : Dev) (g code n : Nat) : Dev :=
  if n = 0 ∨ !d.coreGauges ∨ !d.rbit GAU_CFG 1 then d
  else (List.range 8).foldl (fun d i => if d.gaugeEvent (i + 1) = code then d.addGauge g (i + 1) n else d) d
/-- At a core, and at the follow of a joined couple with it. -/
def Dev.count (d : Dev) (g code n : Nat) : Dev :=
  let d1 := d.count1 g code n
  if d.isJoined g then d1.count1 (g + 1) code n else d1

/-! ### Storage errors (R48, R87) -/

def coreBlock (g : Nat) : Block := .ash (coreDie g) (coreCluster g)
/-- The core of the last uncorrected error. -/
def Dev.errCore (d : Dev) (g bit : Nat) : Dev :=
  let n := coreDie g
  let c := coreCluster g
  let d1 := d.orBits (ASH_ERR_STATUS n c) (2 ^ bit)
  if bit = 1 ∨ bit = 2 then d1.setNat (ASH_ERR_CORE n c) (2 ^ 31 + coreIndex g) else d1
/-- A corrected local-store error; the sixteenth within 1 s is reported. -/
def Dev.lsCorrected (d : Dev) (g : Nat) : Dev :=
  let n := coreDie g
  let c := coreCluster g
  let k := d.core g
  let ts := d.ticks :: k.ceTicks.filter (fun t => decide (d.ticks < t + 400000000))
  let d1 := ((d.setCore g { k with ceTicks := ts }).orBits (ASH_ERR_STATUS n c) 1).bump (ASH_LS_CE_COUNT n c) 1
  if ts.length = 16 then d1.emit (coreBlock g) 0x0204 1 g ts.length else d1
/-- Does the event tear the job down? -/
def fatalErr : StorageEvent → Bool
  | .none => false
  | .lsCorrected _ => false
  | .lsUncorrected _ => true
  | .rfParity _ => true
  | .xbarParity _ fails => fails
/-- What the event leaves in the registers and the ring. -/
def Dev.noteStorage (d : Dev) (g : Nat) : StorageEvent → Dev
  | .none => d
  | .lsCorrected _ => d.lsCorrected g
  | .lsUncorrected a => (d.errCore g 1).emit (coreBlock g) 0x0201 2 g a
  | .rfParity r => (d.errCore g 2).emit (coreBlock g) 0x0202 2 g r.toNat
  | .xbarParity a fails => if fails then (d.errCore g 3).emit (coreBlock g) 0x0203 2 g (a % 2 ^ 32) else d
/-- A storage error of a core: corrected, or the end of its job. -/
def Dev.storageError (d : Dev) (g : Nat) (e : StorageEvent) : Dev :=
  let d1 := d.noteStorage g e
  match fatalErr e, (d.core g).ctx with
  | true, some c => d1.trigger c stFaultContext true
  | _, _ => d1

/-! ### Differences in a joined couple (R127, R431, R432, R438) -/

/-- Frames with a difference among the last 100, and whether the thresholds of R438 are met. -/
def framesIn (now : Nat) (fs : List Nat) : List Nat := fs.filter (fun f => decide (now < f + 100))
def overThreshold (fs : List Nat) : Bool :=
  decide (3 ≤ fs.length) || (match fs with
    | a :: b :: _ => a == b + 1
    | _ => false)
/-- Major frames since power-up, which the Quoins count across Quadrille switches (R438). -/
def Dev.frameNo (d : Dev) : Nat := d.jfe.frames
/-- The job on a core: that it runs, or, after its END, the executing job placed on its cluster. -/
def Dev.jobOn (d : Dev) (g : Nat) : Option Nat := match (d.core g).ctx with
  | some c => some c
  | none => (d.ctxList.find? (fun e => e.2.state.executes && bitOf e.2.inv.clusters (g / 128))).map (·.1)
/-- COUPLE_MISMATCH: neither request is issued and the job ends. -/
def Dev.mismatch (d : Dev) (g lanes : Nat) (injected : Bool) : Dev :=
  let i := g / 2
  let k := d.couple i
  let f := d.frameNo
  let fs := if k.frames.head? = some f then framesIn f k.frames else f :: framesIn f k.frames
  let d1 := (d.setCouple i { k with lanes := lanes, frames := fs }).bump (PAV_MISMATCH_COUNT (coreDie g)) 1
  let d2 := d1.emit (.pav (coreDie g)) 0x0C01 3 (i * 2) (lanes + (if injected then 2 ^ 16 else 0) + 2 ^ 20 * min 255 fs.length)
  let d3 := match d.jobOn g with
    | some c => (d2.modCtx c (fun x => { x with mismatched := true })).trigger c stMismatch
    | none => d2
  if overThreshold fs then d3.pairFence i 1 false else d3
/-- Is the couple of a lead joined with its comparator armed? -/
def Dev.compared (d : Dev) (g : Nat) : Bool := d.isJoined g && (d.couple (g / 2)).armed

/-! ### Faults (R125–R128) -/

/-- Offset of a PC in its code section, in instructions. -/
def Dev.codeOffset (d : Dev) (g : Nat) : Nat :=
  let k := d.core g
  let base := match k.ctx with
    | some c => (d.model (d.ctx c).inv.model).code
    | none => 0
  ((k.pc.toNat + 2 ^ 48 - base % 2 ^ 48) % 2 ^ 48 / 8) % 2 ^ 24
/-- A faulting instruction: its cause is recorded and its job ends. -/
def Dev.coreFault (d : Dev) (g : Nat) (f : SedunFault) : Dev :=
  let k := d.core g
  let d1 := (d.putCore g { k with fault := BitVec.ofNat 8 f.code }).emit (coreBlock g) 0x0210 2 g (f.code * 2 ^ 24 + d.codeOffset g)
  match k.ctx with
  | some c => d1.trigger c stFaultContext
  | none => d1

/-! ### Issue -/

/-- May the core issue an instruction now? The follow of a joined couple issues with its lead (R97). -/
def Dev.canIssue (d : Dev) (g : Nat) : Bool :=
  let k := d.core g
  k.st == .running && k.wait == .none && !k.halted && !d.isFollow g && !FMap.get false d.pwr.scanned (coreDie g) &&
  (match k.ctx with
    | some c => (d.ctx c).state.executes
    | none => false)
/-- Does the PC lie in an executable region of the core's partition (R94, R327)? -/
def Dev.fetchOk (d : Dev) (g : Nat) : Bool :=
  match (d.core g).ctx with
  | some c => (match d.partOfCtx c with
    | some p => p.allows (d.core g).pc.toNat 8 2
    | none => false)
  | none => false

/-- What an instruction does once its checks pass: whether it presents a store or a leaving request to the comparator, and the device
after it. -/
abbrev Effect := Bool × Dev

/-- The lanes in which the halves differ: the differences given, and an injection that is due (R452). -/
def Dev.lanesOf (d : Dev) (g : Nat) (diff : Nat) (out : Bool) : Nat × Bool :=
  match FMap.get none d.pav.inject (g / 2) with
  | some l => if out || decide (10 ≤ l) then (diff ||| 2 ^ l, true) else (diff, false)
  | none => (diff, false)

/-- Issue one instruction (R95): its storage errors, its fetch, its checks, the comparison, and its effect. The Boolean says that the
instruction had its own effect: no storage error, difference or fault ended a job. A command for a core that can issue nothing now changes
nothing (log entry 7). -/
def Dev.issueEnd (d : Dev) (u : Issue) (vclass : Bool) (op : Dev → Nat → Except SedunFault Effect) : Bool × Dev :=
  let g := u.core
  if !d.canIssue g then (true, d)
  else if fatalErr u.err then (false, d.storageError g u.err)
  else
    let d0 := ((d.noteStorage g u.err).count g 0x01 1).count g 0x04 (if vclass then 1 else 0)
    let r := if d0.fetchOk g then op d0 g else .error .fetch
    let out := match r with
      | .ok (out, _) => out
      | .error _ => true
    let (lanes, inj) := d0.lanesOf g u.diff.toNat out
    if d0.compared g && lanes != 0 && (out || decide (2 ^ 10 ≤ lanes)) then
      (false, { d0 with pav := { d0.pav with inject := if inj then FMap.set none d0.pav.inject (g / 2) none else d0.pav.inject } }.mismatch g lanes inj)
    else match r with
      | .ok (_, d1) => (true, d1)
      | .error f => (false, d0.coreFault g f)

/-- Go on at the next instruction with the core changed. -/
def Dev.advance (d : Dev) (g : Nat) (f : Core → Core) : Dev :=
  let k := f (d.core g)
  (d.putCore g { k with pc := k.pc + 8 }).arrive g
/-- Go on at a given PC. -/
def Dev.jump (d : Dev) (g : Nat) (pc : BitVec 48) (f : Core → Core) : Dev := (d.putCore g { f (d.core g) with pc := pc }).arrive g

/-- An instruction that works on the registers of one core. The flags it raises join the sticky ones (R77). -/
def regOp (op : Regs → Except SedunFault Regs) (d : Dev) (g : Nat) : Except SedunFault Effect :=
  match op { (d.core g).regs with flags := 0 } with
  | .error f => .error f
  | .ok r =>
    let old := (d.core g).regs.flags
    .ok (false, (d.count g 0x0E (if r.flags = 0 then 0 else 1)).advance g (fun k => { k with regs := { r with flags := old ||| r.flags } }))
/-- The same, counting a Gauge event: the code and how many. -/
def countedOp (code : Nat) (n : Regs → Nat) (op : Regs → Except SedunFault Regs) (d : Dev) (g : Nat) : Except SedunFault Effect :=
  match regOp op d g with
  | .error f => .error f
  | .ok (out, d1) => .ok (out, d1.count g code (n (d.core g).regs))

/-- Elements a V-class instruction rounds stochastically: those it writes, when SR is set (R75, R76). -/
def stochLanes (f : FmtV) (on : List Bool) : Nat := if f.sr then (on.filter (· == true)).length else 0
def stochOf (f : FmtV) (r : Regs) : Nat := stochLanes f (lanesOn (r.pg f) (vty f).width)
def stochCvt (f : FmtV) (r : Regs) : Nat :=
  match ElemType.ofCode (f.imm.toNat % 16) with
  | some t => (match sliceOf (512 / (vty f).width) (512 / t.width) (f.imm.toNat / 16 % 8) with
    | some s => stochLanes f (sliceOn (r.pg f) t.width s)
    | none => 0)
  | none => 0
def stochQmx (f : FmtV) (r : Regs) : Nat :=
  match sliceOf 32 (512 / (vty f).width) (f.imm.toNat % 4) with
  | some s => stochLanes f (sliceOn (r.pg f) (vty f).width s)
  | none => 0

end Sys2Proof.Machine
end

