-- ==== Sys2Proof/Machine/DmaFx.lean ====
section
/-! DEFINITION. Local-store accesses and the DMA queue (R43, R50, R104–R108, R119, R121, R223, R257): the checks of a descriptor, what
it moves, and its place in the queue. -/
namespace Sys2Proof.Machine

/-! ### What a descriptor moves -/

def DmaEntry.readsIn (e : DmaEntry) : Bool := e.kind == 0 || e.kind == 2
def DmaEntry.writesOut (e : DmaEntry) : Bool := e.kind == 1 || e.kind == 3
/-- Stored bytes of a compressed block of 1,024 elements (R219). -/
def DmaEntry.block (e : DmaEntry) : Nat := 64 * compSubBytes (8 * e.es) e.ratio
/-- Pieces of the transfer, dimension 0 innermost: local-store address, remote address, local bytes and remote bytes. -/
def DmaEntry.pieces (e : DmaEntry) : List (Nat × Nat × Nat × Nat) :=
  let at_ (i1 i2 : Nat) : Nat × Nat :=
    (((e.ls : Int) + (i1 : Int) * e.ls1 + (i2 : Int) * e.ls2).toNat, ((e.remote : Int) + (i1 : Int) * e.rs1 + (i2 : Int) * e.rs2).toNat)
  if e.kind != 3 && e.rs0 == e.es && e.ls0 == e.es then
    (List.range e.n2).flatMap (fun i2 => (List.range e.n1).map (fun i1 =>
      let p := at_ i1 i2
      (p.1, p.2, e.n0 * e.es, if e.comp then e.block else e.n0 * e.es)))
  else e.elems.map (fun p => (p.1, p.2, e.es, e.es))
/-- Local-store address of each byte, in the order of the pieces. -/
def DmaEntry.lsBytes (e : DmaEntry) : List Nat := e.pieces.flatMap (fun p => (List.range p.2.2.1).map (fun i => p.1 + i))
/-- Remote bytes of a piece as they land, and local bytes as they are stored. -/
def DmaEntry.expand (e : DmaEntry) (bs : List Byte) : List Byte :=
  if e.comp then (decompBlock (8 * e.es) e.ratio bs).flatMap (fun x => leBytes e.es x) else bs
def DmaEntry.compress (e : DmaEntry) (bs : List Byte) : List Byte :=
  if e.comp then compBlock (compKindDma e.es) (8 * e.es) e.ratio ((List.range e.n0).map (fun i => fieldAt bs (e.es * i) e.es)) else bs
/-- The bytes the remote side reaches: the lowest and one past the highest. A compressed transfer reaches its stored blocks. -/
def DmaEntry.reach (e : DmaEntry) : Int × Int :=
  if e.comp then boxOf e.remote e.block 1 e.n1 e.n2 0 e.rs1 e.rs2 else e.remBox
/-- Cut a byte list into pieces of the given lengths. -/
def cutBytes : List Nat → List Byte → List (List Byte)
  | [], _ => []
  | n :: ns, bs => bs.take n :: cutBytes ns (bs.drop n)

/-- Context a core works for; 4096 names none. -/
def Dev.ctxOn (d : Dev) (g : Nat) : Nat := (d.core g).ctx.getD 4096
/-- Remote bytes of each piece: as a started multicast read fetched them, else as the context reads them now. -/
def Dev.dmaFetch (d : Dev) (g : Nat) (e : DmaEntry) : List (List Byte) :=
  if e.kind = 2 then cutBytes (e.pieces.map (fun p => p.2.2.2)) e.data
  else e.pieces.map (fun p => d.rdFor (d.ctxOn g) p.2.1 p.2.2.2)
/-- Local-store writes of a read from memory. -/
def Dev.dmaIn (d : Dev) (g : Nat) (e : DmaEntry) : List (Nat × List Byte) :=
  List.zipWith (fun p bs => (p.1, e.expand bs)) e.pieces (d.dmaFetch g e)
def DmaEntry.onRegs (e : DmaEntry) : Bool := decide (regBase ≤ e.remote) && e.kind != 3

/-! ### Loads and stores -/

/-- The core as a read of the given local-store lines finds it: a line that a pending DMA read will write holds its old bytes or its new
ones (R121). -/
def Dev.lsView (d : Dev) (g : Nat) (ls : List Nat) : Core × Dev :=
  let k := d.core g
  let es := k.dma.filter (fun e => e.readsIn && !e.onRegs && (e.kind == 0 || e.started))
  let hit := ls.filter (fun l => es.any (fun e => e.meetsLine l))
  if hit.isEmpty then (k, d)
  else
    let new := es.foldl (fun k e => (d.dmaIn g e).foldl (fun k w => k.lsWrite w.1 w.2) k) k
    let picks := d.drawBytes hit.length
    ((List.zip hit picks.1).foldl (fun k p => if p.2.getLsbD 0 then k.lsWrite (64 * p.1) (new.lsRead (64 * p.1) 64) else k) k, picks.2)
/-- Bytes of the local store as an instruction reads them. -/
def Dev.lsLoad (d : Dev) (g a n : Nat) : List Byte × Dev :=
  let v := d.lsView g (linesOf a n)
  (v.1.lsRead a n, v.2)

/-- Note a store into the source of pending DMA writes (R121). -/
def Core.noteTaint (k : Core) (a n : Nat) : Core :=
  let ls := linesOf a n
  { k with dma := k.dma.map (fun e => if e.writesOut then { e with taint := e.taint ++ ls.filter (fun l => !e.taint.contains l && e.meetsLine l) } else e) }
/-- Write local-store bytes: a watched range they fall into voids the checkpoint (R119). -/
def Dev.lsPut (d : Dev) (g a : Nat) (bs : List Byte) : Dev :=
  let k := d.core g
  let k1 := (k.lsWrite a bs).touch a bs.length
  (d.putCore g k1).count g 0x0C (if k.ckpt.isSome && k1.ckpt.isNone then 1 else 0)
/-- A store instruction: its bytes are written, the core goes on, and an enabled watchpoint over them halts it (R515). -/
def Dev.lsStore (d : Dev) (g a : Nat) (bs : List Byte) : Dev :=
  let d1 := (d.putCore g ((d.core g).noteTaint a bs.length)).lsPut g a bs
  let d2 := d1.advance g id
  let hit := (FMap.get Points.none d.dbg.points g).wp.any (fun w => match w with
    | some (s, e) => overlaps a bs.length s (e + 1 - s)
    | none => false)
  if hit && !(d2.core g).halted then d2.haltCore g 3 else d2

def loadOp (check : Regs → Except SedunFault Nat) (n : Nat) (f : List Byte → Regs → Regs) (d : Dev) (g : Nat) : Except SedunFault Effect :=
  match check (d.core g).regs with
  | .error e => .error e
  | .ok a =>
    let (bs, d1) := d.lsLoad g a n
    .ok (false, d1.advance g (fun k => { k with regs := f bs k.regs }))
def ldOp (f : FmtX) (d : Dev) (g : Nat) : Except SedunFault Effect := loadOp (ldCheck f) (accSize f.sub) (ldDone f) d g
def vldOp (f : FmtX) (d : Dev) (g : Nat) : Except SedunFault Effect := loadOp (vldCheck f) (vldLen f) (vldDone f) d g
def stOp (f : FmtX) (d : Dev) (g : Nat) : Except SedunFault Effect :=
  match stCheck f (d.core g).regs with
  | .error e => .error e
  | .ok a => .ok (true, d.lsStore g a (stBytes f (d.core g).regs))
/-- VST writes the governed bytes; the others of its lines keep what they hold. -/
def vstOp (f : FmtX) (d : Dev) (g : Nat) : Except SedunFault Effect :=
  match vstCheck f (d.core g).regs with
  | .error e => .error e
  | .ok a => .ok (true, d.lsStore g a (vstBytes f (d.core g).regs ((d.core g).lsRead a (vstLen f))))
def mxlOp (f : FmtX) (d : Dev) (g : Nat) : Except SedunFault Effect :=
  match mxlCheck f (d.core g).regs with
  | .error e => .error e
  | .ok (a, sa) =>
    let (bs, d1) := d.lsLoad g a (mxLen f)
    let (sc, d2) := d1.lsLoad g sa 16
    .ok (false, d2.advance g (fun k => { k with regs := mxlDone f bs sc k.regs }))

/-! ### Checks of a descriptor (R107) -/

/-- Does some part of the reach take a route over an Arch port on which the core holds no borrow? -/
def Dev.creditBad (d : Dev) (g : Nat) (places : List Nat) : Bool :=
  places.any (fun a =>
    let dst := match placeOf d.hw a with
      | .regs => some 8
      | p => p.die
    match dst with
    | some n => (match d.firstPort (coreDie g) n with
      | some p => (FMap.get none (d.core g).borrow p).isNone
      | none => false)
    | none => false)
/-- A COMP transfer that does not meet the block geometry (R223). -/
def DmaEntry.compBad (h : Hw) (e : DmaEntry) : Bool :=
  e.comp && (decide (2 < e.es) || e.n0 != 1024 || e.rs0 != e.es || e.ls0 != e.es || !(placeOf h e.remote).isDram || e.remote % e.block != 0 ||
    e.rs1 % e.block != 0 || e.rs2 % e.block != 0)

/-- Fields of a key-value append's TARGET (R106). -/
def DmaEntry.seqNo (e : DmaEntry) : Nat := e.target % 4096
def DmaEntry.layer (e : DmaEntry) : Nat := bitsOf e.target 31 16
def DmaEntry.group (e : DmaEntry) : Nat := bitsOf e.target 39 32
def DmaEntry.kv (e : DmaEntry) : Nat := bitsOf e.target 40 40

/-- The active sequence of a number, and one that a context has declared (R256). -/
def Dev.seqOf (d : Dev) (n : Nat) : Option Seq := FMap.get none d.seqs n
def Dev.declaredSeq (d : Dev) (c n : Nat) : Option Seq := if (d.ctx c).sequences.contains n then d.seqOf n else none
/-- The length of a stream as a context sees it (R264). -/
def Dev.lenSeen (d : Dev) (c : Nat) (r : Nat) : Nat :=
  if recEpoch r != 0 && (d.viewOf c).sees.contains (recEpoch r) then recLen r else recConf r

/-- Check an append (R107, R257). Answers where its reservation starts. -/
def Dev.appendCheck (d : Dev) (g : Nat) (bs : List Byte) (e : DmaEntry) : Except SedunFault Nat :=
  let c := d.ctxOn g
  faultIf (decide (e.lsBox.1 < 0) || decide ((lsSize : Int) < e.lsBox.2)) .lsAddress <|
  match d.declaredSeq c e.seqNo with
  | none => .error .dmaDescriptor
  | some q =>
    let t := e.n2
    let st := q.stream e.layer e.group e.kv
    let r := q.record (d.rd View.plain) st
    let start := q.resEnd st (d.lenSeen c r)
    let shapeBad := dmaReserved bs || decide (q.layers ≤ e.layer) || decide (q.groups ≤ e.group) || e.es != q.es || e.n0 != q.headDim || e.n1 != q.hg ||
      e.remote != 0 || e.rs0 != 0 || e.rs1 != 0 || e.rs2 != 0 || e.comp || e.ls0 != e.es || decide (64 < t) || decide (q.maxTokens < start + t) ||
      q.res.any (fun x => x.stream == st && x.ctx != c && !x.done)
    if shapeBad then .error .dmaDescriptor
    else
      let pages := (List.range ((start + t - 1) / 64 - start / 64 + 1)).map (fun i => q.page (d.rd View.plain) e.layer e.group (start / 64 + i))
      faultIf (pages.any (fun a => a != 0 && !(match d.part q.owner with
        | some p => p.allows a q.pageBytes 1 && inDram d.hw a q.pageBytes
        | none => false))) .dmaAddress <|
      faultIf (pages.any (· == 0) || (e.credit && d.creditBad g pages)) .dmaDescriptor <|
      .ok start

/-- Check a descriptor at issue. One that names no transfer has no address to judge. -/
def Dev.dmaCheck (d : Dev) (g : Nat) (bs : List Byte) : Except SedunFault DmaEntry :=
  let e := dmaParse bs
  if dmaNoTransfer bs then .error .dmaDescriptor
  else if e.kind = 3 then
    match d.appendCheck g bs e with
    | .error f => .error f
    | .ok start => .ok { e with remote := start }
  else
    let lo := e.reach.1
    let hi := e.reach.2
    let n := (hi - lo).toNat
    let allowed := match d.partOfCtx (d.ctxOn g) with
      | some p => p.allows lo.toNat n (if e.kind = 1 then 1 else 0)
      | none => false
    faultIf (decide (e.lsBox.1 < 0) || decide ((lsSize : Int) < e.lsBox.2)) .lsAddress <|
    faultIf (e.misaligned || decide (lo < 0) || rangeKind d.hw lo.toNat n == .nothing || !allowed) .dmaAddress <|
    faultIf (dmaReserved bs || e.compBad d.hw || (e.kind == 2 && !bitOf e.target (coreIndex g)) || (e.credit && d.creditBad g [lo.toNat, (hi - 1).toNat]))
      .dmaDescriptor <|
    .ok e

/-! ### The queue -/

/-- Remote lines of an append: the pages it will write. -/
def Dev.appendAddrs (d : Dev) (e : DmaEntry) : List (Nat × Nat) :=
  match d.seqOf e.seqNo with
  | some q => (List.range e.n2).map (fun t =>
      (q.elemAddr (d.rd View.plain) e.layer e.group e.kv (e.remote + t) 0 0, q.hg * q.headDim * q.es))
  | none => []
/-- Remote ranges of a descriptor. -/
def Dev.dmaRanges (d : Dev) (e : DmaEntry) : List (Nat × Nat) :=
  if e.kind = 3 then d.appendAddrs e else e.pieces.map (fun p => (p.2.1, p.2.2.2))
/-- The status that fenced memory gives a descriptor. -/
def Dev.dmaFenced (d : Dev) (e : DmaEntry) : Option (BitVec 8) :=
  (d.dmaRanges e).findSome? (fun r => d.accessStatus View.plain r.1 r.2 false)

/-- Conflict of an append, VERIFY or TRUNCATE with a stream's epoch (R264): answers whether the operation is performed. -/
def Dev.streamConflict (d : Dev) (c : Nat) (r : Nat) : Bool × Dev :=
  let e := recEpoch r
  if e = 0 then (true, d)
  else match (d.viewOf c).write with
    | some w => if w = e then (true, d) else (false, d.askSquash w 0x07)
    | none => (true, d.askSquash e 0x06)

/-- A core's wait begins; one that depends on another die counts toward JFE_REMOTE_DRAIN (R154). -/
def Dev.hold (d : Dev) (g : Nat) (w : Wait) (remote : Bool) : Dev :=
  d.putCore g { d.core g with wait := w, remoteSince := if remote then some d.ticks else none }
/-- Has the core transfers with other dies in its queue? -/
def Dev.remoteDma (d : Dev) (g : Nat) : Bool := (d.core g).dma.any (fun e => (d.dmaRanges e).any (fun r => d.remoteTo g r.1))

/-- Put a checked descriptor into the queue. A write or append takes its source as it stands (R121); an append reserves its positions. -/
def Dev.enqueueDma (d : Dev) (g : Nat) (e : DmaEntry) : Dev :=
  let (src, d1) := if e.writesOut then d.lsView g ((e.lsBytes.map (· / 64)).eraseDups) else (d.core g, d)
  let data := if e.writesOut then e.lsBytes.flatMap (fun a => src.lsRead a 1) else []
  let c := d.ctxOn g
  let push (d : Dev) (e : DmaEntry) : Dev := d.advance g (fun k => { k with dma := k.dma ++ [e] })
  if e.kind = 3 then
    match d1.seqOf e.seqNo with
    | some q =>
      let st := q.stream e.layer e.group e.kv
      let r := d1.streamConflict c (q.record (d1.rd View.plain) st)
      if r.1 then
        let res : Reservation := { stream := st, core := g, ctx := c, start := e.remote, count := e.n2, done := false }
        let d2 : Dev := { r.2 with seqs := FMap.set none r.2.seqs e.seqNo (some { q with res := q.res ++ [res] }) }
        push d2 { e with data := data }
      else r.2.advance g id
    | none => d1.advance g id
  else push d1 { e with data := data }

/-- DMA: read, check and enqueue the descriptor at the address; a full queue holds the core (R50). -/
def dmaOp (f : FmtX) (d : Dev) (g : Nat) : Except SedunFault Effect :=
  match lsCheck (f.sub != 0) false f (d.core g).regs 64 64 with
  | .error e => .error e
  | .ok a =>
    let (bs, d1) := d.lsLoad g a 64
    match d1.dmaCheck g bs with
    | .error e => .error e
    | .ok e =>
      if 16 ≤ (d.core g).dma.length then .ok (false, d.hold g (.dma f) false)
      else match d1.dmaFenced e with
        | some st => .ok (true, d1.trigger (d.ctxOn g) st)
        | none => .ok (true, d1.enqueueDma g e)

/-- May a multicast read that core `g` has issued start (R108)? The follow of a joined couple issues with its lead. -/
def DmaEntry.sameRead (x y : DmaEntry) : Bool :=
  x.kind == 2 && y.kind == 2 && !x.started && !y.started && x.remote == y.remote && x.n0 == y.n0 && x.n1 == y.n1 && x.n2 == y.n2 &&
  x.rs0 == y.rs0 && x.rs1 == y.rs1 && x.rs2 == y.rs2 && x.target == y.target
def Dev.castCores (d : Dev) (g : Nat) (e : DmaEntry) : List Nat :=
  ((List.range 128).filter (bitOf e.target)).map (fun i => let m := g / 128 * 128 + i; if d.isFollow m then m - 1 else m)
/-- Mark the first descriptor like `e` as started, with what it reads. -/
def Dev.castStart (d : Dev) (g : Nat) (e : DmaEntry) : Dev :=
  let k := d.core g
  match k.dma.findIdx? (fun x => x.sameRead e) with
  | some i => (match k.dma[i]? with
    | some x =>
      let y : DmaEntry := { x with started := true, data := x.pieces.flatMap (fun p =>
        if x.onRegs then List.replicate p.2.2.2 0 else d.rdFor (d.ctxOn g) p.2.1 p.2.2.2) }
      d.setCore g { k with dma := k.dma.set i y }
    | none => d)
  | none => d
def Dev.multicastFx (d : Dev) (g : Nat) : Dev :=
  match (d.core g).dma.find? (fun e => e.kind == 2 && !e.started) with
  | none => d
  | some e =>
    let ms := d.castCores g e
    if ms.all (fun m => (d.core m).dma.any (fun x => x.sameRead e)) then
      (ms.eraseDups).foldl (fun d m => d.castStart m e) (d.blkCount (coreBlock g) 3 1) else d

/-- DMAW: wait until at most OFF20 descriptors, read as unsigned, are incomplete. -/
def dmawOp (f : FmtX) (d : Dev) (g : Nat) : Except SedunFault Effect :=
  faultIf (etBad f.et || f.sub != 0) .reservedField <|
  .ok (false, if (d.core g).dma.length ≤ f.off.toNat then d.advance g id else d.hold g (.dmaw f) (d.remoteDma g))
/-- FENCE: wait until every descriptor is complete; an AMO completes at its issue. -/
def fenceOp (f : FmtX) (d : Dev) (g : Nat) : Except SedunFault Effect :=
  faultIf (etBad f.et || f.sub != 0) .reservedField <|
  .ok (false, if (d.core g).dma.isEmpty then d.advance g id else d.hold g (.fence f) (d.remoteDma g))

end Sys2Proof.Machine
end

