-- ==== Sys2Proof/Machine/SyncFx.lean ====
section
/-! DEFINITION. The synchronising and control instructions of Sedun (R109–R120, R123): semaphores, atomics, engine commands and
tickets, credits, epochs, system reads, branches, YLD and END. An instruction that waits is held in its core, and is tried again once what
it waits for has come. -/
namespace Sys2Proof.Machine

/-! ### Writes of a job (R32, R408) -/

/-- A write without the bytes of the word at `r`. -/
def cutWord (r : Nat) (p : Nat × List Byte) : List (Nat × List Byte) :=
  if overlaps p.1 p.2.length r 4 then [(p.1, p.2.take (r - p.1)), (r + 4, p.2.drop (r + 4 - p.1))].filter (fun q => !q.2.isEmpty) else [p]
/-- The byte that writes leave at an address, if one of them covers it. -/
def lastByte (ws : List (Nat × List Byte)) (a : Nat) : Option Byte :=
  ws.foldl (fun r p => if p.1 ≤ a ∧ a < p.1 + p.2.length then p.2[a - p.1]? else r) none
/-- The word that writes leave at an address, when they cover it whole. -/
def wordWritten (ws : List (Nat × List Byte)) (a : Nat) : Option Nat :=
  ((List.range 4).mapM (fun i => lastByte ws (a + i))).map leNat
/-- Write memory for a context; a write over the whole validity word of a record it holds open closes the record. -/
def Dev.jobWrites (d : Dev) (c : Nat) (ws : List (Nat × List Byte)) : Dev :=
  let closing := d.streamList.filterMap (fun p =>
    if (d.stream p.1).opened == some c then (wordWritten ws p.2.record).map (fun w => (p.1, p.2.record, w)) else none)
  let rest := closing.foldl (fun ws k => ws.flatMap (cutWord k.2.1)) ws
  let d1 := rest.foldl (fun d w => d.wr (d.viewOf c) w.1 w.2) d
  closing.foldl (fun d k => d.closeRecord k.1 c k.2.2) d1

/-- End an access that memory refuses: the job is torn down (R149, R317, R320). Answers the device when it does. -/
def Dev.accessStop (d : Dev) (g a n : Nat) (read : Bool) : Option Dev :=
  let c := d.ctxOn g
  let v := d.viewOf c
  match d.accessStatus v a n read with
  | some st => some ((if read then d.noteRead v a n else d).trigger c st)
  | none => none

/-- Has the core DMA writes that are not complete (R123)? -/
def Dev.writesPending (d : Dev) (g : Nat) : Bool := (d.core g).dma.any DmaEntry.writesOut

/-! ### Semaphores (R109, R110, R330) -/

def semDie (n : Nat) : Nat := n / 1024
/-- The checks of SEMA, SEMT and SEMR that come first. Answers the semaphore's number. -/
def Dev.semCheck (d : Dev) (g : Nat) (f : FmtX) (dest : Bool) : Except SedunFault Nat :=
  let n := if f.idx = 0xFF then f.off.toNat % 4096 else ((d.core g).regs.readSA f.idx).toNat
  faultIf (etBad f.et || f.sub != 0) .reservedField <|
  faultIf ((dest && !isSA f.d) || !isSANone f.idx) .registerKind <|
  faultIf (decide (d.hw.dies ≤ semDie n) || !(match d.partOfCtx (d.ctxOn g) with
    | some p => p.grantsSem n
    | none => false)) .semaphore <|
  .ok n
def Dev.holdsSem (d : Dev) (c n : Nat) : Bool := match (d.sem n).holder with
  | some (_, k) => k == c
  | none => false
/-- Semaphores a context holds and SEMAs of its cores that wait. -/
def Dev.semLoad (d : Dev) (c : Nat) : Nat :=
  (d.semsHeld c).length + ((d.leadsOn c).filter (fun g => match (d.core g).wait with
    | .sema _ _ => true
    | _ => false)).length
/-- Take a free semaphore: the poison is cleared, and D shows it. -/
def Dev.acquire (d : Dev) (g n : Nat) (dest : BitVec 8) : Dev :=
  let s := d.sem n
  ((d.setSem n { s with holder := some (g, d.ctxOn g), poisoned := false }).blkCount (.mrt (semDie n)) 3 1).advance g
    (fun k => { k with regs := k.regs.writeNat dest (if s.poisoned then 0x0E else 0) })
def acquireOp (wait : Bool) (f : FmtX) (d : Dev) (g : Nat) : Except SedunFault Effect :=
  match d.semCheck g f true with
  | .error e => .error e
  | .ok n =>
    let c := d.ctxOn g
    faultIf (d.holdsSem c n || decide (16 ≤ d.semLoad c)) .semaphore <|
    if d.dieFenced (semDie n) then .ok (true, d.trigger c stFencedResource)
    else match (d.sem n).holder with
      | none => .ok (true, d.acquire g n f.d)
      | some _ =>
        if wait then
          let d1 := d.setSem n { d.sem n with waiters := (d.sem n).waiters ++ [g] }
          .ok (true, d1.hold g (.sema f n) (semDie n != coreDie g))
        else .ok (true, d.advance g (fun k => { k with regs := k.regs.writeNat f.d 0x80 }))
def semaOp (f : FmtX) (d : Dev) (g : Nat) : Except SedunFault Effect := acquireOp true f d g
def semtOp (f : FmtX) (d : Dev) (g : Nat) : Except SedunFault Effect := acquireOp false f d g
/-- SEMR: a release waits for the core's earlier DMA writes. -/
def semrOp (f : FmtX) (d : Dev) (g : Nat) : Except SedunFault Effect :=
  match d.semCheck g f false with
  | .error e => .error e
  | .ok n =>
    let c := d.ctxOn g
    faultIf (!d.holdsSem c n) .semaphore <|
    if d.dieFenced (semDie n) then .ok (true, d.trigger c stFencedResource)
    else if d.writesPending g then .ok (true, d.hold g (.semr f) false)
    else .ok (true, (d.releaseSem n false).advance g id)

/-! ### Atomics (R111, R327) -/

/-- The checks of AMO and MWAIT. Answers the address. -/
def Dev.atomCheck (d : Dev) (g : Nat) (f : FmtX) (subBad write : Bool) (n : Nat) : Except SedunFault Nat :=
  let r := (d.core g).regs
  let a := lsAddr f r
  faultIf (etBad f.et || subBad) .reservedField <|
  faultIf (!isSA f.d || !isSA f.idx || !isKind f.base .a) .registerKind <|
  faultIf (decide (a < 0) || a.toNat % n != 0 || (match placeOf d.hw a.toNat with
      | .mortar _ => false
      | _ => true) || !(match d.partOfCtx (d.ctxOn g) with
      | some p => p.allows a.toNat n 0 && (!write || p.allows a.toNat n 1)
      | none => false)) .atomicAddress <|
  .ok a.toNat
/-- Bytes of the word: SUB[3]. -/
def atomSize (f : FmtX) : Nat := if bitOf f.sub.toNat 3 then 8 else 4
/-- The word an AMO stores: the old one, the operand, and the expected one; none where compare-and-swap does not match. -/
def amoNew (op n old x expected : Nat) : Option Nat :=
  match op with
  | 0 => some ((old + x) % 2 ^ (8 * n))
  | 1 => some x
  | 2 => if old = expected then some x else none
  | 3 => some (max old x)
  | _ => some (min old x)
def amoOp (f : FmtX) (d : Dev) (g : Nat) : Except SedunFault Effect :=
  let n := atomSize f
  match d.atomCheck g f (bitOf f.sub.toNat 4 || decide (4 < f.sub.toNat % 8)) true n with
  | .error e => .error e
  | .ok a =>
    match d.accessStop g a n true with
    | some d1 => .ok (true, d1)
    | none =>
      if d.writesPending g then .ok (true, d.hold g (.amo f) (d.remoteTo g a))
      else
        let c := d.ctxOn g
        let r := (d.core g).regs
        let old := leNat (d.rd (d.viewOf c) a n)
        let d1 := match amoNew (f.sub.toNat % 8) n old ((r.readSA f.idx).toNat % 2 ^ (8 * n)) ((r.readSA f.d).toNat % 2 ^ (8 * n)) with
          | some w => d.jobWrites c [(a, leBytes n w)]
          | none => d
        .ok (true, (d1.blkCount (.mrt ((placeOf d.hw a).die.getD 0)) 5 1).advance g (fun k => { k with regs := k.regs.writeNat f.d old }))
/-- MWAIT's condition on the observed word. -/
def mwaitHolds (f : FmtX) (v x : Nat) : Bool :=
  match f.sub.toNat % 4 with
  | 0 => decide (x ≤ v)
  | 1 => v == x
  | _ => v != x
def mwaitOp (f : FmtX) (d : Dev) (g : Nat) : Except SedunFault Effect :=
  let n := atomSize f
  match d.atomCheck g f (f.sub &&& 0x14 != 0 || f.sub.toNat % 4 == 3) false n with
  | .error e => .error e
  | .ok a =>
    match d.accessStop g a n true with
    | some d1 => .ok (true, d1)
    | none =>
      let v := leNat (d.rd (d.viewOf (d.ctxOn g)) a n)
      if mwaitHolds f v (((d.core g).regs.readSA f.idx).toNat % 2 ^ (8 * n)) then
        .ok (true, d.advance g (fun k => { k with regs := k.regs.writeNat f.d v }))
      else .ok (true, d.hold g (.mwait f) (d.remoteTo g a))

/-! ### Engine commands and tickets (R112–R114) -/

/-- Bytes of a command block, by engine code. -/
def cmdBytes (tgt : Nat) : Nat := if tgt = 2 then 128 else 256
/-- Key of a ticket sequence: context, engine, die. -/
def tickSeqKey (c tgt die : Nat) : Nat := c * 256 + tgt * 16 + die
/-- A new ticket of the core for an engine. -/
def Dev.newTicket (d : Dev) (g tgt die : Nat) : Nat × Dev :=
  let c := d.ctxOn g
  let k := tickSeqKey c tgt die
  let n := FMap.get 0 d.ticketSeq k
  let t := n % 65536 + 65536 * tgt + 2 ^ 20 * (if tgt = 4 then Config.cairnTicketDie.toNat else die)
  let d1 : Dev := { d with ticketSeq := FMap.set 0 d.ticketSeq k ((n + 1) % 65536) }
  (t, (d1.setTicket c t (some { ctx := c, core := g, st := .pending })).modCore g (fun k => { k with tickets := k.tickets ++ [t] }))
/-- Does a command to this engine complete at once with FENCED_RESOURCE: it is fenced, or withdrawn from classes B to D (R113, R444)? -/
def Dev.engineShut (d : Dev) (c tgt die : Nat) : Bool :=
  if tgt = 4 then d.fenced cairnUnit
  else d.engFenced die tgt || (decide (2 ≤ d.classOf (d.ctx c).part) && d.withdrawn (2 ^ 31 + 4 * die + tgt))
/-- Commands of a partition waiting at an engine. -/
def Dev.engQueued (d : Dev) (p tgt die : Nat) : Nat :=
  if tgt = 4 then d.cairnQueued p else (FMap.get [] (d.eng die tgt).queues p).length
/-- The die an EISS names. -/
def eissDie (f : FmtE) (g : Nat) : Nat := if f.die = 7 then coreDie g else f.die.toNat
def eissOp (f : FmtE) (d : Dev) (g : Nat) : Except SedunFault Effect :=
  let tgt := f.tgt.toNat
  let c := d.ctxOn g
  let r := (d.core g).regs
  let a := (r.getA (regNum f.a)).toNat
  let die := if tgt = 4 then 8 else eissDie f g
  let p := (d.ctx c).part
  faultIf (decide (4 < tgt) || (tgt != 4 && decide (4 ≤ f.die.toNat) && decide (f.die.toNat ≤ 6))) .reservedField <|
  faultIf (!isSA f.d || !isKind f.a .a) .registerKind <|
  faultIf (a % 64 != 0 || !inMem d.hw a (cmdBytes tgt) || !(match d.part p with
    | some q => q.allows a (cmdBytes tgt) 0
    | none => false)) .dmaAddress <|
  faultIf (!(if tgt = 4 then bitOf (d.ctx c).inv.engines 16 else bitOf (d.ctx c).inv.engines (4 * die + tgt))) .engine <|
  if d.writesPending g then .ok (true, d.hold g (.eiss f) false)
  else if d.engineShut c tgt die then
    let t := d.newTicket g tgt die
    .ok (true, (t.2.completeTicket c (some t.1) stFencedResource).advance g (fun k => { k with regs := k.regs.writeNat f.d t.1 }))
  else if 16 ≤ d.engQueued p tgt die then .ok (true, d.hold g (.eiss f) false)
  else
    let (t, d1) := d.newTicket g tgt die
    let cmd : EngCmd := { ctx := c, part := p, addr := a, ticket := some t, order := d1.jfe.order, firstStart := none, restarts := 0, core := some g }
    let d2 : Dev := { d1 with jfe := { d1.jfe with order := d1.jfe.order + 1 } }
    let d3 := if tgt = 4 then (d2.pushCairn cmd).modCtx c (fun x => { x with usedCairn := true })
      else d2.setEng die tgt { d2.eng die tgt with queues := FMap.modify [] (d2.eng die tgt).queues p (· ++ [cmd]) }
    .ok (true, d3.advance g (fun k => { k with regs := k.regs.writeNat f.d t }))

/-- The ticket that EWAIT or EPOLL names. -/
def Dev.ticketOf (d : Dev) (g : Nat) (f : FmtE) : Except SedunFault TicketSt :=
  faultIf (!isSA f.d || !isSA f.a) .registerKind <|
  match d.ticket (d.ctxOn g) ((d.core g).regs.readSA f.a).toNat with
  | some t => if ((d.core g).regs.readSA f.a).toNat < 2 ^ 32 then .ok t.st else .error .engine
  | none => .error .engine
def ewaitOp (f : FmtE) (d : Dev) (g : Nat) : Except SedunFault Effect :=
  match d.ticketOf g f with
  | .error e => .error e
  | .ok (.done st) => .ok (false, d.advance g (fun k => { k with regs := k.regs.writeNat f.d st.toNat }))
  | .ok .pending => .ok (false, d.hold g (.ewait f) false)
def epollOp (f : FmtE) (d : Dev) (g : Nat) : Except SedunFault Effect :=
  match d.ticketOf g f with
  | .error e => .error e
  | .ok st =>
    let v := match st with
      | .done s => 256 + s.toNat
      | .pending => 0
    .ok (false, d.advance g (fun k => { k with regs := k.regs.writeNat f.d v }))

/-! ### Credits (R112, R116, R356) -/

/-- Size of the partition's pool on a port of the core's die, and what of it is not borrowed. -/
def Dev.poolOf (d : Dev) (g p : Nat) : Nat := (d.port (coreDie g) p).pools.getD (d.ctx (d.ctxOn g)).part 0
def Dev.poolLeft (d : Dev) (g p : Nat) : Nat := d.poolOf g p - FMap.get 0 (d.port (coreDie g) p).borrowed (d.ctx (d.ctxOn g)).part
/-- No credit is reserved on a port that is not connected or is fenced. -/
def Dev.portIdle (d : Dev) (g p : Nat) : Bool := !connected d.hw (coreDie g) p || d.linkFenced (coreDie g) p
def crdbOp (f : FmtE) (d : Dev) (g : Nat) : Except SedunFault Effect :=
  let p := f.tgt.toNat
  let n := f.imm.toNat
  let give (d : Dev) (n : Nat) : Dev := d.advance g (fun k => { k with borrow := FMap.set none k.borrow p (some n) })
  faultIf (decide (2 < p)) .reservedField <|
  faultIf ((FMap.get none (d.core g).borrow p).isSome || n == 0 || decide (64 < n) || decide (d.poolOf g p < n)) .credit <|
  if d.portIdle g p then .ok (false, give d 0)
  else if n ≤ d.poolLeft g p then
    let pt := d.port (coreDie g) p
    let part := (d.ctx (d.ctxOn g)).part
    .ok (false, give (d.setPort (coreDie g) p { pt with borrowed := FMap.modify 0 pt.borrowed part (· + n) }) n)
  else .ok (false, d.hold g (.crdb f) false)
def crdrOp (f : FmtE) (d : Dev) (g : Nat) : Except SedunFault Effect :=
  let p := f.tgt.toNat
  faultIf (decide (2 < p)) .reservedField <|
  faultIf (FMap.get none (d.core g).borrow p).isNone .credit <|
  .ok (false, (d.returnBorrow g p).advance g id)

/-! ### Epochs (R114, R202, R203, R209) -/

/-- Has the job declared the epoch in its descriptor? -/
def Dev.declares (d : Dev) (c e : Nat) : Bool :=
  let v := (d.ctx c).inv
  e != 0 && (e == v.writeEpoch || e == v.resolver || v.readEpochs.contains e)
/-- A state as EPRD shows it. -/
def EpochState.shown : EpochState → Nat
  | .confirmed => 1 | .squashed => 2 | _ => 0
def EpochState.final : EpochState → Bool
  | .confirmed => true | .squashed => true | _ => false
def epochOf (f : FmtE) : Nat := f.imm.toNat % 256
def Dev.epochCheck (d : Dev) (g : Nat) (f : FmtE) : Except SedunFault Nat :=
  faultIf (decide (256 ≤ f.imm.toNat)) .reservedField <|
  faultIf (!isSA f.d) .registerKind <|
  faultIf (!d.declares (d.ctxOn g) (epochOf f)) .epoch <|
  .ok (if d.specOff then 2 else (d.epoch (epochOf f)).state.shown)
def eprdOp (f : FmtE) (d : Dev) (g : Nat) : Except SedunFault Effect :=
  match d.epochCheck g f with
  | .error e => .error e
  | .ok v => .ok (false, d.advance g (fun k => { k with regs := k.regs.writeNat f.d v }))
def epwaitOp (f : FmtE) (d : Dev) (g : Nat) : Except SedunFault Effect :=
  match d.epochCheck g f with
  | .error e => .error e
  | .ok v => .ok (false, if v = 0 then d.hold g (.epwait f) false else d.advance g (fun k => { k with regs := k.regs.writeNat f.d v }))

/-- What EPRSLV answers on an epoch whose outcome is final, or while speculation is off. -/
def Dev.rslvOutcome (d : Dev) (e : Nat) : Option Nat :=
  if d.specOff then some 6
  else match (d.epoch e).state with
    | .confirmed => some 0
    | .squashed => some 6
    | _ => none
/-- The first EPRSLV of the resolver on an OPEN epoch decides it. -/
def Dev.resolve (d : Dev) (e : Nat) (actual : List Nat) : Dev :=
  let x := d.epoch e
  if x.held || d.jfe.squash.any (fun q => q.1 == e) then d
  else if predictionHolds x.kinds actual x.predicted x.tolerance then d.setEpoch e { x with held := true }
  else d.askSquash e 0x01
def eprslvOp (f : FmtE) (d : Dev) (g : Nat) : Except SedunFault Effect :=
  let c := d.ctxOn g
  let e := epochOf f
  let n := f.imm.toNat / 256 % 16 + 1
  let a := ((d.core g).regs.getA (regNum f.a)).toNat
  let mine := (d.ctx c).inv.resolver == e
  let put (d : Dev) (v : Nat) : Dev := d.advance g (fun k => { k with regs := k.regs.writeNat f.d v })
  faultIf (decide (4096 ≤ f.imm.toNat)) .reservedField <|
  faultIf (!isSA f.d || !isKind f.a .a) .registerKind <|
  faultIf (lsOut a (4 * n)) .lsAddress <|
  faultIf (a % 4 != 0) .misaligned <|
  faultIf (!d.declares c e || decide (8 < n)) .epoch <|
  match d.rslvOutcome e with
  | some v => .ok (true, put d v)
  | none =>
    if (d.epoch e).state = .opened then
      faultIf ((d.epoch e).kinds.length != n) .epoch <|
      let (bs, d1) := d.lsLoad g a (4 * n)
      .ok (true, (if mine then d1.resolve e ((List.range n).map (f32At bs 0)) else d1).hold g (.eprslv f) false)
    else if mine then
      let d1 := (d.setEpoch e { Epoch.free with state := .confirmed, owner := noOwner, openedNs := d.clock }).emit .jfe 0x0310 0 e 0
      .ok (true, put d1 0)
    else .ok (true, d.hold g (.eprslv f) false)

/-! ### System reads (R112, R115) -/

def cidOp (f : FmtE) (d : Dev) (g : Nat) : Except SedunFault Effect :=
  let c := d.ctxOn g
  let v := match f.tgt.toNat with
    | 0 => g
    | 1 => c
    | 2 => (d.ctx c).part
    | _ => if d.isJoined g then 1 else 0
  faultIf (decide (3 < f.tgt.toNat)) .reservedField <|
  faultIf (!isSA f.d) .registerKind <|
  .ok (false, d.advance g (fun k => { k with regs := k.regs.writeNat f.d v }))
/-- TIME: the die's copy of Plumb time, anywhere within 5 ns of it. -/
def timeOp (f : FmtE) (d : Dev) (g : Nat) : Except SedunFault Effect :=
  faultIf (!isSA f.d) .registerKind <|
  let (w, d1) := d.draw
  let v := max (d.now + w.toNat % 11 - 5) (d.core g).lastTime
  .ok (false, d1.advance g (fun k => { k with regs := k.regs.writeNat f.d v, lastTime := v }))
def flgrOp (f : FmtE) (d : Dev) (g : Nat) : Except SedunFault Effect :=
  faultIf (!isSA f.d) .registerKind <|
  .ok (false, d.advance g (fun k => { k with regs := k.regs.writeNat f.d k.regs.flags.toNat }))
def flgcOp (f : FmtE) (d : Dev) (g : Nat) : Except SedunFault Effect :=
  faultIf (decide (32 ≤ f.imm.toNat)) .reservedField <|
  .ok (false, d.advance g (fun k => { k with regs := { k.regs with flags := k.regs.flags &&& ~~~(f.imm.setWidth 5) } }))

/-- ACLK cycles of a core's cluster since it was powered (R521). -/
def Dev.cycleCount (d : Dev) (g : Nat) : Nat := FMap.get 0 d.pwr.aclk (coreDie g) / 240 - FMap.get 0 d.gau.base (coreClusterBit g)
/-- Events of a core whose count is a matter of timing, which the model leaves out (log entry 60). -/
def timedEvent (code : Nat) : Bool := [3, 5, 6, 9, 10].contains code
/-- A per-core counter as it reads: 0 the cycle counter, 1–8 the programmable ones. -/
def Dev.coreCounter (d : Dev) (g j : Nat) : Nat × Dev :=
  if !d.coreGauges then (0, d)
  else if j = 0 then (d.cycleCount g % 2 ^ 64, d)
  else if timedEvent (d.gaugeEvent j) then
    let w := d.draw
    (w.1.toNat % 2 ^ 48, w.2)
  else (FMap.get 0 d.gau.core (16 * g + j), d)
def grdOp (f : FmtE) (d : Dev) (g : Nat) : Except SedunFault Effect :=
  faultIf (decide (8 < f.imm.toNat)) .reservedField <|
  faultIf (!isSA f.d) .registerKind <|
  faultIf (!(match d.partOfCtx (d.ctxOn g) with
    | some p => p.gauUser
    | none => false)) .gauge <|
  let (v, d1) := d.coreCounter g f.imm.toNat
  .ok (false, d1.advance g (fun k => { k with regs := k.regs.writeNat f.d v }))

/-! ### Control (R117–R120) -/

def brOp (f : FmtC) (d : Dev) (g : Nat) : Except SedunFault Effect :=
  let k := d.core g
  faultIf (!condOk f.cond.toNat) .reservedField <|
  faultIf (!condKinds f) .registerKind <|
  .ok (false, if condHolds f k.regs then d.jump g (branchTarget k.pc f.imm) id else d.advance g id)
def callOp (f : FmtC) (d : Dev) (g : Nat) : Except SedunFault Effect :=
  let k := d.core g
  faultIf (!isKind f.a .a) .registerKind <|
  .ok (false, d.jump g (branchTarget k.pc f.imm) (fun k => { k with regs := k.regs.setA (regNum f.a) (k.pc + 8) }))
def jrOp (f : FmtC) (d : Dev) (g : Nat) : Except SedunFault Effect :=
  let t := (d.core g).regs.getA (regNum f.a)
  faultIf (!isKind f.a .a) .registerKind <|
  faultIf (t.toNat % 8 != 0) .fetch <|
  .ok (false, d.jump g t id)

/-- The live-range entry of a yield index of the job's model (R132): the register mask and the ranges. -/
def Dev.liveOf (d : Dev) (c i : Nat) : Option (Nat × List (Nat × Nat)) :=
  let m := d.model (d.ctx c).inv.model
  (m.yields.find? (fun y => y.1 == i)).bind (fun y => m.lives[y.2.1]?)
/-- The checkpoint a YLD takes. -/
def Core.checkpoint (k : Core) (i : Nat) (lv : Nat × List (Nat × Nat)) : Checkpoint :=
  { index := i, pc := k.pc + 8, mask := BitVec.ofNat 128 lv.1, regs := k.regs, ranges := lv.2 }
/-- Has the core tickets that are not complete? -/
def Dev.ticketsOut (d : Dev) (g : Nat) : Bool := (d.core g).tickets.any (fun t => match d.ticket (d.ctxOn g) t with
  | some k => k.st == .pending
  | none => false)
/-- A core saves itself at a yield point. -/
def Dev.yieldNow (d : Dev) (g i : Nat) (lv : Nat × List (Nat × Nat)) : Dev :=
  d.saveCore (d.ctxOn g) g ((d.core g).checkpoint i lv)
def yldOp (f : FmtC) (d : Dev) (g : Nat) : Except SedunFault Effect :=
  let c := d.ctxOn g
  let i := f.imm.toNat
  faultIf (decide (65536 ≤ i)) .reservedField <|
  faultIf (!(d.semsHeld c).isEmpty || (d.coresOn c).any (fun h => !(d.core h).borrow.isEmpty)) .heldAtBoundary <|
  match d.liveOf c i with
  | none => .error .yieldIndex
  | some lv =>
    let d1 := (d.count g 0x0B 1).putCore g { d.core g with ckpt := some ((d.core g).checkpoint i lv) }
    if (d.ctx c).state ≠ .yielding then .ok (false, d1.advance g id)
    else if d.ticketsOut g then .ok (false, (d1.emit (coreBlock g) 0x0211 0 g i).advance g id)
    else if (d.core g).dma.isEmpty then .ok (false, d1.yieldNow g i lv)
    else .ok (false, d1.hold g (.yld f) (d.remoteDma g))
/-- The DMA queue of a yielding core is empty. -/
def Dev.yldDone (d : Dev) (g : Nat) (f : FmtC) : Dev :=
  match d.liveOf (d.ctxOn g) f.imm.toNat with
  | some lv => d.yieldNow g f.imm.toNat lv
  | none => d

/-- END once nothing of the core is outstanding: its tickets are discarded and it stops (R120). -/
def Dev.endDone (d : Dev) (g : Nat) : Dev :=
  let c := d.ctxOn g
  let d1 := (d.core g).tickets.foldl (fun d t => d.setTicket c t none) d
  let d2 := d1.putCore g { d1.core g with st := .idle, ctx := none, tickets := [], wait := .none, remoteSince := none, ckpt := none, halted := false }
  (d2.modCtx c (fun x => { x with coresLeft := x.coresLeft - 1 })).suspendIfSaved c
def endOp (_f : FmtC) (d : Dev) (g : Nat) : Except SedunFault Effect :=
  faultIf (!(d.semsHeld (d.ctxOn g)).isEmpty || !(d.core g).borrow.isEmpty) .heldAtBoundary <|
  .ok (false, if (d.core g).dma.isEmpty && !d.ticketsOut g then d.endDone g else d.hold g (.ends _f) (d.remoteDma g))

/-! ### Trying a waiting instruction again -/

/-- Has what the core waits for come? -/
def Dev.waitOver (d : Dev) (g : Nat) : Bool :=
  let k := d.core g
  match k.wait with
  | .none => false
  | .sema _ _ => false
  | .dma _ => decide (k.dma.length < 16)
  | .dmaw f => decide (k.dma.length ≤ f.off.toNat)
  | .semr _ => !d.writesPending g
  | .amo _ => !d.writesPending g
  | .fence _ => k.dma.isEmpty
  | .yld _ => k.dma.isEmpty
  | .ends _ => k.dma.isEmpty && !d.ticketsOut g
  | .eiss f =>
    let tgt := f.tgt.toNat
    let die := if tgt = 4 then 8 else eissDie f g
    !d.writesPending g && (d.engineShut (d.ctxOn g) tgt die || decide (d.engQueued (d.ctx (d.ctxOn g)).part tgt die < 16))
  | .ewait f => (match d.ticketOf g f with
    | .ok .pending => false
    | _ => true)
  | .epwait f => d.specOff || (d.epoch (epochOf f)).state.final
  | .eprslv f => (d.rslvOutcome (epochOf f)).isSome
  | .crdb f => d.portIdle g f.tgt.toNat || decide (f.imm.toNat ≤ d.poolLeft g f.tgt.toNat)
  | .mwait f =>
    let a := (lsAddr f k.regs).toNat
    let n := atomSize f
    (d.accessStatus (d.viewOf (d.ctxOn g)) a n true).isSome ||
      mwaitHolds f (leNat (d.rd (d.viewOf (d.ctxOn g)) a n)) ((k.regs.readSA f.idx).toNat % 2 ^ (8 * n))

/-- Carry out again an instruction whose wait is over; one that waits on keeps the start of its wait. -/
def Dev.again (d : Dev) (g : Nat) (op : Dev → Nat → Except SedunFault Effect) : Dev :=
  let since := (d.core g).remoteSince
  let d0 := d.modCore g (fun k => { k with wait := .none, remoteSince := none })
  match op d0 g with
  | .error f => d0.coreFault g f
  | .ok (_, d1) => if (d1.core g).wait = .none then d1 else d1.modCore g (fun k => { k with remoteSince := since })
def Dev.retry (d : Dev) (g : Nat) : Dev :=
  match (d.core g).wait with
  | .none => d
  | .sema _ _ => d
  | .dma f => d.again g (dmaOp f)
  | .dmaw f => d.again g (dmawOp f)
  | .semr f => d.again g (semrOp f)
  | .amo f => d.again g (amoOp f)
  | .mwait f => d.again g (mwaitOp f)
  | .fence f => d.again g (fenceOp f)
  | .yld f => (d.modCore g (fun k => { k with wait := .none, remoteSince := none })).yldDone g f
  | .ends _ => d.endDone g
  | .eiss f => d.again g (eissOp f)
  | .ewait f => d.again g (ewaitOp f)
  | .epwait f => d.again g (epwaitOp f)
  | .eprslv f => d.again g (eprslvOp f)
  | .crdb f => d.again g (crdbOp f)
/-- The lowest core whose wait is over goes on. -/
def Dev.wakeStep (d : Dev) : Option Dev :=
  (d.cores.find? (fun e => e.2.wait != .none && e.2.st == .running && !d.isFollow e.1 && d.waitOver e.1)).map (fun e => d.retry e.1)

end Sys2Proof.Machine
end

