-- ==== Sys2Proof/Machine/MemFx.lean ====
section
/-! DEFINITION. The events of the memory system (R312–R342): refresh, command parity, semaphore parity, regulation, the DRAM mode,
and the patrol scrubs. -/
namespace Sys2Proof.Machine

/-! ### Refresh (R313, R314) -/

def stackOn (h : Hw) (s : Nat) : Bool := decide (s / 2 < h.dies)
/-- Layers that are refreshed: those in service, the spare (layer 8) once it is in use. -/
def Stack.refreshed (st : Stack) : List Nat :=
  (List.range 8).filter (fun l => let x := st.layers.getD l .inService; x == .inService || x == .migrating) ++ (if st.spare = .inUse then [8] else [])
/-- One interval of a bank: its debt rises, an idle bank refreshes, and at the limit the refresh is forced. Answers the debt and whether
it was forced. -/
def bankInterval (limit : Nat) (idle : Bool) (debt : Int) : Int × Bool :=
  let x := debt + 1
  let y := if idle && decide (-8 < x) then x - 1 else x
  if (limit : Int) ≤ y then (y - 1, true) else (y, false)
/-- REFRESH_INTERVAL. `idle`: banks with no request pending, 32·layer + bank. -/
def Dev.refreshFx (d : Dev) (s : Nat) (idle : List Nat) : Dev :=
  let st := d.stack s
  if !stackOn d.hw s || st.selfRefresh || d.dieFenced (s / 2) then d
  else
    let limit := d.rf (SMC_REFRESH_POSTPONE (s / 2) (s % 2)) 3 0
    let banks := st.refreshed.flatMap (fun l => (List.range 32).map (fun b => 32 * l + b))
    let r := banks.foldl (fun (acc : FMap Int × Nat) k =>
      let x := bankInterval limit (idle.contains k) (FMap.get 0 acc.1 k)
      (FMap.set 0 acc.1 k x.1, if x.2 then acc.2 + 1 else acc.2)) (st.debt, 0)
    ((d.setStack s { st with debt := r.1 }).bump (SMC_FORCED_REFRESH (s / 2) (s % 2)) r.2).blkCount (smcOf s) 7 r.2

/-! ### Command and address parity (R312) -/

/-- CA_PARITY_ERROR: the command is issued again once. -/
def Dev.caErrorFx (d : Dev) (s sa : Nat) : Dev :=
  let st := d.stack s
  if !stackOn d.hw s || decide (2 ^ 34 ≤ sa) || st.retry.isSome then d else d.setStack s { st with retry := some sa }
/-- Is the stack address served by the spare? -/
def Stack.spareServes (st : Stack) (sa : Nat) : Bool :=
  match st.layers.getD (layerOf sa) .inService with
  | .spared => true
  | .migrating => decide (sa % 2 ^ 31 / 4096 < st.mig)
  | _ => false
/-- CA_PARITY_RETRY: a retry that fails too is an uncorrectable command error of the layer. -/
def Dev.caRetryFx (d : Dev) (s : Nat) (fails : Bool) : Dev :=
  let st := d.stack s
  match st.retry with
  | none => d
  | some sa =>
    let d1 := d.setStack s { st with retry := none }
    if fails then (d1.recordUe s sa true).retire s (layerOf sa) (st.spareServes sa) else d1

/-! ### Semaphore state (R329) -/

/-- SEM_PARITY_ERROR: the semaphore is poisoned and its holder torn down. -/
def Dev.semParityFx (d : Dev) (die i : Nat) : Dev :=
  if d.hw.dies ≤ die ∨ 1024 ≤ i then d
  else
    let n := 1024 * die + i
    let d1 := (d.setSem n { d.sem n with poisoned := true }).orBits (MRT_ERR_STATUS die) 4
    match (d.sem n).holder with
    | some (_, c) => d1.trigger c stMemoryUncorrectable
    | none => d1

/-! ### Regulation (R333, R340) -/

/-- REGULATION_INTERVAL: bursts of a class on a stack in the interval that ends; a class over its budget on any stack counts once. -/
def Dev.regulateFx (d : Dev) (k s : Nat) (bursts : List Nat) : Dev :=
  if 16 ≤ k ∨ !stackOn d.hw s ∨ (bursts.foldl (· + ·) 0) ≤ FMap.get 0 d.bw.budget (8 * k + s) then d
  else
    let us := d.clock / 1000
    let key := rateKey 0x0800 k
    if FMap.get none d.rate key = some (us, 0) then d
    else (({ d with rate := FMap.set none d.rate key (some (us, 0)) }).bump (BWR_OVER_COUNT k) 1).blkCount .bwr 1 1

/-! ### The mode of a die's DRAM (R339) -/

/-- Is some structure of R339 in use, so that no die's mode may change? -/
def Dev.dramBusy (d : Dev) : Bool :=
  d.jfe.parts.any (fun e => e.2.isSome) || !d.ringAreas.isEmpty || !d.specAreas.isEmpty || !d.labelArea.isEmpty || !d.traceryAreas.isEmpty
/-- A write of MRT_DRAM_CFG that its lock lets through: a change of mode leaves the die's DRAM undefined. -/
def Dev.dramModeFx (d : Dev) (n : Nat) (v : W32) : Dev :=
  if d.dramBusy then d.emit (.mrt n) 0x070A 1 v.toNat 0
  else if v.getLsbD 0 == d.linear n then d
  else
    (d.dropContents (fun k => decide (k < 64) && k / 16 == n) true).setNat (MRT_DRAM_CFG n) (v.toNat % 2)

/-! ### Scrubs (R85, R338) -/

/-- PATROL_SCRUB: a line of a stack is read, and its errors are handled as of any read. -/
def Dev.patrolFx (d : Dev) (s sa : Nat) (es : List MemEvent) : Dev :=
  let a := stackAddr (d.linear (s / 2)) s (sa / 64 * 64)
  if !stackOn d.hw s || decide (2 ^ 34 ≤ sa) || (d.stack s).selfRefresh || d.dieFenced (s / 2) || d.layerSt s (layerOf sa) == .fenced ||
    d.rn (SMC_SCRUB (s / 2) (s % 2)) % 256 == 0 then d
  else d.memEvents a 64 es
/-- LS_PATROL_SCRUB: a word of a core's local store is read. -/
def Dev.lsPatrolFx (d : Dev) (g addr : Nat) (e : StorageEvent) : Dev :=
  if d.rn (ASH_LS_SCRUB (coreDie g) (coreCluster g)) % 65536 = 0 ∨ (d.core g).st = .poweredDown ∨ lsSize ≤ addr then d
  else match e with
    | .lsCorrected _ => d.storageError g (.lsCorrected addr)
    | .lsUncorrected _ => d.storageError g (.lsUncorrected addr)
    | _ => d

end Sys2Proof.Machine
end

