-- ==== Sys2Proof/Machine/ArchFx.lean ====
section
/-! DEFINITION. The Arch links (R343–R365): flits, acknowledgement and retry, retraining, a link's permanent failure, its fence and
the routes that change, and the partition pools. An end of a link is a die and a port; the Keystone's end of spoke n is port n of die 8. -/
namespace Sys2Proof.Machine

/-- The end that faces a port. -/
def farEnd (h : Hw) (n p : Nat) : Nat × Nat :=
  if n = 8 then (p, 2) else if p = 2 then (8, n) else (neighbour h n p, oppositePort p)
/-- The Arch port block that reports an end: a spoke's block reports the Keystone's end too. -/
def endBlock (n p : Nat) : Block := if n = 8 then .arc p 2 else .arc n p
def endDie (n p : Nat) : Nat := if n = 8 then p else n
def endPort (n p : Nat) : Nat := if n = 8 then 2 else p
def linkUnit (n p : Nat) : Nat := unitNo n 3 p
/-- Registers of an end's port. -/
def Dev.endReg (d : Dev) (f : Nat → Nat → Nat) (n p : Nat) : Nat := d.rn (f (endDie n p) (endPort n p))
/-- Is there a link at this end? -/
def endExists (h : Hw) (n p : Nat) : Bool := if n = 8 then decide (p < h.dies) else connected h n p

/-! ### Flits (R344, R345) -/

def flitType (bs : List Byte) : Nat := fieldAt bs 0 1 % 16
def flitSeq (bs : List Byte) : Nat := fieldAt bs 1 1
def flitAck (bs : List Byte) : Nat := fieldAt bs 2 1
def flitCrcOk (bs : List Byte) : Bool := bs.length == 256 && crc16 (bs.take 0xFE) == fieldAt bs 0xFE 2
/-- An IDLE flit that acknowledges. -/
def ackFlit (version ack : Nat) (nak : Bool) : List Byte :=
  let bs := leBytes 1 (16 * version) ++ leBytes 1 0 ++ leBytes 1 ack ++ leBytes 1 (if nak then 3 else 1) ++ List.replicate 250 0
  bs ++ leBytes 2 (crc16 bs)
def Port.version (p : Port) : Nat := match p.peer with
  | some (_, _, v) => v
  | none => 1
def Dev.sendAck (d : Dev) (n p seq : Nat) (nak : Bool) : Dev := d.put (.flit n p (ackFlit (d.port n p).version seq nak))

/-! ### Retraining and failure (R348, R349) -/

/-- Transactions that jobs have outstanding over a link (log entry 61): descriptors in progress, waits on another die, and running
engine commands, by their routes. Answers each context with its count. -/
def Dev.overLink (d : Dev) (n p : Nat) (g : Nat) (a : Nat) : Bool :=
  match (match placeOf d.hw a with
    | .regs => some 8
    | x => x.die) with
  | some t => (match d.route g t with
    | some r => r.contains (n, p) || (p != 2 && r.contains (neighbour d.hw n p, oppositePort p))
    | none => false)
  | none => false
def Dev.linkUsers (d : Dev) (n p : Nat) : List Nat :=
  let cores := d.cores.flatMap (fun e =>
    match e.2.ctx with
    | some c =>
      if d.isFollow e.1 then []
      else
        let at_ (a : Nat) : Bool := d.overLink n p (coreDie e.1) a
        let dma := match e.2.dma with
          | x :: _ => if (x.kind != 2 || x.started) && (d.dmaRanges x).any (fun r => at_ r.1 || at_ (r.1 + r.2 - 1)) then [c] else []
          | [] => []
        let wait := match e.2.wait with
          | .sema _ k => if (match d.route (coreDie e.1) (semDie k) with
              | some r => r.contains (n, p) || (p != 2 && r.contains (neighbour d.hw n p, oppositePort p))
              | none => false) then [c] else []
          | .mwait f => if at_ (lsAddr f e.2.regs).toNat then [c] else []
          | _ => []
        dma ++ wait
    | none => [])
  let engs := d.engs.filterMap (fun e => match e.2.run with
    | some r => if r.outs.any (fun o => d.overLink n p (e.1 / 4) o.1) || d.overLink n p (e.1 / 4) r.cmd.addr then some r.cmd.ctx else none
    | none => none)
  let crn := (match d.crn.check with
    | some r => if d.overLink n p 8 r.cmd.addr then [r.cmd.ctx] else []
    | none => []) ++ (match d.crn.worldRun with
    | some r => if d.overLink n p 8 r.cmd.addr then [r.cmd.ctx] else []
    | none => [])
  cores ++ engs ++ crn

/-- Both ends stop, and nothing is kept to be sent again. -/
def Dev.stopLink (d : Dev) (n p : Nat) (st : PortSt) : Dev :=
  let f := farEnd d.hw n p
  let stop (x : Port) : Port := { x with st := st, unacked := [], discarding := false, retrain := none, underTest := false }
  (d.setPort n p (stop (d.port n p))).setPort f.1 f.2 (stop (d.port f.1 f.2))
/-- A link has failed permanently, or a Quoin has fenced it: cause 1 lane test, 2 retrain count, 3 retrain time, 4 Quoin verdict,
5 training. -/
def Dev.linkFail (d : Dev) (n p : Nat) (lane : Option Nat) (cause : Nat) : Dev :=
  let a0 := (match lane with
    | some l => l % 512 + 512
    | none => 0) + 65536 * cause
  let k := (d.linkUsers (endDie n p) (endPort n p)).length
  let x := d.port n p
  ((d.setPort n p { x with lane := lane }).stopLink n p .fenced).emit (endBlock n p) 0x0902 3 a0 k
/-- The port reports the failure, and the Quoins fence the link. -/
def Dev.linkReport (d : Dev) (n p : Nat) (lane : Option Nat) (cause : Nat) : Dev :=
  (d.linkFail n p lane cause).declareBoth (linkUnit (endDie n p) (endPort n p)) 3

/-- A retrain starts at an end: traffic is held in both directions. More than 3 within 1 s are a permanent failure. -/
def Dev.startRetrain (d : Dev) (n p cause : Nat) : Dev :=
  let f := farEnd d.hw n p
  let x := d.port n p
  let ts := d.ticks :: x.retrainTicks.filter (fun t => decide (d.ticks < t + 400000000))
  let d1 := (d.setPort n p { x with st := .retraining, retrain := some (d.ticks, cause), retrainTicks := ts, failRun := 0, retryTicks := [] }).bump
    (ARC_RETRAIN_COUNT (endDie n p) (endPort n p)) 1
  let d2 := d1.setPort f.1 f.2 { d1.port f.1 f.2 with st := .retraining }
  if 3 < ts.length then d2.linkReport n p none 2 else d2

/-- Send every unacknowledged flit again, from the oldest; `count`: it is a retry, and its rate may start a retrain. -/
def Dev.resend (d : Dev) (n p : Nat) (count : Bool) : Dev :=
  let x := d.port n p
  let d1 := x.unacked.foldl (fun d u => d.put (.flit n p u.2)) d
  if !count then d1
  else
    let ts := d.ticks :: x.retryTicks.filter (fun t => decide (d.ticks < t + 400000))
    let d2 := ((d1.setPort n p { x with retryTicks := ts }).bump (ARC_RETRY_COUNT (endDie n p) (endPort n p)) 1).blkCount (endBlock n p) 3 1
    if bitsOf (d.endReg ARC_RETRY_LIMIT n p) 25 16 ≤ ts.length then d2.startRetrain n p 2 else d2

/-- The unacknowledged flits after an acknowledgement of `seq`. -/
def ackTo (seq : Nat) (q : List (Nat × List Byte)) : List (Nat × List Byte) :=
  match q.findIdx? (fun u => u.1 == seq) with
  | some i => q.drop (i + 1)
  | none => q

/-! ### FLIT_RECEIVE (R344–R348) -/

/-- The far end puts a DATA flit on the link: a new one has its next SEQ, and room in its retry buffer. Answers whether it can. -/
def Dev.flitSent (d : Dev) (n p : Nat) (bs : List Byte) : Option Dev :=
  let x := d.port n p
  if flitType bs ≠ 1 then some d
  else if x.unacked.any (fun u => u.1 == flitSeq bs) then some d
  else if flitSeq bs = x.txNext ∧ x.unacked.length < 64 then
    some ((d.setPort n p { x with txNext := (x.txNext + 1) % 256, unacked := x.unacked ++ [(flitSeq bs, bs)] }).blkCount (endBlock n p) 1 1)
  else none
/-- A DATA flit is refused: NAK with the last good SEQ, once until that flit comes. -/
def Dev.nak (d : Dev) (n p : Nat) : Dev :=
  let x := d.port n p
  (d.setPort n p { x with discarding := true }).sendAck n p ((x.rxNext + 255) % 256) true
/-- A flit that fails its CRC: nothing of it is accepted. -/
def Dev.flitBad (d : Dev) (n p : Nat) (sent : List Byte) : Dev :=
  let d0 := d.bump (ARC_CRC_ERR_COUNT (endDie n p) (endPort n p)) 1
  if flitType sent ≠ 1 then d0
  else
    let x := d.port n p
    let run := if x.failRun ≠ 0 ∧ x.failSeq = flitSeq sent then x.failRun + 1 else 1
    let d1 := (d0.setPort n p { x with failSeq := flitSeq sent, failRun := run }).nak n p
    if d.endReg ARC_RETRY_LIMIT n p % 16 ≤ run then d1.startRetrain n p 1 else d1
/-- A good flit: its acknowledgement, then, of a DATA flit, its sequence. -/
def Dev.flitGood (d : Dev) (n p : Nat) (bs : List Byte) : Dev :=
  let flags := fieldAt bs 3 1
  let x := d.port n p
  let d1 := if bitOf flags 0 then d.setPort n p { x with unacked := ackTo (flitAck bs) x.unacked } else d
  let d2 := if bitOf flags 1 then d1.resend n p true else d1
  if flitType bs ≠ 1 ∨ (d2.port n p).st ≠ .active then d2
  else
    let y := d2.port n p
    if flitSeq bs = y.rxNext then
      ((d2.setPort n p { y with rxNext := (y.rxNext + 1) % 256, discarding := false, failRun := 0 }).blkCount (endBlock n p) 2 1).sendAck n p (flitSeq bs)
        false
    else if y.discarding then d2 else d2.nak n p
/-- FLIT_RECEIVE: the far end sends `sent`, and `got` arrives. -/
def Dev.flitFx (d : Dev) (n p : Nat) (sent got : List Byte) : Dev :=
  if !endExists d.hw n p || (d.port n p).st != .active || sent.length != 256 || got.length != 256 || !flitCrcOk sent then d
  else
    let f := farEnd d.hw n p
    match d.flitSent f.1 f.2 sent with
    | none => d
    | some d1 => if flitCrcOk got then d1.flitGood n p got else d1.flitBad n p sent

/-- REPLAY_TIMEOUT: the oldest flit was not acknowledged in time (R347). -/
def Dev.replayFx (d : Dev) (n p : Nat) : Dev :=
  let x := d.port n p
  if x.st ≠ .active ∨ x.unacked.isEmpty then d else d.resend n p true

/-! ### Fences and routes (R350, R351) -/

/-- Routes that a change of fences alters: source, destination, and the new route. -/
def routeChanges (old new : Dev) : List (Nat × Nat × List (Nat × Nat)) :=
  let dies := List.range old.hw.dies ++ [8]
  dies.flatMap (fun a => dies.filterMap (fun b =>
    if a = b ∨ old.route a b = new.route a b then none else (new.route a b).map (fun r => (a, b, r))))
/-- Does a route pass through the Keystone on its way? -/
def throughKey (a b : Nat) (r : List (Nat × Nat)) : Bool := a != 8 && b != 8 && r.any (fun x => x.2 == 2)
/-- Tell of the routes that changed, and fence a Course die that has none. -/
def Dev.reroute (d old : Dev) : Dev :=
  let d1 := (routeChanges old d).foldl (fun d r =>
    let b := if r.1 = 8 then endBlock 8 r.2.1 else .arc r.1 ((d.firstPort r.1 r.2.1).getD 2)
    d.emit b 0x0903 1 (r.1 + 256 * r.2.1) (r.2.2.length + (if throughKey r.1 r.2.1 r.2.2 then 256 else 0))) d
  (List.range d.hw.dies).foldl (fun d n => if (d.keyRoute n).isNone && !d.dieFenced n then d.declareBoth (unitNo n 5 0) 3 else d) d1
/-- What follows from a fence of a link: it stops, the contexts with transactions over it end, and traffic is rerouted. -/
def Dev.linkFenced_ (d : Dev) (n p : Nat) : Dev :=
  let old := d.liftFence (linkUnit n p)
  let users := old.linkUsers n p
  let d1 := if (d.port n p).st = .fenced ∨ (d.port n p).st = .securityFailed then d else
    (d.stopLink n p .fenced).emit (.arc n p) 0x0902 3 (65536 * 4) users.length
  let d2 := users.eraseDups.foldl (fun d c => d.trigger c stFencedResource) d1
  d2.reroute old
/-- LINK_FENCE: a Quoin fences a link for its own reasons. -/
def Dev.linkFenceFx (d : Dev) (n p : Nat) : Dev :=
  if !connected d.hw n p then d else d.declareBoth (linkUnit n p) 3

/-! ### Pools (R354) -/

/-- The staged pools of a port take effect at a frame boundary. -/
def Dev.portPools (d : Dev) (n p : Nat) : Dev :=
  let staged := (List.range 16).map (fun k => d.rf (ARC_POOL n p k) 10 0)
  let sum := staged.foldl (· + ·) 0
  if 1792 < sum then d.emit (.arc n p) 0x0905 1 sum 0 else d.setPort n p { d.port n p with pools := staged }
def Dev.applyPools (d : Dev) : Dev :=
  (List.range d.hw.dies).foldl (fun d n => (List.range 3).foldl (fun d p => d.portPools n p) d) d

end Sys2Proof.Machine
end

