-- ==== Sys2Proof/Machine/PavFx.lean ====
section
/-! DEFINITION. Pavane (R433, R438–R453): slices, coverage, bands and the fences they lead to, the marginality log, requested tests and
re-admission (R419). A place is cluster 8n + c, 0x100 + 4n + e for an engine, 0x110 for Cairn, 0x200 + 4n + p for a link, 0x300 + 8s + l for a
layer. -/
namespace Sys2Proof.Machine

/-! ### Places and units -/

def cairnPlace : Nat := 0x110
def placeDie (p : Nat) : Nat := if p < 0x100 then p / 8 else if p < 0x110 then (p - 0x100) / 4 else 8
def isCluster (p : Nat) : Bool := decide (p < 0x100)
def isEngine (p : Nat) : Bool := decide (0x100 ≤ p) && decide (p < 0x110)
def placeOn (h : Hw) (p : Nat) : Bool := p == cairnPlace || (decide (p < 0x110) && decide (placeDie p < h.dies))
/-- Segments of a full pass (R442). -/
def segments (p : Nat) : Nat := if p < 0x100 then 5 else if p = cairnPlace then 1 else [3, 1, 1, 2].getD (p % 4) 1
/-- The testable units at a place. -/
def unitsAt (p : Nat) : List Nat := if p < 0x100 then clusterCores p else [2 ^ 31 + (p - 0x100)]
/-- A unit as an event names it: a global core ID, or 0x8000_0000 + the engine of the die. -/
def unitArg (u : Nat) : Nat := if u < 2 ^ 31 then u else 2 ^ 31 + (u - 2 ^ 31) % 4
def unitPlace (u : Nat) : Nat := if u < 2 ^ 31 then u / 128 else 0x100 + (u - 2 ^ 31)
def unitDieOf (u : Nat) : Nat := placeDie (unitPlace u)
def unitSegs (u : Nat) : Nat := segments (unitPlace u)
/-- Length of a slice in ns under a throttle state (R440, R455). -/
def sliceNs (p state : Nat) : Nat :=
  if p < 0x100 then [200000, 250000, 300000, 400000, 800000].getD state 800000
  else if p < 0x110 then [200000, 240000, 320000, 400000, 800000].getD state 800000 else 200000

def Dev.slice (d : Dev) (p : Nat) : Option PavSlice := FMap.get none d.pav.running p
def Dev.setSlice (d : Dev) (p : Nat) (x : Option PavSlice) : Dev := { d with pav := { d.pav with running := FMap.set none d.pav.running p x } }
/-- Does the unit at the place serve no job, and is it powered? -/
def Dev.placeFree (d : Dev) (p : Nat) : Bool :=
  if p < 0x100 then (clusterCores p).all (fun g => (d.core g).st == .idle && (d.core g).ctx == none && (d.core g).dma.isEmpty)
  else if p < 0x110 then
    let e := d.eng (placeDie p) (p % 4)
    d.domainOn (10 * placeDie p + 8) && e.run.isNone && e.queues.isEmpty && !e.underTest
  else d.domainOn 44 && d.crn.check.isNone && d.crn.worldRun.isNone && d.crn.queues.isEmpty
/-- Is the unit at the place fenced outright? -/
def Dev.placeShut (d : Dev) (p : Nat) : Bool :=
  if p < 0x100 then d.clusterFenced (p / 8) (p % 8) else if p < 0x110 then d.engFenced (placeDie p) (p % 4) else d.fenced cairnUnit

/-! ### Which slice comes next (R441, R443) -/

/-- Requested tests and scheduled full passes that have segments of the place to go: order and lowest segment. -/
def Dev.asked (d : Dev) (p : Nat) : List (Nat × Nat) :=
  d.pav.requests.filterMap (fun r => (r.left.find? (fun x => x.1 == p)).map (fun x => (r.order, x.2))) ++
  d.pav.scheduled.filterMap (fun x => if x.2.1 = p then x.2.2.head?.map (fun s => (x.1, s)) else none)
def leastBy (f : Nat × Nat → Nat) (l : List (Nat × Nat)) : Option (Nat × Nat) :=
  l.foldl (fun b x => match b with
    | some y => if f x < f y then some x else some y
    | none => some x) none
/-- Start time of the last passing slice of a segment on any unit of the place, plus 1; 0 for none. -/
def Dev.lastPass (d : Dev) (p s : Nat) : Nat := (unitsAt p).foldl (fun m u => match FMap.get none d.pav.passes (8 * u + s) with
  | some t => max m (t + 1)
  | none => m) 0
/-- The next slice of a place: its rank among those of the die, its segment, and the throttle state it is forced to. -/
def Dev.nextSlice (d : Dev) (p : Nat) : (Nat × Nat) × Nat × Option Nat :=
  match leastBy (·.1) (d.asked p) with
  | some (o, s) => ((0, o), s, none)
  | none => (match d.pav.multi.find? (fun e => e.1 / 64 == p) with
    | some e => ((1, 0), e.1 % 8, some (e.1 / 8 % 8))
    | none => (match leastBy (·.2) ((List.range (segments p)).map (fun s => (s, d.lastPass p s))) with
      | some (s, t) => ((2, t), s, none)
      | none => ((2, 0), 0, none)))
def Dev.dieState (d : Dev) (n : Nat) : Nat := (d.diePower n).state
/-- Open test figures that name the place, with their ends. -/
def Dev.testFigures (d : Dev) (p : Nat) : List Nat :=
  d.jfe.opened.filterMap (fun i => (d.figure i).bind (fun f =>
    if f.type == 1 && (if p < 0x100 then bitOf f.clusters p else bitOf f.engines (p - 0x100)) then some (d.jfe.origin + f.start + f.length) else none))
/-- Slices that run on a die's clusters in test figures. -/
def Dev.slicesOn (d : Dev) (n : Nat) : Nat :=
  (d.pav.running.filter (fun e => decide (e.1 < 0x100) && e.1 / 8 == n && (match e.2 with
    | some x => !x.atOnce
    | none => false))).length
/-- PARALLEL: 0 is taken as 1, above 8 as 8. -/
def Dev.parallel (d : Dev) (n : Nat) : Nat := max 1 (min 8 (d.rf (PAV_CFG n) 3 0))
/-- May a slice start at the place outside test figures (R440)? -/
def Dev.sliceAtOnce (d : Dev) (p : Nat) : Bool :=
  (decide (0x100 ≤ p) && d.placeShut p && d.pav.requests.any (fun r => r.left.any (fun x => x.1 == p))) ||
  (d.jfe.quad.isNone && d.pav.multi.any (fun e => e.1 / 64 == p))
def Dev.sliceInFigure (d : Dev) (p : Nat) : Bool :=
  let len := sliceNs p (match (d.nextSlice p).2.2 with
    | some t => t
    | none => d.dieState (placeDie p))
  (d.testFigures p).any (fun e => decide (d.clock + len + 2000 ≤ e)) && (!isCluster p || decide (d.slicesOn (placeDie p) < d.parallel (placeDie p))) &&
  (!d.placeShut p || (d.nextSlice p).1.1 == 0) && p != cairnPlace || (p == cairnPlace && !(d.asked p).isEmpty &&
  (d.testFigures p).any (fun e => decide (d.clock + len + 2000 ≤ e)))
def Dev.sliceReady (d : Dev) (p : Nat) : Bool :=
  placeOn d.hw p && (d.slice p).isNone && d.placeFree p && (d.sliceAtOnce p || d.sliceInFigure p)
def rankLt (a b : Nat × Nat) : Bool := decide (a.1 < b.1) || (a.1 == b.1 && decide (a.2 < b.2))
/-- Clusters of the place's die that must be taken before it. -/
def Dev.sliceFirst (d : Dev) (p : Nat) : Bool :=
  !isCluster p || d.sliceAtOnce p || !(List.range 8).any (fun c =>
    let q := p / 8 * 8 + c
    q != p && d.sliceReady q && (rankLt (d.nextSlice q).1 (d.nextSlice p).1 || ((d.nextSlice q).1 == (d.nextSlice p).1 && decide (q < p))))

/-- The units of a place enter or leave a test. A core that was tested is zeroed before its next job. -/
def Dev.markTest (d : Dev) (p : Nat) (on : Bool) : Dev :=
  if p < 0x100 then (clusterCores p).foldl (fun d g => d.modCore g (fun k => { k with st := if on then .underTest else .idle, lastPart := none, fresh := false })) d
  else if p < 0x110 then d.setEng (placeDie p) (p % 4) { d.eng (placeDie p) (p % 4) with underTest := on } else d
/-- SLICE_START. -/
def Dev.sliceStartFx (d : Dev) (p : Nat) : Dev :=
  if !d.sliceReady p || !d.sliceFirst p then d
  else
    let x := d.nextSlice p
    let n := placeDie p
    let b := FMap.get (0, 0) d.pav.cell n
    let throttle := match x.2.2 with
      | some t => t
      | none => d.dieState n
    let started (r : PavReq) : PavReq := if r.left.any (fun y => y.1 == p) then { r with started := true } else r
    let d1 := (d.markTest p true).setSlice p
      (some { seg := x.2.1, startNs := d.clock, startTick := d.ticks, tband := b.1, aband := b.2, throttle := throttle, atOnce := d.sliceAtOnce p })
    { d1 with pav := { d1.pav with requests := d1.pav.requests.map started } }

/-- SLICE_ABANDON: the guard time of the figure has come (R441). -/
def Dev.abandon (d : Dev) (p : Nat) : Dev :=
  match d.slice p with
  | none => d
  | some x =>
    if x.atOnce || (d.testFigures p).any (fun e => decide (d.clock + 2000 < e)) then d
    else
      let n := placeDie p
      let a0 := if p < 0x100 then p % 8 else 2 ^ 31 + p % 4
      let b := if n = 8 then Block.key else .pav n
      ((((d.setSlice p none).markTest p false).bump (PAV_ABANDON_COUNT n) (if n = 8 then 0 else 1))).emit b 0x0C04 0 a0 (d.dieState n)
def Dev.abandonAll (d : Dev) : Dev := d.pav.running.foldl (fun d e => d.abandon e.1) d

/-! ### Coverage (R442, R444) -/

/-- Time of a unit's last full pass. -/
def Dev.fullPass (d : Dev) (u : Nat) : Option Nat :=
  (List.range (unitSegs u)).foldl (fun m s => match m, FMap.get none d.pav.passes (8 * u + s) with
    | some a, some t => some (min a t)
    | _, _ => none) (some d.clock)
def Dev.ageMs (d : Dev) (u : Nat) : Nat := match d.fullPass u with
  | some t => min 0xFFFF ((d.clock - t) / 1000000)
  | none => 0xFFFF
def Dev.maxAge (d : Dev) (n : Nat) : Nat := d.rf (PAV_MAX_INTERVAL n) 9 0
/-- Tell of a change of withdrawal, once per unit and kind in a frame. -/
def Dev.tellUnit (d : Dev) (u code sev age : Nat) : Dev :=
  let k := 2 * u + code % 2
  if FMap.get none d.pav.toldFrame k = some d.jfe.frames then d
  else { d with pav := { d.pav with toldFrame := FMap.set none d.pav.toldFrame k (some d.jfe.frames) } }.emit (.pav (unitDieOf u)) code sev (unitArg u) age
/-- The withdrawal of a unit ends once its full pass is recent again. -/
def Dev.restoreUnit (d : Dev) (u before : Nat) : Dev :=
  if FMap.get true d.pav.withdrawn u && (d.fullPass u).isSome && decide (d.ageMs u ≤ d.maxAge (unitDieOf u)) then
    { d with pav := { d.pav with withdrawn := FMap.set true d.pav.withdrawn u false } }.tellUnit u 0x0C06 0 before
  else d
/-- COVERAGE_EXPIRY. -/
def Dev.coverageFx (d : Dev) (u : Nat) : Dev :=
  let old := match d.fullPass u with
    | some t => decide (d.clock - t ≤ 1000000 * d.maxAge (unitDieOf u))
    | none => false
  if !placeOn d.hw (unitPlace u) || FMap.get true d.pav.withdrawn u || old then d
  else { d with pav := { d.pav with withdrawn := FMap.set true d.pav.withdrawn u true } }.tellUnit u 0x0C05 1 (d.ageMs u)
/-- A unit passes a segment. -/
def Dev.passUnit (d : Dev) (u seg t : Nat) : Dev :=
  let before := d.ageMs u
  { d with pav := { d.pav with passes := FMap.set none d.pav.passes (8 * u + seg) (some t) } }.restoreUnit u before

/-! ### Bands and failures (R445, R446) -/

def coreUnit (g : Nat) : Nat := unitNo (coreDie g) 0 (g % 1024)
/-- A conditional fence becomes active or inactive. -/
def Dev.tellBand (d : Dev) (g : Nat) (on : Bool) : Dev :=
  let c := FMap.get (0, 0) d.pav.cell (coreDie g)
  let d1 := d.emit (.pav (coreDie g)) 0x0C07 2 g (c.1 + 16 * c.2 + (if on then 2 ^ 31 else 0))
  if on then { d1 with newFences := d1.newFences ++ [coreUnit g] } else d1
/-- Give a core its record of failures: the Quoins judge it. -/
def Dev.judge (d : Dev) (g : Nat) (b : CoreBands) : Dev :=
  let was := d.bandActive g
  let d1 : Dev := { d with pav := { d.pav with bands := FMap.set CoreBands.clear d.pav.bands g b } }
  if b.outright then d1.declareBoth (coreUnit g) 2
  else if d1.bandActive g && !was then d1.tellBand g true else d1
/-- A core fails a slice. -/
def Dev.failCore (d : Dev) (g : Nat) (x : PavSlice) : Dev :=
  let b := d.bandsOf g
  let cells := b.cells ||| 2 ^ (4 * x.tband + x.aband)
  let b1 : CoreBands := { cells := cells, fails := min 0xFFFF (b.fails + 1), outright := b.outright || decide (2 ≤ popcount 32 cells) }
  ((d.emit (.pav (coreDie g)) 0x0C03 2 g (x.seg + 256 * x.tband + 4096 * x.aband)).emit (.pav (coreDie g)) 0x0C08 1 g cells).judge g b1
/-- An engine, or Cairn, fails a slice. -/
def Dev.failEngine (d : Dev) (p : Nat) (x : PavSlice) : Dev :=
  if p = cairnPlace then d.declareBoth cairnUnit 2
  else
    let n := placeDie p
    let d1 : Dev := { d with pav := { d.pav with engFailed := FMap.set false d.pav.engFailed (p - 0x100) true } }
    (d1.emit (.pav n) 0x0C03 2 (2 ^ 31 + p % 4) (x.seg + 256 * x.tband + 4096 * x.aband)).declareBoth (unitNo n 2 (p % 4)) 2
/-- BAND_CHANGE: running slices keep the highest bands they reached; conditional fences follow the cell. -/
def Dev.bandFx (d : Dev) (n t a : Nat) : Dev :=
  if d.hw.dies ≤ n ∨ 8 ≤ t ∨ 4 ≤ a ∨ FMap.get (0, 0) d.pav.cell n = (t, a) then d
  else
    let raise (k : Nat) (x : Option PavSlice) : Option PavSlice :=
      if placeDie k = n then x.map (fun s => { s with tband := max s.tband t, aband := max s.aband a }) else x
    let d1 : Dev := { d with pav := { d.pav with cell := FMap.set (0, 0) d.pav.cell n (t, a), running := FMap.mapAll none raise d.pav.running } }
    d1.pav.bands.foldl (fun e k =>
      if coreDie k.1 = n ∧ d.bandActive k.1 ≠ e.bandActive k.1 then e.tellBand k.1 (e.bandActive k.1) else e) d1

/-! ### Requested tests (R178, R419, R450) -/

def allSegs (p : Nat) : List (Nat × Nat) := (List.range (segments p)).map (fun s => (p, s))
/-- Layers that a test may name: those FENCED or SPARED. -/
def Dev.layerOut (d : Dev) (s l : Nat) : Bool := d.layerSt s l == .fenced || d.layerSt s l == .spared
/-- What a request has to pass. -/
def Dev.testPlan (d : Dev) (n kind unit : Nat) : List (Nat × Nat) :=
  match kind with
  | 0 => allSegs (8 * n + unit / 128)
  | 1 => allSegs (8 * n + unit)
  | 2 => if n = 8 then allSegs cairnPlace else allSegs (0x100 + 4 * n + unit)
  | 3 => [(0x200 + 4 * n + unit, 0)]
  | 4 => [(0x300 + 16 * n + unit, 0)]
  | _ => (List.range 8).flatMap (fun c => allSegs (8 * n + c)) ++ (List.range 4).flatMap (fun e => allSegs (0x100 + 4 * n + e)) ++
      ((List.range 16).filter (fun k => d.layerOut (2 * n + k / 8) (k % 8))).map (fun k => (0x300 + 16 * n + k, 0))
/-- Is the unit one of R450's table? -/
def testNamed (h : Hw) (n kind unit : Nat) : Bool :=
  if n = 8 then kind == 2 && unit == 4
  else decide (n < h.dies) && (match kind with
    | 0 => decide (unit < 1024)
    | 1 => decide (unit < 8)
    | 2 => decide (unit < 4)
    | 3 => decide (unit < 3)
    | 4 => decide (unit < 16)
    | 5 => unit == 0
    | _ => false)
/-- Completion of a requested test, with its event. -/
def Dev.testAnswer (d : Dev) (r : PavReq) (code : Nat) : Dev :=
  (d.emit (if r.die = 8 then .key else .pav r.die) 0x0C09 1 (r.die + 256 * r.kind + 4096 * r.unit) code).answer r.seq r.notify 8 stOk 0xFFFF none 0 code
def Dev.endTest (d : Dev) (r : PavReq) (code : Nat) : Dev :=
  { d with pav := { d.pav with requests := d.pav.requests.filter (fun x => x.order != r.order) } }.testAnswer r code
/-- Is the link fenced, under the name of either end? -/
def Dev.linkShut (d : Dev) (n p : Nat) : Bool :=
  let f := farEnd d.hw n p
  d.fenced (linkUnit n p) || (f.1 != 8 && d.fenced (linkUnit f.1 f.2))
/-- A requested test of a link starts its retrain; one that is isolated waits. -/
def Dev.startLinkTest (d : Dev) (n p : Nat) : Dev :=
  let f := farEnd d.hw n p
  if d.wrapped (linkUnit n p) || (f.1 != 8 && d.wrapped (linkUnit f.1 f.2)) then d
  else (d.setPort n p { d.port n p with st := .retraining, underTest := true, retrain := some (d.ticks, 0) }).setPort f.1 f.2
    { d.port f.1 f.2 with st := .retraining, underTest := true }
/-- TEST_REQUEST. -/
def Dev.testRequestFx (d : Dev) : Dev :=
  match d.takeDesc 8 with
  | none => d
  | some (bs, d) =>
    let n := fieldAt bs 4 1
    let kind := fieldAt bs 5 1
    let unit := fieldAt bs 6 2
    if descReserved bs || !testNamed d.hw n kind unit || decide (64 ≤ d.pav.requests.length) then d.reply bs stInvalidDesc 0 0
    else
      let r : PavReq :=
        { seq := descSeq bs, notify := descNotify bs, die := n, kind := kind, unit := unit, readmit := fieldAt bs 8 1 == 1, frames := 0,
          left := d.testPlan n kind unit, started := false, failed := false, bandReached := true, passed := false, order := d.jfe.order }
      let bad := (kind == 3 && (!d.linkShut n unit || (d.port n unit).underTest)) || (kind == 4 && !d.layerOut (2 * n + unit / 8) (unit % 8))
      let d1 : Dev := { d with jfe := { d.jfe with order := d.jfe.order + 1 } }
      if bad then d1.testAnswer r 5
      else
        let d2 : Dev := { d1 with pav := { d1.pav with requests := d1.pav.requests ++ [{ r with started := decide (3 ≤ kind) }] } }
        if kind = 3 then d2.startLinkTest n unit else d2

/-- Units that a request re-admits. -/
def PavReq.units (r : PavReq) : List Nat :=
  match r.kind with
  | 0 => [unitNo r.die 0 r.unit]
  | 1 => unitNo r.die 1 r.unit :: (List.range 128).map (fun i => unitNo r.die 0 (128 * r.unit + i))
  | 2 => if r.die = 8 then [cairnUnit] else [unitNo r.die 2 r.unit]
  | 3 => [unitNo r.die 3 r.unit]
  | 4 => [unitNo r.die 4 r.unit]
  | _ => unitNo r.die 5 0 :: (List.range 8).map (unitNo r.die 1) ++ (List.range 4).map (unitNo r.die 2) ++
      (List.range 16).map (unitNo r.die 4) ++ (List.range 1024).map (unitNo r.die 0)
/-- A request has passed all it had to: PASSED, or recorded by both Quoins for re-admission at the frame boundary. -/
def Dev.testPassed (d : Dev) (r : PavReq) : Dev :=
  if !r.readmit then d.endTest r 0
  else if !r.bandReached then d.endTest r 4
  else if !(d.qn.a.live && d.qn.b.live) then d.endTest r 6
  else
    let rec_ (x : Quoin) : Quoin := { x with passes := r.units.foldl (fun m u => FMap.set false m u true) x.passes }
    { d with qn := { d.qn with a := rec_ d.qn.a, b := rec_ d.qn.b },
             pav := { d.pav with requests := d.pav.requests.map (fun x => if x.order = r.order then { r with left := [], passed := true } else x) } }
/-- Does the failure of these cores (or of the engine) concern the request? -/
def PavReq.concerned (r : PavReq) (failing : List Nat) : Bool :=
  if r.kind = 0 then failing.contains (1024 * r.die + r.unit) else !failing.isEmpty
/-- Is the die in the temperature band of each conditional fence the request is to lift? -/
def Dev.bandFits (d : Dev) (r : PavReq) (p tband : Nat) : Bool :=
  !isCluster p || ((clusterCores p).filter (fun g => r.kind != 0 || g == 1024 * r.die + r.unit)).all (fun g =>
    let b := d.bandsOf g
    b.outright || b.cells == 0 || (List.range 32).any (fun i => bitOf b.cells i && i / 4 == tband))
/-- A segment of a place has been run: every request that has it to go moves on. -/
def Dev.testStep (d : Dev) (p seg tband : Nat) (failing : List Nat) : Dev :=
  (d.pav.requests.filter (fun r => r.left.contains (p, seg))).foldl (fun d r =>
    if r.concerned failing then d.endTest r 1
    else
      let r1 := { r with left := r.left.erase (p, seg), started := true, bandReached := r.bandReached && d.bandFits r p tband }
      if r1.left.isEmpty then d.testPassed r1
      else { d with pav := { d.pav with requests := d.pav.requests.map (fun x => if x.order = r.order then r1 else x) } }) d

/-- SLICE_COMPLETE: `failing` cores (or the engine), and the couples of the cluster whose comparator missed an injection. -/
def Dev.sliceDoneFx (d : Dev) (p : Nat) (failing : List Nat) (missed : List (Nat × Nat)) : Dev :=
  match d.slice p with
  | none => d
  | some x =>
    let n := placeDie p
    let bad := (unitsAt p).filter (fun u => if isCluster p then failing.contains u else !failing.isEmpty)
    let d0 := (d.setSlice p none).markTest p false
    let d1 := (unitsAt p).foldl (fun d u => if bad.contains u || p == cairnPlace then d else d.passUnit u x.seg x.startNs) d0
    let d2 := if n = 8 then d1 else d1.bump (if bad.isEmpty then PAV_SLICE_COUNT n else PAV_FAIL_COUNT n) 1
    let d3 := if isCluster p then bad.foldl (fun d g => d.failCore g x) d2 else if bad.isEmpty then d2 else d2.failEngine p x
    let d4 := if isCluster p && x.seg == 4 then missed.foldl (fun d m =>
        if 64 ≤ m.1 then d else (d.setCouple (64 * p + m.1) { d.couple (64 * p + m.1) with lanes := m.2 % 4096 }).pairFence (64 * p + m.1) 3 true) d3 else d3
    let key := 64 * p + 8 * x.throttle + x.seg
    let drop (s : Nat × Nat × List Nat) : Nat × Nat × List Nat := if s.2.1 = p then (s.1, s.2.1, s.2.2.filter (· != x.seg)) else s
    let d5 : Dev := { d4 with pav := { d4.pav with multi := FMap.set false d4.pav.multi key false,
                                                   scheduled := (d4.pav.scheduled.map drop).filter (fun s => !s.2.2.isEmpty) } }
    d5.testStep p x.seg x.tband bad

/-! ### Re-admission (R318, R325, R419, R439) -/

/-- A layer returns empty: the spare's layer becomes the spare, any other goes back into service. -/
def Dev.layerBack (d : Dev) (s l : Nat) : Dev :=
  let st := d.stack s
  if st.layers.getD l .inService = .spared then d.setStack s { st with layers := st.layers.set l .inService, spare := .free }
  else
    (d.dropContents (fun k => k == 8 * s + l) false).setStack s { st with layers := st.layers.set l .inService }
/-- A link comes back into service. -/
def Dev.linkUpAgain (d : Dev) (n p : Nat) : Dev :=
  let f := farEnd d.hw n p
  let fresh (x : Port) : Port := { x with st := .active, txNext := 0, rxNext := 0, unacked := [], discarding := false, failRun := 0, retryTicks := [],
                                          retrainTicks := [], retrain := none, lane := none, underTest := false }
  ((d.setPort n p (fresh (d.port n p))).setPort f.1 f.2 (fresh (d.port f.1 f.2))).emit (.arc n p) 0x0906 1 f.1 (d.port n p).version
/-- The data of a die that was fenced is lost; its semaphores are free again (R158, R330). -/
def Dev.dieBack (d : Dev) (n : Nat) : Dev :=
  let d1 := d.dropContents (fun k => (decide (k < 64) && k / 16 == n) || k == 64 + n) true
  { d1 with sems := d1.sems.filter (fun e => semDie e.1 != n) }
/-- A unit that was released while fenced leaves its isolation as it is re-admitted (R520). -/
def Dev.endIsolation (d : Dev) (u : Nat) : Dev :=
  if d.isolated u then { d with dbg := { d.dbg with ot := FMap.set OtUnit.reset d.dbg.ot u { d.ot u with st := .inService, released := false } } }.emit .key 0x0F01 1 u 0
  else d
/-- One unit returns: both Quoins drop its fence. -/
def Dev.readmit (d : Dev) (u : Nat) : Dev :=
  let n := unitDie u
  let k := unitNum u
  let g := 1024 * n + k
  let banded := unitKind u == 0 && (d.bandsOf g).cells != 0
  let layer := unitKind u == 4 && d.layerOut (2 * n + k / 8) (k % 8)
  let was := FMap.get false d.qn.a.fences u || FMap.get false d.qn.b.fences u || d.fenced u || banded || layer || (unitKind u == 3 && d.linkShut n k)
  let f := farEnd d.hw n k
  let us := if unitKind u == 3 && f.1 != 8 then [u, linkUnit f.1 f.2] else [u]
  let lift (x : Quoin) : Quoin := us.foldl (fun (x : Quoin) u => { x with fences := FMap.set false x.fences u false, passes := FMap.set false x.passes u false }) x
  let d1 := (us.foldl (fun (d : Dev) u => d.liftFence u) { d with qn := { d.qn with a := lift d.qn.a, b := lift d.qn.b } }).endIsolation u
  let d2 := match unitKind u with
    | 0 =>
      let e : Dev := { d1 with pav := { d1.pav with bands := FMap.set CoreBands.clear d1.pav.bands g CoreBands.clear } }
      e.setCouple (g / 2) { e.couple (g / 2) with pairFenced := false, cmpDisabled := false }
    | 2 => if u = cairnUnit then d1
      else { d1 with pav := { d1.pav with engFailed := FMap.set false d1.pav.engFailed (4 * n + k) false } }
    | 3 => if was then d1.linkUpAgain n k else d1
    | 4 => if layer then d1.layerBack (2 * n + k / 8) (k % 8) else d1
    | 5 => if was then d1.dieBack n else d1
    | _ => d1
  if was then d2.quoinEvent 0x0B04 1 u 0 else d2
/-- Requests at a frame boundary: units both Quoins recorded return, and a test that no slice of started for 100 frames is given up. -/
def Dev.testBoundary (d : Dev) : Dev :=
  d.pav.requests.foldl (fun d r =>
    if r.passed then
      let d1 := (r.units.filter (fun u => FMap.get false d.qn.a.passes u && FMap.get false d.qn.b.passes u)).foldl Dev.readmit d
      (d1.endTest r 2).mirrorsBack
    else if r.started then d
    else if 100 ≤ r.frames + 1 then d.endTest r 3
    else { d with pav := { d.pav with requests := d.pav.requests.map (fun x => if x.order = r.order then { x with frames := x.frames + 1 } else x) } }) d

/-! ### Tests of links and layers -/

/-- The end of a link whose retrain runs, from either end. -/
def Dev.retrainEnd (d : Dev) (n p : Nat) : Option (Nat × Nat × Nat × Nat) :=
  let f := farEnd d.hw n p
  match (d.port n p).retrain, (d.port f.1 f.2).retrain with
  | some (t, c), _ => some (n, p, t, c)
  | none, some (t, c) => some (f.1, f.2, t, c)
  | none, none => none
/-- The Course die's end of a link. -/
def dieEnd (n p : Nat) : Nat × Nat := (endDie n p, endPort n p)
/-- The links' places in requests: the end named, or for a ring link the other. -/
def Dev.linkTested (d : Dev) (n p : Nat) (pass : Bool) : Dev :=
  let a := dieEnd n p
  let f := farEnd d.hw a.1 a.2
  let b := if f.1 = 8 then a else f
  let step (d : Dev) (x : Nat × Nat) : Dev := d.testStep (0x200 + 4 * x.1 + x.2) 0 0 (if pass then [] else [0])
  if a = b then step d a else step (step d a) b
/-- RETRAIN_COMPLETE: `bad` lanes fail. -/
def Dev.retrainFx (d : Dev) (n p : Nat) (bad : List Nat) : Dev :=
  match d.retrainEnd n p with
  | none => d
  | some (m, q, t, c) =>
    if (d.port m q).st ≠ .retraining then d
    else if (d.port m q).underTest then
      let stop (d : Dev) : Dev := d.stopLink m q .fenced
      match bad with
      | [] => (stop d).linkTested m q true
      | l :: _ => ((stop d).setPort m q { (stop d).port m q with lane := some l }).linkTested m q false
    else match bad with
      | l :: _ => d.linkReport m q (some l) 1
      | [] =>
        let f := farEnd d.hw m q
        let x := d.port m q
        let d1 := (d.setPort m q { x with st := .active, retrain := none }).setPort f.1 f.2 { d.port f.1 f.2 with st := .active, retrain := none }
        ((d1.emit (endBlock m q) 0x0901 1 c ((d.ticks - t) * 5 / 2)).resend m q false).resend f.1 f.2 false
/-- RETRAIN_TIMEOUT: a retrain did not end within 20 µs. -/
def Dev.retrainLateFx (d : Dev) (n p : Nat) : Dev :=
  match d.retrainEnd n p with
  | none => d
  | some (m, q, t, _) =>
    if (d.port m q).st ≠ .retraining ∨ d.ticks < t + ticksUs 20 then d
    else if (d.port m q).underTest then (d.stopLink m q .fenced).linkTested m q false
    else d.linkReport m q none 3
/-- LAYER_TEST_DONE. -/
def Dev.layerTestFx (d : Dev) (s l : Nat) (pass : Bool) : Dev :=
  if d.wrapped (layerUnit s l) then d else d.testStep (0x300 + 8 * s + l) 0 0 (if pass then [] else [0])

/-! ### The marginality log (R447–R449) -/

def logEntry (g : Nat) (b : CoreBands) : List Byte :=
  leBytes 2 g ++ leBytes 4 b.cells ++ leBytes 2 b.fails ++ leBytes 2 (if b.outright then 1 else 0) ++ List.replicate 6 0
def Dev.logBytes (d : Dev) : List Byte :=
  let es := d.pav.bands.map (fun e => logEntry e.1 e.2)
  let body := leBytes 4 0x4C564150 ++ leBytes 2 1 ++ leBytes 2 es.length ++ d.deviceId ++ List.replicate 48 0 ++ es.flatMap id
  body ++ d.sign 1 (sha256 body)
def Dev.logBase (d : Dev) : Nat := d.rf (PAV_LOG_BASE_LO 0) 31 6 * 64 + d.rf (PAV_LOG_BASE_HI 0) 15 0 * 2 ^ 32
def Dev.logSize (d : Dev) : Nat := d.rf (PAV_LOG_SIZE 0) 16 0
def Dev.logResult (d : Dev) (r n : Nat) : Dev := { d with pav := { d.pav with result := r, entries := n } }
/-- EXPORT. -/
def Dev.exportFx (d : Dev) : Dev :=
  let bs := d.logBytes
  if d.logSize < bs.length then d.logResult 1 0
  else
    let d1 := if inDram d.hw d.logBase bs.length then d.wr View.plain d.logBase bs else d
    d1.logResult 0 d.pav.bands.length
/-- A core's record from a log entry. -/
def parseLogEntry (bs : List Byte) : Nat × CoreBands :=
  (fieldAt bs 0 2 % 4096, { cells := fieldAt bs 2 4, fails := fieldAt bs 6 2, outright := bitOf (fieldAt bs 8 2) 0 })
def logEntryReserved (bs : List Byte) : Bool := decide (4096 ≤ fieldAt bs 0 2) || decide (2 ≤ fieldAt bs 8 2) || !zeroAt bs 10 6
/-- Every cluster and engine has to pass in the states T1 to T4 (R449). -/
def Dev.passAllStates (d : Dev) : Dev :=
  let places := (List.range (8 * d.hw.dies)) ++ (List.range (4 * d.hw.dies)).map (· + 0x100)
  let keys := places.flatMap (fun p => [1, 2, 3, 4].flatMap (fun t => (List.range (segments p)).map (fun s => 64 * p + 8 * t + s)))
  { d with pav := { d.pav with noLog := true, multi := keys.foldl (fun m k => FMap.set false m k true) d.pav.multi } }
/-- The log is taken only before the first Quadrille after reset takes effect. -/
def Dev.logLate (d : Dev) : Bool := d.jfe.quad.isSome
/-- The checks of IMPORT on a log read through `rd`, in their order: 0 passed, 2 FORMAT, 3 WRONG_DEVICE, 4 SIGNATURE. Without the key
store no log is verified (R492). -/
def Dev.logVerdict (d : Dev) (rd : Nat → Nat → List Byte) : Nat :=
  let hd := rd 0 64
  let n := fieldAt hd 6 2
  if fieldAt hd 0 4 ≠ 0x4C564150 ∨ fieldAt hd 4 2 ≠ 1 ∨ 4096 < n ∨ !zeroAt hd 0x10 48 ∨
      ((List.range n).map (fun i => rd (64 + 16 * i) 16)).any logEntryReserved then 2
  else if !d.sec.keys then 4
  else if (hd.drop 8).take 8 ≠ d.deviceId then 3
  else if !ecdsaVerify (d.publicKey 1) (sha256 (rd 0 (64 + 16 * n))) (rd (64 + 16 * n) 64) then 4
  else 0
/-- The entries of a log that passed are taken over. -/
def Dev.takeLog (d : Dev) (rd : Nat → Nat → List Byte) : Dev :=
  let n := fieldAt (rd 0 64) 6 2
  let merge (d : Dev) (e : Nat × CoreBands) : Dev :=
    let b := d.bandsOf e.1
    let cells := b.cells ||| e.2.cells
    if d.hw.dies ≤ coreDie e.1 then d
    else d.judge e.1 { cells := cells, fails := max b.fails e.2.fails, outright := b.outright || e.2.outright || decide (2 ≤ popcount 32 cells) }
  let d1 := (((List.range n).map (fun i => rd (64 + 16 * i) 16)).map parseLogEntry).foldl merge d
  { d1.logResult 0 n with pav := { (d1.logResult 0 n).pav with loaded := true } }
/-- IMPORT of a log. -/
def Dev.importLog (d : Dev) (rd : Nat → Nat → List Byte) : Dev :=
  let r := d.logVerdict rd
  if r = 0 then d.takeLog rd else (d.logResult r 0).passAllStates
def Dev.importFx (d : Dev) : Dev :=
  if d.logLate then d.logResult 5 0
  else d.importLog (fun o n => if inDram d.hw (d.logBase + o) n then d.rd View.plain (d.logBase + o) n else List.replicate n 0)
/-- NONE. -/
def Dev.noneFx (d : Dev) : Dev := if d.logLate then d.logResult 5 0 else (d.logResult 0 0).passAllStates
/-- A write of PAV_LOG_CMD. -/
def Dev.logCmd (d : Dev) (v : Nat) : Dev :=
  match v % 4 with
  | 1 => d.exportFx
  | 2 => d.importFx
  | 3 => d.noneFx
  | _ => d

/-- A write of PAV_INJECT (R452). -/
def Dev.injectFx (d : Dev) (n : Nat) (v : W32) : Dev :=
  let lane := v.toNat % 16
  let i := 512 * n + bitsOf v.toNat 12 4
  if !bitOf v.toNat 31 || decide (12 ≤ lane) || !d.compared (2 * i) then d
  else if 10 ≤ lane then d.mismatch (2 * i) (2 ^ lane) true
  else { d with pav := { d.pav with inject := FMap.set none d.pav.inject i (some lane) } }

end Sys2Proof.Machine
end

