-- ==== Sys2Proof/Machine/IngestFx.lean ====
section
/-! DEFINITION. Sensor ingest (R366–R384): Hod queues, the A-PHY ports with their reverse channel, and the Ethernet MACs. -/
namespace Sys2Proof.Machine

/-! ### Hod queues (R377–R383) -/

def Dev.hodQ (d : Dev) (q : Nat) : HodQ := FMap.get HodQ.reset d.hod q
def Dev.setHodQ (d : Dev) (q : Nat) (x : HodQ) : Dev := { d with hod := FMap.set HodQ.reset d.hod q x }
def Dev.hodMax (d : Dev) (q : Nat) : Nat := d.rf (hodKey q 0x48) 26 0
def Dev.hodSlots (d : Dev) (q : Nat) : Nat := 2 ^ d.rf (hodKey q 0x20) 4 0
def Dev.hodKeeps (d : Dev) (q : Nat) : Bool := d.rbit (hodKey q 0x20) 30
def up64 (n : Nat) : Nat := (n + 63) / 64 * 64
/-- Plumb time in units of 2^−32 ns. -/
def Dev.nowFx (d : Dev) : Nat := d.now * 2 ^ 32 + d.plb.frac.toNat

/-- The Hod reads the release word and frees what it names. -/
def Dev.readRelease (d : Dev) (q : Nat) : Dev :=
  let r := leNat (d.rd View.plain (d.hodRelease q) 4)
  let x := d.hodQ q
  d.setHodQ q { x with released := r, held := x.held.filter (fun h => decide (2 ^ 31 ≤ sub32 r h.1)) }
/-- Where the next packet starts: at W, or wrapped to 0. -/
def Dev.hodStart (d : Dev) (q : Nat) : Nat × Bool :=
  if (d.hodQ q).w + d.hodMax q ≤ (d.hodData q).2 then ((d.hodQ q).w, false) else (0, true)
/-- May a packet start: a slot and MAX_PACKET bytes are free? -/
def Dev.hodRoom (d : Dev) (q : Nat) : Bool :=
  let x := d.hodQ q
  decide (sub32 x.seq x.released < d.hodSlots q) && !x.held.any (fun h => overlaps (d.hodStart q).1 (d.hodMax q) h.2.1 h.2.2)
/-- A packet is dropped for want of space. -/
def Dev.hodDrop (d : Dev) (q : Nat) : Dev :=
  let d1 := ((d.setHodQ q { d.hodQ q with lostBefore := true }).bump (hodKey q 0x5C) 1).blkCount .hod 4 1
  d1.limited (rateKey 0x0A03 q) (ticksMs 1) (fun n d => d.emit .hod 0x0A03 1 q (n + 1))
/-- The record of drops that the last one could not yet tell of. -/
def Dev.hodTellDrops (d : Dev) (q : Nat) : Dev :=
  match FMap.get none d.rate (rateKey 0x0A03 q) with
  | some (t, n) =>
    if n = 0 ∨ d.ticks < t + ticksMs 1 then d
    else { d.emit .hod 0x0A03 1 q n with rate := FMap.set none d.rate (rateKey 0x0A03 q) (some (d.ticks, 0)) }
  | none => d
/-- A packet opens, or is dropped whole; a queue that is not enabled takes none. -/
def Dev.hodOpen (d : Dev) (q source stamp info : Nat) : Dev :=
  if !(d.hodQ q).enabled then d
  else
    let d1 := d.readRelease q
    if d1.hodRoom q then
      d1.setHodQ q { d1.hodQ q with opened := (d1.hodQ q).opened ++
        [{ source := source, bytes := [], lines := 0, damaged := false, stamp := stamp, info := info, last := d.ticks }] }
    else d1.hodDrop q
def Dev.hodPkt (d : Dev) (q source : Nat) : Option OpenPkt := (d.hodQ q).opened.find? (fun p => p.source == source)
def Dev.hodPut (d : Dev) (q : Nat) (p : OpenPkt) : Dev :=
  d.setHodQ q { d.hodQ q with opened := (d.hodQ q).opened.map (fun x => if x.source = p.source then p else x) }
/-- The packet of a source leaves the queue. -/
def Dev.hodTake (d : Dev) (q source : Nat) : Dev := d.setHodQ q { d.hodQ q with opened := (d.hodQ q).opened.filter (fun x => x.source != source) }
/-- A packet is rewound: W stays, and what was written of it is undefined. -/
def Dev.hodRewind (d : Dev) (q : Nat) (p : OpenPkt) (reason : Nat) : Dev :=
  let d1 := d.hodTake q p.source
  let fill := d1.drawBytes (min (d1.hodMax q) (up64 p.bytes.length))
  let d2 := fill.2.wr View.plain ((d1.hodData q).1 + (d1.hodStart q).1) fill.1
  let d3 := (((d2.setHodQ q { d2.hodQ q with lostBefore := true }).bump (hodKey q 0x60) 1).blkCount .hod 3 1).blkCount (if p.source < 64 then .aphy else .eth) 3 1
  d3.limited (rateKey 0x0A02 q) (ticksMs 1) (fun n d => d.emit .hod 0x0A02 1 (q + 256 * reason) (n + 1))
/-- The 32 bytes of a descriptor (R379). -/
def hodDescriptor (seq source flags tail off len stamp info : Nat) : List Byte :=
  leBytes 4 seq ++ leBytes 1 1 ++ leBytes 1 source ++ leBytes 1 flags ++ leBytes 1 tail ++ leBytes 4 off ++ leBytes 4 len ++
  leBytes 8 (stamp / 2 ^ 32) ++ leBytes 4 stamp ++ leBytes 4 info
/-- Valid bytes in the last line; a packet with no byte has no last line. -/
def Dev.tailOf (d : Dev) (len : Nat) : Nat × Dev :=
  if len = 0 then ((d.draw).1.toNat % 256, (d.draw).2) else ((len - 1) % 64 + 1, d)
/-- The data lines, then the descriptor, then the notify word (R380). -/
def Dev.hodWrite (d : Dev) (q : Nat) (p : OpenPkt) : Dev :=
  let x := d.hodQ q
  let (off, wrap) := d.hodStart q
  let len := p.bytes.length
  let flags := (if wrap then 1 else 0) + (if p.damaged then 2 else 0) + (if x.lostBefore then 4 else 0)
  let d1 := d.wr View.plain ((d.hodData q).1 + off) (p.bytes ++ List.replicate (up64 len - len) 0)
  let (tail, d2) := d1.tailOf len
  let d3 := d2.wr View.plain ((d.hodRing q).1 + 32 * (x.seq % d.hodSlots q)) (hodDescriptor x.seq p.source flags tail off len p.stamp p.info)
  let held := x.held ++ [(x.seq, off, up64 len)]
  let d4 := if d.hodNotify q ≠ 0 ∧ d.rf (hodKey q 0x4C) 16 0 ≤ held.length then d3.wr View.plain (d.hodNotify q) (leBytes 4 x.seq) else d3
  ((d4.setHodQ q { x with seq := add32 x.seq 1, w := off + up64 len, held := held, lostBefore := false }).blkCount .hod 1 1).blkCount .hod 2 len
/-- A whole packet commits; where another of the queue committed since it opened, its space is looked at again. -/
def Dev.hodCommit (d : Dev) (q : Nat) (p : OpenPkt) : Dev :=
  let d1 := d.hodTake q p.source
  if d1.hodMax q < p.bytes.length then d.hodRewind q p 2 else if d1.hodRoom q then d1.hodWrite q p else d1.hodDrop q
/-- A frame that ends: damaged, it is rewound unless the queue keeps it (R381). -/
def Dev.hodFinish (d : Dev) (q : Nat) (p : OpenPkt) : Dev :=
  if p.damaged && !d.hodKeeps q then d.hodRewind q p 1 else d.hodCommit q p
/-- A packet that arrives at once. -/
def Dev.hodWhole (d : Dev) (q source stamp info : Nat) (bytes : List Byte) (full : Bool) (damaged : Bool) : Dev :=
  let d1 := d.hodOpen q source stamp info
  match d1.hodPkt q source with
  | none => d1
  | some p =>
    let p1 := { p with bytes := bytes, damaged := damaged }
    if full then d1.hodRewind q p1 4 else d1.hodFinish q p1

/-- HOD_STALL_TIMEOUT: an open packet had no data for HOD_Q_STALL µs. -/
def Dev.hodStallFx (d : Dev) (q source : Nat) : Dev :=
  match d.hodPkt q source with
  | some p => if p.last + ticksUs (d.rf (hodKey q 0x50) 15 0) ≤ d.ticks then d.hodRewind q p 3 else d
  | none => d
/-- HOD_RELEASE_POLL, while space is short. -/
def Dev.hodPollFx (d : Dev) (q : Nat) : Dev :=
  if !(d.hodQ q).enabled || d.hodRoom q then d else (d.readRelease q).hodTellDrops q

/-! ### Enabling a queue (R377, R384) -/

/-- Areas that no part of a queue may meet. -/
def Dev.hodBarred (d : Dev) (q : Nat) : List (Nat × Nat) :=
  d.saveAreas ++ d.ringAreas ++ d.specAreas ++ d.reserveAreas ++ d.labelArea ++ d.traceryAreas ++
  (((List.range 32).filter (fun k => k != q && (d.hodQ k).enabled)).flatMap d.hodParts)
/-- Is each part where R377 lets it stand? -/
def Dev.hodPlaced (d : Dev) (q : Nat) : Bool :=
  let (data, size) := d.hodData q
  let (ring, bytes) := d.hodRing q
  let lg := d.rf (hodKey q 0x20) 4 0
  data % 4096 == 0 && decide (2 ^ 16 ≤ size) && decide (size ≤ 2 ^ 32) && inMem d.hw data size && decide (d.hodMax q ≤ size) &&
  decide (64 ≤ d.hodMax q) && decide (d.hodMax q ≤ 2 ^ 26) && d.hodMax q % 64 == 0 &&
  decide (4 ≤ lg) && decide (lg ≤ 16) && ring % max 4096 bytes == 0 && inMem d.hw ring bytes &&
  inMem d.hw (d.hodRelease q) 4 && d.hodRelease q % 4 == 0 &&
  (d.hodNotify q == 0 || (d.hodNotify q % 4 == 0 && inMem d.hw (d.hodNotify q) 4 && !inDram d.hw (d.hodNotify q) 4)) &&
  !(d.hodParts q).any (fun a => (d.hodBarred q).any (fun b => overlaps a.1 a.2 b.1 b.2)) &&
  (!d.rbit (hodKey q 0x20) 24 || !(d.hodParts q).any (fun a => d.allParts.any (fun p => p.touches a.1 a.2)))
/-- Why an enable fails: STREAM_CONFIG's reason, 0 for none. -/
def Dev.hodFault (d : Dev) (q : Nat) : Nat :=
  if !d.hodPlaced q then 1
  else if d.rbit (hodKey q 0x20) 24 then 0
  else match d.part (d.rf (hodKey q 0x20) 23 20) with
    | some p => if d.hodWithin q p then 0 else 2
    | none => 2
/-- A part of the queue in fenced memory. -/
def Dev.hodFencedPart (d : Dev) (q : Nat) : Option Nat := ((d.hodParts q).find? (fun a => d.fencedIn a.1 a.2)).map (·.1)
/-- A queue whose parts come to lie in fenced memory is disabled, and its open packets are lost. -/
def Dev.hodFence (d : Dev) (q : Nat) : Dev :=
  match d.hodFencedPart q with
  | some a =>
    if !(d.hodQ q).enabled then d
    else (d.setHodQ q { d.hodQ q with enabled := false, fenced := true, opened := [] }).emit .hod 0x0A04 2 q (a % 2 ^ 32)
  | none => d
def Dev.hodFences (d : Dev) : Dev := (List.range 32).foldl Dev.hodFence d
/-- The queue starts empty: each slot holds the SEQ of the lap before the first. -/
def Dev.hodStartUp (d : Dev) (q : Nat) : Dev :=
  let n := d.hodSlots q
  let d1 := (List.range n).foldl (fun d i => d.wr View.plain ((d.hodRing q).1 + 32 * i) (leBytes 4 (2 ^ 32 + i - n))) d
  ((d1.wr View.plain (d1.hodRelease q) (leBytes 4 0xFFFFFFFF)).setHodQ q { HodQ.reset with enabled := true }).hodFence q
/-- A write of HOD_Q_CFG: while the queue is enabled, of ENABLE alone. -/
def Dev.hodCfgWrite (d : Dev) (q : Nat) (v : W32) : Dev :=
  if (d.hodQ q).enabled then
    if bitOf v.toNat 31 then d else d.setHodQ q { d.hodQ q with enabled := false, opened := [] }
  else
    let d1 := d.setReg (hodKey q 0x20) (v &&& 0x41F0001F)
    if !bitOf v.toNat 31 then d1
    else if d1.hodFault q ≠ 0 then d1.emit .hod 0x0A05 1 q (d1.hodFault q)
    else d1.hodStartUp q

/-! ### Streams (R366, R368) -/

def Dev.slotCfg (d : Dev) (p s : Nat) : Nat := d.rn (slotKey p s 0x34)
def Dev.filtCfg (d : Dev) (p f : Nat) : Nat := d.rn (filtKey p f 0x44)
/-- Streams enabled. -/
def Dev.streamsOn (d : Dev) : Nat :=
  ((List.range 64).filter (fun k => bitOf (d.slotCfg (k / 4) (k % 4)) 31)).length +
  ((List.range 48).filter (fun k => bitOf (d.filtCfg (k / 8) (k % 8)) 31)).length
/-- SOURCE bytes. -/
def slotSource (p s : Nat) : Nat := 4 * p + s
def filtSource (p f : Nat) : Nat := 64 + 8 * p + f
def capSource (i : Nat) : Nat := 128 + i
/-- The enabled slot of a virtual channel. -/
def Dev.slotOf (d : Dev) (p vc : Nat) : Option Nat :=
  (List.range 4).find? (fun s => bitOf (d.slotCfg p s) 31 && bitsOf (d.slotCfg p s) 11 8 == vc)
def slotQueue (cfg : Nat) : Nat := bitsOf cfg 20 16
/-- An open packet is rewound for a lost link; answers whether there was one. -/
def Dev.loseOpen (d : Dev) (q source : Nat) : Dev × Nat :=
  match d.hodPkt q source with
  | some p => (d.hodRewind q p 5, 1)
  | none => (d, 0)
/-- A write of APHY_VC_CFG: while the slot is enabled, of ENABLE alone. -/
def Dev.slotWrite (d : Dev) (p s : Nat) (v : W32) : Dev :=
  let k := slotKey p s 0x34
  if bitOf (d.slotCfg p s) 31 then
    if bitOf v.toNat 31 then d else ((d.loseOpen (slotQueue (d.slotCfg p s)) (slotSource p s)).1).clearBits k (2 ^ 31)
  else
    let d1 := d.setReg k (v &&& 0x401F0F3F)
    if !bitOf v.toNat 31 then d1
    else if 24 ≤ d1.streamsOn then d1.emit .hod 0x0A01 1 (slotSource p s) 24
    else if (d1.slotOf p (bitsOf v.toNat 11 8)).isSome then d1.emit .aphy 0x0A05 1 (slotSource p s) 3
    else d1.orBits k (2 ^ 31)
/-- A write of ETH_FILT_ACTION, likewise. -/
def Dev.filtWrite (d : Dev) (p f : Nat) (v : W32) : Dev :=
  let k := filtKey p f 0x44
  if bitOf (d.filtCfg p f) 31 then (if bitOf v.toNat 31 then d else d.clearBits k (2 ^ 31))
  else
    let d1 := d.setReg k (v &&& 0x001F3FFF)
    if !bitOf v.toNat 31 then d1
    else if 24 ≤ d1.streamsOn then d1.emit .hod 0x0A01 1 (filtSource p f) 24
    else d1.orBits k (2 ^ 31)

/-! ### A-PHY ports (R368–R371) -/

def Dev.aphyPort (d : Dev) (p : Nat) : Aphy := FMap.get Aphy.reset d.aphy p
def Dev.setAphy (d : Dev) (p : Nat) (x : Aphy) : Dev := { d with aphy := FMap.set Aphy.reset d.aphy p x }
/-- A stamp in 2^−32 ns, less tenths of a nanosecond and whole nanoseconds, modulo 2^64 ns (R390, R391). -/
def stampLess (t tenths offset : Nat) : Nat := (t + 2 ^ 96 - tenths * 2 ^ 32 / 10 - offset * 2 ^ 32) % 2 ^ 96
/-- Every open frame of a port is damaged. -/
def Dev.damageAll (d : Dev) (p : Nat) : Dev :=
  (List.range 4).foldl (fun d s =>
    let q := slotQueue (d.slotCfg p s)
    match d.hodPkt q (slotSource p s) with
    | some k => d.hodPut q { k with damaged := true }
    | none => d) d
/-- A packet header: one corrected is counted, one that cannot be is lost with the frames around it. Answers whether it can be read. -/
def Dev.csiHeader (d : Dev) (p : Nat) : CsiHeader → Dev × Bool
  | .good => (d, true)
  | .corrected => (d.bump (aphyKey p 0x1C) 1, true)
  | .uncorrectable => (d.damageAll p, false)
def Dev.csiDiscard (d : Dev) (p : Nat) : Dev := (d.bump (aphyKey p 0x24) 1).blkCount .aphy 4 1
/-- FRAME_START: a frame still open is damaged and ends; the slot's packet opens. -/
def Dev.frameStartFx (d : Dev) (p vc num : Nat) (h : CsiHeader) : Dev :=
  if !(d.aphyPort p).link then d
  else
    let (d1, ok) := d.csiHeader p h
    if !ok then d1
    else match d1.slotOf p vc with
      | none => d1.csiDiscard p
      | some s =>
        let cfg := d1.slotCfg p s
        let q := slotQueue cfg
        let d2 := match d1.hodPkt q (slotSource p s) with
          | some k => d1.hodFinish q { k with damaged := true }
          | none => d1
        (d2.blkCount .aphy 1 1).hodOpen q (slotSource p s) (stampLess d.nowFx 1184 (d.rn (slotKey p s 0x3C)))
          (num % 65536 + 65536 * (cfg % 64) + 2 ^ 22 * vc)
/-- LONG_PACKET: a line is appended. -/
def Dev.longPacketFx (d : Dev) (p vc dt : Nat) (h : CsiHeader) (data : List Byte) (crcOk full : Bool) : Dev :=
  if !(d.aphyPort p).link then d
  else
    let (d1, ok) := d.csiHeader p h
    if !ok then d1
    else match (d1.slotOf p vc).filter (fun s => d1.slotCfg p s % 64 == dt) with
      | none => d1.csiDiscard p
      | some s =>
        let cfg := d1.slotCfg p s
        let q := slotQueue cfg
        let d2 := ((if crcOk then d1 else d1.bump (aphyKey p 0x20) 1).blkCount .aphy 1 1).blkCount .aphy 2 data.length
        let shape := d1.rn (slotKey p s 0x38)
        match d2.hodPkt q (slotSource p s) with
        | none => d2
        | some k =>
          let gap := if bitOf cfg 30 then up64 k.bytes.length - k.bytes.length else 0
          let extra := decide (shape / 65536 ≤ k.lines)
          let k1 := { k with bytes := if extra then k.bytes else k.bytes ++ List.replicate gap 0 ++ data, lines := k.lines + 1, last := d.ticks,
                             damaged := k.damaged || extra || !crcOk || data.length != shape % 65536 }
          if full then d2.hodRewind q k1 4 else if d2.hodMax q < k1.bytes.length then d2.hodRewind q k1 2 else d2.hodPut q k1
/-- The lines a frame lacks, as zeros. -/
def padLines : Nat → Nat → Bool → List Byte → List Byte
  | 0, _, _, bs => bs
  | n + 1, len, align, bs =>
    padLines n len align (bs ++ List.replicate (if align then up64 bs.length - bs.length else 0) 0 ++ List.replicate len 0)
/-- FRAME_END: the frame is checked, then committed or rewound. -/
def Dev.frameEndFx (d : Dev) (p vc : Nat) (h : CsiHeader) : Dev :=
  if !(d.aphyPort p).link then d
  else
    let (d1, ok) := d.csiHeader p h
    if !ok then d1
    else match d1.slotOf p vc with
      | none => d1.csiDiscard p
      | some s =>
        let cfg := d1.slotCfg p s
        let q := slotQueue cfg
        let shape := d1.rn (slotKey p s 0x38)
        let lines := shape / 65536
        match d1.hodPkt q (slotSource p s) with
        | none => d1
        | some k =>
          let short := lines - k.lines
          let k1 := { k with damaged := k.damaged || k.lines != lines }
          if short = 0 ∨ !d1.hodKeeps q then d1.hodFinish q k1
          else if d1.hodMax q < k.bytes.length + short * (shape % 65536) then d1.hodRewind q k1 2
          else d1.hodFinish q { k1 with bytes := padLines short (shape % 65536) (bitOf cfg 30) k.bytes }

/-- A register's four bytes of the I2C transfer buffer. -/
def Dev.i2cBytes (d : Dev) (p n : Nat) : List Byte := ((List.range 16).flatMap (fun i => leBytes 4 (d.rn (aphyKey p (0x100 + 4 * i))))).take n
/-- Write received bytes from byte 0 and the result (R371). -/
def Dev.i2cEnd (d : Dev) (p result : Nat) (data : List Byte) : Dev :=
  let bs := patch (d.i2cBytes p 64) 0 (data.take 64)
  let d1 := (List.range 16).foldl (fun d i => d.setNat (aphyKey p (0x100 + 4 * i)) (leNat ((bs.drop (4 * i)).take 4))) d
  (d1.setNat (aphyKey p 0x44) result).setAphy p { d1.aphyPort p with i2c := none }
/-- Length of the read asked of the transaction in progress. -/
def Dev.i2cReads (d : Dev) (p : Nat) : Nat := d.rf (aphyKey p 0x40) 14 8
/-- A write of APHY_I2C_CMD: ignored while BUSY, or with a length above 64. -/
def Dev.i2cFx (d : Dev) (p : Nat) (v : W32) : Dev :=
  let w := bitsOf v.toNat 6 0
  let r := bitsOf v.toNat 14 8
  let a := d.aphyPort p
  if a.i2c.isSome || decide (64 < w) || decide (64 < r) then d
  else
    let d1 := d.setReg (aphyKey p 0x40) (v &&& 0x807F7F7F)
    if !bitOf v.toNat 31 then d1
    else if !a.link then d1.setNat (aphyKey p 0x44) 3
    else
      let bs := d1.i2cBytes p w
      ((d1.setNat (aphyKey p 0x44) (2 ^ 31)).setAphy p { a with i2c := some (d.ticks, bs) }).put (.i2c p (bitsOf v.toNat 22 16) bs r)
/-- I2C_DONE. -/
def Dev.i2cDoneFx (d : Dev) (p : Nat) (nack : Bool) (data : List Byte) : Dev :=
  if (d.aphyPort p).i2c.isNone ∨ (!nack ∧ data.length ≠ d.i2cReads p) then d
  else d.i2cEnd p (if nack then 1 else 0) (data.take (d.i2cReads p))
/-- I2C_TIMEOUT: no end within 10 ms. -/
def Dev.i2cTimeoutFx (d : Dev) (p : Nat) (data : List Byte) : Dev :=
  match (d.aphyPort p).i2c with
  | some (t, _) => if t + ticksMs 10 ≤ d.ticks then d.i2cEnd p 2 (data.take (d.i2cReads p)) else d
  | none => d

/-- The link of a port drops (R370). -/
def Dev.aphyDownFx (d : Dev) (p : Nat) (data : List Byte) : Dev :=
  let a := d.aphyPort p
  if !a.link then d
  else
    let lose := (List.range 4).foldl (fun (x : Dev × Nat) s =>
      let r := x.1.loseOpen (slotQueue (x.1.slotCfg p s)) (slotSource p s)
      (r.1, x.2 + r.2)) (d, 0)
    let d1 := if a.i2c.isSome then lose.1.i2cEnd p 3 (data.take (d.i2cReads p)) else lose.1
    (d1.setAphy p { d1.aphyPort p with link := false, gear := 0 }).emit .aphy 0x0A06 1 p lose.2
/-- The link of an enabled port trains. -/
def Dev.aphyUpFx (d : Dev) (p gear : Nat) : Dev :=
  if 16 ≤ p ∨ (d.aphyPort p).link ∨ !d.rbit (aphyKey p 0x14) 31 ∨ gear = 0 ∨ 5 < gear ∨ d.rf (aphyKey p 0x14) 2 0 < gear then d
  else d.setAphy p { d.aphyPort p with link := true, gear := gear }
/-- A write of APHY_PORT_CFG: while the port is enabled, of ENABLE alone; without it the port has no link. -/
def Dev.aphyCfgWrite (d : Dev) (p : Nat) (v : W32) : Dev :=
  if d.rbit (aphyKey p 0x14) 31 then
    if bitOf v.toNat 31 then d else (d.clearBits (aphyKey p 0x14) (2 ^ 31)).aphyDownFx p []
  else d.setReg (aphyKey p 0x14) (v &&& 0x80000007)

/-! ### Ethernet MACs (R373–R375) -/

def Dev.ethPort (d : Dev) (p : Nat) : EthPort := FMap.get EthPort.reset d.eth p
def Dev.setEth (d : Dev) (p : Nat) (x : EthPort) : Dev := { d with eth := FMap.set EthPort.reset d.eth p x }
/-- Big-endian field of a frame. -/
def netField (bs : List Byte) (off n : Nat) : Nat := beNat ((bs.drop off).take n)
/-- Offset of the EtherType: behind an IEEE 802.1Q tag when there is one. -/
def tagged (bs : List Byte) : Bool := netField bs 12 2 == 0x8100
def typeAt (bs : List Byte) : Nat := if tagged bs then 16 else 12
def etherType (bs : List Byte) : Nat := netField bs (typeAt bs) 2
/-- UDP destination port over IPv4. -/
def udpPort (bs : List Byte) : Option Nat :=
  let ip := typeAt bs + 2
  if etherType bs = 0x0800 ∧ netField bs (ip + 9) 1 = 17 then some (netField bs (ip + 4 * (netField bs ip 1 % 16) + 2) 2) else none
def Dev.isPtp (d : Dev) (p : Nat) (bs : List Byte) : Bool :=
  d.rbit (ethKey p 0x28) 31 &&
  (if d.rf (ethKey p 0x28) 29 28 = 0 then etherType bs == 0x88F7
   else d.rf (ethKey p 0x28) 29 28 == 1 && (udpPort bs == some 319 || udpPort bs == some 320))
/-- Does a filter match? -/
def Dev.filtMatches (d : Dev) (p f : Nat) (bs : List Byte) : Bool :=
  let m := d.rn (filtKey p f 0x3C)
  let u := d.rf (filtKey p f 0x40) 15 0
  bitOf (d.filtCfg p f) 31 && (m / 65536 == 0 || m / 65536 == etherType bs) &&
  (!bitOf m 15 || (tagged bs && netField bs 14 2 % 4096 == m % 4096)) && (u == 0 || udpPort bs == some u)
def Dev.filtFor (d : Dev) (p : Nat) (bs : List Byte) : Option Nat := (List.range 8).find? (fun f => d.filtMatches p f bs)
/-- Tenths of a nanosecond from the stamp point to the balls, inwards (R390). -/
def ingressTenths (p rate : Nat) : Nat :=
  if p < 4 then [480, 768, 1344, 3120].getD rate 3120 else if rate = 3 then 2640 else 24000
/-- A frame reaches a filter's queue. -/
def Dev.ethToQueue (d : Dev) (p f : Nat) (bs : List Byte) (full damaged : Bool) : Dev :=
  let cfg := d.filtCfg p f
  let stamp := stampLess d.nowFx (ingressTenths p (d.ethPort p).rate + d.rf (ethKey p 0x24) 15 0) (d.rn (filtKey p f 0x48))
  d.hodWhole (slotQueue cfg) (filtSource p f) stamp (if tagged bs then netField bs 14 2 + 65536 else 0) (bs.drop (cfg % 2 ^ 14)) full damaged
/-- The port PTP takes time from. -/
def Dev.ptpSource (d : Dev) : Option Nat := let s := d.rf PLB_CFG 3 0; if 1 ≤ s ∧ s ≤ 6 then some (s - 1) else none
/-- A received frame (R374), up to PTP messages, which `ptp` takes. -/
def Dev.ethReceive (d : Dev) (p : Nat) (bs : List Byte) (ok full : Bool) (ptp : Dev → Dev) : Dev :=
  if 6 ≤ p ∨ !(d.ethPort p).link then d
  else
    let d1 := (d.blkCount .eth 1 1).blkCount .eth 2 bs.length
    if bs.length + 4 < 64 ∨ 9216 < bs.length + 4 then d1.bump (ethKey p 0x34) 1
    else if !ok then
      let d2 := d1.bump (ethKey p 0x34) 1
      (match if d.isPtp p bs then none else d.filtFor p bs with
       | some f => d2.ethToQueue p f bs full true
       | none => d2)
    else
      let d2 := d1.bump (ethKey p 0x2C) 1
      if etherType bs = 0x8808 ∧ p < 4 then d2
      else if d.isPtp p bs then ptp d2
      else match d.filtFor p bs with
        | some f => d2.ethToQueue p f bs full false
        | none => (d2.bump (ethKey p 0x30) 1).blkCount .eth 4 1

/-- The end of a host frame: sent or dropped. -/
def Dev.hostTxEnd (d : Dev) (p : Nat) (sent : Bool) : Dev :=
  (((d.setEth p { d.ethPort p with hostTx := false }).clearBits (ethKey p 0x54) (2 ^ 31)).setReg (ethKey p 0x58) (if sent then 0x80000000 else 0x40000000))
def Dev.hostTxRange (d : Dev) (p : Nat) : Nat × Nat :=
  (d.rf (ethKey p 0x4C) 31 6 * 64 + 2 ^ 32 * d.rf (ethKey p 0x50) 15 0, d.rf (ethKey p 0x54) 13 0)
/-- A write of ETH_HOST_TX_CTL: GO starts a frame, or drops one that cannot be sent. -/
def Dev.hostTxFx (d : Dev) (p : Nat) (v : W32) : Dev :=
  if (d.ethPort p).hostTx then d
  else
    let d1 := d.setReg (ethKey p 0x54) (v &&& 0x80003FFF)
    if !bitOf v.toNat 31 then d1
    else
      let r := d1.hostTxRange p
      if !(d.ethPort p).link || decide (r.2 < 60) || decide (9216 < r.2) || !inDram d.hw r.1 r.2 then d1.hostTxEnd p false
      else (d1.setReg (ethKey p 0x58) 0).setEth p { d1.ethPort p with hostTx := true }
/-- What the MAC reads from memory: poisoned or fenced lines give it free bytes. -/
def Dev.macRead (d : Dev) (a n : Nat) : List Byte × Dev :=
  match d.poisonedIn View.plain a n with
  | some l => (d.tellPoison l).drawBytes n
  | none => if d.fencedIn a n then d.drawBytes n else (d.rd View.plain a n, d)
/-- HOST_FRAME_SENT. -/
def Dev.hostSentFx (d : Dev) (p : Nat) : Dev :=
  if !(d.ethPort p).hostTx then d
  else
    let r := d.macRead (d.hostTxRange p).1 (d.hostTxRange p).2
    (r.2.put (.eth p r.1)).hostTxEnd p true

def ethRateOk (p rate : Nat) : Bool := if p < 4 then decide (rate < 4) else rate == 3 || rate == 4
/-- The link of an enabled port comes up. -/
def Dev.ethUpFx (d : Dev) (p rate : Nat) : Dev :=
  if 6 ≤ p ∨ (d.ethPort p).link ∨ !d.rbit (ethKey p 0x14) 31 ∨ !ethRateOk p rate then d
  else d.setEth p { d.ethPort p with link := true, rate := rate }
/-- The link of a port goes down: a host frame is dropped. -/
def Dev.ethDownCore (d : Dev) (p : Nat) : Dev :=
  let d1 := if (d.ethPort p).hostTx then d.hostTxEnd p false else d
  (d1.setEth p { d1.ethPort p with link := false, rate := 0 }).emit .eth 0x0A08 1 p 0

end Sys2Proof.Machine
end

