-- ==== Sys2Proof/Machine/PlumbFx.lean ====
section
/-! DEFINITION. The Plumb time unit (R385–R394): the counter and its steps, synchronisation, triggers and captures. -/
namespace Sys2Proof.Machine

/-! ### Triggers (R392, R393) -/

def Dev.trig (d : Dev) (i : Nat) : Trig := FMap.get Trig.reset d.plb.trigs i
def Dev.setTrig (d : Dev) (i : Nat) (x : Trig) : Dev := { d with plb := { d.plb with trigs := FMap.set Trig.reset d.plb.trigs i x } }
def Dev.trigArmed (d : Dev) (i : Nat) : Bool := d.rbit (PLB_TRIG_CTL i) 31
def Dev.trigPeriodic (d : Dev) (i : Nat) : Bool := d.rbit (PLB_TRIG_CTL i) 30
def Dev.trigStart (d : Dev) (i : Nat) : Nat := d.rpair (PLB_TRIG_START_LO i) (PLB_TRIG_START_HI i)
def Dev.trigPeriod (d : Dev) (i : Nat) : Nat := d.rn (PLB_TRIG_PERIOD i)
/-- Firing times START + k × PERIOD before a time. -/
def Dev.firingsBefore (d : Dev) (i t : Nat) : Nat :=
  if t ≤ d.trigStart i then 0 else (t - d.trigStart i + (d.trigPeriod i - 1)) / max 1 (d.trigPeriod i)
/-- The first firing time not before `t`. -/
def Dev.firingFrom (d : Dev) (i t : Nat) : Nat := d.trigStart i + d.firingsBefore i t * d.trigPeriod i
/-- Are the trigger's period and width in range? -/
def Dev.trigOk (d : Dev) (i : Nat) : Bool :=
  let w := d.rn (PLB_TRIG_WIDTH i)
  decide (100 ≤ w) && decide (w ≤ 1000000000) && (!d.trigPeriodic i || (decide (1000 ≤ d.trigPeriod i) && decide (w + 100 ≤ d.trigPeriod i)))
/-- ARM goes from 0 to 1: a firing time already past is skipped. -/
def Dev.armTrigger (d : Dev) (i : Nat) : Dev :=
  let t0 := { Trig.reset with pulse := (d.trig i).pulse, armed := d.clock }
  let skipped := d.firingsBefore i d.now
  if skipped = 0 then d.setTrig i { t0 with next := some (d.trigStart i) }
  else if d.trigPeriodic i then (d.setTrig i { t0 with next := some (d.firingFrom i d.now), late := true }).emit .plb 0x0A0B 1 i (min 0xFFFFFFFF skipped)
  else (d.setTrig i { t0 with late := true }).emit .plb 0x0A0B 1 i 1
/-- A write of PLB_TRIG_CTL: while the trigger is armed, of ARM alone; values out of range leave it unarmed. -/
def Dev.trigCtlWrite (d : Dev) (i : Nat) (v : W32) : Dev :=
  let k := PLB_TRIG_CTL i
  if d.trigArmed i then
    if bitOf v.toNat 31 then d else (d.clearBits k (2 ^ 31)).setTrig i { d.trig i with next := none }
  else
    let d1 := d.setReg k (v &&& 0x7000FFFF)
    if bitOf v.toNat 31 && d1.trigOk i then (d1.orBits k (2 ^ 31)).armTrigger i else d1
/-- The pin of a trigger: its active level or the other. -/
def Dev.drivePin (d : Dev) (i : Nat) (active : Bool) : Dev := d.put (.pin i (active != d.rbit (PLB_TRIG_CTL i) 29))
/-- The trigger message on one A-PHY port (R372). -/
def Dev.sendTrigger (d : Dev) (i fire p : Nat) : Dev :=
  if (d.aphyPort p).link && decide ((d.trig i).armed + d.rf (aphyKey p 0x28) 15 0 ≤ d.ofPlumb fire) then d.put (.aphyTrigger p i)
  else d.emit .aphy 0x0A07 1 p i
/-- TRIGGER_FIRE: the firing time has come. -/
def Dev.trigFireFx (d : Dev) (i : Nat) : Dev :=
  let x := d.trig i
  match x.next with
  | none => d
  | some t =>
    if !d.trigArmed i || decide (d.now < t) then d
    else
      let pin := d.rbit (PLB_TRIG_CTL i) 28
      let next := if d.trigPeriodic i then some (t + d.trigPeriod i) else none
      let d1 := if pin then d.drivePin i true else d
      let d2 := ((List.range 16).filter (fun p => d.rbit (PLB_TRIG_CTL i) p)).foldl (fun d p => d.sendTrigger i t p) d1
      d2.setTrig i { x with next := next, fired := min 0xFFFFFFFF (x.fired + 1), pulse := x.pulse || pin }
/-- TRIGGER_PULSE_END. -/
def Dev.pulseEndFx (d : Dev) (i : Nat) : Dev :=
  if (d.trig i).pulse then (d.drivePin i false).setTrig i { d.trig i with pulse := false } else d
/-- After a step of the time, each armed trigger takes its next time anew. -/
def Dev.trigStep (d : Dev) (i : Nat) : Dev :=
  let x := d.trig i
  match x.next with
  | none => d
  | some t =>
    if !d.trigArmed i then d
    else if d.trigPeriodic i then
      let n := d.firingFrom i d.now
      let d1 := d.setTrig i { x with next := some n, late := x.late || decide (t < n) }
      if t < n then d1.emit .plb 0x0A0B 1 i (min 0xFFFFFFFF ((n - t) / max 1 (d.trigPeriod i))) else d1
    else if t < d.now then d.setTrig i { x with next := none, late := true }
    else d

/-! ### The counter (R385, R386, R145) -/

/-- The time is stepped: figures keep their elapsed places, and the triggers follow. -/
def Dev.stepTime (d : Dev) (ns : Nat) (frac : BitVec 32) : Dev :=
  let delta := (ns + 2 ^ 64 - d.now) % 2 ^ 64
  let d1 := ({ d with plb := { d.plb with ns := BitVec.ofNat 64 ns, frac := frac } }).emit .plb 0x0A0A 1 (delta % 2 ^ 32) (delta / 2 ^ 32)
  let d2 := if d.jfe.quad.isSome then d1.emit .jfe 0x0307 1 (delta % 2 ^ 32) (delta / 2 ^ 32) else d1
  (List.range 16).foldl Dev.trigStep d2
def Dev.plbOperand (d : Dev) : Nat := d.rpair PLB_ADJ_LO PLB_ADJ_HI
/-- A write of PLB_CMD. -/
def Dev.plbCmd (d : Dev) (v : Nat) : Dev :=
  match v % 4 with
  | 1 => d.stepTime d.plbOperand 0
  | 2 => d.stepTime ((d.now + d.plbOperand) % 2 ^ 64) d.plb.frac
  | 3 => { d with plb := { d.plb with slew := some (sext 64 d.plbOperand * (2 ^ 32 : Nat)) } }
  | _ => d
/-- A write of PLB_INCR_FRAC: the staged pair takes effect, unless it lies outside ±1,000 ppm. -/
def Dev.incrWrite (d : Dev) (v : W32) : Dev :=
  let x := d.rn PLB_INCR_NS * 2 ^ 32 + v.toNat
  if 24975 * 2 ^ 32 ≤ 10000 * x ∧ 10000 * x ≤ 25025 * 2 ^ 32 then { d.setReg PLB_INCR_FRAC v with plb := { d.plb with incr := x } } else d
/-- PLB_TIME_READ: TIME_LO answers and latches the others. -/
def Dev.timeRead (d : Dev) : W32 × Dev :=
  (BitVec.ofNat 32 d.now, { d with plb := { d.plb with latchHi := BitVec.ofNat 32 (d.now / 2 ^ 32), latchFrac := d.plb.frac } })
/-- SLEW_DONE: the operand is used up. -/
def Dev.slewDoneFx (d : Dev) : Dev := if d.plb.slew = some 0 then { d with plb := { d.plb with slew := none } } else d
/-- What a slew adds in one tick: the change of the increment, until the operand is used up. -/
def Dev.slewStep (d : Dev) : Int :=
  match d.plb.slew with
  | none => 0
  | some r =>
    let m : Int := ((d.plb.incr * d.rf PLB_SLEW_RATE 9 0 / 1000000 : Nat) : Int)
    clampInt (-m) m r
/-- One TCLK tick of the counter. -/
def Dev.plumbTick (d : Dev) : Dev :=
  let s := d.slewStep
  let add := ((d.plb.incr : Int) + s).toNat
  let t := (d.nowFx + add) % 2 ^ 96
  { d with plb := { d.plb with ns := BitVec.ofNat 64 (t / 2 ^ 32), frac := BitVec.ofNat 32 t, run := d.plb.run + add, slew := d.plb.slew.map (· - s) } }

/-! ### Synchronisation (R387–R389) -/

def satNs (o : Int) : Nat := wrap 32 (clampInt (-(2 ^ 31 : Nat)) (2 ^ 31 - 1 : Nat) o)
/-- The sync state changes: it is told, and the Quoins learn of it. -/
def Dev.setSync (d : Dev) (s : SyncSt) : Dev :=
  if d.plb.sync = s then d
  else (({ d with plb := { d.plb with sync := s, syncSince := d.ticks, good := 0 } }).emit .plb 0x0A09 1 s.code (satNs d.plb.offset)).statusBoth
/-- The state after a valid sync. -/
def Dev.syncNext (d : Dev) (o : Int) : Dev :=
  let thr := d.rf PLB_LOCK_THRESHOLD 13 0
  match d.plb.sync with
  | .freeRun => d.setSync .acquiring
  | .holdover => d.setSync .acquiring
  | .acquiring =>
    let g := if o.natAbs ≤ thr then d.plb.good + 1 else 0
    let d1 := { d with plb := { d.plb with good := g } }
    if 16 ≤ g then ({ d1 with plb := { d1.plb with everLocked := true } }).setSync .locked else d1
  | .locked => if 10 * thr < o.natAbs then d.setSync .acquiring else d
/-- A correction: a step where R389 allows one, and a slew otherwise. After the first lock the servo also sets the increment. -/
def Dev.correct (d : Dev) (o : Int) : Dev :=
  if d.plb.sync = .acquiring ∧ d.rn PLB_STEP_THRESHOLD < o.natAbs ∧ (d.jfe.quad.isNone ∨ d.rbit PLB_CFG 4) then
    d.stepTime (wrap 64 (d.now - o)) d.plb.frac
  else
    let n := d.freeCtr
    { d with freeCtr := n + 1, plb := { d.plb with slew := some (Config.servoSlew n), incr := if d.plb.everLocked then Config.servoIncr n else d.plb.incr } }
/-- A valid sync from the source, `o` ns ahead of it. -/
def Dev.syncFx (d : Dev) (o : Int) : Dev :=
  (({ d with plb := { d.plb with offset := o, history := (d.plb.incr :: d.plb.history).take 64 } }).syncNext o).correct o
/-- LOCKED is lost: the mean increment of the last 64 intervals is kept. -/
def Dev.holdover (d : Dev) : Dev :=
  if d.plb.sync ≠ .locked then d
  else
    let h := d.plb.history
    ({ d with plb := { d.plb with incr := h.foldl (· + ·) 0 / max 1 h.length, slew := none } }).setSync .holdover
/-- HOLDOVER_EXPIRY. -/
def Dev.holdoverFx (d : Dev) : Dev :=
  if d.plb.sync = .holdover ∧ d.plb.syncSince + ticksMs (1000 * d.rf PLB_HOLDOVER 11 0) ≤ d.ticks then d.setSync .freeRun else d
/-- A write of PLB_CFG. -/
def Dev.plbCfgWrite (d : Dev) (v : W32) : Dev := (d.setReg PLB_CFG (v &&& 0x1F)).setSync .freeRun

/-- Offset of the PTP header in a message. -/
def ptpAt (bs : List Byte) : Nat := if etherType bs = 0x88F7 then typeAt bs + 2 else typeAt bs + 2 + 4 * (netField bs (typeAt bs + 2) 1 % 16) + 8
/-- Plumb takes a PTP message: a sync from the source, or a delay request, which is answered. -/
def Dev.ptpTake (d : Dev) (p : Nat) (bs : List Byte) (sync : Option Int) : Dev :=
  let kind := netField bs (ptpAt bs) 1 % 16
  if kind = 1 then (if d.ptpSource = some p then d else d.put (.ptp p 3))
  else if kind = 2 then d.put (.ptp p 4)
  else match sync with
    | some o => if d.ptpSource = some p then d.syncFx o else d
    | none => d
/-- ETH_FRAME_RECEIVE. -/
def Dev.ethFrameFx (d : Dev) (p : Nat) (bs : List Byte) (ok full : Bool) (sync : Option Int) : Dev :=
  d.ethReceive p bs ok full (fun d => d.ptpTake p bs sync)
/-- ETH_LINK_DOWN. -/
def Dev.ethDownFx (d : Dev) (p : Nat) : Dev :=
  if !(d.ethPort p).link then d
  else
    let d1 := d.ethDownCore p
    if d.ptpSource = some p then d1.holdover else d1
/-- A write of ETH_PORT_CFG: while the port is enabled, of ENABLE alone; without it the port has no link. -/
def Dev.ethCfgWrite (d : Dev) (p : Nat) (v : W32) : Dev :=
  if d.rbit (ethKey p 0x14) 31 then
    if bitOf v.toNat 31 then d else (d.clearBits (ethKey p 0x14) (2 ^ 31)).ethDownFx p
  else d.setReg (ethKey p 0x14) (v &&& 0x80000007)
/-- PTP_MESSAGE_INTERVAL: Sync where the port is a time transmitter, Delay_Req where it is the receiver, Pdelay_Req anywhere. -/
def Dev.ptpIntervalFx (d : Dev) (p kind : Nat) : Dev :=
  let recv := d.ptpSource == some p
  if p < 6 ∧ d.rbit (ethKey p 0x28) 31 ∧ (d.ethPort p).link ∧ ((kind = 0 ∧ !recv) ∨ (kind = 1 ∧ recv) ∨ kind = 2) then d.put (.ptp p kind) else d

/-! ### Captures (R394) -/

def Dev.caps (d : Dev) (i : Nat) : List Nat := FMap.get [] d.plb.caps i
/-- How far the time is from the nearest whole second. -/
def ppsOffset (now : Nat) : Int := let r := now % 1000000000; if r ≤ 500000000 then (r : Int) else (r : Int) - 1000000000
/-- A stamp enters the FIFO, or is lost. -/
def Dev.pushStamp (d : Dev) (i : Nat) : Dev :=
  if 16 ≤ (d.caps i).length then ({ d with plb := { d.plb with capOver := FMap.set false d.plb.capOver i true } }).emit .plb 0x0A0C 1 i 1
  else { d with plb := { d.plb with caps := FMap.set [] d.plb.caps i (d.caps i ++ [d.now]) } }
/-- CAPTURE_EDGE: stamped when the input selects that edge. -/
def Dev.captureFx (d : Dev) (i : Nat) (rising : Bool) : Dev :=
  let cfg := d.rn (PLB_CAP_CFG i)
  if 8 ≤ i ∨ !bitOf cfg 31 ∨ !bitOf cfg (if rising then 29 else 30) then d
  else
    let d1 := d.pushStamp i
    let d2 := if bitOf cfg 28 then
        d1.hodWhole (cfg % 32) (capSource i) d.nowFx (if rising then 1 else 0)
          (leBytes 8 d.now ++ leBytes 4 d.plb.frac.toNat ++ List.replicate 4 0) false false
      else d1
    if d.rf PLB_CFG 3 0 = 8 + i then d2.syncFx (ppsOffset d.now) else d2
/-- CAP_STAMP_READ: the oldest stamp is answered and leaves; an empty FIFO answers 0. -/
def Dev.capRead (d : Dev) (i : Nat) : W32 × Dev :=
  match d.caps i with
  | [] => (0, d)
  | t :: rest => (BitVec.ofNat 32 t, { d with plb := { d.plb with caps := FMap.set [] d.plb.caps i rest, capHi := FMap.set 0 d.plb.capHi i (t / 2 ^ 32) } })

end Sys2Proof.Machine
end

