-- ==== Sys2Proof/Machine/QuoinFx.lean ====
section
/-! DEFINITION. The commands of the Quoins (R404–R430): the release of records, FALLBACK, CAN FD, heartbeats, the verdict exchange, and the
mailbox. -/
namespace Sys2Proof.Machine

/-! ### Records (R409–R412) -/

/-- Availability is back: every SAFETY stream is out of FALLBACK and the package out of safe state (R427). -/
def Dev.settleLoss (d : Dev) : Dev :=
  if d.inSafe || !d.qn.a.live || !d.qn.b.live || d.streamList.any (fun p => p.2.safety && (d.stream p.1).fallback) then d
  else { d with qn := { d.qn with loss := 0 } }
/-- Age of a record now, in 10 µs units. -/
def Dev.recordAge (d : Dev) (k : RecordCheck) : Nat := min 0xFFFF ((d.now - k.oldest) / 10000)
/-- RECORD_CLOSE: each Quoin that runs checks the record that has closed. -/
def Dev.recordCloseFx (d : Dev) (n : Nat) : Dev :=
  let st := d.stream n
  match d.streamCfg n, st.check with
  | some cfg, some k =>
    if k.verdictA.isSome || k.verdictB.isSome || (!d.qn.a.live && !d.qn.b.live) then d
    else
      let d1 := d.modStream n (fun s => { s with lastAge := d.recordAge k })
      if !k.valid then d1.failRecord n [k.reason] k.seq false
      else
        let d2 := match d1.poisonedIn View.plain cfg.record cfg.size with
          | some l => d1.tellPoison l
          | none => d1
        match d1.recordFaults cfg k with
        | [] => d2.modStream n (fun s => { s with check := some { k with verdictA := if d.qn.a.live then some 0 else none,
                                                                          verdictB := if d.qn.b.live then some 0 else none } })
        | rs => d2.failRecord n rs k.seq false
  | _, _ => d
/-- The transmit path sends a released record: only one that reads VALID and has no poisoned line (R376, R317). -/
def Dev.transmit (d : Dev) (n : Nat) (cfg : StreamCfg) (seq : Nat) : Dev :=
  match d.poisonedIn View.plain cfg.record cfg.size with
  | some l => d.tellPoison l
  | none =>
    let bs := d.rd View.plain cfg.record cfg.size
    if fieldAt bs 3 1 / 16 = 1 then d.sendRecord n cfg seq d.now bs else d
/-- RECORD_RELEASE: both Quoins have passed the record. -/
def Dev.recordReleaseFx (d : Dev) (n : Nat) : Dev :=
  match d.streamCfg n, (d.stream n).check with
  | some cfg, some k =>
    if k.verdictA ≠ some 0 ∨ k.verdictB ≠ some 0 then d
    else
      let d1 := (d.putValidity cfg.record 1 0).wr View.plain (cfg.record + 0x18) (leBytes 8 d.now)
      let was := (d.stream n).fallback
      let d2 := d1.modStream n (fun s => { s with check := none, lastSeq := k.seq, lastValid := some d.ticks, fallback := false })
      let d3 := if cfg.tx then d2.transmit n cfg k.seq else d2
      if was then d3.statusBoth.settleLoss else d3
  | _, _ => d
/-- VERDICT_TIMEOUT: a Quoin gave no verdict within 100 µs. -/
def Dev.verdictTimeoutFx (d : Dev) (n : Nat) : Dev :=
  match (d.stream n).check with
  | some k =>
    if (k.verdictA.isSome ∧ k.verdictB.isSome) ∨ d.ticks < k.since + ticksUs 100 then d else d.failRecord n [0x0D] k.seq false
  | none => d
/-- RELEASE_GAP: RELEASE_LIMIT has passed since the last VALID release, or the last SAFE_EXIT. -/
def Dev.releaseGapFx (d : Dev) (n : Nat) : Dev :=
  let due (c : StreamCfg) : Bool := match (d.stream n).lastValid, d.qn.exitTick with
    | some a, some b => decide (max a b + ticksUs (10 * c.relLimit) ≤ d.ticks)
    | some a, none => decide (a + ticksUs (10 * c.relLimit) ≤ d.ticks)
    | none, some b => decide (b + ticksUs (10 * c.relLimit) ≤ d.ticks)
    | none, none => false
  match d.streamCfg n with
  | some c => if due c then d.fallback n 0x82 0xFFFFFFFF false else d
  | none => d

/-! ### CAN FD (R414, R425, R428) -/

/-- CAN_FRAME_SENT: the first message of a controller's queue leaves. -/
def Dev.canSentFx (d : Dev) (q ctl : Nat) : Dev :=
  let x := d.quoin q
  let queue := if ctl = 0 then x.canA else x.canB
  match queue with
  | [] => d
  | m :: rest =>
    if !x.live || bitOf x.busOff ctl then d
    else (d.setQuoin q (if ctl = 0 then { x with canA := rest } else { x with canB := rest })).put (.can q ctl (d.canBase q + m.off) m.bytes)
/-- STATUS_PERIOD. -/
def Dev.statusPeriodFx (d : Dev) (q : Nat) : Dev :=
  let x := d.quoin q
  if !x.live || decide (d.ticks < x.statusTick + ticksMs (10 * max 1 (d.rf (QN_CAN_CFG q) 15 8))) then d
  else (d.setQuoin q { x with statusTick := d.ticks }).statusMsg q
/-- A controller enters bus-off, where its messages are lost, or leaves it. -/
def Dev.busOffFx (d : Dev) (q ctl : Nat) (enter : Bool) : Dev :=
  let x := d.quoin q
  if !x.live ∨ 2 ≤ ctl ∨ bitOf x.busOff ctl = enter then d
  else if !enter then d.setQuoin q { x with busOff := x.busOff - 2 ^ ctl }
  else
    let lost := if ctl = 0 then x.canA.length else x.canB.length
    let y := { x with busOff := x.busOff + 2 ^ ctl, canLost := min 255 (x.canLost + lost) }
    d.setQuoin q (if ctl = 0 then { y with canA := [] } else { y with canB := [] })

/-! ### Heartbeats (R416, R417) -/

/-- A verdict on a die: a Course die is fenced, the Keystone is lost. -/
def Dev.loseDie (d : Dev) (q n : Nat) : Dev := if n = 8 then d.decideSafe q 0x03 else d.declareFence q (unitNo n 5 0) 1
def Dev.hbLimit (d : Dev) (q : Nat) : Nat := d.rf (QN_HB_MISS q) 1 0
/-- Does the Quoin watch the die's pair: one that is there, not fenced, and not held in reset? -/
def Dev.watched (d : Dev) (q n : Nat) : Bool :=
  (d.quoin q).live && d.keystoneUp && !d.pwr.standby && (n == 8 || (decide (n < d.hw.dies) && !FMap.get false (d.quoin q).fences (unitNo n 5 0)))
/-- A frame of a die is missing, or fails its checks. -/
def Dev.hbMissFx (d : Dev) (q n : Nat) : Dev :=
  if !d.watched q n then d
  else
    let x := d.quoin q
    let k := FMap.get 0 x.hbMiss n + 1
    let d1 := d.setQuoin q { x with hbMiss := FMap.set 0 x.hbMiss n k }
    if d.hbLimit q ≤ k then d1.loseDie q n else d1
/-- The units behind an ALIVE bit of a Course die: bit 17, its Mortar, stands for the die (R416). -/
def aliveUnits (n b : Nat) : List Nat :=
  if b < 8 then [unitNo n 1 b]
  else if b < 12 then [unitNo n 2 (b - 8)]
  else if b < 14 then (List.range 8).map (fun l => layerUnit (2 * n + (b - 12)) l)
  else if b < 17 then [linkUnit n (b - 14)]
  else [unitNo n 5 0]
/-- An ALIVE bit of a good frame. -/
def Dev.aliveBit (d : Dev) (q n : Nat) (alive : Nat) (b : Nat) : Dev :=
  let x := d.quoin q
  let key := 32 * n + b
  if bitOf alive b then d.setQuoin q { x with aliveMiss := FMap.set 0 x.aliveMiss key 0 }
  else
    let k := FMap.get 0 x.aliveMiss key + 1
    let d1 := d.setQuoin q { x with aliveMiss := FMap.set 0 x.aliveMiss key k }
    if n = 8 then d1.loseDie q 8
    else if d.hbLimit q ≤ k then (aliveUnits n b).foldl (fun d u => if d.isolated u && !d.fenced u then d else d.declareFence q u 1) d1
    else d1
/-- A good frame: its FATAL and ALIVE bits are judged. -/
def Dev.hbGood (d : Dev) (q n : Nat) (f : W64) : Dev :=
  let d1 := d.modQuoin q (fun x => { x with hbMiss := FMap.set 0 x.hbMiss n 0 })
  let alive := bitsOf f.toNat 39 8
  if bitOf f.toNat 40 then d1.loseDie q n
  else (List.range (if n = 8 then 5 else 18)).foldl (fun d b => d.aliveBit q n alive b) d1
/-- HEARTBEAT_FRAME. -/
def Dev.heartbeatFx (d : Dev) (q n : Nat) (f : W64) : Dev :=
  if !d.watched q n then d
  else
    let x := d.quoin q
    let bytes := beBytes 8 f.toNat
    let counter := bitsOf f.toNat 55 48
    if crc8 0 (bytes.take 7) ≠ bytes.getD 7 0 ∨ bitsOf f.toNat 63 56 ≠ n then d.hbMissFx q n
    else
      let d1 := d.setQuoin q { x with hbNext := FMap.set none x.hbNext n (some ((counter + 1) % 256)) }
      match FMap.get none x.hbNext n with
      | some e => if e ≠ counter then d1.hbMissFx q n else d1.hbGood q n f
      | none => d1.hbGood q n f
/-! ### The verdict exchange (R421) -/

/-- Fences that the partner holds are adopted. -/
def Dev.adoptFences (d : Dev) (q : Nat) : Dev :=
  (d.quoin (1 - q)).fences.foldl (fun d e =>
    if FMap.get false (d.quoin q).fences e.1 then d
    else (((d.modQuoin q (fun x => { x with fences := FMap.set false x.fences e.1 true })).emit (.qn q) 0x0B07 1 1 (13 - q)).setFence e.1).statusMsg q) d
/-- Safe-state reasons of the partner are adopted as PARTNER_DECISION. -/
def Dev.adoptReasons (d : Dev) (q : Nat) : Dev :=
  let y := d.quoin (1 - q)
  if y.st ≠ .safe then d
  else
    let mine := (d.quoin q).reasons.map reasonEff
    let new := y.reasons.filter (fun r => !mine.contains (reasonEff r))
    if new.isEmpty then d
    else
      let r := (new.foldl (fun d r => d.addReason q (0x100 + reasonEff r) (1 - q)) d).safeStreams
      (if r.2 then r.1.addReason q 0x0C q else r.1).statusMsg q
/-- Slots whose contents differ count as empty at both. -/
def Dev.compareSlots (d : Dev) (q : Nat) : Dev :=
  (List.range 4).foldl (fun d i =>
    let a := FMap.get none d.qn.a.slots i
    let b := FMap.get none d.qn.b.slots i
    if a = b ∨ FMap.get false d.qn.a.slotBad i then d
    else
      let later := match a, b with
        | some x, some y => if x.tStart < y.tStart then 13 else 12
        | none, some _ => 13
        | _, none => 12
      let bad (x : Quoin) : Quoin := { x with slotBad := FMap.set false x.slotBad i true }
      ((d.modQuoin 0 bad).modQuoin 1 bad).emit (.qn q) 0x0B07 1 4 (later + 256 * i)) d
/-- Stream tables loaded at both are compared: while their digests differ RESULT is DISAGREE, told once; when a later load makes them agree it is
PENDING again (R429; log entry 72). -/
def Dev.compareTables (d : Dev) (q : Nat) : Dev :=
  match d.qn.a.pending, d.qn.b.pending with
  | some s, some t =>
    if s.digest = t.digest then
      let agree (x : Quoin) : Quoin := if x.result = 3 then { x with result := 1 } else x
      (d.modQuoin 0 agree).modQuoin 1 agree
    else if d.qn.a.result = 3 ∧ d.qn.b.result = 3 then d
    else
      let differ (x : Quoin) : Quoin := { x with result := 3 }
      ((d.modQuoin 0 differ).modQuoin 1 differ).emit (.qn q) 0x0B07 1 2 (13 - q)
  | _, _ => d
/-- VERDICT_FRAME: Quoin `q` receives its partner's. -/
def Dev.verdictFrameFx (d : Dev) (q : Nat) : Dev :=
  if !(d.quoin q).live || !(d.quoin (1 - q)).live then d
  else
    let d1 := d.modQuoin q (fun x => { x with partnerOk := true, partnerTick := d.ticks })
    (((d1.adoptFences q).adoptReasons q).compareSlots q).compareTables q
/-- PARTNER_LOST: no frame from the partner for 1 ms. -/
def Dev.partnerLostFx (d : Dev) (q : Nat) : Dev :=
  let x := d.quoin q
  if !x.live || decide (d.ticks < max x.partnerTick x.bootTick + ticksMs 1) then d
  else (d.setQuoin q { x with partnerOk := false }).decideSafe q 0x09

/-! ### Self-faults, clocks and rails (R404, R405, R542) -/

/-- A Quoin enters FAILED: its SAFE pin is asserted, its controllers disabled, and it votes no more. -/
def Dev.quoinFail (d : Dev) (q : Nat) : Dev :=
  let x := d.quoin q
  let new := x.st = .run
  let y : Quoin := { x with st := .failed, canA := [], canB := [], partnerOk := false, pending := none, exitAsked := false,
                            safeCount := if new then min 0xFFFFFFFF (x.safeCount + 1) else x.safeCount, safeTick := if new then d.ticks else x.safeTick }
  if !x.live then d else (d.charge 1).setQuoin q (y.withReasons (x.reasons ++ [0x0B]))
/-- CLOCK_FAULT: the ticks of 1 ms differ from 400,000 by more than 2,000 ppm. -/
def Dev.clockFaultFx (d : Dev) (q count : Nat) : Dev := if count + 800 < 400000 ∨ 400800 < count then d.decideSafe q 0x04 else d
/-- SUPPLY_FAULT: a main rail outside its window, while PERST# is deasserted. -/
def Dev.supplyFaultFx (d : Dev) (q : Nat) : Dev := if d.sec.boot.perst then d.decideSafe q 0x05 else d

/-! ### The mailbox (R406, R424, R428, R429) -/

def parseStream (bs : List Byte) : StreamCfg :=
  let f := fieldAt bs 1 1
  { enable := bitOf f 0, safety := bitOf f 1, sync := bitOf f 2, tx := bitOf f 3, port := if bitOf f 4 then 5 else 4,
    part := fieldAt bs 2 1 % 16, slot := fieldAt bs 3 1 % 4, ageLimit := fieldAt bs 4 2, relLimit := fieldAt bs 6 2, record := fieldAt bs 8 6,
    size := fieldAt bs 0xE 2, fbMaxAge := fieldAt bs 0x10 2, vlan := fieldAt bs 0x12 2, dest := fieldAt bs 0x14 6 }
/-- A reserved field is not 0, or a field is out of its range. -/
def streamBad (bs : List Byte) : Bool :=
  let c := parseStream bs
  fieldAt bs 0 1 != 1 || decide (32 ≤ fieldAt bs 1 1) || decide (16 ≤ fieldAt bs 2 1) || decide (4 ≤ fieldAt bs 3 1) || c.ageLimit == 0 ||
  c.record % 64 != 0 || decide (c.size < 64) || decide (23552 < c.size) || c.size % 64 != 0 || bitOf c.vlan 12 || !zeroAt bs 0x1A 6 ||
  (c.safety && (c.relLimit == 0 || c.fbMaxAge == 0 || decide (1000 < c.fbMaxAge)))
/-- Is the table refused (R406)? Entries that are not enabled say nothing. -/
def Dev.tableBad (d : Dev) (rows : List (List Byte)) : Bool :=
  let on := rows.filter (fun b => bitOf (fieldAt b 1 1) 0)
  on.any streamBad || anyPair (fun (a b : StreamCfg) => overlaps a.record a.size b.record b.size) (on.map parseStream) ||
  (on.map parseStream).any (fun c => (c.safety && d.classOf c.part == 0) || (match d.part c.part with
    | some p => !p.allows c.record c.size 1
    | none => true))
def Dev.qnResult (d : Dev) (q r : Nat) : Dev := d.modQuoin q (fun x => { x with result := r })
/-- LOAD_STREAMS. -/
def Dev.loadStreamsFx (d : Dev) (q : Nat) : Dev :=
  let base := d.rf (QN_STREAM_TABLE_LO q) 31 6 * 64 + 2 ^ 32 * d.rf (QN_STREAM_TABLE_HI q) 15 0
  if !inMem d.hw base 2048 then d.qnResult q 2
  else
    let bs := d.rd View.plain base 2048
    let rows := (List.range 64).map (fun i => (bs.drop (32 * i)).take 32)
    let digest := sha256 bs
    if d.tableBad rows then d.qnResult q 2
    else if d.rbit ((Block.qn q).base + 0xC) 0 && decide (d.qn.table.map (·.digest) ≠ some digest) then d.qnResult q 4
    else d.modQuoin q (fun x => { x with pending := some { entries := rows.map parseStream, digest := digest }, result := 1 })
/-- Does SAFE_EXIT leave every reason of the Quoin now (R422, R514)? -/
def Dev.exitOk (d : Dev) (q : Nat) : Bool :=
  (d.quoin q).reasons.all (fun r =>
    let e := reasonEff r
    [0x01, 0x0C, 0x0D].contains e || (e == 0x02 && d.sec.boot.stage == 0x80) || (e == 0x06 && !d.qn.thermal) || (e == 0x07 && !d.qn.critical)) &&
  !d.qn.exitBarred
/-- SAFE_EXIT. -/
def Dev.safeExitFx (d : Dev) (q : Nat) : Dev :=
  if d.exitOk q then d.modQuoin q (fun x => { x with exitAsked := true, result := 1 }) else d.qnResult q 5
/-- A write of QNx_CMD; a Quoin that does not run takes none. -/
def Dev.qnCmd (d : Dev) (q : Nat) (v : W32) : Dev :=
  if !(d.quoin q).live then d
  else match v.toNat / 2 ^ 28 with
    | 1 => d.loadStreamsFx q
    | 2 => d.safeExitFx q
    | 3 => (d.decideSafe q 0x0D).qnResult q 0
    | _ => d

/-- A table takes effect; what the Quoins hold of an entry that stays as it was stays. -/
def Dev.takeTable (d : Dev) (t : StreamTable) : Dev :=
  let same (n : Nat) : Bool := match d.qn.table with
    | some o => o.entries[n]? == t.entries[n]?
    | none => false
  let enabled := (t.entries.filter (·.enable)).length
  let d1 := { d with qn := { d.qn with table := some t, streams := FMap.keep (fun k _ => same k) d.qn.streams } }
  let take (x : Quoin) : Quoin := { x with pending := none, result := if (x.result = 1 ∨ x.result = 3) ∧ !x.exitAsked then 0 else x.result }
  (((d1.modQuoin 0 take).modQuoin 1 take).quoinEvent 0x0B08 0 enabled (leNat (t.digest.take 4)))
/-- The safe state is left. -/
def Dev.leaveSafe (d : Dev) (q : Nat) : Dev :=
  let x := d.quoin q
  (d.setQuoin q ({ x with st := .run, exitAsked := false, result := 0 }.withReasons [])).emit (.qn q) 0x0B02 1 x.reason ((d.ticks - x.safeTick) / 400000)
/-- What a major-frame boundary does for the Quoins: stream tables and SAFE_EXIT take effect (R424, R429). -/
def Dev.quoinBoundary (d : Dev) : Dev :=
  let d1 := match d.qn.a.pending, d.qn.b.pending with
    | some s, some t => if s.digest = t.digest ∧ d.qn.a.live ∧ d.qn.b.live then d.takeTable s else d
    | _, _ => d
  if !(d1.qn.a.live && d1.qn.b.live && d1.qn.a.exitAsked && d1.qn.b.exitAsked) then d1
  else if d1.exitOk 0 && d1.exitOk 1 then
    let d2 := (d1.leaveSafe 0).leaveSafe 1
    ({ d2 with qn := { d2.qn with exitTick := some d2.ticks } }).statusBoth.settleLoss
  else
    let no (x : Quoin) : Quoin := { x with exitAsked := false, result := 5 }
    (d1.modQuoin 0 no).modQuoin 1 no

end Sys2Proof.Machine
end

