-- ==== Sys2Proof/Machine/PowerFx.lean ====
section
/-! DEFINITION. The power manager (R454–R480, R536): power domains, standby, thermal sensors and zones, coolant inputs, the power limit and
the throttle states. Die index 4 is the Keystone. -/
namespace Sys2Proof.Machine

def Dev.setDiePower (d : Dev) (n : Nat) (x : DiePower) : Dev := { d with pwr := { d.pwr with dies := FMap.set DiePower.reset d.pwr.dies n x } }
/-- The dies with a throttle state: those of the part, and the Keystone. -/
def powerDies (h : Hw) : List Nat := List.range h.dies ++ [4]

/-! ### Power domains (R458–R461) -/

def domainDie (k : Nat) : Nat := if k < 40 then k / 10 else 4
def Dev.setDomain (d : Dev) (k : Nat) (on : Bool) : Dev := { d with pwr := { d.pwr with domains := FMap.set false d.pwr.domains k on } }
/-- Cluster and engine domains of a part. -/
def gatedDomains (h : Hw) : List Nat := (List.range h.dies).flatMap (fun n => (List.range 9).map (10 * n + ·))
/-- The testable places in a cluster or engine domain. -/
def domainPlaces (k : Nat) : List Nat := if k % 10 < 8 then [8 * (k / 10) + k % 10] else (List.range 4).map (0x100 + 4 * (k / 10) + ·)
/-- Units that lose their coverage with their power. -/
def Dev.uncover (d : Dev) (us : List Nat) : Dev :=
  { d with pav := { d.pav with passes := FMap.keep (fun k _ => !us.contains (k / 8)) d.pav.passes,
                               withdrawn := FMap.keep (fun k _ => !us.contains k) d.pav.withdrawn } }
/-- A domain loses its power, and what it holds. -/
def Dev.domainDown (d : Dev) (k : Nat) : Dev :=
  let d1 := d.setDomain k false
  if 40 ≤ k then
    if k = 44 then { d1 with crn := { Cairn.reset with epoch := d.crn.epoch } }
    else if k = 42 then (List.range 16).foldl (fun d p => d.aphyDownFx p []) d1
    else d1
  else
    let n := k / 10
    let d2 := if k % 10 = 9 then d1 else (domainPlaces k).foldl (fun d p => (d.setSlice p none).uncover (unitsAt p)) d1
    if k % 10 < 8 then
      (clusterCores (8 * n + k % 10)).foldl (fun d g => { d.setCore g Core.off with joined := FMap.set false d.joined (g / 2) false }) d2
    else if k % 10 = 8 then (List.range 4).foldl (fun d e => d.setEng n e Eng.idle) d2
    else d2
/-- Unit number of a cluster's or an engine's place. -/
def placeUnit (p : Nat) : Nat := if p < 0x100 then unitNo (p / 8) 1 (p % 8) else unitNo (placeDie p) 2 (p % 4)
/-- A domain is powered and initialised (R459); a unit of it that is isolated stays closed. -/
def Dev.domainUp (d : Dev) (k : Nat) : Dev :=
  let d1 := d.setDomain k true
  if 40 ≤ k then d1
  else
    let n := k / 10
    if k % 10 = 9 then
      let d2 := d1.dropContents (fun j => j == 64 + n) false
      { d2 with sems := d2.sems.filter (fun e => semDie e.1 != n) }
    else
      let bit := 8 * n + k % 10
      let d2 : Dev := if k % 10 < 8 then
          { (clusterCores bit).foldl (fun d g => d.setCore g { Core.off with st := .idle }) d1 with
            gau := { d1.gau with base := FMap.set 0 d1.gau.base bit (FMap.get 0 d1.pwr.aclk n / 240) } }
        else d1
      (domainPlaces k).foldl (fun d p => if d.wrapped (placeUnit p) then d.markTest p true else d) d2
/-- Is every unit of the domain fenced outright? -/
def Dev.domainFenced (d : Dev) (k : Nat) : Bool :=
  let n := k / 10
  if k % 10 < 8 then d.clusterFenced n (k % 10) || (clusterCores (8 * n + k % 10)).all (fun g => d.fenced (coreUnit g))
  else (List.range 4).all (fun e => d.engFenced n e)
/-- Does a requested test still have to run there? -/
def Dev.domainAsked (d : Dev) (k : Nat) : Bool := d.pav.requests.any (fun r => r.left.any (fun x => (domainPlaces k).contains x.1))
/-- Does a figure of the Quadrille name the domain? -/
def domainNamed (q : Quadrille) (k : Nat) : Bool :=
  q.figures.any (fun f => f.type != 2 && (if k % 10 < 8 then bitOf f.clusters (8 * (k / 10) + k % 10)
    else (List.range 4).any (fun e => bitOf f.engines (4 * (k / 10) + e))))
/-- Does a cluster or engine domain have to be powered? -/
def Dev.domainWanted (d : Dev) (k : Nat) : Bool :=
  !d.pwr.standby && (d.domainAsked k || (!(d.diePower (k / 10)).shut && !d.domainFenced k &&
    (!d.rbit PWR_CFG 0 || (match d.jfe.quad with
      | none => true
      | some q => domainNamed q k || (match d.jfe.quadNext with
        | some (x, _) => domainNamed x k
        | none => false)))))
/-- Serves the domain no job and no test now? -/
def Dev.domainIdle (d : Dev) (k : Nat) : Bool := (domainPlaces k).all (fun p => d.placeFree p && (d.slice p).isNone)
/-- Power is asked for where it is wanted, and taken away where `off` lets it. -/
def Dev.regate (d : Dev) (off : Nat → Bool) : Dev :=
  if d.sec.boot.stage ≠ 0x80 then d
  else (gatedDomains d.hw).foldl (fun d k =>
    if d.domainWanted k then
      if d.domainOn k || d.pwr.ramping.contains k then d
      else { d with pwr := { d.pwr with ramping := d.pwr.ramping.takeWhile (fun j => decide (j < k)) ++ [k] ++
                                                   d.pwr.ramping.dropWhile (fun j => decide (j < k)) } }
    else
      let d1 := { d with pwr := { d.pwr with ramping := d.pwr.ramping.filter (· != k) } }
      if d.domainOn k && off k && d.domainIdle k then d1.domainDown k else d1) d
/-- DOMAIN_POWER_ON: a domain ends its ramp: one of the first two of its die that wait. -/
def Dev.domainOnFx (d : Dev) (k : Nat) : Dev :=
  let parent := if k < 40 then (if k % 10 = 9 then 40 else k / 10 * 10 + 9) else 40
  if !d.pwr.ramping.contains k || !d.domainOn parent || !((d.pwr.ramping.filter (fun j => domainDie j == domainDie k)).take 2).contains k then d
  else { d with pwr := { d.pwr with ramping := d.pwr.ramping.filter (· != k) } }.domainUp k

/-! ### Throttle states (R455–R457) -/

/-- The state each cause asks for: temperature, package power, flow, software. -/
def Dev.throttleCauses (d : Dev) (n : Nat) : List Nat :=
  [(d.diePower n).temp, if n = 4 then 0 else d.pwr.pstate, if d.pwr.flowStop then 4 else if d.pwr.worstCase then 2 else 0,
   d.rf PWR_THROTTLE_MIN (4 * n + 2) (4 * n)]
/-- PWR_THROTTLE_CAUSE. -/
def Dev.causeReg (d : Dev) : Nat :=
  ((powerDies d.hw).map (fun n => 2 ^ (4 * n) * bitsSum ((List.range 4).filter (fun i => (d.throttleCauses n).getD i 0 != 0)))).sum
/-- THROTTLE_CHANGE, at most once per die per 10 ms. -/
def Dev.tellThrottle (d : Dev) (n : Nat) : Dev :=
  let x := d.diePower n
  let soon := match x.toldTick with
    | some t => decide (d.ticks < t + ticksMs 10)
    | none => false
  if soon then d.setDiePower n { x with owed := true }
  else (d.setDiePower n { x with owed := false, toldTick := some d.ticks }).emit .pwr 0x0D01 0 (n + 16 * x.state) d.causeReg
/-- A slower state takes effect at once; a faster one once its voltage is confirmed. -/
def Dev.applyState (d : Dev) (n : Nat) : Dev :=
  let x := d.diePower n
  let want := (d.throttleCauses n).foldl max 0
  if x.state < want then (d.setDiePower n { x with state := want, raising := none }).tellThrottle n
  else if want < x.state then
    if x.raising = some want then d else (d.setDiePower n { x with raising := some want }).put (.voltage n want)
  else d.setDiePower n { x with raising := none }
def Dev.applyStates (d : Dev) : Dev := (powerDies d.hw).foldl Dev.applyState d
/-- THROTTLE_RAISE_DONE: the voltage is confirmed, and the dividers change. -/
def Dev.raiseDoneFx (d : Dev) (n : Nat) : Dev :=
  match (d.diePower n).raising with
  | some t => (d.setDiePower n { d.diePower n with state := t, raising := none }).tellThrottle n
  | none => d

/-! ### Coolant and the power limit (R469–R480) -/

def Dev.sent (d : Dev) (i : Nat) : SentIn := FMap.get SentIn.reset d.pwr.sent i
def Dev.setSent (d : Dev) (i : Nat) (x : SentIn) : Dev := { d with pwr := { d.pwr with sent := FMap.set SentIn.reset d.pwr.sent i x } }
def Dev.flowNominal (d : Dev) : Int := ((d.rf THM_FLOW_NOMINAL 15 0 : Nat) : Int)
/-- TDP in W. -/
def Hw.tdp (h : Hw) : Nat := match h.part with
  | .c4 => 550
  | .c3 => 420
  | .c2 => 290
/-- Percent of the TDP at an inlet row and a flow column of R472. -/
def deratingRows : List (Int × List Nat) :=
  [(60, [100, 95, 85, 70, 50]), (65, [90, 85, 76, 63, 45]), (70, [75, 71, 63, 52, 37]), (75, [65, 61, 55, 45, 32]), (80, [50, 47, 42, 35, 25]),
   (85, [35, 33, 29, 24, 17])]
/-- P_tab in 1/700 W, for an inlet in 1/16 °C and a flow in 1/100 L/min. -/
def tablePower (h : Hw) (inlet flow : Int) (slow : Bool) : Nat :=
  let col := if slow then 4 else if 600 ≤ flow then 0 else if 500 ≤ flow then 1 else if 400 ≤ flow then 2 else if 300 ≤ flow then 3 else 4
  match deratingRows.find? (fun r => decide (inlet ≤ 16 * r.1)) with
  | some r => if flow < 200 then 42000 else 7 * h.tdp * r.2.getD col 0
  | none => 42000
def Dev.pTab (d : Dev) : Nat := tablePower d.hw (d.sent 0).value (d.sent 2).value d.pwr.implausible
/-- P_allow (R476). -/
def Dev.pAllow (d : Dev) : Nat :=
  let sw := d.rf PWR_SW_LIMIT 15 0
  [d.pTab, if sw = 0 then 700 * 65536 else 700 * sw, if d.pwr.flowStop || d.pwr.worstCase then 42000 else 700 * 65536].foldl min (700 * 65536)
/-- P_lim falls to P_allow at once (R478). -/
def Dev.lowerLimit (d : Dev) : Dev := { d with pwr := { d.pwr with pLim := min d.pwr.pLim d.pAllow } }

/-- Is a junction at or above a temperature in °C? -/
def Dev.junctionAt (d : Dev) (c : Int) : Bool := (powerDies d.hw).any (fun n => (d.diePower n).known && decide (16 * c ≤ (d.diePower n).junction))
/-- The Quoins' THERMAL condition (R475). -/
def Dev.thermalCheck (d : Dev) : Dev :=
  let hot := (d.pwr.flowStop && d.junctionAt 115) || ((d.diePower 4).known && decide (125 * 16 ≤ (d.diePower 4).junction))
  if hot then if d.qn.thermal then d else { d with qn := { d.qn with thermal := true } }.decideBoth 0x06
  else if !d.pwr.flowStop && !d.junctionAt 100 then { d with qn := { d.qn with thermal := false } }
  else d
/-- A sudden stop of the flow (R474): cause 1 fall, 2 input lost. -/
def Dev.flowStopFx (d : Dev) (cause input : Nat) : Dev :=
  let d1 := { d with pwr := { d.pwr with flowGood := none } }
  if d.pwr.flowStop then d1
  else (({ d1 with pwr := { d1.pwr with flowStop := true } }.emit .pwr 0x0D05 3 cause input).applyStates.lowerLimit).thermalCheck
/-- The implausibility condition of R471, now. -/
def Dev.coolantOdd (d : Dev) : Bool :=
  let i := (d.sent 0).value
  let o := (d.sent 1).value
  let f := (d.sent 2).value
  decide (o + 32 < i) || decide (256 * (d.pwr.package : Int) + 1200 * f < 25 * f * (o - i))
/-- The timers of the coolant: implausible for 1 s, and all inputs valid. -/
def Dev.coolantTimers (d : Dev) : Dev :=
  let p := d.pwr
  let valid := (d.sent 0).valid && (d.sent 1).valid && (d.sent 2).valid
  let since (c : Bool) (t : Option Nat) : Option Nat := if c then some (t.getD d.ticks) else none
  let odd := since (valid && d.coolantOdd) p.implausSince
  let long := match odd with
    | some t => decide (t + ticksMs 1000 ≤ d.ticks)
    | none => false
  let d1 : Dev := { d with pwr := { p with implausSince := odd, implausible := long, sentSince := since valid p.sentSince,
                                           flowGood := since (p.flowStop && valid && decide (d.flowNominal ≤ 2 * (d.sent 2).value)) p.flowGood } }
  if long && !p.implausible then d1.emit .pwr 0x0D06 2 (wrap 32 (d.sent 0).value) (wrap 32 (d.sent 1).value) else d1
/-- FLOW_LOW: once below 80 % of nominal, until above 90 %. -/
def Dev.flowLowCheck (d : Dev) : Dev :=
  let f := (d.sent 2).value
  if !d.pwr.flowLow && decide (100 * f < 80 * d.flowNominal) then
    { d with pwr := { d.pwr with flowLow := true } }.emit .pwr 0x0D04 1 (wrap 16 f) (d.pTab / 700)
  else if d.pwr.flowLow && decide (90 * d.flowNominal < 100 * f) then { d with pwr := { d.pwr with flowLow := false } }
  else d
/-- The reading of an input from its raw value: 1/16 °C, or 1/100 L/min, to nearest even within 16 bits (R469). -/
def Dev.sentValue (d : Dev) (i raw : Nat) : Int :=
  let v := (FV.add (FV.mul (FV.ofInt raw) (f32.decode (d.rn (THM_SENT_SCALE i)))).1 (f32.decode (d.rn (THM_SENT_OFFSET i)))).1
  if i = 2 then (FV.toInt (FV.mul v (FV.ofInt 100)).1 0 65535).1 else (FV.toInt (FV.mul v (FV.ofInt 16)).1 (-32768) 32767).1
/-- SENT_FRAME. -/
def Dev.sentFrameFx (d : Dev) (i status raw : Nat) (crcOk tickOk : Bool) : Dev :=
  if 3 ≤ i ∨ !d.rbit (THM_SENT_CFG i) 31 then d
  else if !crcOk || !tickOk || status % 4 != 0 || raw == 0 || decide (4088 < raw) then d.bump THM_SENT_ERR_COUNT 1
  else
    let v := d.sentValue i raw
    let d1 := d.setSent i { value := v, valid := true, lost := false, lastTick := d.ticks }
    if i ≠ 2 then d1.coolantTimers
    else
      let recent := d.pwr.flows.filter (fun x => decide (d.ticks ≤ x.1 + ticksMs 200))
      let d2 := ({ d1 with pwr := { d1.pwr with flows := (d.ticks, v) :: recent } }).flowLowCheck
      let stop := decide (10 * v < d.flowNominal) && recent.any (fun x => decide (d.flowNominal ≤ 2 * x.2))
      (if stop then d2.flowStopFx 1 0 else d2).coolantTimers
/-- SENT_INPUT_LOST: an enabled input had no valid frame for 3 ms. -/
def Dev.sentLostFx (d : Dev) (i : Nat) : Dev :=
  let x := d.sent i
  if 3 ≤ i ∨ !d.rbit (THM_SENT_CFG i) 31 ∨ x.lost ∨ d.ticks < x.lastTick + ticksMs 3 then d
  else ((d.setSent i { x with valid := false, lost := true }).coolantTimers).flowStopFx 2 i

/-- The flow stop clears, and the worst-case model lifts, once their times have passed (R474, R480). -/
def Dev.liftModels (d : Dev) : Dev :=
  let past (t : Option Nat) (ms : Nat) : Bool := match t with
    | some t => decide (t + ticksMs ms ≤ d.ticks)
    | none => false
  let d1 := if d.pwr.flowStop && past d.pwr.flowGood 1000 then { d with pwr := { d.pwr with flowStop := false, flowGood := none } }.thermalCheck else d
  if d1.pwr.worstCase && past d1.pwr.sentSince 100 && past d1.pwr.pairsSince 10 then
    { d1 with pwr := { d1.pwr with worstCase := false } }.emit .pwr 0x0D08 0 (d1.pTab / 700) 0
  else d1
/-- The power limit and the common power state after a step of 100 µs (R477, R478). -/
def Dev.powerState (d : Dev) : Dev :=
  let p := d.pwr
  let lim := min d.pAllow (p.pLim + d.rf PWR_RAMP 3 0)
  let above := decide (lim < 70 * p.package)
  let low := if 700 * p.package ≤ 9 * lim then some (p.lowSince.getD d.ticks) else none
  let q := { p with pLim := lim, lowSince := low }
  if above && decide (p.pTick + ticksMs 1 ≤ d.ticks) then { d with pwr := { q with pstate := min 4 (p.pstate + 1), pTick := d.ticks } }
  else if decide (0 < p.pstate) && decide (p.pTick + ticksMs 10 ≤ d.ticks) && (match low with
      | some t => decide (t + ticksMs 10 ≤ d.ticks)
      | none => false) then { d with pwr := { q with pstate := p.pstate - 1, pTick := d.ticks } }
  else { d with pwr := q }
/-- POWER_CONTROL_STEP: the powers of the dies and last of the Keystone, over 1 ms, in 0.1 W. -/
def Dev.powerStepFx (d : Dev) (powers : List Nat) : Dev :=
  let d1 := (List.range (d.hw.dies + 1)).foldl (fun d i =>
    let n := if i = d.hw.dies then 4 else i
    d.setDiePower n { d.diePower n with power := powers.getD i 0 }) d
  let d2 := { d1 with pwr := { d1.pwr with package := (powers.take (d.hw.dies + 1)).sum } }
  let d3 := (d2.coolantTimers.liftModels).powerState.applyStates
  (powerDies d.hw).foldl (fun d n => if (d.diePower n).owed then d.tellThrottle n else d) d3
/-- AVS_READ: the current of a rail, or a failed transaction. -/
def Dev.avsReadFx (d : Dev) (b r : Nat) (cur : Option Nat) : Dev :=
  if 2 ≤ b ∨ 5 ≤ r ∨ (b = 0 ∧ r < 4 ∧ d.hw.dies ≤ r) then d
  else
    let k := 8 * b + r
    match cur with
    | some c => { d with pwr := { d.pwr with railFails := FMap.set 0 d.pwr.railFails k 0, railCur := FMap.set 0 d.pwr.railCur k c } }
    | none =>
      let f := FMap.get 0 d.pwr.railFails k + 1
      let d1 := { d with pwr := { d.pwr with railFails := FMap.set 0 d.pwr.railFails k f } }
      if f = 3 then ({ d1 with pwr := { d1.pwr with railCur := FMap.set 0 d1.pwr.railCur k (railMax d.hw k) } }).emit .pwr 0x0D0B 2 b r else d1
where
  /-- Maximum current of a rail in 0.1 A (R535). -/
  railMax (h : Hw) (k : Nat) : Nat :=
    let pick (a b c : Nat) : Nat := match h.part with
      | .c4 => a
      | .c3 => b
      | .c2 => c
    if k < 4 then 1800 else if k = 4 then 600 else if k = 8 then pick 600 480 360 else if k = 9 then pick 900 680 450 else if k = 10 then pick 40 30 20
    else if k = 11 then 30 else 10

/-! ### Thermal sensors and zones (R464–R467) -/

def pairsOf (n : Nat) : Nat := if n = 4 then 4 else 8
def Dev.sensor (d : Dev) (n p s : Nat) : Sensor := FMap.get Sensor.reset d.pwr.sensors (32 * n + 2 * p + s)
def Dev.setSensor (d : Dev) (n p s : Nat) (x : Sensor) : Dev := { d with pwr := { d.pwr with sensors := FMap.set Sensor.reset d.pwr.sensors (32 * n + 2 * p + s) x } }
def Dev.thermalPair (d : Dev) (n p : Nat) : SensorPair := FMap.get SensorPair.reset d.pwr.pairs (16 * n + p)
def Dev.setPair (d : Dev) (n p : Nat) (x : SensorPair) : Dev := { d with pwr := { d.pwr with pairs := FMap.set SensorPair.reset d.pwr.pairs (16 * n + p) x } }
/-- A sample of a sensor: accepted, or discarded. -/
def Dev.sample (d : Dev) (n p s : Nat) (v : Int) : Dev :=
  let x := d.sensor n p s
  let near := match x.last with
    | some l => decide ((v - l).natAbs * 400000000 ≤ 800 * (d.ticks - x.lastTick) + 16 * 400000000)
    | none => true
  if v < -640 ∨ 2400 < v ∨ !near then d.setSensor n p s { x with run := 0 }
  else
    let run := if x.lost then x.run + 1 else 0
    d.setSensor n p s { last := some v, lastTick := d.ticks, lost := x.lost && decide (run < 100), run := if 100 ≤ run then 0 else run }
/-- A sensor with no accepted sample for 10 ms is lost. -/
def Dev.senseLoss (d : Dev) (n p s : Nat) : Dev :=
  let x := d.sensor n p s
  if x.lost ∨ d.ticks < x.lastTick + ticksMs 10 then d
  else (d.setSensor n p s { x with lost := true, run := 0 }).emit .pwr 0x0D02 1 (n + 16 * p + 256 * s) (wrap 16 (x.last.getD 0))
/-- What a sensor gives: none while it is lost or has nothing. -/
def Dev.sensed (d : Dev) (n p s : Nat) : Option Int := if (d.sensor n p s).lost then none else (d.sensor n p s).last
/-- The reading of a pair from its own sensors. -/
def Dev.ownReading (d : Dev) (n p : Nat) : Option Int := match d.sensed n p 0, d.sensed n p 1 with
  | some a, some b => some (max a b)
  | some a, none => some a
  | none, b => b
def neighbours (n p : Nat) : List Nat :=
  (List.range (pairsOf n)).filter (fun q => (p / 4 == q / 4 && (p == q + 1 || q == p + 1)) || p == q + 4 || q == p + 4)
/-- The reading of a pair (R465); a pair whose sensors have given nothing yet has none. -/
def Dev.pairReading (d : Dev) (n p : Nat) : Option Int :=
  match d.ownReading n p with
  | some v => some v
  | none =>
    if !((d.sensor n p 0).lost && (d.sensor n p 1).lost) then none
    else match (neighbours n p).filterMap (d.ownReading n) with
      | [] => some 2000
      | v :: vs => some (vs.foldl max v + 160)
/-- The flag of a pair whose sensors disagree. -/
def Dev.pairStep (d : Dev) (n p : Nat) : Dev :=
  let x := d.thermalPair n p
  let y := { x with reading := d.pairReading n p }
  match d.sensed n p 0, d.sensed n p 1 with
  | some a, some b =>
    if (a - b).natAbs ≤ 80 then
      let since := x.agree.getD d.ticks
      d.setPair n p { y with apart := none, agree := some since, flagged := x.flagged && decide (d.ticks < since + ticksMs 1000) }
    else
      let since := x.apart.getD d.ticks
      let flag := decide (since + ticksMs 10 < d.ticks)
      let d1 := d.setPair n p { y with apart := some since, agree := none, flagged := x.flagged || flag }
      if flag && !x.flagged then d1.emit .pwr 0x0D03 1 (n + 16 * p) (a - b).natAbs else d1
  | _, _ => d.setPair n p { y with apart := none, agree := none }
def meanOf (l : List Int) : Int := l.foldl (· + ·) 0 / (max 1 l.length : Nat)
/-- The temperature cause after a sample (R467). -/
def tempZone (x : DiePower) (now : Nat) : DiePower :=
  let j := x.junction
  if 115 * 16 ≤ j then { x with temp := 4, coolSince := none }
  else if 105 * 16 ≤ j then
    let fell : Bool := (match (x.past.drop 99).head? with
      | some b => decide (j + 8 ≤ b)
      | none => false)
    let next : Nat := if fell then x.temp else min 4 (x.temp + 1)
    if now < x.stepTick + ticksMs 10 then { x with coolSince := none }
    else { x with coolSince := none, stepTick := now, temp := next }
  else if j < 100 * 16 then
    let since := x.coolSince.getD now
    if since + ticksMs 100 ≤ now then { x with temp := x.temp - 1, coolSince := some now } else { x with coolSince := some since }
  else { x with coolSince := none }
/-- A Course die at 125 °C is shut down, and the Quoins fence it. -/
def Dev.shutDown (d : Dev) (n : Nat) : Dev :=
  let d1 := (d.setDiePower n { d.diePower n with shut := true }).emit .pwr 0x0D07 3 n (wrap 16 (d.diePower n).junction)
  let d2 := (List.range 10).foldl (fun d r => d.domainDown (10 * n + r)) d1
  { d2 with pwr := { d2.pwr with ramping := d2.pwr.ramping.filter (fun k => domainDie k != n) } }.declareBoth (unitNo n 5 0) 1
/-- A die's junction and its zone. -/
def Dev.dieThermal (d : Dev) (n : Nat) : Dev :=
  match (List.range (pairsOf n)).filterMap (fun p => (d.thermalPair n p).reading) with
  | [] => d
  | v :: vs =>
    let x := d.diePower n
    let recent := (vs.foldl max v :: x.recent).take 10
    let j := meanOf recent
    let y := tempZone { x with recent := recent, junction := j, known := true } d.ticks
    let d1 := d.setDiePower n { y with past := (j :: x.past).take 100 }
    if n ≠ 4 ∧ 125 * 16 ≤ j ∧ !x.shut then d1.shutDown n else d1
/-- THERMAL_SAMPLE: die, pair, sensor and value of each sensor sampled now. -/
def Dev.thermalFx (d : Dev) (samples : List (Nat × Nat × Nat × Int)) : Dev :=
  let dies := powerDies d.hw
  let here := samples.filter (fun s => dies.contains s.1 && decide (s.2.1 < pairsOf s.1) && decide (s.2.2.1 < 2))
  let d1 := here.foldl (fun d s => d.sample s.1 s.2.1 s.2.2.1 s.2.2.2) d
  let d2 := dies.foldl (fun d n => (List.range (pairsOf n)).foldl (fun d p => (d.senseLoss n p 0).senseLoss n p 1) d) d1
  let d3 := dies.foldl (fun d n => (List.range (pairsOf n)).foldl (fun d p => d.pairStep n p) d) d2
  let all := dies.all (fun n => (List.range (pairsOf n)).all (fun p => (d3.thermalPair n p).reading.isSome))
  let d4 := { d3 with pwr := { d3.pwr with pairsSince := if all then some (d3.pwr.pairsSince.getD d.ticks) else none } }
  (dies.foldl Dev.dieThermal d4).applyStates.thermalCheck

/-! ### Standby (R321, R322, R462) -/

/-- A stack enters self-refresh: a running migration ends first, and the layers not kept lose their contents. -/
def Dev.selfRefresh (d : Dev) (s : Nat) : Dev :=
  let st := d.stack s
  let d1 := if st.spare = .migrating then
      (d.setStack s { st with mig := 524288, spare := .inUse, layers := st.layers.set st.spareLayer .spared }).emit (smcOf s) 0x0704 1 st.spareLayer
        ((d.ticks - st.migStart) / 400)
    else d
  let lost := 255 - d.rf (SMC_PASR_KEEP (s / 2) (s % 2)) 7 0
  d1.setStack s { d1.stack s with selfRefresh := true, down := lost }
/-- A stack leaves self-refresh: the lost layers hold 0x00. -/
def Dev.stackBack (d : Dev) (s : Nat) : Dev :=
  let st := d.stack s
  let d1 := (d.dropContents (fun k => k / 8 == s && bitOf st.down (k % 8)) false).setStack s { st with selfRefresh := false, lost := st.down, down := 0 }
  if st.down = 0 then d1
  else
    let r := d1.draw
    r.2.emit (smcOf s) 0x0709 1 st.down (r.1.toNat % 2 ^ 32)
/-- Regions with a copy in a lost layer resync from their primary; a region whose primary was lost, from its copy. -/
def Dev.resyncLost (d : Dev) (lost : Nat → Bool) : Dev :=
  d.mirrors.foldl (fun d e => match e.2 with
    | some m =>
      let gone (a : Nat) : Bool := (d.layersOf a m.bytes).any (fun x => lost (8 * x.1 + x.2))
      if m.st != .mirrored || !(gone m.copy || gone m.base) then d
      else { d with mirrors := FMap.set none d.mirrors e.1 (some { m with st := .resync (gone m.base && !gone m.copy), since := d.ticks }) }
    | none => d) d
/-- ENTER: refused while a Quadrille runs or a context is not FREE. -/
def Dev.standbyEnterFx (d : Dev) : Dev :=
  if d.pwr.standby then d
  else if d.jfe.quad.isSome then d.emit .pwr 0x0D09 1 1 0
  else if !d.ctxList.isEmpty then d.emit .pwr 0x0D09 1 2 0
  else
    let d1 := ((List.range (10 * d.hw.dies)) ++ [42, 44]).foldl Dev.domainDown d
    let d2 := (List.range (2 * d.hw.dies)).foldl Dev.selfRefresh { d1 with tags := [], shadow := [], pwr := { d1.pwr with standby := true, ramping := [] } }
    let d3 := d2.dropContents (fun k => decide (64 ≤ k)) true
    let r := (d3.charge 3).draw
    r.2.emit .pwr 0x0D0A 0 1 (r.1.toNat % 2 ^ 32)
/-- LEAVE: the domains are powered and initialised again, and the stacks serve. -/
def Dev.standbyLeaveFx (d : Dev) : Dev :=
  if !d.pwr.standby then d
  else
    let lost (k : Nat) : Bool := bitOf (d.stack (k / 8)).down (k % 8)
    let d1 := { d with pwr := { d.pwr with standby := false } }
    let d2 := ((List.range (10 * d.hw.dies)).filter (fun k => !(d.diePower (k / 10)).shut && (k % 10 == 9 || !d.domainFenced k)) ++ [42, 44]).foldl Dev.domainUp d1
    let d3 := ((List.range (2 * d.hw.dies)).foldl Dev.stackBack d2).resyncLost lost
    let r := d3.settleLoss.draw
    r.2.emit .pwr 0x0D0A 0 0 (r.1.toNat % 2 ^ 32)
/-- A write of PWR_STANDBY_CMD. -/
def Dev.standbyCmd (d : Dev) (v : Nat) : Dev :=
  match v % 4 with
  | 1 => d.standbyEnterFx
  | 2 => d.standbyLeaveFx
  | _ => d

end Sys2Proof.Machine
end

