-- ==== Sys2Proof/Machine/SecFx.lean ====
section
/-! DEFINITION. Nguldoel and start-up (R484–R508, R541, R542): images, the commands of NGD_CMD, alarms, the reset of the Keystone and the
Course dies, and the start-up sequence. -/
namespace Sys2Proof.Machine

/-! ### Flash and images (R485–R487) -/

/-- Erased flash reads 0xFF (log entry 70). -/
def Dev.flashRd (d : Dev) (a n : Nat) : List Byte := (FMap.getMany 0 d.sec.flash a n).map (· ^^^ 0xFF)
/-- Erase a partition and program it from its start. -/
def Dev.flashProgram (d : Dev) (a size : Nat) (bs : List Byte) : Dev :=
  let kept := FMap.keep (fun k _ => decide (k < a) || decide (a + size ≤ k)) d.sec.flash
  { d with sec := { d.sec with flash := FMap.setMany 0 kept a (bs.map (· ^^^ 0xFF)) } }
/-- Base and size of slot `s` of image type 1 or 2, and of the Quoin image. -/
def slotBase (type s : Nat) : Nat := if type = 1 then 0x200000 * s else if type = 2 then 0x400000 + 0x800000 * s else 0x1400000
def slotSize (type : Nat) : Nat := if type = 1 then 0x200000 else if type = 2 then 0x800000 else 0x100000
/-- Largest image of a type, signature included. -/
def imageLimit (type : Nat) : Nat := if type = 3 then 0x80000 else slotSize type
def keyStoreBase : Nat := 0x1500000
def logPartBase : Nat := 0x1510000

def imageSize (bs : List Byte) : Nat := 0x80 + fieldAt bs 0x10 4 + 64
def Fuses.minSvn (f : Fuses) (type : Nat) : Nat := if type = 1 then f.minSvnS1 else if type = 2 then f.minSvnMain else f.minSvnQuoin
/-- The first check of R487 that an image read through `rd` fails; 0 when it passes. -/
def imageCheck (f : Fuses) (type avail : Nat) (rd : Nat → List Byte) : Nat :=
  let hd := rd 0x80
  let size := imageSize hd
  let key := fieldAt hd 0xD 1
  if fieldAt hd 0 4 ≠ 0x4D49474E ∨ fieldAt hd 4 2 ≠ 1 ∨ fieldAt hd 6 2 ≠ type ∨ 64 ≤ fieldAt hd 0xC 1 ∨ 4 ≤ key ∨ !zeroAt hd 0xE 2 ∨
      !zeroAt hd 0x18 8 ∨ !zeroAt hd 0x60 32 ∨ imageLimit type < size ∨ avail < size then 1
  else if sha256 ((hd.drop 0x20).take 64) ≠ f.fwKeyHash.getD key [] then 2
  else if key < f.minKey then 3
  else if fieldAt hd 0xC 1 < f.minSvn type then 4
  else
    let bs := rd size
    if !ecdsaVerify ((hd.drop 0x20).take 64) (sha256 (bs.take (size - 64))) (bs.drop (size - 64)) then 5 else 0
/-- What is kept of an image that passed. -/
def runImage (rd : Nat → List Byte) : RunImage :=
  let hd := rd 0x80
  { svn := fieldAt hd 0xC 1, key := fieldAt hd 0xD 1, version := fieldAt hd 8 4, digest := sha256 (rd (imageSize hd - 64)) }

/-! ### Keys leave (R497, R499, R501) -/

/-- Every key leaves Nguldoel's SRAM and the dies' tables. -/
def Dev.dropKeys (d : Dev) (why : Nat) : Dev :=
  { d with sec := { d.sec with keys := false, modelKeys := [], installed := false } }.emit .ngd 0x0E0A 2 why 0
/-- ZEROIZE: the keys go, the hardware key in use is retired, and the key store erased. -/
def Dev.zeroize (d : Dev) : Dev :=
  if d.sec.zeroized then d
  else
    let d1 := (d.dropKeys 4).flashProgram keyStoreBase 0x10000 []
    let g := d.sec.identity
    { d1 with sec := { d1.sec with zeroized := true,
                                   fuses := { d1.sec.fuses with hukRetired := d1.sec.fuses.hukRetired ||| 2 ^ g } } }.emit .ngd 0x0E04 3 g 0

/-! ### Alarms (R498, R499) -/

/-- The response in force for a source: 0 LOG, 1 FENCE, 2 ZEROIZE. -/
def Dev.alarmResponse (d : Dev) (s : Nat) : Nat :=
  if d.sec.fuses.provisioned || d.sec.zeroized then min 2 (bitsOf d.sec.fuses.alarmResponse (2 * s + 1) (2 * s)) else 0
/-- Answer an alarm. -/
def Dev.answerAlarm (d : Dev) (s : Nat) : Dev :=
  let r := d.alarmResponse s
  let d1 := { d with sec := { d.sec with action := max d.sec.action (r + 1) } }.emit .ngd 0x0E03 3 s r
  let d2 := if 1 ≤ r then d1.decideBoth 0x08 else d1
  if r = 2 then d2.zeroize else d2
/-- An alarm source triggers; before the fuses are read it is only latched. -/
def Dev.alarm (d : Dev) (s : Nat) : Dev :=
  if 6 ≤ s then d
  else
    let d1 := ({ d with sec := { d.sec with alarms := min 0xFFFFFFFF (d.sec.alarms + 1) } } : Dev).orBits NGD_ALARM_LATCHED (2 ^ s)
    if d.sec.fusesRead then d1.answerAlarm s
    else { d1 with sec := { d1.sec with early := if d1.sec.early.contains s then d1.sec.early else d1.sec.early ++ [s] } }
/-- FUSE_REREAD. -/
def Dev.fuseFx (d : Dev) (tampered : Bool) : Dev := if tampered && d.sec.fusesRead then d.alarm 5 else d

/-! ### The commands of NGD_CMD (R489–R493, R501, R502, R507) -/

def Dev.ngdDone (d : Dev) (result out : Nat) : Dev := { d with sec := { d.sec with result := result, outSize := out } }
def Dev.argBase (d : Dev) : Nat := d.rf NGD_ARG_LO 31 6 * 64 + 2 ^ 32 * d.rf NGD_ARG_HI 15 0
def Dev.argSize (d : Dev) : Nat := d.rn NGD_ARG_SIZE
/-- Is the buffer in device DRAM that serves now? -/
def Dev.argOk (d : Dev) : Bool :=
  d.sec.boot.stage == 0x80 && decide (0 < d.argSize) && inDram d.hw d.argBase d.argSize && (d.accessStatus View.plain d.argBase d.argSize true).isNone
def Dev.argRd (d : Dev) (n : Nat) : List Byte := d.rd View.plain d.argBase n
/-- LIFECYCLE. -/
def Dev.lifecycle (d : Dev) : Nat := if d.sec.zeroized then 2 else if d.sec.fuses.provisioned then 1 else 0
/-- The fuse fields other than HUK0–HUK3, in the order of R484. -/
def Fuses.image (f : Fuses) : List Byte :=
  leBytes 1 f.hukRetired ++ f.fwKeyHash.flatMap id ++ leBytes 1 (2 ^ f.minKey - 1) ++ leBytes 8 (2 ^ f.minSvnS1 - 1) ++
  leBytes 8 (2 ^ f.minSvnMain - 1) ++ leBytes 8 (2 ^ f.minSvnQuoin - 1) ++ leBytes 1 (if f.provisioned then 1 else 0) ++
  f.modelKeys.flatMap id ++ leBytes 1 f.revoked ++ f.debugKeyHash ++ leBytes 2 f.alarmResponse
/-- The package feature level (R360). -/
def Hw.featureLevel (h : Hw) : Nat := 256 + ((List.range h.dies).map h.stepping).foldl min h.keystone
/-- The quote without its signature (R493). -/
def Dev.quoteBody (d : Dev) (nonce : List Byte) : List Byte :=
  let models := (List.range 256).filterMap (fun i => let m := FMap.get Model.none d.jfe.models i; if m.loaded then some (i, m) else none)
  let state := d.lifecycle + 4 * d.sec.debug + (if d.sec.alarms = 0 then 0 else 16) + (if d.rbit JFE_CFG 0 then 32 else 0) +
    (if d.rbit HOST_CFG 0 then 64 else 0) + (if d.qn.table.isSome then 128 else 0)
  let parts := (List.range 16).flatMap (fun p => match d.part p with
    | some x => x.bytes
    | none => List.replicate 384 0)
  leBytes 4 0x51544E47 ++ leBytes 2 1 ++ leBytes 2 models.length ++ d.deviceId ++ nonce ++ leBytes 8 d.now ++ leBytes 4 state ++
  leBytes 2 (d.rn KEY_FEATURE_LEVEL) ++ leBytes 2 0 ++
  d.sec.stage1.digest ++ d.sec.main.digest ++ d.sec.quoinA.digest ++ d.sec.quoinB.digest ++
  sha256 (Config.fuseLayout d.sec.fuses.image) ++ sha256 parts ++
  (match d.jfe.quad with
    | some q => sha256 q.bytes
    | none => List.replicate 32 0) ++
  (match d.qn.table with
    | some t => t.digest
    | none => List.replicate 32 0) ++
  models.flatMap (fun m => leBytes 2 (m.1 + 256 * m.2.gen) ++ leBytes 1 m.2.part ++ leBytes 1 (bitsOf m.2.flags 2 2) ++ List.replicate 12 0 ++ m.2.digest)
/-- Write the output of a command over its buffer. -/
def Dev.ngdOut (d : Dev) (bs : List Byte) : Dev :=
  if d.argSize < bs.length then d.ngdDone 5 0 else (d.wr View.plain d.argBase bs).ngdDone 0 bs.length
/-- QUOTE. -/
def Dev.quoteFx (d : Dev) : Dev :=
  if !d.sec.keys then d.ngdDone 1 0
  else if !d.argOk then d.ngdDone 2 0
  else
    let body := d.quoteBody (d.argRd 32)
    d.ngdOut (body ++ d.sign 1 (sha256 body))
/-- GET_CERTS. -/
def Dev.certsFx (d : Dev) : Dev :=
  if !d.sec.keys then d.ngdDone 1 0
  else if !d.argOk then d.ngdDone 2 0
  else d.ngdOut ((List.range 3).flatMap (fun k => let c := Config.certificate d.sec.identity k; leBytes 4 c.length ++ c))
/-- RESULT for a failed check of R487, and of IMPORT. -/
def imageResult (check : Nat) : Nat := if check = 1 then 2 else if check = 3 ∨ check = 4 then 4 else 3
def logWriteResult (r : Nat) : Nat := if r = 2 then 2 else if r = 3 then 9 else 3
/-- FLASH_WRITE. -/
def Dev.flashFx (d : Dev) : Dev :=
  let p := d.rf NGD_ARG_PARAM 2 0
  let rd (o n : Nat) : List Byte := if o + n ≤ d.argSize then d.rd View.plain (d.argBase + o) n else List.replicate n 0
  if p < 1 ∨ 4 < p ∨ !d.argOk then d.ngdDone 2 0
  else if p = 4 then
    let size := 128 + 16 * fieldAt (rd 0 64) 6 2
    let r := if d.argSize < size then 2 else d.logVerdict rd
    if !d.sec.keys then d.ngdDone 1 0
    else if r ≠ 0 then d.ngdDone (logWriteResult r) 0
    else ((d.flashProgram logPartBase 0x20000 (rd 0 size)).ngdDone 0 0).emit .ngd 0x0E07 0 4 (fieldAt (rd 0 64) 6 2)
  else
    let c := imageCheck d.sec.fuses p d.argSize (rd 0)
    if c ≠ 0 then d.ngdDone (imageResult c) 0
    else
      let hd := rd 0 0x80
      let other := if p = 3 then 0 else if bitOf d.sec.boot.slots (p - 1) then 0 else 1
      ((d.flashProgram (slotBase p other) (slotSize p) (rd 0 (imageSize hd))).ngdDone 0 0).emit .ngd 0x0E07 0 p (fieldAt hd 8 4)
/-- NGD_MIN_SVN. -/
def Fuses.minReg (f : Fuses) : Nat := f.minSvnS1 + 256 * f.minSvnMain + 65536 * f.minSvnQuoin + 2 ^ 24 * f.minKey
/-- SVN_COMMIT. -/
def Dev.svnFx (d : Dev) : Dev :=
  let f := d.sec.fuses
  let f1 := { f with minSvnS1 := max f.minSvnS1 d.sec.stage1.svn, minSvnMain := max f.minSvnMain d.sec.main.svn,
                     minKey := max f.minKey (min d.sec.stage1.key d.sec.main.key), minSvnQuoin := max f.minSvnQuoin (min d.sec.quoinA.svn d.sec.quoinB.svn) }
  ({ d with sec := { d.sec with fuses := f1 } }.ngdDone 0 0).emit .ngd 0x0E08 1 f1.minReg 0
/-- DEBUG_CHALLENGE: 32 fresh random bytes. -/
def Dev.challengeFx (d : Dev) : Dev :=
  let r := d.drawBytes 32
  let d1 := { r.2 with sec := { r.2.sec with challenge := some (r.1, d.ticks) } }
  ((List.range 8).foldl (fun d i => d.setNat (NGD_DEBUG_CHALLENGE i) (fieldAt r.1 (4 * i) 4)) d1).ngdDone 0 0
/-- A failed response; the third in a power cycle raises DEBUG_UNLOCK and locks out. -/
def Dev.unlockFail (d : Dev) (why result : Nat) : Dev :=
  let n := d.sec.failures + 1
  let d1 := ({ d with sec := { d.sec with failures := n, lockedOut := d.sec.lockedOut || n == 3 } }.ngdDone result 0).emit .ngd 0x0E06 2 n why
  if n = 3 then d1.alarm 4 else d1
/-- A debug level opens; FULL takes every key away and puts the package into a safe state (R501, R514). -/
def Dev.unlock (d : Dev) (level : Nat) : Dev :=
  let d1 := ({ d with sec := { d.sec with debug := max d.sec.debug level } }.ngdDone 0 0).emit .ngd 0x0E05 1 level 0
  if level = 2 then
    let d2 := (d1.dropKeys 3).decideBoth 0x0D
    { d2 with qn := { d2.qn with exitBarred := true } }
  else d1
/-- A challenge is answered with `bs`: LEVEL, the key and a signature. -/
def Dev.respond (d : Dev) (bs : List Byte) : Dev :=
  let level := fieldAt bs 0 1
  let key := (bs.drop 4).take 64
  let d1 := { d with sec := { d.sec with challenge := none } }
  match d.sec.challenge with
  | none => d1.unlockFail 1 1
  | some (c, t) =>
    if t + ticksMs 60000 < d.ticks then d1.unlockFail 1 1
    else if level < 1 ∨ 2 < level ∨ !zeroAt bs 1 3 then d1.ngdDone 2 0
    else if d.sec.fuses.debugKeyHash.all (· == 0) || decide (sha256 key ≠ d.sec.fuses.debugKeyHash) then d1.unlockFail 2 1
    else if !ecdsaVerify key (sha256 (c ++ d.deviceId ++ leBytes 1 level)) ((bs.drop 68).take 64) then d1.unlockFail 3 3
    else d1.unlock level
/-- DEBUG_RESPONSE. -/
def Dev.responseFx (d : Dev) : Dev :=
  if d.sec.lockedOut then d.ngdDone 8 0
  else if !d.argOk || decide (d.argSize < 132) then d.ngdDone 2 0
  else d.respond (d.argRd 132)
/-- QUOIN_UPDATE. -/
def Dev.quoinUpdateFx (d : Dev) : Dev :=
  let waits (x : Quoin) : Bool := x.st == .safe && (reasonEff x.reason == 0x01 || reasonEff x.reason == 0x0D)
  let rd (n : Nat) : List Byte := d.flashRd (slotBase 3 0) n
  if !waits d.qn.a || !waits d.qn.b || imageCheck d.sec.fuses 3 (slotSize 3) rd != 0 then d.ngdDone 7 0
  else { d with sec := { d.sec with quoinNextA := some (runImage rd), quoinNextB := some (runImage rd) } }.ngdDone 0 0
/-- PROVISION. -/
def Dev.provisionFx (d : Dev) : Dev :=
  let bs := d.argRd 256
  if d.lifecycle ≠ 0 then d.ngdDone 1 0
  else if !d.argOk || decide (d.argSize < 256) then d.ngdDone 2 0
  else if fieldAt bs 0 1 ≠ 1 ∨ !zeroAt bs 1 15 ∨ 4096 ≤ fieldAt bs 0xB0 2 ∨ !zeroAt bs 0xB2 78 then d.ngdDone 2 0
  else
    let f := { d.sec.fuses with provisioned := true, modelKeys := [(bs.drop 0x10).take 64, (bs.drop 0x50).take 64],
                                debugKeyHash := (bs.drop 0x90).take 32, alarmResponse := fieldAt bs 0xB0 2 }
    { d with sec := { d.sec with fuses := f } }.ngdDone 0 0
/-- REVOKE_MODEL_KEY: signed with the other slot's key, over DEVICE and the slot number. -/
def Dev.revokeFx (d : Dev) : Dev :=
  let s := d.rf NGD_ARG_PARAM 0 0
  let key (i : Nat) : List Byte := d.sec.fuses.modelKeys.getD i []
  let usable (i : Nat) : Bool := !(key i).all (· == 0) && !bitOf d.sec.fuses.revoked i
  if !usable s || !d.argOk || decide (d.argSize < 64) then d.ngdDone 2 0
  else if !usable (1 - s) then d.ngdDone 1 0
  else if !ecdsaVerify (key (1 - s)) (sha256 (d.deviceId ++ leBytes 1 s)) (d.argRd 64) then d.ngdDone 3 0
  else { d with sec := { d.sec with fuses := { d.sec.fuses with revoked := d.sec.fuses.revoked ||| 2 ^ s } } }.ngdDone 0 0
/-- Does the Nguldoel block serve: at READY and at the error stages (R503)? -/
def Dev.ngdServes (d : Dev) : Bool := decide (0x80 ≤ d.sec.boot.stage)
/-- A write of NGD_CMD. -/
def Dev.ngdCmd (d : Dev) (v : W32) : Dev :=
  if !d.ngdServes then d
  else match v.toNat / 2 ^ 28 with
    | 1 => d.quoteFx
    | 2 => d.certsFx
    | 3 => d.flashFx
    | 4 => d.svnFx
    | 5 => d.challengeFx
    | 6 => d.responseFx
    | 7 => d.quoinUpdateFx
    | 8 => d.provisionFx
    | 9 => d.revokeFx
    | _ => d

/-! ### Reset of every die but the Quoins (R164, R504) -/

def mergeFences (a b : FMap Bool) : FMap Bool := b.foldl (fun m e => FMap.set false m e.1 true) a
/-- The Keystone and the Course dies are reset. What the Quoins hold stays: fences, band records, streams, slots; and the fuses, the flash,
the firmware of the Quoins and the count of failed unlocks of the power cycle. -/
def Dev.keystoneReset (d : Dev) : Dev :=
  let streams := FMap.mapAll StreamSt.reset (fun _ (x : StreamSt) => { x with opened := none, check := none, dead := false }) d.qn.streams
  let s := d.sec
  let x : Dev := { Dev.reset with hw := d.hw, out := d.out, mem := d.mem, hostMem := d.hostMem, dramGen := d.dramGen, ticks := d.ticks, freeCtr := d.freeCtr,
                                  qn := { d.qn with streams := streams }, fences := mergeFences d.qn.a.fences d.qn.b.fences,
                                  pav := { Pavane.reset with bands := d.pav.bands }, dbg := { Debug.reset with tap := d.dbg.tap },
                                  sec := { Security.reset with fuses := s.fuses, flash := s.flash, quoinA := s.quoinA, quoinB := s.quoinB,
                                                               quoinNextA := s.quoinNextA, quoinNextB := s.quoinNextB, identity := s.identity,
                                                               failures := s.failures, zeroized := s.zeroized,
                                                               boot := { Security.reset.boot with perst := s.boot.perst, rails := s.boot.rails,
                                                                                                  railsTick := s.boot.railsTick } } }
  x.dropContents (fun _ => true) true

/-! ### Start-up (R503, R504) -/

def Dev.setStage (d : Dev) (stage detail : Nat) : Dev := { d with sec := { d.sec with boot := { d.sec.boot with stage := stage, detail := detail } } }
/-- Start-up ends, at READY or at an error stage: the endpoint is usable. -/
def Dev.bootEnds (d : Dev) (b : BootInput) (stage detail : Nat) : Dev :=
  let d1 := d.setStage stage detail
  { d1 with link := { d1.link with up := linkLegal b.rate b.width, rate := b.rate, width := b.width }, ticks := d1.ticks + 400 * b.time,
            sec := { d1.sec with boot := { d1.sec.boot with time := min 0xFFFFF b.time } } }
/-- Load an image of type 1 or 2: the slot that boots, whether the other failed before it, and the device with its reports. -/
def Dev.loadImage (d : Dev) (type : Nat) : Dev × Option (Nat × Bool × RunImage) :=
  let rd (s n : Nat) : List Byte := d.flashRd (slotBase type s) n
  let version (s : Nat) : Nat := fieldAt (rd s 0x80) 8 4
  let first := if version 0 < version 1 then 1 else 0
  let check (s : Nat) : Nat := imageCheck d.sec.fuses type (slotSize type) (rd s)
  let c := check first
  if c = 0 then (d, some (first, false, runImage (rd first)))
  else
    let d1 := d.emit .ngd 0x0E02 2 type c
    let c2 := check (1 - first)
    if c2 = 0 then (d1, some (1 - first, true, runImage (rd (1 - first)))) else (d1.emit .ngd 0x0E02 2 type c2, none)
/-- Links of the part, by their east or spoke end. -/
def linksOf (h : Hw) : List (Nat × Nat) :=
  (List.range h.dies).flatMap (fun n => (if connected h n 0 then [(n, 0)] else []) ++ [(n, 2)])
def versionOf (stepping : Nat) : Nat := if 0x10 ≤ stepping then 2 else 1
/-- One link trains (R358). -/
def Dev.trainLink (d : Dev) (b : BootInput) (l : Nat × Nat) : Dev :=
  let (n, p) := l
  let f := farEnd d.hw n p
  let hit (ls : List (Nat × Nat)) : Bool := ls.any (fun x => x == (n, p) || x == f)
  let out (k : Nat) : Bool := k != 8 && d.dieFenced k
  let shake (st : PortSt) (d : Dev) : Dev :=
    let v := min (versionOf (d.hw.stepping n)) (versionOf (d.hw.stepping f.1))
    (d.setPort n p { Port.reset with st := st, peer := some (f.1, d.hw.stepping f.1, v) }).setPort f.1 f.2
      { Port.reset with st := st, peer := some (n, d.hw.stepping n, v) }
  if out n || out f.1 then (d.setPort n p { Port.reset with st := .training }).setPort f.1 f.2 { Port.reset with st := .training }
  else if d.fenced (linkUnit n p) || (f.1 != 8 && d.fenced (linkUnit f.1 f.2)) then d.stopLink n p .fenced
  else if hit b.links then d.linkReport n p none 5
  else if hit b.auth then
    (((shake .securityFailed d).emit (endBlock n p) 0x0904 3 f.1 0).declareBoth (linkUnit n p) 3).alarm 3
  else shake .active d
/-- A stack trains, or its layers are fenced; layers already fenced stay so. -/
def Dev.trainStack (d : Dev) (b : BootInput) (s : Nat) : Dev :=
  let fencedNow : List LayerSt := (List.range 8).map (fun l => if d.fenced (layerUnit s l) then LayerSt.fenced else LayerSt.inService)
  if b.badStacks.contains s then (List.range 8).foldl (fun d l => d.fenceLayer s l false) (d.setStack s { Stack.reset with layers := fencedNow })
  else d.setStack s { Stack.reset with layers := fencedNow, trained := true }
/-- The dies train: domains, stacks and links, and the feature level is fixed. -/
def Dev.trainDies (d : Dev) (b : BootInput) : Dev :=
  let dies := List.range d.hw.dies
  let d1 := dies.foldl (fun d n => if b.dies.contains n then d.declareBoth (unitNo n 5 0) 3 else d) d
  let up := dies.filter (fun n => !d1.dieFenced n)
  let d2 := up.foldl (fun d n => ((10 * n + 9) :: (10 * n + 8) :: (List.range 8).map (10 * n + ·)).foldl Dev.domainUp d) d1
  let d3 := up.foldl (fun d n => (d.trainStack b (2 * n)).trainStack b (2 * n + 1)) d2
  let d4 := (linksOf d.hw).foldl (fun d l => d.trainLink b l) d3
  let level := d.hw.featureLevel
  let off := if level < 0x110 then 3 else 0
  ((d4.setNat KEY_FEATURE_LEVEL level).setNat KEY_FEATURE_DISABLED off).emit .key 0x0910 0 level off
/-- Has some Course die trained with its spoke and both stacks? -/
def Dev.canCompute (d : Dev) : Bool :=
  (List.range d.hw.dies).any (fun n => !d.dieFenced n && (d.port n 2).st == .active && (d.stack (2 * n)).trained && (d.stack (2 * n + 1)).trained)
/-- Cores and engines of the part, in the order of their unit numbers. -/
def unitsOf (h : Hw) : List Nat := List.range (1024 * h.dies) ++ (List.range (4 * h.dies)).map (2 ^ 31 + ·)
/-- The comparator test and the full pass of start-up. -/
def Dev.startPass (d : Dev) (b : BootInput) : Dev :=
  let d1 := b.couples.foldl (fun d c =>
    if c.1 < 512 * d.hw.dies then (d.setCouple c.1 { d.couple c.1 with lanes := 2 ^ (c.2 % 12) }).pairFence c.1 3 true else d) d
  let here := b.failed.filter (fun f => (unitsOf d.hw).contains f.1 && decide (f.2.1 < unitSegs f.1) && !d.dieFenced (unitDieOf f.1))
  let ran (u : Nat) : Bool := !d1.dieFenced (unitDieOf u) && !d1.fenced (if u < 2 ^ 31 then coreUnit u else unitNo (unitDieOf u) 2 (u % 4)) &&
    !(decide (u < 2 ^ 31) && d1.clusterFenced (coreDie u) (coreCluster u))
  let passed (u s : Nat) : Bool := ran u && !here.any (fun f => f.1 == u && f.2.1 == s)
  let whole (u : Nat) : Bool := (List.range (unitSegs u)).all (passed u)
  let d2 : Dev := { d1 with pav := { d1.pav with
    passes := (unitsOf d.hw).flatMap (fun u => ((List.range (unitSegs u)).filter (passed u)).map (fun s => (8 * u + s, some d1.clock))),
    withdrawn := ((unitsOf d.hw).filter whole).map (fun u => (u, false)) } }
  here.foldl (fun d f =>
    let x : PavSlice := { seg := f.2.1, startNs := d.clock, startTick := d.ticks, tband := f.2.2 / 4 % 8, aband := f.2.2 % 4, throttle := 2, atOnce := true }
    if !ran f.1 then d else if f.1 < 2 ^ 31 then d.failCore f.1 x else d.failEngine (unitPlace f.1) x) d2
/-- The log partition is read (step 7): an erased or failing one is reported and left to software. -/
def Dev.bootLog (d : Dev) : Dev :=
  let rd (o n : Nat) : List Byte := d.flashRd (logPartBase + o) n
  if (rd 0 64).all (· == 0xFF) then d.emit .ngd 0x0E09 1 6 0
  else
    let r := d.logVerdict rd
    if r = 0 then d.takeLog rd else d.emit .ngd 0x0E09 1 r 0
/-- Steps 4 to 8. -/
def Dev.bootTrain (d : Dev) (b : BootInput) : Dev :=
  let d1 := d.trainDies b
  if !d1.canCompute then
    let r := d1.draw
    r.2.bootEnds b 0xE2 (r.1.toNat % d.hw.dies)
  else
    let d2 := d1.applyStates
    let d3 := (powerDies d.hw).foldl Dev.raiseDoneFx d2
    let d4 := ((d3.startPass b).bootLog).bootEnds b 0x80 0
    d4.emit .ngd 0x0E01 0 d4.sec.boot.time d4.sec.boot.slots
/-- The key store is decrypted. -/
def Dev.bootKeys (d : Dev) (b : BootInput) : Dev :=
  if b.storeAbsent then d.emit .ngd 0x0E0A 2 1 0
  else if b.storeFails then d.emit .ngd 0x0E0A 2 2 0
  else { d with sec := { d.sec with keys := true } }
/-- The main image is loaded, and the remaining domains of the Keystone are powered. -/
def Dev.bootMain (d : Dev) (b : BootInput) : Dev :=
  match d.loadImage 2 with
  | (d1, none) => d1.bootEnds b 0xE1 2
  | (d1, some (slot, fell, img)) =>
    let boot := { d1.sec.boot with slots := d1.sec.boot.slots + 2 * slot + (if fell then 8 else 0) }
    ([43, 42, 44].foldl Dev.domainUp { d1 with sec := { d1.sec with main := img, boot := boot } }).bootTrain b
/-- Stage 1 is loaded. -/
def Dev.bootStage1 (d : Dev) (b : BootInput) : Dev :=
  match d.loadImage 1 with
  | (d1, none) => d1.bootEnds b 0xE1 1
  | (d1, some (slot, fell, img)) =>
    let boot := { d1.sec.boot with slots := slot + (if fell then 4 else 0) }
    ({ d1 with sec := { d1.sec with stage1 := img, boot := boot } }.bootKeys b).bootMain b
/-- Both Quoins release the Keystone: start-up runs to READY or to an error stage. -/
def Dev.bootUp (d : Dev) (b : BootInput) : Dev :=
  let d1 := { d.setStage 0x10 0 with sec := { (d.setStage 0x10 0).sec with fusesRead := true, early := [] } }
  let d2 := [40, 45, 41].foldl Dev.domainUp d1
  let d3 := d.sec.early.foldl Dev.answerAlarm d2
  if b.tamper then (d3.alarm 5).bootEnds b 0xE4 0
  else if d3.sec.zeroized then d3.bootEnds b 0xE3 0
  else d3.bootStage1 b

/-- Does a Quoin release the Keystone? Its firmware runs, its rails rose in order, and it has not lost the Keystone. -/
def Quoin.releases (x : Quoin) : Bool := x.live && !x.railsBad && !x.reasons.any (fun r => reasonEff r == 0x03)
/-- The Keystone leaves reset once both Quoins release it, PERST# is deasserted and the main rails have been valid for 1 ms; a wait for
that 1 ms lies inside the command (R542). -/
def Dev.tryBoot (d : Dev) (b : BootInput) : Dev :=
  if d.sec.boot.stage ≠ 0 ∨ !d.sec.boot.perst ∨ !d.sec.boot.rails ∨ !d.qn.a.releases ∨ !d.qn.b.releases then d
  else
    let t := max d.ticks (d.sec.boot.railsTick + ticksMs 1)
    ({ d with ticks := t, sec := { d.sec with boot := { d.sec.boot with since := t } } } : Dev).bootUp b

/-! ### Rails and PERST# (R164, R541, R542) -/

/-- PERST_ASSERT: the Quoins decide HOST_RESET first. -/
def Dev.perstAssertFx (d : Dev) : Dev :=
  if !d.sec.boot.perst then d
  else
    let d1 := d.decideBoth 0x02
    ({ d1 with sec := { d1.sec with boot := { d1.sec.boot with perst := false } }, qn := { d1.qn with exitBarred := false } } : Dev).keystoneReset
/-- PERST_DEASSERT. -/
def Dev.perstDeassertFx (d : Dev) (b : BootInput) : Dev :=
  if d.sec.boot.perst then d
  else ({ d with sec := { d.sec with boot := { d.sec.boot with perst := true } } } : Dev).tryBoot b
/-- QUOIN_RAILS_VALID: each Quoin that was without supply boots its firmware, in SAFE with reason STARTUP; a Quoin with no valid bank stays
in BOOT. Main rails that are already up are early (R542). -/
def Dev.quoinRailsFx (d : Dev) (ok : List Bool) : Dev :=
  let start (d : Dev) (q : Nat) : Dev :=
    let x := d.quoin q
    if x.powered then d
    else
      let good := ok.getD q false
      let y : Quoin := { Quoin.off with powered := true, st := if good then .safe else .boot, bootTick := d.ticks, safeTick := d.ticks,
                                        railsBad := d.sec.boot.rails }
      let d1 := d.setQuoin q y
      let s := d1.sec
      let d2 : Dev := { d1 with sec := if q = 0 then { s with quoinA := s.quoinNextA.getD s.quoinA, quoinNextA := none }
                                       else { s with quoinB := s.quoinNextB.getD s.quoinB, quoinNextB := none } }
      if d.sec.boot.rails then d2.decideSafe q 0x05 else d2
  let cold := !d.qn.a.powered && !d.qn.b.powered
  let d1 := if cold then { d with qn := Quoins.reset, fences := [], pav := { d.pav with bands := [] } } else d
  start (start d1 0) 1
/-- QUOIN_RAIL_LOSS: the Quoin's release falls, and its partner decides KEYSTONE_LOST and PARTNER_LOST. -/
def Dev.quoinRailLossFx (d : Dev) (q : Nat) : Dev :=
  if 2 ≤ q ∨ !(d.quoin q).powered then d
  else
    let d1 := ((d.setQuoin q Quoin.off).decideSafe (1 - q) 0x03).decideSafe (1 - q) 0x09
    d1.keystoneReset
/-- MAIN_RAILS_VALID: the main rails have come up, in the order of R541 or not. What stood in the package is gone, and reasons that a supply
cycle leaves are left. -/
def Dev.mainRailsFx (d : Dev) (ordered : Bool) (b : BootInput) : Dev :=
  let again (x : Quoin) : Quoin :=
    let rs := x.reasons.filter (fun r => !([3, 4, 5] : List Nat).contains (reasonEff r))
    { x.withReasons (if d.sec.boot.rails && !rs.any (fun r => reasonEff r == 1) && x.st == .safe then rs ++ [0x01] else rs) with railsBad := !ordered }
  let d1 := d.keystoneReset
  let d2 : Dev := { d1 with mem := [], dramGen := [], dbg := Debug.reset,
                            qn := { d1.qn with a := if d1.qn.a.powered then again d1.qn.a else d1.qn.a, b := if d1.qn.b.powered then again d1.qn.b else d1.qn.b },
                            sec := { d1.sec with failures := 0, boot := { d1.sec.boot with rails := true, railsTick := d.ticks } } }
  if ordered then d2.tryBoot b else d2.decideBoth 0x05

end Sys2Proof.Machine
end

