-- ==== Sys2Proof/Machine/DebugFx.lean ====
section
/-! DEFINITION. Test access, the debugger, the online test and the Gauge counters (R509–R530). -/
namespace Sys2Proof.Machine

/-! ### The test port (R509–R512) -/

/-- Die codes of the chain, from TDI to TDO. -/
def chainDies (h : Hw) : List Nat := [12, 8] ++ List.range h.dies ++ [13]
def Dev.tap (d : Dev) (n : Nat) : TapDie := FMap.get TapDie.reset d.dbg.tap n
def Dev.setTap (d : Dev) (n : Nat) (x : TapDie) : Dev := { d with dbg := { d.dbg with tap := FMap.set TapDie.reset d.dbg.tap n x } }
/-- TEST_RESET: every die is selected, with IDCODE. -/
def Dev.testResetFx (d : Dev) : Dev := { d with dbg := { d.dbg with tap := [] } }
/-- IDCODE of a die (R510). -/
def idcodeOf (h : Hw) (n : Nat) : Nat :=
  let part := if 12 ≤ n then 0xA4D0 else if n = 8 then 0xA4D1 else 0xA4D2
  let s := h.stepping n
  1 + 2 * Config.jedecCode.toNat + 2 ^ 12 * part + 2 ^ 28 * (s % 4) + 2 ^ 30 * (s / 16 % 4)
/-- An instruction is loaded at Update-IR. A bypassed die sees one bit: 0, that selects it again with BYPASS, from BYPASS alone. -/
def Dev.loadInstr (d : Dev) (n code : Nat) : Dev :=
  let x := d.tap n
  if x.bypassed then (if code = 0xFF then d.setTap n { instr := 0xFF, refused := false, bypassed := false } else d)
  else d.setTap n { instr := code, refused := false, bypassed := false }
/-- IDCODE answers its register. -/
def Dev.idcodeFx (d : Dev) (n : Nat) : Dev :=
  let d1 := d.loadInstr n 0x01
  if (d.tap n).bypassed then d1 else d1.put (.reply (leBytes 4 (idcodeOf d.hw n)))
/-- The die refuses its instruction and acts as SAMPLE/PRELOAD. -/
def Dev.refuseInstr (d : Dev) (n code : Nat) : Dev :=
  (d.setTap n { instr := 0x02, refused := true, bypassed := false }).emit .key 0x0F04 1 n code
/-- May the die's boundary cells drive its balls now (R512)? -/
def Dev.boundaryOk (d : Dev) (n : Nat) : Bool := !d.sec.boot.perst && (decide (n < 12) || (d.quoin (n - 12)).st == .safe)
/-- EXTEST, CLAMP and HIGHZ. -/
def Dev.boundaryFx (d : Dev) (n code : Nat) : Dev :=
  if (d.tap n).bypassed || d.boundaryOk n then d.loadInstr n code else d.refuseInstr n code
/-- DIE_BYPASS. -/
def Dev.dieBypassFx (d : Dev) (n : Nat) : Dev := d.setTap n { instr := 0xFE, refused := false, bypassed := true }
/-- Does the Quoin's boundary register drive its balls? Its CAN FD controllers are then disabled. -/
def Dev.canDriven (d : Dev) (q : Nat) : Bool := (d.tap (12 + q)).instr == 0x03 || (d.tap (12 + q)).instr == 0x04
/-- PERST# rises: an instruction that drove the balls acts as SAMPLE/PRELOAD. -/
def Dev.boundaryEnds (d : Dev) : Dev :=
  (chainDies d.hw).foldl (fun d n => let x := d.tap n; if x.instr = 3 ∨ x.instr = 4 ∨ x.instr = 5 then d.setTap n { x with instr := 0x02 } else d) d

/-! ### The core debugger (R513–R517) -/

def Dev.coreDbg (d : Dev) (n : Nat) : CoreDebug := FMap.get CoreDebug.reset d.dbg.dies n
def Dev.setCoreDbg (d : Dev) (n : Nat) (x : CoreDebug) : Dev := { d with dbg := { d.dbg with dies := FMap.set CoreDebug.reset d.dbg.dies n x } }
/-- Does the core debug instrument reach the core at the level in force (R514)? -/
def Dev.debugReach (d : Dev) (g : Nat) : Bool :=
  d.sec.debug == 2 || (d.sec.debug == 1 && ((d.core g).st == .idle || (match (d.core g).ctx with
    | some c => (match d.partOfCtx c with
      | some p => p.expert
      | none => false)
    | none => false)))
/-- CORE is written: it names a core of the die. -/
def Dev.selectCore (d : Dev) (g : Nat) : Dev :=
  if (d.coreDbg (coreDie g)).core = g % 1024 then d else d.setCoreDbg (coreDie g) { core := g % 1024, detached := false, refused := false }
/-- A halt or write request: with the level closed it is ignored, out of reach it is refused, at a follow it is ignored. -/
def Dev.debugDo (d : Dev) (g : Nat) (ok : Bool) (f : Dev → Dev) : Dev :=
  let d1 := d.selectCore g
  if d.sec.debug = 0 ∨ d.isFollow g then d1
  else
    let good := d.debugReach g && ok
    let d2 := d1.setCoreDbg (coreDie g) { d1.coreDbg (coreDie g) with refused := !good }
    if good then f d2 else d2
/-- HALT: the core stops at its instruction boundary, with the other half of its couple. -/
def Dev.haltFx (d : Dev) (g : Nat) : Dev :=
  d.debugDo g true (fun d => if (d.core g).halted || !((d.core g).st == .running || (d.core g).st == .idle) then d else d.haltCore g 1)
def Dev.resumeCore (d : Dev) (g : Nat) : Dev :=
  { d.putCore g { d.core g with halted := false } with dbg := { d.dbg with cause := FMap.set 0 d.dbg.cause g 0 } }
/-- RESUME. -/
def Dev.resumeFx (d : Dev) (g : Nat) : Dev := d.debugDo g true (fun d => d.resumeCore g)
/-- HALT_CONTEXT: every core of the context stops. -/
def Dev.haltContextFx (d : Dev) (g : Nat) : Dev :=
  d.debugDo g true (fun d => match (d.core g).ctx with
    | some c => (d.leadsOn c).foldl (fun d k => if (d.core k).halted || (d.core k).st != .running then d else d.haltCore k 4) d
    | none => d)
/-- RESUME_CONTEXT. -/
def Dev.resumeContextFx (d : Dev) (g : Nat) : Dev :=
  d.debugDo g true (fun d => match (d.core g).ctx with
    | some c => (d.leadsOn c).foldl Dev.resumeCore d
    | none => d)
/-- REG_DATA written to a register. -/
def Regs.debugPut (r : Regs) (spec : BitVec 8) (row : Nat) (x : BitVec 640) : Regs :=
  if spec = 0x84 then { r with flags := x.setWidth 5 }
  else if spec = 0x85 then { r with lfsr := x.setWidth 64 }
  else match regOf spec with
    | some (.s, i) => r.setS i (x.setWidth 64)
    | some (.a, i) => r.setA i (x.setWidth 48)
    | some (.p, i) => r.setP i (x.setWidth 64)
    | some (.v, i) => r.setVMx i (x.setWidth 512) ((x >>> 512).setWidth 128)
    | some (.t, i) => r.setTRow i row (x.setWidth 512)
    | _ => r
/-- REG_DATA as it reads. -/
def Regs.debugGet (r : Regs) (spec : BitVec 8) (row : Nat) : BitVec 640 :=
  if spec = 0x84 then r.flags.setWidth 640
  else if spec = 0x85 then r.lfsr.setWidth 640
  else match regOf spec with
    | some (.s, i) => (r.getS i).setWidth 640
    | some (.a, i) => (r.getA i).setWidth 640
    | some (.p, i) => (r.getP i).setWidth 640
    | some (.v, i) => (r.getV i).setWidth 640 ||| ((r.getSide i).setWidth 640 <<< 512)
    | some (.t, i) => (r.getTRow i row).setWidth 640
    | _ => 0
/-- DEBUG_REG_WRITE: of a halted core; the follow gets the same. -/
def Dev.regWriteFx (d : Dev) (g : Nat) (spec : BitVec 8) (row : BitVec 4) (x : BitVec 640) : Dev :=
  d.debugDo g (d.core g).halted (fun d => d.putCore g { d.core g with regs := (d.core g).regs.debugPut spec row.toNat x })
/-- DEBUG_LS_WRITE: of a halted core, into an aligned word. -/
def Dev.lsWriteFx (d : Dev) (g : Nat) (a : BitVec 18) (x : W64) : Dev :=
  d.debugDo g (d.core g).halted (fun d => d.lsPut g (a.toNat / 8 * 8) (leBytes 8 x.toNat))
/-- STATUS of the core debug instrument: HALTED, DETACHED, FOLLOW, REFUSED, BREAK, WATCH. -/
def Dev.debugStatus (d : Dev) (g : Nat) : Nat :=
  let x := d.coreDbg (coreDie g)
  let cause := FMap.get 0 d.dbg.cause g
  (if (d.core g).halted then 1 else 0) + (if x.detached then 2 else 0) + (if d.isFollow g then 4 else 0) + (if x.refused then 8 else 0) +
  (if (d.core g).halted && cause == 2 then 16 else 0) + (if (d.core g).halted && cause == 3 then 32 else 0)
def Dev.pointsOf (d : Dev) (g : Nat) : Points := FMap.get Points.none d.dbg.points g
def Dev.setPoints (d : Dev) (g : Nat) (x : Points) : Dev := { d with dbg := { d.dbg with points := FMap.set Points.none d.dbg.points g x } }

/-- SCAN_DUMP: the clocks of the die stop (R518). -/
def Dev.scanFx (d : Dev) (n : Nat) : Dev :=
  if d.sec.debug ≠ 2 ∨ 12 ≤ n then d
  else if (decide (n < 4) && d.dieFenced n) || !d.sec.boot.perst then { d with pwr := { d.pwr with scanned := FMap.set false d.pwr.scanned n true } }
  else d.refuseInstr n 0x10

/-! ### The online test (R519, R520, R529) -/

/-- Unit that KEY_OT_SEL names. -/
def Dev.otSel (d : Dev) : Nat := d.rf KEY_OT_SEL 27 0
/-- Is it one of R519's table? -/
def otNamed (h : Hw) (u : Nat) : Bool :=
  decide (unitDie u < h.dies) && (match unitKind u with
    | 1 => decide (unitNum u < 8)
    | 2 => decide (unitNum u < 4)
    | 3 => connected h (unitDie u) (unitNum u)
    | 4 => decide (unitNum u < 16)
    | _ => false)
def otPlace (u : Nat) : Nat := if unitKind u = 1 then 8 * unitDie u + unitNum u else 0x100 + 4 * unitDie u + unitNum u
/-- Other units isolated that share the limit: same kind and die, any link, or a layer of the same stack. -/
def otRivals (u v : Nat) : Bool :=
  unitKind u == unitKind v && (unitKind u == 3 || (unitDie u == unitDie v && (unitKind u != 4 || unitNum u / 8 == unitNum v / 8)))
/-- Does the running Quadrille name the cluster or engine? -/
def Dev.otNamedNow (d : Dev) (u : Nat) : Bool := match d.jfe.quad with
  | some q => q.figures.any (fun f => f.type != 2 && (if unitKind u = 1 then bitOf f.clusters (8 * unitDie u + unitNum u)
      else bitOf f.engines (4 * unitDie u + unitNum u)))
  | none => false
/-- May the unit be isolated? -/
def Dev.otAllowed (d : Dev) (u : Nat) : Bool :=
  otNamed d.hw u && !d.isolated u && !d.dbg.ot.any (fun e => e.2.st != .inService && otRivals u e.1) &&
  (match unitKind u with
    | 3 => d.linkShut (unitDie u) (unitNum u)
    | 4 => d.layerOut (2 * unitDie u + unitNum u / 8) (unitNum u % 8)
    | k => (if k = 1 then d.clusterFenced (unitDie u) (unitNum u) else d.engFenced (unitDie u) (unitNum u)) ||
        (!d.otNamedNow u && (d.slice (otPlace u)).isNone &&
          (d.placeFree (otPlace u) || !d.domainOn (10 * unitDie u + (if k = 1 then unitNum u else 8)))))
def Dev.setOt (d : Dev) (u : Nat) (x : OtUnit) : Dev := { d with dbg := { d.dbg with ot := FMap.set OtUnit.reset d.dbg.ot u x } }
/-- Close or open the cores of a cluster, or an engine, to everything else; one without power has nothing to close. -/
def Dev.otMark (d : Dev) (u : Nat) (on : Bool) : Dev :=
  if unitKind u = 1 ∨ unitKind u = 2 then
    if d.domainOn (10 * unitDie u + (if unitKind u = 1 then unitNum u else 8)) then d.markTest (otPlace u) on else d
  else d
/-- ISOLATE. -/
def Dev.isolateFx (d : Dev) : Dev :=
  let u := d.otSel
  if (d.ot u).st = .underTest then d
  else if !d.otAllowed u then d.setOt u { d.ot u with result := 3 }
  else ((d.setOt u { d.ot u with st := .isolated, released := false, result := 0, detail := 0 }).otMark u true).emit .key 0x0F01 1 u 1
/-- TEST: of an isolated unit; a domain without power is powered for it. -/
def Dev.testFx (d : Dev) : Dev :=
  let u := d.otSel
  match (d.ot u).st with
  | .underTest => d
  | .inService => d.setOt u { d.ot u with result := 3 }
  | .isolated =>
    let k := 10 * unitDie u + (if unitKind u = 1 then unitNum u else 8)
    let d1 := d.setOt u { d.ot u with st := .underTest, released := false }
    if unitKind u ≤ 2 ∧ !d.domainOn k then d1.domainUp k else d1.otMark u true
/-- RELEASE: a fenced unit stays isolated until it is re-admitted, but its tests may run. -/
def Dev.releaseFx (d : Dev) : Dev :=
  let u := d.otSel
  let shut := match unitKind u with
    | 1 => d.clusterFenced (unitDie u) (unitNum u)
    | 2 => d.engFenced (unitDie u) (unitNum u)
    | 3 => d.linkShut (unitDie u) (unitNum u)
    | _ => d.layerOut (2 * unitDie u + unitNum u / 8) (unitNum u % 8)
  if (d.ot u).st ≠ .isolated ∨ (d.ot u).released then d
  else
    let d1 := (d.setOt u { d.ot u with st := if shut then .isolated else .inService, released := shut }).otMark u false
    if !shut then (d1.uncover (unitsAt (otPlace u))).emit .key 0x0F01 1 u 0
    else if unitKind u = 3 ∧ d.pav.requests.any (fun r => r.left.any (fun x => x.1 == 0x200 + 4 * unitDie u + unitNum u)) then
      d1.startLinkTest (unitDie u) (unitNum u)
    else d1
/-- A write of KEY_OT_CMD. -/
def Dev.otCmd (d : Dev) (v : Nat) : Dev :=
  match v % 4 with
  | 1 => d.isolateFx
  | 2 => d.testFx
  | 3 => d.releaseFx
  | _ => d
/-- ONLINE_TEST_DONE: a failing unit is fenced outright. -/
def Dev.otDoneFx (d : Dev) (n kind unit : Nat) (pass : Bool) (detail : Nat) : Dev :=
  let u := unitNo n kind unit
  if (d.ot u).st ≠ .underTest then d
  else
    let r := if pass then 1 else 2
    let det := if pass then 0 else detail % 65536
    let d1 := (d.setOt u { d.ot u with st := .isolated, result := r, detail := det }).emit .key 0x0F02 (if pass then 0 else 2) u (r + 65536 * det)
    if pass then d1 else d1.declareBoth u 2
def Dev.otActive (d : Dev) : Nat := (d.dbg.ot.filter (fun e => e.2.st != .inService)).length

/-! ### Gauge (R521–R528) -/

/-- Counted blocks in the order of R522. -/
def gaugeBlocks (h : Hw) : List Block :=
  (List.range h.dies).flatMap (fun n => (List.range 8).map (Block.ash n) ++ [.mrt n, .smc n 0, .smc n 1] ++ (List.range 4).map (Block.eng n) ++
    (List.range 3).map (Block.arc n)) ++ [.jfe, .host, .hod, .eth, .aphy, .crn, .bwr]
/-- Events of a block whose count is a matter of timing (log entry 60). -/
def blkTimed (b : Block) (ev : Nat) : Bool := match b with
  | .ash _ _ => [1, 2, 4].contains ev
  | .mrt _ => [1, 2, 4].contains ev
  | .smc _ _ => [1, 2, 3, 4, 5, 6, 8].contains ev
  | .eng _ _ => [2, 3, 4, 5].contains ev
  | .arc _ _ => ev == 4
  | .crn => [1, 3].contains ev
  | .bwr => ev == 2
  | _ => false
/-- Counter `i` of a block as it reads. -/
def Dev.blkCounter (d : Dev) (b : Block) (i : Nat) : Nat × Dev :=
  let k := 16 * b.id + i
  if !d.rbit GAU_CFG 0 then (0, d)
  else if blkTimed b (FMap.get 0 d.gau.blkEvt k) then
    let w := d.draw
    (w.1.toNat % 2 ^ 48, w.2)
  else (FMap.get 0 d.gau.blk k, d)
/-- The block that GAU_BLK_SEL names. -/
def Dev.blkSel (d : Dev) : Option Block := (gaugeBlocks d.hw).find? (fun b => b.id == d.rn GAU_BLK_SEL)
/-- A write of GAU_BLK_SEL: a block that is not counted reads back 0. -/
def Dev.blkSelWrite (d : Dev) (v : W32) : Dev :=
  d.setReg GAU_BLK_SEL (if (gaugeBlocks d.hw).any (fun b => b.id == v.toNat) then v else 0)
/-- Events of the selected block's counters 4j to 4j + 3. -/
def Dev.blkEvtRead (d : Dev) (j : Nat) : Nat := match d.blkSel with
  | some b => ((List.range 4).map (fun i => 256 ^ i * FMap.get 0 d.gau.blkEvt (16 * b.id + 4 * j + i))).sum
  | none => 0
def Dev.blkEvtWrite (d : Dev) (j : Nat) (v : W32) : Dev := match d.blkSel with
  | some b => (List.range 4).foldl (fun d i =>
      { d with gau := { d.gau with blkEvt := FMap.set 0 d.gau.blkEvt (16 * b.id + 4 * j + i) (bitsOf v.toNat (8 * i + 7) (8 * i)) } }) d
  | none => d
/-- A write of GAU_CORE_EVT0 or 1: a byte with a code that is not in the table stays. -/
def Dev.coreEvtWrite (d : Dev) (k : Nat) (v : W32) : Dev :=
  d.setNat k (((List.range 4).map (fun i =>
    let new := bitsOf v.toNat (8 * i + 7) (8 * i)
    256 ^ i * (if new ≤ 0x0E then new else d.rf k (8 * i + 7) (8 * i)))).sum)
def Dev.dumpOn (d : Dev) : Bool := d.rbit GAU_DUMP_CFG 31
/-- A write of GAU_CFG: MODE only while the dump ring is disabled; a change of it zeroes the counters. -/
def Dev.gauCfgWrite (d : Dev) (v : W32) : Dev :=
  let mode := if d.dumpOn then d.rf GAU_CFG 0 0 else v.toNat % 2
  let d1 := d.setNat GAU_CFG (mode + 2 * bitsOf v.toNat 1 1)
  if mode = d.rf GAU_CFG 0 0 then d1 else { d1 with gau := { d1.gau with core := [], blk := [], wrapped := [] } }
/-- Bytes that a snapshot needs in the mode in force. -/
def Dev.snapBytes (d : Dev) : Nat := 64 + (if d.rbit GAU_CFG 0 then 128 * (gaugeBlocks d.hw).length else 64 * (1024 * d.hw.dies))
def Dev.dumpBase (d : Dev) : Nat := d.rf GAU_DUMP_BASE_LO 31 12 * 4096 + 2 ^ 32 * d.rn GAU_DUMP_BASE_HI
/-- A write of GAU_DUMP_CFG: while the ring is enabled, of ENABLE alone; setting ENABLE checks the ring. -/
def Dev.dumpCfgWrite (d : Dev) (v : W32) : Dev :=
  let n := v.toNat
  if d.dumpOn then (if bitOf n 31 then d else d.clearBits GAU_DUMP_CFG (2 ^ 31))
  else
    let d1 := d.setReg GAU_DUMP_CFG (v &&& 0x400FFF0F)
    let lg := n % 16
    let size := bitsOf n 19 8 * 4096 * 2 ^ lg
    let loc := bitOf n 30
    let meets := d.meetsPartition d.dumpBase size ||
      (d.hodBarred 32).any (fun a => overlaps d.dumpBase size a.1 a.2) || !inMem d.hw d.dumpBase size
    if !bitOf n 31 then d1
    else if lg < 2 ∨ 10 < lg ∨ bitsOf n 19 8 * 4096 < d.snapBytes then d1.emit .gau 0x1002 1 1 d.snapBytes
    else if loc && meets then d1.emit .gau 0x1002 1 2 d.snapBytes
    else
      let d2 := d1.orBits GAU_DUMP_CFG (2 ^ 31)
      { d2 with gau := { d2.gau with seq := 0xFFFFFFFF } }
/-- The record of a core (R525). -/
def Dev.coreRecord (d : Dev) (g : Nat) : List Byte × Dev :=
  let k := d.core g
  let on := k.st != .poweredDown
  let shut := d.dieFenced (coreDie g)
  let c := (List.range 9).foldl (fun (acc : List Byte × Dev) j =>
    let r := if on && !shut then acc.2.coreCounter g j else (0, acc.2)
    (acc.1 ++ leBytes (if j = 0 then 8 else 6) r.1, r.2)) ([], d)
  let wraps := bitsSum ((List.range 8).filter (fun j => FMap.get false d.gau.wrapped (16 * g + j + 1)))
  (leBytes 2 g ++ leBytes 1 ((if on then 1 else 0) + (if d.isJoined g then 2 else 0) + (if d.coreFenced g then 4 else 0)) ++ leBytes 1 wraps ++
    leBytes 1 (k.lastPart.getD 0) ++ leBytes 3 0 ++ c.1, c.2)
/-- The record of a block. -/
def Dev.blkRecord (d : Dev) (b : Block) : List Byte × Dev :=
  let c := (List.range 16).foldl (fun (acc : List Byte × Dev) i =>
    let r := acc.2.blkCounter b i
    (acc.1 ++ leBytes 6 r.1, r.2)) ([], d)
  let wraps := bitsSum ((List.range 16).filter (fun i => FMap.get false d.gau.wrapped (2 ^ 32 + 16 * b.id + i)))
  (leBytes 4 b.id ++ leBytes 2 wraps ++ leBytes 2 0 ++ c.1 ++ List.replicate 24 0, c.2)
/-- A snapshot is skipped: 1 ring full, 3 ring disabled. -/
def Dev.snapSkip (d : Dev) (why : Nat) : Dev :=
  let n := min 0xFFFFFFFF (d.gau.skipped + 1)
  let d1 : Dev := { d with gau := { d.gau with skipped := n, skippedNow := min 0xFFFFFFFF (d.gau.skippedNow + 1) } }
  d1.limited (rateKey 0x1001 0) (ticksMs 1) (fun k d => d.emit .gau 0x1001 1 (k + 1) why)
/-- A snapshot of every active counter: its records, then its header. -/
def Dev.snapshotFx (d : Dev) (periodic : Bool) : Dev :=
  let seq := d.gau.seq + 1
  let lg := d.rf GAU_DUMP_CFG 3 0
  if !d.dumpOn then d.snapSkip 3
  else if 2 ^ lg < sub32 seq.toNat (d.rn GAU_DUMP_CONSUMED) then d.snapSkip 1
  else
    let blocks := d.rbit GAU_CFG 0
    let rs : List Byte × Dev := if blocks then (gaugeBlocks d.hw).foldl (fun acc b => let r := acc.2.blkRecord b; (acc.1 ++ r.1, r.2)) ([], d)
      else (List.range (1024 * d.hw.dies)).foldl (fun acc g => let r := acc.2.coreRecord g; (acc.1 ++ r.1, r.2)) ([], d)
    let count := if blocks then (gaugeBlocks d.hw).length else 1024 * d.hw.dies
    let flags := (if d.gau.skippedNow = 0 then 0 else 1) + (if periodic then 2 else 0)
    let hd := leBytes 4 seq.toNat ++ leBytes 1 1 ++ leBytes 1 (if blocks then 1 else 0) ++ leBytes 2 flags ++ leBytes 8 d.now ++ leBytes 4 count ++
      leBytes 4 d.gau.skippedNow ++ List.replicate 40 0
    let base := d.dumpBase + seq.toNat % 2 ^ lg * (d.rf GAU_DUMP_CFG 19 8 * 4096)
    let loc := d.rbit GAU_DUMP_CFG 30
    let d1 := (rs.2.locWr loc (base + 64) rs.1).locWr loc base hd
    { d1 with gau := { d1.gau with seq := seq, skippedNow := 0, wrapped := [] } }
/-- SNAPSHOT_PERIOD, aligned to whole microseconds of Plumb time. -/
def Dev.snapPeriodFx (d : Dev) : Dev :=
  let p := d.rf GAU_SNAP_PERIOD 9 0
  if p = 0 ∨ d.now / (1000 * p) = d.gau.lastSnapNs / (1000 * p) then d
  else ({ d with gau := { d.gau with lastSnapNs := d.now } } : Dev).snapshotFx true
/-- GAU_READ: the selected counter now; GAU_READ_HI is latched. -/
def Dev.gauReadFx (d : Dev) : Nat × Dev :=
  let sel := d.rn GAU_READ_SEL
  let j := bitsOf sel 19 16
  let r := if d.rbit GAU_CFG 0 then (match d.blkSel with
      | some b => d.blkCounter b j
      | none => (0, d))
    else if 8 < j ∨ 1024 * d.hw.dies ≤ sel % 4096 then (0, d) else d.coreCounter (sel % 4096) j
  (r.1 % 2 ^ 32, { r.2 with gau := { r.2.gau with readHi := BitVec.ofNat 32 (r.1 / 2 ^ 32) } })

end Sys2Proof.Machine
end

