-- ==== Sys2Proof/Machine/PlinthOps.lean ====
section
/-! DEFINITION. Plinth (R234–R237): its command, its checks, the raw-image pipeline and the thin convolution. -/
namespace Sys2Proof.Machine

def pOp (bs : List Byte) : Nat := fieldAt bs 2 1
def pFlag (bs : List Byte) (i : Nat) : Bool := bitOf (fieldAt bs 3 1) i
def pImg (bs : List Byte) : Tensor := parseTensor bs 0x90
def pOut (bs : List Byte) : Tensor := parseTensor bs 0xE0
def pFormat (bs : List Byte) : Nat := fieldAt bs 0x10 1
def pBayer (bs : List Byte) : Bool := decide (pFormat bs < 3)
def pWidth (bs : List Byte) : Nat := fieldAt bs 0x14 2
def pHeight (bs : List Byte) : Nat := fieldAt bs 0x16 2
def pStride (bs : List Byte) : Nat := fieldAt bs 0x18 4
def pRowStart (bs : List Byte) : Nat := fieldAt bs 0x1C 2
def pRowCount (bs : List Byte) : Nat := fieldAt bs 0x1E 2
/-- Bits per raw sample. -/
def pBits (bs : List Byte) : Nat :=
  match pFormat bs with
  | 0 => 10 | 1 => 12 | 2 => fieldAt bs 0x12 1 | _ => 8
def pIngests (bs : List Byte) : Bool := pOp bs == 1 || pOp bs == 3
def pConvs (bs : List Byte) : Bool := pOp bs == 2 || pOp bs == 3
/-- Bytes of a line the format fills. -/
def pLineBytes (bs : List Byte) : Nat :=
  match pFormat bs with
  | 0 => (pWidth bs * 5 + 3) / 4 | 1 => pWidth bs * 3 / 2 | 2 => pWidth bs * 2 | 3 => pWidth bs | _ => pWidth bs * 2

def plinthDescChecks (bs : List Byte) : List Check :=
  let zero (o n : Nat) : Check := reservedAt bs o n
  let ing := pIngests bs
  let cv := pConvs bs
  [(decide (8 ≤ fieldAt bs 3 1) || (!ing && fieldAt bs 3 1 % 4 != 0), vDesc, 3)] ++
  (if ing then
    [zero 0xE 2, (decide (5 < pFormat bs), vDesc, 0x10), (decide (3 < fieldAt bs 0x11 1), vDesc, 0x11),
     (if pFormat bs = 2 then fieldAt bs 0x12 1 != 10 && fieldAt bs 0x12 1 != 12 else fieldAt bs 0x12 1 != 0, vDesc, 0x12)] ++
    [zero 0x13 1, (if pFormat bs = 3 then fieldAt bs 0x26 2 != 0 else fieldAt bs 0x20 8 != 0, vDesc, 0x20)]
   else [zero 8 0x74]) ++ [zero 0x7C 4] ++ (if ing then [] else [zero 0x80 12]) ++ [zero 0x8C 4] ++
  Tensor.descChecks bs 0x90 ++
  (if cv then [zero 0xB6 2, (decide (2 < fieldAt bs 0xBD 1), vDesc, 0xBD), zero 0xBE 2, zero 0xC6 2, zero 0xCE 2] ++
      (if fieldAt bs 0xBD 1 = 2 then [] else [zero 0xD0 8]) ++ [zero 0xD8 8] ++ Tensor.descChecks bs 0xE0 ++
      (if (pOut bs).ty == .i32 then [zero 0xC8 8] else [])
   else [zero 0xB0 80])

def plinthDim (bs : List Byte) (j : Nat) : Dim :=
  let i := pImg bs
  let o := pOut bs
  if j = 0 then { inn := i.d, out := o.d, k := 1, s := 1, dil := 1, pa := 0, pb := 0 }
  else { inn := if j = 1 then i.h else i.w, out := if j = 1 then o.h else o.w, k := fieldAt bs (0xB8 + j) 1,
         s := fieldAt bs 0xBB 1, dil := 1, pa := fieldAt bs 0xBC 1, pb := fieldAt bs 0xBC 1 }

def plinthShapeChecks (bs : List Byte) (mortarImg mortarOut : Bool) : List Check :=
  let i := pImg bs
  let o := pOut bs
  let half (x : Nat) : Nat := if pFlag bs 0 then x / 2 else x
  (if pIngests bs then
    [(dimBad (pWidth bs) 8192 || pWidth bs % 2 == 1, vShape, 0x14), (dimBad (pHeight bs) 8192 || pHeight bs % 2 == 1, vShape, 0x16),
     (decide (pStride bs < pLineBytes bs), vShape, 0x18), (pRowStart bs % 2 == 1, vShape, 0x1C),
     (pRowCount bs % 2 == 1 || decide (pRowCount bs < 2) || decide (pHeight bs < pRowStart bs + pRowCount bs), vShape, 0x1E),
     (decide (1 < i.layout) || i.n != 1 || i.d != 1 || (i.c != 3 && i.c != 4) || i.h != half (pHeight bs) ||
      i.w != half (pWidth bs), vShape, 0x9C)]
   else []) ++ i.shapeChecks mortarImg 0x90 ++
  (if pConvs bs then
    [(dimBad (fieldAt bs 0xB9 1) 7, vShape, 0xB9), (dimBad (fieldAt bs 0xBA 1) 7, vShape, 0xBA),
     (dimBad (fieldAt bs 0xBB 1) 4, vShape, 0xBB), (decide (7 < fieldAt bs 0xBC 1), vShape, 0xBC)] ++
    o.shapeChecks mortarOut 0xE0 ++ [(o.n != i.n, vShape, 0xEC)] ++
    (List.range 3).map (fun j => let x := plinthDim bs j
      (decide (x.convExtent < 1) || (x.out : Int) != x.convExtent, vShape, 0xEE + 2 * j)) ++
    [((decide (16 < i.c) && decide (16 < o.c)) || decide (1024 < i.c) || decide (1024 < o.c), vShape, 0xF4)] ++
    (if i.ty.isInt && o.ty != .i32 then [(addrAt bs 0xC8 == 0, vShape, 0xC8)] else [])
   else [])

def plinthTypeChecks (bs : List Byte) : List Check :=
  let i := pImg bs
  let o := pOut bs
  let w := (ElemType.ofCode (fieldAt bs 0xB8 1)).getD .i8
  (if pIngests bs then [(typeBad i.type || !(poolType i.ty), vType, 0x96)] else []) ++ i.typeChecks 0x90 ++
  (if pConvs bs then [(typeBad i.type || typeBad o.type || typeBad (fieldAt bs 0xB8 1) || !convTypes i.ty w o.ty, vType, 0xB8)] ++
    o.typeChecks 0xE0 else [])

def plinthAlignChecks (bs : List Byte) : List Check :=
  (if pIngests bs then [(addrAt bs 8 % 64 != 0, vAlign, 8), (pStride bs % 64 != 0, vAlign, 0x18)] else []) ++
  (pImg bs).alignChecks 0x90 ++ (if pConvs bs then (pOut bs).alignChecks 0xE0 else [])

def plinthRegionChecks (ok : Nat → Nat → Nat → Bool) (bs : List Byte) : List Check :=
  let i := pImg bs
  let o := pOut bs
  let w := (ElemType.ofCode (fieldAt bs 0xB8 1)).getD .i8
  (if pIngests bs then
    [(!ok (addrAt bs 8) ((pHeight bs - 1) * pStride bs + pLineBytes bs) 0, vRegion, 8)] ++
    (if pFormat bs = 3 then [(!ok (addrAt bs 0x20) ((pHeight bs / 2 - 1) * pStride bs + pWidth bs) 0, vRegion, 0x20)] else [])
   else []) ++
  [(if pOp bs = 2 then !ok i.addr i.extent 0 else (pOp bs == 1 || i.addr != 0) && !ok i.addr i.extent 1, vRegion, 0x90)] ++
  (if pConvs bs then
    [(!ok (addrAt bs 0xB0) ((o.c * fieldAt bs 0xB9 1 * fieldAt bs 0xBA 1 * i.c * w.width + 7) / 8) 0, vRegion, 0xB0),
     (addrAt bs 0xC0 != 0 && !ok (addrAt bs 0xC0) (4 * o.c) 0, vRegion, 0xC0),
     (addrAt bs 0xC8 != 0 && !ok (addrAt bs 0xC8) ((if i.ty.isInt then 8 else 4) * o.c) 0, vRegion, 0xC8),
     (!ok o.addr o.extent 1, vRegion, 0xE0)]
   else [])

def plinthChecks (h : Hw) (ok : Nat → Nat → Nat → Bool) (bs : List Byte) : Option (Nat × Nat) :=
  let mo (t : Tensor) : Bool := (placeOf h t.addr).isMem && !(placeOf h t.addr).isDram
  firstBad (headerChecks bs 1 256 (decide (1 ≤ pOp bs) && decide (pOp bs ≤ 3)) ++ plinthDescChecks bs ++
    plinthShapeChecks bs (mo (pImg bs)) (mo (pOut bs)) ++ plinthTypeChecks bs ++ plinthAlignChecks bs ++
    plinthRegionChecks ok bs)

/-! ### INGEST (R235, R236) -/

/-- A coordinate reflected about the edges with a period of 2, which keeps the CFA phase (R236). -/
def reflect (n : Nat) (i : Int) : Nat :=
  let a : Int := if i < 0 then -i else i
  let b : Int := if (n : Int) ≤ a then 2 * ((n : Int) - 1) - a else a
  (if b < 0 then -b else b).toNat

/-- A raw sample of row y, column x (step 1). -/
def rawSample (bs : List Byte) (rd : Nat → Nat → List Byte) (y x : Nat) : Nat :=
  let line := addrAt bs 8 + y * pStride bs
  let b (i : Nat) : Nat := leNat (rd (line + i) 1)
  match pFormat bs with
  | 0 => b (x / 4 * 5 + x % 4) * 4 + bitsOf (b (x / 4 * 5 + 4)) (2 * (x % 4) + 1) (2 * (x % 4))
  | 1 => b (x / 2 * 3 + x % 2) * 16 + bitsOf (b (x / 2 * 3 + 2)) (4 * (x % 2) + 3) (4 * (x % 2))
  | _ => (b (2 * x) + 256 * b (2 * x + 1)) % 2 ^ pBits bs

/-- The colour a CFA position holds: 0 red, 1 green, 2 blue. -/
def cfaColour (bs : List Byte) (y x : Nat) : Nat :=
  let p := y % 2 * 2 + x % 2
  match fieldAt bs 0x11 1 with
  | 0 => [0, 1, 1, 2].getD p 0
  | 1 => [1, 0, 2, 1].getD p 0
  | 2 => [1, 2, 0, 1].getD p 0
  | _ => [2, 1, 1, 0].getD p 0

/-- A Bayer pixel after black level and gain (step 2), FP32. -/
def bayerPixel (bs : List Byte) (rd : Nat → Nat → List Byte) (y x : Int) : Nat :=
  let yy := reflect (pHeight bs) y
  let xx := reflect (pWidth bs) x
  let pos := yy % 2 * 2 + xx % 2
  let p : Int := (rawSample bs rd yy xx : Int) - (fieldAt bs (0x28 + 2 * pos) 2 : Int)
  fMin (fOfInt (2 ^ pBits bs - 1)) (fMul (fOfInt (if p < 0 then 0 else p)) (fieldAt bs (0x30 + 4 * pos) 4))

/-- The mean of nearby samples, added in reading order. -/
def fltMean (xs : List Nat) : Nat :=
  match xs with
  | [] => 0
  | x :: rest => fMul (rest.foldl fAdd x) (fEnc (FV.ofRat 1 xs.length))

/-- The bilinear value of a colour at a pixel (step 3). -/
def bilinear (bs : List Byte) (rd : Nat → Nat → List Byte) (y x colour : Nat) : Nat :=
  let p (dy dx : Int) : Nat := bayerPixel bs rd (y + dy) (x + dx)
  if cfaColour bs y x = colour then p 0 0
  else if colour = 1 then fltMean [p (-1) 0, p 0 (-1), p 0 1, p 1 0]
  else if cfaColour bs y (x + 1) = colour then fltMean [p 0 (-1), p 0 1]
  else if cfaColour bs (y + 1) x = colour then fltMean [p (-1) 0, p 1 0]
  else fltMean [p (-1) (-1), p (-1) 1, p 1 (-1), p 1 1]

/-- Edge-directed demosaic: the pixel's own colour, and the open value of the others (log entry 31). -/
def edgeDirected (bs : List Byte) (rd : Nat → Nat → List Byte) (y x colour : Nat) : Nat :=
  if cfaColour bs y x = colour then bayerPixel bs rd y x
  else Config.edgeColour colour (cfaColour bs y x)
    ((List.range 25).map (fun i => bayerPixel bs rd ((y : Int) + (i / 5 : Nat) - 2) ((x : Int) + (i % 5 : Nat) - 2))) % 2 ^ 32

/-- A YUV component of a pixel, chroma repeated to full resolution (step 3). -/
def yuvSample (bs : List Byte) (rd : Nat → Nat → List Byte) (y x comp : Nat) : Nat :=
  let b (a : Nat) : Nat := leNat (rd a 1)
  let line := addrAt bs 8 + y * pStride bs
  match pFormat bs with
  | 3 => if comp = 0 then b (line + x) else b (addrAt bs 0x20 + y / 2 * pStride bs + x / 2 * 2 + (comp - 1))
  | 4 => if comp = 0 then b (line + 2 * x) else b (line + x / 2 * 4 + 2 * comp - 1)
  | _ => if comp = 0 then b (line + 2 * x + 1) else b (line + x / 2 * 4 + 2 * (comp - 1))

/-- The three scaled components of a pixel (steps 1 to 4). -/
def pixelComps (bs : List Byte) (rd : Nat → Nat → List Byte) (y x : Nat) : List Nat :=
  if pBayer bs then
    (List.range 3).map (fun c =>
      fDiv (if pFlag bs 1 then edgeDirected bs rd y x c else bilinear bs rd y x c) (fOfInt (2 ^ pBits bs - 1)))
  else
    (List.range 3).map (fun c =>
      let v := fDiv (fOfInt (yuvSample bs rd y x c)) (fOfInt 255)
      if c = 0 then v else fSub v (fDiv (fOfInt 128) (fOfInt 255)))

/-- Colour component c of a pixel (step 5): CCM × v + OFFSET, row sums from the left, each operation rounded. -/
def colourOf (bs : List Byte) (v : List Nat) (c : Nat) : Nat :=
  let m (k : Nat) : Nat := fMul (fieldAt bs (0x40 + 4 * (3 * c + k)) 4) (v.getD k 0)
  fAdd (fAdd (fAdd (m 0) (m 1)) (m 2)) (fieldAt bs (0x64 + 4 * c) 4)

/-- A converted component of the image (steps 5 to 8) with its saturation. -/
def ingestElem (bs : List Byte) (rd : Nat → Nat → List Byte) (y x c : Nat) : Cell1 :=
  if 3 ≤ c then (0, 0)
  else
    let px (yy xx : Nat) : Nat := colourOf bs (pixelComps bs rd yy xx) c
    let v := if pFlag bs 0 then fltMean [px (2 * y) (2 * x), px (2 * y) (2 * x + 1), px (2 * y + 1) (2 * x), px (2 * y + 1) (2 * x + 1)]
      else px y x
    let nrm := fMul (fSub v (fieldAt bs (0x70 + 4 * c) 4)) (fieldAt bs (0x80 + 4 * c) 4)
    let t := (pImg bs).ty
    let r := cvtLane .f32 t (overOf (pFlag bs 2) t) none nrm
    (r.1, if t.isInt then satOf r.2 else if pFlag bs 2 && r.2 &&& .ovf != 0 then 1 else 0)

/-- Rows of the image the band writes. -/
def bandRows (bs : List Byte) : Nat × Nat :=
  if pFlag bs 0 then (pRowStart bs / 2, pRowCount bs / 2) else (pRowStart bs, pRowCount bs)

def ingestStores (bs : List Byte) (rd : Nat → Nat → List Byte) : List (Nat × List Byte) :=
  let t := pImg bs
  (List.range (bandRows bs).2).map (fun j =>
    let y := (bandRows bs).1 + j
    (t.rowAddr 0 0 y, (List.range t.w).flatMap (fun x => (List.range t.c).flatMap (fun c =>
      leBytes (t.bits / 8) (ingestElem bs rd y x c).1))))

def ingestSat (bs : List Byte) (rd : Nat → Nat → List Byte) : Nat :=
  ((List.range (bandRows bs).2).map (fun j => ((List.range (pImg bs).w).map (fun x => ((List.range (pImg bs).c).map (fun c =>
    (ingestElem bs rd ((bandRows bs).1 + j) x c).2)).sum)).sum)).sum

def runIngest (bs : List Byte) (rd : Nat → Nat → List Byte) : EngOut := EngOut.ok (ingestStores bs rd) (ingestSat bs rd)

def plinthConvSpec (bs : List Byte) : ConvSpec :=
  { inp := pImg bs, out := pOut bs, dims := (List.range 3).map (plinthDim bs), transposed := false, groups := 1,
    padCode := 0, weights := addrAt bs 0xB0, wtype := (ElemType.ofCode (fieldAt bs 0xB8 1)).getD .i8,
    bias := addrAt bs 0xC0, quant := addrAt bs 0xC8, act := fieldAt bs 0xBD 1, satm := pFlag bs 2,
    clampLo := fieldAt bs 0xD0 4, clampHi := fieldAt bs 0xD4 4, slope := 0, multi := false }

def runPlinthConv (bs : List Byte) (rd : Nat → Nat → List Byte) : EngOut :=
  (plinthConvSpec bs).run rd ((pImg bs).read rd)

/-- INGEST_CONV convolves the converted image, whether or not it is written; rows outside the band are converted for
the convolution and not written. -/
def runIngestConv (bs : List Byte) (rd : Nat → Nat → List Byte) : EngOut :=
  let r := (plinthConvSpec bs).run rd (fun _ _ h w c => (ingestElem bs rd h w c).1)
  { r with stores := (if (pImg bs).addr = 0 then [] else ingestStores bs rd) ++ r.stores, sat := r.sat + ingestSat bs rd }

end Sys2Proof.Machine
end

