-- ==== Sys2Proof/Machine/SieveOps.lean ====
section
/-! DEFINITION. Sieve (R238–R243): decoding, scoring, sorting and suppression of detection candidates. -/
namespace Sys2Proof.Machine

def sOp (bs : List Byte) : Nat := fieldAt bs 2 1
def sFlag (bs : List Byte) (i : Nat) : Bool := bitOf (fieldAt bs 3 1) i
def sMode (bs : List Byte) : Nat := fieldAt bs 8 1
def sScoreTy (bs : List Byte) : ElemType := (ElemType.ofCode (fieldAt bs 9 1)).getD .f32
def sRegTy (bs : List Byte) : ElemType := (ElemType.ofCode (fieldAt bs 0xA 1)).getD .f32
def sClasses (bs : List Byte) : Nat := fieldAt bs 0xC 2
def sMaxOut (bs : List Byte) : Nat := fieldAt bs 0xE 2
def sCand (bs : List Byte) : Nat := fieldAt bs 0x10 4
def sTopK (bs : List Byte) : Nat := fieldAt bs 0x14 4
def sGridW (bs : List Byte) : Nat := fieldAt bs 0x48 2
def sGridH (bs : List Byte) : Nat := fieldAt bs 0x4A 2
def sGrid (bs : List Byte) : Bool := sMode bs == 1 || sMode bs == 2
def s3d (bs : List Byte) : Bool := sMode bs == 2 || sMode bs == 4
/-- Q: regression values per candidate (R238). -/
def sQ (bs : List Byte) : Nat :=
  match sMode bs with
  | 2 => 8 | 4 => 7 | _ => 4
def sAddr (bs : List Byte) (j : Nat) : Nat := addrAt bs (0x28 + 8 * j)

def sieveDescChecks (bs : List Byte) : List Check :=
  let zero (o n : Nat) : Check := reservedAt bs o n
  [(decide (8 ≤ fieldAt bs 3 1) || (sFlag bs 2 && !sGrid bs), vDesc, 3),
   (if sOp bs = 1 then decide (2 < sMode bs) else sMode bs != 3 && sMode bs != 4, vDesc, 8), zero 0xB 1] ++
  (if sScoreTy bs == .i8 then [] else [zero 0x20 4]) ++ (if sOp bs = 1 then [] else [zero 0x24 4]) ++
  [zero 0x2E 2, zero 0x36 2, zero 0x3E 2, zero 0x46 2] ++ (if sMode bs = 0 then [] else [zero 0x38 8]) ++
  (if sGrid bs then [] else [zero 0x48 16]) ++ (if sMode bs = 0 then [] else [zero 0x58 16]) ++ [zero 0x68 24]

/-- Is an FP32 code within 0.0–1.0? -/
def inUnit (x : Nat) : Bool := fLe 0 x && fLe x 0x3F800000

def sieveShapeChecks (bs : List Byte) : List Check :=
  [(dimBad (sClasses bs) 256, vShape, 0xC), (dimBad (sMaxOut bs) 2048, vShape, 0xE), (dimBad (sCand bs) 65536, vShape, 0x10),
   (dimBad (sTopK bs) 65536, vShape, 0x14), (!inUnit (fieldAt bs 0x1C 4), vShape, 0x1C),
   (sGrid bs && sCand bs != sGridW bs * sGridH bs, vShape, 0x48)]

def sieveTypeChecks (bs : List Byte) : List Check :=
  let st := fieldAt bs 9 1
  let rt := fieldAt bs 0xA 1
  [(st != 0 && st != 9 && st != 10 && st != 11, vType, 9),
   ((rt != 9 && rt != 10 && rt != 11) || (decide (3 ≤ sMode bs) && rt != 11), vType, 0xA)]

def sieveChecks (ok : Nat → Nat → Nat → Bool) (bs : List Byte) : Option (Nat × Nat) :=
  firstBad (headerChecks bs 2 128 (decide (1 ≤ sOp bs) && decide (sOp bs ≤ 2)) ++ sieveDescChecks bs ++ sieveShapeChecks bs ++
    sieveTypeChecks bs ++ (List.range 4).map (fun j => (sAddr bs j % 64 != 0, vAlign, 0x28 + 8 * j)) ++
    [(!ok (sAddr bs 0) (sCand bs * sClasses bs * (sScoreTy bs).width / 8) 0, vRegion, 0x28),
     (!ok (sAddr bs 1) (sCand bs * sQ bs * (sRegTy bs).width / 8) 0, vRegion, 0x30),
     (sMode bs == 0 && !ok (sAddr bs 2) (sCand bs * 16) 0, vRegion, 0x38),
     (!ok (sAddr bs 3) (64 + 48 * sMaxOut bs) 1, vOutSpace, 0x40)])

/-- A raw score as FP32; INT8 is multiplied by SCORE_SCALE (R240 step 1). -/
def rawScore (bs : List Byte) (rd : Nat → Nat → List Byte) (i k : Nat) : Nat :=
  let t := sScoreTy bs
  let x := toF32 t (codeAt rd (sAddr bs 0) t.width (i * sClasses bs + k))
  if t == .i8 then fMul x (fieldAt bs 0x20 4) else x

def regValue (bs : List Byte) (rd : Nat → Nat → List Byte) (i q : Nat) : Nat :=
  toF32 (sRegTy bs) (codeAt rd (sAddr bs 1) (sRegTy bs).width (i * sQ bs + q))
def anchorValue (bs : List Byte) (rd : Nat → Nat → List Byte) (i q : Nat) : Nat := codeAt rd (sAddr bs 2) 32 (i * 4 + q)

/-- exp with its argument limited to EXP_CLAMP (R239). -/
def expClamped (bs : List Byte) (x : Nat) : Nat := fExp (if fLt (fieldAt bs 0x24 4) x then fieldAt bs 0x24 4 else x)

def fHalf (x : Nat) : Nat := fMul x 0x3F000000
def centreBox (cx cy w h : Nat) : List Nat := [fSub cx (fHalf w), fSub cy (fHalf h), fAdd cx (fHalf w), fAdd cy (fHalf h)]

/-- atan2 in (−π, π]; a NaN gives the canonical NaN (log entry 10). -/
def fAtan2 (y x : Nat) : Nat :=
  if (fDec y).isNaN || (fDec x).isNaN then fNaN else (Config.fatan2 (BitVec.ofNat 32 y) (BitVec.ofNat 32 x)).toNat

/-- The decoded box: 4 values, or 7 in three dimensions (R239); width and height of it for R240's test. -/
def boxOfCand (bs : List Byte) (rd : Nat → Nat → List Byte) (i : Nat) : List Nat × List Nat :=
  let q (j : Nat) : Nat := regValue bs rd i j
  let a (j : Nat) : Nat := anchorValue bs rd i j
  let var (j : Nat) : Nat := fieldAt bs (0x58 + 4 * j) 4
  let cell := fieldAt bs 0x4C 4
  let ox := fieldAt bs 0x50 4
  let oy := fieldAt bs 0x54 4
  let gx := fOfInt ((i % sGridW bs : Nat) : Int)
  let gy := fOfInt ((i / sGridW bs : Nat) : Int)
  match sMode bs with
  | 0 =>
    let cx := fAdd (a 0) (fMul (fMul (q 0) (var 0)) (a 2))
    let cy := fAdd (a 1) (fMul (fMul (q 1) (var 1)) (a 3))
    let w := fMul (a 2) (expClamped bs (fMul (q 2) (var 2)))
    let h := fMul (a 3) (expClamped bs (fMul (q 3) (var 3)))
    (centreBox cx cy w h, [w, h])
  | 1 =>
    let cx := fAdd (fMul (fAdd gx (q 0)) cell) ox
    let cy := fAdd (fMul (fAdd gy (q 1)) cell) oy
    let w := fMul (q 2) cell
    let h := fMul (q 3) cell
    (centreBox cx cy w h, [w, h])
  | 2 =>
    let l := expClamped bs (q 3)
    let w := expClamped bs (q 4)
    let h := expClamped bs (q 5)
    ([fAdd (fMul (fAdd gx (q 0)) cell) ox, fAdd (fMul (fAdd gy (q 1)) cell) oy, q 2, l, w, h, fAtan2 (q 6) (q 7)], [l, w, h])
  | 3 => ([q 0, q 1, q 2, q 3], [fSub (q 2) (q 0), fSub (q 3) (q 1)])
  | _ => ((List.range 7).map q, [q 3, q 4, q 5])

def boxBad (b : List Nat × List Nat) : Bool := b.1.any (fun x => !fFinite x) || b.2.any (fun x => !fLt 0 x)

/-- Is the raw score at least that of every grid neighbour of the class (R240 step 4)? -/
def isPeak (bs : List Byte) (rd : Nat → Nat → List Byte) (i k : Nat) : Bool :=
  let gx := i % sGridW bs
  let gy := i / sGridW bs
  (List.range 9).all (fun j =>
    let x : Int := (gx : Int) + (j % 3 : Nat) - 1
    let y : Int := (gy : Int) + (j / 3 : Nat) - 1
    if j = 4 ∨ x < 0 ∨ y < 0 ∨ (sGridW bs : Int) ≤ x ∨ (sGridH bs : Int) ≤ y then true
    else fLe (rawScore bs rd (y.toNat * sGridW bs + x.toNat) k) (rawScore bs rd i k))

/-- A scored pair: FP32 score, candidate, class. -/
abbrev Pair3 := Nat × Nat × Nat

def pairScore (bs : List Byte) (rd : Nat → Nat → List Byte) (i k : Nat) : Nat :=
  let x := rawScore bs rd i k
  if sFlag bs 0 then fDiv 0x3F800000 (fAdd 0x3F800000 (fExp (fNeg x))) else x

/-- The pairs of a candidate that pass (R240). -/
def candPairs (bs : List Byte) (rd : Nat → Nat → List Byte) (i : Nat) : List Pair3 :=
  if boxBad (boxOfCand bs rd i) then []
  else (List.range (sClasses bs)).filterMap (fun k =>
    let s := pairScore bs rd i k
    if fLt (fieldAt bs 0x18 4) s && (!sFlag bs 2 || isPeak bs rd i k) then some (s, i, k) else none)

/-- Highest score first, then candidate, then class (R241). -/
def pairBefore (a b : Pair3) : Bool :=
  fLt b.1 a.1 || (!fLt a.1 b.1 && (decide (a.2.1 < b.2.1) || (a.2.1 == b.2.1 && decide (a.2.2 ≤ b.2.2))))
def insertPair (p : Pair3) : List Pair3 → List Pair3
  | [] => [p]
  | x :: xs => if pairBefore p x then p :: x :: xs else x :: insertPair p xs
def sortPairs : List Pair3 → List Pair3
  | [] => []
  | x :: xs => insertPair x (sortPairs xs)

def rectArea (b : List Nat) : Nat := fMul (fSub (b.getD 2 0) (b.getD 0 0)) (fSub (b.getD 3 0) (b.getD 1 0))

/-- Intersection over union of two boxes (R242): rotated rectangles' intersection is an open value. -/
def iou (three : Bool) (a b : List Nat) : Nat :=
  let clip (x : Nat) : Nat := if fLt 0 x then x else 0
  let inter :=
    if three then Config.rotInter a b % 2 ^ 32
    else fMul (clip (fSub (fMin (a.getD 2 0) (b.getD 2 0)) (fMax (a.getD 0 0) (b.getD 0 0))))
      (clip (fSub (fMin (a.getD 3 0) (b.getD 3 0)) (fMax (a.getD 1 0) (b.getD 1 0))))
  let area (x : List Nat) : Nat := if three then fMul (x.getD 3 0) (x.getD 4 0) else rectArea x
  let union := fSub (fAdd (area a) (area b)) inter
  if (fDec union).isZero then 0 else fDiv inter union

/-- Greedy suppression (R241): the kept pairs in order, and whether pairs remained unexamined. -/
def suppress (bs : List Byte) (rd : Nat → Nat → List Byte) : List Pair3 → List Pair3 → List Pair3 × Bool
  | kept, [] => (kept, false)
  | kept, p :: ps =>
    if sMaxOut bs ≤ kept.length then (kept, true)
    else
      let hit := kept.any (fun k => (sFlag bs 1 || k.2.2 == p.2.2) &&
        fLt (fieldAt bs 0x1C 4) (iou (s3d bs) (boxOfCand bs rd k.2.1).1 (boxOfCand bs rd p.2.1).1))
      suppress bs rd (if hit then kept else kept ++ [p]) ps

def sieveRecord (bs : List Byte) (rd : Nat → Nat → List Byte) (p : Pair3) : List Byte :=
  let b := (boxOfCand bs rd p.2.1).1
  leBytes 2 p.2.2 ++ leBytes 2 0 ++ leBytes 4 p.2.1 ++ leBytes 4 p.1 ++ leBytes 4 0 ++
  (List.range 7).flatMap (fun j => leBytes 4 (b.getD j 0)) ++ leBytes 4 0

/-- DETECT and SUPPRESS: header and records (R243). -/
def runSieve (bs : List Byte) (rd : Nat → Nat → List Byte) : EngOut :=
  let invalid := ((List.range (sCand bs)).filter (fun i => boxBad (boxOfCand bs rd i))).length
  let passed := (List.range (sCand bs)).flatMap (candPairs bs rd)
  let sorted := sortPairs passed
  let r := suppress bs rd [] (sorted.take (sTopK bs))
  let dropped := sorted.length - (sorted.take (sTopK bs)).length
  let head := [0x01, BitVec.ofNat 8 (sMode bs)] ++ leBytes 2 ((if r.2 then 1 else 0) + (if dropped = 0 then 0 else 2)) ++
    leBytes 4 r.1.length ++ leBytes 4 passed.length ++ leBytes 4 invalid ++ leBytes 4 dropped ++ List.replicate 44 0
  { stores := [(sAddr bs 3, head ++ r.1.flatMap (sieveRecord bs rd))], sat := invalid, status := 0,
    truncated := if r.2 then some r.1.length else none, undef := [] }

end Sys2Proof.Machine
end

