-- ==== Sys2Proof/Machine/EngFx.lean ====
section
/-! DEFINITION. The fixed engines at work (R113, R143, R213–R217, R255–R268): serving a queue, the checks of a command, what it does, its
end, and the loading of key-value sequences. -/
namespace Sys2Proof.Machine

/-! ### Serving a queue (R113, R143) -/

/-- Weight of a partition at an engine (R137); 0 is taken as 1. -/
def Dev.engShare (d : Dev) (p e : Nat) : Nat := match d.part p with
  | some x => max 1 (x.share.getD e 0)
  | none => 1
/-- The engine's operation codes; a command with an unknown one is taken with the first (R215). -/
def engOps (e : Nat) : Nat := if e = 0 ∨ e = 3 then 4 else if e = 1 then 3 else 2
def engOpOf (e : Nat) (bs : List Byte) : Nat :=
  let op := fieldAt bs 2 1
  if 1 ≤ op ∧ op ≤ engOps e then op else 1
def engUnit (n e : Nat) : Nat := unitNo n 2 e
/-- Is the engine there, powered, in service and idle? -/
def Dev.engFree (d : Dev) (n e : Nat) : Bool :=
  decide (n < d.hw.dies) && decide (e < 4) && d.domainOn (10 * n + 8) && !FMap.get false d.pwr.scanned n && !d.engFenced n e && !d.wrapped (engUnit n e) &&
  !(d.eng n e).underTest && (d.eng n e).run.isNone
/-- The bytes of a waiting command, as its context reads them. -/
def Dev.engBytes (d : Dev) (e : Nat) (k : EngCmd) : List Byte := d.rdFor k.ctx k.addr (cmdBytes e)
/-- VERIFY and TRUNCATE wait until the appends that the issuing core made have completed (R263). -/
def Dev.appendsOut (d : Dev) (e : Nat) (k : EngCmd) : Bool :=
  let bs := d.engBytes e k
  e == 3 && (fieldAt bs 2 1 == 2 || fieldAt bs 2 1 == 3) && (match FMap.get none d.seqs (tSeqNo bs) with
    | some q => q.res.any (fun r => some r.core == k.core && r.done)
    | none => false)
/-- The head of a partition's queue, when it is ready to start. -/
def Dev.engHead (d : Dev) (n e p : Nat) : Option EngCmd := match FMap.get [] (d.eng n e).queues p with
  | k :: _ => if d.appendsOut e k then none else some k
  | [] => none
/-- Partitions whose queue holds a command ready to start, of the highest such class. -/
def Dev.engReady (d : Dev) (n e : Nat) : List Nat :=
  let ps := (List.range 16).filter (fun p => (d.engHead n e p).isSome)
  ps.filter (fun p => ps.all (fun q => decide (d.classOf q ≤ d.classOf p)))
/-- Has the partition had its share of this round? -/
def Dev.engSpent (d : Dev) (n e p : Nat) : Bool := decide (d.engShare p e ≤ FMap.get 0 (d.eng n e).served p)
/-- May the queue of partition `p` be served now? A round ends when every ready queue of the class has had its share. -/
def Dev.engTurn (d : Dev) (n e p : Nat) : Bool :=
  let ps := d.engReady n e
  ps.contains p && (!d.engSpent n e p || ps.all (fun q => d.engSpent n e q))
/-- Take the head of the queue. -/
def Dev.engPop (d : Dev) (n e p : Nat) : Dev :=
  let x := d.eng n e
  let s := if d.engSpent n e p then [] else x.served
  d.setEng n e { x with queues := FMap.modify [] x.queues p (fun q => q.drop 1), served := FMap.modify 0 s p (· + 1) }

/-! ### Checks (R215, R229, R260) -/

/-- Lies a range wholly in memory the partition may read (need 0) or write (need 1)? -/
def Dev.rangeOk (d : Dev) (p : Nat) (a n need : Nat) : Bool := match d.part p with
  | some x => x.allows a n need && inMem d.hw a n
  | none => false
/-- The sequence checks of a Tracery command (R260). -/
def Dev.traceryChecks (d : Dev) (k : EngCmd) (bs : List Byte) (ok : Nat → Nat → Nat → Bool) : Option (Nat × Nat) :=
  match firstBad (traceryFormChecks bs) with
  | some r => some r
  | none =>
    if tOp bs = 4 ∨ (tOp bs = 1 ∧ !tPaged bs) then firstBad (attRegionChecks ok bs (attDense bs))
    else match d.declaredSeq k.ctx (tSeqNo bs) with
      | none => some (0x86, 0x0C)
      | some q =>
        if tPaged bs then
          let r (v : Nat) : Nat := d.lenSeen k.ctx (q.record (d.rd View.plain) (q.stream (tLayer bs) (tGroup bs) v))
          if q.layers ≤ tLayer bs then some (0x86, 0x0E)
          else if q.groups ≤ tGroup bs then some (0x86, 0x10)
          else if r 0 ≠ r 1 then some (0x87, 0x0C)
          else firstBad (attRegionChecks ok bs (attPaged q (r 0)))
        else firstBad (verifyRegionChecks ok bs)
/-- Every check of a command, with the ranges judged by `ok`. -/
def Dev.engChecks (d : Dev) (n e : Nat) (k : EngCmd) (bs : List Byte) (ok : Nat → Nat → Nat → Bool) : Option (Nat × Nat) :=
  if e = 0 then windowChecks d.hw n (d.classOf k.part == 0) ok bs
  else if e = 1 then plinthChecks d.hw ok bs
  else if e = 2 then sieveChecks ok bs
  else d.traceryChecks k bs ok

/-! ### What a command meets in memory (R317, R320) -/

/-- The sequence a paged ATTEND, VERIFY or TRUNCATE works on. -/
def Dev.trcSeq (d : Dev) (e : Nat) (k : EngCmd) (bs : List Byte) : Option Seq :=
  if e = 3 ∧ tOp bs ≠ 4 ∧ (tOp bs ≠ 1 ∨ tPaged bs) then d.declaredSeq k.ctx (tSeqNo bs) else none
/-- The length a paged ATTEND attends. -/
def Dev.attLen (d : Dev) (c : Nat) (q : Seq) (bs : List Byte) : Nat := d.lenSeen c (q.record (d.rd View.plain) (q.stream (tLayer bs) (tGroup bs) 0))
/-- Pages a paged ATTEND reads. -/
def Dev.attPages (d : Dev) (e : Nat) (k : EngCmd) (bs : List Byte) : List (Nat × Nat) := match d.trcSeq e k bs with
  | some q => if tPaged bs then
      ((List.range ((d.attLen k.ctx q bs + 63) / 64)).map (fun b => (q.page (d.rdFor k.ctx) (tLayer bs) (tGroup bs) b, q.pageBytes))).filter
        (fun r => r.1 != 0 && d.rangeOk q.owner r.1 r.2 0)
    else []
  | none => []
/-- Does `p` hold of some range that a command which passed its checks reads (need 0) or writes (need 1)? -/
def Dev.engTouches (d : Dev) (n e : Nat) (k : EngCmd) (bs : List Byte) (p : Nat → Nat → Nat → Bool) : Bool :=
  (d.engChecks n e k bs (fun a m need => !p a m need)).isSome || (d.attPages e k bs).any (fun r => p r.1 r.2 0) || p k.addr (cmdBytes e) 0
/-- Lines that a read as this master would find poisoned. -/
def Dev.poisonLines (d : Dev) (v : View) : List Nat :=
  (d.poison.flatMap (fun (x : Nat × Bool) =>
    let l := x.1 % 2 ^ 48
    l :: d.mirrors.filterMap (fun (m : Nat × Option Mirror) => m.2.bind (fun m =>
      if m.copy ≤ 64 * l ∧ 64 * l < m.copy + m.bytes then some ((m.base + (64 * l - m.copy)) / 64) else none)))).filter
    (fun l => (d.poisonedIn v (64 * l) 1).isSome)
/-- The status with which a command's reads and writes end its context, and the record of a poisoned read. -/
def Dev.engMemory (d : Dev) (n e : Nat) (k : EngCmd) (bs : List Byte) : Option (BitVec 8 × Dev) :=
  let v := d.viewOf k.ctx
  let meets (st : BitVec 8) : Bool := d.engTouches n e k bs (fun a m _ => d.accessStatus v a m false == some st)
  if meets stFencedResource then some (stFencedResource, d)
  else if meets stMemoryUncorrectable then some (stMemoryUncorrectable, d)
  else match (d.poisonLines v).find? (fun l => d.engTouches n e k bs (fun a m need => need == 0 && decide (a < 64 * l + 64) && decide (64 * l < a + m))) with
    | some l => some (stMemoryUncorrectable, d.tellPoison l)
    | none => none

/-! ### VERIFY and TRUNCATE (R262–R264) -/

/-- Cut one stream to `len` at most. -/
def Dev.cutStream (d : Dev) (c sn st len : Nat) : Dev :=
  match d.seqOf sn with
  | none => d
  | some q =>
    let r := q.record (d.rd View.plain) st
    let (go, d1) := d.streamConflict c r
    if !go then d1
    else
      let (new, rec) := match (d.viewOf c).write with
        | some w => let m := min (d.lenSeen c r) len; (m, if m = d.lenSeen c r then r else mkRec m (recConf r) w)
        | none => let m := min (recConf r) len; (m, mkRec m m 0)
      let d2 := d1.wr View.plain (q.recordAddr st) (leBytes 8 rec)
      { d2 with seqs := FMap.set none d2.seqs sn (some (q.voidBeyond st new)) }
def Dev.cutSeq (d : Dev) (c sn len : Nat) : Dev := match d.seqOf sn with
  | some q => (List.range q.streams).foldl (fun d st => d.cutStream c sn st len) d
  | none => d
/-- The length of stream (0, 0, keys) as the context sees it. -/
def Dev.firstLen (d : Dev) (c sn : Nat) : Nat := match d.seqOf sn with
  | some q => d.lenSeen c (q.record (d.rd View.plain) 0)
  | none => 0

/-! ### What a command does -/

/-- The results of a command that passed its checks, but for the changes of VERIFY and TRUNCATE to stream lengths. -/
def Dev.engOut (d : Dev) (e : Nat) (k : EngCmd) (bs : List Byte) : EngOut :=
  let rd := d.rdFor k.ctx
  let op := fieldAt bs 2 1
  if e = 0 then (if op = 1 ∨ op = 2 then runConv bs rd else if op = 3 then runPool bs rd else runResample bs rd)
  else if e = 1 then (if op = 1 then runIngest bs rd else if op = 2 then runPlinthConv bs rd else runIngestConv bs rd)
  else if e = 2 then runSieve bs rd
  else if op = 4 then runAttendBwd bs rd
  else if op = 1 then (match d.trcSeq e k bs with
    | some q => runAttendPaged (d.rangeOk q.owner) bs rd q (d.attLen k.ctx q bs)
    | none => runAttendDense bs rd)
  else if op = 2 then
    let len := d.firstLen k.ctx (tSeqNo bs)
    EngOut.ok [(addrAt bs 0x90, verifyResult bs rd (len - min len (tBase bs + acceptedCount bs rd + 1)))] 0
  else EngOut.ok [] 0
/-- The stream lengths after VERIFY or TRUNCATE. -/
def Dev.engCut (d : Dev) (e : Nat) (k : EngCmd) (bs : List Byte) : Dev :=
  if e = 3 ∧ tOp bs = 2 then d.cutSeq k.ctx (tSeqNo bs) (tBase bs + acceptedCount bs (d.rdFor k.ctx) + 1)
  else if e = 3 ∧ tOp bs = 3 then d.cutSeq k.ctx (tSeqNo bs) (fieldAt bs 0x98 4)
  else d

/-- A command that fails a check completes at once (R215). -/
def Dev.engReject (d : Dev) (n e : Nat) (k : EngCmd) (st field : Nat) : Dev :=
  let b := Block.eng n e
  let v := st * 2 ^ 24 + k.ctx * 4096 + field
  (((d.setNat (b.base + 0x34) v).emit b 0x0501 1 k.ctx v).engEnded n e st).completeTicket k.ctx k.ticket (BitVec.ofNat 8 st)
/-- Buffer errors of a command (R217): corrected words, and whether one is uncorrectable. -/
def Dev.engBufErrors (d : Dev) (n e : Nat) (g : EngIssue) (k : EngCmd) : Dev :=
  let b := Block.eng n e
  let d1 := if g.bufCe = 0 then d else (d.orBits (b.base + 0x30) 1).bump (b.base + 0x38) g.bufCe
  match g.bufUe with
  | some a => (d1.orBits (b.base + 0x30) 2).emit b 0x0502 2 k.ctx (a % 2 ^ 32)
  | none => d1
/-- A command that passed its checks runs: what it stores, and what it leaves undefined. -/
def Dev.engRun (d : Dev) (n e : Nat) (k : EngCmd) (bs : List Byte) : Dev :=
  let o := d.engOut e k bs
  let b := Block.eng n e
  let d1 := ((d.engCut e k bs).jobWrites k.ctx o.stores).scramble (d.viewOf k.ctx) o.undef
  let d2 := d1.bump (b.base + 0x2C) o.sat
  let d3 := match o.truncated with
    | some kept => d2.emit b 0x0503 0 k.ctx kept
    | none => d2
  d3.setEng n e { d3.eng n e with run := some { cmd := k, status := o.status, outs := o.stores.map (fun s => (s.1, s.2.length)) ++ o.undef } }

/-- Is a fenced home die behind the command (R260)? -/
def Dev.homeFenced (d : Dev) (e : Nat) (k : EngCmd) (bs : List Byte) : Bool := match d.trcSeq e k bs with
  | some q => d.dieFenced q.home
  | none => false
/-- One step of an engine on a command it has taken. -/
def Dev.engWork (d : Dev) (n e : Nat) (g : EngIssue) (k : EngCmd) : Dev :=
  let v := d.viewOf k.ctx
  match d.accessStatus v k.addr (cmdBytes e) true with
  | some st => ((d.noteRead v k.addr (cmdBytes e)).engEnded n e 1).trigger k.ctx st
  | none =>
    let bs := d.engBytes e k
    match d.engChecks n e k bs (d.rangeOk k.part) with
    | some (st, field) => if d.homeFenced e k bs then (d.engEnded n e 5).completeTicket k.ctx k.ticket stFencedResource else d.engReject n e k st field
    | none =>
      if d.homeFenced e k bs then (d.engEnded n e 5).completeTicket k.ctx k.ticket stFencedResource
      else
        let d1 := (g.mem.filter (fun m => d.engTouches n e k bs (fun a len need => need == 0 && decide (a ≤ m.addr) && decide (m.addr < a + len)))).foldl
          Dev.memEvent d
        match d1.engMemory n e k bs with
        | some (st, d2) => (d2.engEnded n e 1).trigger k.ctx st
        | none =>
          let d2 := d1.engBufErrors n e g k
          match g.bufUe with
          | some _ =>
            ((d2.scramble v ((d2.engOut e k bs).stores.map (fun s => (s.1, s.2.length)))).engEnded n e 1).trigger k.ctx stFaultContext true
          | none => d2.engRun n e k bs

/-- Engine `e` starts the command at the head of a partition's queue, when it is one of operation `op`. -/
def Dev.engStart (d : Dev) (e op : Nat) (g : EngIssue) : Dev :=
  if !d.engFree g.die e || !d.engTurn g.die e g.part then d
  else match d.engHead g.die e g.part with
    | none => d
    | some k => if engOpOf e (d.engBytes e k) = op then (d.engPop g.die e g.part).engWork g.die e g k else d

/-- ENGINE_COMMAND_COMPLETE of an engine: the ticket completes with the status (R113). -/
def Dev.engDoneFx (d : Dev) (n e : Nat) : Dev :=
  let x := d.eng n e
  match x.run with
  | none => d
  | some r => ((d.setEng n e { x with run := none }).engEnded n e r.status).completeTicket r.cmd.ctx r.cmd.ticket (BitVec.ofNat 8 r.status)

/-! ### Loading and releasing sequences (R252–R255, R267, R268) -/

/-- Does a range meet a region that R255 keeps stream tables out of? -/
def Dev.traceryClash (d : Dev) (a n : Nat) : Bool :=
  d.meetsPartition a n || (d.ringAreas ++ d.specAreas ++ [(d.seqTable, 2 ^ 18)] ++ d.streamTables).any (fun r => overlaps a n r.1 r.2)
/-- The checks of a LOAD; 0 when the sequence may become active. -/
def Dev.seqLoadCode (d : Dev) (sn : Nat) (bs : List Byte) : Nat :=
  let q := parseSeq bs
  let recs := (List.range q.streams).map (fun st => q.record (d.rd View.plain) st)
  let tableOk := match d.part q.owner with
    | some p => p.allows q.ptBase q.tableBytes 0 && p.allows q.ptBase q.tableBytes 1 && inDram d.hw q.ptBase q.tableBytes
    | none => false
  if (d.seqOf sn).isSome then 0x89
  else if seqEntryBad bs || (d.part q.owner).isNone || decide (d.hw.dies ≤ q.home) then 4
  else if d.dieFenced q.home then 5
  else if !tableOk || !inDram d.hw q.streamBase q.streamBytes || d.traceryClash q.streamBase q.streamBytes then 4
  else if recs.any (fun r => r != mkRec (recLen r) (recLen r) 0 || decide (q.maxTokens < recLen r)) then 4 else 0
/-- The outcome in TRC_SEQ_CMD_STATUS. -/
def Dev.seqStatus (d : Dev) (sn code : Nat) : Dev := d.setNat (TRC_SEQ_CMD_STATUS 0) (code * 65536 + sn)
def Dev.seqRefused (d : Dev) (sn code : Nat) : Dev := d.emit (.eng 0 3) 0x0512 1 sn code
def Dev.seqLoadFx (d : Dev) (sn : Nat) : Dev :=
  let bs := d.rd View.plain (d.seqTable + 64 * sn) 64
  let code := d.seqLoadCode sn bs
  let d1 := d.seqStatus sn code
  if code ≠ 0 then d1.seqRefused sn code
  else
    let q := parseSeq bs
    { d1 with seqs := FMap.set none d1.seqs sn (some q) }.emit (.eng 0 3) 0x0510 0 sn (q.owner + 256 * q.home)
def Dev.seqReleaseFx (d : Dev) (sn : Nat) : Dev :=
  match d.seqOf sn with
  | none => d.seqStatus sn 0
  | some q =>
    if d.ctxList.any (fun x => x.2.sequences.contains sn) then (d.seqStatus sn 0x89).seqRefused sn 0x89
    else { d.seqStatus sn 0 with seqs := FMap.set none d.seqs sn none }.emit (.eng 0 3) 0x0511 0 sn (recConf (q.record (d.rd View.plain) 0))
/-- A host write of TRC_SEQ_CMD. -/
def Dev.seqCmd (d : Dev) (v : W32) : Dev :=
  let sn := v.toNat % 4096
  match v.toNat / 2 ^ 30 with
  | 1 => d.seqLoadFx sn
  | 2 => d.seqReleaseFx sn
  | _ => d
/-- A host write of a table base register, ignored while a sequence is active. -/
def Dev.seqTableWrite (d : Dev) (k : Nat) (v : W32) : Dev :=
  if !d.activeSeqs.isEmpty then d else d.setReg k (if k = TRC_SEQ_TABLE_LO 0 then v &&& 0xFFFC0000 else v &&& 0xFFFF)

end Sys2Proof.Machine
end

