-- ==== Sys2Proof/Machine/CairnFx.lean ====
section
/-! DEFINITION. Cairn at work (R272, R273, R282–R309): which command is served, the world path, the check path, results, the hand-over of
a fallback to the Quoins, and expert direct control. -/
namespace Sys2Proof.Machine

/-! ### Which command is served (R114, R297) -/

/-- Is Cairn powered, in service, and not under test? -/
def Dev.crnOn (d : Dev) : Bool := d.domainOn 44 && !d.fenced cairnUnit && !d.wrapped cairnUnit && (d.slice 0x110).isNone
/-- A command's bytes, and the tables it names, in the confirmed version (R198). -/
def Dev.crnBytes (d : Dev) (k : EngCmd) : List Byte := d.rd View.plain k.addr 256
def onWorldPath (op : Nat) : Bool := decide (1 ≤ op) && decide (op ≤ 3)
/-- The row that takes a command: one with an unknown OP goes with PLAN. -/
def crnOpOf (bs : List Byte) : Nat := if 1 ≤ cOp bs ∧ cOp bs ≤ 5 then cOp bs else 4
/-- Has the context a Cairn command that runs? -/
def Dev.crnRunning (d : Dev) (c : Nat) : Bool :=
  (match d.crn.check with
    | some r => r.cmd.ctx == c
    | none => false) || (match d.crn.worldRun with
    | some r => r.cmd.ctx == c
    | none => false)
/-- Heads of the queues that are ready for a path: no earlier command of the context runs, and its write epoch is not open. -/
def Dev.crnReady (d : Dev) (world : Bool) : List EngCmd :=
  ((List.range 16).filterMap (fun p => (FMap.get [] d.crn.queues p).head?)).filter
    (fun k => !d.crnRunning k.ctx && (d.viewOf k.ctx).write.isNone && onWorldPath (crnOpOf (d.crnBytes k)) == world)
/-- Rank: class first, then the lower partition index. -/
def Dev.crnRank (d : Dev) (k : EngCmd) : Nat := 16 * d.classOf k.part + (15 - k.part)
/-- The ready command of highest rank. -/
def Dev.crnBest (d : Dev) (world : Bool) : Option EngCmd :=
  (d.crnReady world).foldl (fun b k => match b with
    | some x => if d.crnRank x < d.crnRank k then some k else some x
    | none => some k) none
def Dev.crnPop (d : Dev) (p : Nat) : Dev := { d with crn := { d.crn with queues := FMap.modify [] d.crn.queues p (fun q => q.drop 1) } }

/-! ### Ending (R180, R295, R296) -/

/-- May the header be written: RESULT is a place the partition may write? -/
def Dev.crnResultOk (d : Dev) (k : EngCmd) (bs : List Byte) : Bool := cResult bs % 64 == 0 && decide (cResult bs < 2 ^ 48) && d.rangeOk k.part (cResult bs) 64 1
/-- A header without candidates. -/
def Dev.crnHead (d : Dev) (k : EngCmd) (bs : List Byte) (st : Nat) : ResultHead :=
  { op := cOp bs, status := st, flags := 0, epoch := d.crn.epoch, chosen := if cOp bs = 4 then 0xFFFF else 0, checked := 0, blocked := 0, invalid := 0,
    cycles := 0, rechecks := 0, restarts := min 255 k.restarts, exclusions := 0, hit := none, endNs := d.now, edges := 0 }
/-- A PLAN of class C or D that finds nothing is reported to both Quoins: streams whose record its context has bound enter FALLBACK. -/
def Dev.planFailed (d : Dev) (k : EngCmd) (st : Nat) : Dev :=
  let d1 := d.emit .crn 0x0603 1 k.ctx (st + 256 * k.part)
  let addrs := (d.ctx k.ctx).inv.bindings.map (fun b => b.2.1)
  d1.streamList.foldl (fun d s => if addrs.contains s.2.record then d.fallback s.1 st 0xFFFFFFFF false else d) d1
/-- Counters of a PLAN that ends, and its notice. -/
def Dev.planCounts (d : Dev) (k : EngCmd) (st : Nat) : Dev :=
  let d1 := d.bump CRN_PLAN_COUNT 1
  let d2 := if st = 8 then d1.bump CRN_NOPATH_COUNT 1 else if st = 9 then d1.bump CRN_TIMEOUT_COUNT 1 else d1
  if (st = 8 ∨ st = 9) ∧ 3 ≤ d.classOf k.part then d2.planFailed k st else d2
/-- A command ends: what follows its header, the header, then its ticket, or the completion of its PLAN_REQUEST. -/
def Dev.crnEnd (d : Dev) (k : EngCmd) (bs : List Byte) (tail : List Byte) (h : ResultHead) : Dev :=
  let a := cResult bs
  let d1 := if d.crnResultOk k bs then (if tail.isEmpty then d else d.jobWrites k.ctx [(a + 64, tail)]).jobWrites k.ctx [(a, h.bytes)] else d
  let d2 := if cOp bs = 4 then d1.planCounts k h.status else d1
  match k.ticket with
  | some _ => d2.completeTicket k.ctx k.ticket (BitVec.ofNat 8 h.status)
  | none => (d2.modCtx k.ctx (fun x => { x with res16 := h.epoch, res32 := h.chosen + 65536 * min 0xFFFF (h.cycles / 960) })).endCtx k.ctx (BitVec.ofNat 8 h.status)
/-- A command refused by R273. -/
def Dev.crnReject (d : Dev) (k : EngCmd) (bs : List Byte) (st field : Nat) : Dev :=
  let v := st * 2 ^ 24 + k.ctx * 4096 + field
  ((d.setNat CRN_LAST_REJECT v).emit .crn 0x0601 1 k.ctx v).crnEnd k bs [] (d.crnHead k bs st)
/-- ECLK cycles from a command's first start to its end, within 32 bits. -/
def Dev.crnCycles (d : Dev) : Nat × Dev := let w := d.draw; (w.1.toNat % 2 ^ 32, w.2)

/-! ### Checks (R273) -/

/-- May the partition issue the operation (R272)? -/
def Dev.crnPermitted (d : Dev) (k : EngCmd) (op : Nat) : Bool :=
  if op ≤ 3 then d.rbit CRN_WORLD_WRITERS k.part
  else if op = 5 then k.ticket.isSome && decide (3 ≤ d.classOf k.part) && d.rbit CRN_FALLBACK_WRITERS k.part
  else true
/-- Does a range begin or end where no memory is (R37)? -/
def absentRange (h : Hw) (a n : Nat) : Bool := placeOf h a == .nothing || placeOf h (a + n - 1) == .nothing
/-- What bars a command: the teardown of its context, or a status and the field. -/
inductive CrnBar where
  | fault
  | status (st field : Nat)
  deriving DecidableEq, Repr
def Dev.crnBar (d : Dev) (k : EngCmd) (bs : List Byte) : Option CrnBar :=
  match firstBad (cairnFormChecks bs) with
  | some (st, f) => some (.status st f)
  | none =>
    if (cairnAreas bs).any (fun r => absentRange d.hw r.2.1 r.2.2.1) then some .fault
    else match (cairnAreas bs).find? (fun r => !d.rangeOk k.part r.2.1 r.2.2.1 r.2.2.2) with
      | some r => some (.status 0x92 r.1)
      | none =>
        if !d.crnPermitted k (cOp bs) then some (.status 0x93 2)
        else if 4 ≤ cOp bs ∧ d.crn.world.isNone then some (.status 0x90 2)
        else if cOp bs = 4 ∧ fieldAt bs 0x10 1 = 0 ∧ d.crn.roadmap.isNone then some (.status 0x91 0x10)
        else none

/-! ### Clearing (R301) -/

/-- Every running command ends with a status, and the world and roadmap are cleared; the epoch keeps its value. -/
def Dev.crnClear (d : Dev) (st : Nat) : Dev :=
  let c := d.crn
  let d1 : Dev := { d with crn := { c with check := none, worldRun := none, world := none, roadmap := none, sweepOwed := false, batch := [] } }
  let d2 := match c.check with
    | some r => d1.crnEnd r.cmd r.bytes [] (d1.crnHead r.cmd r.bytes st)
    | none => d1
  match c.worldRun with
  | some r => d2.crnEnd r.cmd r.bytes [] (d2.crnHead r.cmd r.bytes st)
  | none => d2
/-- An uncorrected error of the world store. -/
def Dev.crnStoreUe (d : Dev) (a : Nat) : Dev :=
  let told := (match d.crn.check with
    | some r => [r.cmd.ctx]
    | none => []) ++ (match d.crn.worldRun with
    | some r => [r.cmd.ctx]
    | none => [])
  ((if told.isEmpty then [0xFFFFFFFF] else told).foldl (fun (d : Dev) c => d.emit .crn 0x0607 2 a c) (d.orBits CRN_ERR_STATUS 2)).crnClear stMemoryUncorrectable.toNat
/-- The Quoins' fence takes effect: queued commands end too. -/
def Dev.crnFenced (d : Dev) : Dev :=
  let waiting := (List.range 16).flatMap (fun p => FMap.get [] d.crn.queues p)
  waiting.foldl (fun d k => match k.ticket with
    | some _ => d.completeTicket k.ctx k.ticket stFencedResource
    | none => d.endCtx k.ctx stFencedResource) ({ d with crn := { d.crn with queues := [] } }.crnClear stFencedResource.toNat)
/-- CAIRN_FENCE. -/
def Dev.cairnFenceFx (d : Dev) (ue : Option Nat) : Dev := match ue with
  | some a => if d.domainOn 44 then d.crnStoreUe a else d
  | none => d.declareBoth cairnUnit 3

/-! ### The world path (R281–R284) -/

/-- What a world command prepares, against the world in force; the status where it cannot. -/
def Dev.crnPrepare (d : Dev) (bs : List Byte) : Except Nat Prepared :=
  let rd := d.rd View.plain
  match cOp bs with
  | 1 => (loadWorld bs rd).map (fun w => .world w [] true)
  | 2 => (match d.crn.world with
    | some w => (updateWorld w bs rd).map (fun r => .world r.1 r.2 false)
    | none => .error 0x90)
  | _ => (loadRoadmap bs rd).map (fun r => .roadmap r)
def Dev.crnStartWorld (d : Dev) (k : EngCmd) (bs : List Byte) : Dev := match d.crnPrepare bs with
  | .error st => let c := d.crnCycles; c.2.crnEnd k bs [] { d.crnHead k bs st with cycles := c.1 }
  | .ok p => { d with crn := { d.crn with worldRun := some { cmd := k, bytes := bs, prep := p, committed := false } } }
/-- The running check as a commit leaves it: one that waits for an epoch runs once it is reached; one that runs must re-check. -/
def CrnRun.afterCommit (r : CrnRun) (epoch : Nat) (owed : Bool) : CrnRun :=
  if r.epochWait then { r with epochWait := fieldAt r.bytes 0x12 2 != epoch, full := r.full || owed }
  else { r with committed := true, full := r.full || owed }
/-- A slice boundary commits what the world unit has prepared (R282, R283). -/
def Dev.crnCommit (d : Dev) : Dev :=
  let c := d.crn
  match c.worldRun with
  | none => d
  | some r =>
    if r.committed then d
    else
      let run := some { r with committed := true }
      let note (epoch : Nat) (owed : Bool) : Option CrnRun := c.check.map (fun k => k.afterCommit epoch (owed && cOp k.bytes == 4 && fieldAt k.bytes 0x10 1 == 0))
      match r.prep with
      | .roadmap m =>
        ({ d with crn := { c with roadmap := some m, sweepOwed := true, worldRun := run, check := note c.epoch true, batch := [] } } : Dev).emit .crn 0x0602 0
          (c.epoch + 65536 * 3) m.edges.length
      | .world w changed load =>
        let ep := (c.epoch + 1) % 65536
        let hit (e : REdge) : Bool := e.state != 0 && (load || changed.any (edgeAffected e))
        let n := match c.roadmap with
          | some m => (m.edges.filter hit).length
          | none => 0
        let rm := c.roadmap.map (fun m => { m with edges := m.edges.map (fun e => if hit e then { e with state := 0 } else e) })
        ({ d with crn := { c with world := some w, roadmap := rm, epoch := ep, sweepOwed := c.sweepOwed || load, worldRun := run,
                                  check := note ep load } } : Dev).emit .crn 0x0602 0 (ep + 65536 * cOp r.bytes) n
/-- ENGINE_COMMAND_COMPLETE of the world path: a committed command ends. -/
def Dev.crnWorldDone (d : Dev) : Dev := match d.crn.worldRun with
  | some r =>
    if r.committed then
      let c := ({ d with crn := { d.crn with worldRun := none } } : Dev).crnCycles
      c.2.crnEnd r.cmd r.bytes [] { d.crnHead r.cmd r.bytes 0 with cycles := c.1 }
    else d
  | none => d

/-! ### Edges (R283–R286) -/

def Dev.unknownEdges (d : Dev) : List Nat := match d.crn.roadmap with
  | some m => (m.edges.zipIdx.filter (fun e => e.1.state == 0)).map (·.2)
  | none => []
/-- Give the edges listed their verdicts against the world in force, those that are UNKNOWN. Answers how many. -/
def Dev.edgeVerdicts (d : Dev) (es : List Nat) : Nat × Dev :=
  match d.crn.world, d.crn.roadmap with
  | some w, some m =>
    let due (i : Nat) (e : REdge) : Bool := e.state == 0 && es.contains i
    let n := (m.edges.zipIdx.filter (fun e => due e.2 e.1)).length
    let m1 := { m with edges := m.edges.zipIdx.map (fun e => if due e.2 e.1 then { e.1 with state := edgeVerdict w m e.1, epoch := d.crn.epoch } else e.1) }
    let d1 : Dev := { d with crn := { d.crn with roadmap := some m1, sweepOwed := d.crn.sweepOwed && m1.edges.any (fun e => e.state == 0) } }
    (n, d1.blkCount .crn 2 n)
  | _, _ => (0, d)
/-- Edges that the running PLAN's covered samples depend on. -/
def Dev.neededEdges (d : Dev) : List Nat := match d.crn.check with
  | some r => if cOp r.bytes = 4 ∧ !r.epochWait then
      let p := parsePlan r.bytes (d.rd View.plain)
      if p.covers d.crn.roadmap then p.cands.flatMap (candEdges d.crn.roadmap) else []
    else []
  | none => []
/-- Idle checkers take a batch: the edges a PLAN waits for first, then every UNKNOWN edge in ascending order. -/
def Dev.crnBatch (d : Dev) : Dev :=
  if !d.crn.batch.isEmpty ∨ d.crn.world.isNone then d
  else
    let us := d.unknownEdges
    let need := if us.isEmpty then [] else d.neededEdges
    { d with crn := { d.crn with batch := (us.filter need.contains ++ us.filter (fun i => !need.contains i)).take 4096 } }
/-- EDGE_BATCH_COMPLETE. -/
def Dev.edgeBatchFx (d : Dev) : Dev :=
  if d.crn.batch.isEmpty then d
  else
    let need := match d.crn.check with
      | some r => if r.full then d.crn.batch else d.neededEdges
      | none => []
    let n := (d.unknownEdges.filter (fun i => d.crn.batch.contains i && need.contains i)).length
    let d1 := (d.edgeVerdicts d.crn.batch).2
    { d1 with crn := { d1.crn with batch := [], check := d1.crn.check.map (fun r => { r with edges := r.edges + n }) } }

/-! ### The check path (R288–R295, R299, R302) -/

/-- A check-path command clears the priority queue; what direct control had in it is lost (R289, R305). -/
def Dev.crnTakeQueue (d : Dev) : Dev :=
  { d with crn := { d.crn with pq := [], pqLost := d.crn.pqLost || d.rbit CRN_DIRECT 0 } }
/-- Is epoch `a` newer than `b` (R282)? -/
def epochNewer (a b : Nat) : Bool := let x := (a + 65536 - b % 65536) % 65536; decide (1 ≤ x) && decide (x ≤ 32767)
def Dev.crnStartCheck (d : Dev) (k : EngCmd) (bs : List Byte) : Dev :=
  let d1 := d.crnTakeQueue
  let e := fieldAt bs 0x12 2
  let any := bitOf (fieldAt bs 3 1) 1
  let r : CrnRun :=
    { cmd := { k with firstStart := some (k.firstStart.getD d.clock) }, bytes := bs,
      full := d.crn.sweepOwed && cOp bs == 4 && fieldAt bs 0x10 1 == 0, committed := false,
      epochWait := !any && epochNewer e d.crn.epoch, advanced := !any && e != d.crn.epoch && !epochNewer e d.crn.epoch, edges := 0, delivery := none }
  { d1 with crn := { d1.crn with check := some r } }
/-- Point on the elapsed clock at which a check-path command ends at the latest (R294). -/
def Dev.crnEndAt (d : Dev) (k : EngCmd) (bs : List Byte) : Nat :=
  min (k.firstStart.getD d.clock + 1000 * fieldAt bs 0x34 2) ((d.ctx k.ctx).deadlineAt - 20000)
/-- Verdicts, counts and flags of a PLAN as its header shows them. -/
def Dev.planHead (d : Dev) (r : CrnRun) (p : PlanIn) (o : PlanOut) (w : World) (cycles rechecks edges : Nat) : ResultHead :=
  { d.crnHead r.cmd r.bytes o.status with
    flags := o.flags + (if r.full then 1 else 0) + (if r.advanced then 4 else 0), chosen := o.chosen, checked := countOf 1 o.verdicts + countOf 2 o.verdicts,
    blocked := countOf 2 o.verdicts, invalid := countOf 3 o.verdicts, cycles := cycles, rechecks := rechecks, exclusions := o.exclusions,
    hit := planHit w d.crn.roadmap p o.verdicts, edges := edges }
/-- The PLAN that runs ends with what it has found; `resolved` the candidates with a verdict when the end time cuts it short. -/
def Dev.planEnd (d : Dev) (r : CrnRun) (w : World) (resolved : Option (List Nat)) : Dev :=
  let p := parsePlan r.bytes (d.rd View.plain)
  let v1 := if resolved.isSome then (0, d) else d.edgeVerdicts d.neededEdges
  let o := planOutcome w v1.2.crn.roadmap p resolved
  let v2 := v1.2.edgeVerdicts o.looked
  let c := ({ v2.2 with crn := { v2.2.crn with check := none } } : Dev).crnCycles
  let re := if r.committed then c.2.draw else (0, c.2)
  let d1 := if o.dropped = 0 then re.2 else re.2.emit .crn 0x0608 1 r.cmd.ctx o.dropped
  d1.crnEnd r.cmd r.bytes (planTail o) (v2.2.planHead r p o w c.1 (if r.committed then re.1.toNat % 65536 else 0) (r.edges + v1.1 + v2.1))
/-- A check ends with a status and no verdict. -/
def Dev.checkEnd (d : Dev) (r : CrnRun) (st flags : Nat) : Dev :=
  let c := ({ d with crn := { d.crn with check := none } } : Dev).crnCycles
  c.2.crnEnd r.cmd r.bytes (if cOp r.bytes = 4 then List.replicate 1280 0 else [])
    { d.crnHead r.cmd r.bytes st with flags := flags + (if r.full then 1 else 0) + (if r.advanced then 4 else 0), cycles := c.1, edges := r.edges }
/-- The fallback trajectory of a STORE_FALLBACK, and what blocks it. -/
def Dev.fallbackPlan (d : Dev) (r : CrnRun) : PlanIn := parseFallback r.bytes (d.rd View.plain)
def Dev.fallbackBad (d : Dev) (r : CrnRun) (w : World) : Option (Nat × Nat × Hit) :=
  let p := d.fallbackPlan r
  (trajHit w none p (p.cands.headD [])).map (fun h => (h.1, 0, h.2.1))
/-- ENGINE_COMMAND_COMPLETE of the check path: a PLAN ends; a STORE_FALLBACK that is free begins its delivery, a blocked one ends. -/
def Dev.crnCheckDone (d : Dev) : Dev :=
  match d.crn.check, d.crn.world with
  | some r, some w =>
    if r.epochWait || r.delivery.isSome then d
    else if cOp r.bytes = 4 then (if r.full && d.crn.sweepOwed then d else d.planEnd r w none)
    else
      let p := d.fallbackPlan r
      let invalid := candInvalid (p.cands.headD []) 0
      let hit := d.fallbackBad r w
      if invalid || hit.isSome then
        let c := ({ d with crn := { d.crn with check := none } } : Dev).crnCycles
        let n (b : Bool) : Nat := if b then 1 else 0
        let h0 := d.crnHead r.cmd r.bytes 0x96
        let h1 : ResultHead := { h0 with flags := 4 * n r.advanced, checked := n (!invalid), blocked := n (!invalid), invalid := n invalid }
        c.2.crnEnd r.cmd r.bytes [] { h1 with cycles := c.1, hit := (if invalid then none else hit) }
      else { d with crn := { d.crn with check := some { r with delivery := some (d.ticks, false, false) } } }
  | _, _ => d
/-- PLAN_END_TIME: of the command that runs, or of one that was pre-empted and waits. -/
def Dev.planEndTimeFx (d : Dev) (resolved : List Nat) : Dev :=
  let due (k : EngCmd) (bs : List Byte) : Bool := decide (d.crnEndAt k bs ≤ d.clock)
  let waiting (_ : Unit) : Dev := match (List.range 16).findSome? (fun p => match (FMap.get [] d.crn.queues p).head? with
      | some k => if k.firstStart.isSome && due k (d.crnBytes k) then some k else none
      | none => none) with
    | some k =>
      let bs := d.crnBytes k
      let c := (d.crnPop k.part).crnCycles
      c.2.crnEnd k bs (if cOp bs = 4 then List.replicate 1280 0 else []) { d.crnHead k bs 9 with cycles := c.1 }
    | none => d
  match d.crn.check, d.crn.world with
  | some r, some w =>
    if r.delivery.isSome || !due r.cmd r.bytes then waiting ()
    else if cOp r.bytes = 4 ∧ !r.epochWait then d.planEnd r w (some resolved)
    else d.checkEnd r 9 (if r.epochWait then 8 else 0)
  | _, _ => waiting ()

/-- At a slice boundary a ready check-path command that outranks the running one pre-empts it. -/
def Dev.crnPreempt (d : Dev) : Dev :=
  match d.crn.check, d.crnBest false with
  | some r, some k =>
    if r.delivery.isSome || decide (d.crnRank k ≤ d.crnRank r.cmd) then d
    else
      let back := { r.cmd with restarts := r.cmd.restarts + 1 }
      let c := d.crn
      (({ d with crn := { c with check := none, queues := FMap.modify [] c.queues back.part (fun q => back :: q) } } : Dev).emit .crn 0x0604 0 back.ctx k.ctx).blkCount
        .crn 4 1
  | _, _ => d

/-! ### A command is taken -/

/-- A command that has come to the head of its queue is checked and starts. -/
def Dev.crnWork (d : Dev) (g : EngIssue) (k : EngCmd) (bs : List Byte) : Dev :=
  let areas := (k.addr, 256, 0) :: (cairnAreas bs).map (fun r => (r.2.1, r.2.2.1, r.2.2.2))
  if absentRange d.hw k.addr 256 then d.trigger k.ctx stFaultContext
  else match d.accessStatus View.plain k.addr 256 true with
    | some st => (d.noteRead View.plain k.addr 256).trigger k.ctx st
    | none =>
      match d.crnBar k bs with
      | some .fault => d.trigger k.ctx stFaultContext
      | some (.status st f) => d.crnReject k bs st f
      | none =>
        let d1 := (g.mem.filter (fun m => areas.any (fun r => r.2.2 == 0 && decide (r.1 ≤ m.addr) && decide (m.addr < r.1 + r.2.1)))).foldl Dev.memEvent d
        match areas.findSome? (fun r => (d1.accessStatus View.plain r.1 r.2.1 (r.2.2 == 0)).map (fun st => (r, st))) with
        | some (r, st) => (if r.2.2 = 0 then d1.noteRead View.plain r.1 r.2.1 else d1).trigger k.ctx st
        | none =>
          let d2 := if g.bufCe = 0 then d1 else (d1.orBits CRN_ERR_STATUS 1).bump CRN_STORE_CE_COUNT g.bufCe
          let d3 := if onWorldPath (cOp bs) then d2.crnStartWorld k bs else d2.crnStartCheck k bs
          match g.bufUe with
          | some a => d3.crnStoreUe a
          | none => d3
/-- A Cairn command of operation `op` at the head of a partition's queue starts, if it is the one of highest rank for its path. -/
def Dev.crnStart (d : Dev) (op : Nat) (g : EngIssue) : Dev :=
  let world := onWorldPath op
  if !d.crnOn || (if world then d.crn.worldRun.isSome else d.crn.check.isSome) then d
  else match d.crnBest world with
    | some k =>
      let bs := d.crnBytes k
      if k.part = g.part ∧ crnOpOf bs = op then (d.crnPop k.part).crnWork g k bs else d
    | none => d

/-! ### The hand-over of a fallback (R302, R413, R421) -/

/-- The record as the Quoins take it. -/
def Dev.fallbackSlot (d : Dev) (r : CrnRun) : Nat × Slot :=
  let p := d.fallbackPlan r
  (fieldAt r.bytes 0x10 2 % 4, { points := p.cands.headD [], tStart := p.tStart, dt := p.dt, epoch := d.crn.epoch })
/-- Quoin `q` takes the record into its slot. -/
def Dev.takeSlot (d : Dev) (q n : Nat) (s : Slot) : Dev := d.modQuoin q (fun x => { x with slots := FMap.set none x.slots n (some s) })
/-- Streams in FALLBACK whose slot is refreshed are sent again. -/
def Dev.resendFallback (d : Dev) (n : Nat) : Dev :=
  d.streamList.foldl (fun d s =>
    if (d.stream s.1).fallback && s.2.slot == n then
      let r := d.sendFallback s.1 s.2
      if r.2 then r.1.decideBoth 0x0C else r.1
    else d) d
/-- A STORE_FALLBACK ends; a torn-down job's ticket stands, and no header is written. -/
def Dev.deliveryEnd (d : Dev) (r : CrnRun) (st : Nat) : Dev :=
  let c := ({ d with crn := { d.crn with check := none } } : Dev).crnCycles
  match r.cmd.ticket.bind (d.ticket r.cmd.ctx) with
  | some t => if t.st = .pending then
      c.2.crnEnd r.cmd r.bytes [] { d.crnHead r.cmd r.bytes st with flags := if r.advanced then 4 else 0, checked := 1, cycles := c.1 }
    else c.2
  | none => c.2
/-- FALLBACK_ACK: once both have acknowledged, both take the record. -/
def Dev.fallbackAckFx (d : Dev) (q : Nat) : Dev :=
  match d.crn.check with
  | some r => (match r.delivery with
    | some (t, a, b) =>
      if !(d.quoin q).live then d
      else
        let a := a || q == 0
        let b := b || q != 0
        if a && b then
          let (n, s) := d.fallbackSlot r
          let ok (x : Quoin) : Quoin := { x with slotBad := FMap.set false x.slotBad n false }
          let d1 := ((d.takeSlot 0 n s).takeSlot 1 n s).modQuoin 0 ok |>.modQuoin 1 ok
          ((d1.emit .crn 0x0605 0 r.cmd.ctx (n + 65536 * s.epoch)).resendFallback n).deliveryEnd r 0
        else { d with crn := { d.crn with check := some { r with delivery := some (t, a, b) } } }
    | none => d)
  | none => d
/-- Has the partner of Quoin `q` failed, or sent nothing for 1 ms? -/
def Dev.partnerSilent (d : Dev) (q : Nat) : Bool :=
  (d.quoin (1 - q)).st == .failed || decide (max (d.quoin q).partnerTick (d.quoin q).bootTick + ticksMs 1 ≤ d.ticks)
/-- FALLBACK_ACK_TIMEOUT: 100 µs have passed without both acknowledgements. -/
def Dev.fallbackTimeoutFx (d : Dev) : Dev :=
  match d.crn.check with
  | some r => (match r.delivery with
    | some (t, a, b) =>
      if d.ticks < t + ticksUs 100 then d
      else
        let (n, s) := d.fallbackSlot r
        let d1 := if a then d else d.emit .crn 0x0606 3 12 n
        let d2 := if b then d1 else d1.emit .crn 0x0606 3 13 n
        let alone := if a && d.partnerSilent 0 then some 0 else if b && d.partnerSilent 1 then some 1 else none
        let d3 := match alone with
          | some q => (d2.takeSlot q n s).resendFallback n
          | none => d2
        d3.deliveryEnd r 0x97
    | none => d)
  | none => d

/-! ### Expert direct control (R305) -/

/-- PROBE: the pose is tested at the first slice boundary at which the check path is idle. -/
def Dev.probeCmd (d : Dev) (v : W32) : Dev :=
  if d.rbit CRN_DIRECT 0 && v.getLsbD 0 then ({ d with crn := { d.crn with probe := true } } : Dev).clearBits CRN_PROBE_RESULT (2 ^ 31) else d
def Dev.crnProbe (d : Dev) : Dev :=
  if !d.crn.probe || d.crn.check.isSome then d
  else
    let d1 : Dev := { d with crn := { d.crn with probe := false } }
    match d.crn.roadmap, d.crn.world with
    | none, _ => (d1.setNat CRN_PROBE_RESULT (2 ^ 31 + 2 ^ 29)).setNat CRN_PROBE_ID 0
    | some m, some w =>
      let pose : Pose := ⟨d.rn CRN_PROBE_X, d.rn CRN_PROBE_Y, d.rn CRN_PROBE_YAW⟩
      (match sampleHit w m.fp pose 0 true false 0 1 with
        | some h => (d1.setNat CRN_PROBE_RESULT (2 ^ 31 + 2 ^ 30 + h.1)).setNat CRN_PROBE_ID h.2
        | none => (d1.setNat CRN_PROBE_RESULT (2 ^ 31)).setNat CRN_PROBE_ID 0)
    | some _, none =>
      let x := d1.draw
      (x.2.setNat CRN_PROBE_RESULT (2 ^ 31 + x.1.toNat % 2 * 2 ^ 30 + x.1.toNat / 2 % 256)).setNat CRN_PROBE_ID (x.1.toNat / 2 ^ 32)
/-- A write of CRN_PQ_CMD. -/
def Dev.pqCmd (d : Dev) (v : W32) : Dev :=
  let c := d.crn
  if !d.rbit CRN_DIRECT 0 || c.check.isSome then d
  else match v.toNat % 4 with
    | 1 =>
      let q := pqPush pqCap (d.rn CRN_PQ_KEY, d.rn CRN_PQ_VALUE) c.pq
      { d with crn := { c with pq := q.1, pqOverflow := c.pqOverflow || q.2 } }.blkCount .crn 3 1
    | 2 => (match c.pq with
      | e :: q => ({ d with crn := { c with pq := q, pqPopEmpty := false } } : Dev).setNat CRN_PQ_KEY e.1 |>.setNat CRN_PQ_VALUE e.2
      | [] => { d with crn := { c with pqPopEmpty := true } })
    | 3 => { d with crn := { c with pq := [], pqLost := false, pqOverflow := false, pqPopEmpty := false } }
    | _ => d
/-- A write of CRN_EDGE_INVALIDATE. -/
def Dev.edgeInvalidate (d : Dev) (v : W32) : Dev :=
  match d.crn.roadmap with
  | some m => (match m.edges[v.toNat % 2 ^ 18]? with
    | some e => if d.rbit CRN_DIRECT 0 then
        { d with crn := { d.crn with roadmap := some { m with edges := m.edges.set (v.toNat % 2 ^ 18) { e with state := 0 } } } } else d
    | none => d)
  | none => d

/-- CAIRN_SLICE_BOUNDARY: commit, edge batches, pre-emption, a probe that waits. -/
def Dev.crnSliceFx (d : Dev) : Dev := if d.crnOn then d.crnCommit.crnBatch.crnPreempt.crnProbe else d

end Sys2Proof.Machine
end

