-- ==== Sys2Proof/Machine/ReadReg.lean ====
section
/-! DEFINITION. What a read of a BAR0 register answers (R5, R6, R10): the header of every block, the registers that show what the units
hold, and the three reads that change something (R386, R394, R527). -/
namespace Sys2Proof.Machine

/-- A field: bit `i` where `b`. -/
def bitAt (i : Nat) (b : Bool) : Nat := if b then 2 ^ i else 0

/-! ### The header (R10, R41, R547) -/

/-- VERSION: generation 1, major 1, minor 0, and the stepping of the die that holds the block. -/
def Block.version (h : Hw) (b : Block) : Nat := 0x01010000 + h.stepping b.die
/-- CAPS, where a chapter gives it; 0 in the blocks whose chapter gives none (log entry 20). -/
def Block.capsReg (h : Hw) : Block → Nat
  | .key => 0 | .jfe => 0 | .host => 0 | .crs _ => 0
  | .plb => 0x810 | .hod => 0x1820 | .eth => 0x806 | .aphy => 0x410 | .crn => 0x004A0A4F | .ngd => 0x604 | .bwr => 0x810
  | .pwr => 10 * h.dies + 8 + 0x38500 | .gau => 0x1008 | .qn _ => 0x2440 | .mrt _ => 0x800400 | .smc _ _ => 0x1108
  | .eng _ e => [0x7FE7, 0x10FF, 0xFFD70].getD e 0x1F1CF | .pav _ => 0x48C8
  | .arc n _ => 8 + 256 * (if versionOf (h.stepping n) = 2 then 3 else 1) | .ash _ _ => 0x100780

/-! ### Clusters and cores (R81–R86) -/

/-- ASH_CORE_STATE of a core. -/
def Dev.coreReg (d : Dev) (g : Nat) : Nat :=
  let c := d.core g
  if c.st = .poweredDown then 0x60000000
  else
    let st := if c.st = .underTest then 4 else if d.coreFenced g then 5 else if c.st = .zeroing then 3
      else if c.st = .running then (if c.wait = .none then 1 else 2) else 0
    let ctx := if st = 1 ∨ st = 2 then c.ctx.getD 0 else 0
    st * 2 ^ 28 + ctx * 65536 + bitAt 15 (d.isJoined g) + c.regs.flags.toNat * 256 + c.fault.toNat
/-- The partition that holds a cluster: that of the job on it, else that of the first open figure that names it (log entry 20). -/
def Dev.clusterOwner (d : Dev) (n c : Nat) : Option Nat :=
  let k := 8 * n + c
  let job := d.ctxList.find? (fun x => x.2.state.holds && bitOf x.2.inv.clusters k)
  match job with
  | some x => some x.2.part
  | none => ((d.jfe.opened.filterMap d.figure).find? (fun f => f.type == 0 && bitOf f.clusters k)).map (·.part)
def Dev.ashReg (d : Dev) (n c o : Nat) : Option Nat :=
  let k := 8 * n + c
  let cores := clusterCores k
  if o = 0x10 then
    let owner := d.clusterOwner n c
    some ((if d.domainOn (10 * n + c) then 2 ^ 28 else 0) + bitAt 27 owner.isSome + owner.getD 0 * 65536 +
      (cores.filter d.coreFenced).length * 256 + ((List.range 64).filter (fun i => d.isJoined (128 * k + 2 * i))).length)
  else if o = 0x14 ∨ o = 0x18 then some (bitsSum ((List.range 32).filter (fun i => d.isJoined (128 * k + 2 * (i + (if o = 0x14 then 0 else 32))))))
  else if 0x20 ≤ o ∧ o < 0x30 then some (bitsSum ((List.range 32).filter (fun i => d.coreFenced (128 * k + 32 * ((o - 0x20) / 4) + i))))
  else if 0x1010 ≤ o ∧ o < 0x1210 then some (d.coreReg (128 * k + (o - 0x1010) / 4))
  else none

/-! ### The job front-end and the rings (R160, R189, R211) -/

def Dev.modelReg (d : Dev) (slot : Nat) : Nat :=
  let m := d.model slot
  bitAt 31 m.loaded + (if m.loaded then m.part * 65536 else 0) + (if m.gen = 0 then 0 else 256 * m.gen + slot)
def Dev.epochReg (d : Dev) (e : Nat) : Nat :=
  let x := d.epoch e
  let st := match x.state with
    | .free => 0 | .opened => 1 | .confirmed => 2 | .squashed => 3
  st * 2 ^ 30 + x.owner % 16 * 2 ^ 24 + x.reason % 256 * 65536 + min 0xFFFF x.writers.length
def Dev.jfeReg (d : Dev) (o : Nat) : Option Nat :=
  let j := d.jfe
  let origin := if j.quad.isSome then d.toPlumb j.origin else 0
  match o with
  | 0x114 => some (d.ctx (d.rf JFE_CTX_SEL 11 0)).word0
  | 0x118 => some (bitAt 31 j.quad.isSome + bitAt 30 j.quadNext.isSome + (match j.quad with
      | some q => q.figures.length
      | none => 0))
  | 0x11C => some j.frameCount.toNat
  | 0x120 => some (origin % 2 ^ 32)
  | 0x124 => some (origin / 2 ^ 32)
  | 0x128 => some (bitsSum ((List.range 32).filter j.opened.contains))
  | 0x12C => some (bitsSum ((List.range 32).filter (fun i => j.opened.contains (32 + i))))
  | 0x130 => some (bitsSum ((List.range 16).filter (fun p => (d.part p).isSome)))
  | 0x20 => some (bitAt 31 (d.ringOn 0) + bitAt 30 (d.rbit HOST_SQ_CFG 30) + bitAt 29 d.blocked + bitAt 28 d.holdFull +
      bitAt 27 (d.rbit JFE_ACCEPT_STATUS 27) + min 256 j.held)
  | 0x2C => some (d.modelReg (d.rf JFE_MODEL_SEL 7 0))
  | 0x154 => some (d.epochsOpen * 256 + j.warmup)
  | 0x15C => some (d.epochReg (d.rf JFE_EPOCH_SEL 7 0))
  | _ => none
/-- The host block: link state, the oldest waiting record, and the MSI-X table and pending bits (R184), whose mask bits reset to 1
(log entry 16). -/
def Dev.hostReg (d : Dev) (o : Nat) : Option Nat :=
  let l := d.link
  if o = 0x68 then some (bitAt 31 l.up + bitAt 30 l.bme + (if l.up then l.rate % 16 * 256 + l.width % 256 else 0))
  else if o = 0x6C then some d.eqNext.toNat
  else if 0x4000 ≤ o ∧ o < 0x4400 then
    some (if o % 16 = 12 then bitAt 0 (d.msixMasked ((o - 0x4000) / 16)) else d.rn (0x20000 + o))
  else if o = 0x5000 ∨ o = 0x5004 then some (d.rn (0x20000 + o))
  else none

/-! ### Engines, Tracery and Cairn (R246, R268, R307) -/

/-- Queue levels of partitions 4j to 4j + 3. -/
def levelReg (level : Nat → Nat) (j : Nat) : Nat := ((List.range 4).map (fun i => 256 ^ i * level (4 * j + i))).sum
def Dev.seqReg (d : Dev) (sn : Nat) : Nat :=
  match FMap.get none d.seqs sn with
  | none => 0
  | some q =>
    let rd := d.rd View.plain
    2 ^ 31 + bitAt 30 ((List.range q.streams).any (fun st => recEpoch (q.record rd st) != 0)) + q.owner % 16 * 2 ^ 24 + q.home % 256 * 65536 +
      recConf (q.record rd 0) % 65536
def Dev.engReg (d : Dev) (n e o : Nat) : Option Nat :=
  let x := d.eng n e
  if o = 0x10 then
    some (bitAt 31 x.run.isSome + bitAt 30 (d.engFenced n e) + bitAt 29 x.underTest + (match x.run with
      | some r => r.cmd.part % 16 * 2 ^ 24 + r.cmd.ctx % 4096 * 4096
      | none => 0))
  else if 0x14 ≤ o ∧ o < 0x24 then some (levelReg (fun p => (FMap.get [] x.queues p).length) ((o - 0x14) / 4))
  else if e = 3 ∧ 0x40 ≤ o ∧ o < 0x5C then
    (if n ≠ 0 then some 0 else if o = 0x54 then some (d.seqReg (d.rf (TRC_SEQ_SEL 0) 11 0)) else if o = 0x58 then some d.activeSeqs.length else none)
  else none
def Dev.crnReg (d : Dev) (o : Nat) : Option Nat :=
  let c := d.crn
  let world (f : World → Nat) : Option Nat := some (match c.world with
    | some w => f w
    | none => 0)
  let map (f : Roadmap → Nat) : Option Nat := some (match c.roadmap with
    | some m => f m
    | none => 0)
  match o with
  | 0x10 => some (bitAt 31 c.check.isSome + bitAt 30 c.world.isSome + bitAt 29 c.roadmap.isSome + bitAt 28 (d.fenced cairnUnit) + bitAt 27 c.sweepOwed +
      (match c.check with
        | some r => r.cmd.part % 16 * 2 ^ 20 + r.cmd.ctx % 4096 * 256
        | none => 0))
  | 0x14 => some (c.epoch % 65536)
  | 0x20 => world (fun w => w.boxes.length % 8192 + w.spheres.length % 8192 * 65536)
  | 0x24 => world (fun w => w.tris.length)
  | 0x28 => world (fun w => w.tree.nodes)
  | 0x2C => map (fun m => m.nodes.length)
  | 0x30 => map (fun m => m.edges.length)
  | 0x34 => some d.unknownEdges.length
  | 0x38 => some (levelReg d.cairnQueued 0)
  | 0x3C => some (levelReg d.cairnQueued 1)
  | 0x40 => some (levelReg d.cairnQueued 2)
  | 0x44 => some (levelReg d.cairnQueued 3)
  | 0x64 => map (fun m => match m.edges[d.rf CRN_EDGE_SEL 17 0]? with
      | some e => e.state * 2 ^ 30 + e.epoch % 65536
      | none => 0)
  | 0x810 => some 0
  | 0x828 => some 0
  | 0x82C => some (bitAt 31 (c.pq.isEmpty || c.pqPopEmpty) + bitAt 30 c.pqLost + bitAt 29 c.pqOverflow + c.pq.length % 2 ^ 17)
  | 0x830 => some 0
  | _ => none

/-! ### Memory and the Bandwidth Regulator (R338–R341) -/

def Dev.capField (d : Dev) (s : Nat) : Nat := 4 - d.capQuarters s
def Dev.smcReg (d : Dev) (n i o : Nat) : Option Nat :=
  let s := 2 * n + i
  let st := d.stack s
  let p := d.diePower n
  match o with
  | 0x10 => some (bitAt 31 st.trained + bitAt 30 st.selfRefresh + d.capField s * 2 ^ 28 + bitAt 27 (p.known && decide (95 * 16 < p.junction)))
  | 0x14 => some ((List.range 8).map (fun l => 16 ^ l * (d.layerSt s l).code)).sum
  | 0x18 => some (st.spare.code * 2 ^ 30 + (if st.spare = .migrating ∨ st.spare = .inUse then st.spareLayer else 0))
  | 0x1C => some st.mig
  | 0x38 => some st.lost
  | _ => none
/-- State of the region MRT_REGION_SEL names, on a die that holds its primary copy or its mirror copy. -/
def Dev.regionReg (d : Dev) (n : Nat) : Nat :=
  let sel := d.rf (MRT_REGION_SEL n) 7 0
  match FMap.get none d.mirrors sel with
  | some m => if m.base / dramDie = n ∨ m.copy / dramDie = n then m.st.code else 0
  | none => 0
def Dev.mrtReg (d : Dev) (n o : Nat) : Option Nat :=
  let sem := d.sem (1024 * n + d.rf (MRT_SEM_SEL n) 9 0)
  match o with
  | 0x14 => some (d.taggedOn n + bitAt 31 (d.dieFenced n))
  | 0x24 => some (bitAt 31 sem.holder.isSome + bitAt 30 sem.poisoned + min 0x3FFF sem.waiters.length * 65536 + (match sem.holder with
      | some h => h.2 % 4096
      | none => 0))
  | 0x28 => some (d.sems.filter (fun e => semDie e.1 == n && e.2.holder.isSome)).length
  | 0x38 => some (((copiesOf d.mirrors).filter (fun c => c.1 / dramDie == n)).map (fun c => c.2 / 4096)).sum
  | 0x40 => some (d.regionReg n)
  | _ => none
def Dev.bwrReg (d : Dev) (o : Nat) : Option Nat :=
  let stackNos := List.range 8
  let gone (s : Nat) : Bool := decide (d.hw.dies ≤ s / 2) || d.dieFenced (s / 2)
  let cut (i : Nat) : Bool := decide (FMap.get 0 d.bw.gForce i < FMap.get 0 d.bw.gSet i)
  if o = 0x1C then
    some (bitAt 31 (stackNos.any (fun s => FMap.get false d.bw.critical s)) +
      256 * bitsSum (stackNos.filter (fun s => (List.range 16).any (fun k => cut (8 * k + s)))) +
      bitsSum (stackNos.filter (fun s => decide (d.stackCap s < d.admitCap s))))
  else if 0x40 ≤ o ∧ o < 0x60 then
    let s := (o - 0x40) / 4
    some (bitAt 31 (FMap.get false d.bw.critical s) + bitAt 30 (gone s) + (if gone s then 0 else d.capField s * 2 ^ 28) +
      (((d.stack s).layers.filter (· == .fenced)).length) * 2 ^ 24 + FMap.get 0 d.bw.capacity s % 2 ^ 14)
  else if 0x300 ≤ o ∧ o < 0x500 then
    let i := (o - 0x300) / 4
    some (bitAt 31 (cut i) + FMap.get 0 d.bw.budget i % 2 ^ 14 * 65536 + FMap.get 0 d.bw.gForce i % 2 ^ 14)
  else none

/-! ### Arch ports and the Keystone global block (R363, R364, R505, R529) -/

def Dev.arcReg (d : Dev) (n i o : Nat) : Option Nat :=
  let p := d.port n i
  if o = 0x10 then
    some (if !connected d.hw n i then 0
      else p.st.code * 2 ^ 29 + bitAt 28 p.underTest + bitAt 9 p.lane.isSome + p.lane.getD 0 % 512)
  else if o = 0x14 then
    some (match p.peer with
      | some (die, stepping, version) => if connected d.hw n i then 2 ^ 31 + version % 16 * 65536 + stepping % 256 * 256 + die % 256 else 0
      | none => 0)
  else if o = 0x24 then some ((p.borrowed.map (·.2)).sum % 2048)
  else if 0x40 ≤ o ∧ o < 0x80 then some (p.pools.getD ((o - 0x40) / 4) 0 % 2048 * 65536 + d.rf (ARC_POOL n i ((o - 0x40) / 4)) 10 0)
  else none
def Dev.keyReg (d : Dev) (o : Nat) : Option Nat :=
  let b := d.sec.boot
  match o with
  | 0x10 => some (b.stage + 256 * b.detail)
  | 0x14 => some (min 0xFFFFF b.time)
  | 0x18 => some b.slots
  | 0x48 => some (if d.rn KEY_FEATURE_LEVEL = 0 then 0 else ((List.range d.hw.dies).map (fun n => 256 ^ n * d.hw.stepping n)).sum)
  | 0x804 => some 0
  | 0x808 =>
    let u := d.ot d.otSel
    some (bitAt 31 (u.st == .underTest) + u.st.code * 2 ^ 29 + u.result % 256 * 65536 + u.detail % 65536)
  | 0x80C => some d.otActive
  | _ => none

/-! ### Plumb and ingest (R395–R399) -/

def Dev.plbReg (d : Dev) (o : Nat) : Option Nat :=
  let p := d.plb
  if o = 0x14 then some p.latchHi.toNat
  else if o = 0x18 then some p.latchFrac.toNat
  else if o = 0x34 then some (p.sync.code * 2 ^ 30 + min 0xFFFF ((d.ticks - p.syncSince) / ticksMs 1000))
  else if o = 0x38 then some (satNs p.offset)
  else if 0x100 ≤ o ∧ o < 0x300 then
    let i := (o - 0x100) / 0x20
    let t := d.trig i
    let f := o % 0x20
    (if f = 0x10 then some (d.rn (PLB_TRIG_CTL i) + bitAt 27 t.late)
     else if f = 0x14 then some (t.next.getD 0 % 2 ^ 32)
     else if f = 0x18 then some (t.next.getD 0 / 2 ^ 32)
     else if f = 0x1C then some (min 0xFFFFFFFF t.fired) else none)
  else if 0x300 ≤ o ∧ o < 0x380 then
    let i := (o - 0x300) / 0x10
    (if o % 0x10 = 8 then some (FMap.get 0 p.capHi i) else if o % 0x10 = 12 then some (bitAt 8 (FMap.get false p.capOver i) + (d.caps i).length) else none)
  else none
/-- The Hod registers; those from 0x20 on are of the selected queue. -/
def Dev.hodReg (d : Dev) (o : Nat) : Option Nat :=
  let q := d.rf HOD_Q_SEL 4 0
  let x := d.hodQ q
  let qs := List.range 32
  match o with
  | 0x10 => some d.streamsOn
  | 0x18 => some (bitsSum (qs.filter (fun i => !(d.hodQ i).held.isEmpty)))
  | 0x1C => some (bitsSum (qs.filter (fun i => decide (d.rf (hodKey i 0x4C) 16 0 ≤ (d.hodQ i).held.length))))
  | 0x54 => some (bitAt 31 x.enabled + bitAt 30 x.fenced + x.held.length % 2 ^ 17)
  | 0x58 => some ((x.seq + 0xFFFFFFFF) % 2 ^ 32)
  | 0x20 => some (bitAt 31 x.enabled + d.rn (hodKey q o) % 2 ^ 31)
  | _ => if 0x20 ≤ o ∧ o < 0x64 then some (d.rn (hodKey q o)) else none
def Dev.ethReg (d : Dev) (o : Nat) : Option Nat :=
  let p := d.rf ETH_PORT_SEL 2 0
  let f := d.rf ETH_FILT_SEL 2 0
  if p ≥ 6 then (if 0x14 ≤ o ∧ o < 0x5C ∧ o ≠ 0x38 then some 0 else none)
  else if o = 0x18 then some (if (d.ethPort p).link then 2 ^ 31 + (d.ethPort p).rate % 8 else 0)
  else if 0x3C ≤ o ∧ o < 0x4C then some (d.rn (filtKey p f o))
  else if 0x14 ≤ o ∧ o < 0x5C ∧ o ≠ 0x38 then some (d.rn (ethKey p o))
  else none
def Dev.aphyReg (d : Dev) (o : Nat) : Option Nat :=
  let p := d.rf APHY_PORT_SEL 3 0
  let s := d.rf APHY_VC_SEL 1 0
  if o = 0x18 then some (if (d.aphyPort p).link then 2 ^ 31 + (d.aphyPort p).gear % 8 else 0)
  else if 0x34 ≤ o ∧ o < 0x40 then some (d.rn (slotKey p s o))
  else if (0x14 ≤ o ∧ o < 0x48 ∧ o ≠ 0x30) ∨ (0x100 ≤ o ∧ o < 0x140) then some (d.rn (aphyKey p o))
  else none

/-! ### Quoins, Pavane, power, Nguldoel, Gauge (R429, R452, R482, R507, R527) -/

def Dev.qnReg (d : Dev) (q o : Nat) : Option Nat :=
  let x := d.quoin q
  let n := d.rf (QN_STREAM_SEL q) 5 0
  let s := d.stream n
  match o with
  | 0x10 => some (x.st.code * 2 ^ 30 + bitAt 29 x.stopped + bitAt 28 x.partnerOk + bitAt 27 d.qn.table.isSome + (if x.st = .safe then x.reason % 256 else 0))
  | 0x14 => some (if q = 0 then d.sec.quoinA.version else d.sec.quoinB.version)
  | 0x24 => some (x.result % 256)
  | 0x2C => some (bitAt 31 (d.streamCfg n).isSome + bitAt 30 s.fallback + bitAt 29 s.opened.isSome + s.lastReason % 256 * 65536 + min 0xFFFF s.lastAge)
  | 0x30 => some (s.lastSeq % 2 ^ 32)
  | 0x38 => some (x.busOff % 4 + 256 * min 255 x.canLost)
  | 0x3C =>
    let has (k : Nat) : Option Slot := if FMap.get false x.slotBad k then none else FMap.get none x.slots k
    some (bitsSum ((List.range 4).filter (fun k => (has k).isSome)) + (match d.streamCfg n with
      | some c => (match has c.slot with
        | some r => r.epoch % 65536 * 65536
        | none => 0)
      | none => 0))
  | 0x40 => some x.oper.toNat
  | 0x44 => some x.lossDev.toNat
  | 0x48 => some x.lossSys.toNat
  | 0x4C => some x.commanded.toNat
  | 0x50 => some (min 0xFFFFFFFF x.safeCount)
  | _ => none
def Dev.pavReg (d : Dev) (n o : Nat) : Option Nat :=
  let p := d.pav
  let clusters := (List.range 8).filter (fun c => (d.slice (8 * n + c)).isSome)
  let engines := (List.range 4).filter (fun e => (d.slice (0x100 + 4 * n + e)).isSome)
  let eu (e : Nat) : Nat := 2 ^ 31 + 4 * n + e
  let g := 1024 * n + d.rf (PAV_CORE_SEL n) 9 0
  let b := d.bandsOf g
  let i := 512 * n + d.rf (PAV_COUPLE_SEL n) 8 0
  let c := d.couple i
  let cell := FMap.get (0, 0) p.cell n
  if o = 0x18 then
    some (bitAt 31 ((d.jfe.opened.filterMap d.figure).any (fun f => f.type == 1)) + bitAt 30 p.startup + bitsSum clusters * 65536 +
      bitsSum engines * 256 + (p.requests.filter (fun r => r.die == n)).length % 256)
  else if o = 0x1C then some (cell.1 + 16 * cell.2)
  else if o = 0x24 then
    some (bitAt 31 (d.withdrawn g) + bitAt 30 (d.clusterFenced n (coreCluster g) || d.fenced (coreUnit g)) +
      bitAt 29 (b.cells != 0 && !b.outright) + bitAt 28 (d.bandActive g) + (if (d.fullPass g).isSome then min 0xFFFF (d.ageMs g) else 0))
  else if o = 0x28 then some b.cells
  else if o = 0x30 then
    some (bitAt 31 c.pairFenced + bitAt 30 c.cmpDisabled + bitAt 29 (d.isJoined (2 * i)) + bitAt 28 c.armed + c.lanes % 4096 * 4096 +
      min 255 (framesIn d.frameNo c.frames).length)
  else if o = 0x34 then
    some (bitsSum ((List.range 4).filter (fun e => d.withdrawn (eu e))) + 16 * bitsSum ((List.range 4).filter (fun e => d.engFenced n e)) +
      256 * bitsSum engines)
  else if 0x38 ≤ o ∧ o < 0x48 then some (min 0xFFFF (d.ageMs (eu ((o - 0x38) / 4))))
  else if o = 0x48 then some ((List.range 1024).filter (fun k => d.withdrawn (1024 * n + k))).length
  else if 0x60 ≤ o ∧ o < 0x74 then
    (if n ≠ 0 then some 0 else if o = 0x70 then some (bitAt 30 p.loaded + bitAt 29 p.noLog + p.result % 256 * 65536 + p.entries % 8192) else none)
  else none
def Dev.pwrReg (d : Dev) (o : Nat) : Option Nat :=
  let p := d.pwr
  let sent (i : Nat) : Nat := bitAt 31 (d.sent i).valid + wrap 16 (d.sent i).value
  let here (n : Nat) : Bool := (powerDies d.hw).contains n
  if o = 0x10 then
    some (bitAt 31 p.flowStop + bitAt 30 p.worstCase + bitAt 29 p.standby + bitAt 28 ((List.range 3).any (fun i => (d.sent i).lost)) +
      bitAt 27 p.flowLow + bitAt 26 p.implausible + min 0xFFFF (p.package / 10))
  else if (o = 0x14 ∨ o = 0x1C) ∧ !d.keystoneUp then some 0
  else if o = 0x14 then some (min 0xFFFF (p.pLim / 700) + min 0xFFFF (d.pAllow / 700) * 65536)
  else if o = 0x18 then some (((powerDies d.hw).map (fun n => 16 ^ n * (d.diePower n).state)).sum)
  else if o = 0x1C then some d.causeReg
  else if o = 0x24 ∨ o = 0x28 then some (bitsSum ((List.range (if o = 0x24 then 32 else 16)).filter (fun k => d.domainOn (k + (if o = 0x24 then 0 else 32)))))
  else if 0x40 ≤ o ∧ o < 0x54 then let n := (o - 0x40) / 4; some (if here n then min 0xFFFF (d.diePower n).power else 0)
  else if 0x60 ≤ o ∧ o < 0x74 then
    let n := (o - 0x60) / 4
    let ps := List.range (pairsOf n)
    some (if !here n then 0
      else 2 ^ 24 * bitsSum (ps.filter (fun k => (d.sensor n k 0).lost && (d.sensor n k 1).lost)) +
        65536 * bitsSum (ps.filter (fun k => (d.thermalPair n k).flagged)) + wrap 16 (d.diePower n).junction)
  else if o = 0x84 then
    let s := d.rn THM_SENSOR_SEL
    let n := bitsOf s 2 0
    let x := d.sensor n (bitsOf s 6 4) (bitsOf s 8 8)
    some (if here n ∧ bitsOf s 6 4 < pairsOf n then bitAt 31 x.lost + wrap 16 (x.last.getD 0) else 0)
  else if o = 0x90 then some (sent 0)
  else if o = 0x94 then some (sent 1)
  else if o = 0x98 then some (sent 2)
  else none
def Dev.ngdReg (d : Dev) (o : Nat) : Option Nat :=
  let s := d.sec
  let f := s.fuses
  match o with
  | 0x10 => some (d.lifecycle * 2 ^ 30 + bitAt 29 s.keys + s.debug * 2 ^ 27 + bitAt 26 s.lockedOut + s.identity % 4 * 2 ^ 24 + min 3 s.action * 256)
  | 0x18 => some (bitAt 31 s.busy + s.result % 256)
  | 0x30 => some (if s.fusesRead then ((List.range 6).map (fun i => 4 ^ i * d.alarmResponse i)).sum else 0)
  | 0x34 => some s.alarms
  | 0x38 => some (if s.fusesRead then f.minReg else 0)
  | 0x3C => some s.stage1.version
  | 0x40 => some s.main.version
  | 0x44 => some (bitsSum ((List.range 2).filter (fun i => (f.modelKeys.getD i []).any (· != 0))) + 4 * (f.revoked % 4) +
      256 * (min 255 (d.jfe.models.filter (fun m => m.2.loaded && m.2.keyed)).length))
  | 0x48 => some s.outSize
  | _ => none
def Dev.gauReg (d : Dev) (o : Nat) : Option Nat :=
  if 0x20 ≤ o ∧ o < 0x30 then some (d.blkEvtRead ((o - 0x20) / 4))
  else match o with
    | 0x48 => some d.gau.seq.toNat
    | 0x4C => some (bitAt 31 d.gau.busy + bitAt 30 d.dumpOn)
    | 0x50 => some (min 0xFFFFFFFF d.gau.skipped)
    | 0x5C => some d.gau.readHi.toNat
    | _ => none

/-! ### Reading -/

/-- The registers of a block that show what a unit holds. -/
def Dev.shownReg (d : Dev) (o : Nat) : Block → Option Nat
  | .key => d.keyReg o | .jfe => d.jfeReg o | .host => d.hostReg o | .plb => d.plbReg o | .hod => d.hodReg o | .eth => d.ethReg o
  | .aphy => d.aphyReg o | .crn => d.crnReg o | .ngd => d.ngdReg o | .bwr => d.bwrReg o | .pwr => d.pwrReg o | .gau => d.gauReg o
  | .qn q => d.qnReg q o | .crs _ => none | .mrt n => d.mrtReg n o | .smc n i => d.smcReg n i o | .eng n e => d.engReg n e o
  | .pav n => d.pavReg n o | .arc n i => d.arcReg n i o | .ash n c => d.ashReg n c o
/-- What a register of a block shows: header, a unit's state, 0 in a write-only one, else the value it holds (R5, R6). -/
def Dev.blockReg (d : Dev) (b : Block) (o : Nat) : Nat :=
  if o = 0 then b.id
  else if o = 4 then b.version d.hw
  else if o = 8 then b.capsReg d.hw
  else if o = 0xC then d.rn (b.base + 0xC)
  else match d.shownReg o b with
    | some v => v
    | none => (match findReg b.regs o with
      | some r => if r.acc = .wo then 0 else d.rn (b.base + o)
      | none => 0)

/-- Do the blocks of BAR0 serve now (R503)? At an error stage only the Keystone global block and Nguldoel do. -/
def Dev.serves (d : Dev) (b : Block) : Bool :=
  let s := d.sec.boot.stage
  s == 0x80 || (decide (0xE0 < s) && (b == .key || b == .ngd))

/-- ARC_PART_FLITS is a matter of traffic the model does not count (log entry 61): free, and 0 while PART_COUNT is disabled. -/
def Dev.partFlits (d : Dev) (n i : Nat) : Nat × Dev :=
  if d.rbit KEY_FEATURE_DISABLED 1 || !connected d.hw n i then (0, d) else let w := d.draw; (w.1.toNat % 2 ^ 32, w.2)

/-- Read the 32-bit register at a BAR0 offset. PLB_TIME_LO latches its fellows, PLB_CAP_STAMP_LO removes the stamp, GAU_READ_LO reads the
counter now. -/
def Dev.readReg (d : Dev) (off : Nat) : Nat × Dev :=
  match blockAt d.hw off with
  | none => (0, d)
  | some b =>
    let o := off - b.base
    if !d.serves b then (0, d)
    else match b with
      | .plb =>
        if o = 0x10 then let r := d.timeRead; (r.1.toNat, r.2)
        else if 0x300 ≤ o ∧ o < 0x380 ∧ o % 16 = 4 then let r := d.capRead ((o - 0x300) / 16); (r.1.toNat, r.2)
        else (d.blockReg b o, d)
      | .gau => if o = 0x58 then d.gauReadFx else (d.blockReg b o, d)
      | .arc n i => if 0x80 ≤ o ∧ o < 0xC0 then d.partFlits n i else (d.blockReg b o, d)
      | b => (d.blockReg b o, d)

end Sys2Proof.Machine
end

