-- ==== Sys2Proof/Machine/RegWrite.lean ====
section
/-! DEFINITION. What a write of a BAR0 register does (R3–R11): access types, LOCK, expert level, the ranges and conditions that the register
rules of each chapter set, and the actions that some registers trigger. -/
namespace Sys2Proof.Machine

/-! ### Storing with a range -/

/-- Keep the bits of a write that are not reserved. -/
def Dev.putMasked (d : Dev) (k : Nat) (r : RegDef) (v : W32) : Dev := d.setReg k (v &&& r.mask)
/-- Store a value within [lo, hi]; ignore another. -/
def Dev.putWithin (d : Dev) (k lo hi v : Nat) : Dev := if lo ≤ v ∧ v ≤ hi then d.setNat k v else d
/-- Store the nearest value within [lo, hi]. -/
def Dev.putClamped (d : Dev) (k lo hi v : Nat) : Dev := d.setNat k (max lo (min hi v))
/-- A field within [lo, hi], else what it was. -/
def Dev.fieldWithin (d : Dev) (k hb lb lo hi v : Nat) : Nat :=
  let x := bitsOf v hb lb
  2 ^ lb * (if lo ≤ x ∧ x ≤ hi then x else d.rf k hb lb)

/-! ### Who writes (R6, R7) -/

def writerCode : Writer → Nat
  | .host => 0xFFFF
  | .quoin => 0xFFFE
  | .ctx n => n
/-- Is expert enabled for the writer? A Quoin has no expert enable (log entry 22). -/
def Dev.expertFor (d : Dev) : Writer → Bool
  | .host => d.rbit HOST_CFG 0
  | .quoin => false
  | .ctx n => match d.partOfCtx n with
    | some p => p.expert
    | none => false
/-- LOCKED_WRITE or EXPERT_DENIED: at most one per register in 1 ms, with the refusals that wrote none. -/
def Dev.refuseWrite (d : Dev) (b : Block) (w : Writer) (o code : Nat) : Dev :=
  d.limited (rateKey 1 (b.base + o)) (ticksMs 1) (fun n d => d.emit b code 1 o (writerCode w + 65536 * min n 0xFFFF))

/-! ### Blocks whose registers do more than hold a value -/

/-- SPEC_ENABLE: setting ENABLE checks the table and the shadow area (R193, R199). -/
def Dev.specBad (d : Dev) : Bool :=
  let t := d.epochTable
  let s := d.shadowBase
  !inDram d.hw t 32768 || !inDram d.hw s (2 ^ 25) || d.meetsPartition s (2 ^ 25) ||
  ((t, 32768) :: d.ringAreas).any (fun a => overlaps s (2 ^ 25) a.1 a.2)
def Dev.specCfgWrite (d : Dev) (v : W32) : Dev :=
  if v.getLsbD 0 && !d.rbit JFE_SPEC_CFG 0 && d.specBad then d else d.setNat JFE_SPEC_CFG (v.toNat % 2)

def Dev.jfeWrite (d : Dev) (o : Nat) (r : RegDef) (v : W32) : Dev :=
  let k := 0x10000 + o
  let n := v.toNat
  match o with
  | 0x10 => d.putClamped k 1 100 (n % 128)
  | 0x104 => d.putClamped k 10 1000 (n % 1024)
  | 0x900 => d.putWithin k 1 20 (n % 32)
  | 0x800 => d.putWithin k 1 32 (n % 64)
  | 0x140 => d.specCfgWrite v
  | _ => if 0x144 ≤ o ∧ o ≤ 0x150 ∧ d.rbit JFE_SPEC_CFG 0 then d else d.putMasked k r v

/-- HOST_WIN_BASE: the base in force follows the write of the high half (R166). -/
def Dev.winWrite (d : Dev) (hi : Bool) (v : W32) : Dev :=
  if !hi then d.setReg HOST_WIN_BASE_LO (v &&& 0xC0000000)
  else if 0x1F < v.toNat % 65536 then d
  else
    let d1 := d.setNat HOST_WIN_BASE_HI (v.toNat % 65536)
    { d1 with link := { d1.link with winBase := d1.rpair HOST_WIN_BASE_LO HOST_WIN_BASE_HI } }
/-- The MSI-X table: 64 vectors of address, data and a control word whose bit 0 masks (R184). -/
def Dev.msixWrite (d : Dev) (o : Nat) (v : W32) : Dev :=
  (if o % 16 = 12 then d.setNat (0x20000 + o) ((v.toNat + 1) % 2) else if o % 16 = 0 then d.setReg (0x20000 + o) (v &&& 0xFFFFFFFC)
   else d.setReg (0x20000 + o) v).msixFlush
def Dev.hostWrite (d : Dev) (o : Nat) (r : RegDef) (v : W32) : Dev :=
  let k := 0x20000 + o
  let n := v.toNat
  if o = 0x14 ∨ o = 0x18 then d.winWrite (decide (o = 0x18)) v
  else if 0x20 ≤ o ∧ o < 0x50 then
    let g := (o - 0x20) / 0x10
    (if o % 0x10 = 8 then d.ringCfgWrite g v else if d.ringOn g then d else d.putMasked k r v)
  else if o = 0x50 ∨ o = 0x54 then (if (List.range 3).any d.ringOn then d else d.putMasked k r v)
  else if 0x100 ≤ o then d.setNat k (min 1000 (bitsOf n 25 16) * 65536 + max 1 (min 256 (n % 512)))
  else d.putMasked k r v

/-- Engine blocks; the sequence registers of Tracery take host writes only (R255). -/
def Dev.engWrite (d : Dev) (n e : Nat) (w : Writer) (o : Nat) (r : RegDef) (v : W32) : Dev :=
  let k := (Block.eng n e).base + o
  if o = 0x800 then d.putWithin k 256 4096 (v.toNat % 8192)
  else if 0x40 ≤ o ∧ o < 0x5C then
    if n ≠ 0 then d
    else if w ≠ .host then d.seqRefused (if o = 0x48 then v.toNat % 4096 else 0) 0x0A
    else if o = 0x40 ∨ o = 0x44 then d.seqTableWrite k v
    else if o = 0x48 then d.seqCmd v
    else d.putMasked k r v
  else d.putMasked k r v
def Dev.crnWrite (d : Dev) (o : Nat) (r : RegDef) (v : W32) : Dev :=
  match o with
  | 0x810 => d.probeCmd v
  | 0x828 => d.pqCmd v
  | 0x830 => d.edgeInvalidate v
  | _ => d.putMasked (0x80000 + o) r v

def Dev.smcWrite (d : Dev) (k o : Nat) (r : RegDef) (v : W32) : Dev :=
  match o with
  | 0x800 => d.putWithin k 1 8 (v.toNat % 16)
  | 0x804 => d.putWithin k 240 1920 (v.toNat % 16384)
  | _ => d.putMasked k r v
def Dev.mrtWrite (d : Dev) (n o : Nat) (r : RegDef) (v : W32) : Dev :=
  let k := (Block.mrt n).base + o
  if o = 0x10 then d.dramModeFx n v
  else if 0x2C ≤ o ∧ o ≤ 0x34 ∧ ((copiesOf d.mirrors).filter (fun c => c.1 / dramDie == n)) ≠ [] then d
  else d.putMasked k r v
/-- Is a context in a state in which its label may be read (R340)? -/
def Dev.labelsInUse (d : Dev) : Bool :=
  d.ctxList.any (fun x => [CtxState.ready, .running, .yielding, .suspended, .resuming].contains x.2.state)
def Dev.bwrWrite (d : Dev) (o : Nat) (r : RegDef) (v : W32) : Dev :=
  let k := 0xB0000 + o
  let n := v.toNat
  if o = 0x10 ∨ o = 0x14 then (if d.labelsInUse then d else d.putMasked k r v)
  else if o = 0x800 then d.putWithin k 8 127 (n % 128)
  else if 0x100 ≤ o ∧ o < 0x300 then d.setNat k ((if bitOf n 31 then 2 ^ 31 else 0) + min 9600 (n % 16384))
  else d.putMasked k r v
def Dev.arcWrite (d : Dev) (n i o : Nat) (r : RegDef) (v : W32) : Dev :=
  let k := (Block.arc n i).base + o
  if 0x40 ≤ o ∧ o < 0x80 then d.setNat k (min 1792 (v.toNat % 2048) + d.rn k / 65536 * 65536)
  else if o = 0x800 then d.setNat k (d.fieldWithin k 25 16 100 1000 v.toNat + d.fieldWithin k 3 0 2 8 v.toNat)
  else if o = 0x804 then d.putWithin k 100 1000 (v.toNat % 1024)
  else d.putMasked k r v
def Dev.keyWrite (d : Dev) (o : Nat) (r : RegDef) (v : W32) : Dev :=
  if o = 0x804 then d.otCmd v.toNat else d.putMasked o r v

def Dev.plbWrite (d : Dev) (o : Nat) (r : RegDef) (v : W32) : Dev :=
  let k := 0x30000 + o
  let n := v.toNat
  if 0x100 ≤ o ∧ o < 0x300 then
    let i := (o - 0x100) / 0x20
    (if o % 0x20 = 0x10 then d.trigCtlWrite i v else if d.trigArmed i then d else d.putMasked k r v)
  else if 0x300 ≤ o ∧ o < 0x380 then
    let i := (o - 0x300) / 0x10
    (if o % 0x10 = 12 then
      (if bitOf n 8 then { d with plb := { d.plb with capOver := FMap.set false d.plb.capOver i false } } else d)
     else d.putMasked k r v)
  else match o with
    | 0x20 => d.incrWrite v
    | 0x2C => d.plbCmd n
    | 0x30 => d.plbCfgWrite v
    | 0x3C => d.putWithin k 1 3600 (n % 4096)
    | 0x40 => d.putWithin k 10 10000 (n % 16384)
    | 0x44 => d.putWithin k 1000 1000000000 n
    | 0x800 => if 1 ≤ bitsOf n 7 0 ∧ bitsOf n 7 0 ≤ 16 ∧ 1 ≤ bitsOf n 15 8 ∧ bitsOf n 15 8 ≤ 24 then d.putMasked k r v else d
    | 0x804 => d.putWithin k 10 1000 (n % 1024)
    | _ => d.putMasked k r v

/-- Hod: registers from 0x20 on are of the selected queue, and hold while it is enabled (R397). -/
def Dev.hodRegWrite (d : Dev) (o : Nat) (r : RegDef) (v : W32) : Dev :=
  let q := d.rf HOD_Q_SEL 4 0
  let k := hodKey q o
  let n := v.toNat
  if o = 0x800 then d.putWithin (0x40000 + o) 1 100 (n % 128)
  else if o < 0x20 then d.putMasked (0x40000 + o) r v
  else if o = 0x20 then d.hodCfgWrite q v
  else if (d.hodQ q).enabled then d
  else if o = 0x48 then (if n % 64 = 0 then d.putWithin k 64 67108864 (n % 2 ^ 27) else d)
  else if o = 0x4C then d.putWithin k 1 65536 (n % 2 ^ 17)
  else if o = 0x50 then d.putWithin k 10 65535 (n % 65536)
  else d.putMasked k r v
/-- Ethernet: the registers of the selected port and filter (R398). -/
def Dev.ethWrite (d : Dev) (o : Nat) (r : RegDef) (v : W32) : Dev :=
  let p := d.rf ETH_PORT_SEL 2 0
  let f := d.rf ETH_FILT_SEL 2 0
  let k := ethKey p o
  let on := d.rbit (ethKey p 0x14) 31
  if o = 0x10 ∨ o = 0x38 then d.putMasked (0x50000 + o) r v
  else if 6 ≤ p then d
  else if o = 0x14 then d.ethCfgWrite p v
  else if o = 0x28 ∧ (on ∨ d.rbit k 31) then d.setReg k ((d.reg k &&& 0x7FFFFFFF) ||| (v &&& 0x80000000))
  else if o < 0x38 then (if on then d else d.putMasked k r v)
  else if o = 0x44 then d.filtWrite p f v
  else if o < 0x4C then (if bitOf (d.filtCfg p f) 31 then d else d.putMasked (filtKey p f o) r v)
  else if o = 0x54 then d.hostTxFx p v
  else d.putMasked k r v
/-- A-PHY: the registers of the selected port and slot (R371, R399). -/
def Dev.aphyWrite (d : Dev) (o : Nat) (r : RegDef) (v : W32) : Dev :=
  let p := d.rf APHY_PORT_SEL 3 0
  let s := d.rf APHY_VC_SEL 1 0
  let k := aphyKey p o
  let on := d.rbit (aphyKey p 0x14) 31
  if o = 0x10 ∨ o = 0x30 then d.putMasked (0x60000 + o) r v
  else if o = 0x14 then d.aphyCfgWrite p v
  else if o = 0x34 then d.slotWrite p s v
  else if o = 0x38 ∨ o = 0x3C then (if bitOf (d.slotCfg p s) 31 then d else d.putMasked (slotKey p s o) r v)
  else if o = 0x40 then d.i2cFx p v
  else if 0x100 ≤ o then (if (d.aphyPort p).i2c.isSome then d else d.putMasked k r v)
  else if on then d
  else if o = 0x28 then d.putWithin k 0 50000 (v.toNat % 65536)
  else d.putMasked k r v

def Dev.qnWrite (d : Dev) (q o : Nat) (r : RegDef) (v : W32) : Dev :=
  let k := (Block.qn q).base + o
  if o = 0x20 then d.qnCmd q v
  else if o = 0x800 then d.putWithin k 2 3 (v.toNat % 4)
  else d.putMasked k r v
def Dev.pavWrite (d : Dev) (n o : Nat) (r : RegDef) (v : W32) : Dev :=
  let k := (Block.pav n).base + o
  match o with
  | 0x10 => d.putClamped k 1 8 (v.toNat % 16)
  | 0x14 => d.putWithin k 10 1000 (v.toNat % 1024)
  | 0x800 => (d.setNat k (16 * bitsOf v.toNat 12 4 + d.fieldWithin k 3 0 0 11 v.toNat)).injectFx n v
  | 0x6C => if n = 0 then d.logCmd v.toNat else d
  | _ => if 0x60 ≤ o ∧ o < 0x6C ∧ n ≠ 0 then d else d.putMasked k r v
/-- Half of a Course die's share of the TDP: the most that the warm floor can be (R479). -/
def Dev.warmMost (d : Dev) : Nat := d.hw.tdp / (2 * d.hw.dies)
def Dev.pwrWrite (d : Dev) (o : Nat) (r : RegDef) (v : W32) : Dev :=
  let k := 0xC0000 + o
  let n := v.toNat
  if o = 0x20 then
    (d.setNat k (((powerDies d.hw).map (fun i => d.fieldWithin k (4 * i + 2) (4 * i) 0 4 n)).sum)).applyStates
  else if o = 0x30 then d.standbyCmd n
  else if o = 0x34 then (d.putMasked k r v).lowerLimit
  else if o = 0x9C then d.putWithin k 100 3000 (n % 65536)
  else if 0xA0 ≤ o ∧ o < 0xB0 then d.setNat k ((if bitOf n 31 then 2 ^ 31 else 0) + d.fieldWithin k 3 0 3 10 n)
  else if o = 0x800 then d.putWithin k 1 10 (n % 16)
  else if o = 0x804 then d.setNat k (min d.warmMost (n % 1024))
  else d.putMasked k r v
def Dev.ngdWrite (d : Dev) (o : Nat) (r : RegDef) (v : W32) : Dev :=
  if o = 0x14 then d.ngdCmd v
  else if d.sec.busy && decide (0x1C ≤ o) && decide (o < 0x2C) then d
  else d.putMasked (0xA0000 + o) r v
def Dev.gauWrite (d : Dev) (o : Nat) (r : RegDef) (v : W32) : Dev :=
  let k := 0xD0000 + o
  match o with
  | 0x10 => d.gauCfgWrite v
  | 0x14 => d.coreEvtWrite k v
  | 0x18 => d.coreEvtWrite k v
  | 0x1C => d.blkSelWrite v
  | 0x30 => if v.getLsbD 0 then d.snapshotFx false else d
  | 0x34 => d.putWithin k 0 1000 (v.toNat % 1024)
  | 0x40 => d.dumpCfgWrite v
  | _ =>
    if 0x20 ≤ o ∧ o < 0x30 then d.blkEvtWrite ((o - 0x20) / 4) v
    else if (o = 0x38 ∨ o = 0x3C) ∧ d.dumpOn then d
    else d.putMasked k r v

/-! ### The write -/

/-- A write that its access type lets through. -/
def Dev.regEffect (d : Dev) (w : Writer) (b : Block) (o : Nat) (r : RegDef) (v : W32) : Dev :=
  match b with
  | .key => d.keyWrite o r v
  | .jfe => d.jfeWrite o r v
  | .host => d.hostWrite o r v
  | .plb => d.plbWrite o r v
  | .hod => d.hodRegWrite o r v
  | .eth => d.ethWrite o r v
  | .aphy => d.aphyWrite o r v
  | .crn => d.crnWrite o r v
  | .ngd => d.ngdWrite o r v
  | .bwr => d.bwrWrite o r v
  | .pwr => d.pwrWrite o r v
  | .gau => d.gauWrite o r v
  | .qn q => d.qnWrite q o r v
  | .crs _ => d
  | .mrt n => d.mrtWrite n o r v
  | .smc _ _ => d.smcWrite (b.base + o) o r v
  | .eng n e => d.engWrite n e w o r v
  | .pav n => d.pavWrite n o r v
  | .arc n i => d.arcWrite n i o r v
  | .ash _ _ => if o = 0x800 then d.putClamped (b.base + o) 1 15 (v.toNat % 16) else d.putMasked (b.base + o) r v

/-- By access type (R6). PLB_CAP_STATUS is the one W1C register that shows a unit's state. -/
def Dev.regAccess (d : Dev) (w : Writer) (b : Block) (o : Nat) (r : RegDef) (v : W32) : Dev :=
  let k := b.base + o
  match r.acc with
  | .ro => d
  | .w1c => if b = .plb then d.plbWrite o r v else d.setReg k (d.reg k &&& ~~~(v &&& r.mask))
  | .rwl => if d.rbit (b.base + 0xC) 0 then d.refuseWrite b w o 0x0001 else d.regEffect w b o r v
  | .exp => if d.expertFor w then d.regEffect w b o r v else d.refuseWrite b w o 0x0002
  | _ => d.regEffect w b o r v

/-- Write the 32-bit register at a BAR0 offset (R5–R11). LOCK.LOCK can only be set. -/
def Dev.writeReg (d : Dev) (w : Writer) (off : Nat) (v : W32) : Dev :=
  match blockAt d.hw off with
  | none => d
  | some b =>
    let o := off - b.base
    if !d.serves b then d
    else if o = 0xC then (if v.getLsbD 0 then d.setReg off 1 else d)
    else if b = .host ∧ 0x4000 ≤ o ∧ o < 0x4400 ∧ o % 4 = 0 then d.msixWrite o v
    else match findReg b.regs o with
      | none => d
      | some r => d.regAccess w b o r v

end Sys2Proof.Machine
end

