-- ==== Sys2Proof/Machine/DmaDone.lean ====
section
/-! DEFINITION. The completion of DMA descriptors (R50, R108, R121, R122, R151, R258, R264), and accesses to the register space that are not
single 32-bit ones (R4, R190). -/
namespace Sys2Proof.Machine

/-! ### Accesses of another size (R4, R190) -/

/-- Byte enables of the word at `w` of a request for bytes [off, off + size). -/
def byteEnables (off size w : Nat) : Nat := bitsSum ((List.range 4).filter (fun i => decide (off ≤ 4 * w + i) && decide (4 * w + i < off + size)))
/-- ARG1 of ACCESS_SIZE. -/
def accessArg (read : Bool) (off size : Nat) : Nat :=
  let first := off / 4
  let last := (off + max 1 size - 1) / 4
  byteEnables off size first + (if last = first then 0 else 16 * byteEnables off size last) + 256 * min 1024 (last - first + 1) + bitAt 19 read
/-- The record of a request that is handled whole. -/
def Dev.accessSize (d : Dev) (read : Bool) (off size : Nat) : Dev := d.emit .host 0x0407 1 (off / 4 * 4) (accessArg read off size)

/-! ### Transfers -/

/-- A DMA transfer puts bytes into a local store. -/
def Dev.dmaPut (d : Dev) (g : Nat) (ws : List (Nat × List Byte)) : Dev := ws.foldl (fun d w => d.lsPut g w.1 w.2) d
/-- Words of consecutive registers. -/
def Dev.regsRead (d : Dev) (off n : Nat) : List Byte × Dev :=
  (List.range n).foldl (fun a i => let r := a.2.readReg (off + 4 * i); (a.1 ++ leBytes 4 r.1, r.2)) ([], d)
/-- A descriptor that reads register pages: elements of 4 bytes are register reads, others are handled as R4. -/
def Dev.dmaRegsIn (d : Dev) (g : Nat) (e : DmaEntry) : Dev :=
  e.pieces.foldl (fun d p =>
    if e.es = 4 then let r := d.regsRead (p.2.1 - regBase) (p.2.2.2 / 4); r.2.lsPut g p.1 r.1
    else (d.accessSize true (p.2.1 - regBase) p.2.2.2).lsPut g p.1 (List.replicate p.2.2.1 0)) d
/-- A write to a register page by a context: held while its epoch is OPEN (R198). -/
def Dev.jobRegWrite (d : Dev) (c off : Nat) (v : W32) : Dev :=
  match (d.viewOf c).write with
  | some e => { d with jfe := { d.jfe with heldWrites := d.jfe.heldWrites ++ [{ epoch := e, ctx := c, offset := off, value := v }] } }
  | none => d.writeReg (.ctx c) off v
def Dev.dmaRegsOut (d : Dev) (c : Nat) (e : DmaEntry) (ws : List (Nat × List Byte)) : Dev :=
  ws.foldl (fun d w =>
    if e.es = 4 then (List.range (w.2.length / 4)).foldl (fun d i =>
      d.jobRegWrite c (w.1 - regBase + 4 * i) (BitVec.ofNat 32 (fieldAt w.2 (4 * i) 4))) d
    else d.accessSize false (w.1 - regBase) w.2.length) d

/-- The source bytes of a write as they leave: those of lines that were stored to meanwhile are undefined (R121). -/
def Dev.dmaData (d : Dev) (e : DmaEntry) : List Byte × Dev :=
  if e.taint.isEmpty then (e.data, d)
  else
    let f := d.drawBytes e.data.length
    (List.zipWith (fun (a : Nat) (p : Byte × Byte) => if e.taint.contains (a / 64) then p.2 else p.1) e.lsBytes (List.zip e.data f.1), f.2)
/-- Memory writes of a write or an append. -/
def Dev.dmaOut (d : Dev) (e : DmaEntry) (data : List Byte) : List (Nat × List Byte) :=
  if e.kind = 3 then
    let n := e.n0 * e.n1 * e.es
    (d.appendAddrs e).zipIdx.map (fun p => (p.1.1, (data.drop (n * p.2)).take n))
  else List.zipWith (fun p bs => (p.2.1, e.compress bs)) e.pieces (cutBytes (e.pieces.map (fun p => p.2.2.1)) data)
/-- Cut at 64-byte boundaries. -/
def lineCut (ws : List (Nat × List Byte)) : List (Nat × List Byte) := ws.flatMap (fun w => linePieces (w.2.length + 1) w.1 w.2)
/-- What a transfer in progress still moves when its job is torn down: some of its lines, the first ones (R151 step 2). -/
def Dev.cutShort (d : Dev) (ws : List (Nat × List Byte)) : List (Nat × List Byte) × Dev :=
  let ps := lineCut ws
  let w := d.draw
  (ps.take (w.1.toNat % (ps.length + 1)), w.2)
/-- Is the core's context being torn down? -/
def Dev.coreDraining (d : Dev) (g : Nat) : Bool := (d.ctx (d.ctxOn g)).state == .draining

/-- The head of a core's queue leaves it. -/
def Dev.dmaPop (d : Dev) (g : Nat) : Dev := d.putCore g { d.core g with dma := (d.core g).dma.tail }
/-- The bytes a completed descriptor moved, counted. -/
def Dev.dmaCount (d : Dev) (g : Nat) (e : DmaEntry) : Dev := d.count g (if e.readsIn then 0x07 else 0x08) (e.n0 * e.n1 * e.n2 * e.es)

/-! ### DMA_COMPLETE (R50) -/

/-- The status a descriptor's memory gives its context, and the device with the record of a poisoned read. -/
def Dev.dmaStop (d : Dev) (g : Nat) (e : DmaEntry) : Option (BitVec 8 × Dev) :=
  let v := d.viewOf (d.ctxOn g)
  (d.dmaRanges e).findSome? (fun r => (d.accessStatus v r.1 r.2 e.readsIn).map (fun st => (st, if e.readsIn then d.noteRead v r.1 r.2 else d)))
/-- Move a descriptor's bytes. -/
def Dev.dmaMove (d : Dev) (g : Nat) (e : DmaEntry) : Dev :=
  let c := d.ctxOn g
  let cut := d.coreDraining g
  if e.readsIn then
    if e.onRegs then (if cut then d else d.dmaRegsIn g e)
    else
      let ws := d.dmaIn g e
      if cut then let r := d.cutShort ws; r.2.dmaPut g r.1 else d.dmaPut g ws
  else
    let s := d.dmaData e
    let ws := s.2.dmaOut e s.1
    if cut then (if e.onRegs then s.2 else let r := s.2.cutShort ws; r.2.jobWrites c r.1)
    else if e.onRegs then s.2.dmaRegsOut c e ws
    else s.2.jobWrites c ws
/-- The uncorrectable and corrected errors that the descriptor's reads meet. -/
def Dev.dmaEvents (d : Dev) (e : DmaEntry) (es : List MemEvent) : Dev :=
  if e.readsIn then (d.dmaRanges e).foldl (fun d r => d.memEvents r.1 r.2 es) d else d
/-- A descriptor of the head ends: a storage error or refused memory tears the job down, else its bytes are moved. -/
def Dev.dmaEnd (d : Dev) (g : Nat) (err : StorageEvent) (es : List MemEvent) (e : DmaEntry) (after : Dev → Dev) : Dev :=
  if fatalErr err then (d.dmaPop g).storageError g err
  else
    let d1 := (d.noteStorage g err).dmaEvents e es
    if d1.coreDraining g then (d1.dmaMove g e).dmaPop g
    else match d1.dmaStop g e with
      | some (st, d2) => (d2.dmaPop g).trigger (d.ctxOn g) st
      | none => after (((d1.dmaMove g e).dmaPop g).dmaCount g e)
/-- Can the head of a core's queue end? The follow's ends with its lead's. -/
def Dev.dmaHead (d : Dev) (g : Nat) : Option DmaEntry :=
  if d.isFollow g || FMap.get false d.pwr.scanned (coreDie g) then none else (d.core g).dma.head?
/-- DMA_COMPLETE. A multicast read ends once it has started; an append has a command of its own. -/
def Dev.dmaDoneFx (d : Dev) (g : Nat) (err : StorageEvent) (es : List MemEvent) : Dev :=
  match d.dmaHead g with
  | some e => if e.kind = 3 ∨ (e.kind = 2 ∧ !e.started) then d else d.dmaEnd g err es e id
  | none => d

/-! ### KV_APPEND_COMPLETE (R257, R258, R264) -/

/-- Reservations of a stream at the front that have ended: what remains, and where the last of them ends. -/
def endedRes (st : Nat) : List Reservation → Option Nat → List Reservation × Option Nat
  | [], len => ([], len)
  | r :: rs, len =>
    if r.stream ≠ st then let x := endedRes st rs len; (r :: x.1, x.2)
    else if r.done then endedRes st rs (some (r.start + r.count))
    else (r :: rs, len)
/-- LEN of a stream moves on to the end of the reservations that have completed, provisionally under an epoch. -/
def Dev.advanceLen (d : Dev) (c sn st : Nat) : Dev :=
  match d.seqOf sn with
  | none => d
  | some q =>
    let x := endedRes st q.res none
    match x.2 with
    | none => d
    | some len =>
      let d1 : Dev := { d with seqs := FMap.set none d.seqs sn (some { q with res := x.1 }) }
      let r := d1.streamConflict c (q.record (d1.rd View.plain) st)
      if !r.1 then r.2
      else
        let old := q.record (d1.rd View.plain) st
        let new := match (d1.viewOf c).write with
          | some w => mkRec len (recConf old) w
          | none => mkRec len len 0
        r.2.wr View.plain (q.recordAddr st) (leBytes 8 new)
/-- The append's reservation has completed; a void one moves no length. -/
def Dev.appendDone (d : Dev) (g : Nat) (e : DmaEntry) : Dev :=
  match d.seqOf e.seqNo with
  | none => d
  | some q =>
    let st := q.stream e.layer e.group e.kv
    let mine (r : Reservation) : Bool := r.stream == st && r.core == g && r.start == e.remote && !r.done
    if !q.res.any mine then d
    else
      let d1 : Dev := { d with seqs := FMap.set none d.seqs e.seqNo (some { q with res := q.res.map (fun r => if mine r then { r with done := true } else r) }) }
      d1.advanceLen (d.ctxOn g) e.seqNo st
def Dev.kvDoneFx (d : Dev) (g : Nat) (err : StorageEvent) : Dev :=
  match d.dmaHead g with
  | some e => if e.kind = 3 then d.dmaEnd g err [] e (fun x => x.appendDone g e) else d
  | none => d

end Sys2Proof.Machine
end

