-- ==== Sys2Proof/Machine/HostFx.lean ====
section
/-! DEFINITION. Requests of the host that are no register accesses (R4, R37, R163–R167, R317), the memory access instrument (R518), and the
instruments of the dies' IEEE 1687 networks (R513–R515). -/
namespace Sys2Proof.Machine

/-! ### BAR0 accesses of another size (R4) -/

/-- BAR0_ODD_ACCESS: nothing is written, every byte reads 0x00, and the request is recorded. A naturally aligned 32-bit access is another
command. -/
def Dev.oddAccess (d : Dev) (write : Bool) (off size : Nat) : Dev :=
  if (size == 4 && off % 4 == 0) || decide (0x2000000 < off + size) || decide (4096 < size) then d
  else
    let d1 := if d.serves .host then d.accessSize (!write) off size else d
    if write then d1 else d1.put (.reply (List.replicate size 0))

/-! ### Device memory as the host reaches it (R166, R167) -/

/-- Where an offset of BAR2 leads: the window, or the Mortar of die n. -/
def Dev.bar2Addr (d : Dev) (w : Nat) : Nat :=
  if w < 0x3C0000000 then d.link.winBase + w
  else
    let n := (w - 0x3C0000000) / 0x10000000
    mortarBase n + (w - 0x3C0000000) % 0x10000000
/-- Ranges a host write must leave alone: save areas, and the table entries and stream tables of active sequences. -/
def Dev.hostBarred (d : Dev) : List (Nat × Nat) :=
  d.saveAreas ++ d.activeSeqs.map (fun e => (d.seqTable + 64 * e.1, 64)) ++ d.streamTables
def Dev.addrEvent (d : Dev) (code sev a : Nat) : Dev := d.emit .host code sev (a % 2 ^ 32) (a / 2 ^ 32)
/-- A read of device memory: the confirmed version. -/
def Dev.busRead (d : Dev) (a n : Nat) (es : List MemEvent) : Dev :=
  if !inMem d.hw a n then (d.addrEvent 0x0406 1 a).put (.reply (List.replicate n 0))
  else
    let d1 := d.memEvents a n es
    match (linesOf a n).find? (fun l => d1.memFenced (64 * l) || (d1.poisonedIn View.plain (64 * l) 1).isSome) with
    | some l => (d1.tellPoison l).put (.replyPoisoned n)
    | none => d1.put (.reply (d1.rd View.plain a n))
/-- A write of device memory. -/
def Dev.busWrite (d : Dev) (a : Nat) (bs : List Byte) : Dev :=
  let n := bs.length
  if !inMem d.hw a n then d.addrEvent 0x0406 1 a
  else if d.hostBarred.any (fun r => overlaps a n r.1 r.2) || d.fencedIn a n then d.addrEvent 0x0409 2 a
  else d.wr View.plain a bs
/-- One request for device memory. -/
def Dev.busAccess (d : Dev) (write : Bool) (a n : Nat) (bs : List Byte) (es : List MemEvent) : Dev :=
  if write then (if bs.length = n then d.busWrite a bs else d) else d.busRead a n es
/-- A request does not cross a boundary of 4 KiB. -/
def oneRequest (a n : Nat) : Bool := decide (0 < n) && decide (a % 4096 + n ≤ 4096)
/-- HOST_BAR2_ACCESS. BAR2 serves from READY on. -/
def Dev.bar2Fx (d : Dev) (write : Bool) (w n : Nat) (bs : List Byte) (es : List MemEvent) : Dev :=
  if d.sec.boot.stage ≠ 0x80 ∨ 0x400000000 ≤ w ∨ !oneRequest w n then d else d.busAccess write (d.bar2Addr w) n bs es
/-- MEMORY_ACCESS: at FULL level as the host through BAR2; below it the instrument reads as zeros and ignores writes. -/
def Dev.memAccessFx (d : Dev) (write : Bool) (a n : Nat) (bs : List Byte) : Dev :=
  if !oneRequest a n then d
  else if d.sec.debug ≠ 2 ∨ d.sec.boot.stage ≠ 0x80 then (if write then d else d.put (.reply (List.replicate n 0)))
  else d.busAccess write a n bs []

/-! ### Configuration requests and power states (R163, R164, R503) -/

/-- CONFIG_REQUEST: before READY, or an error stage, it is answered with retry status; a write of Bus Master Enable takes effect. -/
def Dev.configFx (d : Dev) (bme : Option Bool) : Dev :=
  if d.sec.boot.stage < 0x80 then (if d.sec.boot.stage = 0 then d else d.put .retryStatus)
  else match bme with
    | some b => ({ d with link := { d.link with bme := b } } : Dev).msixFlush
    | none => d
/-- LINK_DOWN. -/
def Dev.linkDownFx (d : Dev) : Dev :=
  if d.link.up then { d with link := { d.link with up := false, downTick := some (match d.link.downTick with
    | some t => t
    | none => d.ticks) } } else d
/-- D3HOT_ENTRY: as link down, with the link kept trained. -/
def Dev.d3Fx (d : Dev) : Dev :=
  if d.link.up && !d.link.d3 then { d with link := { d.link with d3 := true, downTick := some d.ticks } } else d
/-- LINK_UP: the link trains again, or D3hot ends. -/
def Dev.linkUpFx (d : Dev) (rate width : Nat) : Dev :=
  if d.sec.boot.stage < 0x80 ∨ (d.link.up && !d.link.d3) then d else (d.linkBack rate width).msixFlush
/-- BME_CLEAR. -/
def Dev.bmeClearFx (d : Dev) : Dev := { d with link := { d.link with bme := false } }

/-! ### Instruments (R513–R515) -/

/-- The data that a scan of the network shifts out. Its layout is the model's (log entry 62). -/
def Dev.scanOut (d : Dev) (bs : List Byte) : Dev := d.put (.reply bs)
/-- An instrument of a die at a level: above the level in force it reads as zeros and ignores writes. -/
def Dev.atLevel (d : Dev) (level size : Nat) (f : Dev → Dev) : Dev := if d.sec.debug < level then d.scanOut (List.replicate size 0) else f d
/-- Die code, VERSION, BOOT_STAGE and the fences held on the die. -/
def Dev.dieStatusOut (d : Dev) (n : Nat) : List Byte :=
  leBytes 1 n ++ leBytes 4 (0x01010000 + d.hw.stepping n) ++ leBytes 1 d.sec.boot.stage ++
    (d.fences.filter (fun e => unitDie e.1 == n)).flatMap (fun e => leBytes 4 e.1)
/-- The core that the debug instrument of a die names, when the level reaches it; a follow shows STATUS.FOLLOW alone. -/
def Dev.shownCore (d : Dev) (n : Nat) : Option Nat :=
  let g := 1024 * n + (d.coreDbg n).core
  if d.debugReach g && !d.isFollow g then some g else none
def Dev.coreStatusOut (d : Dev) (n : Nat) : List Byte :=
  let g := 1024 * n + (d.coreDbg n).core
  match d.shownCore n with
  | some g => leBytes 1 (d.debugStatus g) ++ leBytes 6 (d.core g).pc.toNat
  | none => leBytes 1 ((if d.isFollow g then 4 else 0) + (if (d.coreDbg n).refused then 8 else 0)) ++ leBytes 6 0
/-- Queue levels of the sixteen partitions, and the header and ticket of the running command. -/
def Dev.engineOut (d : Dev) (n e : Nat) : List Byte :=
  let show_ (levels : Nat → Nat) (run : Option (List Byte × Option Nat)) : List Byte :=
    (List.range 16).flatMap (fun p => leBytes 1 (levels p)) ++ (match run with
      | some r => r.1.take 8 ++ leBytes 4 (r.2.getD 0)
      | none => List.replicate 12 0)
  if n = 8 then show_ d.cairnQueued (d.crn.check.map (fun r => (r.bytes, r.cmd.ticket)))
  else show_ (fun p => (FMap.get [] (d.eng n e).queues p).length) ((d.eng n e).run.map (fun r => (d.engBytes e r.cmd, r.cmd.ticket)))
/-- Monitor and verdict state of a Quoin. -/
def Dev.quoinOut (d : Dev) (q : Nat) : List Byte :=
  let x := d.quoin q
  [BitVec.ofNat 8 x.st.code, BitVec.ofNat 8 (x.reason % 256), (if x.stopped then 1 else 0), (if x.partnerOk then 1 else 0)] ++
    x.fences.flatMap (fun e => leBytes 4 e.1)

/-- A scan through the selected network. -/
def Dev.instrumentFx (d : Dev) (n : Nat) (i : Instrument) : Dev :=
  let course := decide (n < d.hw.dies)
  match i with
  | .select => d
  | .dieStatus => d.scanOut (d.dieStatusOut n)
  | .challenge =>
    if n ≠ 8 then d
    else if !d.ngdServes then d.scanOut (List.replicate 32 0)
    else
      let d1 := d.challengeFx
      d1.scanOut ((List.range 8).flatMap (fun j => leBytes 4 (d1.rn (NGD_DEBUG_CHALLENGE j))))
  | .response bs => if n ≠ 8 ∨ !d.ngdServes ∨ bs.length ≠ 132 then d else if d.sec.lockedOut then d.ngdDone 8 0 else d.respond bs
  | .gaugeRead o => if n ≠ 8 then d else d.atLevel 1 4 (fun d => let r := d.readReg (0xD0000 + o % 0x1000); r.2.scanOut (leBytes 4 r.1))
  | .gaugeWrite o v => if n ≠ 8 ∨ d.sec.debug < 1 then d else d.writeReg .host (0xD0000 + o % 0x1000) v
  | .coreSelect g =>
    if !course ∨ coreDie g ≠ n ∨ d.sec.debug < 1 then d else d.setCoreDbg n { core := g % 1024, detached := false, refused := false }
  | .coreStatus => if !course then d else d.atLevel 1 7 (fun d => d.scanOut (d.coreStatusOut n))
  | .regRead spec row =>
    if !course then d
    else d.atLevel 1 80 (fun d => d.scanOut (leBytes 80 (match d.shownCore n with
      | some g => ((d.core g).regs.debugGet spec row.toNat).toNat
      | none => 0)))
  | .lsRead a =>
    if !course then d
    else d.atLevel 1 8 (fun d => d.scanOut (match d.shownCore n with
      | some g => (d.core g).lsRead (a.toNat / 8 * 8) 8
      | none => List.replicate 8 0))
  | .breakpoint j pc =>
    if !course then d
    else
      let g := 1024 * n + (d.coreDbg n).core
      d.debugDo g true (fun d => d.setPoints g { d.pointsOf g with bp := (d.pointsOf g).bp.set j (pc.map (·.toNat)) })
  | .watchpoint j r =>
    if !course then d
    else
      let g := 1024 * n + (d.coreDbg n).core
      d.debugDo g true (fun d => d.setPoints g { d.pointsOf g with wp := (d.pointsOf g).wp.set j (r.map (fun x => (x.1.toNat, x.2.toNat))) })
  | .engineState e => if course && decide (e < 4) || (n == 8 && e == 4) then d.atLevel 1 28 (fun d => d.scanOut (d.engineOut n e)) else d
  | .firmware => d
  | .quoinState => if n = 12 ∨ n = 13 then d.atLevel 2 4 (fun d => d.scanOut (d.quoinOut (n - 12))) else d
/-- IJTAG: the die's network is selected, and scanned. A bypassed die shifts one bit. -/
def Dev.ijtagFx (d : Dev) (n : Nat) (i : Instrument) : Dev :=
  if (d.tap n).bypassed then d else (d.loadInstr n 0x10).instrumentFx n i

end Sys2Proof.Machine
end

