-- ==== Sys2Proof/Machine/Settle.lean ====
section
/-! DEFINITION. What follows from a command at once: squashes that were asked for, the effects of fences (R148, R158, R200, R320, R330, R350,
R384), compute stopped by a safe state (R423), epochs that confirm, held register writes (R198), releases, waits that end, pre-emption requests
and zeroing. Each is one small step; a command's meaning carries them out until none is due. -/
namespace Sys2Proof.Machine

/-! ### Fences -/

/-- Does a core's wait depend on a die (R158)? -/
def Dev.waitsOnDie (d : Dev) (n g : Nat) : Bool :=
  let k := d.core g
  let at_ (a : Nat) : Bool := (placeOf d.hw (d.served a)).die == some n
  match k.wait with
  | .none => false
  | .sema _ num => semDie num == n
  | .mwait f => at_ (lsAddr f k.regs).toNat
  | .ewait _ => false
  | .epwait _ => false
  | .eprslv _ => false
  | .crdb _ => false
  | _ => k.dma.any (fun e => (d.dmaRanges e).any (fun r => at_ r.1))
/-- Contexts that can still be ended. -/
def CtxState.live : CtxState → Bool
  | .free => false
  | .draining => false
  | .ending => false
  | _ => true
/-- Does a context's placement include a unit? -/
def placedOn (v : Invoke) (u : Nat) : Bool :=
  let n := unitDie u
  let k := unitNum u
  match unitKind u with
  | 0 => bitOf v.clusters (8 * n + k / 128)
  | 1 => bitOf v.clusters (8 * n + k)
  | 2 => if n = 8 then bitOf v.engines 16 else bitOf v.engines (4 * n + k)
  | 5 => bitsOf v.clusters (8 * n + 7) (8 * n) != 0 || bitsOf v.engines (4 * n + 3) (4 * n) != 0
  | _ => false
/-- Contexts that a fence ends: those placed on the unit; for a die not the QUEUED ones (R158), but those whose cores wait on it. -/
def Dev.fenceEnds (d : Dev) (u : Nat) : List Nat :=
  let die := unitKind u == 5
  (d.ctxList.filter (fun x => x.2.state.live &&
    ((placedOn x.2.inv u && !(die && x.2.state == .queued)) || (die && (d.leadsOn x.1).any (d.waitsOnDie (unitDie u)))))).map (·.1)
/-- Contexts that hold or wait for a semaphore of a die (R330). -/
def Dev.semUsers (d : Dev) (n : Nat) : List Nat :=
  (d.sems.filter (fun e => semDie e.1 == n)).flatMap (fun e => (match e.2.holder with
    | some h => [h.2]
    | none => []) ++ e.2.waiters.map d.ctxOn)
/-- Open epochs with a tagged line on a die, whose tags are lost with it (R330). -/
def Dev.epochsOnDie (d : Dev) (n : Nat) : List Nat :=
  (d.jfe.epochs.filter (fun e => e.2.state == .opened && (d.linesTagged e.1).any (fun l => lineDie l == n))).map (·.1)
/-- What a fence newly in force ends. -/
def Dev.fenceApply (d : Dev) (u : Nat) : Dev :=
  let n := unitDie u
  let d1 := (d.fenceEnds u).foldl (fun d c => d.trigger c stFencedResource) d
  let d2 := match unitKind u with
    | 2 => if n = 8 then d1.crnFenced else d1
    | 3 => d1.linkFenced_ n (unitNum u)
    | 5 =>
      let a := (d1.semUsers n).eraseDups.foldl (fun (d : Dev) c => d.trigger c stFencedResource) d1
      let b := (d1.epochsOnDie n).foldl (fun (d : Dev) e => d.askSquash e 0x03) a
      b.mirrorsLost.reroute (d.liftFence u)
    | _ => d1
  d2.hodFences.regate d2.domainFenced
def Dev.fenceStep (d : Dev) : Option Dev :=
  match d.newFences with
  | [] => none
  | u :: us => some (({ d with newFences := us } : Dev).fenceApply u)

/-! ### Safe states -/

/-- Compute stops: every job ends with SAFE_STATE, and every open epoch is squashed (R205, R423). -/
def Dev.stopStep (d : Dev) : Option Dev :=
  if !d.stopped then none
  else
    let cs := (d.ctxList.filter (fun x => x.2.state.live)).map (·.1)
    let es := (d.jfe.epochs.filter (fun e => e.2.state == .opened && !d.jfe.squash.any (fun q => q.1 == e.1))).map (·.1)
    if cs.isEmpty && es.isEmpty then none
    else some (cs.foldl (fun (d : Dev) c => d.trigger c stSafeState) (es.foldl (fun (d : Dev) e => d.askSquash e 0x0A) d))
/-- KEYSTONE_LOST holds the Keystone in reset (R422). -/
def Dev.lostStep (d : Dev) : Option Dev :=
  if d.keystoneUp && (d.qn.a.reasons.any (fun r => reasonEff r == 3) || d.qn.b.reasons.any (fun r => reasonEff r == 3)) then some d.keystoneReset else none

/-! ### Held register writes (R198) -/

def Dev.heldStep (d : Dev) : Option Dev :=
  match d.jfe.heldWrites.find? (fun h => h.epoch == 0) with
  | some h => some (({ d with jfe := { d.jfe with heldWrites := d.jfe.heldWrites.erase h } } : Dev).writeReg (.ctx h.ctx) h.offset h.value)
  | none => none

/-! ### All of them -/

/-- The first step that is due. -/
def Dev.nextStep (d : Dev) : Option Dev :=
  d.squashStep <|> d.fenceStep <|> d.lostStep <|> d.stopStep <|> d.confirmStep <|> d.heldStep <|> d.limitStep <|> d.requestStep <|> d.wakeStep <|> d.zeroStep
def Dev.settleLoop : Nat → Dev → Dev
  | 0, d => d
  | n + 1, d => match d.nextStep with
    | some d1 => Dev.settleLoop n d1
    | none => d
/-- More steps than any command can cause: each ends a context, a wait, an epoch or a fence, of which there are some thousands. -/
def settleFuel : Nat := 1000000
/-- Carry out everything that is due. -/
def Dev.settle (d : Dev) : Dev := (Dev.settleLoop settleFuel d).settleLoss

end Sys2Proof.Machine
end

