-- ==== Sys2Proof/Machine/Run.lean ====
section
/-! DEFINITION. How a command acts on the state: outputs cleared, its effect on the device, the hardware itself unchanged; and how a Sedun
instruction issues. -/
namespace Sys2Proof.Machine

/-- The outcome of a command. -/
abbrev Result := Host.Outcome State Fault Refusal

/-- The device as a command finds it: what the last command put out is gone. -/
def Dev.fresh (d : Dev) : Dev := { d with out := [] }
/-- The part and its steppings never change (R23, R30). -/
def Dev.keepHw (d : Dev) (h : Hw) : Dev := { d with hw := h }
/-- Change the device; the commands that wait stay. -/
def State.run (s : State) (g : Dev → Dev) : Result := .next { s with dev := (g s.dev.fresh).keepHw s.dev.hw }
/-- The same for a command to a unit that the part may lack (R30). -/
def State.runIf (s : State) (present : Bool) (g : Dev → Dev) : Result := if present then s.run g else .fault .absentUnit

/-! ### Which units the part has (R23, R30) -/

def Hw.hasDie (h : Hw) (n : Nat) : Bool := decide (n < h.dies)
def Hw.hasCore (h : Hw) (g : Nat) : Bool := decide (g < 1024 * h.dies)
def Hw.hasCluster (h : Hw) (k : Nat) : Bool := decide (k < 8 * h.dies)
def Hw.hasStack (h : Hw) (k : Nat) : Bool := decide (k < 2 * h.dies)
/-- A port of a Course die, or of the Keystone (die 8), where spoke i is port i. -/
def Hw.hasPort (h : Hw) (n p : Nat) : Bool := if n = 8 then decide (p < h.dies) else connected h n p
def hasQuoin (q : Nat) : Bool := decide (q < 2)
/-- A power domain (R458). -/
def Hw.hasDomain (h : Hw) (k : Nat) : Bool := decide (k < 10 * h.dies) || (decide (40 ≤ k) && decide (k < 48))
/-- A place of a Pavane slice: a cluster, or an engine at 0x100 + 4n + e. -/
def Hw.hasPlace (h : Hw) (p : Nat) : Bool := h.hasCluster p || (decide (0x100 ≤ p) && decide (p < 0x100 + 4 * h.dies))

/-! ### Issue -/

/-- An instruction whose own effect nothing else waits for: what ends a job is followed by what becomes due. -/
def Dev.issueReg (d : Dev) (u : Issue) (vclass : Bool) (op : Dev → Nat → Except SedunFault Effect) : Dev :=
  let r := d.issueEnd u vclass op
  if r.1 then r.2 else r.2.settle
/-- An instruction that others may wait for, or that may end a job by its effect. -/
def Dev.issueSync (d : Dev) (u : Issue) (op : Dev → Nat → Except SedunFault Effect) : Dev := (d.issueEnd u false op).2.settle
def State.issue (s : State) (u : Issue) (op : Dev → Nat → Except SedunFault Effect) : Result :=
  s.runIf (s.dev.hw.hasCore u.core) (fun d => d.issueReg u false op)
/-- A V-class instruction, which R521 counts. -/
def State.issueV (s : State) (u : Issue) (op : Dev → Nat → Except SedunFault Effect) : Result :=
  s.runIf (s.dev.hw.hasCore u.core) (fun d => d.issueReg u true op)
def State.issueSync (s : State) (u : Issue) (op : Dev → Nat → Except SedunFault Effect) : Result :=
  s.runIf (s.dev.hw.hasCore u.core) (fun d => d.issueSync u op)

/-- A write of a register by its row. -/
def State.write (s : State) (w : Writer) (off : Nat) (v : W32) : Result := s.run (fun d => d.writeReg w off v)
/-- The same where jobs, waits or fences may follow from the write. -/
def State.writeSettle (s : State) (w : Writer) (off : Nat) (v : W32) : Result := s.run (fun d => (d.writeReg w off v).settle)

end Sys2Proof.Machine
end

