-- ==== Sys2Proof/Machine/Tick.lean ====
section
/-! DEFINITION. One TCLK tick (R385, R427, R521): what an empty queue lets pass (log entry 1). -/
namespace Sys2Proof.Machine

/-- The divisor of the root from which a die's ACLK comes (R455). -/
def aclkDivisor (state : Nat) : Nat := match state with
  | 0 => 4
  | 1 => 5
  | 2 => 6
  | 3 => 8
  | _ => 16
/-- ACLK cycles × 240 of a die in one TCLK tick, which is 12 root cycles. -/
def Dev.aclkStep (d : Dev) (n : Nat) : Nat := if d.domainOn (10 * n + 9) && !FMap.get false d.pwr.scanned n then 2880 / aclkDivisor (d.diePower n).state else 0
def Dev.aclkTick (d : Dev) : Dev :=
  (List.range d.hw.dies).foldl (fun (d : Dev) n => { d with pwr := { d.pwr with aclk := FMap.set 0 d.pwr.aclk n (FMap.get 0 d.pwr.aclk n + d.aclkStep n) } }) d
/-- A millisecond of a Quoin's availability counters: standby counts as commanded. -/
def Quoin.countMs (loss : Nat) (x : Quoin) : Quoin :=
  if !x.live then x
  else if loss = 3 then { x with commanded := x.commanded + 1 }
  else { x with oper := x.oper + 1, lossDev := if loss = 1 then x.lossDev + 1 else x.lossDev, lossSys := if loss = 2 then x.lossSys + 1 else x.lossSys }
def Dev.quoinMs (d : Dev) : Dev :=
  let l := if d.pwr.standby then 3 else d.qn.loss
  { d with qn := { d.qn with a := d.qn.a.countMs l, b := d.qn.b.countMs l } }
/-- Plumb runs while the Keystone is out of reset. -/
def Dev.tick (d : Dev) : Dev :=
  let d1 := if d.keystoneUp then d.plumbTick else d
  let d2 := { d1.aclkTick with ticks := d.ticks + 1 }
  if (d.ticks + 1) % ticksMs 1 = 0 then d2.quoinMs else d2

/-- One tick passes. -/
def tick (s : State) : State := { s with dev := (s.dev.fresh.tick).keepHw s.dev.hw }

end Sys2Proof.Machine
end

