-- ==== Sys2Proof/Machine/ExecScalar.lean ====
section
/-! DEFINITION. The S class of Sedun (R98): what each instruction does to the registers of its core. -/
namespace Sys2Proof.Machine

/-- NOP (R98): nothing but the next PC. -/
def execNop (u : Issue) (f : FmtS) (s : State) : Result :=
  s.issue u (regOp (opNop f))
/-- ADD (R98): D ← A + B modulo 2^64. -/
def execAdd (u : Issue) (f : FmtS) (s : State) : Result :=
  s.issue u (regOp (opAdd f))
/-- SUB (R98): D ← A − B modulo 2^64. -/
def execSub (u : Issue) (f : FmtS) (s : State) : Result :=
  s.issue u (regOp (opSub f))
/-- MUL (R98): the low 64 bits of the product. -/
def execMul (u : Issue) (f : FmtS) (s : State) : Result :=
  s.issue u (regOp (opMul f))
/-- MULH (R98): the high 64 bits, unsigned with SUB[0]. -/
def execMulh (u : Issue) (f : FmtS) (s : State) : Result :=
  s.issue u (regOp (opMulh f))
/-- DIV (R98): truncated toward zero; by zero DIVIDE_ZERO. -/
def execDiv (u : Issue) (f : FmtS) (s : State) : Result :=
  s.issue u (regOp (opDiv f))
/-- REM (R98): with the sign of A. -/
def execRem (u : Issue) (f : FmtS) (s : State) : Result :=
  s.issue u (regOp (opRem f))
/-- AND (R98). -/
def execAnd (u : Issue) (f : FmtS) (s : State) : Result :=
  s.issue u (regOp (opAnd f))
/-- OR (R98). -/
def execOr (u : Issue) (f : FmtS) (s : State) : Result :=
  s.issue u (regOp (opOr f))
/-- XOR (R98). -/
def execXor (u : Issue) (f : FmtS) (s : State) : Result :=
  s.issue u (regOp (opXor f))
/-- SHL (R98): by B modulo 64. -/
def execShl (u : Issue) (f : FmtS) (s : State) : Result :=
  s.issue u (regOp (opShl f))
/-- SHR (R98). -/
def execShr (u : Issue) (f : FmtS) (s : State) : Result :=
  s.issue u (regOp (opShr f))
/-- SAR (R98). -/
def execSar (u : Issue) (f : FmtS) (s : State) : Result :=
  s.issue u (regOp (opSar f))
/-- SCMP (R98): 1 where the condition of SUB holds. -/
def execScmp (u : Issue) (f : FmtS) (s : State) : Result :=
  s.issue u (regOp (opScmp f))
/-- MIN (R98). -/
def execMin (u : Issue) (f : FmtS) (s : State) : Result :=
  s.issue u (regOp (opMin f))
/-- MAX (R98). -/
def execMax (u : Issue) (f : FmtS) (s : State) : Result :=
  s.issue u (regOp (opMax f))
/-- MOVI (R98). -/
def execMovi (u : Issue) (f : FmtS) (s : State) : Result :=
  s.issue u (regOp (opMovi f))
/-- MOVHI (R98): the other bits of D stay. -/
def execMovhi (u : Issue) (f : FmtS) (s : State) : Result :=
  s.issue u (regOp (opMovhi f))
/-- FADD (R98, R70, R77). -/
def execFadd (u : Issue) (f : FmtS) (s : State) : Result :=
  s.issue u (regOp (opFadd f))
/-- FSUB (R98). -/
def execFsub (u : Issue) (f : FmtS) (s : State) : Result :=
  s.issue u (regOp (opFsub f))
/-- FMUL (R98). -/
def execFmul (u : Issue) (f : FmtS) (s : State) : Result :=
  s.issue u (regOp (opFmul f))
/-- FFMA (R98): rounded once. -/
def execFfma (u : Issue) (f : FmtS) (s : State) : Result :=
  s.issue u (regOp (opFfma f))
/-- FMIN (R98, R70). -/
def execFmin (u : Issue) (f : FmtS) (s : State) : Result :=
  s.issue u (regOp (opFmin f))
/-- FMAX (R98, R70). -/
def execFmax (u : Issue) (f : FmtS) (s : State) : Result :=
  s.issue u (regOp (opFmax f))
/-- FCMP (R98). -/
def execFcmp (u : Issue) (f : FmtS) (s : State) : Result :=
  s.issue u (regOp (opFcmp f))
/-- FCVT (R98, R71). -/
def execFcvt (u : Issue) (f : FmtS) (s : State) : Result :=
  s.issue u (regOp (opFcvt f))
/-- PMASK (R98). -/
def execPmask (u : Issue) (f : FmtS) (s : State) : Result :=
  s.issue u (regOp (opPmask f))
/-- PLOG (R98). -/
def execPlog (u : Issue) (f : FmtS) (s : State) : Result :=
  s.issue u (regOp (opPlog f))
/-- PCNT (R98). -/
def execPcnt (u : Issue) (f : FmtS) (s : State) : Result :=
  s.issue u (regOp (opPcnt f))

end Sys2Proof.Machine
end

