-- ==== Sys2Proof/Machine/ExecVector.lean ====
section
/-! DEFINITION. The V and M classes of Sedun (R99–R103). -/
namespace Sys2Proof.Machine

/-- VADD (R99, R100); elements rounded stochastically are counted (R521). -/
def execVadd (u : Issue) (f : FmtV) (s : State) : Result :=
  s.issueV u (countedOp 0x0D (stochOf f) (opVadd f))
/-- VSUB (R99). -/
def execVsub (u : Issue) (f : FmtV) (s : State) : Result :=
  s.issueV u (countedOp 0x0D (stochOf f) (opVsub f))
/-- VMUL (R99). -/
def execVmul (u : Issue) (f : FmtV) (s : State) : Result :=
  s.issueV u (countedOp 0x0D (stochOf f) (opVmul f))
/-- VFMA (R99): rounded once. -/
def execVfma (u : Issue) (f : FmtV) (s : State) : Result :=
  s.issueV u (countedOp 0x0D (stochOf f) (opVfma f))
/-- VMAX (R99, R70). -/
def execVmax (u : Issue) (f : FmtV) (s : State) : Result :=
  s.issueV u (regOp (opVmax f))
/-- VMIN (R99, R70). -/
def execVmin (u : Issue) (f : FmtV) (s : State) : Result :=
  s.issueV u (regOp (opVmin f))
/-- VABS (R99). -/
def execVabs (u : Issue) (f : FmtV) (s : State) : Result :=
  s.issueV u (regOp (opVabs f))
/-- VNEG (R99). -/
def execVneg (u : Issue) (f : FmtV) (s : State) : Result :=
  s.issueV u (regOp (opVneg f))
/-- VCMP (R98, R99). -/
def execVcmp (u : Issue) (f : FmtV) (s : State) : Result :=
  s.issueV u (regOp (opVcmp f))
/-- VSEL (R99). -/
def execVsel (u : Issue) (f : FmtV) (s : State) : Result :=
  s.issueV u (regOp (opVsel f))
/-- VLOG (R99). -/
def execVlog (u : Issue) (f : FmtV) (s : State) : Result :=
  s.issueV u (regOp (opVlog f))
/-- VSH (R99). -/
def execVsh (u : Issue) (f : FmtV) (s : State) : Result :=
  s.issueV u (regOp (opVsh f))
/-- VCVT (R71, R72, R101, R102). -/
def execVcvt (u : Issue) (f : FmtV) (s : State) : Result :=
  s.issueV u (countedOp 0x0D (stochCvt f) (opVcvt f))
/-- VRQ (R74, R101). -/
def execVrq (u : Issue) (f : FmtV) (s : State) : Result :=
  s.issueV u (regOp (opVrq f))
/-- VQMX (R73, R101). -/
def execVqmx (u : Issue) (f : FmtV) (s : State) : Result :=
  s.issueV u (countedOp 0x0D (stochQmx f) (opVqmx f))
/-- VFN (R70). -/
def execVfn (u : Issue) (f : FmtV) (s : State) : Result :=
  s.issueV u (regOp (opVfn f))
/-- VRED (R102). -/
def execVred (u : Issue) (f : FmtV) (s : State) : Result :=
  s.issueV u (regOp (opVred f))
/-- VBC (R99). -/
def execVbc (u : Issue) (f : FmtV) (s : State) : Result :=
  s.issueV u (regOp (opVbc f))
/-- VPERM (R99). -/
def execVperm (u : Issue) (f : FmtV) (s : State) : Result :=
  s.issueV u (regOp (opVperm f))
/-- VMOV (R99). -/
def execVmov (u : Issue) (f : FmtV) (s : State) : Result :=
  s.issueV u (regOp (opVmov f))
/-- VEXT (R99). -/
def execVext (u : Issue) (f : FmtV) (s : State) : Result :=
  s.issueV u (regOp (opVext f))
/-- VINS (R99). -/
def execVins (u : Issue) (f : FmtV) (s : State) : Result :=
  s.issueV u (regOp (opVins f))
/-- MMA (R55–R57, R68, R103); a step accepted is counted (R521). -/
def execMma (u : Issue) (f : FmtM) (s : State) : Result :=
  s.issue u (countedOp 0x02 (fun _ => 1) (opMma f))
/-- TZERO (R103). -/
def execTzero (u : Issue) (f : FmtM) (s : State) : Result :=
  s.issue u (regOp (opTzero f))
/-- TRD (R58, R103). -/
def execTrd (u : Issue) (f : FmtM) (s : State) : Result :=
  s.issue u (regOp (opTrd f))
/-- TWR (R58, R103). -/
def execTwr (u : Issue) (f : FmtM) (s : State) : Result :=
  s.issue u (regOp (opTwr f))

end Sys2Proof.Machine
end

