-- ==== Sys2Proof/Machine/ExecMemory.lean ====
section
/-! DEFINITION. The X class of Sedun (R104–R111): the local store, DMA, semaphores, atomics and fences. -/
namespace Sys2Proof.Machine

/-- LD (R43, R104, R121). -/
def execLd (u : Issue) (f : FmtX) (s : State) : Result :=
  s.issue u (ldOp f)
/-- ST (R104, R119, R121). -/
def execSt (u : Issue) (f : FmtX) (s : State) : Result :=
  s.issue u (stOp f)
/-- VLD (R104). -/
def execVld (u : Issue) (f : FmtX) (s : State) : Result :=
  s.issue u (vldOp f)
/-- VST (R104). -/
def execVst (u : Issue) (f : FmtX) (s : State) : Result :=
  s.issue u (vstOp f)
/-- MXL (R105). -/
def execMxl (u : Issue) (f : FmtX) (s : State) : Result :=
  s.issue u (mxlOp f)
/-- DMA (R106–R108, R53): checked and enqueued, or waiting while 16 are incomplete. -/
def execDma (u : Issue) (f : FmtX) (s : State) : Result :=
  s.issueSync u (dmaOp f)
/-- DMAW (R104). -/
def execDmaw (u : Issue) (f : FmtX) (s : State) : Result :=
  s.issue u (dmawOp f)
/-- SEMA (R109, R110). -/
def execSema (u : Issue) (f : FmtX) (s : State) : Result :=
  s.issueSync u (semaOp f)
/-- SEMT (R109). -/
def execSemt (u : Issue) (f : FmtX) (s : State) : Result :=
  s.issueSync u (semtOp f)
/-- SEMR (R109, R123). -/
def execSemr (u : Issue) (f : FmtX) (s : State) : Result :=
  s.issueSync u (semrOp f)
/-- AMO (R111, R123). -/
def execAmo (u : Issue) (f : FmtX) (s : State) : Result :=
  s.issueSync u (amoOp f)
/-- MWAIT (R111). -/
def execMwait (u : Issue) (f : FmtX) (s : State) : Result :=
  s.issueSync u (mwaitOp f)
/-- FENCE (R104, R123). -/
def execFence (u : Issue) (f : FmtX) (s : State) : Result :=
  s.issue u (fenceOp f)

end Sys2Proof.Machine
end

