-- ==== Sys2Proof/Machine/ExecControl.lean ====
section
/-! DEFINITION. The C and E classes of Sedun (R112–R120): branches, yield points, engines, credits, epochs and system reads. -/
namespace Sys2Proof.Machine

/-- BR (R93, R117). -/
def execBr (u : Issue) (f : FmtC) (s : State) : Result :=
  s.issue u (brOp f)
/-- CALL (R117). -/
def execCall (u : Issue) (f : FmtC) (s : State) : Result :=
  s.issue u (callOp f)
/-- JR (R117). -/
def execJr (u : Issue) (f : FmtC) (s : State) : Result :=
  s.issue u (jrOp f)
/-- YLD (R118, R119). -/
def execYld (u : Issue) (f : FmtC) (s : State) : Result :=
  s.issueSync u (yldOp f)
/-- END (R120). -/
def execEnd (u : Issue) (f : FmtC) (s : State) : Result :=
  s.issueSync u (endOp f)
/-- EISS (R112, R113). -/
def execEiss (u : Issue) (f : FmtE) (s : State) : Result :=
  s.issueSync u (eissOp f)
/-- EWAIT (R113). -/
def execEwait (u : Issue) (f : FmtE) (s : State) : Result :=
  s.issue u (ewaitOp f)
/-- EPOLL (R112, R113). -/
def execEpoll (u : Issue) (f : FmtE) (s : State) : Result :=
  s.issue u (epollOp f)
/-- CRDB (R116, R356). -/
def execCrdb (u : Issue) (f : FmtE) (s : State) : Result :=
  s.issue u (crdbOp f)
/-- CRDR (R116, R356). -/
def execCrdr (u : Issue) (f : FmtE) (s : State) : Result :=
  s.issueSync u (crdrOp f)
/-- EPRD (R114). -/
def execEprd (u : Issue) (f : FmtE) (s : State) : Result :=
  s.issue u (eprdOp f)
/-- EPWAIT (R114). -/
def execEpwait (u : Issue) (f : FmtE) (s : State) : Result :=
  s.issue u (epwaitOp f)
/-- EPRSLV (R202). -/
def execEprslv (u : Issue) (f : FmtE) (s : State) : Result :=
  s.issueSync u (eprslvOp f)
/-- CID (R97, R112). -/
def execCid (u : Issue) (f : FmtE) (s : State) : Result :=
  s.issue u (cidOp f)
/-- TIME (R115). -/
def execTime (u : Issue) (f : FmtE) (s : State) : Result :=
  s.issue u (timeOp f)
/-- FLGR (R112). -/
def execFlgr (u : Issue) (f : FmtE) (s : State) : Result :=
  s.issue u (flgrOp f)
/-- FLGC (R112). -/
def execFlgc (u : Issue) (f : FmtE) (s : State) : Result :=
  s.issue u (flgcOp f)
/-- GRD (R115, R521). -/
def execGrd (u : Issue) (f : FmtE) (s : State) : Result :=
  s.issue u (grdOp f)
/-- ILLEGAL_OPCODE (R89, R129): a word that spells no instruction faults; for any other this is not its event. -/
def execIllegalOpcode (u : Issue) (word : W64) (s : State) : Result :=
  s.runIf (s.dev.hw.hasCore u.core) (fun d => if (Sys2Proof.decodeSedun u word).isSome then d else d.issueReg u false (fun _ _ => .error .illegalOpcode))

end Sys2Proof.Machine
end

