-- ==== Sys2Proof/Machine/ExecHost.lean ====
section
/-! DEFINITION. Register writes, the host window, rings, descriptors and the host link (R3–R11, R50, R108, R163–R190). -/
namespace Sys2Proof.Machine

/-- Is the offset a block's LOCK register? -/
def lockAt (h : Hw) (off : Nat) : Bool := match blockAt h off with
  | some b => off == b.base + 0xC
  | none => false
/-- Blocks whose register writes can end jobs, fence units, wake waits or stop compute. -/
def blockSettles : Block → Bool
  | .key => true
  | .jfe => true
  | .ngd => true
  | .pwr => true
  | .qn _ => true
  | .pav _ => true
  | _ => false
def settles (h : Hw) (off : Nat) : Bool := match blockAt h off with
  | some b => blockSettles b
  | none => false
/-- COALESCE_TIMEOUT: the oldest record not yet signalled is TIME µs old (R185). -/
def Dev.coalesceFx (d : Dev) (v : Nat) : Dev :=
  match FMap.get none d.jfe.coalTick v with
  | some t => if v < 17 ∧ t + ticksUs (d.rf (HOST_COAL v) 25 16) ≤ d.ticks then d.signal v else d
  | none => d

/-- REGISTER_WRITE (R3–R9): by access type; in the blocks whose registers end jobs, fence units or open epochs, what becomes due follows. -/
def execRegisterWrite (w : Writer) (off : Nat) (v : W32) (s : State) : Result :=
  s.run (fun d => let d1 := d.writeReg w off v
    if settles d.hw off then d1.settle else d1)
/-- LOCK_SET (R11): a write of LOCK. -/
def execLockSet (w : Writer) (off : Nat) (v : W32) (s : State) : Result :=
  s.run (fun d => if lockAt d.hw off then d.writeReg w off v else d)
/-- BAR0_ODD_ACCESS (R4). -/
def execBar0OddAccess (write : Bool) (off size : Nat) (s : State) : Result :=
  s.run (fun d => d.oddAccess write off size)
/-- HOST_BAR2_ACCESS (R166, R167). -/
def execHostBar2Access (write : Bool) (off len : Nat) (data : List Byte) (mem : List MemEvent) (s : State) : Result :=
  s.run (fun d => (d.bar2Fx write off len data mem).settle)
/-- HOST_WIN_BASE_WRITE (R166). -/
def execHostWinBaseWrite (w : Writer) (hi : Bool) (v : W32) (s : State) : Result :=
  s.write w (if hi then HOST_WIN_BASE_HI else HOST_WIN_BASE_LO) v
/-- DMA_COMPLETE (R50, R122). -/
def execDmaComplete (core : Nat) (err : StorageEvent) (mem : List MemEvent) (s : State) : Result :=
  s.runIf (s.dev.hw.hasCore core) (fun d => (d.dmaDoneFx core err mem).settle)
/-- MULTICAST_READ_START (R52, R108). -/
def execMulticastReadStart (core : Nat) (s : State) : Result :=
  s.runIf (s.dev.hw.hasCore core) (fun d => d.multicastFx core)
/-- KV_APPEND_COMPLETE (R258). -/
def execKvAppendComplete (core : Nat) (err : StorageEvent) (s : State) : Result :=
  s.runIf (s.dev.hw.hasCore core) (fun d => (d.kvDoneFx core err).settle)
/-- SUBMISSION_POLL (R169–R172). -/
def execSubmissionPoll (host : List (Nat × Byte)) (s : State) : Result :=
  s.run (fun d => (d.hostTake host).poll)
/-- INVOKE (R136, R146, R176): the oldest accepted descriptor, when it is one. -/
def execInvoke (s : State) : Result :=
  s.run (fun d => (d.invokeFx).settle)
/-- LOAD_MODEL (R130–R135, R178). -/
def execLoadModel (s : State) : Result :=
  s.run (fun d => (d.loadModelFx).settle)
/-- UNLOAD_MODEL (R135). -/
def execUnloadModel (s : State) : Result :=
  s.run (fun d => (d.unloadModelFx).settle)
/-- BIND_PARTITION (R137–R140). -/
def execBindPartition (s : State) : Result :=
  s.run (fun d => (d.bindFx).settle)
/-- SET_QUADRILLE (R141–R144, R460): the domains the new Quadrille adds are powered on at its acceptance. -/
def execSetQuadrille (s : State) : Result :=
  s.run (fun d => (d.setQuadrilleFx.regate (fun _ => false)).settle)
/-- PLAN_REQUEST (R179). -/
def execPlanRequest (s : State) : Result :=
  s.run (fun d => (d.planRequestFx).settle)
/-- QUERY_FENCE (R420). -/
def execQueryFence (s : State) : Result :=
  s.run (fun d => d.queryFenceFx)
/-- TEST_REQUEST (R178, R450, R461): domains that the test needs are powered on. -/
def execTestRequest (s : State) : Result :=
  s.run (fun d => (d.testRequestFx.regate (fun _ => false)).settle)
/-- The NOP descriptor (R175). -/
def execDescNop (s : State) : Result :=
  s.run (fun d => d.descNopFx)
/-- RING_ENABLE (R168, R187): rings 0 to 2 are submission, completion and event. -/
def execRingEnable (w : Writer) (ring : Nat) (v : W32) (s : State) : Result :=
  s.run (fun d => if 3 ≤ ring then d else d.writeReg w (ringCfg ring) v)
/-- SQ_PAUSE (R170). -/
def execSqPause (w : Writer) (v : W32) (s : State) : Result :=
  s.write w HOST_SQ_CFG v
/-- COMPLETION_RECORD_WRITE (R180, R181). -/
def execCompletionRecordWrite (host : List (Nat × Byte)) (s : State) : Result :=
  s.run (fun d => ((d.hostTake host).recordStep).settle)
/-- EVENT_RECORD_WRITE (R183). -/
def execEventRecordWrite (host : List (Nat × Byte)) (s : State) : Result :=
  s.run (fun d => (d.hostTake host).eventStep)
/-- COALESCE_TIMEOUT (R185). -/
def execCoalesceTimeout (vector : Nat) (s : State) : Result :=
  s.run (fun d => d.coalesceFx vector)
/-- CONFIG_REQUEST (R163, R164). -/
def execConfigRequest (bme : Option Bool) (s : State) : Result :=
  s.run (fun d => d.configFx bme)
/-- PERST_ASSERT (R164, R504). -/
def execPerstAssert (s : State) : Result :=
  s.run (fun d => (d.perstAssertFx).settle)
/-- PERST_DEASSERT (R503, R512): boundary instructions end, and start-up runs. -/
def execPerstDeassert (b : BootInput) (s : State) : Result :=
  s.run (fun d => (d.boundaryEnds.perstDeassertFx b).settle)
/-- HOST_RESET (R164). -/
def execHostReset (flr : Bool) (s : State) : Result :=
  s.run (fun d => (d.hostResetFx flr).settle)
/-- LINK_DOWN (R164). -/
def execLinkDown (s : State) : Result :=
  s.run (fun d => d.linkDownFx)
/-- LINK_UP (R164, R189). -/
def execLinkUp (rate width : Nat) (s : State) : Result :=
  s.run (fun d => d.linkUpFx rate width)
/-- D3HOT_ENTRY (R164). -/
def execD3hotEntry (s : State) : Result :=
  s.run (fun d => d.d3Fx)
/-- BME_CLEAR (R164). -/
def execBmeClear (s : State) : Result :=
  s.run (fun d => d.bmeClearFx)

end Sys2Proof.Machine
end

