-- ==== Sys2Proof/Machine/ExecFrame.lean ====
section
/-! DEFINITION. The Quadrille, jobs and speculation (R141–R158, R192–R212). -/
namespace Sys2Proof.Machine

/-- MAJOR_FRAME_BOUNDARY, when the next origin has come: the new frame, staged pools, tests that were asked for, and what the Quoins do at
a boundary; a switch lets go of domains the new Quadrille does not name (R460). -/
def Dev.frameFx (d : Dev) : Dev :=
  if !d.boundaryDue then d
  else
    let d1 := d.frameCore.applyPools.testBoundary.quoinBoundary
    if d.switchTo.isSome then d1.regate (fun _ => true) else d1
/-- The squashed lines of an epoch on a die are written back and untagged. -/
def Dev.writebackFx (d : Dev) (n e : Nat) : Dev :=
  ((d.tags.filter (fun t => t.2 == .squashed e && lineDie t.1 == n)).map (·.1)).foldl Dev.writeBack d
/-- The copy of a confirmed MIRROR line is written, where the region still has one. -/
def Dev.commitLine (d : Dev) (l : Nat) : Dev :=
  let d1 := { d with mirrorDue := FMap.set 0 d.mirrorDue l 0 }
  ((d1.writtenTo (64 * l)).filter (· != 64 * l)).foldl (fun (e : Dev) a =>
    { (e.setCells a (d.cells (64 * l) 64)) with poison := FMap.set false e.poison (a / 64) (FMap.get false d.poison l) }) d1
def Dev.mirrorCommitFx (d : Dev) (e : Nat) : Dev := ((d.mirrorDue.filter (fun m => m.2 == e)).map (·.1)).foldl Dev.commitLine d

/-- FIGURE_OPEN (R143, R146). -/
def execFigureOpen (fig : Nat) (s : State) : Result :=
  s.run (fun d => (d.figureOpenFx fig).settle)
/-- FIGURE_CLOSE (R147, R155, R205). -/
def execFigureClose (fig : Nat) (s : State) : Result :=
  s.run (fun d => (d.figureCloseFx fig).settle)
/-- MAJOR_FRAME_BOUNDARY (R144, R209, R354, R424, R438, R460). -/
def execMajorFrameBoundary (s : State) : Result :=
  s.run (fun d => (d.frameFx).settle)
/-- JOB_START (R146, R331). -/
def execJobStart (ctx : Nat) (s : State) : Result :=
  s.run (fun d => (d.jobStartFx ctx).settle)
/-- ZEROING_COMPLETE (R54). -/
def execZeroingComplete (core : Nat) (s : State) : Result :=
  s.runIf (s.dev.hw.hasCore core) (fun d => (d.zeroingDoneFx core).settle)
/-- JOIN_HANDOVER_COMPLETE (R433–R435). -/
def execJoinHandoverComplete (cluster : Nat) (failed : List (Nat × Nat × Bool)) (s : State) : Result :=
  s.runIf (s.dev.hw.hasCluster cluster) (fun d => (d.joinFx cluster failed).settle)
/-- SPLIT_HANDOVER_COMPLETE (R434). -/
def execSplitHandoverComplete (cluster : Nat) (s : State) : Result :=
  s.runIf (s.dev.hw.hasCluster cluster) (fun d => (d.splitFx cluster).settle)
/-- JOB_DEADLINE (R147, R150). -/
def execJobDeadline (ctx : Nat) (s : State) : Result :=
  s.run (fun d => (d.jobDeadlineFx ctx).settle)
/-- JOB_COMPLETE (R120, R148). -/
def execJobComplete (ctx : Nat) (s : State) : Result :=
  s.run (fun d => (d.jobCompleteFx ctx).settle)
/-- REMOTE_DRAIN_EXPIRY (R151). -/
def execRemoteDrainExpiry (ctx : Nat) (s : State) : Result :=
  s.run (fun d => (d.remoteDrainFx ctx).settle)
/-- TEARDOWN_COMPLETE (R151, R152). -/
def execTeardownComplete (ctx : Nat) (s : State) : Result :=
  s.run (fun d => (d.teardownDone ctx).settle)
/-- REMOTE_WAIT_TIMEOUT (R154). -/
def execRemoteWaitTimeout (core : Nat) (s : State) : Result :=
  s.runIf (s.dev.hw.hasCore core) (fun d => (d.remoteWaitFx core).settle)
/-- PREEMPT_LIMIT_EXPIRY (R154). -/
def execPreemptLimitExpiry (ctx : Nat) (s : State) : Result :=
  s.run (fun d => (d.preemptLimitFx ctx).settle)
/-- JOB_RESUME (R156, R437). -/
def execJobResume (ctx : Nat) (s : State) : Result :=
  s.run (fun d => (d.jobResumeFx ctx).settle)
/-- RESUME_COMPLETE (R156). -/
def execResumeComplete (ctx : Nat) (s : State) : Result :=
  s.run (fun d => (d.resumeDoneFx ctx).settle)
/-- DIE_FENCE (R158): both Quoins declare the die, and what it ends follows. -/
def execDieFence (die : Nat) (s : State) : Result :=
  s.runIf (s.dev.hw.hasDie die) (fun d => (d.declareBoth (unitNo die 5 0) 3).settle)
/-- SPEC_ENABLE (R193, R199, R211). -/
def execSpecEnable (w : Writer) (v : W32) (s : State) : Result :=
  s.writeSettle w JFE_SPEC_CFG v
/-- SHADOW_WRITEBACK_DONE (R206). -/
def execShadowWritebackDone (die epoch : Nat) (s : State) : Result :=
  s.runIf (s.dev.hw.hasDie die) (fun d => d.writebackFx die epoch)
/-- MIRROR_COMMIT_DONE (R204). -/
def execMirrorCommitDone (epoch : Nat) (s : State) : Result :=
  s.run (fun d => d.mirrorCommitFx epoch)

end Sys2Proof.Machine
end

