-- ==== Sys2Proof/Machine/ExecEngine.lean ====
section
/-! DEFINITION. Engine and Cairn commands (R213–R309). -/
namespace Sys2Proof.Machine

/-- CONV (R226–R231, R233). -/
def execConv (g : EngIssue) (s : State) : Result :=
  s.runIf (s.dev.hw.hasDie g.die) (fun d => (d.engStart 0 1 g).settle)
/-- CONV_TRANSPOSED (R229–R231). -/
def execConvTransposed (g : EngIssue) (s : State) : Result :=
  s.runIf (s.dev.hw.hasDie g.die) (fun d => (d.engStart 0 2 g).settle)
/-- POOL (R232). -/
def execPool (g : EngIssue) (s : State) : Result :=
  s.runIf (s.dev.hw.hasDie g.die) (fun d => (d.engStart 0 3 g).settle)
/-- RESAMPLE (R232). -/
def execResample (g : EngIssue) (s : State) : Result :=
  s.runIf (s.dev.hw.hasDie g.die) (fun d => (d.engStart 0 4 g).settle)
/-- INGEST (R234–R237). -/
def execIngest (g : EngIssue) (s : State) : Result :=
  s.runIf (s.dev.hw.hasDie g.die) (fun d => (d.engStart 1 1 g).settle)
/-- PLINTH_CONV (R234, R237). -/
def execPlinthConv (g : EngIssue) (s : State) : Result :=
  s.runIf (s.dev.hw.hasDie g.die) (fun d => (d.engStart 1 2 g).settle)
/-- INGEST_CONV (R234–R237). -/
def execIngestConv (g : EngIssue) (s : State) : Result :=
  s.runIf (s.dev.hw.hasDie g.die) (fun d => (d.engStart 1 3 g).settle)
/-- DETECT (R238–R244). -/
def execDetect (g : EngIssue) (s : State) : Result :=
  s.runIf (s.dev.hw.hasDie g.die) (fun d => (d.engStart 2 1 g).settle)
/-- SUPPRESS (R241–R244). -/
def execSuppress (g : EngIssue) (s : State) : Result :=
  s.runIf (s.dev.hw.hasDie g.die) (fun d => (d.engStart 2 2 g).settle)
/-- ATTEND (R249–R251, R259–R261, R265). -/
def execAttend (g : EngIssue) (s : State) : Result :=
  s.runIf (s.dev.hw.hasDie g.die) (fun d => (d.engStart 3 1 g).settle)
/-- VERIFY (R262, R263). -/
def execVerify (g : EngIssue) (s : State) : Result :=
  s.runIf (s.dev.hw.hasDie g.die) (fun d => (d.engStart 3 2 g).settle)
/-- TRUNCATE (R263). -/
def execTruncate (g : EngIssue) (s : State) : Result :=
  s.runIf (s.dev.hw.hasDie g.die) (fun d => (d.engStart 3 3 g).settle)
/-- ATTEND_BWD (R266). -/
def execAttendBwd (g : EngIssue) (s : State) : Result :=
  s.runIf (s.dev.hw.hasDie g.die) (fun d => (d.engStart 3 4 g).settle)
/-- ENGINE_COMMAND_COMPLETE (R113, R214, R296): engines 0 to 3 of a die, 4 and 5 Cairn’s check and world paths. -/
def execEngineCommandComplete (die engine : Nat) (s : State) : Result :=
  s.runIf (decide (4 ≤ engine) || s.dev.hw.hasDie die) (fun d => (match engine with
    | 4 => d.crnCheckDone
    | 5 => d.crnWorldDone
    | e => if e < 4 then d.engDoneFx die e else d).settle)
/-- TRC_SEQ_LOAD (R255): the write whose command code is LOAD. -/
def execTrcSeqLoad (w : Writer) (die : Nat) (v : W32) (s : State) : Result :=
  s.runIf (s.dev.hw.hasDie die) (fun d => if v.toNat / 2 ^ 30 = 1 then d.writeReg w (TRC_SEQ_CMD die) v else d)
/-- TRC_SEQ_RELEASE (R255): the write whose command code is RELEASE. -/
def execTrcSeqRelease (w : Writer) (die : Nat) (v : W32) (s : State) : Result :=
  s.runIf (s.dev.hw.hasDie die) (fun d => if v.toNat / 2 ^ 30 = 2 then d.writeReg w (TRC_SEQ_CMD die) v else d)
/-- WORLD_LOAD (R273, R281). -/
def execWorldLoad (g : EngIssue) (s : State) : Result :=
  s.run (fun d => (d.crnStart 1 g).settle)
/-- WORLD_UPDATE (R281). -/
def execWorldUpdate (g : EngIssue) (s : State) : Result :=
  s.run (fun d => (d.crnStart 2 g).settle)
/-- ROADMAP_LOAD (R284). -/
def execRoadmapLoad (g : EngIssue) (s : State) : Result :=
  s.run (fun d => (d.crnStart 3 g).settle)
/-- PLAN (R287–R296). -/
def execPlan (g : EngIssue) (s : State) : Result :=
  s.run (fun d => (d.crnStart 4 g).settle)
/-- STORE_FALLBACK (R302). -/
def execStoreFallback (g : EngIssue) (s : State) : Result :=
  s.run (fun d => (d.crnStart 5 g).settle)
/-- CAIRN_SLICE_BOUNDARY (R282, R283, R286, R299). -/
def execCairnSliceBoundary (s : State) : Result :=
  s.run (fun d => (d.crnSliceFx).settle)
/-- EDGE_BATCH_COMPLETE (R285, R286). -/
def execEdgeBatchComplete (s : State) : Result :=
  s.run (fun d => (d.edgeBatchFx).settle)
/-- PLAN_END_TIME (R294, R295). -/
def execPlanEndTime (resolved : List Nat) (s : State) : Result :=
  s.run (fun d => (d.planEndTimeFx resolved).settle)
/-- FALLBACK_ACK (R302). -/
def execFallbackAck (quoin : Nat) (s : State) : Result :=
  s.runIf (hasQuoin quoin) (fun d => (d.fallbackAckFx quoin).settle)
/-- FALLBACK_ACK_TIMEOUT (R302). -/
def execFallbackAckTimeout (s : State) : Result :=
  s.run (fun d => (d.fallbackTimeoutFx).settle)
/-- CAIRN_FENCE (R301). -/
def execCairnFence (storeUe : Option Nat) (s : State) : Result :=
  s.run (fun d => (d.cairnFenceFx storeUe).settle)
/-- PROBE (R298, R307). -/
def execProbe (w : Writer) (v : W32) (s : State) : Result :=
  s.write w CRN_PROBE_CMD v
/-- PQ_PUSH (R298): a write of PUSH. -/
def execPqPush (w : Writer) (s : State) : Result :=
  s.write w CRN_PQ_CMD 1
/-- PQ_POP (R298). -/
def execPqPop (w : Writer) (s : State) : Result :=
  s.write w CRN_PQ_CMD 2
/-- PQ_CLEAR (R298). -/
def execPqClear (w : Writer) (s : State) : Result :=
  s.write w CRN_PQ_CMD 3
/-- EDGE_INVALIDATE (R305). -/
def execEdgeInvalidate (w : Writer) (v : W32) (s : State) : Result :=
  s.write w CRN_EDGE_INVALIDATE v

end Sys2Proof.Machine
end

