-- ==== Sys2Proof/Machine/ExecSystem.lean ====
section
/-! DEFINITION. Memory, the Bandwidth Regulator and the Arch links (R310–R365). -/
namespace Sys2Proof.Machine

/-- REFRESH_INTERVAL (R313, R314). -/
def execRefreshInterval (stack : Nat) (idle : List Nat) (s : State) : Result :=
  s.runIf (s.dev.hw.hasStack stack) (fun d => d.refreshFx stack idle)
/-- CA_PARITY_ERROR (R312): issued again once. -/
def execCaParityError (stack addr : Nat) (s : State) : Result :=
  s.runIf (s.dev.hw.hasStack stack) (fun d => d.caErrorFx stack addr)
/-- CA_PARITY_RETRY (R312). -/
def execCaParityRetry (stack : Nat) (fails : Bool) (s : State) : Result :=
  s.runIf (s.dev.hw.hasStack stack) (fun d => (d.caRetryFx stack fails).settle)
/-- MIGRATION_UNIT_COPIED (R318, R319). -/
def execMigrationUnitCopied (stack : Nat) (spareUe : Bool) (s : State) : Result :=
  s.runIf (s.dev.hw.hasStack stack) (fun d => (d.unitCopied stack spareUe).settle)
/-- RESYNC_COMPLETE (R325). -/
def execResyncComplete (part region : Nat) (s : State) : Result :=
  s.run (fun d => (d.resyncDone (16 * part + region)).settle)
/-- SEM_PARITY_ERROR (R329). -/
def execSemParityError (die index : Nat) (s : State) : Result :=
  s.runIf (s.dev.hw.hasDie die) (fun d => (d.semParityFx die index).settle)
/-- REGULATION_INTERVAL (R333). -/
def execRegulationInterval (cls stack : Nat) (bursts : List Nat) (s : State) : Result :=
  s.runIf (s.dev.hw.hasStack stack) (fun d => d.regulateFx cls stack bursts)
/-- GUARANTEE_RECOMPUTE (R335, R337). -/
def execGuaranteeRecompute (s : State) : Result :=
  s.run (fun d => (d.recompute).settle)
/-- DRAM_MODE_WRITE (R339). -/
def execDramModeWrite (w : Writer) (die : Nat) (v : W32) (s : State) : Result :=
  s.runIf (s.dev.hw.hasDie die) (fun d => d.writeReg w (MRT_DRAM_CFG die) v)
/-- FLIT_RECEIVE (R344–R348, R353–R357). -/
def execFlitReceive (die port : Nat) (sent got : List Byte) (s : State) : Result :=
  s.runIf (s.dev.hw.hasPort die port) (fun d => (d.flitFx die port sent got).settle)
/-- REPLAY_TIMEOUT (R347). -/
def execReplayTimeout (die port : Nat) (s : State) : Result :=
  s.runIf (s.dev.hw.hasPort die port) (fun d => (d.replayFx die port).settle)
/-- RETRAIN_COMPLETE (R348, R349). -/
def execRetrainComplete (die port : Nat) (badLanes : List Nat) (s : State) : Result :=
  s.runIf (s.dev.hw.hasPort die port) (fun d => (d.retrainFx die port badLanes).settle)
/-- RETRAIN_TIMEOUT (R349). -/
def execRetrainTimeout (die port : Nat) (s : State) : Result :=
  s.runIf (s.dev.hw.hasPort die port) (fun d => (d.retrainLateFx die port).settle)
/-- LINK_FENCE (R350, R351). -/
def execLinkFence (die port : Nat) (s : State) : Result :=
  s.runIf (s.dev.hw.hasPort die port) (fun d => (d.linkFenceFx die port).settle)
/-- PATROL_SCRUB (R315, R338). -/
def execPatrolScrub (stack addr : Nat) (mem : List MemEvent) (s : State) : Result :=
  s.runIf (s.dev.hw.hasStack stack) (fun d => (d.patrolFx stack addr mem).settle)
/-- LS_PATROL_SCRUB (R85). -/
def execLsPatrolScrub (core addr : Nat) (err : StorageEvent) (s : State) : Result :=
  s.runIf (s.dev.hw.hasCore core) (fun d => (d.lsPatrolFx core addr err).settle)
/-- LAYER_TEST_DONE (R450). -/
def execLayerTestDone (stack layer : Nat) (pass : Bool) (s : State) : Result :=
  s.runIf (s.dev.hw.hasStack stack) (fun d => (d.layerTestFx stack layer pass).settle)

end Sys2Proof.Machine
end

