-- ==== Sys2Proof/Machine/ExecIngest.lean ====
section
/-! DEFINITION. Sensor ingest and Plumb (R366–R400). -/
namespace Sys2Proof.Machine

/-- STREAM_ENABLE (R366, R368): a write of APHY_VC_CFG or ETH_FILT_ACTION. -/
def execStreamEnable (w : Writer) (off : Nat) (v : W32) (s : State) : Result :=
  s.run (fun d => if off = APHY_VC_CFG ∨ off = ETH_FILT_ACTION then d.writeReg w off v else d)
/-- FRAME_START (R369, R382). -/
def execFrameStart (port vc num : Nat) (hdr : CsiHeader) (s : State) : Result :=
  s.run (fun d => d.frameStartFx port vc num hdr)
/-- LONG_PACKET (R368, R369, R378). -/
def execLongPacket (port vc dt : Nat) (hdr : CsiHeader) (data : List Byte) (crcOk full : Bool) (s : State) : Result :=
  s.run (fun d => d.longPacketFx port vc dt hdr data crcOk full)
/-- FRAME_END (R369, R379–R383). -/
def execFrameEnd (port vc : Nat) (hdr : CsiHeader) (s : State) : Result :=
  s.run (fun d => (d.frameEndFx port vc hdr).settle)
/-- APHY_LINK_DOWN (R370). -/
def execAphyLinkDown (port : Nat) (data : List Byte) (s : State) : Result :=
  s.run (fun d => d.aphyDownFx port data)
/-- APHY_LINK_UP (R370). -/
def execAphyLinkUp (port gear : Nat) (s : State) : Result :=
  s.run (fun d => d.aphyUpFx port gear)
/-- I2C_TRANSACTION (R371). -/
def execI2cTransaction (w : Writer) (v : W32) (s : State) : Result :=
  s.write w APHY_I2C_CMD v
/-- I2C_DONE (R371). -/
def execI2cDone (port : Nat) (nack : Bool) (data : List Byte) (s : State) : Result :=
  s.run (fun d => d.i2cDoneFx port nack data)
/-- I2C_TIMEOUT (R371). -/
def execI2cTimeout (port : Nat) (data : List Byte) (s : State) : Result :=
  s.run (fun d => d.i2cTimeoutFx port data)
/-- ETH_FRAME_RECEIVE (R367, R373, R374, R388). -/
def execEthFrameReceive (port : Nat) (data : List Byte) (ok full : Bool) (sync : Option Int) (s : State) : Result :=
  s.run (fun d => (d.ethFrameFx port data ok full sync).settle)
/-- ETH_LINK_DOWN (R375, R388). -/
def execEthLinkDown (port : Nat) (s : State) : Result :=
  s.run (fun d => d.ethDownFx port)
/-- ETH_LINK_UP (R375). -/
def execEthLinkUp (port rate : Nat) (s : State) : Result :=
  s.run (fun d => d.ethUpFx port rate)
/-- HOST_FRAME_TX (R375, R398). -/
def execHostFrameTx (w : Writer) (v : W32) (s : State) : Result :=
  s.write w ETH_HOST_TX_CTL v
/-- HOST_FRAME_SENT (R375). -/
def execHostFrameSent (port : Nat) (s : State) : Result :=
  s.run (fun d => d.hostSentFx port)
/-- HOD_QUEUE_ENABLE (R377, R397). -/
def execHodQueueEnable (w : Writer) (v : W32) (s : State) : Result :=
  s.write w HOD_Q_CFG v
/-- HOD_STALL_TIMEOUT (R381). -/
def execHodStallTimeout (q source : Nat) (s : State) : Result :=
  s.run (fun d => d.hodStallFx q source)
/-- HOD_RELEASE_POLL (R382). -/
def execHodReleasePoll (q : Nat) (s : State) : Result :=
  s.run (fun d => d.hodPollFx q)
/-- PLB_INCR_WRITE (R385, R145). -/
def execPlbIncrWrite (w : Writer) (v : W32) (s : State) : Result :=
  s.write w PLB_INCR_FRAC v
/-- PLB_TIME_READ (R385): TIME_LO is answered, and the other halves are latched. -/
def execPlbTimeRead (s : State) : Result :=
  s.run (fun d => let r := d.timeRead; r.2.put (.reply (leBytes 4 r.1.toNat)))
/-- PLB_SET (R145, R386). -/
def execPlbSet (w : Writer) (s : State) : Result :=
  s.write w PLB_CMD 1
/-- PLB_ADD (R386). -/
def execPlbAdd (w : Writer) (s : State) : Result :=
  s.write w PLB_CMD 2
/-- PLB_SLEW (R386). -/
def execPlbSlew (w : Writer) (s : State) : Result :=
  s.write w PLB_CMD 3
/-- PLB_SOURCE_WRITE (R387, R388). -/
def execPlbSourceWrite (w : Writer) (v : W32) (s : State) : Result :=
  s.write w PLB_CFG v
/-- SYNC_TIMEOUT (R388). -/
def execSyncTimeout (s : State) : Result :=
  s.run (fun d => d.holdover)
/-- HOLDOVER_EXPIRY (R388). -/
def execHoldoverExpiry (s : State) : Result :=
  s.run (fun d => d.holdoverFx)
/-- PTP_MESSAGE_INTERVAL (R387). -/
def execPtpMessageInterval (port : Nat) (kind : Nat) (s : State) : Result :=
  s.run (fun d => d.ptpIntervalFx port kind)
/-- SLEW_DONE (R386). -/
def execSlewDone (s : State) : Result :=
  s.run (fun d => d.slewDoneFx)
/-- TRIGGER_ARM (R392). -/
def execTriggerArm (w : Writer) (trig : Nat) (v : W32) (s : State) : Result :=
  s.run (fun d => if 16 ≤ trig then d else d.writeReg w (PLB_TRIG_CTL trig) v)
/-- TRIGGER_FIRE (R372, R392). -/
def execTriggerFire (trig : Nat) (s : State) : Result :=
  s.run (fun d => d.trigFireFx trig)
/-- TRIGGER_PULSE_END (R392). -/
def execTriggerPulseEnd (trig : Nat) (s : State) : Result :=
  s.run (fun d => d.pulseEndFx trig)
/-- CAPTURE_EDGE (R379, R394). -/
def execCaptureEdge (input : Nat) (rising : Bool) (s : State) : Result :=
  s.run (fun d => (d.captureFx input rising).settle)
/-- CAP_STAMP_READ (R394): the oldest stamp is answered and leaves the FIFO. -/
def execCapStampRead (input : Nat) (s : State) : Result :=
  s.run (fun d => let r := d.capRead input; r.2.put (.reply (leBytes 4 r.1.toNat)))

end Sys2Proof.Machine
end

