-- ==== Sys2Proof/Machine/ExecQuoin.lean ====
section
/-! DEFINITION. Output records and the Quoins (R401–R430). -/
namespace Sys2Proof.Machine

/-- RECORD_CLOSE (R407–R410). -/
def execRecordClose (stream : Nat) (s : State) : Result :=
  s.run (fun d => (d.recordCloseFx stream).settle)
/-- RECORD_RELEASE (R411, R376). -/
def execRecordRelease (stream : Nat) (s : State) : Result :=
  s.run (fun d => (d.recordReleaseFx stream).settle)
/-- VERDICT_TIMEOUT (R411). -/
def execVerdictTimeout (stream : Nat) (s : State) : Result :=
  s.run (fun d => (d.verdictTimeoutFx stream).settle)
/-- RELEASE_GAP (R412). -/
def execReleaseGap (stream : Nat) (s : State) : Result :=
  s.run (fun d => (d.releaseGapFx stream).settle)
/-- CAN_FRAME_SENT (R414, R512): none while the boundary register drives the controller’s balls. -/
def execCanFrameSent (quoin ctl : Nat) (s : State) : Result :=
  s.runIf (hasQuoin quoin) (fun d => if d.canDriven quoin then d else d.canSentFx quoin ctl)
/-- STATUS_PERIOD (R414, R425). -/
def execStatusPeriod (quoin : Nat) (s : State) : Result :=
  s.runIf (hasQuoin quoin) (fun d => d.statusPeriodFx quoin)
/-- HEARTBEAT_FRAME (R416, R417). -/
def execHeartbeatFrame (quoin die : Nat) (frame : W64) (s : State) : Result :=
  s.runIf (hasQuoin quoin) (fun d => (d.heartbeatFx quoin die frame).settle)
/-- HEARTBEAT_MISS (R417). -/
def execHeartbeatMiss (quoin die : Nat) (s : State) : Result :=
  s.runIf (hasQuoin quoin) (fun d => (d.hbMissFx quoin die).settle)
/-- VERDICT_FRAME (R421). -/
def execVerdictFrame (quoin : Nat) (s : State) : Result :=
  s.runIf (hasQuoin quoin) (fun d => (d.verdictFrameFx quoin).settle)
/-- PARTNER_LOST (R421, R422). -/
def execPartnerLost (quoin : Nat) (s : State) : Result :=
  s.runIf (hasQuoin quoin) (fun d => (d.partnerLostFx quoin).settle)
/-- QUOIN_LOCKSTEP_ERROR (R404). -/
def execQuoinLockstepError (quoin : Nat) (s : State) : Result :=
  s.runIf (hasQuoin quoin) (fun d => (d.quoinFail quoin).settle)
/-- QUOIN_WATCHDOG_EXPIRY (R404). -/
def execQuoinWatchdogExpiry (quoin : Nat) (s : State) : Result :=
  s.runIf (hasQuoin quoin) (fun d => (d.quoinFail quoin).settle)
/-- CLOCK_FAULT (R405). -/
def execClockFault (quoin count : Nat) (s : State) : Result :=
  s.runIf (hasQuoin quoin) (fun d => (d.clockFaultFx quoin count).settle)
/-- SUPPLY_FAULT (R405). -/
def execSupplyFault (quoin : Nat) (s : State) : Result :=
  s.runIf (hasQuoin quoin) (fun d => (d.supplyFaultFx quoin).settle)
/-- LOAD_STREAMS (R406). -/
def execLoadStreams (w : Writer) (quoin : Nat) (s : State) : Result :=
  s.runIf (hasQuoin quoin) (fun d => (d.writeReg w (QN_CMD quoin) 0x10000000).settle)
/-- SAFE_EXIT (R424). -/
def execSafeExit (w : Writer) (quoin : Nat) (s : State) : Result :=
  s.runIf (hasQuoin quoin) (fun d => (d.writeReg w (QN_CMD quoin) 0x20000000).settle)
/-- FORCE_SAFE (R422, R429). -/
def execForceSafe (w : Writer) (quoin : Nat) (s : State) : Result :=
  s.runIf (hasQuoin quoin) (fun d => (d.writeReg w (QN_CMD quoin) 0x30000000).settle)
/-- CAN_BUS_OFF (R428). -/
def execCanBusOff (quoin ctl : Nat) (enter : Bool) (s : State) : Result :=
  s.runIf (hasQuoin quoin) (fun d => (d.busOffFx quoin ctl enter).settle)

end Sys2Proof.Machine
end

