-- ==== Sys2Proof/Machine/ExecPower.lean ====
section
/-! DEFINITION. Pavane, power, thermal and cooling (R431–R483). -/
namespace Sys2Proof.Machine

/-- SLICE_START (R439–R441). -/
def execSliceStart (place : Nat) (s : State) : Result :=
  s.runIf (s.dev.hw.hasPlace place || place == cairnPlace) (fun d => (d.sliceStartFx place).settle)
/-- SLICE_COMPLETE (R442–R446). -/
def execSliceComplete (place : Nat) (cores : List Nat) (lanes : List (Nat × Nat)) (s : State) : Result :=
  s.runIf (s.dev.hw.hasPlace place || place == cairnPlace) (fun d => (d.sliceDoneFx place cores lanes).settle)
/-- SLICE_ABANDON (R441). -/
def execSliceAbandon (place : Nat) (s : State) : Result :=
  s.runIf (s.dev.hw.hasPlace place || place == cairnPlace) (fun d => d.abandon place)
/-- COVERAGE_EXPIRY (R444). -/
def execCoverageExpiry (unit : Nat) (s : State) : Result :=
  s.run (fun d => d.coverageFx unit)
/-- BAND_CHANGE (R445, R446). -/
def execBandChange (die tband aband : Nat) (s : State) : Result :=
  s.runIf (s.dev.hw.hasDie die) (fun d => (d.bandFx die tband aband).settle)
/-- EXPORT (R447, R448). -/
def execExport (w : Writer) (s : State) : Result :=
  s.writeSettle w (PAV_LOG_CMD 0) 1
/-- IMPORT (R448). -/
def execImport (w : Writer) (s : State) : Result :=
  s.writeSettle w (PAV_LOG_CMD 0) 2
/-- NONE (R449). -/
def execNone (w : Writer) (s : State) : Result :=
  s.writeSettle w (PAV_LOG_CMD 0) 3
/-- INJECT (R452). -/
def execInject (w : Writer) (die : Nat) (v : W32) (s : State) : Result :=
  s.runIf (s.dev.hw.hasDie die) (fun d => (d.writeReg w (PAV_INJECT die) v).settle)
/-- POWER_CONTROL_STEP (R455–R457, R477–R479). -/
def execPowerControlStep (powers : List Nat) (s : State) : Result :=
  s.run (fun d => (d.powerStepFx powers).settle)
/-- THROTTLE_RAISE_DONE (R456). -/
def execThrottleRaiseDone (die : Nat) (s : State) : Result :=
  s.runIf (s.dev.hw.hasDie die || die == 4) (fun d => d.raiseDoneFx die)
/-- DOMAIN_POWER_ON (R459). -/
def execDomainPowerOn (domain : Nat) (s : State) : Result :=
  s.runIf (s.dev.hw.hasDomain domain) (fun d => (d.domainOnFx domain).settle)
/-- STANDBY_ENTER (R462, R322). -/
def execStandbyEnter (w : Writer) (s : State) : Result :=
  s.writeSettle w PWR_STANDBY_CMD 1
/-- STANDBY_LEAVE (R462). -/
def execStandbyLeave (w : Writer) (s : State) : Result :=
  s.writeSettle w PWR_STANDBY_CMD 2
/-- THERMAL_SAMPLE (R464–R468, R475). -/
def execThermalSample (samples : List (Nat × Nat × Nat × Int)) (s : State) : Result :=
  s.run (fun d => (d.thermalFx samples).settle)
/-- SENT_FRAME (R469–R474). -/
def execSentFrame (input : Nat) (status raw : Nat) (crcOk tickOk : Bool) (s : State) : Result :=
  s.run (fun d => (d.sentFrameFx input status raw crcOk tickOk).settle)
/-- SENT_INPUT_LOST (R470, R474). -/
def execSentInputLost (input : Nat) (s : State) : Result :=
  s.run (fun d => (d.sentLostFx input).settle)
/-- AVS_READ (R476). -/
def execAvsRead (bus rail : Nat) (current : Option Nat) (s : State) : Result :=
  s.run (fun d => (d.avsReadFx bus rail current).settle)

end Sys2Proof.Machine
end

