-- ==== Sys2Proof/Machine/ExecSecurity.lean ====
section
/-! DEFINITION. Nguldoel and start-up (R484–R508). -/
namespace Sys2Proof.Machine

/-- QUOTE (R493). -/
def execQuote (w : Writer) (s : State) : Result :=
  s.writeSettle w NGD_CMD 0x10000000
/-- GET_CERTS (R492). -/
def execGetCerts (w : Writer) (s : State) : Result :=
  s.writeSettle w NGD_CMD 0x20000000
/-- FLASH_WRITE (R490). -/
def execFlashWrite (w : Writer) (s : State) : Result :=
  s.writeSettle w NGD_CMD 0x30000000
/-- SVN_COMMIT (R489). -/
def execSvnCommit (w : Writer) (s : State) : Result :=
  s.writeSettle w NGD_CMD 0x40000000
/-- DEBUG_CHALLENGE (R501). -/
def execDebugChallenge (w : Writer) (s : State) : Result :=
  s.writeSettle w NGD_CMD 0x50000000
/-- DEBUG_RESPONSE (R501). -/
def execDebugResponse (w : Writer) (s : State) : Result :=
  s.writeSettle w NGD_CMD 0x60000000
/-- QUOIN_UPDATE (R491). -/
def execQuoinUpdate (w : Writer) (s : State) : Result :=
  s.writeSettle w NGD_CMD 0x70000000
/-- PROVISION (R502). -/
def execProvision (w : Writer) (s : State) : Result :=
  s.writeSettle w NGD_CMD 0x80000000
/-- REVOKE_MODEL_KEY (R502). -/
def execRevokeModelKey (w : Writer) (s : State) : Result :=
  s.writeSettle w NGD_CMD 0x90000000
/-- SECURITY_ALARM (R498, R499). -/
def execSecurityAlarm (source : Nat) (s : State) : Result :=
  s.run (fun d => (d.alarm source).settle)
/-- FUSE_REREAD (R498). -/
def execFuseReread (tampered : Bool) (s : State) : Result :=
  s.run (fun d => (d.fuseFx tampered).settle)
/-- QUOIN_RAILS_VALID (R403, R503). -/
def execQuoinRailsValid (ok : List Bool) (s : State) : Result :=
  s.run (fun d => (d.quoinRailsFx ok).settle)
/-- QUOIN_RAIL_LOSS. -/
def execQuoinRailLoss (quoin : Nat) (s : State) : Result :=
  s.runIf (hasQuoin quoin) (fun d => (d.quoinRailLossFx quoin).settle)
/-- MAIN_RAILS_VALID (R503, R541): boundary instructions end only with PERST#. -/
def execMainRailsValid (ordered : Bool) (b : BootInput) (s : State) : Result :=
  s.run (fun d => (d.mainRailsFx ordered b).settle)

end Sys2Proof.Machine
end

