-- ==== Sys2Proof/Machine/ExecDebug.lean ====
section
/-! DEFINITION. The test port, the debugger, the online test and Gauge (R509–R530). -/
namespace Sys2Proof.Machine

/-- Dies of the chain (R509): the Course dies, the Keystone (8) and the Quoins (12, 13). -/
def tapExists (h : Hw) (n : Nat) : Bool := (chainDies h).contains n

/-- TEST_RESET (R509–R511). -/
def execTestReset (s : State) : Result :=
  s.run (fun d => d.testResetFx)
/-- BYPASS (R510). -/
def execBypass (die : Nat) (s : State) : Result :=
  s.runIf (tapExists s.dev.hw die) (fun d => d.loadInstr die 0xFF)
/-- IDCODE (R510). -/
def execIdcode (die : Nat) (s : State) : Result :=
  s.runIf (tapExists s.dev.hw die) (fun d => d.idcodeFx die)
/-- SAMPLE/PRELOAD (R510). -/
def execSamplePreload (die : Nat) (s : State) : Result :=
  s.runIf (tapExists s.dev.hw die) (fun d => d.loadInstr die 0x02)
/-- EXTEST (R510, R512). -/
def execExtest (die : Nat) (s : State) : Result :=
  s.runIf (tapExists s.dev.hw die) (fun d => d.boundaryFx die 0x03)
/-- CLAMP (R510, R512). -/
def execClamp (die : Nat) (s : State) : Result :=
  s.runIf (tapExists s.dev.hw die) (fun d => d.boundaryFx die 0x04)
/-- HIGHZ (R510, R512). -/
def execHighz (die : Nat) (s : State) : Result :=
  s.runIf (tapExists s.dev.hw die) (fun d => d.boundaryFx die 0x05)
/-- IJTAG (R510, R513–R515): the network is selected, and an instrument accessed. -/
def execIjtag (die : Nat) (ins : Instrument) (s : State) : Result :=
  s.runIf (tapExists s.dev.hw die) (fun d => (d.ijtagFx die ins).settle)
/-- DIE_BYPASS (R511). -/
def execDieBypass (die : Nat) (s : State) : Result :=
  s.runIf (tapExists s.dev.hw die) (fun d => d.dieBypassFx die)
/-- HALT (R515, R516). -/
def execHalt (core : Nat) (s : State) : Result :=
  s.runIf (s.dev.hw.hasCore core) (fun d => d.haltFx core)
/-- RESUME (R515). -/
def execResume (core : Nat) (s : State) : Result :=
  s.runIf (s.dev.hw.hasCore core) (fun d => (d.resumeFx core).settle)
/-- HALT_CONTEXT (R515, R517). -/
def execHaltContext (core : Nat) (s : State) : Result :=
  s.runIf (s.dev.hw.hasCore core) (fun d => d.haltContextFx core)
/-- RESUME_CONTEXT (R515). -/
def execResumeContext (core : Nat) (s : State) : Result :=
  s.runIf (s.dev.hw.hasCore core) (fun d => (d.resumeContextFx core).settle)
/-- DEBUG_REG_WRITE (R515). -/
def execDebugRegWrite (core : Nat) (spec : BitVec 8) (row : BitVec 4) (data : BitVec 640) (s : State) : Result :=
  s.runIf (s.dev.hw.hasCore core) (fun d => d.regWriteFx core spec row data)
/-- DEBUG_LS_WRITE (R515). -/
def execDebugLsWrite (core : Nat) (addr : BitVec 18) (data : W64) (s : State) : Result :=
  s.runIf (s.dev.hw.hasCore core) (fun d => d.lsWriteFx core addr data)
/-- MEMORY_ACCESS (R514). -/
def execMemoryAccess (write : Bool) (addr len : Nat) (data : List Byte) (s : State) : Result :=
  s.run (fun d => (d.memAccessFx write addr len data).settle)
/-- SCAN_DUMP (R518). -/
def execScanDump (die : Nat) (s : State) : Result :=
  s.runIf (tapExists s.dev.hw die) (fun d => d.scanFx die)
/-- ISOLATE (R519, R520). -/
def execIsolate (w : Writer) (s : State) : Result :=
  s.writeSettle w KEY_OT_CMD 1
/-- TEST (R519, R520). -/
def execTest (w : Writer) (s : State) : Result :=
  s.writeSettle w KEY_OT_CMD 2
/-- RELEASE (R519, R520). -/
def execRelease (w : Writer) (s : State) : Result :=
  s.writeSettle w KEY_OT_CMD 3
/-- ONLINE_TEST_DONE (R520). -/
def execOnlineTestDone (die kind unit : Nat) (pass : Bool) (detail : Nat) (s : State) : Result :=
  s.run (fun d => (d.otDoneFx die kind unit pass detail).settle)
/-- GAU_MODE_WRITE (R523). -/
def execGauModeWrite (w : Writer) (v : W32) (s : State) : Result :=
  s.write w GAU_CFG v
/-- SNAPSHOT (R524). -/
def execSnapshot (w : Writer) (s : State) : Result :=
  s.write w GAU_SNAP_CMD 1
/-- SNAPSHOT_PERIOD (R524). -/
def execSnapshotPeriod (s : State) : Result :=
  s.run (fun d => d.snapPeriodFx)
/-- DUMP_ENABLE (R524–R526). -/
def execDumpEnable (w : Writer) (v : W32) (s : State) : Result :=
  s.write w GAU_DUMP_CFG v
/-- GAU_READ (R522, R527): the counter is answered, its upper half latched. -/
def execGauRead (s : State) : Result :=
  s.run (fun d => let r := d.gauReadFx; r.2.put (.reply (leBytes 4 r.1)))

end Sys2Proof.Machine
end

