-- ==== Sys2Proof/Machine/ExecStep.lean ====
section
/-! DEFINITION. STEP (R515): a halted core carries out the one instruction that stands at its PC, by that instruction's own meaning. -/
namespace Sys2Proof.Machine

/-- The meaning of a Sedun instruction; another command is none. -/
def sedunExec (i : Instr) (s : State) : Option Result :=
  match i with
  | .nop u f => some (execNop u f s)
  | .add u f => some (execAdd u f s)
  | .sub u f => some (execSub u f s)
  | .mul u f => some (execMul u f s)
  | .mulh u f => some (execMulh u f s)
  | .div u f => some (execDiv u f s)
  | .rem u f => some (execRem u f s)
  | .and u f => some (execAnd u f s)
  | .or u f => some (execOr u f s)
  | .xor u f => some (execXor u f s)
  | .shl u f => some (execShl u f s)
  | .shr u f => some (execShr u f s)
  | .sar u f => some (execSar u f s)
  | .scmp u f => some (execScmp u f s)
  | .min u f => some (execMin u f s)
  | .max u f => some (execMax u f s)
  | .movi u f => some (execMovi u f s)
  | .movhi u f => some (execMovhi u f s)
  | .fadd u f => some (execFadd u f s)
  | .fsub u f => some (execFsub u f s)
  | .fmul u f => some (execFmul u f s)
  | .ffma u f => some (execFfma u f s)
  | .fmin u f => some (execFmin u f s)
  | .fmax u f => some (execFmax u f s)
  | .fcmp u f => some (execFcmp u f s)
  | .fcvt u f => some (execFcvt u f s)
  | .pmask u f => some (execPmask u f s)
  | .plog u f => some (execPlog u f s)
  | .pcnt u f => some (execPcnt u f s)
  | .vadd u f => some (execVadd u f s)
  | .vsub u f => some (execVsub u f s)
  | .vmul u f => some (execVmul u f s)
  | .vfma u f => some (execVfma u f s)
  | .vmax u f => some (execVmax u f s)
  | .vmin u f => some (execVmin u f s)
  | .vabs u f => some (execVabs u f s)
  | .vneg u f => some (execVneg u f s)
  | .vcmp u f => some (execVcmp u f s)
  | .vsel u f => some (execVsel u f s)
  | .vlog u f => some (execVlog u f s)
  | .vsh u f => some (execVsh u f s)
  | .vcvt u f => some (execVcvt u f s)
  | .vrq u f => some (execVrq u f s)
  | .vqmx u f => some (execVqmx u f s)
  | .vfn u f => some (execVfn u f s)
  | .vred u f => some (execVred u f s)
  | .vbc u f => some (execVbc u f s)
  | .vperm u f => some (execVperm u f s)
  | .vmov u f => some (execVmov u f s)
  | .vext u f => some (execVext u f s)
  | .vins u f => some (execVins u f s)
  | .mma u f => some (execMma u f s)
  | .tzero u f => some (execTzero u f s)
  | .trd u f => some (execTrd u f s)
  | .twr u f => some (execTwr u f s)
  | .ld u f => some (execLd u f s)
  | .st u f => some (execSt u f s)
  | .vld u f => some (execVld u f s)
  | .vst u f => some (execVst u f s)
  | .mxl u f => some (execMxl u f s)
  | .dma u f => some (execDma u f s)
  | .dmaw u f => some (execDmaw u f s)
  | .sema u f => some (execSema u f s)
  | .semt u f => some (execSemt u f s)
  | .semr u f => some (execSemr u f s)
  | .amo u f => some (execAmo u f s)
  | .mwait u f => some (execMwait u f s)
  | .fence u f => some (execFence u f s)
  | .br u f => some (execBr u f s)
  | .call u f => some (execCall u f s)
  | .jr u f => some (execJr u f s)
  | .yld u f => some (execYld u f s)
  | .end_ u f => some (execEnd u f s)
  | .eiss u f => some (execEiss u f s)
  | .ewait u f => some (execEwait u f s)
  | .epoll u f => some (execEpoll u f s)
  | .crdb u f => some (execCrdb u f s)
  | .crdr u f => some (execCrdr u f s)
  | .eprd u f => some (execEprd u f s)
  | .epwait u f => some (execEpwait u f s)
  | .eprslv u f => some (execEprslv u f s)
  | .cid u f => some (execCid u f s)
  | .time u f => some (execTime u f s)
  | .flgr u f => some (execFlgr u f s)
  | .flgc u f => some (execFlgc u f s)
  | .grd u f => some (execGrd u f s)
  | _ => none
/-- The word at a core's PC. -/
def Dev.wordAt (d : Dev) (g : Nat) : W64 := BitVec.ofNat 64 (leNat (d.rd (d.viewOf (d.ctxOn g)) (d.core g).pc.toNat 8))
/-- STEP: the halt is lifted for one instruction and set again; a word that spells none faults. -/
def Dev.stepOpen (d : Dev) (g : Nat) : Dev := d.modCore g (fun k => { k with halted := false })
def Dev.stepClose (d : Dev) (g : Nat) : Dev := if (d.core g).st = .running ∨ (d.core g).st = .idle then d.haltCore g 1 else d
/-- May the core be stepped: the level reaches it, and it is halted (R514, R515)? -/
def Dev.stepOk (d : Dev) (g : Nat) : Bool :=
  d.sec.debug != 0 && !d.isFollow g && d.debugReach g && (d.core g).halted
/-- The instruction at the PC, issued with the core's halt lifted. -/
def State.stepInstr (s : State) (u : Issue) : Result :=
  match (Sys2Proof.decodeSedun u (s.dev.wordAt u.core)).bind (fun i => sedunExec i s) with
  | some r => r
  | none => execIllegalOpcode u (s.dev.wordAt u.core) s
/-- STEP (R515). A request that is refused changes only what the debugger shows. -/
def execStep (u : Issue) (s : State) : Result :=
  if !s.dev.hw.hasCore u.core then .fault .absentUnit
  else if !s.dev.stepOk u.core then s.run (fun d => d.debugDo u.core false (fun d => d))
  else
    let s1 : State := { s with dev := (s.dev.fresh.debugDo u.core true (fun d => d.stepOpen u.core)).keepHw s.dev.hw }
    match s1.stepInstr u with
    | .next t => .next { t with dev := (t.dev.stepClose u.core).keepHw s.dev.hw }
    | .fault r => .fault r
    | .refused r => .refused r

end Sys2Proof.Machine
end

