-- ==== Sys2Proof/Machine/Dispatch.lean ====
section
/-! DEFINITION. Which meaning each command has: one arm per row of the opcode table. -/
namespace Sys2Proof.Machine

/-- The effect of a command on everything but the queue. -/
def exec (i : Instr) (s : State) : Host.Outcome State Fault Refusal :=
  match i with
  | .registerWrite w off v => Sys2Proof.Machine.execRegisterWrite w off v s
  | .lockSet w off v => Sys2Proof.Machine.execLockSet w off v s
  | .bar0OddAccess write off size => Sys2Proof.Machine.execBar0OddAccess write off size s
  | .hostBar2Access write off len data mem => Sys2Proof.Machine.execHostBar2Access write off len data mem s
  | .hostWinBaseWrite w hi v => Sys2Proof.Machine.execHostWinBaseWrite w hi v s
  | .nop u f => Sys2Proof.Machine.execNop u f s
  | .add u f => Sys2Proof.Machine.execAdd u f s
  | .sub u f => Sys2Proof.Machine.execSub u f s
  | .mul u f => Sys2Proof.Machine.execMul u f s
  | .mulh u f => Sys2Proof.Machine.execMulh u f s
  | .div u f => Sys2Proof.Machine.execDiv u f s
  | .rem u f => Sys2Proof.Machine.execRem u f s
  | .and u f => Sys2Proof.Machine.execAnd u f s
  | .or u f => Sys2Proof.Machine.execOr u f s
  | .xor u f => Sys2Proof.Machine.execXor u f s
  | .shl u f => Sys2Proof.Machine.execShl u f s
  | .shr u f => Sys2Proof.Machine.execShr u f s
  | .sar u f => Sys2Proof.Machine.execSar u f s
  | .scmp u f => Sys2Proof.Machine.execScmp u f s
  | .min u f => Sys2Proof.Machine.execMin u f s
  | .max u f => Sys2Proof.Machine.execMax u f s
  | .movi u f => Sys2Proof.Machine.execMovi u f s
  | .movhi u f => Sys2Proof.Machine.execMovhi u f s
  | .fadd u f => Sys2Proof.Machine.execFadd u f s
  | .fsub u f => Sys2Proof.Machine.execFsub u f s
  | .fmul u f => Sys2Proof.Machine.execFmul u f s
  | .ffma u f => Sys2Proof.Machine.execFfma u f s
  | .fmin u f => Sys2Proof.Machine.execFmin u f s
  | .fmax u f => Sys2Proof.Machine.execFmax u f s
  | .fcmp u f => Sys2Proof.Machine.execFcmp u f s
  | .fcvt u f => Sys2Proof.Machine.execFcvt u f s
  | .pmask u f => Sys2Proof.Machine.execPmask u f s
  | .plog u f => Sys2Proof.Machine.execPlog u f s
  | .pcnt u f => Sys2Proof.Machine.execPcnt u f s
  | .vadd u f => Sys2Proof.Machine.execVadd u f s
  | .vsub u f => Sys2Proof.Machine.execVsub u f s
  | .vmul u f => Sys2Proof.Machine.execVmul u f s
  | .vfma u f => Sys2Proof.Machine.execVfma u f s
  | .vmax u f => Sys2Proof.Machine.execVmax u f s
  | .vmin u f => Sys2Proof.Machine.execVmin u f s
  | .vabs u f => Sys2Proof.Machine.execVabs u f s
  | .vneg u f => Sys2Proof.Machine.execVneg u f s
  | .vcmp u f => Sys2Proof.Machine.execVcmp u f s
  | .vsel u f => Sys2Proof.Machine.execVsel u f s
  | .vlog u f => Sys2Proof.Machine.execVlog u f s
  | .vsh u f => Sys2Proof.Machine.execVsh u f s
  | .vcvt u f => Sys2Proof.Machine.execVcvt u f s
  | .vrq u f => Sys2Proof.Machine.execVrq u f s
  | .vqmx u f => Sys2Proof.Machine.execVqmx u f s
  | .vfn u f => Sys2Proof.Machine.execVfn u f s
  | .vred u f => Sys2Proof.Machine.execVred u f s
  | .vbc u f => Sys2Proof.Machine.execVbc u f s
  | .vperm u f => Sys2Proof.Machine.execVperm u f s
  | .vmov u f => Sys2Proof.Machine.execVmov u f s
  | .vext u f => Sys2Proof.Machine.execVext u f s
  | .vins u f => Sys2Proof.Machine.execVins u f s
  | .mma u f => Sys2Proof.Machine.execMma u f s
  | .tzero u f => Sys2Proof.Machine.execTzero u f s
  | .trd u f => Sys2Proof.Machine.execTrd u f s
  | .twr u f => Sys2Proof.Machine.execTwr u f s
  | .ld u f => Sys2Proof.Machine.execLd u f s
  | .st u f => Sys2Proof.Machine.execSt u f s
  | .vld u f => Sys2Proof.Machine.execVld u f s
  | .vst u f => Sys2Proof.Machine.execVst u f s
  | .mxl u f => Sys2Proof.Machine.execMxl u f s
  | .dma u f => Sys2Proof.Machine.execDma u f s
  | .dmaw u f => Sys2Proof.Machine.execDmaw u f s
  | .sema u f => Sys2Proof.Machine.execSema u f s
  | .semt u f => Sys2Proof.Machine.execSemt u f s
  | .semr u f => Sys2Proof.Machine.execSemr u f s
  | .amo u f => Sys2Proof.Machine.execAmo u f s
  | .mwait u f => Sys2Proof.Machine.execMwait u f s
  | .fence u f => Sys2Proof.Machine.execFence u f s
  | .br u f => Sys2Proof.Machine.execBr u f s
  | .call u f => Sys2Proof.Machine.execCall u f s
  | .jr u f => Sys2Proof.Machine.execJr u f s
  | .yld u f => Sys2Proof.Machine.execYld u f s
  | .end_ u f => Sys2Proof.Machine.execEnd u f s
  | .eiss u f => Sys2Proof.Machine.execEiss u f s
  | .ewait u f => Sys2Proof.Machine.execEwait u f s
  | .epoll u f => Sys2Proof.Machine.execEpoll u f s
  | .crdb u f => Sys2Proof.Machine.execCrdb u f s
  | .crdr u f => Sys2Proof.Machine.execCrdr u f s
  | .eprd u f => Sys2Proof.Machine.execEprd u f s
  | .epwait u f => Sys2Proof.Machine.execEpwait u f s
  | .eprslv u f => Sys2Proof.Machine.execEprslv u f s
  | .cid u f => Sys2Proof.Machine.execCid u f s
  | .time u f => Sys2Proof.Machine.execTime u f s
  | .flgr u f => Sys2Proof.Machine.execFlgr u f s
  | .flgc u f => Sys2Proof.Machine.execFlgc u f s
  | .grd u f => Sys2Proof.Machine.execGrd u f s
  | .dmaComplete core err mem => Sys2Proof.Machine.execDmaComplete core err mem s
  | .multicastReadStart core => Sys2Proof.Machine.execMulticastReadStart core s
  | .kvAppendComplete core err => Sys2Proof.Machine.execKvAppendComplete core err s
  | .submissionPoll host => Sys2Proof.Machine.execSubmissionPoll host s
  | .ringEnable w ring v => Sys2Proof.Machine.execRingEnable w ring v s
  | .sqPause w v => Sys2Proof.Machine.execSqPause w v s
  | .completionRecordWrite host => Sys2Proof.Machine.execCompletionRecordWrite host s
  | .eventRecordWrite host => Sys2Proof.Machine.execEventRecordWrite host s
  | .coalesceTimeout vector => Sys2Proof.Machine.execCoalesceTimeout vector s
  | .configRequest bme => Sys2Proof.Machine.execConfigRequest bme s
  | .perstDeassert b => Sys2Proof.Machine.execPerstDeassert b s
  | .hostReset flr => Sys2Proof.Machine.execHostReset flr s
  | .linkUp rate width => Sys2Proof.Machine.execLinkUp rate width s
  | .figureOpen fig => Sys2Proof.Machine.execFigureOpen fig s
  | .figureClose fig => Sys2Proof.Machine.execFigureClose fig s
  | .jobStart ctx => Sys2Proof.Machine.execJobStart ctx s
  | .zeroingComplete core => Sys2Proof.Machine.execZeroingComplete core s
  | .joinHandoverComplete cluster failed => Sys2Proof.Machine.execJoinHandoverComplete cluster failed s
  | .splitHandoverComplete cluster => Sys2Proof.Machine.execSplitHandoverComplete cluster s
  | .jobDeadline ctx => Sys2Proof.Machine.execJobDeadline ctx s
  | .jobComplete ctx => Sys2Proof.Machine.execJobComplete ctx s
  | .remoteDrainExpiry ctx => Sys2Proof.Machine.execRemoteDrainExpiry ctx s
  | .teardownComplete ctx => Sys2Proof.Machine.execTeardownComplete ctx s
  | .remoteWaitTimeout core => Sys2Proof.Machine.execRemoteWaitTimeout core s
  | .preemptLimitExpiry ctx => Sys2Proof.Machine.execPreemptLimitExpiry ctx s
  | .jobResume ctx => Sys2Proof.Machine.execJobResume ctx s
  | .resumeComplete ctx => Sys2Proof.Machine.execResumeComplete ctx s
  | .dieFence die => Sys2Proof.Machine.execDieFence die s
  | .specEnable w v => Sys2Proof.Machine.execSpecEnable w v s
  | .shadowWritebackDone die epoch => Sys2Proof.Machine.execShadowWritebackDone die epoch s
  | .mirrorCommitDone epoch => Sys2Proof.Machine.execMirrorCommitDone epoch s
  | .conv g => Sys2Proof.Machine.execConv g s
  | .convTransposed g => Sys2Proof.Machine.execConvTransposed g s
  | .pool g => Sys2Proof.Machine.execPool g s
  | .resample g => Sys2Proof.Machine.execResample g s
  | .ingest g => Sys2Proof.Machine.execIngest g s
  | .plinthConv g => Sys2Proof.Machine.execPlinthConv g s
  | .ingestConv g => Sys2Proof.Machine.execIngestConv g s
  | .detect g => Sys2Proof.Machine.execDetect g s
  | .suppress g => Sys2Proof.Machine.execSuppress g s
  | .attend g => Sys2Proof.Machine.execAttend g s
  | .verify g => Sys2Proof.Machine.execVerify g s
  | .truncate g => Sys2Proof.Machine.execTruncate g s
  | .attendBwd g => Sys2Proof.Machine.execAttendBwd g s
  | .engineCommandComplete die engine => Sys2Proof.Machine.execEngineCommandComplete die engine s
  | .trcSeqLoad w die v => Sys2Proof.Machine.execTrcSeqLoad w die v s
  | .trcSeqRelease w die v => Sys2Proof.Machine.execTrcSeqRelease w die v s
  | .worldLoad g => Sys2Proof.Machine.execWorldLoad g s
  | .worldUpdate g => Sys2Proof.Machine.execWorldUpdate g s
  | .roadmapLoad g => Sys2Proof.Machine.execRoadmapLoad g s
  | .plan g => Sys2Proof.Machine.execPlan g s
  | .storeFallback g => Sys2Proof.Machine.execStoreFallback g s
  | .planEndTime resolved => Sys2Proof.Machine.execPlanEndTime resolved s
  | .fallbackAck quoin => Sys2Proof.Machine.execFallbackAck quoin s
  | .cairnFence storeUe => Sys2Proof.Machine.execCairnFence storeUe s
  | .probe w v => Sys2Proof.Machine.execProbe w v s
  | .pqPush w => Sys2Proof.Machine.execPqPush w s
  | .pqPop w => Sys2Proof.Machine.execPqPop w s
  | .pqClear w => Sys2Proof.Machine.execPqClear w s
  | .edgeInvalidate w v => Sys2Proof.Machine.execEdgeInvalidate w v s
  | .refreshInterval stack idle => Sys2Proof.Machine.execRefreshInterval stack idle s
  | .caParityError stack addr => Sys2Proof.Machine.execCaParityError stack addr s
  | .caParityRetry stack fails => Sys2Proof.Machine.execCaParityRetry stack fails s
  | .migrationUnitCopied stack spareUe => Sys2Proof.Machine.execMigrationUnitCopied stack spareUe s
  | .resyncComplete part region => Sys2Proof.Machine.execResyncComplete part region s
  | .semParityError die index => Sys2Proof.Machine.execSemParityError die index s
  | .regulationInterval cls stack bursts => Sys2Proof.Machine.execRegulationInterval cls stack bursts s
  | .dramModeWrite w die v => Sys2Proof.Machine.execDramModeWrite w die v s
  | .flitReceive die port sent got => Sys2Proof.Machine.execFlitReceive die port sent got s
  | .replayTimeout die port => Sys2Proof.Machine.execReplayTimeout die port s
  | .retrainComplete die port badLanes => Sys2Proof.Machine.execRetrainComplete die port badLanes s
  | .retrainTimeout die port => Sys2Proof.Machine.execRetrainTimeout die port s
  | .linkFence die port => Sys2Proof.Machine.execLinkFence die port s
  | .streamEnable w off v => Sys2Proof.Machine.execStreamEnable w off v s
  | .frameStart port vc num hdr => Sys2Proof.Machine.execFrameStart port vc num hdr s
  | .longPacket port vc dt hdr data crcOk full => Sys2Proof.Machine.execLongPacket port vc dt hdr data crcOk full s
  | .frameEnd port vc hdr => Sys2Proof.Machine.execFrameEnd port vc hdr s
  | .aphyLinkDown port data => Sys2Proof.Machine.execAphyLinkDown port data s
  | .aphyLinkUp port gear => Sys2Proof.Machine.execAphyLinkUp port gear s
  | .i2cTransaction w v => Sys2Proof.Machine.execI2cTransaction w v s
  | .i2cDone port nack data => Sys2Proof.Machine.execI2cDone port nack data s
  | .i2cTimeout port data => Sys2Proof.Machine.execI2cTimeout port data s
  | .ethFrameReceive port data ok full sync => Sys2Proof.Machine.execEthFrameReceive port data ok full sync s
  | .ethLinkDown port => Sys2Proof.Machine.execEthLinkDown port s
  | .hostFrameTx w v => Sys2Proof.Machine.execHostFrameTx w v s
  | .hodQueueEnable w v => Sys2Proof.Machine.execHodQueueEnable w v s
  | .hodStallTimeout q source => Sys2Proof.Machine.execHodStallTimeout q source s
  | .hodReleasePoll q => Sys2Proof.Machine.execHodReleasePoll q s
  | .plbIncrWrite w v => Sys2Proof.Machine.execPlbIncrWrite w v s
  | .plbSet w => Sys2Proof.Machine.execPlbSet w s
  | .plbAdd w => Sys2Proof.Machine.execPlbAdd w s
  | .plbSlew w => Sys2Proof.Machine.execPlbSlew w s
  | .plbSourceWrite w v => Sys2Proof.Machine.execPlbSourceWrite w v s
  | .triggerArm w trig v => Sys2Proof.Machine.execTriggerArm w trig v s
  | .triggerFire trig => Sys2Proof.Machine.execTriggerFire trig s
  | .captureEdge input rising => Sys2Proof.Machine.execCaptureEdge input rising s
  | .capStampRead input => Sys2Proof.Machine.execCapStampRead input s
  | .recordClose stream => Sys2Proof.Machine.execRecordClose stream s
  | .recordRelease stream => Sys2Proof.Machine.execRecordRelease stream s
  | .verdictTimeout stream => Sys2Proof.Machine.execVerdictTimeout stream s
  | .releaseGap stream => Sys2Proof.Machine.execReleaseGap stream s
  | .canFrameSent quoin ctl => Sys2Proof.Machine.execCanFrameSent quoin ctl s
  | .statusPeriod quoin => Sys2Proof.Machine.execStatusPeriod quoin s
  | .heartbeatFrame quoin die frame => Sys2Proof.Machine.execHeartbeatFrame quoin die frame s
  | .heartbeatMiss quoin die => Sys2Proof.Machine.execHeartbeatMiss quoin die s
  | .verdictFrame quoin => Sys2Proof.Machine.execVerdictFrame quoin s
  | .partnerLost quoin => Sys2Proof.Machine.execPartnerLost quoin s
  | .quoinLockstepError quoin => Sys2Proof.Machine.execQuoinLockstepError quoin s
  | .quoinWatchdogExpiry quoin => Sys2Proof.Machine.execQuoinWatchdogExpiry quoin s
  | .clockFault quoin count => Sys2Proof.Machine.execClockFault quoin count s
  | .supplyFault quoin => Sys2Proof.Machine.execSupplyFault quoin s
  | .loadStreams w quoin => Sys2Proof.Machine.execLoadStreams w quoin s
  | .safeExit w quoin => Sys2Proof.Machine.execSafeExit w quoin s
  | .forceSafe w quoin => Sys2Proof.Machine.execForceSafe w quoin s
  | .sliceStart place => Sys2Proof.Machine.execSliceStart place s
  | .sliceComplete place cores lanes => Sys2Proof.Machine.execSliceComplete place cores lanes s
  | .sliceAbandon place => Sys2Proof.Machine.execSliceAbandon place s
  | .coverageExpiry unit => Sys2Proof.Machine.execCoverageExpiry unit s
  | .bandChange die tband aband => Sys2Proof.Machine.execBandChange die tband aband s
  | .export_ w => Sys2Proof.Machine.execExport w s
  | .import_ w => Sys2Proof.Machine.execImport w s
  | .none_ w => Sys2Proof.Machine.execNone w s
  | .inject w die v => Sys2Proof.Machine.execInject w die v s
  | .powerControlStep powers => Sys2Proof.Machine.execPowerControlStep powers s
  | .throttleRaiseDone die => Sys2Proof.Machine.execThrottleRaiseDone die s
  | .domainPowerOn domain => Sys2Proof.Machine.execDomainPowerOn domain s
  | .standbyEnter w => Sys2Proof.Machine.execStandbyEnter w s
  | .standbyLeave w => Sys2Proof.Machine.execStandbyLeave w s
  | .thermalSample samples => Sys2Proof.Machine.execThermalSample samples s
  | .sentFrame input status raw crcOk tickOk => Sys2Proof.Machine.execSentFrame input status raw crcOk tickOk s
  | .sentInputLost input => Sys2Proof.Machine.execSentInputLost input s
  | .avsRead bus rail current => Sys2Proof.Machine.execAvsRead bus rail current s
  | .quote w => Sys2Proof.Machine.execQuote w s
  | .getCerts w => Sys2Proof.Machine.execGetCerts w s
  | .flashWrite w => Sys2Proof.Machine.execFlashWrite w s
  | .svnCommit w => Sys2Proof.Machine.execSvnCommit w s
  | .debugChallenge w => Sys2Proof.Machine.execDebugChallenge w s
  | .debugResponse w => Sys2Proof.Machine.execDebugResponse w s
  | .quoinUpdate w => Sys2Proof.Machine.execQuoinUpdate w s
  | .securityAlarm source => Sys2Proof.Machine.execSecurityAlarm source s
  | .fuseReread tampered => Sys2Proof.Machine.execFuseReread tampered s
  | .quoinRailsValid ok => Sys2Proof.Machine.execQuoinRailsValid ok s
  | .illegalOpcode u word => Sys2Proof.Machine.execIllegalOpcode u word s
  | .ethLinkUp port rate => Sys2Proof.Machine.execEthLinkUp port rate s
  | .ptpMessageInterval port kind => Sys2Proof.Machine.execPtpMessageInterval port kind s
  | .triggerPulseEnd trig => Sys2Proof.Machine.execTriggerPulseEnd trig s
  | .hostFrameSent port => Sys2Proof.Machine.execHostFrameSent port s
  | .patrolScrub stack addr mem => Sys2Proof.Machine.execPatrolScrub stack addr mem s
  | .lsPatrolScrub core addr err => Sys2Proof.Machine.execLsPatrolScrub core addr err s
  | .canBusOff quoin ctl enter => Sys2Proof.Machine.execCanBusOff quoin ctl enter s
  | .layerTestDone stack layer pass => Sys2Proof.Machine.execLayerTestDone stack layer pass s
  | .quoinRailLoss quoin => Sys2Proof.Machine.execQuoinRailLoss quoin s
  | .mainRailsValid ordered b => Sys2Proof.Machine.execMainRailsValid ordered b s
  | .provision w => Sys2Proof.Machine.execProvision w s
  | .revokeModelKey w => Sys2Proof.Machine.execRevokeModelKey w s
  | .bypass die => Sys2Proof.Machine.execBypass die s
  | .idcode die => Sys2Proof.Machine.execIdcode die s
  | .samplePreload die => Sys2Proof.Machine.execSamplePreload die s
  | .extest die => Sys2Proof.Machine.execExtest die s
  | .clamp die => Sys2Proof.Machine.execClamp die s
  | .highz die => Sys2Proof.Machine.execHighz die s
  | .ijtag die ins => Sys2Proof.Machine.execIjtag die ins s
  | .dieBypass die => Sys2Proof.Machine.execDieBypass die s
  | .halt core => Sys2Proof.Machine.execHalt core s
  | .resume core => Sys2Proof.Machine.execResume core s
  | .step u => Sys2Proof.Machine.execStep u s
  | .haltContext core => Sys2Proof.Machine.execHaltContext core s
  | .resumeContext core => Sys2Proof.Machine.execResumeContext core s
  | .debugRegWrite core spec row data => Sys2Proof.Machine.execDebugRegWrite core spec row data s
  | .debugLsWrite core addr data => Sys2Proof.Machine.execDebugLsWrite core addr data s
  | .memoryAccess write addr len data => Sys2Proof.Machine.execMemoryAccess write addr len data s
  | .scanDump die => Sys2Proof.Machine.execScanDump die s
  | .isolate w => Sys2Proof.Machine.execIsolate w s
  | .test w => Sys2Proof.Machine.execTest w s
  | .release w => Sys2Proof.Machine.execRelease w s
  | .onlineTestDone die kind unit pass detail => Sys2Proof.Machine.execOnlineTestDone die kind unit pass detail s
  | .gauModeWrite w v => Sys2Proof.Machine.execGauModeWrite w v s
  | .snapshot w => Sys2Proof.Machine.execSnapshot w s
  | .dumpEnable w v => Sys2Proof.Machine.execDumpEnable w v s
  | .invoke => Sys2Proof.Machine.execInvoke s
  | .loadModel => Sys2Proof.Machine.execLoadModel s
  | .unloadModel => Sys2Proof.Machine.execUnloadModel s
  | .bindPartition => Sys2Proof.Machine.execBindPartition s
  | .setQuadrille => Sys2Proof.Machine.execSetQuadrille s
  | .planRequest => Sys2Proof.Machine.execPlanRequest s
  | .queryFence => Sys2Proof.Machine.execQueryFence s
  | .testRequest => Sys2Proof.Machine.execTestRequest s
  | .descNop => Sys2Proof.Machine.execDescNop s
  | .perstAssert => Sys2Proof.Machine.execPerstAssert s
  | .linkDown => Sys2Proof.Machine.execLinkDown s
  | .d3hotEntry => Sys2Proof.Machine.execD3hotEntry s
  | .bmeClear => Sys2Proof.Machine.execBmeClear s
  | .majorFrameBoundary => Sys2Proof.Machine.execMajorFrameBoundary s
  | .cairnSliceBoundary => Sys2Proof.Machine.execCairnSliceBoundary s
  | .edgeBatchComplete => Sys2Proof.Machine.execEdgeBatchComplete s
  | .fallbackAckTimeout => Sys2Proof.Machine.execFallbackAckTimeout s
  | .guaranteeRecompute => Sys2Proof.Machine.execGuaranteeRecompute s
  | .plbTimeRead => Sys2Proof.Machine.execPlbTimeRead s
  | .syncTimeout => Sys2Proof.Machine.execSyncTimeout s
  | .holdoverExpiry => Sys2Proof.Machine.execHoldoverExpiry s
  | .testReset => Sys2Proof.Machine.execTestReset s
  | .snapshotPeriod => Sys2Proof.Machine.execSnapshotPeriod s
  | .gauRead => Sys2Proof.Machine.execGauRead s
  | .slewDone => Sys2Proof.Machine.execSlewDone s

end Sys2Proof.Machine
end

