-- ==== Sys2Proof/Safety.lean ====
section
/-! DEFINITION. What claims are stated in: legal hardware, the canonical form of the state's maps of bytes, runs, how a command answers, and
how a Sedun instruction retires. -/
namespace Sys2Proof.Machine

/-- The steppings that exist: A1 and B0 (R547). -/
def steppingOk (s : Nat) : Bool := s == 0x01 || s == 0x10
/-- Hardware that the spec names: four stepping codes for Course dies, one for the Keystone, one for the Quoins (R23, R547). -/
def Hw.legal (h : Hw) : Bool := h.course.length == 4 && h.course.all steppingOk && steppingOk h.keystone && steppingOk h.quoin
/-- Memory and host memory are in canonical form. -/
def Dev.memWf (d : Dev) : Bool := FMap.wf 0 d.mem && FMap.wf 0 d.hostMem
/-- The register maps of a core are in canonical form. -/
def Regs.wf (r : Regs) : Bool :=
  FMap.wf 0 r.s && FMap.wf 0 r.a && FMap.wf 0 r.p && FMap.wf 0 r.v && FMap.wf 0 r.side && FMap.wf 0 r.t
/-- Some number of steps, with whatever commands the outside puts at the end of the queue between them, leads from one state to another. -/
inductive Reaches : State → State → Prop where
  | refl (s : State) : Reaches s s
  | step (s t u : State) (cs : List Instr) : Reaches s t → step { t with pending := t.pending ++ cs } = .next u → Reaches s u

/-! ### How a command answers -/

/-- The command answers a next state: the queue and the hardware as before, and the device one of which `P` holds. -/
def State.Answers (s : State) (r : Result) (P : Dev → Prop) : Prop :=
  ∃ d, r = .next { s with dev := d.keepHw s.dev.hw } ∧ P d
/-- The same for a command after whose own effect, of which `P` speaks, everything is carried out that has become due. -/
def State.AnswersSettled (s : State) (r : Result) (P : Dev → Prop) : Prop :=
  ∃ d, r = .next { s with dev := d.settle.keepHw s.dev.hw } ∧ P d

/-! ### How a Sedun instruction retires -/

/-- An instruction issued at a core meets nothing but its own effect: the part has the core, which can issue and whose PC lies in code it
may execute; no storage error strikes; the halves of an armed couple agree and no injected difference waits there; no breakpoint is set. -/
structure Dev.Clean (d : Dev) (u : Issue) : Prop where
  core : d.hw.hasCore u.core = true
  can : d.canIssue u.core = true
  fetch : d.fetchOk u.core = true
  err : u.err = .none
  agree : d.compared u.core = true → u.diff = 0 ∧ FMap.get none d.pav.inject (u.core / 2) = none
  points : ∀ b ∈ (FMap.get Points.none d.dbg.points u.core).bp, b = none

/-- What retirement at core `g` with registers `r` and the PC `pc` changes: the core, the follow of a joined couple with it, the Gauge
counters, and what the last command put out. Every other core and everything else stays. -/
structure State.Retired (s : State) (g : Nat) (r : Regs) (pc : BitVec 48) (t : State) : Prop where
  core : t.dev.core g = { s.dev.core g with regs := r, pc := pc }
  follow : s.dev.isJoined g = true → (t.dev.core (g + 1)).regs = r ∧ (t.dev.core (g + 1)).pc = pc
  others : ∀ h, h ≠ g → ¬ (s.dev.isJoined g = true ∧ h = g + 1) → t.dev.core h = s.dev.core h
  rest : t = { s with dev := { s.dev with out := [], cores := t.dev.cores, gau := t.dev.gau } }

/-- The registers of the core an instruction issues at. -/
def State.regsOf (s : State) (u : Issue) : Regs := (s.dev.core u.core).regs
def State.pcOf (s : State) (u : Issue) : BitVec 48 := (s.dev.core u.core).pc
/-- The command answers a next state in which the instruction has retired with registers `r`, and the core goes on at the next one. -/
def State.Retires (s : State) (u : Issue) (r : Regs) (o : Result) : Prop :=
  ∃ t, o = .next t ∧ s.Retired u.core r (s.pcOf u + 8) t
/-- Lanes of width `w` of vector register `d` written (R44, R100): where `on` holds lane j has the number of `x j` in its `w` bits, every other
lane keeps its value; the scales of the register are 2^0 (R45); the flags of the lanes written join the sticky ones (R77); no other register
changes, but perhaps the generator. -/
structure Regs.LanesWritten (r : Regs) (d w : Nat) (on : Nat → Bool) (x : Nat → Nat × Flags) (t : Regs) : Prop where
  lanes : ∀ j, j < 512 / w → laneOf w (t.getV d) j = if on j then (x j).1 % 2 ^ w else laneOf w (r.getV d) j
  scales : t.getSide d = sideOne
  flags : ∀ b, t.flags.getLsbD b = (r.flags.getLsbD b || (List.range (512 / w)).any (fun j => on j && (x j).2.getLsbD b))
  others : ∀ n, n ≠ d → t.getV n = r.getV n ∧ t.getSide n = r.getSide n
  rest : t = { r with v := t.v, side := t.side, flags := t.flags, lfsr := t.lfsr }
/-- The instruction retires with such lanes written, and the generator at `g`. -/
def State.RetiresLanes (s : State) (u : Issue) (d w : Nat) (on : Nat → Bool) (x : Nat → Nat × Flags) (g : W64) (o : Result) : Prop :=
  ∃ t, (s.regsOf u).LanesWritten d w on x t ∧ t.lfsr = g ∧ s.Retires u t o
/-- The command answers a next state in which the instruction at the core has faulted (R125): FAULT holds the cause's code, registers, local
store and PC stay, a CORE_FAULT record names core and cause, and the job is DRAINING towards FAULT_CONTEXT. -/
def State.Faults (s : State) (u : Issue) (f : SedunFault) (o : Result) : Prop :=
  s.AnswersSettled o (fun d =>
    (d.core u.core).fault.toNat = f.code ∧ (d.core u.core).regs = s.regsOf u ∧ (d.core u.core).pc = s.pcOf u ∧
    (d.core u.core).ls = (s.dev.core u.core).ls ∧
    (s.dev.keystoneUp = true → ∃ e, d.jfe.ev = s.dev.jfe.ev ++ [e] ∧ e.code = 0x0210 ∧ e.arg0.toNat = u.core ∧ e.arg1.toNat / 2 ^ 24 = f.code) ∧
    (∀ c, (s.dev.core u.core).ctx = some c → (d.ctx c).state = .draining ∧ (d.ctx c).ending = stFaultContext) ∧
    (s.dev.ctxTable = 0 → d.mem = s.dev.mem))

/-! ### Descriptors -/

/-- `a` is the accepted descriptor that a command of its type takes, `rest` are the others: the oldest of its kind, LOAD_MODEL being a kind of
its own that runs beside the rest (R172). -/
def Dev.Accepts (d : Dev) (type : Nat) (a : Accepted) (rest : List Accepted) : Prop :=
  descType a.bytes = type ∧ ∃ pre post, d.jfe.accepted = pre ++ a :: post ∧ rest = pre ++ post ∧ ∀ b ∈ pre, ¬ (descType b.bytes = 2 ↔ type = 2)
/-- The device with those others left, and what the last command put out gone. -/
def Dev.taken (d : Dev) (rest : List Accepted) : Dev := { d with out := [], jfe := { d.jfe with accepted := rest } }

/-! ### Matrix tiles, and instructions that change more of their core than its registers -/

/-- Tile `k` written (R57, R103): element (i, j) has the code of `x i j`; the flags of the elements join the sticky ones (R77); every other tile
and register stays. -/
structure Regs.TileWritten (r : Regs) (k : Nat) (x : Nat → Nat → Nat × Flags) (t : Regs) : Prop where
  elems : ∀ i, i < 16 → ∀ j, j < 16 → laneOf 32 (t.getTRow k i) j = (x i j).1 % 2 ^ 32
  flags : ∀ b, t.flags.getLsbD b =
    (r.flags.getLsbD b || (List.range 16).any (fun i => (List.range 16).any (fun j => (x i j).2.getLsbD b)))
  others : ∀ m i, m ≠ k → i < 16 → t.getTRow m i = r.getTRow m i
  rest : t = { r with t := t.t, flags := t.flags }
/-- In device `e` core `g` is `k`; the follow of a joined couple shows the same but for the requests, which are the lead's alone; every other
core is as in `d`. -/
structure Dev.Put (d : Dev) (g : Nat) (k : Core) (e : Dev) : Prop where
  core : e.core g = k
  follow : d.isJoined g = true → e.core (g + 1) = { k with dma := [], borrow := [], tickets := [], ceTicks := (d.core (g + 1)).ceTicks }
  others : ∀ h, h ≠ g → ¬ (d.isJoined g = true ∧ h = g + 1) → e.core h = d.core h
/-- The core an instruction issues at. -/
def State.coreOf (s : State) (u : Issue) : Core := s.dev.core u.core
/-- The command answers a next state in which the instruction's core has become `k`; beside it only the Gauge counters, and what the last
command put out, are other. -/
def State.Issues (s : State) (u : Issue) (k : Core) (o : Result) : Prop :=
  ∃ t, o = .next t ∧ s.dev.Put u.core k t.dev ∧ t = { s with dev := { s.dev with out := [], cores := t.dev.cores, gau := t.dev.gau } }
/-- The same with registers `r` and the next PC. -/
def Core.retired (k : Core) (r : Regs) : Core := { k with regs := r, pc := k.pc + 8 }
/-- The core waits in the instruction, whose PC it keeps. -/
def Core.waits (k : Core) (w : Wait) (since : Option Nat) : Core := { k with wait := w, remoteSince := since }
/-- Core `k` has stored the bytes at local-store address `a` (R104, R119, R121): every other byte stays; a checkpoint that watches one of them is
void; pending descriptors stay in their places. -/
structure Core.Stored (k : Core) (a : Nat) (bs : List Byte) (t : Core) : Prop where
  bytes : ∀ x, t.lsRead x 1 = if a ≤ x ∧ x < a + bs.length then [bs.getD (x - a) 0] else k.lsRead x 1
  kept : (∀ c, k.ckpt = some c → ∀ r ∈ c.ranges, overlaps a bs.length r.1 r.2 = false) → t.ckpt = k.ckpt
  void : (∃ c r, k.ckpt = some c ∧ r ∈ c.ranges ∧ overlaps a bs.length r.1 r.2 = true) → t.ckpt = none
  queue : t.dma.map (fun e => { e with taint := [] }) = k.dma.map (fun e => { e with taint := [] })
  rest : t = { k with ls := t.ls, pc := k.pc + 8, ckpt := t.ckpt, dma := t.dma }
/-- No DMA read that the core has pending will write a byte of these lines (R121). -/
def Core.quiet (k : Core) (a n : Nat) : Prop :=
  ∀ e ∈ k.dma, e.readsIn = true → e.onRegs = false → ∀ l ∈ linesOf a n, e.meetsLine l = false

end Sys2Proof.Machine
end

