-- ==== Sys2Proof/Certificates/Slice0/Obligations.lean ====
section
/-! DEFINITION. What is claimed of the package, each a proposition that names what it states. -/
open Sys2Proof
open Sys2Proof.Machine

/-- The block's step: with command `c` in front, a step is `exec c` on the state with the queue's rest. -/
def Obligations.StepRunsTheFrontCommand : Prop :=
  ∀ (c : Instr) (s : State), step { s with pending := c :: s.pending } = exec c s

/-- The model's choice (log entry 1): with no command waiting a step lets one TCLK tick pass. What a tick does to Plumb time is R385's: while the
Keystone is out of reset and nothing is being slewed, the increment is added, modulo 2^96 fractions. -/
def Obligations.IdleStepIsOneTick : Prop :=
  ∀ s : State, s.pending = [] →
    ∃ t, step s = .next t ∧ t.pending = [] ∧ t.dev.ticks = s.dev.ticks + 1 ∧ t.dev.hw = s.dev.hw ∧ t.dev.mem = s.dev.mem ∧ t.dev.hostMem = s.dev.hostMem ∧
      (s.dev.keystoneUp = true → s.dev.plb.slew = none → t.dev.nowFx = (s.dev.nowFx + s.dev.plb.incr) % 2 ^ 96) ∧
      (s.dev.keystoneUp = false → t.dev.plb = s.dev.plb)

/-- A Sedun word that an instruction encodes to decodes to it, with every operand at every value. -/
def Obligations.SedunDecodeOfEncode : Prop :=
  ∀ (i : Instr) (u : Issue) (w : W64), issueOf i = some u → encodeSedun i = some w → decodeSedun u w = some i

/-! ### Sedun: the S class (R98) -/

/-- R98: the integer instructions that name no SUB. D ← A op B modulo 2^64, where B is IMM24 sign-extended when its specifier is none; an a
register gets bits [47:0]. Each retires: nothing else changes. -/
def Obligations.IntegerArithmeticResults : Prop :=
  ∀ (s : State) (u : Issue) (f : FmtS), s.dev.Clean u → f.sub = 0 → isSA f.d = true → isSA f.a = true → isSANone f.b = true →
    let r := s.regsOf u
    let a := r.readSA f.a
    let b := if f.b = 0xFF then f.imm.signExtend 64 else r.readSA f.b
    s.Retires u (r.writeSA f.d (a + b)) (exec (.add u f) s) ∧
    s.Retires u (r.writeSA f.d (a - b)) (exec (.sub u f) s) ∧
    s.Retires u (r.writeSA f.d (a * b)) (exec (.mul u f) s) ∧
    s.Retires u (r.writeSA f.d (a &&& b)) (exec (.and u f) s) ∧
    s.Retires u (r.writeSA f.d (a ||| b)) (exec (.or u f) s) ∧
    s.Retires u (r.writeSA f.d (a ^^^ b)) (exec (.xor u f) s) ∧
    s.Retires u (r.writeSA f.d (a <<< (b.toNat % 64))) (exec (.shl u f) s) ∧
    s.Retires u (r.writeSA f.d (a >>> (b.toNat % 64))) (exec (.shr u f) s) ∧
    s.Retires u (r.writeSA f.d (a.sshiftRight (b.toNat % 64))) (exec (.sar u f) s)

/-- R98: the integer instructions whose SUB selects unsigned (bit 0) or a condition. MULH keeps the high 64 bits of the exact product; SCMP
writes 1 where the condition holds and 0 where not. -/
def Obligations.IntegerSubSelectedResults : Prop :=
  ∀ (s : State) (u : Issue) (f : FmtS), s.dev.Clean u → isSA f.d = true → isSA f.a = true → isSANone f.b = true →
    let r := s.regsOf u
    let a := r.readSA f.a
    let b := if f.b = 0xFF then f.imm.signExtend 64 else r.readSA f.b
    (f.sub = 0 → ∃ x : W64, x.toInt = a.toInt * b.toInt / 2 ^ 64 ∧ s.Retires u (r.writeSA f.d x) (exec (.mulh u f) s)) ∧
    (f.sub = 1 → ∃ x : W64, x.toNat = a.toNat * b.toNat / 2 ^ 64 ∧ s.Retires u (r.writeSA f.d x) (exec (.mulh u f) s)) ∧
    (f.sub = 0 → s.Retires u (r.writeSA f.d (if a.toInt ≤ b.toInt then a else b)) (exec (.min u f) s) ∧
                 s.Retires u (r.writeSA f.d (if a.toInt ≤ b.toInt then b else a)) (exec (.max u f) s)) ∧
    (f.sub = 1 → s.Retires u (r.writeSA f.d (if a.toNat ≤ b.toNat then a else b)) (exec (.min u f) s) ∧
                 s.Retires u (r.writeSA f.d (if a.toNat ≤ b.toNat then b else a)) (exec (.max u f) s)) ∧
    (f.sub = 0 → s.Retires u (r.writeSA f.d (if a = b then 1 else 0)) (exec (.scmp u f) s)) ∧
    (f.sub = 1 → s.Retires u (r.writeSA f.d (if a = b then 0 else 1)) (exec (.scmp u f) s)) ∧
    (f.sub = 2 → s.Retires u (r.writeSA f.d (if a.toInt < b.toInt then 1 else 0)) (exec (.scmp u f) s)) ∧
    (f.sub = 3 → s.Retires u (r.writeSA f.d (if a.toInt ≤ b.toInt then 1 else 0)) (exec (.scmp u f) s)) ∧
    (f.sub = 4 → s.Retires u (r.writeSA f.d (if a.toNat < b.toNat then 1 else 0)) (exec (.scmp u f) s)) ∧
    (f.sub = 5 → s.Retires u (r.writeSA f.d (if a.toNat ≤ b.toNat then 1 else 0)) (exec (.scmp u f) s))

/-- R98: DIV truncates toward zero and REM has the sign of A, signed or unsigned by SUB[0]; a divisor of zero ends the job with
DIVIDE_ZERO (R125), registers and PC as they were. -/
def Obligations.DivisionResults : Prop :=
  ∀ (s : State) (u : Issue) (f : FmtS), s.dev.Clean u → isSA f.d = true → isSA f.a = true → isSANone f.b = true →
    let r := s.regsOf u
    let a := r.readSA f.a
    let b := if f.b = 0xFF then f.imm.signExtend 64 else r.readSA f.b
    (f.sub = 0 → b ≠ 0 → s.Retires u (r.writeSA f.d (BitVec.ofInt 64 (a.toInt.tdiv b.toInt))) (exec (.div u f) s) ∧
                         s.Retires u (r.writeSA f.d (BitVec.ofInt 64 (a.toInt.tmod b.toInt))) (exec (.rem u f) s)) ∧
    (f.sub = 1 → b ≠ 0 → s.Retires u (r.writeSA f.d (BitVec.ofNat 64 (a.toNat / b.toNat))) (exec (.div u f) s) ∧
                         s.Retires u (r.writeSA f.d (BitVec.ofNat 64 (a.toNat % b.toNat))) (exec (.rem u f) s)) ∧
    (f.sub.toNat ≤ 1 → b = 0 → s.Faults u .divideZero (exec (.div u f) s) ∧ s.Faults u .divideZero (exec (.rem u f) s))

/-- R98: MOVI writes IMM24 sign-extended; MOVHI replaces bits [47:24] with IMM24 (SUB 0) or bits [63:48] with IMM24[15:0] (SUB 1) and keeps
the others; NOP only goes on. -/
def Obligations.MoveImmediateResults : Prop :=
  ∀ (s : State) (u : Issue) (f : FmtS), s.dev.Clean u →
    let r := s.regsOf u
    let d := r.readSA f.d
    (f.sub = 0 → isSA f.d = true → s.Retires u (r.writeSA f.d (f.imm.signExtend 64)) (exec (.movi u f) s)) ∧
    (f.sub = 0 → isSA f.d = true →
      s.Retires u (r.writeSA f.d (d.extractLsb 63 48 ++ f.imm ++ d.extractLsb 23 0)) (exec (.movhi u f) s)) ∧
    (f.sub = 1 → isSA f.d = true →
      s.Retires u (r.writeSA f.d (f.imm.extractLsb 15 0 ++ d.extractLsb 47 0)) (exec (.movhi u f) s)) ∧
    (f.sub = 0 → s.Retires u r (exec (.nop u f) s))

/-- R98, R70, R77: the FP32 instructions. D ← the FP32 code of A op B, bits [63:32] zero, and the flags the operation raises join the sticky
ones. FFMA adds the old D and rounds once; FCMP writes 1 or 0; FCVT converts by SUB. -/
def Obligations.Fp32ScalarResults : Prop :=
  ∀ (s : State) (u : Issue) (f : FmtS), s.dev.Clean u → isSA f.d = true → isSA f.a = true → isSANone f.b = true →
    let r := s.regsOf u
    let x := (r.readSA f.a).toNat % 2 ^ 32
    let y := (if f.b = 0xFF then f.imm.signExtend 64 else r.readSA f.b).toNat % 2 ^ 32
    let z := (r.readSA f.d).toNat % 2 ^ 32
    let put (c : Nat × Flags) : Regs := (r.writeSA f.d (BitVec.ofNat 64 c.1)).raise c.2
    (f.sub = 0 →
      s.Retires u (put (f32.addCodes none x y)) (exec (.fadd u f) s) ∧
      s.Retires u (put (f32.subCodes none x y)) (exec (.fsub u f) s) ∧
      s.Retires u (put (f32.mulCodes none x y)) (exec (.fmul u f) s) ∧
      s.Retires u (put (f32.fmaCodes none x y z)) (exec (.ffma u f) s) ∧
      s.Retires u (put (f32.minmax true x y)) (exec (.fmin u f) s) ∧
      s.Retires u (put (f32.minmax false x y)) (exec (.fmax u f) s)) ∧
    (f.sub.toNat ≤ 3 → s.Retires u (put ((FV.cmp f.sub.toNat (f32.decode x) (f32.decode y)).map (fun b => if b then 1 else 0) id))
      (exec (.fcmp u f) s)) ∧
    (f.sub = 0 → s.Retires u (put (f32.encode .plain none (FV.ofInt (r.readSA f.a).toInt))) (exec (.fcvt u f) s)) ∧
    (f.sub = 1 → s.Retires u (put (((f32.decode x).toInt (-(2 ^ 63)) (2 ^ 63 - 1)).map (wrap 64) id)) (exec (.fcvt u f) s))

/-- R98, R42: PMASK sets the bits below A, with an A above 64 taken as 64; PLOG combines two p registers bit by bit; PCNT counts set bits.
A write to p0 is ignored. -/
def Obligations.PredicateResults : Prop :=
  ∀ (s : State) (u : Issue) (f : FmtS), s.dev.Clean u →
    let r := s.regsOf u
    let p := r.getP (regNum f.a)
    let q := r.getP (regNum f.b)
    (f.sub = 0 → isKind f.d .p = true → isSA f.a = true →
      ∃ x : W64, (∀ i < 64, x.getLsbD i = decide (i < (r.readSA f.a).toNat)) ∧ s.Retires u (r.setP (regNum f.d) x) (exec (.pmask u f) s)) ∧
    (isKind f.d .p = true → isKind f.a .p = true → isKind f.b .p = true →
      (f.sub = 0 → s.Retires u (r.setP (regNum f.d) (p &&& q)) (exec (.plog u f) s)) ∧
      (f.sub = 1 → s.Retires u (r.setP (regNum f.d) (p ||| q)) (exec (.plog u f) s)) ∧
      (f.sub = 2 → s.Retires u (r.setP (regNum f.d) (p ^^^ q)) (exec (.plog u f) s))) ∧
    (isKind f.d .p = true → isKind f.a .p = true → f.sub = 3 → s.Retires u (r.setP (regNum f.d) (~~~p)) (exec (.plog u f) s)) ∧
    (f.sub = 0 → isSA f.d = true → isKind f.a .p = true →
      s.Retires u (r.writeSA f.d (BitVec.ofNat 64 ((List.range 64).countP (fun i => p.getLsbD i)))) (exec (.pcnt u f) s))

/-- R98, R125: an S instruction whose SUB its row does not define ends with RESERVED_FIELD, and one whose operands are of the wrong kind with
REGISTER_KIND, the lower code first. -/
def Obligations.ScalarOperandFaults : Prop :=
  ∀ (s : State) (u : Issue) (f : FmtS), s.dev.Clean u →
    (∀ i ∈ [Instr.add u f, .sub u f, .mul u f, .and u f, .or u f, .xor u f, .shl u f, .shr u f, .sar u f,
            .fadd u f, .fsub u f, .fmul u f, .ffma u f, .fmin u f, .fmax u f],
      (f.sub ≠ 0 → s.Faults u .reservedField (exec i s)) ∧
      (f.sub = 0 → ¬ (isSA f.d = true ∧ isSA f.a = true ∧ isSANone f.b = true) → s.Faults u .registerKind (exec i s))) ∧
    (∀ i ∈ [Instr.mulh u f, .div u f, .rem u f, .min u f, .max u f],
      (1 < f.sub.toNat → s.Faults u .reservedField (exec i s)) ∧
      (f.sub.toNat ≤ 1 → ¬ (isSA f.d = true ∧ isSA f.a = true ∧ isSANone f.b = true) → s.Faults u .registerKind (exec i s))) ∧
    (5 < f.sub.toNat → s.Faults u .reservedField (exec (.scmp u f) s)) ∧
    (3 < f.sub.toNat → s.Faults u .reservedField (exec (.fcmp u f) s) ∧ s.Faults u .reservedField (exec (.plog u f) s)) ∧
    (1 < f.sub.toNat → s.Faults u .reservedField (exec (.movhi u f) s) ∧ s.Faults u .reservedField (exec (.fcvt u f) s)) ∧
    (f.sub ≠ 0 → s.Faults u .reservedField (exec (.nop u f) s) ∧ s.Faults u .reservedField (exec (.movi u f) s) ∧
      s.Faults u .reservedField (exec (.pmask u f) s) ∧ s.Faults u .reservedField (exec (.pcnt u f) s)) ∧
    (f.sub = 0 → isSA f.d = false → s.Faults u .registerKind (exec (.movi u f) s) ∧ s.Faults u .registerKind (exec (.movhi u f) s) ∧
      s.Faults u .registerKind (exec (.fcvt u f) s) ∧ s.Faults u .registerKind (exec (.pcnt u f) s))

/-- R42, R98: what writing a register of a core does: an s register reads back the value, an a register its low 48 bits zero-extended, every
other s and a register what it read before; p0 reads as all ones and discards writes, and every other p register reads back. -/
def Obligations.RegisterFileReadsBack : Prop :=
  ∀ (r : Regs) (c : BitVec 8) (x : W64),
    (r.wf = true → (r.writeSA c x).wf = true ∧ ∀ i, (r.setP i x).wf = true) ∧
    (isKind c .s = true → (r.writeSA c x).readSA c = x) ∧
    (isKind c .a = true → (r.writeSA c x).readSA c = (x.setWidth 48).setWidth 64) ∧
    (isSA c = false → r.writeSA c x = r) ∧
    (∀ b, b ≠ c → (r.writeSA c x).readSA b = r.readSA b) ∧
    (∀ i, (r.writeSA c x).getP i = r.getP i ∧ (r.writeSA c x).getV i = r.getV i ∧ (r.writeSA c x).getSide i = r.getSide i) ∧
    (∀ i, (r.setP i x).getP i = (if i = 0 then BitVec.allOnes 64 else x) ∧
      (∀ j, j ≠ i → (r.setP i x).getP j = r.getP j) ∧ (r.setP 0 x) = r)
/-! ### Sedun: the V class (R99–R102) -/

/-- R99, R100, R75–R77: VADD, VSUB, VMUL and VFMA on the six types of the vector unit. A lane that PG governs gets the sum, difference,
product or fused sum: integer lanes wrap, or saturate and set SAT in VADD and VSUB with SATM; float lanes are rounded once, stochastically
with the bits drawn for the lane when SR is set. -/
def Obligations.VectorArithmeticLanes : Prop :=
  ∀ (s : State) (u : Issue) (f : FmtV) (t : ElemType), s.dev.Clean u → ElemType.ofCode f.et.toNat = some t → t.isVector = true → f.sub = 0 →
    isKind f.d .v = true → isKind f.a .v = true → isKind f.b .v = true → (f.sr = true → t.isInt = false) →
    let r := s.regsOf u
    let w := t.width
    let a (j : Nat) := laneOf w (r.getV (regNum f.a)) j
    let b (j : Nat) := laneOf w (r.getV (regNum f.b)) j
    let c (j : Nat) := laneOf w (r.getV (regNum f.c)) j
    let draws := drawLanes f.sr (lanesOn (r.getP f.pg.toNat) w) r.lfsr
    let rnd (j : Nat) : Option W16 := draws.1.getD j none
    let lanes (x : Nat → Nat × Flags) (o : Result) : Prop := s.RetiresLanes u (regNum f.d) w (laneOn (r.getP f.pg.toNat) w) x draws.2 o
    lanes (fun j => if t.isInt then intLane t f.satm (t.int (a j) + t.int (b j)) else t.fmt.addCodes (rnd j) (a j) (b j)) (exec (.vadd u f) s) ∧
    lanes (fun j => if t.isInt then intLane t f.satm (t.int (a j) - t.int (b j)) else t.fmt.subCodes (rnd j) (a j) (b j)) (exec (.vsub u f) s) ∧
    lanes (fun j => if t.isInt then (wrap w (t.int (a j) * t.int (b j)), 0) else t.fmt.mulCodes (rnd j) (a j) (b j)) (exec (.vmul u f) s) ∧
    (isKind f.c .v = true →
      lanes (fun j => if t.isInt then (wrap w (t.int (a j) * t.int (b j) + t.int (c j)), 0) else t.fmt.fmaCodes (rnd j) (a j) (b j) (c j))
        (exec (.vfma u f) s))

/-- R99, R70: VMAX, VMIN, VABS and VNEG. Integer maximum and minimum by value; the absolute value and the negation of an integer lane are
exact where the type holds them (where it does not, the value is open: log entry 11); float lanes as R70 lays down, the sign bit alone
cleared or inverted by VABS and VNEG, a signalling NaN made quiet. -/
def Obligations.VectorMinMaxSignLanes : Prop :=
  ∀ (s : State) (u : Issue) (f : FmtV) (t : ElemType), s.dev.Clean u → ElemType.ofCode f.et.toNat = some t → t.isVector = true → f.sub = 0 →
    f.sr = false → isKind f.d .v = true → isKind f.a .v = true →
    let r := s.regsOf u
    let w := t.width
    let a (j : Nat) := laneOf w (r.getV (regNum f.a)) j
    let b (j : Nat) := laneOf w (r.getV (regNum f.b)) j
    let lanes (x : Nat → Nat × Flags) (o : Result) : Prop := s.RetiresLanes u (regNum f.d) w (laneOn (r.getP f.pg.toNat) w) x r.lfsr o
    (isKind f.b .v = true →
      lanes (fun j => if t.isInt then (if t.int (b j) ≤ t.int (a j) then a j else b j, 0) else t.fmt.minmax false (a j) (b j)) (exec (.vmax u f) s) ∧
      lanes (fun j => if t.isInt then (if t.int (a j) ≤ t.int (b j) then a j else b j, 0) else t.fmt.minmax true (a j) (b j)) (exec (.vmin u f) s)) ∧
    (∃ x, lanes x (exec (.vabs u f) s) ∧
      (t.isInt = true → ∀ j, (t.int (a j)).natAbs ≤ t.intHi → x j = (wrap w (t.int (a j)).natAbs, 0)) ∧
      (t.isInt = false → ∀ j, x j = (t.fmt.quiet (a j % t.fmt.signBit), 0))) ∧
    (∃ x, lanes x (exec (.vneg u f) s) ∧
      (t.isInt = true → ∀ j, t.intLo ≤ -t.int (a j) → -t.int (a j) ≤ t.intHi → x j = (wrap w (-t.int (a j)), 0)) ∧
      (t.isInt = false → ∀ j, x j = (t.fmt.quiet (if t.fmt.signBit ≤ a j then a j - t.fmt.signBit else a j + t.fmt.signBit), 0)))

/-- R98–R100: VCMP gives every byte bit of a lane in p register D the lane's comparison, whatever PG; VSEL takes A where PG governs and B
elsewhere; VLOG combines bits; VSH shifts each governed lane by the amount modulo the lane width. -/
def Obligations.VectorCompareSelectShift : Prop :=
  ∀ (s : State) (u : Issue) (f : FmtV) (t : ElemType), s.dev.Clean u → ElemType.ofCode f.et.toNat = some t → f.sr = false → isKind f.a .v = true →
    let r := s.regsOf u
    let w := t.width
    let pg := laneOn (r.getP f.pg.toNat) w
    let a (j : Nat) := laneOf w (r.getV (regNum f.a)) j
    let b (j : Nat) := laneOf w (r.getV (regNum f.b)) j
    let lanes (on : Nat → Bool) (x : Nat → Nat) (o : Result) : Prop := s.RetiresLanes u (regNum f.d) w on (fun j => (x j, 0)) r.lfsr o
    (t.isVector = true → isKind f.d .p = true → isKind f.b .v = true → f.sub.toNat ≤ 5 → (4 ≤ f.sub.toNat → t.isInt = true) →
      let cmp (j : Nat) : Bool × Flags := if t.isInt then (intCmp f.sub.toNat (t.int (a j)) (t.int (b j)) (a j) (b j), 0)
        else FV.cmp f.sub.toNat (t.fmt.decode (a j)) (t.fmt.decode (b j))
      ∃ (x : W64) (fl : Flags), (∀ i < 64, x.getLsbD i = (cmp (8 * i / w)).1) ∧
        (∀ k, fl.getLsbD k = (List.range (512 / w)).any (fun j => (cmp j).2.getLsbD k)) ∧
        s.Retires u ((r.setP (regNum f.d) x).raise fl) (exec (.vcmp u f) s)) ∧
    (f.sub = 0 → isKind f.d .v = true → isKind f.b .v = true →
      lanes (fun _ => true) (fun j => if pg j then a j else b j) (exec (.vsel u f) s)) ∧
    (isKind f.d .v = true → isKind f.b .v = true →
      (f.sub = 0 → lanes pg (fun j => a j &&& b j) (exec (.vlog u f) s)) ∧
      (f.sub = 1 → lanes pg (fun j => a j ||| b j) (exec (.vlog u f) s)) ∧
      (f.sub = 2 → lanes pg (fun j => a j ^^^ b j) (exec (.vlog u f) s))) ∧
    (isKind f.d .v = true → f.sub = 3 → lanes pg (fun j => 2 ^ w - 1 - a j) (exec (.vlog u f) s)) ∧
    (isKind f.d .v = true → (t = .i8 ∨ t = .u8 ∨ t = .i32) → (f.b = 0xFF ∨ isKind f.b .v = true) →
      let n (j : Nat) := (if f.b = 0xFF then f.imm.toNat else b j) % w
      (f.sub = 0 → lanes pg (fun j => a j * 2 ^ n j % 2 ^ w) (exec (.vsh u f) s)) ∧
      (f.sub = 1 → lanes pg (fun j => a j / 2 ^ n j) (exec (.vsh u f) s)) ∧
      (f.sub = 2 → lanes pg (fun j => wrap w (sext w (a j) / (2 ^ n j : Nat))) (exec (.vsh u f) s)))

/-- R99, R102: VBC, VPERM and VMOV fill governed lanes; VINS fills one; VEXT reads one, sign-extended; VRED forms the sum, maximum or minimum
of all lanes, exact for integer lanes and along the tree of R102 for float lanes. -/
def Obligations.VectorMovesAndReductions : Prop :=
  ∀ (s : State) (u : Issue) (f : FmtV) (t : ElemType), s.dev.Clean u → ElemType.ofCode f.et.toNat = some t → f.sr = false →
    let r := s.regsOf u
    let w := t.width
    let pg := laneOn (r.getP f.pg.toNat) w
    let a (j : Nat) := laneOf w (r.getV (regNum f.a)) j
    let b (j : Nat) := laneOf w (r.getV (regNum f.b)) j
    let lanes (on : Nat → Bool) (x : Nat → Nat) (o : Result) : Prop := s.RetiresLanes u (regNum f.d) w on (fun j => (x j, 0)) r.lfsr o
    (f.sub = 0 → isKind f.d .v = true → isSA f.a = true → lanes pg (fun _ => (r.readSA f.a).toNat) (exec (.vbc u f) s)) ∧
    (f.sub = 0 → isKind f.d .v = true → isKind f.a .v = true → isKind f.b .v = true →
      lanes pg (fun j => a (b j % (512 / w))) (exec (.vperm u f) s)) ∧
    (f.sub = 0 → isKind f.d .v = true → isKind f.a .v = true → lanes pg a (exec (.vmov u f) s)) ∧
    (f.sub = 0 → isKind f.d .v = true → isSA f.a = true → f.imm.toNat < 512 / w →
      lanes (fun j => j == f.imm.toNat && pg j) (fun _ => (r.readSA f.a).toNat) (exec (.vins u f) s)) ∧
    (f.sub = 0 → isSA f.d = true → isKind f.a .v = true → f.imm.toNat < 512 / w →
      s.Retires u (r.writeSA f.d (BitVec.ofInt 64 (sext w (a f.imm.toNat)))) (exec (.vext u f) s)) ∧
    (t.isVector = true → t.isInt = true → isSA f.d = true → isKind f.a .v = true →
      let all := (List.range (512 / w)).map (fun j => t.int (a j))
      (f.sub = 0 → s.Retires u (r.writeSA f.d (BitVec.ofInt 64 all.sum)) (exec (.vred u f) s)) ∧
      (f.sub = 1 → ∃ m ∈ all, (∀ x ∈ all, x ≤ m) ∧ s.Retires u (r.writeSA f.d (BitVec.ofInt 64 m)) (exec (.vred u f) s)) ∧
      (f.sub = 2 → ∃ m ∈ all, (∀ x ∈ all, m ≤ x) ∧ s.Retires u (r.writeSA f.d (BitVec.ofInt 64 m)) (exec (.vred u f) s))) ∧
    (t.isVector = true → t.isInt = false → isSA f.d = true → isKind f.a .v = true → f.sub.toNat ≤ 2 →
      let z := (treeReduce (redFloat t.fmt f.sub.toNat) (Nat.log2 (512 / w)) ((List.range (512 / w)).map (fun j => (a j, (0 : Flags))))).headD (0, 0)
      let c := f32.encode .plain none (t.fmt.decode z.1)
      s.Retires u ((r.writeSA f.d (BitVec.ofNat 64 c.1)).raise (z.2 ||| c.2)) (exec (.vred u f) s))

/-- R71–R74, R101: VCVT, VRQ and VQMX move lane slice g between the side with fewer lanes, N of them, and lanes g × N to g × N + N − 1 of the
other; VFN works on every FP32 lane. -/
def Obligations.VectorConversionLanes : Prop :=
  ∀ (s : State) (u : Issue) (f : FmtV) (t : ElemType), s.dev.Clean u → ElemType.ofCode f.et.toNat = some t → isKind f.d .v = true →
    let r := s.regsOf u
    let pg := r.getP f.pg.toNat
    (∀ dt : ElemType, ElemType.ofCode (f.imm.toNat % 16) = some dt → isKind f.a .v = true → f.sub = 0 → f.imm.toNat < 128 →
      cvtOk t dt = true → (f.sr = true → dt.isInt = false) →
      let ns := 512 / t.width
      let nd := 512 / dt.width
      let n := min ns nd
      let g := f.imm.toNat / 16 % 8
      let src := if nd < ns then g * n else 0
      let dst := if ns < nd then g * n else 0
      g < max ns nd / n →
      let on (j : Nat) : Bool := decide (dst ≤ j) && decide (j < dst + n) && laneOn pg dt.width j
      let draws := drawLanes f.sr ((List.range nd).map on) r.lfsr
      s.RetiresLanes u (regNum f.d) dt.width on
        (fun j => cvtLane t dt (if f.satm && dt != .f32 then .sat else .plain) (draws.1.getD j none)
          (laneOf t.width (r.getV (regNum f.a)) (src + (j - dst)))) draws.2 (exec (.vcvt u f) s)) ∧
    ((t = .i8 ∨ t = .u8 ∨ t = .i4) → isKind f.a .v = true → isSA f.b = true → isSA f.c = true → f.sub = 0 → f.sr = false →
      let w := t.width
      let nd := 512 / w
      let g := f.imm.toNat
      g < nd / 16 →
      let m := sext 32 (r.readSA f.b).toNat
      let sh := bitsOf (r.readSA f.b).toNat 37 32
      let z : Int := if t = .u8 then (((r.readSA f.c).toNat % 256 : Nat) : Int) else sext 8 (r.readSA f.c).toNat
      s.RetiresLanes u (regNum f.d) w (fun j => decide (g * 16 ≤ j) && decide (j < g * 16 + 16) && laneOn pg w j)
        (fun j =>
          let y := requant t.intLo t.intHi (sext 32 (laneOf 32 (r.getV (regNum f.a)) (j - g * 16))) m sh z
          (wrap w y.1, y.2)) r.lfsr (exec (.vrq u f) s)) ∧
    (t.isMx = true → isPair f.a = true → isSA f.c = true → f.sub = 0 → (f.sr = true → t ≠ .mxi8) →
      let w := t.width
      let g := f.imm.toNat
      g < 512 / w / 32 →
      let vals := ((List.range 16).map (laneOf 32 (r.getV (regNum f.a))) ++ (List.range 16).map (laneOf 32 (r.getV (regNum f.a + 1)))).map f32.decode
      let special := vals.any (fun v => v.isNaN || v.isInf)
      let scale := if special then 0xFF else blockScale t vals
      let on (j : Nat) : Bool := decide (g * 32 ≤ j) && decide (j < g * 32 + 32) && laneOn pg w j
      let draws := drawLanes f.sr ((List.range (512 / w)).map on) r.lfsr
      ∃ l, r.LanesWritten (regNum f.d) w on
          (fun j => if special then (0, 0) else mxElem t scale (draws.1.getD j none) (vals.getD (j - g * 32) (.fin false 0 0))) l ∧
        l.lfsr = draws.2 ∧
        s.Retires u ((l.writeSA f.c (BitVec.ofNat 64 scale)).raise (if special then Flags.nv else 0)) (exec (.vqmx u f) s)) ∧
    (t = .f32 → isKind f.a .v = true → f.sub.toNat ≤ 5 → f.sr = false →
      s.RetiresLanes u (regNum f.d) 32 (laneOn pg 32) (fun j => vfnLane f.sub.toNat (laneOf 32 (r.getV (regNum f.a)) j)) r.lfsr (exec (.vfn u f) s))

/-- R92, R99, R125: every V instruction ends with RESERVED_FIELD when its ET is a reserved code, and the lane arithmetic ends with
TYPE_COMBINATION on a type that the vector unit does not have. -/
def Obligations.VectorTypeFaults : Prop :=
  ∀ (s : State) (u : Issue) (f : FmtV), s.dev.Clean u →
    (∀ i ∈ [Instr.vadd u f, .vsub u f, .vmul u f, .vfma u f, .vmax u f, .vmin u f, .vabs u f, .vneg u f, .vcmp u f, .vsel u f, .vlog u f,
            .vsh u f, .vcvt u f, .vrq u f, .vqmx u f, .vfn u f, .vred u f, .vbc u f, .vperm u f, .vmov u f, .vext u f, .vins u f],
      0xD ≤ f.et.toNat → s.Faults u .reservedField (exec i s)) ∧
    (∀ i ∈ [Instr.vadd u f, .vsub u f, .vmul u f, .vfma u f, .vmax u f, .vmin u f, .vabs u f, .vneg u f],
      ∀ t, ElemType.ofCode f.et.toNat = some t → t.isVector = false → f.sub = 0 →
        isKind f.d .v = true → isKind f.a .v = true → isKind f.b .v = true → isKind f.c .v = true → s.Faults u .typeCombination (exec i s))
/-! ### Sedun: the matrix unit and the local store (R55–R58, R67–R69, R103–R105) -/

/-- R56, R57, R67, R103: MMA. Element (i, j) of tile T becomes its old value, or 0 with Z, plus the dot product of row i of A and row j of B, K
products a step: exact and saturated once on the integer pairs; on the others as R68 and R69 lay down, with the scale bytes of row and
column. -/
def Obligations.MatrixStepResults : Prop :=
  ∀ (s : State) (u : Issue) (f : FmtM) (ta tb : ElemType) (sh : StepShape), s.dev.Clean u → ElemType.ofCode f.eta.toNat = some ta →
    ElemType.ofCode f.etb.toNat = some tb → stepShape ta tb = some sh → f.row = 0 → f.rsv = 0 → isKind f.va .v = true → isKind f.vb .v = true →
    (sh.wa * 16 * sh.k = 1024 → isPair f.va = true) →
    let r := s.regsOf u
    let va := regNum f.va
    let vb := regNum f.vb
    let old (i j : Nat) : Nat := if f.z then 0 else laneOf 32 (r.getTRow f.t.toNat i) j
    let a (i : Nat) : List Nat := (List.range sh.k).map (fun k => opLane r va sh.wa (i * sh.k + k))
    let b (j : Nat) : List Nat := (List.range sh.k).map (fun k => opLane r vb sh.wb (j * sh.k + k))
    (sh.int = true → ∃ t, s.Retires u t (exec (.mma u f) s) ∧ r.TileWritten f.t.toNat (fun i j =>
      let sum := sext 32 (old i j) + (List.zipWith (fun (x y : Nat) => (if ta = .u8 then ((x : Nat) : Int) else sext sh.wa x) * sext sh.wb y) (a i) (b j)).sum
      (wrap 32 (clampInt (-2147483648) 2147483647 sum), if sum < -2147483648 ∨ 2147483647 < sum then Flags.sat else 0)) t) ∧
    (sh.int = false → ∃ t, s.Retires u t (exec (.mma u f) s) ∧ r.TileWritten f.t.toNat (fun i j =>
      fltElem (old i j) (((r.getSide va).toNat >>> (8 * i)) % 256) (((r.getSide vb).toNat >>> (8 * j)) % 256)
        ((a i).map ta.decode) ((b j).map tb.decode)) t)

/-- R57, R58, R103: TZERO clears a tile; TRD and TWR move one row between a tile and a vector register. Fields that none of them uses must
be 0. -/
def Obligations.TileMoveResults : Prop :=
  ∀ (s : State) (u : Issue) (f : FmtM), s.dev.Clean u → f.vb = 0 → f.eta = 0 → f.etb = 0 → f.z = false → f.rsv = 0 →
    let r := s.regsOf u
    (f.va = 0 → f.row = 0 → ∃ t, s.Retires u t (exec (.tzero u f) s) ∧ r.TileWritten f.t.toNat (fun _ _ => (0, 0)) t) ∧
    (isKind f.va .v = true → s.Retires u (r.setV (regNum f.va) (r.getTRow f.t.toNat f.row.toNat)) (exec (.trd u f) s)) ∧
    (isKind f.va .v = true → s.Retires u (r.setTRow f.t.toNat f.row.toNat (r.getV (regNum f.va))) (exec (.twr u f) s)) ∧
    (isKind f.va .v = false → s.Faults u .registerKind (exec (.trd u f) s) ∧ s.Faults u .registerKind (exec (.twr u f) s))

/-- R104, R105: the loads. LD reads 1, 2, 4 or 8 little-endian bytes, zero- or sign-extended; VLD 64 bytes a register, or 32 unpacked from INT4
into 8-bit lanes; MXL 64 bytes a register, or 48 unpacked from FP6, with the sixteen scale bytes at the address in IDX. -/
def Obligations.LocalStoreLoads : Prop :=
  ∀ (s : State) (u : Issue) (f : FmtX) (a : Nat), s.dev.Clean u → f.et.toNat < 0xD → isKind f.base .a = true →
    (a : Int) = ((s.regsOf u).getA (regNum f.base)).toNat + f.off.toInt →
    let r := s.regsOf u
    let k := s.coreOf u
    (∀ n, n = 2 ^ (f.sub.toNat % 4) → f.sub.toNat < 8 → isSA f.d = true → a + n ≤ 0x40000 → a % n = 0 → k.quiet a n →
      s.Issues u (k.retired (r.writeSA f.d (if f.sub.toNat < 4 then BitVec.ofNat 64 (leNat (k.lsRead a n))
        else BitVec.ofInt 64 (sext (8 * n) (leNat (k.lsRead a n)))))) (exec (.ld u f) s)) ∧
    (f.sub.toNat < 2 → isKind f.d .v = true → (f.sub = 1 → isPair f.d = true) → a + 64 * (f.sub.toNat + 1) ≤ 0x40000 → a % 64 = 0 →
      k.quiet a (64 * (f.sub.toNat + 1)) →
      let r1 := r.setV (regNum f.d) (BitVec.ofNat 512 (leNat (k.lsRead a 64)))
      s.Issues u (k.retired (if f.sub = 1 then r1.setV (regNum f.d + 1) (BitVec.ofNat 512 (leNat (k.lsRead (a + 64) 64))) else r1)) (exec (.vld u f) s)) ∧
    (f.sub = 2 ∨ f.sub = 3 → isKind f.d .v = true → (f.sub = 3 → isPair f.d = true) → a + 32 * (f.sub.toNat - 1) ≤ 0x40000 → a % 64 = 0 →
      k.quiet a (32 * (f.sub.toNat - 1)) →
      let i4 (b : Nat) := packLanes 8 ((List.range 64).map (fun j => wrap 8 (sext 4 (leNat (k.lsRead b 32) >>> (4 * j)))))
      let r1 := r.setV (regNum f.d) (i4 a)
      s.Issues u (k.retired (if f.sub = 3 then r1.setV (regNum f.d + 1) (i4 (a + 32)) else r1)) (exec (.vld u f) s)) ∧
    (∀ t, ElemType.ofCode f.et.toNat = some t → t.isMx = true → f.sub.toNat < 2 → isKind f.d .v = true → (f.sub = 1 → isPair f.d = true) →
      isKind f.idx .a = true →
      let sa := (r.getA (regNum f.idx)).toNat
      let n := if t = .e3m2 ∨ t = .e2m3 then 48 else 64
      a + n * (f.sub.toNat + 1) ≤ 0x40000 → sa + 16 ≤ 0x40000 → a % 64 = 0 → sa % 16 = 0 → k.quiet a (n * (f.sub.toNat + 1)) → k.quiet sa 16 →
      let v (b : Nat) : BitVec 512 := if n = 48 then packLanes 8 ((List.range 64).map (fun j => (leNat (k.lsRead b 48) >>> (6 * j)) % 64))
        else BitVec.ofNat 512 (leNat (k.lsRead b 64))
      let sc : BitVec 128 := BitVec.ofNat 128 (leNat (k.lsRead sa 16))
      let r1 := r.setVMx (regNum f.d) (v a) sc
      s.Issues u (k.retired (if f.sub = 1 then r1.setVMx (regNum f.d + 1) (v (a + n)) sc else r1)) (exec (.mxl u f) s))

/-- R104, R119: the stores. ST writes the low bytes of scalar IDX; VST the bytes of vector IDX that p register SUB[2:0] governs, and keeps the
others. Nothing else in the local store, in memory or in another core changes. -/
def Obligations.LocalStoreStores : Prop :=
  ∀ (s : State) (u : Issue) (f : FmtX) (a : Nat), s.dev.Clean u → f.et.toNat < 0xD → isKind f.base .a = true →
    (∀ w ∈ (FMap.get Points.none s.dev.dbg.points u.core).wp, w = none) →
    (a : Int) = ((s.regsOf u).getA (regNum f.base)).toNat + f.off.toInt →
    let r := s.regsOf u
    let k := s.coreOf u
    (∀ n, n = 2 ^ (f.sub.toNat % 4) → f.sub.toNat < 4 → isSA f.idx = true → a + n ≤ 0x40000 → a % n = 0 →
      ∃ t, s.Issues u t (exec (.st u f) s) ∧ k.Stored a (leBytes n (r.readSA f.idx).toNat) t) ∧
    (f.sub.toNat < 8 → isKind f.idx .v = true → a + 64 ≤ 0x40000 → a % 64 = 0 →
      ∃ t bs, s.Issues u t (exec (.vst u f) s) ∧ k.Stored a bs t ∧ bs.length = 64 ∧ ∀ i, i < 64 →
        bs.getD i 0 = if (r.getP f.sub.toNat).getLsbD i then BitVec.ofNat 8 (laneOf 8 (r.getV (regNum f.idx)) i) else (k.lsRead (a + i) 1).getD 0 0) ∧
    (8 ≤ f.sub.toNat → f.sub.toNat < 16 → isPair f.idx = true → a + 128 ≤ 0x40000 → a % 64 = 0 →
      ∃ t bs, s.Issues u t (exec (.vst u f) s) ∧ k.Stored a bs t ∧ bs.length = 128 ∧ ∀ i, i < 128 →
        bs.getD i 0 = if (r.getP (f.sub.toNat % 8)).getLsbD (i % 64) then BitVec.ofNat 8 (laneOf 8 (r.getV (regNum f.idx + i / 64)) (i % 64))
          else (k.lsRead (a + i) 1).getD 0 0)

/-- R104, R125: an access with a byte outside the local store ends with LS_ADDRESS, a misaligned one inside with MISALIGNED, before either
a register kind that is wrong with REGISTER_KIND, and first of all a SUB that is not defined with RESERVED_FIELD. -/
def Obligations.LocalStoreFaults : Prop :=
  ∀ (s : State) (u : Issue) (f : FmtX), s.dev.Clean u →
    let a : Int := ((s.regsOf u).getA (regNum f.base)).toNat + f.off.toInt
    let n := 2 ^ (f.sub.toNat % 4)
    (8 ≤ f.sub.toNat → s.Faults u .reservedField (exec (.ld u f) s)) ∧
    (f.sub.toNat < 8 → f.et.toNat < 0xD → isKind f.base .a = false → s.Faults u .registerKind (exec (.ld u f) s)) ∧
    (f.sub.toNat < 8 → f.et.toNat < 0xD → isKind f.base .a = true → isSA f.d = true → a < 0 ∨ 0x40000 < a + n →
      s.Faults u .lsAddress (exec (.ld u f) s)) ∧
    (f.sub.toNat < 8 → f.et.toNat < 0xD → isKind f.base .a = true → isSA f.d = true → 0 ≤ a → a + n ≤ 0x40000 → a % n ≠ 0 →
      s.Faults u .misaligned (exec (.ld u f) s)) ∧
    (f.sub.toNat < 4 → f.et.toNat < 0xD → isKind f.base .a = true → isSA f.idx = true → a < 0 ∨ 0x40000 < a + n →
      s.Faults u .lsAddress (exec (.st u f) s)) ∧
    (f.sub.toNat < 4 → f.et.toNat < 0xD → isKind f.base .a = true → isSA f.idx = true → 0 ≤ a → a + n ≤ 0x40000 → a % n ≠ 0 →
      s.Faults u .misaligned (exec (.st u f) s))
/-! ### Sedun: DMA, synchronisation and control (R104, R106–R120, R123) -/

/-- R50, R104, R106, R121, R123: DMA puts a descriptor that passes its checks at the end of the core's queue, with the source of a write as it
stands now, and waits while 16 are incomplete; DMAW goes on once at most OFF20, and FENCE once none, are incomplete. -/
def Obligations.DmaQueueAndFences : Prop :=
  ∀ (s : State) (u : Issue) (f : FmtX), s.dev.Clean u → f.et.toNat < 0xD → f.sub = 0 →
    let k := s.coreOf u
    let r := s.regsOf u
    let since : Option Nat := if k.dma.any (fun e => (s.dev.dmaRanges e).any (fun p => s.dev.remoteTo u.core p.1)) then some s.dev.ticks else none
    (∀ (a : Nat) (e : DmaEntry), isKind f.base .a = true → (a : Int) = (r.getA (regNum f.base)).toNat + f.off.toInt → a + 64 ≤ 0x40000 → a % 64 = 0 →
      k.quiet a 64 → s.dev.dmaCheck u.core (k.lsRead a 64) = .ok e →
      (k.dma.length < 16 → s.dev.dmaFenced e = none → e.kind ≠ 1 → e.kind ≠ 3 →
        s.AnswersSettled (exec (.dma u f) s) (fun d => s.dev.Put u.core { k.retired r with dma := k.dma ++ [{ e with data := [] }] } d ∧
          d = { s.dev with out := [], cores := d.cores, gau := d.gau })) ∧
      (16 ≤ k.dma.length → s.AnswersSettled (exec (.dma u f) s) (fun d => s.dev.Put u.core (k.waits (.dma f) none) d ∧
          d = { s.dev with out := [], cores := d.cores, gau := d.gau }))) ∧
    (k.dma.length ≤ f.off.toNat → s.Issues u (k.retired r) (exec (.dmaw u f) s)) ∧
    (f.off.toNat < k.dma.length → s.Issues u (k.waits (.dmaw f) since) (exec (.dmaw u f) s)) ∧
    (k.dma = [] → s.Issues u (k.retired r) (exec (.fence u f) s)) ∧
    (k.dma ≠ [] → s.Issues u (k.waits (.fence f) since) (exec (.fence u f) s))

/-- R109, R110, R329, R330: SEMA and SEMT take a free semaphore, D telling 0x0E where it was poisoned and 0 where not; of one that another
holds SEMT answers 0x80 and SEMA waits, behind those that wait already; SEMR gives back one that the context holds; a semaphore that the
partition is not granted is a fault. -/
def Obligations.SemaphoreResults : Prop :=
  ∀ (s : State) (u : Issue) (f : FmtX) (p : Part) (n : Nat), s.dev.Clean u → f.et.toNat < 0xD → f.sub = 0 → isSANone f.idx = true →
    n = (if f.idx = 0xFF then f.off.toNat % 4096 else ((s.regsOf u).readSA f.idx).toNat) → s.dev.partOfCtx (s.dev.ctxOn u.core) = some p →
    let k := s.coreOf u
    let r := s.regsOf u
    let x := s.dev.sem n
    let frame (d : Dev) : Prop := (∀ m, m ≠ n → d.sem m = s.dev.sem m) ∧ d = { s.dev with out := [], cores := d.cores, gau := d.gau, sems := d.sems }
    (n / 1024 < s.dev.hw.dies → p.grantsSem n = true → s.dev.holdsSem (s.dev.ctxOn u.core) n = false → s.dev.semLoad (s.dev.ctxOn u.core) < 16 →
      s.dev.dieFenced (n / 1024) = false → isSA f.d = true →
      (x.holder = none → ∀ i ∈ [Instr.sema u f, .semt u f], s.AnswersSettled (exec i s) (fun d =>
        s.dev.Put u.core (k.retired (r.writeSA f.d (if x.poisoned then 0x0E else 0))) d ∧
        d.sem n = { holder := some (u.core, s.dev.ctxOn u.core), poisoned := false, waiters := x.waiters } ∧ frame d)) ∧
      (x.holder ≠ none → s.AnswersSettled (exec (.semt u f) s) (fun d => s.dev.Put u.core (k.retired (r.writeSA f.d 0x80)) d ∧ d.sem n = x ∧ frame d)) ∧
      (x.holder ≠ none → s.AnswersSettled (exec (.sema u f) s) (fun d =>
        s.dev.Put u.core (k.waits (.sema f n) (if n / 1024 = coreDie u.core then none else some s.dev.ticks)) d ∧
        d.sem n = { x with waiters := x.waiters ++ [u.core] } ∧ frame d))) ∧
    (n / 1024 < s.dev.hw.dies → p.grantsSem n = true → s.dev.holdsSem (s.dev.ctxOn u.core) n = true → s.dev.dieFenced (n / 1024) = false →
      s.dev.writesPending u.core = false → x.waiters = [] → s.AnswersSettled (exec (.semr u f) s) (fun d =>
        s.dev.Put u.core (k.retired r) d ∧ d.sem n = { holder := none, poisoned := false, waiters := [] } ∧ frame d)) ∧
    (isSA f.d = true → p.grantsSem n = false → ∀ i ∈ [Instr.sema u f, .semt u f, .semr u f], s.Faults u .semaphore (exec i s))

/-- R111, R123: AMO reads a naturally aligned word of Mortar, writes add, exchange, compare-and-swap, maximum or minimum of it back, and gives D
the old word; MWAIT goes on with the word in D once it is at least, equal to or other than the operand, and waits until then. Here of a job
that declares no epoch, where no line is tagged or mirrored and no record is held open. -/
def Obligations.AtomicResults : Prop :=
  ∀ (s : State) (u : Issue) (f : FmtX) (p : Part) (a die : Nat), s.dev.Clean u → f.et.toNat < 0xD → isSA f.d = true → isSA f.idx = true → isKind f.base .a = true →
    (a : Int) = ((s.regsOf u).getA (regNum f.base)).toNat + f.off.toInt → placeOf s.dev.hw a = .mortar die → s.dev.dieFenced die = false →
    s.dev.partOfCtx (s.dev.ctxOn u.core) = some p → s.dev.tags = [] → s.dev.mirrors = [] → s.dev.poison = [] → s.dev.streamList = [] →
    s.dev.viewOf (s.dev.ctxOn u.core) = View.plain →
    let k := s.coreOf u
    let r := s.regsOf u
    let n := if f.sub.toNat / 8 % 2 = 1 then 8 else 4
    let old := leNat ((List.range n).map (fun i => s.dev.cell (a + i)))
    let x := (r.readSA f.idx).toNat % 2 ^ (8 * n)
    a % n = 0 → p.allows a n 0 = true →
    (f.sub.toNat < 16 → f.sub.toNat % 8 ≤ 4 → p.allows a n 1 = true → s.dev.writesPending u.core = false →
      let new := match f.sub.toNat % 8 with
        | 0 => (old + x) % 2 ^ (8 * n)
        | 1 => x
        | 2 => if old = (r.readSA f.d).toNat % 2 ^ (8 * n) then x else old
        | 3 => max old x
        | _ => min old x
      s.AnswersSettled (exec (.amo u f) s) (fun d => s.dev.Put u.core (k.retired (r.writeSA f.d (BitVec.ofNat 64 old))) d ∧
        (∀ b, d.cell b = if a ≤ b ∧ b < a + n then (leBytes n new).getD (b - a) 0 else s.dev.cell b) ∧
        d = { s.dev with out := [], cores := d.cores, gau := d.gau, mem := d.mem })) ∧
    (f.sub.toNat < 16 → f.sub.toNat % 8 < 3 →
      let holds := match f.sub.toNat % 4 with
        | 0 => decide (x ≤ old)
        | 1 => old == x
        | _ => old != x
      s.AnswersSettled (exec (.mwait u f) s) (fun d =>
        s.dev.Put u.core (if holds then k.retired (r.writeSA f.d (BitVec.ofNat 64 old)) else k.waits (.mwait f) (if die = coreDie u.core then none else some s.dev.ticks)) d ∧
        d = { s.dev with out := [], cores := d.cores, gau := d.gau }))

/-- R93, R117: BR goes to the instruction at its own address plus eight times IMM32 where its condition holds, and on to the next where not; CALL
goes there always and leaves the address after it in A; JR goes to the address in A, which must be a multiple of 8. -/
def Obligations.BranchResults : Prop :=
  ∀ (s : State) (u : Issue) (f : FmtC), s.dev.Clean u →
    let r := s.regsOf u
    let pc := s.pcOf u
    let target := pc + BitVec.ofInt 48 (8 * f.imm.toInt)
    let goes (r' : Regs) (pc' : BitVec 48) (o : Result) : Prop := ∃ t, o = .next t ∧ s.Retired u.core r' pc' t
    let a := r.readSA f.a
    let b := r.readSA f.b
    let br (holds : Prop) [Decidable holds] : Prop := goes r (if holds then target else pc + 8) (exec (.br u f) s)
    (isSA f.a = true → isSANone f.b = true →
      (f.cond = 0 → br (a = b)) ∧ (f.cond = 1 → br (a ≠ b)) ∧ (f.cond = 2 → br (a.toInt < b.toInt)) ∧ (f.cond = 3 → br (b.toInt ≤ a.toInt)) ∧
      (f.cond = 4 → br (a.toNat < b.toNat)) ∧ (f.cond = 5 → br (b.toNat ≤ a.toNat))) ∧
    (isKind f.a .p = true → let q := r.getP (regNum f.a)
      (f.cond = 8 → br (q ≠ 0)) ∧ (f.cond = 9 → br (q = BitVec.allOnes 64)) ∧ (f.cond = 10 → br (q = 0))) ∧
    (f.cond = 31 → br True) ∧
    (isKind f.a .a = true → goes (r.setA (regNum f.a) (pc + 8)) target (exec (.call u f) s)) ∧
    (isKind f.a .a = true → (r.getA (regNum f.a)).toNat % 8 = 0 → goes r (r.getA (regNum f.a)) (exec (.jr u f) s)) ∧
    (isKind f.a .a = true → (r.getA (regNum f.a)).toNat % 8 ≠ 0 → s.Faults u .fetch (exec (.jr u f) s))

/-- R118–R120: YLD takes a checkpoint and, where its context is not yielding, goes on; where it is, the core saves itself once nothing is
outstanding. END stops the core once nothing is outstanding. Neither is allowed while the core holds what it must give back first. -/
def Obligations.YieldAndEnd : Prop :=
  ∀ (s : State) (u : Issue) (f : FmtC), s.dev.Clean u →
    let k := s.coreOf u
    let r := s.regsOf u
    let c := s.dev.ctxOn u.core
    let i := f.imm.toNat
    (∀ lv, i < 65536 → s.dev.semsHeld c = [] → (∀ h ∈ s.dev.coresOn c, (s.dev.core h).borrow = []) → s.dev.liveOf c i = some lv →
      let ck : Checkpoint := { index := i, pc := k.pc + 8, mask := BitVec.ofNat 128 lv.1, regs := r, ranges := lv.2 }
      ((s.dev.ctx c).state = .running → s.AnswersSettled (exec (.yld u f) s) (fun d => s.dev.Put u.core { k.retired r with ckpt := some ck } d ∧
        d = { s.dev with out := [], cores := d.cores, gau := d.gau })) ∧
      ((s.dev.ctx c).state = .yielding → s.dev.ticketsOut u.core = false → k.dma = [] → s.AnswersSettled (exec (.yld u f) s) (fun d =>
        ((d.core u.core).st = .saved ∨ (d.ctx c).state = .suspended) ∧ (d.core u.core).regs = r ∧ (d.core u.core).pc = k.pc ∧
        (FMap.get none d.jfe.saves (4096 * c + u.core)).map (·.ck) = some ck))) ∧
    (s.dev.semsHeld c ≠ [] → i < 65536 → s.Faults u .heldAtBoundary (exec (.yld u f) s)) ∧
    (s.dev.semsHeld c ≠ [] ∨ k.borrow ≠ [] → s.Faults u .heldAtBoundary (exec (.end_ u f) s)) ∧
    (s.dev.semsHeld c = [] → k.borrow = [] → k.dma = [] → k.tickets = [] → (s.dev.ctx c).state = .running → s.AnswersSettled (exec (.end_ u f) s) (fun d =>
      s.dev.Put u.core { k with st := .idle, ctx := none, tickets := [], wait := .none, remoteSince := none, ckpt := none, halted := false } d ∧
      d.ctx c = { s.dev.ctx c with coresLeft := (s.dev.ctx c).coresLeft - 1 } ∧ (∀ b, b ≠ c → d.ctx b = s.dev.ctx b) ∧ d.mem = s.dev.mem))
/-! ### Sedun: engines, credits, epochs and system reads (R112–R116, R202, R203, R356, R521) -/

/-- R112, R113: EISS puts a command at the end of the engine's queue of its partition, behind those of its partition, and gives D a new ticket,
which is pending; EPOLL tells 0 of a pending ticket and 256 plus the status of a complete one; EWAIT goes on with the status once it is
complete. -/
def Obligations.EngineCommandResults : Prop :=
  ∀ (s : State) (u : Issue) (f : FmtE), s.dev.Clean u →
    let k := s.coreOf u
    let r := s.regsOf u
    let c := s.dev.ctxOn u.core
    let x := s.dev.ctx c
    let tgt := f.tgt.toNat
    let a := (r.getA (regNum f.a)).toNat
    let die := if tgt = 4 then 8 else if f.die = 7 then coreDie u.core else f.die.toNat
    (∀ p, tgt ≤ 4 → (tgt ≠ 4 → f.die.toNat < 4 ∨ f.die = 7) → isSA f.d = true → isKind f.a .a = true → a % 64 = 0 →
      inMem s.dev.hw a (if tgt = 2 then 128 else 256) = true → s.dev.part x.part = some p → p.allows a (if tgt = 2 then 128 else 256) 0 = true →
      bitOf x.inv.engines (if tgt = 4 then 16 else 4 * die + tgt) = true → s.dev.writesPending u.core = false → s.dev.engineShut c tgt die = false →
      let queue (d : Dev) : List EngCmd := if tgt = 4 then FMap.get [] d.crn.queues x.part else FMap.get [] (d.eng die tgt).queues x.part
      (queue s.dev).length < 16 → s.AnswersSettled (exec (.eiss u f) s) (fun d => ∃ t cmd,
        t % 65536 = FMap.get 0 s.dev.ticketSeq (c * 256 + tgt * 16 + die) % 65536 ∧ t / 65536 % 16 = tgt ∧ (tgt ≠ 4 → t / 2 ^ 20 = die) ∧
        s.dev.Put u.core { k.retired (r.writeSA f.d (BitVec.ofNat 64 t)) with tickets := k.tickets ++ [t] } d ∧
        d.ticket c t = some { ctx := c, core := u.core, st := .pending } ∧ queue d = queue s.dev ++ [cmd] ∧
        cmd.ctx = c ∧ cmd.part = x.part ∧ cmd.addr = a ∧ cmd.ticket = some t ∧ d.mem = s.dev.mem)) ∧
    (∀ tk, isSA f.d = true → isSA f.a = true → (r.readSA f.a).toNat < 2 ^ 32 → s.dev.ticket c (r.readSA f.a).toNat = some tk →
      (tk.st = .pending → s.Issues u (k.retired (r.writeSA f.d 0)) (exec (.epoll u f) s) ∧ s.Issues u (k.waits (.ewait f) none) (exec (.ewait u f) s)) ∧
      (∀ st, tk.st = .done st → s.Issues u (k.retired (r.writeSA f.d (BitVec.ofNat 64 (256 + st.toNat)))) (exec (.epoll u f) s) ∧
        s.Issues u (k.retired (r.writeSA f.d (BitVec.ofNat 64 st.toNat))) (exec (.ewait u f) s)))

/-- R112, R116, R356: CRDB borrows 1 to 64 flits of a port's pool of the core's partition, none on a port that is idle, and waits while too few
are left; CRDR gives the borrow back. -/
def Obligations.CreditResults : Prop :=
  ∀ (s : State) (u : Issue) (f : FmtE), s.dev.Clean u → f.tgt.toNat ≤ 2 →
    let k := s.coreOf u
    let r := s.regsOf u
    let p := f.tgt.toNat
    let n := f.imm.toNat
    let part := (s.dev.ctx (s.dev.ctxOn u.core)).part
    let pt := s.dev.port (coreDie u.core) p
    (FMap.get none k.borrow p = none → 0 < n → n ≤ 64 → n ≤ s.dev.poolOf u.core p →
      (s.dev.portIdle u.core p = true →
        s.Issues u { k.retired r with borrow := FMap.set none k.borrow p (some 0) } (exec (.crdb u f) s)) ∧
      (s.dev.portIdle u.core p = false → n ≤ s.dev.poolLeft u.core p →
        s.Answers (exec (.crdb u f) s) (fun d => s.dev.Put u.core { k.retired r with borrow := FMap.set none k.borrow p (some n) } d ∧
          d = { s.dev with out := [], cores := d.cores, gau := d.gau, ports := d.ports } ∧
          d.ports = (s.dev.setPort (coreDie u.core) p { pt with borrowed := FMap.set 0 pt.borrowed part (FMap.get 0 pt.borrowed part + n) }).ports)) ∧
      (s.dev.portIdle u.core p = false → s.dev.poolLeft u.core p < n → s.Issues u (k.waits (.crdb f) none) (exec (.crdb u f) s))) ∧
    (∀ m, FMap.get none k.borrow p = some m → k.ctx ≠ none →
      s.AnswersSettled (exec (.crdr u f) s) (fun d => s.dev.Put u.core { k.retired r with borrow := FMap.set none k.borrow p none } d ∧
        d = { s.dev with out := [], cores := d.cores, gau := d.gau, ports := d.ports } ∧
        d.ports = (s.dev.setPort (coreDie u.core) p { pt with borrowed := FMap.set 0 pt.borrowed part (FMap.get 0 pt.borrowed part - m) }).ports))

/-- R114, R202: EPRD tells an epoch that the job has declared, 0 while it is undecided, 1 confirmed, 2 squashed or with speculation off; EPWAIT goes
on with that once it is not 0; EPRSLV answers 0 or 6 where the outcome stands, and on an OPEN epoch waits for it, the resolver's values first
judged against the prediction. -/
def Obligations.EpochResults : Prop :=
  ∀ (s : State) (u : Issue) (f : FmtE), s.dev.Clean u → isSA f.d = true →
    let k := s.coreOf u
    let r := s.regsOf u
    let c := s.dev.ctxOn u.core
    let e := f.imm.toNat % 256
    let x := s.dev.epoch e
    s.dev.declares c e = true →
    (f.imm.toNat < 256 →
      let v := if s.dev.specOff then 2 else match x.state with
        | .confirmed => 1
        | .squashed => 2
        | _ => 0
      s.Issues u (k.retired (r.writeSA f.d (BitVec.ofNat 64 v))) (exec (.eprd u f) s) ∧
      (v ≠ 0 → s.Issues u (k.retired (r.writeSA f.d (BitVec.ofNat 64 v))) (exec (.epwait u f) s)) ∧
      (v = 0 → s.Issues u (k.waits (.epwait f) none) (exec (.epwait u f) s))) ∧
    (∀ n, n = f.imm.toNat / 256 + 1 → n ≤ 8 → isKind f.a .a = true → (r.getA (regNum f.a)).toNat + 4 * n ≤ 0x40000 → (r.getA (regNum f.a)).toNat % 4 = 0 →
      let done (v : W64) := s.AnswersSettled (exec (.eprslv u f) s) (fun d => s.dev.Put u.core (k.retired (r.writeSA f.d v)) d ∧
        d = { s.dev with out := [], cores := d.cores, gau := d.gau })
      (s.dev.specOff = true ∨ x.state = .squashed → done 6) ∧
      (s.dev.specOff = false → x.state = .confirmed → done 0) ∧
      (s.dev.specOff = false → x.state = .opened → x.kinds.length = n → k.quiet (r.getA (regNum f.a)).toNat (4 * n) →
        s.AnswersSettled (exec (.eprslv u f) s) (fun d => s.dev.Put u.core (k.waits (.eprslv f) none) d ∧
          (let actual := (List.range n).map (fun i => leNat (k.lsRead ((r.getA (regNum f.a)).toNat + 4 * i) 4))
           let first := (s.dev.ctx c).inv.resolver = e ∧ x.held = false ∧ (∀ q ∈ s.dev.jfe.squash, q.1 ≠ e)
           (first → predictionHolds x.kinds actual x.predicted x.tolerance = true → d.epoch e = { x with held := true } ∧
             (∀ j, j ≠ e → d.epoch j = s.dev.epoch j) ∧ d = { s.dev with out := [], cores := d.cores, gau := d.gau, jfe := { s.dev.jfe with epochs := d.jfe.epochs } }) ∧
           (first → predictionHolds x.kinds actual x.predicted x.tolerance = false → 
             d = { s.dev with out := [], cores := d.cores, gau := d.gau, jfe := { s.dev.jfe with squash := s.dev.jfe.squash ++ [(e, 1)] } }) ∧
           (¬ first → d = { s.dev with out := [], cores := d.cores, gau := d.gau })))))

/-- R97, R112, R115, R521: CID tells the core's global number, context, partition or whether it is joined; FLGR the sticky flags; FLGC clears the
flags that IMM22 names; TIME a time within 5 ns of Plumb time that never decreases at a core (which of them is open: log entry 9); GRD a Gauge
counter of the core, 0 while the counters are off. Events that depend on timing count an open number (log entry 60). -/
def Obligations.SystemReadResults : Prop :=
  ∀ (s : State) (u : Issue) (f : FmtE), s.dev.Clean u →
    let k := s.coreOf u
    let r := s.regsOf u
    let c := s.dev.ctxOn u.core
    let j := f.imm.toNat
    (∀ v : Nat, isSA f.d = true → (f.tgt = 0 → v = u.core) → (f.tgt = 1 → v = c) → (f.tgt = 2 → v = (s.dev.ctx c).part) →
      (f.tgt = 3 → v = if s.dev.isJoined u.core then 1 else 0) → f.tgt.toNat ≤ 3 → s.Issues u (k.retired (r.writeSA f.d (BitVec.ofNat 64 v))) (exec (.cid u f) s)) ∧
    (isSA f.d = true → s.Issues u (k.retired (r.writeSA f.d (r.flags.setWidth 64))) (exec (.flgr u f) s)) ∧
    (j < 32 → s.Issues u (k.retired { r with flags := r.flags &&& ~~~(BitVec.ofNat 5 j) }) (exec (.flgc u f) s)) ∧
    (isSA f.d = true → s.Answers (exec (.time u f) s) (fun d => ∃ v, s.dev.Put u.core { k.retired (r.writeSA f.d (BitVec.ofNat 64 v)) with lastTime := v } d ∧
      k.lastTime ≤ v ∧ (k.lastTime ≤ s.dev.now + 5 → s.dev.now ≤ v + 5 ∧ v ≤ s.dev.now + 5) ∧
      d = { s.dev with out := [], cores := d.cores, gau := d.gau, freeCtr := s.dev.freeCtr + 1 })) ∧
    (∀ p, j ≤ 8 → isSA f.d = true → s.dev.partOfCtx c = some p → p.gauUser = true →
      let e := s.dev.gaugeEvent j
      let timed := e = 3 ∨ e = 5 ∨ e = 6 ∨ e = 9 ∨ e = 10
      ((s.dev.coreGauges = false ∨ j = 0 ∨ ¬ timed) → s.Answers (exec (.grd u f) s) (fun d =>
        s.dev.Put u.core (k.retired (r.writeSA f.d (BitVec.ofNat 64 (if s.dev.coreGauges = false then 0 else if j = 0 then d.cycleCount u.core % 2 ^ 64
          else FMap.get 0 d.gau.core (16 * u.core + j))))) d ∧ d = { s.dev with out := [], cores := d.cores, gau := d.gau })) ∧
      (s.dev.coreGauges = true → j ≠ 0 → timed → s.Answers (exec (.grd u f) s) (fun d => ∃ v, v < 2 ^ 48 ∧
        s.dev.Put u.core (k.retired (r.writeSA f.d (BitVec.ofNat 64 v))) d ∧ d = { s.dev with out := [], cores := d.cores, gau := d.gau, freeCtr := s.dev.freeCtr + 1 })))

/-- R125: the E class's own causes: an engine that the job has not been given, or a ticket that is none of its, is ENGINE; a command block that
is not aligned or not readable is DMA_ADDRESS; a second borrow, or one beyond the pool, is CREDIT; an epoch that the job has not declared is
EPOCH; a partition that may not read Gauge gets GAUGE. And a word that spells no instruction is ILLEGAL_OPCODE (R89, R129). -/
def Obligations.EngineClassFaults : Prop :=
  ∀ (s : State) (u : Issue) (f : FmtE), s.dev.Clean u →
    let k := s.coreOf u
    let r := s.regsOf u
    let c := s.dev.ctxOn u.core
    let tgt := f.tgt.toNat
    let a := (r.getA (regNum f.a)).toNat
    (tgt < 4 → f.die = 7 → isSA f.d = true → isKind f.a .a = true → a % 64 ≠ 0 → s.Faults u .dmaAddress (exec (.eiss u f) s)) ∧
    (∀ p, tgt < 4 → f.die = 7 → isSA f.d = true → isKind f.a .a = true → a % 64 = 0 → inMem s.dev.hw a (if tgt = 2 then 128 else 256) = true →
      s.dev.part (s.dev.ctx c).part = some p → p.allows a (if tgt = 2 then 128 else 256) 0 = true →
      bitOf (s.dev.ctx c).inv.engines (4 * coreDie u.core + tgt) = false → s.Faults u .engine (exec (.eiss u f) s)) ∧
    (isSA f.d = true → isSA f.a = true → s.dev.ticket c (r.readSA f.a).toNat = none →
      s.Faults u .engine (exec (.ewait u f) s) ∧ s.Faults u .engine (exec (.epoll u f) s)) ∧
    (tgt ≤ 2 → (FMap.get none k.borrow tgt ≠ none ∨ f.imm = 0 ∨ 64 < f.imm.toNat ∨ s.dev.poolOf u.core tgt < f.imm.toNat) →
      s.Faults u .credit (exec (.crdb u f) s)) ∧
    (tgt ≤ 2 → FMap.get none k.borrow tgt = none → s.Faults u .credit (exec (.crdr u f) s)) ∧
    (f.imm.toNat < 256 → isSA f.d = true → s.dev.declares c f.imm.toNat = false →
      s.Faults u .epoch (exec (.eprd u f) s) ∧ s.Faults u .epoch (exec (.epwait u f) s)) ∧
    (∀ p, f.imm.toNat ≤ 8 → isSA f.d = true → s.dev.partOfCtx c = some p → p.gauUser = false → s.Faults u .gauge (exec (.grd u f) s)) ∧
    (∀ w : W64, decodeSedun u w = none → s.Faults u .illegalOpcode (exec (.illegalOpcode u w) s))

/-! ### Descriptors, rings, records and the host link (R4–R11, R163–R190) -/

/-- R175–R182: an accepted descriptor is carried out, the oldest of its kind first, and answered by one completion record at the end of those
that wait: NOP, QUERY_FENCE, UNLOAD_MODEL, LOAD_MODEL, BIND_PARTITION and SET_QUADRILLE at once; INVOKE and PLAN_REQUEST take a free context,
which is QUEUED, and TEST_REQUEST joins the tests that wait: these are answered when they end. Which of the free model slots a load takes, and
how a tensor map names bindings, is open (log entries 9 and 50); slot 0 and handle 0 are the model's. -/
def Obligations.DescriptorResults : Prop :=
  ∀ (s : State) (a : Accepted) (rest : List Accepted),
    let d := s.dev.taken rest
    let bs := a.bytes
    let record (st : BitVec 8) (c : Nat) (p : Option Nat) (r16 r32 : Nat) : Completion :=
      { seq := descSeq bs, type := descType bs, status := st, flags := 0, ctx := c, res16 := r16, res32 := r32, ns := s.dev.plb.ns, notify := descNotify bs, part := p }
    (s.dev.Accepts 15 a rest → s.Answers (exec .descNop s) (fun e =>
      e = d.complete (record (if descReserved bs then stInvalidDesc else stOk) 0xFFFF none 0 0))) ∧
    (s.dev.Accepts 7 a rest → descReserved bs = false → inDram s.dev.hw (fieldAt bs 8 8) 256 = true → s.Answers (exec .queryFence s) (fun e =>
      e = (d.wr View.plain (fieldAt bs 8 8) s.dev.fenceReport).complete (record stOk 0xFFFF none 0 s.dev.fencedCount))) ∧
    (∀ m h, s.dev.Accepts 3 a rest → h = fieldAt bs 4 2 → s.dev.modelOf h = some m → descReserved bs = false →
      ((∀ e ∈ s.dev.ctxList, e.2.isPlan = true ∨ e.2.inv.model ≠ h) → s.AnswersSettled (exec .unloadModel s) (fun e =>
        e = ({ d with jfe := { d.jfe with models := FMap.set Model.none d.jfe.models (h % 256) { Model.none with gen := m.gen } },
                      sec := { d.sec with modelKeys := FMap.set none d.sec.modelKeys (h % 256) none } } : Dev).complete (record stOk 0xFFFF (some m.part) h 0))) ∧
      ((∃ e ∈ s.dev.ctxList, e.2.isPlan = false ∧ e.2.inv.model = h) → s.AnswersSettled (exec .unloadModel s) (fun e =>
        e = d.complete (record stInvalidDesc 0xFFFF (some m.part) h 0)))) ∧
    (s.dev.Accepts 2 a rest → descReserved bs = false →
      (∀ slot m key, s.dev.loadOf bs = .ok (slot, m, key) →
        (∃ k ∈ s.dev.sec.signers, ∃ sig, ecdsaVerify k m.digest sig = true) ∧
        s.AnswersSettled (exec .loadModel s) (fun e =>
          e = ({ d with freeCtr := d.freeCtr + 1, jfe := { d.jfe with models := FMap.set Model.none d.jfe.models slot m },
                        sec := { d.sec with modelKeys := FMap.set none d.sec.modelKeys slot key, installed := d.sec.installed || key.isSome } } : Dev).complete
            (record stOk 0xFFFF (some (fieldAt bs 4 1 % 16)) (256 * m.gen + slot) 0))) ∧
      (∀ n st, s.dev.loadOf bs = .error (n, st) → s.AnswersSettled (exec .loadModel s) (fun e =>
          e.jfe.models = s.dev.jfe.models ∧ ∃ k, e.jfe.cq = s.dev.jfe.cq ++ [k] ∧ k.status = st ∧ k.res16 = 0 ∧ k.res32 = n))) ∧
    (∀ p r, s.dev.Accepts 4 a rest → p = parsePart (s.dev.locRd true (fieldAt bs 8 8) 384) → r = s.dev.bindReason bs (s.dev.locRd true (fieldAt bs 8 8) 384) →
      (r = 0 → s.dev.scheduled p.index = true → s.AnswersSettled (exec .bindPartition s) (fun e =>
        e = ({ d with jfe := { d.jfe with waiting := FMap.set none d.jfe.waiting p.index (some p) } } : Dev).complete (record stOk 0xFFFF none p.index 1))) ∧
      (r = 0 → s.dev.scheduled p.index = false → s.AnswersSettled (exec .bindPartition s) (fun e => e = (d.applyPart p).complete (record stOk 0xFFFF none p.index 0))) ∧
      (r ≠ 0 → s.AnswersSettled (exec .bindPartition s) (fun e => e.jfe.parts = s.dev.jfe.parts ∧ e.jfe.waiting = s.dev.jfe.waiting ∧
        ∃ k, e.jfe.cq = s.dev.jfe.cq ++ [k] ∧ k.status = (if r = 0x0A then stSecurityDenied else stInvalidDesc) ∧ k.res32 = r))) ∧
    (∀ tab, s.dev.Accepts 5 a rest → tab = s.dev.locRd true (fieldAt bs 8 8) 64 ++
        s.dev.locRd true (fieldAt bs 8 8 + 64) (32 * fieldAt (s.dev.locRd true (fieldAt bs 8 8) 64) 1 1) →
      s.dev.quadReason bs tab (parseQuadrille tab) (fieldAt tab 8 8) = 0 → s.AnswersSettled (exec .setQuadrille s) (fun e =>
        e = (({ d with jfe := { d.jfe with quadNext := some (parseQuadrille tab, if fieldAt tab 8 8 = 0 ∧ s.dev.jfe.quad = none then s.dev.now + 1000000 else fieldAt tab 8 8) } } : Dev).complete
          (record stOk 0xFFFF none 1 0)).regate (fun _ => false))) ∧
    (∀ v p seqs, s.dev.Accepts 1 a rest → s.dev.stopped = false → s.dev.invokeOf bs = some (v, p, seqs) →
      let x : Ctx := { Ctx.free with state := .queued, part := p, inv := v, seq := descSeq bs, notify := descNotify bs, sequences := seqs,
                                     order := s.dev.jfe.order, status := (s.dev.ctx (fieldAt bs 4 2 % 4096)).status }
      s.AnswersSettled (exec .invoke s) (fun e => ∃ q : Dev, q = Dev.putCtx { d with jfe := { d.jfe with order := d.jfe.order + 1 } } (fieldAt bs 4 2 % 4096) x ∧
        (s.dev.openFor x = none → e = q) ∧ (∀ i, s.dev.openFor x = some i → e = q.release (fieldAt bs 4 2 % 4096) i))) ∧
    (∀ v p, s.dev.Accepts 6 a rest → s.dev.stopped = false → s.dev.planReqOf bs = some (v, p) →
      let x : Ctx := { Ctx.free with state := .queued, part := p, isPlan := true, inv := v, seq := descSeq bs, notify := descNotify bs,
                                     order := s.dev.jfe.order, status := (s.dev.ctx (fieldAt bs 4 2 % 4096)).status }
      s.AnswersSettled (exec .planRequest s) (fun e => ∃ q : Dev, q = Dev.putCtx { d with jfe := { d.jfe with order := d.jfe.order + 1 } } (fieldAt bs 4 2 % 4096) x ∧
        (s.dev.openFor x = none → e = q) ∧ (∀ i, s.dev.openFor x = some i → e = q.release (fieldAt bs 4 2 % 4096) i))) ∧
    (s.dev.stopped = true →
      (s.dev.Accepts 1 a rest → s.AnswersSettled (exec .invoke s) (fun e => ∃ k, e = d.complete k ∧ k.status = stSafeState ∧ k.seq = descSeq bs)) ∧
      (s.dev.Accepts 6 a rest → s.AnswersSettled (exec .planRequest s) (fun e => ∃ k, e = d.complete k ∧ k.status = stSafeState ∧ k.seq = descSeq bs))) ∧
    (∀ n kind unit, s.dev.Accepts 8 a rest → n = fieldAt bs 4 1 → kind = fieldAt bs 5 1 → unit = fieldAt bs 6 2 → descReserved bs = false →
      testNamed s.dev.hw n kind unit = true → s.dev.pav.requests.length < 64 →
      let bad := (kind = 3 ∧ (s.dev.linkShut n unit = false ∨ (s.dev.port n unit).underTest = true)) ∨ (kind = 4 ∧ s.dev.layerOut (2 * n + unit / 8) (unit % 8) = false)
      (¬ bad → s.AnswersSettled (exec .testRequest s) (fun e => ∃ (r : PavReq) (q : Dev), r.seq = descSeq bs ∧ r.die = n ∧ r.kind = kind ∧ r.unit = unit ∧
        r.left = s.dev.testPlan n kind unit ∧
        q = { d with jfe := { d.jfe with order := d.jfe.order + 1 }, pav := { d.pav with requests := d.pav.requests ++ [r] } } ∧
        e = (if kind = 3 then q.startLinkTest n unit else q).regate (fun _ => false))) ∧
      (bad → s.AnswersSettled (exec .testRequest s) (fun e => ∃ (q : Dev) (k : Completion), e = q.regate (fun _ => false) ∧ q.pav = s.dev.pav ∧ q.jfe.cq = s.dev.jfe.cq ++ [k] ∧
        k.seq = descSeq bs ∧ k.status = stOk ∧ k.res32 = 5)))

/-- R5–R7, R9, R11: a register write acts by the register's access type. One to an offset without a register, or to a read-only one, is discarded; a 1
clears its bit of a W1C register; LOCK stays 1 once it is 1; a write of a locked RWL register, or of an EXP register without expert, is refused, and
a record tells it at most once a millisecond, later refusals being counted; any other has the register's own effect: HOST_CFG and HOST_IRQ_MAP take
the value, their reserved bits apart. -/
def Obligations.RegisterWriteResults : Prop :=
  ∀ (s : State) (w : Writer) (off o : Nat) (v : W32) (b : Block), blockAt s.dev.hw off = some b → s.dev.serves b = true → off = b.base + o →
    ¬ (b = .host ∧ 0x4000 ≤ o ∧ o < 0x4400 ∧ o % 4 = 0) →
    let d : Dev := { s.dev with out := [] }
    let ans (P : Dev → Prop) : Prop := (blockSettles b = true → s.AnswersSettled (exec (.registerWrite w off v) s) P) ∧
      (blockSettles b = false → s.Answers (exec (.registerWrite w off v) s) P)
    let refused (code : Nat) : Prop := ans (fun e => e.regs = s.dev.regs ∧ e.mem = s.dev.mem ∧
      (FMap.get none s.dev.rate (rateKey 1 off) = none → s.dev.keystoneUp = true → ∃ x : Event, e.jfe.ev = s.dev.jfe.ev ++ [x] ∧ x.code.toNat = code ∧
        x.source = BitVec.ofNat 32 b.id ∧ x.sev = 1 ∧ x.arg0 = BitVec.ofNat 32 o ∧ x.arg1 = BitVec.ofNat 32 (writerCode w)) ∧
      (∀ t n, FMap.get none s.dev.rate (rateKey 1 off) = some (t, n) → s.dev.ticks < t + ticksMs 1 →
        e = { d with rate := FMap.set none s.dev.rate (rateKey 1 off) (some (t, n + 1)) }))
    (o ≠ 0xC → findReg b.regs o = none → ans (fun e => e = d)) ∧
    (o = 0xC → ans (fun e => e = (if v.getLsbD 0 then d.setReg off 1 else d) ∧ e.rbit off 0 = (s.dev.rbit off 0 || v.getLsbD 0)) ∧
      s.Answers (exec (.lockSet w off v) s) (fun e => e = if v.getLsbD 0 then d.setReg off 1 else d)) ∧
    (∀ r, o ≠ 0xC → findReg b.regs o = some r →
      (r.acc = .ro → ans (fun e => e = d)) ∧
      (r.acc = .w1c → b ≠ .plb → ans (fun e => e = d.setReg off (s.dev.reg off &&& ~~~(v &&& r.mask)) ∧ e.reg off = s.dev.reg off &&& ~~~(v &&& r.mask))) ∧
      (r.acc = .rwl → s.dev.rbit (b.base + 0xC) 0 = true → refused 0x0001) ∧
      (r.acc = .exp → s.dev.expertFor w = false → refused 0x0002) ∧
      ((r.acc = .rw ∨ r.acc = .wo ∨ (r.acc = .rwl ∧ s.dev.rbit (b.base + 0xC) 0 = false) ∨ (r.acc = .exp ∧ s.dev.expertFor w = true)) →
        ans (fun e => e = d.regEffect w b o r v)) ∧
      (b = .host → ((o = 0x10 ∧ s.dev.rbit (b.base + 0xC) 0 = false) ∨ (0x58 ≤ o ∧ o < 0x68)) →
        ans (fun e => e.reg off = v &&& r.mask ∧ (∀ k, k ≠ off → e.reg k = s.dev.reg k) ∧ e = { d with regs := e.regs })))

/-- R4: an access to BAR0 that is no naturally aligned 32-bit access is handled whole: a write is discarded, a read answers 0x00 in every byte, and
one ACCESS_SIZE record tells the access (R190). -/
def Obligations.OddAccessResults : Prop :=
  ∀ (s : State) (write : Bool) (off size : Nat), ¬ (size = 4 ∧ off % 4 = 0) → off + size ≤ 0x2000000 → size ≤ 4096 → s.dev.sec.boot.stage = 0x80 →
    s.Answers (exec (.bar0OddAccess write off size) s) (fun e => ∃ x : Event,
      x.code = 0x0407 ∧ x.source = BitVec.ofNat 32 Block.host.id ∧ x.sev = 1 ∧ x.seq = s.dev.jfe.evSeq ∧ x.ns = s.dev.plb.ns ∧ x.frac = s.dev.plb.frac ∧
      x.arg0 = BitVec.ofNat 32 (off / 4 * 4) ∧ x.arg1 = BitVec.ofNat 32 (accessArg (!write) off size) ∧
      e = { s.dev with out := (if write then [] else [.reply (List.replicate size 0)]), jfe := { s.dev.jfe with ev := s.dev.jfe.ev ++ [x], evSeq := s.dev.jfe.evSeq + 1 } })

/-- R168–R171, R180–R185, R187–R189: enabling a ring whose base, size and place are good latches START, one that is not leaves it off and tells
RING_CONFIG on vector 18; PAUSE alone is changed while the submission ring is on; a poll accepts the descriptor whose SEQ is expected; a record is
written with the next CSEQ while the ring has room, and an event with its SEQ, or it is discarded where the ring is full; a vector is signalled once
its oldest record is TIME µs old; HOST_WIN_BASE takes effect with its high half, and one outside the DRAM range is ignored. -/
def Obligations.RingAndRecordResults : Prop :=
  ∀ (s : State), s.dev.serves .host = true →
    let d : Dev := { s.dev with out := [] }
    (∀ w r v, r < 3 → s.dev.ringOn r = false → v.getLsbD 31 = true →
      let c : Dev := d.setNat (ringCfg r) ((if r = 0 ∧ v.getLsbD 30 then 2 ^ 30 else 0) + bitsOf v.toNat 8 4 * 16 + v.toNat % 2)
      (c.ringFault r = none → s.Answers (exec (.ringEnable w r v) s) (fun e => e.ringOn r = true ∧
        (r = 0 → e.jfe.sqStart = s.dev.reg HOST_SQ_START ∧ e.jfe.expected = s.dev.reg HOST_SQ_START ∧ e.reg JFE_LAST_ACCEPTED_SEQ = s.dev.reg HOST_SQ_START - 1) ∧
        (r = 1 → e.jfe.cqStart = s.dev.reg HOST_CQ_START ∧ e.jfe.lastCseq = s.dev.reg HOST_CQ_START - 1 ∧ e.reg JFE_LAST_COMPLETED_CSEQ = s.dev.reg HOST_CQ_START - 1) ∧
        (r = 2 → e.jfe.eqStart = s.dev.reg HOST_EQ_START) ∧ e = { d with regs := e.regs, jfe := e.jfe } ∧ e.jfe.accepted = s.dev.jfe.accepted ∧ e.jfe.cq = s.dev.jfe.cq ∧ e.jfe.ev = s.dev.jfe.ev)) ∧
      (∀ x, c.ringFault r = some x → s.Answers (exec (.ringEnable w r v) s) (fun e => e = (c.emit .host 0x0408 2 x.1 x.2).msix 18))) ∧
    (∀ w v, s.dev.ringOn 0 = true → v.getLsbD 31 = true → s.Answers (exec (.sqPause w v) s) (fun e =>
      e.rbit HOST_SQ_CFG 30 = v.getLsbD 30 ∧ e.ringOn 0 = true ∧ e.rf HOST_SQ_CFG 8 0 = s.dev.rf HOST_SQ_CFG 8 0 ∧ (∀ k, k ≠ HOST_SQ_CFG → e.reg k = s.dev.reg k) ∧
      e = { d with regs := e.regs })) ∧
    (∀ w v, s.Answers (exec (.hostWinBaseWrite w false v) s) (fun e => e.link = s.dev.link ∧ e.reg HOST_WIN_BASE_LO = v &&& 0xC0000000 ∧ e = { d with regs := e.regs })) ∧
    (∀ w v, s.Answers (exec (.hostWinBaseWrite w true v) s) (fun e =>
      (0x1F < v.toNat % 65536 → e = d) ∧
      (v.toNat % 65536 ≤ 0x1F → e.reg HOST_WIN_BASE_HI = v &&& 0xFFFF ∧ e.link.winBase = (s.dev.reg HOST_WIN_BASE_LO).toNat + 2 ^ 32 * (v.toNat % 65536) ∧
        e = { d with regs := e.regs, link := { s.dev.link with winBase := e.link.winBase } }))) ∧
    (∀ host a, s.dev.ringOn 0 = true → s.dev.rbit HOST_SQ_CFG 30 = false → s.dev.ringLink 0 = true → s.dev.blocked = false → s.dev.holdFull = false → 0 < s.dev.rf JFE_ACCEPT_BATCH 5 0 →
      a = (d.hostTake host).locRd (s.dev.ringLoc 0) (s.dev.ringSlot 0 s.dev.jfe.expected.toNat) 64 → descSeq a = s.dev.jfe.expected → descFormat a = 1 → descKnown (descType a) = true →
      s.Answers (exec (.submissionPoll host) s) (fun e => (∃ l, e.jfe.accepted = s.dev.jfe.accepted ++ { seq := s.dev.jfe.expected, bytes := a } :: l) ∧
        (s.dev.rf JFE_ACCEPT_BATCH 5 0 = 1 → e.jfe.expected = s.dev.jfe.expected + 1 ∧ e.reg JFE_LAST_ACCEPTED_SEQ = s.dev.jfe.expected))) ∧
    (∀ host k rest, s.dev.jfe.cq = k :: rest → s.dev.jfe.held = 0 → s.dev.ringOn 1 = true → s.dev.ringLink 1 = true → s.dev.rcbLoc = false → s.dev.ringLoc 1 = false →
      let c := s.dev.jfe.lastCseq + 1
      let m := d.hostTake host
      sub32 c.toNat (m.rcbRead 8) ≤ s.dev.ringN 1 →
      s.AnswersSettled (exec (.completionRecordWrite host) s) (fun e => e.jfe.cq = rest ∧ e.jfe.held = 0 ∧ e.jfe.lastCseq = c ∧ e.reg JFE_LAST_COMPLETED_CSEQ = c ∧
        (k.ctx < 4096 → (s.dev.ctx k.ctx).state = .ending → (s.dev.ctx k.ctx).seq = k.seq → (e.ctx k.ctx).state = .free ∧ (e.ctx k.ctx).cseq = c) ∧
        e.hostMem = ((m.hostPut (s.dev.ringSlot 1 c.toNat) (k.bytes c)).hostPut (s.dev.rcbBase + 4) (leBytes 4 c.toNat)).hostMem)) ∧
    (∀ host x rest, s.dev.jfe.ev = x :: rest → s.dev.jfe.lost = 0 → s.dev.ringOn 2 = true → s.dev.ringLink 2 = true → s.dev.rcbLoc = false → s.dev.ringLoc 2 = false →
      let m := d.hostTake host
      (sub32 x.seq.toNat (m.rcbRead 0x10) ≤ s.dev.ringN 2 → s.Answers (exec (.eventRecordWrite host) s) (fun e => e.jfe.ev = rest ∧ e.jfe.lost = 0 ∧
        e.hostMem = ((m.hostPut (s.dev.ringSlot 2 x.seq.toNat) x.bytes).hostPut (s.dev.rcbBase + 0xC) (leBytes 4 x.seq.toNat)).hostMem)) ∧
      (s.dev.ringN 2 < sub32 x.seq.toNat (m.rcbRead 0x10) → s.Answers (exec (.eventRecordWrite host) s) (fun e =>
        e = { m with jfe := { s.dev.jfe with ev := rest, lost := 1, lostFirst := x.seq } }))) ∧
    (∀ v t, v < 17 → FMap.get none s.dev.jfe.coalTick v = some t → t + ticksUs (s.dev.rf (HOST_COAL v) 25 16) ≤ s.dev.ticks → s.dev.msixMasked v = false →
      s.dev.link.up = true → s.dev.link.d3 = false → s.dev.link.bme = true → s.Answers (exec (.coalesceTimeout v) s) (fun e =>
        e = { s.dev with out := [.msix v], jfe := { s.dev.jfe with coalCount := FMap.set 0 s.dev.jfe.coalCount v 0, coalTick := FMap.set none s.dev.jfe.coalTick v none } }))

/-- R37, R163–R167, R503: BAR2 reads and writes device memory through the window or, in its upper 1 GiB, Mortar; a host reset clears the ring and
MSI-X registers, Bus Master Enable and the window, and HOST_RESET tells it; while the link is down, in D3hot or without Bus Master Enable it carries
nothing, and LINK_DOWN tells at its return how long; PERST# resets every die but the Quoins, which assert safe state first, and its end starts the
part up; before READY configuration requests are answered with retry status. -/
def Obligations.HostLinkResults : Prop :=
  ∀ s : State,
    let d : Dev := { s.dev with out := [] }
    (∀ wo n bs es, s.dev.sec.boot.stage = 0x80 → wo < 0x400000000 → oneRequest wo n = true →
      let a := if wo < 0x3C0000000 then s.dev.link.winBase + wo else mortarBase ((wo - 0x3C0000000) / 0x10000000) + (wo - 0x3C0000000) % 0x10000000
      (inMem s.dev.hw a n = true → s.AnswersSettled (exec (.hostBar2Access false wo n bs []) s) (fun e =>
        ((∀ l ∈ linesOf a n, s.dev.memFenced (64 * l) = false ∧ s.dev.poisonedIn View.plain (64 * l) 1 = none) → e = { d with out := [.reply (s.dev.rd View.plain a n)] }) ∧
        ((∃ l ∈ linesOf a n, s.dev.memFenced (64 * l) = true ∨ s.dev.poisonedIn View.plain (64 * l) 1 ≠ none) → e.out = [.replyPoisoned n] ∧ e.mem = s.dev.mem))) ∧
      (inMem s.dev.hw a n = false → s.AnswersSettled (exec (.hostBar2Access false wo n bs es) s) (fun e =>
        e = { d.emit .host 0x0406 1 (a % 2 ^ 32) (a / 2 ^ 32) with out := [.reply (List.replicate n 0)] })) ∧
      (bs.length = n → inMem s.dev.hw a n = true → s.AnswersSettled (exec (.hostBar2Access true wo n bs es) s) (fun e =>
        ((∀ r ∈ s.dev.hostBarred, overlaps a n r.1 r.2 = false) → s.dev.fencedIn a n = false → e = d.wr View.plain a bs) ∧
        ((∃ r ∈ s.dev.hostBarred, overlaps a n r.1 r.2 = true) → e = d.emit .host 0x0409 2 (a % 2 ^ 32) (a / 2 ^ 32)))) ∧
      (bs.length = n → inMem s.dev.hw a n = false → s.AnswersSettled (exec (.hostBar2Access true wo n bs es) s) (fun e =>
        e = d.emit .host 0x0406 1 (a % 2 ^ 32) (a / 2 ^ 32)))) ∧
    (0 < s.dev.sec.boot.stage → s.dev.sec.boot.stage < 0x80 → ∀ b, s.Answers (exec (.configRequest b) s) (fun e => e = { s.dev with out := [.retryStatus] })) ∧
    (0x80 ≤ s.dev.sec.boot.stage → ∀ b, s.Answers (exec (.configRequest (some b)) s) (fun e => e.link = { s.dev.link with bme := b } ∧
      (b = false → e = { d with link := { s.dev.link with bme := false } }))) ∧
    (s.Answers (exec .bmeClear s) (fun e => e = { d with link := { s.dev.link with bme := false } })) ∧
    (s.dev.link.up = true → s.dev.link.downTick = none → s.Answers (exec .linkDown s) (fun e =>
      e = { d with link := { s.dev.link with up := false, downTick := some s.dev.ticks } })) ∧
    (s.dev.link.up = true → s.dev.link.d3 = false → s.Answers (exec .d3hotEntry s) (fun e =>
      e = { d with link := { s.dev.link with d3 := true, downTick := some s.dev.ticks } })) ∧
    (∀ rate width t, 0x80 ≤ s.dev.sec.boot.stage → (s.dev.link.up = false ∨ s.dev.link.d3 = true) → linkLegal rate width = true → s.dev.link.downTick = some t →
      s.Answers (exec (.linkUp rate width) s) (fun e => e.link = { s.dev.link with up := true, d3 := false, downTick := none, rate := rate, width := width } ∧
        ∃ x : Event, e.jfe = { s.dev.jfe with ev := s.dev.jfe.ev ++ [x], evSeq := s.dev.jfe.evSeq + 1 } ∧ x.code = 0x0404 ∧
          x.arg0 = BitVec.ofNat 32 (min 0xFFFFFFFF ((s.dev.ticks - t) / 400)) ∧ x.arg1 = BitVec.ofNat 32 s.dev.jfe.held)) ∧
    (∀ flr, s.dev.keystoneUp = true → s.AnswersSettled (exec (.hostReset flr) s) (fun e =>
      (∀ k, (0x20000 ≤ k ∧ k < 0x30000) ∨ (0x10010 ≤ k ∧ k < 0x10030) ∨ k = JFE_ACCEPT_BATCH → e.reg k = resetVal s.dev.hw k) ∧
      (∀ k, ¬ ((0x20000 ≤ k ∧ k < 0x30000) ∨ (0x10010 ≤ k ∧ k < 0x10030) ∨ k = JFE_ACCEPT_BATCH) → e.reg k = s.dev.reg k) ∧
      e.link = { s.dev.link with bme := false, winBase := 0 } ∧ e.jfe.cq = s.dev.jfe.cq ∧ e.jfe.held = s.dev.jfe.held ∧ e.jfe.ctxs = s.dev.jfe.ctxs ∧
      e.jfe.parts = s.dev.jfe.parts ∧ e.jfe.models = s.dev.jfe.models ∧ e.jfe.quad = s.dev.jfe.quad ∧ e.qn = s.dev.qn ∧ e.mem = s.dev.mem ∧
      ∃ x : Event, e.jfe.ev = s.dev.jfe.ev ++ [x] ∧ x.code = 0x0405 ∧ x.arg0 = (if flr then 2 else 1) ∧ x.arg1 = BitVec.ofNat 32 s.dev.jfe.held)) ∧
    (s.dev.sec.boot.perst = true → s.AnswersSettled (exec .perstAssert s) (fun e => ∃ p : Dev, p = d.decideBoth 0x02 ∧
      e = Dev.keystoneReset { p with sec := { p.sec with boot := { p.sec.boot with perst := false } }, qn := { p.qn with exitBarred := false } } ∧
      e.sec.boot.perst = false ∧ e.sec.boot.stage = 0 ∧ (∀ k, e.reg k = resetVal s.dev.hw k) ∧ (∀ g, e.core g = Dev.reset.core g) ∧ e.jfe = Dev.reset.jfe ∧
      e.sec.fuses = s.dev.sec.fuses ∧ e.sec.flash = s.dev.sec.flash ∧ e.qn.a = p.qn.a ∧ e.qn.b = p.qn.b)) ∧
    (s.dev.sec.boot.perst = false → ∀ b, s.AnswersSettled (exec (.perstDeassert b) s) (fun e => ∃ p : Dev,
      p = { d.boundaryEnds with sec := { s.dev.sec with boot := { s.dev.sec.boot with perst := true } } } ∧
      ((s.dev.sec.boot.stage ≠ 0 ∨ s.dev.sec.boot.rails = false ∨ s.dev.qn.a.releases = false ∨ s.dev.qn.b.releases = false) → e = p) ∧
      (s.dev.sec.boot.stage = 0 → s.dev.sec.boot.rails = true → s.dev.qn.a.releases = true → s.dev.qn.b.releases = true →
        e = Dev.bootUp { p with ticks := max s.dev.ticks (s.dev.sec.boot.railsTick + ticksMs 1), sec := { p.sec with boot := { p.sec.boot with since := max s.dev.ticks (s.dev.sec.boot.railsTick + ticksMs 1) } } } b)))

/-! ### The Quadrille, jobs and speculation (R54, R140–R158, R192–R212, R433–R437) -/

/-- R54, R76, R140–R147, R153, R193, R209, R433–R437: a figure opens and closes at its times, once a frame, a released QUEUED job becoming
READY and one left at the close DROPPED_LATE; at the boundary the next frame begins, and a pending Quadrille whose ORIGIN has come takes effect; a
job that can start is RUNNING with every core at ENTRY; a zeroed core is all zero; couples join with the follow in the lead's state, or split with
the follow's state gone; speculation is switched on only with tables in their places. -/
def Obligations.FigureAndStartResults : Prop :=
  ∀ s : State,
    let d : Dev := { s.dev with out := [] }
    (∀ i f, s.dev.figure i = some f → i ∉ s.dev.jfe.opened → i ∉ s.dev.jfe.done → f.length ≠ 0 → s.dev.jfe.origin + f.start ≤ s.dev.clock →
      let o : Dev := { d with jfe := { s.dev.jfe with opened := s.dev.jfe.opened ++ [i], done := s.dev.jfe.done ++ [i] } }
      ((f.type ≠ 0 ∨ s.dev.ctxList = []) → s.AnswersSettled (exec (.figureOpen i) s) (fun e => e = o)) ∧
      (∀ c x, f.type = 0 → s.dev.ctxList = [(c, x)] → s.dev.ctx c = x → x.state = .queued →
        ((x.inv.figure = i ∨ (x.inv.figure = 0xFF ∧ f.covers x = true)) → s.AnswersSettled (exec (.figureOpen i) s) (fun e => e = o.release c i)) ∧
        (¬ (x.inv.figure = i ∨ (x.inv.figure = 0xFF ∧ f.covers x = true)) → s.AnswersSettled (exec (.figureOpen i) s) (fun e => e = o)))) ∧
    (∀ i f, s.dev.figure i = some f → i ∈ s.dev.jfe.opened → s.dev.jfe.origin + f.start + f.length ≤ s.dev.clock →
      ((f.type ≠ 0 ∨ (s.dev.ctxList = [] ∧ ∀ e ∈ s.dev.jfe.epochs, e.2.state ≠ .opened ∨ e.2.figure ≠ i)) → s.AnswersSettled (exec (.figureClose i) s) (fun e =>
        e = { d with jfe := { s.dev.jfe with opened := s.dev.jfe.opened.erase i } })) ∧
      (∀ c x, f.type = 0 → (∀ e ∈ s.dev.jfe.epochs, e.2.state ≠ .opened ∨ e.2.figure ≠ i) → s.dev.ctxList = [(c, x)] → s.dev.ctx c = x → x.figure = some i →
        x.state.executes = true → s.AnswersSettled (exec (.figureClose i) s) (fun e =>
          e.jfe.opened = s.dev.jfe.opened.erase i ∧ (e.ctx c).state = .draining ∧ (e.ctx c).ending = stDroppedLate))) ∧
    (s.dev.boundaryDue = true → s.AnswersSettled (exec .majorFrameBoundary s) (fun e =>
      e.jfe.origin = s.dev.nextOrigin ∧ e.jfe.done = [] ∧ e.jfe.frames = s.dev.jfe.frames + 1 ∧ e.jfe.waiting = [] ∧
      (s.dev.switchTo = none → e.jfe.quad = s.dev.jfe.quad ∧ e.jfe.frameCount = s.dev.jfe.frameCount + 1 ∧ e.jfe.warmup = s.dev.jfe.warmup - 1) ∧
      (∀ q, s.dev.switchTo = some q → e.jfe.quad = some q ∧ e.jfe.quadNext = none ∧ e.jfe.frameCount = 0 ∧ e.jfe.warmup = 8))) ∧
    (∀ c, s.dev.canStart c = true → (s.dev.ctx c).isPlan = false → s.AnswersSettled (exec (.jobStart c) s) (fun e =>
      (e.ctx c).state = .running ∧ (e.ctx c).startNs = some s.dev.clock ∧ (∀ b, b ≠ c → e.ctx b = s.dev.ctx b) ∧
      (∀ g ∈ coresOf (s.dev.ctx c).inv.clusters, s.dev.isFollow g = false → (e.core g).st = .running ∧ (e.core g).ctx = some c ∧
        (e.core g).pc = BitVec.ofNat 48 (s.dev.model (s.dev.ctx c).inv.model).entry ∧ (e.core g).regs.flags = 0 ∧
        (e.core g).regs.lfsr = seedOf (s.dev.ctx c).inv.seed g ∧ (e.core g).wait = .none ∧ (e.core g).dma = [] ∧
        ((s.dev.core g).fresh = true → (e.core g).ls = (s.dev.core g).ls ∧ ∀ n, (e.core g).regs.getS n = (s.dev.core g).regs.getS n)))) ∧
    (∀ c, s.dev.canStart c = true → (s.dev.ctx c).isPlan = true → s.AnswersSettled (exec (.jobStart c) s) (fun e =>
      (e.ctx c).state = .running ∧ ∃ k : EngCmd, FMap.get [] e.crn.queues (s.dev.ctx c).part = FMap.get [] s.dev.crn.queues (s.dev.ctx c).part ++ [k] ∧
        k.ctx = c ∧ k.addr = (s.dev.ctx c).inv.command ∧ k.ticket = none)) ∧
    (∀ g, s.dev.hw.hasCore g = true → (s.dev.core g).st = .zeroing → s.AnswersSettled (exec (.zeroingComplete g) s) (fun e =>
      e.core g = { s.dev.core g with st := .idle, regs := Regs.zero, ls := [], lsGen := 0, dma := [], fresh := true, ckpt := none } ∧
      (∀ h, h ≠ g → e.core h = s.dev.core h) ∧ FMap.get Points.none e.dbg.points g = Points.none ∧ (∀ j, j < 16 → FMap.get 0 e.gau.core (16 * g + j) = 0) ∧
      e = { d with cores := e.cores, dbg := { s.dev.dbg with points := e.dbg.points }, gau := { s.dev.gau with core := e.gau.core, wrapped := e.gau.wrapped } })) ∧
    (∀ k, s.dev.hw.hasCluster k = true → s.dev.handoverDue k true = true → s.AnswersSettled (exec (.joinHandoverComplete k []) s) (fun e =>
      (∀ j, j < 64 → let i := 64 * k + j
        FMap.get false e.joined i = true ∧ (e.couple i).armed = true ∧ e.core (2 * i) = s.dev.core (2 * i) ∧
        e.core (2 * i + 1) = { s.dev.core (2 * i) with ceTicks := (s.dev.core (2 * i + 1)).ceTicks }) ∧
      (∀ i, (∀ j, j < 64 → i ≠ 64 * k + j) → FMap.get false e.joined i = FMap.get false s.dev.joined i ∧ e.couple i = s.dev.couple i ∧
        e.core (2 * i + 1) = s.dev.core (2 * i + 1)) ∧ e = { d with cores := e.cores, joined := e.joined, pav := { s.dev.pav with couples := e.pav.couples } })) ∧
    (∀ k, s.dev.hw.hasCluster k = true → s.dev.handoverDue k false = true → s.AnswersSettled (exec (.splitHandoverComplete k) s) (fun e =>
      (∀ j, j < 64 → let i := 64 * k + j
        FMap.get false e.joined i = false ∧ e.core (2 * i) = s.dev.core (2 * i) ∧ (FMap.get false s.dev.joined i = true →
          (e.couple i).armed = false ∧ FMap.get none e.pav.inject i = none ∧ (e.core (2 * i + 1)).st = .idle ∧ (e.core (2 * i + 1)).regs = Regs.zero ∧
          (e.core (2 * i + 1)).lastPart = none)) ∧
      e = { d with cores := e.cores, joined := e.joined, pav := { s.dev.pav with couples := e.pav.couples, inject := e.pav.inject } })) ∧
    (∀ w v, s.dev.serves .jfe = true → s.dev.rbit 0x1000C 0 = false → s.AnswersSettled (exec (.specEnable w v) s) (fun e =>
      (v.getLsbD 0 = true → s.dev.rbit JFE_SPEC_CFG 0 = false → s.dev.specBad = true → e = d) ∧
      ((v.getLsbD 0 = false ∨ s.dev.rbit JFE_SPEC_CFG 0 = true ∨ s.dev.specBad = false) → e.reg JFE_SPEC_CFG = v &&& 1 ∧ e = { d with regs := e.regs })))

/-- R120, R147–R158, R204, R206, R437: a deadline that has come and a pre-emption limit that has run out tear the job down; one whose cores have all
ended and whose writes are complete ends with OK; a teardown ends once nothing of it is left, its semaphores poisoned; what a torn-down job still has
over Arch links is aborted after REMOTE_DRAIN; a yielding core that waits so long for another die rolls back to its checkpoint, or the job is
discarded where it has none; a suspended job takes its clusters back and then runs on; a die is fenced by both Quoins; an epoch's squashed lines are
written back, and its confirmed mirror lines reach their copies. -/
def Obligations.JobEndResults : Prop :=
  ∀ s : State,
    let d : Dev := { s.dev with out := [] }
    let down (c : Nat) (st : BitVec 8) (e : Dev) : Prop := (e.ctx c).state = .draining ∧ (e.ctx c).ending = st ∧ (∀ b, b ≠ c → e.ctx b = s.dev.ctx b)
    let ended (c : Nat) (st : BitVec 8) (e : Dev) : Prop := (e.ctx c).state = .ending ∧ (e.ctx c).status = st ∧
      ∃ k : Completion, e.jfe.cq = s.dev.jfe.cq ++ [k] ∧ k.status = st ∧ k.ctx = c ∧ k.seq = (s.dev.ctx c).seq ∧ k.ns = s.dev.plb.ns
    (∀ c, (s.dev.ctx c).deadlineAt ≤ s.dev.clock →
      ((s.dev.ctx c).state.holds = true → (s.dev.ctx c).state ≠ .draining → s.AnswersSettled (exec (.jobDeadline c) s) (down c stDroppedLate)) ∧
      ((s.dev.ctx c).state = .ready ∨ (s.dev.ctx c).state = .suspended → s.AnswersSettled (exec (.jobDeadline c) s) (ended c stDroppedLate))) ∧
    (∀ c, (s.dev.ctx c).state.executes = true → (s.dev.ctx c).coresLeft = 0 → (s.dev.ctx c).isPlan = false → s.dev.engineBusy c = false →
      (∀ h ∈ s.dev.jfe.heldWrites, h.ctx ≠ c ∨ h.epoch ≠ 0) → s.AnswersSettled (exec (.jobComplete c) s) (ended c stOk)) ∧
    (∀ c t, (s.dev.ctx c).state = .draining → (s.dev.ctx c).trigTick = some t → t + ticksUs (s.dev.rn JFE_REMOTE_DRAIN % 32) ≤ s.dev.ticks →
      (∃ g ∈ s.dev.coresOn c, ∃ x ∈ (s.dev.core g).dma, s.dev.remoteTo g x.remote = true) → s.AnswersSettled (exec (.remoteDrainExpiry c) s) (fun e =>
        (∀ g ∈ s.dev.coresOn c, ∀ x ∈ (e.core g).dma, s.dev.remoteTo g x.remote = false) ∧ (∀ g, (e.core g).regs = (s.dev.core g).regs) ∧
        (s.dev.keystoneUp = true → ∃ x : Event, e.jfe.ev = s.dev.jfe.ev ++ [x] ∧ x.code = 0x0304 ∧ x.arg0 = BitVec.ofNat 32 c))) ∧
    (∀ c, (s.dev.ctx c).state = .draining → (s.dev.ctx c).ending ≠ stSpecSquashed → (∀ g ∈ s.dev.coresOn c, (s.dev.core g).dma = []) →
      s.AnswersSettled (exec (.teardownComplete c) s) (fun e => ended c (s.dev.ctx c).ending e ∧ (∀ g ∈ s.dev.coresOn c, (e.core g).ctx = none ∧ (e.core g).tickets = []) ∧
        ∀ n ∈ s.dev.semsHeld c, (s.dev.sem n).waiters = [] → (e.sem n).poisoned = true ∧ (e.sem n).holder = none)) ∧
    (∀ g c t, s.dev.hw.hasCore g = true → (s.dev.core g).ctx = some c → (s.dev.core g).remoteSince = some t → (s.dev.ctx c).state = .yielding →
      (s.dev.core g).st = .running → s.dev.isFollow g = false → t + ticksUs (s.dev.rn JFE_REMOTE_DRAIN % 32) ≤ s.dev.ticks →
      ((s.dev.core g).ckpt = none → s.AnswersSettled (exec (.remoteWaitTimeout g) s) (fun e => down c stPreemptedDiscarded e)) ∧
      (∀ ck, (s.dev.core g).ckpt = some ck → (s.dev.core g).borrow = [] → s.dev.semsHeld c = [] → s.AnswersSettled (exec (.remoteWaitTimeout g) s) (fun e =>
        (e.ctx c).rolledBack = true ∧ FMap.get none e.jfe.saves (saveKey c g) = some { ck := ck, bytes := ck.ranges.map (fun r => (r.1, (s.dev.core g).lsRead r.1 r.2)) } ∧
        (e.core g).regs = (s.dev.core g).regs ∧ (e.core g).wait = .none))) ∧
    (∀ c, (s.dev.ctx c).state = .yielding → (s.dev.ctx c).preemptTick + ticksUs (s.dev.rn JFE_PREEMPT_LIMIT % 1024) ≤ s.dev.ticks →
      s.AnswersSettled (exec (.preemptLimitExpiry c) s) (fun e => down c stPreemptedDiscarded e ∧ e.rn JFE_DISCARD_COUNT = min (s.dev.rn JFE_DISCARD_COUNT + 1) 0xFFFFFFFF)) ∧
    (∀ c p, s.dev.canResume c = true → s.dev.partOfCtx c = some p → s.dev.rangeLost p.saveBase p.saveSize = false → s.AnswersSettled (exec (.jobResume c) s) (fun e =>
      e = (d.putCtx c { s.dev.ctx c with state := .resuming }).emit .jfe 0x0302 0 c (min 0xFFFFFFFF ((s.dev.clock - (s.dev.ctx c).suspendNs) / 1000)))) ∧
    (∀ c, (s.dev.ctx c).state = .resuming → s.dev.coresReady c = true → s.dev.modeRight c = true → s.AnswersSettled (exec (.resumeComplete c) s) (fun e =>
      (e.ctx c).state = .running ∧ e.savesOf c = [] ∧
      (∀ g k, s.dev.savesOf c = [(g, k)] → s.dev.isFollow g = false → (e.core g).st = .running ∧ (e.core g).pc = k.ck.pc ∧ (e.core g).ctx = some c ∧ (e.core g).ckpt = some k.ck ∧
        (e.core g).regs.flags = k.ck.regs.flags ∧ (e.core g).regs.lfsr = k.ck.regs.lfsr))) ∧
    (∀ n, s.dev.hw.hasDie n = true → s.dev.qn.a.live = true → s.dev.qn.b.live = true → s.AnswersSettled (exec (.dieFence n) s) (fun e =>
      FMap.get false e.qn.a.fences (unitNo n 5 0) = true ∧ FMap.get false e.qn.b.fences (unitNo n 5 0) = true ∧
      (FMap.get false s.dev.qn.a.fences (unitNo n 5 0) = false → e.fenced (unitNo n 5 0) = true) ∧ e.mem = s.dev.mem ∧ e.cores = s.dev.cores)) ∧
    (∀ n ep, s.dev.hw.hasDie n = true → FMap.wf LineTag.none s.dev.tags = true → s.Answers (exec (.shadowWritebackDone n ep) s) (fun e =>
      (∀ l, FMap.get LineTag.none s.dev.tags l = .squashed ep → lineDie l = n → FMap.get LineTag.none e.tags l = .none ∧
        ((FMap.get [] s.dev.shadow l).length = 64 → e.cells (64 * l) 64 = FMap.get [] s.dev.shadow l)) ∧
      (∀ l, ¬ (FMap.get LineTag.none s.dev.tags l = .squashed ep ∧ lineDie l = n) → FMap.get LineTag.none e.tags l = FMap.get LineTag.none s.dev.tags l ∧
        ((∀ m, (FMap.get [] s.dev.shadow m).length ≤ 64) → e.cells (64 * l) 64 = s.dev.cells (64 * l) 64)))) ∧
    (∀ ep l, s.dev.mirrorDue = [(l, ep)] → s.Answers (exec (.mirrorCommitDone ep) s) (fun e => e.mirrorDue = [] ∧
      (∀ c, s.dev.writtenTo (64 * l) = [64 * l, c] → 64 * l + 64 ≤ c → e.cells c 64 = s.dev.cells (64 * l) 64 ∧
        (∀ a, a < c ∨ c + 64 ≤ a → e.cell a = s.dev.cell a) ∧ FMap.get false e.poison (c / 64) = FMap.get false s.dev.poison l)))

/-- R50, R108, R122, R258: the oldest descriptor of a core's queue, of a job that goes on, moves its data, counts, and leaves the queue when it is
complete; a multicast read starts when every core of its mask has issued it; an append that is complete makes the sequence longer; a transfer that
meets a fenced unit ends the job. -/
def Obligations.DmaCompletionResults : Prop :=
  ∀ (s : State) (g : Nat) (x : DmaEntry) (rest : List DmaEntry), s.dev.hw.hasCore g = true → s.dev.isFollow g = false →
    FMap.get false s.dev.pwr.scanned (coreDie g) = false → (s.dev.core g).dma = x :: rest → (s.dev.ctx (s.dev.ctxOn g)).state.executes = true →
    let d : Dev := { s.dev with out := [] }
    ((x.kind < 2 ∨ (x.kind = 2 ∧ x.started = true)) → s.dev.dmaStop g x = none → s.AnswersSettled (exec (.dmaComplete g .none []) s) (fun e =>
      e = ((d.dmaMove g x).dmaPop g).dmaCount g x)) ∧
    (∀ st q, (x.kind < 2 ∨ (x.kind = 2 ∧ x.started = true)) → s.dev.dmaStop g x = some (st, q) → s.AnswersSettled (exec (.dmaComplete g .none []) s) (fun e =>
      (e.ctx (s.dev.ctxOn g)).state = .draining ∧ (e.ctx (s.dev.ctxOn g)).ending = st)) ∧
    (x.kind = 3 → s.dev.dmaStop g x = none → s.AnswersSettled (exec (.kvAppendComplete g .none) s) (fun e =>
      e = (((d.dmaMove g x).dmaPop g).dmaCount g x).appendDone g x)) ∧
    (x.kind = 2 → x.started = false → (∀ m ∈ s.dev.castCores g x, ∃ y ∈ (s.dev.core m).dma, y.sameRead x = true) → s.Answers (exec (.multicastReadStart g) s) (fun e =>
      e = (s.dev.castCores g x).eraseDups.foldl (fun e m => e.castStart m x) (d.blkCount (coreBlock g) 3 1)))

/-! ### Engines and Cairn (R113, R213–R309) -/

/-- R113, R214–R217, R226–R244, R249–R266: an engine that is free takes the command at the head of the queue whose turn it is. A command that fails a
check writes nothing, tells status and field in LAST_REJECT and a record, and completes its ticket; one that passes stores what its operation
computes from what its context reads, and its ticket completes with its end. VERIFY and TRUNCATE cut the streams besides. What an operation leaves
undefined is open (log entry 9), and so is how far a running command has come at a teardown. -/
def Obligations.EngineOperationResults : Prop :=
  ∀ (s : State) (g : EngIssue) (k : EngCmd) (p : Nat × Nat × (EngIssue → Instr)),
    p ∈ ([(0, 1, .conv), (0, 2, .convTransposed), (0, 3, .pool), (0, 4, .resample), (1, 1, .ingest), (1, 2, .plinthConv), (1, 3, .ingestConv), (2, 1, .detect),
      (2, 2, .suppress), (3, 1, .attend), (3, 2, .verify), (3, 3, .truncate), (3, 4, .attendBwd)] : List (Nat × Nat × (EngIssue → Instr))) →
    let e := p.1
    let op := p.2.1
    let n := g.die
    let bs := s.dev.engBytes e k
    let base := (Block.eng n e).base
    let q : Dev := Dev.engPop { s.dev with out := [] } n e g.part
    s.dev.hw.hasDie n = true → s.dev.engFree n e = true → s.dev.engTurn n e g.part = true → s.dev.engHead n e g.part = some k → engOpOf e bs = op →
    s.dev.accessStatus (s.dev.viewOf k.ctx) k.addr (cmdBytes e) true = none → s.dev.homeFenced e k bs = false →
    (s.dev.engChecks n e k bs (s.dev.rangeOk k.part) = none → g.mem = [] → g.bufUe = none → q.engMemory n e k bs = none →
      s.AnswersSettled (exec (p.2.2 g) s) (fun x => ∃ (o : EngOut) (m : Dev), o = s.dev.engOut e k bs ∧
        (e = 0 → op ≤ 2 → o = runConv bs (s.dev.rdFor k.ctx)) ∧ (e = 0 → op = 3 → o = runPool bs (s.dev.rdFor k.ctx)) ∧ (e = 0 → op = 4 → o = runResample bs (s.dev.rdFor k.ctx)) ∧
        (e = 1 → op = 1 → o = runIngest bs (s.dev.rdFor k.ctx)) ∧ (e = 1 → op = 2 → o = runPlinthConv bs (s.dev.rdFor k.ctx)) ∧
        (e = 1 → op = 3 → o = runIngestConv bs (s.dev.rdFor k.ctx)) ∧ (e = 2 → o = runSieve bs (s.dev.rdFor k.ctx)) ∧
        (e = 3 → op = 4 → o = runAttendBwd bs (s.dev.rdFor k.ctx)) ∧ (e = 3 → op = 1 → tPaged bs = false → o = runAttendDense bs (s.dev.rdFor k.ctx)) ∧
        m = (Dev.jobWrites ((q.engBufErrors n e g k).engCut e k bs) k.ctx o.stores).scramble (s.dev.viewOf k.ctx) o.undef ∧
        x.mem = m.mem ∧ x.tags = m.tags ∧ x.shadow = m.shadow ∧ x.seqs = m.seqs ∧
        (x.eng n e).run = some { cmd := k, status := o.status, outs := o.stores.map (fun s => (s.1, s.2.length)) ++ o.undef } ∧
        FMap.get [] (x.eng n e).queues g.part = (FMap.get [] (s.dev.eng n e).queues g.part).drop 1 ∧ x.rn (base + 0x2C) = min (m.rn (base + 0x2C) + o.sat) 0xFFFFFFFF)) ∧
    (∀ st f, s.dev.engChecks n e k bs (s.dev.rangeOk k.part) = some (st, f) → s.AnswersSettled (exec (p.2.2 g) s) (fun x =>
      x.mem = s.dev.mem ∧ x.cores = s.dev.cores ∧ (x.eng n e).run = none ∧ x.reg (base + 0x34) = BitVec.ofNat 32 (st * 2 ^ 24 + k.ctx * 4096 + f) ∧
      (∀ t tk, k.ticket = some t → s.dev.ticket k.ctx t = some tk → x.ticket k.ctx t = some { tk with st := .done (BitVec.ofNat 8 st) }) ∧
      (s.dev.keystoneUp = true → ∃ ev : Event, x.jfe.ev = s.dev.jfe.ev ++ [ev] ∧ ev.code = 0x0501 ∧ ev.arg0 = BitVec.ofNat 32 k.ctx)))

/-- R113, R216, R252–R255, R267, R282, R296: a running command that ends completes its ticket with its status; a committed world command ends with OK;
a PLAN that runs ends with the outcome of its candidates and search. LOAD of a key-value sequence that passes its checks makes it active, RELEASE of
one that no context declares makes it free, and TRC_SEQ_CMD_STATUS tells the outcome. -/
def Obligations.EngineEndResults : Prop :=
  ∀ (s : State),
    let d : Dev := { s.dev with out := [] }
    let done (x : Dev) (k : EngCmd) (st : Nat) : Prop := ∀ t tk, k.ticket = some t → s.dev.ticket k.ctx t = some tk → x.ticket k.ctx t = some { tk with st := .done (BitVec.ofNat 8 st) }
    (∀ n e r, s.dev.hw.hasDie n = true → e < 4 → (s.dev.eng n e).run = some r → s.AnswersSettled (exec (.engineCommandComplete n e) s) (fun x =>
      (x.eng n e).run = none ∧ (x.eng n e).queues = (s.dev.eng n e).queues ∧ done x r.cmd r.status ∧ x.mem = s.dev.mem ∧ x.cores = s.dev.cores)) ∧
    (∀ n r, s.dev.crn.worldRun = some r → r.committed = true → r.cmd.ticket ≠ none → s.AnswersSettled (exec (.engineCommandComplete n 5) s) (fun x =>
      x.crn.worldRun = none ∧ x.crn.world = s.dev.crn.world ∧ x.crn.epoch = s.dev.crn.epoch ∧ done x r.cmd 0)) ∧
    (∀ n r w, s.dev.crn.check = some r → s.dev.crn.world = some w → r.epochWait = false → r.delivery = none → cOp r.bytes = 4 → (r.full = false ∨ s.dev.crn.sweepOwed = false) →
      r.cmd.ticket ≠ none → s.AnswersSettled (exec (.engineCommandComplete n 4) s) (fun x => ∃ o, o = planOutcome w (d.edgeVerdicts d.neededEdges).2.crn.roadmap
        (parsePlan r.bytes (s.dev.rd View.plain)) none ∧ x.crn.check = none ∧ done x r.cmd o.status)) ∧
    (∀ v sn bs, s.dev.hw.hasDie 0 = true → s.dev.serves (.eng 0 3) = true → v.toNat / 2 ^ 30 = 1 → sn = v.toNat % 4096 → bs = s.dev.rd View.plain (s.dev.seqTable + 64 * sn) 64 →
      s.Answers (exec (.trcSeqLoad .host 0 v) s) (fun x => x.reg (TRC_SEQ_CMD_STATUS 0) = BitVec.ofNat 32 (s.dev.seqLoadCode sn bs * 65536 + sn) ∧ x.mem = s.dev.mem ∧
        (s.dev.seqLoadCode sn bs = 0 → x.seqOf sn = some (parseSeq bs) ∧ (∀ j, j ≠ sn → x.seqOf j = s.dev.seqOf j)) ∧ (s.dev.seqLoadCode sn bs ≠ 0 → x.seqs = s.dev.seqs))) ∧
    (∀ v sn q, s.dev.hw.hasDie 0 = true → s.dev.serves (.eng 0 3) = true → v.toNat / 2 ^ 30 = 2 → sn = v.toNat % 4096 → s.dev.seqOf sn = some q →
      ((∀ e ∈ s.dev.ctxList, sn ∉ e.2.sequences) → s.Answers (exec (.trcSeqRelease .host 0 v) s) (fun x => x.seqOf sn = none ∧ x.reg (TRC_SEQ_CMD_STATUS 0) = BitVec.ofNat 32 sn ∧
        (∀ j, j ≠ sn → x.seqOf j = s.dev.seqOf j) ∧ x.mem = s.dev.mem)) ∧
      ((∃ e ∈ s.dev.ctxList, sn ∈ e.2.sequences) → s.Answers (exec (.trcSeqRelease .host 0 v) s) (fun x => x.seqs = s.dev.seqs ∧
        x.reg (TRC_SEQ_CMD_STATUS 0) = BitVec.ofNat 32 (0x89 * 65536 + sn)))) ∧
    (∀ w n v, n ≠ 0 → s.dev.hw.hasDie n = true → (s.Answers (exec (.trcSeqLoad w n v) s) (fun x => x = d)) ∧ (s.Answers (exec (.trcSeqRelease w n v) s) (fun x => x = d)))

/-- R272, R273, R281–R302: Cairn takes the ready command of highest rank for its path. WORLD_LOAD, WORLD_UPDATE and ROADMAP_LOAD prepare, and the next
slice boundary commits: a world steps the epoch and makes UNKNOWN what it may have changed. PLAN and STORE_FALLBACK run on the check path, and wait
where they name a newer epoch. A batch gives edges their verdicts; at its end time a PLAN ends with what it has; a fallback both Quoins acknowledge is
in their slots, one they do not within 100 µs ends with 0x97. -/
def Obligations.CairnCommandResults : Prop :=
  ∀ (s : State),
    let d : Dev := { s.dev with out := [] }
    let done (x : Dev) (k : EngCmd) (st : Nat) : Prop := ∀ t tk, k.ticket = some t → s.dev.ticket k.ctx t = some tk → x.ticket k.ctx t = some { tk with st := .done (BitVec.ofNat 8 st) }
    (∀ (g : EngIssue) (k : EngCmd) (p : Nat × (EngIssue → Instr)), p ∈ ([(1, .worldLoad), (2, .worldUpdate), (3, .roadmapLoad), (4, .plan), (5, .storeFallback)] : List (Nat × (EngIssue → Instr))) →
      let bs := s.dev.crnBytes k
      let world := onWorldPath p.1
      s.dev.crnOn = true → (if world then s.dev.crn.worldRun.isNone else s.dev.crn.check.isNone) = true → s.dev.crnBest world = some k → k.part = g.part → cOp bs = p.1 →
      absentRange s.dev.hw k.addr 256 = false → s.dev.accessStatus View.plain k.addr 256 true = none → g.mem = [] → g.bufCe = 0 → g.bufUe = none →
      (s.dev.crnBar k bs = none → (∀ a ∈ (k.addr, 256, 0) :: (cairnAreas bs).map (fun r => (r.2.1, r.2.2.1, r.2.2.2)), s.dev.accessStatus View.plain a.1 a.2.1 (a.2.2 == 0) = none) →
        s.AnswersSettled (exec (p.2 g) s) (fun x => (p.1 ≤ 3 → k.ticket ≠ none) → x.crn.queues = FMap.modify [] s.dev.crn.queues k.part (fun q => q.drop 1)) ∧
        s.AnswersSettled (exec (p.2 g) s) (fun x =>
          (∀ pr, p.1 ≤ 3 → s.dev.crnPrepare bs = .ok pr → x.crn.worldRun = some { cmd := k, bytes := bs, prep := pr, committed := false } ∧ x.mem = s.dev.mem) ∧
          (∀ st, p.1 ≤ 3 → k.ticket ≠ none → s.dev.crnPrepare bs = .error st → x.crn.worldRun = none ∧ done x k st) ∧
          (4 ≤ p.1 → ∃ r : CrnRun, x.crn.check = some r ∧ r.bytes = bs ∧ r.cmd.ctx = k.ctx ∧ r.cmd.ticket = k.ticket ∧ r.delivery = none ∧ r.committed = false ∧
            r.epochWait = (!bitOf (fieldAt bs 3 1) 1 && epochNewer (fieldAt bs 0x12 2) s.dev.crn.epoch) ∧ x.crn.pq = [] ∧ x.mem = s.dev.mem))) ∧
      (∀ st f, k.ticket ≠ none → s.dev.crnBar k bs = some (.status st f) → s.AnswersSettled (exec (p.2 g) s) (fun x =>
        done x k st ∧ x.crn.worldRun = s.dev.crn.worldRun ∧ x.crn.check = s.dev.crn.check ∧ x.reg CRN_LAST_REJECT = BitVec.ofNat 32 (st * 2 ^ 24 + k.ctx * 4096 + f)))) ∧
    (∀ (r : CrnWorldRun) (w : World) ch load, s.dev.crnOn = true → s.dev.crn.worldRun = some r → r.committed = false → r.prep = .world w ch load → s.dev.crn.check = none →
      s.AnswersSettled (exec .cairnSliceBoundary s) (fun x => x.crn.world = some w ∧ x.crn.epoch = (s.dev.crn.epoch + 1) % 65536 ∧ x.crn.worldRun = some { r with committed := true } ∧
        (∀ m : Roadmap, s.dev.crn.roadmap = some m → ∃ m' : Roadmap, x.crn.roadmap = some m' ∧ m'.nodes = m.nodes ∧ m'.edges.length = m.edges.length ∧
          (∀ (i : Nat) (e : REdge), m.edges[i]? = some e → m'.edges[i]? = some (if load = true ∨ e.state = 0 ∨ (∃ a ∈ ch, edgeAffected e a = true) then { e with state := 0 } else e))))) ∧
    (∀ r m, s.dev.crnOn = true → s.dev.crn.worldRun = some r → r.committed = false → r.prep = .roadmap m → s.dev.crn.check = none → s.dev.crn.probe = false →
      s.AnswersSettled (exec .cairnSliceBoundary s) (fun x => x.crn.roadmap = some m ∧ x.crn.epoch = s.dev.crn.epoch ∧ x.crn.world = s.dev.crn.world ∧ x.crn.sweepOwed = true)) ∧
    (∀ (w : World) (m : Roadmap), s.dev.crn.batch ≠ [] → s.dev.crn.world = some w → s.dev.crn.roadmap = some m → s.AnswersSettled (exec .edgeBatchComplete s) (fun x =>
      x.crn.batch = [] ∧ ∃ m' : Roadmap, x.crn.roadmap = some m' ∧ ∀ (i : Nat) (e : REdge), m.edges[i]? = some e →
        m'.edges[i]? = some (if e.state = 0 ∧ i ∈ s.dev.crn.batch then { e with state := edgeVerdict w m e, epoch := s.dev.crn.epoch } else e))) ∧
    (∀ r w res, s.dev.crn.check = some r → s.dev.crn.world = some w → r.delivery = none → s.dev.crnEndAt r.cmd r.bytes ≤ s.dev.clock → r.cmd.ticket ≠ none →
      s.AnswersSettled (exec (.planEndTime res) s) (fun x => x.crn.check = none ∧
        ((cOp r.bytes ≠ 4 ∨ r.epochWait = true) → done x r.cmd 9) ∧
        (cOp r.bytes = 4 → r.epochWait = false → done x r.cmd (planOutcome w s.dev.crn.roadmap (parsePlan r.bytes (s.dev.rd View.plain)) (some res)).status))) ∧
    (∀ r t a b q, s.dev.crn.check = some r → r.delivery = some (t, a, b) → q < 2 → (s.dev.quoin q).live = true →
      ((a || q == 0) = false ∨ (b || q != 0) = false → s.AnswersSettled (exec (.fallbackAck q) s) (fun x =>
        x = { d with crn := { s.dev.crn with check := some { r with delivery := some (t, a || q == 0, b || q != 0) } } })) ∧
      ((a || q == 0) = true → (b || q != 0) = true → s.dev.streamList = [] → (∀ tk, r.cmd.ticket.bind (s.dev.ticket r.cmd.ctx) = some tk → tk.st = .pending) →
        s.AnswersSettled (exec (.fallbackAck q) s) (fun x => x.crn.check = none ∧
        FMap.get none x.qn.a.slots (s.dev.fallbackSlot r).1 = some (s.dev.fallbackSlot r).2 ∧ FMap.get none x.qn.b.slots (s.dev.fallbackSlot r).1 = some (s.dev.fallbackSlot r).2 ∧ done x r.cmd 0))) ∧
    (∀ r t a b, s.dev.crn.check = some r → r.delivery = some (t, a, b) → t + ticksUs 100 ≤ s.dev.ticks → (∀ tk, r.cmd.ticket.bind (s.dev.ticket r.cmd.ctx) = some tk → tk.st = .pending) →
      s.AnswersSettled (exec .fallbackAckTimeout s) (fun x => x.crn.check = none ∧ done x r.cmd 0x97)) ∧
    (s.dev.qn.a.live = true → s.dev.qn.b.live = true → s.dev.fenced cairnUnit = false → FMap.get false s.dev.qn.a.fences cairnUnit = false → s.AnswersSettled (exec (.cairnFence none) s) (fun x =>
      x.fenced cairnUnit = true ∧ FMap.get false x.qn.a.fences cairnUnit = true ∧ FMap.get false x.qn.b.fences cairnUnit = true)) ∧
    (∀ a, s.dev.domainOn 44 = true → s.AnswersSettled (exec (.cairnFence (some a)) s) (fun x => x.crn.world = none ∧ x.crn.roadmap = none ∧ x.crn.check = none ∧ x.crn.worldRun = none ∧
      x.crn.epoch = s.dev.crn.epoch ∧ x.rbit CRN_ERR_STATUS 1 = true))

/-- R298, R305, R307: expert direct control of Cairn: with DIRECT 1 a probe waits for a slice boundary; the priority queue of 65,536 entries takes and
gives entries while no check runs, CLEAR empties it and its flags; an edge of the roadmap is made UNKNOWN. -/
def Obligations.CairnDirectResults : Prop :=
  ∀ (s : State) (w : Writer), s.dev.serves .crn = true → s.dev.expertFor w = true → s.dev.rbit CRN_DIRECT 0 = true →
    let d : Dev := { s.dev with out := [] }
    let c := s.dev.crn
    (∀ v, v.getLsbD 0 = true → s.Answers (exec (.probe w v) s) (fun x => x.crn = { c with probe := true } ∧ x.rbit CRN_PROBE_RESULT 31 = false ∧
      (∀ k, k ≠ CRN_PROBE_RESULT → x.reg k = s.dev.reg k) ∧ x = { d with regs := x.regs, crn := { c with probe := true } })) ∧
    (c.check = none →
      s.Answers (exec (.pqPush w) s) (fun x => x.crn = { c with pq := x.crn.pq, pqOverflow := x.crn.pqOverflow } ∧
        (c.pq.length < 65536 → (∃ l r, c.pq = l ++ r ∧ x.crn.pq = l ++ [(s.dev.rn CRN_PQ_KEY, s.dev.rn CRN_PQ_VALUE)] ++ r) ∧ x.crn.pqOverflow = c.pqOverflow) ∧
        (c.pq.length = 65536 → x.crn.pq.length = 65536 ∧ x.crn.pqOverflow = true) ∧ x = { d with crn := x.crn, gau := x.gau }) ∧
      (∀ k v q, c.pq = (k, v) :: q → s.Answers (exec (.pqPop w) s) (fun x => x.crn = { c with pq := q, pqPopEmpty := false } ∧ x.reg CRN_PQ_KEY = BitVec.ofNat 32 k ∧
        x.reg CRN_PQ_VALUE = BitVec.ofNat 32 v ∧ x = { d with regs := x.regs, crn := x.crn })) ∧
      (c.pq = [] → s.Answers (exec (.pqPop w) s) (fun x => x = { d with crn := { c with pqPopEmpty := true } })) ∧
      s.Answers (exec (.pqClear w) s) (fun x => x = { d with crn := { c with pq := [], pqLost := false, pqOverflow := false, pqPopEmpty := false } })) ∧
    (∀ v m e, c.roadmap = some m → m.edges[v.toNat % 2 ^ 18]? = some e → s.Answers (exec (.edgeInvalidate w v) s) (fun x =>
      x = { d with crn := { c with roadmap := some { m with edges := m.edges.set (v.toNat % 2 ^ 18) { e with state := 0 } } } }))

/-! ### Memory, regulation and the Arch links (R85, R310–R365, R450) -/

/-- R85, R312–R319, R325, R329, R338, R339, R450: a refresh interval raises each bank's debt, idle banks refresh, and one at the limit is forced; a
command whose parity fails is issued again once, and a second failure retires the layer; the last unit copied puts the spare in use; a resync
copies one side to the other; a semaphore with bad parity is poisoned and its holder torn down; a DRAM mode changes only while nothing is bound,
and leaves the die's DRAM undefined (log entry 9); a scrub counts corrected errors and poisons lost lines. Before a line is poisoned and its
layer retired, what reads find there stays. -/
def Obligations.MemoryEventResults : Prop :=
  ∀ (s : State),
    let d : Dev := { s.dev with out := [] }
    let clean (k : Nat) : Prop := (s.dev.stack k).layers.length = 8
    (∀ k idle st limit, s.dev.hw.hasStack k = true → (s.dev.stack k).selfRefresh = false → s.dev.dieFenced (k / 2) = false → st = s.dev.stack k →
      limit = s.dev.rn (SMC_REFRESH_POSTPONE (k / 2) (k % 2)) % 16 → s.Answers (exec (.refreshInterval k idle) s) (fun x =>
        x = { d with stackTbl := x.stackTbl, regs := x.regs, gau := x.gau } ∧ (∀ j, j ≠ k → x.stack j = s.dev.stack j) ∧ x.stack k = { st with debt := (x.stack k).debt } ∧
        (∀ y : Nat → Int, (∀ b, y b = if b ∈ idle ∧ -8 ≤ FMap.get 0 st.debt b then FMap.get 0 st.debt b else FMap.get 0 st.debt b + 1) →
          (∀ b, b < 288 → FMap.get 0 (x.stack k).debt b =
            if b / 32 ∈ st.refreshed then (if (limit : Int) ≤ y b then y b - 1 else y b) else FMap.get 0 st.debt b) ∧
          x.rn (SMC_FORCED_REFRESH (k / 2) (k % 2)) = min (s.dev.rn (SMC_FORCED_REFRESH (k / 2) (k % 2)) +
            ((List.range 288).filter (fun b => decide (b / 32 ∈ st.refreshed ∧ (limit : Int) ≤ y b))).length) 0xFFFFFFFF) ∧
        (∀ r, r ≠ SMC_FORCED_REFRESH (k / 2) (k % 2) → x.reg r = s.dev.reg r))) ∧
    (∀ k a, s.dev.hw.hasStack k = true → a < 2 ^ 34 → (s.dev.stack k).retry = none → s.Answers (exec (.caParityError k a) s) (fun x =>
      x = d.setStack k { s.dev.stack k with retry := some a })) ∧
    (∀ k a st, s.dev.hw.hasStack k = true → st = s.dev.stack k → st.retry = some a → clean k →
      (s.AnswersSettled (exec (.caParityRetry k false) s) (fun x => x = d.setStack k { st with retry := none })) ∧
      (s.AnswersSettled (exec (.caParityRetry k true) s) (fun x => (x.stack k).retry = none ∧ x.mem = s.dev.mem ∧ x.rbit (SMC_ERR_STATUS (k / 2) (k % 2)) 2 = true ∧
        x.reg (SMC_UE_ADDR_LO (k / 2) (k % 2)) = BitVec.ofNat 32 (a % 2 ^ 32) ∧ x.reg (SMC_UE_ADDR_HI (k / 2) (k % 2)) = BitVec.ofNat 32 (a / 2 ^ 32 + 2 ^ 31) ∧
        (st.layers.getD (layerOf a) .inService = .inService → st.spare = .free → (x.stack k).layers = st.layers.set (layerOf a) .migrating ∧ (x.stack k).spare = .migrating ∧
          (x.stack k).spareLayer = layerOf a ∧ (x.stack k).mig = 0) ∧
        (st.layers.getD (layerOf a) .inService = .inService → st.spare ≠ .free → (x.stack k).layers = st.layers.set (layerOf a) .fenced ∧ (x.stack k).spare = st.spare) ∧
        (st.layers.getD (layerOf a) .inService = .spared → (x.stack k).layers = st.layers.set (layerOf a) .fenced ∧ (x.stack k).spare = .failed)))) ∧
    (∀ k st, s.dev.hw.hasStack k = true → st = s.dev.stack k → st.spare = .migrating → clean k → st.layers.getD st.spareLayer .inService = .migrating →
      (st.mig + 1 < 524288 → s.AnswersSettled (exec (.migrationUnitCopied k false) s) (fun x => x = d.setStack k { st with mig := st.mig + 1 })) ∧
      (st.mig + 1 = 524288 → s.AnswersSettled (exec (.migrationUnitCopied k false) s) (fun x =>
        x.stack k = { st with mig := 524288, spare := .inUse, layers := st.layers.set st.spareLayer .spared } ∧ x = { d with stackTbl := x.stackTbl, jfe := x.jfe })) ∧
      (s.AnswersSettled (exec (.migrationUnitCopied k true) s) (fun x => (x.stack k).spare = .failed ∧ (x.stack k).layers = st.layers.set st.spareLayer .fenced ∧ x.mem = s.dev.mem))) ∧
    (∀ p r m b, FMap.get none s.dev.mirrors (16 * p + r) = some m → m.st = .resync b → s.AnswersSettled (exec (.resyncComplete p r) s) (fun x =>
      FMap.get none x.mirrors (16 * p + r) = some { m with st := .mirrored } ∧ (∀ q, q ≠ 16 * p + r → FMap.get none x.mirrors q = FMap.get none s.dev.mirrors q) ∧
      (s.dev.tags = [] → FMap.wf 0 s.dev.mem = true → m.base + m.bytes ≤ m.copy ∨ m.copy + m.bytes ≤ m.base → ∀ src dst, (if b = true then (m.copy, m.base) else (m.base, m.copy)) = (src, dst) →
        (∀ i, i < m.bytes → x.cell (dst + i) = s.dev.cell (src + i)) ∧ (∀ a, a < dst ∨ dst + m.bytes ≤ a → x.cell a = s.dev.cell a)))) ∧
    (∀ n i, s.dev.hw.hasDie n = true → i < 1024 → s.AnswersSettled (exec (.semParityError n i) s) (fun x =>
      (x.sem (1024 * n + i)).poisoned = true ∧ x.rbit (MRT_ERR_STATUS n) 2 = true ∧ x.mem = s.dev.mem ∧
      ((s.dev.sem (1024 * n + i)).holder = none → x = { d with sems := x.sems, regs := x.regs } ∧ x.sem (1024 * n + i) = { s.dev.sem (1024 * n + i) with poisoned := true }) ∧
      (∀ o c, (s.dev.sem (1024 * n + i)).holder = some (o, c) → (s.dev.ctx c).state = .running → (x.ctx c).state = .draining ∧ (x.ctx c).ending = stMemoryUncorrectable))) ∧
    (∀ w n v, s.dev.hw.hasDie n = true → s.dev.serves (.mrt n) = true → s.dev.rbit ((Block.mrt n).base + 0xC) 0 = false →
      (s.dev.dramBusy = true → s.Answers (exec (.dramModeWrite w n v) s) (fun x => x = { d with jfe := x.jfe } ∧
        (s.dev.keystoneUp = true → ∃ e : Event, x.jfe.ev = s.dev.jfe.ev ++ [e] ∧ e.code = 0x070A))) ∧
      (s.dev.dramBusy = false → v.getLsbD 0 = s.dev.linear n → s.Answers (exec (.dramModeWrite w n v) s) (fun x => x = d)) ∧
      (s.dev.dramBusy = false → v.getLsbD 0 ≠ s.dev.linear n → s.Answers (exec (.dramModeWrite w n v) s) (fun x => x.linear n = v.getLsbD 0 ∧
        (∀ a, s.dev.lossKey a / 16 ≠ n ∨ 64 ≤ s.dev.lossKey a → FMap.get 0 x.mem a = FMap.get 0 s.dev.mem a) ∧ (∀ k, k < 64 → k / 16 = n → FMap.get 0 x.dramGen k = s.dev.freeCtr + 1) ∧
        x = { d with regs := x.regs, mem := x.mem, poison := x.poison, dramGen := x.dramGen, freeCtr := s.dev.freeCtr + 1 }))) ∧
    (∀ k a es, s.dev.hw.hasStack k = true → a < 2 ^ 34 → (s.dev.stack k).selfRefresh = false → s.dev.dieFenced (k / 2) = false → s.dev.layerSt k (layerOf a) ≠ .fenced →
      s.dev.rn (SMC_SCRUB (k / 2) (k % 2)) % 256 ≠ 0 → ∀ l, l = stackAddr (s.dev.linear (k / 2)) k (a / 64 * 64) →
      ((∀ e ∈ es, e.addr < l ∨ l + 64 ≤ e.addr) → s.AnswersSettled (exec (.patrolScrub k a es) s) (fun x => x = d)) ∧
      (∀ e n, es = [e] → l ≤ e.addr → e.addr < l + 64 → s.dev.served e.addr = e.addr → s.dev.mirrorAt e.addr = none → placeOf s.dev.hw e.addr = .dram n →
        ∀ t, t = s.dev.stackOf e.addr → s.AnswersSettled (exec (.patrolScrub k a es) s) (fun x =>
          (e.ue = false → x.rbit (SMC_ERR_STATUS (t.1 / 2) (t.1 % 2)) 0 = true ∧ x = { d with regs := x.regs, stackTbl := x.stackTbl, jfe := x.jfe } ∧
            x.rn (SMC_LAYER_CE (t.1 / 2) (t.1 % 2) (layerOf t.2)) = min (s.dev.rn (SMC_LAYER_CE (t.1 / 2) (t.1 % 2) (layerOf t.2)) + 1) 0xFFFFFFFF) ∧
          (e.ue = true → x.mem = s.dev.mem ∧ FMap.get false x.poison (e.addr / 64) = true ∧ x.rbit (SMC_ERR_STATUS (t.1 / 2) (t.1 % 2)) 1 = true ∧
            x.reg (SMC_UE_ADDR_LO (t.1 / 2) (t.1 % 2)) = BitVec.ofNat 32 (t.2 % 2 ^ 32))))) ∧
    (∀ g a, s.dev.hw.hasCore g = true → s.dev.rn (ASH_LS_SCRUB (coreDie g) (coreCluster g)) % 65536 ≠ 0 → (s.dev.core g).st ≠ .poweredDown → a < lsSize →
      (s.AnswersSettled (exec (.lsPatrolScrub g a .none) s) (fun x => x = d)) ∧
      (∀ b, s.AnswersSettled (exec (.lsPatrolScrub g a (.lsCorrected b)) s) (fun x => x.rbit (ASH_ERR_STATUS (coreDie g) (coreCluster g)) 0 = true ∧
        x.rn (ASH_LS_CE_COUNT (coreDie g) (coreCluster g)) = min (s.dev.rn (ASH_LS_CE_COUNT (coreDie g) (coreCluster g)) + 1) 0xFFFFFFFF ∧
        x = { d with cores := x.cores, regs := x.regs, jfe := x.jfe } ∧ (x.core g).ls = (s.dev.core g).ls ∧ (x.core g).regs = (s.dev.core g).regs)) ∧
      (∀ b c, (s.dev.core g).ctx = some c → (s.dev.ctx c).state = .running → s.AnswersSettled (exec (.lsPatrolScrub g a (.lsUncorrected b)) s) (fun x =>
        x.rbit (ASH_ERR_STATUS (coreDie g) (coreCluster g)) 1 = true ∧ (x.ctx c).state = .draining ∧ (x.ctx c).ending = stFaultContext ∧ x.mem = s.dev.mem))) ∧
    (∀ k l r, s.dev.hw.hasStack k = true → s.dev.wrapped (layerUnit k l) = false → s.dev.pav.requests = [r] → r.kind ≠ 0 → (0x300 + 8 * k + l, 0) ∈ r.left →
      (s.AnswersSettled (exec (.layerTestDone k l false) s) (fun x => x.pav.requests = [] ∧ x.fences = s.dev.fences ∧ x.mem = s.dev.mem)) ∧
      (r.left.erase (0x300 + 8 * k + l, 0) ≠ [] → s.AnswersSettled (exec (.layerTestDone k l true) s) (fun x =>
        x = { d with pav := { s.dev.pav with requests := [{ r with left := r.left.erase (0x300 + 8 * k + l, 0), started := true }] } })) ∧
      (r.left.erase (0x300 + 8 * k + l, 0) = [] → r.readmit = false → s.AnswersSettled (exec (.layerTestDone k l true) s) (fun x => x.pav.requests = [] ∧ x.mem = s.dev.mem)))

/-- R333, R335, R337, R344–R350: a class over its budget is counted once an interval; a stack whose capacity changes gets its guarantees anew from those
set, classes of criticality C and D uncut. A good DATA flit in sequence is acknowledged, one out of sequence or with a bad CRC is refused with the
last good SEQ and all is discarded until it comes; as many failures in a row as the limit start a retrain. Unacknowledged flits go again after a
timeout and after a retrain; a lane that fails, a retrain that runs too long, or a Quoin's word fences the link. -/
def Obligations.RegulatorAndArchResults : Prop :=
  ∀ (s : State),
    let d : Dev := { s.dev with out := [] }
    (∀ k t bs, s.dev.hw.hasStack t = true → k < 16 →
      (bs.foldl (· + ·) 0 ≤ FMap.get 0 s.dev.bw.budget (8 * k + t) → s.Answers (exec (.regulationInterval k t bs) s) (fun x => x = d)) ∧
      (FMap.get 0 s.dev.bw.budget (8 * k + t) < bs.foldl (· + ·) 0 → FMap.get none s.dev.rate (rateKey 0x0800 k) ≠ some (s.dev.clock / 1000, 0) →
        s.Answers (exec (.regulationInterval k t bs) s) (fun x => x.rn (BWR_OVER_COUNT k) = min (s.dev.rn (BWR_OVER_COUNT k) + 1) 0xFFFFFFFF ∧
          FMap.get none x.rate (rateKey 0x0800 k) = some (s.dev.clock / 1000, 0) ∧ (∀ r, r ≠ BWR_OVER_COUNT k → x.reg r = s.dev.reg r) ∧
          x = { d with regs := x.regs, rate := x.rate, gau := x.gau }))) ∧
    ((∀ t, t < 2 * s.dev.hw.dies → s.dev.stackCap t = FMap.get 0 s.dev.bw.capacity t) → s.AnswersSettled (exec .guaranteeRecompute s) (fun x => x = d)) ∧
    (∀ t, t < 2 * s.dev.hw.dies → s.dev.stackCap t ≠ FMap.get 0 s.dev.bw.capacity t → (∀ u, u < 2 * s.dev.hw.dies → u ≠ t → s.dev.stackCap u = FMap.get 0 s.dev.bw.capacity u) →
      s.dev.qn.a.live = false → s.dev.qn.b.live = false → s.AnswersSettled (exec .guaranteeRecompute s) (fun x =>
        FMap.get 0 x.bw.capacity t = s.dev.stackCap t ∧ x.bw.gSet = s.dev.bw.gSet ∧ x.bw.budget = s.dev.bw.budget ∧
        (∀ k u, k < 16 → u < 8 → u ≠ t → FMap.get 0 x.bw.gForce (8 * k + u) = FMap.get 0 s.dev.bw.gForce (8 * k + u)) ∧
        (∀ k, k < 16 → FMap.get 0 x.bw.gForce (8 * k + t) ≤ FMap.get 0 s.dev.bw.gSet (8 * k + t)) ∧
        (∀ k c p, k < 16 → s.dev.criticality k = some (c, p) → 3 ≤ c → FMap.get 0 x.bw.gForce (8 * k + t) = FMap.get 0 s.dev.bw.gSet (8 * k + t)) ∧
        ((∀ k, k ≤ 16 → s.dev.maxLoad t (fun j => FMap.get 0 s.dev.bw.gSet (8 * j + t)) k ≤ s.dev.stackCap t) →
          (∀ k, k < 16 → FMap.get 0 x.bw.gForce (8 * k + t) = FMap.get 0 s.dev.bw.gSet (8 * k + t)) ∧ FMap.get false x.bw.critical t = false) ∧
        x = { d with bw := x.bw, qn := { s.dev.qn with critical := x.qn.critical }, jfe := x.jfe })) ∧
    (∀ n p sent got f y z lim, s.dev.hw.hasPort n p = true → f = farEnd s.dev.hw n p → y = s.dev.port n p → z = s.dev.port f.1 f.2 → y.st = .active → sent.length = 256 →
      got.length = 256 → flitCrcOk sent = true → lim = s.dev.endReg ARC_RETRY_LIMIT n p % 16 → z.unacked.any (fun u => u.1 == flitSeq sent) = false →
      (flitType sent ≠ 1 ∨ (flitSeq sent = z.txNext ∧ z.unacked.length < 64)) → ∀ z' : Port, z' = (if flitType sent = 1 then
        { z with txNext := (z.txNext + 1) % 256, unacked := z.unacked ++ [(flitSeq sent, sent)] } else z) →
      let goes (y' : Port) (o : List Out) (x : Dev) : Prop := x.port n p = y' ∧ x.port f.1 f.2 = z' ∧ x.out = o ∧ x = { d with ports := x.ports, regs := x.regs, gau := x.gau, out := o }
      (flitCrcOk got = true → flitType got = 1 → fieldAt got 3 1 % 4 = 0 → flitSeq got = y.rxNext → s.AnswersSettled (exec (.flitReceive n p sent got) s)
        (goes { y with rxNext := (y.rxNext + 1) % 256, discarding := false, failRun := 0 } [.flit n p (ackFlit y.version (flitSeq got) false)])) ∧
      (flitCrcOk got = true → flitType got = 1 → fieldAt got 3 1 % 4 = 0 → flitSeq got ≠ y.rxNext → s.AnswersSettled (exec (.flitReceive n p sent got) s)
        (goes { y with discarding := true } (if y.discarding then [] else [.flit n p (ackFlit y.version ((y.rxNext + 255) % 256) true)]))) ∧
      (flitCrcOk got = true → flitType got ≠ 1 → fieldAt got 3 1 % 4 = 1 → s.AnswersSettled (exec (.flitReceive n p sent got) s)
        (goes { y with unacked := ackTo (flitAck got) y.unacked } [])) ∧
      (flitCrcOk got = false → flitType sent ≠ 1 → s.AnswersSettled (exec (.flitReceive n p sent got) s) (goes y [])) ∧
      (flitCrcOk got = false → flitType sent = 1 → ∀ run, run = (if y.failRun ≠ 0 ∧ y.failSeq = flitSeq sent then y.failRun + 1 else 1) →
        (run < lim → s.AnswersSettled (exec (.flitReceive n p sent got) s) (fun x =>
          goes { y with failSeq := flitSeq sent, failRun := run, discarding := true } [.flit n p (ackFlit y.version ((y.rxNext + 255) % 256) true)] x ∧
          x.rn (ARC_CRC_ERR_COUNT (endDie n p) (endPort n p)) = min (s.dev.rn (ARC_CRC_ERR_COUNT (endDie n p) (endPort n p)) + 1) 0xFFFFFFFF)) ∧
        (lim ≤ run → y.retrainTicks.length < 3 → s.AnswersSettled (exec (.flitReceive n p sent got) s) (fun x =>
          (x.port n p).st = .retraining ∧ (x.port n p).retrain = some (s.dev.ticks, 1) ∧ (x.port f.1 f.2).st = .retraining)))) ∧
    (∀ n p y, s.dev.hw.hasPort n p = true → y = s.dev.port n p → y.st = .active → y.unacked ≠ [] → y.retryTicks.length + 1 < bitsOf (s.dev.endReg ARC_RETRY_LIMIT n p) 25 16 →
      s.AnswersSettled (exec (.replayTimeout n p) s) (fun x => x.out = y.unacked.map (fun u => .flit n p u.2) ∧ (x.port n p).unacked = y.unacked ∧
        x.rn (ARC_RETRY_COUNT (endDie n p) (endPort n p)) = min (s.dev.rn (ARC_RETRY_COUNT (endDie n p) (endPort n p)) + 1) 0xFFFFFFFF ∧
        x = { d with ports := x.ports, regs := x.regs, gau := x.gau, out := x.out })) ∧
    (∀ n p t c f y, s.dev.hw.hasPort n p = true → f = farEnd s.dev.hw n p → y = s.dev.port n p → y.retrain = some (t, c) → y.st = .retraining → y.underTest = false →
      (s.AnswersSettled (exec (.retrainComplete n p []) s) (fun x => x.port n p = { y with st := .active, retrain := none } ∧
        x.port f.1 f.2 = { s.dev.port f.1 f.2 with st := .active, retrain := none } ∧
        x.out = y.unacked.map (fun u => .flit n p u.2) ++ (s.dev.port f.1 f.2).unacked.map (fun u => .flit f.1 f.2 u.2) ∧
        x = { d with ports := x.ports, jfe := x.jfe, out := x.out })) ∧
      (∀ l ls, s.AnswersSettled (exec (.retrainComplete n p (l :: ls)) s) (fun x => (x.port n p).st = .fenced ∧ (x.port n p).lane = some l ∧ (x.port n p).unacked = [] ∧
        (x.port f.1 f.2).st = .fenced ∧ (s.dev.qn.a.live = true → FMap.get false s.dev.qn.a.fences (linkUnit (endDie n p) (endPort n p)) = false →
          x.fenced (linkUnit (endDie n p) (endPort n p)) = true))) ∧
      (t + ticksUs 20 ≤ s.dev.ticks → s.AnswersSettled (exec (.retrainTimeout n p) s) (fun x => (x.port n p).st = .fenced ∧ (x.port f.1 f.2).st = .fenced ∧
        (x.port n p).unacked = [] ∧ (s.dev.qn.a.live = true → FMap.get false s.dev.qn.a.fences (linkUnit (endDie n p) (endPort n p)) = false →
          x.fenced (linkUnit (endDie n p) (endPort n p)) = true)))) ∧
    (∀ n p, n < 4 → s.dev.hw.hasPort n p = true → s.dev.qn.a.live = true → FMap.get false s.dev.qn.a.fences (linkUnit n p) = false → s.AnswersSettled (exec (.linkFence n p) s) (fun x =>
      x.fenced (linkUnit n p) = true ∧ FMap.get false x.qn.a.fences (linkUnit n p) = true ∧ x.mem = s.dev.mem ∧ x.cores = s.dev.cores))

/-! ### Sensor ingest and Plumb time (R366–R400) -/

/-- R366–R371, R377–R384: enabling a stream, of at most 24, one slot to a virtual channel; a frame opens a packet with its stamp, its lines are
appended, and its end commits it: data, descriptor, then the next SEQ. A packet without room is dropped, one that stalls or whose link drops is
rewound, all of which is counted. I2C transactions run one at a time over the reverse channel. A queue starts empty where its parts are well
placed, and a poll frees what software has released. -/
def Obligations.CameraAndQueueResults : Prop :=
  ∀ (s : State),
    let d : Dev := { s.dev with out := [] }
    (∀ w v p l k, s.dev.serves .aphy = true → p = s.dev.rf APHY_PORT_SEL 3 0 → l = s.dev.rf APHY_VC_SEL 1 0 → k = slotKey p l 0x34 →
      (bitOf (s.dev.slotCfg p l) 31 = false → bitOf v.toNat 31 = true → s.dev.streamsOn < 24 → s.dev.slotOf p (bitsOf v.toNat 11 8) = none →
        s.Answers (exec (.streamEnable w APHY_VC_CFG v) s) (fun x => x.reg k = v &&& 0xC01F0F3F ∧ (∀ r, r ≠ k → x.reg r = s.dev.reg r) ∧ x = { d with regs := x.regs })) ∧
      (bitOf (s.dev.slotCfg p l) 31 = false → bitOf v.toNat 31 = true → 24 ≤ s.dev.streamsOn ∨ s.dev.slotOf p (bitsOf v.toNat 11 8) ≠ none →
        s.Answers (exec (.streamEnable w APHY_VC_CFG v) s) (fun x => x.reg k = v &&& 0x401F0F3F ∧ x = { d with regs := x.regs, jfe := x.jfe } ∧
          (s.dev.keystoneUp = true → ∃ e : Event, x.jfe.ev = s.dev.jfe.ev ++ [e] ∧ e.code = (if 24 ≤ s.dev.streamsOn then 0x0A01 else 0x0A05)))) ∧
      (bitOf (s.dev.slotCfg p l) 31 = true → bitOf v.toNat 31 = false → s.Answers (exec (.streamEnable w APHY_VC_CFG v) s) (fun x =>
        x.reg k = s.dev.reg k &&& 0x7FFFFFFF ∧ x.hodPkt (slotQueue (s.dev.slotCfg p l)) (slotSource p l) = none))) ∧
    (∀ w v p f k, s.dev.serves .eth = true → p = s.dev.rf ETH_PORT_SEL 2 0 → p < 6 → f = s.dev.rf ETH_FILT_SEL 2 0 → k = filtKey p f 0x44 → bitOf (s.dev.filtCfg p f) 31 = false →
      bitOf v.toNat 31 = true → s.dev.streamsOn < 24 → s.Answers (exec (.streamEnable w ETH_FILT_ACTION v) s) (fun x =>
        x.reg k = v &&& 0x801F3FFF ∧ (∀ r, r ≠ k → x.reg r = s.dev.reg r) ∧ x = { d with regs := x.regs })) ∧
    (∀ p vc num, (s.dev.aphyPort p).link = true →
      (s.dev.slotOf p vc = none → s.Answers (exec (.frameStart p vc num .good) s) (fun x => x.rn (aphyKey p 0x24) = min (s.dev.rn (aphyKey p 0x24) + 1) 0xFFFFFFFF ∧
        (∀ r, r ≠ aphyKey p 0x24 → x.reg r = s.dev.reg r) ∧ x = { d with regs := x.regs, gau := x.gau })) ∧
      (∀ l q, s.dev.slotOf p vc = some l → q = slotQueue (s.dev.slotCfg p l) → (s.dev.hodQ q).enabled = true → s.dev.hodPkt q (slotSource p l) = none →
        ((s.dev.readRelease q).hodRoom q = true → s.Answers (exec (.frameStart p vc num .good) s) (fun x => ∃ k : OpenPkt,
          (x.hodQ q).opened = (s.dev.hodQ q).opened ++ [k] ∧ k.source = slotSource p l ∧ k.bytes = [] ∧ k.lines = 0 ∧ k.damaged = false ∧ k.last = s.dev.ticks ∧
          k.stamp = stampLess s.dev.nowFx 1184 (s.dev.rn (slotKey p l 0x3C)) ∧ k.info = num % 65536 + 65536 * (s.dev.slotCfg p l % 64) + 2 ^ 22 * vc ∧
          x = { d with hod := x.hod, gau := x.gau } ∧ ∀ j, j ≠ q → x.hodQ j = s.dev.hodQ j)) ∧
        ((s.dev.readRelease q).hodRoom q = false → s.Answers (exec (.frameStart p vc num .good) s) (fun x => (x.hodQ q).opened = (s.dev.hodQ q).opened ∧
          (x.hodQ q).lostBefore = true ∧ x.rn (hodKey q 0x5C) = min (s.dev.rn (hodKey q 0x5C) + 1) 0xFFFFFFFF ∧ x.mem = s.dev.mem)))) ∧
    (∀ p vc dt data l q k shape, (s.dev.aphyPort p).link = true → s.dev.slotOf p vc = some l → s.dev.slotCfg p l % 64 = dt → q = slotQueue (s.dev.slotCfg p l) →
      s.dev.hodPkt q (slotSource p l) = some k → shape = s.dev.rn (slotKey p l 0x38) → k.lines < shape / 65536 → bitOf (s.dev.slotCfg p l) 30 = false →
      k.bytes.length + data.length ≤ s.dev.hodMax q → s.Answers (exec (.longPacket p vc dt .good data true false) s) (fun x =>
        x.hodPkt q (slotSource p l) = some { k with bytes := k.bytes ++ data, lines := k.lines + 1, last := s.dev.ticks, damaged := k.damaged || data.length != shape % 65536 } ∧
        x = { d with hod := x.hod, gau := x.gau })) ∧
    (∀ p vc l q k y off, (s.dev.aphyPort p).link = true → s.dev.slotOf p vc = some l → q = slotQueue (s.dev.slotCfg p l) → y = s.dev.hodQ q → y.opened = [k] →
      k.source = slotSource p l → off = s.dev.hodStart q → k.lines = s.dev.rn (slotKey p l 0x38) / 65536 →
      (k.damaged = false → k.bytes ≠ [] → k.bytes.length ≤ s.dev.hodMax q → s.dev.hodRoom q = true → s.dev.hodNotify q = 0 →
        s.AnswersSettled (exec (.frameEnd p vc .good) s) (fun x =>
          x.hodQ q = { y with seq := add32 y.seq 1, w := off.1 + up64 k.bytes.length, held := y.held ++ [(y.seq, off.1, up64 k.bytes.length)], lostBefore := false, opened := [] } ∧
          x.mem = ((d.wr View.plain ((s.dev.hodData q).1 + off.1) (k.bytes ++ List.replicate (up64 k.bytes.length - k.bytes.length) 0)).wr View.plain
            ((s.dev.hodRing q).1 + 32 * (y.seq % s.dev.hodSlots q)) (hodDescriptor y.seq k.source ((if off.2 then 1 else 0) + (if y.lostBefore then 4 else 0))
              ((k.bytes.length - 1) % 64 + 1) off.1 k.bytes.length k.stamp k.info)).mem ∧ (∀ j, j ≠ q → x.hodQ j = s.dev.hodQ j))) ∧
      (k.damaged = true → s.dev.hodKeeps q = false → s.AnswersSettled (exec (.frameEnd p vc .good) s) (fun x => (x.hodQ q).opened = [] ∧ (x.hodQ q).seq = y.seq ∧
        (x.hodQ q).w = y.w ∧ (x.hodQ q).lostBefore = true ∧ x.rn (hodKey q 0x60) = min (s.dev.rn (hodKey q 0x60) + 1) 0xFFFFFFFF))) ∧
    (∀ p data, (s.dev.aphyPort p).link = true → s.Answers (exec (.aphyLinkDown p data) s) (fun x => (x.aphyPort p).link = false ∧ (x.aphyPort p).gear = 0 ∧ (x.aphyPort p).i2c = none ∧
      (∀ l, l < 4 → x.hodPkt (slotQueue (s.dev.slotCfg p l)) (slotSource p l) = none) ∧ ((s.dev.aphyPort p).i2c ≠ none → x.rn (aphyKey p 0x44) = 3))) ∧
    (∀ p gear, p < 16 → (s.dev.aphyPort p).link = false → s.dev.rbit (aphyKey p 0x14) 31 = true → 1 ≤ gear → gear ≤ 5 → gear ≤ s.dev.rf (aphyKey p 0x14) 2 0 →
      s.Answers (exec (.aphyLinkUp p gear) s) (fun x => x = d.setAphy p { s.dev.aphyPort p with link := true, gear := gear })) ∧
    (∀ w v p, s.dev.serves .aphy = true → p = s.dev.rf APHY_PORT_SEL 3 0 → (s.dev.aphyPort p).i2c = none → bitsOf v.toNat 6 0 ≤ 64 → bitsOf v.toNat 14 8 ≤ 64 → bitOf v.toNat 31 = true →
      ((s.dev.aphyPort p).link = true → s.Answers (exec (.i2cTransaction w v) s) (fun x => x.rn (aphyKey p 0x44) = 2 ^ 31 ∧
        (x.aphyPort p).i2c = some (s.dev.ticks, s.dev.i2cBytes p (bitsOf v.toNat 6 0)) ∧
        x.out = [.i2c p (bitsOf v.toNat 22 16) (s.dev.i2cBytes p (bitsOf v.toNat 6 0)) (bitsOf v.toNat 14 8)] ∧ x = { d with regs := x.regs, aphy := x.aphy, out := x.out })) ∧
      ((s.dev.aphyPort p).link = false → s.Answers (exec (.i2cTransaction w v) s) (fun x => x.rn (aphyKey p 0x44) = 3 ∧ x = { d with regs := x.regs }))) ∧
    (∀ p t bs, (s.dev.aphyPort p).i2c = some (t, bs) →
      (∀ data, data.length = s.dev.i2cReads p → data.length ≤ 64 → s.Answers (exec (.i2cDone p false data) s) (fun x => x.rn (aphyKey p 0x44) = 0 ∧ (x.aphyPort p).i2c = none ∧
        x.i2cBytes p data.length = data ∧ (∀ i, data.length ≤ i → i < 64 → (x.i2cBytes p 64)[i]? = (s.dev.i2cBytes p 64)[i]?) ∧ x = { d with regs := x.regs, aphy := x.aphy })) ∧
      (s.Answers (exec (.i2cDone p true []) s) (fun x => x.rn (aphyKey p 0x44) = 1 ∧ (x.aphyPort p).i2c = none ∧ x = { d with regs := x.regs, aphy := x.aphy })) ∧
      (∀ data, t + ticksMs 10 ≤ s.dev.ticks → s.Answers (exec (.i2cTimeout p data) s) (fun x => x.rn (aphyKey p 0x44) = 2 ∧ (x.aphyPort p).i2c = none ∧
        x = { d with regs := x.regs, aphy := x.aphy }))) ∧
    (∀ w v q, s.dev.serves .hod = true → q = s.dev.rf HOD_Q_SEL 4 0 →
      ((s.dev.hodQ q).enabled = false → bitOf v.toNat 31 = true → ∀ e : Dev, e = d.setReg (hodKey q 0x20) (v &&& 0x41F0001F) →
        (e.hodFault q = 0 → e.hodFencedPart q = none → s.Answers (exec (.hodQueueEnable w v) s) (fun x => x.hodQ q = { HodQ.reset with enabled := true } ∧
          (∀ j, j ≠ q → x.hodQ j = s.dev.hodQ j) ∧ x.regs = e.regs)) ∧
        (e.hodFault q ≠ 0 → s.Answers (exec (.hodQueueEnable w v) s) (fun x => x = { e with jfe := x.jfe } ∧
          (s.dev.keystoneUp = true → ∃ r : Event, x.jfe.ev = s.dev.jfe.ev ++ [r] ∧ r.code = 0x0A05 ∧ r.arg0 = BitVec.ofNat 32 q ∧ r.arg1 = BitVec.ofNat 32 (e.hodFault q))))) ∧
      ((s.dev.hodQ q).enabled = true → bitOf v.toNat 31 = false → s.Answers (exec (.hodQueueEnable w v) s) (fun x =>
        x = d.setHodQ q { s.dev.hodQ q with enabled := false, opened := [] }))) ∧
    (∀ q src k, s.dev.hodPkt q src = some k → k.last + ticksUs (s.dev.rf (hodKey q 0x50) 15 0) ≤ s.dev.ticks → s.Answers (exec (.hodStallTimeout q src) s) (fun x =>
      x.hodPkt q src = none ∧ (x.hodQ q).lostBefore = true ∧ (x.hodQ q).seq = (s.dev.hodQ q).seq ∧ (x.hodQ q).w = (s.dev.hodQ q).w ∧
      x.rn (hodKey q 0x60) = min (s.dev.rn (hodKey q 0x60) + 1) 0xFFFFFFFF)) ∧
    (∀ q, (s.dev.hodQ q).enabled = true → s.dev.hodRoom q = false → s.Answers (exec (.hodReleasePoll q) s) (fun x => ∀ r, r = leNat (s.dev.rd View.plain (s.dev.hodRelease q) 4) →
      x.hodQ q = { s.dev.hodQ q with released := r, held := (s.dev.hodQ q).held.filter (fun h => decide (2 ^ 31 ≤ sub32 r h.1)) } ∧ x.mem = s.dev.mem))

/-- R367, R373–R376, R385–R394: a received frame goes to the first filter that matches, one none takes is counted, and a PTP message goes to Plumb;
links come and go; the MAC sends one host frame at a time. The increment within ±1,000 ppm, SET, ADD and SLEW set the time; sync states follow the
offsets; what the servo chooses is open (log entry 9). Triggers fire at START + k × PERIOD, captures are stamped, and a full FIFO loses the stamp. -/
def Obligations.EthernetAndTimeResults : Prop :=
  ∀ (s : State),
    let d : Dev := { s.dev with out := [] }
    (∀ p bs full y, p < 6 → (s.dev.ethPort p).link = true → 64 ≤ bs.length + 4 → bs.length + 4 ≤ 9216 → etherType bs ≠ 0x8808 →
      (s.dev.isPtp p bs = false → s.dev.filtFor p bs = none → s.AnswersSettled (exec (.ethFrameReceive p bs true full y) s) (fun x =>
        x.rn (ethKey p 0x2C) = min (s.dev.rn (ethKey p 0x2C) + 1) 0xFFFFFFFF ∧ x.rn (ethKey p 0x30) = min (s.dev.rn (ethKey p 0x30) + 1) 0xFFFFFFFF ∧
        x = { d with regs := x.regs, gau := x.gau })) ∧
      (∀ f q, s.dev.isPtp p bs = false → s.dev.filtFor p bs = some f → q = slotQueue (s.dev.filtCfg p f) → (s.dev.hodQ q).enabled = true → s.dev.hodPkt q (filtSource p f) = none →
        (s.dev.readRelease q).hodRoom q = true → bs.length - s.dev.filtCfg p f % 2 ^ 14 ≤ s.dev.hodMax q → full = false → s.AnswersSettled (exec (.ethFrameReceive p bs true full y) s) (fun x =>
          (x.hodQ q).seq = add32 (s.dev.hodQ q).seq 1 ∧ (x.hodQ q).w = (s.dev.hodStart q).1 + up64 (bs.length - s.dev.filtCfg p f % 2 ^ 14) ∧ (x.hodQ q).opened = (s.dev.hodQ q).opened ∧
          (x.hodQ q).lostBefore = false ∧ x.rn (ethKey p 0x2C) = min (s.dev.rn (ethKey p 0x2C) + 1) 0xFFFFFFFF)) ∧
      (∀ o, s.dev.isPtp p bs = true → netField bs (ptpAt bs) 1 % 16 ≠ 1 → netField bs (ptpAt bs) 1 % 16 ≠ 2 → y = some o → s.dev.ptpSource = some p → s.AnswersSettled (exec (.ethFrameReceive p bs true full y) s) (fun x =>
        x.plb.offset = o ∧ (s.dev.plb.sync = .freeRun ∨ s.dev.plb.sync = .holdover → x.plb.sync = .acquiring) ∧
        (s.dev.plb.sync = .locked → x.plb.sync = if 10 * s.dev.rf PLB_LOCK_THRESHOLD 13 0 < o.natAbs then .acquiring else .locked) ∧
        (s.dev.plb.sync = .acquiring → x.plb.sync = if o.natAbs ≤ s.dev.rf PLB_LOCK_THRESHOLD 13 0 ∧ 15 ≤ s.dev.plb.good then .locked else .acquiring))) ∧
      (s.dev.isPtp p bs = true → netField bs (ptpAt bs) 1 % 16 = 2 → s.AnswersSettled (exec (.ethFrameReceive p bs true full y) s) (fun x => x.out = [.ptp p 4]))) ∧
    (∀ p, (s.dev.ethPort p).link = true → s.Answers (exec (.ethLinkDown p) s) (fun x => (x.ethPort p).link = false ∧ (x.ethPort p).hostTx = false ∧ (∀ q, q ≠ p → x.ethPort q = s.dev.ethPort q) ∧
      (s.dev.ptpSource = some p → s.dev.plb.sync = .locked → x.plb.sync = .holdover))) ∧
    (∀ p rate, p < 6 → (s.dev.ethPort p).link = false → s.dev.rbit (ethKey p 0x14) 31 = true → ethRateOk p rate = true → s.Answers (exec (.ethLinkUp p rate) s) (fun x =>
      x = d.setEth p { s.dev.ethPort p with link := true, rate := rate })) ∧
    (∀ w v p r, s.dev.serves .eth = true → p = s.dev.rf ETH_PORT_SEL 2 0 → p < 6 → (s.dev.ethPort p).hostTx = false → bitOf v.toNat 31 = true → r = ((s.dev.hostTxRange p).1, v.toNat % 2 ^ 14) →
      ((s.dev.ethPort p).link = true → 60 ≤ r.2 → r.2 ≤ 9216 → inDram s.dev.hw r.1 r.2 = true → s.Answers (exec (.hostFrameTx w v) s) (fun x => (x.ethPort p).hostTx = true ∧
        x.reg (ethKey p 0x58) = 0 ∧ x.reg (ethKey p 0x54) = v &&& 0x80003FFF ∧ x = { d with regs := x.regs, eth := x.eth })) ∧
      ((s.dev.ethPort p).link = false ∨ r.2 < 60 ∨ 9216 < r.2 ∨ inDram s.dev.hw r.1 r.2 = false → s.Answers (exec (.hostFrameTx w v) s) (fun x => x.reg (ethKey p 0x58) = 0x40000000 ∧
        x.reg (ethKey p 0x54) = v &&& 0x3FFF ∧ (x.ethPort p).hostTx = false))) ∧
    (∀ p r, (s.dev.ethPort p).hostTx = true → r = s.dev.hostTxRange p → s.dev.poisonedIn View.plain r.1 r.2 = none → s.dev.fencedIn r.1 r.2 = false → s.Answers (exec (.hostFrameSent p) s) (fun x =>
      x.out = [.eth p (s.dev.rd View.plain r.1 r.2)] ∧ x.reg (ethKey p 0x58) = 0x80000000 ∧ (x.ethPort p).hostTx = false ∧ x = { d with regs := x.regs, eth := x.eth, out := x.out })) ∧
    (∀ w v n, s.dev.serves .plb = true → n = s.dev.rn PLB_INCR_NS * 2 ^ 32 + v.toNat →
      (24975 * 2 ^ 32 ≤ 10000 * n → 10000 * n ≤ 25025 * 2 ^ 32 → s.Answers (exec (.plbIncrWrite w v) s) (fun x => x.reg PLB_INCR_FRAC = v ∧ x.plb = { s.dev.plb with incr := n } ∧
        x = { d with regs := x.regs, plb := x.plb })) ∧
      (10000 * n < 24975 * 2 ^ 32 ∨ 25025 * 2 ^ 32 < 10000 * n → s.Answers (exec (.plbIncrWrite w v) s) (fun x => x = d))) ∧
    (s.Answers (exec .plbTimeRead s) (fun x => x.out = [.reply (leBytes 4 (s.dev.plb.ns.toNat % 2 ^ 32))] ∧
      x = { d with out := x.out, plb := { s.dev.plb with latchHi := BitVec.ofNat 32 (s.dev.plb.ns.toNat / 2 ^ 32), latchFrac := s.dev.plb.frac } })) ∧
    (∀ w, s.dev.serves .plb = true → ∀ n, n = s.dev.rpair PLB_ADJ_LO PLB_ADJ_HI →
      (s.Answers (exec (.plbSet w) s) (fun x => x.plb.ns = BitVec.ofNat 64 n ∧ x.plb.frac = 0 ∧ x.plb.run = s.dev.plb.run ∧ x = { d with plb := x.plb, jfe := x.jfe })) ∧
      (s.Answers (exec (.plbAdd w) s) (fun x => x.plb.ns = s.dev.plb.ns + BitVec.ofNat 64 n ∧ x.plb.frac = s.dev.plb.frac ∧ x.plb.run = s.dev.plb.run ∧ x = { d with plb := x.plb, jfe := x.jfe })) ∧
      (s.Answers (exec (.plbSlew w) s) (fun x => x = { d with plb := { s.dev.plb with slew := some ((BitVec.ofNat 64 n).toInt * 4294967296) } }))) ∧
    (∀ w v, s.dev.serves .plb = true → s.dev.rbit (Block.plb.base + 0xC) 0 = false → s.Answers (exec (.plbSourceWrite w v) s) (fun x => x.reg PLB_CFG = v &&& 0x1F ∧ x.plb.sync = .freeRun ∧
      x.plb.ns = s.dev.plb.ns ∧ x.plb.incr = s.dev.plb.incr)) ∧
    (s.dev.plb.sync = .locked → s.Answers (exec .syncTimeout s) (fun x => x.plb.sync = .holdover ∧ x.plb.slew = none ∧
      (s.dev.plb.history ≠ [] → x.plb.incr = s.dev.plb.history.sum / s.dev.plb.history.length) ∧ x.plb.ns = s.dev.plb.ns)) ∧
    (s.dev.plb.sync = .holdover → s.dev.plb.syncSince + ticksMs (1000 * s.dev.rf PLB_HOLDOVER 11 0) ≤ s.dev.ticks → s.Answers (exec .holdoverExpiry s) (fun x =>
      x.plb.sync = .freeRun ∧ x.plb.incr = s.dev.plb.incr ∧ x.plb.ns = s.dev.plb.ns)) ∧
    (∀ p, p < 6 → s.dev.rbit (ethKey p 0x28) 31 = true → (s.dev.ethPort p).link = true → ∀ kind, (kind = 0 ∧ s.dev.ptpSource ≠ some p) ∨ (kind = 1 ∧ s.dev.ptpSource = some p) ∨ kind = 2 →
      s.Answers (exec (.ptpMessageInterval p kind) s) (fun x => x = { d with out := [.ptp p kind] })) ∧
    (s.dev.plb.slew = some 0 → s.Answers (exec .slewDone s) (fun x => x = { d with plb := { s.dev.plb with slew := none } })) ∧
    (∀ w i v, i < 16 → s.dev.serves .plb = true → s.dev.trigArmed i = false → bitOf v.toNat 31 = true → (d.setReg (PLB_TRIG_CTL i) (v &&& 0x7000FFFF)).trigOk i = true →
      s.dev.rpair (PLB_TRIG_START_LO i) (PLB_TRIG_START_HI i) ≥ s.dev.now → s.Answers (exec (.triggerArm w i v) s) (fun x => x.reg (PLB_TRIG_CTL i) = v &&& 0xF000FFFF ∧
        x.trig i = { next := some (s.dev.trigStart i), fired := 0, late := false, pulse := (s.dev.trig i).pulse, armed := s.dev.clock } ∧ x = { d with regs := x.regs, plb := x.plb })) ∧
    (∀ i t, i < 16 → (s.dev.trig i).next = some t → s.dev.trigArmed i = true → t ≤ s.dev.now → (s.Answers (exec (.triggerFire i) s) (fun x =>
      (x.trig i).next = (if s.dev.trigPeriodic i then some (t + s.dev.trigPeriod i) else none) ∧ (x.trig i).fired = min 0xFFFFFFFF ((s.dev.trig i).fired + 1) ∧
      (∀ p, p < 16 → s.dev.rbit (PLB_TRIG_CTL i) p = true → (s.dev.aphyPort p).link = true → (s.dev.trig i).armed + s.dev.rf (aphyKey p 0x28) 15 0 ≤ s.dev.ofPlumb t → .aphyTrigger p i ∈ x.out) ∧
      (s.dev.rbit (PLB_TRIG_CTL i) 28 = true → .pin i (!s.dev.rbit (PLB_TRIG_CTL i) 29) ∈ x.out ∧ (x.trig i).pulse = true) ∧
      x = { d with plb := x.plb, jfe := x.jfe, out := x.out }))) ∧
    (∀ i, (s.dev.trig i).pulse = true → s.Answers (exec (.triggerPulseEnd i) s) (fun x => x.out = [.pin i (s.dev.rbit (PLB_TRIG_CTL i) 29)] ∧ x.trig i = { s.dev.trig i with pulse := false } ∧
      x = { d with plb := x.plb, out := x.out })) ∧
    (∀ i rising, i < 8 → bitOf (s.dev.rn (PLB_CAP_CFG i)) 31 = true → bitOf (s.dev.rn (PLB_CAP_CFG i)) (if rising then 29 else 30) = true → bitOf (s.dev.rn (PLB_CAP_CFG i)) 28 = false →
      s.dev.rf PLB_CFG 3 0 ≠ 8 + i →
      ((s.dev.caps i).length < 16 → s.AnswersSettled (exec (.captureEdge i rising) s) (fun x => x.caps i = s.dev.caps i ++ [s.dev.now] ∧ (∀ j, j ≠ i → x.caps j = s.dev.caps j) ∧
        x = { d with plb := { s.dev.plb with caps := x.plb.caps } })) ∧
      (16 ≤ (s.dev.caps i).length → s.AnswersSettled (exec (.captureEdge i rising) s) (fun x => x.caps i = s.dev.caps i ∧ FMap.get false x.plb.capOver i = true ∧
        x = { d with plb := { s.dev.plb with capOver := x.plb.capOver }, jfe := x.jfe }))) ∧
    (∀ i, (∀ t q, s.dev.caps i = t :: q → s.Answers (exec (.capStampRead i) s) (fun x => x.out = [.reply (leBytes 4 (t % 2 ^ 32))] ∧ x.caps i = q ∧ FMap.get 0 x.plb.capHi i = t / 2 ^ 32 ∧
        x = { d with out := x.out, plb := { s.dev.plb with caps := x.plb.caps, capHi := x.plb.capHi } })) ∧
      (s.dev.caps i = [] → s.Answers (exec (.capStampRead i) s) (fun x => x = { d with out := [.reply [0, 0, 0, 0]] })))

/-! ### Output records and the Quoins (R401–R430) -/

/-- R376, R407–R415, R425, R428: a record that closes VALID and in order gets the pass of each Quoin that runs, and with both it is released with its
time; one that fails a check, waits too long for a verdict, or comes too late after the last, becomes INVALID with the reason of highest rank, and a
SAFETY stream enters FALLBACK. CAN messages leave first come, first out; a controller in bus-off loses its messages. -/
def Obligations.RecordResults : Prop :=
  ∀ (s : State),
    let d : Dev := { s.dev with out := [] }
    let invalid (x : Dev) (n : Nat) (c : StreamCfg) (r : Nat) : Prop := (x.stream n).check = none ∧ (c.safety = true → (x.stream n).fallback = true) ∧
      (c.safety = false → (x.stream n).lastReason = r ∧ x.mem = (d.wr View.plain c.record (leBytes 4 (2 * 2 ^ 28 + 2 ^ 24 + r * 65536 + 0 * 256))).mem ∧
        (x.stream n).fallback = (s.dev.stream n).fallback)
    (∀ n c k, s.dev.streamCfg n = some c → (s.dev.stream n).check = some k →
      (k.verdictA = none → k.verdictB = none → s.dev.qn.a.live = true ∨ s.dev.qn.b.live = true →
        (k.valid = true → s.dev.recordFaults c k = [] → s.AnswersSettled (exec (.recordClose n) s) (fun x =>
          x = d.setStream n { s.dev.stream n with lastAge := min 0xFFFF ((s.dev.now - k.oldest) / 10000), check := some { k with verdictA := if s.dev.qn.a.live then some 0 else none, verdictB := if s.dev.qn.b.live then some 0 else none } })) ∧
        (k.valid = false → s.AnswersSettled (exec (.recordClose n) s) (fun x => invalid x n c k.reason)) ∧
        (k.valid = true → s.dev.recordFaults c k ≠ [] → s.AnswersSettled (exec (.recordClose n) s) (fun x => ∃ r ∈ s.dev.recordFaults c k,
          (∀ t ∈ s.dev.recordFaults c k, reasonRank r ≤ reasonRank t) ∧ invalid x n c r))) ∧
      (k.verdictA = some 0 → k.verdictB = some 0 → s.AnswersSettled (exec (.recordRelease n) s) (fun x =>
        x.stream n = { s.dev.stream n with check := none, lastSeq := k.seq, lastValid := some s.dev.ticks, fallback := false } ∧ (∀ m, m ≠ n → x.stream m = s.dev.stream m) ∧
        x.mem = ((d.wr View.plain c.record (leBytes 4 (1 * 2 ^ 28 + 2 ^ 24 + 0 * 65536 + 0 * 256))).wr View.plain (c.record + 0x18) (leBytes 8 s.dev.now)).mem ∧
        (c.tx = false ∨ (s.dev.ethPort c.port).link = false → x.out = []) ∧ (∀ o ∈ x.out, ∃ bs, o = .eth c.port bs))) ∧
      (k.verdictA = none ∨ k.verdictB = none → k.since + ticksUs 100 ≤ s.dev.ticks → s.AnswersSettled (exec (.verdictTimeout n) s) (fun x => invalid x n c 0x0D))) ∧
    (∀ n c t, s.dev.streamCfg n = some c → c.safety = true → (s.dev.stream n).fallback = false → (s.dev.stream n).lastValid = some t → t + ticksUs (10 * c.relLimit) ≤ s.dev.ticks →
      (s.dev.qn.exitTick = none ∨ ∃ e, s.dev.qn.exitTick = some e ∧ e + ticksUs (10 * c.relLimit) ≤ s.dev.ticks) → s.AnswersSettled (exec (.releaseGap n) s) (fun x =>
        (x.stream n).fallback = true ∧ (x.stream n).reason = 0x82 ∧ (x.stream n).failedSeq = 0xFFFFFFFF)) ∧
    (∀ q c m rest, q < 2 → c < 2 → s.dev.canDriven q = false → (s.dev.quoin q).live = true → bitOf (s.dev.quoin q).busOff c = false →
      (if c = 0 then (s.dev.quoin q).canA else (s.dev.quoin q).canB) = m :: rest → s.Answers (exec (.canFrameSent q c) s) (fun x => x.out = [.can q c (s.dev.canBase q + m.off) m.bytes] ∧
        x = { d.setQuoin q (if c = 0 then { s.dev.quoin q with canA := rest } else { s.dev.quoin q with canB := rest }) with out := x.out })) ∧
    (∀ q, q < 2 → (s.dev.quoin q).live = true → (s.dev.quoin q).statusTick + ticksMs (10 * max 1 (s.dev.rf (QN_CAN_CFG q) 15 8)) ≤ s.dev.ticks → s.Answers (exec (.statusPeriod q) s) (fun x =>
      (x.quoin q).statusTick = s.dev.ticks ∧ FMap.get 0 (x.quoin q).counters 0 = (FMap.get 0 (s.dev.quoin q).counters 0 + 1) % 256 ∧
      (bitOf (s.dev.quoin q).busOff 0 = false → ∃ m pre post, (s.dev.quoin q).canA = pre ++ post ∧ (x.quoin q).canA = pre ++ [m] ++ post ∧ m.off = 0) ∧
      x.quoin (1 - q) = s.dev.quoin (1 - q) ∧ x = { d with qn := x.qn })) ∧
    (∀ q c, q < 2 → c < 2 → (s.dev.quoin q).live = true →
      (bitOf (s.dev.quoin q).busOff c = false → s.AnswersSettled (exec (.canBusOff q c true) s) (fun x => (x.quoin q).busOff = (s.dev.quoin q).busOff + 2 ^ c ∧
        (c = 0 → (x.quoin q).canA = [] ∧ (x.quoin q).canB = (s.dev.quoin q).canB ∧ (x.quoin q).canLost = min 255 ((s.dev.quoin q).canLost + (s.dev.quoin q).canA.length)) ∧
        (c = 1 → (x.quoin q).canB = [] ∧ (x.quoin q).canA = (s.dev.quoin q).canA ∧ (x.quoin q).canLost = min 255 ((s.dev.quoin q).canLost + (s.dev.quoin q).canB.length)))) ∧
      (bitOf (s.dev.quoin q).busOff c = true → s.AnswersSettled (exec (.canBusOff q c false) s) (fun x =>
        x = d.setQuoin q { s.dev.quoin q with busOff := (s.dev.quoin q).busOff - 2 ^ c })))

/-- R404–R406, R416–R418, R421, R422, R424, R429: a good heartbeat clears the misses of its die, one that is missing or bad counts, and at the limit a
Course die is fenced and the Keystone's loss is a safe state; a verdict frame brings the partner's fences and reasons; a partner's silence, a clock or
supply fault and FORCE_SAFE are safe states with their reasons; a Quoin that fails its own checks is FAILED. A stream table that passes its checks
waits for the partner's, and SAFE_EXIT for the frame boundary. -/
def Obligations.QuoinResults : Prop :=
  ∀ (s : State) (q : Nat), q < 2 → ((s.dev.quoin q).st = .run → (s.dev.quoin q).reasons = []) →
    let d : Dev := { s.dev with out := [] }
    let y := s.dev.quoin q
    let safe (x : Dev) (r : Nat) : Prop := (x.quoin q).st = .safe ∧ (∃ t ∈ (x.quoin q).reasons, reasonEff t = r) ∧ x.cores = s.dev.cores
    let lost (x : Dev) (n : Nat) : Prop := (n = 8 → safe x 3) ∧ (n ≠ 8 → x.fenced (unitNo n 5 0) = true ∧ FMap.get false (x.quoin q).fences (unitNo n 5 0) = true)
    (∀ n, s.dev.watched q n = true →
      (FMap.get 0 y.hbMiss n + 1 < s.dev.hbLimit q → s.AnswersSettled (exec (.heartbeatMiss q n) s) (fun x =>
        x = d.setQuoin q { y with hbMiss := FMap.set 0 y.hbMiss n (FMap.get 0 y.hbMiss n + 1) })) ∧
      (s.dev.hbLimit q ≤ FMap.get 0 y.hbMiss n + 1 → s.AnswersSettled (exec (.heartbeatMiss q n) s) (fun x => lost x n)) ∧
      (∀ f : W64, crc8 0 ((beBytes 8 f.toNat).take 7) ≠ (beBytes 8 f.toNat).getD 7 0 ∨ bitsOf f.toNat 63 56 ≠ n → FMap.get 0 y.hbMiss n + 1 < s.dev.hbLimit q →
        s.AnswersSettled (exec (.heartbeatFrame q n f) s) (fun x => x = d.setQuoin q { y with hbMiss := FMap.set 0 y.hbMiss n (FMap.get 0 y.hbMiss n + 1) })) ∧
      (∀ f : W64, crc8 0 ((beBytes 8 f.toNat).take 7) = (beBytes 8 f.toNat).getD 7 0 → bitsOf f.toNat 63 56 = n →
        (∀ e, FMap.get none y.hbNext n = some e → e = bitsOf f.toNat 55 48) →
        (bitOf f.toNat 40 = false → bitsOf f.toNat 39 8 = 0xFFFFFFFF → s.AnswersSettled (exec (.heartbeatFrame q n f) s) (fun x => FMap.get 0 (x.quoin q).hbMiss n = 0 ∧
          FMap.get none (x.quoin q).hbNext n = some ((bitsOf f.toNat 55 48 + 1) % 256) ∧ x = d.setQuoin q { y with hbMiss := (x.quoin q).hbMiss, hbNext := (x.quoin q).hbNext, aliveMiss := (x.quoin q).aliveMiss })) ∧
        (bitOf f.toNat 40 = true → s.AnswersSettled (exec (.heartbeatFrame q n f) s) (fun x => lost x n)))) ∧
    (y.live = true → (s.dev.quoin (1 - q)).live = true → s.AnswersSettled (exec (.verdictFrame q) s) (fun x => (x.quoin q).partnerOk = true ∧ (x.quoin q).partnerTick = s.dev.ticks ∧
      (∀ u, FMap.get false (s.dev.quoin (1 - q)).fences u = true → FMap.get false (x.quoin q).fences u = true) ∧
      ((s.dev.quoin (1 - q)).st = .safe → ∀ r ∈ (s.dev.quoin (1 - q)).reasons, ∃ t ∈ (x.quoin q).reasons, reasonEff t = reasonEff r))) ∧
    (y.live = true →
      (max y.partnerTick y.bootTick + ticksMs 1 ≤ s.dev.ticks → s.AnswersSettled (exec (.partnerLost q) s) (fun x => safe x 9 ∧ (x.quoin q).partnerOk = false)) ∧
      (∀ i ∈ ([.quoinLockstepError q, .quoinWatchdogExpiry q] : List Instr), s.AnswersSettled (exec i s) (fun x => (x.quoin q).st = .failed ∧ (x.quoin q).canA = [] ∧ (x.quoin q).canB = [] ∧
        0x0B ∈ (x.quoin q).reasons ∧ (x.quoin q).pending = none ∧ x.quoin (1 - q) = s.dev.quoin (1 - q) ∧ x = { d with qn := x.qn })) ∧
      (∀ n, n + 800 < 400000 ∨ 400800 < n → s.AnswersSettled (exec (.clockFault q n) s) (fun x => safe x 4)) ∧
      (s.dev.sec.boot.perst = true → s.AnswersSettled (exec (.supplyFault q) s) (fun x => safe x 5)) ∧
      (∀ w, s.dev.serves (.qn q) = true → s.AnswersSettled (exec (.forceSafe w q) s) (fun x => safe x 0x0D ∧ (x.quoin q).result = 0)) ∧
      (∀ w, s.dev.serves (.qn q) = true → (s.dev.exitOk q = true → s.AnswersSettled (exec (.safeExit w q) s) (fun x => x = d.setQuoin q { y with exitAsked := true, result := 1 })) ∧
        (s.dev.exitOk q = false → s.AnswersSettled (exec (.safeExit w q) s) (fun x => x = d.setQuoin q { y with result := 5 }))) ∧
      (∀ w a bs rows, s.dev.serves (.qn q) = true → a = s.dev.rf (QN_STREAM_TABLE_LO q) 31 6 * 64 + 2 ^ 32 * s.dev.rf (QN_STREAM_TABLE_HI q) 15 0 → bs = s.dev.rd View.plain a 2048 →
        rows = (List.range 64).map (fun i => (bs.drop (32 * i)).take 32) →
        (inMem s.dev.hw a 2048 = false ∨ s.dev.tableBad rows = true → s.AnswersSettled (exec (.loadStreams w q) s) (fun x => x = d.setQuoin q { y with result := 2 })) ∧
        (inMem s.dev.hw a 2048 = true → s.dev.tableBad rows = false → s.dev.rbit ((Block.qn q).base + 0xC) 0 = false → s.AnswersSettled (exec (.loadStreams w q) s) (fun x =>
          x = d.setQuoin q { y with pending := some { entries := rows.map parseStream, digest := sha256 bs }, result := 1 }))))

/-! ### Pavane, power, thermal and cooling (R431–R483, R536) -/

/-- R439–R452: a slice that is next and may start takes its unit out of service at the die's band; a pass dates its segment and is counted, a failure
adds the cell to the core's history, twice-failed units and engines are fenced; at the guard time it is abandoned without result. A unit not
passed in time is withdrawn; a change of band reaches the slices that run. The marginality log is exported signed, and taken over before the first
Quadrille, after its checks; without one, every place must pass in every throttle state. A lane is injected once at an armed couple. -/
def Obligations.PavaneResults : Prop :=
  ∀ (s : State),
    let d : Dev := { s.dev with out := [] }
    (∀ p n b x0, s.dev.hw.hasPlace p = true ∨ p = cairnPlace → s.dev.sliceReady p = true → s.dev.sliceFirst p = true → n = placeDie p → b = FMap.get (0, 0) s.dev.pav.cell n →
      x0 = s.dev.nextSlice p → s.AnswersSettled (exec (.sliceStart p) s) (fun x =>
        x.slice p = some { seg := x0.2.1, startNs := s.dev.clock, startTick := s.dev.ticks, tband := b.1, aband := b.2, throttle := x0.2.2.getD (s.dev.dieState n), atOnce := s.dev.sliceAtOnce p } ∧
        (∀ q, q ≠ p → x.slice q = s.dev.slice q) ∧ (isCluster p = true → ∀ g ∈ clusterCores p, (x.core g).st = .underTest) ∧
        (isEngine p = true → (x.eng n (p % 4)).underTest = true) ∧ x = { d with cores := x.cores, engs := x.engs, pav := x.pav })) ∧
    (∀ p n y, s.dev.hw.hasPlace p = true → n = placeDie p → p < 0x110 → s.dev.slice p = some y →
      (s.AnswersSettled (exec (.sliceComplete p [] []) s) (fun x => x.slice p = none ∧ (∀ u ∈ unitsAt p, FMap.get none x.pav.passes (8 * u + y.seg) = some y.startNs) ∧
        x.rn (PAV_SLICE_COUNT n) = min (s.dev.rn (PAV_SLICE_COUNT n) + 1) 0xFFFFFFFF ∧ x.pav.bands = s.dev.pav.bands ∧ x.mem = s.dev.mem)) ∧
      (∀ g ∈ clusterCores p, isCluster p = true → s.AnswersSettled (exec (.sliceComplete p [g] []) s) (fun x => x.slice p = none ∧
        x.rn (PAV_FAIL_COUNT n) = min (s.dev.rn (PAV_FAIL_COUNT n) + 1) 0xFFFFFFFF ∧ (x.bandsOf g).cells = (s.dev.bandsOf g).cells ||| 2 ^ (4 * y.tband + y.aband) ∧
        (x.bandsOf g).fails = min 0xFFFF ((s.dev.bandsOf g).fails + 1) ∧
        ((x.bandsOf g).outright = true ↔ (s.dev.bandsOf g).outright = true ∨ 2 ≤ popcount 32 ((s.dev.bandsOf g).cells ||| 2 ^ (4 * y.tband + y.aband))) ∧
        ((x.bandsOf g).outright = true → s.dev.qn.a.live = true → FMap.get false x.qn.a.fences (coreUnit g) = true))) ∧
      (isEngine p = true → s.AnswersSettled (exec (.sliceComplete p [0] []) s) (fun x => x.slice p = none ∧ FMap.get false x.pav.engFailed (p - 0x100) = true ∧
        (s.dev.qn.a.live = true → FMap.get false x.qn.a.fences (unitNo n 2 (p % 4)) = true))) ∧
      (y.atOnce = false → (∀ e ∈ s.dev.testFigures p, e ≤ s.dev.clock + 2000) → s.Answers (exec (.sliceAbandon p) s) (fun x => x.slice p = none ∧
        x.rn (PAV_ABANDON_COUNT n) = min (s.dev.rn (PAV_ABANDON_COUNT n) + 1) 0xFFFFFFFF ∧ x.pav.passes = s.dev.pav.passes ∧ x.pav.bands = s.dev.pav.bands ∧
        (isCluster p = true → ∀ g ∈ clusterCores p, (x.core g).st = .idle ∧ (x.core g).fresh = false) ∧ x = { d with cores := x.cores, engs := x.engs, pav := x.pav, regs := x.regs, jfe := x.jfe }))) ∧
    (∀ u, placeOn s.dev.hw (unitPlace u) = true → FMap.get true s.dev.pav.withdrawn u = false → (∀ t, s.dev.fullPass u = some t → 1000000 * s.dev.maxAge (unitDieOf u) < s.dev.clock - t) →
      s.Answers (exec (.coverageExpiry u) s) (fun x => FMap.get true x.pav.withdrawn u = true ∧ (∀ w, w ≠ u → FMap.get true x.pav.withdrawn w = FMap.get true s.dev.pav.withdrawn w) ∧
        x = { d with pav := { s.dev.pav with withdrawn := x.pav.withdrawn, toldFrame := x.pav.toldFrame }, jfe := x.jfe })) ∧
    (∀ n t a, s.dev.hw.hasDie n = true → t < 8 → a < 4 → FMap.get (0, 0) s.dev.pav.cell n ≠ (t, a) → s.AnswersSettled (exec (.bandChange n t a) s) (fun x =>
      FMap.get (0, 0) x.pav.cell n = (t, a) ∧ (∀ p, placeDie p ≠ n → x.slice p = s.dev.slice p) ∧
      (∀ p y, placeDie p = n → s.dev.slice p = some y → x.slice p = some { y with tband := max y.tband t, aband := max y.aband a }) ∧
      x = { d with pav := { s.dev.pav with cell := x.pav.cell, running := x.pav.running }, jfe := x.jfe, newFences := x.newFences })) ∧
    (∀ w, s.dev.serves (.pav 0) = true → s.dev.hw.hasDie 0 = true →
      (s.dev.logSize < s.dev.logBytes.length → s.AnswersSettled (exec (.export_ w) s) (fun x => x = { d with pav := { s.dev.pav with result := 1, entries := 0 } })) ∧
      (s.dev.logBytes.length ≤ s.dev.logSize → s.AnswersSettled (exec (.export_ w) s) (fun x => x.pav = { s.dev.pav with result := 0, entries := s.dev.pav.bands.length } ∧
        (inDram s.dev.hw s.dev.logBase s.dev.logBytes.length = true → x.mem = (d.wr View.plain s.dev.logBase s.dev.logBytes).mem))) ∧
      (s.dev.logLate = true → ∀ i ∈ ([.import_ w, .none_ w] : List Instr), s.AnswersSettled (exec i s) (fun x => x = { d with pav := { s.dev.pav with result := 5, entries := 0 } })) ∧
      (s.dev.logLate = false → ∀ rd, rd = (fun o n => if inDram s.dev.hw (s.dev.logBase + o) n then s.dev.rd View.plain (s.dev.logBase + o) n else List.replicate n 0) →
        (s.dev.logVerdict rd = 0 → s.AnswersSettled (exec (.import_ w) s) (fun x => x.pav.result = 0 ∧ x.pav.loaded = true ∧ x.pav.entries = fieldAt (rd 0 64) 6 2)) ∧
        (s.dev.logVerdict rd ≠ 0 → s.AnswersSettled (exec (.import_ w) s) (fun x => x.pav.result = s.dev.logVerdict rd ∧ x.pav.noLog = true ∧ x.pav.bands = s.dev.pav.bands))) ∧
      (s.dev.logLate = false → s.AnswersSettled (exec (.none_ w) s) (fun x => x.pav.result = 0 ∧ x.pav.noLog = true ∧
        (∀ p t g, p < 8 * s.dev.hw.dies → 1 ≤ t → t ≤ 4 → g < 5 → FMap.get false x.pav.multi (64 * p + 8 * t + g) = true) ∧
        x = { d with pav := { s.dev.pav with result := 0, entries := 0, noLog := true, multi := x.pav.multi } }))) ∧
    (∀ w n v i, s.dev.hw.hasDie n = true → s.dev.serves (.pav n) = true → s.dev.expertFor w = true → i = 512 * n + bitsOf v.toNat 12 4 → bitOf v.toNat 31 = true → v.toNat % 16 < 10 →
      s.dev.compared (2 * i) = true → s.AnswersSettled (exec (.inject w n v) s) (fun x => FMap.get none x.pav.inject i = some (v.toNat % 16) ∧
        (∀ j, j ≠ i → FMap.get none x.pav.inject j = FMap.get none s.dev.pav.inject j) ∧ x = { d with regs := x.regs, pav := { s.dev.pav with inject := x.pav.inject } }))

/-- R321, R322, R455–R462, R464–R480: a control step takes the powers in and moves the limit by at most its ramp; a faster state holds once its voltage is
confirmed; a domain comes up when its ramp ends. Standby takes every domain down and the stacks into self-refresh, and is refused under a Quadrille
or a context. Sensor samples in range are taken, coolant frames are scaled, one that is lost stops the flow: every die goes to T4 and the limit to
60 W. A rail that cannot be read three times counts at its maximum. -/
def Obligations.PowerResults : Prop :=
  ∀ (s : State),
    let d : Dev := { s.dev with out := [] }
    (∀ ps, s.AnswersSettled (exec (.powerControlStep ps) s) (fun x => (∀ n, n < s.dev.hw.dies → (x.diePower n).power = ps.getD n 0) ∧ (x.diePower 4).power = ps.getD s.dev.hw.dies 0 ∧
      x.pwr.package = (ps.take (s.dev.hw.dies + 1)).sum ∧ x.pwr.pLim = min x.pAllow (s.dev.pwr.pLim + s.dev.rf PWR_RAMP 3 0) ∧ x.cores = s.dev.cores)) ∧
    (∀ n t, s.dev.hw.hasDie n = true ∨ n = 4 → (s.dev.diePower n).raising = some t → s.Answers (exec (.throttleRaiseDone n) s) (fun x => (x.diePower n).state = t ∧ (x.diePower n).raising = none ∧
      (∀ m, m ≠ n → x.diePower m = s.dev.diePower m) ∧ x = { d with pwr := { s.dev.pwr with dies := x.pwr.dies }, jfe := x.jfe })) ∧
    (∀ k, s.dev.hw.hasDomain k = true → s.dev.pwr.ramping.contains k = true → s.dev.domainOn (if k < 40 then (if k % 10 = 9 then 40 else k / 10 * 10 + 9) else 40) = true →
      ((s.dev.pwr.ramping.filter (fun j => domainDie j == domainDie k)).take 2).contains k = true → s.AnswersSettled (exec (.domainPowerOn k) s) (fun x =>
        FMap.get false x.pwr.domains k = true ∧ (∀ j, j ≠ k → FMap.get false x.pwr.domains j = FMap.get false s.dev.pwr.domains j) ∧ x.pwr.ramping = s.dev.pwr.ramping.filter (fun j => j ≠ k))) ∧
    (∀ w, s.dev.serves .pwr = true →
      (s.dev.pwr.standby = false → s.dev.jfe.quad = none → s.dev.ctxList = [] → s.AnswersSettled (exec (.standbyEnter w) s) (fun x => x.pwr.standby = true ∧ x.pwr.ramping = [] ∧
        (∀ k, k < 10 * s.dev.hw.dies → FMap.get false x.pwr.domains k = false) ∧ (∀ t, t < 2 * s.dev.hw.dies → (x.stack t).selfRefresh = true ∧
          (x.stack t).down = 255 - s.dev.rf (SMC_PASR_KEEP (t / 2) (t % 2)) 7 0 ∧ ((s.dev.stack t).spare = .migrating → (x.stack t).spare = .inUse)))) ∧
      (s.dev.pwr.standby = false → s.dev.jfe.quad ≠ none ∨ s.dev.ctxList ≠ [] → s.AnswersSettled (exec (.standbyEnter w) s) (fun x => x = { d with jfe := x.jfe } ∧
        (s.dev.keystoneUp = true → ∃ e : Event, x.jfe.ev = s.dev.jfe.ev ++ [e] ∧ e.code = 0x0D09 ∧ e.arg0 = (if s.dev.jfe.quad = none then 2 else 1)))) ∧
      (s.dev.pwr.standby = true → s.AnswersSettled (exec (.standbyLeave w) s) (fun x => x.pwr.standby = false ∧ (∀ t, t < 2 * s.dev.hw.dies → (x.stack t).selfRefresh = false ∧
        (x.stack t).lost = (s.dev.stack t).down ∧ (x.stack t).down = 0)))) ∧
    (∀ n p c v, n < s.dev.hw.dies ∨ n = 4 → p < pairsOf n → c < 2 → -640 ≤ v → v ≤ 2400 →
      (∀ l, (s.dev.sensor n p c).last = some l → (v - l).natAbs * 400000000 ≤ 800 * (s.dev.ticks - (s.dev.sensor n p c).lastTick) + 16 * 400000000) →
      s.AnswersSettled (exec (.thermalSample [(n, p, c, v)]) s) (fun x => (x.sensor n p c).last = some v ∧ (x.sensor n p c).lastTick = s.dev.ticks ∧
        ((s.dev.sensor n p c).lost = false → (x.sensor n p c).lost = false ∧ (x.sensor n p c).run = 0) ∧
        ((s.dev.sensor n p c).lost = true → (x.sensor n p c).lost = decide ((s.dev.sensor n p c).run + 1 < 100)))) ∧
    (∀ i status raw, i < 3 → s.dev.rbit (THM_SENT_CFG i) 31 = true →
      (status % 4 = 0 → raw ≠ 0 → raw ≤ 4088 → s.AnswersSettled (exec (.sentFrame i status raw true true) s) (fun x =>
        x.sent i = { value := s.dev.sentValue i raw, valid := true, lost := false, lastTick := s.dev.ticks } ∧ (∀ j, j ≠ i → x.sent j = s.dev.sent j))) ∧
      (∀ c t, c = false ∨ t = false ∨ status % 4 ≠ 0 ∨ raw = 0 ∨ 4088 < raw → s.AnswersSettled (exec (.sentFrame i status raw c t) s) (fun x =>
        x.rn THM_SENT_ERR_COUNT = min (s.dev.rn THM_SENT_ERR_COUNT + 1) 0xFFFFFFFF ∧ (∀ r, r ≠ THM_SENT_ERR_COUNT → x.reg r = s.dev.reg r) ∧ x = { d with regs := x.regs })) ∧
      ((s.dev.sent i).lost = false → (s.dev.sent i).lastTick + ticksMs 3 ≤ s.dev.ticks → s.dev.pwr.flowStop = false → s.AnswersSettled (exec (.sentInputLost i) s) (fun x =>
        x.sent i = { s.dev.sent i with valid := false, lost := true } ∧ x.pwr.flowStop = true ∧ (∀ n ∈ powerDies s.dev.hw, 4 ≤ (x.diePower n).state) ∧ x.pwr.pLim ≤ 42000))) ∧
    (∀ b r k, b < 2 → r < 5 → (b = 0 → r < 4 → r < s.dev.hw.dies) → k = 8 * b + r →
      (∀ c, s.AnswersSettled (exec (.avsRead b r (some c)) s) (fun x => FMap.get 0 x.pwr.railCur k = c ∧ FMap.get 0 x.pwr.railFails k = 0 ∧ (∀ j, j ≠ k → FMap.get 0 x.pwr.railCur j = FMap.get 0 s.dev.pwr.railCur j) ∧
        x = { d with pwr := { s.dev.pwr with railFails := x.pwr.railFails, railCur := x.pwr.railCur } })) ∧
      (FMap.get 0 s.dev.pwr.railFails k ≠ 2 → s.AnswersSettled (exec (.avsRead b r none) s) (fun x => FMap.get 0 x.pwr.railFails k = FMap.get 0 s.dev.pwr.railFails k + 1 ∧
        x = { d with pwr := { s.dev.pwr with railFails := x.pwr.railFails } })) ∧
      (FMap.get 0 s.dev.pwr.railFails k = 2 → s.AnswersSettled (exec (.avsRead b r none) s) (fun x => FMap.get 0 x.pwr.railCur k = Dev.avsReadFx.railMax s.dev.hw k ∧
        (s.dev.keystoneUp = true → ∃ e : Event, x.jfe.ev = s.dev.jfe.ev ++ [e] ∧ e.code = 0x0D0B))))

/-! ### Nguldoel and start-up (R484–R508, R541, R542) -/

/-- R484–R493, R498–R504, R541, R542: the commands of NGD_CMD with their results; an alarm is latched and answered as the fuses say; an unlock answers a
fresh challenge within 60 s, and the third failure locks out; a Quoin boots in SAFE with STARTUP; the main rails empty the memory, and start-up ends at
READY or at an error stage. What an image or a signature says is computed from the bytes; the challenge's bytes are open (log entry 9). -/
def Obligations.SecurityResults : Prop :=
  ∀ (s : State),
    let d : Dev := { s.dev with out := [] }
    let done (r n : Nat) : Dev := { d with sec := { s.dev.sec with result := r, outSize := n } }
    let buf : Nat → List Byte := fun n => s.dev.rd View.plain s.dev.argBase n
    (∀ w, s.dev.serves .ngd = true →
      (s.dev.sec.keys = false → ∀ i ∈ ([.quote w, .getCerts w] : List Instr), s.AnswersSettled (exec i s) (fun x => x = done 1 0)) ∧
      (s.dev.sec.keys = true → s.dev.argOk = false → ∀ i ∈ ([.quote w, .getCerts w] : List Instr), s.AnswersSettled (exec i s) (fun x => x = done 2 0)) ∧
      (s.dev.sec.keys = true → s.dev.argOk = true → ∀ i bs, (i, bs) ∈ ([(.quote w, s.dev.quoteBody (buf 32) ++ s.dev.sign 1 (sha256 (s.dev.quoteBody (buf 32)))),
          (.getCerts w, (List.range 3).flatMap (fun k => leBytes 4 (Config.certificate s.dev.sec.identity k).length ++ Config.certificate s.dev.sec.identity k))] : List (Instr × List Byte)) →
        (s.dev.argSize < bs.length → s.AnswersSettled (exec i s) (fun x => x = done 5 0)) ∧
        (bs.length ≤ s.dev.argSize → s.AnswersSettled (exec i s) (fun x => x.sec = (done 0 bs.length).sec ∧ x.mem = (d.wr View.plain s.dev.argBase bs).mem))) ∧
      (∀ p rd, p = s.dev.rf NGD_ARG_PARAM 2 0 → 1 ≤ p → p ≤ 3 → s.dev.argOk = true → rd = (fun n => if n ≤ s.dev.argSize then s.dev.rd View.plain s.dev.argBase n else List.replicate n 0) →
        (imageCheck s.dev.sec.fuses p s.dev.argSize rd ≠ 0 → s.AnswersSettled (exec (.flashWrite w) s) (fun x =>
          x = done (imageResult (imageCheck s.dev.sec.fuses p s.dev.argSize rd)) 0)) ∧
        (imageCheck s.dev.sec.fuses p s.dev.argSize rd = 0 → s.AnswersSettled (exec (.flashWrite w) s) (fun x => x.sec.result = 0 ∧ x.mem = s.dev.mem ∧ ∀ b, b = slotBase p
            (if p = 3 then 0 else if bitOf s.dev.sec.boot.slots (p - 1) then 0 else 1) → x.sec.flash = (d.flashProgram b (slotSize p) (rd (imageSize (rd 0x80)))).sec.flash ∧
          x = { d with sec := { s.dev.sec with flash := x.sec.flash, result := 0, outSize := 0 }, jfe := x.jfe }))) ∧
      (s.AnswersSettled (exec (.svnCommit w) s) (fun x => x.sec.fuses = { s.dev.sec.fuses with minSvnS1 := max s.dev.sec.fuses.minSvnS1 s.dev.sec.stage1.svn, minSvnMain := max s.dev.sec.fuses.minSvnMain s.dev.sec.main.svn, minKey := max s.dev.sec.fuses.minKey (min s.dev.sec.stage1.key s.dev.sec.main.key), minSvnQuoin := max s.dev.sec.fuses.minSvnQuoin (min s.dev.sec.quoinA.svn s.dev.sec.quoinB.svn) } ∧ x.sec.result = 0 ∧ x.mem = s.dev.mem)) ∧
      (s.AnswersSettled (exec (.debugChallenge w) s) (fun x => ∃ bs, x.sec.challenge = some (bs, s.dev.ticks) ∧ bs.length = 32 ∧
        (∀ j, j < 8 → x.rn (NGD_DEBUG_CHALLENGE j) = fieldAt bs (4 * j) 4) ∧ x.sec = { s.dev.sec with challenge := some (bs, s.dev.ticks), result := 0, outSize := 0 })) ∧
      (s.dev.sec.lockedOut = true → s.AnswersSettled (exec (.debugResponse w) s) (fun x => x = done 8 0)) ∧
      (s.dev.sec.lockedOut = false → s.dev.argOk = true → 132 ≤ s.dev.argSize → ∀ bs, bs = buf 132 →
        (s.dev.sec.challenge = none ∨ (∃ c t, s.dev.sec.challenge = some (c, t) ∧ t + ticksMs 60000 < s.dev.ticks) → s.AnswersSettled (exec (.debugResponse w) s) (fun x =>
          x.sec.failures = s.dev.sec.failures + 1 ∧ x.sec.result = 1 ∧ x.sec.debug = s.dev.sec.debug ∧ x.sec.challenge = none ∧
          (s.dev.sec.failures = 2 → x.sec.lockedOut = true ∧ x.rbit NGD_ALARM_LATCHED 4 = true))) ∧
        (∀ c t, s.dev.sec.challenge = some (c, t) → s.dev.ticks ≤ t + ticksMs 60000 → s.dev.sec.fuses.debugKeyHash.all (· == 0) = false →
          sha256 ((bs.drop 4).take 64) = s.dev.sec.fuses.debugKeyHash → ecdsaVerify ((bs.drop 4).take 64) (sha256 (c ++ s.dev.deviceId ++ leBytes 1 1)) ((bs.drop 68).take 64) = true →
          fieldAt bs 0 1 = 1 → zeroAt bs 1 3 = true → s.AnswersSettled (exec (.debugResponse w) s) (fun x => x.sec.debug = max s.dev.sec.debug 1 ∧ x.sec.challenge = none ∧ x.sec.result = 0 ∧
            x.sec.failures = s.dev.sec.failures ∧ x.mem = s.dev.mem))) ∧
      (((s.dev.qn.a.st ≠ .safe ∨ s.dev.qn.b.st ≠ .safe) → s.AnswersSettled (exec (.quoinUpdate w) s) (fun x => x = done 7 0)) ∧
        (∀ rd, rd = (fun n => s.dev.flashRd (slotBase 3 0) n) → s.dev.qn.a.st = .safe → s.dev.qn.b.st = .safe → (reasonEff s.dev.qn.a.reason = 1 ∨ reasonEff s.dev.qn.a.reason = 0x0D) →
          (reasonEff s.dev.qn.b.reason = 1 ∨ reasonEff s.dev.qn.b.reason = 0x0D) → imageCheck s.dev.sec.fuses 3 (slotSize 3) rd = 0 → s.AnswersSettled (exec (.quoinUpdate w) s) (fun x =>
            x = { d with sec := { s.dev.sec with result := 0, outSize := 0, quoinNextA := some (runImage rd), quoinNextB := some (runImage rd) } }))) ∧
      ((s.dev.lifecycle ≠ 0 → s.AnswersSettled (exec (.provision w) s) (fun x => x = done 1 0)) ∧
        (∀ bs, bs = buf 256 → s.dev.lifecycle = 0 → s.dev.argOk = true → 256 ≤ s.dev.argSize → fieldAt bs 0 1 = 1 → zeroAt bs 1 15 = true → fieldAt bs 0xB0 2 < 4096 → zeroAt bs 0xB2 78 = true →
          s.AnswersSettled (exec (.provision w) s) (fun x => x = { d with sec := { s.dev.sec with result := 0, outSize := 0, fuses := { s.dev.sec.fuses with provisioned := true, modelKeys := [(bs.drop 0x10).take 64, (bs.drop 0x50).take 64], debugKeyHash := (bs.drop 0x90).take 32, alarmResponse := fieldAt bs 0xB0 2 } } }))) ∧
      (∀ k a b, k = s.dev.rn NGD_ARG_PARAM % 2 → a = s.dev.sec.fuses.modelKeys.getD k [] → b = s.dev.sec.fuses.modelKeys.getD (1 - k) [] →
        (a.all (· == 0) = true ∨ bitOf s.dev.sec.fuses.revoked k = true → s.AnswersSettled (exec (.revokeModelKey w) s) (fun x => x = done 2 0)) ∧
        (a.all (· == 0) = false → bitOf s.dev.sec.fuses.revoked k = false → s.dev.argOk = true → 64 ≤ s.dev.argSize → b.all (· == 0) = false → bitOf s.dev.sec.fuses.revoked (1 - k) = false →
          s.AnswersSettled (exec (.revokeModelKey w) s) (fun x => if ecdsaVerify b (sha256 (s.dev.deviceId ++ leBytes 1 k)) (buf 64) = true
            then x = { d with sec := { s.dev.sec with result := 0, outSize := 0, fuses := { s.dev.sec.fuses with revoked := s.dev.sec.fuses.revoked ||| 2 ^ k } } } else x = done 3 0)))) ∧
    (∀ a i, a < 6 → i = .securityAlarm a ∨ (a = 5 ∧ s.dev.sec.fusesRead = true ∧ i = .fuseReread true) → s.AnswersSettled (exec i s) (fun x => x.rbit NGD_ALARM_LATCHED a = true ∧
      x.sec.alarms = min 0xFFFFFFFF (s.dev.sec.alarms + 1) ∧ (s.dev.sec.fusesRead = false → a ∈ x.sec.early ∧ x.mem = s.dev.mem) ∧
      (s.dev.sec.fusesRead = true → x.sec.action = max s.dev.sec.action (s.dev.alarmResponse a + 1) ∧
        (1 ≤ s.dev.alarmResponse a → ∀ q, q < 2 → (s.dev.quoin q).live = true → ∃ r ∈ (x.quoin q).reasons, reasonEff r = 8) ∧
        (s.dev.alarmResponse a = 2 → x.sec.zeroized = true ∧ (s.dev.sec.zeroized = false → x.sec.keys = false ∧ x.sec.modelKeys = []))))) ∧
    (s.AnswersSettled (exec (.fuseReread false) s) (fun x => x = d)) ∧
    (∀ ok, s.dev.sec.boot.rails = false → s.AnswersSettled (exec (.quoinRailsValid ok) s) (fun x => ∀ q, q < 2 → (x.quoin q).powered = true ∧ ((s.dev.quoin q).powered = true → x.quoin q = s.dev.quoin q) ∧
      ((s.dev.quoin q).powered = false → (x.quoin q).st = (if ok.getD q false then .safe else .boot) ∧ (x.quoin q).reasons = [1] ∧ (x.quoin q).bootTick = s.dev.ticks))) ∧
    (∀ q, q < 2 → (s.dev.quoin q).powered = true → s.AnswersSettled (exec (.quoinRailLoss q) s) (fun x => (x.quoin q).powered = false ∧ x.sec.boot.stage = 0 ∧ x.ctxList = [] ∧ x.cores = [] ∧
      x.sec.fuses = s.dev.sec.fuses ∧ x.sec.flash = s.dev.sec.flash ∧ ((s.dev.quoin (1 - q)).live = true → ∀ r ∈ [3, 9], ∃ t ∈ (x.quoin (1 - q)).reasons, reasonEff t = r))) ∧
    (∀ o b, s.AnswersSettled (exec (.mainRailsValid o b) s) (fun x => x.sec.boot.rails = true ∧ x.sec.fuses.provisioned = s.dev.sec.fuses.provisioned ∧
      (o = false ∨ s.dev.sec.boot.perst = false → x.sec.boot.stage = 0 ∧ x.ctxList = [] ∧ x.cores = []) ∧
      (o = true → s.dev.sec.boot.perst = true → s.dev.qn.a.live = true → s.dev.qn.b.live = true → x.sec.boot.stage ∈ [0x80, 0xE1, 0xE2, 0xE3, 0xE4])))

/-! ### Test access, the debugger, the online test and Gauge (R509–R530) -/

/-- R509–R518: each die of the chain takes its instruction; one that drives balls is refused while PERST# is deasserted, or at a Quoin that is not SAFE.
A core that the level reaches is halted and resumed, its registers and local store written while it is halted; a request at a core out of reach
changes none. FULL reads and writes memory; a scan dump stops the die's clocks. A halted core steps one instruction and is halted again. -/
def Obligations.TestAccessResults : Prop :=
  ∀ (s : State),
    let d : Dev := { s.dev with out := [] }
    (s.Answers (exec .testReset s) (fun x => x = { d with dbg := { s.dev.dbg with tap := [] } })) ∧
    (∀ n, n ∈ chainDies s.dev.hw → ((s.dev.tap n).bypassed = false →
        (∀ i c, (i, c) ∈ ([(.bypass n, 0xFF), (.samplePreload n, 2)] : List (Instr × Nat)) → s.Answers (exec i s) (fun x => x = d.setTap n { instr := c, refused := false, bypassed := false })) ∧
        (s.Answers (exec (.idcode n) s) (fun x => x.tap n = { instr := 1, refused := false, bypassed := false } ∧ x.out = [.reply (leBytes 4 (idcodeOf s.dev.hw n))] ∧
          x = { d with dbg := x.dbg, out := x.out })) ∧
        (∀ i c, (i, c) ∈ ([(.extest n, 3), (.clamp n, 4), (.highz n, 5)] : List (Instr × Nat)) →
          (s.dev.sec.boot.perst = false → (n < 12 ∨ (s.dev.quoin (n - 12)).st = .safe) → s.Answers (exec i s) (fun x => x = d.setTap n { instr := c, refused := false, bypassed := false })) ∧
          (s.dev.sec.boot.perst = true ∨ (12 ≤ n ∧ (s.dev.quoin (n - 12)).st ≠ .safe) → s.Answers (exec i s) (fun x => x.tap n = { instr := 2, refused := true, bypassed := false } ∧
            (s.dev.keystoneUp = true → ∃ e : Event, x.jfe.ev = s.dev.jfe.ev ++ [e] ∧ e.code = 0x0F04) ∧ x = { d with dbg := x.dbg, jfe := x.jfe }))) ∧
        (s.AnswersSettled (exec (.ijtag n .select) s) (fun x => x = d.setTap n { instr := 0x10, refused := false, bypassed := false }))) ∧
      (s.Answers (exec (.dieBypass n) s) (fun x => x = d.setTap n { instr := 0xFE, refused := false, bypassed := true })) ∧
      ((s.dev.tap n).bypassed = true → s.Answers (exec (.bypass n) s) (fun x => x = d.setTap n { instr := 0xFF, refused := false, bypassed := false }) ∧
        s.Answers (exec (.samplePreload n) s) (fun x => x = d)) ∧
      (s.dev.sec.debug = 2 → n < 12 → (n < 4 ∧ s.dev.dieFenced n = true) ∨ s.dev.sec.boot.perst = false → s.Answers (exec (.scanDump n) s) (fun x =>
        FMap.get false x.pwr.scanned n = true ∧ x = { d with pwr := { s.dev.pwr with scanned := x.pwr.scanned } }))) ∧
    (∀ g, s.dev.hw.hasCore g = true → s.dev.sec.debug ≠ 0 → s.dev.isFollow g = false → s.dev.debugReach g = true →
      ((s.dev.core g).halted = false → (s.dev.core g).st = .running ∨ (s.dev.core g).st = .idle → s.Answers (exec (.halt g) s) (fun x => x.core g = { s.dev.core g with halted := true } ∧
        FMap.get 0 x.dbg.cause g = 1 ∧ (s.dev.isJoined g = true → (x.core (g + 1)).halted = true) ∧ x = { d with cores := x.cores, dbg := x.dbg, rate := x.rate, jfe := x.jfe })) ∧
      (s.AnswersSettled (exec (.resume g) s) (fun x => x.core g = { s.dev.core g with halted := false } ∧ FMap.get 0 x.dbg.cause g = 0 ∧ x = { d with cores := x.cores, dbg := x.dbg })) ∧
      (∀ c, (s.dev.core g).ctx = some c → (s.Answers (exec (.haltContext g) s) (fun x => (∀ k ∈ s.dev.leadsOn c, (s.dev.core k).st = .running → (x.core k).halted = true ∧
          (x.core k).regs = (s.dev.core k).regs ∧ (x.core k).pc = (s.dev.core k).pc) ∧ x = { d with cores := x.cores, dbg := x.dbg, rate := x.rate, jfe := x.jfe })) ∧
        (s.AnswersSettled (exec (.resumeContext g) s) (fun x => (∀ k ∈ s.dev.leadsOn c, (x.core k).halted = false) ∧ x = { d with cores := x.cores, dbg := x.dbg }))) ∧
      ((s.dev.core g).halted = true → (∀ spec row v, s.Answers (exec (.debugRegWrite g spec row v) s) (fun x => s.dev.Put g
          { s.dev.core g with regs := (s.dev.core g).regs.debugPut spec row.toNat v } x ∧ x = { d with cores := x.cores, dbg := x.dbg })) ∧
        (∀ (a : BitVec 18) (v : W64), s.Answers (exec (.debugLsWrite g a v) s) (fun x => (x.core g).lsRead (a.toNat / 8 * 8) 8 = leBytes 8 v.toNat ∧
          (∀ j, j < a.toNat / 8 * 8 ∨ a.toNat / 8 * 8 + 8 ≤ j → (x.core g).lsRead j 1 = (s.dev.core g).lsRead j 1) ∧ (x.core g).regs = (s.dev.core g).regs ∧
          x = { d with cores := x.cores, dbg := x.dbg, gau := x.gau })))) ∧
    (∀ g, s.dev.hw.hasCore g = true → (s.dev.sec.debug = 0 ∨ s.dev.isFollow g = true ∨ s.dev.debugReach g = false) → ∀ i, i ∈ ([.halt g, .haltContext g] : List Instr) ∨
      (∃ spec row v, i = .debugRegWrite g spec row v) ∨ (∃ a v, i = .debugLsWrite g a v) → s.Answers (exec i s) (fun x => x = { d with dbg := x.dbg } ∧ x.dbg.tap = s.dev.dbg.tap)) ∧
    (∀ a n bs, oneRequest a n = true → s.dev.sec.debug = 2 → s.dev.sec.boot.stage = 0x80 → bs.length = n → s.AnswersSettled (exec (.memoryAccess true a n bs) s) (fun x => x = d.busWrite a bs) ∧
      s.AnswersSettled (exec (.memoryAccess false a n bs) s) (fun x => x = d.busRead a n [])) ∧
    (∀ u f, s.dev.hw.hasCore u.core = true → s.dev.stepOk u.core = true → decodeSedun u (s.dev.wordAt u.core) = some (.nop u f) → (s.dev.core u.core).st = .running →
      (∀ e : Dev, e = ({ s.dev with out := [] } : Dev).debugDo u.core true (fun x => x.stepOpen u.core) → e.Clean u) → ∃ t, exec (.step u) s = .next t ∧ (t.dev.core u.core).pc = (s.dev.core u.core).pc + 8 ∧
        (t.dev.core u.core).halted = true ∧ (t.dev.core u.core).regs = (s.dev.core u.core).regs ∧ t.pending = s.pending ∧ t.dev.mem = s.dev.mem)

/-- R519–R529: a unit that is allowed is isolated, tested and released; a failing one is fenced. The counters' mode changes only while no dump is on, and
zeroes them; a snapshot is written with its SEQ, or skipped and counted where the ring is off or full; the selected counter is answered, its upper
half latched. What counts by timing is open (log entry 60). -/
def Obligations.OnlineTestAndGaugeResults : Prop :=
  ∀ (s : State),
    let d : Dev := { s.dev with out := [] }
    (∀ w u, s.dev.serves .key = true → s.dev.expertFor w = true → u = s.dev.otSel →
      ((s.dev.ot u).st ≠ .underTest → s.dev.otAllowed u = true → s.AnswersSettled (exec (.isolate w) s) (fun x => x.ot u = { st := .isolated, released := false, result := 0, detail := 0 } ∧
        (∀ v, v ≠ u → x.ot v = s.dev.ot v) ∧ x = { d with dbg := { s.dev.dbg with ot := x.dbg.ot }, cores := x.cores, engs := x.engs, jfe := x.jfe })) ∧
      ((s.dev.ot u).st ≠ .underTest → s.dev.otAllowed u = false → s.AnswersSettled (exec (.isolate w) s) (fun x => x = d.setOt u { s.dev.ot u with result := 3 })) ∧
      ((s.dev.ot u).st = .isolated → s.AnswersSettled (exec (.test w) s) (fun x => x.ot u = { s.dev.ot u with st := .underTest, released := false } ∧ (∀ v, v ≠ u → x.ot v = s.dev.ot v))) ∧
      ((s.dev.ot u).st = .inService → s.AnswersSettled (exec (.test w) s) (fun x => x = d.setOt u { s.dev.ot u with result := 3 })) ∧
      ((s.dev.ot u).st = .isolated → (s.dev.ot u).released = false → s.AnswersSettled (exec (.release w) s) (fun x => (x.ot u).result = (s.dev.ot u).result ∧
        (unitKind u = 1 → (if s.dev.clusterFenced (unitDie u) (unitNum u) = true then x.ot u = { s.dev.ot u with st := .isolated, released := true }
          else x.ot u = { s.dev.ot u with st := .inService, released := false })) ∧ (∀ v, v ≠ u → x.ot v = s.dev.ot v)))) ∧
    (∀ n k j det u, u = unitNo n k j → (s.dev.ot u).st = .underTest →
      (s.AnswersSettled (exec (.onlineTestDone n k j true det) s) (fun x => x.ot u = { s.dev.ot u with st := .isolated, result := 1, detail := 0 } ∧ x.fences = s.dev.fences ∧
        x = { d with dbg := { s.dev.dbg with ot := x.dbg.ot }, jfe := x.jfe })) ∧
      (s.AnswersSettled (exec (.onlineTestDone n k j false det) s) (fun x => x.ot u = { s.dev.ot u with st := .isolated, result := 2, detail := det % 65536 } ∧
        (s.dev.qn.a.live = true → FMap.get false x.qn.a.fences u = true)))) ∧
    (∀ w v, s.dev.serves .gau = true →
      (s.dev.dumpOn = false → s.Answers (exec (.gauModeWrite w v) s) (fun x => x.rn GAU_CFG = v.toNat % 4 ∧ (∀ r, r ≠ GAU_CFG → x.reg r = s.dev.reg r) ∧
        x = { d with regs := x.regs, gau := if v.toNat % 2 = s.dev.rn GAU_CFG % 2 then s.dev.gau else { s.dev.gau with core := [], blk := [], wrapped := [] } })) ∧
      (s.dev.dumpOn = true → s.Answers (exec (.gauModeWrite w v) s) (fun x => x.rn GAU_CFG = s.dev.rn GAU_CFG % 2 + 2 * bitsOf v.toNat 1 1 ∧ x = { d with regs := x.regs })) ∧
      (s.dev.dumpOn = false → s.Answers (exec (.snapshot w) s) (fun x => x.gau.skipped = min 0xFFFFFFFF (s.dev.gau.skipped + 1) ∧ x.gau.seq = s.dev.gau.seq ∧
        x = { d with gau := x.gau, rate := x.rate, jfe := x.jfe })) ∧
      (s.dev.dumpOn = true → sub32 (s.dev.gau.seq + 1).toNat (s.dev.rn GAU_DUMP_CONSUMED) ≤ 2 ^ s.dev.rf GAU_DUMP_CFG 3 0 → s.Answers (exec (.snapshot w) s) (fun x =>
        x.gau.seq = s.dev.gau.seq + 1 ∧ x.gau.skippedNow = 0 ∧ x.gau.wrapped = [] ∧ x.gau.skipped = s.dev.gau.skipped ∧ x.regs = s.dev.regs)) ∧
      (s.dev.dumpOn = true → bitOf v.toNat 31 = false → s.Answers (exec (.dumpEnable w v) s) (fun x => x.reg GAU_DUMP_CFG = s.dev.reg GAU_DUMP_CFG &&& 0x7FFFFFFF ∧ x = { d with regs := x.regs })) ∧
      (s.dev.dumpOn = false → bitOf v.toNat 31 = true → bitOf v.toNat 30 = false → 2 ≤ v.toNat % 16 → v.toNat % 16 ≤ 10 → s.dev.snapBytes ≤ bitsOf v.toNat 19 8 * 4096 →
        s.Answers (exec (.dumpEnable w v) s) (fun x => x.reg GAU_DUMP_CFG = v &&& 0xC00FFF0F ∧ x.gau = { s.dev.gau with seq := 0xFFFFFFFF } ∧ x = { d with regs := x.regs, gau := x.gau })) ∧
      (s.dev.dumpOn = false → bitOf v.toNat 31 = true → v.toNat % 16 < 2 ∨ 10 < v.toNat % 16 → s.Answers (exec (.dumpEnable w v) s) (fun x => x.reg GAU_DUMP_CFG = v &&& 0x400FFF0F ∧
        x = { d with regs := x.regs, jfe := x.jfe } ∧ (s.dev.keystoneUp = true → ∃ e : Event, x.jfe.ev = s.dev.jfe.ev ++ [e] ∧ e.code = 0x1002)))) ∧
    (∀ p, p = s.dev.rf GAU_SNAP_PERIOD 9 0 → p ≠ 0 → s.dev.now / (1000 * p) ≠ s.dev.gau.lastSnapNs / (1000 * p) → s.Answers (exec .snapshotPeriod s) (fun x => x.gau.lastSnapNs = s.dev.now ∧
      (s.dev.dumpOn = false → x.gau.skipped = min 0xFFFFFFFF (s.dev.gau.skipped + 1)) ∧
      (s.dev.dumpOn = true → sub32 (s.dev.gau.seq + 1).toNat (s.dev.rn GAU_DUMP_CONSUMED) ≤ 2 ^ s.dev.rf GAU_DUMP_CFG 3 0 → x.gau.seq = s.dev.gau.seq + 1))) ∧
    (s.Answers (exec .gauRead s) (fun x => (∃ n, x.out = [.reply (leBytes 4 (n % 2 ^ 32))] ∧ x.gau.readHi = BitVec.ofNat 32 (n / 2 ^ 32)) ∧ x.regs = s.dev.regs ∧
      (∀ b, s.dev.rbit GAU_CFG 0 = true → s.dev.blkSel = some b → blkTimed b (FMap.get 0 s.dev.gau.blkEvt (16 * b.id + bitsOf (s.dev.rn GAU_READ_SEL) 19 16)) = false →
        x.out = [.reply (leBytes 4 (FMap.get 0 s.dev.gau.blk (16 * b.id + bitsOf (s.dev.rn GAU_READ_SEL) 19 16) % 2 ^ 32))])))

/-- R88, R89, R91, R92: words written out from the spec's encodings, the two of its example among them, stand for their instructions; a word whose
class bits do not agree with its opcode, or whose opcode names nothing, stands for none (R129). -/
def Obligations.DecodedWords : Prop :=
  ∀ u : Issue,
    decodeSedun u 0x0100603FE0000064 = some (.add u { d := 0x03, a := 0x01, b := 0xFF, sub := 0, imm := 0x64 }) ∧
    decodeSedun u 0x704A425240000000 = some (.mma u { t := 1, va := 0x48, vb := 0x4A, eta := 4, etb := 8, z := false, row := 0, rsv := 0 }) ∧
    decodeSedun u 0x0000000000000000 = some (.nop u { d := 0, a := 0, b := 0, sub := 0, imm := 0 }) ∧
    decodeSedun u 0x1C00000000000000 = some (.pcnt u { d := 0, a := 0, b := 0, sub := 0, imm := 0 }) ∧
    decodeSedun u 0x1D00000000000000 = none ∧ decodeSedun u 0x0120603FE0000064 = none ∧ decodeSedun u 0xFFFFFFFFFFFFFFFF = none ∧
    (∀ w : W64, 5 < (w.extractLsb' 53 3).toNat → decodeSedun u w = none)

/-- From every state a step answers a next state, or stops because the part lacks the unit that the command names (log entry 8): nothing is refused.
The step takes at most the command in front of the queue, and hardware that is legal (R23, R547) stays as it is. -/
def Obligations.EveryStepAnswers : Prop :=
  ∀ s : State, (∃ t, step s = .next t ∧ t.pending = s.pending.tail ∧ t.dev.hw = s.dev.hw ∧ (s.dev.hw.legal = true → t.dev.hw.legal = true)) ∨
    (s.pending ≠ [] ∧ step s = .fault .absentUnit)

/-- R196–R199: a write of confirmed memory is what the next read gives, whoever reads; one under an epoch is seen by those who declare the epoch,
while all others read what stood there before; every other byte keeps its value, and memory its canonical form. -/
def Obligations.MemoryReadsBack : Prop :=
  ∀ (d : Dev) (v w : View) (a : Nat) (bs : List Byte), d.tags = [] → d.mirrors = [] →
    (v.write = none → (d.wr v a bs).rd w a bs.length = bs) ∧
    (∀ e, v.write = some e → d.jfe.squash = [] → a % 64 + bs.length ≤ 64 →
      (d.wr v a bs).rd w a bs.length = if w.sees.contains e then bs else d.rd w a bs.length) ∧
    (∀ b, (b < a ∨ a + bs.length ≤ b) → (v.write = none ∨ (d.jfe.squash = [] ∧ a % 64 + bs.length ≤ 64)) → (d.wr v a bs).rd w b 1 = d.rd w b 1) ∧
    (d.memWf = true → (d.wr v a bs).memWf = true)

/-- R5: an aligned offset that holds no register reads as 0x0000_0000, and a write there is discarded. -/
def Obligations.EmptyOffsetResults : Prop :=
  ∀ (s : State) (w : Writer) (off : Nat) (v : W32), off % 4 = 0 →
    (∀ b : Block, blockAt s.dev.hw off = some b → 16 ≤ off - b.base ∧ findReg b.regs (off - b.base) = none ∧
      (b = .host → off - b.base < 0x4000 ∨ 0x4400 ≤ off - b.base)) →
    s.dev.readReg off = (0, s.dev) ∧
    (settles s.dev.hw off = false → s.Answers (exec (.registerWrite w off v) s) (fun e => e = { s.dev with out := [] })) ∧
    (settles s.dev.hw off = true → s.AnswersSettled (exec (.registerWrite w off v) s) (fun e => e = { s.dev with out := [] }))

/-- Right after reset (R5, R10, R385, R503): no command waits, no byte of memory is listed and the memories have their canonical form; every register
shows its reset value; Plumb time is 0, its increment nominal and its sync state FREE_RUN; the start-up stage is 0x00, so that no block serves and no
event is recorded; no context, partition, model, epoch, record, ticket or semaphore is in use. The part is an AMV-C4 of stepping B0 (the model's choice,
log entry 3). -/
def Obligations.ResetValues : Prop :=
  let d : Dev := State.reset.dev
  State.reset.pending = [] ∧ d.mem = [] ∧ d.hostMem = [] ∧ d.memWf = true ∧ d.hw.legal = true ∧ d.hw.dies = 4 ∧
  (∀ off, d.reg off = resetVal d.hw off) ∧
  d.reg KEY_FEATURE_DISABLED = resetVal d.hw KEY_FEATURE_DISABLED ∧ d.plb.ns = 0 ∧ d.plb.frac = 0 ∧ 2 * d.plb.incr = 5 * 2 ^ 32 ∧ d.plb.sync = .freeRun ∧
  d.sec.boot.stage = 0 ∧ d.keystoneUp = false ∧ (∀ b : Block, d.serves b = false) ∧
  (∀ b c sv x y, d.emit b c sv x y = d) ∧
  (∀ c, (d.ctx c).state = .free) ∧ (∀ g, (d.core g).regs.wf = true ∧ (d.core g).ctx = none) ∧
  (∀ k, (d.sem k).holder = none) ∧ d.jfe.accepted = [] ∧ d.jfe.cq = [] ∧ d.jfe.ev = []
end

