-- ==== Sys2Proof/Laws/Maps.lean ====
section
/-! SUPPORT. Laws of the finite maps: a read after a write, and that every operation keeps the canonical form. -/
namespace Sys2Proof.Machine

variable {α : Type}

/-- Nothing stands below the bound of a canonical map. -/
theorem FMap.wfFrom_mono [DecidableEq α] {d : α} {lo lo' : Nat} (h : lo ≤ lo') :
    ∀ {m : FMap α}, FMap.wfFrom d lo' m = true → FMap.wfFrom d lo m = true
  | [], _ => rfl
  | (j, x) :: m, hw => by
    simp only [FMap.wfFrom, Bool.and_eq_true, decide_eq_true_eq] at hw ⊢
    exact ⟨⟨Nat.le_trans h hw.1.1, hw.1.2⟩, hw.2⟩

/-- Removing a key leaves the others. -/
theorem FMap.get_erase_ne (d : α) {k j : Nat} (h : j ≠ k) :
    ∀ m : FMap α, FMap.get d (FMap.erase m k) j = FMap.get d m j
  | [] => rfl
  | (i, x) :: m => by
    simp only [FMap.erase]
    split
    · next e => subst e; simp only [FMap.get, if_neg (Ne.symm h), FMap.get_erase_ne d h m]
    · simp only [FMap.get, FMap.get_erase_ne d h m]

/-- A removed key reads the unlisted value. -/
theorem FMap.get_erase_self (d : α) (k : Nat) : ∀ m : FMap α, FMap.get d (FMap.erase m k) k = d
  | [] => rfl
  | (i, x) :: m => by
    simp only [FMap.erase]
    split
    · exact FMap.get_erase_self d k m
    · next e => simp only [FMap.get, if_neg e, FMap.get_erase_self d k m]

/-- An inserted key reads what was inserted. -/
theorem FMap.get_insert_self (d : α) (k : Nat) (v : α) :
    ∀ m : FMap α, FMap.get d (FMap.insert m k v) k = v
  | [] => by simp [FMap.insert, FMap.get]
  | (i, x) :: m => by
    simp only [FMap.insert]
    split
    · simp [FMap.get]
    · next e =>
      split
      · simp [FMap.get]
      · simp only [FMap.get, if_neg e, FMap.get_insert_self d k v m]

/-- Inserting a key leaves the others. -/
theorem FMap.get_insert_ne (d : α) {k j : Nat} (v : α) (h : j ≠ k) :
    ∀ m : FMap α, FMap.get d (FMap.insert m k v) j = FMap.get d m j
  | [] => by simp [FMap.insert, FMap.get, Ne.symm h]
  | (i, x) :: m => by
    simp only [FMap.insert]
    split
    · next e => subst e; simp only [FMap.get, if_neg (Ne.symm h)]
    · split
      · simp only [FMap.get, if_neg (Ne.symm h)]
      · simp only [FMap.get, FMap.get_insert_ne d v h m]

/-- Writing a key leaves the others. -/
theorem FMap.get_set_ne [DecidableEq α] (d : α) (m : FMap α) {k j : Nat} (v : α) (h : j ≠ k) :
    FMap.get d (FMap.set d m k v) j = FMap.get d m j := by
  unfold FMap.set
  split
  · exact FMap.get_erase_ne d h m
  · exact FMap.get_insert_ne d v h m

/-- A value that is not the unlisted one is read back from any map. -/
theorem FMap.get_set_of_ne [DecidableEq α] (d : α) (m : FMap α) (k : Nat) {v : α} (h : v ≠ d) :
    FMap.get d (FMap.set d m k v) k = v := by
  simp only [FMap.set, if_neg h, FMap.get_insert_self]

/-- Every value is read back. -/
theorem FMap.get_set_self [DecidableEq α] (d : α) (m : FMap α) (k : Nat) (v : α) : FMap.get d (FMap.set d m k v) k = v := by
  unfold FMap.set
  split
  · next e => rw [FMap.get_erase_self, e]
  · exact FMap.get_insert_self d k v m

theorem FMap.wfFrom_erase [DecidableEq α] {d : α} (k : Nat) :
    ∀ {lo : Nat} {m : FMap α}, FMap.wfFrom d lo m = true → FMap.wfFrom d lo (FMap.erase m k) = true
  | _, [], _ => rfl
  | lo, (i, x) :: m, hw => by
    simp only [FMap.wfFrom, Bool.and_eq_true, decide_eq_true_eq] at hw
    simp only [FMap.erase]
    split
    · exact FMap.wfFrom_mono (by omega) (FMap.wfFrom_erase k hw.2)
    · simp only [FMap.wfFrom, Bool.and_eq_true, decide_eq_true_eq]
      exact ⟨hw.1, FMap.wfFrom_erase k hw.2⟩

theorem FMap.wfFrom_insert [DecidableEq α] {d v : α} (hv : v ≠ d) (k : Nat) :
    ∀ {lo : Nat} {m : FMap α}, lo ≤ k → FMap.wfFrom d lo m = true → FMap.wfFrom d lo (FMap.insert m k v) = true
  | lo, [], hk, _ => by simp [FMap.insert, FMap.wfFrom, hk, hv]
  | lo, (i, x) :: m, hk, hw => by
    have hw' := hw
    simp only [FMap.wfFrom, Bool.and_eq_true, decide_eq_true_eq] at hw
    simp only [FMap.insert]
    split
    · next e =>
      subst e
      simp only [FMap.wfFrom, Bool.and_eq_true, decide_eq_true_eq]
      exact ⟨⟨hk, hv⟩, hw.2⟩
    · next e =>
      split
      · next l =>
        simp only [FMap.wfFrom, Bool.and_eq_true, decide_eq_true_eq]
        exact ⟨⟨hk, hv⟩, ⟨by omega, hw.1.2⟩, hw.2⟩
      · next l =>
        simp only [FMap.wfFrom, Bool.and_eq_true, decide_eq_true_eq]
        exact ⟨hw.1, FMap.wfFrom_insert hv k (by omega) hw.2⟩

/-- A write keeps the canonical form. -/
theorem FMap.wf_set [DecidableEq α] {d : α} {m : FMap α} (hw : FMap.wf d m = true) (k : Nat) (v : α) :
    FMap.wf d (FMap.set d m k v) = true := by
  unfold FMap.set
  split
  · exact FMap.wfFrom_erase k hw
  · next h => exact FMap.wfFrom_insert h k (Nat.zero_le k) hw

theorem FMap.wf_modify [DecidableEq α] {d : α} {m : FMap α} (hw : FMap.wf d m = true) (k : Nat) (f : α → α) :
    FMap.wf d (FMap.modify d m k f) = true := FMap.wf_set hw k _

/-- Writing a run of keys keeps the canonical form. -/
theorem FMap.wf_setMany [DecidableEq α] {d : α} :
    ∀ (vs : List α) {m : FMap α} (k : Nat), FMap.wf d m = true → FMap.wf d (FMap.setMany d m k vs) = true
  | [], _, _, hw => hw
  | v :: vs, _, k, hw => FMap.wf_setMany vs (k + 1) (FMap.wf_set hw k v)

/-- Writing a run of keys leaves the keys outside it. -/
theorem FMap.get_setMany_outside [DecidableEq α] (d : α) :
    ∀ (vs : List α) (m : FMap α) (k j : Nat), (j < k ∨ k + vs.length ≤ j) → FMap.get d (FMap.setMany d m k vs) j = FMap.get d m j
  | [], _, _, _, _ => rfl
  | v :: vs, m, k, j, h => by
    simp only [List.length_cons] at h
    rw [FMap.setMany, FMap.get_setMany_outside d vs _ (k + 1) j (by omega), FMap.get_set_ne d m v (by omega)]

theorem FMap.wfFrom_keep [DecidableEq α] {d : α} (p : Nat → α → Bool) :
    ∀ {lo : Nat} {m : FMap α}, FMap.wfFrom d lo m = true → FMap.wfFrom d lo (FMap.keep p m) = true
  | _, [], _ => rfl
  | lo, (i, x) :: m, hw => by
    simp only [FMap.wfFrom, Bool.and_eq_true, decide_eq_true_eq] at hw
    simp only [FMap.keep, List.filter_cons]
    split
    · simp only [FMap.wfFrom, Bool.and_eq_true, decide_eq_true_eq]
      exact ⟨hw.1, FMap.wfFrom_keep p hw.2⟩
    · exact FMap.wfFrom_mono (by omega) (FMap.wfFrom_keep p hw.2)

theorem FMap.wfFrom_mapAll [DecidableEq α] {d : α} (f : Nat → α → α) :
    ∀ {lo : Nat} {m : FMap α}, FMap.wfFrom d lo m = true → FMap.wfFrom d lo (FMap.mapAll d f m) = true
  | _, [], _ => rfl
  | lo, (i, x) :: m, hw => by
    simp only [FMap.wfFrom, Bool.and_eq_true, decide_eq_true_eq] at hw
    simp only [FMap.mapAll]
    split
    · exact FMap.wfFrom_mono (by omega) (FMap.wfFrom_mapAll f hw.2)
    · next h =>
      simp only [FMap.wfFrom, Bool.and_eq_true, decide_eq_true_eq]
      exact ⟨⟨hw.1.1, h⟩, FMap.wfFrom_mapAll f hw.2⟩

end Sys2Proof.Machine
end

