-- ==== Sys2Proof/Laws/Issue.lean ====
section
/-! SUPPORT. What issuing a Sedun instruction can do: counting, writing a core back, and the retirement of an instruction that works on
registers. -/
namespace Sys2Proof.Machine

/-! ### Counting touches the Gauge block alone -/

theorem Dev.addGauge_gau (d : Dev) (g j n : Nat) : d.addGauge g j n = { d with gau := (d.addGauge g j n).gau } := rfl

/-- A fold of steps that touch Gauge alone touches Gauge alone. -/
theorem foldl_gau {β : Type} (f : Dev → β → Dev) (h : ∀ d b, f d b = { d with gau := (f d b).gau }) :
    ∀ (l : List β) (d : Dev), l.foldl f d = { d with gau := (l.foldl f d).gau }
  | [], _ => rfl
  | b :: l, d => by
    have e := foldl_gau f h l (f d b)
    rw [h d b] at e
    simp only [List.foldl_cons]
    rw [h d b]
    exact e

theorem Dev.count1_gau (d : Dev) (g code n : Nat) : d.count1 g code n = { d with gau := (d.count1 g code n).gau } := by
  unfold Dev.count1
  split
  · rfl
  · refine foldl_gau _ (fun e i => ?_) _ _
    split
    · exact Dev.addGauge_gau e g (i + 1) n
    · rfl

theorem Dev.count_gau (d : Dev) (g code n : Nat) : d.count g code n = { d with gau := (d.count g code n).gau } := by
  unfold Dev.count
  dsimp only
  split
  · rw [Dev.count1_gau (d.count1 g code n), Dev.count1_gau d g code n]
  · exact Dev.count1_gau d g code n

@[simp] theorem Dev.count_core (d : Dev) (g code n h : Nat) : (d.count g code n).core h = d.core h := by rw [Dev.count_gau]; rfl
@[simp] theorem Dev.count_isJoined (d : Dev) (g code n h : Nat) : (d.count g code n).isJoined h = d.isJoined h := by rw [Dev.count_gau]; rfl
@[simp] theorem Dev.count_fetchOk (d : Dev) (g code n h : Nat) : (d.count g code n).fetchOk h = d.fetchOk h := by rw [Dev.count_gau]; rfl
@[simp] theorem Dev.count_compared (d : Dev) (g code n h : Nat) : (d.count g code n).compared h = d.compared h := by rw [Dev.count_gau]; rfl
@[simp] theorem Dev.count_lanesOf (d : Dev) (g code n h x : Nat) (o : Bool) : (d.count g code n).lanesOf h x o = d.lanesOf h x o := by
  rw [Dev.count_gau]; rfl

/-! ### Cores -/

theorem Dev.core_setCore_ne (d : Dev) {g h : Nat} (c : Core) (n : h ≠ g) : (d.setCore g c).core h = d.core h :=
  FMap.get_set_ne _ _ _ n
/-- A core that is not as at reset is read back. -/
theorem Dev.core_setCore (d : Dev) (g : Nat) {c : Core} (n : c ≠ Core.off) : (d.setCore g c).core g = c :=
  FMap.get_set_of_ne _ _ _ n

/-- A core that does something is not as at reset. -/
theorem Core.ne_off {c : Core} (h : c.st = .running) : c ≠ Core.off := by
  intro e; rw [e] at h; exact absurd h (by decide)

theorem Dev.putCore_cores (d : Dev) (g : Nat) (c : Core) : d.putCore g c = { d with cores := (d.putCore g c).cores } := by
  unfold Dev.putCore Dev.follow
  split <;> rfl

theorem Dev.putCore_gau (d : Dev) (g : Nat) (c : Core) (ga gb : Gauge) :
    Dev.putCore { d with gau := gb } g c = { Dev.putCore { d with gau := ga } g c with gau := gb } := by
  unfold Dev.putCore Dev.follow
  split
  · next j => exact (if_pos (c := (Dev.isJoined d g && g % 2 == 0) = true) j).symm ▸ rfl
  · next j => exact (if_neg (c := (Dev.isJoined d g && g % 2 == 0) = true) j).symm ▸ rfl

theorem Dev.core_putCore (d : Dev) (g : Nat) {c : Core} (h : c.st = .running) : (d.putCore g c).core g = c := by
  unfold Dev.putCore Dev.follow
  split
  · rw [Dev.core_setCore_ne _ _ (by omega), Dev.core_setCore _ _ (Core.ne_off h)]
  · exact Dev.core_setCore _ _ (Core.ne_off h)

theorem Dev.core_putCore_ne (d : Dev) {g h : Nat} (c : Core) (n : h ≠ g) (m : ¬ (d.isJoined g = true ∧ h = g + 1)) :
    (d.putCore g c).core h = d.core h := by
  unfold Dev.putCore Dev.follow
  split
  · next j =>
    have j' : d.isJoined g = true := by
      simp only [Bool.and_eq_true] at j
      exact j.1
    rw [Dev.core_setCore_ne _ _ (fun e => m ⟨j', e⟩), Dev.core_setCore_ne _ _ n]
  · exact Dev.core_setCore_ne _ _ n

theorem Dev.core_putCore_follow (d : Dev) {g : Nat} {c : Core} (h : c.st = .running) (j : d.isJoined g = true) (e : g % 2 = 0) :
    ((d.putCore g c).core (g + 1)).regs = c.regs ∧ ((d.putCore g c).core (g + 1)).pc = c.pc := by
  have j' : (d.setCore g c).isJoined g = true := j
  have cg : (d.setCore g c).core g = c := Dev.core_setCore _ _ (Core.ne_off h)
  unfold Dev.putCore Dev.follow
  rw [if_pos (by rw [j', e]; rfl)]
  dsimp only
  rw [cg, Dev.core_setCore _ _ (Core.ne_off (c := { c with dma := [], borrow := [], tickets := [], ceTicks := _ }) h)]
  exact ⟨rfl, rfl⟩

/-- With no breakpoint a core comes to its next instruction and nothing happens. -/
theorem Dev.arrive_none (d : Dev) (g : Nat) (h : ∀ b ∈ (FMap.get Points.none d.dbg.points g).bp, b = none) : d.arrive g = d := by
  have e : (FMap.get Points.none d.dbg.points g).bp.any (fun b => b == some (d.core g).pc.toNat) = false := by
    rw [List.any_eq_false]
    intro b m
    rw [h b m]
    simp
  unfold Dev.arrive
  dsimp only
  rw [e, Bool.and_false]
  rfl

/-! ### Retirement -/

theorem Dev.Clean.running {d : Dev} {u : Issue} (h : d.Clean u) : (d.core u.core).st = .running := by
  have c := h.can
  simp only [Dev.canIssue, Bool.and_eq_true, beq_iff_eq] at c
  exact c.1.1.1.1.1
theorem Dev.Clean.lead {d : Dev} {u : Issue} (h : d.Clean u) (j : d.isJoined u.core = true) : u.core % 2 = 0 := by
  have c := h.can
  simp only [Dev.canIssue, Bool.and_eq_true, Bool.not_eq_true', Dev.isFollow, j, Bool.and_true] at c
  have : (u.core % 2 == 1) = false := c.1.1.2
  simp only [beq_eq_false_iff_ne] at this
  omega

/-- The device that an instruction's own effect starts from: two Gauge events counted. -/
def Dev.counted (d : Dev) (g : Nat) (v : Bool) : Dev := (d.count g 0x01 1).count g 0x04 (if v then 1 else 0)
theorem Dev.counted_gau (d : Dev) (g : Nat) (v : Bool) : d.counted g v = { d with gau := (d.counted g v).gau } := by
  unfold Dev.counted
  rw [Dev.count_gau (d.count g 0x01 1), Dev.count_gau d]

/-- A clean issue whose checks pass has its own effect and nothing else. -/
theorem Dev.Clean.issueEnd {d : Dev} {u : Issue} (h : d.Clean u) (v : Bool) {op : Dev → Nat → Except SedunFault Effect} {x : Effect}
    (k : op (d.counted u.core v) u.core = .ok x) : d.issueEnd u v op = (true, x.2) := by
  have l : (d.compared u.core && (d.lanesOf u.core u.diff.toNat x.1).1 != 0) = false := by
    cases e : d.compared u.core
    · rfl
    · obtain ⟨z, i⟩ := h.agree e
      simp [Dev.lanesOf, i, z]
  obtain ⟨o, y⟩ := x
  have n : ∀ e : Dev, e.noteStorage u.core u.err = e := fun e => by rw [h.err]; rfl
  unfold Dev.issueEnd
  simp only [h.can, Bool.not_true, Bool.false_eq_true, if_false, h.err, fatalErr, Dev.noteStorage, Dev.count_fetchOk, h.fetch, if_true,
    Dev.count_lanesOf, Dev.count_compared]
  unfold Dev.counted at k
  simp only [k]
  simp only at l
  rw [if_neg (by rw [Bool.and_eq_true]; intro c; rw [c.1] at l; exact absurd l (by decide))]

/-- A clean issue whose checks fail raises the fault. -/
theorem Dev.Clean.issueEnd_error {d : Dev} {u : Issue} (h : d.Clean u) (v : Bool) {op : Dev → Nat → Except SedunFault Effect} {f : SedunFault}
    (k : op (d.counted u.core v) u.core = .error f) : d.issueEnd u v op = (false, (d.counted u.core v).coreFault u.core f) := by
  have l : (d.compared u.core && (d.lanesOf u.core u.diff.toNat true).1 != 0) = false := by
    cases e : d.compared u.core
    · rfl
    · obtain ⟨z, i⟩ := h.agree e
      simp [Dev.lanesOf, i, z]
  unfold Dev.issueEnd
  simp only [h.can, Bool.not_true, Bool.false_eq_true, if_false, h.err, fatalErr, Dev.noteStorage, Dev.count_fetchOk, h.fetch, if_true,
    Dev.count_lanesOf, Dev.count_compared]
  unfold Dev.counted at k
  simp only [k]
  rw [if_neg (by rw [Bool.and_eq_true]; intro c; rw [c.1] at l; exact absurd l (by decide))]
  rfl

/-- Clearing the outputs leaves an issue clean. -/
theorem Dev.Clean.fresh {d : Dev} {u : Issue} (h : d.Clean u) : d.fresh.Clean u :=
  ⟨h.core, h.can, h.fetch, h.err, h.agree, h.points⟩

theorem Dev.advance_eq (d : Dev) (g : Nat) (f : Core → Core) (h : ∀ b ∈ (FMap.get Points.none d.dbg.points g).bp, b = none) :
    d.advance g f = d.putCore g { f (d.core g) with pc := (f (d.core g)).pc + 8 } := by
  unfold Dev.advance
  dsimp only
  rw [Dev.arrive_none]
  rw [Dev.putCore_cores]
  exact h

/-- A core's registers and PC put back make a retired state. -/
theorem State.retired_putCore {s : State} {u : Issue} (h : s.dev.Clean u) (r : Regs) (pc : BitVec 48) (gau : Gauge) :
    s.Retired u.core r pc
      { s with dev := (Dev.putCore { s.dev with out := [], gau := gau } u.core { s.dev.core u.core with regs := r, pc := pc }).keepHw s.dev.hw } where
  core := Dev.core_putCore { s.dev with out := [], gau := gau } u.core h.running
  follow := fun j => Dev.core_putCore_follow { s.dev with out := [], gau := gau } h.running j (h.lead j)
  others := fun _ n m => Dev.core_putCore_ne { s.dev with out := [], gau := gau } _ n m
  rest := by rw [Dev.putCore_cores]; rfl

/-- An instruction whose effect, whatever the Gauge counters, is a new register state and a new PC. -/
theorem State.retires_of {s : State} {u : Issue} (h : s.dev.Clean u) (v : Bool) {op : Dev → Nat → Except SedunFault Effect}
    (r : Regs) (pc : BitVec 48)
    (k : ∀ ga, ∃ o gb, op { s.dev with out := [], gau := ga } u.core =
      .ok (o, Dev.putCore { s.dev with out := [], gau := gb } u.core { s.dev.core u.core with regs := r, pc := pc })) :
    ∃ t, s.runIf (s.dev.hw.hasCore u.core) (fun d => d.issueReg u v op) = .next t ∧ s.Retired u.core r pc t := by
  obtain ⟨o, gb, e⟩ := k (s.dev.fresh.counted u.core v).gau
  refine ⟨_, ?_, State.retired_putCore h r pc gb⟩
  unfold State.runIf State.run Dev.issueReg
  rw [if_pos h.core]
  dsimp only
  rw [h.fresh.issueEnd v (x := (o, _)) (by rw [Dev.counted_gau]; exact e)]
  rfl

/-- What `regOp` answers where its operation succeeds. -/
theorem regOp_ok {d : Dev} {g : Nat} {op : Regs → Except SedunFault Regs} {r : Regs}
    (b : ∀ x ∈ (FMap.get Points.none d.dbg.points g).bp, x = none) (k : op { (d.core g).regs with flags := 0 } = .ok r) :
    ∃ gb, regOp op d g = .ok (false, Dev.putCore { d with gau := gb } g
      { d.core g with regs := { r with flags := (d.core g).regs.flags ||| r.flags }, pc := (d.core g).pc + 8 }) := by
  obtain ⟨ga, e⟩ : ∃ ga, d.count g 0x0E (if r.flags = 0 then 0 else 1) = { d with gau := ga } := ⟨_, Dev.count_gau d g _ _⟩
  refine ⟨ga, ?_⟩
  unfold regOp
  simp only [k, e]
  rw [Dev.advance_eq { d with gau := ga } _ _ b]
  rfl

/-- The same where a Gauge event is counted. -/
theorem countedOp_ok {d : Dev} {g : Nat} {code : Nat} {n : Regs → Nat} {op : Regs → Except SedunFault Regs} {r : Regs}
    (b : ∀ x ∈ (FMap.get Points.none d.dbg.points g).bp, x = none) (k : op { (d.core g).regs with flags := 0 } = .ok r) :
    ∃ gb, countedOp code n op d g = .ok (false, Dev.putCore { d with gau := gb } g
      { d.core g with regs := { r with flags := (d.core g).regs.flags ||| r.flags }, pc := (d.core g).pc + 8 }) := by
  obtain ⟨ga, e⟩ := regOp_ok b k
  unfold countedOp
  rw [e]
  dsimp only
  rw [Dev.count_gau]
  refine ⟨_, congrArg _ (congrArg _ (Dev.putCore_gau d g _ ga _).symm)⟩

/-- An instruction on registers retires with what its operation answers, its flags joined to the sticky ones (R77). -/
theorem State.issue_regOp {s : State} {u : Issue} (h : s.dev.Clean u) {op : Regs → Except SedunFault Regs} {r : Regs}
    (k : op { s.regsOf u with flags := 0 } = .ok r) :
    s.Retires u { r with flags := (s.regsOf u).flags ||| r.flags } (s.issue u (regOp op)) :=
  State.retires_of h false _ _ (fun ga => ⟨false, regOp_ok (d := { s.dev with out := [], gau := ga }) h.points k⟩)

theorem State.issueV_regOp {s : State} {u : Issue} (h : s.dev.Clean u) {op : Regs → Except SedunFault Regs} {r : Regs}
    (k : op { s.regsOf u with flags := 0 } = .ok r) :
    s.Retires u { r with flags := (s.regsOf u).flags ||| r.flags } (s.issueV u (regOp op)) :=
  State.retires_of h true _ _ (fun ga => ⟨false, regOp_ok (d := { s.dev with out := [], gau := ga }) h.points k⟩)

theorem State.issueV_countedOp {s : State} {u : Issue} (h : s.dev.Clean u) {op : Regs → Except SedunFault Regs} {r : Regs} (code : Nat)
    (n : Regs → Nat) (k : op { s.regsOf u with flags := 0 } = .ok r) :
    s.Retires u { r with flags := (s.regsOf u).flags ||| r.flags } (s.issueV u (countedOp code n op)) :=
  State.retires_of h true _ _ (fun ga => ⟨false, countedOp_ok (d := { s.dev with out := [], gau := ga }) h.points k⟩)

theorem State.issue_countedOp {s : State} {u : Issue} (h : s.dev.Clean u) {op : Regs → Except SedunFault Regs} {r : Regs} (code : Nat)
    (n : Regs → Nat) (k : op { s.regsOf u with flags := 0 } = .ok r) :
    s.Retires u { r with flags := (s.regsOf u).flags ||| r.flags } (s.issue u (countedOp code n op)) :=
  State.retires_of h false _ _ (fun ga => ⟨false, countedOp_ok (d := { s.dev with out := [], gau := ga }) h.points k⟩)

end Sys2Proof.Machine
end

