-- ==== Sys2Proof/Laws/Memory.lean ====
section
/-! SUPPORT. What a write of device memory can change, and what it leaves. -/
namespace Sys2Proof.Machine

/-- The second device differs from the first only in memory, its tags, shadow and poison, and in the squashes asked for. -/
structure Dev.MemOnly (d e : Dev) : Prop where
  eq : e = { d with mem := e.mem, tags := e.tags, shadow := e.shadow, poison := e.poison, jfe := { d.jfe with squash := e.jfe.squash } }

namespace Dev.MemOnly

theorem refl (d : Dev) : d.MemOnly d := ⟨rfl⟩
theorem trans {d e f : Dev} (h : d.MemOnly e) (k : e.MemOnly f) : d.MemOnly f := by
  obtain ⟨h⟩ := h
  obtain ⟨k⟩ := k
  constructor
  rw [k, h]

theorem foldl {β : Type} {f : Dev → β → Dev} (h : ∀ (d : Dev) (b : β), d.MemOnly (f d b)) : ∀ (l : List β) (d : Dev), d.MemOnly (l.foldl f d)
  | [], d => refl d
  | b :: l, d => (h d b).trans (foldl h l (f d b))

theorem cores {d e : Dev} (h : d.MemOnly e) : e.cores = d.cores := by rw [h.eq]
theorem core {d e : Dev} (h : d.MemOnly e) (g : Nat) : e.core g = d.core g := by rw [h.eq]; rfl
theorem ctx {d e : Dev} (h : d.MemOnly e) (c : Nat) : e.ctx c = d.ctx c := by rw [h.eq]; rfl
theorem ev {d e : Dev} (h : d.MemOnly e) : e.jfe.ev = d.jfe.ev := by rw [h.eq]
theorem isJoined {d e : Dev} (h : d.MemOnly e) (g : Nat) : e.isJoined g = d.isJoined g := by rw [h.eq]; rfl
theorem coresOn {d e : Dev} (h : d.MemOnly e) (c : Nat) : e.coresOn c = d.coresOn c := by rw [h.eq]; rfl

end Dev.MemOnly

theorem Dev.setCells_memOnly : ∀ (bs : List Byte) (d : Dev) (a : Nat), d.MemOnly (d.setCells a bs)
  | [], d, _ => Dev.MemOnly.refl d
  | _ :: bs, _, a => Dev.MemOnly.trans ⟨rfl⟩ (Dev.setCells_memOnly bs _ (a + 1))
theorem Dev.storeAt_memOnly (d : Dev) (a : Nat) (bs : List Byte) : d.MemOnly (d.storeAt a bs) := by
  unfold Dev.storeAt
  dsimp only
  split
  · exact (Dev.setCells_memOnly bs d a).trans ⟨rfl⟩
  · exact Dev.setCells_memOnly bs d a
theorem Dev.storeAll_memOnly (d : Dev) (as : List Nat) (bs : List Byte) : d.MemOnly (d.storeAll as bs) :=
  Dev.MemOnly.foldl (fun d a => Dev.storeAt_memOnly d a bs) as d
theorem Dev.shadowLine_memOnly (d : Dev) (l : Nat) : d.MemOnly (d.shadowLine l) := ⟨rfl⟩
theorem Dev.untag_memOnly (d : Dev) (l : Nat) : d.MemOnly (d.untag l) := ⟨rfl⟩
theorem Dev.setTag_memOnly (d : Dev) (l e : Nat) : d.MemOnly (d.setTag l e) := ⟨rfl⟩
theorem Dev.askSquash_memOnly (d : Dev) (e r : Nat) : d.MemOnly (d.askSquash e r) := ⟨rfl⟩
theorem Dev.writeBack_memOnly (d : Dev) (l : Nat) : d.MemOnly (d.writeBack l) :=
  ((Dev.setCells_memOnly _ d (64 * l)).trans ⟨rfl⟩).trans (Dev.untag_memOnly _ l)
theorem Dev.patchShadow_memOnly (d : Dev) (l off : Nat) (bs : List Byte) : d.MemOnly (d.patchShadow l off bs) := by
  unfold Dev.patchShadow
  dsimp only
  split <;> exact ⟨rfl⟩

/-- A write within one line. -/
theorem Dev.wrLine_memOnly (d : Dev) (v : View) (a : Nat) (bs : List Byte) : d.MemOnly (d.wrLine v a bs) := by
  unfold Dev.wrLine
  dsimp only
  split
  · exact Dev.storeAll_memOnly d _ bs
  · exact ((Dev.patchShadow_memOnly d _ _ bs).trans (Dev.storeAll_memOnly _ _ bs)).trans (Dev.askSquash_memOnly _ _ _)
  · exact (Dev.patchShadow_memOnly d _ _ bs).trans (Dev.storeAll_memOnly _ _ bs)
  · split
    · exact Dev.MemOnly.refl d
    · split
      · split
        · exact Dev.storeAt_memOnly d _ bs
        · exact Dev.askSquash_memOnly d _ _
      · exact (((Dev.writeBack_memOnly d _).trans (Dev.shadowLine_memOnly _ _)).trans (Dev.setTag_memOnly _ _ _)).trans
          (Dev.storeAt_memOnly _ _ bs)
      · split
        · exact Dev.askSquash_memOnly d _ _
        · exact ((Dev.shadowLine_memOnly d _).trans (Dev.setTag_memOnly _ _ _)).trans (Dev.storeAt_memOnly _ _ bs)

/-- A write of device memory changes memory, tags, shadow and poison, and may ask for a squash: nothing else. -/
theorem Dev.wr_memOnly (d : Dev) (v : View) (a : Nat) (bs : List Byte) : d.MemOnly (d.wr v a bs) :=
  Dev.MemOnly.foldl (fun d (p : Nat × List Byte) => Dev.wrLine_memOnly d v p.1 p.2) _ d

theorem Dev.writeEntry_memOnly (d : Dev) (c : Nat) : d.MemOnly (d.writeEntry c) := by
  unfold Dev.writeEntry
  dsimp only
  split
  · exact Dev.MemOnly.refl d
  · exact Dev.wr_memOnly d _ _ _

end Sys2Proof.Machine
end

