-- ==== Sys2Proof/Laws/Trigger.lean ====
section
/-! SUPPORT. What a trigger of a job's end does to the job and its cores (R149–R151), and what a faulting instruction leaves (R125). -/
namespace Sys2Proof.Machine

/-- A core that is stopped keeps what a job computed. -/
structure Core.Keeps (a b : Core) : Prop where
  regs : b.regs = a.regs
  pc : b.pc = a.pc
  ls : b.ls = a.ls
  fault : b.fault = a.fault
  alive : b ≠ Core.off

/-- What stopping cores leaves alone: contexts, records and memory, and what the cores that are not as at reset computed. -/
structure Dev.Stops (d e : Dev) : Prop where
  ctxs : e.jfe = d.jfe
  mem : e.mem = d.mem
  core : ∀ g, d.core g ≠ Core.off → (d.core g).Keeps (e.core g)

theorem Dev.Stops.refl (d : Dev) : d.Stops d := ⟨rfl, rfl, fun _ h => ⟨rfl, rfl, rfl, rfl, h⟩⟩
theorem Dev.Stops.trans {a b c : Dev} (h : a.Stops b) (k : b.Stops c) : a.Stops c :=
  ⟨k.ctxs.trans h.ctxs, k.mem.trans h.mem, fun g n =>
    have x := h.core g n
    have y := k.core g x.alive
    ⟨y.regs.trans x.regs, y.pc.trans x.pc, y.ls.trans x.ls, y.fault.trans x.fault, y.alive⟩⟩

theorem Dev.stopCore_stops (d : Dev) (g : Nat) : d.Stops (d.stopCore g) := by
  refine ⟨rfl, rfl, fun h n => ?_⟩
  by_cases e : h = g
  · subst e
    have ne : ({ d.core h with st := .idle, wait := .none, remoteSince := none, ckpt := none, halted := false,
                               dma := ((d.core h).dma.take 1).filter (fun e => e.kind != 2 || e.started) } : Core) ≠ Core.off := by
      intro c
      exact absurd (congrArg Core.st c) (by simp [Core.off])
    have c : (d.stopCore h).core h = { d.core h with st := .idle, wait := .none, remoteSince := none, ckpt := none, halted := false,
                                                     dma := ((d.core h).dma.take 1).filter (fun e => e.kind != 2 || e.started) } :=
      Dev.core_setCore (d.unwait h) h ne
    rw [c]
    exact ⟨rfl, rfl, rfl, rfl, ne⟩
  · have c : (d.stopCore g).core h = d.core h := Dev.core_setCore_ne (d.unwait g) _ e
    rw [c]
    exact ⟨rfl, rfl, rfl, rfl, n⟩

theorem Dev.detach_stops (d : Dev) (g : Nat) : d.Stops (d.detach g) := by
  unfold Dev.detach
  dsimp only
  split
  · exact ⟨rfl, rfl, fun h n => ⟨rfl, rfl, rfl, rfl, n⟩⟩
  · exact Dev.Stops.refl d

theorem Dev.stopAll_stops : ∀ (l : List Nat) (d : Dev), d.Stops (l.foldl (fun d g => (d.stopCore g).detach g) d)
  | [], d => Dev.Stops.refl d
  | g :: l, d => ((Dev.stopCore_stops d g).trans (Dev.detach_stops _ g)).trans (Dev.stopAll_stops l _)

theorem Dev.writerLost_memOnly (d : Dev) (c : Nat) (st : BitVec 8) : d.MemOnly (d.writerLost c st) := by
  unfold Dev.writerLost
  split
  · exact Dev.askSquash_memOnly d _ _
  · exact Dev.MemOnly.refl d
theorem Dev.writerLost_mem (d : Dev) (c : Nat) (st : BitVec 8) : (d.writerLost c st).mem = d.mem := by
  unfold Dev.writerLost Dev.askSquash
  split
  · rfl
  · rfl

theorem Dev.ctx_setCtx (d : Dev) (c : Nat) {x : Ctx} (n : x ≠ Ctx.free) : (d.setCtx c x).ctx c = x := FMap.get_set_of_ne _ _ _ n
theorem Dev.ctx_setCtx_ne (d : Dev) {c b : Nat} (x : Ctx) (n : b ≠ c) : (d.setCtx c x).ctx b = d.ctx b := FMap.get_set_ne _ _ _ n
theorem Dev.putCtx_memOnly (d : Dev) (c : Nat) (x : Ctx) : (d.setCtx c x).MemOnly (d.putCtx c x) := Dev.writeEntry_memOnly _ c
/-- A context that is not FREE is read back. -/
theorem Dev.ctx_putCtx (d : Dev) (c : Nat) {x : Ctx} (n : x ≠ Ctx.free) : (d.putCtx c x).ctx c = x := by
  rw [(Dev.putCtx_memOnly d c x).ctx, Dev.ctx_setCtx d c n]
theorem Dev.ctx_putCtx_ne (d : Dev) {c b : Nat} (x : Ctx) (n : b ≠ c) : (d.putCtx c x).ctx b = d.ctx b := by
  rw [(Dev.putCtx_memOnly d c x).ctx, Dev.ctx_setCtx_ne d x n]
/-- A register reads by the register file and the part alone. -/
theorem Dev.reg_congr {d e : Dev} (r : e.regs = d.regs) (h : e.hw = d.hw) (k : Nat) : e.reg k = d.reg k := by
  unfold Dev.reg
  rw [r, h]
theorem Dev.ctxTable_congr {d e : Dev} (r : e.regs = d.regs) (h : e.hw = d.hw) : e.ctxTable = d.ctxTable := by
  unfold Dev.ctxTable Dev.rf Dev.rn
  rw [Dev.reg_congr r h, Dev.reg_congr r h]
/-- Without a context table a context's change stays out of memory (R161). -/
theorem Dev.putCtx_mem (d : Dev) (c : Nat) (x : Ctx) (h : d.ctxTable = 0) : (d.putCtx c x).mem = d.mem := by
  have e : (d.setCtx c x).ctxTable = 0 := (Dev.ctxTable_congr (e := d.setCtx c x) (d := d) rfl rfl).trans h
  simp only [Dev.putCtx, Dev.writeEntry, e, true_or, if_true]
  rfl

/-- What a job gives up when its end is triggered leaves contexts, cores and memory. -/
theorem Dev.giveUp_frame (d : Dev) (c : Nat) (status : BitVec 8) :
    (((d.voidReservations c).dropEngines c).completeTickets c status).jfe = d.jfe ∧
    (((d.voidReservations c).dropEngines c).completeTickets c status).cores = d.cores ∧
    (((d.voidReservations c).dropEngines c).completeTickets c status).mem = d.mem := ⟨rfl, rfl, rfl⟩
theorem Dev.bump_frame (d : Dev) (k n : Nat) : (d.bump k n).jfe = d.jfe ∧ (d.bump k n).cores = d.cores ∧ (d.bump k n).mem = d.mem :=
  ⟨rfl, rfl, rfl⟩

/-- A trigger of a job that holds its cores: the job is DRAINING towards the status, its cores stop, and nothing it computed changes. -/
theorem Dev.trigger_holds (d : Dev) (c : Nat) (status : BitVec 8) (storage : Bool) (h : (d.ctx c).state.holds = true)
    (n : (d.ctx c).state ≠ .draining) :
    ((d.trigger c status storage).ctx c).state = .draining ∧ ((d.trigger c status storage).ctx c).ending = status ∧
    (∀ b, b ≠ c → (d.trigger c status storage).ctx b = d.ctx b) ∧
    (d.trigger c status storage).jfe.ev = d.jfe.ev ∧
    (∀ g, d.core g ≠ Core.off → (d.core g).Keeps ((d.trigger c status storage).core g)) ∧
    (d.ctxTable = 0 → (d.trigger c status storage).mem = d.mem) := by
  obtain ⟨x, hx⟩ : ∃ x, x = d.ctx c := ⟨_, rfl⟩
  have key : ∃ y : Ctx, y.state = .draining ∧ y.ending = status ∧ ∃ e : Dev, ((d.writerLost c status).putCtx c y).Stops e ∧
      (d.trigger c status storage).jfe = e.jfe ∧ (d.trigger c status storage).cores = e.cores ∧ (d.trigger c status storage).mem = e.mem := by
    refine ⟨{ d.ctx c with state := .draining, ending := status, storage := storage, trigTick := some d.ticks }, rfl, rfl, _,
      Dev.stopAll_stops (Dev.coresOn ((d.writerLost c status).putCtx c { d.ctx c with
        state := .draining, ending := status, storage := storage, trigTick := some d.ticks }) c) _, ?_⟩
    unfold Dev.trigger
    dsimp only
    cases e : (d.ctx c).state <;> rw [e] at h n <;> try exact absurd h (by decide)
    all_goals try exact absurd rfl n
    all_goals
      simp only [CtxState.holds, if_true]
      split
      · exact ⟨(Dev.giveUp_frame _ _ _).1.trans (Dev.bump_frame _ _ _).1, (Dev.giveUp_frame _ _ _).2.1.trans (Dev.bump_frame _ _ _).2.1,
          (Dev.giveUp_frame _ _ _).2.2.trans (Dev.bump_frame _ _ _).2.2⟩
      · exact Dev.giveUp_frame _ _ _
  obtain ⟨y, ys, ye, e, st, ej, ec, em⟩ := key
  have yn : y ≠ Ctx.free := by
    intro z
    rw [z] at ys
    exact absurd ys (by decide)
  have wl := Dev.writerLost_memOnly d c status
  have pc := (Dev.putCtx_memOnly (d.writerLost c status) c y)
  have hc : ∀ b, (d.trigger c status storage).ctx b = ((d.writerLost c status).putCtx c y).ctx b := by
    intro b
    show FMap.get Ctx.free (d.trigger c status storage).jfe.ctxs b = _
    rw [ej, st.ctxs]
    rfl
  have hcore : ∀ g, ((d.writerLost c status).putCtx c y).core g = d.core g := by
    intro g
    rw [pc.core]
    exact wl.core g
  refine ⟨?_, ?_, ?_, ?_, ?_, ?_⟩
  · rw [hc, Dev.ctx_putCtx _ _ yn, ys]
  · rw [hc, Dev.ctx_putCtx _ _ yn, ye]
  · intro b hb
    rw [hc, Dev.ctx_putCtx_ne _ _ hb, wl.ctx]
  · rw [ej, st.ctxs, pc.ev]
    exact wl.ev
  · intro g hg
    have k := st.core g (by rw [hcore]; exact hg)
    rw [hcore] at k
    show (d.core g).Keeps (FMap.get Core.off (d.trigger c status storage).cores g)
    rw [ec]
    exact k
  · intro t
    rw [em, st.mem, Dev.putCtx_mem]
    · exact Dev.writerLost_mem d c status
    · exact (Dev.ctxTable_congr (by rw [wl.eq]) (by rw [wl.eq])).trans t

/-- Records of a Keystone that is up. -/
theorem Dev.emit_up (d : Dev) (b : Block) (code sev a0 a1 : Nat) (h : d.keystoneUp = true) :
    ∃ e : Event, d.emit b code sev a0 a1 = { d with jfe := { d.jfe with ev := d.jfe.ev ++ [e], evSeq := d.jfe.evSeq + 1 } } ∧
      e.source = BitVec.ofNat 32 b.id ∧ e.code = BitVec.ofNat 16 code ∧ e.sev = sev ∧ e.arg0 = BitVec.ofNat 32 a0 ∧ e.arg1 = BitVec.ofNat 32 a1 := by
  unfold Dev.emit
  rw [if_pos h]
  exact ⟨_, rfl, rfl, rfl, rfl, rfl, rfl⟩
/-- A record changes the record queue alone. -/
theorem Dev.emit_eq (d : Dev) (b : Block) (code sev a0 a1 : Nat) :
    ∃ evs n, d.emit b code sev a0 a1 = { d with jfe := { d.jfe with ev := evs, evSeq := n } } := by
  unfold Dev.emit
  split
  · exact ⟨_, _, rfl⟩
  · exact ⟨d.jfe.ev, d.jfe.evSeq, rfl⟩

/-- What a fault leaves at a core that runs a job (R125). -/
theorem Dev.coreFault_spec (d : Dev) (g : Nat) (f : SedunFault) (r : (d.core g).st = .running) (gb : g < 4096)
    (x : ∀ c, (d.core g).ctx = some c → (d.ctx c).state.executes = true) :
    ((d.coreFault g f).core g).fault = BitVec.ofNat 8 f.code ∧ ((d.coreFault g f).core g).regs = (d.core g).regs ∧
    ((d.coreFault g f).core g).pc = (d.core g).pc ∧ ((d.coreFault g f).core g).ls = (d.core g).ls ∧
    (d.keystoneUp = true → ∃ e, (d.coreFault g f).jfe.ev = d.jfe.ev ++ [e] ∧ e.code = 0x0210 ∧ e.arg0.toNat = g ∧ e.arg1.toNat / 2 ^ 24 = f.code) ∧
    (∀ c, (d.core g).ctx = some c → ((d.coreFault g f).ctx c).state = .draining ∧ ((d.coreFault g f).ctx c).ending = stFaultContext) ∧
    (d.ctxTable = 0 → (d.coreFault g f).mem = d.mem) := by
  obtain ⟨d1, e1⟩ : ∃ d1, d1 = (d.putCore g { d.core g with fault := BitVec.ofNat 8 f.code }).emit (coreBlock g) 0x0210 2 g (f.code * 2 ^ 24 + d.codeOffset g) :=
    ⟨_, rfl⟩
  have c1 : d1.core g = { d.core g with fault := BitVec.ofNat 8 f.code } := by
    obtain ⟨evs, n, q⟩ := Dev.emit_eq (d.putCore g { d.core g with fault := BitVec.ofNat 8 f.code }) (coreBlock g) 0x0210 2 g
      (f.code * 2 ^ 24 + d.codeOffset g)
    rw [e1, q]
    exact Dev.core_putCore d g (c := { d.core g with fault := BitVec.ofNat 8 f.code }) r
  have same : d1.jfe.ctxs = d.jfe.ctxs ∧ d1.mem = d.mem ∧ d1.regs = d.regs ∧ d1.hw = d.hw := by
    obtain ⟨evs, n, q⟩ := Dev.emit_eq (d.putCore g { d.core g with fault := BitVec.ofNat 8 f.code }) (coreBlock g) 0x0210 2 g
      (f.code * 2 ^ 24 + d.codeOffset g)
    rw [e1, q, Dev.putCore_cores]
    exact ⟨rfl, rfl, rfl, rfl⟩
  have ctx1 : ∀ c, d1.ctx c = d.ctx c := fun c => by
    show FMap.get Ctx.free d1.jfe.ctxs c = _
    rw [same.1]; rfl
  have ev1 : d.keystoneUp = true → ∃ e, d1.jfe.ev = d.jfe.ev ++ [e] ∧ e.code = 0x0210 ∧ e.arg0.toNat = g ∧ e.arg1.toNat / 2 ^ 24 = f.code := by
    intro k
    have k' : (d.putCore g { d.core g with fault := BitVec.ofNat 8 f.code }).keystoneUp = true := by
      rw [Dev.putCore_cores]; exact k
    obtain ⟨e, q, _, h2, _, h4, h5⟩ := Dev.emit_up _ (coreBlock g) 0x0210 2 g (f.code * 2 ^ 24 + d.codeOffset g) k'
    refine ⟨e, ?_, h2, ?_, ?_⟩
    · rw [e1, q, Dev.putCore_cores]
    · rw [h4, BitVec.toNat_ofNat]; omega
    · have o : d.codeOffset g < 2 ^ 24 := Nat.mod_lt _ (by decide)
      have fc : f.code < 0x13 := by cases f <;> decide
      rw [h5, BitVec.toNat_ofNat]; omega
  have tab : d.ctxTable = 0 → d1.ctxTable = 0 := by
    intro t
    rw [Dev.ctxTable_congr same.2.2.1 same.2.2.2, t]
  have ctxg : (d.core g).ctx = (d1.core g).ctx := by rw [c1]
  have ne1 : d1.core g ≠ Core.off := Core.ne_off (by rw [c1]; exact r)
  have fin : d.coreFault g f = match (d.core g).ctx with
      | some c => d1.trigger c stFaultContext
      | none => d1 := by rw [e1]; rfl
  rw [fin]
  cases hc : (d.core g).ctx with
  | none =>
    refine ⟨?_, ?_, ?_, ?_, ev1, ?_, fun _ => same.2.1⟩
    · rw [c1]
    · rw [c1]
    · rw [c1]
    · rw [c1]
    · intro c h; exact absurd h (by simp)
  | some c =>
    have ex := x c hc
    have hold : (d1.ctx c).state.holds = true := by
      rw [ctx1]
      cases e : (d.ctx c).state <;> rw [e] at ex <;> first | rfl | exact absurd ex (by decide)
    have nd : (d1.ctx c).state ≠ .draining := by
      rw [ctx1]
      intro e
      rw [e] at ex
      exact absurd ex (by decide)
    obtain ⟨t1, t2, _, t4, t5, t6⟩ := Dev.trigger_holds d1 c stFaultContext false hold nd
    have k := t5 g ne1
    rw [c1] at k
    refine ⟨k.fault, k.regs, k.pc, k.ls, ?_, ?_, ?_⟩
    · intro ku
      obtain ⟨e, q⟩ := ev1 ku
      exact ⟨e, t4.trans q.1, q.2⟩
    · intro b hb
      have : c = b := Option.some.inj hb
      rw [← this]
      exact ⟨t1, t2⟩
    · intro t
      exact (t6 (tab t)).trans same.2.1

theorem Hw.hasCore_lt {h : Hw} {g : Nat} (k : h.hasCore g = true) : g < 4096 := by
  have l : h.dies ≤ 4 := by unfold Hw.dies; split <;> decide
  have := of_decide_eq_true k
  omega

theorem Dev.Clean.executes {d : Dev} {u : Issue} (h : d.Clean u) (c : Nat) (k : (d.core u.core).ctx = some c) : (d.ctx c).state.executes = true := by
  have e := h.can
  simp only [Dev.canIssue, k, Bool.and_eq_true] at e
  exact e.2

/-- An instruction whose checks fail faults. -/
theorem State.faults_of {s : State} {u : Issue} (h : s.dev.Clean u) (v : Bool) {op : Dev → Nat → Except SedunFault Effect} {f : SedunFault}
    (k : ∀ ga, op { s.dev with out := [], gau := ga } u.core = .error f) :
    s.Faults u f (s.runIf (s.dev.hw.hasCore u.core) (fun d => d.issueReg u v op)) := by
  have e := h.fresh.issueEnd_error v (f := f) (op := op) (by rw [Dev.counted_gau]; exact k _)
  obtain ⟨dc, hdc⟩ : ∃ dc, dc = s.dev.fresh.counted u.core v := ⟨_, rfl⟩
  have q : dc = { s.dev with out := [], gau := dc.gau } := by
    rw [hdc]
    exact Dev.counted_gau s.dev.fresh u.core v
  refine ⟨(s.dev.fresh.counted u.core v).coreFault u.core f, ?_, ?_⟩
  · unfold State.runIf State.run Dev.issueReg
    rw [if_pos h.core]
    dsimp only
    rw [e]
    rfl
  · rw [← hdc]
    obtain ⟨a1, a2, a3, a4, a5, a6, a7⟩ := Dev.coreFault_spec dc u.core f (by rw [q]; exact h.running) (Hw.hasCore_lt h.core)
      (fun c hc => by rw [q] at hc ⊢; exact h.executes c hc)
    refine ⟨?_, ?_, ?_, ?_, ?_, ?_, ?_⟩
    · rw [a1, BitVec.toNat_ofNat]
      cases f <;> decide
    · rw [a2, q]; rfl
    · rw [a3, q]; rfl
    · rw [a4, q]; rfl
    · intro ku
      obtain ⟨e, w⟩ := a5 (by rw [q]; exact ku)
      exact ⟨e, by rw [w.1, q], w.2⟩
    · intro c hc
      exact a6 c (by rw [q]; exact hc)
    · intro t
      rw [a7 ((Dev.ctxTable_congr (by rw [q]) (by rw [q])).trans t), q]

end Sys2Proof.Machine
end

