-- ==== Sys2Proof/Laws/Put.lean ====
section
/-! SUPPORT. Writing one core back: what it changes, twice over, and the instructions that end so. -/
namespace Sys2Proof.Machine

/-- A core written is read back. -/
theorem Dev.core_setCore_self (d : Dev) (g : Nat) (c : Core) : (d.setCore g c).core g = c := FMap.get_set_self _ _ _ _
theorem Dev.isJoined_congr {d e : Dev} (h : e.joined = d.joined) (g : Nat) : e.isJoined g = d.isJoined g := by
  unfold Dev.isJoined
  rw [h]

/-- Writing a lead, or a core of a split couple, back. -/
theorem Dev.put_putCore (d : Dev) (g : Nat) (k : Core) (h : d.isJoined g = true → g % 2 = 0) : d.Put g k (d.putCore g k) := by
  have cg : (d.setCore g k).core g = k := Dev.core_setCore_self _ _ _
  have j : (d.setCore g k).isJoined g = d.isJoined g := rfl
  cases e : d.isJoined g
  · have q : d.putCore g k = d.setCore g k := by
      unfold Dev.putCore Dev.follow
      rw [j, e]
      rfl
    rw [q]
    exact ⟨cg, fun x => absurd x (by rw [e]; decide), fun x n _ => Dev.core_setCore_ne _ _ n⟩
  · have q : d.putCore g k = (d.setCore g k).setCore (g + 1) { k with dma := [], borrow := [], tickets := [], ceTicks := (d.core (g + 1)).ceTicks } := by
      unfold Dev.putCore Dev.follow
      rw [j, e, h e]
      dsimp only
      rw [if_pos (by decide), cg, Dev.core_setCore_ne _ _ (by omega)]
    rw [q]
    exact ⟨(Dev.core_setCore_ne _ _ (by omega)).trans cg, fun _ => Dev.core_setCore_self _ _ _,
      fun x n m => (Dev.core_setCore_ne _ _ (fun y => m ⟨e, y⟩)).trans (Dev.core_setCore_ne _ _ n)⟩

/-- Cores alone decide what a device holds of cores. -/
theorem Dev.Put.congr {d e f : Dev} {g : Nat} {k : Core} (h : d.Put g k e) (c : f.cores = e.cores) : d.Put g k f := by
  have x : ∀ i, f.core i = e.core i := fun i => by unfold Dev.core; rw [c]
  exact ⟨(x g).trans h.core, fun j => (x _).trans (h.follow j), fun i n m => (x i).trans (h.others i n m)⟩
theorem Dev.Put.from {d d' e : Dev} {g : Nat} {k : Core} (h : d'.Put g k e) (c : d'.cores = d.cores) (j : d'.joined = d.joined) : d.Put g k e := by
  have x : ∀ i, d'.core i = d.core i := fun i => by unfold Dev.core; rw [c]
  have y : d'.isJoined g = d.isJoined g := Dev.isJoined_congr j g
  exact ⟨h.core, fun z => by rw [h.follow (y.trans z), x], fun i n m => by rw [h.others i n (by rw [y]; exact m), x]⟩
/-- Written once more. -/
theorem Dev.Put.trans {d e f : Dev} {g : Nat} {k l : Core} (h : d.Put g k e) (j : e.joined = d.joined) (p : e.Put g l f) : d.Put g l f := by
  have y : e.isJoined g = d.isJoined g := Dev.isJoined_congr j g
  refine ⟨p.core, fun z => ?_, fun i n m => ?_⟩
  · rw [p.follow (y.trans z), h.follow z]
  · rw [p.others i n (by rw [y]; exact m), h.others i n m]

/-- An instruction whose own effect is to write its core back. -/
theorem State.issues_of {s : State} {u : Issue} (h : s.dev.Clean u) (v : Bool) {op : Dev → Nat → Except SedunFault Effect} (k : Core)
    (x : ∀ ga, ∃ o e, op { s.dev with out := [], gau := ga } u.core = .ok (o, e) ∧ s.dev.Put u.core k e ∧
      e = { s.dev with out := [], cores := e.cores, gau := e.gau }) :
    s.Issues u k (s.runIf (s.dev.hw.hasCore u.core) (fun d => d.issueReg u v op)) := by
  obtain ⟨o, e, q, p, r⟩ := x (s.dev.fresh.counted u.core v).gau
  refine ⟨{ s with dev := e.keepHw s.dev.hw }, ?_, p.congr rfl, ?_⟩
  · unfold State.runIf State.run Dev.issueReg
    rw [if_pos h.core]
    dsimp only
    rw [h.fresh.issueEnd v (x := (o, _)) (by rw [Dev.counted_gau]; exact q)]
    rfl
  · have : e.keepHw s.dev.hw = e := by rw [r]; rfl
    rw [this]
    show (⟨e, s.pending⟩ : State) = ⟨{ s.dev with out := [], cores := e.cores, gau := e.gau }, s.pending⟩
    rw [← r]
theorem State.Issues.retires {s : State} {u : Issue} {r : Regs} {o : Result} (h : s.Issues u ((s.coreOf u).retired r) o) : s.Retires u r o := by
  obtain ⟨t, e, p, q⟩ := h
  refine ⟨t, e, p.core, fun j => ?_, p.others, q⟩
  rw [p.follow j]
  exact ⟨rfl, rfl⟩

/-- An instruction after whose effect everything due is carried out. -/
theorem State.answersSettled_of {s : State} {u : Issue} (h : s.dev.Clean u) {op : Dev → Nat → Except SedunFault Effect} {P : Dev → Prop}
    (x : ∀ ga, ∃ o e, op { s.dev with out := [], gau := ga } u.core = .ok (o, e) ∧ P e) : s.AnswersSettled (s.issueSync u op) P := by
  obtain ⟨o, e, q, p⟩ := x (s.dev.fresh.counted u.core false).gau
  refine ⟨e, ?_, p⟩
  unfold State.issueSync State.runIf State.run Dev.issueSync
  rw [if_pos h.core]
  dsimp only
  rw [h.fresh.issueEnd false (x := (o, _)) (by rw [Dev.counted_gau]; exact q)]
theorem State.syncFaults_of {s : State} {u : Issue} (h : s.dev.Clean u) {op : Dev → Nat → Except SedunFault Effect} {f : SedunFault}
    (k : ∀ ga, op { s.dev with out := [], gau := ga } u.core = .error f) : s.Faults u f (s.issueSync u op) := by
  have e := h.fresh.issueEnd_error false (f := f) (op := op) (by rw [Dev.counted_gau]; exact k _)
  have r := State.faults_of h false (op := op) (f := f) k
  unfold State.runIf State.run Dev.issueReg at r
  rw [if_pos h.core] at r
  dsimp only at r
  rw [e] at r
  unfold State.issueSync State.runIf State.run Dev.issueSync
  rw [if_pos h.core]
  dsimp only
  rw [e]
  exact r

end Sys2Proof.Machine
end

