-- ==== Sys2Proof/Laws/Lanes.lean ====
section
/-! SUPPORT. Lanes of vector registers: packing and reading back, and what writing lanes does. -/
namespace Sys2Proof.Machine

theorem packNat_lt (w : Nat) : ∀ xs : List Nat, packNat w xs < 2 ^ (w * xs.length)
  | [] => by simp [packNat]
  | x :: xs => by
    have h := packNat_lt w xs
    have m : x % 2 ^ w < 2 ^ w := Nat.mod_lt _ (Nat.two_pow_pos w)
    simp only [packNat, List.length_cons, Nat.mul_add, Nat.mul_one]
    rw [Nat.pow_add, Nat.mul_comm (2 ^ (w * xs.length))]
    have h' : 2 ^ w * packNat w xs + 2 ^ w ≤ 2 ^ w * 2 ^ (w * xs.length) := by
      rw [← Nat.mul_succ]
      exact Nat.mul_le_mul_left _ h
    omega

/-- The lanes of a packed number are the numbers packed. -/
theorem packNat_lane (w : Nat) : ∀ (xs : List Nat) (i : Nat), (packNat w xs >>> (w * i)) % 2 ^ w = xs.getD i 0 % 2 ^ w
  | [], i => by simp [packNat]
  | x :: xs, 0 => by
    simp only [packNat, Nat.mul_zero, Nat.shiftRight_zero, List.getD_cons_zero, Nat.add_mul_mod_self_left, Nat.mod_mod]
  | x :: xs, i + 1 => by
    have m : x % 2 ^ w < 2 ^ w := Nat.mod_lt _ (Nat.two_pow_pos w)
    have e : packNat w (x :: xs) >>> (w * (i + 1)) = packNat w xs >>> (w * i) := by
      rw [Nat.mul_add, Nat.mul_one, Nat.add_comm, Nat.shiftRight_add]
      congr 1
      rw [Nat.shiftRight_eq_div_pow, packNat, Nat.add_mul_div_left _ _ (Nat.two_pow_pos w), Nat.div_eq_of_lt m, Nat.zero_add]
    rw [e, packNat_lane w xs i, List.getD_cons_succ]

/-- Packed lanes are read back. -/
theorem laneOf_packLanes {w : Nat} {xs : List Nat} (h : w * xs.length ≤ 512) (i : Nat) : laneOf w (packLanes w xs) i = xs.getD i 0 % 2 ^ w := by
  have l : packNat w xs < 2 ^ 512 := Nat.lt_of_lt_of_le (packNat_lt w xs) (Nat.pow_le_pow_right (by decide) h)
  unfold laneOf packLanes
  rw [BitVec.toNat_ofNat, Nat.mod_eq_of_lt l, packNat_lane]

theorem laneOf_lt (w : Nat) (x : BitVec 512) (i : Nat) : laneOf w x i < 2 ^ w := Nat.mod_lt _ (Nat.two_pow_pos w)
@[simp] theorem length_lanesOf (w : Nat) (x : BitVec 512) : (lanesOf w x).length = 512 / w := by simp [lanesOf]
theorem getD_lanesOf {w : Nat} (x : BitVec 512) {i : Nat} (h : i < 512 / w) (z : Nat) : (lanesOf w x).getD i z = laneOf w x i := by
  simp [lanesOf, List.getD_eq_getElem?_getD, h]

@[simp] theorem length_mergeLanes : ∀ (xs : List Nat) (ns : List (Option Nat)), (mergeLanes xs ns).length = xs.length
  | [], _ => rfl
  | _ :: _, [] => rfl
  | _ :: xs, _ :: ns => by simp [mergeLanes, length_mergeLanes xs ns]
theorem getD_mergeLanes : ∀ (xs : List Nat) (ns : List (Option Nat)) (i : Nat), i < xs.length →
    (mergeLanes xs ns).getD i 0 = (ns.getD i none).getD (xs.getD i 0)
  | [], _, _, h => absurd h (Nat.not_lt_zero _)
  | _ :: _, [], i, _ => by simp [mergeLanes]
  | _ :: _, _ :: _, 0, _ => by simp [mergeLanes]
  | _ :: xs, _ :: ns, i + 1, h => by
    simp only [mergeLanes, List.getD_cons_succ]
    exact getD_mergeLanes xs ns i (Nat.lt_of_succ_lt_succ h)

/-- A flag is raised where some lane raised it. -/
theorem Flags.all_getLsbD : ∀ (fs : List Flags) (b : Nat), (Flags.all fs).getLsbD b = fs.any (fun f => f.getLsbD b)
  | [], b => by simp [Flags.all]
  | f :: fs, b => by simp [Flags.all, Flags.all_getLsbD fs b]

/-- What writing lanes does. -/
theorem writeLanes_spec (r : Regs) (d : BitVec 8) {w : Nat} {on : List Bool} {res : List (Nat × Flags)} (hw : w * (512 / w) = 512)
    (ho : on.length = 512 / w) (hr : res.length = 512 / w) :
    r.LanesWritten (regNum d) w (fun j => on.getD j false) (fun j => res.getD j (0, 0)) (writeLanes r d w on res) where
  lanes := by
    intro j hj
    have g : (writeLanes r d w on res).getV (regNum d) = packLanes w (mergeLanes (lanesOf w (r.getV (regNum d)))
        (List.zipWith (fun o (x : Nat × Flags) => if o then some x.1 else none) on res)) := FMap.get_set_self _ _ _ _
    rw [g, laneOf_packLanes (by simp [hw]), getD_mergeLanes _ _ _ (by simpa using hj), getD_lanesOf _ hj]
    have h1 : j < on.length := by omega
    have h2 : j < res.length := by omega
    simp only [List.getD_eq_getElem?_getD, List.getElem?_zipWith, List.getElem?_eq_getElem h1, List.getElem?_eq_getElem h2]
    cases on[j]
    · simp [Nat.mod_eq_of_lt (laneOf_lt _ _ _)]
    · simp
  scales := FMap.get_set_self 0 r.side (regNum d) sideOne
  flags := by
    intro b
    show (r.flags ||| Flags.all _).getLsbD b = _
    rw [BitVec.getLsbD_or, Flags.all_getLsbD]
    congr 1
    rw [Bool.eq_iff_iff]
    simp only [List.any_eq_true, List.mem_range, Bool.and_eq_true]
    constructor
    · rintro ⟨x, m, hb⟩
      obtain ⟨i, hi, e⟩ := List.mem_iff_getElem.1 m
      simp only [List.length_zipWith] at hi
      have h1 : i < on.length := by omega
      have h2 : i < res.length := by omega
      refine ⟨i, by omega, ?_⟩
      simp only [List.getElem_zipWith] at e
      simp only [List.getD_eq_getElem?_getD, List.getElem?_eq_getElem h1, List.getElem?_eq_getElem h2, Option.getD_some]
      cases c : on[i]
      · rw [c] at e; simp at e; rw [← e] at hb; simp at hb
      · rw [c] at e; simp at e; rw [← e] at hb; exact ⟨rfl, hb⟩
    · rintro ⟨i, hi, ho', hb⟩
      have h1 : i < on.length := by omega
      have h2 : i < res.length := by omega
      simp only [List.getD_eq_getElem?_getD, List.getElem?_eq_getElem h1, List.getElem?_eq_getElem h2, Option.getD_some] at ho' hb
      refine ⟨res[i].2, List.mem_iff_getElem.2 ⟨i, by simp; omega, ?_⟩, hb⟩
      simp [ho']
  others := fun n h => ⟨FMap.get_set_ne _ _ _ h, FMap.get_set_ne 0 r.side sideOne h⟩
  rest := rfl

/-- The lane widths divide a register. -/
theorem ElemType.width_ok (t : ElemType) : t.width * (512 / t.width) = 512 := by cases t <;> decide
theorem length_lanesOn (p : BitVec 64) (w : Nat) : (lanesOn p w).length = 512 / w := by simp [lanesOn]
theorem getD_lanesOn (p : BitVec 64) {w j : Nat} (h : j < 512 / w) : (lanesOn p w).getD j false = laneOn p w j := by
  simp [lanesOn, List.getD_eq_getElem?_getD, h]
theorem length_sliceOn (p : BitVec 64) (w : Nat) (s : Slice) : (sliceOn p w s).length = 512 / w := by simp [sliceOn]
theorem getD_sliceOn (p : BitVec 64) {w j : Nat} (s : Slice) (h : j < 512 / w) :
    (sliceOn p w s).getD j false = (decide (s.dst ≤ j) && decide (j < s.dst + s.n) && laneOn p w j) := by
  simp [sliceOn, List.getD_eq_getElem?_getD, h]
theorem getD_map_range {α : Type} (f : Nat → α) {n j : Nat} (h : j < n) (z : α) : ((List.range n).map f).getD j z = f j := by
  simp [List.getD_eq_getElem?_getD, h]

/-- Lanes written agree where governing and values agree on the lanes the register has. -/
theorem Regs.LanesWritten.congr {r t : Regs} {d w : Nat} {on on' : Nat → Bool} {x x' : Nat → Nat × Flags} (h : r.LanesWritten d w on x t)
    (ho : ∀ j, j < 512 / w → on j = on' j) (hx : ∀ j, j < 512 / w → on j = true → x j = x' j) : r.LanesWritten d w on' x' t where
  lanes := by
    intro j hj
    rw [h.lanes j hj, ← ho j hj]
    cases e : on j
    · rfl
    · rw [hx j hj e]
  scales := h.scales
  flags := by
    intro b
    rw [h.flags b]
    congr 1
    rw [Bool.eq_iff_iff]
    simp only [List.any_eq_true, List.mem_range, Bool.and_eq_true]
    constructor
    · rintro ⟨j, hj, a, c⟩
      exact ⟨j, hj, by rw [← ho j hj]; exact a, by rw [← hx j hj a]; exact c⟩
    · rintro ⟨j, hj, a, c⟩
      rw [← ho j hj] at a
      exact ⟨j, hj, a, by rw [hx j hj a]; exact c⟩
  others := h.others
  rest := h.rest

/-- Lanes written with the flags cleared, and the flags joined afterwards, are lanes written. -/
theorem Regs.LanesWritten.sticky {r t : Regs} {d w : Nat} {on : Nat → Bool} {x : Nat → Nat × Flags}
    (h : ({ r with flags := 0 } : Regs).LanesWritten d w on x t) : r.LanesWritten d w on x { t with flags := r.flags ||| t.flags } where
  lanes := h.lanes
  scales := h.scales
  flags := by
    intro b
    show (r.flags ||| t.flags).getLsbD b = _
    rw [BitVec.getLsbD_or, h.flags b]
    simp
  others := h.others
  rest := by
    have e := h.rest
    generalize t.lfsr = l at *
    rw [e]

end Sys2Proof.Machine
end

