-- ==== Sys2Proof/Laws/Retire.lean ====
section
/-! SUPPORT. How scalar instructions retire and fault: what an S-class operation of each shape answers when the instruction issues cleanly. -/
namespace Sys2Proof.Machine

theorem Regs.writeSA_flags (r : Regs) (c : BitVec 8) (x : BitVec 64) :
    { ({ r with flags := 0 } : Regs).writeSA c x with flags := r.flags ||| (({ r with flags := 0 } : Regs).writeSA c x).flags } = r.writeSA c x := by
  unfold Regs.writeSA
  split <;> simp [Regs.setS, Regs.setA]

theorem Regs.readSA_flags (r : Regs) (c : BitVec 8) (fl : BitVec 5) : ({ r with flags := fl } : Regs).readSA c = r.readSA c := rfl

theorem retires_alu {s : State} {u : Issue} {f : FmtS} {ok : Nat → Bool} {fn : Nat → W64 → W64 → W64} (h : s.dev.Clean u)
    (k : ok f.sub.toNat = true) (hd : isSA f.d = true) (ha : isSA f.a = true) (hb : isSANone f.b = true) :
    s.Retires u ((s.regsOf u).writeSA f.d (fn f.sub.toNat ((s.regsOf u).readSA f.a) (if f.b = 0xFF then f.imm.signExtend 64 else (s.regsOf u).readSA f.b)))
      (s.issue u (regOp (aluOp ok fn f))) := by
  have e := State.issue_regOp h (op := aluOp ok fn f)
    (r := ({ s.regsOf u with flags := 0 } : Regs).writeSA f.d (fn f.sub.toNat ((s.regsOf u).readSA f.a) (operandB f (s.regsOf u))))
    (by simp [aluOp, faultIf, k, hd, ha, hb, Regs.readSA_flags, operandB])
  rw [Regs.writeSA_flags] at e
  exact e

theorem ite_bool {c : Bool} {p : Prop} [Decidable p] (h : c = true ↔ p) {α : Type} (x y : α) : (if c then x else y) = if p then x else y := by
  by_cases q : p
  · rw [if_pos q, if_pos (h.2 q)]
  · rw [if_neg q, if_neg (fun e => q (h.1 e))]

theorem fault_alu {s : State} {u : Issue} {op : Regs → Except SedunFault Regs} {x : SedunFault} (h : s.dev.Clean u)
    (k : op { s.regsOf u with flags := 0 } = .error x) : s.Faults u x (s.issue u (regOp op)) :=
  State.faults_of h false (fun ga => by
    unfold regOp
    rw [show op { (Dev.core { s.dev with out := [], gau := ga } u.core).regs with flags := 0 } = .error x from k])

theorem retires_div {s : State} {u : Issue} {f : FmtS} {fn : Nat → W64 → W64 → W64} (h : s.dev.Clean u)
    (k : f.sub.toNat ≤ 1) (hd : isSA f.d = true) (ha : isSA f.a = true) (hb : isSANone f.b = true)
    (z : (if f.b = 0xFF then f.imm.signExtend 64 else (s.regsOf u).readSA f.b) ≠ 0) :
    s.Retires u ((s.regsOf u).writeSA f.d (fn f.sub.toNat ((s.regsOf u).readSA f.a) (if f.b = 0xFF then f.imm.signExtend 64 else (s.regsOf u).readSA f.b)))
      (s.issue u (regOp (divLike fn f))) := by
  have z' : (operandB f { s.regsOf u with flags := 0 } == 0) = false := beq_eq_false_iff_ne.2 z
  have e := State.issue_regOp h (op := divLike fn f)
    (r := ({ s.regsOf u with flags := 0 } : Regs).writeSA f.d (fn f.sub.toNat ((s.regsOf u).readSA f.a) (operandB f (s.regsOf u))))
    (by
      have k' : subBit f.sub.toNat = true := by simp [subBit, k]
      unfold divLike
      rw [z']
      simp [faultIf, k', hd, ha, hb, Regs.readSA_flags, operandB])
  rw [Regs.writeSA_flags] at e
  exact e

theorem fault_div {s : State} {u : Issue} {f : FmtS} {fn : Nat → W64 → W64 → W64} (h : s.dev.Clean u)
    (k : f.sub.toNat ≤ 1) (hd : isSA f.d = true) (ha : isSA f.a = true) (hb : isSANone f.b = true)
    (z : (if f.b = 0xFF then f.imm.signExtend 64 else (s.regsOf u).readSA f.b) = 0) :
    s.Faults u .divideZero (s.issue u (regOp (divLike fn f))) := by
  have z' : (operandB f { s.regsOf u with flags := 0 } == 0) = true := beq_iff_eq.2 z
  refine fault_alu h ?_
  have k' : subBit f.sub.toNat = true := by simp [subBit, k]
  unfold divLike
  rw [z']
  simp [faultIf, k', hd, ha, hb]

theorem retires_set {s : State} {u : Issue} {op : Regs → Except SedunFault Regs} {c : BitVec 8} {x : W64} (h : s.dev.Clean u)
    (k : op { s.regsOf u with flags := 0 } = .ok (({ s.regsOf u with flags := 0 } : Regs).writeSA c x)) :
    s.Retires u ((s.regsOf u).writeSA c x) (s.issue u (regOp op)) := by
  have e := State.issue_regOp h k
  rw [Regs.writeSA_flags] at e
  exact e

theorem Regs.readSA_flags' (r : Regs) (c : BitVec 8) (fl : BitVec 5) : ({ r with flags := fl } : Regs).readSA c = r.readSA c := rfl

theorem retires_raise {s : State} {u : Issue} {op : Regs → Except SedunFault Regs} {c : BitVec 8} {x : W64} {fl : Flags} (h : s.dev.Clean u)
    (k : op { s.regsOf u with flags := 0 } = .ok ((({ s.regsOf u with flags := 0 } : Regs).writeSA c x).raise fl)) :
    s.Retires u (((s.regsOf u).writeSA c x).raise fl) (s.issue u (regOp op)) := by
  have e := State.issue_regOp h k
  have q : ({ (({ s.regsOf u with flags := 0 } : Regs).writeSA c x).raise fl with
      flags := (s.regsOf u).flags ||| ((({ s.regsOf u with flags := 0 } : Regs).writeSA c x).raise fl).flags } : Regs) =
      ((s.regsOf u).writeSA c x).raise fl := by
    unfold Regs.writeSA Regs.raise
    split <;> simp [Regs.setS, Regs.setA]
  rw [q] at e
  exact e

theorem retires_setP {s : State} {u : Issue} {op : Regs → Except SedunFault Regs} {n : Nat} {x : W64} (h : s.dev.Clean u)
    (k : op { s.regsOf u with flags := 0 } = .ok (({ s.regsOf u with flags := 0 } : Regs).setP n x)) :
    s.Retires u ((s.regsOf u).setP n x) (s.issue u (regOp op)) := by
  have e := State.issue_regOp h k
  have q : ({ (({ s.regsOf u with flags := 0 } : Regs).setP n x) with
      flags := (s.regsOf u).flags ||| (({ s.regsOf u with flags := 0 } : Regs).setP n x).flags } : Regs) = (s.regsOf u).setP n x := by
    unfold Regs.setP
    split <;> simp
  rw [q] at e
  exact e

theorem retires_fp32 {s : State} {u : Issue} {f : FmtS} (h : s.dev.Clean u) (hd : isSA f.d = true) (ha : isSA f.a = true) (hb : isSANone f.b = true)
    (k : f.sub = 0) (g : Nat → Nat → Nat → Nat × Flags) (x y z : Nat) (hx : x = low32 ((s.regsOf u).readSA f.a))
    (hy : y = low32 (operandB f (s.regsOf u))) (hz : z = low32 ((s.regsOf u).readSA f.d)) :
    s.Retires u (((s.regsOf u).writeSA f.d (BitVec.ofNat 64 (g x y z).1)).raise (g x y z).2) (s.issue u (regOp (fpOp g f))) := by
  refine retires_raise h ?_
  unfold fpOp
  rw [hx, hy, hz]
  simp [faultIf, k, hd, ha, hb, subZero]
  rfl

theorem regOf_s {c : BitVec 8} {n : Nat} (h : regOf c = some (.s, n)) : c.toNat = n := by
  unfold regOf at h
  dsimp only at h
  split at h
  · simpa using h
  · (repeat' (split at h)) <;> simp at h

theorem regOf_a {c : BitVec 8} {n : Nat} (h : regOf c = some (.a, n)) : c.toNat = n + 0x20 := by
  unfold regOf at h
  dsimp only at h
  split at h
  · simp at h
  · split at h
    · simp at h; omega
    · (repeat' (split at h)) <;> simp at h

end Sys2Proof.Machine
end

