-- ==== Sys2Proof/Laws/Vector.lean ====
section
/-! SUPPORT. What the operations over vector lanes answer: lane arithmetic, moves, masks and reductions. -/
namespace Sys2Proof.Machine

theorem State.retiresLanes_of {s : State} {u : Issue} {d w : Nat} {on : Nat → Bool} {x : Nat → Nat × Flags} {g : W64}
    {op : Regs → Except SedunFault Regs} {t : Regs} (h : s.dev.Clean u)
    (k : op { s.regsOf u with flags := 0 } = .ok t) (l : ({ s.regsOf u with flags := 0 } : Regs).LanesWritten d w on x t) (e : t.lfsr = g) :
    s.RetiresLanes u d w on x g (s.issueV u (regOp op)) :=
  ⟨_, l.sticky, e, State.issueV_regOp h k⟩

theorem State.retiresLanesC_of {s : State} {u : Issue} {d w : Nat} {on : Nat → Bool} {x : Nat → Nat × Flags} {g : W64} {code : Nat} {n : Regs → Nat}
    {op : Regs → Except SedunFault Regs} {t : Regs} (h : s.dev.Clean u)
    (k : op { s.regsOf u with flags := 0 } = .ok t) (l : ({ s.regsOf u with flags := 0 } : Regs).LanesWritten d w on x t) (e : t.lfsr = g) :
    s.RetiresLanes u d w on x g (s.issueV u (countedOp code n op)) :=
  ⟨_, l.sticky, e, State.issueV_countedOp h code n k⟩

theorem etBad_of {c : BitVec 4} {t : ElemType} (h : ElemType.ofCode c.toNat = some t) : etBad c = false := by
  unfold etBad
  simp only [decide_eq_false_iff_not]
  intro k
  have := c.isLt
  have : c.toNat = 13 ∨ c.toNat = 14 ∨ c.toNat = 15 := by omega
  rcases this with e | e | e <;> rw [e] at h <;> exact absurd h (by simp [ElemType.ofCode])

theorem vty_of {f : FmtV} {t : ElemType} (h : ElemType.ofCode f.et.toNat = some t) : vty f = t := by unfold vty; rw [h]; rfl

theorem vArith_ok {op : LaneOp} {f : FmtV} {t : ElemType} (ht : ElemType.ofCode f.et.toNat = some t) (hv : t.isVector = true) (hs : f.sub = 0)
    (hd : isKind f.d .v = true) (ha : isKind f.a .v = true) (hb : (!op.usesB || isKind f.b .v) = true) (hc : (!op.usesC || isKind f.c .v) = true)
    (sr : f.sr = true → t.isInt = false ∧ op.allowsSr = true) (r : Regs) :
    ∃ t', vArith op f r = .ok t' ∧
      r.LanesWritten (regNum f.d) t.width (laneOn (r.getP f.pg.toNat) t.width)
        (fun j => laneArith op t f.satm ((drawLanes f.sr (lanesOn (r.getP f.pg.toNat) t.width) r.lfsr).1.getD j none)
          (laneOf t.width (r.getV (regNum f.a)) j) (laneOf t.width (r.getV (regNum f.b)) j) (laneOf t.width (r.getV (regNum f.c)) j)) t' ∧
      t'.lfsr = (drawLanes f.sr (lanesOn (r.getP f.pg.toNat) t.width) r.lfsr).2 := by
  have c3 : (!(vty f).isVector || (f.sr && ((vty f).isInt || !op.allowsSr))) = false := by
    rw [vty_of ht, hv]
    cases e : f.sr
    · rfl
    · obtain ⟨a, b⟩ := sr e
      simp [a, b]
  obtain ⟨dr, hdr⟩ : ∃ dr, dr = drawLanes f.sr (lanesOn (r.getP f.pg.toNat) t.width) r.lfsr := ⟨_, rfl⟩
  obtain ⟨res, hres⟩ : ∃ res, res = (List.range (512 / t.width)).map (fun j => laneArith op t f.satm (dr.1.getD j none)
    ((lanesOf t.width (r.getV (regNum f.a))).getD j 0) ((lanesOf t.width (r.getV (regNum f.b))).getD j 0)
    ((lanesOf t.width (r.getV (regNum f.c))).getD j 0)) := ⟨_, rfl⟩
  have lw := writeLanes_spec (r := { r with lfsr := dr.2 }) (w := t.width) (d := f.d) (on := lanesOn (r.getP f.pg.toNat) t.width) (res := res)
      (ElemType.width_ok t) (length_lanesOn _ _) (by simp [hres])
  have lw2 := lw.congr (on' := laneOn (r.getP f.pg.toNat) t.width) (x' := fun j => laneArith op t f.satm (dr.1.getD j none)
          (laneOf t.width (r.getV (regNum f.a)) j) (laneOf t.width (r.getV (regNum f.b)) j) (laneOf t.width (r.getV (regNum f.c)) j))
      (fun j hj => getD_lanesOn _ hj)
      (fun j hj _ => by
        rw [hres, getD_map_range _ hj, getD_lanesOf _ hj, getD_lanesOf _ hj, getD_lanesOf _ hj])
  rw [← hdr]
  refine ⟨writeLanes { r with lfsr := dr.2 } f.d t.width (lanesOn (r.getP f.pg.toNat) t.width) res, ?_,
    ⟨lw2.lanes, lw2.scales, lw2.flags, lw2.others, lw2.rest⟩, rfl⟩
  rw [hres, hdr]
  unfold vArith
  rw [etBad_of ht, hs, hd, ha, hb, hc, c3, vty_of ht]
  rfl

theorem drawLanes_off (on : List Bool) (g : W64) : (drawLanes false on g).2 = g := by
  induction on with
  | nil => rfl
  | cons o os ih => simp [drawLanes, ih]

theorem RetiresLanes.congr {s : State} {u : Issue} {d w : Nat} {on on' : Nat → Bool} {x x' : Nat → Nat × Flags} {g : W64} {o : Result}
    (h : s.RetiresLanes u d w on x g o) (ho : ∀ j, j < 512 / w → on j = on' j) (hx : ∀ j, j < 512 / w → on j = true → x j = x' j) :
    s.RetiresLanes u d w on' x' g o := by
  obtain ⟨t, l, e, r⟩ := h
  exact ⟨t, l.congr ho hx, e, r⟩

theorem move_ok {f : FmtV} {t : ElemType} {subOk useB kA tyOk : Bool} {g : Nat → Nat → List Nat} (ht : ElemType.ofCode f.et.toNat = some t)
    (hs : subOk = true) (hd : isKind f.d .v = true) (ha : kA = true) (hb : (!useB || isKind f.b .v) = true) (sr : f.sr = false) (ty : tyOk = true)
    (len : (g t.width (512 / t.width)).length = 512 / t.width) (r : Regs) :
    ∃ t', vMove subOk useB kA tyOk g f r = .ok t' ∧
      r.LanesWritten (regNum f.d) t.width (laneOn (r.getP f.pg.toNat) t.width) (fun j => ((g t.width (512 / t.width)).getD j 0, 0)) t' ∧ t'.lfsr = r.lfsr := by
  have lw := writeLanes_spec (r := r) (w := t.width) (d := f.d) (on := lanesOn (r.getP f.pg.toNat) t.width)
      (res := (g t.width (512 / t.width)).map (fun x => (x, 0)))
      (ElemType.width_ok t) (length_lanesOn _ _) (by simp [len])
  have lw2 := lw.congr (on' := laneOn (r.getP f.pg.toNat) t.width) (x' := fun j => ((g t.width (512 / t.width)).getD j 0, 0))
      (fun j hj => getD_lanesOn _ hj)
      (fun j hj _ => by
        have : j < (g t.width (512 / t.width)).length := by omega
        simp [List.getD_eq_getElem?_getD, List.getElem?_eq_getElem this])
  refine ⟨_, ?_, lw2, rfl⟩
  unfold vMove
  rw [etBad_of ht, hs, hd, ha, hb, sr, ty, vty_of ht]
  rfl

theorem move_retires {s : State} {u : Issue} {f : FmtV} {t : ElemType} {op : Regs → Except SedunFault Regs} {x : Nat → Nat} (h : s.dev.Clean u)
    (k : ∃ subOk useB kA tyOk g, op { s.regsOf u with flags := 0 } = vMove subOk useB kA tyOk g f { s.regsOf u with flags := 0 } ∧
      subOk = true ∧ kA = true ∧ (!useB || isKind f.b .v) = true ∧ tyOk = true ∧ (g t.width (512 / t.width)).length = 512 / t.width ∧
      ∀ j, j < 512 / t.width → (g t.width (512 / t.width)).getD j 0 % 2 ^ t.width = x j % 2 ^ t.width)
    (ht : ElemType.ofCode f.et.toNat = some t) (hd : isKind f.d .v = true) (sr : f.sr = false) :
    s.RetiresLanes u (regNum f.d) t.width (laneOn ((s.regsOf u).getP f.pg.toNat) t.width) (fun j => (x j, 0)) (s.regsOf u).lfsr (s.issueV u (regOp op)) := by
  obtain ⟨subOk, useB, kA, tyOk, g, e, h1, h2, h3, h4, h5, h6⟩ := k
  obtain ⟨T, k, l, lf⟩ := move_ok (g := g) ht h1 hd h2 h3 sr h4 h5 { s.regsOf u with flags := 0 }
  rw [← e] at k
  obtain ⟨T', l', e', r'⟩ := State.retiresLanes_of h k l lf
  refine ⟨T', ⟨fun j hj => ?_, l'.scales, l'.flags, l'.others, l'.rest⟩, e', r'⟩
  have q := l'.lanes j hj
  by_cases c : laneOn ((s.regsOf u).getP f.pg.toNat) t.width j = true
  · rw [if_pos c]; exact (q.trans (if_pos c)).trans (h6 j hj)
  · rw [if_neg c]; exact q.trans (if_neg c)

theorem laneOf_and (w : Nat) (x y : BitVec 512) (j : Nat) : laneOf w (x &&& y) j = laneOf w x j &&& laneOf w y j := by
  simp only [laneOf, BitVec.toNat_and, Nat.shiftRight_and_distrib, Nat.and_mod_two_pow]

theorem laneOf_or (w : Nat) (x y : BitVec 512) (j : Nat) : laneOf w (x ||| y) j = laneOf w x j ||| laneOf w y j := by
  simp only [laneOf, BitVec.toNat_or, Nat.shiftRight_or_distrib, Nat.or_mod_two_pow]

theorem laneOf_xor (w : Nat) (x y : BitVec 512) (j : Nat) : laneOf w (x ^^^ y) j = laneOf w x j ^^^ laneOf w y j := by
  simp only [laneOf, BitVec.toNat_xor, Nat.shiftRight_xor_distrib, Nat.xor_mod_two_pow]

theorem laneOf_not {w : Nat} (hw : w * (512 / w) = 512) (x : BitVec 512) {j : Nat} (hj : j < 512 / w) : laneOf w (~~~x) j = 2 ^ w - 1 - laneOf w x j := by
  apply Nat.eq_of_testBit_eq
  intro i
  have e1 : 2 ^ w - 1 - laneOf w x j = 2 ^ w - (laneOf w x j + 1) := by omega
  rw [e1, Nat.testBit_two_pow_sub_succ (laneOf_lt w x j)]
  simp only [laneOf, Nat.testBit_mod_two_pow, Nat.testBit_shiftRight]
  by_cases hi : i < w
  · have : w * j + i < 512 := by
      have : w * (j + 1) ≤ 512 := by rw [← hw]; exact Nat.mul_le_mul_left _ hj
      rw [Nat.mul_add] at this
      omega
    have e2 : (~~~x).toNat.testBit (w * j + i) = !(x.toNat.testBit (w * j + i)) := by
      have := BitVec.getLsbD_not (x := x) (i := w * j + i)
      simp only [BitVec.getLsbD] at this
      rw [this]
      simp; omega
    rw [e2, decide_eq_true hi]
    simp
  · simp [hi]

theorem packNat_testBit {w : Nat} (hw : 0 < w) (bs : List Bool) (i : Nat) :
    (packNat w (bs.map (fun b => if b then 2 ^ w - 1 else 0))).testBit i = bs.getD (i / w) false := by
  have e := packNat_lane w (bs.map (fun b => if b then 2 ^ w - 1 else 0)) (i / w)
  have m : i % w < w := Nat.mod_lt _ hw
  have t : (packNat w (bs.map (fun b => if b then 2 ^ w - 1 else 0))).testBit i =
      (((packNat w (bs.map (fun b => if b then 2 ^ w - 1 else 0))) >>> (w * (i / w))) % 2 ^ w).testBit (i % w) := by
    rw [Nat.testBit_mod_two_pow, Nat.testBit_shiftRight, decide_eq_true m, Bool.true_and, Nat.div_add_mod]
  rw [t, e, Nat.testBit_mod_two_pow, decide_eq_true m, Bool.true_and]
  simp only [List.getD_eq_getElem?_getD, List.getElem?_map]
  cases bs[i / w]? with
  | none => simp
  | some b => cases b <;> simp [Nat.testBit_two_pow_sub_one, m]

theorem retiresV_keep {s : State} {u : Issue} {op : Regs → Except SedunFault Regs} {t : Regs} (h : s.dev.Clean u)
    (k : op { s.regsOf u with flags := 0 } = .ok { t with flags := 0 }) (e : t.flags = (s.regsOf u).flags) : s.Retires u t (s.issueV u (regOp op)) := by
  have q := State.issueV_regOp h k
  have z : ({ ({ t with flags := 0 } : Regs) with flags := (s.regsOf u).flags ||| ({ t with flags := 0 } : Regs).flags } : Regs) = t := by
    rw [← e]; simp
  rw [z] at q
  exact q

theorem retires_keep {s : State} {u : Issue} {op : Regs → Except SedunFault Regs} {t : Regs} (h : s.dev.Clean u)
    (k : op { s.regsOf u with flags := 0 } = .ok { t with flags := 0 }) (e : t.flags = (s.regsOf u).flags) : s.Retires u t (s.issue u (regOp op)) := by
  have q := State.issue_regOp h k
  have z : ({ ({ t with flags := 0 } : Regs) with flags := (s.regsOf u).flags ||| ({ t with flags := 0 } : Regs).flags } : Regs) = t := by
    rw [← e]; simp
  rw [z] at q
  exact q

theorem tree_len {α : Type} (g : α → α → α) : ∀ (k : Nat) (xs : List α), xs.length = 2 ^ k → (treeReduce g k xs).length = 1
  | 0, xs, h => by simpa [treeReduce] using h
  | k + 1, xs, h => by
    simp only [treeReduce]
    apply tree_len g k
    simp [h, Nat.pow_succ]
    omega

theorem tree_sum : ∀ (k : Nat) (xs : List Int), xs.length = 2 ^ k → (treeReduce (redInt 0) k xs).headD 0 = xs.sum
  | 0, xs, h => by
    obtain ⟨a, rfl⟩ := List.length_eq_one_iff.1 (by simpa using h)
    simp [treeReduce]
  | k + 1, xs, h => by
    simp only [treeReduce]
    rw [tree_sum k _ (by simp [h, Nat.pow_succ]; omega)]
    have z : ∀ a b : List Int, a.length = b.length → (List.zipWith (redInt 0) a b).sum = a.sum + b.sum := by
      intro a
      induction a with
      | nil => intro b e; simp at e; rw [List.length_eq_zero_iff.1 e.symm]; simp
      | cons x a ih =>
        intro b e
        cases b with
        | nil => simp at e
        | cons y b =>
          simp only [List.zipWith_cons_cons, List.sum_cons]
          rw [ih b (by simpa using e)]
          simp only [redInt]
          omega
    rw [z _ _ (by simp [h, Nat.pow_succ]; omega), ← List.sum_append, List.take_append_drop]

theorem tree_pick {g : Int → Int → Int} (R : Int → Int → Prop) (rt : ∀ a b c, R a b → R b c → R a c) (rr : ∀ a, R a a)
    (hg : ∀ a b, (g a b = a ∨ g a b = b) ∧ R a (g a b) ∧ R b (g a b)) : ∀ (k : Nat) (xs : List Int), xs.length = 2 ^ k →
      (treeReduce g k xs).headD 0 ∈ xs ∧ ∀ x ∈ xs, R x ((treeReduce g k xs).headD 0)
  | 0, xs, h => by
    obtain ⟨a, rfl⟩ := List.length_eq_one_iff.1 (by simpa using h)
    simp [treeReduce, rr]
  | k + 1, xs, h => by
    simp only [treeReduce]
    obtain ⟨m, l⟩ := tree_pick R rt rr hg k (List.zipWith g (xs.take (xs.length / 2)) (xs.drop (xs.length / 2))) (by simp [h, Nat.pow_succ]; omega)
    have len : (xs.take (xs.length / 2)).length = (xs.drop (xs.length / 2)).length := by simp [h, Nat.pow_succ]; omega
    constructor
    · obtain ⟨i, hi, e⟩ := List.mem_iff_getElem.1 m
      simp only [List.getElem_zipWith] at e
      simp only [List.length_zipWith] at hi
      rcases (hg (xs.take (xs.length / 2))[i] (xs.drop (xs.length / 2))[i]).1 with q | q
      · rw [← e, q]; exact List.mem_of_mem_take (List.getElem_mem _)
      · rw [← e, q]; exact List.mem_of_mem_drop (List.getElem_mem _)
    · intro x hx
      rw [← List.take_append_drop (xs.length / 2) xs, List.mem_append] at hx
      rcases hx with hx | hx
      · obtain ⟨i, hi, e⟩ := List.mem_iff_getElem.1 hx
        have := l (g (xs.take (xs.length / 2))[i] (xs.drop (xs.length / 2))[i]) (List.mem_iff_getElem.2 ⟨i, by simp only [List.length_zipWith]; omega, by simp⟩)
        exact rt _ _ _ (by rw [← e]; exact (hg _ _).2.1) this
      · obtain ⟨i, hi, e⟩ := List.mem_iff_getElem.1 hx
        have := l (g (xs.take (xs.length / 2))[i] (xs.drop (xs.length / 2))[i]) (List.mem_iff_getElem.2 ⟨i, by simp only [List.length_zipWith]; omega, by simp⟩)
        exact rt _ _ _ (by rw [← e]; exact (hg _ _).2.2) this

theorem retiresV_set {s : State} {u : Issue} {op : Regs → Except SedunFault Regs} {c : BitVec 8} {x : W64} (h : s.dev.Clean u)
    (k : op { s.regsOf u with flags := 0 } = .ok (({ s.regsOf u with flags := 0 } : Regs).writeSA c x)) :
    s.Retires u ((s.regsOf u).writeSA c x) (s.issueV u (regOp op)) := by
  have e := State.issueV_regOp h k
  rw [Regs.writeSA_flags] at e
  exact e

theorem retiresV_raise {s : State} {u : Issue} {op : Regs → Except SedunFault Regs} {c : BitVec 8} {x : W64} {fl : Flags} (h : s.dev.Clean u)
    (k : op { s.regsOf u with flags := 0 } = .ok ((({ s.regsOf u with flags := 0 } : Regs).writeSA c x).raise fl)) :
    s.Retires u (((s.regsOf u).writeSA c x).raise fl) (s.issueV u (regOp op)) := by
  have e := State.issueV_regOp h k
  have q : ({ (({ s.regsOf u with flags := 0 } : Regs).writeSA c x).raise fl with
      flags := (s.regsOf u).flags ||| ((({ s.regsOf u with flags := 0 } : Regs).writeSA c x).raise fl).flags } : Regs) =
      ((s.regsOf u).writeSA c x).raise fl := by
    unfold Regs.writeSA Regs.raise
    split <;> simp [Regs.setS, Regs.setA]
  rw [q] at e
  exact e

theorem Regs.LanesWritten.of_lfsr {r t : Regs} {g : W64} {d w : Nat} {on : Nat → Bool} {x : Nat → Nat × Flags}
    (h : ({ r with lfsr := g } : Regs).LanesWritten d w on x t) : r.LanesWritten d w on x t :=
  ⟨h.lanes, h.scales, h.flags, h.others, h.rest⟩

end Sys2Proof.Machine
end

