-- ==== Sys2Proof/Laws/LocalStore.lean ====
section
/-! SUPPORT. What the operations over tiles and the local store answer: rows written, bytes read and stored. -/
namespace Sys2Proof.Machine

theorem laneOf_zero (w j : Nat) : laneOf w 0 j = 0 := by
  unfold laneOf
  rw [show (0 : BitVec 512).toNat = 0 from BitVec.toNat_zero, Nat.zero_shiftRight, Nat.zero_mod]

theorem getTRow_setTRow (r : Regs) (k i : Nat) (x : BitVec 512) : (r.setTRow k i x).getTRow k i = x := FMap.get_set_self _ _ _ _

theorem getTRow_setTRow_ne (r : Regs) {k i m j : Nat} (x : BitVec 512) (h : 16 * m + j ≠ 16 * k + i) : (r.setTRow k i x).getTRow m j = r.getTRow m j :=
  FMap.get_set_ne _ _ _ h

theorem writeRows_t (f : Nat → List (Nat × Flags)) (k : Nat) : ∀ (rows : List Nat) (r : Regs), rows.Nodup → (∀ i ∈ rows, i < 16) →
    (∀ i, i ∈ rows → (writeRows f k rows r).getTRow k i = packLanes 32 ((f i).map (·.1))) ∧
    (∀ m j, (m ≠ k ∨ j ∉ rows) → j < 16 → (writeRows f k rows r).getTRow m j = r.getTRow m j) ∧
    (∀ b, (writeRows f k rows r).flags.getLsbD b = (r.flags.getLsbD b || rows.any (fun i => (Flags.all ((f i).map (·.2))).getLsbD b))) ∧
    writeRows f k rows r = { r with t := (writeRows f k rows r).t, flags := (writeRows f k rows r).flags }
  | [], r, _, _ => ⟨by simp, fun _ _ _ _ => rfl, by simp [writeRows], rfl⟩
  | i :: rows, r, nd, lt => by
    obtain ⟨a, b, c, d⟩ := writeRows_t f k rows ((r.setTRow k i (packLanes 32 ((f i).map (·.1)))).raise (Flags.all ((f i).map (·.2)))) (List.nodup_cons.1 nd).2
      (fun j hj => lt j (List.mem_cons_of_mem _ hj))
    have ni := (List.nodup_cons.1 nd).1
    refine ⟨fun j hj => ?_, fun m j h l => ?_, fun x => ?_, ?_⟩
    · rcases List.mem_cons.1 hj with e | e
      · subst e
        exact (b k j (Or.inr ni) (lt j (by simp))).trans (getTRow_setTRow _ _ _ _)
      · exact a j e
    · refine (b m j ?_ l).trans (getTRow_setTRow_ne _ _ ?_)
      · rcases h with h | h
        · exact Or.inl h
        · exact Or.inr (fun x => h (List.mem_cons_of_mem _ x))
      · have := lt i (by simp)
        rcases h with h | h
        · omega
        · intro e
          apply h
          have : j = i := by omega
          simp [this]
    · show (writeRows f k rows _).flags.getLsbD x = _
      rw [c x]
      show ((r.flags ||| _).getLsbD x || _) = _
      rw [BitVec.getLsbD_or, List.any_cons, Bool.or_assoc]
    · exact d

theorem tile_ok {r : Regs} {k : Nat} {f : Nat → List (Nat × Flags)} {x : Nat → Nat → Nat × Flags} (h : ∀ i, f i = (List.range 16).map (x i)) :
    r.TileWritten k x (writeRows f k (List.range 16) r) := by
  obtain ⟨a, b, c, d⟩ := writeRows_t f k (List.range 16) r List.nodup_range (fun i hi => List.mem_range.1 hi)
  refine ⟨fun i hi j hj => ?_, fun bb => ?_, fun m i n hi => b m i (Or.inl n) hi, d⟩
  · rw [a i (List.mem_range.2 hi), laneOf_packLanes (by simp [h]), h]
    rw [List.map_map, getD_map_range _ hj]
    rfl
  · rw [c bb]
    congr 1
    congr 1
    funext i
    rw [Flags.all_getLsbD, h, List.map_map, List.any_map]
    rfl

theorem tileSticky {r t : Regs} {k : Nat} {x : Nat → Nat → Nat × Flags} (h : ({ r with flags := 0 } : Regs).TileWritten k x t) :
    r.TileWritten k x { t with flags := r.flags ||| t.flags } := by
  refine ⟨h.elems, fun b => ?_, h.others, ?_⟩
  · show (r.flags ||| t.flags).getLsbD b = _
    rw [BitVec.getLsbD_or, h.flags b]
    simp
  · have := h.rest
    rw [this]

theorem setT_with (r : Regs) (k i : Nat) (x : BitVec 512) (m : FMap (BitVec 512)) : ({ r.setTRow k i x with t := m } : Regs) = { r with t := m } := rfl

theorem fill_rows (x : BitVec 512) : ∀ (k : Nat) (rows : List Nat) (r : Regs), (∀ i ∈ rows, i < 16) →
    (∀ i, i ∈ rows → (rows.foldl (fun r row => r.setTRow k row x) r).getTRow k i = x) ∧
    (∀ m j, (m ≠ k ∨ j ∉ rows) → j < 16 → (rows.foldl (fun r row => r.setTRow k row x) r).getTRow m j = r.getTRow m j) ∧
    rows.foldl (fun r row => r.setTRow k row x) r = { r with t := (rows.foldl (fun r row => r.setTRow k row x) r).t }
  | k, [], r, _ => ⟨by simp, fun _ _ _ _ => rfl, rfl⟩
  | k, i :: rows, r, lt => by
    obtain ⟨a, b, c⟩ := fill_rows x k rows (r.setTRow k i x) (fun j hj => lt j (List.mem_cons_of_mem _ hj))
    refine ⟨fun j hj => ?_, fun m j h l => ?_, c⟩
    · by_cases e : j ∈ rows
      · exact a j e
      · rcases List.mem_cons.1 hj with q | q
        · subst q
          exact (b k j (Or.inr e) (lt j (by simp))).trans (getTRow_setTRow _ _ _ _)
        · exact absurd q e
    · refine (b m j ?_ l).trans (getTRow_setTRow_ne _ _ ?_)
      · rcases h with h | h
        · exact Or.inl h
        · exact Or.inr (fun x => h (List.mem_cons_of_mem _ x))
      · have := lt i (by simp)
        rcases h with h | h
        · omega
        · intro e
          apply h
          have : j = i := by omega
          simp [this]

theorem lsView_quiet {d : Dev} {g a n : Nat} (h : (d.core g).quiet a n) : d.lsLoad g a n = ((d.core g).lsRead a n, d) := by
  have e : (linesOf a n).filter (fun l => ((d.core g).dma.filter (fun e => e.readsIn && !e.onRegs && (e.kind == 0 || e.started))).any (fun e => e.meetsLine l)) = [] := by
    rw [List.filter_eq_nil_iff]
    intro l hl
    simp only [List.any_eq_true, List.mem_filter, Bool.and_eq_true, Bool.not_eq_true', not_exists, not_and]
    intro x hx hm
    have := h x hx.1 hx.2.1.1 hx.2.1.2 l hl
    rw [this] at hm
    exact absurd hm (by decide)
  unfold Dev.lsLoad Dev.lsView
  dsimp only
  rw [e]
  rfl

theorem loadOp_ok {d : Dev} {g : Nat} {check : Regs → Except SedunFault Nat} {n a : Nat} {fn : List Byte → Regs → Regs}
    (pts : ∀ b ∈ (FMap.get Points.none d.dbg.points g).bp, b = none) (k : check (d.core g).regs = .ok a) (q : (d.core g).quiet a n) :
    loadOp check n fn d g = .ok (false, d.putCore g ((d.core g).retired (fn ((d.core g).lsRead a n) (d.core g).regs))) := by
  unfold loadOp
  rw [k]
  dsimp only
  rw [lsView_quiet q]
  dsimp only
  rw [Dev.advance_eq _ _ _ pts]
  rfl

theorem mxlOp_ok {d : Dev} {g : Nat} {f : FmtX} {a sa : Nat} (pts : ∀ b ∈ (FMap.get Points.none d.dbg.points g).bp, b = none)
    (k : mxlCheck f (d.core g).regs = .ok (a, sa)) (q : (d.core g).quiet a (mxLen f)) (q2 : (d.core g).quiet sa 16) :
    mxlOp f d g = .ok (false, d.putCore g ((d.core g).retired (mxlDone f ((d.core g).lsRead a (mxLen f)) ((d.core g).lsRead sa 16) (d.core g).regs))) := by
  unfold mxlOp
  rw [k]
  dsimp only
  rw [lsView_quiet q]
  dsimp only
  rw [lsView_quiet q2]
  dsimp only
  rw [Dev.advance_eq _ _ _ pts]
  rfl

theorem Dev.putCore_quiet {s : State} {u : Issue} (h : s.dev.Clean u) (k : Core) (ga : Gauge) :
    s.dev.Put u.core k (Dev.putCore { s.dev with out := [], gau := ga } u.core k) ∧
    Dev.putCore { s.dev with out := [], gau := ga } u.core k = { s.dev with out := [], cores := (Dev.putCore { s.dev with out := [], gau := ga } u.core k).cores, gau := (Dev.putCore { s.dev with out := [], gau := ga } u.core k).gau } := by
  refine ⟨(Dev.put_putCore { s.dev with out := [], gau := ga } u.core k h.lead).from rfl rfl, ?_⟩
  rw [Dev.putCore_cores]

theorem load_issues {s : State} {u : Issue} {check : Regs → Except SedunFault Nat} {n a : Nat} {fn : List Byte → Regs → Regs} (h : s.dev.Clean u)
    (k : check (s.regsOf u) = .ok a) (q : (s.coreOf u).quiet a n) :
    s.Issues u ((s.coreOf u).retired (fn ((s.coreOf u).lsRead a n) (s.regsOf u))) (s.issue u (loadOp check n fn)) :=
  State.issues_of h false (op := loadOp check n fn) _ fun ga =>
    ⟨_, _, loadOp_ok (d := { s.dev with out := [], gau := ga }) h.points k q, Dev.putCore_quiet h _ ga⟩

theorem lsCheck_ok {sb kb : Bool} {f : FmtX} {r : Regs} {n al a : Nat} (et : f.et.toNat < 0xD) (b : isKind f.base .a = true) (h1 : sb = false) (h2 : kb = false)
    (ha : (a : Int) = (r.getA (regNum f.base)).toNat + f.off.toInt) (h3 : a + n ≤ 0x40000) (h4 : a % al = 0) : lsCheck sb kb f r n al = .ok a := by
  have e : etBad f.et = false := by unfold etBad; simp; omega
  have la : lsAddr f r = (a : Int) := ha.symm
  have o : lsOut (lsAddr f r) n = false := by
    rw [la]
    unfold lsOut lsSize
    simp
    omega
  unfold lsCheck
  rw [e, b, h1, h2, o, la, Int.toNat_natCast, h4]
  rfl

theorem take_lsRead (k : Core) (a : Nat) {m n : Nat} (h : m ≤ n) : (k.lsRead a n).take m = k.lsRead a m := by
  unfold Core.lsRead
  rw [← List.map_take, List.take_range, Nat.min_eq_left h]

theorem drop_lsRead (k : Core) (a m n : Nat) {t : Nat} (h : t = m + n) : (k.lsRead a t).drop m = k.lsRead (a + m) n := by
  unfold Core.lsRead
  subst h
  apply List.ext_getElem
  · simp
  · intro i h1 h2
    simp only [List.getElem_drop, List.getElem_map, List.getElem_range]
    congr 1 <;> congr 1 <;> omega

theorem setMany_get (a : Nat) : ∀ (bs : List Byte) (m : FMap Byte) (x : Nat), a ≤ x → x < a + bs.length →
    FMap.get 0 (FMap.setMany 0 m a bs) x = bs.getD (x - a) 0 := by
  intro bs
  induction bs generalizing a with
  | nil => intro m x h k; simp at k; omega
  | cons b bs ih =>
    intro m x h k
    simp only [List.length_cons] at k
    show FMap.get 0 (FMap.setMany 0 (FMap.set 0 m a b) (a + 1) bs) x = _
    by_cases e : x = a
    · subst e
      rw [FMap.get_setMany_outside _ _ _ _ _ (Or.inl (by omega)), FMap.get_set_self]
      simp
    · rw [ih (a + 1) _ x (by omega) (by omega)]
      rw [show x - a = (x - (a + 1)) + 1 by omega, List.getD_cons_succ]

theorem lsRead_lsWrite (k : Core) (a : Nat) (bs : List Byte) (x : Nat) :
    (k.lsWrite a bs).lsRead x 1 = if a ≤ x ∧ x < a + bs.length then [bs.getD (x - a) 0] else k.lsRead x 1 := by
  have m : ∀ y, (k.lsWrite a bs).lsMask y = k.lsMask y := fun _ => rfl
  have r1 : ∀ (c : Core) y, c.lsRead y 1 = [FMap.get 0 c.ls y ^^^ c.lsMask y] := by
    intro c y
    simp [Core.lsRead, List.range_succ]
  rw [r1, r1, m]
  have len : (List.zipWith (fun b i => b ^^^ k.lsMask (a + i)) bs (List.range bs.length)).length = bs.length := by simp
  by_cases c : a ≤ x ∧ x < a + bs.length
  · rw [if_pos c]
    show [FMap.get 0 (FMap.setMany 0 k.ls a _) x ^^^ k.lsMask x] = _
    rw [setMany_get a _ _ _ c.1 (by rw [len]; exact c.2)]
    have hl : x - a < bs.length := by omega
    simp only [List.getD_eq_getElem?_getD]
    rw [List.getElem?_eq_getElem (by rw [len]; exact hl), List.getElem?_eq_getElem hl]
    simp only [List.getElem_zipWith, List.getElem_range, Option.getD_some]
    rw [show a + (x - a) = x by omega, BitVec.xor_assoc, BitVec.xor_self, BitVec.xor_zero]
  · rw [if_neg c]
    show [FMap.get 0 (FMap.setMany 0 k.ls a _) x ^^^ k.lsMask x] = _
    rw [FMap.get_setMany_outside _ _ _ _ _ (by rw [len]; omega)]

theorem store_core (k : Core) (a : Nat) (bs : List Byte) :
    k.Stored a bs { (((k.noteTaint a bs.length).lsWrite a bs).touch a bs.length) with pc := k.pc + 8 } := by
  have t1 : ∀ c : Core, (c.touch a bs.length).ls = c.ls ∧ (c.touch a bs.length).lsGen = c.lsGen ∧ (c.touch a bs.length).dma = c.dma ∧
      c.touch a bs.length = { c with ckpt := (c.touch a bs.length).ckpt } := by
    intro c
    unfold Core.touch
    split
    · split <;> exact ⟨rfl, rfl, rfl, rfl⟩
    · exact ⟨rfl, rfl, rfl, rfl⟩
  obtain ⟨l1, l2, l3, l4⟩ := t1 ((k.noteTaint a bs.length).lsWrite a bs)
  refine ⟨fun x => ?_, fun h => ?_, fun h => ?_, ?_, ?_⟩
  · have e : ∀ c d : Core, c.ls = d.ls → c.lsGen = d.lsGen → c.lsRead x 1 = d.lsRead x 1 := by
      intro c d h1 h2
      unfold Core.lsRead Core.lsMask
      rw [h1, h2]
    exact (e _ ((k.noteTaint a bs.length).lsWrite a bs) l1 l2).trans (lsRead_lsWrite _ _ _ _)
  · show (((k.noteTaint a bs.length).lsWrite a bs).touch a bs.length).ckpt = k.ckpt
    unfold Core.touch
    split
    · next c hc =>
      rw [if_neg]
      · rfl
      · rw [List.any_eq_true]
        rintro ⟨r, hr, ho⟩
        rw [h c hc r hr] at ho
        exact absurd ho (by decide)
    · rfl
  · obtain ⟨c, r, hc, hr, ho⟩ := h
    show (((k.noteTaint a bs.length).lsWrite a bs).touch a bs.length).ckpt = none
    unfold Core.touch
    split
    · next c' hc' =>
      have q : k.ckpt = some c' := hc'
      rw [hc] at q
      cases q
      rw [if_pos (List.any_eq_true.2 ⟨r, hr, ho⟩)]
    · next hn =>
      have q : k.ckpt = none := hn
      rw [hc] at q
      cases q
  · show (((k.noteTaint a bs.length).lsWrite a bs).touch a bs.length).dma.map _ = _
    rw [l3]
    show ((k.dma.map _).map _) = _
    rw [List.map_map]
    refine List.map_congr_left fun e _ => ?_
    show ({ (if e.writesOut then _ else e) with taint := [] } : DmaEntry) = _
    split <;> rfl
  · rw [l4]
    rfl

theorem lsStore_put {d : Dev} {g a : Nat} {bs : List Byte} (pts : ∀ b ∈ (FMap.get Points.none d.dbg.points g).bp, b = none)
    (wps : ∀ b ∈ (FMap.get Points.none d.dbg.points g).wp, b = none) (lead : d.isJoined g = true → g % 2 = 0) :
    d.Put g { ((((d.core g).noteTaint a bs.length).lsWrite a bs).touch a bs.length) with pc := (d.core g).pc + 8 } (d.lsStore g a bs) ∧
    d.lsStore g a bs = { d with cores := (d.lsStore g a bs).cores, gau := (d.lsStore g a bs).gau } := by
  have w : ∀ p : Option (Nat × Nat) → Bool, p none = false → (FMap.get Points.none d.dbg.points g).wp.any p = false := by
    intro p hp
    rw [List.any_eq_false]
    intro x hx
    rw [wps x hx, hp]
    decide
  obtain ⟨d1, h1⟩ : ∃ d1, d1 = d.putCore g ((d.core g).noteTaint a bs.length) := ⟨_, rfl⟩
  have p1 : d.Put g ((d.core g).noteTaint a bs.length) d1 := by rw [h1]; exact Dev.put_putCore _ _ _ lead
  have c1 : d1 = { d with cores := d1.cores } := by rw [h1]; exact Dev.putCore_cores _ _ _
  obtain ⟨d2, h2⟩ : ∃ d2, d2 = d1.putCore g (((d1.core g).lsWrite a bs).touch a bs.length) := ⟨_, rfl⟩
  have lead1 : d1.isJoined g = true → g % 2 = 0 := by rw [c1]; exact lead
  have p2 : d1.Put g (((d1.core g).lsWrite a bs).touch a bs.length) d2 := by rw [h2]; exact Dev.put_putCore _ _ _ lead1
  have c2 : d2 = { d1 with cores := d2.cores } := by rw [h2]; exact Dev.putCore_cores _ _ _
  obtain ⟨d3, h3⟩ : ∃ d3, d3 = d1.lsPut g a bs := ⟨_, rfl⟩
  have c3 : d3 = { d2 with gau := d3.gau } := by
    rw [h3, h2]
    unfold Dev.lsPut
    exact Dev.count_gau _ _ _ _
  have e3 : d3 = { d with cores := d3.cores, gau := d3.gau } := by rw [c3, c2, c1]
  have pts3 : ∀ b ∈ (FMap.get Points.none d3.dbg.points g).bp, b = none := by rw [e3]; exact pts
  have lead3 : d3.isJoined g = true → g % 2 = 0 := by rw [e3]; exact lead
  have p3 : d.Put g (((d1.core g).lsWrite a bs).touch a bs.length) d3 := ((p1.trans (by rw [c1]) p2)).congr (by rw [c3])
  have ad : d3.advance g id = d3.putCore g { d3.core g with pc := (d3.core g).pc + 8 } := Dev.advance_eq d3 g id pts3
  have st : d.lsStore g a bs = d3.putCore g { d3.core g with pc := (d3.core g).pc + 8 } := by
    rw [← ad]
    unfold Dev.lsStore
    dsimp only
    rw [← h1, ← h3, w _ rfl]
    rfl
  have p4 := p3.trans (by rw [e3]) (Dev.put_putCore d3 g { d3.core g with pc := (d3.core g).pc + 8 } lead3)
  rw [← st] at p4
  refine ⟨?_, ?_⟩
  · have q : ({ d3.core g with pc := (d3.core g).pc + 8 } : Core) = { ((((d.core g).noteTaint a bs.length).lsWrite a bs).touch a bs.length) with pc := (d.core g).pc + 8 } := by
      rw [p3.core, p1.core]
      have z : ∀ c : Core, (c.touch a bs.length).pc = c.pc := by
        intro c
        unfold Core.touch
        split
        · split <;> rfl
        · rfl
      rw [z]
      rfl
    rw [q] at p4
    exact p4
  · rw [st, Dev.putCore_cores, e3]

theorem store_issues {s : State} {u : Issue} {a : Nat} {bs : List Byte} {op : Dev → Nat → Except SedunFault Effect} (h : s.dev.Clean u)
    (wps : ∀ b ∈ (FMap.get Points.none s.dev.dbg.points u.core).wp, b = none)
    (k : ∀ ga, op { s.dev with out := [], gau := ga } u.core = .ok (true, Dev.lsStore { s.dev with out := [], gau := ga } u.core a bs)) :
    ∃ t, s.Issues u t (s.issue u op) ∧ (s.coreOf u).Stored a bs t := by
  refine ⟨_, State.issues_of h false (op := op) { ((((s.coreOf u).noteTaint a bs.length).lsWrite a bs).touch a bs.length) with pc := (s.coreOf u).pc + 8 } fun ga => ⟨_, _, k ga, ?_⟩, store_core _ _ _⟩
  obtain ⟨p, q⟩ := lsStore_put (d := { s.dev with out := [], gau := ga }) (a := a) (bs := bs) h.points wps h.lead
  refine ⟨p.from rfl rfl, ?_⟩
  generalize Dev.lsStore { s.dev with out := [], gau := ga } u.core a bs = e at q
  rw [q]

theorem stOp_ok {d : Dev} {g : Nat} {f : FmtX} {a : Nat} (k : stCheck f (d.core g).regs = .ok a) : stOp f d g = .ok (true, d.lsStore g a (stBytes f (d.core g).regs)) := by
  unfold stOp
  rw [k]

theorem vstOp_ok {d : Dev} {g : Nat} {f : FmtX} {a : Nat} (k : vstCheck f (d.core g).regs = .ok a) :
    vstOp f d g = .ok (true, d.lsStore g a (vstBytes f (d.core g).regs ((d.core g).lsRead a (vstLen f)))) := by
  unfold vstOp
  rw [k]

theorem vstMerge_len (p : W64) (v : BitVec 512) (old : List Byte) (h : old.length = 64) : (vstMerge p v old).length = 64 := by simp [vstMerge, h]

theorem vstMerge_get (p : W64) (v : BitVec 512) (old : List Byte) (h : old.length = 64) (i : Nat) (hi : i < 64) :
    (vstMerge p v old).getD i 0 = if p.getLsbD i then BitVec.ofNat 8 (laneOf 8 v i) else old.getD i 0 := by
  have l := vstMerge_len p v old h
  rw [List.getD_eq_getElem?_getD, List.getElem?_eq_getElem (by rw [l]; exact hi), Option.getD_some]
  unfold vstMerge
  rw [List.getElem_zipWith, List.getElem_range, List.getD_eq_getElem?_getD, List.getElem?_eq_getElem (by rw [h]; exact hi), Option.getD_some]

theorem lsRead_getD (k : Core) (a n i : Nat) (h : i < n) : (k.lsRead a n).getD i 0 = (k.lsRead (a + i) 1).getD 0 0 := by
  simp [Core.lsRead, List.getD_eq_getElem?_getD, h]

end Sys2Proof.Machine
end

