-- ==== Sys2Proof/Laws/Sync.lean ====
section
/-! SUPPORT. What the operations over the DMA queue, semaphores, plain memory, branches and checkpoints answer. -/
namespace Sys2Proof.Machine

theorem ctxOn_eq (s : State) (ga : Gauge) (g : Nat) : Dev.ctxOn { s.dev with out := [], gau := ga } g = s.dev.ctxOn g := rfl

theorem dmaCheck_eq (s : State) (ga : Gauge) (g : Nat) (bs : List Byte) : Dev.dmaCheck { s.dev with out := [], gau := ga } g bs = s.dev.dmaCheck g bs := rfl

theorem dmaFenced_eq (s : State) (ga : Gauge) (e : DmaEntry) : Dev.dmaFenced { s.dev with out := [], gau := ga } e = s.dev.dmaFenced e := rfl

theorem Dev.putCore_issue {s : State} {u : Issue} (h : s.dev.Clean u) (k : Core) (ga : Gauge) :
    s.dev.Put u.core k (Dev.putCore { s.dev with out := [], gau := ga } u.core k) ∧
    Dev.putCore { s.dev with out := [], gau := ga } u.core k = { s.dev with out := [], cores := (Dev.putCore { s.dev with out := [], gau := ga } u.core k).cores, gau := (Dev.putCore { s.dev with out := [], gau := ga } u.core k).gau } := by
  refine ⟨(Dev.put_putCore { s.dev with out := [], gau := ga } u.core k h.lead).from rfl rfl, ?_⟩
  rw [Dev.putCore_cores]

theorem etBad_of_lt {c : BitVec 4} (h : c.toNat < 0xD) : etBad c = false := by unfold etBad; simp; omega

theorem dmaOp_ok {d : Dev} {g a : Nat} {f : FmtX} {e : DmaEntry} (pts : ∀ b ∈ (FMap.get Points.none d.dbg.points g).bp, b = none)
    (k : lsCheck (f.sub != 0) false f (d.core g).regs 64 64 = .ok a) (q : (d.core g).quiet a 64) (c : d.dmaCheck g ((d.core g).lsRead a 64) = .ok e)
    (n : (d.core g).dma.length < 16) (fe : d.dmaFenced e = none) (k1 : e.kind ≠ 1) (k3 : e.kind ≠ 3) :
    dmaOp f d g = .ok (true, d.putCore g { (d.core g).retired (d.core g).regs with dma := (d.core g).dma ++ [{ e with data := [] }] }) := by
  unfold dmaOp
  rw [k]
  dsimp only
  rw [lsView_quiet q]
  dsimp only
  rw [c]
  dsimp only
  rw [if_neg (by omega), fe]
  dsimp only
  unfold Dev.enqueueDma
  have w : e.writesOut = false := by unfold DmaEntry.writesOut; simp [k1, k3]
  rw [w]
  dsimp only
  rw [if_neg k3]
  simp only [Bool.false_eq_true, if_false]
  rw [Dev.advance_eq _ _ _ pts]
  rfl

theorem dmaOp_full {d : Dev} {g a : Nat} {f : FmtX} {e : DmaEntry}
    (k : lsCheck (f.sub != 0) false f (d.core g).regs 64 64 = .ok a) (q : (d.core g).quiet a 64) (c : d.dmaCheck g ((d.core g).lsRead a 64) = .ok e)
    (n : 16 ≤ (d.core g).dma.length) : dmaOp f d g = .ok (false, d.putCore g ((d.core g).waits (.dma f) none)) := by
  unfold dmaOp
  rw [k]
  dsimp only
  rw [lsView_quiet q]
  dsimp only
  rw [c]
  dsimp only
  rw [if_pos n]
  rfl

theorem Dev.blkCount_gau (d : Dev) (b : Block) (ev n : Nat) : d.blkCount b ev n = { d with gau := (d.blkCount b ev n).gau } := by
  unfold Dev.blkCount
  split
  · rfl
  · refine foldl_gau _ (fun e i => ?_) _ _
    dsimp only
    split <;> rfl

theorem semCheck_ok {d : Dev} {g n : Nat} {f : FmtX} {dest : Bool} {p : Part} (et : f.et.toNat < 0xD) (hs : f.sub = 0) (hi : isSANone f.idx = true)
    (hn : n = (if f.idx = 0xFF then f.off.toNat % 4096 else ((d.core g).regs.readSA f.idx).toNat)) (hp : d.partOfCtx (d.ctxOn g) = some p)
    (hd : dest = true → isSA f.d = true) (gr : p.grantsSem n = true) (dies : n / 1024 < d.hw.dies) : d.semCheck g f dest = .ok n := by
  unfold Dev.semCheck
  rw [← hn]
  dsimp only
  rw [etBad_of_lt et, hs, hi, hp]
  dsimp only
  rw [gr]
  have e1 : decide (d.hw.dies ≤ semDie n) = false := by unfold semDie; simp; omega
  have e2 : (dest && !isSA f.d) = false := by
    cases dest
    · rfl
    · rw [hd rfl]; rfl
  rw [e1, e2]
  rfl

theorem semCheck_no {d : Dev} {g n : Nat} {f : FmtX} {dest : Bool} {p : Part} (et : f.et.toNat < 0xD) (hs : f.sub = 0) (hi : isSANone f.idx = true)
    (hn : n = (if f.idx = 0xFF then f.off.toNat % 4096 else ((d.core g).regs.readSA f.idx).toNat)) (hp : d.partOfCtx (d.ctxOn g) = some p)
    (hd : dest = true → isSA f.d = true) (gr : p.grantsSem n = false) : d.semCheck g f dest = .error .semaphore := by
  unfold Dev.semCheck
  rw [← hn]
  dsimp only
  rw [etBad_of_lt et, hs, hi, hp]
  dsimp only
  rw [gr, Bool.not_false, Bool.or_true]
  have e2 : (dest && !isSA f.d) = false := by
    cases dest
    · rfl
    · rw [hd rfl]; rfl
  rw [e2]
  rfl

theorem Dev.sem_setSem (d : Dev) (n : Nat) (x : Sem) : (d.setSem n x).sem n = x := FMap.get_set_self _ _ _ _

theorem Dev.sem_setSem_ne (d : Dev) {n m : Nat} (x : Sem) (h : m ≠ n) : (d.setSem n x).sem m = d.sem m := FMap.get_set_ne _ _ _ h

theorem sem_congr {d e : Dev} (h : e.sems = d.sems) (m : Nat) : e.sem m = d.sem m := by unfold Dev.sem; rw [h]

theorem Dev.acquire_spec {d : Dev} {g n : Nat} {dest : BitVec 8} (pts : ∀ b ∈ (FMap.get Points.none d.dbg.points g).bp, b = none) (lead : d.isJoined g = true → g % 2 = 0) :
    d.Put g ((d.core g).retired ((d.core g).regs.writeSA dest (if (d.sem n).poisoned then 0x0E else 0))) (d.acquire g n dest) ∧
    (d.acquire g n dest).sem n = { holder := some (g, d.ctxOn g), poisoned := false, waiters := (d.sem n).waiters } ∧
    (∀ m, m ≠ n → (d.acquire g n dest).sem m = d.sem m) ∧
    d.acquire g n dest = { d with cores := (d.acquire g n dest).cores, gau := (d.acquire g n dest).gau, sems := (d.acquire g n dest).sems } := by
  obtain ⟨d1, h1⟩ : ∃ d1, d1 = (d.setSem n { d.sem n with holder := some (g, d.ctxOn g), poisoned := false }).blkCount (.mrt (semDie n)) 3 1 := ⟨_, rfl⟩
  have e1 : d1 = { d.setSem n { d.sem n with holder := some (g, d.ctxOn g), poisoned := false } with gau := d1.gau } := by rw [h1]; exact Dev.blkCount_gau _ _ _ _
  have c1 : d1.core g = d.core g := by rw [e1]; rfl
  have ac : d.acquire g n dest = d1.putCore g ((d.core g).retired ((d.core g).regs.writeSA dest (if (d.sem n).poisoned then 0x0E else 0))) := by
    unfold Dev.acquire
    dsimp only
    rw [← h1, Dev.advance_eq _ _ _ (by rw [e1]; exact pts), c1]
    have : ∀ b : Bool, (d.core g).regs.writeNat dest (if b then 0x0E else 0) = (d.core g).regs.writeSA dest (if b then 0x0E else 0) := by
      intro b; cases b <;> rfl
    rw [this]
    rfl
  rw [ac]
  refine ⟨(Dev.put_putCore d1 g _ (by rw [e1]; exact lead)).from (by rw [e1]; rfl) (by rw [e1]; rfl), ?_, fun m hm => ?_, ?_⟩
  · rw [sem_congr (e := d1.putCore g _) (d := d1) (by rw [Dev.putCore_cores]), e1]
    exact Dev.sem_setSem d n { d.sem n with holder := some (g, d.ctxOn g), poisoned := false }
  · rw [sem_congr (e := d1.putCore g _) (d := d1) (by rw [Dev.putCore_cores]), e1]
    exact Dev.sem_setSem_ne d { d.sem n with holder := some (g, d.ctxOn g), poisoned := false } hm
  · rw [Dev.putCore_cores, e1]
    rfl

theorem acquireOp_free {d : Dev} {g n : Nat} {f : FmtX} (w : Bool) (c : d.semCheck g f true = .ok n) (h1 : d.holdsSem (d.ctxOn g) n = false)
    (h2 : d.semLoad (d.ctxOn g) < 16) (h3 : d.dieFenced (n / 1024) = false) (h4 : (d.sem n).holder = none) :
    acquireOp w f d g = .ok (true, d.acquire g n f.d) := by
  unfold acquireOp
  rw [c]
  dsimp only
  have : decide (16 ≤ d.semLoad (d.ctxOn g)) = false := by simp; omega
  unfold semDie
  rw [h1, this, h3, h4]
  rfl

theorem acquireOp_held {d : Dev} {g n : Nat} {f : FmtX} (w : Bool) (c : d.semCheck g f true = .ok n) (h1 : d.holdsSem (d.ctxOn g) n = false)
    (h2 : d.semLoad (d.ctxOn g) < 16) (h3 : d.dieFenced (n / 1024) = false) (h4 : (d.sem n).holder ≠ none)
    (pts : ∀ b ∈ (FMap.get Points.none d.dbg.points g).bp, b = none) :
    acquireOp w f d g = .ok (true, if w then (d.setSem n { d.sem n with waiters := (d.sem n).waiters ++ [g] }).putCore g
        ((d.core g).waits (.sema f n) (if n / 1024 = coreDie g then none else some d.ticks))
      else d.putCore g ((d.core g).retired ((d.core g).regs.writeSA f.d 0x80))) := by
  unfold acquireOp
  rw [c]
  dsimp only
  have : decide (16 ≤ d.semLoad (d.ctxOn g)) = false := by simp; omega
  obtain ⟨x, hx⟩ := Option.ne_none_iff_exists'.1 h4
  unfold semDie
  rw [h1, this, h3, hx]
  cases w
  · rw [Dev.advance_eq _ _ _ pts]
    rfl
  · unfold Dev.hold
    have : (if (n / 1024 != coreDie g) = true then some d.ticks else none) = if n / 1024 = coreDie g then none else some d.ticks := by
      by_cases e : n / 1024 = coreDie g
      · rw [if_pos e, if_neg (by simp [e])]
      · rw [if_neg e, if_pos (by simpa using e)]
    rw [← this]
    rfl

theorem Dev.setSem_put {d : Dev} {g n : Nat} (x : Sem) (k : Core) (lead : d.isJoined g = true → g % 2 = 0) :
    d.Put g k ((d.setSem n x).putCore g k) ∧ ((d.setSem n x).putCore g k).sem n = x ∧ (∀ m, m ≠ n → ((d.setSem n x).putCore g k).sem m = d.sem m) ∧
    (d.setSem n x).putCore g k = { d with cores := ((d.setSem n x).putCore g k).cores, sems := ((d.setSem n x).putCore g k).sems } := by
  have e : (d.setSem n x).putCore g k = { d.setSem n x with cores := ((d.setSem n x).putCore g k).cores } := Dev.putCore_cores _ _ _
  have p := (Dev.put_putCore (d.setSem n x) g k lead).from (d := d) rfl rfl
  refine ⟨p, ?_, fun m hm => ?_, ?_⟩
  · rw [sem_congr (e := (d.setSem n x).putCore g k) (d := d.setSem n x) (by rw [e])]
    exact Dev.sem_setSem d n x
  · rw [sem_congr (e := (d.setSem n x).putCore g k) (d := d.setSem n x) (by rw [e])]
    exact Dev.sem_setSem_ne d x hm
  · have q : ((d.setSem n x).putCore g k).sems = (d.setSem n x).sems := by rw [e]
    rw [q]
    exact e

theorem Dev.setSem_issue {s : State} {u : Issue} (h : s.dev.Clean u) (ga : Gauge) (n : Nat) (x : Sem) (k : Core) {e : Dev}
    (he : e = (Dev.setSem { s.dev with out := [], gau := ga } n x).putCore u.core k) :
    s.dev.Put u.core k e ∧ e.sem n = x ∧ (∀ m, m ≠ n → e.sem m = s.dev.sem m) ∧ e = { s.dev with out := [], cores := e.cores, gau := e.gau, sems := e.sems } := by
  obtain ⟨a, b, c, q⟩ := Dev.setSem_put (d := { s.dev with out := [], gau := ga }) (g := u.core) (n := n) x k h.lead
  rw [← he] at a b c q
  exact ⟨a.from rfl rfl, b, c, by rw [q]⟩

theorem Dev.served_id {d : Dev} (h : d.mirrors = []) (a : Nat) : d.served a = a := by unfold Dev.served Dev.mirrorAt; rw [h]; rfl

theorem Dev.writtenTo_id {d : Dev} (h : d.mirrors = []) (a : Nat) : d.writtenTo a = [a] := by unfold Dev.writtenTo Dev.mirrorAt; rw [h]; rfl

theorem Dev.tag_none {d : Dev} (h : d.tags = []) (l : Nat) : d.tag l = .none := by unfold Dev.tag; rw [h]; rfl

theorem Dev.rdByte_cell {d : Dev} (h : d.mirrors = []) (t : d.tags = []) (v : View) (a : Nat) : d.rdByte v a = d.cell a := by
  unfold Dev.rdByte Dev.readsShadow
  rw [Dev.served_id h]
  dsimp only
  rw [Dev.tag_none t]
  rfl

theorem Dev.rd_cells {d : Dev} (h : d.mirrors = []) (t : d.tags = []) (v : View) (a n : Nat) : d.rd v a n = (List.range n).map (fun i => d.cell (a + i)) := by
  unfold Dev.rd
  exact List.map_congr_left fun i _ => Dev.rdByte_cell h t v _

theorem Dev.mask_congr {d e : Dev} (h1 : e.dramGen = d.dramGen) (h2 : e.regs = d.regs) (h3 : e.hw = d.hw) (a : Nat) : e.mask a = d.mask a := by
  have l : ∀ n, e.linear n = d.linear n := by
    intro n
    unfold Dev.linear Dev.rbit Dev.rn
    rw [Dev.reg_congr h2 h3]
  have k : e.lossKey a = d.lossKey a := by
    unfold Dev.lossKey Dev.stackOf
    rw [l]
  unfold Dev.mask
  rw [k, h1]

theorem Dev.cell_congr {d e : Dev} (m : e.mem = d.mem) (h1 : e.dramGen = d.dramGen) (h2 : e.regs = d.regs) (h3 : e.hw = d.hw) (a : Nat) : e.cell a = d.cell a := by
  unfold Dev.cell
  rw [Dev.mask_congr h1 h2 h3, m]

theorem Dev.cell_setCell (d : Dev) (a b : Nat) (x : Byte) : (d.setCell a x).cell b = if b = a then x else d.cell b := by
  have m : (d.setCell a x).mask b = d.mask b := Dev.mask_congr rfl rfl rfl b
  unfold Dev.cell
  rw [m]
  show FMap.get 0 (FMap.set 0 d.mem a (x ^^^ d.mask a)) b ^^^ d.mask b = _
  by_cases e : b = a
  · subst e
    rw [FMap.get_set_self, if_pos rfl, BitVec.xor_assoc, BitVec.xor_self, BitVec.xor_zero]
  · rw [FMap.get_set_ne _ _ _ e, if_neg e]

theorem Dev.setCells_eq : ∀ (bs : List Byte) (d : Dev) (a : Nat), d.setCells a bs = { d with mem := (d.setCells a bs).mem }
  | [], _, _ => rfl
  | b :: bs, d, a => by
    have e := Dev.setCells_eq bs (d.setCell a b) (a + 1)
    show (d.setCell a b).setCells (a + 1) bs = _
    rw [e]
    rfl

theorem Dev.cell_setCells : ∀ (bs : List Byte) (d : Dev) (a b : Nat), (d.setCells a bs).cell b = if a ≤ b ∧ b < a + bs.length then bs.getD (b - a) 0 else d.cell b
  | [], d, a, b => by rw [if_neg (by simp)]; rfl
  | x :: bs, d, a, b => by
    show ((d.setCell a x).setCells (a + 1) bs).cell b = _
    rw [Dev.cell_setCells bs, Dev.cell_setCell]
    simp only [List.length_cons]
    by_cases e : b = a
    · subst e
      rw [if_neg (by omega), if_pos rfl, if_pos (by omega)]
      simp
    · by_cases c : a + 1 ≤ b ∧ b < a + 1 + bs.length
      · rw [if_pos c, if_pos (by omega), show b - a = (b - (a + 1)) + 1 by omega, List.getD_cons_succ]
      · rw [if_neg c, if_neg e, if_neg (by omega)]

theorem Dev.wr_plain {d : Dev} {a : Nat} {bs : List Byte} (h : d.mirrors = []) (t : d.tags = []) (l : a % 64 + bs.length ≤ 64) (n : bs.length ≠ 64) (z : bs ≠ []) :
    d.wr View.plain a bs = d.setCells a bs := by
  have p : linePieces (bs.length + 1) a bs = [(a, bs)] := by
    unfold linePieces
    dsimp only
    rw [if_pos (by omega), if_neg (by simpa using z)]
  unfold Dev.wr
  rw [p]
  show d.wrLine View.plain a bs = _
  unfold Dev.wrLine
  dsimp only
  rw [Dev.writtenTo_id h]
  dsimp only [List.headD_cons]
  rw [Dev.tag_none t]
  show d.storeAll [a] bs = _
  unfold Dev.storeAll Dev.storeAt
  simp [n]

theorem leBytes_len : ∀ (n x : Nat), (leBytes n x).length = n
  | 0, _ => rfl
  | n + 1, x => by simp [leBytes, leBytes_len n]

theorem leBytes_leNat : ∀ bs : List Byte, leBytes bs.length (leNat bs) = bs
  | [] => rfl
  | b :: bs => by
    have l : b.toNat < 256 := b.isLt
    simp only [List.length_cons, leBytes, leNat]
    rw [show (b.toNat + 256 * leNat bs) % 256 = b.toNat by omega, show (b.toNat + 256 * leNat bs) / 256 = leNat bs by omega, leBytes_leNat bs]
    simp

theorem mortar_line {h : Hw} {a die : Nat} (p : placeOf h a = .mortar die) : placeOf h (64 * (a / 64)) = .mortar die := by
  unfold placeOf at p
  by_cases c1 : a < 0x2000000000
  · rw [if_pos c1] at p
    split at p <;> cases p
  · rw [if_neg c1] at p
    by_cases c2 : 0x4000000000 ≤ a ∧ a < 0x4400000000
    · rw [if_pos c2] at p
      by_cases c3 : (a - 0x4000000000) / 0x100000000 < h.dies ∧ a % 0x100000000 < mortarSize
      · rw [if_pos c3] at p
        have d1 : ¬ 64 * (a / 64) < 0x2000000000 := by omega
        have d2 : 0x4000000000 ≤ 64 * (a / 64) ∧ 64 * (a / 64) < 0x4400000000 := by omega
        have d4 : (64 * (a / 64) - 0x4000000000) / 0x100000000 = (a - 0x4000000000) / 0x100000000 := by omega
        have d3 : (64 * (a / 64) - 0x4000000000) / 0x100000000 < h.dies ∧ 64 * (a / 64) % 0x100000000 < mortarSize := by
          refine ⟨by rw [d4]; exact c3.1, ?_⟩
          have := c3.2
          unfold mortarSize at this ⊢
          omega
        unfold placeOf
        rw [if_neg d1, if_pos d2, if_pos d3, d4]
        exact p
      · rw [if_neg c3] at p
        cases p
    · rw [if_neg c2] at p
      split at p <;> cases p

theorem linesOf_one {a n : Nat} (h : a % 64 + n ≤ 64) (z : 0 < n) : linesOf a n = [a / 64] := by
  unfold linesOf
  rw [if_neg (by omega), show (a + n - 1) / 64 - a / 64 + 1 = 1 by omega]
  simp

theorem access_none {d : Dev} {a n die : Nat} (m : d.mirrors = []) (t : d.tags = []) (p : d.poison = []) (pl : placeOf d.hw a = .mortar die)
    (f : d.dieFenced die = false) (h : a % 64 + n ≤ 64) (z : 0 < n) (v : View) : d.accessStatus v a n true = none := by
  have pm := mortar_line pl
  unfold Dev.accessStatus Dev.fencedIn Dev.memFenced Dev.poisonedIn
  rw [linesOf_one h z]
  simp only [List.any_cons, List.any_nil, Bool.or_false, Dev.served_id m, pm, Place.die, f, p]
  have r : ∀ l, d.readsShadow v l = false := by
    intro l
    unfold Dev.readsShadow
    rw [Dev.tag_none t]
  simp [FMap.get]

theorem atom_ok {d : Dev} {g : Nat} {f : FmtX} {sb w : Bool} {n a die : Nat} {p : Part} (et : f.et.toNat < 0xD) (hsb : sb = false) (sd : isSA f.d = true)
    (si : isSA f.idx = true) (b : isKind f.base .a = true) (ha : (a : Int) = ((d.core g).regs.getA (regNum f.base)).toNat + f.off.toInt)
    (al : a % n = 0) (pl : placeOf d.hw a = .mortar die) (pp : d.partOfCtx (d.ctxOn g) = some p) (a0 : p.allows a n 0 = true)
    (a1 : w = true → p.allows a n 1 = true) : d.atomCheck g f sb w n = .ok a := by
  have la : lsAddr f (d.core g).regs = (a : Int) := ha.symm
  unfold Dev.atomCheck
  dsimp only
  rw [la, Int.toNat_natCast, pl, pp]
  dsimp only
  rw [etBad_of_lt et, hsb, sd, si, b, al, a0]
  have : decide ((a : Int) < 0) = false := by simp
  rw [this]
  cases w
  · rfl
  · rw [a1 rfl]
    rfl

theorem atomSize_eq (f : FmtX) : atomSize f = if f.sub.toNat / 8 % 2 = 1 then 8 else 4 := by
  unfold atomSize bitOf
  rw [Nat.shiftRight_eq_div_pow]
  by_cases c : f.sub.toNat / 8 % 2 = 1
  · rw [if_pos c, if_pos (by simpa using c)]
  · rw [if_neg c, if_neg (by simpa using c)]

theorem jobWrites_plain {d : Dev} {c : Nat} {ws : List (Nat × List Byte)} (s : d.streamList = []) (v : d.viewOf c = View.plain) (a : Nat) (bs : List Byte)
    (e : ws = [(a, bs)]) : d.jobWrites c ws = d.wr View.plain a bs := by
  unfold Dev.jobWrites
  rw [s]
  dsimp only [List.filterMap_nil, List.foldl_nil]
  rw [e]
  dsimp only [List.foldl_cons, List.foldl_nil]
  rw [v]

theorem amoOp_ok {d : Dev} {g : Nat} {f : FmtX} {n a die : Nat} {p : Part} (et : f.et.toNat < 0xD) (sd : isSA f.d = true)
    (si : isSA f.idx = true) (b : isKind f.base .a = true) (ha : (a : Int) = ((d.core g).regs.getA (regNum f.base)).toNat + f.off.toInt)
    (hn : n = if f.sub.toNat / 8 % 2 = 1 then 8 else 4)
    (al : a % n = 0) (pl : placeOf d.hw a = .mortar die) (pp : d.partOfCtx (d.ctxOn g) = some p) (a0 : p.allows a n 0 = true)
    (a1 : p.allows a n 1 = true) (s16 : f.sub.toNat < 16) (s4 : f.sub.toNat % 8 ≤ 4) (m : d.mirrors = []) (t : d.tags = []) (po : d.poison = [])
    (df : d.dieFenced die = false) (sl : d.streamList = []) (v : d.viewOf (d.ctxOn g) = View.plain) (wp : d.writesPending g = false) :
    let old := leNat ((List.range n).map (fun i => d.cell (a + i)))
    let x := ((d.core g).regs.readSA f.idx).toNat % 2 ^ (8 * n)
    let d1 := match amoNew (f.sub.toNat % 8) n old x (((d.core g).regs.readSA f.d).toNat % 2 ^ (8 * n)) with
      | some w => d.setCells a (leBytes n w)
      | none => d
    amoOp f d g = .ok (true, (d1.blkCount (.mrt die) 5 1).advance g (fun k => { k with regs := k.regs.writeNat f.d old })) := by
  have n48 : n = 8 ∨ n = 4 := by rw [hn]; split <;> simp
  have an : atomSize f = n := by rw [atomSize_eq, hn]
  have l64 : a % 64 + n ≤ 64 := by rcases n48 with e | e <;> subst e <;> omega
  have bf : (bitOf f.sub.toNat 4 || decide (4 < f.sub.toNat % 8)) = false := by
    unfold bitOf
    rw [Nat.shiftRight_eq_div_pow, show f.sub.toNat / 2 ^ 4 = 0 by omega]
    simp
    omega
  dsimp only
  unfold amoOp
  dsimp only
  rw [an, atom_ok et bf sd si b ha al pl pp a0 (fun _ => a1)]
  dsimp only
  unfold Dev.accessStop
  dsimp only
  rw [access_none m t po pl df l64 (by omega)]
  dsimp only
  rw [wp, if_neg (by decide), Dev.rd_cells m t, pl]
  dsimp only [Place.die, Option.getD_some]
  generalize amoNew _ _ _ _ _ = w
  cases w with
  | none => rfl
  | some w =>
    dsimp only
    rw [jobWrites_plain sl v a _ rfl, Dev.wr_plain m t (by rw [leBytes_len]; exact l64) (by rw [leBytes_len]; omega) (by
      intro e
      have := leBytes_len n w
      rw [e] at this
      simp at this
      omega)]

theorem jump_eq (d : Dev) (g : Nat) (pc : BitVec 48) (fn : Core → Core) (h : ∀ b ∈ (FMap.get Points.none d.dbg.points g).bp, b = none) :
    d.jump g pc fn = d.putCore g { fn (d.core g) with pc := pc } := by
  unfold Dev.jump
  rw [Dev.arrive_none]
  rw [Dev.putCore_cores]
  exact h

theorem target_eq (pc : BitVec 48) (imm : BitVec 32) : branchTarget pc imm = pc + BitVec.ofInt 48 (8 * imm.toInt) := by
  unfold branchTarget
  rw [BitVec.ofInt_mul, BitVec.mul_comm, BitVec.shiftLeft_eq_mul_twoPow]
  rfl

theorem goes_of {s : State} {u : Issue} (h : s.dev.Clean u) {op : Dev → Nat → Except SedunFault Effect} (r : Regs) (pc : BitVec 48)
    (k : ∀ ga, op { s.dev with out := [], gau := ga } u.core = .ok (false, Dev.putCore { s.dev with out := [], gau := ga } u.core { s.dev.core u.core with regs := r, pc := pc })) :
    ∃ t, s.issue u op = .next t ∧ s.Retired u.core r pc t :=
  State.retires_of h false r pc fun ga => ⟨false, ga, k ga⟩

theorem Dev.idle_fold_core : ∀ (gs : List Nat) (d : Dev) (g : Nat),
    ((gs.foldl (fun d g => d.modCore g (fun k => { k with st := .idle, ctx := none })) d).core g).regs = (d.core g).regs ∧
    ((gs.foldl (fun d g => d.modCore g (fun k => { k with st := .idle, ctx := none })) d).core g).pc = (d.core g).pc ∧
    (gs.foldl (fun d g => d.modCore g (fun k => { k with st := .idle, ctx := none })) d).jfe = d.jfe
  | [], _, _ => ⟨rfl, rfl, rfl⟩
  | h :: gs, d, g => by
    obtain ⟨a, b, c⟩ := Dev.idle_fold_core gs (d.modCore h (fun k => { k with st := .idle, ctx := none })) g
    refine ⟨a.trans ?_, b.trans ?_, c⟩
    · by_cases e : g = h
      · subst e
        show ((d.setCore g _).core g).regs = _
        rw [Dev.core_setCore_self]
      · show ((d.setCore h _).core g).regs = _
        rw [Dev.core_setCore_ne _ _ e]
    · by_cases e : g = h
      · subst e
        show ((d.setCore g _).core g).pc = _
        rw [Dev.core_setCore_self]
      · show ((d.setCore h _).core g).pc = _
        rw [Dev.core_setCore_ne _ _ e]

theorem Dev.bump_core (d : Dev) (k n g : Nat) : (d.bump k n).core g = d.core g := rfl

theorem Dev.bump_jfe (d : Dev) (k n : Nat) : (d.bump k n).jfe = d.jfe := rfl

theorem Dev.bump_ctx (d : Dev) (k n c : Nat) : (d.bump k n).ctx c = d.ctx c := rfl

theorem Dev.save_spec {d : Dev} {c g : Nat} {ck : Checkpoint} (lead : d.isJoined g = true → g % 2 = 0) :
    ((d.saveCore c g ck).core g).regs = (d.core g).regs ∧ ((d.saveCore c g ck).core g).pc = (d.core g).pc ∧
    (FMap.get none (d.saveCore c g ck).jfe.saves (saveKey c g)).map (·.ck) = some ck ∧
    (((d.saveCore c g ck).core g).st = .saved ∨ ((d.saveCore c g ck).ctx c).state = .suspended) := by
  obtain ⟨slot, hs⟩ : ∃ slot : SaveSlot, slot = { ck := ck, bytes := ck.ranges.map (fun r => (r.1, (d.core g).lsRead r.1 r.2)) } := ⟨_, rfl⟩
  obtain ⟨d1, h1⟩ : ∃ d1, d1 = Dev.putCore { d with jfe := { d.jfe with saves := FMap.set none d.jfe.saves (saveKey c g) (some slot) } } g
      { d.core g with st := .saved, wait := .none, remoteSince := none, dma := [] } := ⟨_, rfl⟩
  have e : d.saveCore c g ck = d1.suspendIfSaved c := by rw [h1, hs]; rfl
  have p := Dev.put_putCore { d with jfe := { d.jfe with saves := FMap.set none d.jfe.saves (saveKey c g) (some slot) } } g
    { d.core g with st := .saved, wait := .none, remoteSince := none, dma := [] } lead
  rw [← h1] at p
  have pj : d1.jfe.saves = FMap.set none d.jfe.saves (saveKey c g) (some slot) := by rw [h1, Dev.putCore_cores]
  have sv : (FMap.get none d1.jfe.saves (saveKey c g)).map (·.ck) = some ck := by rw [pj, FMap.get_set_self, hs]; rfl
  rw [e]
  unfold Dev.suspendIfSaved
  dsimp only
  split
  · obtain ⟨a, b, j⟩ := Dev.idle_fold_core (d1.coresOn c) d1 g
    generalize List.foldl (fun d g => d.modCore g (fun k => { k with st := .idle, ctx := none })) d1 (d1.coresOn c) = d2 at a b j
    have m := Dev.putCtx_memOnly d2 c { d1.ctx c with state := .suspended, wasSuspended := true, suspendNs := d1.clock }
    have m' : ((d2.putCtx c { d1.ctx c with state := .suspended, wasSuspended := true, suspendNs := d1.clock }).bump JFE_PREEMPT_COUNT 1).core g = d2.core g := (Dev.bump_core _ _ _ _).trans (m.core g)
    refine ⟨?_, ?_, ?_, Or.inr ?_⟩
    · rw [m', a, p.core]
    · rw [m', b, p.core]
    · rw [Dev.bump_jfe]
      have : (d2.putCtx c { d1.ctx c with state := .suspended, wasSuspended := true, suspendNs := d1.clock }).jfe.saves = d1.jfe.saves := by
        rw [m.eq]
        show d2.jfe.saves = _
        rw [j]
      rw [this]
      exact sv
    · rw [Dev.bump_ctx, m.ctx]
      show ((d2.setCtx c _).ctx c).state = _
      unfold Dev.setCtx Dev.ctx
      dsimp only
      rw [FMap.get_set_self]
  · refine ⟨by rw [p.core], by rw [p.core], sv, Or.inl (by rw [p.core])⟩

end Sys2Proof.Machine
end

