-- ==== Sys2Proof/Laws/Engine.lean ====
section
/-! SUPPORT. What the operations over engine queues, tickets, credits and epochs answer. -/
namespace Sys2Proof.Machine

theorem Dev.port_setPort (d : Dev) (n p : Nat) (x : Port) : (d.setPort n p x).port n p = x := FMap.get_set_self _ _ _ _

theorem Dev.Put.from_other {d d' e : Dev} {g : Nat} {k : Core} (h : d'.Put g k e) (c : ∀ i, i ≠ g → d'.core i = d.core i) (j : d'.joined = d.joined) : d.Put g k e := by
  have y : d'.isJoined g = d.isJoined g := Dev.isJoined_congr j g
  exact ⟨h.core, fun z => by rw [h.follow (y.trans z), c _ (by omega)], fun i n m => by rw [h.others i n (by rw [y]; exact m), c i n]⟩

theorem Dev.newTicket_spec (d : Dev) (g tgt die : Nat) (ht : tgt ≤ 4) :
    ∃ t d1, d.newTicket g tgt die = (t, d1) ∧ t % 65536 = FMap.get 0 d.ticketSeq (d.ctxOn g * 256 + tgt * 16 + die) % 65536 ∧ t / 65536 % 16 = tgt ∧
      (tgt ≠ 4 → t / 2 ^ 20 = die) ∧ d1.core g = { d.core g with tickets := (d.core g).tickets ++ [t] } ∧ (∀ h, h ≠ g → d1.core h = d.core h) ∧
      d1.ticket (d.ctxOn g) t = some { ctx := d.ctxOn g, core := g, st := .pending } ∧
      d1 = { d with ticketSeq := d1.ticketSeq, tickets := d1.tickets, cores := d1.cores } := by
  unfold Dev.newTicket
  dsimp only
  obtain ⟨w, hw⟩ : ∃ w, w = if tgt = 4 then Config.cairnTicketDie.toNat else die := ⟨_, rfl⟩
  rw [← hw]
  refine ⟨_, _, rfl, ?_, ?_, ?_, ?_, ?_, ?_, rfl⟩
  · unfold tickSeqKey
    omega
  · omega
  · intro n
    rw [if_neg n] at hw
    omega
  · exact Dev.core_setCore_self _ _ _
  · intro i hi
    exact Dev.core_setCore_ne _ _ hi
  · generalize FMap.get 0 d.ticketSeq (tickSeqKey (d.ctxOn g) tgt die) % 65536 + 65536 * tgt + 2 ^ 20 * w = t
    unfold Dev.ticket Dev.modCore Dev.setTicket Dev.setCore
    dsimp only
    rw [FMap.get_set_self]

theorem eiss_ok {d : Dev} {g : Nat} {f : FmtE} {p : Part} {die : Nat} (pts : ∀ b ∈ (FMap.get Points.none d.dbg.points g).bp, b = none)
    (lead : d.isJoined g = true → g % 2 = 0) (ht : f.tgt.toNat ≤ 4) (hd : f.tgt.toNat ≠ 4 → f.die.toNat < 4 ∨ f.die = 7) (sd : isSA f.d = true)
    (ka : isKind f.a .a = true) (hm : ((d.core g).regs.getA (regNum f.a)).toNat % 64 = 0) (hdie : die = if f.tgt.toNat = 4 then 8 else if f.die = 7 then coreDie g else f.die.toNat)
    (hi : inMem d.hw ((d.core g).regs.getA (regNum f.a)).toNat (cmdBytes f.tgt.toNat) = true) (hp : d.part (d.ctx (d.ctxOn g)).part = some p)
    (al : p.allows ((d.core g).regs.getA (regNum f.a)).toNat (cmdBytes f.tgt.toNat) 0 = true)
    (hb : bitOf (d.ctx (d.ctxOn g)).inv.engines (if f.tgt.toNat = 4 then 16 else 4 * die + f.tgt.toNat) = true) (wp : d.writesPending g = false)
    (sh : d.engineShut (d.ctxOn g) f.tgt.toNat die = false)
    (hq : (if f.tgt.toNat = 4 then FMap.get [] d.crn.queues (d.ctx (d.ctxOn g)).part else FMap.get [] (d.eng die f.tgt.toNat).queues (d.ctx (d.ctxOn g)).part).length < 16) :
    ∃ e, eissOp f d g = .ok (true, e) ∧ ∃ t cmd,
        t % 65536 = FMap.get 0 d.ticketSeq (d.ctxOn g * 256 + f.tgt.toNat * 16 + die) % 65536 ∧ t / 65536 % 16 = f.tgt.toNat ∧ (f.tgt.toNat ≠ 4 → t / 2 ^ 20 = die) ∧
        d.Put g { (d.core g).retired ((d.core g).regs.writeSA f.d (BitVec.ofNat 64 t)) with tickets := (d.core g).tickets ++ [t] } e ∧
        e.ticket (d.ctxOn g) t = some { ctx := d.ctxOn g, core := g, st := .pending } ∧
        (if f.tgt.toNat = 4 then FMap.get [] e.crn.queues (d.ctx (d.ctxOn g)).part else FMap.get [] (e.eng die f.tgt.toNat).queues (d.ctx (d.ctxOn g)).part) =
          (if f.tgt.toNat = 4 then FMap.get [] d.crn.queues (d.ctx (d.ctxOn g)).part else FMap.get [] (d.eng die f.tgt.toNat).queues (d.ctx (d.ctxOn g)).part) ++ [cmd] ∧
        cmd.ctx = d.ctxOn g ∧ cmd.part = (d.ctx (d.ctxOn g)).part ∧ cmd.addr = ((d.core g).regs.getA (regNum f.a)).toNat ∧ cmd.ticket = some t ∧ e.mem = d.mem := by
  have e1 : (decide (4 < f.tgt.toNat) || (f.tgt.toNat != 4 && decide (4 ≤ f.die.toNat) && decide (f.die.toNat ≤ 6))) = false := by
    have : decide (4 < f.tgt.toNat) = false := by simp; omega
    rw [this]
    by_cases c : f.tgt.toNat = 4
    · simp [c]
    · rcases hd c with q | q
      · have : decide (4 ≤ f.die.toNat) = false := by simp; omega
        rw [this]; simp
      · rw [q]; simp
  have e2 : (((d.core g).regs.getA (regNum f.a)).toNat % 64 != 0) = false := by rw [hm]; rfl
  have de : (if f.tgt.toNat = 4 then 8 else eissDie f g) = die := by rw [hdie]; rfl
  have eb : (if f.tgt.toNat = 4 then bitOf (d.ctx (d.ctxOn g)).inv.engines 16 else bitOf (d.ctx (d.ctxOn g)).inv.engines (4 * die + f.tgt.toNat)) = true := by
    rw [← hb]
    split <;> rfl
  have eq : ¬ 16 ≤ d.engQueued (d.ctx (d.ctxOn g)).part f.tgt.toNat die := by
    unfold Dev.engQueued Dev.cairnQueued
    split at hq
    · next c => rw [if_pos c]; omega
    · next c => rw [if_neg c]; omega
  obtain ⟨t, d1, hn, ta, tb, tc, c1, c2, tk, fr⟩ := Dev.newTicket_spec d g f.tgt.toNat die ht
  obtain ⟨cmd, hcmd⟩ : ∃ cmd : EngCmd, cmd = { ctx := d.ctxOn g, part := (d.ctx (d.ctxOn g)).part, addr := ((d.core g).regs.getA (regNum f.a)).toNat, ticket := some t, order := d1.jfe.order, firstStart := none, restarts := 0, core := some g } := ⟨_, rfl⟩
  obtain ⟨d2, h2⟩ : ∃ d2 : Dev, d2 = { d1 with jfe := { d1.jfe with order := d1.jfe.order + 1 } } := ⟨_, rfl⟩
  obtain ⟨d3, h3⟩ : ∃ d3 : Dev, d3 = if f.tgt.toNat = 4 then (d2.pushCairn cmd).modCtx (d.ctxOn g) (fun x => { x with usedCairn := true })
      else d2.setEng die f.tgt.toNat { d2.eng die f.tgt.toNat with queues := FMap.modify [] (d2.eng die f.tgt.toNat).queues (d.ctx (d.ctxOn g)).part (· ++ [cmd]) } := ⟨_, rfl⟩
  have ok : eissOp f d g = .ok (true, d3.advance g (fun k => { k with regs := k.regs.writeNat f.d t })) := by
    unfold eissOp
    dsimp only
    rw [de, e1, sd, ka, e2, hi, hp]
    dsimp only
    rw [al, eb, wp, sh, if_neg eq, hn]
    dsimp only
    rw [h3, h2, hcmd]
    rfl
  have k3 : d3.cores = d1.cores ∧ d3.joined = d1.joined ∧ d3.dbg = d1.dbg ∧ d3.tickets = d1.tickets ∧ d3.mem = d1.mem := by
    rw [h3]
    split
    · rw [h2]; exact ⟨rfl, rfl, rfl, rfl, rfl⟩
    · rw [h2]; exact ⟨rfl, rfl, rfl, rfl, rfl⟩
  obtain ⟨kc, kj, kd, kt, km⟩ := k3
  have j1 : d1.joined = d.joined := by rw [fr]
  have dbg1 : d1.dbg = d.dbg := by rw [fr]
  have mem1 : d1.mem = d.mem := by rw [fr]
  have core3 : ∀ i, d3.core i = d1.core i := by intro i; unfold Dev.core; rw [kc]
  have ad := Dev.advance_eq d3 g (fun k => { k with regs := k.regs.writeNat f.d t }) (by rw [kd, dbg1]; exact pts)
  have lead3 : d3.isJoined g = true → g % 2 = 0 := by rw [Dev.isJoined_congr (kj.trans j1)]; exact lead
  have K : ({ ({ d3.core g with regs := (d3.core g).regs.writeNat f.d t } : Core) with pc := ({ d3.core g with regs := (d3.core g).regs.writeNat f.d t } : Core).pc + 8 } : Core) =
      { (d.core g).retired ((d.core g).regs.writeSA f.d (BitVec.ofNat 64 t)) with tickets := (d.core g).tickets ++ [t] } := by
    rw [core3, c1]
    rfl
  have ad2 : d3.advance g (fun k => { k with regs := k.regs.writeNat f.d t }) = d3.putCore g { (d.core g).retired ((d.core g).regs.writeSA f.d (BitVec.ofNat 64 t)) with tickets := (d.core g).tickets ++ [t] } :=
    ad.trans (congrArg (d3.putCore g) K)
  have pe := Dev.putCore_cores d3 g { (d.core g).retired ((d.core g).regs.writeSA f.d (BitVec.ofNat 64 t)) with tickets := (d.core g).tickets ++ [t] }
  refine ⟨_, ok, t, cmd, ta, tb, tc, ?_, ?_, ?_, by rw [hcmd], by rw [hcmd], by rw [hcmd], by rw [hcmd], ?_⟩
  · rw [ad2]
    exact Dev.Put.from_other (Dev.put_putCore d3 g _ lead3) (fun i n => (core3 i).trans (c2 i n)) (kj.trans j1)
  · rw [ad2, pe, ← tk]
    unfold Dev.ticket
    dsimp only
    rw [kt]
  · rw [ad2, pe]
    dsimp only [Dev.eng]
    by_cases c : f.tgt.toNat = 4
    · rw [if_pos c] at h3
      rw [if_pos c, if_pos c, h3, h2]
      show FMap.get [] (FMap.modify [] d1.crn.queues cmd.part (· ++ [cmd])) _ = _
      have : cmd.part = (d.ctx (d.ctxOn g)).part := by rw [hcmd]
      unfold FMap.modify
      rw [this, FMap.get_set_self, fr]
    · rw [if_neg c] at h3
      rw [if_neg c, if_neg c, h3, h2]
      show FMap.get [] (FMap.get Eng.idle (FMap.set Eng.idle d1.engs (4 * die + f.tgt.toNat) _) (4 * die + f.tgt.toNat)).queues _ = _
      rw [FMap.get_set_self]
      dsimp only
      unfold FMap.modify
      rw [FMap.get_set_self]
      have en : d1.engs = d.engs := by rw [fr]
      unfold Dev.eng
      dsimp only
      rw [en]
  · rw [ad2, pe]
    exact km.trans mem1

theorem answers_of {s : State} {u : Issue} (h : s.dev.Clean u) {op : Dev → Nat → Except SedunFault Effect} {P : Dev → Prop}
    (x : ∀ ga, ∃ o e, op { s.dev with out := [], gau := ga } u.core = .ok (o, e) ∧ P e) : s.Answers (s.issue u op) P := by
  obtain ⟨o, e, q, p⟩ := x (s.dev.fresh.counted u.core false).gau
  refine ⟨e, ?_, p⟩
  unfold State.issue State.runIf State.run Dev.issueReg
  rw [if_pos h.core]
  dsimp only
  rw [h.fresh.issueEnd false (x := (o, _)) (by rw [Dev.counted_gau]; exact q)]
  rfl

theorem Dev.putCore_rest (d : Dev) (g : Nat) (k : Core) : d.putCore g k = { d with cores := (d.putCore g k).cores, gau := (d.putCore g k).gau } := by rw [Dev.putCore_cores]

theorem epochCheck_ok {d : Dev} {g : Nat} {f : FmtE} (lt : f.imm.toNat < 256) (sd : isSA f.d = true) (hd : d.declares (d.ctxOn g) (f.imm.toNat % 256) = true) :
    d.epochCheck g f = .ok (if d.specOff then 2 else match (d.epoch (f.imm.toNat % 256)).state with
        | .confirmed => 1
        | .squashed => 2
        | _ => 0) := by
  unfold Dev.epochCheck epochOf
  have e1 : decide (256 ≤ f.imm.toNat) = false := by simp; omega
  rw [e1, sd, hd]
  rfl

end Sys2Proof.Machine
end

