-- ==== Sys2Proof/Laws/State.lean ====
section
/-! SUPPORT. What each plain update of the device leaves in every field. -/
namespace Sys2Proof.Machine

/-! `Dev.fresh` -/

@[simp] theorem Dev.fresh_hw (d : Dev) : (d.fresh).hw = d.hw := rfl
@[simp] theorem Dev.fresh_out (d : Dev) : (d.fresh).out = [] := rfl
@[simp] theorem Dev.fresh_regs (d : Dev) : (d.fresh).regs = d.regs := rfl
@[simp] theorem Dev.fresh_mem (d : Dev) : (d.fresh).mem = d.mem := rfl
@[simp] theorem Dev.fresh_hostMem (d : Dev) : (d.fresh).hostMem = d.hostMem := rfl
@[simp] theorem Dev.fresh_tags (d : Dev) : (d.fresh).tags = d.tags := rfl
@[simp] theorem Dev.fresh_shadow (d : Dev) : (d.fresh).shadow = d.shadow := rfl
@[simp] theorem Dev.fresh_poison (d : Dev) : (d.fresh).poison = d.poison := rfl
@[simp] theorem Dev.fresh_poisonTold (d : Dev) : (d.fresh).poisonTold = d.poisonTold := rfl
@[simp] theorem Dev.fresh_mirrorDue (d : Dev) : (d.fresh).mirrorDue = d.mirrorDue := rfl
@[simp] theorem Dev.fresh_dramGen (d : Dev) : (d.fresh).dramGen = d.dramGen := rfl
@[simp] theorem Dev.fresh_cores (d : Dev) : (d.fresh).cores = d.cores := rfl
@[simp] theorem Dev.fresh_joined (d : Dev) : (d.fresh).joined = d.joined := rfl
@[simp] theorem Dev.fresh_jfe (d : Dev) : (d.fresh).jfe = d.jfe := rfl
@[simp] theorem Dev.fresh_link (d : Dev) : (d.fresh).link = d.link := rfl
@[simp] theorem Dev.fresh_sems (d : Dev) : (d.fresh).sems = d.sems := rfl
@[simp] theorem Dev.fresh_engs (d : Dev) : (d.fresh).engs = d.engs := rfl
@[simp] theorem Dev.fresh_tickets (d : Dev) : (d.fresh).tickets = d.tickets := rfl
@[simp] theorem Dev.fresh_ticketSeq (d : Dev) : (d.fresh).ticketSeq = d.ticketSeq := rfl
@[simp] theorem Dev.fresh_crn (d : Dev) : (d.fresh).crn = d.crn := rfl
@[simp] theorem Dev.fresh_seqs (d : Dev) : (d.fresh).seqs = d.seqs := rfl
@[simp] theorem Dev.fresh_stackTbl (d : Dev) : (d.fresh).stackTbl = d.stackTbl := rfl
@[simp] theorem Dev.fresh_mirrors (d : Dev) : (d.fresh).mirrors = d.mirrors := rfl
@[simp] theorem Dev.fresh_bw (d : Dev) : (d.fresh).bw = d.bw := rfl
@[simp] theorem Dev.fresh_ports (d : Dev) : (d.fresh).ports = d.ports := rfl
@[simp] theorem Dev.fresh_hod (d : Dev) : (d.fresh).hod = d.hod := rfl
@[simp] theorem Dev.fresh_aphy (d : Dev) : (d.fresh).aphy = d.aphy := rfl
@[simp] theorem Dev.fresh_eth (d : Dev) : (d.fresh).eth = d.eth := rfl
@[simp] theorem Dev.fresh_plb (d : Dev) : (d.fresh).plb = d.plb := rfl
@[simp] theorem Dev.fresh_qn (d : Dev) : (d.fresh).qn = d.qn := rfl
@[simp] theorem Dev.fresh_pav (d : Dev) : (d.fresh).pav = d.pav := rfl
@[simp] theorem Dev.fresh_pwr (d : Dev) : (d.fresh).pwr = d.pwr := rfl
@[simp] theorem Dev.fresh_sec (d : Dev) : (d.fresh).sec = d.sec := rfl
@[simp] theorem Dev.fresh_dbg (d : Dev) : (d.fresh).dbg = d.dbg := rfl
@[simp] theorem Dev.fresh_gau (d : Dev) : (d.fresh).gau = d.gau := rfl
@[simp] theorem Dev.fresh_fences (d : Dev) : (d.fresh).fences = d.fences := rfl
@[simp] theorem Dev.fresh_newFences (d : Dev) : (d.fresh).newFences = d.newFences := rfl
@[simp] theorem Dev.fresh_rate (d : Dev) : (d.fresh).rate = d.rate := rfl
@[simp] theorem Dev.fresh_ticks (d : Dev) : (d.fresh).ticks = d.ticks := rfl
@[simp] theorem Dev.fresh_freeCtr (d : Dev) : (d.fresh).freeCtr = d.freeCtr := rfl

/-! `Dev.keepHw` -/

@[simp] theorem Dev.keepHw_hw (d : Dev) (h : Hw) : (d.keepHw h).hw = h := rfl
@[simp] theorem Dev.keepHw_out (d : Dev) (h : Hw) : (d.keepHw h).out = d.out := rfl
@[simp] theorem Dev.keepHw_regs (d : Dev) (h : Hw) : (d.keepHw h).regs = d.regs := rfl
@[simp] theorem Dev.keepHw_mem (d : Dev) (h : Hw) : (d.keepHw h).mem = d.mem := rfl
@[simp] theorem Dev.keepHw_hostMem (d : Dev) (h : Hw) : (d.keepHw h).hostMem = d.hostMem := rfl
@[simp] theorem Dev.keepHw_tags (d : Dev) (h : Hw) : (d.keepHw h).tags = d.tags := rfl
@[simp] theorem Dev.keepHw_shadow (d : Dev) (h : Hw) : (d.keepHw h).shadow = d.shadow := rfl
@[simp] theorem Dev.keepHw_poison (d : Dev) (h : Hw) : (d.keepHw h).poison = d.poison := rfl
@[simp] theorem Dev.keepHw_poisonTold (d : Dev) (h : Hw) : (d.keepHw h).poisonTold = d.poisonTold := rfl
@[simp] theorem Dev.keepHw_mirrorDue (d : Dev) (h : Hw) : (d.keepHw h).mirrorDue = d.mirrorDue := rfl
@[simp] theorem Dev.keepHw_dramGen (d : Dev) (h : Hw) : (d.keepHw h).dramGen = d.dramGen := rfl
@[simp] theorem Dev.keepHw_cores (d : Dev) (h : Hw) : (d.keepHw h).cores = d.cores := rfl
@[simp] theorem Dev.keepHw_joined (d : Dev) (h : Hw) : (d.keepHw h).joined = d.joined := rfl
@[simp] theorem Dev.keepHw_jfe (d : Dev) (h : Hw) : (d.keepHw h).jfe = d.jfe := rfl
@[simp] theorem Dev.keepHw_link (d : Dev) (h : Hw) : (d.keepHw h).link = d.link := rfl
@[simp] theorem Dev.keepHw_sems (d : Dev) (h : Hw) : (d.keepHw h).sems = d.sems := rfl
@[simp] theorem Dev.keepHw_engs (d : Dev) (h : Hw) : (d.keepHw h).engs = d.engs := rfl
@[simp] theorem Dev.keepHw_tickets (d : Dev) (h : Hw) : (d.keepHw h).tickets = d.tickets := rfl
@[simp] theorem Dev.keepHw_ticketSeq (d : Dev) (h : Hw) : (d.keepHw h).ticketSeq = d.ticketSeq := rfl
@[simp] theorem Dev.keepHw_crn (d : Dev) (h : Hw) : (d.keepHw h).crn = d.crn := rfl
@[simp] theorem Dev.keepHw_seqs (d : Dev) (h : Hw) : (d.keepHw h).seqs = d.seqs := rfl
@[simp] theorem Dev.keepHw_stackTbl (d : Dev) (h : Hw) : (d.keepHw h).stackTbl = d.stackTbl := rfl
@[simp] theorem Dev.keepHw_mirrors (d : Dev) (h : Hw) : (d.keepHw h).mirrors = d.mirrors := rfl
@[simp] theorem Dev.keepHw_bw (d : Dev) (h : Hw) : (d.keepHw h).bw = d.bw := rfl
@[simp] theorem Dev.keepHw_ports (d : Dev) (h : Hw) : (d.keepHw h).ports = d.ports := rfl
@[simp] theorem Dev.keepHw_hod (d : Dev) (h : Hw) : (d.keepHw h).hod = d.hod := rfl
@[simp] theorem Dev.keepHw_aphy (d : Dev) (h : Hw) : (d.keepHw h).aphy = d.aphy := rfl
@[simp] theorem Dev.keepHw_eth (d : Dev) (h : Hw) : (d.keepHw h).eth = d.eth := rfl
@[simp] theorem Dev.keepHw_plb (d : Dev) (h : Hw) : (d.keepHw h).plb = d.plb := rfl
@[simp] theorem Dev.keepHw_qn (d : Dev) (h : Hw) : (d.keepHw h).qn = d.qn := rfl
@[simp] theorem Dev.keepHw_pav (d : Dev) (h : Hw) : (d.keepHw h).pav = d.pav := rfl
@[simp] theorem Dev.keepHw_pwr (d : Dev) (h : Hw) : (d.keepHw h).pwr = d.pwr := rfl
@[simp] theorem Dev.keepHw_sec (d : Dev) (h : Hw) : (d.keepHw h).sec = d.sec := rfl
@[simp] theorem Dev.keepHw_dbg (d : Dev) (h : Hw) : (d.keepHw h).dbg = d.dbg := rfl
@[simp] theorem Dev.keepHw_gau (d : Dev) (h : Hw) : (d.keepHw h).gau = d.gau := rfl
@[simp] theorem Dev.keepHw_fences (d : Dev) (h : Hw) : (d.keepHw h).fences = d.fences := rfl
@[simp] theorem Dev.keepHw_newFences (d : Dev) (h : Hw) : (d.keepHw h).newFences = d.newFences := rfl
@[simp] theorem Dev.keepHw_rate (d : Dev) (h : Hw) : (d.keepHw h).rate = d.rate := rfl
@[simp] theorem Dev.keepHw_ticks (d : Dev) (h : Hw) : (d.keepHw h).ticks = d.ticks := rfl
@[simp] theorem Dev.keepHw_freeCtr (d : Dev) (h : Hw) : (d.keepHw h).freeCtr = d.freeCtr := rfl

/-! `Dev.setReg` -/

@[simp] theorem Dev.setReg_hw (d : Dev) (k : Nat) (v : W32) : (d.setReg k v).hw = d.hw := rfl
@[simp] theorem Dev.setReg_out (d : Dev) (k : Nat) (v : W32) : (d.setReg k v).out = d.out := rfl
@[simp] theorem Dev.setReg_regs (d : Dev) (k : Nat) (v : W32) : (d.setReg k v).regs = FMap.set none d.regs k (if v = resetVal d.hw k then none else some v) := rfl
@[simp] theorem Dev.setReg_mem (d : Dev) (k : Nat) (v : W32) : (d.setReg k v).mem = d.mem := rfl
@[simp] theorem Dev.setReg_hostMem (d : Dev) (k : Nat) (v : W32) : (d.setReg k v).hostMem = d.hostMem := rfl
@[simp] theorem Dev.setReg_tags (d : Dev) (k : Nat) (v : W32) : (d.setReg k v).tags = d.tags := rfl
@[simp] theorem Dev.setReg_shadow (d : Dev) (k : Nat) (v : W32) : (d.setReg k v).shadow = d.shadow := rfl
@[simp] theorem Dev.setReg_poison (d : Dev) (k : Nat) (v : W32) : (d.setReg k v).poison = d.poison := rfl
@[simp] theorem Dev.setReg_poisonTold (d : Dev) (k : Nat) (v : W32) : (d.setReg k v).poisonTold = d.poisonTold := rfl
@[simp] theorem Dev.setReg_mirrorDue (d : Dev) (k : Nat) (v : W32) : (d.setReg k v).mirrorDue = d.mirrorDue := rfl
@[simp] theorem Dev.setReg_dramGen (d : Dev) (k : Nat) (v : W32) : (d.setReg k v).dramGen = d.dramGen := rfl
@[simp] theorem Dev.setReg_cores (d : Dev) (k : Nat) (v : W32) : (d.setReg k v).cores = d.cores := rfl
@[simp] theorem Dev.setReg_joined (d : Dev) (k : Nat) (v : W32) : (d.setReg k v).joined = d.joined := rfl
@[simp] theorem Dev.setReg_jfe (d : Dev) (k : Nat) (v : W32) : (d.setReg k v).jfe = d.jfe := rfl
@[simp] theorem Dev.setReg_link (d : Dev) (k : Nat) (v : W32) : (d.setReg k v).link = d.link := rfl
@[simp] theorem Dev.setReg_sems (d : Dev) (k : Nat) (v : W32) : (d.setReg k v).sems = d.sems := rfl
@[simp] theorem Dev.setReg_engs (d : Dev) (k : Nat) (v : W32) : (d.setReg k v).engs = d.engs := rfl
@[simp] theorem Dev.setReg_tickets (d : Dev) (k : Nat) (v : W32) : (d.setReg k v).tickets = d.tickets := rfl
@[simp] theorem Dev.setReg_ticketSeq (d : Dev) (k : Nat) (v : W32) : (d.setReg k v).ticketSeq = d.ticketSeq := rfl
@[simp] theorem Dev.setReg_crn (d : Dev) (k : Nat) (v : W32) : (d.setReg k v).crn = d.crn := rfl
@[simp] theorem Dev.setReg_seqs (d : Dev) (k : Nat) (v : W32) : (d.setReg k v).seqs = d.seqs := rfl
@[simp] theorem Dev.setReg_stackTbl (d : Dev) (k : Nat) (v : W32) : (d.setReg k v).stackTbl = d.stackTbl := rfl
@[simp] theorem Dev.setReg_mirrors (d : Dev) (k : Nat) (v : W32) : (d.setReg k v).mirrors = d.mirrors := rfl
@[simp] theorem Dev.setReg_bw (d : Dev) (k : Nat) (v : W32) : (d.setReg k v).bw = d.bw := rfl
@[simp] theorem Dev.setReg_ports (d : Dev) (k : Nat) (v : W32) : (d.setReg k v).ports = d.ports := rfl
@[simp] theorem Dev.setReg_hod (d : Dev) (k : Nat) (v : W32) : (d.setReg k v).hod = d.hod := rfl
@[simp] theorem Dev.setReg_aphy (d : Dev) (k : Nat) (v : W32) : (d.setReg k v).aphy = d.aphy := rfl
@[simp] theorem Dev.setReg_eth (d : Dev) (k : Nat) (v : W32) : (d.setReg k v).eth = d.eth := rfl
@[simp] theorem Dev.setReg_plb (d : Dev) (k : Nat) (v : W32) : (d.setReg k v).plb = d.plb := rfl
@[simp] theorem Dev.setReg_qn (d : Dev) (k : Nat) (v : W32) : (d.setReg k v).qn = d.qn := rfl
@[simp] theorem Dev.setReg_pav (d : Dev) (k : Nat) (v : W32) : (d.setReg k v).pav = d.pav := rfl
@[simp] theorem Dev.setReg_pwr (d : Dev) (k : Nat) (v : W32) : (d.setReg k v).pwr = d.pwr := rfl
@[simp] theorem Dev.setReg_sec (d : Dev) (k : Nat) (v : W32) : (d.setReg k v).sec = d.sec := rfl
@[simp] theorem Dev.setReg_dbg (d : Dev) (k : Nat) (v : W32) : (d.setReg k v).dbg = d.dbg := rfl
@[simp] theorem Dev.setReg_gau (d : Dev) (k : Nat) (v : W32) : (d.setReg k v).gau = d.gau := rfl
@[simp] theorem Dev.setReg_fences (d : Dev) (k : Nat) (v : W32) : (d.setReg k v).fences = d.fences := rfl
@[simp] theorem Dev.setReg_newFences (d : Dev) (k : Nat) (v : W32) : (d.setReg k v).newFences = d.newFences := rfl
@[simp] theorem Dev.setReg_rate (d : Dev) (k : Nat) (v : W32) : (d.setReg k v).rate = d.rate := rfl
@[simp] theorem Dev.setReg_ticks (d : Dev) (k : Nat) (v : W32) : (d.setReg k v).ticks = d.ticks := rfl
@[simp] theorem Dev.setReg_freeCtr (d : Dev) (k : Nat) (v : W32) : (d.setReg k v).freeCtr = d.freeCtr := rfl

/-! `Dev.put` -/

@[simp] theorem Dev.put_hw (d : Dev) (o : Out) : (d.put o).hw = d.hw := rfl
@[simp] theorem Dev.put_out (d : Dev) (o : Out) : (d.put o).out = d.out ++ [o] := rfl
@[simp] theorem Dev.put_regs (d : Dev) (o : Out) : (d.put o).regs = d.regs := rfl
@[simp] theorem Dev.put_mem (d : Dev) (o : Out) : (d.put o).mem = d.mem := rfl
@[simp] theorem Dev.put_hostMem (d : Dev) (o : Out) : (d.put o).hostMem = d.hostMem := rfl
@[simp] theorem Dev.put_tags (d : Dev) (o : Out) : (d.put o).tags = d.tags := rfl
@[simp] theorem Dev.put_shadow (d : Dev) (o : Out) : (d.put o).shadow = d.shadow := rfl
@[simp] theorem Dev.put_poison (d : Dev) (o : Out) : (d.put o).poison = d.poison := rfl
@[simp] theorem Dev.put_poisonTold (d : Dev) (o : Out) : (d.put o).poisonTold = d.poisonTold := rfl
@[simp] theorem Dev.put_mirrorDue (d : Dev) (o : Out) : (d.put o).mirrorDue = d.mirrorDue := rfl
@[simp] theorem Dev.put_dramGen (d : Dev) (o : Out) : (d.put o).dramGen = d.dramGen := rfl
@[simp] theorem Dev.put_cores (d : Dev) (o : Out) : (d.put o).cores = d.cores := rfl
@[simp] theorem Dev.put_joined (d : Dev) (o : Out) : (d.put o).joined = d.joined := rfl
@[simp] theorem Dev.put_jfe (d : Dev) (o : Out) : (d.put o).jfe = d.jfe := rfl
@[simp] theorem Dev.put_link (d : Dev) (o : Out) : (d.put o).link = d.link := rfl
@[simp] theorem Dev.put_sems (d : Dev) (o : Out) : (d.put o).sems = d.sems := rfl
@[simp] theorem Dev.put_engs (d : Dev) (o : Out) : (d.put o).engs = d.engs := rfl
@[simp] theorem Dev.put_tickets (d : Dev) (o : Out) : (d.put o).tickets = d.tickets := rfl
@[simp] theorem Dev.put_ticketSeq (d : Dev) (o : Out) : (d.put o).ticketSeq = d.ticketSeq := rfl
@[simp] theorem Dev.put_crn (d : Dev) (o : Out) : (d.put o).crn = d.crn := rfl
@[simp] theorem Dev.put_seqs (d : Dev) (o : Out) : (d.put o).seqs = d.seqs := rfl
@[simp] theorem Dev.put_stackTbl (d : Dev) (o : Out) : (d.put o).stackTbl = d.stackTbl := rfl
@[simp] theorem Dev.put_mirrors (d : Dev) (o : Out) : (d.put o).mirrors = d.mirrors := rfl
@[simp] theorem Dev.put_bw (d : Dev) (o : Out) : (d.put o).bw = d.bw := rfl
@[simp] theorem Dev.put_ports (d : Dev) (o : Out) : (d.put o).ports = d.ports := rfl
@[simp] theorem Dev.put_hod (d : Dev) (o : Out) : (d.put o).hod = d.hod := rfl
@[simp] theorem Dev.put_aphy (d : Dev) (o : Out) : (d.put o).aphy = d.aphy := rfl
@[simp] theorem Dev.put_eth (d : Dev) (o : Out) : (d.put o).eth = d.eth := rfl
@[simp] theorem Dev.put_plb (d : Dev) (o : Out) : (d.put o).plb = d.plb := rfl
@[simp] theorem Dev.put_qn (d : Dev) (o : Out) : (d.put o).qn = d.qn := rfl
@[simp] theorem Dev.put_pav (d : Dev) (o : Out) : (d.put o).pav = d.pav := rfl
@[simp] theorem Dev.put_pwr (d : Dev) (o : Out) : (d.put o).pwr = d.pwr := rfl
@[simp] theorem Dev.put_sec (d : Dev) (o : Out) : (d.put o).sec = d.sec := rfl
@[simp] theorem Dev.put_dbg (d : Dev) (o : Out) : (d.put o).dbg = d.dbg := rfl
@[simp] theorem Dev.put_gau (d : Dev) (o : Out) : (d.put o).gau = d.gau := rfl
@[simp] theorem Dev.put_fences (d : Dev) (o : Out) : (d.put o).fences = d.fences := rfl
@[simp] theorem Dev.put_newFences (d : Dev) (o : Out) : (d.put o).newFences = d.newFences := rfl
@[simp] theorem Dev.put_rate (d : Dev) (o : Out) : (d.put o).rate = d.rate := rfl
@[simp] theorem Dev.put_ticks (d : Dev) (o : Out) : (d.put o).ticks = d.ticks := rfl
@[simp] theorem Dev.put_freeCtr (d : Dev) (o : Out) : (d.put o).freeCtr = d.freeCtr := rfl

/-! `Dev.setCell` -/

@[simp] theorem Dev.setCell_hw (d : Dev) (a : Nat) (b : Byte) : (d.setCell a b).hw = d.hw := rfl
@[simp] theorem Dev.setCell_out (d : Dev) (a : Nat) (b : Byte) : (d.setCell a b).out = d.out := rfl
@[simp] theorem Dev.setCell_regs (d : Dev) (a : Nat) (b : Byte) : (d.setCell a b).regs = d.regs := rfl
@[simp] theorem Dev.setCell_mem (d : Dev) (a : Nat) (b : Byte) : (d.setCell a b).mem = FMap.set 0 d.mem a (b ^^^ d.mask a) := rfl
@[simp] theorem Dev.setCell_hostMem (d : Dev) (a : Nat) (b : Byte) : (d.setCell a b).hostMem = d.hostMem := rfl
@[simp] theorem Dev.setCell_tags (d : Dev) (a : Nat) (b : Byte) : (d.setCell a b).tags = d.tags := rfl
@[simp] theorem Dev.setCell_shadow (d : Dev) (a : Nat) (b : Byte) : (d.setCell a b).shadow = d.shadow := rfl
@[simp] theorem Dev.setCell_poison (d : Dev) (a : Nat) (b : Byte) : (d.setCell a b).poison = d.poison := rfl
@[simp] theorem Dev.setCell_poisonTold (d : Dev) (a : Nat) (b : Byte) : (d.setCell a b).poisonTold = d.poisonTold := rfl
@[simp] theorem Dev.setCell_mirrorDue (d : Dev) (a : Nat) (b : Byte) : (d.setCell a b).mirrorDue = d.mirrorDue := rfl
@[simp] theorem Dev.setCell_dramGen (d : Dev) (a : Nat) (b : Byte) : (d.setCell a b).dramGen = d.dramGen := rfl
@[simp] theorem Dev.setCell_cores (d : Dev) (a : Nat) (b : Byte) : (d.setCell a b).cores = d.cores := rfl
@[simp] theorem Dev.setCell_joined (d : Dev) (a : Nat) (b : Byte) : (d.setCell a b).joined = d.joined := rfl
@[simp] theorem Dev.setCell_jfe (d : Dev) (a : Nat) (b : Byte) : (d.setCell a b).jfe = d.jfe := rfl
@[simp] theorem Dev.setCell_link (d : Dev) (a : Nat) (b : Byte) : (d.setCell a b).link = d.link := rfl
@[simp] theorem Dev.setCell_sems (d : Dev) (a : Nat) (b : Byte) : (d.setCell a b).sems = d.sems := rfl
@[simp] theorem Dev.setCell_engs (d : Dev) (a : Nat) (b : Byte) : (d.setCell a b).engs = d.engs := rfl
@[simp] theorem Dev.setCell_tickets (d : Dev) (a : Nat) (b : Byte) : (d.setCell a b).tickets = d.tickets := rfl
@[simp] theorem Dev.setCell_ticketSeq (d : Dev) (a : Nat) (b : Byte) : (d.setCell a b).ticketSeq = d.ticketSeq := rfl
@[simp] theorem Dev.setCell_crn (d : Dev) (a : Nat) (b : Byte) : (d.setCell a b).crn = d.crn := rfl
@[simp] theorem Dev.setCell_seqs (d : Dev) (a : Nat) (b : Byte) : (d.setCell a b).seqs = d.seqs := rfl
@[simp] theorem Dev.setCell_stackTbl (d : Dev) (a : Nat) (b : Byte) : (d.setCell a b).stackTbl = d.stackTbl := rfl
@[simp] theorem Dev.setCell_mirrors (d : Dev) (a : Nat) (b : Byte) : (d.setCell a b).mirrors = d.mirrors := rfl
@[simp] theorem Dev.setCell_bw (d : Dev) (a : Nat) (b : Byte) : (d.setCell a b).bw = d.bw := rfl
@[simp] theorem Dev.setCell_ports (d : Dev) (a : Nat) (b : Byte) : (d.setCell a b).ports = d.ports := rfl
@[simp] theorem Dev.setCell_hod (d : Dev) (a : Nat) (b : Byte) : (d.setCell a b).hod = d.hod := rfl
@[simp] theorem Dev.setCell_aphy (d : Dev) (a : Nat) (b : Byte) : (d.setCell a b).aphy = d.aphy := rfl
@[simp] theorem Dev.setCell_eth (d : Dev) (a : Nat) (b : Byte) : (d.setCell a b).eth = d.eth := rfl
@[simp] theorem Dev.setCell_plb (d : Dev) (a : Nat) (b : Byte) : (d.setCell a b).plb = d.plb := rfl
@[simp] theorem Dev.setCell_qn (d : Dev) (a : Nat) (b : Byte) : (d.setCell a b).qn = d.qn := rfl
@[simp] theorem Dev.setCell_pav (d : Dev) (a : Nat) (b : Byte) : (d.setCell a b).pav = d.pav := rfl
@[simp] theorem Dev.setCell_pwr (d : Dev) (a : Nat) (b : Byte) : (d.setCell a b).pwr = d.pwr := rfl
@[simp] theorem Dev.setCell_sec (d : Dev) (a : Nat) (b : Byte) : (d.setCell a b).sec = d.sec := rfl
@[simp] theorem Dev.setCell_dbg (d : Dev) (a : Nat) (b : Byte) : (d.setCell a b).dbg = d.dbg := rfl
@[simp] theorem Dev.setCell_gau (d : Dev) (a : Nat) (b : Byte) : (d.setCell a b).gau = d.gau := rfl
@[simp] theorem Dev.setCell_fences (d : Dev) (a : Nat) (b : Byte) : (d.setCell a b).fences = d.fences := rfl
@[simp] theorem Dev.setCell_newFences (d : Dev) (a : Nat) (b : Byte) : (d.setCell a b).newFences = d.newFences := rfl
@[simp] theorem Dev.setCell_rate (d : Dev) (a : Nat) (b : Byte) : (d.setCell a b).rate = d.rate := rfl
@[simp] theorem Dev.setCell_ticks (d : Dev) (a : Nat) (b : Byte) : (d.setCell a b).ticks = d.ticks := rfl
@[simp] theorem Dev.setCell_freeCtr (d : Dev) (a : Nat) (b : Byte) : (d.setCell a b).freeCtr = d.freeCtr := rfl

/-! `Dev.hostPut` -/

@[simp] theorem Dev.hostPut_hw (d : Dev) (a : Nat) (bs : List Byte) : (d.hostPut a bs).hw = d.hw := rfl
@[simp] theorem Dev.hostPut_out (d : Dev) (a : Nat) (bs : List Byte) : (d.hostPut a bs).out = d.out := rfl
@[simp] theorem Dev.hostPut_regs (d : Dev) (a : Nat) (bs : List Byte) : (d.hostPut a bs).regs = d.regs := rfl
@[simp] theorem Dev.hostPut_mem (d : Dev) (a : Nat) (bs : List Byte) : (d.hostPut a bs).mem = d.mem := rfl
@[simp] theorem Dev.hostPut_hostMem (d : Dev) (a : Nat) (bs : List Byte) : (d.hostPut a bs).hostMem = FMap.setMany 0 d.hostMem a bs := rfl
@[simp] theorem Dev.hostPut_tags (d : Dev) (a : Nat) (bs : List Byte) : (d.hostPut a bs).tags = d.tags := rfl
@[simp] theorem Dev.hostPut_shadow (d : Dev) (a : Nat) (bs : List Byte) : (d.hostPut a bs).shadow = d.shadow := rfl
@[simp] theorem Dev.hostPut_poison (d : Dev) (a : Nat) (bs : List Byte) : (d.hostPut a bs).poison = d.poison := rfl
@[simp] theorem Dev.hostPut_poisonTold (d : Dev) (a : Nat) (bs : List Byte) : (d.hostPut a bs).poisonTold = d.poisonTold := rfl
@[simp] theorem Dev.hostPut_mirrorDue (d : Dev) (a : Nat) (bs : List Byte) : (d.hostPut a bs).mirrorDue = d.mirrorDue := rfl
@[simp] theorem Dev.hostPut_dramGen (d : Dev) (a : Nat) (bs : List Byte) : (d.hostPut a bs).dramGen = d.dramGen := rfl
@[simp] theorem Dev.hostPut_cores (d : Dev) (a : Nat) (bs : List Byte) : (d.hostPut a bs).cores = d.cores := rfl
@[simp] theorem Dev.hostPut_joined (d : Dev) (a : Nat) (bs : List Byte) : (d.hostPut a bs).joined = d.joined := rfl
@[simp] theorem Dev.hostPut_jfe (d : Dev) (a : Nat) (bs : List Byte) : (d.hostPut a bs).jfe = d.jfe := rfl
@[simp] theorem Dev.hostPut_link (d : Dev) (a : Nat) (bs : List Byte) : (d.hostPut a bs).link = d.link := rfl
@[simp] theorem Dev.hostPut_sems (d : Dev) (a : Nat) (bs : List Byte) : (d.hostPut a bs).sems = d.sems := rfl
@[simp] theorem Dev.hostPut_engs (d : Dev) (a : Nat) (bs : List Byte) : (d.hostPut a bs).engs = d.engs := rfl
@[simp] theorem Dev.hostPut_tickets (d : Dev) (a : Nat) (bs : List Byte) : (d.hostPut a bs).tickets = d.tickets := rfl
@[simp] theorem Dev.hostPut_ticketSeq (d : Dev) (a : Nat) (bs : List Byte) : (d.hostPut a bs).ticketSeq = d.ticketSeq := rfl
@[simp] theorem Dev.hostPut_crn (d : Dev) (a : Nat) (bs : List Byte) : (d.hostPut a bs).crn = d.crn := rfl
@[simp] theorem Dev.hostPut_seqs (d : Dev) (a : Nat) (bs : List Byte) : (d.hostPut a bs).seqs = d.seqs := rfl
@[simp] theorem Dev.hostPut_stackTbl (d : Dev) (a : Nat) (bs : List Byte) : (d.hostPut a bs).stackTbl = d.stackTbl := rfl
@[simp] theorem Dev.hostPut_mirrors (d : Dev) (a : Nat) (bs : List Byte) : (d.hostPut a bs).mirrors = d.mirrors := rfl
@[simp] theorem Dev.hostPut_bw (d : Dev) (a : Nat) (bs : List Byte) : (d.hostPut a bs).bw = d.bw := rfl
@[simp] theorem Dev.hostPut_ports (d : Dev) (a : Nat) (bs : List Byte) : (d.hostPut a bs).ports = d.ports := rfl
@[simp] theorem Dev.hostPut_hod (d : Dev) (a : Nat) (bs : List Byte) : (d.hostPut a bs).hod = d.hod := rfl
@[simp] theorem Dev.hostPut_aphy (d : Dev) (a : Nat) (bs : List Byte) : (d.hostPut a bs).aphy = d.aphy := rfl
@[simp] theorem Dev.hostPut_eth (d : Dev) (a : Nat) (bs : List Byte) : (d.hostPut a bs).eth = d.eth := rfl
@[simp] theorem Dev.hostPut_plb (d : Dev) (a : Nat) (bs : List Byte) : (d.hostPut a bs).plb = d.plb := rfl
@[simp] theorem Dev.hostPut_qn (d : Dev) (a : Nat) (bs : List Byte) : (d.hostPut a bs).qn = d.qn := rfl
@[simp] theorem Dev.hostPut_pav (d : Dev) (a : Nat) (bs : List Byte) : (d.hostPut a bs).pav = d.pav := rfl
@[simp] theorem Dev.hostPut_pwr (d : Dev) (a : Nat) (bs : List Byte) : (d.hostPut a bs).pwr = d.pwr := rfl
@[simp] theorem Dev.hostPut_sec (d : Dev) (a : Nat) (bs : List Byte) : (d.hostPut a bs).sec = d.sec := rfl
@[simp] theorem Dev.hostPut_dbg (d : Dev) (a : Nat) (bs : List Byte) : (d.hostPut a bs).dbg = d.dbg := rfl
@[simp] theorem Dev.hostPut_gau (d : Dev) (a : Nat) (bs : List Byte) : (d.hostPut a bs).gau = d.gau := rfl
@[simp] theorem Dev.hostPut_fences (d : Dev) (a : Nat) (bs : List Byte) : (d.hostPut a bs).fences = d.fences := rfl
@[simp] theorem Dev.hostPut_newFences (d : Dev) (a : Nat) (bs : List Byte) : (d.hostPut a bs).newFences = d.newFences := rfl
@[simp] theorem Dev.hostPut_rate (d : Dev) (a : Nat) (bs : List Byte) : (d.hostPut a bs).rate = d.rate := rfl
@[simp] theorem Dev.hostPut_ticks (d : Dev) (a : Nat) (bs : List Byte) : (d.hostPut a bs).ticks = d.ticks := rfl
@[simp] theorem Dev.hostPut_freeCtr (d : Dev) (a : Nat) (bs : List Byte) : (d.hostPut a bs).freeCtr = d.freeCtr := rfl

/-! `Dev.setCore` -/

@[simp] theorem Dev.setCore_hw (d : Dev) (gid : Nat) (c : Core) : (d.setCore gid c).hw = d.hw := rfl
@[simp] theorem Dev.setCore_out (d : Dev) (gid : Nat) (c : Core) : (d.setCore gid c).out = d.out := rfl
@[simp] theorem Dev.setCore_regs (d : Dev) (gid : Nat) (c : Core) : (d.setCore gid c).regs = d.regs := rfl
@[simp] theorem Dev.setCore_mem (d : Dev) (gid : Nat) (c : Core) : (d.setCore gid c).mem = d.mem := rfl
@[simp] theorem Dev.setCore_hostMem (d : Dev) (gid : Nat) (c : Core) : (d.setCore gid c).hostMem = d.hostMem := rfl
@[simp] theorem Dev.setCore_tags (d : Dev) (gid : Nat) (c : Core) : (d.setCore gid c).tags = d.tags := rfl
@[simp] theorem Dev.setCore_shadow (d : Dev) (gid : Nat) (c : Core) : (d.setCore gid c).shadow = d.shadow := rfl
@[simp] theorem Dev.setCore_poison (d : Dev) (gid : Nat) (c : Core) : (d.setCore gid c).poison = d.poison := rfl
@[simp] theorem Dev.setCore_poisonTold (d : Dev) (gid : Nat) (c : Core) : (d.setCore gid c).poisonTold = d.poisonTold := rfl
@[simp] theorem Dev.setCore_mirrorDue (d : Dev) (gid : Nat) (c : Core) : (d.setCore gid c).mirrorDue = d.mirrorDue := rfl
@[simp] theorem Dev.setCore_dramGen (d : Dev) (gid : Nat) (c : Core) : (d.setCore gid c).dramGen = d.dramGen := rfl
@[simp] theorem Dev.setCore_cores (d : Dev) (gid : Nat) (c : Core) : (d.setCore gid c).cores = FMap.set Core.off d.cores gid c := rfl
@[simp] theorem Dev.setCore_joined (d : Dev) (gid : Nat) (c : Core) : (d.setCore gid c).joined = d.joined := rfl
@[simp] theorem Dev.setCore_jfe (d : Dev) (gid : Nat) (c : Core) : (d.setCore gid c).jfe = d.jfe := rfl
@[simp] theorem Dev.setCore_link (d : Dev) (gid : Nat) (c : Core) : (d.setCore gid c).link = d.link := rfl
@[simp] theorem Dev.setCore_sems (d : Dev) (gid : Nat) (c : Core) : (d.setCore gid c).sems = d.sems := rfl
@[simp] theorem Dev.setCore_engs (d : Dev) (gid : Nat) (c : Core) : (d.setCore gid c).engs = d.engs := rfl
@[simp] theorem Dev.setCore_tickets (d : Dev) (gid : Nat) (c : Core) : (d.setCore gid c).tickets = d.tickets := rfl
@[simp] theorem Dev.setCore_ticketSeq (d : Dev) (gid : Nat) (c : Core) : (d.setCore gid c).ticketSeq = d.ticketSeq := rfl
@[simp] theorem Dev.setCore_crn (d : Dev) (gid : Nat) (c : Core) : (d.setCore gid c).crn = d.crn := rfl
@[simp] theorem Dev.setCore_seqs (d : Dev) (gid : Nat) (c : Core) : (d.setCore gid c).seqs = d.seqs := rfl
@[simp] theorem Dev.setCore_stackTbl (d : Dev) (gid : Nat) (c : Core) : (d.setCore gid c).stackTbl = d.stackTbl := rfl
@[simp] theorem Dev.setCore_mirrors (d : Dev) (gid : Nat) (c : Core) : (d.setCore gid c).mirrors = d.mirrors := rfl
@[simp] theorem Dev.setCore_bw (d : Dev) (gid : Nat) (c : Core) : (d.setCore gid c).bw = d.bw := rfl
@[simp] theorem Dev.setCore_ports (d : Dev) (gid : Nat) (c : Core) : (d.setCore gid c).ports = d.ports := rfl
@[simp] theorem Dev.setCore_hod (d : Dev) (gid : Nat) (c : Core) : (d.setCore gid c).hod = d.hod := rfl
@[simp] theorem Dev.setCore_aphy (d : Dev) (gid : Nat) (c : Core) : (d.setCore gid c).aphy = d.aphy := rfl
@[simp] theorem Dev.setCore_eth (d : Dev) (gid : Nat) (c : Core) : (d.setCore gid c).eth = d.eth := rfl
@[simp] theorem Dev.setCore_plb (d : Dev) (gid : Nat) (c : Core) : (d.setCore gid c).plb = d.plb := rfl
@[simp] theorem Dev.setCore_qn (d : Dev) (gid : Nat) (c : Core) : (d.setCore gid c).qn = d.qn := rfl
@[simp] theorem Dev.setCore_pav (d : Dev) (gid : Nat) (c : Core) : (d.setCore gid c).pav = d.pav := rfl
@[simp] theorem Dev.setCore_pwr (d : Dev) (gid : Nat) (c : Core) : (d.setCore gid c).pwr = d.pwr := rfl
@[simp] theorem Dev.setCore_sec (d : Dev) (gid : Nat) (c : Core) : (d.setCore gid c).sec = d.sec := rfl
@[simp] theorem Dev.setCore_dbg (d : Dev) (gid : Nat) (c : Core) : (d.setCore gid c).dbg = d.dbg := rfl
@[simp] theorem Dev.setCore_gau (d : Dev) (gid : Nat) (c : Core) : (d.setCore gid c).gau = d.gau := rfl
@[simp] theorem Dev.setCore_fences (d : Dev) (gid : Nat) (c : Core) : (d.setCore gid c).fences = d.fences := rfl
@[simp] theorem Dev.setCore_newFences (d : Dev) (gid : Nat) (c : Core) : (d.setCore gid c).newFences = d.newFences := rfl
@[simp] theorem Dev.setCore_rate (d : Dev) (gid : Nat) (c : Core) : (d.setCore gid c).rate = d.rate := rfl
@[simp] theorem Dev.setCore_ticks (d : Dev) (gid : Nat) (c : Core) : (d.setCore gid c).ticks = d.ticks := rfl
@[simp] theorem Dev.setCore_freeCtr (d : Dev) (gid : Nat) (c : Core) : (d.setCore gid c).freeCtr = d.freeCtr := rfl

/-! `Dev.setCtx` -/

@[simp] theorem Dev.setCtx_hw (d : Dev) (c : Nat) (x : Ctx) : (d.setCtx c x).hw = d.hw := rfl
@[simp] theorem Dev.setCtx_out (d : Dev) (c : Nat) (x : Ctx) : (d.setCtx c x).out = d.out := rfl
@[simp] theorem Dev.setCtx_regs (d : Dev) (c : Nat) (x : Ctx) : (d.setCtx c x).regs = d.regs := rfl
@[simp] theorem Dev.setCtx_mem (d : Dev) (c : Nat) (x : Ctx) : (d.setCtx c x).mem = d.mem := rfl
@[simp] theorem Dev.setCtx_hostMem (d : Dev) (c : Nat) (x : Ctx) : (d.setCtx c x).hostMem = d.hostMem := rfl
@[simp] theorem Dev.setCtx_tags (d : Dev) (c : Nat) (x : Ctx) : (d.setCtx c x).tags = d.tags := rfl
@[simp] theorem Dev.setCtx_shadow (d : Dev) (c : Nat) (x : Ctx) : (d.setCtx c x).shadow = d.shadow := rfl
@[simp] theorem Dev.setCtx_poison (d : Dev) (c : Nat) (x : Ctx) : (d.setCtx c x).poison = d.poison := rfl
@[simp] theorem Dev.setCtx_poisonTold (d : Dev) (c : Nat) (x : Ctx) : (d.setCtx c x).poisonTold = d.poisonTold := rfl
@[simp] theorem Dev.setCtx_mirrorDue (d : Dev) (c : Nat) (x : Ctx) : (d.setCtx c x).mirrorDue = d.mirrorDue := rfl
@[simp] theorem Dev.setCtx_dramGen (d : Dev) (c : Nat) (x : Ctx) : (d.setCtx c x).dramGen = d.dramGen := rfl
@[simp] theorem Dev.setCtx_cores (d : Dev) (c : Nat) (x : Ctx) : (d.setCtx c x).cores = d.cores := rfl
@[simp] theorem Dev.setCtx_joined (d : Dev) (c : Nat) (x : Ctx) : (d.setCtx c x).joined = d.joined := rfl
@[simp] theorem Dev.setCtx_jfe (d : Dev) (c : Nat) (x : Ctx) : (d.setCtx c x).jfe = { d.jfe with ctxs := FMap.set Ctx.free d.jfe.ctxs c x } := rfl
@[simp] theorem Dev.setCtx_link (d : Dev) (c : Nat) (x : Ctx) : (d.setCtx c x).link = d.link := rfl
@[simp] theorem Dev.setCtx_sems (d : Dev) (c : Nat) (x : Ctx) : (d.setCtx c x).sems = d.sems := rfl
@[simp] theorem Dev.setCtx_engs (d : Dev) (c : Nat) (x : Ctx) : (d.setCtx c x).engs = d.engs := rfl
@[simp] theorem Dev.setCtx_tickets (d : Dev) (c : Nat) (x : Ctx) : (d.setCtx c x).tickets = d.tickets := rfl
@[simp] theorem Dev.setCtx_ticketSeq (d : Dev) (c : Nat) (x : Ctx) : (d.setCtx c x).ticketSeq = d.ticketSeq := rfl
@[simp] theorem Dev.setCtx_crn (d : Dev) (c : Nat) (x : Ctx) : (d.setCtx c x).crn = d.crn := rfl
@[simp] theorem Dev.setCtx_seqs (d : Dev) (c : Nat) (x : Ctx) : (d.setCtx c x).seqs = d.seqs := rfl
@[simp] theorem Dev.setCtx_stackTbl (d : Dev) (c : Nat) (x : Ctx) : (d.setCtx c x).stackTbl = d.stackTbl := rfl
@[simp] theorem Dev.setCtx_mirrors (d : Dev) (c : Nat) (x : Ctx) : (d.setCtx c x).mirrors = d.mirrors := rfl
@[simp] theorem Dev.setCtx_bw (d : Dev) (c : Nat) (x : Ctx) : (d.setCtx c x).bw = d.bw := rfl
@[simp] theorem Dev.setCtx_ports (d : Dev) (c : Nat) (x : Ctx) : (d.setCtx c x).ports = d.ports := rfl
@[simp] theorem Dev.setCtx_hod (d : Dev) (c : Nat) (x : Ctx) : (d.setCtx c x).hod = d.hod := rfl
@[simp] theorem Dev.setCtx_aphy (d : Dev) (c : Nat) (x : Ctx) : (d.setCtx c x).aphy = d.aphy := rfl
@[simp] theorem Dev.setCtx_eth (d : Dev) (c : Nat) (x : Ctx) : (d.setCtx c x).eth = d.eth := rfl
@[simp] theorem Dev.setCtx_plb (d : Dev) (c : Nat) (x : Ctx) : (d.setCtx c x).plb = d.plb := rfl
@[simp] theorem Dev.setCtx_qn (d : Dev) (c : Nat) (x : Ctx) : (d.setCtx c x).qn = d.qn := rfl
@[simp] theorem Dev.setCtx_pav (d : Dev) (c : Nat) (x : Ctx) : (d.setCtx c x).pav = d.pav := rfl
@[simp] theorem Dev.setCtx_pwr (d : Dev) (c : Nat) (x : Ctx) : (d.setCtx c x).pwr = d.pwr := rfl
@[simp] theorem Dev.setCtx_sec (d : Dev) (c : Nat) (x : Ctx) : (d.setCtx c x).sec = d.sec := rfl
@[simp] theorem Dev.setCtx_dbg (d : Dev) (c : Nat) (x : Ctx) : (d.setCtx c x).dbg = d.dbg := rfl
@[simp] theorem Dev.setCtx_gau (d : Dev) (c : Nat) (x : Ctx) : (d.setCtx c x).gau = d.gau := rfl
@[simp] theorem Dev.setCtx_fences (d : Dev) (c : Nat) (x : Ctx) : (d.setCtx c x).fences = d.fences := rfl
@[simp] theorem Dev.setCtx_newFences (d : Dev) (c : Nat) (x : Ctx) : (d.setCtx c x).newFences = d.newFences := rfl
@[simp] theorem Dev.setCtx_rate (d : Dev) (c : Nat) (x : Ctx) : (d.setCtx c x).rate = d.rate := rfl
@[simp] theorem Dev.setCtx_ticks (d : Dev) (c : Nat) (x : Ctx) : (d.setCtx c x).ticks = d.ticks := rfl
@[simp] theorem Dev.setCtx_freeCtr (d : Dev) (c : Nat) (x : Ctx) : (d.setCtx c x).freeCtr = d.freeCtr := rfl

/-! `Dev.setEpoch` -/

@[simp] theorem Dev.setEpoch_hw (d : Dev) (e : Nat) (x : Epoch) : (d.setEpoch e x).hw = d.hw := rfl
@[simp] theorem Dev.setEpoch_out (d : Dev) (e : Nat) (x : Epoch) : (d.setEpoch e x).out = d.out := rfl
@[simp] theorem Dev.setEpoch_regs (d : Dev) (e : Nat) (x : Epoch) : (d.setEpoch e x).regs = d.regs := rfl
@[simp] theorem Dev.setEpoch_mem (d : Dev) (e : Nat) (x : Epoch) : (d.setEpoch e x).mem = d.mem := rfl
@[simp] theorem Dev.setEpoch_hostMem (d : Dev) (e : Nat) (x : Epoch) : (d.setEpoch e x).hostMem = d.hostMem := rfl
@[simp] theorem Dev.setEpoch_tags (d : Dev) (e : Nat) (x : Epoch) : (d.setEpoch e x).tags = d.tags := rfl
@[simp] theorem Dev.setEpoch_shadow (d : Dev) (e : Nat) (x : Epoch) : (d.setEpoch e x).shadow = d.shadow := rfl
@[simp] theorem Dev.setEpoch_poison (d : Dev) (e : Nat) (x : Epoch) : (d.setEpoch e x).poison = d.poison := rfl
@[simp] theorem Dev.setEpoch_poisonTold (d : Dev) (e : Nat) (x : Epoch) : (d.setEpoch e x).poisonTold = d.poisonTold := rfl
@[simp] theorem Dev.setEpoch_mirrorDue (d : Dev) (e : Nat) (x : Epoch) : (d.setEpoch e x).mirrorDue = d.mirrorDue := rfl
@[simp] theorem Dev.setEpoch_dramGen (d : Dev) (e : Nat) (x : Epoch) : (d.setEpoch e x).dramGen = d.dramGen := rfl
@[simp] theorem Dev.setEpoch_cores (d : Dev) (e : Nat) (x : Epoch) : (d.setEpoch e x).cores = d.cores := rfl
@[simp] theorem Dev.setEpoch_joined (d : Dev) (e : Nat) (x : Epoch) : (d.setEpoch e x).joined = d.joined := rfl
@[simp] theorem Dev.setEpoch_jfe (d : Dev) (e : Nat) (x : Epoch) : (d.setEpoch e x).jfe = { d.jfe with epochs := FMap.set Epoch.free d.jfe.epochs e x } := rfl
@[simp] theorem Dev.setEpoch_link (d : Dev) (e : Nat) (x : Epoch) : (d.setEpoch e x).link = d.link := rfl
@[simp] theorem Dev.setEpoch_sems (d : Dev) (e : Nat) (x : Epoch) : (d.setEpoch e x).sems = d.sems := rfl
@[simp] theorem Dev.setEpoch_engs (d : Dev) (e : Nat) (x : Epoch) : (d.setEpoch e x).engs = d.engs := rfl
@[simp] theorem Dev.setEpoch_tickets (d : Dev) (e : Nat) (x : Epoch) : (d.setEpoch e x).tickets = d.tickets := rfl
@[simp] theorem Dev.setEpoch_ticketSeq (d : Dev) (e : Nat) (x : Epoch) : (d.setEpoch e x).ticketSeq = d.ticketSeq := rfl
@[simp] theorem Dev.setEpoch_crn (d : Dev) (e : Nat) (x : Epoch) : (d.setEpoch e x).crn = d.crn := rfl
@[simp] theorem Dev.setEpoch_seqs (d : Dev) (e : Nat) (x : Epoch) : (d.setEpoch e x).seqs = d.seqs := rfl
@[simp] theorem Dev.setEpoch_stackTbl (d : Dev) (e : Nat) (x : Epoch) : (d.setEpoch e x).stackTbl = d.stackTbl := rfl
@[simp] theorem Dev.setEpoch_mirrors (d : Dev) (e : Nat) (x : Epoch) : (d.setEpoch e x).mirrors = d.mirrors := rfl
@[simp] theorem Dev.setEpoch_bw (d : Dev) (e : Nat) (x : Epoch) : (d.setEpoch e x).bw = d.bw := rfl
@[simp] theorem Dev.setEpoch_ports (d : Dev) (e : Nat) (x : Epoch) : (d.setEpoch e x).ports = d.ports := rfl
@[simp] theorem Dev.setEpoch_hod (d : Dev) (e : Nat) (x : Epoch) : (d.setEpoch e x).hod = d.hod := rfl
@[simp] theorem Dev.setEpoch_aphy (d : Dev) (e : Nat) (x : Epoch) : (d.setEpoch e x).aphy = d.aphy := rfl
@[simp] theorem Dev.setEpoch_eth (d : Dev) (e : Nat) (x : Epoch) : (d.setEpoch e x).eth = d.eth := rfl
@[simp] theorem Dev.setEpoch_plb (d : Dev) (e : Nat) (x : Epoch) : (d.setEpoch e x).plb = d.plb := rfl
@[simp] theorem Dev.setEpoch_qn (d : Dev) (e : Nat) (x : Epoch) : (d.setEpoch e x).qn = d.qn := rfl
@[simp] theorem Dev.setEpoch_pav (d : Dev) (e : Nat) (x : Epoch) : (d.setEpoch e x).pav = d.pav := rfl
@[simp] theorem Dev.setEpoch_pwr (d : Dev) (e : Nat) (x : Epoch) : (d.setEpoch e x).pwr = d.pwr := rfl
@[simp] theorem Dev.setEpoch_sec (d : Dev) (e : Nat) (x : Epoch) : (d.setEpoch e x).sec = d.sec := rfl
@[simp] theorem Dev.setEpoch_dbg (d : Dev) (e : Nat) (x : Epoch) : (d.setEpoch e x).dbg = d.dbg := rfl
@[simp] theorem Dev.setEpoch_gau (d : Dev) (e : Nat) (x : Epoch) : (d.setEpoch e x).gau = d.gau := rfl
@[simp] theorem Dev.setEpoch_fences (d : Dev) (e : Nat) (x : Epoch) : (d.setEpoch e x).fences = d.fences := rfl
@[simp] theorem Dev.setEpoch_newFences (d : Dev) (e : Nat) (x : Epoch) : (d.setEpoch e x).newFences = d.newFences := rfl
@[simp] theorem Dev.setEpoch_rate (d : Dev) (e : Nat) (x : Epoch) : (d.setEpoch e x).rate = d.rate := rfl
@[simp] theorem Dev.setEpoch_ticks (d : Dev) (e : Nat) (x : Epoch) : (d.setEpoch e x).ticks = d.ticks := rfl
@[simp] theorem Dev.setEpoch_freeCtr (d : Dev) (e : Nat) (x : Epoch) : (d.setEpoch e x).freeCtr = d.freeCtr := rfl

/-! `Dev.setTicket` -/

@[simp] theorem Dev.setTicket_hw (d : Dev) (c t : Nat) (x : Option Ticket) : (d.setTicket c t x).hw = d.hw := rfl
@[simp] theorem Dev.setTicket_out (d : Dev) (c t : Nat) (x : Option Ticket) : (d.setTicket c t x).out = d.out := rfl
@[simp] theorem Dev.setTicket_regs (d : Dev) (c t : Nat) (x : Option Ticket) : (d.setTicket c t x).regs = d.regs := rfl
@[simp] theorem Dev.setTicket_mem (d : Dev) (c t : Nat) (x : Option Ticket) : (d.setTicket c t x).mem = d.mem := rfl
@[simp] theorem Dev.setTicket_hostMem (d : Dev) (c t : Nat) (x : Option Ticket) : (d.setTicket c t x).hostMem = d.hostMem := rfl
@[simp] theorem Dev.setTicket_tags (d : Dev) (c t : Nat) (x : Option Ticket) : (d.setTicket c t x).tags = d.tags := rfl
@[simp] theorem Dev.setTicket_shadow (d : Dev) (c t : Nat) (x : Option Ticket) : (d.setTicket c t x).shadow = d.shadow := rfl
@[simp] theorem Dev.setTicket_poison (d : Dev) (c t : Nat) (x : Option Ticket) : (d.setTicket c t x).poison = d.poison := rfl
@[simp] theorem Dev.setTicket_poisonTold (d : Dev) (c t : Nat) (x : Option Ticket) : (d.setTicket c t x).poisonTold = d.poisonTold := rfl
@[simp] theorem Dev.setTicket_mirrorDue (d : Dev) (c t : Nat) (x : Option Ticket) : (d.setTicket c t x).mirrorDue = d.mirrorDue := rfl
@[simp] theorem Dev.setTicket_dramGen (d : Dev) (c t : Nat) (x : Option Ticket) : (d.setTicket c t x).dramGen = d.dramGen := rfl
@[simp] theorem Dev.setTicket_cores (d : Dev) (c t : Nat) (x : Option Ticket) : (d.setTicket c t x).cores = d.cores := rfl
@[simp] theorem Dev.setTicket_joined (d : Dev) (c t : Nat) (x : Option Ticket) : (d.setTicket c t x).joined = d.joined := rfl
@[simp] theorem Dev.setTicket_jfe (d : Dev) (c t : Nat) (x : Option Ticket) : (d.setTicket c t x).jfe = d.jfe := rfl
@[simp] theorem Dev.setTicket_link (d : Dev) (c t : Nat) (x : Option Ticket) : (d.setTicket c t x).link = d.link := rfl
@[simp] theorem Dev.setTicket_sems (d : Dev) (c t : Nat) (x : Option Ticket) : (d.setTicket c t x).sems = d.sems := rfl
@[simp] theorem Dev.setTicket_engs (d : Dev) (c t : Nat) (x : Option Ticket) : (d.setTicket c t x).engs = d.engs := rfl
@[simp] theorem Dev.setTicket_tickets (d : Dev) (c t : Nat) (x : Option Ticket) : (d.setTicket c t x).tickets = FMap.set none d.tickets (ticketKey c t) x := rfl
@[simp] theorem Dev.setTicket_ticketSeq (d : Dev) (c t : Nat) (x : Option Ticket) : (d.setTicket c t x).ticketSeq = d.ticketSeq := rfl
@[simp] theorem Dev.setTicket_crn (d : Dev) (c t : Nat) (x : Option Ticket) : (d.setTicket c t x).crn = d.crn := rfl
@[simp] theorem Dev.setTicket_seqs (d : Dev) (c t : Nat) (x : Option Ticket) : (d.setTicket c t x).seqs = d.seqs := rfl
@[simp] theorem Dev.setTicket_stackTbl (d : Dev) (c t : Nat) (x : Option Ticket) : (d.setTicket c t x).stackTbl = d.stackTbl := rfl
@[simp] theorem Dev.setTicket_mirrors (d : Dev) (c t : Nat) (x : Option Ticket) : (d.setTicket c t x).mirrors = d.mirrors := rfl
@[simp] theorem Dev.setTicket_bw (d : Dev) (c t : Nat) (x : Option Ticket) : (d.setTicket c t x).bw = d.bw := rfl
@[simp] theorem Dev.setTicket_ports (d : Dev) (c t : Nat) (x : Option Ticket) : (d.setTicket c t x).ports = d.ports := rfl
@[simp] theorem Dev.setTicket_hod (d : Dev) (c t : Nat) (x : Option Ticket) : (d.setTicket c t x).hod = d.hod := rfl
@[simp] theorem Dev.setTicket_aphy (d : Dev) (c t : Nat) (x : Option Ticket) : (d.setTicket c t x).aphy = d.aphy := rfl
@[simp] theorem Dev.setTicket_eth (d : Dev) (c t : Nat) (x : Option Ticket) : (d.setTicket c t x).eth = d.eth := rfl
@[simp] theorem Dev.setTicket_plb (d : Dev) (c t : Nat) (x : Option Ticket) : (d.setTicket c t x).plb = d.plb := rfl
@[simp] theorem Dev.setTicket_qn (d : Dev) (c t : Nat) (x : Option Ticket) : (d.setTicket c t x).qn = d.qn := rfl
@[simp] theorem Dev.setTicket_pav (d : Dev) (c t : Nat) (x : Option Ticket) : (d.setTicket c t x).pav = d.pav := rfl
@[simp] theorem Dev.setTicket_pwr (d : Dev) (c t : Nat) (x : Option Ticket) : (d.setTicket c t x).pwr = d.pwr := rfl
@[simp] theorem Dev.setTicket_sec (d : Dev) (c t : Nat) (x : Option Ticket) : (d.setTicket c t x).sec = d.sec := rfl
@[simp] theorem Dev.setTicket_dbg (d : Dev) (c t : Nat) (x : Option Ticket) : (d.setTicket c t x).dbg = d.dbg := rfl
@[simp] theorem Dev.setTicket_gau (d : Dev) (c t : Nat) (x : Option Ticket) : (d.setTicket c t x).gau = d.gau := rfl
@[simp] theorem Dev.setTicket_fences (d : Dev) (c t : Nat) (x : Option Ticket) : (d.setTicket c t x).fences = d.fences := rfl
@[simp] theorem Dev.setTicket_newFences (d : Dev) (c t : Nat) (x : Option Ticket) : (d.setTicket c t x).newFences = d.newFences := rfl
@[simp] theorem Dev.setTicket_rate (d : Dev) (c t : Nat) (x : Option Ticket) : (d.setTicket c t x).rate = d.rate := rfl
@[simp] theorem Dev.setTicket_ticks (d : Dev) (c t : Nat) (x : Option Ticket) : (d.setTicket c t x).ticks = d.ticks := rfl
@[simp] theorem Dev.setTicket_freeCtr (d : Dev) (c t : Nat) (x : Option Ticket) : (d.setTicket c t x).freeCtr = d.freeCtr := rfl

/-! `Dev.setSem` -/

@[simp] theorem Dev.setSem_hw (d : Dev) (n : Nat) (x : Sem) : (d.setSem n x).hw = d.hw := rfl
@[simp] theorem Dev.setSem_out (d : Dev) (n : Nat) (x : Sem) : (d.setSem n x).out = d.out := rfl
@[simp] theorem Dev.setSem_regs (d : Dev) (n : Nat) (x : Sem) : (d.setSem n x).regs = d.regs := rfl
@[simp] theorem Dev.setSem_mem (d : Dev) (n : Nat) (x : Sem) : (d.setSem n x).mem = d.mem := rfl
@[simp] theorem Dev.setSem_hostMem (d : Dev) (n : Nat) (x : Sem) : (d.setSem n x).hostMem = d.hostMem := rfl
@[simp] theorem Dev.setSem_tags (d : Dev) (n : Nat) (x : Sem) : (d.setSem n x).tags = d.tags := rfl
@[simp] theorem Dev.setSem_shadow (d : Dev) (n : Nat) (x : Sem) : (d.setSem n x).shadow = d.shadow := rfl
@[simp] theorem Dev.setSem_poison (d : Dev) (n : Nat) (x : Sem) : (d.setSem n x).poison = d.poison := rfl
@[simp] theorem Dev.setSem_poisonTold (d : Dev) (n : Nat) (x : Sem) : (d.setSem n x).poisonTold = d.poisonTold := rfl
@[simp] theorem Dev.setSem_mirrorDue (d : Dev) (n : Nat) (x : Sem) : (d.setSem n x).mirrorDue = d.mirrorDue := rfl
@[simp] theorem Dev.setSem_dramGen (d : Dev) (n : Nat) (x : Sem) : (d.setSem n x).dramGen = d.dramGen := rfl
@[simp] theorem Dev.setSem_cores (d : Dev) (n : Nat) (x : Sem) : (d.setSem n x).cores = d.cores := rfl
@[simp] theorem Dev.setSem_joined (d : Dev) (n : Nat) (x : Sem) : (d.setSem n x).joined = d.joined := rfl
@[simp] theorem Dev.setSem_jfe (d : Dev) (n : Nat) (x : Sem) : (d.setSem n x).jfe = d.jfe := rfl
@[simp] theorem Dev.setSem_link (d : Dev) (n : Nat) (x : Sem) : (d.setSem n x).link = d.link := rfl
@[simp] theorem Dev.setSem_sems (d : Dev) (n : Nat) (x : Sem) : (d.setSem n x).sems = FMap.set Sem.free d.sems n x := rfl
@[simp] theorem Dev.setSem_engs (d : Dev) (n : Nat) (x : Sem) : (d.setSem n x).engs = d.engs := rfl
@[simp] theorem Dev.setSem_tickets (d : Dev) (n : Nat) (x : Sem) : (d.setSem n x).tickets = d.tickets := rfl
@[simp] theorem Dev.setSem_ticketSeq (d : Dev) (n : Nat) (x : Sem) : (d.setSem n x).ticketSeq = d.ticketSeq := rfl
@[simp] theorem Dev.setSem_crn (d : Dev) (n : Nat) (x : Sem) : (d.setSem n x).crn = d.crn := rfl
@[simp] theorem Dev.setSem_seqs (d : Dev) (n : Nat) (x : Sem) : (d.setSem n x).seqs = d.seqs := rfl
@[simp] theorem Dev.setSem_stackTbl (d : Dev) (n : Nat) (x : Sem) : (d.setSem n x).stackTbl = d.stackTbl := rfl
@[simp] theorem Dev.setSem_mirrors (d : Dev) (n : Nat) (x : Sem) : (d.setSem n x).mirrors = d.mirrors := rfl
@[simp] theorem Dev.setSem_bw (d : Dev) (n : Nat) (x : Sem) : (d.setSem n x).bw = d.bw := rfl
@[simp] theorem Dev.setSem_ports (d : Dev) (n : Nat) (x : Sem) : (d.setSem n x).ports = d.ports := rfl
@[simp] theorem Dev.setSem_hod (d : Dev) (n : Nat) (x : Sem) : (d.setSem n x).hod = d.hod := rfl
@[simp] theorem Dev.setSem_aphy (d : Dev) (n : Nat) (x : Sem) : (d.setSem n x).aphy = d.aphy := rfl
@[simp] theorem Dev.setSem_eth (d : Dev) (n : Nat) (x : Sem) : (d.setSem n x).eth = d.eth := rfl
@[simp] theorem Dev.setSem_plb (d : Dev) (n : Nat) (x : Sem) : (d.setSem n x).plb = d.plb := rfl
@[simp] theorem Dev.setSem_qn (d : Dev) (n : Nat) (x : Sem) : (d.setSem n x).qn = d.qn := rfl
@[simp] theorem Dev.setSem_pav (d : Dev) (n : Nat) (x : Sem) : (d.setSem n x).pav = d.pav := rfl
@[simp] theorem Dev.setSem_pwr (d : Dev) (n : Nat) (x : Sem) : (d.setSem n x).pwr = d.pwr := rfl
@[simp] theorem Dev.setSem_sec (d : Dev) (n : Nat) (x : Sem) : (d.setSem n x).sec = d.sec := rfl
@[simp] theorem Dev.setSem_dbg (d : Dev) (n : Nat) (x : Sem) : (d.setSem n x).dbg = d.dbg := rfl
@[simp] theorem Dev.setSem_gau (d : Dev) (n : Nat) (x : Sem) : (d.setSem n x).gau = d.gau := rfl
@[simp] theorem Dev.setSem_fences (d : Dev) (n : Nat) (x : Sem) : (d.setSem n x).fences = d.fences := rfl
@[simp] theorem Dev.setSem_newFences (d : Dev) (n : Nat) (x : Sem) : (d.setSem n x).newFences = d.newFences := rfl
@[simp] theorem Dev.setSem_rate (d : Dev) (n : Nat) (x : Sem) : (d.setSem n x).rate = d.rate := rfl
@[simp] theorem Dev.setSem_ticks (d : Dev) (n : Nat) (x : Sem) : (d.setSem n x).ticks = d.ticks := rfl
@[simp] theorem Dev.setSem_freeCtr (d : Dev) (n : Nat) (x : Sem) : (d.setSem n x).freeCtr = d.freeCtr := rfl

/-! `Dev.setEng` -/

@[simp] theorem Dev.setEng_hw (d : Dev) (n e : Nat) (x : Eng) : (d.setEng n e x).hw = d.hw := rfl
@[simp] theorem Dev.setEng_out (d : Dev) (n e : Nat) (x : Eng) : (d.setEng n e x).out = d.out := rfl
@[simp] theorem Dev.setEng_regs (d : Dev) (n e : Nat) (x : Eng) : (d.setEng n e x).regs = d.regs := rfl
@[simp] theorem Dev.setEng_mem (d : Dev) (n e : Nat) (x : Eng) : (d.setEng n e x).mem = d.mem := rfl
@[simp] theorem Dev.setEng_hostMem (d : Dev) (n e : Nat) (x : Eng) : (d.setEng n e x).hostMem = d.hostMem := rfl
@[simp] theorem Dev.setEng_tags (d : Dev) (n e : Nat) (x : Eng) : (d.setEng n e x).tags = d.tags := rfl
@[simp] theorem Dev.setEng_shadow (d : Dev) (n e : Nat) (x : Eng) : (d.setEng n e x).shadow = d.shadow := rfl
@[simp] theorem Dev.setEng_poison (d : Dev) (n e : Nat) (x : Eng) : (d.setEng n e x).poison = d.poison := rfl
@[simp] theorem Dev.setEng_poisonTold (d : Dev) (n e : Nat) (x : Eng) : (d.setEng n e x).poisonTold = d.poisonTold := rfl
@[simp] theorem Dev.setEng_mirrorDue (d : Dev) (n e : Nat) (x : Eng) : (d.setEng n e x).mirrorDue = d.mirrorDue := rfl
@[simp] theorem Dev.setEng_dramGen (d : Dev) (n e : Nat) (x : Eng) : (d.setEng n e x).dramGen = d.dramGen := rfl
@[simp] theorem Dev.setEng_cores (d : Dev) (n e : Nat) (x : Eng) : (d.setEng n e x).cores = d.cores := rfl
@[simp] theorem Dev.setEng_joined (d : Dev) (n e : Nat) (x : Eng) : (d.setEng n e x).joined = d.joined := rfl
@[simp] theorem Dev.setEng_jfe (d : Dev) (n e : Nat) (x : Eng) : (d.setEng n e x).jfe = d.jfe := rfl
@[simp] theorem Dev.setEng_link (d : Dev) (n e : Nat) (x : Eng) : (d.setEng n e x).link = d.link := rfl
@[simp] theorem Dev.setEng_sems (d : Dev) (n e : Nat) (x : Eng) : (d.setEng n e x).sems = d.sems := rfl
@[simp] theorem Dev.setEng_engs (d : Dev) (n e : Nat) (x : Eng) : (d.setEng n e x).engs = FMap.set Eng.idle d.engs (4 * n + e) x := rfl
@[simp] theorem Dev.setEng_tickets (d : Dev) (n e : Nat) (x : Eng) : (d.setEng n e x).tickets = d.tickets := rfl
@[simp] theorem Dev.setEng_ticketSeq (d : Dev) (n e : Nat) (x : Eng) : (d.setEng n e x).ticketSeq = d.ticketSeq := rfl
@[simp] theorem Dev.setEng_crn (d : Dev) (n e : Nat) (x : Eng) : (d.setEng n e x).crn = d.crn := rfl
@[simp] theorem Dev.setEng_seqs (d : Dev) (n e : Nat) (x : Eng) : (d.setEng n e x).seqs = d.seqs := rfl
@[simp] theorem Dev.setEng_stackTbl (d : Dev) (n e : Nat) (x : Eng) : (d.setEng n e x).stackTbl = d.stackTbl := rfl
@[simp] theorem Dev.setEng_mirrors (d : Dev) (n e : Nat) (x : Eng) : (d.setEng n e x).mirrors = d.mirrors := rfl
@[simp] theorem Dev.setEng_bw (d : Dev) (n e : Nat) (x : Eng) : (d.setEng n e x).bw = d.bw := rfl
@[simp] theorem Dev.setEng_ports (d : Dev) (n e : Nat) (x : Eng) : (d.setEng n e x).ports = d.ports := rfl
@[simp] theorem Dev.setEng_hod (d : Dev) (n e : Nat) (x : Eng) : (d.setEng n e x).hod = d.hod := rfl
@[simp] theorem Dev.setEng_aphy (d : Dev) (n e : Nat) (x : Eng) : (d.setEng n e x).aphy = d.aphy := rfl
@[simp] theorem Dev.setEng_eth (d : Dev) (n e : Nat) (x : Eng) : (d.setEng n e x).eth = d.eth := rfl
@[simp] theorem Dev.setEng_plb (d : Dev) (n e : Nat) (x : Eng) : (d.setEng n e x).plb = d.plb := rfl
@[simp] theorem Dev.setEng_qn (d : Dev) (n e : Nat) (x : Eng) : (d.setEng n e x).qn = d.qn := rfl
@[simp] theorem Dev.setEng_pav (d : Dev) (n e : Nat) (x : Eng) : (d.setEng n e x).pav = d.pav := rfl
@[simp] theorem Dev.setEng_pwr (d : Dev) (n e : Nat) (x : Eng) : (d.setEng n e x).pwr = d.pwr := rfl
@[simp] theorem Dev.setEng_sec (d : Dev) (n e : Nat) (x : Eng) : (d.setEng n e x).sec = d.sec := rfl
@[simp] theorem Dev.setEng_dbg (d : Dev) (n e : Nat) (x : Eng) : (d.setEng n e x).dbg = d.dbg := rfl
@[simp] theorem Dev.setEng_gau (d : Dev) (n e : Nat) (x : Eng) : (d.setEng n e x).gau = d.gau := rfl
@[simp] theorem Dev.setEng_fences (d : Dev) (n e : Nat) (x : Eng) : (d.setEng n e x).fences = d.fences := rfl
@[simp] theorem Dev.setEng_newFences (d : Dev) (n e : Nat) (x : Eng) : (d.setEng n e x).newFences = d.newFences := rfl
@[simp] theorem Dev.setEng_rate (d : Dev) (n e : Nat) (x : Eng) : (d.setEng n e x).rate = d.rate := rfl
@[simp] theorem Dev.setEng_ticks (d : Dev) (n e : Nat) (x : Eng) : (d.setEng n e x).ticks = d.ticks := rfl
@[simp] theorem Dev.setEng_freeCtr (d : Dev) (n e : Nat) (x : Eng) : (d.setEng n e x).freeCtr = d.freeCtr := rfl

/-! `Dev.setPort` -/

@[simp] theorem Dev.setPort_hw (d : Dev) (n p : Nat) (x : Port) : (d.setPort n p x).hw = d.hw := rfl
@[simp] theorem Dev.setPort_out (d : Dev) (n p : Nat) (x : Port) : (d.setPort n p x).out = d.out := rfl
@[simp] theorem Dev.setPort_regs (d : Dev) (n p : Nat) (x : Port) : (d.setPort n p x).regs = d.regs := rfl
@[simp] theorem Dev.setPort_mem (d : Dev) (n p : Nat) (x : Port) : (d.setPort n p x).mem = d.mem := rfl
@[simp] theorem Dev.setPort_hostMem (d : Dev) (n p : Nat) (x : Port) : (d.setPort n p x).hostMem = d.hostMem := rfl
@[simp] theorem Dev.setPort_tags (d : Dev) (n p : Nat) (x : Port) : (d.setPort n p x).tags = d.tags := rfl
@[simp] theorem Dev.setPort_shadow (d : Dev) (n p : Nat) (x : Port) : (d.setPort n p x).shadow = d.shadow := rfl
@[simp] theorem Dev.setPort_poison (d : Dev) (n p : Nat) (x : Port) : (d.setPort n p x).poison = d.poison := rfl
@[simp] theorem Dev.setPort_poisonTold (d : Dev) (n p : Nat) (x : Port) : (d.setPort n p x).poisonTold = d.poisonTold := rfl
@[simp] theorem Dev.setPort_mirrorDue (d : Dev) (n p : Nat) (x : Port) : (d.setPort n p x).mirrorDue = d.mirrorDue := rfl
@[simp] theorem Dev.setPort_dramGen (d : Dev) (n p : Nat) (x : Port) : (d.setPort n p x).dramGen = d.dramGen := rfl
@[simp] theorem Dev.setPort_cores (d : Dev) (n p : Nat) (x : Port) : (d.setPort n p x).cores = d.cores := rfl
@[simp] theorem Dev.setPort_joined (d : Dev) (n p : Nat) (x : Port) : (d.setPort n p x).joined = d.joined := rfl
@[simp] theorem Dev.setPort_jfe (d : Dev) (n p : Nat) (x : Port) : (d.setPort n p x).jfe = d.jfe := rfl
@[simp] theorem Dev.setPort_link (d : Dev) (n p : Nat) (x : Port) : (d.setPort n p x).link = d.link := rfl
@[simp] theorem Dev.setPort_sems (d : Dev) (n p : Nat) (x : Port) : (d.setPort n p x).sems = d.sems := rfl
@[simp] theorem Dev.setPort_engs (d : Dev) (n p : Nat) (x : Port) : (d.setPort n p x).engs = d.engs := rfl
@[simp] theorem Dev.setPort_tickets (d : Dev) (n p : Nat) (x : Port) : (d.setPort n p x).tickets = d.tickets := rfl
@[simp] theorem Dev.setPort_ticketSeq (d : Dev) (n p : Nat) (x : Port) : (d.setPort n p x).ticketSeq = d.ticketSeq := rfl
@[simp] theorem Dev.setPort_crn (d : Dev) (n p : Nat) (x : Port) : (d.setPort n p x).crn = d.crn := rfl
@[simp] theorem Dev.setPort_seqs (d : Dev) (n p : Nat) (x : Port) : (d.setPort n p x).seqs = d.seqs := rfl
@[simp] theorem Dev.setPort_stackTbl (d : Dev) (n p : Nat) (x : Port) : (d.setPort n p x).stackTbl = d.stackTbl := rfl
@[simp] theorem Dev.setPort_mirrors (d : Dev) (n p : Nat) (x : Port) : (d.setPort n p x).mirrors = d.mirrors := rfl
@[simp] theorem Dev.setPort_bw (d : Dev) (n p : Nat) (x : Port) : (d.setPort n p x).bw = d.bw := rfl
@[simp] theorem Dev.setPort_ports (d : Dev) (n p : Nat) (x : Port) : (d.setPort n p x).ports = FMap.set Port.reset d.ports (3 * n + p) x := rfl
@[simp] theorem Dev.setPort_hod (d : Dev) (n p : Nat) (x : Port) : (d.setPort n p x).hod = d.hod := rfl
@[simp] theorem Dev.setPort_aphy (d : Dev) (n p : Nat) (x : Port) : (d.setPort n p x).aphy = d.aphy := rfl
@[simp] theorem Dev.setPort_eth (d : Dev) (n p : Nat) (x : Port) : (d.setPort n p x).eth = d.eth := rfl
@[simp] theorem Dev.setPort_plb (d : Dev) (n p : Nat) (x : Port) : (d.setPort n p x).plb = d.plb := rfl
@[simp] theorem Dev.setPort_qn (d : Dev) (n p : Nat) (x : Port) : (d.setPort n p x).qn = d.qn := rfl
@[simp] theorem Dev.setPort_pav (d : Dev) (n p : Nat) (x : Port) : (d.setPort n p x).pav = d.pav := rfl
@[simp] theorem Dev.setPort_pwr (d : Dev) (n p : Nat) (x : Port) : (d.setPort n p x).pwr = d.pwr := rfl
@[simp] theorem Dev.setPort_sec (d : Dev) (n p : Nat) (x : Port) : (d.setPort n p x).sec = d.sec := rfl
@[simp] theorem Dev.setPort_dbg (d : Dev) (n p : Nat) (x : Port) : (d.setPort n p x).dbg = d.dbg := rfl
@[simp] theorem Dev.setPort_gau (d : Dev) (n p : Nat) (x : Port) : (d.setPort n p x).gau = d.gau := rfl
@[simp] theorem Dev.setPort_fences (d : Dev) (n p : Nat) (x : Port) : (d.setPort n p x).fences = d.fences := rfl
@[simp] theorem Dev.setPort_newFences (d : Dev) (n p : Nat) (x : Port) : (d.setPort n p x).newFences = d.newFences := rfl
@[simp] theorem Dev.setPort_rate (d : Dev) (n p : Nat) (x : Port) : (d.setPort n p x).rate = d.rate := rfl
@[simp] theorem Dev.setPort_ticks (d : Dev) (n p : Nat) (x : Port) : (d.setPort n p x).ticks = d.ticks := rfl
@[simp] theorem Dev.setPort_freeCtr (d : Dev) (n p : Nat) (x : Port) : (d.setPort n p x).freeCtr = d.freeCtr := rfl

/-! `Dev.setStack` -/

@[simp] theorem Dev.setStack_hw (d : Dev) (s : Nat) (x : Stack) : (d.setStack s x).hw = d.hw := rfl
@[simp] theorem Dev.setStack_out (d : Dev) (s : Nat) (x : Stack) : (d.setStack s x).out = d.out := rfl
@[simp] theorem Dev.setStack_regs (d : Dev) (s : Nat) (x : Stack) : (d.setStack s x).regs = d.regs := rfl
@[simp] theorem Dev.setStack_mem (d : Dev) (s : Nat) (x : Stack) : (d.setStack s x).mem = d.mem := rfl
@[simp] theorem Dev.setStack_hostMem (d : Dev) (s : Nat) (x : Stack) : (d.setStack s x).hostMem = d.hostMem := rfl
@[simp] theorem Dev.setStack_tags (d : Dev) (s : Nat) (x : Stack) : (d.setStack s x).tags = d.tags := rfl
@[simp] theorem Dev.setStack_shadow (d : Dev) (s : Nat) (x : Stack) : (d.setStack s x).shadow = d.shadow := rfl
@[simp] theorem Dev.setStack_poison (d : Dev) (s : Nat) (x : Stack) : (d.setStack s x).poison = d.poison := rfl
@[simp] theorem Dev.setStack_poisonTold (d : Dev) (s : Nat) (x : Stack) : (d.setStack s x).poisonTold = d.poisonTold := rfl
@[simp] theorem Dev.setStack_mirrorDue (d : Dev) (s : Nat) (x : Stack) : (d.setStack s x).mirrorDue = d.mirrorDue := rfl
@[simp] theorem Dev.setStack_dramGen (d : Dev) (s : Nat) (x : Stack) : (d.setStack s x).dramGen = d.dramGen := rfl
@[simp] theorem Dev.setStack_cores (d : Dev) (s : Nat) (x : Stack) : (d.setStack s x).cores = d.cores := rfl
@[simp] theorem Dev.setStack_joined (d : Dev) (s : Nat) (x : Stack) : (d.setStack s x).joined = d.joined := rfl
@[simp] theorem Dev.setStack_jfe (d : Dev) (s : Nat) (x : Stack) : (d.setStack s x).jfe = d.jfe := rfl
@[simp] theorem Dev.setStack_link (d : Dev) (s : Nat) (x : Stack) : (d.setStack s x).link = d.link := rfl
@[simp] theorem Dev.setStack_sems (d : Dev) (s : Nat) (x : Stack) : (d.setStack s x).sems = d.sems := rfl
@[simp] theorem Dev.setStack_engs (d : Dev) (s : Nat) (x : Stack) : (d.setStack s x).engs = d.engs := rfl
@[simp] theorem Dev.setStack_tickets (d : Dev) (s : Nat) (x : Stack) : (d.setStack s x).tickets = d.tickets := rfl
@[simp] theorem Dev.setStack_ticketSeq (d : Dev) (s : Nat) (x : Stack) : (d.setStack s x).ticketSeq = d.ticketSeq := rfl
@[simp] theorem Dev.setStack_crn (d : Dev) (s : Nat) (x : Stack) : (d.setStack s x).crn = d.crn := rfl
@[simp] theorem Dev.setStack_seqs (d : Dev) (s : Nat) (x : Stack) : (d.setStack s x).seqs = d.seqs := rfl
@[simp] theorem Dev.setStack_stackTbl (d : Dev) (s : Nat) (x : Stack) : (d.setStack s x).stackTbl = FMap.set Stack.reset d.stackTbl s x := rfl
@[simp] theorem Dev.setStack_mirrors (d : Dev) (s : Nat) (x : Stack) : (d.setStack s x).mirrors = d.mirrors := rfl
@[simp] theorem Dev.setStack_bw (d : Dev) (s : Nat) (x : Stack) : (d.setStack s x).bw = d.bw := rfl
@[simp] theorem Dev.setStack_ports (d : Dev) (s : Nat) (x : Stack) : (d.setStack s x).ports = d.ports := rfl
@[simp] theorem Dev.setStack_hod (d : Dev) (s : Nat) (x : Stack) : (d.setStack s x).hod = d.hod := rfl
@[simp] theorem Dev.setStack_aphy (d : Dev) (s : Nat) (x : Stack) : (d.setStack s x).aphy = d.aphy := rfl
@[simp] theorem Dev.setStack_eth (d : Dev) (s : Nat) (x : Stack) : (d.setStack s x).eth = d.eth := rfl
@[simp] theorem Dev.setStack_plb (d : Dev) (s : Nat) (x : Stack) : (d.setStack s x).plb = d.plb := rfl
@[simp] theorem Dev.setStack_qn (d : Dev) (s : Nat) (x : Stack) : (d.setStack s x).qn = d.qn := rfl
@[simp] theorem Dev.setStack_pav (d : Dev) (s : Nat) (x : Stack) : (d.setStack s x).pav = d.pav := rfl
@[simp] theorem Dev.setStack_pwr (d : Dev) (s : Nat) (x : Stack) : (d.setStack s x).pwr = d.pwr := rfl
@[simp] theorem Dev.setStack_sec (d : Dev) (s : Nat) (x : Stack) : (d.setStack s x).sec = d.sec := rfl
@[simp] theorem Dev.setStack_dbg (d : Dev) (s : Nat) (x : Stack) : (d.setStack s x).dbg = d.dbg := rfl
@[simp] theorem Dev.setStack_gau (d : Dev) (s : Nat) (x : Stack) : (d.setStack s x).gau = d.gau := rfl
@[simp] theorem Dev.setStack_fences (d : Dev) (s : Nat) (x : Stack) : (d.setStack s x).fences = d.fences := rfl
@[simp] theorem Dev.setStack_newFences (d : Dev) (s : Nat) (x : Stack) : (d.setStack s x).newFences = d.newFences := rfl
@[simp] theorem Dev.setStack_rate (d : Dev) (s : Nat) (x : Stack) : (d.setStack s x).rate = d.rate := rfl
@[simp] theorem Dev.setStack_ticks (d : Dev) (s : Nat) (x : Stack) : (d.setStack s x).ticks = d.ticks := rfl
@[simp] theorem Dev.setStack_freeCtr (d : Dev) (s : Nat) (x : Stack) : (d.setStack s x).freeCtr = d.freeCtr := rfl

/-! `Dev.liftFence` -/

@[simp] theorem Dev.liftFence_hw (d : Dev) (u : Nat) : (d.liftFence u).hw = d.hw := rfl
@[simp] theorem Dev.liftFence_out (d : Dev) (u : Nat) : (d.liftFence u).out = d.out := rfl
@[simp] theorem Dev.liftFence_regs (d : Dev) (u : Nat) : (d.liftFence u).regs = d.regs := rfl
@[simp] theorem Dev.liftFence_mem (d : Dev) (u : Nat) : (d.liftFence u).mem = d.mem := rfl
@[simp] theorem Dev.liftFence_hostMem (d : Dev) (u : Nat) : (d.liftFence u).hostMem = d.hostMem := rfl
@[simp] theorem Dev.liftFence_tags (d : Dev) (u : Nat) : (d.liftFence u).tags = d.tags := rfl
@[simp] theorem Dev.liftFence_shadow (d : Dev) (u : Nat) : (d.liftFence u).shadow = d.shadow := rfl
@[simp] theorem Dev.liftFence_poison (d : Dev) (u : Nat) : (d.liftFence u).poison = d.poison := rfl
@[simp] theorem Dev.liftFence_poisonTold (d : Dev) (u : Nat) : (d.liftFence u).poisonTold = d.poisonTold := rfl
@[simp] theorem Dev.liftFence_mirrorDue (d : Dev) (u : Nat) : (d.liftFence u).mirrorDue = d.mirrorDue := rfl
@[simp] theorem Dev.liftFence_dramGen (d : Dev) (u : Nat) : (d.liftFence u).dramGen = d.dramGen := rfl
@[simp] theorem Dev.liftFence_cores (d : Dev) (u : Nat) : (d.liftFence u).cores = d.cores := rfl
@[simp] theorem Dev.liftFence_joined (d : Dev) (u : Nat) : (d.liftFence u).joined = d.joined := rfl
@[simp] theorem Dev.liftFence_jfe (d : Dev) (u : Nat) : (d.liftFence u).jfe = d.jfe := rfl
@[simp] theorem Dev.liftFence_link (d : Dev) (u : Nat) : (d.liftFence u).link = d.link := rfl
@[simp] theorem Dev.liftFence_sems (d : Dev) (u : Nat) : (d.liftFence u).sems = d.sems := rfl
@[simp] theorem Dev.liftFence_engs (d : Dev) (u : Nat) : (d.liftFence u).engs = d.engs := rfl
@[simp] theorem Dev.liftFence_tickets (d : Dev) (u : Nat) : (d.liftFence u).tickets = d.tickets := rfl
@[simp] theorem Dev.liftFence_ticketSeq (d : Dev) (u : Nat) : (d.liftFence u).ticketSeq = d.ticketSeq := rfl
@[simp] theorem Dev.liftFence_crn (d : Dev) (u : Nat) : (d.liftFence u).crn = d.crn := rfl
@[simp] theorem Dev.liftFence_seqs (d : Dev) (u : Nat) : (d.liftFence u).seqs = d.seqs := rfl
@[simp] theorem Dev.liftFence_stackTbl (d : Dev) (u : Nat) : (d.liftFence u).stackTbl = d.stackTbl := rfl
@[simp] theorem Dev.liftFence_mirrors (d : Dev) (u : Nat) : (d.liftFence u).mirrors = d.mirrors := rfl
@[simp] theorem Dev.liftFence_bw (d : Dev) (u : Nat) : (d.liftFence u).bw = d.bw := rfl
@[simp] theorem Dev.liftFence_ports (d : Dev) (u : Nat) : (d.liftFence u).ports = d.ports := rfl
@[simp] theorem Dev.liftFence_hod (d : Dev) (u : Nat) : (d.liftFence u).hod = d.hod := rfl
@[simp] theorem Dev.liftFence_aphy (d : Dev) (u : Nat) : (d.liftFence u).aphy = d.aphy := rfl
@[simp] theorem Dev.liftFence_eth (d : Dev) (u : Nat) : (d.liftFence u).eth = d.eth := rfl
@[simp] theorem Dev.liftFence_plb (d : Dev) (u : Nat) : (d.liftFence u).plb = d.plb := rfl
@[simp] theorem Dev.liftFence_qn (d : Dev) (u : Nat) : (d.liftFence u).qn = d.qn := rfl
@[simp] theorem Dev.liftFence_pav (d : Dev) (u : Nat) : (d.liftFence u).pav = d.pav := rfl
@[simp] theorem Dev.liftFence_pwr (d : Dev) (u : Nat) : (d.liftFence u).pwr = d.pwr := rfl
@[simp] theorem Dev.liftFence_sec (d : Dev) (u : Nat) : (d.liftFence u).sec = d.sec := rfl
@[simp] theorem Dev.liftFence_dbg (d : Dev) (u : Nat) : (d.liftFence u).dbg = d.dbg := rfl
@[simp] theorem Dev.liftFence_gau (d : Dev) (u : Nat) : (d.liftFence u).gau = d.gau := rfl
@[simp] theorem Dev.liftFence_fences (d : Dev) (u : Nat) : (d.liftFence u).fences = FMap.set false d.fences u false := rfl
@[simp] theorem Dev.liftFence_newFences (d : Dev) (u : Nat) : (d.liftFence u).newFences = d.newFences := rfl
@[simp] theorem Dev.liftFence_rate (d : Dev) (u : Nat) : (d.liftFence u).rate = d.rate := rfl
@[simp] theorem Dev.liftFence_ticks (d : Dev) (u : Nat) : (d.liftFence u).ticks = d.ticks := rfl
@[simp] theorem Dev.liftFence_freeCtr (d : Dev) (u : Nat) : (d.liftFence u).freeCtr = d.freeCtr := rfl

/-! What a command does to the queue and the hardware -/

@[simp] theorem State.run_eq (s : State) (g : Dev → Dev) : s.run g = .next { s with dev := (g s.dev.fresh).keepHw s.dev.hw } := rfl

end Sys2Proof.Machine
end

