-- ==== Sys2Proof/Laws/Host.lean ====
section
/-! SUPPORT. What the operations over descriptors and registers answer. -/
namespace Sys2Proof.Machine

theorem ans_run {s : State} {g : Dev → Dev} {P : Dev → Prop} (h : P (g s.dev.fresh)) : s.Answers (s.run g) P := ⟨_, rfl, h⟩

theorem ans_set {s : State} {g : Dev → Dev} {P : Dev → Prop} (h : P (g s.dev.fresh)) : s.AnswersSettled (s.run (fun d => (g d).settle)) P := ⟨_, rfl, h⟩

theorem Dev.reg_setReg (d : Dev) (k : Nat) (v : W32) : (d.setReg k v).reg k = v := by
  unfold Dev.setReg Dev.reg
  dsimp only
  rw [FMap.get_set_self]
  by_cases h : v = resetVal d.hw k
  · rw [if_pos h]; exact h.symm
  · rw [if_neg h]

theorem Dev.reg_setReg_ne (d : Dev) {k j : Nat} (v : W32) (n : j ≠ k) : (d.setReg k v).reg j = d.reg j := by
  unfold Dev.setReg Dev.reg
  dsimp only
  rw [FMap.get_set_ne _ _ _ n]

theorem Dev.emit_cq (x : Dev) (b : Block) (c sv a0 a1 : Nat) : (x.emit b c sv a0 a1).jfe.cq = x.jfe.cq := by
  unfold Dev.emit
  split <;> rfl

theorem Dev.emit_regs_mem (x : Dev) (b : Block) (c sv a0 a1 : Nat) : (x.emit b c sv a0 a1).regs = x.regs ∧ (x.emit b c sv a0 a1).mem = x.mem := by
  unfold Dev.emit
  split <;> exact ⟨rfl, rfl⟩

theorem takeDesc_ok {d : Dev} {t : Nat} {a : Accepted} {rest : List Accepted} (h : d.Accepts t a rest) :
    d.takeDesc t = some (a.bytes, { d with jfe := { d.jfe with accepted := rest } }) := by
  obtain ⟨ht, pre, post, h1, h2, h3⟩ := h
  unfold Dev.takeDesc
  have f : d.jfe.accepted.find? (fun a => (descType a.bytes == 2) == (t == 2)) = some a := by
    rw [h1, List.find?_append]
    have : pre.find? (fun a => (descType a.bytes == 2) == (t == 2)) = none := by
      rw [List.find?_eq_none]
      intro b hb
      have := h3 b hb
      simp only [beq_iff_eq]
      intro q
      apply this
      rw [Bool.eq_iff_iff] at q
      simpa using q
    rw [this]
    simp [ht]
  rw [f]
  dsimp only
  rw [if_pos ht]
  have e : d.jfe.accepted.erase a = rest := by
    rw [h1, h2]
    have na : a ∉ pre := by
      intro q
      apply h3 a q
      rw [ht]
    rw [List.erase_append_right _ na]
    simp
  rw [e]

theorem Dev.Accepts_fresh {s : State} {t a rest} (h : s.dev.Accepts t a rest) : s.dev.fresh.Accepts t a rest := h

theorem Dev.takeDesc_fresh {s : State} {t a rest} (h : s.dev.Accepts t a rest) : s.dev.fresh.takeDesc t = some (a.bytes, s.dev.taken rest) := takeDesc_ok (Dev.Accepts_fresh h)

theorem loadOf_taken (d : Dev) (rest : List Accepted) (bs : List Byte) : (d.taken rest).loadOf bs = d.loadOf bs := by
  unfold Dev.loadOf
  rfl

theorem loadIf_ok {bad : Bool} {n : Nat} {st : BitVec 8} {k : Except LoadFail (Nat × Model × Option (List Byte))} {x} (h : loadIf bad n st k = .ok x) : bad = false ∧ k = .ok x := by
  unfold loadIf at h
  cases bad
  · exact ⟨rfl, h⟩
  · cases h

theorem Dev.enqueue_answers {s : State} {t : Nat} {a : Accepted} {rest : List Accepted} {c : Nat} {x : Ctx} (h : s.dev.Accepts t a rest) :
    ∃ q : Dev, q = Dev.putCtx { s.dev.taken rest with jfe := { (s.dev.taken rest).jfe with order := (s.dev.taken rest).jfe.order + 1 } } c { x with state := .queued, order := s.dev.jfe.order, status := (s.dev.ctx c).status } ∧
      (s.dev.openFor { x with state := .queued, order := s.dev.jfe.order, status := (s.dev.ctx c).status } = none → (s.dev.taken rest).enqueueJob c x = q) ∧
      (∀ i, s.dev.openFor { x with state := .queued, order := s.dev.jfe.order, status := (s.dev.ctx c).status } = some i → (s.dev.taken rest).enqueueJob c x = q.release c i) := by
  refine ⟨_, rfl, ?_⟩
  unfold Dev.enqueueJob
  dsimp only
  obtain ⟨q, hq⟩ : ∃ q, q = Dev.putCtx { s.dev.taken rest with jfe := { (s.dev.taken rest).jfe with order := (s.dev.taken rest).jfe.order + 1 } } c { x with state := .queued, order := s.dev.jfe.order, status := (s.dev.ctx c).status } := ⟨_, rfl⟩
  have e : q.openFor (q.ctx c) = s.dev.openFor { x with state := .queued, order := s.dev.jfe.order, status := (s.dev.ctx c).status } := by
    rw [hq, Dev.ctx_putCtx _ _ (by intro z; have := congrArg Ctx.state z; exact absurd this (by simp [Ctx.free]))]
    have mo := (Dev.putCtx_memOnly ({ s.dev.taken rest with jfe := { (s.dev.taken rest).jfe with order := (s.dev.taken rest).jfe.order + 1 } } : Dev) c { x with state := .queued, order := s.dev.jfe.order, status := (s.dev.ctx c).status }).eq
    rw [mo]
    rfl
  have g : (Dev.putCtx { s.dev.taken rest with jfe := { (s.dev.taken rest).jfe with order := (s.dev.taken rest).jfe.order + 1 } } c { x with state := .queued, order := (s.dev.taken rest).jfe.order, status := ((s.dev.taken rest).ctx c).status }) = q := hq.symm
  rw [g, ← hq]
  unfold Dev.releaseIfOpen
  rw [e]
  refine ⟨fun w => ?_, fun i w => ?_⟩
  · rw [w]
  · rw [w]

theorem Dev.emit_pav (x : Dev) (b : Block) (c sv a0 a1 : Nat) : (x.emit b c sv a0 a1).pav = x.pav := by
  unfold Dev.emit
  split <;> rfl

theorem invokeOf_taken (d : Dev) (rest : List Accepted) (bs : List Byte) : (d.taken rest).invokeOf bs = d.invokeOf bs := by
  unfold Dev.invokeOf
  rfl

theorem planReqOf_taken (d : Dev) (rest : List Accepted) (bs : List Byte) : (d.taken rest).planReqOf bs = d.planReqOf bs := by
  unfold Dev.planReqOf
  rfl

theorem State.registerWrite_answers {s : State} {w off v b} {P : Dev → Prop} (hb : blockAt s.dev.hw off = some b) (h : P (s.dev.fresh.writeReg w off v)) :
    (blockSettles b = true → s.AnswersSettled (exec (.registerWrite w off v) s) P) ∧ (blockSettles b = false → s.Answers (exec (.registerWrite w off v) s) P) := by
  have e : exec (.registerWrite w off v) s = s.run (fun d => if settles d.hw off then (d.writeReg w off v).settle else d.writeReg w off v) := rfl
  have g : settles s.dev.fresh.hw off = blockSettles b := by
    unfold settles
    have : blockAt s.dev.fresh.hw off = some b := hb
    rw [this]
  refine ⟨fun q => ⟨_, ?_, h⟩, fun q => ⟨_, ?_, h⟩⟩
  · rw [e]
    unfold State.run
    dsimp only
    rw [g, if_pos q]
  · rw [e]
    unfold State.run
    dsimp only
    rw [g, if_neg (by rw [q]; decide)]

end Sys2Proof.Machine
end

