-- ==== Sys2Proof/Laws/MemForm.lean ====
section
/-! SUPPORT. Every operation on device memory and host memory keeps their canonical form. -/
namespace Sys2Proof.Machine

theorem Dev.memWf_iff (d : Dev) : d.memWf = true ↔ FMap.wf 0 d.mem = true ∧ FMap.wf 0 d.hostMem = true := by
  unfold Dev.memWf
  exact Bool.and_eq_true_iff

/-- The form speaks of the two memories alone. -/
theorem Dev.memWf_congr {d e : Dev} (m : e.mem = d.mem) (h : e.hostMem = d.hostMem) : e.memWf = d.memWf := by
  unfold Dev.memWf
  rw [m, h]

/-- Filling a canonical map by writes keeps it canonical. -/
theorem FMap.wf_foldl_set {α β : Type} [DecidableEq α] {d : α} (k : β → Nat) (v : β → α) :
    ∀ (l : List β) {m : FMap α}, FMap.wf d m = true → FMap.wf d (l.foldl (fun m b => FMap.set d m (k b) (v b)) m) = true
  | [], _, h => h
  | b :: l, _, h => FMap.wf_foldl_set k v l (FMap.wf_set h (k b) (v b))

theorem Dev.setCell_memWf {d : Dev} (h : d.memWf = true) (a : Nat) (b : Byte) : (d.setCell a b).memWf = true := by
  rw [Dev.memWf_iff] at h ⊢
  exact ⟨FMap.wf_set h.1 _ _, h.2⟩
theorem Dev.setCells_memWf : ∀ (bs : List Byte) {d : Dev} (a : Nat), d.memWf = true → (d.setCells a bs).memWf = true
  | [], _, _, h => h
  | b :: bs, _, a, h => Dev.setCells_memWf bs (a + 1) (Dev.setCell_memWf h a b)
theorem Dev.storeAt_memWf {d : Dev} (h : d.memWf = true) (a : Nat) (bs : List Byte) : (d.storeAt a bs).memWf = true := by
  have k := Dev.setCells_memWf bs a h
  unfold Dev.storeAt
  dsimp only
  split <;> exact k
theorem Dev.storeAll_memWf (bs : List Byte) : ∀ (as : List Nat) {d : Dev}, d.memWf = true → (d.storeAll as bs).memWf = true
  | [], _, h => h
  | a :: as, _, h => Dev.storeAll_memWf bs as (Dev.storeAt_memWf h a bs)
theorem Dev.writeBack_memWf {d : Dev} (h : d.memWf = true) (l : Nat) : (d.writeBack l).memWf = true :=
  Dev.setCells_memWf _ (64 * l) h
theorem Dev.patchShadow_memWf {d : Dev} (h : d.memWf = true) (l off : Nat) (bs : List Byte) : (d.patchShadow l off bs).memWf = true := by
  unfold Dev.patchShadow
  dsimp only
  split <;> exact h
theorem Dev.wrLine_memWf {d : Dev} (h : d.memWf = true) (v : View) (a : Nat) (bs : List Byte) : (d.wrLine v a bs).memWf = true := by
  unfold Dev.wrLine
  dsimp only
  split
  · exact Dev.storeAll_memWf bs _ h
  · exact Dev.storeAll_memWf bs _ (Dev.patchShadow_memWf h _ _ bs)
  · exact Dev.storeAll_memWf bs _ (Dev.patchShadow_memWf h _ _ bs)
  · split
    · exact h
    · split
      · split
        · exact Dev.storeAt_memWf h _ bs
        · exact h
      · refine Dev.storeAt_memWf ?_ _ bs
        exact Dev.writeBack_memWf h _
      · split
        · exact h
        · refine Dev.storeAt_memWf ?_ _ bs
          exact h
/-- A write by a master. -/
theorem Dev.wr_memWf {d : Dev} (h : d.memWf = true) (v : View) (a : Nat) (bs : List Byte) : (d.wr v a bs).memWf = true := by
  have k : ∀ (l : List (Nat × List Byte)) (e : Dev), e.memWf = true → (l.foldl (fun e p => e.wrLine v p.1 p.2) e).memWf = true := by
    intro l
    induction l with
    | nil => exact fun _ h => h
    | cons p l ih => exact fun e h => ih _ (Dev.wrLine_memWf h v p.1 p.2)
  exact k _ d h
/-- A write to host memory. -/
theorem Dev.hostPut_memWf {d : Dev} (h : d.memWf = true) (a : Nat) (bs : List Byte) : (d.hostPut a bs).memWf = true := by
  rw [Dev.memWf_iff] at h ⊢
  exact ⟨h.1, FMap.wf_setMany bs a h.2⟩
theorem Dev.hostTake_memWf {d : Dev} (h : d.memWf = true) (w : List (Nat × Byte)) : (d.hostTake w).memWf = true := by
  rw [Dev.memWf_iff] at h ⊢
  exact ⟨h.1, FMap.wf_foldl_set Prod.fst Prod.snd w h.2⟩
theorem Dev.locWr_memWf {d : Dev} (h : d.memWf = true) (loc : Bool) (a : Nat) (bs : List Byte) : (d.locWr loc a bs).memWf = true := by
  unfold Dev.locWr
  split
  · exact Dev.hostPut_memWf h a bs
  · split
    · exact Dev.wr_memWf h View.plain a bs
    · exact h
/-- A loss of contents. -/
theorem Dev.dropContents_memWf {d : Dev} (h : d.memWf = true) (p : Nat → Bool) (undef : Bool) : (d.dropContents p undef).memWf = true := by
  rw [Dev.memWf_iff] at h ⊢
  exact ⟨FMap.wfFrom_keep (fun k _ => !p (d.lossKey k)) h.1, h.2⟩
/-- A copy of a range. -/
theorem Dev.copyRange_memWf {d : Dev} (h : d.memWf = true) (src dst n : Nat) : (d.copyRange src dst n).memWf = true := by
  have tags : ∀ (l : List (Nat × LineTag)) (e : Dev), e.memWf = true →
      (l.foldl (fun e t => e.setCells (dst + 64 * (t.1 - src / 64)) (FMap.get [] d.shadow t.1)) e).memWf = true := by
    intro l
    induction l with
    | nil => exact fun _ h => h
    | cons p l ih => exact fun e h => ih _ (Dev.setCells_memWf _ _ h)
  have cells : ∀ (l : List Nat) (e : Dev), e.memWf = true → (l.foldl (fun e i => e.setCell (dst + i) (d.cell (src + i))) e).memWf = true := by
    intro l
    induction l with
    | nil => exact fun _ h => h
    | cons p l ih => exact fun e h => ih _ (Dev.setCell_memWf h _ _)
  unfold Dev.copyRange
  dsimp only
  refine tags _ _ ?_
  split
  · rw [Dev.memWf_iff] at h ⊢
    exact ⟨FMap.wf_foldl_set (fun e => dst + (e.1 - src)) Prod.snd _ (FMap.wfFrom_keep _ h.1), h.2⟩
  · exact cells _ d h

end Sys2Proof.Machine
end

