-- ==== Sys2Proof/WellFormed.lean ====
section
/-! DEFINITION. Which commands are well formed: every operand within the range that the spec gives the unit, register or field it names. What
a part lacks (an absent die of AMV-C2) is not a matter of form. -/
namespace Sys2Proof

/-- An operand of `n` values. -/
def below (n x : Nat) : Bool := decide (x < n)
/-- A global core ID (R23). -/
def coreOk (g : Nat) : Bool := below 4096 g
/-- A Course die, or the Keystone (R23). -/
def dieOk (n : Nat) : Bool := below 4 n || n == 8
/-- A die of the test chain: the Quoins are 12 and 13 (R23, R509). -/
def tapOk (n : Nat) : Bool := dieOk n || n == 12 || n == 13
/-- A port of a die: three on a Course die, one per Course die on the Keystone (R26). -/
def portOk (n p : Nat) : Bool := dieOk n && below (if n = 8 then 4 else 3) p
/-- A job's writes name its context, 0 to 4095 (R148). -/
def writerOk : Writer → Bool
  | .host => true
  | .quoin => true
  | .ctx n => below 4096 n
/-- An address of a storage error lies in the local store (R43). -/
def storageOk : StorageEvent → Bool
  | .none => true
  | .lsCorrected a => below 0x40000 a
  | .lsUncorrected a => below 0x40000 a
  | .rfParity _ => true
  | .xbarParity a _ => below (2 ^ 48) a
def issueOk (u : Issue) : Bool := coreOk u.core && storageOk u.err
def memOk (e : MemEvent) : Bool := below (2 ^ 48) e.addr
def engOk (g : EngIssue) : Bool := below 4 g.die && below 16 g.part && g.mem.all memOk
def bootOk (b : BootInput) : Bool := b.dies.all (below 4) && b.badStacks.all (below 8) && below 8 b.rate && below 32 b.width
/-- A 32-bit register's offset (R4). -/
def regOk (off : Nat) : Bool := below 0x2000000 off && off % 4 == 0

/-- Is a command well formed? -/
def Instr.wf (i : Instr) : Bool :=
  match i with
  | .registerWrite w off _ => writerOk w && regOk off
  | .lockSet w off _ => writerOk w && regOk off
  | .bar0OddAccess _ off _ => below 0x2000000 off
  | .hostBar2Access _ off _ _ mem => below 0x2000000 off && mem.all memOk
  | .hostWinBaseWrite w _ _ => writerOk w
  | .nop u _ => issueOk u
  | .add u _ => issueOk u
  | .sub u _ => issueOk u
  | .mul u _ => issueOk u
  | .mulh u _ => issueOk u
  | .div u _ => issueOk u
  | .rem u _ => issueOk u
  | .and u _ => issueOk u
  | .or u _ => issueOk u
  | .xor u _ => issueOk u
  | .shl u _ => issueOk u
  | .shr u _ => issueOk u
  | .sar u _ => issueOk u
  | .scmp u _ => issueOk u
  | .min u _ => issueOk u
  | .max u _ => issueOk u
  | .movi u _ => issueOk u
  | .movhi u _ => issueOk u
  | .fadd u _ => issueOk u
  | .fsub u _ => issueOk u
  | .fmul u _ => issueOk u
  | .ffma u _ => issueOk u
  | .fmin u _ => issueOk u
  | .fmax u _ => issueOk u
  | .fcmp u _ => issueOk u
  | .fcvt u _ => issueOk u
  | .pmask u _ => issueOk u
  | .plog u _ => issueOk u
  | .pcnt u _ => issueOk u
  | .vadd u _ => issueOk u
  | .vsub u _ => issueOk u
  | .vmul u _ => issueOk u
  | .vfma u _ => issueOk u
  | .vmax u _ => issueOk u
  | .vmin u _ => issueOk u
  | .vabs u _ => issueOk u
  | .vneg u _ => issueOk u
  | .vcmp u _ => issueOk u
  | .vsel u _ => issueOk u
  | .vlog u _ => issueOk u
  | .vsh u _ => issueOk u
  | .vcvt u _ => issueOk u
  | .vrq u _ => issueOk u
  | .vqmx u _ => issueOk u
  | .vfn u _ => issueOk u
  | .vred u _ => issueOk u
  | .vbc u _ => issueOk u
  | .vperm u _ => issueOk u
  | .vmov u _ => issueOk u
  | .vext u _ => issueOk u
  | .vins u _ => issueOk u
  | .mma u _ => issueOk u
  | .tzero u _ => issueOk u
  | .trd u _ => issueOk u
  | .twr u _ => issueOk u
  | .ld u _ => issueOk u
  | .st u _ => issueOk u
  | .vld u _ => issueOk u
  | .vst u _ => issueOk u
  | .mxl u _ => issueOk u
  | .dma u _ => issueOk u
  | .dmaw u _ => issueOk u
  | .sema u _ => issueOk u
  | .semt u _ => issueOk u
  | .semr u _ => issueOk u
  | .amo u _ => issueOk u
  | .mwait u _ => issueOk u
  | .fence u _ => issueOk u
  | .br u _ => issueOk u
  | .call u _ => issueOk u
  | .jr u _ => issueOk u
  | .yld u _ => issueOk u
  | .end_ u _ => issueOk u
  | .eiss u _ => issueOk u
  | .ewait u _ => issueOk u
  | .epoll u _ => issueOk u
  | .crdb u _ => issueOk u
  | .crdr u _ => issueOk u
  | .eprd u _ => issueOk u
  | .epwait u _ => issueOk u
  | .eprslv u _ => issueOk u
  | .cid u _ => issueOk u
  | .time u _ => issueOk u
  | .flgr u _ => issueOk u
  | .flgc u _ => issueOk u
  | .grd u _ => issueOk u
  | .dmaComplete core err mem => coreOk core && storageOk err && mem.all memOk
  | .multicastReadStart core => coreOk core
  | .kvAppendComplete core err => coreOk core && storageOk err
  | .submissionPoll host => host.all (fun p => below (2 ^ 64) p.1)
  | .ringEnable w ring _ => writerOk w && below 3 ring
  | .sqPause w _ => writerOk w
  | .completionRecordWrite host => host.all (fun p => below (2 ^ 64) p.1)
  | .eventRecordWrite host => host.all (fun p => below (2 ^ 64) p.1)
  | .coalesceTimeout vector => below 17 vector
  | .configRequest _ => true
  | .perstDeassert b => bootOk b
  | .hostReset _ => true
  | .linkUp _ _ => true
  | .figureOpen fig => below 64 fig
  | .figureClose fig => below 64 fig
  | .jobStart ctx => below 4096 ctx
  | .zeroingComplete core => coreOk core
  | .joinHandoverComplete cluster _ => below 32 cluster
  | .splitHandoverComplete cluster => below 32 cluster
  | .jobDeadline ctx => below 4096 ctx
  | .jobComplete ctx => below 4096 ctx
  | .remoteDrainExpiry ctx => below 4096 ctx
  | .teardownComplete ctx => below 4096 ctx
  | .remoteWaitTimeout core => coreOk core
  | .preemptLimitExpiry ctx => below 4096 ctx
  | .jobResume ctx => below 4096 ctx
  | .resumeComplete ctx => below 4096 ctx
  | .dieFence die => below 4 die
  | .specEnable w _ => writerOk w
  | .shadowWritebackDone die epoch => below 4 die && below 256 epoch
  | .mirrorCommitDone epoch => below 256 epoch
  | .conv g => engOk g
  | .convTransposed g => engOk g
  | .pool g => engOk g
  | .resample g => engOk g
  | .ingest g => engOk g
  | .plinthConv g => engOk g
  | .ingestConv g => engOk g
  | .detect g => engOk g
  | .suppress g => engOk g
  | .attend g => engOk g
  | .verify g => engOk g
  | .truncate g => engOk g
  | .attendBwd g => engOk g
  | .engineCommandComplete die engine => dieOk die && below 6 engine
  | .trcSeqLoad w die _ => writerOk w && below 4 die
  | .trcSeqRelease w die _ => writerOk w && below 4 die
  | .worldLoad g => engOk g
  | .worldUpdate g => engOk g
  | .roadmapLoad g => engOk g
  | .plan g => engOk g
  | .storeFallback g => engOk g
  | .planEndTime _ => true
  | .fallbackAck quoin => below 2 quoin
  | .cairnFence _ => true
  | .probe w _ => writerOk w
  | .pqPush w => writerOk w
  | .pqPop w => writerOk w
  | .pqClear w => writerOk w
  | .edgeInvalidate w _ => writerOk w
  | .refreshInterval stack _ => below 8 stack
  | .caParityError stack addr => below 8 stack && below (2 ^ 34) addr
  | .caParityRetry stack _ => below 8 stack
  | .migrationUnitCopied stack _ => below 8 stack
  | .resyncComplete part region => below 16 part && below 16 region
  | .semParityError die index => below 4 die && below 1024 index
  | .regulationInterval cls stack bursts => below 16 cls && below 8 stack && bursts.length == 4
  | .dramModeWrite w die _ => writerOk w && below 4 die
  | .flitReceive die port sent got => portOk die port && sent.length == 256 && got.length == 256
  | .replayTimeout die port => portOk die port
  | .retrainComplete die port _ => portOk die port
  | .retrainTimeout die port => portOk die port
  | .linkFence die port => portOk die port
  | .streamEnable w off _ => writerOk w && regOk off
  | .frameStart port vc num _ => below 16 port && below 16 vc && below 65536 num
  | .longPacket port vc dt _ _ _ _ => below 16 port && below 16 vc && below 64 dt
  | .frameEnd port vc _ => below 16 port && below 16 vc
  | .aphyLinkDown port _ => below 16 port
  | .aphyLinkUp port gear => below 16 port && below 6 gear
  | .i2cTransaction w _ => writerOk w
  | .i2cDone port _ _ => below 16 port
  | .i2cTimeout port _ => below 16 port
  | .ethFrameReceive port _ _ _ _ => below 6 port
  | .ethLinkDown port => below 6 port
  | .hostFrameTx w _ => writerOk w
  | .hodQueueEnable w _ => writerOk w
  | .hodStallTimeout q _ => below 32 q
  | .hodReleasePoll q => below 32 q
  | .plbIncrWrite w _ => writerOk w
  | .plbSet w => writerOk w
  | .plbAdd w => writerOk w
  | .plbSlew w => writerOk w
  | .plbSourceWrite w _ => writerOk w
  | .triggerArm w trig _ => writerOk w && below 16 trig
  | .triggerFire trig => below 16 trig
  | .captureEdge input _ => below 8 input
  | .capStampRead input => below 8 input
  | .recordClose stream => below 64 stream
  | .recordRelease stream => below 64 stream
  | .verdictTimeout stream => below 64 stream
  | .releaseGap stream => below 64 stream
  | .canFrameSent quoin ctl => below 2 quoin && below 2 ctl
  | .statusPeriod quoin => below 2 quoin
  | .heartbeatFrame quoin die _ => below 2 quoin && dieOk die
  | .heartbeatMiss quoin die => below 2 quoin && dieOk die
  | .verdictFrame quoin => below 2 quoin
  | .partnerLost quoin => below 2 quoin
  | .quoinLockstepError quoin => below 2 quoin
  | .quoinWatchdogExpiry quoin => below 2 quoin
  | .clockFault quoin _ => below 2 quoin
  | .supplyFault quoin => below 2 quoin
  | .loadStreams w quoin => writerOk w && below 2 quoin
  | .safeExit w quoin => writerOk w && below 2 quoin
  | .forceSafe w quoin => writerOk w && below 2 quoin
  | .sliceStart place => below 0x111 place
  | .sliceComplete place _ _ => below 0x111 place
  | .sliceAbandon place => below 0x111 place
  | .coverageExpiry _ => true
  | .bandChange die tband aband => below 4 die && below 8 tband && below 4 aband
  | .export_ w => writerOk w
  | .import_ w => writerOk w
  | .none_ w => writerOk w
  | .inject w die _ => writerOk w && below 4 die
  | .powerControlStep _ => true
  | .throttleRaiseDone die => below 5 die
  | .domainPowerOn domain => below 48 domain
  | .standbyEnter w => writerOk w
  | .standbyLeave w => writerOk w
  | .thermalSample _ => true
  | .sentFrame input _ _ _ _ => below 3 input
  | .sentInputLost input => below 3 input
  | .avsRead bus rail _ => below 2 bus && below 5 rail
  | .quote w => writerOk w
  | .getCerts w => writerOk w
  | .flashWrite w => writerOk w
  | .svnCommit w => writerOk w
  | .debugChallenge w => writerOk w
  | .debugResponse w => writerOk w
  | .quoinUpdate w => writerOk w
  | .securityAlarm source => below 6 source
  | .fuseReread _ => true
  | .quoinRailsValid _ => true
  | .illegalOpcode u _ => issueOk u
  | .ethLinkUp port _ => below 6 port
  | .ptpMessageInterval port kind => below 6 port && below 3 kind
  | .triggerPulseEnd trig => below 16 trig
  | .hostFrameSent port => below 6 port
  | .patrolScrub stack addr mem => below 8 stack && below (2 ^ 34) addr && mem.all memOk
  | .lsPatrolScrub core addr err => coreOk core && below 0x40000 addr && storageOk err
  | .canBusOff quoin ctl _ => below 2 quoin && below 2 ctl
  | .layerTestDone stack layer _ => below 8 stack && below 8 layer
  | .quoinRailLoss quoin => below 2 quoin
  | .mainRailsValid _ b => bootOk b
  | .provision w => writerOk w
  | .revokeModelKey w => writerOk w
  | .bypass die => tapOk die
  | .idcode die => tapOk die
  | .samplePreload die => tapOk die
  | .extest die => tapOk die
  | .clamp die => tapOk die
  | .highz die => tapOk die
  | .ijtag die _ => tapOk die
  | .dieBypass die => tapOk die
  | .halt core => coreOk core
  | .resume core => coreOk core
  | .step u => issueOk u
  | .haltContext core => coreOk core
  | .resumeContext core => coreOk core
  | .debugRegWrite core _ _ _ => coreOk core
  | .debugLsWrite core _ _ => coreOk core
  | .memoryAccess _ addr _ _ => below (2 ^ 48) addr
  | .scanDump die => tapOk die
  | .isolate w => writerOk w
  | .test w => writerOk w
  | .release w => writerOk w
  | .onlineTestDone die _ _ _ _ => dieOk die
  | .gauModeWrite w _ => writerOk w
  | .snapshot w => writerOk w
  | .dumpEnable w _ => writerOk w
  | .invoke => true
  | .loadModel => true
  | .unloadModel => true
  | .bindPartition => true
  | .setQuadrille => true
  | .planRequest => true
  | .queryFence => true
  | .testRequest => true
  | .descNop => true
  | .perstAssert => true
  | .linkDown => true
  | .d3hotEntry => true
  | .bmeClear => true
  | .majorFrameBoundary => true
  | .cairnSliceBoundary => true
  | .edgeBatchComplete => true
  | .fallbackAckTimeout => true
  | .guaranteeRecompute => true
  | .plbTimeRead => true
  | .syncTimeout => true
  | .holdoverExpiry => true
  | .testReset => true
  | .snapshotPeriod => true
  | .gauRead => true
  | .slewDone => true

end Sys2Proof
end

