-- ==== Sys2Proof/Tests/Slice0.lean ====
section
/-! SUPPORT. The model's own tests. -/
namespace Sys2Proof.Tests
open Sys2Proof.Machine

theorem test_reset_has_no_command : State.reset.pending = [] := by decide

end Sys2Proof.Tests
end

section
/-! SUPPORT. How every command ends: with a next state that keeps the queue and the hardware, or with the stop of a unit the part lacks (log entry 8);
and what that says of a step. -/
namespace Sys2Proof.Machine

/-- The command answers a next state, the queue and the hardware as before, or stops because the part lacks the unit it names. -/
def State.Ends (s : State) (r : Result) : Prop := s.Answers r (fun _ => True) ∨ r = .fault .absentUnit

theorem State.run_ends (s : State) (g : Dev → Dev) : s.Ends (s.run g) := .inl ⟨_, rfl, trivial⟩

theorem State.write_ends (s : State) (w : Writer) (off : Nat) (v : W32) : s.Ends (s.write w off v) := s.run_ends _

theorem State.writeSettle_ends (s : State) (w : Writer) (off : Nat) (v : W32) : s.Ends (s.writeSettle w off v) := s.run_ends _

theorem State.runIf_ends (s : State) (present : Bool) (g : Dev → Dev) : s.Ends (s.runIf present g) := by
  cases present with
  | true => exact s.run_ends g
  | false => exact .inr rfl

/-- Every command but STEP changes the device by one function: a Sedun instruction where the part has its core, a command to a unit where the part
has the unit, and any other always; of these, some are one register write each. -/
theorem exec_ends_of_ne_step (i : Instr) (s : State) (h : ∀ u, i ≠ .step u) : s.Ends (exec i s) := by
  cases i with
  | nop | add | sub | mul | mulh | div | rem | and | or | xor | shl | shr | sar | scmp | min | max | movi | movhi | fadd | fsub | fmul | ffma
  | fmin | fmax | fcmp | fcvt | pmask | plog | pcnt | vadd | vsub | vmul | vfma | vmax | vmin | vabs | vneg | vcmp | vsel | vlog | vsh | vcvt | vrq
  | vqmx | vfn | vred | vbc | vperm | vmov | vext | vins | mma | tzero | trd | twr | ld | st | vld | vst | mxl | dma | dmaw | sema | semt | semr
  | amo | mwait | fence | br | call | jr | yld | end_ | eiss | ewait | epoll | crdb | crdr | eprd | epwait | eprslv | cid | time | flgr | flgc
  | grd =>
    exact s.runIf_ends _ _
  | dmaComplete | multicastReadStart | kvAppendComplete | zeroingComplete | joinHandoverComplete | splitHandoverComplete | remoteWaitTimeout
  | dieFence | shadowWritebackDone | conv | convTransposed | pool | resample | ingest | plinthConv | ingestConv | detect | suppress | attend
  | verify | truncate | attendBwd | engineCommandComplete | trcSeqLoad | trcSeqRelease | fallbackAck | refreshInterval | caParityError
  | caParityRetry | migrationUnitCopied | semParityError | regulationInterval | dramModeWrite | flitReceive | replayTimeout | retrainComplete
  | retrainTimeout | linkFence | canFrameSent | statusPeriod | heartbeatFrame | heartbeatMiss | verdictFrame | partnerLost | quoinLockstepError
  | quoinWatchdogExpiry | clockFault | supplyFault | loadStreams | safeExit | forceSafe | sliceStart | sliceComplete | sliceAbandon | bandChange
  | inject | throttleRaiseDone | domainPowerOn | illegalOpcode | patrolScrub | lsPatrolScrub | canBusOff | layerTestDone | quoinRailLoss | bypass
  | idcode | samplePreload | extest | clamp | highz | ijtag | dieBypass | halt | resume | haltContext | resumeContext | debugRegWrite
  | debugLsWrite | scanDump =>
    exact s.runIf_ends _ _
  | registerWrite | lockSet | bar0OddAccess | hostBar2Access | submissionPoll | ringEnable | completionRecordWrite | eventRecordWrite
  | coalesceTimeout | configRequest | perstDeassert | hostReset | linkUp | figureOpen | figureClose | jobStart | jobDeadline | jobComplete
  | remoteDrainExpiry | teardownComplete | preemptLimitExpiry | jobResume | resumeComplete | mirrorCommitDone | worldLoad | worldUpdate
  | roadmapLoad | plan | storeFallback | planEndTime | cairnFence | resyncComplete | streamEnable | frameStart | longPacket | frameEnd
  | aphyLinkDown | aphyLinkUp | i2cDone | i2cTimeout | ethFrameReceive | ethLinkDown | hodStallTimeout | hodReleasePoll | triggerArm | triggerFire
  | captureEdge | capStampRead | recordClose | recordRelease | verdictTimeout | releaseGap | coverageExpiry | powerControlStep | thermalSample
  | sentFrame | sentInputLost | avsRead | securityAlarm | fuseReread | quoinRailsValid | ethLinkUp | ptpMessageInterval | triggerPulseEnd
  | hostFrameSent | mainRailsValid | memoryAccess | onlineTestDone | invoke | loadModel | unloadModel | bindPartition | setQuadrille | planRequest
  | queryFence | testRequest | descNop | perstAssert | linkDown | d3hotEntry | bmeClear | majorFrameBoundary | cairnSliceBoundary
  | edgeBatchComplete | fallbackAckTimeout | guaranteeRecompute | plbTimeRead | syncTimeout | holdoverExpiry | testReset | snapshotPeriod | gauRead
  | slewDone =>
    delta exec
    exact s.run_ends _
  | hostWinBaseWrite | sqPause | probe | pqPush | pqPop | pqClear | edgeInvalidate | i2cTransaction | hostFrameTx | hodQueueEnable | plbIncrWrite
  | plbSet | plbAdd | plbSlew | plbSourceWrite | gauModeWrite | snapshot | dumpEnable =>
    exact s.write_ends _ _ _
  | specEnable | export_ | import_ | none_ | standbyEnter | standbyLeave | quote | getCerts | flashWrite | svnCommit | debugChallenge
  | debugResponse | quoinUpdate | provision | revokeModelKey | isolate | test | release =>
    exact s.writeSettle_ends _ _ _
  | step u => exact absurd rfl (h u)

/-- What STEP runs is the instruction's own meaning: each arm of `sedunExec` is the same command's arm of `exec`, and STEP has none. -/
theorem exec_eq_of_sedunExec {i : Instr} {s : State} {r : Result} (h : sedunExec i s = some r) : (∀ u, i ≠ .step u) ∧ exec i s = r := by
  unfold sedunExec at h
  split at h <;> cases h <;> exact ⟨nofun, rfl⟩

theorem State.stepInstr_ends (s : State) (u : Issue) : s.Ends (s.stepInstr u) := by
  unfold State.stepInstr
  split
  · next r h =>
    obtain ⟨i, -, hi⟩ := Option.bind_eq_some_iff.mp h
    obtain ⟨ns, rfl⟩ := exec_eq_of_sedunExec hi
    exact exec_ends_of_ne_step i s ns
  · exact s.runIf_ends _ _

/-- STEP (R515): around the instruction the halt is lifted and set again; neither touches the queue, and the hardware is kept. -/
theorem execStep_ends (u : Issue) (s : State) : s.Ends (execStep u s) := by
  unfold execStep
  split
  · exact .inr rfl
  · split
    · exact s.run_ends _
    · dsimp only
      rcases State.stepInstr_ends { s with dev := (s.dev.fresh.debugDo u.core true (fun d => d.stepOpen u.core)).keepHw s.dev.hw } u with ⟨d, e, -⟩ | e
      · rw [e]
        exact .inl ⟨_, rfl, trivial⟩
      · rw [e]
        exact .inr rfl

theorem exec_ends (i : Instr) (s : State) : s.Ends (exec i s) := by
  by_cases h : ∃ u, i = .step u
  · obtain ⟨u, rfl⟩ := h
    exact execStep_ends u s
  · exact exec_ends_of_ne_step i s (fun u hu => h ⟨u, hu⟩)

/-- Settles O57: an empty queue lets a tick pass, which keeps the hardware; otherwise the command in front ends as every command does. -/
theorem everyStepAnswers : Obligations.EveryStepAnswers := by
  unfold Obligations.EveryStepAnswers
  intro s
  cases hp : s.pending with
  | nil => exact .inl ⟨tick s, by simp only [step, hp], hp, rfl, id⟩
  | cons c rest =>
    have hs : step s = exec c { s with pending := rest } := by simp only [step, hp]
    rcases exec_ends c { s with pending := rest } with ⟨d, e, -⟩ | e
    · exact .inl ⟨_, hs.trans e, rfl, rfl, id⟩
    · exact .inr ⟨List.cons_ne_nil c rest, hs.trans e⟩

end Sys2Proof.Machine
end

section
/-! SUPPORT. What a write of a register does, by the access type of the register (R5–R7, R9, R11), and how a refused write is told. -/
namespace Sys2Proof.Machine

/-! ### Event records (R21) -/

/-- The record that `Dev.emit` writes. -/
def Dev.eventOf (d : Dev) (src : Block) (code sev a0 a1 : Nat) : Event :=
  { ns := d.plb.ns, frac := d.plb.frac, source := BitVec.ofNat 32 src.id, code := BitVec.ofNat 16 code, sev := sev, seq := d.jfe.evSeq,
    arg0 := BitVec.ofNat 32 a0, arg1 := BitVec.ofNat 32 a1 }

theorem Dev.emit_of_keystoneUp {d : Dev} (hk : d.keystoneUp = true) (src : Block) (code sev a0 a1 : Nat) :
    d.emit src code sev a0 a1 = { d with jfe := { d.jfe with ev := d.jfe.ev ++ [d.eventOf src code sev a0 a1], evSeq := d.jfe.evSeq + 1 } } :=
  if_pos hk

/-! ### A refused write (R6, R7) -/

theorem Dev.refuseWrite_regs_mem (d : Dev) (b : Block) (w : Writer) (o code : Nat) :
    (d.refuseWrite b w o code).regs = d.regs ∧ (d.refuseWrite b w o code).mem = d.mem := by
  unfold Dev.refuseWrite Dev.limited
  split
  · split
    · exact ⟨rfl, rfl⟩
    · exact Dev.emit_regs_mem _ _ _ _ _ _
  · exact Dev.emit_regs_mem _ _ _ _ _ _

/-- The first refusal at a register is told: the code, the block, the offset in it and the writer. -/
theorem Dev.refuseWrite_of_untold {d : Dev} {b : Block} {w : Writer} {o code : Nat} (hr : FMap.get none d.rate (rateKey 1 (b.base + o)) = none)
    (hk : d.keystoneUp = true) : (d.refuseWrite b w o code).jfe.ev = d.jfe.ev ++ [d.eventOf b code 1 o (writerCode w)] := by
  have hk' (r : FMap (Option (Nat × Nat))) : Dev.keystoneUp { d with rate := r } = true := hk
  simp only [Dev.refuseWrite, Dev.limited, hr, Dev.emit_of_keystoneUp (hk' _), Nat.zero_min, Nat.mul_zero, Nat.add_zero]
  rfl

/-- A refusal less than a millisecond after the one that was told is counted. -/
theorem Dev.refuseWrite_of_told {d : Dev} {b : Block} {w : Writer} {o code t n : Nat}
    (hr : FMap.get none d.rate (rateKey 1 (b.base + o)) = some (t, n)) (ht : d.ticks < t + ticksMs 1) :
    d.refuseWrite b w o code = { d with rate := FMap.set none d.rate (rateKey 1 (b.base + o)) (some (t, n + 1)) } := by
  simp only [Dev.refuseWrite, Dev.limited, hr, ht, if_true]

/-- What a refused write leaves: registers and memory as they were, and the refusal told or counted. -/
theorem Dev.refuseWrite_leaves (d : Dev) (b : Block) (w : Writer) (o code : Nat) (hc : code < 2 ^ 16) :
    (d.refuseWrite b w o code).regs = d.regs ∧ (d.refuseWrite b w o code).mem = d.mem ∧
    (FMap.get none d.rate (rateKey 1 (b.base + o)) = none → d.keystoneUp = true → ∃ x : Event, (d.refuseWrite b w o code).jfe.ev = d.jfe.ev ++ [x] ∧
      x.code.toNat = code ∧ x.source = BitVec.ofNat 32 b.id ∧ x.sev = 1 ∧ x.arg0 = BitVec.ofNat 32 o ∧ x.arg1 = BitVec.ofNat 32 (writerCode w)) ∧
    (∀ t n, FMap.get none d.rate (rateKey 1 (b.base + o)) = some (t, n) → d.ticks < t + ticksMs 1 →
      d.refuseWrite b w o code = { d with rate := FMap.set none d.rate (rateKey 1 (b.base + o)) (some (t, n + 1)) }) := by
  obtain ⟨hregs, hmem⟩ := d.refuseWrite_regs_mem b w o code
  refine ⟨hregs, hmem, fun hr hk => ⟨_, Dev.refuseWrite_of_untold hr hk, ?_, rfl, rfl, rfl, rfl⟩, fun t n => Dev.refuseWrite_of_told⟩
  exact (BitVec.toNat_ofNat _ _).trans (Nat.mod_eq_of_lt hc)

/-! ### By access type (R6) -/

section
variable {d : Dev} {w : Writer} {b : Block} {o : Nat} {r : RegDef} {v : W32}

theorem Dev.regAccess_ro (h : r.acc = .ro) : d.regAccess w b o r v = d := by
  simp only [Dev.regAccess, h]

theorem Dev.regAccess_w1c (h : r.acc = .w1c) (hb : b ≠ .plb) :
    d.regAccess w b o r v = d.setReg (b.base + o) (d.reg (b.base + o) &&& ~~~(v &&& r.mask)) := by
  simp only [Dev.regAccess, h, if_neg hb]

theorem Dev.regAccess_locked (h : r.acc = .rwl) (hl : d.rbit (b.base + 0xC) 0 = true) : d.regAccess w b o r v = d.refuseWrite b w o 0x0001 := by
  simp only [Dev.regAccess, h, hl, if_true]

theorem Dev.regAccess_not_expert (h : r.acc = .exp) (he : d.expertFor w = false) : d.regAccess w b o r v = d.refuseWrite b w o 0x0002 := by
  simp only [Dev.regAccess, h, he, Bool.false_eq_true, if_false]

/-- What lets a write through to the register's own effect. -/
theorem Dev.regAccess_through (h : r.acc = .rw ∨ r.acc = .wo ∨ (r.acc = .rwl ∧ d.rbit (b.base + 0xC) 0 = false) ∨ (r.acc = .exp ∧ d.expertFor w = true)) :
    d.regAccess w b o r v = d.regEffect w b o r v := by
  rcases h with h | h | ⟨h, hl⟩ | ⟨h, he⟩
  · simp only [Dev.regAccess, h]
  · simp only [Dev.regAccess, h]
  · simp only [Dev.regAccess, h, hl, Bool.false_eq_true, if_false]
  · simp only [Dev.regAccess, h, he, if_true]

/-! ### The register that an offset names (R5, R9) -/

variable (hb : blockAt d.hw (b.base + o) = some b) (hs : d.serves b = true)
include hb hs

theorem Dev.writeReg_lock (h : o = 0xC) : d.writeReg w (b.base + o) v = if v.getLsbD 0 then d.setReg (b.base + o) 1 else d := by
  subst h
  simp only [Dev.writeReg, hb, hs, Nat.add_sub_cancel_left, Bool.not_true, Bool.false_eq_true, if_false, if_true]

theorem Dev.writeReg_empty (hm : ¬ (b = .host ∧ 0x4000 ≤ o ∧ o < 0x4400 ∧ o % 4 = 0)) (h : o ≠ 0xC) (hf : findReg b.regs o = none) :
    d.writeReg w (b.base + o) v = d := by
  simp only [Dev.writeReg, hb, hs, Nat.add_sub_cancel_left, h, hm, hf, Bool.not_true, Bool.false_eq_true, if_false]

theorem Dev.writeReg_reg (hm : ¬ (b = .host ∧ 0x4000 ≤ o ∧ o < 0x4400 ∧ o % 4 = 0)) (h : o ≠ 0xC) (hf : findReg b.regs o = some r) :
    d.writeReg w (b.base + o) v = d.regAccess w b o r v := by
  simp only [Dev.writeReg, hb, hs, Nat.add_sub_cancel_left, h, hm, hf, Bool.not_true, Bool.false_eq_true, if_false]

end

theorem lockAt_of_blockAt {h : Hw} {b : Block} (hb : blockAt h (b.base + 0xC) = some b) : lockAt h (b.base + 0xC) = true := by
  simp only [lockAt, hb, beq_self_eq_true]

/-! ### HOST_CFG and HOST_IRQ_MAP (R188) -/

theorem findReg_spec {rs : List RegDef} {o : Nat} {r : RegDef} (h : findReg rs o = some r) : r ∈ rs ∧ r.off ≤ o ∧ o < r.off + r.step * r.n := by
  unfold findReg at h
  have hp := List.find?_some h
  simp only [Bool.and_eq_true, decide_eq_true_eq] at hp
  exact ⟨List.mem_of_find?_eq_some h, hp.1⟩

theorem acc_of_hostCfg {r : RegDef} (h : findReg hostRegs 0x10 = some r) : r.acc = .rwl := by
  obtain ⟨hr, lo, -⟩ := findReg_spec h
  exact (by decide : ∀ r ∈ hostRegs, r.off ≤ 0x10 → r.acc = .rwl) r hr lo

theorem acc_of_hostIrqMap {o : Nat} {r : RegDef} (h : findReg hostRegs o = some r) (lo : 0x58 ≤ o) (hi : o < 0x68) : r.acc = .rw := by
  obtain ⟨hr, rlo, rhi⟩ := findReg_spec h
  exact (by decide : ∀ r ∈ hostRegs, 0x58 < r.off + r.step * r.n → r.off < 0x68 → r.acc = .rw) r hr (by omega) (by omega)

theorem Dev.hostWrite_plain (d : Dev) {o : Nat} (r : RegDef) (v : W32) (h : o = 0x10 ∨ (0x58 ≤ o ∧ o < 0x68)) :
    d.hostWrite o r v = d.putMasked (0x20000 + o) r v := by
  unfold Dev.hostWrite
  rw [if_neg (by omega), if_neg (by omega), if_neg (by omega), if_neg (by omega)]

theorem Dev.rbit_setReg_one (d : Dev) (k : Nat) : (d.setReg k 1).rbit k 0 = true := by
  unfold Dev.rbit Dev.rn
  rw [Dev.reg_setReg]
  rfl

/-- A register that holds what is written, its reserved bits apart, and nothing else of the device. -/
theorem Dev.putMasked_holds (d : Dev) (k : Nat) (r : RegDef) (v : W32) :
    (d.putMasked k r v).reg k = v &&& r.mask ∧ (∀ j, j ≠ k → (d.putMasked k r v).reg j = d.reg j) ∧
      d.putMasked k r v = { d with regs := (d.putMasked k r v).regs } :=
  ⟨Dev.reg_setReg d k _, fun _ hj => Dev.reg_setReg_ne d _ hj, rfl⟩

/-- Settles O34: the write at the offset is the access of the register that stands there, and each access type has its answer. -/
theorem registerWriteResults : Obligations.RegisterWriteResults := by
  unfold Obligations.RegisterWriteResults
  rintro s w _ o v b hb hs rfl hm
  replace hs : s.dev.fresh.serves b = true := hs
  have lock (h : o = 0xC) : s.dev.fresh.writeReg w (b.base + o) v = if v.getLsbD 0 then s.dev.fresh.setReg (b.base + o) 1 else s.dev.fresh :=
    Dev.writeReg_lock hb hs h
  refine ⟨fun h hf => ?empty, fun h => ⟨?lock, ?lockSet⟩, fun r h hf => ?reg⟩
  case empty => exact State.registerWrite_answers hb (Dev.writeReg_empty hb hs hm h hf)
  case lock =>
    refine State.registerWrite_answers hb ⟨lock h, ?_⟩
    rw [lock h]
    cases v.getLsbD 0 with
    | true => exact (Dev.rbit_setReg_one _ _).trans (Bool.or_true _).symm
    | false => exact (Bool.or_false _).symm
  case lockSet =>
    have hl : lockAt s.dev.fresh.hw (b.base + o) = true := by
      subst h
      exact lockAt_of_blockAt hb
    exact ans_run (by rw [if_pos hl]; exact lock h)
  case reg =>
    have acc : s.dev.fresh.writeReg w (b.base + o) v = s.dev.fresh.regAccess w b o r v := Dev.writeReg_reg hb hs hm h hf
    have ans {P : Dev → Prop} (e : Dev) (he : s.dev.fresh.regAccess w b o r v = e) (hP : P e) :
        (blockSettles b = true → s.AnswersSettled (exec (.registerWrite w (b.base + o) v) s) P) ∧
          (blockSettles b = false → s.Answers (exec (.registerWrite w (b.base + o) v) s) P) :=
      State.registerWrite_answers hb (by rw [acc, he]; exact hP)
    refine ⟨fun ha => ?_, fun ha hp => ?_, fun ha hl => ?_, fun ha he => ?_, fun ha => ?_, fun hh ho => ?_⟩
    · exact ans _ (Dev.regAccess_ro ha) rfl
    · exact ans _ (Dev.regAccess_w1c ha hp) ⟨rfl, Dev.reg_setReg _ _ _⟩
    · exact ans _ (Dev.regAccess_locked ha hl) (Dev.refuseWrite_leaves _ b w o _ (by decide))
    · exact ans _ (Dev.regAccess_not_expert ha he) (Dev.refuseWrite_leaves _ b w o _ (by decide))
    · exact ans _ (Dev.regAccess_through ha) rfl
    · subst hh
      have through : r.acc = .rw ∨ r.acc = .wo ∨ (r.acc = .rwl ∧ s.dev.rbit (Block.host.base + 0xC) 0 = false) ∨ (r.acc = .exp ∧ s.dev.expertFor w = true) := by
        rcases ho with ⟨rfl, hl⟩ | ⟨lo, hi⟩
        · exact .inr (.inr (.inl ⟨acc_of_hostCfg hf, hl⟩))
        · exact .inl (acc_of_hostIrqMap hf lo hi)
      have plain : s.dev.fresh.regEffect w .host o r v = s.dev.fresh.putMasked (Block.host.base + o) r v :=
        Dev.hostWrite_plain _ r v (ho.imp_left And.left)
      exact ans _ ((Dev.regAccess_through (d := s.dev.fresh) through).trans plain) (Dev.putMasked_holds _ _ r v)

end Sys2Proof.Machine
end

section
/-! SUPPORT. Accesses to BAR0 outside the registers: those that are no aligned 32-bit ones (R4, R190), those at offsets without a register (R5, R184);
and the state after reset (R5, R10, R385, R503). -/
namespace Sys2Proof.Machine

/-! ### Odd accesses (R4, R190) -/

/-- The block serves at stage 0x80, so the access is recorded. -/
theorem Dev.oddAccess_eq {d : Dev} {write : Bool} {off size : Nat} (odd : ¬ (size = 4 ∧ off % 4 = 0)) (fits : off + size ≤ 0x2000000) (short : size ≤ 4096)
    (hs : d.serves .host = true) :
    d.oddAccess write off size =
      if write then d.accessSize (!write) off size else (d.accessSize (!write) off size).put (.reply (List.replicate size 0)) := by
  have h : ((size == 4 && off % 4 == 0) || decide (0x2000000 < off + size) || decide (4096 < size)) = false := by
    simp only [Bool.or_eq_false_iff, Bool.and_eq_false_iff, beq_eq_false_iff_ne, decide_eq_false_iff_not]
    omega
  simp only [Dev.oddAccess, h, hs, Bool.false_eq_true, if_false, if_true]

/-- Settles O35: the access is refused whole and leaves one record, and a read the reply of zeros beside it. -/
theorem oddAccessResults : Obligations.OddAccessResults := by
  unfold Obligations.OddAccessResults
  intro s write off size odd fits short stage
  have hk : s.dev.fresh.keystoneUp = true := by
    unfold Dev.keystoneUp
    rw [Dev.fresh_sec, stage]
    rfl
  have hs : s.dev.fresh.serves .host = true := by
    unfold Dev.serves
    rw [Dev.fresh_sec, stage]
    rfl
  have hodd := Dev.oddAccess_eq (write := write) odd fits short hs
  refine ans_run (g := fun d => d.oddAccess write off size) ?_
  refine ⟨s.dev.fresh.eventOf .host 0x0407 1 (off / 4 * 4) (accessArg (!write) off size), rfl, rfl, rfl, rfl, rfl, rfl, rfl, rfl, hodd.trans ?_⟩
  unfold Dev.accessSize
  rw [Dev.emit_of_keystoneUp hk]
  cases write <;> rfl

/-! ### Offsets that hold no register (R5, R184) -/

/-- The blocks serve, and vector 0, masked since reset, has been signalled: its bit of the pending-bit array is set. -/
def vectorPending : State :=
  { State.reset with dev := ({ Dev.reset with sec := { Security.reset with boot := { Security.reset.boot with stage := 0x80 } } } : Dev).msix 0 }

theorem vectorPending_readReg : (vectorPending.dev.readReg 0x25000).1 = 1 := by decide

/-- Refutes O59: the pending-bit array of R184 lies at 0x5000 of the host block, where the list of registers has none; it reads as the vectors that
wait, not as 0. -/
theorem not_emptyOffsetResults : ¬ Obligations.EmptyOffsetResults := by
  unfold Obligations.EmptyOffsetResults
  intro h
  have noReg : ∀ b : Block, blockAt vectorPending.dev.hw 0x25000 = some b → 16 ≤ 0x25000 - b.base ∧ findReg b.regs (0x25000 - b.base) = none ∧
      (b = .host → 0x25000 - b.base < 0x4000 ∨ 0x4400 ≤ 0x25000 - b.base) := by
    intro b hb
    obtain rfl : .host = b := Option.some.inj hb
    decide
  obtain ⟨hread, -, -⟩ := h vectorPending .host 0x25000 0 rfl noReg
  have zero : (vectorPending.dev.readReg 0x25000).1 = 0 := congrArg Prod.fst hread
  rw [vectorPending_readReg] at zero
  exact absurd zero (by decide)

/-! ### The state after reset -/

theorem Dev.reset_serves (b : Block) : Dev.reset.serves b = false := rfl

/-- Settles O60: nothing is powered and every map is empty, so that each read gives what an unlisted key stands for. -/
theorem resetValues : Obligations.ResetValues := by
  unfold Obligations.ResetValues
  dsimp only
  refine ⟨rfl, rfl, rfl, rfl, rfl, rfl, fun _ => rfl, rfl, rfl, rfl, rfl, rfl, rfl, rfl, Dev.reset_serves, fun _ _ _ _ _ => rfl, fun _ => rfl,
    fun _ => ⟨rfl, rfl⟩, fun _ => rfl, rfl, rfl, rfl⟩

end Sys2Proof.Machine
end

section
/-! SUPPORT. The host link (R37, R163–R167, R503): device memory behind BAR2, resets by the host, what the link carries, and PERST#. -/
namespace Sys2Proof.Machine

/-! ### Device memory behind BAR2 (R37, R166, R167) -/

theorem Dev.emit_out (d : Dev) (b : Block) (code sev a0 a1 : Nat) : (d.emit b code sev a0 a1).out = d.out := by
  obtain ⟨_, _, h⟩ := d.emit_eq b code sev a0 a1
  rw [h]

theorem Dev.orBits_out_mem (d : Dev) (k m : Nat) : (d.orBits k m).out = d.out ∧ (d.orBits k m).mem = d.mem := ⟨rfl, rfl⟩

/-- Telling of a poisoned line leaves memory, and puts nothing out. -/
theorem Dev.tellPoison_out_mem (d : Dev) (l : Nat) : (d.tellPoison l).out = d.out ∧ (d.tellPoison l).mem = d.mem := by
  unfold Dev.tellPoison
  extract_lets a s d1
  have same : d1.out = d.out ∧ d1.mem = d.mem := by
    unfold d1
    split
    · exact d.orBits_out_mem _ _
    · exact ⟨rfl, rfl⟩
  split
  · exact same
  · obtain ⟨out, mem⟩ := same
    obtain ⟨-, emitMem⟩ := Dev.emit_regs_mem { d1 with poisonTold := FMap.set false d1.poisonTold l true } _ _ _ _ _
    exact ⟨(Dev.emit_out _ _ _ _ _ _).trans out, emitMem.trans mem⟩

section
variable {d : Dev} {a n : Nat}

theorem Dev.busRead_outside (es : List MemEvent) (h : inMem d.hw a n = false) :
    d.busRead a n es = { d.emit .host 0x0406 1 (a % 2 ^ 32) (a / 2 ^ 32) with out := d.out ++ [.reply (List.replicate n 0)] } := by
  simp only [Dev.busRead, h, Bool.not_false, if_true, Dev.addrEvent, Dev.put, Dev.emit_out]

/-- A read of memory of which no line is fenced or poisoned is answered with the bytes. -/
theorem Dev.busRead_readable (h : inMem d.hw a n = true)
    (ok : ∀ l ∈ linesOf a n, d.memFenced (64 * l) = false ∧ d.poisonedIn View.plain (64 * l) 1 = none) :
    d.busRead a n [] = d.put (.reply (d.rd View.plain a n)) := by
  have noLine : (linesOf a n).find? (fun l => d.memFenced (64 * l) || (d.poisonedIn View.plain (64 * l) 1).isSome) = none := by
    refine List.find?_eq_none.mpr fun l hl => ?_
    obtain ⟨hf, hp⟩ := ok l hl
    simp [hf, hp]
  simp only [Dev.busRead, h, Dev.memEvents, List.filter_nil, List.foldl_nil, noLine, Bool.not_true, Bool.false_eq_true, if_false]

/-- One line that is fenced or poisoned makes the whole answer poisoned. -/
theorem Dev.busRead_unreadable (h : inMem d.hw a n = true)
    (bad : ∃ l ∈ linesOf a n, d.memFenced (64 * l) = true ∨ d.poisonedIn View.plain (64 * l) 1 ≠ none) :
    ∃ l, d.busRead a n [] = (d.tellPoison l).put (.replyPoisoned n) := by
  obtain ⟨k, hk, hb⟩ := bad
  have aLine : ((linesOf a n).find? (fun l => d.memFenced (64 * l) || (d.poisonedIn View.plain (64 * l) 1).isSome)).isSome = true := by
    rw [List.find?_isSome]
    refine ⟨k, hk, ?_⟩
    rw [Bool.or_eq_true]
    exact hb.imp_right Option.isSome_iff_ne_none.mpr
  obtain ⟨l, hl⟩ := Option.isSome_iff_exists.mp aLine
  refine ⟨l, ?_⟩
  simp only [Dev.busRead, h, Dev.memEvents, List.filter_nil, List.foldl_nil, hl, Bool.not_true, Bool.false_eq_true, if_false]

end

theorem Dev.busWrite_outside {d : Dev} {a : Nat} {bs : List Byte} (h : inMem d.hw a bs.length = false) :
    d.busWrite a bs = d.emit .host 0x0406 1 (a % 2 ^ 32) (a / 2 ^ 32) := by
  simp only [Dev.busWrite, h, Bool.not_false, if_true, Dev.addrEvent]

theorem Dev.busWrite_free {d : Dev} {a : Nat} {bs : List Byte} (h : inMem d.hw a bs.length = true)
    (free : ∀ r ∈ d.hostBarred, overlaps a bs.length r.1 r.2 = false) (unfenced : d.fencedIn a bs.length = false) :
    d.busWrite a bs = d.wr View.plain a bs := by
  have noRange : d.hostBarred.any (fun r => overlaps a bs.length r.1 r.2) = false :=
    List.any_eq_false.mpr fun r hr => Bool.eq_false_iff.mp (free r hr)
  simp only [Dev.busWrite, h, noRange, unfenced, Bool.not_true, Bool.or_self, Bool.false_eq_true, if_false]

theorem Dev.busWrite_barred {d : Dev} {a : Nat} {bs : List Byte} (h : inMem d.hw a bs.length = true)
    (barred : ∃ r ∈ d.hostBarred, overlaps a bs.length r.1 r.2 = true) :
    d.busWrite a bs = d.emit .host 0x0409 2 (a % 2 ^ 32) (a / 2 ^ 32) := by
  have aRange : d.hostBarred.any (fun r => overlaps a bs.length r.1 r.2) = true := List.any_eq_true.mpr barred
  simp only [Dev.busWrite, h, aRange, Bool.not_true, Bool.true_or, Bool.false_eq_true, if_false, if_true, Dev.addrEvent]

theorem Dev.busAccess_write {n : Nat} {bs : List Byte} (d : Dev) (a : Nat) (es : List MemEvent) (len : bs.length = n) :
    d.busAccess true a n bs es = d.busWrite a bs := if_pos len

/-- From READY on, a request within BAR2 and within one 4 KiB page reaches device memory. -/
theorem Dev.bar2Fx_serves {d : Dev} {w n : Nat} (write : Bool) (bs : List Byte) (es : List MemEvent) (ready : d.sec.boot.stage = 0x80)
    (inBar : w < 0x400000000) (one : oneRequest w n = true) : d.bar2Fx write w n bs es = d.busAccess write (d.bar2Addr w) n bs es := by
  refine if_neg ?_
  simp only [ready, one, ne_eq, not_true_eq_false, Bool.not_true, Bool.false_eq_true, or_false, false_or]
  omega

/-- The command answers as the access to device memory does. -/
theorem State.hostBar2Access_answers {s : State} {write : Bool} {w n : Nat} {bs : List Byte} {es : List MemEvent} {P : Dev → Prop}
    (ready : s.dev.sec.boot.stage = 0x80) (inBar : w < 0x400000000) (one : oneRequest w n = true)
    (h : P (s.dev.fresh.busAccess write (s.dev.bar2Addr w) n bs es)) : s.AnswersSettled (exec (.hostBar2Access write w n bs es) s) P := by
  refine ans_set (g := fun d => d.bar2Fx write w n bs es) ?_
  rw [Dev.bar2Fx_serves (d := s.dev.fresh) write bs es ready inBar one]
  exact h

/-! ### Messages that wait for the link (R164, R184) -/

/-- Sending what waits changes the pending bits and the outputs alone. -/
theorem Dev.msixFlush_eq (d : Dev) : ∃ r o, d.msixFlush = { d with regs := r, out := o } := by
  unfold Dev.msixFlush
  refine List.foldlRecOn (motive := fun (e : Dev) => ∃ r o, e = { d with regs := r, out := o }) _ _ ⟨d.regs, d.out, rfl⟩ fun e he v _ => ?_
  obtain ⟨r, o, rfl⟩ := he
  split
  · exact ⟨_, _, rfl⟩
  · exact ⟨r, o, rfl⟩

/-- Without Bus Master Enable nothing is sent. -/
theorem Dev.msixFlush_of_bme_clear {d : Dev} (h : d.link.bme = false) : d.msixFlush = d := by
  unfold Dev.msixFlush
  refine List.foldlRecOn (motive := fun e => e = d) _ _ rfl fun e he v _ => ?_
  rw [he, h, Bool.and_false, if_neg Bool.false_ne_true]

theorem Dev.msixFlush_link (d : Dev) : d.msixFlush.link = d.link := by
  obtain ⟨_, _, h⟩ := d.msixFlush_eq
  rw [h]

/-! ### Configuration requests and the link (R163, R164, R189, R503) -/

theorem Dev.configFx_of_early {d : Dev} (inReset : 0 < d.sec.boot.stage) (early : d.sec.boot.stage < 0x80) (b : Option Bool) :
    d.configFx b = d.put .retryStatus := (if_pos early).trans (if_neg (Nat.ne_of_gt inReset))

theorem Dev.configFx_busMaster {d : Dev} (ready : 0x80 ≤ d.sec.boot.stage) (b : Bool) :
    d.configFx (some b) = Dev.msixFlush { d with link := { d.link with bme := b } } := if_neg (Nat.not_lt.mpr ready)

theorem Dev.keystoneUp_of_ready {d : Dev} (ready : 0x80 ≤ d.sec.boot.stage) : d.keystoneUp = true := by
  unfold Dev.keystoneUp
  exact bne_iff_ne.mpr (by omega)

/-- A link that was down comes back: LINK_DOWN tells how long it was and how many records wait. -/
theorem Dev.linkBack_of_down {d : Dev} {rate width t : Nat} (legal : linkLegal rate width = true) (down : d.link.downTick = some t) :
    d.linkBack rate width =
      Dev.emit { d with link := { d.link with up := true, d3 := false, downTick := none, rate := rate, width := width } } .host 0x0404 1
        (min 0xFFFFFFFF ((d.ticks - t) / 400)) d.jfe.held := by
  simp only [Dev.linkBack, legal, down, Bool.not_true, Bool.false_eq_true, if_false]

theorem Dev.linkUpFx_of_down {d : Dev} {rate width : Nat} (ready : 0x80 ≤ d.sec.boot.stage) (down : d.link.up = false ∨ d.link.d3 = true) :
    d.linkUpFx rate width = (d.linkBack rate width).msixFlush := by
  refine if_neg ?_
  rw [not_or, Bool.and_eq_true, Bool.not_eq_true', not_and_or, Bool.not_eq_true, Bool.not_eq_false]
  exact ⟨Nat.not_lt.mpr ready, down⟩

/-- A link that comes back tells how long it was down, then sends the messages that waited. -/
theorem Dev.linkUpFx_tells {d : Dev} {rate width t : Nat} (ready : 0x80 ≤ d.sec.boot.stage) (down : d.link.up = false ∨ d.link.d3 = true)
    (legal : linkLegal rate width = true) (since : d.link.downTick = some t) :
    ∃ r o, d.linkUpFx rate width =
      { d with regs := r, out := o, link := { d.link with up := true, d3 := false, downTick := none, rate := rate, width := width },
               jfe := { d.jfe with ev := d.jfe.ev ++ [d.eventOf .host 0x0404 1 (min 0xFFFFFFFF ((d.ticks - t) / 400)) d.jfe.held],
                                   evSeq := d.jfe.evSeq + 1 } } := by
  obtain ⟨r, o, flushed⟩ := (d.linkBack rate width).msixFlush_eq
  refine ⟨r, o, (Dev.linkUpFx_of_down ready down).trans (flushed.trans ?_)⟩
  rw [Dev.linkBack_of_down legal since, Dev.emit_of_keystoneUp]
  · rfl
  · exact Dev.keystoneUp_of_ready ready

/-! ### Registers put back (R164) -/

theorem FMap.get_filter_key {α : Type} (x : α) (p : Nat → Bool) (k : Nat) :
    ∀ m : FMap α, FMap.get x (m.filter (fun e => !p e.1)) k = if p k then x else FMap.get x m k
  | [] => (ite_self x).symm
  | (j, y) :: m => by
    rw [List.filter_cons]
    by_cases hj : j = k
    · subst hj
      cases hp : p j <;> simp [FMap.get, FMap.get_filter_key x p j m, hp]
    · cases hp : p j <;> simp [FMap.get, FMap.get_filter_key x p k m, hj]

theorem Dev.reg_resetRegs (d : Dev) (p : Nat → Bool) (k : Nat) : (d.resetRegs p).reg k = if p k then resetVal d.hw k else d.reg k := by
  unfold Dev.resetRegs Dev.reg
  dsimp only
  rw [FMap.get_filter_key]
  cases p k <;> rfl

/-- The registers that a reset by the host puts back: the Host rings block, the ring registers of the JFE and its batch limit. -/
def hostResetReg (k : Nat) : Bool :=
  (decide (0x20000 ≤ k) && decide (k < 0x30000)) || (decide (0x10010 ≤ k) && decide (k < 0x10030)) || k == JFE_ACCEPT_BATCH

theorem hostResetReg_iff (k : Nat) :
    hostResetReg k = true ↔ (0x20000 ≤ k ∧ k < 0x30000) ∨ (0x10010 ≤ k ∧ k < 0x10030) ∨ k = JFE_ACCEPT_BATCH := by
  simp only [hostResetReg, Bool.or_eq_true, Bool.and_eq_true, decide_eq_true_eq, beq_iff_eq, or_assoc]

/-- What a reset by the host clears, before HOST_RESET tells it. -/
def Dev.hostCleared (d : Dev) : Dev :=
  { d.resetRegs hostResetReg with
    link := { d.link with bme := false, winBase := 0 }, jfe := { d.jfe with seqTold := [], coalCount := [], coalTick := [] } }

theorem Dev.hostResetFx_of_keystoneUp {d : Dev} (up : d.keystoneUp = true) (flr : Bool) :
    d.hostResetFx flr =
      { d.hostCleared with jfe := { d.hostCleared.jfe with
          ev := d.jfe.ev ++ [d.eventOf .host 0x0405 1 (if flr then 2 else 1) d.jfe.held], evSeq := d.jfe.evSeq + 1 } } :=
  Dev.emit_of_keystoneUp (d := d.hostCleared) up _ _ _ _ _

theorem Dev.hostResetFx_reg (d : Dev) (flr : Bool) (k : Nat) :
    (d.hostResetFx flr).reg k = if hostResetReg k then resetVal d.hw k else d.reg k := by
  obtain ⟨_, _, told⟩ := d.hostCleared.emit_eq .host 0x0405 1 (if flr then 2 else 1) d.jfe.held
  exact (congrArg (Dev.reg · k) told).trans (d.reg_resetRegs hostResetReg k)

/-! ### A safe state that the Quoins decide leaves the part and its security state (R422, R423) -/

/-- The part, its steppings, and what Nguldoel holds are the same. -/
structure Dev.SamePart (d e : Dev) : Prop where
  hw : e.hw = d.hw
  sec : e.sec = d.sec

namespace Dev.SamePart

theorem refl (d : Dev) : d.SamePart d := ⟨rfl, rfl⟩
theorem trans {d e f : Dev} (h : d.SamePart e) (k : e.SamePart f) : d.SamePart f := ⟨k.hw.trans h.hw, k.sec.trans h.sec⟩
theorem foldl {β : Type} {f : Dev → β → Dev} (h : ∀ (d : Dev) b, d.SamePart (f d b)) : ∀ (l : List β) (d : Dev), d.SamePart (l.foldl f d)
  | [], d => refl d
  | b :: l, d => (h d b).trans (foldl h l (f d b))

end Dev.SamePart

theorem Dev.MemOnly.samePart {d e : Dev} (h : d.MemOnly e) : d.SamePart e := by
  rw [h.eq]
  exact ⟨rfl, rfl⟩

theorem Dev.emit_samePart (d : Dev) (b : Block) (code sev a0 a1 : Nat) : d.SamePart (d.emit b code sev a0 a1) := by
  obtain ⟨_, _, h⟩ := d.emit_eq b code sev a0 a1
  rw [h]
  exact ⟨rfl, rfl⟩

theorem Dev.setQuoin_samePart (d : Dev) (q : Nat) (x : Quoin) : d.SamePart (d.setQuoin q x) := by
  unfold Dev.setQuoin
  split <;> exact ⟨rfl, rfl⟩

theorem Dev.eachQuoin_samePart (d : Dev) {f : Dev → Nat → Dev} (h : ∀ (d : Dev) q, d.SamePart (f d q)) : d.SamePart (d.eachQuoin f) := by
  have one (b : Bool) (d : Dev) (q : Nat) : d.SamePart (if b then f d q else d) := by
    cases b with
    | true => exact h d q
    | false => exact .refl d
  exact (one _ d 0).trans (one _ _ 1)

theorem Dev.quoinEvent_samePart (d : Dev) (code sev a0 a1 : Nat) : d.SamePart (d.quoinEvent code sev a0 a1) :=
  d.eachQuoin_samePart fun _ _ => Dev.emit_samePart _ _ _ _ _ _

theorem Dev.charge_samePart (d : Dev) (k : Nat) : d.SamePart (d.charge k) := by
  unfold Dev.charge
  split <;> exact ⟨rfl, rfl⟩

theorem Dev.modStream_samePart (d : Dev) (n : Nat) (f : StreamSt → StreamSt) : d.SamePart (d.modStream n f) := ⟨rfl, rfl⟩

theorem Dev.canQueue_samePart (d : Dev) (q off stream : Nat) (last : Bool) (content : List Byte) : d.SamePart (d.canQueue q off stream last content) := by
  unfold Dev.canQueue
  dsimp only
  split
  · exact .refl d
  · exact d.setQuoin_samePart q _

theorem Dev.canFallback_samePart (d : Dev) (q n : Nat) (c : StreamCfg) : d.SamePart (d.canFallback q n c) := by
  unfold Dev.canFallback
  dsimp only
  split
  · exact d.canQueue_samePart _ _ _ _ _
  · exact (d.canQueue_samePart _ _ _ _ _).trans (.foldl (fun d _ => d.canQueue_samePart _ _ _ _ _) _ _)

theorem Dev.sendRecord_samePart (d : Dev) (n : Nat) (c : StreamCfg) (seq ns : Nat) (bs : List Byte) : d.SamePart (d.sendRecord n c seq ns bs) := by
  unfold Dev.sendRecord
  dsimp only
  split
  · exact .refl d
  · refine .foldl (fun _ _ => ?_) _ _
    exact ⟨rfl, rfl⟩

theorem Dev.sendFallback_samePart (d : Dev) (n : Nat) (c : StreamCfg) : d.SamePart (d.sendFallback n c).1 := by
  unfold Dev.sendFallback
  dsimp only
  have can (a0 a1 : Nat → Nat) : d.SamePart (d.eachQuoin fun d q => (d.canFallback q n c).emit (.qn q) 0x0B06 3 (a0 q) (a1 q)) :=
    d.eachQuoin_samePart fun d q => (d.canFallback_samePart q n c).trans (Dev.emit_samePart _ _ _ _ _ _)
  split
  · exact (can _ _).trans (Dev.sendRecord_samePart _ _ _ _ _ _)
  · exact can _ _

theorem Dev.enterFallback_samePart (d : Dev) (n reason seq : Nat) : d.SamePart (d.enterFallback n reason seq).1 := by
  unfold Dev.enterFallback
  split
  · split
    · exact .refl d
    · exact (d.modStream_samePart n _).trans (Dev.sendFallback_samePart _ _ _)
  · exact .refl d

theorem Dev.addReason_samePart (d : Dev) (q r decider : Nat) : d.SamePart (d.addReason q r decider) := by
  unfold Dev.addReason
  dsimp only
  split
  · exact .refl d
  · exact ((d.charge_samePart _).trans (Dev.setQuoin_samePart _ _ _)).trans (Dev.emit_samePart _ _ _ _ _ _)

theorem Dev.putValidity_samePart (d : Dev) (a state reason : Nat) : d.SamePart (d.putValidity a state reason) := (d.wr_memOnly _ _ _).samePart

theorem Dev.safeStreams_samePart (d : Dev) : d.SamePart d.safeStreams.1 := by
  unfold Dev.safeStreams
  refine List.foldlRecOn (motive := fun (r : Dev × Bool) => d.SamePart r.1) _ _ (.refl d) fun r hr p _ => hr.trans ?_
  dsimp only
  split
  · exact .refl _
  · refine .trans ?_ (Dev.enterFallback_samePart _ _ _ _)
    split
    · exact ((Dev.putValidity_samePart _ _ _ _).trans (Dev.modStream_samePart _ _ _)).trans (Dev.quoinEvent_samePart _ _ _ _ _)
    · exact .refl _

theorem Dev.decideSafe_samePart (d : Dev) (q reason : Nat) : d.SamePart (d.decideSafe q reason) := by
  unfold Dev.decideSafe
  dsimp only
  have streams : d.SamePart (d.addReason q reason q).safeStreams.1 := (d.addReason_samePart q reason q).trans (Dev.safeStreams_samePart _)
  split
  · exact .refl d
  · refine .trans ?_ (Dev.canQueue_samePart _ _ _ _ _ _)
    split
    · exact streams.trans (Dev.addReason_samePart _ _ _ _)
    · exact streams

theorem Dev.decideBoth_samePart (d : Dev) (reason : Nat) : d.SamePart (d.decideBoth reason) :=
  (d.decideSafe_samePart 0 reason).trans (Dev.decideSafe_samePart _ 1 reason)

/-! ### PERST# (R164, R503, R504, R512) -/

theorem Dev.keystoneReset_reg (d : Dev) (k : Nat) : d.keystoneReset.reg k = resetVal d.hw k := rfl

/-- The rise of PERST# ends boundary instructions, which stand in the test port alone. -/
theorem Dev.boundaryEnds_eq (d : Dev) : ∃ x, d.boundaryEnds = { d with dbg := x } := by
  unfold Dev.boundaryEnds
  refine List.foldlRecOn (motive := fun (e : Dev) => ∃ x, e = { d with dbg := x }) _ _ ⟨d.dbg, rfl⟩ fun e he n _ => ?_
  obtain ⟨x, rfl⟩ := he
  dsimp only
  split
  · exact ⟨_, rfl⟩
  · exact ⟨x, rfl⟩

/-- The Keystone stays in reset, or as far as it came, while one condition of its release is missing. -/
theorem Dev.tryBoot_of_not {d : Dev} (b : BootInput)
    (h : d.sec.boot.stage ≠ 0 ∨ d.sec.boot.perst = false ∨ d.sec.boot.rails = false ∨ d.qn.a.releases = false ∨ d.qn.b.releases = false) :
    d.tryBoot b = d :=
  if_pos (by simpa only [Bool.not_eq_true'] using h)

theorem Dev.tryBoot_of_released {d : Dev} (b : BootInput) (stage : d.sec.boot.stage = 0) (perst : d.sec.boot.perst = true) (rails : d.sec.boot.rails = true)
    (a : d.qn.a.releases = true) (q : d.qn.b.releases = true) :
    d.tryBoot b = Dev.bootUp
      { d with ticks := max d.ticks (d.sec.boot.railsTick + ticksMs 1),
               sec := { d.sec with boot := { d.sec.boot with since := max d.ticks (d.sec.boot.railsTick + ticksMs 1) } } } b := by
  simp only [Dev.tryBoot, stage, perst, rails, a, q, ne_eq, not_true_eq_false, Bool.not_true, Bool.false_eq_true, or_self, if_false]

theorem Dev.perstAssertFx_of_high {d : Dev} (high : d.sec.boot.perst = true) :
    d.perstAssertFx = Dev.keystoneReset
      { d.decideBoth 0x02 with sec := { (d.decideBoth 0x02).sec with boot := { (d.decideBoth 0x02).sec.boot with perst := false } },
                               qn := { (d.decideBoth 0x02).qn with exitBarred := false } } :=
  if_neg (by rw [high]; exact Bool.false_ne_true)

theorem Dev.perstDeassertFx_of_low {d : Dev} (low : d.sec.boot.perst = false) (b : BootInput) :
    d.perstDeassertFx b = Dev.tryBoot { d with sec := { d.sec with boot := { d.sec.boot with perst := true } } } b :=
  if_neg (by rw [low]; exact Bool.false_ne_true)

/-! ### The statement -/

/-- Settles O37: each command of the host interface is one function of the device, whose cases the lemmas above state. -/
theorem hostLinkResults : Obligations.HostLinkResults := by
  unfold Obligations.HostLinkResults
  intro s d
  -- `d` is the device as a command finds it
  have hd : d = s.dev.fresh := rfl
  clear_value d
  subst hd
  refine ⟨fun wo n bs es ready inBar one => ?bar2, fun inReset early b => ?retry, fun ready b => ?busMaster,
    ?bmeClear, fun up trained => ?linkDown, fun up awake => ?d3hot, fun rate width t ready down legal since => ?linkUp, fun flr up => ?hostReset,
    fun high => ?perstAssert, fun low b => ?perstDeassert⟩
  case bar2 =>
    intro a
    refine ⟨fun inside => State.hostBar2Access_answers ready inBar one ⟨Dev.busRead_readable (d := s.dev.fresh) inside, fun bad => ?_⟩,
      fun outside => State.hostBar2Access_answers ready inBar one (Dev.busRead_outside (d := s.dev.fresh) es outside),
      fun len inside => State.hostBar2Access_answers ready inBar one ?_, fun len outside => State.hostBar2Access_answers ready inBar one ?_⟩
    · obtain ⟨l, hl⟩ := Dev.busRead_unreadable (d := s.dev.fresh) inside bad
      obtain ⟨hout, hmem⟩ := s.dev.fresh.tellPoison_out_mem l
      have hr : s.dev.fresh.busAccess false (s.dev.bar2Addr wo) n bs [] = (s.dev.fresh.tellPoison l).put (.replyPoisoned n) := hl
      rw [hr, Dev.put_out, Dev.put_mem, hout, hmem]
      exact ⟨rfl, rfl⟩
    · subst len
      rw [Dev.busAccess_write _ _ _ rfl]
      exact ⟨Dev.busWrite_free (d := s.dev.fresh) inside, Dev.busWrite_barred (d := s.dev.fresh) inside⟩
    · subst len
      rw [Dev.busAccess_write _ _ _ rfl]
      exact Dev.busWrite_outside (d := s.dev.fresh) outside
  case retry => exact ans_run (g := fun d => d.configFx b) (Dev.configFx_of_early (d := s.dev.fresh) inReset early b)
  case bmeClear => exact ans_run (g := Dev.bmeClearFx) rfl
  case busMaster =>
    refine ans_run (g := fun d => d.configFx (some b)) ?_
    rw [Dev.configFx_busMaster (d := s.dev.fresh) ready b, Dev.msixFlush_link]
    refine ⟨rfl, ?_⟩
    rintro rfl
    exact Dev.msixFlush_of_bme_clear rfl
  case linkDown =>
    refine ans_run (g := Dev.linkDownFx) ((if_pos up).trans ?_)
    rw [Dev.fresh_link, trained]
    rfl
  case d3hot => exact ans_run (g := Dev.d3Fx) (if_pos (by rw [Dev.fresh_link, up, awake]; rfl))
  case linkUp =>
    refine ans_run (g := fun d => d.linkUpFx rate width) ?_
    obtain ⟨r, o, back⟩ := Dev.linkUpFx_tells (d := s.dev.fresh) ready down legal since
    rw [back]
    exact ⟨rfl, _, rfl, rfl, rfl, rfl⟩
  case hostReset =>
    refine ans_set (g := fun d => d.hostResetFx flr) ?_
    have regs := s.dev.fresh.hostResetFx_reg flr
    refine ⟨fun k hk => (regs k).trans (if_pos ((hostResetReg_iff k).mpr hk)), fun k hk => (regs k).trans (if_neg (mt (hostResetReg_iff k).mp hk)), ?_⟩
    rw [Dev.hostResetFx_of_keystoneUp (d := s.dev.fresh) up]
    refine ⟨rfl, rfl, rfl, rfl, rfl, rfl, rfl, rfl, rfl, s.dev.fresh.eventOf .host 0x0405 1 (if flr then 2 else 1) s.dev.jfe.held, rfl, rfl, ?_, rfl⟩
    cases flr <;> rfl
  case perstAssert =>
    have same := s.dev.fresh.decideBoth_samePart 0x02
    have fuses : (s.dev.fresh.decideBoth 0x02).sec.fuses = s.dev.sec.fuses := congrArg Security.fuses same.sec
    have flash : (s.dev.fresh.decideBoth 0x02).sec.flash = s.dev.sec.flash := congrArg Security.flash same.sec
    refine ans_set (g := Dev.perstAssertFx) ⟨_, rfl, ?_⟩
    rw [Dev.perstAssertFx_of_high (d := s.dev.fresh) high]
    exact ⟨rfl, rfl, rfl, fun k => (Dev.keystoneReset_reg _ k).trans (congrArg (resetVal · k) same.hw), fun _ => rfl, rfl, fuses, flash, rfl, rfl⟩
  case perstDeassert =>
    obtain ⟨x, ends⟩ := s.dev.fresh.boundaryEnds_eq
    refine ans_set (g := fun d => d.boundaryEnds.perstDeassertFx b) ⟨_, rfl, ?_⟩
    rw [ends, Dev.perstDeassertFx_of_low (d := { s.dev.fresh with dbg := x }) low]
    exact ⟨fun held => Dev.tryBoot_of_not b (held.imp_right .inr), fun stage rails a q => Dev.tryBoot_of_released b stage rfl rails a q⟩

end Sys2Proof.Machine
end

section
/-! SUPPORT. Reading the scalar, address and predicate registers of a core after a write (R42, R98). -/
namespace Sys2Proof.Machine

theorem isKind_iff {c : BitVec 8} {k : RegKind} : isKind c k = true ↔ ∃ i, regOf c = some (k, i) := by
  unfold isKind
  cases regOf c with
  | none => simp
  | some p => simp [Prod.ext_iff]

theorem isSA_iff {c : BitVec 8} : isSA c = true ↔ isKind c .s = true ∨ isKind c .a = true := by simp [isSA]

/-- A scalar write is one of three: of the s register or of the a register that the code names, or of nothing. -/
theorem Regs.writeSA_cases (r : Regs) (c : BitVec 8) (x : W64) :
    (∃ i, regOf c = some (.s, i) ∧ r.writeSA c x = r.setS i x) ∨ (∃ i, regOf c = some (.a, i) ∧ r.writeSA c x = r.setA i (x.setWidth 48)) ∨
    (isSA c = false ∧ r.writeSA c x = r) := by
  unfold Regs.writeSA
  split
  · next i h => exact .inl ⟨i, h, rfl⟩
  · next i h => exact .inr (.inl ⟨i, h, rfl⟩)
  · next hs ha =>
    refine .inr (.inr ⟨Bool.eq_false_iff.mpr fun h => ?_, rfl⟩)
    rcases isSA_iff.mp h with h | h <;> obtain ⟨i, h⟩ := isKind_iff.mp h
    · exact hs i h
    · exact ha i h

/-- Only the code of an s register reads that s register. -/
theorem Regs.readSA_setS_ne (r : Regs) {b c : BitVec 8} {i : Nat} (hc : regOf c = some (.s, i)) (n : b ≠ c) (x : W64) :
    (r.setS i x).readSA b = r.readSA b := by
  unfold Regs.readSA
  split
  · next j hb => exact FMap.get_set_ne _ _ _ fun e => n (BitVec.eq_of_toNat_eq ((regOf_s hb).trans (e.trans (regOf_s hc).symm)))
  · rfl
  · rfl

/-- Only the code of an a register reads that a register. -/
theorem Regs.readSA_setA_ne (r : Regs) {b c : BitVec 8} {i : Nat} (hc : regOf c = some (.a, i)) (n : b ≠ c) (x : BitVec 48) :
    (r.setA i x).readSA b = r.readSA b := by
  unfold Regs.readSA
  split
  · rfl
  · next j hb =>
    have ne : j ≠ i := fun e => n (BitVec.eq_of_toNat_eq (by rw [regOf_a hb, regOf_a hc, e]))
    exact congrArg (BitVec.setWidth 64) (FMap.get_set_ne _ _ _ ne)
  · rfl

theorem Regs.readSA_writeSA_ne (r : Regs) {b c : BitVec 8} (n : b ≠ c) (x : W64) : (r.writeSA c x).readSA b = r.readSA b := by
  rcases r.writeSA_cases c x with ⟨i, hc, e⟩ | ⟨i, hc, e⟩ | ⟨-, e⟩ <;> rw [e]
  · exact r.readSA_setS_ne hc n x
  · exact r.readSA_setA_ne hc n _

theorem Regs.readSA_writeSA_s (r : Regs) {c : BitVec 8} (h : isKind c .s = true) (x : W64) : (r.writeSA c x).readSA c = x := by
  obtain ⟨i, h⟩ := isKind_iff.mp h
  simp only [Regs.readSA, Regs.writeSA, h]
  exact FMap.get_set_self _ _ _ _

theorem Regs.readSA_writeSA_a (r : Regs) {c : BitVec 8} (h : isKind c .a = true) (x : W64) :
    (r.writeSA c x).readSA c = (x.setWidth 48).setWidth 64 := by
  obtain ⟨i, h⟩ := isKind_iff.mp h
  simp only [Regs.readSA, Regs.writeSA, h]
  exact congrArg (BitVec.setWidth 64) (FMap.get_set_self _ _ _ _)

theorem Regs.writeSA_of_not_isSA (r : Regs) {c : BitVec 8} (h : isSA c = false) (x : W64) : r.writeSA c x = r := by
  rcases r.writeSA_cases c x with ⟨i, hc, -⟩ | ⟨i, hc, -⟩ | ⟨-, e⟩
  · exact absurd (isSA_iff.mpr (.inl (isKind_iff.mpr ⟨i, hc⟩))) (Bool.eq_false_iff.mp h)
  · exact absurd (isSA_iff.mpr (.inr (isKind_iff.mpr ⟨i, hc⟩))) (Bool.eq_false_iff.mp h)
  · exact e

/-- A scalar write changes s and a registers alone. -/
theorem Regs.writeSA_rest (r : Regs) (c : BitVec 8) (x : W64) : ∃ s a, r.writeSA c x = { r with s := s, a := a } := by
  rcases r.writeSA_cases c x with ⟨i, -, e⟩ | ⟨i, -, e⟩ | ⟨-, e⟩ <;> exact ⟨_, _, e⟩

theorem Regs.wf_iff (r : Regs) : r.wf = true ↔
    FMap.wf 0 r.s = true ∧ FMap.wf 0 r.a = true ∧ FMap.wf 0 r.p = true ∧ FMap.wf 0 r.v = true ∧ FMap.wf 0 r.side = true ∧ FMap.wf 0 r.t = true := by
  simp only [Regs.wf, Bool.and_eq_true, and_assoc]

theorem Regs.wf_writeSA {r : Regs} (h : r.wf = true) (c : BitVec 8) (x : W64) : (r.writeSA c x).wf = true := by
  obtain ⟨hs, ha, rest⟩ := r.wf_iff.mp h
  rcases r.writeSA_cases c x with ⟨i, -, e⟩ | ⟨i, -, e⟩ | ⟨-, e⟩ <;> rw [e]
  · exact (Regs.wf_iff _).mpr ⟨FMap.wf_set hs _ _, ha, rest⟩
  · exact (Regs.wf_iff _).mpr ⟨hs, FMap.wf_set ha _ _, rest⟩
  · exact h

theorem Regs.setP_zero (r : Regs) (x : W64) : r.setP 0 x = r := if_pos rfl

theorem Regs.wf_setP {r : Regs} (h : r.wf = true) (i : Nat) (x : W64) : (r.setP i x).wf = true := by
  obtain ⟨hs, ha, hp, rest⟩ := r.wf_iff.mp h
  unfold Regs.setP
  split
  · exact h
  · exact (Regs.wf_iff _).mpr ⟨hs, ha, FMap.wf_set hp _ _, rest⟩

theorem Regs.getP_setP (r : Regs) (i : Nat) (x : W64) : (r.setP i x).getP i = if i = 0 then BitVec.allOnes 64 else x := by
  unfold Regs.getP Regs.setP
  split
  · rfl
  · exact FMap.get_set_self _ _ _ _

theorem Regs.getP_setP_ne (r : Regs) {i j : Nat} (n : j ≠ i) (x : W64) : (r.setP i x).getP j = r.getP j := by
  unfold Regs.getP Regs.setP
  split
  · rfl
  · split
    · rfl
    · exact FMap.get_set_ne _ _ _ n

/-- Settles O11: each clause is a law of one write, read by the register that it names and by the others. -/
theorem registerFileReadsBack : Obligations.RegisterFileReadsBack := by
  unfold Obligations.RegisterFileReadsBack
  intro r c x
  refine ⟨fun h => ⟨Regs.wf_writeSA h c x, fun i => Regs.wf_setP h i x⟩, fun h => r.readSA_writeSA_s h x, fun h => r.readSA_writeSA_a h x,
    fun h => r.writeSA_of_not_isSA h x, fun b n => r.readSA_writeSA_ne n x, fun i => ?_,
    fun i => ⟨r.getP_setP i x, fun j n => r.getP_setP_ne n x, r.setP_zero x⟩⟩
  obtain ⟨s, a, e⟩ := r.writeSA_rest c x
  rw [e]
  exact ⟨rfl, rfl, rfl⟩

end Sys2Proof.Machine
end

section
/-! SUPPORT. What matrix steps and tile moves leave in the tiles (R55–R58, R67–R69, R103). -/
namespace Sys2Proof.Machine

/-! ### Matrix steps (R55–R57, R67–R69, R103) -/

theorem laneOf_clearIf (z : Bool) (x : BitVec 512) (j : Nat) : laneOf 32 (if z then 0 else x) j = if z then 0 else laneOf 32 x j := by
  cases z
  · rfl
  · exact laneOf_zero 32 j

/-- The element of an integer step, its operands read from their codes. -/
theorem intElem_map (old : Int) (p q : Nat → Int) (xs ys : List Nat) :
    intElem old (xs.map p) (ys.map q) =
      (clampInt (-2147483648) 2147483647 (old + (List.zipWith (fun x y => p x * q y) xs ys).sum),
        if old + (List.zipWith (fun x y => p x * q y) xs ys).sum < -2147483648 ∨ 2147483647 < old + (List.zipWith (fun x y => p x * q y) xs ys).sum
        then Flags.sat else 0) := by
  simp only [intElem, Flags.when, List.zipWith_map, Bool.or_eq_true, decide_eq_true_eq]

section
variable {f : FmtM} {ta tb : ElemType} {sh : StepShape}

/-- A matrix step whose checks pass writes its sixteen rows. -/
theorem opMma_ok (ha : ElemType.ofCode f.eta.toNat = some ta) (hb : ElemType.ofCode f.etb.toNat = some tb) (shape : stepShape ta tb = some sh)
    (row : f.row = 0) (rsv : f.rsv = 0) (va : isKind f.va .v = true) (vb : isKind f.vb .v = true)
    (pair : sh.wa * 16 * sh.k = 1024 → isPair f.va = true) (r : Regs) :
    opMma f r = .ok (writeRows (stepRow sh ta tb r f) f.t.toNat (List.range 16) r) := by
  have fits : (sh.wa * 16 * sh.k != 1024 || isPair f.va) = true := by
    by_cases e : sh.wa * 16 * sh.k = 1024
    · rw [pair e, Bool.or_true]
    · simp [e]
  unfold opMma
  simp [faultIf, etBad_of ha, etBad_of hb, ha, hb, shape, row, rsv, va, vb, fits]

/-- A matrix step retires with the elements of its rows in the tile. -/
theorem mma_retires {s : State} {u : Issue} (h : s.dev.Clean u) {x : Nat → Nat → Nat × Flags}
    (k : ∀ r, opMma f r = .ok (writeRows (stepRow sh ta tb r f) f.t.toNat (List.range 16) r))
    (rows : ∀ i, stepRow sh ta tb (s.regsOf u) f i = (List.range 16).map (x i)) :
    ∃ t, s.Retires u t (exec (.mma u f) s) ∧ (s.regsOf u).TileWritten f.t.toNat x t :=
  ⟨_, State.issue_countedOp h 0x02 (fun _ => 1) (k _), tileSticky (tile_ok rows)⟩

/-- A row of an integer step (R67): one exact sum an element, saturated once. -/
theorem stepRow_int (hi : sh.int = true) (r : Regs) (i : Nat) :
    stepRow sh ta tb r f i = (List.range 16).map (fun j =>
      let sum := sext 32 (if f.z then 0 else laneOf 32 (r.getTRow f.t.toNat i) j) +
        (List.zipWith (fun (x y : Nat) => (if ta = .u8 then ((x : Nat) : Int) else sext sh.wa x) * sext sh.wb y)
          ((List.range sh.k).map (fun k => opLane r (regNum f.va) sh.wa (i * sh.k + k)))
          ((List.range sh.k).map (fun k => opLane r (regNum f.vb) sh.wb (j * sh.k + k)))).sum
      (wrap 32 (clampInt (-2147483648) 2147483647 sum), if sum < -2147483648 ∨ 2147483647 < sum then Flags.sat else 0)) := by
  simp only [stepRow, hi, if_true, laneOf_clearIf, intElem_map]

/-- A row of a floating step (R68, R69), with the scale bytes of row and column. -/
theorem stepRow_float (hi : sh.int = false) (r : Regs) (i : Nat) :
    stepRow sh ta tb r f i = (List.range 16).map (fun j =>
      fltElem (if f.z then 0 else laneOf 32 (r.getTRow f.t.toNat i) j)
        (((r.getSide (regNum f.va)).toNat >>> (8 * i)) % 256) (((r.getSide (regNum f.vb)).toNat >>> (8 * j)) % 256)
        (((List.range sh.k).map (fun k => opLane r (regNum f.va) sh.wa (i * sh.k + k))).map ta.decode)
        (((List.range sh.k).map (fun k => opLane r (regNum f.vb) sh.wb (j * sh.k + k))).map tb.decode)) := by
  simp only [stepRow, hi, Bool.false_eq_true, if_false, laneOf_clearIf]

end

/-- Settles O18: the step writes its sixteen rows, and each row's elements are the stated ones, by the kind of the pair of types. -/
theorem matrixStepResults : Obligations.MatrixStepResults := by
  unfold Obligations.MatrixStepResults
  intro s u f ta tb sh clean ha hb shape row rsv va vb pair
  have accepted := opMma_ok ha hb shape row rsv va vb pair
  exact ⟨fun hi => mma_retires clean accepted (fun i => stepRow_int hi _ i), fun hi => mma_retires clean accepted (fun i => stepRow_float hi _ i)⟩

/-! ### Tile moves (R57, R58, R103) -/

theorem opTzero_ok {f : FmtM} (va : f.va = 0) (vb : f.vb = 0) (ta : f.eta = 0) (tb : f.etb = 0) (z : f.z = false) (row : f.row = 0)
    (rsv : f.rsv = 0) (r : Regs) : opTzero f r = .ok ((List.range 16).foldl (fun r row => r.setTRow f.t.toNat row 0) r) := by
  simp [opTzero, faultIf, va, vb, ta, tb, z, row, rsv]

/-- Sixteen rows of zeros clear a tile. -/
theorem clearRows_tile (r : Regs) (k : Nat) : r.TileWritten k (fun _ _ => (0, 0)) ((List.range 16).foldl (fun r row => r.setTRow k row 0) r) := by
  obtain ⟨zero, others, rest⟩ := fill_rows 0 k (List.range 16) r (fun _ hi => List.mem_range.mp hi)
  refine ⟨fun i hi j _ => ?_, fun b => ?_, fun m i n hi => others m i (.inl n) hi, ?_⟩
  · rw [zero i (List.mem_range.mpr hi), laneOf_zero]
    rfl
  · rw [rest]
    simp
  · rw [rest]

theorem moveBad_eq_false {f : FmtM} (vb : f.vb = 0) (ta : f.eta = 0) (tb : f.etb = 0) (z : f.z = false) (rsv : f.rsv = 0) : moveBad f = false := by
  simp [moveBad, vb, ta, tb, z, rsv]

/-- Settles O19: TZERO fills the tile's rows, TRD and TWR are one register write each, and both refuse a VA of another kind. -/
theorem tileMoveResults : Obligations.TileMoveResults := by
  unfold Obligations.TileMoveResults
  intro s u f clean vb ta tb z rsv
  have fields := moveBad_eq_false vb ta tb z rsv
  refine ⟨fun va row => ?tzero, fun va => ?trd, fun va => ?twr, fun va => ⟨?noTrd, ?noTwr⟩⟩
  case tzero => exact ⟨_, State.issue_regOp clean (opTzero_ok va vb ta tb z row rsv _), tileSticky (clearRows_tile _ _)⟩
  case trd => exact retires_keep clean (op := opTrd f) (by simp only [opTrd, faultIf, fields, va]; rfl) rfl
  case twr => exact retires_keep clean (op := opTwr f) (by simp only [opTwr, faultIf, fields, va]; rfl) rfl
  case noTrd => exact fault_alu clean (op := opTrd f) (by simp only [opTrd, faultIf, fields, va]; rfl)
  case noTwr => exact fault_alu clean (op := opTwr f) (by simp only [opTwr, faultIf, fields, va]; rfl)

end Sys2Proof.Machine
end

section
/-! SUPPORT. The vector conversions and functions (R71–R74, R101): the slices that move, and the lanes that come of them. -/
namespace Sys2Proof.Machine

/-! ### Lanes written by a rule -/

/-- Lanes written where a rule governs them, with what a rule gives each, the generator moved on. -/
theorem writeLanes_rule (r : Regs) (d : BitVec 8) {w : Nat} (hw : w * (512 / w) = 512) (on : Nat → Bool) (x : Nat → Nat × Flags) (g : W64) :
    r.LanesWritten (regNum d) w on x (writeLanes { r with lfsr := g } d w ((List.range (512 / w)).map on) ((List.range (512 / w)).map x)) :=
  ((writeLanes_spec { r with lfsr := g } d hw (by simp) (by simp)).congr (fun j hj => getD_map_range on hj _)
    (fun j hj _ => getD_map_range x hj _)).of_lfsr

theorem writeLanes_lfsr (r : Regs) (d : BitVec 8) (w : Nat) (on : List Bool) (res : List (Nat × Flags)) :
    (writeLanes r d w on res).lfsr = r.lfsr := rfl

/-! ### Slices (R101) -/

theorem sliceOf_of_lt {ns nd g : Nat} (h : g < max ns nd / min ns nd) :
    sliceOf ns nd g = some ⟨min ns nd, if nd < ns then g * min ns nd else 0, if ns < nd then g * min ns nd else 0⟩ :=
  if_neg (Nat.not_le.mpr h)

/-- A register of few lanes fills one of the slices of a register of more. -/
theorem sliceOf_narrowing {n nd g : Nat} (lt : n < nd) (h : g < nd / n) : sliceOf n nd g = some ⟨n, 0, g * n⟩ := by
  rw [sliceOf_of_lt (by rwa [Nat.max_eq_right lt.le, Nat.min_eq_left lt.le]), Nat.min_eq_left lt.le, if_neg (Nat.lt_asymm lt), if_pos lt]

/-- Is lane `j` one of the slice's, and governed? -/
def Slice.on (sl : Slice) (p : W64) (w j : Nat) : Bool := decide (sl.dst ≤ j) && decide (j < sl.dst + sl.n) && laneOn p w j

theorem sliceOn_eq_map (p : W64) (w : Nat) (sl : Slice) : sliceOn p w sl = (List.range (512 / w)).map (sl.on p w) := rfl

/-- Lanes of a slice written by a rule. -/
theorem writeLanes_slice (r : Regs) (d : BitVec 8) (t : ElemType) (p : W64) (sl : Slice) (x : Nat → Nat × Flags) (g : W64) :
    r.LanesWritten (regNum d) t.width (sl.on p t.width) x
      (writeLanes { r with lfsr := g } d t.width (sliceOn p t.width sl) ((List.range (512 / t.width)).map x)) := by
  rw [sliceOn_eq_map]
  exact writeLanes_rule r d t.width_ok _ x g

/-! ### VCVT (R71, R72) -/

theorem opVcvt_lanes {f : FmtV} {t dt : ElemType} {sl : Slice} (ht : ElemType.ofCode f.et.toNat = some t)
    (hdt : ElemType.ofCode (f.imm.toNat % 16) = some dt) (slice : sliceOf (512 / t.width) (512 / dt.width) (f.imm.toNat / 16 % 8) = some sl)
    (d : isKind f.d .v = true) (a : isKind f.a .v = true) (sub : f.sub = 0) (imm : f.imm.toNat < 128) (pair : cvtOk t dt = true)
    (sr : f.sr = true → dt.isInt = false) (r : Regs) :
    let draws := drawLanes f.sr (sliceOn (r.getP f.pg.toNat) dt.width sl) r.lfsr
    ∃ l, opVcvt f r = .ok l ∧ r.LanesWritten (regNum f.d) dt.width (sl.on (r.getP f.pg.toNat) dt.width) (fun j =>
      cvtLane t dt (overOf f.satm dt) (draws.1.getD j none) (laneOf t.width (r.getV (regNum f.a)) (sl.src + (j - sl.dst)))) l ∧ l.lfsr = draws.2 := by
  have rounding : (f.sr && dt.isInt) = false := by
    cases e : f.sr
    · rfl
    · rw [sr e]; rfl
  refine ⟨_, ?_, writeLanes_slice r f.d dt (r.getP f.pg.toNat) sl _ _, writeLanes_lfsr _ _ _ _ _⟩
  simp [opVcvt, faultIf, Regs.pg, hdt, vty_of ht, slice, etBad_of ht, d, a, sub, imm, pair, rounding]

/-! ### VRQ (R74) -/

theorem opVrq_lanes {f : FmtV} {t : ElemType} {sl : Slice} (ht : ElemType.ofCode f.et.toNat = some t) (dest : rqOk t = true)
    (imm : f.imm.toNat < 8) (slice : sliceOf 16 (512 / t.width) f.imm.toNat = some sl) (d : isKind f.d .v = true) (a : isKind f.a .v = true)
    (b : isSA f.b = true) (c : isSA f.c = true) (sub : f.sub = 0) (sr : f.sr = false) (r : Regs) :
    ∃ l, opVrq f r = .ok l ∧ r.LanesWritten (regNum f.d) t.width (sl.on (r.getP f.pg.toNat) t.width) (fun j =>
      let y := requant t.intLo t.intHi (sext 32 (laneOf 32 (r.getV (regNum f.a)) (sl.src + (j - sl.dst)))) (sext 32 (r.readSA f.b).toNat)
        (bitsOf (r.readSA f.b).toNat 37 32) (if t = .u8 then (((r.readSA f.c).toNat % 256 : Nat) : Int) else sext 8 (r.readSA f.c).toNat)
      (wrap t.width y.1, y.2)) l ∧ l.lfsr = r.lfsr := by
  refine ⟨_, ?_, writeLanes_slice r f.d t (r.getP f.pg.toNat) sl _ r.lfsr, writeLanes_lfsr _ _ _ _ _⟩
  simp [opVrq, faultIf, Regs.pg, vty_of ht, slice, etBad_of ht, dest, Nat.mod_eq_of_lt imm, imm, d, a, b, c, sub, sr]

/-! ### VQMX (R73) -/

theorem opVqmx_lanes {f : FmtV} {t : ElemType} {sl : Slice} (ht : ElemType.ofCode f.et.toNat = some t) (mx : t.isMx = true)
    (imm : f.imm.toNat < 4) (slice : sliceOf 32 (512 / t.width) f.imm.toNat = some sl) (d : isKind f.d .v = true) (a : isPair f.a = true)
    (c : isSA f.c = true) (sub : f.sub = 0) (sr : f.sr = true → t ≠ .mxi8) (r : Regs) :
    let vals := (lanesOf 32 (r.getV (regNum f.a)) ++ lanesOf 32 (r.getV (regNum f.a + 1))).map f32.decode
    let draws := drawLanes f.sr (sliceOn (r.getP f.pg.toNat) t.width sl) r.lfsr
    let special := vals.any (fun v => v.isNaN || v.isInf)
    let scale := if special then 0xFF else blockScale t vals
    ∃ l, opVqmx f r = .ok ((l.writeSA f.c (BitVec.ofNat 64 scale)).raise (Flags.when special .nv)) ∧
      r.LanesWritten (regNum f.d) t.width (sl.on (r.getP f.pg.toNat) t.width) (fun j =>
        if special then (0, 0) else mxElem t scale (draws.1.getD j none) (vals.getD (j - sl.dst) (.fin false 0 0))) l ∧ l.lfsr = draws.2 := by
  have rounding : (f.sr && t == .mxi8) = false := by
    cases e : f.sr
    · rfl
    · simpa using sr e
  refine ⟨_, ?_, writeLanes_slice r f.d t (r.getP f.pg.toNat) sl _ _, writeLanes_lfsr _ _ _ _ _⟩
  simp [opVqmx, faultIf, Regs.pg, Regs.writeNat, vty_of ht, slice, etBad_of ht, mx, Nat.mod_eq_of_lt imm, imm, d, a, c, sub, rounding]

theorem ElemType.mx_lanes {t : ElemType} (mx : t.isMx = true) : 32 < 512 / t.width ∧ 512 / t.width / 32 ≤ 4 := by
  revert mx
  cases t <;> decide

/-- Flags raised beside a scalar write join the sticky ones (R77). -/
theorem Regs.sticky_writeSA_raise (l : Regs) (c : BitVec 8) (x : W64) (fl old : Flags) :
    { (l.writeSA c x).raise fl with flags := old ||| ((l.writeSA c x).raise fl).flags } =
      (({ l with flags := old ||| l.flags } : Regs).writeSA c x).raise fl := by
  unfold Regs.writeSA Regs.raise
  split <;> simp [Regs.setS, Regs.setA, BitVec.or_assoc]

/-! ### VFN (R70) -/

theorem opVfn_lanes {f : FmtV} (ht : ElemType.ofCode f.et.toNat = some .f32) (d : isKind f.d .v = true) (a : isKind f.a .v = true)
    (sub : f.sub.toNat ≤ 5) (sr : f.sr = false) (r : Regs) :
    ∃ l, opVfn f r = .ok l ∧ r.LanesWritten (regNum f.d) 32 (laneOn (r.getP f.pg.toNat) 32)
      (fun j => vfnLane f.sub.toNat (laneOf 32 (r.getV (regNum f.a)) j)) l ∧ l.lfsr = r.lfsr := by
  refine ⟨_, ?_, writeLanes_rule r f.d (by decide) _ _ r.lfsr, writeLanes_lfsr _ _ _ _ _⟩
  simp only [opVfn, faultIf, Regs.pg, vty_of ht, etBad_of ht, d, a, Nat.not_lt.mpr sub, sr, lanesOf, List.map_map]
  rfl

/-! ### The statement -/

/-- Settles O16: each instruction writes, by a rule, the lanes of its slice that PG governs; the slice lies where R101 puts it. -/
theorem vectorConversionLanes : Obligations.VectorConversionLanes := by
  unfold Obligations.VectorConversionLanes
  intro s u f t clean ht d
  refine ⟨fun dt hdt a sub imm pair sr g => ?vcvt, fun dest a b c sub sr g => ?vrq, fun mx a c sub sr g => ?vqmx, fun e a sub sr => ?vfn⟩
  case vcvt =>
    obtain ⟨l, ok, lanes, drawn⟩ := opVcvt_lanes ht hdt (sliceOf_of_lt g) d a sub imm pair sr { s.regsOf u with flags := 0 }
    exact State.retiresLanesC_of clean ok lanes drawn
  case vrq =>
    obtain ⟨dest, wider, slices⟩ : rqOk t = true ∧ 16 < 512 / t.width ∧ 512 / t.width / 16 ≤ 8 := by
      rcases dest with rfl | rfl | rfl <;> decide
    obtain ⟨l, ok, lanes, drawn⟩ :=
      opVrq_lanes ht dest (by omega) (sliceOf_narrowing wider g) d a b c sub sr { s.regsOf u with flags := 0 }
    simp only [Nat.zero_add] at lanes
    exact State.retiresLanes_of clean ok lanes drawn
  case vqmx =>
    obtain ⟨wider, slices⟩ := t.mx_lanes mx
    obtain ⟨l, ok, lanes, drawn⟩ :=
      opVqmx_lanes ht mx (by omega) (sliceOf_narrowing wider g) d a c sub sr { s.regsOf u with flags := 0 }
    have retires := State.issueV_countedOp clean 0x0D (stochQmx f) ok
    rw [Regs.sticky_writeSA_raise] at retires
    exact ⟨_, lanes.sticky, drawn, retires⟩
  case vfn =>
    subst e
    obtain ⟨l, ok, lanes, drawn⟩ := opVfn_lanes ht d a sub sr { s.regsOf u with flags := 0 }
    exact State.retiresLanes_of clean ok lanes drawn

end Sys2Proof.Machine
end

section
/-! SUPPORT. The end of a DMA descriptor and the start of a multicast read (R50, R108, R122, R151, R258). -/
namespace Sys2Proof.Machine

/-! ### A command to a unit that the part has -/

theorem ans_runIf {s : State} {present : Bool} {g : Dev → Dev} {P : Dev → Prop} (hp : present = true) (h : P (g s.dev.fresh)) :
    s.Answers (s.runIf present g) P := by
  subst hp
  exact ans_run h

theorem ans_setIf {s : State} {present : Bool} {g : Dev → Dev} {P : Dev → Prop} (hp : present = true) (h : P (g s.dev.fresh)) :
    s.AnswersSettled (s.runIf present (fun d => (g d).settle)) P := by
  subst hp
  exact ans_set h

/-! ### Contexts that a descriptor's end leaves (R50, R317) -/

theorem Dev.emit_ctx (d : Dev) (b : Block) (code sev a0 a1 c : Nat) : (d.emit b code sev a0 a1).ctx c = d.ctx c := by
  obtain ⟨_, _, h⟩ := d.emit_eq b code sev a0 a1
  rw [h]
  rfl

theorem Dev.ctx_of_jfe {d e : Dev} (h : e.jfe = d.jfe) (c : Nat) : e.ctx c = d.ctx c := by
  rw [Dev.ctx, h]
  rfl

theorem Dev.orBits_jfe (d : Dev) (k m : Nat) : (d.orBits k m).jfe = d.jfe := rfl

theorem Dev.tellPoison_ctx (d : Dev) (l c : Nat) : (d.tellPoison l).ctx c = d.ctx c := by
  unfold Dev.tellPoison
  extract_lets a s d1
  have same : d1.jfe = d.jfe := by
    unfold d1
    split
    · exact d.orBits_jfe _ _
    · rfl
  split
  · exact Dev.ctx_of_jfe same c
  · exact (Dev.emit_ctx _ _ _ _ _ _ c).trans (Dev.ctx_of_jfe (e := { d1 with poisonTold := FMap.set false d1.poisonTold l true }) same c)

theorem Dev.noteRead_ctx (d : Dev) (v : View) (a n c : Nat) : (d.noteRead v a n).ctx c = d.ctx c := by
  unfold Dev.noteRead
  split
  · exact d.tellPoison_ctx _ c
  · rfl

theorem Dev.dmaPop_ctx (d : Dev) (g c : Nat) : (d.dmaPop g).ctx c = d.ctx c := by
  unfold Dev.dmaPop
  rw [Dev.putCore_cores]
  rfl

theorem CtxState.holds_of_executes {x : CtxState} (h : x.executes = true) : x.holds = true ∧ x ≠ .draining := by
  cases x with
  | running | yielding => exact ⟨rfl, nofun⟩
  | _ => exact absurd h (by decide)

/-! ### What stops a descriptor (R149, R317, R320) -/

/-- The status is that of the first range that the context may not reach. -/
theorem Dev.dmaStop_status (d : Dev) (g : Nat) (e : DmaEntry) :
    (d.dmaStop g e).map Prod.fst = (d.dmaRanges e).findSome? (fun r => d.accessStatus (d.viewOf (d.ctxOn g)) r.1 r.2 e.readsIn) := by
  simp only [Dev.dmaStop, List.map_findSome?, Option.map_map, Function.comp_def, Option.map_id']

theorem Dev.dmaStop_status_fresh (d : Dev) (g : Nat) (e : DmaEntry) : (d.fresh.dmaStop g e).map Prod.fst = (d.dmaStop g e).map Prod.fst := by
  rw [Dev.dmaStop_status, Dev.dmaStop_status]
  rfl

theorem Dev.dmaStop_ctx {d q : Dev} {g : Nat} {e : DmaEntry} {st : BitVec 8} (h : d.dmaStop g e = some (st, q)) (c : Nat) : q.ctx c = d.ctx c := by
  obtain ⟨r, -, hr⟩ := List.exists_of_findSome?_eq_some h
  obtain ⟨x, -, hx⟩ := Option.map_eq_some_iff.mp hr
  obtain ⟨-, rfl⟩ := Prod.mk.inj hx
  split
  · exact d.noteRead_ctx _ _ _ c
  · rfl

/-! ### The end of the head of a queue -/

theorem Dev.dmaHead_of_lead {d : Dev} {g : Nat} {x : DmaEntry} {rest : List DmaEntry} (lead : d.isFollow g = false)
    (scan : FMap.get false d.pwr.scanned (coreDie g) = false) (queue : (d.core g).dma = x :: rest) : d.dmaHead g = some x := by
  simp [Dev.dmaHead, lead, scan, queue]

theorem Dev.dmaEvents_nil (d : Dev) (e : DmaEntry) : d.dmaEvents e [] = d := by
  unfold Dev.dmaEvents
  split
  · exact List.foldl_fixed' (fun _ => rfl) _
  · rfl

section
variable {d : Dev} {g : Nat} {e : DmaEntry}

theorem Dev.coreDraining_of_executes (run : (d.ctx (d.ctxOn g)).state.executes = true) : d.coreDraining g = false :=
  beq_eq_false_iff_ne.mpr (CtxState.holds_of_executes run).2

/-- A descriptor of a job that goes on, which nothing stops, moves its data, leaves the queue and is counted. -/
theorem Dev.dmaEnd_moves (run : (d.ctx (d.ctxOn g)).state.executes = true) (free : d.dmaStop g e = none) (after : Dev → Dev) :
    d.dmaEnd g .none [] e after = after (((d.dmaMove g e).dmaPop g).dmaCount g e) := by
  simp [Dev.dmaEnd, fatalErr, Dev.noteStorage, Dev.dmaEvents_nil, Dev.coreDraining_of_executes run, free]

/-- One that meets a status tears the job down with it. -/
theorem Dev.dmaEnd_stops {st : BitVec 8} {q : Dev} (run : (d.ctx (d.ctxOn g)).state.executes = true) (stop : d.dmaStop g e = some (st, q))
    (after : Dev → Dev) : d.dmaEnd g .none [] e after = (q.dmaPop g).trigger (d.ctxOn g) st := by
  simp [Dev.dmaEnd, fatalErr, Dev.noteStorage, Dev.dmaEvents_nil, Dev.coreDraining_of_executes run, stop]

theorem Dev.dmaEnd_drains {st : BitVec 8} (run : (d.ctx (d.ctxOn g)).state.executes = true) (stop : (d.dmaStop g e).map Prod.fst = some st)
    (after : Dev → Dev) :
    ((d.dmaEnd g .none [] e after).ctx (d.ctxOn g)).state = .draining ∧ ((d.dmaEnd g .none [] e after).ctx (d.ctxOn g)).ending = st := by
  obtain ⟨⟨_, q⟩, found, rfl⟩ := Option.map_eq_some_iff.mp stop
  have same : (q.dmaPop g).ctx (d.ctxOn g) = d.ctx (d.ctxOn g) := (q.dmaPop_ctx g _).trans (Dev.dmaStop_ctx found _)
  obtain ⟨holds, ne⟩ := CtxState.holds_of_executes run
  obtain ⟨state, ending, -⟩ := Dev.trigger_holds (q.dmaPop g) (d.ctxOn g) _ false (by rw [same]; exact holds) (by rw [same]; exact ne)
  rw [Dev.dmaEnd_stops run found]
  exact ⟨state, ending⟩

theorem Dev.dmaDoneFx_of_head (head : d.dmaHead g = some e) (ends : e.kind < 2 ∨ (e.kind = 2 ∧ e.started = true)) (err : StorageEvent)
    (es : List MemEvent) : d.dmaDoneFx g err es = d.dmaEnd g err es e id := by
  simp only [Dev.dmaDoneFx, head]
  refine if_neg ?_
  rcases ends with small | ⟨kind, started⟩
  · omega
  · simp [kind, started]

theorem Dev.kvDoneFx_of_head (head : d.dmaHead g = some e) (append : e.kind = 3) (err : StorageEvent) :
    d.kvDoneFx g err = d.dmaEnd g err [] e (fun x => x.appendDone g e) := by
  simp only [Dev.kvDoneFx, head]
  exact if_pos append

/-! ### The start of a multicast read (R108) -/

/-- A multicast read that every core of its mask has issued starts at each of them, counted once. -/
theorem Dev.multicastFx_starts {rest : List DmaEntry} (queue : (d.core g).dma = e :: rest) (kind : e.kind = 2) (waiting : e.started = false)
    (issued : ∀ m ∈ d.castCores g e, ∃ y ∈ (d.core m).dma, y.sameRead e = true) :
    d.multicastFx g = (d.castCores g e).eraseDups.foldl (fun d m => d.castStart m e) (d.blkCount (coreBlock g) 3 1) := by
  have first : (d.core g).dma.find? (fun e => e.kind == 2 && !e.started) = some e := by simp [queue, kind, waiting]
  have all : (d.castCores g e).all (fun m => (d.core m).dma.any (fun x => x.sameRead e)) = true :=
    List.all_eq_true.mpr fun m hm => List.any_eq_true.mpr (issued m hm)
  simp only [Dev.multicastFx, first]
  exact if_pos all

end

/-- Settles O40: the head of the lead's queue ends by what stops it, or by its move; a read that all its cores have issued starts at each. -/
theorem dmaCompletionResults : Obligations.DmaCompletionResults := by
  unfold Obligations.DmaCompletionResults
  intro s g x rest present lead scan queue run
  have head := Dev.dmaHead_of_lead (d := s.dev.fresh) lead scan queue
  have free : s.dev.dmaStop g x = none → s.dev.fresh.dmaStop g x = none := fun h =>
    Option.map_eq_none_iff.mp ((s.dev.dmaStop_status_fresh g x).trans (congrArg _ h))
  refine ⟨fun ends clear => ?moves, fun st q ends meets => ?stops, fun append clear => ?appends, fun kind waiting issued => ?starts⟩
  case moves =>
    refine ans_setIf (g := fun d => d.dmaDoneFx g .none []) present ?_
    rw [Dev.dmaDoneFx_of_head head ends, Dev.dmaEnd_moves (d := s.dev.fresh) run (free clear)]
    rfl
  case stops =>
    refine ans_setIf (g := fun d => d.dmaDoneFx g .none []) present ?_
    rw [Dev.dmaDoneFx_of_head head ends]
    exact Dev.dmaEnd_drains (d := s.dev.fresh) run ((s.dev.dmaStop_status_fresh g x).trans (congrArg _ meets)) id
  case appends =>
    refine ans_setIf (g := fun d => d.kvDoneFx g .none) present ?_
    rw [Dev.kvDoneFx_of_head head append, Dev.dmaEnd_moves (d := s.dev.fresh) run (free clear)]
    rfl
  case starts =>
    exact ans_runIf (g := fun d => d.multicastFx g) present (Dev.multicastFx_starts (d := s.dev.fresh) queue kind waiting issued)

end Sys2Proof.Machine
end

section
/-! SUPPORT. Sedun words read back by their fields (R88–R91, R129). -/
namespace Sys2Proof.Machine
open BitVec (extractLsb'_append_eq_of_le extractLsb'_append_eq_of_add_le extractLsb'_eq_self getLsbD_append)

/-! ### The opcode, the class and the fields of a word (R91) -/

theorem wordS_parts (op : BitVec 8) (f : FmtS) :
    (wordS op f).extractLsb' 56 8 = op ∧ (wordS op f).extractLsb' 53 3 = 0#3 ∧ fieldsS (wordS op f) = f := by
  simp (disch := decide) only [fieldsS, wordS, extractLsb'_append_eq_of_le, extractLsb'_append_eq_of_add_le, extractLsb'_eq_self,
    Nat.reduceSub, and_self]

theorem wordV_parts (op : BitVec 8) (f : FmtV) :
    (wordV op f).extractLsb' 56 8 = op ∧ (wordV op f).extractLsb' 53 3 = 1#3 ∧ fieldsV (wordV op f) = f := by
  have sr : (wordV op f).getLsbD 13 = f.sr := by simp only [wordV, getLsbD_append]; simp
  have satm : (wordV op f).getLsbD 12 = f.satm := by simp only [wordV, getLsbD_append]; simp
  simp only [fieldsV, sr, satm]
  simp (disch := decide) only [wordV, extractLsb'_append_eq_of_le, extractLsb'_append_eq_of_add_le, extractLsb'_eq_self,
    Nat.reduceSub, and_self]

theorem wordM_parts (op : BitVec 8) (f : FmtM) :
    (wordM op f).extractLsb' 56 8 = op ∧ (wordM op f).extractLsb' 53 3 = 2#3 ∧ fieldsM (wordM op f) = f := by
  have z : (wordM op f).getLsbD 26 = f.z := by simp only [wordM, getLsbD_append]; simp
  simp only [fieldsM, z]
  simp (disch := decide) only [wordM, extractLsb'_append_eq_of_le, extractLsb'_append_eq_of_add_le, extractLsb'_eq_self,
    Nat.reduceSub, and_self]

theorem wordX_parts (op : BitVec 8) (f : FmtX) :
    (wordX op f).extractLsb' 56 8 = op ∧ (wordX op f).extractLsb' 53 3 = 3#3 ∧ fieldsX (wordX op f) = f := by
  simp (disch := decide) only [fieldsX, wordX, extractLsb'_append_eq_of_le, extractLsb'_append_eq_of_add_le, extractLsb'_eq_self,
    Nat.reduceSub, and_self]

theorem wordC_parts (op : BitVec 8) (f : FmtC) :
    (wordC op f).extractLsb' 56 8 = op ∧ (wordC op f).extractLsb' 53 3 = 4#3 ∧ fieldsC (wordC op f) = f := by
  simp (disch := decide) only [fieldsC, wordC, extractLsb'_append_eq_of_le, extractLsb'_append_eq_of_add_le, extractLsb'_eq_self,
    Nat.reduceSub, and_self]

theorem wordE_parts (op : BitVec 8) (f : FmtE) :
    (wordE op f).extractLsb' 56 8 = op ∧ (wordE op f).extractLsb' 53 3 = 5#3 ∧ fieldsE (wordE op f) = f := by
  simp (disch := decide) only [fieldsE, wordE, extractLsb'_append_eq_of_le, extractLsb'_append_eq_of_add_le, extractLsb'_eq_self,
    Nat.reduceSub, and_self]

/-! ### A word of a class decodes within the class -/

theorem decodeSedun_wordS (u : Issue) (op : BitVec 8) (f : FmtS) : decodeSedun u (wordS op f) = classS op.toNat u f := by
  simp [decodeSedun, wordS_parts op f]

theorem decodeSedun_wordV (u : Issue) (op : BitVec 8) (f : FmtV) : decodeSedun u (wordV op f) = classV op.toNat u f := by
  simp [decodeSedun, wordV_parts op f]

theorem decodeSedun_wordM (u : Issue) (op : BitVec 8) (f : FmtM) : decodeSedun u (wordM op f) = classM op.toNat u f := by
  simp [decodeSedun, wordM_parts op f]

theorem decodeSedun_wordX (u : Issue) (op : BitVec 8) (f : FmtX) : decodeSedun u (wordX op f) = classX op.toNat u f := by
  simp [decodeSedun, wordX_parts op f]

theorem decodeSedun_wordC (u : Issue) (op : BitVec 8) (f : FmtC) : decodeSedun u (wordC op f) = classC op.toNat u f := by
  simp [decodeSedun, wordC_parts op f]

theorem decodeSedun_wordE (u : Issue) (op : BitVec 8) (f : FmtE) : decodeSedun u (wordE op f) = classE op.toNat u f := by
  simp [decodeSedun, wordE_parts op f]

/-- Class bits above 5 agree with no opcode (R89). -/
theorem decodeSedun_of_no_class (u : Issue) {w : W64} (above : 5 < (w.extractLsb' 53 3).toNat) : decodeSedun u w = none := by
  unfold decodeSedun
  dsimp only
  split
  case h_7 => rfl
  all_goals omega

/-! ### The statements -/

/-- Settles O3: a word is of its instruction's class, where its opcode names that instruction and its fields are the operands. -/
theorem sedunDecodeOfEncode : Obligations.SedunDecodeOfEncode := by
  unfold Obligations.SedunDecodeOfEncode
  intro i u w issued encodes
  unfold encodeSedun at encodes
  split at encodes <;> cases encodes <;> cases issued
  all_goals
    simp only [decodeSedun_wordS, decodeSedun_wordV, decodeSedun_wordM, decodeSedun_wordX, decodeSedun_wordC, decodeSedun_wordE]
    rfl

/-- Settles O56: the written-out words decode by evaluation, and above class 5 there is none. -/
theorem decodedWords : Obligations.DecodedWords := by
  unfold Obligations.DecodedWords
  exact fun u => ⟨rfl, rfl, rfl, rfl, rfl, rfl, rfl, fun _ above => decodeSedun_of_no_class u above⟩

end Sys2Proof.Machine
end

section
/-! SUPPORT. The integer instructions of the S class (R98): what products, quotients, picks and immediates come to. -/
namespace Sys2Proof.Machine

/-! ### Products and quotients -/

theorem mulHigh_unsigned (a b : W64) : (mulHigh 1 a b).toNat = a.toNat * b.toNat / 2 ^ 64 := by
  have lt : a.toNat * b.toNat / 2 ^ 64 < 2 ^ 64 := Nat.div_lt_of_lt_mul (Nat.mul_lt_mul'' a.isLt b.isLt)
  simp only [mulHigh, if_true, BitVec.toNat_ofNat]
  exact Nat.mod_eq_of_lt lt

theorem mulHigh_signed (a b : W64) : (mulHigh 0 a b).toInt = a.toInt * b.toInt / 2 ^ 64 := by
  have mag (x : W64) : x.toInt.natAbs ≤ 2 ^ 63 := by
    have lo := x.le_toInt
    have hi := x.toInt_lt
    omega
  have prod : (a.toInt * b.toInt).natAbs ≤ 2 ^ 63 * 2 ^ 63 := by
    rw [Int.natAbs_mul]
    exact Nat.mul_le_mul (mag a) (mag b)
  simp only [mulHigh]
  rw [if_neg (by decide), BitVec.toInt_ofInt, Int.bmod_eq_of_le] <;> omega

theorem divOp_unsigned (a b : W64) : divOp 1 a b = BitVec.ofNat 64 (a.toNat / b.toNat) := by
  simp only [divOp, if_true]
  exact BitVec.eq_of_toNat_eq (by simp [Nat.mod_eq_of_lt (Nat.lt_of_le_of_lt (Nat.div_le_self _ _) a.isLt)])

theorem divOp_signed (a b : W64) : divOp 0 a b = BitVec.ofInt 64 (a.toInt.tdiv b.toInt) :=
  BitVec.eq_of_toInt_eq (by rw [BitVec.toInt_ofInt]; exact BitVec.toInt_sdiv a b)

theorem remOp_unsigned (a b : W64) : remOp 1 a b = BitVec.ofNat 64 (a.toNat % b.toNat) := by
  simp only [remOp, if_true]
  exact BitVec.eq_of_toNat_eq (by simp [Nat.mod_eq_of_lt (Nat.lt_of_le_of_lt (Nat.mod_le _ _) a.isLt)])

theorem remOp_signed (a b : W64) : remOp 0 a b = BitVec.ofInt 64 (a.toInt.tmod b.toInt) := by
  rw [← BitVec.toInt_srem, BitVec.ofInt_toInt]
  rfl

/-! ### The lesser and the greater of two -/

/-- A strict and a weak comparison pick the same value, as equal measures are of equal values. -/
theorem pick_of_lt_eq_pick_of_le {α β : Type} [LinearOrder β] {f : α → β} (inj : Function.Injective f) (a b : α) :
    (if f a < f b then a else b) = if f a ≤ f b then a else b := by
  rcases lt_trichotomy (f a) (f b) with h | h | h
  · rw [if_pos h, if_pos h.le]
  · rw [inj h, ite_self, ite_self]
  · rw [if_neg h.not_gt, if_neg h.not_ge]

theorem pick_other_of_lt_eq_pick_other_of_le {α β : Type} [LinearOrder β] {f : α → β} (inj : Function.Injective f) (a b : α) :
    (if f a < f b then b else a) = if f a ≤ f b then b else a := by
  rcases lt_trichotomy (f a) (f b) with h | h | h
  · rw [if_pos h, if_pos h.le]
  · rw [inj h, ite_self, ite_self]
  · rw [if_neg h.not_gt, if_neg h.not_ge]

theorem toInt_injective : Function.Injective (BitVec.toInt : W64 → Int) := fun _ _ => BitVec.eq_of_toInt_eq
theorem toNat_injective : Function.Injective (BitVec.toNat : W64 → Nat) := fun _ _ => BitVec.eq_of_toNat_eq

/-! ### MOVHI -/

open BitVec in
theorem movhiVal_low (d : W64) (imm : BitVec 24) : movhiVal 0 d imm = d.extractLsb 63 48 ++ imm ++ d.extractLsb 23 0 := by
  have mask : (0xFFFFFF000000 : W64) = (allOnes 24).setWidth 64 <<< 24 := by decide
  refine eq_of_getLsbD_eq fun i hi => ?_
  simp only [movhiVal, if_true, mask, getLsbD_append, getLsbD_extractLsb, getLsbD_or, getLsbD_and, getLsbD_not, getLsbD_shiftLeft,
    getLsbD_setWidth, getLsbD_allOnes]
  rcases Nat.lt_or_ge i 24 with low | low
  · simp [hi, low]
  rcases Nat.lt_or_ge i 48 with mid | high
  · have inside : i - 24 < 64 ∧ i - 24 < 24 := by omega
    simp [hi, Nat.not_lt.mpr low, inside]
  · have outside : ¬ i - 24 < 24 ∧ i - 24 - 24 < 16 ∧ 48 + (i - 24 - 24) = i := by omega
    have none : imm.getLsbD (i - 24) = false := imm.getLsbD_of_ge _ (by omega)
    simp [hi, Nat.not_lt.mpr low, outside, none]

open BitVec in
theorem movhiVal_high (d : W64) (imm : BitVec 24) : movhiVal 1 d imm = imm.extractLsb 15 0 ++ d.extractLsb 47 0 := by
  have mask : (0xFFFF000000000000 : W64) = (allOnes 16).setWidth 64 <<< 48 := by decide
  refine eq_of_getLsbD_eq fun i hi => ?_
  simp only [movhiVal, one_ne_zero, if_false, mask, getLsbD_append, getLsbD_extractLsb, getLsbD_or, getLsbD_and, getLsbD_not,
    getLsbD_shiftLeft, getLsbD_setWidth, getLsbD_allOnes]
  rcases Nat.lt_or_ge i 48 with low | high
  · simp [hi, low]
  · have inside : i - 48 < 64 ∧ i - 48 < 16 ∧ i - 48 ≤ 15 := by omega
    simp [hi, Nat.not_lt.mpr high, inside]

/-! ### Instructions that write one scalar register -/

/-- An integer instruction whose result is known for its SUB. -/
theorem retires_aluSub {s : State} {u : Issue} {f : FmtS} {ok : Nat → Bool} {fn : Nat → W64 → W64 → W64} {x : W64} {n : BitVec 5} (clean : s.dev.Clean u)
    (sub : f.sub = n) (defined : ok n.toNat = true) (d : isSA f.d = true) (a : isSA f.a = true) (b : isSANone f.b = true)
    (result : fn n.toNat ((s.regsOf u).readSA f.a) (if f.b = 0xFF then f.imm.signExtend 64 else (s.regsOf u).readSA f.b) = x) :
    s.Retires u ((s.regsOf u).writeSA f.d x) (s.issue u (regOp (aluOp ok fn f))) := by
  subst sub result
  exact retires_alu clean defined d a b

/-- The same of a quotient or a remainder. -/
theorem retires_divSub {s : State} {u : Issue} {f : FmtS} {fn : Nat → W64 → W64 → W64} {x : W64} {n : BitVec 5} (clean : s.dev.Clean u)
    (sub : f.sub = n) (defined : n.toNat ≤ 1) (d : isSA f.d = true) (a : isSA f.a = true) (b : isSANone f.b = true)
    (nonzero : (if f.b = 0xFF then f.imm.signExtend 64 else (s.regsOf u).readSA f.b) ≠ 0)
    (result : fn n.toNat ((s.regsOf u).readSA f.a) (if f.b = 0xFF then f.imm.signExtend 64 else (s.regsOf u).readSA f.b) = x) :
    s.Retires u ((s.regsOf u).writeSA f.d x) (s.issue u (regOp (divLike fn f))) := by
  subst sub result
  exact retires_div clean defined d a b nonzero

theorem opMovi_ok {f : FmtS} (sub : f.sub = 0) (d : isSA f.d = true) (r : Regs) : opMovi f r = .ok (r.writeSA f.d (f.imm.signExtend 64)) := by
  simp [opMovi, faultIf, subZero, sub, d]

theorem opMovhi_ok {f : FmtS} (sub : f.sub.toNat ≤ 1) (d : isSA f.d = true) (r : Regs) :
    opMovhi f r = .ok (r.writeSA f.d (movhiVal f.sub.toNat (r.readSA f.d) f.imm)) := by
  simp [opMovhi, faultIf, subBit, sub, d]

theorem opNop_ok {f : FmtS} (sub : f.sub = 0) (r : Regs) : opNop f r = .ok r := by simp [opNop, faultIf, subZero, sub]

/-! ### The statements -/

/-- Settles O4: the nine instructions are of one shape and differ in their operation alone. -/
theorem integerArithmeticResults : Obligations.IntegerArithmeticResults := by
  unfold Obligations.IntegerArithmeticResults
  intro s u f clean sub d a b
  have shape (op : W64 → W64 → W64) := retires_aluSub (ok := subZero) (fn := fun _ => op) clean sub rfl d a b rfl
  exact ⟨shape (· + ·), shape (· - ·), shape (· * ·), shape (· &&& ·), shape (· ||| ·), shape (· ^^^ ·), shape (fun a b => a <<< (b.toNat % 64)),
    shape (fun a b => a >>> (b.toNat % 64)), shape (fun a b => a.sshiftRight (b.toNat % 64))⟩

/-- Settles O5: SUB picks the signed or the unsigned measure, or the condition; what each comes to is a law of the two operands. -/
theorem integerSubSelectedResults : Obligations.IntegerSubSelectedResults := by
  unfold Obligations.IntegerSubSelectedResults
  intro s u f clean d a b
  refine ⟨fun sub => ⟨_, mulHigh_signed _ _, retires_aluSub clean sub rfl d a b rfl⟩, fun sub => ⟨_, mulHigh_unsigned _ _, retires_aluSub clean sub rfl d a b rfl⟩,
    fun sub => ⟨retires_aluSub clean sub rfl d a b ?smin, retires_aluSub clean sub rfl d a b ?smax⟩,
    fun sub => ⟨retires_aluSub clean sub rfl d a b ?umin, retires_aluSub clean sub rfl d a b ?umax⟩,
    fun sub => retires_aluSub clean sub rfl d a b ?eq, fun sub => retires_aluSub clean sub rfl d a b ?ne,
    fun sub => retires_aluSub clean sub rfl d a b ?lt, fun sub => retires_aluSub clean sub rfl d a b ?le,
    fun sub => retires_aluSub clean sub rfl d a b ?ltu, fun sub => retires_aluSub clean sub rfl d a b ?leu⟩
  case smin => exact (ite_bool BitVec.slt_iff_toInt_lt _ _).trans (pick_of_lt_eq_pick_of_le toInt_injective _ _)
  case smax => exact (ite_bool BitVec.slt_iff_toInt_lt _ _).trans (pick_other_of_lt_eq_pick_other_of_le toInt_injective _ _)
  case umin => exact (ite_bool BitVec.ult_iff_toNat_lt _ _).trans (pick_of_lt_eq_pick_of_le toNat_injective _ _)
  case umax => exact (ite_bool BitVec.ult_iff_toNat_lt _ _).trans (pick_other_of_lt_eq_pick_other_of_le toNat_injective _ _)
  case eq => exact ite_bool (beq_iff_eq.trans BitVec.toInt_inj) _ _
  case ne => exact (ite_bool (bne_iff_ne.trans BitVec.toInt_inj.not) _ _).trans (ite_not _ _ _)
  case lt => exact ite_bool decide_eq_true_iff _ _
  case le => exact ite_bool decide_eq_true_iff _ _
  case ltu => exact ite_bool decide_eq_true_iff _ _
  case leu => exact ite_bool decide_eq_true_iff _ _

/-- Settles O6: quotient and remainder by SUB; the divisor is judged last. -/
theorem divisionResults : Obligations.DivisionResults := by
  unfold Obligations.DivisionResults
  intro s u f clean d a b
  exact ⟨fun sub nz => ⟨retires_divSub clean sub (by decide) d a b nz (divOp_signed _ _), retires_divSub clean sub (by decide) d a b nz (remOp_signed _ _)⟩,
    fun sub nz => ⟨retires_divSub clean sub (by decide) d a b nz (divOp_unsigned _ _), retires_divSub clean sub (by decide) d a b nz (remOp_unsigned _ _)⟩,
    fun sub zero => ⟨fault_div clean sub d a b zero, fault_div clean sub d a b zero⟩⟩

/-- Settles O7: MOVI and MOVHI write one register, NOP none. -/
theorem moveImmediateResults : Obligations.MoveImmediateResults := by
  unfold Obligations.MoveImmediateResults
  intro s u f clean
  refine ⟨fun sub d => retires_set clean (opMovi_ok sub d _), fun sub d => retires_set clean ?low, fun sub d => retires_set clean ?high,
    fun sub => retires_keep clean (opNop_ok sub _) rfl⟩
  case low => rw [opMovhi_ok (by rw [sub]; decide) d, sub, ← movhiVal_low]; rfl
  case high => rw [opMovhi_ok (by rw [sub]; decide) d, sub, ← movhiVal_high]; rfl

end Sys2Proof.Machine
end

section
/-! SUPPORT. The FP32 and predicate instructions of the S class (R98), and the operand faults of the class (R125). -/
namespace Sys2Proof.Machine

/-! ### FP32 (R70, R77) -/

theorem opFcmp_ok {f : FmtS} (sub : f.sub.toNat ≤ 3) (d : isSA f.d = true) (a : isSA f.a = true) (b : isSANone f.b = true) (r : Regs) :
    let c := FV.cmp f.sub.toNat (f32.decode (low32 (r.readSA f.a))) (f32.decode (low32 (operandB f r)))
    opFcmp f r = .ok ((r.writeSA f.d (BitVec.ofNat 64 (if c.1 then 1 else 0))).raise c.2) := by
  simp [opFcmp, faultIf, Nat.not_lt.mpr sub, d, a, b, Regs.writeNat]

/-- FCVT from INT64 (SUB 0). -/
theorem opFcvt_toFp32 {f : FmtS} (sub : f.sub = 0) (d : isSA f.d = true) (a : isSA f.a = true) (r : Regs) :
    let c := f32.encode .plain none (FV.ofInt (r.readSA f.a).toInt)
    opFcvt f r = .ok ((r.writeSA f.d (BitVec.ofNat 64 c.1)).raise c.2) := by
  simp [opFcvt, faultIf, subBit, sub, d, a, Regs.writeNat]

/-- FCVT to INT64 (SUB 1). -/
theorem opFcvt_toInt {f : FmtS} (sub : f.sub = 1) (d : isSA f.d = true) (a : isSA f.a = true) (r : Regs) :
    let c := (f32.decode (low32 (r.readSA f.a))).toInt (-(2 ^ 63)) (2 ^ 63 - 1)
    opFcvt f r = .ok ((r.writeSA f.d (BitVec.ofInt 64 c.1)).raise c.2) := by
  simp [opFcvt, faultIf, subBit, sub, d, a]

theorem ofNat_wrap (x : Int) : BitVec.ofNat 64 (wrap 64 x) = BitVec.ofInt 64 x := by
  apply BitVec.eq_of_toNat_eq
  simp only [wrap, BitVec.toNat_ofNat, BitVec.toNat_ofInt]
  omega

/-! ### Predicates -/

theorem getLsbD_lowMask (n : Nat) {i : Nat} (hi : i < 64) : (BitVec.ofNat 64 (2 ^ min n 64 - 1)).getLsbD i = decide (i < n) := by
  rw [BitVec.getLsbD_ofNat, Nat.testBit_two_pow_sub_one]
  simp [hi]

theorem opPmask_ok {f : FmtS} (sub : f.sub = 0) (d : isKind f.d .p = true) (a : isSA f.a = true) (r : Regs) :
    opPmask f r = .ok (r.setP (regNum f.d) (BitVec.ofNat 64 (2 ^ min (r.readSA f.a).toNat 64 - 1))) := by
  simp [opPmask, faultIf, subZero, sub, d, a]

theorem opPlog_ok {f : FmtS} (sub : f.sub.toNat ≤ 3) (d : isKind f.d .p = true) (a : isKind f.a .p = true)
    (b : isKind f.b .p = true ∨ f.sub = 3) (r : Regs) :
    opPlog f r = .ok (r.setP (regNum f.d) (logOp f.sub.toNat (r.getP (regNum f.a)) (r.getP (regNum f.b)))) := by
  have operandB : (isKind f.b .p || f.sub == 3) = true := by simpa using b
  simp only [opPlog, faultIf, Nat.not_lt.mpr sub, d, a, operandB]
  rfl

/-- PLOG whose result is known for its SUB. -/
theorem retires_plog {s : State} {u : Issue} {f : FmtS} {n : BitVec 5} {x : W64} (clean : s.dev.Clean u) (sub : f.sub = n) (defined : n.toNat ≤ 3)
    (d : isKind f.d .p = true) (a : isKind f.a .p = true) (b : isKind f.b .p = true ∨ n = 3)
    (result : logOp n.toNat ((s.regsOf u).getP (regNum f.a)) ((s.regsOf u).getP (regNum f.b)) = x) :
    s.Retires u ((s.regsOf u).setP (regNum f.d) x) (exec (.plog u f) s) := by
  subst sub result
  exact retires_setP clean (opPlog_ok defined d a b _)

theorem bitOf_eq_testBit (x i : Nat) : bitOf x i = x.testBit i := by
  rw [Nat.testBit_eq_decide_div_mod_eq, bitOf, Nat.shiftRight_eq_div_pow]
  rfl

theorem popcount_eq_countP (p : W64) : popcount 64 p.toNat = (List.range 64).countP (fun i => p.getLsbD i) := by
  simp only [popcount, bitOf_eq_testBit, BitVec.testBit_toNat, List.countP_eq_length_filter]

theorem opPcnt_ok {f : FmtS} (sub : f.sub = 0) (d : isSA f.d = true) (a : isKind f.a .p = true) (r : Regs) :
    opPcnt f r = .ok (r.writeSA f.d (BitVec.ofNat 64 ((List.range 64).countP (fun i => (r.getP (regNum f.a)).getLsbD i)))) := by
  simp [opPcnt, faultIf, subZero, sub, d, a, popcount_eq_countP, Regs.writeNat]

/-! ### Operand faults (R125) -/

/-- An operation on registers that judges its fields first. -/
theorem faults_field {s : State} {u : Issue} {op rest : Regs → Except SedunFault Regs} {bad : Bool} (clean : s.dev.Clean u)
    (shape : ∀ r, op r = faultIf bad .reservedField (rest r)) (h : bad = true) : s.Faults u .reservedField (s.issue u (regOp op)) :=
  fault_alu clean (by rw [shape, h]; rfl)

/-- An operation on registers that judges its operands' kinds after its fields. -/
theorem faults_kind {s : State} {u : Issue} {op rest : Regs → Except SedunFault Regs} {fieldBad bad : Bool} (clean : s.dev.Clean u)
    (shape : ∀ r, op r = faultIf fieldBad .reservedField (faultIf bad .registerKind (rest r))) (field : fieldBad = false) (h : bad = true) :
    s.Faults u .registerKind (s.issue u (regOp op)) :=
  fault_alu clean (by rw [shape, field, h]; rfl)

/-- The faults of an instruction of D, A and B or IMM24, whatever it computes. -/
theorem faults_saOperands {s : State} {u : Issue} {f : FmtS} {op rest : Regs → Except SedunFault Regs} (ok : Nat → Bool) (clean : s.dev.Clean u)
    (shape : ∀ r, op r = faultIf (!ok f.sub.toNat) .reservedField (faultIf (!(isSA f.d && isSA f.a && isSANone f.b)) .registerKind (rest r))) :
    (ok f.sub.toNat = false → s.Faults u .reservedField (s.issue u (regOp op))) ∧
    (ok f.sub.toNat = true → ¬ (isSA f.d = true ∧ isSA f.a = true ∧ isSANone f.b = true) → s.Faults u .registerKind (s.issue u (regOp op))) :=
  ⟨fun bad => faults_field clean shape (by rw [bad]; rfl), fun good bad => faults_kind clean shape (by rw [good]; rfl) (by
    rwa [Bool.not_eq_true', ← Bool.not_eq_true, Bool.and_eq_true, Bool.and_eq_true, and_assoc])⟩

@[simp] theorem subZero_iff {f : FmtS} : subZero f.sub.toNat = true ↔ f.sub = 0 := by simp [subZero, ← BitVec.toNat_inj]
@[simp] theorem subBit_iff {n : Nat} : subBit n = true ↔ n ≤ 1 := decide_eq_true_iff

/-- The same of an instruction that defines no SUB. -/
theorem faults_plain {s : State} {u : Issue} {f : FmtS} {op rest : Regs → Except SedunFault Regs} (clean : s.dev.Clean u)
    (shape : ∀ r, op r = faultIf (!subZero f.sub.toNat) .reservedField (faultIf (!(isSA f.d && isSA f.a && isSANone f.b)) .registerKind (rest r))) :
    (f.sub ≠ 0 → s.Faults u .reservedField (s.issue u (regOp op))) ∧
    (f.sub = 0 → ¬ (isSA f.d = true ∧ isSA f.a = true ∧ isSANone f.b = true) → s.Faults u .registerKind (s.issue u (regOp op))) := by
  have both := faults_saOperands subZero clean shape
  rwa [← Bool.not_eq_true, subZero_iff] at both

/-- The same of an instruction whose SUB selects unsigned. -/
theorem faults_signed {s : State} {u : Issue} {f : FmtS} {op rest : Regs → Except SedunFault Regs} (clean : s.dev.Clean u)
    (shape : ∀ r, op r = faultIf (!subBit f.sub.toNat) .reservedField (faultIf (!(isSA f.d && isSA f.a && isSANone f.b)) .registerKind (rest r))) :
    (1 < f.sub.toNat → s.Faults u .reservedField (s.issue u (regOp op))) ∧
    (f.sub.toNat ≤ 1 → ¬ (isSA f.d = true ∧ isSA f.a = true ∧ isSANone f.b = true) → s.Faults u .registerKind (s.issue u (regOp op))) := by
  have both := faults_saOperands subBit clean shape
  rwa [← Bool.not_eq_true, subBit_iff, Nat.not_le] at both

/-! ### The statements -/

/-- Settles O8: six instructions of one shape, the comparison and the two conversions, each a scalar write with flags raised. -/
theorem fp32ScalarResults : Obligations.Fp32ScalarResults := by
  unfold Obligations.Fp32ScalarResults
  intro s u f clean d a b
  refine ⟨fun sub => ?arithmetic, fun sub => ?compare, fun sub => ?toFp32, fun sub => ?toInt⟩
  case arithmetic =>
    have shape (g : Nat → Nat → Nat → Nat × Flags) := retires_fp32 clean d a b sub g _ _ _ rfl rfl rfl
    exact ⟨shape fun x y _ => f32.addCodes none x y, shape fun x y _ => f32.subCodes none x y, shape fun x y _ => f32.mulCodes none x y,
      shape fun x y z => f32.fmaCodes none x y z, shape fun x y _ => f32.minmax true x y, shape fun x y _ => f32.minmax false x y⟩
  case compare => exact retires_raise clean (opFcmp_ok sub d a b _)
  case toFp32 => exact retires_raise clean (opFcvt_toFp32 sub d a _)
  case toInt =>
    have retires := retires_raise clean (opFcvt_toInt sub d a _)
    rw [← ofNat_wrap] at retires
    exact retires

/-- Settles O9: each instruction is one write of a p or a scalar register. -/
theorem predicateResults : Obligations.PredicateResults := by
  unfold Obligations.PredicateResults
  intro s u f clean
  exact ⟨fun sub d a => ⟨_, fun _ hi => getLsbD_lowMask _ hi, retires_setP clean (opPmask_ok sub d a _)⟩,
    fun d a b => ⟨fun sub => retires_plog clean sub (by decide) d a (.inl b) rfl, fun sub => retires_plog clean sub (by decide) d a (.inl b) rfl,
      fun sub => retires_plog clean sub (by decide) d a (.inl b) rfl⟩,
    fun d a sub => retires_plog clean sub (by decide) d a (.inr rfl) rfl, fun sub d a => retires_set clean (opPcnt_ok sub d a _)⟩

/-- Settles O10: every S instruction judges SUB, then its operands, before it computes. -/
theorem scalarOperandFaults : Obligations.ScalarOperandFaults := by
  unfold Obligations.ScalarOperandFaults
  intro s u f clean
  have noSub (h : f.sub ≠ 0) : (!subZero f.sub.toNat) = true := by simpa [← Bool.not_eq_true] using h
  have noBit (h : 1 < f.sub.toNat) : (!subBit f.sub.toNat) = true := by simpa [← Bool.not_eq_true] using h
  refine ⟨?plain, ?signed, fun sub => ?scmp, fun sub => ⟨?fcmp, ?plog⟩,
    fun sub => ⟨faults_field (op := opMovhi f) clean (fun _ => rfl) (noBit sub), faults_field (op := opFcvt f) clean (fun _ => rfl) (noBit sub)⟩,
    fun sub => ⟨faults_field (op := opNop f) clean (fun _ => rfl) (noSub sub), faults_field (op := opMovi f) clean (fun _ => rfl) (noSub sub),
      faults_field (op := opPmask f) clean (fun _ => rfl) (noSub sub), faults_field (op := opPcnt f) clean (fun _ => rfl) (noSub sub)⟩,
    fun sub d => ⟨?movi, ?movhi, ?fcvt, ?pcnt⟩⟩
  case plain =>
    simp only [List.forall_mem_cons, List.not_mem_nil, false_implies, implies_true, and_true]
    exact ⟨faults_plain (op := opAdd f) clean fun _ => rfl, faults_plain (op := opSub f) clean fun _ => rfl,
      faults_plain (op := opMul f) clean fun _ => rfl, faults_plain (op := opAnd f) clean fun _ => rfl,
      faults_plain (op := opOr f) clean fun _ => rfl, faults_plain (op := opXor f) clean fun _ => rfl,
      faults_plain (op := opShl f) clean fun _ => rfl, faults_plain (op := opShr f) clean fun _ => rfl,
      faults_plain (op := opSar f) clean fun _ => rfl, faults_plain (op := opFadd f) clean fun _ => rfl,
      faults_plain (op := opFsub f) clean fun _ => rfl, faults_plain (op := opFmul f) clean fun _ => rfl,
      faults_plain (op := opFfma f) clean fun _ => rfl, faults_plain (op := opFmin f) clean fun _ => rfl,
      faults_plain (op := opFmax f) clean fun _ => rfl⟩
  case signed =>
    simp only [List.forall_mem_cons, List.not_mem_nil, false_implies, implies_true, and_true]
    exact ⟨faults_signed (op := opMulh f) clean fun _ => rfl, faults_signed (op := opDiv f) clean fun _ => rfl,
      faults_signed (op := opRem f) clean fun _ => rfl, faults_signed (op := opMin f) clean fun _ => rfl,
      faults_signed (op := opMax f) clean fun _ => rfl⟩
  case scmp => exact (faults_saOperands (op := opScmp f) (fun n => decide (n ≤ 5)) clean fun _ => rfl).1 (by simpa using sub)
  case fcmp => exact faults_field (op := opFcmp f) clean (fun _ => rfl) (decide_eq_true sub)
  case plog => exact faults_field (op := opPlog f) clean (fun _ => rfl) (decide_eq_true sub)
  case movi => exact faults_kind (op := opMovi f) clean (fun _ => rfl) (by rw [sub]; rfl) (by rw [d]; rfl)
  case movhi => exact faults_kind (op := opMovhi f) clean (fun _ => rfl) (by rw [sub]; rfl) (by rw [d]; rfl)
  case fcvt => exact faults_kind (op := opFcvt f) clean (fun _ => rfl) (by rw [sub]; rfl) (by rw [d]; rfl)
  case pcnt => exact faults_kind (op := opPcnt f) clean (fun _ => rfl) (by rw [sub]; rfl) (by rw [d]; rfl)

end Sys2Proof.Machine
end

section
/-! SUPPORT. Lane arithmetic, signs, maxima and minima of the V class (R99, R100), and the type faults of the class (R125). -/
namespace Sys2Proof.Machine

/-! ### Lane arithmetic -/

/-- The lanes of the instructions that R521 counts, VADD to VFMA. -/
theorem retiresLanes_counted {s : State} {u : Issue} {f : FmtV} {t : ElemType} {op : LaneOp} (clean : s.dev.Clean u)
    (ht : ElemType.ofCode f.et.toNat = some t) (vector : t.isVector = true) (sub : f.sub = 0) (d : isKind f.d .v = true) (a : isKind f.a .v = true)
    (b : (!op.usesB || isKind f.b .v) = true) (c : (!op.usesC || isKind f.c .v) = true) (sr : f.sr = true → t.isInt = false ∧ op.allowsSr = true) :
    let r := s.regsOf u
    let draws := drawLanes f.sr (lanesOn (r.getP f.pg.toNat) t.width) r.lfsr
    s.RetiresLanes u (regNum f.d) t.width (laneOn (r.getP f.pg.toNat) t.width)
      (fun j => laneArith op t f.satm (draws.1.getD j none) (laneOf t.width (r.getV (regNum f.a)) j) (laneOf t.width (r.getV (regNum f.b)) j)
        (laneOf t.width (r.getV (regNum f.c)) j)) draws.2 (s.issueV u (countedOp 0x0D (stochOf f) (vArith op f))) := by
  obtain ⟨l, ok, lanes, drawn⟩ := vArith_ok ht vector sub d a b c sr { s.regsOf u with flags := 0 }
  exact State.retiresLanesC_of clean ok lanes drawn

/-- The lanes of the others, which draw no bits. -/
theorem retiresLanes_plain {s : State} {u : Issue} {f : FmtV} {t : ElemType} {op : LaneOp} (clean : s.dev.Clean u)
    (ht : ElemType.ofCode f.et.toNat = some t) (vector : t.isVector = true) (sub : f.sub = 0) (sr : f.sr = false) (d : isKind f.d .v = true)
    (a : isKind f.a .v = true) (b : (!op.usesB || isKind f.b .v) = true) (c : (!op.usesC || isKind f.c .v) = true) :
    let r := s.regsOf u
    s.RetiresLanes u (regNum f.d) t.width (laneOn (r.getP f.pg.toNat) t.width)
      (fun j => laneArith op t f.satm ((drawLanes f.sr (lanesOn (r.getP f.pg.toNat) t.width) r.lfsr).1.getD j none)
        (laneOf t.width (r.getV (regNum f.a)) j) (laneOf t.width (r.getV (regNum f.b)) j) (laneOf t.width (r.getV (regNum f.c)) j))
      r.lfsr (s.issueV u (regOp (vArith op f))) := by
  obtain ⟨l, ok, lanes, drawn⟩ := vArith_ok ht vector sub d a b c (by rw [sr]; exact fun h => nomatch h) { s.regsOf u with flags := 0 }
  refine State.retiresLanes_of clean ok lanes (drawn.trans ?_)
  rw [sr]
  exact drawLanes_off _ _

theorem ElemType.intLo_nonpos (t : ElemType) : t.intLo ≤ 0 := by cases t <;> decide

/-- A lane result that the type holds is exact (R99). -/
theorem intLaneOpen_of_mem {t : ElemType} {v : Int} (lo : t.intLo ≤ v) (hi : v ≤ t.intHi) (code x : Nat) :
    intLaneOpen t code x v = (wrap t.width v, 0) :=
  if_neg (by omega)

/-! ### Type faults -/

/-- A V instruction whose operation fails faults, whether its rounded elements are counted or not. -/
theorem faultsV_of_error {s : State} {u : Issue} {op : Regs → Except SedunFault Regs} {x : SedunFault} (clean : s.dev.Clean u)
    (error : ∀ r, op r = .error x) : s.Faults u x (s.issueV u (regOp op)) ∧ ∀ code n, s.Faults u x (s.issueV u (countedOp code n op)) :=
  ⟨State.faults_of clean true (fun _ => by simp only [regOp, error]),
    fun _ _ => State.faults_of clean true (fun _ => by simp only [countedOp, regOp, error])⟩

/-- A V instruction judges its type code before all else. -/
theorem faultsV_of_reserved_type {s : State} {u : Issue} {f : FmtV} {op rest : Regs → Except SedunFault Regs} {bad : Bool} (clean : s.dev.Clean u)
    (reserved : 0xD ≤ f.et.toNat) (shape : ∀ r, op r = faultIf bad .reservedField (rest r)) (judged : etBad f.et = true → bad = true) :
    s.Faults u .reservedField (s.issueV u (regOp op)) ∧ ∀ code n, s.Faults u .reservedField (s.issueV u (countedOp code n op)) :=
  faultsV_of_error clean fun r => by rw [shape, judged (decide_eq_true reserved)]; rfl

theorem opVcvt_reserved_type {f : FmtV} (reserved : 0xD ≤ f.et.toNat) (r : Regs) : opVcvt f r = .error .reservedField := by
  have bad : etBad f.et = true := decide_eq_true reserved
  unfold opVcvt
  split
  · simp [faultIf, bad]
  · split
    · rfl
    · simp [faultIf, bad]

theorem vArith_type_error {op : LaneOp} {f : FmtV} {t : ElemType} (ht : ElemType.ofCode f.et.toNat = some t) (other : t.isVector = false)
    (sub : f.sub = 0) (d : isKind f.d .v = true) (a : isKind f.a .v = true) (b : isKind f.b .v = true) (c : isKind f.c .v = true) (r : Regs) :
    vArith op f r = .error .typeCombination := by
  simp [vArith, faultIf, etBad_of ht, vty_of ht, other, sub, d, a, b, c]

/-! ### The statements -/

/-- Settles O12: each instruction writes, by its rule, the lanes that PG governs. -/
theorem vectorArithmeticLanes : Obligations.VectorArithmeticLanes := by
  unfold Obligations.VectorArithmeticLanes
  intro s u f t clean ht vector sub d a b sr
  have lanes (op : LaneOp) (c : (!op.usesC || isKind f.c .v) = true) (rounds : op.allowsSr = true) :=
    retiresLanes_counted clean ht vector sub d a (op := op) (by rw [b, Bool.or_true]) c (fun h => ⟨sr h, rounds⟩)
  exact ⟨lanes .add rfl rfl, lanes .sub rfl rfl, lanes .mul rfl rfl, fun c => lanes .fma c rfl⟩

/-- Settles O13: each instruction writes, by its rule, the lanes that PG governs; the rule of a sign is exact where the type holds the value. -/
theorem vectorMinMaxSignLanes : Obligations.VectorMinMaxSignLanes := by
  unfold Obligations.VectorMinMaxSignLanes
  intro s u f t clean ht vector sub sr d a
  refine ⟨fun b => ⟨?max, ?min⟩, ⟨_, retiresLanes_plain (op := .abs) clean ht vector sub sr d a rfl rfl, ?absInt, ?absFloat⟩,
    ⟨_, retiresLanes_plain (op := .neg) clean ht vector sub sr d a rfl rfl, ?negInt, ?negFloat⟩⟩
  case max =>
    refine RetiresLanes.congr (retiresLanes_plain (op := .max) clean ht vector sub sr d a b rfl) (fun _ _ => rfl) fun j _ _ => ?_
    simp only [laneArith, ← not_lt, ite_not]
  case min =>
    refine RetiresLanes.congr (retiresLanes_plain (op := .min) clean ht vector sub sr d a b rfl) (fun _ _ => rfl) fun j _ _ => ?_
    simp only [laneArith, ← not_lt, ite_not]
  case absInt =>
    intro int j hi
    simp only [laneArith, int, if_true]
    exact intLaneOpen_of_mem (t.intLo_nonpos.trans (Int.natCast_nonneg _)) hi _ _
  case absFloat =>
    intro float j
    simp [laneArith, float]
  case negInt =>
    intro int j lo hi
    simp only [laneArith, int, if_true]
    exact intLaneOpen_of_mem lo hi _ _
  case negFloat =>
    intro float j
    simp [laneArith, float]

/-- Settles O17: a reserved type is met before anything else, and a type of no lane arithmetic once fields and kinds are in order. -/
theorem vectorTypeFaults : Obligations.VectorTypeFaults := by
  unfold Obligations.VectorTypeFaults
  intro s u f clean
  simp only [List.forall_mem_cons, List.not_mem_nil, false_implies, implies_true, and_true]
  have et {op rest : Regs → Except SedunFault Regs} {bad : Bool} (reserved : 0xD ≤ f.et.toNat)
      (shape : ∀ r, op r = faultIf bad .reservedField (rest r)) (judged : etBad f.et = true → bad = true := by simp +contextual) :=
    faultsV_of_reserved_type clean reserved shape judged
  constructor
  · exact ⟨fun h => (et (op := opVadd f) h fun _ => rfl).2 _ _, fun h => (et (op := opVsub f) h fun _ => rfl).2 _ _, fun h => (et (op := opVmul f) h fun _ => rfl).2 _ _,
      fun h => (et (op := opVfma f) h fun _ => rfl).2 _ _, fun h => (et (op := opVmax f) h fun _ => rfl).1, fun h => (et (op := opVmin f) h fun _ => rfl).1,
      fun h => (et (op := opVabs f) h fun _ => rfl).1, fun h => (et (op := opVneg f) h fun _ => rfl).1, fun h => (et (op := opVcmp f) h fun _ => rfl).1,
      fun h => (et (op := opVsel f) h fun _ => rfl).1, fun h => (et (op := opVlog f) h fun _ => rfl).1, fun h => (et (op := opVsh f) h fun _ => rfl).1,
      fun h => (faultsV_of_error clean (opVcvt_reserved_type h)).2 _ _, fun h => (et (op := opVrq f) h fun _ => rfl).1, fun h => (et (op := opVqmx f) h fun _ => rfl).2 _ _,
      fun h => (et (op := opVfn f) h fun _ => rfl).1, fun h => (et (op := opVred f) h fun _ => rfl).1, fun h => (et (op := opVbc f) h fun _ => rfl).1,
      fun h => (et (op := opVperm f) h fun _ => rfl).1, fun h => (et (op := opVmov f) h fun _ => rfl).1, fun h => (et (op := opVext f) h fun _ => rfl).1,
      fun h => (et (op := opVins f) h fun _ => rfl).1⟩
  · have ty (op : LaneOp) (t : ElemType) (ht : ElemType.ofCode f.et.toNat = some t) (other : t.isVector = false) (sub : f.sub = 0)
        (d : isKind f.d .v = true) (a : isKind f.a .v = true) (b : isKind f.b .v = true) (c : isKind f.c .v = true) :=
      faultsV_of_error clean (vArith_type_error (op := op) ht other sub d a b c)
    exact ⟨fun t ht other sub d a b c => (ty .add t ht other sub d a b c).2 _ _, fun t ht other sub d a b c => (ty .sub t ht other sub d a b c).2 _ _,
      fun t ht other sub d a b c => (ty .mul t ht other sub d a b c).2 _ _, fun t ht other sub d a b c => (ty .fma t ht other sub d a b c).2 _ _,
      fun t ht other sub d a b c => (ty .max t ht other sub d a b c).1, fun t ht other sub d a b c => (ty .min t ht other sub d a b c).1,
      fun t ht other sub d a b c => (ty .abs t ht other sub d a b c).1, fun t ht other sub d a b c => (ty .neg t ht other sub d a b c).1⟩

end Sys2Proof.Machine
end

section
/-! SUPPORT. Comparison, selection, logic, shifts, moves and reductions of the V class (R98–R100, R102). -/
namespace Sys2Proof.Machine

/-! ### VCMP -/

theorem zipWith_lanesOf {α : Type} (g : Nat → Nat → α) (w : Nat) (x y : BitVec 512) :
    List.zipWith g (lanesOf w x) (lanesOf w y) = (List.range (512 / w)).map (fun j => g (laneOf w x j) (laneOf w y j)) := by
  simp only [lanesOf, List.zipWith_map, List.zipWith_self]

/-- The lanes of the vector unit's types are whole bytes. -/
theorem ElemType.vector_width {t : ElemType} (vector : t.isVector = true) :
    0 < t.width / 8 ∧ t.width = 8 * (t.width / 8) ∧ 512 / t.width = 64 / (t.width / 8) ∧ 64 / (t.width / 8) * (t.width / 8) = 64 := by
  revert vector
  cases t <;> decide

/-- Every byte bit of a lane shows the lane's result. -/
theorem getLsbD_predOf {t : ElemType} (vector : t.isVector = true) (g : Nat → Bool) {i : Nat} (hi : i < 64) :
    (predOf t.width ((List.range (512 / t.width)).map g)).getLsbD i = g (8 * i / t.width) := by
  obtain ⟨pos, wide, lanes, whole⟩ := t.vector_width vector
  have inside : i / (t.width / 8) < 512 / t.width := by
    rw [lanes]
    exact Nat.div_lt_of_lt_mul (by rwa [Nat.mul_comm, whole])
  simp only [predOf, BitVec.getLsbD_ofNat, hi, decide_true, Bool.true_and]
  rw [packNat_testBit pos, getD_map_range g inside]
  congr 1
  conv_rhs => rw [wide, Nat.mul_div_mul_left _ _ (by decide)]

theorem Flags.all_map_getLsbD (n : Nat) (g : Nat → Flags) (b : Nat) :
    (Flags.all ((List.range n).map g)).getLsbD b = (List.range n).any (fun j => (g j).getLsbD b) := by
  rw [Flags.all_getLsbD, List.any_map]
  rfl

theorem retiresV_setP_raise {s : State} {u : Issue} {op : Regs → Except SedunFault Regs} {n : Nat} {x : W64} {fl : Flags} (clean : s.dev.Clean u)
    (ok : op { s.regsOf u with flags := 0 } = .ok ((({ s.regsOf u with flags := 0 } : Regs).setP n x).raise fl)) :
    s.Retires u (((s.regsOf u).setP n x).raise fl) (s.issueV u (regOp op)) := by
  have retires := State.issueV_regOp clean ok
  have sticky : ({ (({ s.regsOf u with flags := 0 } : Regs).setP n x).raise fl with
      flags := (s.regsOf u).flags ||| ((({ s.regsOf u with flags := 0 } : Regs).setP n x).raise fl).flags } : Regs) =
      ((s.regsOf u).setP n x).raise fl := by
    unfold Regs.setP Regs.raise
    split <;> simp
  rwa [sticky] at retires

theorem opVcmp_ok {f : FmtV} {t : ElemType} (ht : ElemType.ofCode f.et.toNat = some t) (vector : t.isVector = true) (sr : f.sr = false)
    (d : isKind f.d .p = true) (a : isKind f.a .v = true) (b : isKind f.b .v = true) (sub : f.sub.toNat ≤ 5) (unsigned : 4 ≤ f.sub.toNat → t.isInt = true)
    (r : Regs) :
    let cmp (j : Nat) := laneCmp f.sub.toNat t (laneOf t.width (r.getV (regNum f.a)) j) (laneOf t.width (r.getV (regNum f.b)) j)
    opVcmp f r = .ok ((r.setP (regNum f.d) (predOf t.width ((List.range (512 / t.width)).map (fun j => (cmp j).1)))).raise
      (Flags.all ((List.range (512 / t.width)).map (fun j => (cmp j).2)))) := by
  have typed : (decide (4 ≤ f.sub.toNat) && !t.isInt) = false := by
    cases int : t.isInt
    · have signed : f.sub.toNat < 4 := Nat.not_le.mp fun h => by rw [unsigned h] at int; cases int
      simpa using signed
    · simp
  simp [opVcmp, faultIf, etBad_of ht, vty_of ht, vector, sr, d, a, b, Nat.not_lt.mpr sub, typed, zipWith_lanesOf, List.map_map, Function.comp_def]

/-! ### VSEL -/

theorem mergeLanes_sel_lanes (r : Regs) (d : BitVec 8) (t : ElemType) (on : Nat → Bool) (x y : BitVec 512) :
    r.LanesWritten (regNum d) t.width (fun _ => true) (fun j => (if on j then laneOf t.width x j else laneOf t.width y j, 0))
      (r.setV (regNum d) (packLanes t.width (mergeLanes (lanesOf t.width y)
        (List.zipWith (fun o (x : Nat) => if o then some x else none) ((List.range (512 / t.width)).map on) (lanesOf t.width x))))) where
  lanes := by
    intro j hj
    have news : List.zipWith (fun o (x : Nat) => if o then some x else none) ((List.range (512 / t.width)).map on) (lanesOf t.width x) =
        (List.range (512 / t.width)).map (fun j => if on j then some (laneOf t.width x j) else none) := by
      simp only [lanesOf, List.zipWith_map, List.zipWith_self]
    have written : ∀ z, (r.setV (regNum d) z).getV (regNum d) = z := fun z => FMap.get_set_self _ _ _ _
    rw [written, laneOf_packLanes (by simp [t.width_ok]), getD_mergeLanes _ _ _ (by simpa using hj), getD_lanesOf _ hj, news, getD_map_range _ hj]
    cases on j <;> rfl
  scales := FMap.get_set_self 0 r.side (regNum d) sideOne
  flags := by simp [Regs.setV]
  others := fun n h => ⟨FMap.get_set_ne _ _ _ h, FMap.get_set_ne 0 r.side sideOne h⟩
  rest := rfl

theorem opVsel_ok {f : FmtV} {t : ElemType} (ht : ElemType.ofCode f.et.toNat = some t) (sub : f.sub = 0) (sr : f.sr = false)
    (d : isKind f.d .v = true) (a : isKind f.a .v = true) (b : isKind f.b .v = true) (r : Regs) :
    ∃ l, opVsel f r = .ok l ∧ r.LanesWritten (regNum f.d) t.width (fun _ => true)
      (fun j => (if laneOn (r.getP f.pg.toNat) t.width j then laneOf t.width (r.getV (regNum f.a)) j else laneOf t.width (r.getV (regNum f.b)) j, 0)) l ∧
      l.lfsr = r.lfsr := by
  refine ⟨_, ?_, mergeLanes_sel_lanes r f.d t (laneOn (r.getP f.pg.toNat) t.width) _ _, rfl⟩
  simp [opVsel, faultIf, etBad_of ht, vty_of ht, sub, sr, d, a, b, lanesOn, Regs.pg]

/-! ### Moves, logic and shifts -/

/-- A lane move whose lanes are known. -/
theorem retiresLanes_move {s : State} {u : Issue} {f : FmtV} {t : ElemType} {subOk useB kindA tyOk : Bool} {g : Nat → Nat → List Nat} {x : Nat → Nat}
    (clean : s.dev.Clean u) (ht : ElemType.ofCode f.et.toNat = some t) (sr : f.sr = false) (d : isKind f.d .v = true) (sub : subOk = true)
    (a : kindA = true) (b : (!useB || isKind f.b .v) = true) (ty : tyOk = true) (op : Regs → Except SedunFault Regs)
    (shape : op { s.regsOf u with flags := 0 } = vMove subOk useB kindA tyOk g f { s.regsOf u with flags := 0 })
    (len : (g t.width (512 / t.width)).length = 512 / t.width)
    (lane : ∀ j, j < 512 / t.width → (g t.width (512 / t.width)).getD j 0 % 2 ^ t.width = x j % 2 ^ t.width) :
    s.RetiresLanes u (regNum f.d) t.width (laneOn ((s.regsOf u).getP f.pg.toNat) t.width) (fun j => (x j, 0)) (s.regsOf u).lfsr (s.issueV u (regOp op)) :=
  move_retires clean ⟨subOk, useB, kindA, tyOk, g, shape, sub, a, b, ty, len, lane⟩ ht d sr

/-- VLOG whose result is known lane by lane for its SUB. -/
theorem retiresLanes_vlog {s : State} {u : Issue} {f : FmtV} {t : ElemType} {n : BitVec 4} {x : Nat → Nat} (clean : s.dev.Clean u)
    (ht : ElemType.ofCode f.et.toNat = some t) (sr : f.sr = false) (d : isKind f.d .v = true) (a : isKind f.a .v = true) (sub : f.sub = n)
    (defined : n.toNat ≤ 3) (b : isKind f.b .v = true ∨ n = 3)
    (lane : ∀ j, j < 512 / t.width → laneOf t.width (logOp n.toNat ((s.regsOf u).getV (regNum f.a)) ((s.regsOf u).getV (regNum f.b))) j = x j) :
    s.RetiresLanes u (regNum f.d) t.width (laneOn ((s.regsOf u).getP f.pg.toNat) t.width) (fun j => (x j, 0)) (s.regsOf u).lfsr (exec (.vlog u f) s) := by
  subst sub
  refine retiresLanes_move clean ht sr d (decide_eq_true defined) a (by rcases b with b | b <;> simp [b]) rfl (opVlog f) rfl (length_lanesOf _ _) fun j hj => ?_
  rw [getD_lanesOf _ hj, ← lane j hj]
  rfl

theorem laneShift_left (w x n : Nat) : laneShift 0 w x n = x * 2 ^ (n % w) % 2 ^ w := by simp only [laneShift, Nat.shiftLeft_eq]
theorem laneShift_right (w x n : Nat) : laneShift 1 w x n = x / 2 ^ (n % w) := by simp only [laneShift, Nat.shiftRight_eq_div_pow]

/-- VSH whose result is known lane by lane for its SUB. -/
theorem retiresLanes_vsh {s : State} {u : Issue} {f : FmtV} {t : ElemType} {n : BitVec 4} {x : Nat → Nat} (clean : s.dev.Clean u)
    (ht : ElemType.ofCode f.et.toNat = some t) (sr : f.sr = false) (d : isKind f.d .v = true) (a : isKind f.a .v = true)
    (ty : t = .i8 ∨ t = .u8 ∨ t = .i32) (b : f.b = 0xFF ∨ isKind f.b .v = true) (sub : f.sub = n) (defined : n.toNat ≤ 2)
    (lane : ∀ j, laneShift n.toNat t.width (laneOf t.width ((s.regsOf u).getV (regNum f.a)) j)
      (if f.b = 0xFF then f.imm.toNat else laneOf t.width ((s.regsOf u).getV (regNum f.b)) j) = x j) :
    s.RetiresLanes u (regNum f.d) t.width (laneOn ((s.regsOf u).getP f.pg.toNat) t.width) (fun j => (x j, 0)) (s.regsOf u).lfsr (exec (.vsh u f) s) := by
  subst sub
  refine retiresLanes_move clean ht sr d (decide_eq_true defined) a (by rcases b with b | b <;> simp [b])
    (by rw [vty_of ht]; rcases ty with rfl | rfl | rfl <;> rfl) (opVsh f) rfl (by simp) fun j hj => ?_
  rw [getD_map_range _ hj, ← lane j]
  rfl

/-! ### The statement -/

/-- Settles O14: the comparison of every lane shows at its byte bits; selection writes every lane, logic and shifts those that PG governs. -/
theorem vectorCompareSelectShift : Obligations.VectorCompareSelectShift := by
  unfold Obligations.VectorCompareSelectShift
  intro s u f t clean ht sr a
  refine ⟨fun vector d b sub unsigned => ⟨_, _, fun i hi => getLsbD_predOf vector _ hi, fun k => Flags.all_map_getLsbD _ _ k,
      retiresV_setP_raise clean (opVcmp_ok ht vector sr d a b sub unsigned _)⟩, fun sub d b => ?select, fun d b => ?logic,
    fun d sub => retiresLanes_vlog clean ht sr d a sub (by decide) (.inr rfl) fun j hj => laneOf_not t.width_ok _ hj, fun d ty b => ?shift⟩
  case select =>
    obtain ⟨l, ok, lanes, drawn⟩ := opVsel_ok ht sub sr d a b { s.regsOf u with flags := 0 }
    exact State.retiresLanes_of clean ok lanes drawn
  case logic =>
    exact ⟨fun sub => retiresLanes_vlog clean ht sr d a sub (by decide) (.inl b) fun j _ => laneOf_and _ _ _ j,
      fun sub => retiresLanes_vlog clean ht sr d a sub (by decide) (.inl b) fun j _ => laneOf_or _ _ _ j,
      fun sub => retiresLanes_vlog clean ht sr d a sub (by decide) (.inl b) fun j _ => laneOf_xor _ _ _ j⟩
  case shift =>
    exact ⟨fun sub => retiresLanes_vsh clean ht sr d a ty b sub (by decide) fun j => laneShift_left _ _ _,
      fun sub => retiresLanes_vsh clean ht sr d a ty b sub (by decide) fun j => laneShift_right _ _ _,
      fun sub => retiresLanes_vsh clean ht sr d a ty b sub (by decide) fun j => rfl⟩

end Sys2Proof.Machine
end

section
/-! SUPPORT. Broadcasts, permutations, single lanes and reductions of the V class (R99, R102). -/
namespace Sys2Proof.Machine

/-! ### Single lanes -/

theorem opVins_ok {f : FmtV} {t : ElemType} (ht : ElemType.ofCode f.et.toNat = some t) (sub : f.sub = 0) (sr : f.sr = false)
    (d : isKind f.d .v = true) (a : isSA f.a = true) (lane : f.imm.toNat < 512 / t.width) (r : Regs) :
    ∃ l, opVins f r = .ok l ∧ r.LanesWritten (regNum f.d) t.width (fun j => j == f.imm.toNat && laneOn (r.getP f.pg.toNat) t.width j)
      (fun _ => ((r.readSA f.a).toNat % 2 ^ t.width, 0)) l ∧ l.lfsr = r.lfsr := by
  refine ⟨_, ?_, writeLanes_rule r f.d t.width_ok _ _ r.lfsr, writeLanes_lfsr _ _ _ _ _⟩
  simp [opVins, faultIf, etBad_of ht, vty_of ht, sub, sr, d, a, Nat.not_le.mpr lane, Regs.pg]

theorem opVext_ok {f : FmtV} {t : ElemType} (ht : ElemType.ofCode f.et.toNat = some t) (sub : f.sub = 0) (sr : f.sr = false)
    (d : isSA f.d = true) (a : isKind f.a .v = true) (lane : f.imm.toNat < 512 / t.width) (r : Regs) :
    opVext f r = .ok (r.writeSA f.d (BitVec.ofInt 64 (sext t.width (laneOf t.width (r.getV (regNum f.a)) f.imm.toNat)))) := by
  simp [opVext, faultIf, etBad_of ht, vty_of ht, sub, sr, d, a, Nat.not_le.mpr lane]

/-- Lanes that get the same number modulo the lane width get the same value. -/
theorem RetiresLanes.of_mod {s : State} {u : Issue} {d w : Nat} {on : Nat → Bool} {x : Nat → Nat} {g : W64} {o : Result}
    (h : s.RetiresLanes u d w on (fun j => (x j % 2 ^ w, 0)) g o) : s.RetiresLanes u d w on (fun j => (x j, 0)) g o := by
  obtain ⟨t, l, drawn, retires⟩ := h
  exact ⟨t, ⟨fun j hj => by simpa using l.lanes j hj, l.scales, l.flags, l.others, l.rest⟩, drawn, retires⟩

/-! ### Reductions (R102) -/

/-- The lanes of the vector unit's types are a power of two. -/
theorem ElemType.lanes_pow {t : ElemType} (vector : t.isVector = true) : 512 / t.width = 2 ^ Nat.log2 (512 / t.width) := by
  revert vector
  cases t <;> decide

theorem opVred_int {f : FmtV} {t : ElemType} (ht : ElemType.ofCode f.et.toNat = some t) (vector : t.isVector = true) (int : t.isInt = true)
    (sr : f.sr = false) (d : isSA f.d = true) (a : isKind f.a .v = true) (sub : f.sub.toNat ≤ 2) (r : Regs) :
    opVred f r = .ok (r.writeSA f.d (BitVec.ofInt 64 ((treeReduce (redInt f.sub.toNat) (Nat.log2 (512 / t.width))
      ((List.range (512 / t.width)).map (fun j => t.int (laneOf t.width (r.getV (regNum f.a)) j)))).headD 0))) := by
  simp [opVred, faultIf, etBad_of ht, vty_of ht, vector, int, sr, d, a, Nat.not_lt.mpr sub, lanesOf, List.map_map, Function.comp_def]

theorem opVred_float {f : FmtV} {t : ElemType} (ht : ElemType.ofCode f.et.toNat = some t) (vector : t.isVector = true) (float : t.isInt = false)
    (sr : f.sr = false) (d : isSA f.d = true) (a : isKind f.a .v = true) (sub : f.sub.toNat ≤ 2) (r : Regs) :
    let z := (treeReduce (redFloat t.fmt f.sub.toNat) (Nat.log2 (512 / t.width))
      ((List.range (512 / t.width)).map (fun j => (laneOf t.width (r.getV (regNum f.a)) j, (0 : Flags))))).headD (0, 0)
    let c := f32.encode .plain none (t.fmt.decode z.1)
    opVred f r = .ok ((r.writeSA f.d (BitVec.ofNat 64 c.1)).raise (z.2 ||| c.2)) := by
  simp [opVred, faultIf, etBad_of ht, vty_of ht, vector, float, sr, d, a, Nat.not_lt.mpr sub, lanesOf, List.map_map, Function.comp_def, Regs.writeNat]

/-- The tree of integer maxima, and of minima, picks a bound from among its leaves. -/
theorem treeReduce_max_mem_and_bound {k : Nat} {xs : List Int} (h : xs.length = 2 ^ k) :
    (treeReduce (redInt 1) k xs).headD 0 ∈ xs ∧ ∀ x ∈ xs, x ≤ (treeReduce (redInt 1) k xs).headD 0 :=
  tree_pick (· ≤ ·) (fun _ _ _ => le_trans) le_refl (fun a b => by simp only [redInt]; split <;> omega) k xs h

theorem treeReduce_min_mem_and_bound {k : Nat} {xs : List Int} (h : xs.length = 2 ^ k) :
    (treeReduce (redInt 2) k xs).headD 0 ∈ xs ∧ ∀ x ∈ xs, (treeReduce (redInt 2) k xs).headD 0 ≤ x :=
  tree_pick (· ≥ ·) (fun _ _ _ h h' => le_trans h' h) le_refl (fun a b => by simp only [redInt]; split <;> omega) k xs h

/-- VRED of integer lanes whose SUB is known. -/
theorem retires_vred_int {s : State} {u : Issue} {f : FmtV} {t : ElemType} {n : BitVec 4} {v : Int} (clean : s.dev.Clean u)
    (ht : ElemType.ofCode f.et.toNat = some t) (vector : t.isVector = true) (int : t.isInt = true)
    (sr : f.sr = false) (d : isSA f.d = true) (a : isKind f.a .v = true) (sub : f.sub = n) (defined : n.toNat ≤ 2)
    (value : (treeReduce (redInt n.toNat) (Nat.log2 (512 / t.width))
      ((List.range (512 / t.width)).map (fun j => t.int (laneOf t.width ((s.regsOf u).getV (regNum f.a)) j)))).headD 0 = v) :
    s.Retires u ((s.regsOf u).writeSA f.d (BitVec.ofInt 64 v)) (exec (.vred u f) s) := by
  subst sub value
  exact retiresV_set clean (opVred_int ht vector int sr d a defined _)

/-! ### The statement -/

/-- Settles O15: the moves differ in what a lane gets; a reduction is the tree's value, which is the sum, or a bound among the lanes. -/
theorem vectorMovesAndReductions : Obligations.VectorMovesAndReductions := by
  unfold Obligations.VectorMovesAndReductions
  intro s u f t clean ht sr
  refine ⟨fun sub d a => ?vbc, fun sub d a b => ?vperm, fun sub d a => ?vmov, fun sub d a lane => ?vins,
    fun sub d a lane => retiresV_set clean (opVext_ok ht sub sr d a lane _), fun vector int d a => ?vredInt,
    fun vector float d a sub => retiresV_raise clean (opVred_float ht vector float sr d a sub _)⟩
  case vbc =>
    refine retiresLanes_move clean ht sr d (by rw [sub]; rfl) a rfl rfl (opVbc f) rfl (by simp) fun j hj => ?_
    exact (congrArg (· % 2 ^ t.width) (List.getD_replicate _ hj)).trans (Nat.mod_mod _ _)
  case vperm =>
    refine retiresLanes_move clean ht sr d (by rw [sub]; rfl) a (by rw [b, Bool.or_true]) rfl (opVperm f) rfl (by simp) fun j hj => ?_
    rw [getD_map_range _ hj]
    rfl
  case vmov =>
    refine retiresLanes_move clean ht sr d (by rw [sub]; rfl) a rfl rfl (opVmov f) rfl (length_lanesOf _ _) fun j hj => ?_
    rw [getD_lanesOf _ hj]
    rfl
  case vins =>
    obtain ⟨l, ok, lanes, drawn⟩ := opVins_ok ht sub sr d a lane { s.regsOf u with flags := 0 }
    exact RetiresLanes.of_mod (State.retiresLanes_of clean ok lanes drawn)
  case vredInt =>
    have tree := t.lanes_pow vector
    have len : ((List.range (512 / t.width)).map (fun j => t.int (laneOf t.width ((s.regsOf u).getV (regNum f.a)) j))).length = 2 ^ Nat.log2 (512 / t.width) := by
      simpa using tree
    have high := treeReduce_max_mem_and_bound len
    have low := treeReduce_min_mem_and_bound len
    exact ⟨fun sub => retires_vred_int clean ht vector int sr d a sub (by decide) (tree_sum _ _ len),
      fun sub => ⟨_, high.1, high.2, retires_vred_int clean ht vector int sr d a sub (by decide) rfl⟩,
      fun sub => ⟨_, low.1, low.2, retires_vred_int clean ht vector int sr d a sub (by decide) rfl⟩⟩

end Sys2Proof.Machine
end

section
/-! SUPPORT. Loads from the local store (R104, R105): what each writes to the registers. -/
namespace Sys2Proof.Machine

/-! ### LD -/

theorem ldDone_eq {f : FmtX} (sub : f.sub.toNat < 8) (bs : List Byte) (r : Regs) :
    ldDone f bs r = r.writeSA f.d (if f.sub.toNat < 4 then BitVec.ofNat 64 (leNat bs) else BitVec.ofInt 64 (sext (8 * accSize f.sub) (leNat bs))) := by
  unfold ldDone Regs.writeNat
  rcases Nat.lt_or_ge f.sub.toNat 4 with h | h
  · rw [if_neg (by omega), if_pos h]
  · rw [if_pos (by omega), if_neg (by omega)]

theorem ldCheck_ok {f : FmtX} {r : Regs} {a : Nat} (et : f.et.toNat < 0xD) (sub : f.sub.toNat < 8) (base : isKind f.base .a = true) (d : isSA f.d = true)
    (addr : (a : Int) = (r.getA (regNum f.base)).toNat + f.off.toInt) (inside : a + accSize f.sub ≤ 0x40000) (aligned : a % accSize f.sub = 0) :
    ldCheck f r = .ok a :=
  lsCheck_ok et base (decide_eq_false (by omega)) (by rw [d]; rfl) addr inside aligned

/-! ### Register pairs -/

theorem sub_eq_of_lt_two {x : BitVec 5} (h : x.toNat < 2) : x = 0 ∨ x = 1 := by
  have cases : x.toNat = 0 ∨ x.toNat = 1 := by omega
  exact cases.imp BitVec.eq_of_toNat_eq BitVec.eq_of_toNat_eq

/-- A read for a pair of registers falls into the reads for each. -/
theorem take_lsRead_pair (k : Core) (a n : Nat) (pair : Bool) : (k.lsRead a (if pair then 2 * n else n)).take n = k.lsRead a n :=
  take_lsRead k a (by cases pair <;> simp; omega)

theorem drop_lsRead_pair (k : Core) (a n : Nat) : (k.lsRead a (2 * n)).drop n = k.lsRead (a + n) n := drop_lsRead k a n n (by omega)

/-! ### VLD -/

/-- What VLD leaves when it reads at `a`: one register, or the pair. -/
def vldRegs (f : FmtX) (k : Core) (a : Nat) : Regs :=
  let r1 := k.regs.setV (regNum f.d) (vldVec f (k.lsRead a (vldUnit f)))
  if vldPair f then r1.setV (regNum f.d + 1) (vldVec f (k.lsRead (a + vldUnit f) (vldUnit f))) else r1

theorem vldDone_lsRead (f : FmtX) (k : Core) (a : Nat) : vldDone f (k.lsRead a (vldLen f)) k.regs = vldRegs f k a := by
  unfold vldDone vldRegs vldLen
  rw [take_lsRead_pair]
  cases vldPair f
  · rfl
  · simp only [if_true, drop_lsRead_pair]

theorem vld_issues {s : State} {u : Issue} {f : FmtX} {a n : Nat} (clean : s.dev.Clean u) (et : f.et.toNat < 0xD) (base : isKind f.base .a = true)
    (addr : (a : Int) = ((s.regsOf u).getA (regNum f.base)).toNat + f.off.toInt) (sub : f.sub.toNat < 4) (d : isKind f.d .v = true)
    (pair : vldPair f = true → isPair f.d = true) (len : vldLen f = n) (inside : a + n ≤ 0x40000) (aligned : a % 64 = 0) (quiet : (s.coreOf u).quiet a n) :
    s.Issues u ((s.coreOf u).retired (vldRegs f (s.coreOf u) a)) (exec (.vld u f) s) := by
  subst len
  rw [← vldDone_lsRead]
  have kinds : (!(isKind f.d .v) || (vldPair f && !isPair f.d)) = false := by
    cases h : vldPair f
    · simp [d]
    · simp [d, pair h]
  exact load_issues clean (lsCheck_ok et base (decide_eq_false (by omega)) kinds addr inside aligned) quiet

theorem vldRegs_whole {f : FmtX} (sub : f.sub.toNat < 2) (k : Core) (a : Nat) :
    vldRegs f k a =
      let r1 := k.regs.setV (regNum f.d) (BitVec.ofNat 512 (leNat (k.lsRead a 64)))
      if f.sub = 1 then r1.setV (regNum f.d + 1) (BitVec.ofNat 512 (leNat (k.lsRead (a + 64) 64))) else r1 := by
  rcases sub_eq_of_lt_two sub with sub | sub <;> simp [vldRegs, vldPair, vldUnit, vldVec, bytesVec, sub]

theorem sext_mod (w x : Nat) : sext w (x % 2 ^ w) = sext w x := by simp only [sext, Nat.mod_mod]

theorem vldVec_int4 {f : FmtX} (unit : vldUnit f = 32) {bs : List Byte} (len : bs.length = 32) :
    vldVec f bs = packLanes 8 ((List.range 64).map (fun j => wrap 8 (sext 4 (leNat bs >>> (4 * j))))) := by
  simp only [vldVec, unit, if_true, unpackI4, len, ← sext_mod 4 (leNat bs >>> _)]
  rfl

theorem length_lsRead (k : Core) (a n : Nat) : (k.lsRead a n).length = n := by simp [Core.lsRead]

theorem vldRegs_int4 {f : FmtX} (sub : f.sub = 2 ∨ f.sub = 3) (k : Core) (a : Nat) :
    let i4 (b : Nat) := packLanes 8 ((List.range 64).map (fun j => wrap 8 (sext 4 (leNat (k.lsRead b 32) >>> (4 * j)))))
    vldRegs f k a =
      let r1 := k.regs.setV (regNum f.d) (i4 a)
      if f.sub = 3 then r1.setV (regNum f.d + 1) (i4 (a + 32)) else r1 := by
  have unit : vldUnit f = 32 := by rcases sub with sub | sub <;> simp [vldUnit, sub]
  have pair : vldPair f = decide (f.sub = 3) := by rcases sub with sub | sub <;> simp [vldPair, sub]
  simp only [vldRegs, unit, pair, vldVec_int4 unit (length_lsRead _ _ _), decide_eq_true_eq]

/-! ### MXL -/

/-- What MXL leaves when it reads elements at `a` and scales at `sa`. -/
def mxlRegs (f : FmtX) (k : Core) (a sa : Nat) : Regs :=
  let sc : BitVec 128 := BitVec.ofNat 128 (leNat (k.lsRead sa 16))
  let r1 := k.regs.setVMx (regNum f.d) (mxVec f (k.lsRead a (mxUnit f))) sc
  if mxPair f then r1.setVMx (regNum f.d + 1) (mxVec f (k.lsRead (a + mxUnit f) (mxUnit f))) sc else r1

theorem mxlDone_lsRead (f : FmtX) (k : Core) (a sa : Nat) : mxlDone f (k.lsRead a (mxLen f)) (k.lsRead sa 16) k.regs = mxlRegs f k a sa := by
  unfold mxlDone mxlRegs mxLen
  rw [take_lsRead_pair]
  cases mxPair f
  · rfl
  · simp only [if_true, drop_lsRead_pair]

theorem lsOut_eq_false {a : Int} {n : Nat} (lo : 0 ≤ a) (hi : a + n ≤ 0x40000) : lsOut a n = false :=
  Bool.or_eq_false_iff.mpr ⟨decide_eq_false (by omega), decide_eq_false (by unfold lsSize; omega)⟩

theorem mxlCheck_ok {f : FmtX} {t : ElemType} {r : Regs} {a sa : Nat} (ht : ElemType.ofCode f.et.toNat = some t) (mx : t.isMx = true)
    (sub : f.sub.toNat < 2) (d : isKind f.d .v = true) (pair : f.sub = 1 → isPair f.d = true) (base : isKind f.base .a = true) (idx : isKind f.idx .a = true)
    (addr : (a : Int) = (r.getA (regNum f.base)).toNat + f.off.toInt) (scales : sa = (r.getA (regNum f.idx)).toNat)
    (inside : a + mxLen f ≤ 0x40000) (scalesInside : sa + 16 ≤ 0x40000) (aligned : a % 64 = 0) (scalesAligned : sa % 16 = 0) :
    mxlCheck f r = .ok (a, sa) := by
  have place : lsAddr f r = (a : Int) := addr.symm
  have ty : mxTy f = t := by simp [mxTy, ht]
  have kinds : (mxPair f && !isPair f.d) = false := by
    rcases sub_eq_of_lt_two sub with h | h
    · simp [mxPair, h]
    · simp [pair h]
  have elems : lsOut (a : Int) (mxLen f) = false := lsOut_eq_false (by omega) (by omega)
  have scalesRead : lsOut (sa : Int) 16 = false := lsOut_eq_false (by omega) (by omega)
  simp [mxlCheck, faultIf, etBad_of ht, ty, mx, Nat.not_le.mpr sub, d, kinds, base, idx, place, ← scales, elems, scalesRead, aligned, scalesAligned]

theorem isFp6_iff {t : ElemType} : isFp6 t = true ↔ t = .e3m2 ∨ t = .e2m3 := by simp [isFp6]

theorem mxLen_eq {f : FmtX} (sub : f.sub.toNat < 2) : mxLen f = mxUnit f * (f.sub.toNat + 1) := by
  rcases sub_eq_of_lt_two sub with h | h <;> simp [mxLen, mxPair, h, Nat.mul_comm]

theorem mxUnit_eq {f : FmtX} {t : ElemType} (ht : ElemType.ofCode f.et.toNat = some t) : mxUnit f = if t = .e3m2 ∨ t = .e2m3 then 48 else 64 := by
  simp only [mxUnit, mxTy, ht, Option.getD_some, isFp6_iff]

theorem mxVec_lsRead (f : FmtX) (k : Core) (a : Nat) :
    mxVec f (k.lsRead a (mxUnit f)) = if mxUnit f = 48 then packLanes 8 ((List.range 64).map (fun j => (leNat (k.lsRead a 48) >>> (6 * j)) % 64))
      else BitVec.ofNat 512 (leNat (k.lsRead a 64)) := by
  unfold mxVec mxUnit
  cases isFp6 (mxTy f)
  · rfl
  · simp [unpack6, length_lsRead]

theorem mxlRegs_eq {f : FmtX} (sub : f.sub.toNat < 2) (k : Core) (a sa n : Nat) (unit : n = mxUnit f) :
    let v (b : Nat) : BitVec 512 := if n = 48 then packLanes 8 ((List.range 64).map (fun j => (leNat (k.lsRead b 48) >>> (6 * j)) % 64))
      else BitVec.ofNat 512 (leNat (k.lsRead b 64))
    let sc : BitVec 128 := BitVec.ofNat 128 (leNat (k.lsRead sa 16))
    mxlRegs f k a sa =
      let r1 := k.regs.setVMx (regNum f.d) (v a) sc
      if f.sub = 1 then r1.setVMx (regNum f.d + 1) (v (a + n)) sc else r1 := by
  have pair : mxPair f = decide (f.sub = 1) := by rcases sub_eq_of_lt_two sub with h | h <;> simp [mxPair, h]
  subst unit
  simp only [mxlRegs, mxVec_lsRead, pair, decide_eq_true_eq]

theorem mxl_issues {s : State} {u : Issue} {f : FmtX} {a sa : Nat} (clean : s.dev.Clean u) (check : mxlCheck f (s.regsOf u) = .ok (a, sa))
    (quiet : (s.coreOf u).quiet a (mxLen f)) (scales : (s.coreOf u).quiet sa 16) :
    s.Issues u ((s.coreOf u).retired (mxlRegs f (s.coreOf u) a sa)) (exec (.mxl u f) s) := by
  rw [← mxlDone_lsRead]
  exact State.issues_of clean false (op := mxlOp f) _ fun ga =>
    ⟨_, _, mxlOp_ok (d := { s.dev with out := [], gau := ga }) clean.points check quiet scales, Dev.putCore_quiet clean _ ga⟩

/-! ### The statement -/

/-- Settles O20: a load whose checks pass, of lines that no pending DMA read writes, changes the registers by what it reads. -/
theorem localStoreLoads : Obligations.LocalStoreLoads := by
  unfold Obligations.LocalStoreLoads
  intro s u f a clean et base addr
  refine ⟨fun n size sub d inside aligned quiet => ?ld, fun sub d pair inside aligned quiet => ?vld, fun sub d pair inside aligned quiet => ?int4,
    fun t ht mx sub d pair idx inside scalesInside aligned scalesAligned quiet scales => ?mxl⟩
  case ld =>
    subst size
    have issues := load_issues (fn := ldDone f) clean (ldCheck_ok et sub base d addr inside aligned) quiet
    rw [ldDone_eq sub] at issues
    exact issues
  case vld =>
    have pairs : vldPair f = true → isPair f.d = true := by
      rcases sub_eq_of_lt_two sub with h | h
      · simp [vldPair, h]
      · exact fun _ => pair h
    have len : vldLen f = 64 * (f.sub.toNat + 1) := by rcases sub_eq_of_lt_two sub with h | h <;> simp [vldLen, vldPair, vldUnit, h]
    have issues := vld_issues clean et base addr (by omega) d pairs len inside aligned quiet
    rw [vldRegs_whole sub] at issues
    exact issues
  case int4 =>
    have small : f.sub.toNat < 4 := by rcases sub with h | h <;> rw [h] <;> decide
    have pairs : vldPair f = true → isPair f.d = true := by
      rcases sub with h | h
      · simp [vldPair, h]
      · exact fun _ => pair h
    have len : vldLen f = 32 * (f.sub.toNat - 1) := by rcases sub with h | h <;> simp [vldLen, vldPair, vldUnit, h]
    have issues := vld_issues clean et base addr small d pairs len inside aligned quiet
    rw [vldRegs_int4 sub] at issues
    exact issues
  case mxl =>
    have unit := mxUnit_eq ht
    rw [← unit, ← mxLen_eq sub] at inside quiet
    have issues := mxl_issues clean (mxlCheck_ok ht mx sub d pair base idx addr rfl inside scalesInside aligned scalesAligned) quiet scales
    rw [mxlRegs_eq sub _ _ _ _ unit.symm] at issues
    exact issues

end Sys2Proof.Machine
end

section
/-! SUPPORT. Stores to the local store (R104, R119), and the faults of its accesses (R125). -/
namespace Sys2Proof.Machine

/-! ### Stores -/

/-- A byte of a predicated store: the vector's where the predicate governs it, else the one that stands there. -/
theorem getD_vstMerge_lsRead (p : W64) (v : BitVec 512) (k : Core) (b : Nat) {i : Nat} (hi : i < 64) :
    (vstMerge p v (k.lsRead b 64)).getD i 0 = if p.getLsbD i then BitVec.ofNat 8 (laneOf 8 v i) else (k.lsRead (b + i) 1).getD 0 0 := by
  rw [vstMerge_get _ _ _ (length_lsRead _ _ _) _ hi, lsRead_getD _ _ _ _ hi]

theorem length_vstMerge_lsRead (p : W64) (v : BitVec 512) (k : Core) (b : Nat) : (vstMerge p v (k.lsRead b 64)).length = 64 :=
  vstMerge_len _ _ _ (length_lsRead _ _ _)

theorem vstBytes_one {f : FmtX} (one : vstPair f = false) (k : Core) (a : Nat) (r : Regs) :
    vstBytes f r (k.lsRead a 64) = vstMerge (r.getP (f.sub.toNat % 8)) (r.getV (regNum f.idx)) (k.lsRead a 64) := by
  simp [vstBytes, one, take_lsRead]

theorem vstBytes_pair {f : FmtX} (pair : vstPair f = true) (k : Core) (a : Nat) (r : Regs) :
    vstBytes f r (k.lsRead a 128) = vstMerge (r.getP (f.sub.toNat % 8)) (r.getV (regNum f.idx)) (k.lsRead a 64) ++
      vstMerge (r.getP (f.sub.toNat % 8)) (r.getV (regNum f.idx + 1)) (k.lsRead (a + 64) 64) := by
  simp [vstBytes, pair, take_lsRead, drop_lsRead k a 64 64]

theorem st_issues {s : State} {u : Issue} {f : FmtX} {a : Nat} (clean : s.dev.Clean u)
    (points : ∀ w ∈ (FMap.get Points.none s.dev.dbg.points u.core).wp, w = none) (check : stCheck f (s.regsOf u) = .ok a) :
    ∃ t, s.Issues u t (exec (.st u f) s) ∧ (s.coreOf u).Stored a (stBytes f (s.regsOf u)) t :=
  store_issues clean points fun ga => stOp_ok (d := { s.dev with out := [], gau := ga }) check

theorem vst_issues {s : State} {u : Issue} {f : FmtX} {a : Nat} (clean : s.dev.Clean u)
    (points : ∀ w ∈ (FMap.get Points.none s.dev.dbg.points u.core).wp, w = none) (check : vstCheck f (s.regsOf u) = .ok a) :
    ∃ t, s.Issues u t (exec (.vst u f) s) ∧ (s.coreOf u).Stored a (vstBytes f (s.regsOf u) ((s.coreOf u).lsRead a (vstLen f))) t :=
  store_issues clean points fun ga => vstOp_ok (d := { s.dev with out := [], gau := ga }) check

/-! ### Faults of loads and stores -/

theorem ld_faults {s : State} {u : Issue} {f : FmtX} {x : SedunFault} (clean : s.dev.Clean u) (error : ldCheck f (s.regsOf u) = .error x) :
    s.Faults u x (exec (.ld u f) s) :=
  State.faults_of clean false fun ga => by
    unfold ldOp loadOp
    rw [show ldCheck f (Dev.core { s.dev with out := [], gau := ga } u.core).regs = .error x from error]

theorem st_faults {s : State} {u : Issue} {f : FmtX} {x : SedunFault} (clean : s.dev.Clean u) (error : stCheck f (s.regsOf u) = .error x) :
    s.Faults u x (exec (.st u f) s) :=
  State.faults_of clean false fun ga => by
    unfold stOp
    rw [show stCheck f (Dev.core { s.dev with out := [], gau := ga } u.core).regs = .error x from error]

theorem lsCheck_field {subBad kindBad : Bool} {f : FmtX} {r : Regs} {n align : Nat} (sub : subBad = true) :
    lsCheck subBad kindBad f r n align = .error .reservedField := by
  simp [lsCheck, faultIf, sub]

theorem lsCheck_kind {subBad kindBad : Bool} {f : FmtX} {r : Regs} {n align : Nat} (et : f.et.toNat < 0xD) (sub : subBad = false)
    (base : isKind f.base .a = false) : lsCheck subBad kindBad f r n align = .error .registerKind := by
  simp [lsCheck, faultIf, etBad_of_lt et, sub, base]

theorem lsOut_iff {a : Int} {n : Nat} : lsOut a n = true ↔ a < 0 ∨ 0x40000 < a + n := by
  simp only [lsOut, Bool.or_eq_true, decide_eq_true_eq]
  rfl

theorem lsCheck_address {subBad kindBad : Bool} {f : FmtX} {r : Regs} {n align : Nat} (et : f.et.toNat < 0xD) (sub : subBad = false)
    (kinds : kindBad = false) (base : isKind f.base .a = true) (outside : lsAddr f r < 0 ∨ 0x40000 < lsAddr f r + n) :
    lsCheck subBad kindBad f r n align = .error .lsAddress := by
  simp [lsCheck, faultIf, etBad_of_lt et, sub, kinds, base, lsOut_iff.mpr outside]

theorem lsCheck_misaligned {subBad kindBad : Bool} {f : FmtX} {r : Regs} {n align : Nat} (et : f.et.toNat < 0xD) (sub : subBad = false)
    (kinds : kindBad = false) (base : isKind f.base .a = true) (lo : 0 ≤ lsAddr f r) (hi : lsAddr f r + n ≤ 0x40000) (odd : lsAddr f r % align ≠ 0) :
    lsCheck subBad kindBad f r n align = .error .misaligned := by
  have inside : lsOut (lsAddr f r) n = false := lsOut_eq_false lo hi
  have bad : ((lsAddr f r).toNat % align != 0) = true := by
    obtain ⟨a, place⟩ := Int.eq_ofNat_of_zero_le lo
    rw [place] at odd ⊢
    rw [bne_iff_ne, Int.toNat_natCast]
    exact_mod_cast odd
  simp [lsCheck, faultIf, etBad_of_lt et, sub, kinds, base, inside, bad]

/-! ### The statements -/

/-- Settles O21: a store whose checks pass writes its bytes, for VST the governed ones among those that stand there. -/
theorem localStoreStores : Obligations.LocalStoreStores := by
  unfold Obligations.LocalStoreStores
  intro s u f a clean et base points addr
  refine ⟨fun n size sub idx inside aligned => ?st, fun sub idx inside aligned => ?one, fun lo hi pair inside aligned => ?pair⟩
  case st =>
    subst size
    exact st_issues clean points (lsCheck_ok et base (decide_eq_false (by omega)) (by rw [idx]; rfl) addr inside aligned)
  case one =>
    have one : vstPair f = false := by simp [vstPair, Nat.div_eq_of_lt sub]
    have len : vstLen f = 64 := by simp [vstLen, one]
    have check : vstCheck f (s.regsOf u) = .ok a :=
      lsCheck_ok et base (decide_eq_false (by omega)) (by rw [idx, one]; rfl) addr (len ▸ inside) aligned
    obtain ⟨t, issues, stored⟩ := vst_issues clean points check
    rw [len, vstBytes_one one, Nat.mod_eq_of_lt sub] at stored
    exact ⟨t, _, issues, stored, length_vstMerge_lsRead _ _ _ _, fun i hi => getD_vstMerge_lsRead _ _ _ _ hi⟩
  case pair =>
    have two : vstPair f = true := by
      have eight : f.sub.toNat / 8 = 1 := by omega
      simp [vstPair, eight]
    have len : vstLen f = 128 := by simp [vstLen, two]
    have vector : isKind f.idx .v = true := (Bool.and_eq_true _ _ ▸ pair).1
    have check : vstCheck f (s.regsOf u) = .ok a :=
      lsCheck_ok et base (decide_eq_false (by omega)) (by rw [vector, pair, two]; rfl) addr (len ▸ inside) aligned
    obtain ⟨t, issues, stored⟩ := vst_issues clean points check
    rw [len, vstBytes_pair two] at stored
    refine ⟨t, _, issues, stored, by simp [length_vstMerge_lsRead], fun i hi => ?_⟩
    rcases Nat.lt_or_ge i 64 with low | high
    · rw [List.getD_append _ _ _ _ (by rwa [length_vstMerge_lsRead]), getD_vstMerge_lsRead _ _ _ _ low, Nat.mod_eq_of_lt low, Nat.div_eq_of_lt low]
      rfl
    · have place : i % 64 = i - 64 ∧ i / 64 = 1 ∧ a + i = a + 64 + (i - 64) := by omega
      rw [List.getD_append_right _ _ _ _ (by rwa [length_vstMerge_lsRead]), length_vstMerge_lsRead, getD_vstMerge_lsRead _ _ _ _ (by omega), place.1, place.2.1, place.2.2]

/-- Settles O22: the checks of an access, in the order of their codes. -/
theorem localStoreFaults : Obligations.LocalStoreFaults := by
  unfold Obligations.LocalStoreFaults
  intro s u f clean
  refine ⟨fun sub => ld_faults clean (lsCheck_field (decide_eq_true sub)), fun sub et base => ld_faults clean (lsCheck_kind et (decide_eq_false (by omega)) base),
    fun sub et base d outside => ld_faults clean (lsCheck_address et (decide_eq_false (by omega)) (by rw [d]; rfl) base outside),
    fun sub et base d lo hi odd => ld_faults clean (lsCheck_misaligned et (decide_eq_false (by omega)) (by rw [d]; rfl) base lo hi odd),
    fun sub et base idx outside => st_faults clean (lsCheck_address et (decide_eq_false (by omega)) (by rw [idx]; rfl) base outside),
    fun sub et base idx lo hi odd => st_faults clean (lsCheck_misaligned et (decide_eq_false (by omega)) (by rw [idx]; rfl) base lo hi odd)⟩

end Sys2Proof.Machine
end

section
/-! SUPPORT. SEMA, SEMT and SEMR (R109, R110, R329, R330). -/
namespace Sys2Proof.Machine

/-- A semaphore instruction changes, beside its core, its semaphore and the Gauge counters alone. -/
structure State.SemTurns (s : State) (u : Issue) (n : Nat) (k : Core) (x : Sem) (d : Dev) : Prop where
  put : s.dev.Put u.core k d
  sem : d.sem n = x
  others : ∀ m, m ≠ n → d.sem m = s.dev.sem m
  rest : d = { s.dev with out := [], cores := d.cores, gau := d.gau, sems := d.sems }

/-! ### Taking -/

theorem acquire_turns {s : State} {u : Issue} (clean : s.dev.Clean u) (ga : Gauge) (n : Nat) (dest : BitVec 8) :
    s.SemTurns u n ((s.coreOf u).retired ((s.regsOf u).writeSA dest (if (s.dev.sem n).poisoned then 0x0E else 0)))
      { holder := some (u.core, s.dev.ctxOn u.core), poisoned := false, waiters := (s.dev.sem n).waiters }
      (Dev.acquire { s.dev with out := [], gau := ga } u.core n dest) := by
  obtain ⟨put, sem, others, rest⟩ := Dev.acquire_spec (d := { s.dev with out := [], gau := ga }) (n := n) (dest := dest) clean.points clean.lead
  refine ⟨put.from rfl rfl, sem, others, ?_⟩
  generalize Dev.acquire { s.dev with out := [], gau := ga } u.core n dest = e at rest ⊢
  rw [rest]

section
variable {s : State} {u : Issue} {f : FmtX} {n : Nat}

theorem acquire_free_answers (clean : s.dev.Clean u) (wait : Bool) (check : ∀ ga, Dev.semCheck { s.dev with out := [], gau := ga } u.core f true = .ok n)
    (own : s.dev.holdsSem (s.dev.ctxOn u.core) n = false) (load : s.dev.semLoad (s.dev.ctxOn u.core) < 16) (die : s.dev.dieFenced (n / 1024) = false)
    (free : (s.dev.sem n).holder = none) :
    s.AnswersSettled (s.issueSync u (acquireOp wait f))
      (s.SemTurns u n ((s.coreOf u).retired ((s.regsOf u).writeSA f.d (if (s.dev.sem n).poisoned then 0x0E else 0)))
        { holder := some (u.core, s.dev.ctxOn u.core), poisoned := false, waiters := (s.dev.sem n).waiters }) :=
  State.answersSettled_of clean fun ga =>
    ⟨_, _, acquireOp_free (d := { s.dev with out := [], gau := ga }) wait (check ga) own load die free, acquire_turns clean ga n f.d⟩

theorem sema_held_answers (clean : s.dev.Clean u) (check : ∀ ga, Dev.semCheck { s.dev with out := [], gau := ga } u.core f true = .ok n)
    (own : s.dev.holdsSem (s.dev.ctxOn u.core) n = false) (load : s.dev.semLoad (s.dev.ctxOn u.core) < 16) (die : s.dev.dieFenced (n / 1024) = false)
    (held : (s.dev.sem n).holder ≠ none) :
    s.AnswersSettled (exec (.sema u f) s)
      (s.SemTurns u n ((s.coreOf u).waits (.sema f n) (if n / 1024 = coreDie u.core then none else some s.dev.ticks))
        { s.dev.sem n with waiters := (s.dev.sem n).waiters ++ [u.core] }) :=
  State.answersSettled_of clean fun ga => by
    refine ⟨_, _, acquireOp_held (d := { s.dev with out := [], gau := ga }) true (check ga) own load die held clean.points, ?_⟩
    obtain ⟨put, sem, others, rest⟩ := Dev.setSem_issue clean ga n { s.dev.sem n with waiters := (s.dev.sem n).waiters ++ [u.core] }
      ((s.coreOf u).waits (.sema f n) (if n / 1024 = coreDie u.core then none else some s.dev.ticks)) rfl
    exact ⟨put, sem, others, rest⟩

/-- Writing the core alone leaves the semaphores. -/
theorem putCore_turns (clean : s.dev.Clean u) (ga : Gauge) (n : Nat) (k : Core) :
    s.SemTurns u n k (s.dev.sem n) (Dev.putCore { s.dev with out := [], gau := ga } u.core k) := by
  have same : ∀ m, (Dev.putCore { s.dev with out := [], gau := ga } u.core k).sem m = s.dev.sem m := sem_congr (by rw [Dev.putCore_cores])
  obtain ⟨put, rest⟩ := Dev.putCore_issue clean k ga
  refine ⟨put, same n, fun m _ => same m, ?_⟩
  generalize Dev.putCore { s.dev with out := [], gau := ga } u.core k = e at rest ⊢
  rw [rest]

theorem semt_held_answers (clean : s.dev.Clean u) (check : ∀ ga, Dev.semCheck { s.dev with out := [], gau := ga } u.core f true = .ok n)
    (own : s.dev.holdsSem (s.dev.ctxOn u.core) n = false) (load : s.dev.semLoad (s.dev.ctxOn u.core) < 16) (die : s.dev.dieFenced (n / 1024) = false)
    (held : (s.dev.sem n).holder ≠ none) :
    s.AnswersSettled (exec (.semt u f) s) (s.SemTurns u n ((s.coreOf u).retired ((s.regsOf u).writeSA f.d 0x80)) (s.dev.sem n)) :=
  State.answersSettled_of clean fun ga =>
    ⟨_, _, acquireOp_held (d := { s.dev with out := [], gau := ga }) false (check ga) own load die held clean.points, putCore_turns clean ga n _⟩

/-! ### Giving back -/

theorem Dev.releaseSem_of_no_waiters {d : Dev} {n : Nat} (none : (d.sem n).waiters = []) (poison : Bool) :
    d.releaseSem n poison = d.setSem n { holder := .none, poisoned := poison, waiters := [] } := by
  unfold Dev.releaseSem Dev.grantSem
  simp [Dev.sem_setSem, none]

theorem semrOp_ok {d : Dev} {g : Nat} (check : d.semCheck g f false = .ok n) (own : d.holdsSem (d.ctxOn g) n = true)
    (die : d.dieFenced (n / 1024) = false) (writes : d.writesPending g = false) : semrOp f d g = .ok (true, (d.releaseSem n false).advance g id) := by
  unfold semrOp semDie
  simp only [check, own, die, writes]
  rfl

theorem semr_answers (clean : s.dev.Clean u) (check : ∀ ga, Dev.semCheck { s.dev with out := [], gau := ga } u.core f false = .ok n)
    (own : s.dev.holdsSem (s.dev.ctxOn u.core) n = true) (die : s.dev.dieFenced (n / 1024) = false) (writes : s.dev.writesPending u.core = false)
    (none : (s.dev.sem n).waiters = []) :
    s.AnswersSettled (exec (.semr u f) s)
      (s.SemTurns u n ((s.coreOf u).retired (s.regsOf u)) { holder := .none, poisoned := false, waiters := [] }) :=
  State.answersSettled_of clean fun ga => by
    refine ⟨_, _, semrOp_ok (d := { s.dev with out := [], gau := ga }) (check ga) own die writes, ?_⟩
    rw [Dev.releaseSem_of_no_waiters (d := { s.dev with out := [], gau := ga }) none,
      Dev.advance_eq (Dev.setSem { s.dev with out := [], gau := ga } n { holder := .none, poisoned := false, waiters := [] }) u.core id clean.points]
    obtain ⟨put, sem, others, rest⟩ := Dev.setSem_issue clean ga n { holder := .none, poisoned := false, waiters := [] }
      ((s.coreOf u).retired (s.regsOf u)) rfl
    exact ⟨put, sem, others, rest⟩

/-! ### Faults -/

theorem acquire_faults (clean : s.dev.Clean u) (wait : Bool) {x : SedunFault} (error : ∀ ga, Dev.semCheck { s.dev with out := [], gau := ga } u.core f true = .error x) :
    s.Faults u x (s.issueSync u (acquireOp wait f)) :=
  State.syncFaults_of clean fun ga => by unfold acquireOp; rw [error ga]

theorem semr_faults (clean : s.dev.Clean u) {x : SedunFault} (error : ∀ ga, Dev.semCheck { s.dev with out := [], gau := ga } u.core f false = .error x) :
    s.Faults u x (exec (.semr u f) s) :=
  State.syncFaults_of clean fun ga => by unfold semrOp; rw [error ga]

end

/-! ### The statement -/

theorem State.AnswersSettled.imp {s : State} {o : Result} {P Q : Dev → Prop} (h : s.AnswersSettled o P) (sub : ∀ d, P d → Q d) : s.AnswersSettled o Q := by
  obtain ⟨d, e, p⟩ := h
  exact ⟨d, e, sub d p⟩

/-- Settles O24: the semaphore's state decides whether the core takes it, is told 0x80, waits, or gives it back. -/
theorem semaphoreResults : Obligations.SemaphoreResults := by
  unfold Obligations.SemaphoreResults
  intro s u f p n clean et sub idx number part
  have allowed (dest : Bool) (dies : n / 1024 < s.dev.hw.dies) (grants : p.grantsSem n = true) (d : dest = true → isSA f.d = true) (ga : Gauge) :=
    semCheck_ok (d := { s.dev with out := [], gau := ga }) (g := u.core) et sub idx number part d grants dies
  have refused (dest : Bool) (grants : p.grantsSem n = false) (d : dest = true → isSA f.d = true) (ga : Gauge) :=
    semCheck_no (d := { s.dev with out := [], gau := ga }) (g := u.core) et sub idx number part d grants
  have framed {k : Core} {x : Sem} (d : Dev) (h : s.SemTurns u n k x d) : s.dev.Put u.core k d ∧ d.sem n = x ∧ (∀ m, m ≠ n → d.sem m = s.dev.sem m) ∧
      d = { s.dev with out := [], cores := d.cores, gau := d.gau, sems := d.sems } := ⟨h.put, h.sem, h.others, h.rest⟩
  refine ⟨fun dies grants own load die d => ⟨fun free => ?take, fun held => ?told, fun held => ?waits⟩,
    fun dies grants own die writes none => (semr_answers clean (allowed false dies grants (fun h => nomatch h)) own die writes none).imp framed,
    fun d grants => ?faults⟩
  case take =>
    simp only [List.forall_mem_cons, List.not_mem_nil, false_implies, implies_true, and_true]
    have takes (wait : Bool) := (acquire_free_answers clean wait (allowed true dies grants fun _ => d) own load die free).imp framed
    exact ⟨takes true, takes false⟩
  case told => exact (semt_held_answers clean (allowed true dies grants fun _ => d) own load die held).imp framed
  case waits => exact (sema_held_answers clean (allowed true dies grants fun _ => d) own load die held).imp framed
  case faults =>
    simp only [List.forall_mem_cons, List.not_mem_nil, false_implies, implies_true, and_true]
    exact ⟨acquire_faults clean true (refused true grants fun _ => d), acquire_faults clean false (refused true grants fun _ => d),
      semr_faults clean (refused false grants fun h => nomatch h)⟩

end Sys2Proof.Machine
end

section
/-! SUPPORT. An operation that changes other fields of the device and its own core last. -/
namespace Sys2Proof.Machine

section
variable {s : State} {u : Issue} {e : Dev}

theorem Dev.putCore_over (clean : s.dev.Clean u) (cores : e.cores = s.dev.cores) (joined : e.joined = s.dev.joined) (k : Core) :
    s.dev.Put u.core k (e.putCore u.core k) :=
  (Dev.put_putCore e u.core k fun j => clean.lead (by rw [← Dev.isJoined_congr joined]; exact j)).from cores joined

theorem Dev.advance_over (clean : s.dev.Clean u) (cores : e.cores = s.dev.cores) (joined : e.joined = s.dev.joined) (dbg : e.dbg = s.dev.dbg) (fn : Core → Core) :
    s.dev.Put u.core { fn (s.coreOf u) with pc := (fn (s.coreOf u)).pc + 8 } (e.advance u.core fn) ∧
    e.advance u.core fn = { e with cores := (e.advance u.core fn).cores } := by
  have core : e.core u.core = s.coreOf u := by unfold Dev.core State.coreOf Dev.core; rw [cores]
  rw [Dev.advance_eq e u.core fn (by rw [dbg]; exact clean.points), core]
  exact ⟨Dev.putCore_over clean cores joined _, Dev.putCore_cores _ _ _⟩

theorem Dev.hold_over (clean : s.dev.Clean u) (cores : e.cores = s.dev.cores) (joined : e.joined = s.dev.joined) (w : Wait) :
    s.dev.Put u.core ((s.coreOf u).waits w none) (e.hold u.core w false) ∧ e.hold u.core w false = { e with cores := (e.hold u.core w false).cores } := by
  have core : e.core u.core = s.coreOf u := by unfold Dev.core State.coreOf Dev.core; rw [cores]
  have put := Dev.putCore_over clean cores joined ((s.coreOf u).waits w none)
  rw [← core] at put ⊢
  exact ⟨put, Dev.putCore_cores _ _ _⟩

theorem Dev.jump_clean (clean : s.dev.Clean u) (ga : Gauge) (pc : BitVec 48) (fn : Core → Core) :
    Dev.jump { s.dev with out := [], gau := ga } u.core pc fn = Dev.putCore { s.dev with out := [], gau := ga } u.core { fn (s.coreOf u) with pc := pc } :=
  jump_eq _ _ _ _ clean.points

theorem Dev.advance_clean (clean : s.dev.Clean u) (ga : Gauge) (fn : Core → Core) :
    Dev.advance { s.dev with out := [], gau := ga } u.core fn =
      Dev.putCore { s.dev with out := [], gau := ga } u.core { fn (s.coreOf u) with pc := (fn (s.coreOf u)).pc + 8 } :=
  Dev.advance_eq _ _ _ clean.points

/-- An instruction that writes its core alone and goes on. -/
theorem Dev.advance_issue (clean : s.dev.Clean u) (ga : Gauge) (fn : Core → Core) {d : Dev} (h : d = Dev.advance { s.dev with out := [], gau := ga } u.core fn) :
    s.dev.Put u.core { fn (s.coreOf u) with pc := (fn (s.coreOf u)).pc + 8 } d ∧ d = { s.dev with out := [], cores := d.cores, gau := d.gau } := by
  obtain ⟨put, rest⟩ := Dev.advance_over (e := { s.dev with out := [], gau := ga }) clean rfl rfl rfl fn
  rw [← h] at put rest
  exact ⟨put, by rw [rest]⟩

/-- An instruction whose whole effect is the word it gives its destination. -/
theorem Dev.give_issue (clean : s.dev.Clean u) (ga : Gauge) (dest : BitVec 8) (v : Nat) {d : Dev}
    (h : d = Dev.advance { s.dev with out := [], gau := ga } u.core (fun k => { k with regs := k.regs.writeNat dest v })) :
    s.dev.Put u.core ((s.coreOf u).retired ((s.regsOf u).writeSA dest (BitVec.ofNat 64 v))) d ∧ d = { s.dev with out := [], cores := d.cores, gau := d.gau } :=
  Dev.advance_issue clean ga (fun k => { k with regs := k.regs.writeNat dest v }) h

/-- An instruction that writes its core alone and waits. -/
theorem Dev.hold_issue (clean : s.dev.Clean u) (ga : Gauge) (w : Wait) (remote : Bool) {d : Dev} (h : d = Dev.hold { s.dev with out := [], gau := ga } u.core w remote) :
    s.dev.Put u.core ((s.coreOf u).waits w (if remote then some s.dev.ticks else none)) d ∧ d = { s.dev with out := [], cores := d.cores, gau := d.gau } := by
  rw [h]
  exact Dev.putCore_issue clean _ ga

end

end Sys2Proof.Machine
end

section
/-! SUPPORT. AMO and MWAIT (R111, R123). -/
namespace Sys2Proof.Machine

/-! ### The word in Mortar -/

/-- The device once AMO has stored its word, if it stores one. -/
def Dev.amoStore (d : Dev) (a n : Nat) : Option Nat → Dev
  | some w => d.setCells a (leBytes n w)
  | none => d

theorem Dev.amoStore_rest (d : Dev) (a n : Nat) (w : Option Nat) : d.amoStore a n w = { d with mem := (d.amoStore a n w).mem } := by
  cases w with
  | some w => exact Dev.setCells_eq _ _ _
  | none => rfl

/-- A compare-and-swap that does not match leaves what storing the old word would. -/
theorem Dev.cell_amoStore (d : Dev) (a n : Nat) (w : Option Nat) (b : Nat) :
    (d.amoStore a n w).cell b =
    if a ≤ b ∧ b < a + n then (leBytes n (w.getD (leNat ((List.range n).map (fun i => d.cell (a + i)))))).getD (b - a) 0 else d.cell b := by
  cases w with
  | some w => rw [Dev.amoStore, Dev.cell_setCells, leBytes_len, Option.getD_some]
  | none =>
    have bytes := leBytes_leNat ((List.range n).map (fun i => d.cell (a + i)))
    rw [List.length_map, List.length_range] at bytes
    rw [Dev.amoStore, Option.getD_none, bytes]
    split
    next inside =>
      have i : b - a < n := by omega
      simp [List.getD_eq_getElem?_getD, i, show a + (b - a) = b by omega]
    next => rfl

theorem amoNew_getD (op n old x expected : Nat) :
    (amoNew op n old x expected).getD old = match op with
      | 0 => (old + x) % 2 ^ (8 * n)
      | 1 => x
      | 2 => if old = expected then x else old
      | 3 => max old x
      | _ => min old x := by
  match op with
  | 0 | 1 | 3 | _ + 4 => rfl
  | 2 => exact apply_ite (fun o : Option Nat => o.getD old) (old = expected) (some x) none

/-! ### The instructions -/

section
variable {s : State} {u : Issue} {f : FmtX} {p : Part} {n a die : Nat}

/-- What the statement asks of a word that AMO and MWAIT may use. -/
structure State.AtomWord (s : State) (u : Issue) (f : FmtX) (p : Part) (n a die : Nat) : Prop where
  et : f.et.toNat < 0xD
  dest : isSA f.d = true
  operand : isSA f.idx = true
  base : isKind f.base .a = true
  address : (a : Int) = ((s.regsOf u).getA (regNum f.base)).toNat + f.off.toInt
  size : n = if f.sub.toNat / 8 % 2 = 1 then 8 else 4
  aligned : a % n = 0
  place : placeOf s.dev.hw a = .mortar die
  open_ : s.dev.dieFenced die = false
  part : s.dev.partOfCtx (s.dev.ctxOn u.core) = some p
  reads : p.allows a n 0 = true
  tags : s.dev.tags = []
  mirrors : s.dev.mirrors = []
  poison : s.dev.poison = []
  plain : s.dev.viewOf (s.dev.ctxOn u.core) = View.plain

theorem State.AtomWord.in_line (w : s.AtomWord u f p n a die) : 0 < n ∧ a % 64 + n ≤ 64 := by
  have size : n = 8 ∨ n = 4 := by rw [w.size]; split <;> simp
  have aligned := w.aligned
  rcases size with e | e <;> subst e <;> omega

/-- The word at `a`. -/
def State.atomOld (s : State) (a n : Nat) : Nat := leNat ((List.range n).map (fun i => s.dev.cell (a + i)))
/-- The operand of AMO and MWAIT. -/
def State.atomOperand (s : State) (u : Issue) (f : FmtX) (n : Nat) : Nat := ((s.regsOf u).readSA f.idx).toNat % 2 ^ (8 * n)
/-- The word AMO leaves. -/
def State.amoWord (s : State) (u : Issue) (f : FmtX) (a n : Nat) : Nat :=
  (amoNew (f.sub.toNat % 8) n (s.atomOld a n) (s.atomOperand u f n) (((s.regsOf u).readSA f.d).toNat % 2 ^ (8 * n))).getD (s.atomOld a n)

theorem amoStore_leaves (clean : s.dev.Clean u) (ga : Gauge) (a n : Nat) (w : Option Nat) (b : Block) (fn : Core → Core) {d : Dev}
    (h : d = ((Dev.amoStore { s.dev with out := [], gau := ga } a n w).blkCount b 5 1).advance u.core fn) :
    s.dev.Put u.core { fn (s.coreOf u) with pc := (fn (s.coreOf u)).pc + 8 } d ∧
    (∀ b, d.cell b = if a ≤ b ∧ b < a + n then (leBytes n (w.getD (s.atomOld a n))).getD (b - a) 0 else s.dev.cell b) ∧
    d = { s.dev with out := [], cores := d.cores, gau := d.gau, mem := d.mem } := by
  have cells := Dev.cell_amoStore { s.dev with out := [], gau := ga } a n w
  have store := Dev.amoStore_rest { s.dev with out := [], gau := ga } a n w
  have count := Dev.blkCount_gau (Dev.amoStore { s.dev with out := [], gau := ga } a n w) b 5 1
  generalize Dev.amoStore { s.dev with out := [], gau := ga } a n w = st at *
  generalize st.blkCount b 5 1 = e at *
  obtain ⟨put, adv⟩ := Dev.advance_over (e := e) clean (by rw [count, store]) (by rw [count, store]) (by rw [count, store]) fn
  rw [← h] at put adv
  have rest : d = { st with gau := d.gau, cores := d.cores } := by rw [adv, count]
  refine ⟨put, fun b => ?_, by rw [rest, store]⟩
  rw [Dev.cell_congr (d := st) (e := d) (by rw [rest]) (by rw [rest]) (by rw [rest]) (by rw [rest]), cells]
  rfl

theorem amo_answers (clean : s.dev.Clean u) (w : s.AtomWord u f p n a die) (streams : s.dev.streamList = []) (s16 : f.sub.toNat < 16) (s4 : f.sub.toNat % 8 ≤ 4)
    (writes : p.allows a n 1 = true) (pending : s.dev.writesPending u.core = false) :
    s.AnswersSettled (exec (.amo u f) s) (fun d =>
      s.dev.Put u.core ((s.coreOf u).retired ((s.regsOf u).writeSA f.d (BitVec.ofNat 64 (s.atomOld a n)))) d ∧
      (∀ b, d.cell b = if a ≤ b ∧ b < a + n then (leBytes n (s.amoWord u f a n)).getD (b - a) 0 else s.dev.cell b) ∧
      d = { s.dev with out := [], cores := d.cores, gau := d.gau, mem := d.mem }) :=
  State.answersSettled_of clean fun ga => by
    refine ⟨_, _, amoOp_ok (d := { s.dev with out := [], gau := ga }) w.et w.dest w.operand w.base w.address w.size w.aligned w.place w.part w.reads writes s16 s4
      w.mirrors w.tags w.poison w.open_ streams w.plain pending, ?_⟩
    exact amoStore_leaves clean ga a n (amoNew (f.sub.toNat % 8) n (s.atomOld a n) (s.atomOperand u f n) (((s.regsOf u).readSA f.d).toNat % 2 ^ (8 * n)))
      (.mrt die) (fun k => { k with regs := k.regs.writeNat f.d (s.atomOld a n) }) rfl

/-! ### MWAIT -/

theorem mwait_sub (sub : BitVec 5) (s16 : sub.toNat < 16) (s3 : sub.toNat % 8 < 3) : (sub &&& 0x14 != 0 || sub.toNat % 4 == 3) = false := by
  revert sub
  decide

theorem Dev.remoteTo_mortar {d : Dev} (place : placeOf d.hw a = .mortar die) (g : Nat) : d.remoteTo g a = (die != coreDie g) := by
  unfold Dev.remoteTo
  rw [place]
  rfl

theorem mwaitOp_ok (w : s.AtomWord u f p n a die) (s16 : f.sub.toNat < 16) (s3 : f.sub.toNat % 8 < 3) (ga : Gauge) :
    mwaitOp f { s.dev with out := [], gau := ga } u.core = .ok (true, if mwaitHolds f (s.atomOld a n) (s.atomOperand u f n) then
        Dev.advance { s.dev with out := [], gau := ga } u.core (fun k => { k with regs := k.regs.writeNat f.d (s.atomOld a n) })
      else Dev.hold { s.dev with out := [], gau := ga } u.core (.mwait f) (die != coreDie u.core)) := by
  obtain ⟨pos, line⟩ := w.in_line
  unfold mwaitOp
  dsimp only
  rw [atomSize_eq, ← w.size, atom_ok (d := { s.dev with out := [], gau := ga }) (w := false) w.et (mwait_sub f.sub s16 s3) w.dest w.operand w.base w.address w.aligned w.place
    w.part w.reads (fun h => nomatch h)]
  dsimp only
  unfold Dev.accessStop
  dsimp only
  rw [access_none (d := { s.dev with out := [], gau := ga }) w.mirrors w.tags w.poison w.place w.open_ line pos]
  dsimp only
  rw [Dev.rd_cells (d := { s.dev with out := [], gau := ga }) w.mirrors w.tags, Dev.remoteTo_mortar (d := { s.dev with out := [], gau := ga }) w.place]
  change (if mwaitHolds f (s.atomOld a n) (s.atomOperand u f n) = true then _ else _) = _
  split <;> rfl

theorem mwait_answers (clean : s.dev.Clean u) (w : s.AtomWord u f p n a die) (s16 : f.sub.toNat < 16) (s3 : f.sub.toNat % 8 < 3) :
    s.AnswersSettled (exec (.mwait u f) s) (fun d =>
      s.dev.Put u.core (if mwaitHolds f (s.atomOld a n) (s.atomOperand u f n) then
          (s.coreOf u).retired ((s.regsOf u).writeSA f.d (BitVec.ofNat 64 (s.atomOld a n)))
        else (s.coreOf u).waits (.mwait f) (if die = coreDie u.core then none else some s.dev.ticks)) d ∧
      d = { s.dev with out := [], cores := d.cores, gau := d.gau }) :=
  State.answersSettled_of clean fun ga => by
    refine ⟨_, _, mwaitOp_ok w s16 s3 ga, ?_⟩
    split
    next => exact Dev.give_issue clean ga f.d _ rfl
    next =>
      have since : (if (die != coreDie u.core) = true then some s.dev.ticks else none) = if die = coreDie u.core then none else some s.dev.ticks := by
        by_cases own : die = coreDie u.core <;> simp [own]
      rw [← since]
      exact Dev.hold_issue clean ga _ _ rfl

end

/-! ### The statement -/

/-- Settles O25: a word in Mortar of a job that declares no epoch is neither tagged nor mirrored, so both instructions reach the memory's own bytes. -/
theorem atomicResults : Obligations.AtomicResults := by
  unfold Obligations.AtomicResults
  intro s u f p a die clean et sd si base address place fence part tags mirrors poison streams plain k r n old x aligned reads
  have word : s.AtomWord u f p n a die := ⟨et, sd, si, base, address, rfl, aligned, place, fence, part, reads, tags, mirrors, poison, plain⟩
  refine ⟨fun s16 s4 writes pending => ?_, fun s16 s3 => mwait_answers clean word s16 s3⟩
  have answers := amo_answers clean word streams s16 s4 writes pending
  unfold State.amoWord at answers
  rw [amoNew_getD] at answers
  exact answers

end Sys2Proof.Machine
end

section
/-! SUPPORT. BR, CALL and JR (R93, R117). -/
namespace Sys2Proof.Machine

section
variable {s : State} {u : Issue} {f : FmtC}

/-! ### Where a branch goes -/

theorem br_goes (clean : s.dev.Clean u) (known : condOk f.cond.toNat = true) (kinds : condKinds f = true) :
    ∃ t, exec (.br u f) s = .next t ∧ s.Retired u.core (s.regsOf u)
      (if condHolds f (s.regsOf u) then s.pcOf u + BitVec.ofInt 48 (8 * f.imm.toInt) else s.pcOf u + 8) t := by
  refine goes_of clean _ _ fun ga => ?_
  have op : brOp f { s.dev with out := [], gau := ga } u.core = .ok (false,
      if condHolds f (s.regsOf u) then Dev.jump { s.dev with out := [], gau := ga } u.core (branchTarget (s.pcOf u) f.imm) id
      else Dev.advance { s.dev with out := [], gau := ga } u.core id) := by
    unfold brOp
    rw [known, kinds]
    rfl
  rw [op]
  split
  next => rw [Dev.jump_clean clean, target_eq]; rfl
  next => rw [Dev.advance_clean clean]; rfl

theorem call_goes (clean : s.dev.Clean u) (kind : isKind f.a .a = true) :
    ∃ t, exec (.call u f) s = .next t ∧ s.Retired u.core ((s.regsOf u).setA (regNum f.a) (s.pcOf u + 8)) (s.pcOf u + BitVec.ofInt 48 (8 * f.imm.toInt)) t := by
  refine goes_of clean _ _ fun ga => ?_
  have op : callOp f { s.dev with out := [], gau := ga } u.core = .ok (false, Dev.jump { s.dev with out := [], gau := ga } u.core
      (branchTarget (s.pcOf u) f.imm) (fun k => { k with regs := k.regs.setA (regNum f.a) (k.pc + 8) })) := by
    unfold callOp
    rw [kind]
    rfl
  rw [op, Dev.jump_clean clean, target_eq]
  rfl

theorem jrOp_eq (kind : isKind f.a .a = true) (ga : Gauge) :
    jrOp f { s.dev with out := [], gau := ga } u.core = faultIf (((s.regsOf u).getA (regNum f.a)).toNat % 8 != 0) .fetch
      (.ok (false, Dev.jump { s.dev with out := [], gau := ga } u.core ((s.regsOf u).getA (regNum f.a)) id)) := by
  unfold jrOp
  rw [kind]
  rfl

theorem jr_goes (clean : s.dev.Clean u) (kind : isKind f.a .a = true) (aligned : ((s.regsOf u).getA (regNum f.a)).toNat % 8 = 0) :
    ∃ t, exec (.jr u f) s = .next t ∧ s.Retired u.core (s.regsOf u) ((s.regsOf u).getA (regNum f.a)) t := by
  refine goes_of clean _ _ fun ga => ?_
  rw [jrOp_eq kind, aligned, Dev.jump_clean clean]
  rfl

theorem jr_misaligned (clean : s.dev.Clean u) (kind : isKind f.a .a = true) (misaligned : ((s.regsOf u).getA (regNum f.a)).toNat % 8 ≠ 0) :
    s.Faults u .fetch (exec (.jr u f) s) :=
  State.faults_of clean false fun ga => by
    rw [jrOp_eq kind, faultIf, if_pos (by simpa using misaligned)]

/-! ### The conditions -/

theorem condKinds_compare (low : f.cond.toNat ≤ 5) (a : isSA f.a = true) (b : isSANone f.b = true) : condKinds f = true := by
  rw [condKinds, if_pos low, a, b]
  rfl

theorem condKinds_predicate (high : 5 < f.cond.toNat) (p : isKind f.a .p = true) : condKinds f = true := by
  rw [condKinds, if_neg (by omega), p, ite_self]

theorem br_goes_if (clean : s.dev.Clean u) (known : condOk f.cond.toNat = true) (kinds : condKinds f = true) {P : Prop} [Decidable P]
    (holds : condHolds f (s.regsOf u) = decide P) :
    ∃ t, exec (.br u f) s = .next t ∧ s.Retired u.core (s.regsOf u) (if P then s.pcOf u + BitVec.ofInt 48 (8 * f.imm.toInt) else s.pcOf u + 8) t := by
  have goes := br_goes clean known kinds
  simp only [holds, decide_eq_true_eq] at goes
  exact goes

theorem condHolds_of {c : BitVec 5} (h : f.cond = c) (r : Regs) : condHolds f r = condHolds { f with cond := c } r := by rw [← h]

end

/-- Settles O26: the condition picks between the target and the next instruction; each condition is the comparison it names. -/
theorem branchResults : Obligations.BranchResults := by
  unfold Obligations.BranchResults
  intro s u f clean r pc target goes a b br
  refine ⟨fun ka kb => ?compare, fun kp => ?predicate, fun c => ?always, call_goes clean, jr_goes clean, jr_misaligned clean⟩
  case compare =>
    have at_ (c : BitVec 5) (low : c.toNat ≤ 5) (h : f.cond = c) {P : Prop} [Decidable P] (holds : condHolds { f with cond := c } r = decide P) : br P :=
      br_goes_if clean (by rw [h]; unfold condOk; simp [low]) (condKinds_compare (by rw [h]; exact low) ka kb) (by rw [condHolds_of h]; exact holds)
    refine ⟨fun h => at_ 0 (by decide) h ?_, fun h => at_ 1 (by decide) h ?_, fun h => at_ 2 (by decide) h ?_, fun h => at_ 3 (by decide) h ?_,
      fun h => at_ 4 (by decide) h ?_, fun h => at_ 5 (by decide) h ?_⟩
    · exact beq_eq_decide _ _
    · show (a != b) = _
      exact Bool.eq_iff_iff.2 (by simp)
    · rfl
    · show (!a.slt b) = _
      exact Bool.eq_iff_iff.2 (by simp [BitVec.slt])
    · rfl
    · show (!a.ult b) = _
      exact Bool.eq_iff_iff.2 (by simp [BitVec.ult])
  case predicate =>
    have at_ (c : BitVec 5) (high : 5 < c.toNat) (known : condOk c.toNat = true) (h : f.cond = c) {P : Prop} [Decidable P]
        (holds : condHolds { f with cond := c } r = decide P) : br P :=
      br_goes_if clean (by rw [h]; exact known) (condKinds_predicate (by rw [h]; exact high) kp) (by rw [condHolds_of h]; exact holds)
    refine ⟨fun h => at_ 8 (by decide) (by decide) h ?_, fun h => at_ 9 (by decide) (by decide) h ?_, fun h => at_ 10 (by decide) (by decide) h ?_⟩
    · show (r.getP (regNum f.a) != 0) = _
      exact Bool.eq_iff_iff.2 (by simp)
    · exact beq_eq_decide _ _
    · exact beq_eq_decide _ _
  case always =>
    exact br_goes_if clean (by rw [c]; decide) (by rw [condKinds, c]; rfl) (by rw [condHolds_of c]; rfl)

end Sys2Proof.Machine
end

section
/-! SUPPORT. YLD and END (R118–R120). -/
namespace Sys2Proof.Machine

section
variable {s : State} {u : Issue} {f : FmtC}

/-- An operation that has written its core and goes on. -/
theorem Dev.Put.advance {e : Dev} {k : Core} (clean : s.dev.Clean u) (put : s.dev.Put u.core k e) (joined : e.joined = s.dev.joined) (dbg : e.dbg = s.dev.dbg)
    (fn : Core → Core) :
    s.dev.Put u.core { fn k with pc := (fn k).pc + 8 } (e.advance u.core fn) ∧ e.advance u.core fn = { e with cores := (e.advance u.core fn).cores } := by
  rw [Dev.advance_eq e u.core fn (by rw [dbg]; exact clean.points), put.core]
  exact ⟨put.trans joined (Dev.put_putCore e u.core _ fun j => clean.lead (by rw [← Dev.isJoined_congr joined]; exact j)), Dev.putCore_cores _ _ _⟩

/-! ### YLD -/

/-- The device once a YLD has counted itself and taken its checkpoint. -/
def Dev.yielded (d : Dev) (g i : Nat) (lv : Nat × List (Nat × Nat)) : Dev :=
  (d.count g 0x0B 1).putCore g { d.core g with ckpt := some ((d.core g).checkpoint i lv) }

theorem Dev.yielded_put (clean : s.dev.Clean u) (ga : Gauge) (i : Nat) (lv : Nat × List (Nat × Nat)) {d : Dev}
    (h : d = Dev.yielded { s.dev with out := [], gau := ga } u.core i lv) :
    s.dev.Put u.core { s.coreOf u with ckpt := some ((s.coreOf u).checkpoint i lv) } d ∧ d = { s.dev with out := [], cores := d.cores, gau := d.gau } := by
  have count := Dev.count_gau { s.dev with out := [], gau := ga } u.core 0x0B 1
  unfold Dev.yielded at h
  generalize Dev.count { s.dev with out := [], gau := ga } u.core 0x0B 1 = e at count h
  have rest := Dev.putCore_cores e u.core { s.coreOf u with ckpt := some ((s.coreOf u).checkpoint i lv) }
  have put : s.dev.Put u.core _ _ := Dev.putCore_over clean (e := e) (by rw [count]) (by rw [count]) { s.coreOf u with ckpt := some ((s.coreOf u).checkpoint i lv) }
  change d = e.putCore u.core { s.coreOf u with ckpt := some ((s.coreOf u).checkpoint i lv) } at h
  rw [← h] at rest put
  exact ⟨put, by rw [rest, count]⟩

theorem yldOp_eq {d : Dev} {g : Nat} {lv : Nat × List (Nat × Nat)} (index : f.imm.toNat < 65536) (sems : d.semsHeld (d.ctxOn g) = [])
    (borrows : ∀ h ∈ d.coresOn (d.ctxOn g), (d.core h).borrow = []) (live : d.liveOf (d.ctxOn g) f.imm.toNat = some lv) :
    yldOp f d g =
      if (d.ctx (d.ctxOn g)).state ≠ .yielding then .ok (false, (d.yielded g f.imm.toNat lv).advance g id)
      else if d.ticketsOut g then .ok (false, ((d.yielded g f.imm.toNat lv).emit (coreBlock g) 0x0211 0 g f.imm.toNat).advance g id)
      else if (d.core g).dma.isEmpty then .ok (false, (d.yielded g f.imm.toNat lv).yieldNow g f.imm.toNat lv)
      else .ok (false, (d.yielded g f.imm.toNat lv).hold g (.yld f) (d.remoteDma g)) := by
  have none_borrowed : (d.coresOn (d.ctxOn g)).any (fun h => !(d.core h).borrow.isEmpty) = false := by
    rw [List.any_eq_false]
    intro h m
    rw [borrows h m]
    decide
  unfold yldOp
  dsimp only
  rw [sems, none_borrowed, live, decide_eq_false (by omega)]
  rfl

theorem yldOp_saves {d : Dev} {g : Nat} {lv : Nat × List (Nat × Nat)} (index : f.imm.toNat < 65536) (sems : d.semsHeld (d.ctxOn g) = [])
    (borrows : ∀ h ∈ d.coresOn (d.ctxOn g), (d.core h).borrow = []) (live : d.liveOf (d.ctxOn g) f.imm.toNat = some lv)
    (yielding : (d.ctx (d.ctxOn g)).state = .yielding) (tickets : d.ticketsOut g = false) (dma : (d.core g).dma = []) :
    yldOp f d g = .ok (false, (d.yielded g f.imm.toNat lv).yieldNow g f.imm.toNat lv) := by
  rw [yldOp_eq index sems borrows live, if_neg (not_not_intro yielding), tickets, dma]
  rfl

theorem yld_running (clean : s.dev.Clean u) {lv : Nat × List (Nat × Nat)} (index : f.imm.toNat < 65536) (sems : s.dev.semsHeld (s.dev.ctxOn u.core) = [])
    (borrows : ∀ h ∈ s.dev.coresOn (s.dev.ctxOn u.core), (s.dev.core h).borrow = []) (live : s.dev.liveOf (s.dev.ctxOn u.core) f.imm.toNat = some lv)
    (running : (s.dev.ctx (s.dev.ctxOn u.core)).state ≠ .yielding) :
    s.AnswersSettled (exec (.yld u f) s) (fun d =>
      s.dev.Put u.core { (s.coreOf u).retired (s.regsOf u) with ckpt := some ((s.coreOf u).checkpoint f.imm.toNat lv) } d ∧
      d = { s.dev with out := [], cores := d.cores, gau := d.gau }) :=
  State.answersSettled_of clean fun ga => by
    refine ⟨_, _, (yldOp_eq (d := { s.dev with out := [], gau := ga }) index sems borrows live).trans (if_pos running), ?_⟩
    obtain ⟨put, rest⟩ := Dev.yielded_put clean ga f.imm.toNat lv rfl
    generalize Dev.yielded { s.dev with out := [], gau := ga } u.core f.imm.toNat lv = e at put rest
    obtain ⟨next, moved⟩ := put.advance clean (by rw [rest]) (by rw [rest]) id
    exact ⟨next, by rw [moved, rest]⟩

theorem yld_saves (clean : s.dev.Clean u) {lv : Nat × List (Nat × Nat)} (index : f.imm.toNat < 65536) (sems : s.dev.semsHeld (s.dev.ctxOn u.core) = [])
    (borrows : ∀ h ∈ s.dev.coresOn (s.dev.ctxOn u.core), (s.dev.core h).borrow = []) (live : s.dev.liveOf (s.dev.ctxOn u.core) f.imm.toNat = some lv)
    (yielding : (s.dev.ctx (s.dev.ctxOn u.core)).state = .yielding) (tickets : s.dev.ticketsOut u.core = false) (dma : (s.coreOf u).dma = []) :
    s.AnswersSettled (exec (.yld u f) s) (fun d =>
      ((d.core u.core).st = .saved ∨ (d.ctx (s.dev.ctxOn u.core)).state = .suspended) ∧ (d.core u.core).regs = s.regsOf u ∧ (d.core u.core).pc = s.pcOf u ∧
      (FMap.get none d.jfe.saves (4096 * s.dev.ctxOn u.core + u.core)).map (·.ck) = some ((s.coreOf u).checkpoint f.imm.toNat lv)) :=
  State.answersSettled_of clean fun ga => by
    refine ⟨_, _, yldOp_saves (d := { s.dev with out := [], gau := ga }) index sems borrows live yielding tickets dma, ?_⟩
    obtain ⟨put, rest⟩ := Dev.yielded_put clean ga f.imm.toNat lv rfl
    generalize Dev.yielded { s.dev with out := [], gau := ga } u.core f.imm.toNat lv = e at put rest
    have ctx : e.ctxOn u.core = s.dev.ctxOn u.core := by unfold Dev.ctxOn; rw [put.core]; rfl
    obtain ⟨regs, pc, slot, stopped⟩ := Dev.save_spec (d := e) (c := e.ctxOn u.core) (g := u.core) (ck := (e.core u.core).checkpoint f.imm.toNat lv)
      (fun j => clean.lead (by rw [rest] at j; exact j))
    unfold Dev.yieldNow
    rw [ctx] at regs pc slot stopped ⊢
    rw [put.core] at regs pc slot stopped ⊢
    exact ⟨stopped, regs, pc, slot⟩

/-! ### END -/

theorem Dev.suspendIfSaved_of_not_yielding {d : Dev} {c : Nat} (h : (d.ctx c).state ≠ .yielding) : d.suspendIfSaved c = d :=
  if_neg fun both => h both.1

/-- A core after END. -/
def Core.ended (k : Core) : Core := { k with st := .idle, ctx := none, tickets := [], wait := .none, remoteSince := none, ckpt := none, halted := false }

theorem Dev.endDone_eq {d : Dev} {g : Nat} (tickets : (d.core g).tickets = []) (running : (d.ctx (d.ctxOn g)).state ≠ .yielding) :
    d.endDone g = (d.putCore g (d.core g).ended).modCtx (d.ctxOn g) (fun x => { x with coresLeft := x.coresLeft - 1 }) := by
  have ctx : (d.putCore g (d.core g).ended).ctx (d.ctxOn g) = d.ctx (d.ctxOn g) := by rw [Dev.putCore_cores]; rfl
  have same : d.endDone g = ((d.putCore g (d.core g).ended).modCtx (d.ctxOn g) (fun x => { x with coresLeft := x.coresLeft - 1 })).suspendIfSaved (d.ctxOn g) := by
    unfold Dev.endDone
    dsimp only
    rw [tickets]
    rfl
  rw [same, Dev.suspendIfSaved_of_not_yielding]
  unfold Dev.modCtx Dev.setCtx Dev.ctx at *
  dsimp only
  rw [FMap.get_set_self, ctx]
  exact running

theorem Dev.endDone_spec {d : Dev} {g : Nat} (tickets : (d.core g).tickets = []) (running : (d.ctx (d.ctxOn g)).state ≠ .yielding) :
    (d.endDone g).cores = (d.putCore g (d.core g).ended).cores ∧
    (d.endDone g).ctx (d.ctxOn g) = { d.ctx (d.ctxOn g) with coresLeft := (d.ctx (d.ctxOn g)).coresLeft - 1 } ∧
    (∀ b, b ≠ d.ctxOn g → (d.endDone g).ctx b = d.ctx b) ∧ (d.endDone g).mem = d.mem := by
  rw [Dev.endDone_eq tickets running]
  have rest := Dev.putCore_cores d g (d.core g).ended
  generalize d.putCore g (d.core g).ended = e at rest ⊢
  have ctxs : ∀ b, e.ctx b = d.ctx b := fun b => by rw [rest]; rfl
  refine ⟨rfl, ?_, fun b other => ?_, by rw [rest]; rfl⟩
  · exact (FMap.get_set_self _ _ _ _).trans (by rw [ctxs])
  · exact (Dev.ctx_setCtx_ne _ _ other).trans (ctxs b)

theorem endOp_done {d : Dev} {g : Nat} (sems : d.semsHeld (d.ctxOn g) = []) (borrow : (d.core g).borrow = []) (dma : (d.core g).dma = [])
    (tickets : (d.core g).tickets = []) : endOp f d g = .ok (false, d.endDone g) := by
  have out : d.ticketsOut g = false := by unfold Dev.ticketsOut; rw [tickets]; rfl
  unfold endOp
  rw [sems, borrow, dma, out]
  rfl

theorem end_stops (clean : s.dev.Clean u) (sems : s.dev.semsHeld (s.dev.ctxOn u.core) = []) (borrow : (s.coreOf u).borrow = []) (dma : (s.coreOf u).dma = [])
    (tickets : (s.coreOf u).tickets = []) (running : (s.dev.ctx (s.dev.ctxOn u.core)).state ≠ .yielding) :
    s.AnswersSettled (exec (.end_ u f) s) (fun d => s.dev.Put u.core (s.coreOf u).ended d ∧
      d.ctx (s.dev.ctxOn u.core) = { s.dev.ctx (s.dev.ctxOn u.core) with coresLeft := (s.dev.ctx (s.dev.ctxOn u.core)).coresLeft - 1 } ∧
      (∀ b, b ≠ s.dev.ctxOn u.core → d.ctx b = s.dev.ctx b) ∧ d.mem = s.dev.mem) :=
  State.answersSettled_of clean fun ga => by
    refine ⟨_, _, endOp_done (d := { s.dev with out := [], gau := ga }) sems borrow dma tickets, ?_⟩
    obtain ⟨cores, own, others, mem⟩ := Dev.endDone_spec (d := { s.dev with out := [], gau := ga }) tickets running
    exact ⟨(Dev.putCore_issue clean (s.coreOf u).ended ga).1.congr cores, own, others, mem⟩

/-! ### Not while something is held -/

theorem yld_held (clean : s.dev.Clean u) (sems : s.dev.semsHeld (s.dev.ctxOn u.core) ≠ []) (index : f.imm.toNat < 65536) :
    s.Faults u .heldAtBoundary (exec (.yld u f) s) :=
  State.syncFaults_of clean fun ga => by
    have held : (s.dev.semsHeld (s.dev.ctxOn u.core)).isEmpty = false := by simpa using sems
    unfold yldOp
    dsimp only
    change faultIf _ _ (faultIf (!(s.dev.semsHeld (s.dev.ctxOn u.core)).isEmpty || _) _ _) = _
    rw [held, decide_eq_false (by omega)]
    rfl

theorem end_held (clean : s.dev.Clean u) (held : s.dev.semsHeld (s.dev.ctxOn u.core) ≠ [] ∨ (s.coreOf u).borrow ≠ []) :
    s.Faults u .heldAtBoundary (exec (.end_ u f) s) :=
  State.syncFaults_of clean fun ga => by
    unfold endOp
    change faultIf (!(s.dev.semsHeld (s.dev.ctxOn u.core)).isEmpty || !(s.coreOf u).borrow.isEmpty) _ _ = _
    rw [faultIf, if_pos (by simpa [imp_iff_not_or] using held)]

end

/-- Settles O27: a checkpoint leaves its context running or, once the context yields and nothing is outstanding, becomes the core's save. -/
theorem yieldAndEnd : Obligations.YieldAndEnd := by
  unfold Obligations.YieldAndEnd
  intro s u f clean k r c i
  refine ⟨?yields, yld_held clean, end_held clean, ?ends⟩
  case yields =>
    intro lv index sems borrows live ck
    exact ⟨fun running => yld_running clean index sems borrows live (by rw [running]; decide), fun yielding => yld_saves clean index sems borrows live yielding⟩
  case ends =>
    intro sems borrow dma tickets running
    exact end_stops clean sems borrow dma tickets (by rw [running]; decide)

end Sys2Proof.Machine
end

section
/-! SUPPORT. EISS, EPOLL and EWAIT (R112, R113). -/
namespace Sys2Proof.Machine

section
variable {s : State} {u : Issue} {f : FmtE} {tk : Ticket}

theorem Dev.ticketOf_known {d : Dev} {g : Nat} (dest : isSA f.d = true) (name : isSA f.a = true) (word : ((d.core g).regs.readSA f.a).toNat < 2 ^ 32)
    (known : d.ticket (d.ctxOn g) ((d.core g).regs.readSA f.a).toNat = some tk) : d.ticketOf g f = .ok tk.st := by
  unfold Dev.ticketOf
  rw [dest, name, known]
  dsimp only
  rw [if_pos word]
  rfl

/-- What EPOLL tells of a ticket. -/
def TicketSt.told : TicketSt → Nat
  | .done st => 256 + st.toNat
  | .pending => 0

theorem epoll_tells (clean : s.dev.Clean u) {st : TicketSt} (ticket : ∀ ga, Dev.ticketOf { s.dev with out := [], gau := ga } u.core f = .ok st) :
    s.Issues u ((s.coreOf u).retired ((s.regsOf u).writeSA f.d (BitVec.ofNat 64 st.told))) (exec (.epoll u f) s) :=
  State.issues_of clean false _ fun ga => by
    have op : epollOp f { s.dev with out := [], gau := ga } u.core = .ok (false,
        Dev.advance { s.dev with out := [], gau := ga } u.core (fun k => { k with regs := k.regs.writeNat f.d st.told })) := by
      unfold epollOp
      rw [ticket ga]
      rfl
    exact ⟨_, _, op, Dev.give_issue clean ga f.d _ rfl⟩

theorem ewait_tells (clean : s.dev.Clean u) {st : BitVec 8} (ticket : ∀ ga, Dev.ticketOf { s.dev with out := [], gau := ga } u.core f = .ok (.done st)) :
    s.Issues u ((s.coreOf u).retired ((s.regsOf u).writeSA f.d (BitVec.ofNat 64 st.toNat))) (exec (.ewait u f) s) :=
  State.issues_of clean false _ fun ga => by
    have op : ewaitOp f { s.dev with out := [], gau := ga } u.core = .ok (false,
        Dev.advance { s.dev with out := [], gau := ga } u.core (fun k => { k with regs := k.regs.writeNat f.d st.toNat })) := by
      unfold ewaitOp
      rw [ticket ga]
    exact ⟨_, _, op, Dev.give_issue clean ga f.d _ rfl⟩

theorem ewait_waits (clean : s.dev.Clean u) (ticket : ∀ ga, Dev.ticketOf { s.dev with out := [], gau := ga } u.core f = .ok .pending) :
    s.Issues u ((s.coreOf u).waits (.ewait f) none) (exec (.ewait u f) s) :=
  State.issues_of clean false _ fun ga => by
    have op : ewaitOp f { s.dev with out := [], gau := ga } u.core = .ok (false, Dev.hold { s.dev with out := [], gau := ga } u.core (.ewait f) false) := by
      unfold ewaitOp
      rw [ticket ga]
    exact ⟨_, _, op, Dev.hold_issue clean ga (.ewait f) false rfl⟩

end

/-- Settles O28: EISS queues its command behind the partition's others; EPOLL and EWAIT read the ticket's state. -/
theorem engineCommandResults : Obligations.EngineCommandResults := by
  unfold Obligations.EngineCommandResults
  intro s u f clean k r c x tgt a die
  refine ⟨?eiss, ?tickets⟩
  case eiss =>
    intro p low dies dest base aligned inside part allows granted writes shut queue room
    exact State.answersSettled_of clean fun ga => by
      obtain ⟨e, op, t, cmd, seq, engine, ofDie, put, rest⟩ := eiss_ok (d := { s.dev with out := [], gau := ga }) (g := u.core) (die := die)
        clean.points clean.lead low dies dest base aligned rfl inside part allows granted writes shut room
      exact ⟨_, e, op, t, cmd, seq, engine, ofDie, put.from rfl rfl, rest⟩
  case tickets =>
    intro tk dest name word known
    have ticket (ga : Gauge) : Dev.ticketOf { s.dev with out := [], gau := ga } u.core f = .ok tk.st :=
      Dev.ticketOf_known (d := { s.dev with out := [], gau := ga }) dest name word known
    refine ⟨fun pending => ?_, fun st done => ?_⟩
    · rw [pending] at ticket
      exact ⟨epoll_tells clean ticket, ewait_waits clean ticket⟩
    · rw [done] at ticket
      exact ⟨epoll_tells clean ticket, ewait_tells clean ticket⟩

end Sys2Proof.Machine
end

section
/-! SUPPORT. CRDB and CRDR (R112, R116, R356). -/
namespace Sys2Proof.Machine

section
variable {s : State} {u : Issue} {f : FmtE}

theorem Dev.ports_advance (clean : s.dev.Clean u) (ga : Gauge) (die p : Nat) (pt : Port) (fn : Core → Core) {d : Dev}
    (h : d = (Dev.setPort { s.dev with out := [], gau := ga } die p pt).advance u.core fn) :
    s.dev.Put u.core { fn (s.coreOf u) with pc := (fn (s.coreOf u)).pc + 8 } d ∧ d = { s.dev with out := [], cores := d.cores, gau := d.gau, ports := d.ports } ∧
    d.ports = (s.dev.setPort die p pt).ports := by
  obtain ⟨put, rest⟩ := Dev.advance_over (e := Dev.setPort { s.dev with out := [], gau := ga } die p pt) clean rfl rfl rfl fn
  rw [← h] at put rest
  exact ⟨put, by rw [rest]; rfl, by rw [rest]; rfl⟩

/-! ### Borrowing -/

/-- The core that a CRDB has given `n` flits. -/
def Core.lent (p n : Nat) (k : Core) : Core := { k with borrow := FMap.set none k.borrow p (some n) }

/-- A CRDB that its port and the partition's pool allow. -/
theorem crdbOp_eq {d : Dev} {g : Nat} (port : f.tgt.toNat ≤ 2) (first : FMap.get none (d.core g).borrow f.tgt.toNat = none) (pos : 0 < f.imm.toNat)
    (max : f.imm.toNat ≤ 64) (pool : f.imm.toNat ≤ d.poolOf g f.tgt.toNat) :
    crdbOp f d g =
      if d.portIdle g f.tgt.toNat then .ok (false, d.advance g (Core.lent f.tgt.toNat 0))
      else if f.imm.toNat ≤ d.poolLeft g f.tgt.toNat then
        .ok (false, (d.setPort (coreDie g) f.tgt.toNat { d.port (coreDie g) f.tgt.toNat with
          borrowed := FMap.modify 0 (d.port (coreDie g) f.tgt.toNat).borrowed (d.ctx (d.ctxOn g)).part (· + f.imm.toNat) }).advance g (Core.lent f.tgt.toNat f.imm.toNat))
      else .ok (false, d.hold g (.crdb f) false) := by
  have zero : (f.imm.toNat == 0) = false := by simp; omega
  unfold crdbOp
  dsimp only
  rw [decide_eq_false (by omega), first, zero, decide_eq_false (by omega), decide_eq_false (by omega)]
  rfl

theorem crdb_idle (clean : s.dev.Clean u) (port : f.tgt.toNat ≤ 2) (first : FMap.get none (s.coreOf u).borrow f.tgt.toNat = none) (pos : 0 < f.imm.toNat)
    (max : f.imm.toNat ≤ 64) (pool : f.imm.toNat ≤ s.dev.poolOf u.core f.tgt.toNat) (idle : s.dev.portIdle u.core f.tgt.toNat = true) :
    s.Issues u { (s.coreOf u).retired (s.regsOf u) with borrow := FMap.set none (s.coreOf u).borrow f.tgt.toNat (some 0) } (exec (.crdb u f) s) :=
  State.issues_of clean false _ fun ga =>
    ⟨_, _, (crdbOp_eq (d := { s.dev with out := [], gau := ga }) port first pos max pool).trans (if_pos idle), Dev.advance_issue clean ga (Core.lent f.tgt.toNat 0) rfl⟩

theorem crdb_waits (clean : s.dev.Clean u) (port : f.tgt.toNat ≤ 2) (first : FMap.get none (s.coreOf u).borrow f.tgt.toNat = none) (pos : 0 < f.imm.toNat)
    (max : f.imm.toNat ≤ 64) (pool : f.imm.toNat ≤ s.dev.poolOf u.core f.tgt.toNat) (idle : s.dev.portIdle u.core f.tgt.toNat = false)
    (few : s.dev.poolLeft u.core f.tgt.toNat < f.imm.toNat) : s.Issues u ((s.coreOf u).waits (.crdb f) none) (exec (.crdb u f) s) :=
  State.issues_of clean false _ fun ga =>
    ⟨_, _, (crdbOp_eq (d := { s.dev with out := [], gau := ga }) port first pos max pool).trans
      ((if_neg (Bool.eq_false_iff.1 idle)).trans (if_neg (Nat.not_le.2 few))), Dev.hold_issue clean ga (.crdb f) false rfl⟩

theorem crdb_borrows (clean : s.dev.Clean u) (port : f.tgt.toNat ≤ 2) (first : FMap.get none (s.coreOf u).borrow f.tgt.toNat = none) (pos : 0 < f.imm.toNat)
    (max : f.imm.toNat ≤ 64) (pool : f.imm.toNat ≤ s.dev.poolOf u.core f.tgt.toNat) (idle : s.dev.portIdle u.core f.tgt.toNat = false)
    (enough : f.imm.toNat ≤ s.dev.poolLeft u.core f.tgt.toNat) :
    let part := (s.dev.ctx (s.dev.ctxOn u.core)).part
    let pt := s.dev.port (coreDie u.core) f.tgt.toNat
    s.Answers (exec (.crdb u f) s) (fun d =>
      s.dev.Put u.core { (s.coreOf u).retired (s.regsOf u) with borrow := FMap.set none (s.coreOf u).borrow f.tgt.toNat (some f.imm.toNat) } d ∧
      d = { s.dev with out := [], cores := d.cores, gau := d.gau, ports := d.ports } ∧
      d.ports = (s.dev.setPort (coreDie u.core) f.tgt.toNat { pt with borrowed := FMap.set 0 pt.borrowed part (FMap.get 0 pt.borrowed part + f.imm.toNat) }).ports) :=
  answers_of clean fun ga => by
    refine ⟨_, _, (crdbOp_eq (d := { s.dev with out := [], gau := ga }) port first pos max pool).trans
      ((if_neg (Bool.eq_false_iff.1 idle)).trans (if_pos enough)), ?_⟩
    exact Dev.ports_advance clean ga _ _ _ (Core.lent f.tgt.toNat f.imm.toNat) rfl

/-! ### Giving back -/

/-- A core that has given its borrow on port `p` back. -/
def Core.repaid (p : Nat) (k : Core) : Core := { k with borrow := FMap.set none k.borrow p none }

theorem Dev.returnBorrow_eq {d : Dev} {g p m : Nat} (lent : FMap.get none (d.core g).borrow p = some m) (working : (d.core g).ctx ≠ none) :
    d.returnBorrow g p = (d.setPort (coreDie g) p { d.port (coreDie g) p with
      borrowed := FMap.set 0 (d.port (coreDie g) p).borrowed (d.ctx (d.ctxOn g)).part (FMap.get 0 (d.port (coreDie g) p).borrowed (d.ctx (d.ctxOn g)).part - m) }).modCore g
        (Core.repaid p) := by
  obtain ⟨c, ctx⟩ := Option.ne_none_iff_exists'.1 working
  unfold Dev.returnBorrow Dev.ctxOn
  dsimp only
  rw [lent, ctx]
  rfl

theorem crdrOp_ok {d : Dev} {g m : Nat} (port : f.tgt.toNat ≤ 2) (lent : FMap.get none (d.core g).borrow f.tgt.toNat = some m) :
    crdrOp f d g = .ok (false, (d.returnBorrow g f.tgt.toNat).advance g id) := by
  unfold crdrOp
  dsimp only
  rw [decide_eq_false (by omega), lent]
  rfl

/-- A core that is changed on its own and then goes on: its follow gets what it has then. -/
theorem Dev.modCore_advance {d : Dev} {g : Nat} (points : ∀ b ∈ (FMap.get Points.none d.dbg.points g).bp, b = none) (lead : d.isJoined g = true → g % 2 = 0)
    (fn : Core → Core) :
    d.Put g { fn (d.core g) with pc := (fn (d.core g)).pc + 8 } ((d.modCore g fn).advance g id) ∧
    (d.modCore g fn).advance g id = { d with cores := ((d.modCore g fn).advance g id).cores } := by
  have core : (d.modCore g fn).core g = fn (d.core g) := Dev.core_setCore_self _ _ _
  rw [Dev.advance_eq (d.modCore g fn) g id points, core]
  refine ⟨(Dev.put_putCore (d.modCore g fn) g _ lead).from_other (fun i other => Dev.core_setCore_ne _ _ other) rfl, ?_⟩
  rw [Dev.putCore_cores]
  rfl

theorem Dev.ports_modCore_advance (clean : s.dev.Clean u) (ga : Gauge) (die p : Nat) (pt : Port) (fn : Core → Core) {d : Dev}
    (h : d = ((Dev.setPort { s.dev with out := [], gau := ga } die p pt).modCore u.core fn).advance u.core id) :
    s.dev.Put u.core { fn (s.coreOf u) with pc := (fn (s.coreOf u)).pc + 8 } d ∧ d = { s.dev with out := [], cores := d.cores, gau := d.gau, ports := d.ports } ∧
    d.ports = (s.dev.setPort die p pt).ports := by
  obtain ⟨put, rest⟩ := Dev.modCore_advance (d := Dev.setPort { s.dev with out := [], gau := ga } die p pt) (g := u.core) clean.points clean.lead fn
  rw [← h] at put rest
  exact ⟨put.from rfl rfl, by rw [rest]; rfl, by rw [rest]; rfl⟩

theorem crdr_returns (clean : s.dev.Clean u) (port : f.tgt.toNat ≤ 2) {m : Nat} (lent : FMap.get none (s.coreOf u).borrow f.tgt.toNat = some m)
    (working : (s.coreOf u).ctx ≠ none) :
    let part := (s.dev.ctx (s.dev.ctxOn u.core)).part
    let pt := s.dev.port (coreDie u.core) f.tgt.toNat
    s.AnswersSettled (exec (.crdr u f) s) (fun d =>
      s.dev.Put u.core { (s.coreOf u).retired (s.regsOf u) with borrow := FMap.set none (s.coreOf u).borrow f.tgt.toNat none } d ∧
      d = { s.dev with out := [], cores := d.cores, gau := d.gau, ports := d.ports } ∧
      d.ports = (s.dev.setPort (coreDie u.core) f.tgt.toNat { pt with borrowed := FMap.set 0 pt.borrowed part (FMap.get 0 pt.borrowed part - m) }).ports) := by
  intro part pt
  refine State.answersSettled_of clean fun ga => ⟨_, _, crdrOp_ok (d := { s.dev with out := [], gau := ga }) port lent, ?_⟩
  rw [Dev.returnBorrow_eq (d := { s.dev with out := [], gau := ga }) lent working]
  exact Dev.ports_modCore_advance clean ga _ _ _ (Core.repaid f.tgt.toNat) rfl

end

/-- Settles O29: the port and the pool decide whether a CRDB borrows, borrows nothing or waits; a CRDR undoes the borrow. -/
theorem creditResults : Obligations.CreditResults := by
  unfold Obligations.CreditResults
  intro s u f clean port k r p n part pt
  refine ⟨?crdb, fun m lent working => crdr_returns clean port lent working⟩
  case crdb =>
    intro first pos max pool
    exact ⟨crdb_idle clean port first pos max pool, crdb_borrows clean port first pos max pool, crdb_waits clean port first pos max pool⟩

end Sys2Proof.Machine
end

section
/-! SUPPORT. EPRD, EPWAIT and EPRSLV (R114, R202). -/
namespace Sys2Proof.Machine

section
variable {s : State} {u : Issue} {f : FmtE} {n a : Nat}

/-! ### Reading an epoch -/

/-- What EPRD tells of an epoch. -/
def Dev.epochTold (d : Dev) (e : Nat) : Nat :=
  if d.specOff then 2 else match (d.epoch e).state with
    | .confirmed => 1
    | .squashed => 2
    | _ => 0

theorem epochTold_check {d : Dev} {g : Nat} (low : f.imm.toNat < 256) (dest : isSA f.d = true) (declared : d.declares (d.ctxOn g) (f.imm.toNat % 256) = true) :
    d.epochCheck g f = .ok (d.epochTold (f.imm.toNat % 256)) := epochCheck_ok low dest declared

theorem eprd_tells (clean : s.dev.Clean u) (low : f.imm.toNat < 256) (dest : isSA f.d = true)
    (declared : s.dev.declares (s.dev.ctxOn u.core) (f.imm.toNat % 256) = true) :
    s.Issues u ((s.coreOf u).retired ((s.regsOf u).writeSA f.d (BitVec.ofNat 64 (s.dev.epochTold (f.imm.toNat % 256))))) (exec (.eprd u f) s) :=
  State.issues_of clean false _ fun ga => by
    have op : eprdOp f { s.dev with out := [], gau := ga } u.core = .ok (false, Dev.advance { s.dev with out := [], gau := ga } u.core
        (fun k => { k with regs := k.regs.writeNat f.d (s.dev.epochTold (f.imm.toNat % 256)) })) := by
      unfold eprdOp
      rw [epochTold_check (d := { s.dev with out := [], gau := ga }) low dest declared]
      rfl
    exact ⟨_, _, op, Dev.give_issue clean ga f.d _ rfl⟩

theorem epwaitOp_eq (low : f.imm.toNat < 256) (dest : isSA f.d = true) (declared : s.dev.declares (s.dev.ctxOn u.core) (f.imm.toNat % 256) = true) (ga : Gauge) :
    epwaitOp f { s.dev with out := [], gau := ga } u.core = .ok (false, if s.dev.epochTold (f.imm.toNat % 256) = 0 then
        Dev.hold { s.dev with out := [], gau := ga } u.core (.epwait f) false
      else Dev.advance { s.dev with out := [], gau := ga } u.core (fun k => { k with regs := k.regs.writeNat f.d (s.dev.epochTold (f.imm.toNat % 256)) })) := by
  unfold epwaitOp
  rw [epochTold_check (d := { s.dev with out := [], gau := ga }) low dest declared]
  rfl

theorem epwait_tells (clean : s.dev.Clean u) (low : f.imm.toNat < 256) (dest : isSA f.d = true)
    (declared : s.dev.declares (s.dev.ctxOn u.core) (f.imm.toNat % 256) = true) (decided : s.dev.epochTold (f.imm.toNat % 256) ≠ 0) :
    s.Issues u ((s.coreOf u).retired ((s.regsOf u).writeSA f.d (BitVec.ofNat 64 (s.dev.epochTold (f.imm.toNat % 256))))) (exec (.epwait u f) s) :=
  State.issues_of clean false _ fun ga =>
    ⟨_, _, epwaitOp_eq low dest declared ga, by rw [if_neg decided]; exact Dev.give_issue clean ga f.d _ rfl⟩

theorem epwait_waits (clean : s.dev.Clean u) (low : f.imm.toNat < 256) (dest : isSA f.d = true)
    (declared : s.dev.declares (s.dev.ctxOn u.core) (f.imm.toNat % 256) = true) (undecided : s.dev.epochTold (f.imm.toNat % 256) = 0) :
    s.Issues u ((s.coreOf u).waits (.epwait f) none) (exec (.epwait u f) s) :=
  State.issues_of clean false _ fun ga =>
    ⟨_, _, epwaitOp_eq low dest declared ga, by rw [if_pos undecided]; exact Dev.hold_issue clean ga (.epwait f) false rfl⟩

/-! ### Resolving an epoch -/

/-- What an EPRSLV passes its checks with: it names `n` values at the local-store address `a`. -/
structure Dev.Resolver (d : Dev) (g : Nat) (f : FmtE) (n a : Nat) : Prop where
  dest : isSA f.d = true
  declared : d.declares (d.ctxOn g) (f.imm.toNat % 256) = true
  values : n = f.imm.toNat / 256 + 1
  few : n ≤ 8
  base : isKind f.a .a = true
  address : a = ((d.core g).regs.getA (regNum f.a)).toNat
  inside : a + 4 * n ≤ 0x40000
  aligned : a % 4 = 0

theorem Dev.Resolver.counted (w : s.dev.Resolver u.core f n a) (ga : Gauge) : Dev.Resolver { s.dev with out := [], gau := ga } u.core f n a :=
  ⟨w.dest, w.declared, w.values, w.few, w.base, w.address, w.inside, w.aligned⟩

/-- An EPRSLV whose operands pass goes by what stands of its epoch. -/
theorem eprslvOp_eq {d : Dev} {g : Nat} (w : d.Resolver g f n a) :
    eprslvOp f d g =
      let e := f.imm.toNat % 256
      let mine := (d.ctx (d.ctxOn g)).inv.resolver == e
      match d.rslvOutcome e with
      | some v => .ok (true, d.advance g (fun k => { k with regs := k.regs.writeNat f.d v }))
      | none =>
        if (d.epoch e).state = .opened then
          faultIf ((d.epoch e).kinds.length != n) .epoch <|
          .ok (true, (if mine then (d.lsLoad g a (4 * n)).2.resolve e ((List.range n).map (f32At (d.lsLoad g a (4 * n)).1 0)) else (d.lsLoad g a (4 * n)).2).hold g (.eprslv f) false)
        else if mine then
          .ok (true, ((d.setEpoch e { Epoch.free with state := .confirmed, owner := noOwner, openedNs := d.clock }).emit .jfe 0x0310 0 e 0).advance g
            (fun k => { k with regs := k.regs.writeNat f.d 0 }))
        else .ok (true, d.hold g (.eprslv f) false) := by
  have number : f.imm.toNat / 256 % 16 + 1 = n := by have := w.values; have := w.few; omega
  have small : f.imm.toNat < 4096 := by have := w.values; have := w.few; omega
  have aligned : (a % 4 != 0) = false := by rw [w.aligned]; rfl
  have few := w.few
  unfold eprslvOp
  dsimp only
  rw [number, ← w.address, decide_eq_false (by omega), w.dest, w.base, lsOut_eq_false (by omega) (by have := w.inside; omega), aligned]
  unfold epochOf
  rw [w.declared, decide_eq_false (by omega)]
  rfl

theorem eprslv_outcome (clean : s.dev.Clean u) (w : s.dev.Resolver u.core f n a) {v : Nat} (outcome : s.dev.rslvOutcome (f.imm.toNat % 256) = some v) :
    s.AnswersSettled (exec (.eprslv u f) s) (fun d => s.dev.Put u.core ((s.coreOf u).retired ((s.regsOf u).writeSA f.d (BitVec.ofNat 64 v))) d ∧
      d = { s.dev with out := [], cores := d.cores, gau := d.gau }) :=
  State.answersSettled_of clean fun ga => by
    have op : eprslvOp f { s.dev with out := [], gau := ga } u.core = .ok (true, Dev.advance { s.dev with out := [], gau := ga } u.core
        (fun k => { k with regs := k.regs.writeNat f.d v })) := by
      rw [eprslvOp_eq (d := { s.dev with out := [], gau := ga }) (n := n) (a := a) (w.counted ga)]
      have stands : Dev.rslvOutcome { s.dev with out := [], gau := ga } (f.imm.toNat % 256) = some v := outcome
      dsimp only
      rw [stands]
    exact ⟨_, _, op, Dev.give_issue clean ga f.d v rfl⟩

/-- The values an EPRSLV reads. -/
def Core.resolved (k : Core) (a n : Nat) : List Nat := (List.range n).map (fun i => leNat (k.lsRead (a + 4 * i) 4))

theorem lsRead_window (k : Core) (a : Nat) {n i l : Nat} (inside : i + l ≤ n) : ((k.lsRead a n).drop i).take l = k.lsRead (a + i) l := by
  refine List.ext_getElem (by simp [length_lsRead]; omega) fun j h1 h2 => ?_
  simp [Core.lsRead, Nat.add_assoc]

theorem resolved_eq (k : Core) (a n : Nat) : (List.range n).map (f32At (k.lsRead a (4 * n)) 0) = k.resolved a n :=
  List.map_congr_left fun i m => by
    have i_lt : i < n := List.mem_range.1 m
    rw [f32At, fieldAt, lsRead_window k a (by omega), Nat.zero_add]

/-- The device once an EPRSLV on an OPEN epoch has been judged. -/
def Dev.judged (d : Dev) (g e : Nat) (actual : List Nat) : Dev := if (d.ctx (d.ctxOn g)).inv.resolver == e then d.resolve e actual else d

theorem eprslvOp_open {d : Dev} {g : Nat} (w : d.Resolver g f n a) (spec : d.specOff = false) (opened : (d.epoch (f.imm.toNat % 256)).state = .opened)
    (kinds : (d.epoch (f.imm.toNat % 256)).kinds.length = n) (quiet : (d.core g).quiet a (4 * n)) :
    eprslvOp f d g = .ok (true, (d.judged g (f.imm.toNat % 256) ((d.core g).resolved a n)).hold g (.eprslv f) false) := by
  have undecided : d.rslvOutcome (f.imm.toNat % 256) = none := by
    unfold Dev.rslvOutcome
    rw [spec, opened]
    rfl
  have counted : ((d.epoch (f.imm.toNat % 256)).kinds.length != n) = false := by rw [kinds]; exact bne_self_eq_false _
  rw [eprslvOp_eq w]
  dsimp only
  rw [undecided, lsView_quiet quiet]
  dsimp only
  rw [if_pos opened, counted, resolved_eq]
  rfl

/-! ### The first EPRSLV of the resolver -/

/-- The job is the resolver, and the epoch has not been judged before. -/
def Dev.judgesFirst (d : Dev) (g e : Nat) : Prop := (d.ctx (d.ctxOn g)).inv.resolver = e ∧ (d.epoch e).held = false ∧ ∀ q ∈ d.jfe.squash, q.1 ≠ e

theorem Dev.judged_first {d : Dev} {g e : Nat} (first : d.judgesFirst g e) (actual : List Nat) :
    d.judged g e actual =
      if predictionHolds (d.epoch e).kinds actual (d.epoch e).predicted (d.epoch e).tolerance then d.setEpoch e { d.epoch e with held := true } else d.askSquash e 1 := by
  obtain ⟨mine, open_, waiting⟩ := first
  have unasked : d.jfe.squash.any (fun q => q.1 == e) = false := List.any_eq_false.2 fun q m => by simpa using waiting q m
  unfold Dev.judged Dev.resolve
  dsimp only
  rw [if_pos (beq_iff_eq.2 mine), open_, unasked]
  rfl

theorem Dev.judged_holds {d : Dev} {g e : Nat} {actual : List Nat} (first : d.judgesFirst g e)
    (holds : predictionHolds (d.epoch e).kinds actual (d.epoch e).predicted (d.epoch e).tolerance = true) :
    d.judged g e actual = d.setEpoch e { d.epoch e with held := true } := (Dev.judged_first first actual).trans (if_pos holds)

theorem Dev.judged_fails {d : Dev} {g e : Nat} {actual : List Nat} (first : d.judgesFirst g e)
    (fails : predictionHolds (d.epoch e).kinds actual (d.epoch e).predicted (d.epoch e).tolerance = false) :
    d.judged g e actual = d.askSquash e 1 := (Dev.judged_first first actual).trans (if_neg (Bool.eq_false_iff.1 fails))

theorem Dev.judged_later {d : Dev} {g e : Nat} (later : ¬ d.judgesFirst g e) (actual : List Nat) : d.judged g e actual = d := by
  unfold Dev.judged
  split
  next mine =>
    unfold Dev.resolve
    dsimp only
    refine if_pos (Bool.not_eq_false _ ▸ fun neither => later ?_)
    obtain ⟨open_, unasked⟩ := Bool.or_eq_false_iff.1 neither
    exact ⟨beq_iff_eq.1 mine, open_, fun q m => by simpa using List.any_eq_false.1 unasked q m⟩
  next => rfl

theorem Dev.judged_cores (d : Dev) (g e : Nat) (actual : List Nat) : (d.judged g e actual).cores = d.cores ∧ (d.judged g e actual).joined = d.joined := by
  by_cases first : d.judgesFirst g e
  · rw [Dev.judged_first first]
    split <;> exact ⟨rfl, rfl⟩
  · rw [Dev.judged_later first]
    exact ⟨rfl, rfl⟩

theorem eprslv_open (clean : s.dev.Clean u) (w : s.dev.Resolver u.core f n a) (spec : s.dev.specOff = false)
    (opened : (s.dev.epoch (f.imm.toNat % 256)).state = .opened) (kinds : (s.dev.epoch (f.imm.toNat % 256)).kinds.length = n)
    (quiet : (s.coreOf u).quiet a (4 * n)) :
    s.AnswersSettled (exec (.eprslv u f) s) (fun d => s.dev.Put u.core ((s.coreOf u).waits (.eprslv f) none) d ∧
      ∃ ga, d = { Dev.judged { s.dev with out := [], gau := ga } u.core (f.imm.toNat % 256) ((s.coreOf u).resolved a n) with cores := d.cores }) :=
  State.answersSettled_of clean fun ga => by
    have op := eprslvOp_open (d := { s.dev with out := [], gau := ga }) (n := n) (a := a) (w.counted ga) spec opened kinds quiet
    obtain ⟨cores, joined⟩ := Dev.judged_cores { s.dev with out := [], gau := ga } u.core (f.imm.toNat % 256) ((s.coreOf u).resolved a n)
    obtain ⟨put, rest⟩ := Dev.hold_over clean cores joined (.eprslv f)
    exact ⟨_, _, op, put, ga, rest⟩

end

/-- Settles O30: the epoch's state is told as it stands; the first EPRSLV of the resolver on an OPEN epoch judges its values against the prediction. -/
theorem epochResults : Obligations.EpochResults := by
  unfold Obligations.EpochResults
  intro s u f clean dest k r c e x declared
  refine ⟨?reads, ?resolves⟩
  case reads =>
    intro low v
    exact ⟨eprd_tells clean low dest declared, epwait_tells clean low dest declared, epwait_waits clean low dest declared⟩
  case resolves =>
    intro n values few base inside aligned done
    have w : s.dev.Resolver u.core f n (r.getA (regNum f.a)).toNat := ⟨dest, declared, values, few, base, rfl, inside, aligned⟩
    refine ⟨fun settled => ?settled, fun spec confirmed => ?confirmed, fun spec opened kinds quiet => ?opened⟩
    case settled =>
      refine eprslv_outcome clean w (v := 6) ?_
      unfold Dev.rslvOutcome
      rcases settled with off | squashed
      · rw [off]; rfl
      · rw [squashed]; exact ite_self _
    case confirmed =>
      refine eprslv_outcome clean w (v := 0) ?_
      unfold Dev.rslvOutcome
      rw [spec, confirmed]
      rfl
    case opened =>
      refine (eprslv_open clean w spec opened kinds quiet).imp fun d told => ?_
      obtain ⟨put, ga, judged⟩ := told
      refine ⟨put, fun first holds => ?_, fun first fails => ?_, fun later => ?_⟩
      · rw [Dev.judged_holds (d := { s.dev with out := [], gau := ga }) (e := f.imm.toNat % 256) (actual := (s.coreOf u).resolved (r.getA (regNum f.a)).toNat n) first holds] at judged
        refine ⟨?_, fun j other => ?_, ?_⟩
        · rw [judged]; exact FMap.get_set_self _ _ _ _
        · rw [judged]; exact FMap.get_set_ne _ _ _ other
        · rw [judged]; rfl
      · rw [Dev.judged_fails (d := { s.dev with out := [], gau := ga }) (e := f.imm.toNat % 256) (actual := (s.coreOf u).resolved (r.getA (regNum f.a)).toNat n) first fails] at judged
        rw [judged]
        rfl
      · rw [Dev.judged_later (d := { s.dev with out := [], gau := ga }) (e := f.imm.toNat % 256) later] at judged
        rw [judged]

end Sys2Proof.Machine
end

section
/-! SUPPORT. CID, FLGR, FLGC, TIME and GRD (R97, R112, R115, R521). -/
namespace Sys2Proof.Machine

section
variable {s : State} {u : Issue} {f : FmtE}

/-! ### CID and the flags -/

theorem cid_tells (clean : s.dev.Clean u) (dest : isSA f.d = true) {v : Nat} (v0 : f.tgt = 0 → v = u.core) (v1 : f.tgt = 1 → v = s.dev.ctxOn u.core)
    (v2 : f.tgt = 2 → v = (s.dev.ctx (s.dev.ctxOn u.core)).part) (v3 : f.tgt = 3 → v = if s.dev.isJoined u.core then 1 else 0) (low : f.tgt.toNat ≤ 3) :
    s.Issues u ((s.coreOf u).retired ((s.regsOf u).writeSA f.d (BitVec.ofNat 64 v))) (exec (.cid u f) s) :=
  State.issues_of clean false _ fun ga => by
    have told : (match f.tgt.toNat with
        | 0 => u.core
        | 1 => s.dev.ctxOn u.core
        | 2 => (s.dev.ctx (s.dev.ctxOn u.core)).part
        | _ => if s.dev.isJoined u.core then 1 else 0) = v := by
      have is (n : Nat) (h : f.tgt.toNat = n) : f.tgt = BitVec.ofNat _ n := by rw [← h, BitVec.ofNat_toNat, BitVec.setWidth_eq]
      rcases h : f.tgt.toNat with _ | _ | _ | _ | n
      · exact (v0 (is 0 h)).symm
      · exact (v1 (is 1 h)).symm
      · exact (v2 (is 2 h)).symm
      · exact (v3 (is 3 h)).symm
      · omega
    have op : cidOp f { s.dev with out := [], gau := ga } u.core = .ok (false, Dev.advance { s.dev with out := [], gau := ga } u.core
        (fun k => { k with regs := k.regs.writeNat f.d v })) := by
      rw [← told]
      unfold cidOp
      dsimp only
      rw [decide_eq_false (by omega), dest]
      rfl
    exact ⟨_, _, op, Dev.give_issue clean ga f.d v rfl⟩

theorem flgr_tells (clean : s.dev.Clean u) (dest : isSA f.d = true) :
    s.Issues u ((s.coreOf u).retired ((s.regsOf u).writeSA f.d ((s.regsOf u).flags.setWidth 64))) (exec (.flgr u f) s) := by
  rw [← BitVec.ofNat_toNat]
  exact State.issues_of clean false _ fun ga => by
    have op : flgrOp f { s.dev with out := [], gau := ga } u.core = .ok (false, Dev.advance { s.dev with out := [], gau := ga } u.core
        (fun k => { k with regs := k.regs.writeNat f.d k.regs.flags.toNat })) := by
      unfold flgrOp
      rw [dest]
      rfl
    exact ⟨_, _, op, Dev.advance_issue clean ga (fun k => { k with regs := k.regs.writeNat f.d k.regs.flags.toNat }) rfl⟩

theorem flgc_clears (clean : s.dev.Clean u) (low : f.imm.toNat < 32) :
    s.Issues u ((s.coreOf u).retired { s.regsOf u with flags := (s.regsOf u).flags &&& ~~~(BitVec.ofNat 5 f.imm.toNat) }) (exec (.flgc u f) s) := by
  rw [BitVec.ofNat_toNat]
  exact State.issues_of clean false _ fun ga => by
    have op : flgcOp f { s.dev with out := [], gau := ga } u.core = .ok (false, Dev.advance { s.dev with out := [], gau := ga } u.core
        (fun k => { k with regs := { k.regs with flags := k.regs.flags &&& ~~~(f.imm.setWidth 5) } })) := by
      unfold flgcOp
      rw [decide_eq_false (by omega)]
      rfl
    exact ⟨_, _, op, Dev.advance_issue clean ga (fun k => { k with regs := { k.regs with flags := k.regs.flags &&& ~~~(f.imm.setWidth 5) } }) rfl⟩

/-! ### TIME -/

/-- The die's copy of Plumb time that a draw gives, never before the core's last. -/
def State.timeTold (s : State) (u : Issue) (w : Nat) : Nat := max (s.dev.now + w % 11 - 5) (s.coreOf u).lastTime

theorem timeTold_close (w : Nat) (last : (s.coreOf u).lastTime ≤ s.dev.now + 5) : s.dev.now ≤ s.timeTold u w + 5 ∧ s.timeTold u w ≤ s.dev.now + 5 := by
  have window := Nat.mod_lt w (show 0 < 11 by decide)
  unfold State.timeTold
  omega

/-- A core that takes a drawn word. -/
theorem Dev.drawn_issue (clean : s.dev.Clean u) (ga : Gauge) (fn : Core → Core) {d : Dev}
    (h : d = (Dev.draw { s.dev with out := [], gau := ga }).2.advance u.core fn) :
    s.dev.Put u.core { fn (s.coreOf u) with pc := (fn (s.coreOf u)).pc + 8 } d ∧
    d = { s.dev with out := [], cores := d.cores, gau := d.gau, freeCtr := s.dev.freeCtr + 1 } := by
  obtain ⟨put, rest⟩ := Dev.advance_over (e := (Dev.draw { s.dev with out := [], gau := ga }).2) clean rfl rfl rfl fn
  rw [← h] at put rest
  exact ⟨put, by rw [rest]; rfl⟩

theorem time_tells (clean : s.dev.Clean u) (dest : isSA f.d = true) :
    s.Answers (exec (.time u f) s) (fun d => ∃ v, s.dev.Put u.core { (s.coreOf u).retired ((s.regsOf u).writeSA f.d (BitVec.ofNat 64 v)) with lastTime := v } d ∧
      (s.coreOf u).lastTime ≤ v ∧ ((s.coreOf u).lastTime ≤ s.dev.now + 5 → s.dev.now ≤ v + 5 ∧ v ≤ s.dev.now + 5) ∧
      d = { s.dev with out := [], cores := d.cores, gau := d.gau, freeCtr := s.dev.freeCtr + 1 }) :=
  answers_of clean fun ga => by
    obtain ⟨v, hv⟩ : ∃ v, v = s.timeTold u (Dev.draw { s.dev with out := [], gau := ga }).1.toNat := ⟨_, rfl⟩
    have op : timeOp f { s.dev with out := [], gau := ga } u.core = .ok (false, (Dev.draw { s.dev with out := [], gau := ga }).2.advance u.core
        (fun k => { k with regs := k.regs.writeNat f.d v, lastTime := v })) := by
      rw [hv]
      unfold timeOp
      rw [dest]
      rfl
    obtain ⟨put, rest⟩ := Dev.drawn_issue clean ga (fun k => { k with regs := k.regs.writeNat f.d v, lastTime := v }) rfl
    exact ⟨_, _, op, v, put, by rw [hv]; exact Nat.le_max_right _ _, fun last => by rw [hv]; exact timeTold_close _ last, rest⟩

/-! ### GRD -/

theorem grdOp_eq {d : Dev} {g : Nat} {p : Part} (low : f.imm.toNat ≤ 8) (dest : isSA f.d = true) (part : d.partOfCtx (d.ctxOn g) = some p) (user : p.gauUser = true) :
    grdOp f d g = .ok (false, (d.coreCounter g f.imm.toNat).2.advance g (fun k => { k with regs := k.regs.writeNat f.d (d.coreCounter g f.imm.toNat).1 })) := by
  unfold grdOp
  rw [decide_eq_false (by omega), dest, part]
  dsimp only
  rw [user]
  rfl

theorem timedEvent_iff (e : Nat) : timedEvent e = true ↔ e = 3 ∨ e = 5 ∨ e = 6 ∨ e = 9 ∨ e = 10 := by
  unfold timedEvent
  simp

/-- A counter that timing does not decide. -/
theorem Dev.coreCounter_exact {d : Dev} {g j : Nat} (exact : d.coreGauges = false ∨ j = 0 ∨ timedEvent (d.gaugeEvent j) = false) :
    d.coreCounter g j = (if d.coreGauges = false then 0 else if j = 0 then d.cycleCount g % 2 ^ 64 else FMap.get 0 d.gau.core (16 * g + j), d) := by
  unfold Dev.coreCounter
  by_cases off : d.coreGauges = false
  · simp [off]
  · by_cases first : j = 0
    · simp [off, first]
    · have steady : timedEvent (d.gaugeEvent j) = false := (exact.resolve_left off).resolve_left first
      simp [off, first, steady]

theorem Dev.coreCounter_timed {d : Dev} {g j : Nat} (on : d.coreGauges = true) (counter : j ≠ 0) (timed : timedEvent (d.gaugeEvent j) = true) :
    d.coreCounter g j = (d.draw.1.toNat % 2 ^ 48, d.draw.2) := by
  unfold Dev.coreCounter
  simp [on, counter, timed]

theorem grd_exact (clean : s.dev.Clean u) {p : Part} (low : f.imm.toNat ≤ 8) (dest : isSA f.d = true) (part : s.dev.partOfCtx (s.dev.ctxOn u.core) = some p)
    (user : p.gauUser = true) (exact : s.dev.coreGauges = false ∨ f.imm.toNat = 0 ∨ timedEvent (s.dev.gaugeEvent f.imm.toNat) = false) :
    s.Answers (exec (.grd u f) s) (fun d => s.dev.Put u.core ((s.coreOf u).retired ((s.regsOf u).writeSA f.d (BitVec.ofNat 64
        (if s.dev.coreGauges = false then 0 else if f.imm.toNat = 0 then d.cycleCount u.core % 2 ^ 64 else FMap.get 0 d.gau.core (16 * u.core + f.imm.toNat))))) d ∧
      d = { s.dev with out := [], cores := d.cores, gau := d.gau }) :=
  answers_of clean fun ga => by
    have op := grdOp_eq (d := { s.dev with out := [], gau := ga }) (g := u.core) low dest part user
    rw [Dev.coreCounter_exact (d := { s.dev with out := [], gau := ga }) exact] at op
    refine ⟨_, _, op, ?_⟩
    dsimp only
    generalize hv : (if Dev.coreGauges { s.dev with out := [], gau := ga } = false then 0
      else if f.imm.toNat = 0 then Dev.cycleCount { s.dev with out := [], gau := ga } u.core % 2 ^ 64 else FMap.get 0 ga.core (16 * u.core + f.imm.toNat)) = v
    obtain ⟨put, rest⟩ := Dev.give_issue clean ga f.d v rfl
    have kept := Dev.advance_clean clean ga (fun k => { k with regs := k.regs.writeNat f.d v })
    rw [Dev.putCore_cores] at kept
    generalize Dev.advance { s.dev with out := [], gau := ga } u.core (fun k => { k with regs := k.regs.writeNat f.d v }) = d at *
    refine ⟨?_, rest⟩
    have same : (if s.dev.coreGauges = false then 0 else if f.imm.toNat = 0 then d.cycleCount u.core % 2 ^ 64
        else FMap.get 0 d.gau.core (16 * u.core + f.imm.toNat)) = v := by
      rw [← hv, kept]
      rfl
    rw [same]
    exact put

theorem grd_timed (clean : s.dev.Clean u) {p : Part} (low : f.imm.toNat ≤ 8) (dest : isSA f.d = true) (part : s.dev.partOfCtx (s.dev.ctxOn u.core) = some p)
    (user : p.gauUser = true) (on : s.dev.coreGauges = true) (counter : f.imm.toNat ≠ 0) (timed : timedEvent (s.dev.gaugeEvent f.imm.toNat) = true) :
    s.Answers (exec (.grd u f) s) (fun d => ∃ v, v < 2 ^ 48 ∧ s.dev.Put u.core ((s.coreOf u).retired ((s.regsOf u).writeSA f.d (BitVec.ofNat 64 v))) d ∧
      d = { s.dev with out := [], cores := d.cores, gau := d.gau, freeCtr := s.dev.freeCtr + 1 }) :=
  answers_of clean fun ga => by
    have op := grdOp_eq (d := { s.dev with out := [], gau := ga }) (g := u.core) low dest part user
    rw [Dev.coreCounter_timed (d := { s.dev with out := [], gau := ga }) on counter timed] at op
    refine ⟨_, _, op, (Dev.draw { s.dev with out := [], gau := ga }).1.toNat % 2 ^ 48, Nat.mod_lt _ (by decide), ?_⟩
    exact Dev.drawn_issue clean ga (fun k => { k with regs := k.regs.writeNat f.d ((Dev.draw { s.dev with out := [], gau := ga }).1.toNat % 2 ^ 48) }) rfl

end

/-- Settles O31: each system read gives its destination what the device holds, and changes nothing else. -/
theorem systemReadResults : Obligations.SystemReadResults := by
  unfold Obligations.SystemReadResults
  intro s u f clean k r c j
  refine ⟨fun v dest v0 v1 v2 v3 low => cid_tells clean dest v0 v1 v2 v3 low, flgr_tells clean, flgc_clears clean, time_tells clean, ?grd⟩
  case grd =>
    intro p low dest part user e timed
    refine ⟨fun steady => grd_exact clean low dest part user (steady.imp_right (Or.imp_right fun untimed => ?_)),
      fun on counter open_ => grd_timed clean low dest part user on counter ((timedEvent_iff e).2 open_)⟩
    exact Bool.eq_false_iff.2 fun open_ => untimed ((timedEvent_iff e).1 open_)

end Sys2Proof.Machine
end

section
/-! SUPPORT. The causes of faults of class E, and illegal words (R125, R129). -/
namespace Sys2Proof.Machine

section
variable {s : State} {u : Issue} {f : FmtE}

/-! ### EISS -/

/-- Past its fields and register kinds, an EISS at its own die checks its command block, then the engine. -/
theorem eissOp_checks {d : Dev} {g : Nat} (engine : f.tgt.toNat < 4) (own : f.die = 7) (dest : isSA f.d = true) (base : isKind f.a .a = true) :
    let a := ((d.core g).regs.getA (regNum f.a)).toNat
    ∃ rest, eissOp f d g =
      faultIf (a % 64 != 0 || !inMem d.hw a (cmdBytes f.tgt.toNat) || !(match d.part (d.ctx (d.ctxOn g)).part with
        | some q => q.allows a (cmdBytes f.tgt.toNat) 0
        | none => false)) .dmaAddress
      (faultIf (!bitOf (d.ctx (d.ctxOn g)).inv.engines (4 * coreDie g + f.tgt.toNat)) .engine rest) := by
  have other : ¬ f.tgt.toNat = 4 := by omega
  have fields : (decide (4 < f.tgt.toNat) || (f.tgt.toNat != 4 && decide (4 ≤ f.die.toNat) && decide (f.die.toNat ≤ 6))) = false := by
    rw [own, decide_eq_false (by omega)]
    simp
  have die : eissDie f g = coreDie g := by rw [eissDie, if_pos own]
  unfold eissOp
  dsimp only
  rw [fields, dest, base, if_neg other, if_neg other, die]
  exact ⟨_, rfl⟩

theorem eissOp_misaligned {d : Dev} {g : Nat} (engine : f.tgt.toNat < 4) (own : f.die = 7) (dest : isSA f.d = true) (base : isKind f.a .a = true)
    (misaligned : ((d.core g).regs.getA (regNum f.a)).toNat % 64 ≠ 0) : eissOp f d g = .error .dmaAddress := by
  obtain ⟨rest, op⟩ := eissOp_checks engine own dest base
  rw [op, bne_iff_ne.2 misaligned]
  rfl

theorem eissOp_denied {d : Dev} {g : Nat} {p : Part} (engine : f.tgt.toNat < 4) (own : f.die = 7) (dest : isSA f.d = true) (base : isKind f.a .a = true)
    (aligned : ((d.core g).regs.getA (regNum f.a)).toNat % 64 = 0) (inside : inMem d.hw ((d.core g).regs.getA (regNum f.a)).toNat (cmdBytes f.tgt.toNat) = true)
    (part : d.part (d.ctx (d.ctxOn g)).part = some p) (allows : p.allows ((d.core g).regs.getA (regNum f.a)).toNat (cmdBytes f.tgt.toNat) 0 = true)
    (denied : bitOf (d.ctx (d.ctxOn g)).inv.engines (4 * coreDie g + f.tgt.toNat) = false) : eissOp f d g = .error .engine := by
  obtain ⟨rest, op⟩ := eissOp_checks engine own dest base
  rw [op, part, aligned, inside, denied]
  dsimp only
  rw [allows]
  rfl

/-! ### Tickets -/

theorem Dev.ticketOf_unknown {d : Dev} {g : Nat} (dest : isSA f.d = true) (name : isSA f.a = true)
    (unknown : d.ticket (d.ctxOn g) ((d.core g).regs.readSA f.a).toNat = none) : d.ticketOf g f = .error .engine := by
  unfold Dev.ticketOf
  rw [dest, name, unknown]
  rfl

theorem ewait_unknown (clean : s.dev.Clean u) (dest : isSA f.d = true) (name : isSA f.a = true)
    (unknown : s.dev.ticket (s.dev.ctxOn u.core) ((s.regsOf u).readSA f.a).toNat = none) : s.Faults u .engine (exec (.ewait u f) s) :=
  State.faults_of clean false fun ga => by
    unfold ewaitOp
    rw [Dev.ticketOf_unknown (d := { s.dev with out := [], gau := ga }) dest name unknown]

theorem epoll_unknown (clean : s.dev.Clean u) (dest : isSA f.d = true) (name : isSA f.a = true)
    (unknown : s.dev.ticket (s.dev.ctxOn u.core) ((s.regsOf u).readSA f.a).toNat = none) : s.Faults u .engine (exec (.epoll u f) s) :=
  State.faults_of clean false fun ga => by
    unfold epollOp
    rw [Dev.ticketOf_unknown (d := { s.dev with out := [], gau := ga }) dest name unknown]

/-! ### Credits -/

theorem crdb_refused (clean : s.dev.Clean u) (port : f.tgt.toNat ≤ 2)
    (why : FMap.get none (s.coreOf u).borrow f.tgt.toNat ≠ none ∨ f.imm = 0 ∨ 64 < f.imm.toNat ∨ s.dev.poolOf u.core f.tgt.toNat < f.imm.toNat) :
    s.Faults u .credit (exec (.crdb u f) s) :=
  State.faults_of clean false fun ga => by
    have bad : ((FMap.get none (s.coreOf u).borrow f.tgt.toNat).isSome || f.imm.toNat == 0 || decide (64 < f.imm.toNat) ||
        decide (s.dev.poolOf u.core f.tgt.toNat < f.imm.toNat)) = true := by
      simp only [Bool.or_eq_true, decide_eq_true_eq, beq_iff_eq, Option.isSome_iff_ne_none, or_assoc]
      exact why.imp_right (Or.imp_left fun zero => by rw [zero]; rfl)
    unfold crdbOp
    dsimp only
    rw [decide_eq_false (by omega)]
    change faultIf ((FMap.get none (s.coreOf u).borrow f.tgt.toNat).isSome || f.imm.toNat == 0 || decide (64 < f.imm.toNat) ||
        decide (s.dev.poolOf u.core f.tgt.toNat < f.imm.toNat)) _ _ = _
    rw [bad]
    rfl

theorem crdr_refused (clean : s.dev.Clean u) (port : f.tgt.toNat ≤ 2) (none_lent : FMap.get none (s.coreOf u).borrow f.tgt.toNat = none) :
    s.Faults u .credit (exec (.crdr u f) s) :=
  State.syncFaults_of clean fun ga => by
    unfold crdrOp
    dsimp only
    rw [decide_eq_false (by omega)]
    change faultIf (FMap.get none (s.coreOf u).borrow f.tgt.toNat).isNone _ _ = _
    rw [none_lent]
    rfl

/-! ### Epochs, Gauge and words that spell nothing -/

theorem Dev.epochCheck_undeclared {d : Dev} {g : Nat} (low : f.imm.toNat < 256) (dest : isSA f.d = true) (undeclared : d.declares (d.ctxOn g) f.imm.toNat = false) :
    d.epochCheck g f = .error .epoch := by
  unfold Dev.epochCheck epochOf
  rw [decide_eq_false (by omega), dest, Nat.mod_eq_of_lt low, undeclared]
  rfl

theorem eprd_undeclared (clean : s.dev.Clean u) (low : f.imm.toNat < 256) (dest : isSA f.d = true)
    (undeclared : s.dev.declares (s.dev.ctxOn u.core) f.imm.toNat = false) : s.Faults u .epoch (exec (.eprd u f) s) :=
  State.faults_of clean false fun ga => by
    unfold eprdOp
    rw [Dev.epochCheck_undeclared (d := { s.dev with out := [], gau := ga }) low dest undeclared]

theorem epwait_undeclared (clean : s.dev.Clean u) (low : f.imm.toNat < 256) (dest : isSA f.d = true)
    (undeclared : s.dev.declares (s.dev.ctxOn u.core) f.imm.toNat = false) : s.Faults u .epoch (exec (.epwait u f) s) :=
  State.faults_of clean false fun ga => by
    unfold epwaitOp
    rw [Dev.epochCheck_undeclared (d := { s.dev with out := [], gau := ga }) low dest undeclared]

theorem grdOp_denied {d : Dev} {g : Nat} {p : Part} (low : f.imm.toNat ≤ 8) (dest : isSA f.d = true) (part : d.partOfCtx (d.ctxOn g) = some p)
    (user : p.gauUser = false) : grdOp f d g = .error .gauge := by
  unfold grdOp
  rw [decide_eq_false (by omega), dest, part]
  dsimp only
  rw [user]
  rfl

theorem illegal_word (clean : s.dev.Clean u) {w : W64} (nothing : decodeSedun u w = none) : s.Faults u .illegalOpcode (exec (.illegalOpcode u w) s) := by
  show s.Faults u .illegalOpcode (s.runIf _ (fun d => if (decodeSedun u w).isSome then d else d.issueReg u false (fun _ _ => .error .illegalOpcode)))
  rw [nothing]
  exact State.faults_of clean false fun _ => rfl

end

/-- Settles O32: each cause is the first check that the instruction does not pass. -/
theorem engineClassFaults : Obligations.EngineClassFaults := by
  unfold Obligations.EngineClassFaults
  intro s u f clean k r c tgt a
  refine ⟨fun engine own dest base misaligned => ?misaligned, fun p engine own dest base aligned inside part allows denied => ?denied, fun dest name unknown => ⟨ewait_unknown clean dest name unknown, epoll_unknown clean dest name unknown⟩,
    crdb_refused clean, crdr_refused clean, fun low dest undeclared => ⟨eprd_undeclared clean low dest undeclared, epwait_undeclared clean low dest undeclared⟩,
    fun p low dest part user => ?gauge, fun w => illegal_word clean⟩
  case gauge => exact State.faults_of clean false fun ga => grdOp_denied (d := { s.dev with out := [], gau := ga }) low dest part user
  case misaligned => exact State.syncFaults_of clean fun ga => eissOp_misaligned (d := { s.dev with out := [], gau := ga }) engine own dest base misaligned
  case denied =>
    exact State.syncFaults_of clean fun ga => eissOp_denied (d := { s.dev with out := [], gau := ga }) engine own dest base aligned inside part allows denied

end Sys2Proof.Machine
end

section
/-! SUPPORT. What closing a record, entering FALLBACK and deciding a safe state may change (R408, R412, R422, R423): memory, the Quoins, what is put out,
and the records that wait. -/
namespace Sys2Proof.Machine

/-- Beside memory, the Quoins, what is put out and the waiting records, the devices are the same. -/
structure Dev.SafetyOnly (d e : Dev) : Prop where
  eq : e = { d with out := e.out, mem := e.mem, tags := e.tags, shadow := e.shadow, poison := e.poison, qn := e.qn,
                    jfe := { d.jfe with squash := e.jfe.squash, ev := e.jfe.ev, evSeq := e.jfe.evSeq } }

namespace Dev.SafetyOnly

theorem refl (d : Dev) : d.SafetyOnly d := ⟨rfl⟩
theorem trans {d e f : Dev} (h : d.SafetyOnly e) (k : e.SafetyOnly f) : d.SafetyOnly f := by
  obtain ⟨h⟩ := h
  obtain ⟨k⟩ := k
  constructor
  rw [k, h]
theorem foldl {β : Type} {f : Dev → β → Dev} (h : ∀ (d : Dev) b, d.SafetyOnly (f d b)) : ∀ (l : List β) (d : Dev), d.SafetyOnly (l.foldl f d)
  | [], d => refl d
  | b :: l, d => (h d b).trans (foldl h l (f d b))

theorem crn {d e : Dev} (h : d.SafetyOnly e) : e.crn = d.crn := by rw [h.eq]
theorem tickets {d e : Dev} (h : d.SafetyOnly e) : e.tickets = d.tickets := by rw [h.eq]

end Dev.SafetyOnly

theorem Dev.MemOnly.safetyOnly {d e : Dev} (h : d.MemOnly e) : d.SafetyOnly e := ⟨by rw [h.eq]⟩

namespace Dev

/-! ### Messages and records -/

theorem emit_safetyOnly (d : Dev) (b : Block) (code sev a0 a1 : Nat) : d.SafetyOnly (d.emit b code sev a0 a1) := by
  obtain ⟨_, _, h⟩ := d.emit_eq b code sev a0 a1
  rw [h]
  exact ⟨rfl⟩

theorem setQuoin_safetyOnly (d : Dev) (q : Nat) (x : Quoin) : d.SafetyOnly (d.setQuoin q x) := by
  unfold setQuoin
  split <;> exact ⟨rfl⟩

theorem modStream_safetyOnly (d : Dev) (n : Nat) (f : StreamSt → StreamSt) : d.SafetyOnly (d.modStream n f) := ⟨rfl⟩

theorem charge_safetyOnly (d : Dev) (k : Nat) : d.SafetyOnly (d.charge k) := by
  unfold charge
  split <;> exact ⟨rfl⟩

theorem eachQuoin_safetyOnly (d : Dev) {f : Dev → Nat → Dev} (h : ∀ (d : Dev) q, d.SafetyOnly (f d q)) : d.SafetyOnly (d.eachQuoin f) := by
  have one (b : Bool) (d : Dev) (q : Nat) : d.SafetyOnly (if b then f d q else d) := by
    cases b with
    | true => exact h d q
    | false => exact .refl d
  exact (one _ d 0).trans (one _ _ 1)

theorem canQueue_safetyOnly (d : Dev) (q off stream : Nat) (last : Bool) (content : List Byte) : d.SafetyOnly (d.canQueue q off stream last content) := by
  unfold canQueue
  dsimp only
  split
  · exact .refl d
  · exact d.setQuoin_safetyOnly q _

theorem statusBoth_safetyOnly (d : Dev) : d.SafetyOnly d.statusBoth := d.eachQuoin_safetyOnly fun d _ => d.canQueue_safetyOnly _ _ _ _ _

theorem putValidity_safetyOnly (d : Dev) (a state reason : Nat) : d.SafetyOnly (d.putValidity a state reason) := (d.wr_memOnly _ _ _).safetyOnly

/-! ### FALLBACK -/

theorem canFallback_safetyOnly (d : Dev) (q n : Nat) (c : StreamCfg) : d.SafetyOnly (d.canFallback q n c) := by
  unfold canFallback
  dsimp only
  split
  · exact d.canQueue_safetyOnly _ _ _ _ _
  · exact (d.canQueue_safetyOnly _ _ _ _ _).trans (.foldl (fun d _ => d.canQueue_safetyOnly _ _ _ _ _) _ _)

theorem sendRecord_safetyOnly (d : Dev) (n : Nat) (c : StreamCfg) (seq ns : Nat) (bs : List Byte) : d.SafetyOnly (d.sendRecord n c seq ns bs) := by
  unfold sendRecord
  dsimp only
  split
  · exact .refl d
  · exact .foldl (fun _ _ => ⟨rfl⟩) _ _

theorem sendFallback_safetyOnly (d : Dev) (n : Nat) (c : StreamCfg) : d.SafetyOnly (d.sendFallback n c).1 := by
  unfold sendFallback
  dsimp only
  have can (a0 a1 : Nat → Nat) : d.SafetyOnly (d.eachQuoin fun d q => (d.canFallback q n c).emit (.qn q) 0x0B06 3 (a0 q) (a1 q)) :=
    d.eachQuoin_safetyOnly fun d q => (d.canFallback_safetyOnly q n c).trans (emit_safetyOnly _ _ _ _ _ _)
  split
  · exact (can _ _).trans (sendRecord_safetyOnly _ _ _ _ _ _)
  · exact can _ _

theorem enterFallback_safetyOnly (d : Dev) (n reason seq : Nat) : d.SafetyOnly (d.enterFallback n reason seq).1 := by
  unfold enterFallback
  split
  · split
    · exact .refl d
    · exact (d.modStream_safetyOnly n _).trans (sendFallback_safetyOnly _ _ _)
  · exact .refl d

/-! ### A safe state -/

theorem addReason_safetyOnly (d : Dev) (q r decider : Nat) : d.SafetyOnly (d.addReason q r decider) := by
  unfold addReason
  dsimp only
  split
  · exact .refl d
  · exact ((d.charge_safetyOnly _).trans (setQuoin_safetyOnly _ _ _)).trans (emit_safetyOnly _ _ _ _ _ _)

theorem safeStreams_safetyOnly (d : Dev) : d.SafetyOnly d.safeStreams.1 := by
  unfold safeStreams
  refine List.foldlRecOn (motive := fun (r : Dev × Bool) => d.SafetyOnly r.1) _ _ (.refl d) fun r hr p _ => hr.trans ?_
  dsimp only
  split
  · exact .refl _
  · refine .trans ?_ (enterFallback_safetyOnly _ _ _ _)
    split
    · exact ((putValidity_safetyOnly _ _ _ _).trans (modStream_safetyOnly _ _ _)).trans (eachQuoin_safetyOnly _ fun _ _ => emit_safetyOnly _ _ _ _ _ _)
    · exact .refl _

theorem decideSafe_safetyOnly (d : Dev) (q reason : Nat) : d.SafetyOnly (d.decideSafe q reason) := by
  unfold decideSafe
  dsimp only
  have streams : d.SafetyOnly (d.addReason q reason q).safeStreams.1 := (d.addReason_safetyOnly q reason q).trans (safeStreams_safetyOnly _)
  split
  · exact .refl d
  · refine .trans ?_ (canQueue_safetyOnly _ _ _ _ _ _)
    split
    · exact streams.trans (addReason_safetyOnly _ _ _ _)
    · exact streams

theorem fallback_safetyOnly (d : Dev) (n reason seq : Nat) (storage : Bool) : d.SafetyOnly (d.fallback n reason seq storage) := by
  unfold fallback
  dsimp only
  split
  · split
    · exact .refl d
    · have told := ((d.charge_safetyOnly (lossOf reason storage)).trans (enterFallback_safetyOnly _ n reason seq)).trans (statusBoth_safetyOnly _)
      split
      · exact (told.trans (decideSafe_safetyOnly _ 0 0x0C)).trans (decideSafe_safetyOnly _ 1 0x0C)
      · exact told
  · exact .refl d

/-! ### Writes of a job -/

theorem closeRecord_safetyOnly (d : Dev) (n c w : Nat) : d.SafetyOnly (d.closeRecord n c w) := by
  have marked (b : Bool) (v : View) (a : Nat) (bs : List Byte) : d.SafetyOnly (if b then d.wr v a bs else d) := by
    cases b with
    | true => exact (wr_memOnly _ _ _ _).safetyOnly
    | false => exact .refl d
  unfold closeRecord
  split
  next cfg _ =>
    dsimp only
    by_cases dead : (d.stream n).dead = true
    · rw [if_pos dead]
      exact ((marked _ _ _ _).trans (putValidity_safetyOnly _ _ _ _)).trans (modStream_safetyOnly _ _ _)
    · rw [if_neg dead]
      exact (marked _ _ _ _).trans (modStream_safetyOnly _ _ _)
  next => exact .refl d

theorem jobWrites_safetyOnly (d : Dev) (c : Nat) (ws : List (Nat × List Byte)) : d.SafetyOnly (d.jobWrites c ws) := by
  unfold jobWrites
  exact .trans (.foldl (fun d w => (d.wr_memOnly _ _ _).safetyOnly) _ _) (.foldl (fun d _ => d.closeRecord_safetyOnly _ _ _) _ _)

end Dev

end Sys2Proof.Machine
end

section
/-! SUPPORT. How engine and Cairn commands end (R113, R214, R282, R296). -/
namespace Sys2Proof.Machine

/-! ### Tickets -/

/-- The command's ticket, where the device holds it, is complete with the status. -/
def Dev.Completes (d e : Dev) (k : EngCmd) (st : Nat) : Prop :=
  ∀ t tk, k.ticket = some t → d.ticket k.ctx t = some tk → e.ticket k.ctx t = some { tk with st := .done (BitVec.ofNat 8 st) }

theorem Dev.completeTicket_rest (d : Dev) (c : Nat) (t : Option Nat) (st : BitVec 8) :
    d.completeTicket c t st = { d with tickets := (d.completeTicket c t st).tickets } := by
  unfold Dev.completeTicket
  split
  · split <;> rfl
  · rfl

theorem Dev.completeTicket_completes {d e : Dev} (same : e.tickets = d.tickets) (k : EngCmd) (st : Nat) :
    d.Completes (e.completeTicket k.ctx k.ticket (BitVec.ofNat 8 st)) k st := by
  intro t tk ticket held
  have held' : e.ticket k.ctx t = some tk := by rw [← held]; unfold Dev.ticket; rw [same]
  unfold Dev.completeTicket
  rw [ticket]
  dsimp only
  rw [held']
  dsimp only
  unfold Dev.ticket Dev.setTicket
  dsimp only
  rw [FMap.get_set_self]

/-! ### The fixed engines -/

/-- Beside registers and Gauge counters the devices are the same. -/
structure Dev.CountOnly (d e : Dev) : Prop where
  eq : e = { d with regs := e.regs, gau := e.gau }

namespace Dev.CountOnly

theorem refl (d : Dev) : d.CountOnly d := ⟨rfl⟩
theorem trans {d e f : Dev} (h : d.CountOnly e) (k : e.CountOnly f) : d.CountOnly f := by
  obtain ⟨h⟩ := h
  obtain ⟨k⟩ := k
  constructor
  rw [k, h]
theorem bump (d : Dev) (k n : Nat) : d.CountOnly (d.bump k n) := ⟨rfl⟩
theorem blkCount (d : Dev) (b : Block) (ev n : Nat) : d.CountOnly (d.blkCount b ev n) := by
  constructor
  rw [Dev.blkCount_gau]

end Dev.CountOnly

theorem Dev.engEnded_countOnly (d : Dev) (n e status : Nat) : d.CountOnly (d.engEnded n e status) := by
  have counted (k : Nat) (b : Block) : d.CountOnly ((d.bump k 1).blkCount b 1 1) := (Dev.CountOnly.bump d k 1).trans (.blkCount _ b 1 1)
  unfold Dev.engEnded
  dsimp only
  split
  · exact counted _ _
  · exact (counted _ _).trans (.bump _ _ 1)

theorem Dev.engDone_spec {d : Dev} {n e : Nat} {r : EngRun} (run : (d.eng n e).run = some r) :
    ((d.engDoneFx n e).eng n e).run = none ∧ ((d.engDoneFx n e).eng n e).queues = (d.eng n e).queues ∧ d.Completes (d.engDoneFx n e) r.cmd r.status ∧
    (d.engDoneFx n e).mem = d.mem ∧ (d.engDoneFx n e).cores = d.cores := by
  have fx : d.engDoneFx n e = ((d.setEng n e { d.eng n e with run := none }).engEnded n e r.status).completeTicket r.cmd.ctx r.cmd.ticket (BitVec.ofNat 8 r.status) := by
    unfold Dev.engDoneFx
    dsimp only
    rw [run]
  obtain ⟨ended⟩ := Dev.engEnded_countOnly (d.setEng n e { d.eng n e with run := none }) n e r.status
  rw [fx]
  generalize (d.setEng n e { d.eng n e with run := none }).engEnded n e r.status = x at ended ⊢
  have rest := Dev.completeTicket_rest x r.cmd.ctx r.cmd.ticket (BitVec.ofNat 8 r.status)
  have completes := Dev.completeTicket_completes (d := d) (e := x) (by rw [ended]; rfl) r.cmd r.status
  generalize x.completeTicket r.cmd.ctx r.cmd.ticket (BitVec.ofNat 8 r.status) = y at rest completes ⊢
  have eng : y.eng n e = { d.eng n e with run := none } := by
    rw [rest, ended]
    exact FMap.get_set_self _ _ _ _
  exact ⟨by rw [eng], by rw [eng], completes, by rw [rest, ended]; rfl, by rw [rest, ended]; rfl⟩

/-! ### Cairn -/

/-- The devices agree in what Cairn does and in the tickets. -/
structure Dev.SameWork (d e : Dev) : Prop where
  crn : e.crn = d.crn
  tickets : e.tickets = d.tickets

namespace Dev.SameWork

theorem refl (d : Dev) : d.SameWork d := ⟨rfl, rfl⟩
theorem trans {d e f : Dev} (h : d.SameWork e) (k : e.SameWork f) : d.SameWork f := ⟨k.crn.trans h.crn, k.tickets.trans h.tickets⟩

end Dev.SameWork

theorem Dev.SafetyOnly.sameWork {d e : Dev} (h : d.SafetyOnly e) : d.SameWork e := ⟨h.crn, h.tickets⟩
theorem Dev.CountOnly.sameWork {d e : Dev} (h : d.CountOnly e) : d.SameWork e := by
  rw [h.eq]
  exact ⟨rfl, rfl⟩

theorem Dev.planFailed_sameWork (d : Dev) (k : EngCmd) (st : Nat) : d.SameWork (d.planFailed k st) := by
  refine ((Dev.emit_safetyOnly d _ _ _ _ _).trans (.foldl (fun e b => ?_) _ _)).sameWork
  split
  · exact Dev.fallback_safetyOnly _ _ _ _ _
  · exact .refl e

theorem Dev.planCounts_sameWork (d : Dev) (k : EngCmd) (st : Nat) : d.SameWork (d.planCounts k st) := by
  have bumped (x : Dev) (key : Nat) : x.SameWork (x.bump key 1) := (Dev.CountOnly.bump x key 1).sameWork
  have counted : d.SameWork (if st = 8 then (d.bump CRN_PLAN_COUNT 1).bump CRN_NOPATH_COUNT 1
      else if st = 9 then (d.bump CRN_PLAN_COUNT 1).bump CRN_TIMEOUT_COUNT 1 else d.bump CRN_PLAN_COUNT 1) := by
    refine (bumped d CRN_PLAN_COUNT).trans ?_
    split
    · exact bumped _ _
    · split
      · exact bumped _ _
      · exact .refl _
  unfold Dev.planCounts
  dsimp only
  split
  · exact counted.trans (Dev.planFailed_sameWork _ k st)
  · exact counted

/-- A command with a ticket that ends leaves Cairn as it was and completes the ticket with the header's status. -/
theorem Dev.crnEnd_spec (d : Dev) {k : EngCmd} (ticket : k.ticket ≠ none) (bs tail : List Byte) (h : ResultHead) :
    (d.crnEnd k bs tail h).crn = d.crn ∧ d.Completes (d.crnEnd k bs tail h) k h.status := by
  obtain ⟨t, issued⟩ := Option.ne_none_iff_exists'.1 ticket
  have wrote : d.SameWork (if d.crnResultOk k bs then
      (if tail.isEmpty then d else d.jobWrites k.ctx [(cResult bs + 64, tail)]).jobWrites k.ctx [(cResult bs, h.bytes)] else d) := by
    split
    · refine .trans ?_ (Dev.jobWrites_safetyOnly _ _ _).sameWork
      split
      · exact .refl d
      · exact (Dev.jobWrites_safetyOnly _ _ _).sameWork
    · exact .refl d
  unfold Dev.crnEnd
  dsimp only
  generalize (if d.crnResultOk k bs then
      (if tail.isEmpty then d else d.jobWrites k.ctx [(cResult bs + 64, tail)]).jobWrites k.ctx [(cResult bs, h.bytes)] else d) = x at wrote ⊢
  have counted : d.SameWork (if cOp bs = 4 then x.planCounts k h.status else x) := by
    split
    · exact wrote.trans (Dev.planCounts_sameWork x k h.status)
    · exact wrote
  generalize (if cOp bs = 4 then x.planCounts k h.status else x) = y at counted ⊢
  have completes := Dev.completeTicket_completes counted.tickets k h.status
  have rest := Dev.completeTicket_rest y k.ctx k.ticket (BitVec.ofNat 8 h.status)
  rw [issued] at completes rest ⊢
  exact ⟨by rw [rest]; exact counted.crn, completes⟩

theorem Dev.crnWorldDone_spec {d : Dev} {r : CrnWorldRun} (run : d.crn.worldRun = some r) (committed : r.committed = true) (ticket : r.cmd.ticket ≠ none) :
    d.crnWorldDone.crn.worldRun = none ∧ d.crnWorldDone.crn.world = d.crn.world ∧ d.crnWorldDone.crn.epoch = d.crn.epoch ∧ d.Completes d.crnWorldDone r.cmd 0 := by
  let c : Nat × Dev := Dev.crnCycles { d with crn := { d.crn with worldRun := none } }
  have fx : d.crnWorldDone = c.2.crnEnd r.cmd r.bytes [] { d.crnHead r.cmd r.bytes 0 with cycles := c.1 } := by
    unfold Dev.crnWorldDone
    rw [run]
    exact if_pos committed
  obtain ⟨crn, completes⟩ := c.2.crnEnd_spec ticket r.bytes [] { d.crnHead r.cmd r.bytes 0 with cycles := c.1 }
  rw [fx, crn]
  exact ⟨rfl, rfl, rfl, completes⟩

/-! ### The check path -/

theorem Dev.edgeVerdicts_tickets (d : Dev) (es : List Nat) : (d.edgeVerdicts es).2.tickets = d.tickets := by
  unfold Dev.edgeVerdicts
  split
  · dsimp only
    rw [Dev.blkCount_gau]
  · rfl

/-- What a PLAN that runs on ends with. -/
def Dev.planFound (d : Dev) (r : CrnRun) (w : World) : PlanOut :=
  planOutcome w (d.edgeVerdicts d.neededEdges).2.crn.roadmap (parsePlan r.bytes (d.rd View.plain)) none

theorem Dev.planEnd_spec (d : Dev) {r : CrnRun} (w : World) (ticket : r.cmd.ticket ≠ none) :
    (d.planEnd r w none).crn.check = none ∧ d.Completes (d.planEnd r w none) r.cmd (d.planFound r w).status := by
  let v1 := d.edgeVerdicts d.neededEdges
  let v2 := v1.2.edgeVerdicts (d.planFound r w).looked
  let c := Dev.crnCycles { v2.2 with crn := { v2.2.crn with check := none } }
  let re := if r.committed then c.2.draw else (0, c.2)
  let e := if (d.planFound r w).dropped = 0 then re.2 else re.2.emit .crn 0x0608 1 r.cmd.ctx (d.planFound r w).dropped
  have drawn : c.2.SameWork re.2 := by
    unfold re
    split <;> exact ⟨rfl, rfl⟩
  have told : re.2.SameWork e := by
    unfold e
    split
    · exact .refl _
    · exact (Dev.emit_safetyOnly _ _ _ _ _ _).sameWork
  have work : c.2.SameWork e := drawn.trans told
  have tickets : e.tickets = d.tickets := work.tickets.trans ((Dev.edgeVerdicts_tickets _ _).trans (Dev.edgeVerdicts_tickets _ _))
  obtain ⟨crn, completes⟩ := e.crnEnd_spec ticket r.bytes (planTail (d.planFound r w))
    (v2.2.planHead r (parsePlan r.bytes (d.rd View.plain)) (d.planFound r w) w c.1 (if r.committed then re.1.toNat % 65536 else 0) (r.edges + v1.1 + v2.1))
  have fx : d.planEnd r w none = e.crnEnd r.cmd r.bytes (planTail (d.planFound r w))
    (v2.2.planHead r (parsePlan r.bytes (d.rd View.plain)) (d.planFound r w) w c.1 (if r.committed then re.1.toNat % 65536 else 0) (r.edges + v1.1 + v2.1)) := rfl
  rw [fx, crn, work.crn]
  refine ⟨rfl, fun t tk issued held => completes t tk issued ?_⟩
  rw [← held]
  unfold Dev.ticket
  rw [tickets]

theorem Dev.crnCheckDone_plan {d : Dev} {r : CrnRun} {w : World} (check : d.crn.check = some r) (world : d.crn.world = some w) (epoch : r.epochWait = false)
    (delivery : r.delivery = none) (plan : cOp r.bytes = 4) (swept : r.full = false ∨ d.crn.sweepOwed = false) : d.crnCheckDone = d.planEnd r w none := by
  have ready : (r.full && d.crn.sweepOwed) = false := Bool.and_eq_false_iff.2 swept
  unfold Dev.crnCheckDone
  rw [check, world]
  dsimp only
  rw [epoch, delivery, if_pos plan, ready]
  rfl

end Sys2Proof.Machine
end

section
/-! SUPPORT. Loading and releasing key-value sequences (R252–R255, R267). -/
namespace Sys2Proof.Machine

section
variable {s : State} {d : Dev} {n sn : Nat} {w : Writer} {v : W32}

/-! ### The command register -/

theorem blockAt_seqCmd {h : Hw} (die : h.hasDie n = true) : blockAt h (TRC_SEQ_CMD n) = some (.eng n 3) := by
  have present : ¬ h.dies ≤ n := by unfold Hw.hasDie at die; simpa using die
  have slot : (TRC_SEQ_CMD n - 0x1000000) / 0x400000 = n := by unfold TRC_SEQ_CMD dieSlot; omega
  have offset : (TRC_SEQ_CMD n - 0x1000000) % 0x400000 = 0x70048 := by unfold TRC_SEQ_CMD dieSlot; omega
  have high : ¬ TRC_SEQ_CMD n / 0x10000 < 0x10 := by unfold TRC_SEQ_CMD dieSlot; omega
  have beyond : ¬ TRC_SEQ_CMD n < 0x1000000 := by unfold TRC_SEQ_CMD dieSlot; omega
  unfold blockAt
  dsimp only
  rw [if_neg high, if_neg beyond, slot, offset, if_neg present]
  rfl

theorem seqCmd_offset (n : Nat) : TRC_SEQ_CMD n = (Block.eng n 3).base + 0x48 := by
  show dieSlot n + 0x70048 = dieSlot n + 0x40000 + 0x10000 * 3 + 0x48
  omega

theorem Dev.writeReg_seqCmd (die : d.hw.hasDie n = true) (serves : d.serves (.eng n 3) = true) :
    d.writeReg w (TRC_SEQ_CMD n) v = d.engWrite n 3 w 0x48 ⟨0x48, 0x4, 1, .wo, 0x0, 0xFFFFFFFF⟩ v := by
  have block := blockAt_seqCmd die
  rw [seqCmd_offset] at block ⊢
  rw [Dev.writeReg_reg block serves (fun host => nomatch host.1) (by decide)
    (show findReg (winRegs ++ trcRegs) 0x48 = some ⟨0x48, 0x4, 1, .wo, 0x0, 0xFFFFFFFF⟩ from rfl)]
  exact Dev.regAccess_through (.inr (.inl rfl))

theorem Dev.engWrite_other {r : RegDef} (other : n ≠ 0) : d.engWrite n 3 w 0x48 r v = d := by
  simp [Dev.engWrite, other]

theorem Dev.writeReg_closed {off : Nat} {b : Block} (block : blockAt d.hw off = some b) (closed : d.serves b = false) : d.writeReg w off v = d := by
  unfold Dev.writeReg
  simp only [block, closed, Bool.not_false, if_true]

/-- Only the sequences of die 0 are commanded. -/
theorem Dev.writeReg_seqCmd_other (die : d.hw.hasDie n = true) (other : n ≠ 0) : d.writeReg w (TRC_SEQ_CMD n) v = d := by
  by_cases serves : d.serves (.eng n 3) = true
  · exact (Dev.writeReg_seqCmd die serves).trans (Dev.engWrite_other other)
  · exact Dev.writeReg_closed (blockAt_seqCmd die) (Bool.eq_false_iff.2 serves)

theorem Dev.writeReg_seqCmd_host (die : d.hw.hasDie 0 = true) (serves : d.serves (.eng 0 3) = true) : d.writeReg .host (TRC_SEQ_CMD 0) v = d.seqCmd v := by
  rw [Dev.writeReg_seqCmd die serves]
  simp [Dev.engWrite]

/-! ### What a command of a sequence leaves -/

/-- A record that a sequence command writes leaves registers, memory and sequences. -/
theorem Dev.emit_seq (d : Dev) (b : Block) (code sev a0 a1 : Nat) (k : Nat) :
    (d.emit b code sev a0 a1).reg k = d.reg k ∧ (d.emit b code sev a0 a1).mem = d.mem ∧ (d.emit b code sev a0 a1).seqs = d.seqs := by
  obtain ⟨_, _, told⟩ := d.emit_eq b code sev a0 a1
  rw [told]
  exact ⟨rfl, rfl, rfl⟩

theorem Dev.seqStatus_reg (d : Dev) (sn code : Nat) : (d.seqStatus sn code).reg (TRC_SEQ_CMD_STATUS 0) = BitVec.ofNat 32 (code * 65536 + sn) := Dev.reg_setReg _ _ _

/-- The device with one sequence put or taken away. -/
theorem Dev.seqOf_set {e : Dev} {x : Option Seq} (h : e.seqs = FMap.set none d.seqs sn x) : e.seqOf sn = x ∧ ∀ j, j ≠ sn → e.seqOf j = d.seqOf j := by
  unfold Dev.seqOf
  rw [h]
  exact ⟨FMap.get_set_self _ _ _ _, fun j other => FMap.get_set_ne _ _ _ other⟩

theorem Dev.seqLoad_spec (d : Dev) (sn : Nat) (bs : List Byte) (h : bs = d.rd View.plain (d.seqTable + 64 * sn) 64) :
    (d.seqLoadFx sn).reg (TRC_SEQ_CMD_STATUS 0) = BitVec.ofNat 32 (d.seqLoadCode sn bs * 65536 + sn) ∧ (d.seqLoadFx sn).mem = d.mem ∧
    (d.seqLoadCode sn bs = 0 → (d.seqLoadFx sn).seqOf sn = some (parseSeq bs) ∧ ∀ j, j ≠ sn → (d.seqLoadFx sn).seqOf j = d.seqOf j) ∧
    (d.seqLoadCode sn bs ≠ 0 → (d.seqLoadFx sn).seqs = d.seqs) := by
  have told := d.seqStatus_reg sn (d.seqLoadCode sn bs)
  by_cases passes : d.seqLoadCode sn bs = 0
  · have fx : d.seqLoadFx sn = Dev.emit { d.seqStatus sn (d.seqLoadCode sn bs) with seqs := FMap.set none d.seqs sn (some (parseSeq bs)) } (.eng 0 3) 0x0510 0 sn
        ((parseSeq bs).owner + 256 * (parseSeq bs).home) := by
      unfold Dev.seqLoadFx
      dsimp only
      rw [← h]
      exact if_neg (not_not_intro passes)
    obtain ⟨reg, mem, seqs⟩ := Dev.emit_seq { d.seqStatus sn (d.seqLoadCode sn bs) with seqs := FMap.set none d.seqs sn (some (parseSeq bs)) } (.eng 0 3) 0x0510 0 sn
      ((parseSeq bs).owner + 256 * (parseSeq bs).home) (TRC_SEQ_CMD_STATUS 0)
    rw [← fx] at reg mem seqs
    exact ⟨reg.trans told, mem, fun _ => Dev.seqOf_set seqs, fun fails => absurd passes fails⟩
  · have fx : d.seqLoadFx sn = (d.seqStatus sn (d.seqLoadCode sn bs)).seqRefused sn (d.seqLoadCode sn bs) := by
      unfold Dev.seqLoadFx
      dsimp only
      rw [← h]
      exact if_pos passes
    obtain ⟨reg, mem, seqs⟩ := (d.seqStatus sn (d.seqLoadCode sn bs)).emit_seq (.eng 0 3) 0x0512 1 sn (d.seqLoadCode sn bs) (TRC_SEQ_CMD_STATUS 0)
    change (Dev.seqRefused _ _ _).reg _ = _ at reg
    change (Dev.seqRefused _ _ _).mem = _ at mem
    change (Dev.seqRefused _ _ _).seqs = _ at seqs
    rw [← fx] at reg mem seqs
    exact ⟨reg.trans told, mem, fun holds => absurd holds passes, fun _ => seqs⟩

theorem Dev.seqRelease_free {q : Seq} (active : d.seqOf sn = some q) (free : ∀ e ∈ d.ctxList, sn ∉ e.2.sequences) :
    (d.seqReleaseFx sn).seqOf sn = none ∧ (d.seqReleaseFx sn).reg (TRC_SEQ_CMD_STATUS 0) = BitVec.ofNat 32 sn ∧
    (∀ j, j ≠ sn → (d.seqReleaseFx sn).seqOf j = d.seqOf j) ∧ (d.seqReleaseFx sn).mem = d.mem := by
  have unused : d.ctxList.any (fun x => x.2.sequences.contains sn) = false := List.any_eq_false.2 fun e m => by simpa using free e m
  have fx : d.seqReleaseFx sn = Dev.emit { d.seqStatus sn 0 with seqs := FMap.set none d.seqs sn none } (.eng 0 3) 0x0511 0 sn
      (recConf (q.record (d.rd View.plain) 0)) := by
    unfold Dev.seqReleaseFx
    rw [active]
    exact if_neg (Bool.eq_false_iff.1 unused)
  obtain ⟨reg, mem, seqs⟩ := Dev.emit_seq { d.seqStatus sn 0 with seqs := FMap.set none d.seqs sn none } (.eng 0 3) 0x0511 0 sn
    (recConf (q.record (d.rd View.plain) 0)) (TRC_SEQ_CMD_STATUS 0)
  rw [← fx] at reg mem seqs
  obtain ⟨own, others⟩ := Dev.seqOf_set (d := d) (sn := sn) (x := none) seqs
  have told := d.seqStatus_reg sn 0
  rw [Nat.zero_mul, Nat.zero_add] at told
  exact ⟨own, reg.trans told, others, mem⟩

theorem Dev.seqRelease_declared {q : Seq} (active : d.seqOf sn = some q) (declared : ∃ e ∈ d.ctxList, sn ∈ e.2.sequences) :
    (d.seqReleaseFx sn).seqs = d.seqs ∧ (d.seqReleaseFx sn).reg (TRC_SEQ_CMD_STATUS 0) = BitVec.ofNat 32 (0x89 * 65536 + sn) := by
  have used : d.ctxList.any (fun x => x.2.sequences.contains sn) = true := by
    obtain ⟨e, m, names⟩ := declared
    exact List.any_eq_true.2 ⟨e, m, by simpa using names⟩
  have fx : d.seqReleaseFx sn = (d.seqStatus sn 0x89).emit (.eng 0 3) 0x0512 1 sn 0x89 := by
    unfold Dev.seqReleaseFx
    rw [active]
    exact if_pos used
  obtain ⟨reg, mem, seqs⟩ := (d.seqStatus sn 0x89).emit_seq (.eng 0 3) 0x0512 1 sn 0x89 (TRC_SEQ_CMD_STATUS 0)
  rw [← fx] at reg mem seqs
  exact ⟨seqs, reg.trans (d.seqStatus_reg sn 0x89)⟩

/-! ### The commands -/

theorem trcSeqLoad_other (die : s.dev.hw.hasDie n = true) (other : n ≠ 0) : s.Answers (exec (.trcSeqLoad w n v) s) (fun x => x = { s.dev with out := [] }) := by
  refine ans_runIf (g := fun d => if v.toNat / 2 ^ 30 = 1 then d.writeReg w (TRC_SEQ_CMD n) v else d) die ?_
  rw [Dev.writeReg_seqCmd_other (d := s.dev.fresh) die other, ite_self]
  rfl

theorem trcSeqRelease_other (die : s.dev.hw.hasDie n = true) (other : n ≠ 0) :
    s.Answers (exec (.trcSeqRelease w n v) s) (fun x => x = { s.dev with out := [] }) := by
  refine ans_runIf (g := fun d => if v.toNat / 2 ^ 30 = 2 then d.writeReg w (TRC_SEQ_CMD n) v else d) die ?_
  rw [Dev.writeReg_seqCmd_other (d := s.dev.fresh) die other, ite_self]
  rfl

theorem trcSeqLoad_answers {P : Dev → Prop} (die : s.dev.hw.hasDie 0 = true) (serves : s.dev.serves (.eng 0 3) = true) (load : v.toNat / 2 ^ 30 = 1)
    (h : P (s.dev.fresh.seqLoadFx (v.toNat % 4096))) : s.Answers (exec (.trcSeqLoad .host 0 v) s) P := by
  refine ans_runIf (g := fun d => if v.toNat / 2 ^ 30 = 1 then d.writeReg .host (TRC_SEQ_CMD 0) v else d) die ?_
  rw [if_pos load, Dev.writeReg_seqCmd_host (d := s.dev.fresh) die serves, Dev.seqCmd, load]
  exact h

theorem trcSeqRelease_answers {P : Dev → Prop} (die : s.dev.hw.hasDie 0 = true) (serves : s.dev.serves (.eng 0 3) = true) (release : v.toNat / 2 ^ 30 = 2)
    (h : P (s.dev.fresh.seqReleaseFx (v.toNat % 4096))) : s.Answers (exec (.trcSeqRelease .host 0 v) s) P := by
  refine ans_runIf (g := fun d => if v.toNat / 2 ^ 30 = 2 then d.writeReg .host (TRC_SEQ_CMD 0) v else d) die ?_
  rw [if_pos release, Dev.writeReg_seqCmd_host (d := s.dev.fresh) die serves, Dev.seqCmd, release]
  exact h

end

/-! ### The statement -/

/-- What the end of a command at an engine does. -/
def Dev.engineDone (d : Dev) (die engine : Nat) : Dev :=
  match engine with
  | 4 => d.crnCheckDone
  | 5 => d.crnWorldDone
  | e => if e < 4 then d.engDoneFx die e else d

theorem Dev.engineDone_fixed (d : Dev) (die : Nat) {e : Nat} (low : e < 4) : d.engineDone die e = d.engDoneFx die e := by
  unfold Dev.engineDone
  split
  · omega
  · omega
  · exact if_pos low

theorem engineDone_answers {s : State} {die engine : Nat} {P : Dev → Prop} (present : (decide (4 ≤ engine) || s.dev.hw.hasDie die) = true)
    (h : P (s.dev.fresh.engineDone die engine)) : s.AnswersSettled (exec (.engineCommandComplete die engine) s) P :=
  ans_setIf (g := fun d => d.engineDone die engine) present h

/-- Settles O42: a command that ends completes its ticket; the sequence register of die 0 loads and releases. -/
theorem engineEndResults : Obligations.EngineEndResults := by
  unfold Obligations.EngineEndResults
  intro s d done
  refine ⟨fun n e r die engine run => ?engine, fun n r run committed ticket => ?world, fun n r w check world epoch delivery plan swept ticket => ?plan,
    fun v sn bs die serves load number bytes => ?load, fun v sn q die serves release number active => ?release,
    fun w n v other die => ⟨trcSeqLoad_other die other, trcSeqRelease_other die other⟩⟩
  case engine =>
    refine engineDone_answers (by rw [die, Bool.or_true]) ?_
    rw [Dev.engineDone_fixed _ _ engine]
    exact Dev.engDone_spec (d := s.dev.fresh) run
  case world => exact engineDone_answers rfl (Dev.crnWorldDone_spec (d := s.dev.fresh) run committed ticket)
  case plan =>
    refine engineDone_answers rfl ?_
    have plans : s.dev.fresh.engineDone n 4 = s.dev.fresh.planEnd r w none := Dev.crnCheckDone_plan (d := s.dev.fresh) check world epoch delivery plan swept
    rw [plans]
    exact ⟨_, rfl, s.dev.fresh.planEnd_spec w ticket⟩
  case load =>
    subst number
    exact trcSeqLoad_answers die serves load (s.dev.fresh.seqLoad_spec (v.toNat % 4096) bs bytes)
  case release =>
    subst number
    exact ⟨fun free => trcSeqRelease_answers die serves release (Dev.seqRelease_free (d := s.dev.fresh) active free),
      fun declared => trcSeqRelease_answers die serves release (Dev.seqRelease_declared (d := s.dev.fresh) active declared)⟩

end Sys2Proof.Machine
end

section
/-! SUPPORT. What the end of a context and a partition's binding leave: Plumb time, by which their records are stamped (R137–R140, R148, R180). -/
namespace Sys2Proof.Machine

namespace Dev

variable {d e : Dev}

theorem MemOnly.plb (h : d.MemOnly e) : e.plb = d.plb := by rw [h.eq]
theorem SafetyOnly.plb (h : d.SafetyOnly e) : e.plb = d.plb := by rw [h.eq]
theorem emit_plb (d : Dev) (b : Block) (code sev a0 a1 : Nat) : (d.emit b code sev a0 a1).plb = d.plb := (d.emit_safetyOnly b code sev a0 a1).plb
theorem blkCount_plb (d : Dev) (b : Block) (ev n : Nat) : (d.blkCount b ev n).plb = d.plb := by rw [blkCount_gau]
theorem putCore_plb (d : Dev) (g : Nat) (k : Core) : (d.putCore g k).plb = d.plb := by rw [putCore_cores]

theorem limited_plb (d : Dev) (key gap : Nat) {f : Nat → Dev → Dev} (h : ∀ n d, (f n d).plb = d.plb) : (d.limited key gap f).plb = d.plb := by
  unfold limited
  split
  · split
    · rfl
    · exact h _ _
  · exact h _ _

theorem foldl_plb {β : Type} {f : Dev → β → Dev} (h : ∀ d b, (f d b).plb = d.plb) (l : List β) (d : Dev) : (l.foldl f d).plb = d.plb :=
  List.foldlRecOn (motive := fun e => e.plb = d.plb) l f rfl fun e he b _ => (h e b).trans he

/-! ### A semaphore that is given back goes to its oldest waiter, which goes on -/

theorem haltCore_plb (d : Dev) (g cause : Nat) : (d.haltCore g cause).plb = d.plb :=
  (limited_plb _ _ _ fun _ d => d.emit_plb _ _ _ _ _).trans (d.putCore_plb g _)

theorem arrive_plb (d : Dev) (g : Nat) : (d.arrive g).plb = d.plb := by
  unfold arrive
  dsimp only
  split
  · exact d.haltCore_plb g 2
  · rfl

theorem wake_plb (d : Dev) (g : Nat) (f : Regs → Regs) : (d.wake g f).plb = d.plb := (arrive_plb _ g).trans (d.putCore_plb g _)

theorem grantSem_plb (d : Dev) (n : Nat) : (d.grantSem n).plb = d.plb := by
  unfold grantSem
  dsimp only
  split
  · exact (wake_plb _ _ _).trans (blkCount_plb _ _ _ _)
  · rfl

theorem releaseSem_plb (d : Dev) (n : Nat) (poison : Bool) : (d.releaseSem n poison).plb = d.plb := grantSem_plb _ n

/-! ### A context that ends -/

theorem failRecord_safetyOnly (d : Dev) (n : Nat) (rs : List Nat) (seq : Nat) (storage : Bool) : d.SafetyOnly (d.failRecord n rs seq storage) := by
  have told (x : Nat) (d : Dev) : d.SafetyOnly (d.quoinEvent 0x0B05 2 (n + 256 * x) seq) := d.eachQuoin_safetyOnly fun d _ => d.emit_safetyOnly _ _ _ _ _
  unfold failRecord
  split
  · exact (((d.putValidity_safetyOnly _ _ _).trans (modStream_safetyOnly _ n _)).trans (.foldl (fun d x => told x d) _ _)).trans
      (fallback_safetyOnly _ _ _ _ _)
  · exact d.modStream_safetyOnly n _

theorem closeUnclosed_safetyOnly (d : Dev) (c status : Nat) (storage : Bool) : d.SafetyOnly (d.closeUnclosed c status storage) := by
  refine .foldl (fun d p => ?_) _ d
  dsimp only
  split
  · exact .refl d
  · split
    · exact d.modStream_safetyOnly _ _
    · exact (d.modStream_safetyOnly _ _).trans (failRecord_safetyOnly _ _ _ _ _)

theorem leaveEpoch_plb (d : Dev) (c : Nat) : (d.leaveEpoch c).plb = d.plb := by
  unfold leaveEpoch
  split <;> rfl

theorem resolverGone_memOnly (d : Dev) (r : Nat) : d.MemOnly (d.resolverGone r) := by
  unfold resolverGone
  split
  · exact d.askSquash_memOnly r 4
  · exact .refl d

theorem complete_plb (d : Dev) (k : Completion) : (d.complete k).plb = d.plb := rfl

theorem dropSaves_plb (d : Dev) (c : Nat) : (d.dropSaves c).plb = d.plb := rfl
theorem dropTickets_plb (d : Dev) (c : Nat) : (d.dropTickets c).plb = d.plb := rfl

theorem endCtx_plb (d : Dev) (c : Nat) (status : BitVec 8) : (d.endCtx c status).plb = d.plb := by
  unfold endCtx
  dsimp only
  rw [(resolverGone_memOnly _ _).plb, complete_plb, (putCtx_memOnly _ c _).plb, setCtx_plb, dropTickets_plb, dropSaves_plb, leaveEpoch_plb,
    (writerLost_memOnly _ c status).plb, (d.closeUnclosed_safetyOnly _ _ _).plb]

/-! ### A partition that is bound -/

theorem applyPart_plb (d : Dev) (p : Part) : (d.applyPart p).plb = d.plb := by
  have checked (d : Dev) (c : Nat) :
      (if (d.ctx c).state = .queued ∧ (d.ctx c).part = p.index ∧ !d.stillFits c then d.endCtx c stInvalidDesc else d).plb = d.plb := by
    split
    · exact d.endCtx_plb c _
    · rfl
  exact (foldl_plb (fun d (e : Nat × Ctx) => checked d e.1) _ _).trans (foldl_plb (fun d n => d.releaseSem_plb n false) _ _)

end Dev

end Sys2Proof.Machine
end

section
/-! SUPPORT. The descriptors that the job front-end carries out (R133–R144, R175–R182): what each does once it has been taken from the accepted ones. -/
namespace Sys2Proof.Machine

theorem Dev.Accepts.descType_eq {d : Dev} {t : Nat} {a : Accepted} {rest : List Accepted} (h : d.Accepts t a rest) : descType a.bytes = t := h.1

/-! ### Completion records -/

/-- The completion record of a descriptor that the device answers now (R180). -/
def Dev.recordOf (d : Dev) (bs : List Byte) (st : BitVec 8) (ctx : Nat) (part : Option Nat) (r16 r32 : Nat) : Completion :=
  { seq := descSeq bs, type := descType bs, status := st, flags := 0, ctx := ctx, res16 := r16, res32 := r32, ns := d.plb.ns, notify := descNotify bs,
    part := part }

theorem Dev.recordOf_congr {d e : Dev} (plb : e.plb = d.plb) : e.recordOf = d.recordOf := by
  unfold Dev.recordOf
  rw [plb]

theorem Dev.reply_eq (d : Dev) (bs : List Byte) (st : BitVec 8) (r16 r32 : Nat) : d.reply bs st r16 r32 = d.complete (d.recordOf bs st 0xFFFF none r16 r32) := rfl

theorem Dev.answer_eq (d : Dev) {bs : List Byte} {t : Nat} (type : descType bs = t) (st : BitVec 8) (part : Option Nat) (r16 r32 : Nat) :
    d.answer (descSeq bs) (descNotify bs) t st 0xFFFF part r16 r32 = d.complete (d.recordOf bs st 0xFFFF part r16 r32) := by
  rw [← type]
  rfl

/-- A descriptor that names a context is refused by a record with its SEQ and the status. -/
theorem Dev.refuse_eq (d : Dev) (bs : List Byte) (st : BitVec 8) : ∃ k, d.refuse bs st = d.complete k ∧ k.status = st ∧ k.seq = descSeq bs :=
  ⟨_, rfl, rfl, rfl⟩

theorem Dev.configRejected_eq (d : Dev) (kind reason : Nat) :
    ∃ evs n, d.configRejected kind reason = { d with jfe := { d.jfe with ev := evs, evSeq := n } } := d.emit_eq _ _ _ _ _

/-! ### Each descriptor, taken from the accepted ones -/

section
variable {d e : Dev} {bs : List Byte}

theorem Dev.descNopFx_taken (take : d.takeDesc 15 = some (bs, e)) : d.descNopFx = e.reply bs (if descReserved bs then stInvalidDesc else stOk) 0 0 := by
  unfold Dev.descNopFx
  rw [take]

theorem Dev.queryFenceFx_taken (take : d.takeDesc 7 = some (bs, e)) (legal : descReserved bs = false) (dram : inDram e.hw (fieldAt bs 8 8) 256 = true) :
    d.queryFenceFx = (e.wr View.plain (fieldAt bs 8 8) e.fenceReport).reply bs stOk 0 e.fencedCount := by
  unfold Dev.queryFenceFx
  rw [take]
  simp only [legal, dram, Bool.not_true, Bool.or_self, Bool.false_eq_true, if_false]

/-- The device with the slot of a model handle empty again, its generation kept for the next model there (R135). -/
def Dev.unloaded (d : Dev) (h : Nat) (m : Model) : Dev :=
  { d with jfe := { d.jfe with models := FMap.set Model.none d.jfe.models (h % 256) { Model.none with gen := m.gen } },
           sec := { d.sec with modelKeys := FMap.set none d.sec.modelKeys (h % 256) none } }

section
variable {m : Model} (take : d.takeDesc 3 = some (bs, e)) (model : e.modelOf (fieldAt bs 4 2) = some m)
include take model

theorem Dev.unloadModelFx_of_idle (legal : descReserved bs = false) (idle : ∀ x ∈ e.ctxList, x.2.isPlan = true ∨ x.2.inv.model ≠ fieldAt bs 4 2) :
    d.unloadModelFx = (e.unloaded (fieldAt bs 4 2) m).answer (descSeq bs) (descNotify bs) 3 stOk 0xFFFF (some m.part) (fieldAt bs 4 2) 0 := by
  have noJob : e.ctxList.any (fun x => !x.2.isPlan && x.2.inv.model == fieldAt bs 4 2) = false := by
    refine List.any_eq_false.mpr fun x hx => ?_
    rcases idle x hx with plan | other
    · simp [plan]
    · simp [other]
  unfold Dev.unloadModelFx
  rw [take]
  simp only [model, legal, noJob, Bool.or_self, Bool.false_eq_true, if_false]
  rfl

theorem Dev.unloadModelFx_of_used (used : ∃ x ∈ e.ctxList, x.2.isPlan = false ∧ x.2.inv.model = fieldAt bs 4 2) :
    d.unloadModelFx = e.answer (descSeq bs) (descNotify bs) 3 stInvalidDesc 0xFFFF (some m.part) (fieldAt bs 4 2) 0 := by
  have aJob : e.ctxList.any (fun x => !x.2.isPlan && x.2.inv.model == fieldAt bs 4 2) = true := by
    obtain ⟨x, hx, job, same⟩ := used
    exact List.any_eq_true.mpr ⟨x, hx, by simp [job, same]⟩
  unfold Dev.unloadModelFx
  rw [take]
  simp only [model, aJob, Bool.or_true, if_true]

end

/-- A model that is loaded has passed the signature check: a provisioned key verifies its digest (R133, R497). -/
theorem Dev.loadOf_signed {slot : Nat} {m : Model} {key : Option (List Byte)} (load : d.loadOf bs = .ok (slot, m, key)) :
    ∃ k ∈ d.sec.signers, ∃ sig, ecdsaVerify k m.digest sig = true := by
  unfold Dev.loadOf at load
  extract_lets pi image wrapped hd ss sigOff signed digest sig flags slots slot' at load
  obtain ⟨-, load⟩ := loadIf_ok load
  obtain ⟨-, load⟩ := loadIf_ok load
  obtain ⟨verified, load⟩ := loadIf_ok load
  have signer : ∃ k ∈ d.sec.signers, ecdsaVerify k digest sig = true := by
    obtain ⟨-, some⟩ := Bool.or_eq_false_iff.mp verified
    exact List.any_eq_true.mp (Bool.not_eq_eq_eq_not.mp some)
  obtain ⟨k, mem, ok⟩ := signer
  refine ⟨k, mem, sig, ?_⟩
  split at load
  · cases load
  · iterate 6 obtain ⟨-, load⟩ := loadIf_ok load
    split at load
    · split at load
      · split at load
        · simp only [Except.ok.injEq, Prod.mk.injEq] at load
          obtain ⟨-, rfl, -⟩ := load
          exact ok
        · cases load
      · cases load
    · simp only [Except.ok.injEq, Prod.mk.injEq] at load
      obtain ⟨-, rfl, -⟩ := load
      exact ok

/-- The device with a model in a slot, and the slot's key (R133, R495). -/
def Dev.loaded (d : Dev) (slot : Nat) (m : Model) (key : Option (List Byte)) : Dev :=
  { d with freeCtr := d.freeCtr + 1, jfe := { d.jfe with models := FMap.set Model.none d.jfe.models slot m },
           sec := { d.sec with modelKeys := FMap.set none d.sec.modelKeys slot key, installed := d.sec.installed || key.isSome } }

section
variable (take : d.takeDesc 2 = some (bs, e)) (legal : descReserved bs = false)
include take legal

theorem Dev.loadModelFx_ok {slot : Nat} {m : Model} {key : Option (List Byte)} (load : e.loadOf bs = .ok (slot, m, key)) :
    d.loadModelFx =
      (e.loaded slot m key).answer (descSeq bs) (descNotify bs) 2 stOk 0xFFFF (some (fieldAt bs 4 1 % 16)) (256 * m.gen + slot) 0 := by
  unfold Dev.loadModelFx
  rw [take]
  simp only [legal, load, Bool.false_eq_true, if_false]
  rfl

theorem Dev.loadModelFx_error {n : Nat} {st : BitVec 8} (load : e.loadOf bs = .error (n, st)) :
    d.loadModelFx =
      ((e.configRejected 3 9).configRejected 3 n).answer (descSeq bs) (descNotify bs) 2 st 0xFFFF (some (fieldAt bs 4 1 % 16)) 0 n := by
  unfold Dev.loadModelFx
  rw [take]
  simp only [legal, load, Bool.false_eq_true, if_false]

end

/-- BIND_PARTITION by its reason, and by whether the running Quadrille names the partition (R140). -/
theorem Dev.bindFx_taken {p : Part} {r : Nat} (take : d.takeDesc 4 = some (bs, e)) (entry : p = parsePart (e.locRd true (fieldAt bs 8 8) 384))
    (reason : r = e.bindReason bs (e.locRd true (fieldAt bs 8 8) 384)) :
    d.bindFx =
      if r ≠ 0 then (e.configRejected 1 r).reply bs (if r = 0x0A then stSecurityDenied else stInvalidDesc) p.index r
      else if e.scheduled p.index then
        Dev.reply { e with jfe := { e.jfe with waiting := FMap.set none e.jfe.waiting p.index (some p) } } bs stOk p.index 1
      else (e.applyPart p).reply bs stOk p.index 0 := by
  unfold Dev.bindFx
  rw [take, entry, reason]

/-- The device with a Quadrille table staged: ORIGIN 0 of the first one stands for the millisecond from now (R143, R144). -/
def Dev.quadStaged (d : Dev) (tab : List Byte) : Dev :=
  let origin := if fieldAt tab 8 8 = 0 ∧ d.jfe.quad = none then d.now + 1000000 else fieldAt tab 8 8
  { d with jfe := { d.jfe with quadNext := some (parseQuadrille tab, origin) } }

/-- A SET_QUADRILLE without a reason to refuse it stages its table (R141–R144). -/
theorem Dev.setQuadrilleFx_ok {tab : List Byte} (take : d.takeDesc 5 = some (bs, e))
    (table : tab = e.locRd true (fieldAt bs 8 8) 64 ++ e.locRd true (fieldAt bs 8 8 + 64) (32 * fieldAt (e.locRd true (fieldAt bs 8 8) 64) 1 1))
    (reason : e.quadReason bs tab (parseQuadrille tab) (fieldAt tab 8 8) = 0) :
    d.setQuadrilleFx = (e.quadStaged tab).reply bs stOk 1 0 := by
  subst table
  unfold Dev.setQuadrilleFx
  rw [take]
  simp only [reason, ne_eq, not_true_eq_false, if_false, Option.isNone_iff_eq_none]
  rfl

/-- The context of a job as its INVOKE gives it, before it is queued (R176). -/
def jobCtx (bs : List Byte) (v : Invoke) (p : Nat) (seqs : List Nat) : Ctx :=
  { Ctx.free with part := p, inv := v, seq := descSeq bs, notify := descNotify bs, sequences := seqs }

/-- The context of a PLAN_REQUEST, before it is queued (R179). -/
def planCtx (bs : List Byte) (v : Invoke) (p : Nat) : Ctx :=
  { Ctx.free with part := p, isPlan := true, inv := v, seq := descSeq bs, notify := descNotify bs }

theorem Dev.invokeFx_ok {v : Invoke} {p : Nat} {seqs : List Nat} (take : d.takeDesc 1 = some (bs, e)) (run : e.stopped = false)
    (gives : e.invokeOf bs = some (v, p, seqs)) :
    d.invokeFx = e.enqueueJob (fieldAt bs 4 2 % 4096) (jobCtx bs v p seqs) := by
  unfold Dev.invokeFx
  rw [take]
  simp only [run, gives, Bool.false_eq_true, if_false]
  rfl

theorem Dev.invokeFx_stopped (take : d.takeDesc 1 = some (bs, e)) (stop : e.stopped = true) : d.invokeFx = e.refuse bs stSafeState := by
  unfold Dev.invokeFx
  rw [take]
  exact if_pos stop

theorem Dev.planRequestFx_ok {v : Invoke} {p : Nat} (take : d.takeDesc 6 = some (bs, e)) (run : e.stopped = false)
    (gives : e.planReqOf bs = some (v, p)) :
    d.planRequestFx = e.enqueueJob (fieldAt bs 4 2 % 4096) (planCtx bs v p) := by
  unfold Dev.planRequestFx
  rw [take]
  simp only [run, gives, Bool.false_eq_true, if_false]
  rfl

theorem Dev.planRequestFx_stopped (take : d.takeDesc 6 = some (bs, e)) (stop : e.stopped = true) : d.planRequestFx = e.refuse bs stSafeState := by
  unfold Dev.planRequestFx
  rw [take]
  exact if_pos stop

/-! ### Requested tests (R178, R450) -/

/-- A unit that cannot be tested now: a link that is not fenced or under test already, or a layer that is neither fenced nor spared. -/
def Dev.testBarred (d : Dev) (n kind unit : Nat) : Prop :=
  (kind = 3 ∧ (d.linkShut n unit = false ∨ (d.port n unit).underTest = true)) ∨ (kind = 4 ∧ d.layerOut (2 * n + unit / 8) (unit % 8) = false)

theorem Dev.testBarred_iff (d : Dev) (n kind unit : Nat) :
    ((kind == 3 && (!d.linkShut n unit || (d.port n unit).underTest)) || (kind == 4 && !d.layerOut (2 * n + unit / 8) (unit % 8))) = true ↔
      d.testBarred n kind unit := by
  simp only [Dev.testBarred, Bool.or_eq_true, Bool.and_eq_true, beq_iff_eq, Bool.not_eq_true']

/-- The completion of a requested test: one record, with the result in RESULT32; the requests that wait stay. -/
theorem Dev.testAnswer_spec (d : Dev) (r : PavReq) (code : Nat) :
    (d.testAnswer r code).pav = d.pav ∧
      ∃ k, (d.testAnswer r code).jfe.cq = d.jfe.cq ++ [k] ∧ k.seq = r.seq ∧ k.status = stOk ∧ k.res32 = code := by
  unfold Dev.testAnswer
  obtain ⟨_, _, told⟩ := d.emit_eq (if r.die = 8 then .key else .pav r.die) 0x0C09 1 (r.die + 256 * r.kind + 4096 * r.unit) code
  rw [told]
  exact ⟨rfl, _, rfl, rfl, rfl, rfl⟩

/-- The request of a TEST_REQUEST as it joins those that wait. -/
def Dev.testReqOf (d : Dev) (bs : List Byte) : PavReq :=
  { seq := descSeq bs, notify := descNotify bs, die := fieldAt bs 4 1, kind := fieldAt bs 5 1, unit := fieldAt bs 6 2, readmit := fieldAt bs 8 1 == 1,
    frames := 0, left := d.testPlan (fieldAt bs 4 1) (fieldAt bs 5 1) (fieldAt bs 6 2), started := false, failed := false, bandReached := true,
    passed := false, order := d.jfe.order }

/-- The device with the order number of a TEST_REQUEST used. -/
def Dev.testNumbered (d : Dev) : Dev := { d with jfe := { d.jfe with order := d.jfe.order + 1 } }

/-- The device with one more request waiting. -/
def Dev.testQueued (d : Dev) (r : PavReq) : Dev := { d.testNumbered with pav := { d.pav with requests := d.pav.requests ++ [r] } }

section
variable (take : d.takeDesc 8 = some (bs, e)) (legal : descReserved bs = false)
  (named : testNamed e.hw (fieldAt bs 4 1) (fieldAt bs 5 1) (fieldAt bs 6 2) = true) (room : e.pav.requests.length < 64)
include take legal named room

theorem Dev.testRequestFx_of_free (free : ¬ e.testBarred (fieldAt bs 4 1) (fieldAt bs 5 1) (fieldAt bs 6 2)) :
    d.testRequestFx =
      let q := e.testQueued { e.testReqOf bs with started := decide (3 ≤ fieldAt bs 5 1) }
      if fieldAt bs 5 1 = 3 then q.startLinkTest (fieldAt bs 4 1) (fieldAt bs 6 2) else q := by
  rw [← Dev.testBarred_iff] at free
  unfold Dev.testRequestFx
  rw [take]
  simp only [legal, named, Nat.not_le.mpr room, free, decide_false, Bool.not_true, Bool.or_self, Bool.false_eq_true, if_false]
  rfl

theorem Dev.testRequestFx_of_barred (barred : e.testBarred (fieldAt bs 4 1) (fieldAt bs 5 1) (fieldAt bs 6 2)) :
    d.testRequestFx = e.testNumbered.testAnswer (e.testReqOf bs) 5 := by
  rw [← Dev.testBarred_iff] at barred
  unfold Dev.testRequestFx
  rw [take]
  simp only [legal, named, Nat.not_le.mpr room, barred, decide_false, Bool.not_true, Bool.or_self, Bool.false_eq_true, if_false, if_true]
  rfl

end

end

/-! ### Which descriptors wait is nothing that the checks read -/

section
variable (d : Dev) (rest : List Accepted)

theorem Dev.bindReason_taken (bs tab : List Byte) : (d.taken rest).bindReason bs tab = d.bindReason bs tab := by
  unfold Dev.bindReason
  rfl

theorem Dev.quadReason_taken (bs tab : List Byte) (q : Quadrille) (origin : Nat) :
    (d.taken rest).quadReason bs tab q origin = d.quadReason bs tab q origin := by
  unfold Dev.quadReason
  rfl

theorem Dev.locRd_taken (loc : Bool) (a n : Nat) : (d.taken rest).locRd loc a n = d.locRd loc a n := by
  unfold Dev.locRd
  rfl

theorem Dev.fenceReport_taken : (d.taken rest).fenceReport = d.fenceReport := by
  unfold Dev.fenceReport
  rfl

end

/-! ### The commands -/

section
variable {s : State} {a : Accepted} {rest : List Accepted}

theorem bindPartition_answers {p : Part} {r : Nat} (accepts : s.dev.Accepts 4 a rest) (entry : p = parsePart (s.dev.locRd true (fieldAt a.bytes 8 8) 384))
    (reason : r = s.dev.bindReason a.bytes (s.dev.locRd true (fieldAt a.bytes 8 8) 384)) :
    s.AnswersSettled (exec .bindPartition s) (fun e => e =
      if r ≠ 0 then ((s.dev.taken rest).configRejected 1 r).reply a.bytes (if r = 0x0A then stSecurityDenied else stInvalidDesc) p.index r
      else if s.dev.scheduled p.index then
        Dev.reply { s.dev.taken rest with jfe := { (s.dev.taken rest).jfe with waiting := FMap.set none s.dev.jfe.waiting p.index (some p) } } a.bytes stOk
          p.index 1
      else ((s.dev.taken rest).applyPart p).reply a.bytes stOk p.index 0) := by
  refine ans_set (g := Dev.bindFx) (Dev.bindFx_taken (Dev.takeDesc_fresh accepts) ?_ ?_)
  · rw [Dev.locRd_taken]
    exact entry
  · rw [Dev.locRd_taken, Dev.bindReason_taken]
    exact reason

end

/-- Settles O33: each descriptor is one function of the device from which it has been taken, whose cases the lemmas above state. -/
theorem descriptorResults : Obligations.DescriptorResults := by
  unfold Obligations.DescriptorResults
  intro s a rest d bs record
  refine ⟨fun accepts => ?nop, fun accepts legal dram => ?fence, fun m h accepts handle model legal => ⟨fun idle => ?unload, fun used => ?inUse⟩,
    fun accepts legal => ⟨fun slot m key load => ⟨Dev.loadOf_signed load, ?load⟩, fun n st load => ?loadFails⟩, ?bind, ?quad,
    fun v p seqs accepts run gives => ?invoke, fun v p accepts run gives => ?plan, fun stop => ⟨fun accepts => ?invokeStopped, fun accepts => ?planStopped⟩,
    fun n kind unit accepts die sort place legal named room => ⟨fun free => ?test, fun barred => ?testBarred⟩⟩
  case nop =>
    refine ans_run (g := Dev.descNopFx) ?_
    exact Dev.descNopFx_taken (Dev.takeDesc_fresh accepts)
  case fence =>
    refine ans_run (g := Dev.queryFenceFx) ?_
    rw [Dev.queryFenceFx_taken (Dev.takeDesc_fresh accepts) legal dram, Dev.reply_eq, Dev.recordOf_congr (Dev.wr_memOnly _ _ _ _).plb,
      Dev.fenceReport_taken]
    rfl
  case unload =>
    subst handle
    refine ans_set (g := Dev.unloadModelFx) ?_
    rw [Dev.unloadModelFx_of_idle (Dev.takeDesc_fresh accepts) model legal idle, Dev.answer_eq _ accepts.descType_eq]
    rfl
  case inUse =>
    subst handle
    refine ans_set (g := Dev.unloadModelFx) ?_
    rw [Dev.unloadModelFx_of_used (Dev.takeDesc_fresh accepts) model used, Dev.answer_eq _ accepts.descType_eq]
    rfl
  case load =>
    refine ans_set (g := Dev.loadModelFx) ?_
    rw [Dev.loadModelFx_ok (Dev.takeDesc_fresh accepts) legal ((loadOf_taken _ _ _).trans load), Dev.answer_eq _ accepts.descType_eq]
    rfl
  case loadFails =>
    refine ans_set (g := Dev.loadModelFx) ?_
    rw [Dev.loadModelFx_error (Dev.takeDesc_fresh accepts) legal ((loadOf_taken _ _ _).trans load)]
    obtain ⟨_, _, first⟩ := (s.dev.taken rest).configRejected_eq 3 9
    obtain ⟨_, _, second⟩ := ((s.dev.taken rest).configRejected 3 9).configRejected_eq 3 n
    rw [second, first]
    exact ⟨rfl, _, rfl, rfl, rfl, rfl⟩
  case bind =>
    intro p r accepts entry reason
    obtain ⟨e, answers, outcome⟩ := bindPartition_answers accepts entry reason
    refine ⟨fun accept waits => ⟨e, answers, ?_⟩, fun accept now => ⟨e, answers, ?_⟩, fun refuse => ⟨e, answers, ?_⟩⟩
    · rw [outcome, if_neg (not_not_intro accept), if_pos waits]
      rfl
    · rw [outcome, if_neg (not_not_intro accept), if_neg (Bool.eq_false_iff.mp now), Dev.reply_eq, Dev.recordOf_congr (Dev.applyPart_plb _ _)]
      rfl
    · obtain ⟨_, _, told⟩ := (s.dev.taken rest).configRejected_eq 1 r
      rw [outcome, if_pos refuse, told]
      exact ⟨rfl, rfl, _, rfl, rfl, rfl⟩
  case quad =>
    intro tab accepts table reason
    refine ans_set (g := fun d => d.setQuadrilleFx.regate (fun _ => false)) ?_
    dsimp only
    rw [Dev.setQuadrilleFx_ok (Dev.takeDesc_fresh accepts) table ((Dev.quadReason_taken _ _ _ _ _ _).trans reason)]
    rfl
  case invoke =>
    refine ans_set (g := Dev.invokeFx) ?_
    rw [Dev.invokeFx_ok (Dev.takeDesc_fresh accepts) run ((invokeOf_taken _ _ _).trans gives)]
    exact Dev.enqueue_answers (x := jobCtx bs v p seqs) accepts
  case plan =>
    refine ans_set (g := Dev.planRequestFx) ?_
    rw [Dev.planRequestFx_ok (Dev.takeDesc_fresh accepts) run ((planReqOf_taken _ _ _).trans gives)]
    exact Dev.enqueue_answers (x := planCtx bs v p) accepts
  case invokeStopped =>
    refine ans_set (g := Dev.invokeFx) ?_
    rw [Dev.invokeFx_stopped (Dev.takeDesc_fresh accepts) stop]
    exact Dev.refuse_eq _ _ _
  case planStopped =>
    refine ans_set (g := Dev.planRequestFx) ?_
    rw [Dev.planRequestFx_stopped (Dev.takeDesc_fresh accepts) stop]
    exact Dev.refuse_eq _ _ _
  case test =>
    subst die sort place
    refine ans_set (g := fun d => d.testRequestFx.regate (fun _ => false)) ?_
    dsimp only
    rw [Dev.testRequestFx_of_free (Dev.takeDesc_fresh accepts) legal named room free]
    exact ⟨_, _, rfl, rfl, rfl, rfl, rfl, rfl, rfl⟩
  case testBarred =>
    subst die sort place
    refine ans_set (g := fun d => d.testRequestFx.regate (fun _ => false)) ?_
    rw [Dev.testRequestFx_of_barred (Dev.takeDesc_fresh accepts) legal named room barred]
    obtain ⟨pav, k, cq, seq, status, result⟩ := Dev.testAnswer_spec (s.dev.taken rest).testNumbered ((s.dev.taken rest).testReqOf bs) 5
    exact ⟨_, k, rfl, pav, cq, seq, status, result⟩

end Sys2Proof.Machine
end

section
/-! SUPPORT. What a read gives after a write of device memory that carries no tag and has no mirror (R196–R199). -/
namespace Sys2Proof.Machine

/-! ### Bytes stored in place -/

/-- The second device holds the bytes from the address on, and every other byte as the first; what decides where a read is served is as it was. -/
structure Dev.Stored (d e : Dev) (a : Nat) (bs : List Byte) : Prop where
  mirrors : e.mirrors = d.mirrors
  tags : e.tags = d.tags
  shadow : e.shadow = d.shadow
  cell : ∀ b, e.cell b = if a ≤ b ∧ b < a + bs.length then bs.getD (b - a) 0 else d.cell b

theorem Dev.Stored.nil (d : Dev) (a : Nat) : d.Stored d a [] := ⟨rfl, rfl, rfl, fun _ => (if_neg (by simp)).symm⟩

/-- Storing bytes is setting cells: besides, a whole line may lose its poison (R317). -/
theorem Dev.storeAt_eq (d : Dev) (a : Nat) (bs : List Byte) : d.storeAt a bs = { d.setCells a bs with poison := (d.storeAt a bs).poison } := by
  unfold Dev.storeAt
  dsimp only
  split <;> rfl

theorem Dev.stored_storeAt (d : Dev) (a : Nat) (bs : List Byte) : d.Stored (d.storeAt a bs) a bs where
  mirrors := by rw [Dev.storeAt_eq, Dev.setCells_eq]
  tags := by rw [Dev.storeAt_eq, Dev.setCells_eq]
  shadow := by rw [Dev.storeAt_eq, Dev.setCells_eq]
  cell b := by
    rw [Dev.storeAt_eq, ← Dev.cell_setCells]
    exact Dev.cell_congr rfl rfl rfl rfl b

/-- A byte of a list cut in two stands in the second part or in the first. -/
theorem getD_of_cut {α : Type} {bs : List α} {k : Nat} (cut : k ≤ bs.length) (a b : Nat) (x y : α) :
    (if a + k ≤ b ∧ b < a + k + (bs.drop k).length then (bs.drop k).getD (b - (a + k)) x
      else if a ≤ b ∧ b < a + (bs.take k).length then (bs.take k).getD (b - a) x else y) =
    if a ≤ b ∧ b < a + bs.length then bs.getD (b - a) x else y := by
  rw [List.length_drop, List.length_take_of_le cut]
  simp only [List.getD_eq_getElem?_getD]
  rcases Nat.lt_or_ge b (a + k) with low | high
  · rw [if_neg (by omega)]
    by_cases inside : a ≤ b
    · rw [if_pos ⟨inside, low⟩, if_pos (by omega), List.getElem?_take_of_lt (by omega)]
    · rw [if_neg fun h => inside h.1, if_neg fun h => inside h.1]
  · rw [if_neg (c := a ≤ b ∧ b < a + k) (by omega), List.getElem?_drop, show k + (b - (a + k)) = b - a by omega]
    exact if_congr (by omega) rfl rfl

/-- Storing the first part and then the rest stores the whole. -/
theorem Dev.Stored.append {d e f : Dev} {a k : Nat} {bs : List Byte} (cut : k ≤ bs.length) (first : d.Stored e a (bs.take k))
    (rest : e.Stored f (a + k) (bs.drop k)) : d.Stored f a bs where
  mirrors := rest.mirrors.trans first.mirrors
  tags := rest.tags.trans first.tags
  shadow := rest.shadow.trans first.shadow
  cell b := by rw [rest.cell, first.cell, getD_of_cut cut]

/-! ### The pieces of a write -/

theorem linePieces_of_fits {a : Nat} {bs : List Byte} (f : Nat) (fits : a % 64 + bs.length ≤ 64) (z : bs ≠ []) : linePieces (f + 1) a bs = [(a, bs)] := by
  rw [linePieces, if_pos (by omega), if_neg (by simpa using z)]

theorem linePieces_of_crosses {a : Nat} {bs : List Byte} (f : Nat) (crosses : 64 < a % 64 + bs.length) :
    linePieces (f + 1) a bs = (a, bs.take (64 - a % 64)) :: linePieces f (a + (64 - a % 64)) (bs.drop (64 - a % 64)) := by
  rw [linePieces, if_neg (by omega)]

theorem Dev.wr_of_fits (d : Dev) (v : View) {a : Nat} {bs : List Byte} (fits : a % 64 + bs.length ≤ 64) (z : bs ≠ []) : d.wr v a bs = d.wrLine v a bs := by
  rw [Dev.wr, linePieces_of_fits _ fits z]
  rfl

/-! ### A read by the tag of its line (R197) -/

theorem Dev.rdByte_of_untagged {d : Dev} {a : Nat} (m : d.mirrors = []) (tag : d.tag (a / 64) = .none) (v : View) : d.rdByte v a = d.cell a := by
  rw [Dev.rdByte, Dev.served_id m, Dev.readsShadow, tag]
  rfl

theorem Dev.rdByte_of_opened {d : Dev} {a e : Nat} (m : d.mirrors = []) (tag : d.tag (a / 64) = .opened e) (v : View) :
    d.rdByte v a = if v.sees.contains e then d.cell a else (FMap.get [] d.shadow (a / 64)).getD (a % 64) 0 := by
  rw [Dev.rdByte, Dev.served_id m, Dev.readsShadow, tag]
  by_cases seen : v.sees.contains e = true
  · simp only [seen, Bool.not_true, Bool.false_eq_true, if_false, if_true]
  · simp only [seen, Bool.not_false, Bool.false_eq_true, if_false, if_true]

/-! ### A write of confirmed memory -/

theorem Dev.wrLine_confirmed {d : Dev} (m : d.mirrors = []) (t : d.tags = []) {v : View} (h : v.write = none) (a : Nat) (bs : List Byte) :
    d.wrLine v a bs = d.storeAt a bs := by
  unfold Dev.wrLine
  simp only [Dev.writtenTo_id m, List.headD_cons, Dev.tag_none t, h]
  rfl

/-- The pieces of a confirmed write store the whole of its bytes. -/
theorem Dev.stored_linePieces {v : View} (h : v.write = none) : ∀ (f : Nat) {d : Dev} (a : Nat) (bs : List Byte), d.mirrors = [] → d.tags = [] → bs.length < f →
    d.Stored ((linePieces f a bs).foldl (fun d p => d.wrLine v p.1 p.2) d) a bs
  | 0, _, _, _, _, _, fuel => absurd fuel (Nat.not_lt_zero _)
  | f + 1, d, a, bs, m, t, fuel => by
    rcases eq_or_ne bs [] with rfl | z
    · exact Dev.Stored.nil d a
    rcases Nat.lt_or_ge 64 (a % 64 + bs.length) with crosses | fits
    · rw [linePieces_of_crosses f crosses, List.foldl_cons, Dev.wrLine_confirmed m t h]
      have first := d.stored_storeAt a (bs.take (64 - a % 64))
      exact first.append (by omega) (Dev.stored_linePieces h f _ _ (first.mirrors.trans m) (first.tags.trans t) (by rw [List.length_drop]; omega))
    · rw [linePieces_of_fits f fits z, List.foldl_cons, Dev.wrLine_confirmed m t h]
      exact d.stored_storeAt a bs

/-! ### A line tagged with an open epoch -/

/-- The first write under an epoch tags its line alone. -/
theorem Dev.tag_opened {d : Dev} (t : d.tags = []) (l e k : Nat) : ((d.shadowLine l).setTag l e).tag k = if k = l then .opened e else .none := by
  show FMap.get LineTag.none (FMap.set .none d.tags l (.opened e)) k = _
  split
  · next same => rw [same, FMap.get_set_self]
  · next other => rw [FMap.get_set_ne _ _ _ other, t]; rfl

/-- The shadow of a line keeps the confirmed bytes it held (R199). -/
theorem Dev.shadow_opened (d : Dev) (e b : Nat) : (FMap.get [] ((d.shadowLine (b / 64)).setTag (b / 64) e).shadow (b / 64)).getD (b % 64) 0 = d.cell b := by
  have inside : b % 64 < 64 := Nat.mod_lt b (by decide)
  show (FMap.get [] (FMap.set [] d.shadow (b / 64) (d.cells (64 * (b / 64)) 64)) (b / 64)).getD (b % 64) 0 = _
  rw [FMap.get_set_self]
  simp [Dev.cells, List.getD_eq_getElem?_getD, inside, Nat.div_add_mod]

section
variable {d : Dev} (m : d.mirrors = []) (t : d.tags = [])
include m t

/-- R196: a write of confirmed memory is what every master reads next. -/
theorem Dev.rdByte_wr_confirmed {v : View} (h : v.write = none) (w : View) (a b : Nat) (bs : List Byte) :
    (d.wr v a bs).rdByte w b = if a ≤ b ∧ b < a + bs.length then bs.getD (b - a) 0 else d.rdByte w b := by
  have stored : d.Stored (d.wr v a bs) a bs := Dev.stored_linePieces h _ a bs m t (Nat.lt_succ_self _)
  rw [Dev.rdByte_cell m t, ← stored.cell b]
  exact Dev.rdByte_cell (stored.mirrors.trans m) (stored.tags.trans t) w b

/-! ### A write under an open epoch -/

theorem Dev.wrLine_opens {v : View} {e : Nat} (h : v.write = some e) (q : d.jfe.squash = []) (a : Nat) (bs : List Byte) :
    d.wrLine v a bs = ((d.shadowLine (a / 64)).setTag (a / 64) e).storeAt a bs := by
  have room : ¬ tagCapacity ≤ d.taggedOn (lineDie (a / 64)) := by
    rw [Dev.taggedOn, t]
    exact Nat.not_le.mpr (by decide : 0 < tagCapacity)
  unfold Dev.wrLine
  simp only [Dev.writtenTo_id m, List.headD_cons, Dev.tag_none t, h, q]
  rw [if_neg (by simp), if_neg room]

/-- R197: who declares the epoch reads what was written under it, all others what stood there before. -/
theorem Dev.rdByte_wr_opened {v : View} {e : Nat} (h : v.write = some e) (q : d.jfe.squash = []) (w : View) {a : Nat} {bs : List Byte}
    (fits : a % 64 + bs.length ≤ 64) (b : Nat) :
    (d.wr v a bs).rdByte w b = if w.sees.contains e = true ∧ a ≤ b ∧ b < a + bs.length then bs.getD (b - a) 0 else d.rdByte w b := by
  rcases eq_or_ne bs [] with rfl | z
  · exact (if_neg (by simp)).symm
  rw [Dev.wr_of_fits d v fits z, Dev.wrLine_opens m t h q, Dev.rdByte_cell m t w b]
  have stored := ((d.shadowLine (a / 64)).setTag (a / 64) e).stored_storeAt a bs
  have before : ((d.shadowLine (a / 64)).setTag (a / 64) e).cell b = d.cell b := Dev.cell_congr rfl rfl rfl rfl b
  have tag : (((d.shadowLine (a / 64)).setTag (a / 64) e).storeAt a bs).tag (b / 64) = if b / 64 = a / 64 then .opened e else .none := by
    rw [Dev.tag, stored.tags]
    exact Dev.tag_opened t (a / 64) e (b / 64)
  by_cases same : b / 64 = a / 64
  · rw [Dev.rdByte_of_opened (stored.mirrors.trans m) (tag.trans (if_pos same)), stored.cell, before, stored.shadow, ← same, Dev.shadow_opened]
    exact (ite_and ..).symm
  · have outside : ¬ (a ≤ b ∧ b < a + bs.length) := by omega
    rw [Dev.rdByte_of_untagged (stored.mirrors.trans m) (tag.trans (if_neg same)), stored.cell, before, if_neg outside, if_neg fun x => outside x.2]

end

/-! ### Reads of a range -/

theorem Dev.rd_eq_of_bytes {d : Dev} {w : View} {a : Nat} {bs : List Byte} (h : ∀ i < bs.length, d.rdByte w (a + i) = bs.getD i 0) : d.rd w a bs.length = bs := by
  refine List.ext_getElem (by simp [Dev.rd]) fun i _ low => ?_
  simp [Dev.rd, h i low, low]

theorem Dev.rd_congr {d e : Dev} {w : View} {a n : Nat} (h : ∀ i < n, e.rdByte w (a + i) = d.rdByte w (a + i)) : e.rd w a n = d.rd w a n :=
  List.map_congr_left fun i low => h i (List.mem_range.mp low)

/-- Settles O58: byte for byte, from what a read gives after a confirmed write and after one under an epoch. -/
theorem memoryReadsBack : Obligations.MemoryReadsBack := by
  intro d v w a bs t m
  refine ⟨fun confirmed => ?_, fun e opened q fits => ?_, fun b outside kind => ?_, fun wf => Dev.wr_memWf wf v a bs⟩
  · refine Dev.rd_eq_of_bytes fun i low => ?_
    rw [Dev.rdByte_wr_confirmed m t confirmed, if_pos (by omega), Nat.add_sub_cancel_left]
  · split
    · next declared =>
      refine Dev.rd_eq_of_bytes fun i low => ?_
      rw [Dev.rdByte_wr_opened m t opened q w fits, if_pos ⟨declared, by omega⟩, Nat.add_sub_cancel_left]
    · next undeclared =>
      exact Dev.rd_congr fun i _ => by rw [Dev.rdByte_wr_opened m t opened q w fits, if_neg fun h => undeclared h.1]
  · refine Dev.rd_congr fun i low => ?_
    cases write : v.write with
    | none => rw [Dev.rdByte_wr_confirmed m t write, if_neg (by omega)]
    | some e =>
      obtain ⟨q, fits⟩ := kind.resolve_left (by rw [write]; exact Option.some_ne_none e)
      rw [Dev.rdByte_wr_opened m t write q w fits, if_neg (by omega)]

end Sys2Proof.Machine
end

section
/-! SUPPORT. Expert direct control of Cairn: the probe, the priority queue and the invalidation of an edge (R289, R298, R305–R307). -/
namespace Sys2Proof.Machine

/-! ### The priority queue (R289) -/

section
variable {e : Entry} {q : List Entry} {cap : Nat}

/-- An entry goes in between those before and those after it. -/
theorem pqInsert_between (e : Entry) : ∀ q : List Entry, ∃ l r, q = l ++ r ∧ pqInsert e q = l ++ [e] ++ r
  | [] => ⟨[], [], rfl, rfl⟩
  | x :: xs => by
    unfold pqInsert
    split
    · exact ⟨[], x :: xs, rfl, rfl⟩
    · obtain ⟨l, r, queue, inserted⟩ := pqInsert_between e xs
      exact ⟨x :: l, r, by rw [queue, List.cons_append], by rw [inserted, List.cons_append, List.cons_append]⟩

theorem length_pqInsert (e : Entry) (q : List Entry) : (pqInsert e q).length = q.length + 1 := by
  obtain ⟨l, r, queue, inserted⟩ := pqInsert_between e q
  rw [inserted, queue]
  simp only [List.length_append, List.length_singleton]
  omega

theorem pqPush_of_room (room : q.length < cap) : (∃ l r, q = l ++ r ∧ (pqPush cap e q).1 = l ++ [e] ++ r) ∧ (pqPush cap e q).2 = false := by
  rw [pqPush, if_neg (by rw [length_pqInsert]; omega)]
  exact ⟨pqInsert_between e q, rfl⟩

theorem pqPush_of_full (full : q.length = cap) : (pqPush cap e q).1.length = cap ∧ (pqPush cap e q).2 = true := by
  rw [pqPush, if_pos (by rw [length_pqInsert]; omega)]
  exact ⟨by rw [List.length_dropLast, length_pqInsert, full, Nat.add_sub_cancel], rfl⟩

end

/-! ### A register written -/

theorem Dev.setReg_regsOnly (d : Dev) (k : Nat) (v : W32) : d.setReg k v = { d with regs := (d.setReg k v).regs } := rfl

theorem Dev.setReg_setReg_regsOnly (d : Dev) (j k : Nat) (u v : W32) :
    (d.setReg j u).setReg k v = { d with regs := ((d.setReg j u).setReg k v).regs } := rfl

theorem Dev.rbit_eq_getLsbD (d : Dev) (k i : Nat) : d.rbit k i = (d.reg k).getLsbD i :=
  (bitOf_eq_testBit _ _).trans (BitVec.testBit_toNat _)

theorem Dev.rbit_clearBits_same (d : Dev) (k : Nat) {i : Nat} (word : i < 32) : (d.clearBits k (2 ^ i)).rbit k i = false := by
  rw [Dev.rbit_eq_getLsbD, Dev.clearBits, Dev.reg_setReg, BitVec.getLsbD_and, BitVec.getLsbD_not, BitVec.getLsbD_ofNat, Nat.testBit_two_pow_self]
  simp [word]

/-! ### The command registers (R305, R306) -/

section
variable {d : Dev} {w : Writer} {v : W32}

section
variable (serves : d.serves .crn = true) (expert : d.expertFor w = true)
include serves expert

/-- A register of expert level lets a writer of that level through. -/
theorem Dev.writeReg_crn_expert {o : Nat} {r : RegDef} (block : blockAt d.hw (Block.crn.base + o) = some .crn) (own : o ≠ 0xC)
    (found : findReg crnRegs o = some r) (level : r.acc = .exp) : d.writeReg w (Block.crn.base + o) v = d.crnWrite o r v := by
  rw [Dev.writeReg_reg block serves (fun host => nomatch host.1) own found]
  exact Dev.regAccess_through (.inr (.inr (.inr ⟨level, expert⟩)))

theorem Dev.writeReg_probeCmd : d.writeReg w CRN_PROBE_CMD v = d.probeCmd v :=
  Dev.writeReg_crn_expert serves expert (o := 0x810) rfl (by decide) rfl rfl

theorem Dev.writeReg_pqCmd : d.writeReg w CRN_PQ_CMD v = d.pqCmd v :=
  Dev.writeReg_crn_expert serves expert (o := 0x828) rfl (by decide) rfl rfl

theorem Dev.writeReg_edgeInvalidate : d.writeReg w CRN_EDGE_INVALIDATE v = d.edgeInvalidate v :=
  Dev.writeReg_crn_expert serves expert (o := 0x830) rfl (by decide) rfl rfl

end

/-! ### What each command does while DIRECT is 1 -/

variable (direct : d.rbit CRN_DIRECT 0 = true)
include direct

theorem Dev.probeCmd_of_direct (start : v.getLsbD 0 = true) :
    d.probeCmd v = ({ d with crn := { d.crn with probe := true } } : Dev).clearBits CRN_PROBE_RESULT (2 ^ 31) := by
  rw [Dev.probeCmd, direct, start]
  rfl

theorem Dev.edgeInvalidate_of_direct {m : Roadmap} {e : REdge} (loaded : d.crn.roadmap = some m) (edge : m.edges[v.toNat % 2 ^ 18]? = some e) :
    d.edgeInvalidate v =
      { d with crn := { d.crn with roadmap := some { m with edges := m.edges.set (v.toNat % 2 ^ 18) { e with state := 0 } } } } := by
  unfold Dev.edgeInvalidate
  simp only [loaded, edge, direct, if_true]

section
variable (idle : d.crn.check = none)
include idle

/-- A push is counted, and leaves POP_EMPTY as it was (log entry 43). -/
theorem Dev.pqCmd_push {p : List Entry × Bool} (pushed : pqPush pqCap (d.rn CRN_PQ_KEY, d.rn CRN_PQ_VALUE) d.crn.pq = p) : ∃ g,
    d.pqCmd 1 = { d with crn := { d.crn with pq := p.1, pqOverflow := d.crn.pqOverflow || p.2 }, gau := g } := by
  subst pushed
  simp only [Dev.pqCmd, direct, idle]
  exact ⟨_, Dev.blkCount_gau ..⟩

theorem Dev.pqCmd_pop_cons {k x : Nat} {q : List Entry} (queue : d.crn.pq = (k, x) :: q) : d.pqCmd 2 =
    (({ d with crn := { d.crn with pq := q, pqPopEmpty := false } } : Dev).setNat CRN_PQ_KEY k).setNat CRN_PQ_VALUE x := by
  simp only [Dev.pqCmd, direct, idle, queue]
  rfl

theorem Dev.pqCmd_pop_nil (queue : d.crn.pq = []) : d.pqCmd 2 = { d with crn := { d.crn with pqPopEmpty := true } } := by
  simp only [Dev.pqCmd, direct, idle, queue]
  rfl

theorem Dev.pqCmd_clear : d.pqCmd 3 = { d with crn := { d.crn with pq := [], pqLost := false, pqOverflow := false, pqPopEmpty := false } } := by
  simp only [Dev.pqCmd, direct, idle]
  rfl

end

end

/-- What a write leads to is what its command answers. -/
theorem State.write_answers {s : State} {w : Writer} {off : Nat} {v : W32} {P : Dev → Prop} {d : Dev} (wrote : s.dev.fresh.writeReg w off v = d) (h : P d) :
    s.Answers (s.write w off v) P :=
  ans_run (wrote.symm ▸ h)

/-! ### The statement -/

/-- Settles O44: each command is a write that the expert level lets through, and does what its register's rule says. -/
theorem cairnDirectResults : Obligations.CairnDirectResults := by
  unfold Obligations.CairnDirectResults
  intro s w serves expert direct
  replace serves : s.dev.fresh.serves .crn = true := serves
  replace expert : s.dev.fresh.expertFor w = true := expert
  replace direct : s.dev.fresh.rbit CRN_DIRECT 0 = true := direct
  have pqCmd {v : W32} {d : Dev} (does : s.dev.fresh.pqCmd v = d) := (Dev.writeReg_pqCmd serves expert (v := v)).trans does
  refine ⟨fun v start => ?probe, fun idle => ⟨?push, fun k x q queue => ?pop, fun queue => ?popEmpty, ?clear⟩, fun v m e loaded edge => ?edge⟩
  case probe =>
    refine State.write_answers ((Dev.writeReg_probeCmd serves expert).trans (Dev.probeCmd_of_direct direct start)) ?_
    exact ⟨rfl, Dev.rbit_clearBits_same _ _ (by decide), fun k other => Dev.reg_setReg_ne _ _ other, Dev.setReg_regsOnly ..⟩
  case push =>
    obtain ⟨p, result⟩ : ∃ p, pqPush pqCap (s.dev.rn CRN_PQ_KEY, s.dev.rn CRN_PQ_VALUE) s.dev.crn.pq = p := ⟨_, rfl⟩
    obtain ⟨g, pushed⟩ := Dev.pqCmd_push direct idle result
    refine State.write_answers (pqCmd pushed) ⟨rfl, fun room => ?_, fun full => ?_, rfl⟩
    · obtain ⟨between, kept⟩ := pqPush_of_room (cap := pqCap) room
      rw [result] at between kept
      exact ⟨between, (congrArg _ kept).trans (Bool.or_false _)⟩
    · obtain ⟨length, lost⟩ := pqPush_of_full (cap := pqCap) full
      rw [result] at length lost
      exact ⟨length, (congrArg _ lost).trans (Bool.or_true _)⟩
  case pop =>
    refine State.write_answers (pqCmd (Dev.pqCmd_pop_cons direct idle queue)) ?_
    exact ⟨rfl, (Dev.reg_setReg_ne _ _ (by decide)).trans (Dev.reg_setReg _ _ _), Dev.reg_setReg _ _ _, Dev.setReg_setReg_regsOnly ..⟩
  case popEmpty => exact State.write_answers (pqCmd (Dev.pqCmd_pop_nil direct idle queue)) rfl
  case clear => exact State.write_answers (pqCmd (Dev.pqCmd_clear direct idle)) rfl
  case edge => exact State.write_answers ((Dev.writeReg_edgeInvalidate serves expert).trans (Dev.edgeInvalidate_of_direct direct loaded edge)) rfl

end Sys2Proof.Machine
end

section
/-! SUPPORT. What one TCLK tick leaves, and what it does to Plumb time (R385). -/
namespace Sys2Proof.Machine

/-- The dies' ACLK cycles are counted in the power block alone. -/
theorem Dev.aclkTick_eq (d : Dev) : ∃ p, d.aclkTick = { d with pwr := p } := by
  unfold Dev.aclkTick
  refine List.foldlRecOn (motive := fun e => ∃ p, e = { d with pwr := p }) _ _ ⟨d.pwr, rfl⟩ fun e he n _ => ?_
  obtain ⟨p, rfl⟩ := he
  exact ⟨_, rfl⟩

/-- A tick moves Plumb time of a Keystone out of reset, the power block's and the Quoins' counters, and the count of ticks: nothing else. -/
theorem Dev.tick_eq (d : Dev) :
    ∃ p q, d.tick = { d with plb := if d.keystoneUp then d.plumbTick.plb else d.plb, pwr := p, qn := q, ticks := d.ticks + 1 } := by
  have plumb : (if d.keystoneUp then d.plumbTick else d) = { d with plb := if d.keystoneUp then d.plumbTick.plb else d.plb } := by split <;> rfl
  obtain ⟨p, counted⟩ := Dev.aclkTick_eq { d with plb := if d.keystoneUp then d.plumbTick.plb else d.plb }
  unfold Dev.tick
  dsimp only
  rw [plumb, counted]
  split
  · exact ⟨p, _, rfl⟩
  · exact ⟨p, d.qn, rfl⟩

/-- Nanoseconds and their fractions, read back from the counter's two words. -/
theorem fx_of_words {t : Nat} (h : t < 2 ^ 96) : (BitVec.ofNat 64 (t / 2 ^ 32)).toNat * 2 ^ 32 + (BitVec.ofNat 32 t).toNat = t := by
  rw [BitVec.toNat_ofNat, BitVec.toNat_ofNat, Nat.mod_eq_of_lt (by omega : t / 2 ^ 32 < 2 ^ 64)]
  exact Nat.div_add_mod' t (2 ^ 32)

/-- R385: with nothing being slewed a tick adds the increment. -/
theorem Dev.plumbTick_nowFx {d : Dev} (slew : d.plb.slew = none) : d.plumbTick.nowFx = (d.nowFx + d.plb.incr) % 2 ^ 96 := by
  have still : d.slewStep = 0 := by rw [Dev.slewStep, slew]
  have add : ((d.plb.incr : Int) + d.slewStep).toNat = d.plb.incr := by rw [still, Int.add_zero, Int.toNat_natCast]
  have read : d.plumbTick.nowFx = (d.nowFx + ((d.plb.incr : Int) + d.slewStep).toNat) % 2 ^ 96 := fx_of_words (Nat.mod_lt _ (by decide))
  rw [read, add]

/-- Settles O2: with an empty queue the step is a tick, which moves Plumb time while the Keystone is up. -/
theorem idleStepIsOneTick : Obligations.IdleStepIsOneTick := by
  unfold Obligations.IdleStepIsOneTick
  intro s idle
  obtain ⟨p, q, ticked⟩ := s.dev.fresh.tick_eq
  refine ⟨tick s, by simp only [step, idle], idle, ?_⟩
  unfold tick
  rw [ticked]
  refine ⟨rfl, rfl, rfl, rfl, fun up slew => ?_, fun down => if_neg (ne_true_of_eq_false down)⟩
  have moved : (if s.dev.fresh.keystoneUp then s.dev.fresh.plumbTick.plb else s.dev.fresh.plb) = s.dev.fresh.plumbTick.plb := if_pos up
  rw [moved]
  exact Dev.plumbTick_nowFx (d := s.dev.fresh) slew

end Sys2Proof.Machine
end

section
/-! SUPPORT. What a confirmed write does to memory depends on memory alone: not on the registers of errors, the records that wait, or the Quoins
(R196–R199, R317, R325). -/
namespace Sys2Proof.Machine

/-- The devices store and serve alike: the same bytes, tags, shadow, poison and mirrors, stored under the same masks. -/
structure Dev.StoresAlike (d e : Dev) : Prop where
  mem : e.mem = d.mem
  tags : e.tags = d.tags
  shadow : e.shadow = d.shadow
  poison : e.poison = d.poison
  mirrors : e.mirrors = d.mirrors
  mask : ∀ a, e.mask a = d.mask a

namespace Dev.StoresAlike

variable {d e f : Dev}

theorem refl (d : Dev) : d.StoresAlike d := ⟨rfl, rfl, rfl, rfl, rfl, fun _ => rfl⟩
theorem trans (h : d.StoresAlike e) (k : e.StoresAlike f) : d.StoresAlike f :=
  ⟨k.mem.trans h.mem, k.tags.trans h.tags, k.shadow.trans h.shadow, k.poison.trans h.poison, k.mirrors.trans h.mirrors,
    fun a => (k.mask a).trans (h.mask a)⟩

theorem tag (h : d.StoresAlike e) (l : Nat) : e.tag l = d.tag l := by rw [Dev.tag, h.tags, Dev.tag]
theorem writtenTo (h : d.StoresAlike e) (a : Nat) : e.writtenTo a = d.writtenTo a := by simp only [Dev.writtenTo, Dev.mirrorAt, h.mirrors]

/-! ### The same bytes stored at both -/

theorem setCells : ∀ (bs : List Byte) {d e : Dev} (a : Nat), d.StoresAlike e → (d.setCells a bs).StoresAlike (e.setCells a bs)
  | [], _, _, _, h => h
  | b :: bs, d, e, a, h => by
    have cell : (d.setCell a b).StoresAlike (e.setCell a b) :=
      ⟨by simp only [Dev.setCell, h.mem, h.mask], h.tags, h.shadow, h.poison, h.mirrors, h.mask⟩
    exact setCells bs (a + 1) cell

theorem storeAt (h : d.StoresAlike e) (a : Nat) (bs : List Byte) : (d.storeAt a bs).StoresAlike (e.storeAt a bs) := by
  have stored := setCells bs a h
  unfold Dev.storeAt
  dsimp only
  split
  · exact ⟨stored.mem, stored.tags, stored.shadow, by simp only [stored.poison], stored.mirrors, stored.mask⟩
  · exact stored

theorem storeAll : ∀ (as : List Nat) {d e : Dev} (bs : List Byte), d.StoresAlike e → (d.storeAll as bs).StoresAlike (e.storeAll as bs)
  | [], _, _, _, h => h
  | a :: as, _, _, bs, h => storeAll as bs (h.storeAt a bs)

theorem patchShadow (h : d.StoresAlike e) (l off : Nat) (bs : List Byte) : (d.patchShadow l off bs).StoresAlike (e.patchShadow l off bs) := by
  have patched : FMap.set [] e.shadow l (patch (FMap.get [] e.shadow l) off bs) = FMap.set [] d.shadow l (patch (FMap.get [] d.shadow l) off bs) := by
    rw [h.shadow]
  unfold Dev.patchShadow
  dsimp only
  split
  · exact ⟨h.mem, h.tags, patched, by simp only [h.poison], h.mirrors, h.mask⟩
  · exact ⟨h.mem, h.tags, patched, h.poison, h.mirrors, h.mask⟩

theorem askSquash (h : d.StoresAlike e) (c r : Nat) : (d.askSquash c r).StoresAlike (e.askSquash c r) :=
  ⟨h.mem, h.tags, h.shadow, h.poison, h.mirrors, h.mask⟩

theorem wrLine (h : d.StoresAlike e) (a : Nat) (bs : List Byte) : (d.wrLine View.plain a bs).StoresAlike (e.wrLine View.plain a bs) := by
  unfold Dev.wrLine
  dsimp only
  rw [h.writtenTo, h.tag]
  cases d.tag ((d.writtenTo a).headD a / 64) with
  | none => exact storeAll _ bs h
  | opened c => exact (storeAll _ bs (h.patchShadow _ _ bs)).askSquash c 6
  | squashed _ => exact storeAll _ bs (h.patchShadow _ _ bs)

theorem foldl_wrLine : ∀ (ps : List (Nat × List Byte)) {d e : Dev}, d.StoresAlike e →
    (ps.foldl (fun d p => d.wrLine View.plain p.1 p.2) d).StoresAlike (ps.foldl (fun d p => d.wrLine View.plain p.1 p.2) e)
  | [], _, _, h => h
  | p :: ps, _, _, h => foldl_wrLine ps (h.wrLine p.1 p.2)

theorem wr (h : d.StoresAlike e) (a : Nat) (bs : List Byte) : (d.wr View.plain a bs).StoresAlike (e.wr View.plain a bs) := foldl_wrLine _ h

end Dev.StoresAlike

/-! ### Telling of a poisoned line (R317) -/

/-- No register of errors of a memory controller decides how DRAM addresses interleave. -/
theorem MRT_DRAM_CFG_ne_SMC_ERR_STATUS (m n i : Nat) : MRT_DRAM_CFG m ≠ SMC_ERR_STATUS n i := by
  unfold MRT_DRAM_CFG SMC_ERR_STATUS dieSlot
  omega

theorem Dev.mask_of_linear {d e : Dev} (lost : e.dramGen = d.dramGen) (linear : ∀ n, e.linear n = d.linear n) (a : Nat) : e.mask a = d.mask a := by
  unfold Dev.mask Dev.lossKey Dev.stackOf
  rw [lost, linear]

theorem Dev.orBits_storesAlike (d : Dev) {k : Nat} (m : Nat) (h : ∀ n, MRT_DRAM_CFG n ≠ k) : d.StoresAlike (d.orBits k m) := by
  have linear (n : Nat) : (d.orBits k m).linear n = d.linear n := by
    unfold Dev.linear Dev.rbit Dev.rn Dev.orBits
    rw [Dev.reg_setReg_ne _ _ (h n)]
  exact ⟨rfl, rfl, rfl, rfl, rfl, Dev.mask_of_linear (e := d.orBits k m) rfl linear⟩

theorem Dev.orBits_qn (d : Dev) (k m : Nat) : (d.orBits k m).qn = d.qn := rfl

theorem Dev.emit_storesAlike (d : Dev) (b : Block) (code sev a0 a1 : Nat) : d.StoresAlike (d.emit b code sev a0 a1) := by
  obtain ⟨_, _, told⟩ := d.emit_eq b code sev a0 a1
  rw [told]
  exact ⟨rfl, rfl, rfl, rfl, rfl, fun _ => rfl⟩

/-- A report of a poisoned line sets a bit of its controller and writes a record: it stores nothing, and the Quoins learn of nothing. -/
theorem Dev.tellPoison_storesAlike (d : Dev) (l : Nat) : d.StoresAlike (d.tellPoison l) := by
  unfold Dev.tellPoison
  extract_lets a s d1
  have flagged : d.StoresAlike d1 := by
    unfold d1
    split
    · exact d.orBits_storesAlike _ fun m => MRT_DRAM_CFG_ne_SMC_ERR_STATUS m _ _
    · exact .refl d
  split
  · exact flagged
  · have told : d1.StoresAlike { d1 with poisonTold := FMap.set false d1.poisonTold l true } := ⟨rfl, rfl, rfl, rfl, rfl, fun _ => rfl⟩
    exact (flagged.trans told).trans (Dev.emit_storesAlike _ _ _ _ _ _)

theorem Dev.emit_qn (d : Dev) (b : Block) (code sev a0 a1 : Nat) : (d.emit b code sev a0 a1).qn = d.qn := by
  obtain ⟨_, _, told⟩ := d.emit_eq b code sev a0 a1
  rw [told]

theorem Dev.tellPoison_qn (d : Dev) (l : Nat) : (d.tellPoison l).qn = d.qn := by
  unfold Dev.tellPoison
  extract_lets a s d1
  have flagged : d1.qn = d.qn := by
    unfold d1
    split
    · exact d.orBits_qn _ _
    · rfl
  split
  · exact flagged
  · exact (Dev.emit_qn _ _ _ _ _ _).trans flagged

end Sys2Proof.Machine
end

section
/-! SUPPORT. What the Quoins do to the streams (R412–R415, R422, R423): a message or a record changes no stream; a stream that has entered FALLBACK
stays in it with the reason it entered for, and a record that waits no more waits no more. -/
namespace Sys2Proof.Machine

/-! ### Messages and records -/

/-- Beside the two Quoins' own state, the loss charged, and the records that wait, the devices are the same. -/
structure Dev.Told (d e : Dev) : Prop where
  eq : e = { d with qn := { d.qn with a := e.qn.a, b := e.qn.b, loss := e.qn.loss }, jfe := { d.jfe with ev := e.jfe.ev, evSeq := e.jfe.evSeq } }

namespace Dev.Told

variable {d e : Dev}

theorem refl (d : Dev) : d.Told d := ⟨rfl⟩
theorem trans {f : Dev} (h : d.Told e) (k : e.Told f) : d.Told f := by
  obtain ⟨h⟩ := h
  obtain ⟨k⟩ := k
  constructor
  rw [k, h]
theorem foldl {β : Type} {f : Dev → β → Dev} (h : ∀ (d : Dev) b, d.Told (f d b)) : ∀ (l : List β) (d : Dev), d.Told (l.foldl f d)
  | [], d => refl d
  | b :: l, d => (h d b).trans (foldl h l (f d b))

theorem mem (h : d.Told e) : e.mem = d.mem := by rw [h.eq]
theorem out (h : d.Told e) : e.out = d.out := by rw [h.eq]

end Dev.Told

namespace Dev

theorem emit_told (d : Dev) (b : Block) (code sev a0 a1 : Nat) : d.Told (d.emit b code sev a0 a1) := by
  obtain ⟨_, _, h⟩ := d.emit_eq b code sev a0 a1
  rw [h]
  exact ⟨rfl⟩

theorem setQuoin_told (d : Dev) (q : Nat) (x : Quoin) : d.Told (d.setQuoin q x) := by
  unfold setQuoin
  split <;> exact ⟨rfl⟩

theorem charge_told (d : Dev) (k : Nat) : d.Told (d.charge k) := by
  unfold charge
  split <;> exact ⟨rfl⟩

theorem settleLoss_told (d : Dev) : d.Told d.settleLoss := by
  unfold settleLoss
  split <;> exact ⟨rfl⟩

theorem eachQuoin_told (d : Dev) {f : Dev → Nat → Dev} (h : ∀ (d : Dev) q, d.Told (f d q)) : d.Told (d.eachQuoin f) := by
  have one (b : Bool) (d : Dev) (q : Nat) : d.Told (if b then f d q else d) := by
    cases b with
    | true => exact h d q
    | false => exact .refl d
  exact (one _ d 0).trans (one _ _ 1)

theorem quoinEvent_told (d : Dev) (code sev a0 a1 : Nat) : d.Told (d.quoinEvent code sev a0 a1) := d.eachQuoin_told fun d _ => d.emit_told _ _ _ _ _

theorem canQueue_told (d : Dev) (q off stream : Nat) (last : Bool) (content : List Byte) : d.Told (d.canQueue q off stream last content) := by
  unfold canQueue
  dsimp only
  split
  · exact .refl d
  · exact d.setQuoin_told q _

theorem statusMsg_told (d : Dev) (q : Nat) : d.Told (d.statusMsg q) := d.canQueue_told _ _ _ _ _
theorem statusBoth_told (d : Dev) : d.Told d.statusBoth := d.eachQuoin_told fun d q => d.statusMsg_told q

theorem canFallback_told (d : Dev) (q n : Nat) (c : StreamCfg) : d.Told (d.canFallback q n c) := by
  unfold canFallback
  dsimp only
  split
  · exact d.canQueue_told _ _ _ _ _
  · exact (d.canQueue_told _ _ _ _ _).trans (.foldl (fun d _ => d.canQueue_told _ _ _ _ _) _ _)

theorem addReason_told (d : Dev) (q r decider : Nat) : d.Told (d.addReason q r decider) := by
  unfold addReason
  dsimp only
  split
  · exact .refl d
  · exact ((d.charge_told _).trans (setQuoin_told _ _ _)).trans (emit_told _ _ _ _ _ _)

/-- Frames put out on one port, one for each element of a list. -/
theorem foldl_put_eth (p : Nat) (frame : Dev → Nat → List Byte) : ∀ (l : List Nat) (d : Dev),
    ∃ fs : List (List Byte), l.foldl (fun d i => d.put (.eth p (frame d i))) d = { d with out := d.out ++ fs.map (Out.eth p) }
  | [], d => ⟨[], by rw [List.map_nil, List.append_nil]; rfl⟩
  | i :: l, d => by
    obtain ⟨fs, sent⟩ := foldl_put_eth p frame l (d.put (.eth p (frame d i)))
    exact ⟨frame d i :: fs, sent.trans (congrArg (fun o => { d with out := o }) (List.append_cons d.out _ _).symm)⟩

/-- A record leaves as Ethernet frames of the stream's port; a port whose link is down sends none (R376). -/
theorem sendRecord_eq (d : Dev) (n : Nat) (c : StreamCfg) (seq ns : Nat) (bs : List Byte) :
    ∃ fs : List (List Byte), d.sendRecord n c seq ns bs = { d with out := d.out ++ fs.map (Out.eth c.port) } ∧
      ((d.ethPort c.port).link = false → fs = []) := by
  unfold sendRecord
  dsimp only
  by_cases up : (d.ethPort c.port).link = true
  · obtain ⟨fs, sent⟩ := foldl_put_eth c.port (fun d i => recordFrame (d.macOf c.port) c n i ((bs.length + 1471) / 1472 - 1) seq ns
      ((bs.drop (1472 * i)).take 1472)) (List.range ((bs.length + 1471) / 1472)) d
    refine ⟨fs, ?_, fun down => absurd (down.symm.trans up) (by decide)⟩
    rw [show (FMap.get EthPort.reset d.eth c.port).link = true from up]
    exact sent
  · have down : (d.ethPort c.port).link = false := by simpa using up
    refine ⟨[], ?_, fun _ => rfl⟩
    rw [show (FMap.get EthPort.reset d.eth c.port).link = false from down, List.map_nil, List.append_nil]
    rfl

end Dev

/-! ### Streams -/

/-- The devices hold the same stream table and the same streams. -/
structure Dev.SameStreams (d e : Dev) : Prop where
  table : e.qn.table = d.qn.table
  streams : e.qn.streams = d.qn.streams

namespace Dev.SameStreams

variable {d e : Dev}

theorem trans {f : Dev} (h : d.SameStreams e) (k : e.SameStreams f) : d.SameStreams f := ⟨k.table.trans h.table, k.streams.trans h.streams⟩
theorem of_qn (h : e.qn = d.qn) : d.SameStreams e := ⟨by rw [h], by rw [h]⟩
theorem stream (h : d.SameStreams e) (n : Nat) : e.stream n = d.stream n := by rw [Dev.stream, h.streams, Dev.stream]

end Dev.SameStreams

theorem Dev.Told.sameStreams {d e : Dev} (h : d.Told e) : d.SameStreams e := ⟨by rw [h.eq], by rw [h.eq]⟩
theorem Dev.MemOnly.sameStreams {d e : Dev} (h : d.MemOnly e) : d.SameStreams e := .of_qn (by rw [h.eq])
theorem Dev.streamCfg_of_table {d e : Dev} (h : e.qn.table = d.qn.table) (n : Nat) : e.streamCfg n = d.streamCfg n := by
  unfold Dev.streamCfg
  rw [h]

theorem Dev.stream_modStream (d : Dev) (n : Nat) (f : StreamSt → StreamSt) : (d.modStream n f).stream n = f (d.stream n) := FMap.get_set_self _ _ _ _
theorem Dev.stream_modStream_ne (d : Dev) {n m : Nat} (f : StreamSt → StreamSt) (h : m ≠ n) : (d.modStream n f).stream m = d.stream m :=
  FMap.get_set_ne _ _ _ h

/-- No record of the stream begins to wait, and a FALLBACK lasts with the reason and record it was entered for (R412). -/
structure StreamSt.Kept (x y : StreamSt) : Prop where
  check : x.check = none → y.check = none
  fallback : x.fallback = true → y.fallback = true ∧ y.reason = x.reason ∧ y.failedSeq = x.failedSeq

theorem StreamSt.Kept.refl (x : StreamSt) : x.Kept x := ⟨id, fun h => ⟨h, rfl, rfl⟩⟩
theorem StreamSt.Kept.trans {x y z : StreamSt} (h : x.Kept y) (k : y.Kept z) : x.Kept z where
  check c := k.check (h.check c)
  fallback entered := by
    obtain ⟨still, reason, seq⟩ := h.fallback entered
    obtain ⟨after, reason', seq'⟩ := k.fallback still
    exact ⟨after, reason'.trans reason, seq'.trans seq⟩

/-- The same of every stream of the table, which stays. -/
structure Dev.StreamsKept (d e : Dev) : Prop where
  table : e.qn.table = d.qn.table
  stream : ∀ n, (d.stream n).Kept (e.stream n)

theorem Dev.StreamsKept.refl (d : Dev) : d.StreamsKept d := ⟨rfl, fun _ => .refl _⟩
theorem Dev.StreamsKept.trans {d e f : Dev} (h : d.StreamsKept e) (k : e.StreamsKept f) : d.StreamsKept f :=
  ⟨k.table.trans h.table, fun n => (h.stream n).trans (k.stream n)⟩

theorem Dev.SameStreams.kept {d e : Dev} (h : d.SameStreams e) : d.StreamsKept e where
  table := h.table
  stream n := by
    rw [h.stream]
    exact .refl _

theorem Dev.Told.kept {d e : Dev} (h : d.Told e) : d.StreamsKept e := h.sameStreams.kept

namespace Dev

theorem modStream_kept {d : Dev} {n : Nat} {f : StreamSt → StreamSt} (h : (d.stream n).Kept (f (d.stream n))) : d.StreamsKept (d.modStream n f) where
  table := rfl
  stream m := by
    by_cases same : m = n
    · rw [same, stream_modStream]
      exact h
    · rw [stream_modStream_ne d f same]
      exact .refl _

/-! ### FALLBACK and safe state -/

theorem sendFallback_sameStreams (d : Dev) (n : Nat) (c : StreamCfg) : d.SameStreams (d.sendFallback n c).1 := by
  unfold sendFallback
  dsimp only
  have can (a0 a1 : Nat → Nat) : d.SameStreams (d.eachQuoin fun d q => (d.canFallback q n c).emit (.qn q) 0x0B06 3 (a0 q) (a1 q)) :=
    (d.eachQuoin_told fun d q => (d.canFallback_told q n c).trans (emit_told _ _ _ _ _ _)).sameStreams
  have sent (e : Dev) (seq ns : Nat) (bs : List Byte) : e.SameStreams (e.sendRecord n c seq ns bs) := by
    obtain ⟨fs, h, -⟩ := e.sendRecord_eq n c seq ns bs
    exact .of_qn (by rw [h])
  split
  · exact (can _ _).trans (sent _ _ _ _)
  · exact can _ _

variable {d : Dev} {n reason seq : Nat} {c : StreamCfg}

/-- R412: a SAFETY stream that is not in FALLBACK enters it. -/
theorem enterFallback_stream (cfg : d.streamCfg n = some c) (safety : c.safety = true) (before : (d.stream n).fallback = false) :
    ((d.enterFallback n reason seq).1).stream n = { d.stream n with fallback := true, reason := reason, failedSeq := seq } := by
  have may : ¬ (!c.safety || (d.stream n).fallback) = true := by rw [safety, before]; decide
  unfold enterFallback
  rw [cfg]
  dsimp only
  rw [if_neg may, (sendFallback_sameStreams _ n c).stream, stream_modStream]

theorem enterFallback_kept (d : Dev) (n reason seq : Nat) : d.StreamsKept (d.enterFallback n reason seq).1 := by
  unfold enterFallback
  split
  · split
    · exact .refl d
    · next c _ may =>
      have before : (d.stream n).fallback = false := by
        cases h : (d.stream n).fallback with
        | false => rfl
        | true => exact absurd (by rw [h, Bool.or_true]) may
      have entered : (d.stream n).Kept { d.stream n with fallback := true, reason := reason, failedSeq := seq } :=
        ⟨id, fun h => absurd (before.symm.trans h) (by decide)⟩
      exact (modStream_kept entered).trans (sendFallback_sameStreams _ n c).kept
  · exact .refl d

theorem safeStreams_kept (d : Dev) : d.StreamsKept d.safeStreams.1 := by
  unfold safeStreams
  refine List.foldlRecOn (motive := fun (r : Dev × Bool) => d.StreamsKept r.1) _ _ (.refl d) fun r hr p _ => hr.trans ?_
  dsimp only
  split
  · exact .refl _
  · refine .trans ?_ (enterFallback_kept _ _ _ _)
    split
    · have ended := modStream_kept (d := r.1.putValidity p.2.record 2 0x0D) (n := p.1)
        (f := fun s => { s with dead := s.opened.isSome, check := none, lastReason := 0x0D }) ⟨fun _ => rfl, fun h => ⟨h, rfl, rfl⟩⟩
      exact ((wr_memOnly _ _ _ _).sameStreams.kept.trans ended).trans (quoinEvent_told _ _ _ _ _).kept
    · exact .refl _

theorem decideSafe_kept (d : Dev) (q reason : Nat) : d.StreamsKept (d.decideSafe q reason) := by
  unfold decideSafe
  dsimp only
  have streams : d.StreamsKept (d.addReason q reason q).safeStreams.1 := (d.addReason_told q reason q).kept.trans (safeStreams_kept _)
  split
  · exact .refl d
  · refine .trans ?_ (statusMsg_told _ q).kept
    split
    · exact streams.trans (addReason_told _ _ _ _).kept
    · exact streams

theorem decideBoth_kept (d : Dev) (reason : Nat) : d.StreamsKept (d.decideBoth reason) := (d.decideSafe_kept 0 reason).trans (decideSafe_kept _ 1 reason)

variable {storage : Bool}

/-- R412: FALLBACK is for SAFETY streams, and is entered once. -/
theorem fallback_of_barred (cfg : d.streamCfg n = some c) (h : c.safety = false ∨ (d.stream n).fallback = true) : d.fallback n reason seq storage = d := by
  have barred : (!c.safety || (d.stream n).fallback) = true := by
    rcases h with h | h
    · rw [h]; rfl
    · rw [h, Bool.or_true]
  unfold fallback
  rw [cfg]
  exact if_pos barred

/-- A SAFETY stream that enters FALLBACK stays there, whatever safe state its message brings about (R422). -/
theorem fallback_entered (cfg : d.streamCfg n = some c) (safety : c.safety = true) (before : (d.stream n).fallback = false) :
    StreamSt.Kept { d.stream n with fallback := true, reason := reason, failedSeq := seq } ((d.fallback n reason seq storage).stream n) := by
  have may : ¬ (!c.safety || (d.stream n).fallback) = true := by rw [safety, before]; decide
  have charged := (d.charge_told (lossOf reason storage)).sameStreams
  have entered := enterFallback_stream (d := d.charge (lossOf reason storage)) (reason := reason) (seq := seq)
    ((streamCfg_of_table charged.table n).trans cfg) safety (by rw [charged.stream, before])
  rw [charged.stream] at entered
  unfold fallback
  rw [cfg]
  dsimp only
  rw [if_neg may, ← entered]
  have told := (statusBoth_told ((d.charge (lossOf reason storage)).enterFallback n reason seq).1).kept
  split
  · exact (told.trans (decideBoth_kept _ _)).stream n
  · exact told.stream n

end Dev

end Sys2Proof.Machine
end

section
/-! SUPPORT. How an output record becomes INVALID (R19, R409, R412): the reason of highest rank, the validity word, and FALLBACK. -/
namespace Sys2Proof.Machine

/-! ### A key written twice -/

theorem FMap.insert_insert {α : Type} (k : Nat) (v w : α) : ∀ m : FMap α, FMap.insert (FMap.insert m k v) k w = FMap.insert m k w
  | [] => by simp only [FMap.insert, if_true]
  | (i, x) :: m => by
    rcases Nat.lt_trichotomy k i with below | same | above
    · simp only [FMap.insert, if_neg (Nat.ne_of_gt below), if_pos below, if_true]
    · simp only [FMap.insert, if_pos same.symm, if_true]
    · simp only [FMap.insert, if_neg (Nat.ne_of_lt above), if_neg (Nat.lt_asymm above), FMap.insert_insert k v w m]

theorem FMap.erase_insert {α : Type} (k : Nat) (v : α) : ∀ m : FMap α, FMap.erase (FMap.insert m k v) k = FMap.erase m k
  | [] => by simp only [FMap.insert, FMap.erase, if_true]
  | (i, x) :: m => by
    rcases Nat.lt_trichotomy k i with below | same | above
    · simp only [FMap.insert, FMap.erase, if_neg (Nat.ne_of_gt below), if_pos below, if_true]
    · simp only [FMap.insert, FMap.erase, if_pos same.symm, if_true]
    · simp only [FMap.insert, FMap.erase, if_neg (Nat.ne_of_lt above), if_neg (Nat.lt_asymm above), FMap.erase_insert k v m]

/-- The last write of a key counts. The first must have listed the key: unlisting it could move it, in a map of no canonical form. -/
theorem FMap.set_set_of_ne {α : Type} [DecidableEq α] {d v : α} (h : v ≠ d) (m : FMap α) (k : Nat) (w : α) :
    FMap.set d (FMap.set d m k v) k w = FMap.set d m k w := by
  unfold FMap.set
  rw [if_neg h, FMap.insert_insert, FMap.erase_insert]

/-! ### The reason of highest rank (R19, R409) -/

/-- A list of reasons whose first one none of them outranks. -/
def LeadsByRank (rs : List Nat) : Prop := ∀ r more, rs = r :: more → ∀ t ∈ rs, reasonRank r ≤ reasonRank t

/-- The reasons sorted so far, with one more put before the first that it outranks. -/
def insertReason (acc : List Nat) (r : Nat) : List Nat :=
  acc.takeWhile (fun x => decide (reasonRank x < reasonRank r)) ++ [r] ++ acc.dropWhile (fun x => decide (reasonRank x < reasonRank r))

theorem mem_insertReason {acc : List Nat} {r t : Nat} : t ∈ insertReason acc r ↔ t = r ∨ t ∈ acc := by
  have cut : t ∈ acc ↔ t ∈ acc.takeWhile (fun x => decide (reasonRank x < reasonRank r)) ∨
      t ∈ acc.dropWhile (fun x => decide (reasonRank x < reasonRank r)) := by
    rw [← List.mem_append, List.takeWhile_append_dropWhile]
  rw [cut]
  simp only [insertReason, List.mem_append, List.mem_singleton]
  tauto

theorem leadsByRank_insertReason {acc : List Nat} (h : LeadsByRank acc) (r : Nat) : LeadsByRank (insertReason acc r) := by
  intro lead more eq t ht
  rcases acc with _ | ⟨x, acc⟩
  · obtain ⟨rfl, rfl⟩ : r = lead ∧ [] = more := by simpa [insertReason] using eq
    rcases mem_insertReason.mp ht with rfl | none
    · exact Nat.le_refl _
    · exact absurd none List.not_mem_nil
  · have least : ∀ t ∈ x :: acc, reasonRank x ≤ reasonRank t := h x acc rfl
    by_cases before : reasonRank x < reasonRank r
    · obtain rfl : x = lead := by
        simp only [insertReason, List.takeWhile_cons, before, decide_true, if_true, List.cons_append, List.cons.injEq] at eq
        exact eq.1
      rcases mem_insertReason.mp ht with rfl | old
      · exact Nat.le_of_lt before
      · exact least t old
    · obtain rfl : r = lead := by
        simp only [insertReason, List.takeWhile_cons, before, decide_false, Bool.false_eq_true, if_false, List.nil_append, List.singleton_append,
          List.cons.injEq] at eq
        exact eq.1
      rcases mem_insertReason.mp ht with rfl | old
      · exact Nat.le_refl _
      · exact Nat.le_trans (Nat.le_of_not_lt before) (least t old)

theorem foldl_insertReason : ∀ (rs acc : List Nat), LeadsByRank acc →
    (∀ t, t ∈ rs.foldl (fun acc r => if acc.contains r then acc else insertReason acc r) acc ↔ t ∈ acc ∨ t ∈ rs) ∧
    LeadsByRank (rs.foldl (fun acc r => if acc.contains r then acc else insertReason acc r) acc)
  | [], acc, h => ⟨fun t => by simp, h⟩
  | r :: rs, acc, h => by
    rw [List.foldl_cons]
    by_cases known : r ∈ acc
    · rw [if_pos (List.contains_iff_mem.mpr known)]
      obtain ⟨mem, leads⟩ := foldl_insertReason rs acc h
      refine ⟨fun t => ?_, leads⟩
      rw [mem, List.mem_cons, ← or_assoc, or_iff_left_of_imp (b := t = r) (by rintro rfl; exact known)]
    · rw [if_neg (mt List.contains_iff_mem.mp known)]
      obtain ⟨mem, leads⟩ := foldl_insertReason rs _ (leadsByRank_insertReason h r)
      refine ⟨fun t => ?_, leads⟩
      rw [mem, mem_insertReason, List.mem_cons, or_comm (a := t = r), or_assoc]

/-- Sorting keeps the reasons, and puts one of highest rank first. -/
theorem sortReasons_spec (rs : List Nat) : (∀ t, t ∈ sortReasons rs ↔ t ∈ rs) ∧ LeadsByRank (sortReasons rs) := by
  obtain ⟨mem, leads⟩ := foldl_insertReason rs [] nofun
  exact ⟨fun t => (mem t).trans (or_iff_right List.not_mem_nil), leads⟩

theorem sortReasons_cons {rs : List Nat} (h : rs ≠ []) :
    ∃ r more, sortReasons rs = r :: more ∧ r ∈ rs ∧ ∀ t ∈ rs, reasonRank r ≤ reasonRank t := by
  obtain ⟨mem, leads⟩ := sortReasons_spec rs
  obtain ⟨t, ht⟩ := List.exists_mem_of_ne_nil rs h
  rcases sorted : sortReasons rs with _ | ⟨r, more⟩
  · exact absurd ((mem t).mpr ht) (by rw [sorted]; exact List.not_mem_nil)
  · exact ⟨r, more, rfl, (mem r).mp (by rw [sorted]; exact List.mem_cons_self), fun t ht => leads r more sorted t ((mem t).mpr ht)⟩

/-! ### A record that becomes INVALID (R409, R412) -/

/-- The stream's record is INVALID with the reason: it waits no more, a SAFETY stream is in FALLBACK, and any other keeps the reason, which the
validity word in memory carries too. -/
def Dev.RecordInvalid (d x : Dev) (n : Nat) (c : StreamCfg) (r : Nat) : Prop :=
  (x.stream n).check = none ∧ (c.safety = true → (x.stream n).fallback = true) ∧
  (c.safety = false → (x.stream n).lastReason = r ∧ x.mem = (d.putValidity c.record 2 r).mem ∧ (x.stream n).fallback = (d.stream n).fallback)

section
variable {d e : Dev} {n : Nat} {c : StreamCfg}

theorem Dev.failRecord_invalid {rs : List Nat} (alike : d.StoresAlike e) (same : (e.stream n).fallback = (d.stream n).fallback)
    (cfg : e.streamCfg n = some c) (some : rs ≠ []) (seq : Nat) (storage : Bool) :
    ∃ r ∈ rs, (∀ t ∈ rs, reasonRank r ≤ reasonRank t) ∧ d.RecordInvalid (e.failRecord n rs seq storage) n c r := by
  obtain ⟨r, more, sorted, mem, least⟩ := sortReasons_cons some
  refine ⟨r, mem, least, ?_⟩
  obtain ⟨f, marked⟩ : ∃ f, f = (e.putValidity c.record 2 r).modStream n (fun s => { s with check := none, lastReason := r }) := ⟨_, rfl⟩
  have written := e.wr_memOnly View.plain c.record (validity 2 r 0)
  have stream : f.stream n = { e.stream n with check := none, lastReason := r } := by
    rw [marked, stream_modStream]
    exact congrArg (fun s : StreamSt => { s with check := none, lastReason := r }) (written.sameStreams.stream n)
  obtain ⟨g, told, reported⟩ : ∃ g, f.Told g ∧ g = (r :: more).foldl (fun d x => d.quoinEvent 0x0B05 2 (n + 256 * x) seq) f :=
    ⟨_, .foldl (fun d _ => d.quoinEvent_told _ _ _ _) _ f, rfl⟩
  have failed : e.failRecord n rs seq storage = g.fallback n r seq storage := by
    unfold failRecord
    rw [cfg, sorted, reported, marked]
  have gstream : g.stream n = { e.stream n with check := none, lastReason := r } := (told.sameStreams.stream n).trans stream
  have gcfg : g.streamCfg n = .some c := by
    have table : f.qn.table = e.qn.table := by rw [marked]; exact written.sameStreams.table
    rw [streamCfg_of_table (told.sameStreams.table.trans table), cfg]
  have gmem : g.mem = (d.putValidity c.record 2 r).mem := by
    rw [told.mem, marked]
    exact (alike.wr c.record (validity 2 r 0)).mem
  rw [failed]
  by_cases barred : c.safety = false ∨ (g.stream n).fallback = true
  · rw [fallback_of_barred gcfg barred]
    refine ⟨by rw [gstream], fun safety => ?_, fun _ => ⟨by rw [gstream], gmem, by rw [gstream]; exact same⟩⟩
    exact barred.resolve_left (by rw [safety]; decide)
  · obtain ⟨safety, before⟩ : c.safety = true ∧ (g.stream n).fallback = false := by simpa using barred
    have entered := fallback_entered (reason := r) (seq := seq) (storage := storage) gcfg safety before
    exact ⟨entered.check (by rw [gstream]), fun _ => (entered.fallback rfl).1, fun h => absurd (h.symm.trans safety) (by decide)⟩

/-- With one reason there is no choice. -/
theorem Dev.failRecord_one {r : Nat} (alike : d.StoresAlike e) (same : (e.stream n).fallback = (d.stream n).fallback)
    (cfg : e.streamCfg n = some c) (seq : Nat) (storage : Bool) : d.RecordInvalid (e.failRecord n [r] seq storage) n c r := by
  obtain ⟨t, ht, -, invalid⟩ := Dev.failRecord_invalid alike same cfg (List.cons_ne_nil r []) seq storage
  rwa [List.mem_singleton.mp ht] at invalid

end

end Sys2Proof.Machine
end

section
/-! SUPPORT. RECORD_CLOSE and RECORD_RELEASE (R376, R407–R412): what a Quoin's check of a record, and its release, leave. -/
namespace Sys2Proof.Machine

section
variable {d : Dev} {n : Nat} {c : StreamCfg} {k : RecordCheck}

/-! ### RECORD_CLOSE (R407–R410) -/

/-- The stream with the age of its record noted. -/
def Dev.aged (d : Dev) (n : Nat) (k : RecordCheck) : Dev := d.modStream n (fun s => { s with lastAge := d.recordAge k })
/-- A poisoned line of the record is told of. -/
def Dev.recordTold (d : Dev) (c : StreamCfg) : Dev := match d.poisonedIn View.plain c.record c.size with
  | some l => d.tellPoison l
  | none => d
/-- The record's check with the pass of each Quoin that runs. -/
def Dev.passed (d : Dev) (k : RecordCheck) : RecordCheck :=
  { k with verdictA := if d.qn.a.live then some 0 else none, verdictB := if d.qn.b.live then some 0 else none }

/-- How the check ends by what it found against the record. -/
def Dev.recordJudged (d : Dev) (n : Nat) (k : RecordCheck) : List Nat → Dev
  | [] => d.modStream n (fun s => { s with check := some (d.passed k) })
  | r :: rs => d.failRecord n (r :: rs) k.seq false

theorem Dev.recordJudged_of_ne {rs : List Nat} (h : rs ≠ []) : d.recordJudged n k rs = d.failRecord n rs k.seq false := by
  cases rs with
  | nil => exact absurd rfl h
  | cons r rs => rfl

theorem Dev.aged_storesAlike (d : Dev) (n : Nat) (k : RecordCheck) : d.StoresAlike (d.aged n k) := ⟨rfl, rfl, rfl, rfl, rfl, fun _ => rfl⟩
theorem Dev.aged_stream (d : Dev) (n : Nat) (k : RecordCheck) : (d.aged n k).stream n = { d.stream n with lastAge := d.recordAge k } := d.stream_modStream n _

theorem Dev.recordTold_storesAlike (d : Dev) (c : StreamCfg) : d.StoresAlike (d.recordTold c) := by
  unfold recordTold
  split
  · exact d.tellPoison_storesAlike _
  · exact .refl d

theorem Dev.recordTold_qn (d : Dev) (c : StreamCfg) : (d.recordTold c).qn = d.qn := by
  unfold recordTold
  split
  · exact d.tellPoison_qn _
  · rfl

/-- A record with a poisoned line has a fault. -/
theorem Dev.recordTold_of_sound (sound : d.recordFaults c k = []) : d.recordTold c = d := by
  have clean : d.poisonedIn View.plain c.record c.size = none := by
    cases h : d.poisonedIn View.plain c.record c.size with
    | none => rfl
    | some l => simp [recordFaults, h] at sound
  rw [recordTold, clean]

section
variable (cfg : d.streamCfg n = some c) (check : (d.stream n).check = some k) (a : k.verdictA = none) (b : k.verdictB = none)
  (live : d.qn.a.live = true ∨ d.qn.b.live = true)
include cfg check a b live

theorem Dev.recordCloseFx_eq : d.recordCloseFx n = if k.valid then ((d.aged n k).recordTold c).recordJudged n k (d.recordFaults c k)
    else (d.aged n k).failRecord n [k.reason] k.seq false := by
  have checks : ¬ (k.verdictA.isSome || k.verdictB.isSome || (!d.qn.a.live && !d.qn.b.live)) = true := by
    rw [a, b]
    rcases live with h | h <;> simp [h]
  have quoins : ((d.aged n k).recordTold c).passed k = d.passed k := by
    unfold passed
    rw [recordTold_qn]
    rfl
  unfold recordCloseFx
  dsimp only
  rw [cfg, check]
  dsimp only
  rw [if_neg checks]
  by_cases valid : k.valid = true
  · rw [if_pos valid, if_neg (by rw [valid]; decide)]
    split
    · next sound =>
      rw [show d.recordFaults c k = [] from sound, recordJudged, quoins]
      rfl
    · next faulty =>
      rw [recordJudged_of_ne (rs := d.recordFaults c k) faulty]
      rfl
  · rw [if_neg valid, if_pos (by simpa using valid)]
    rfl

theorem Dev.recordCloseFx_invalid (valid : k.valid = false) : d.RecordInvalid (d.recordCloseFx n) n c k.reason := by
  rw [recordCloseFx_eq cfg check a b live, valid]
  exact failRecord_one (d.aged_storesAlike n k) (by rw [aged_stream]) cfg _ _

theorem Dev.recordCloseFx_faulty (valid : k.valid = true) (faulty : d.recordFaults c k ≠ []) :
    ∃ r ∈ d.recordFaults c k, (∀ t ∈ d.recordFaults c k, reasonRank r ≤ reasonRank t) ∧ d.RecordInvalid (d.recordCloseFx n) n c r := by
  have told := SameStreams.of_qn ((d.aged n k).recordTold_qn c)
  rw [recordCloseFx_eq cfg check a b live, if_pos valid, recordJudged_of_ne faulty]
  exact failRecord_invalid ((d.aged_storesAlike n k).trans ((d.aged n k).recordTold_storesAlike c)) (by rw [told.stream, aged_stream])
    ((streamCfg_of_table told.table n).trans cfg) faulty _ _

theorem Dev.recordCloseFx_passes (valid : k.valid = true) (sound : d.recordFaults c k = []) :
    d.recordCloseFx n = d.setStream n { d.stream n with lastAge := d.recordAge k, check := some (d.passed k) } := by
  have listed : ({ d.stream n with lastAge := d.recordAge k } : StreamSt) ≠ StreamSt.reset := fun h => by
    have waits : (d.stream n).check = none := congrArg StreamSt.check h
    exact absurd (check.symm.trans waits) nofun
  rw [recordCloseFx_eq cfg check a b live, if_pos valid, sound, recordTold_of_sound (d := d.aged n k) sound]
  show (d.aged n k).setStream n { (d.aged n k).stream n with check := some (d.passed k) } = _
  rw [aged_stream]
  unfold aged modStream setStream
  dsimp only
  rw [FMap.set_set_of_ne listed]

end

/-! ### RECORD_RELEASE (R411, R376) -/

/-- What a released record puts out, and what its sending leaves. -/
theorem Dev.transmit_spec (d : Dev) (n : Nat) (c : StreamCfg) (seq : Nat) : d.SameStreams (d.transmit n c seq) ∧ (d.transmit n c seq).mem = d.mem ∧
    ∃ fs : List (List Byte), (d.transmit n c seq).out = d.out ++ fs.map (Out.eth c.port) ∧ ((d.ethPort c.port).link = false → fs = []) := by
  have nothing : d.out = d.out ++ ([] : List (List Byte)).map (Out.eth c.port) := by rw [List.map_nil, List.append_nil]
  unfold transmit
  split
  · next l _ =>
    obtain ⟨out, mem⟩ := d.tellPoison_out_mem l
    exact ⟨.of_qn (d.tellPoison_qn l), mem, [], out.trans nothing, fun _ => rfl⟩
  · dsimp only
    split
    · obtain ⟨fs, sent, down⟩ := d.sendRecord_eq n c seq d.now (d.rd View.plain c.record c.size)
      rw [sent]
      exact ⟨.of_qn rfl, rfl, fs, rfl, down⟩
    · exact ⟨.of_qn rfl, rfl, [], nothing, fun _ => rfl⟩

/-- The record VALID in memory, with its time of release (R411). -/
def Dev.stamped (d : Dev) (c : StreamCfg) : Dev := (d.putValidity c.record 1 0).wr View.plain (c.record + 0x18) (leBytes 8 d.now)
/-- A stream whose record has been released is out of FALLBACK (R412). -/
def StreamSt.released (x : StreamSt) (k : RecordCheck) (tick : Nat) : StreamSt :=
  { x with check := none, lastSeq := k.seq, lastValid := some tick, fallback := false }
/-- The same in memory and of the stream, with nothing sent yet. -/
def Dev.releasedRecord (d : Dev) (n : Nat) (c : StreamCfg) (k : RecordCheck) : Dev := (d.stamped c).modStream n (·.released k d.ticks)

theorem Dev.stamped_memOnly (d : Dev) (c : StreamCfg) : d.MemOnly (d.stamped c) := (wr_memOnly _ _ _ _).trans (wr_memOnly _ _ _ _)

theorem Dev.releasedRecord_stream (d : Dev) (n : Nat) (c : StreamCfg) (k : RecordCheck) :
    (d.releasedRecord n c k).stream n = (d.stream n).released k d.ticks ∧ ∀ m, m ≠ n → (d.releasedRecord n c k).stream m = d.stream m := by
  have same := (d.stamped_memOnly c).sameStreams
  refine ⟨?_, fun m other => ?_⟩
  · rw [releasedRecord, stream_modStream, same.stream]
  · rw [releasedRecord, stream_modStream_ne _ _ other, same.stream]

theorem Dev.releasedRecord_out_eth (d : Dev) (n : Nat) (c : StreamCfg) (k : RecordCheck) :
    (d.releasedRecord n c k).out = d.out ∧ (d.releasedRecord n c k).eth = d.eth := by
  have out : (d.stamped c).out = d.out := by rw [(d.stamped_memOnly c).eq]
  have eth : (d.stamped c).eth = d.eth := by rw [(d.stamped_memOnly c).eq]
  exact ⟨out, eth⟩

/-- The record sent, where its stream has a port (R376). -/
def Dev.sentRecord (d : Dev) (n : Nat) (c : StreamCfg) (k : RecordCheck) : Dev :=
  if c.tx then (d.releasedRecord n c k).transmit n c k.seq else d.releasedRecord n c k

theorem Dev.sentRecord_spec (d : Dev) (n : Nat) (c : StreamCfg) (k : RecordCheck) :
    (d.releasedRecord n c k).SameStreams (d.sentRecord n c k) ∧ (d.sentRecord n c k).mem = (d.stamped c).mem ∧
    ∃ fs : List (List Byte), (d.sentRecord n c k).out = d.out ++ fs.map (Out.eth c.port) ∧
      (c.tx = false ∨ (d.ethPort c.port).link = false → fs = []) := by
  obtain ⟨before, eth⟩ := d.releasedRecord_out_eth n c k
  unfold sentRecord
  split
  · next tx =>
    obtain ⟨same, mem, fs, out, down⟩ := (d.releasedRecord n c k).transmit_spec n c k.seq
    rw [before] at out
    rw [ethPort, eth] at down
    exact ⟨same, mem, fs, out, fun h => down (h.resolve_left (by rw [tx]; decide))⟩
  · exact ⟨.of_qn rfl, rfl, [], by rw [before, List.map_nil, List.append_nil], fun _ => rfl⟩

/-- Leaving FALLBACK is told of in STATUS messages, which change neither memory nor a stream. -/
theorem Dev.recordReleaseFx_told (cfg : d.streamCfg n = some c) (check : (d.stream n).check = some k) (a : k.verdictA = some 0) (b : k.verdictB = some 0) :
    (d.sentRecord n c k).Told (d.recordReleaseFx n) := by
  have ended : d.recordReleaseFx n = if (d.stream n).fallback then (d.sentRecord n c k).statusBoth.settleLoss else d.sentRecord n c k := by
    unfold recordReleaseFx
    rw [cfg, check]
    dsimp only
    rw [if_neg (by rw [a, b]; decide)]
    rfl
  rw [ended]
  split
  · exact (d.sentRecord n c k).statusBoth_told.trans (settleLoss_told _)
  · exact .refl _

theorem Dev.recordReleaseFx_spec (cfg : d.streamCfg n = some c) (check : (d.stream n).check = some k) (a : k.verdictA = some 0) (b : k.verdictB = some 0) :
    (d.recordReleaseFx n).stream n = (d.stream n).released k d.ticks ∧ (∀ m, m ≠ n → (d.recordReleaseFx n).stream m = d.stream m) ∧
    (d.recordReleaseFx n).mem = (d.stamped c).mem ∧
    ∃ fs : List (List Byte), (d.recordReleaseFx n).out = d.out ++ fs.map (Out.eth c.port) ∧
      (c.tx = false ∨ (d.ethPort c.port).link = false → fs = []) := by
  obtain ⟨same, mem, fs, out, silent⟩ := d.sentRecord_spec n c k
  obtain ⟨here, others⟩ := d.releasedRecord_stream n c k
  have told := recordReleaseFx_told cfg check a b
  have streams := same.trans told.sameStreams
  exact ⟨(streams.stream n).trans here, fun m other => (streams.stream m).trans (others m other), told.mem.trans mem, fs, told.out.trans out, silent⟩

end

end Sys2Proof.Machine
end

section
/-! SUPPORT. VERDICT_TIMEOUT, RELEASE_GAP and the Quoins' CAN FD controllers (R411, R412, R414, R425, R428). -/
namespace Sys2Proof.Machine

section
variable {d : Dev} {n : Nat} {c : StreamCfg} {k : RecordCheck}

/-! ### VERDICT_TIMEOUT and RELEASE_GAP (R411, R412) -/

theorem Dev.verdictTimeoutFx_invalid (cfg : d.streamCfg n = some c) (check : (d.stream n).check = some k) (open_ : k.verdictA = none ∨ k.verdictB = none)
    (late : k.since + ticksUs 100 ≤ d.ticks) : d.RecordInvalid (d.verdictTimeoutFx n) n c 0x0D := by
  have due : ¬ ((k.verdictA.isSome ∧ k.verdictB.isSome) ∨ d.ticks < k.since + ticksUs 100) := by
    rintro (⟨a, b⟩ | early)
    · rcases open_ with h | h
      · exact absurd a (by rw [h]; decide)
      · exact absurd b (by rw [h]; decide)
    · exact Nat.not_lt.mpr late early
  unfold verdictTimeoutFx
  rw [check]
  dsimp only
  rw [if_neg due]
  exact failRecord_one (.refl d) rfl cfg _ _

theorem Dev.releaseGapFx_of_late {t : Nat} (cfg : d.streamCfg n = some c) (last : (d.stream n).lastValid = some t)
    (late : t + ticksUs (10 * c.relLimit) ≤ d.ticks)
    (exit : d.qn.exitTick = none ∨ ∃ e, d.qn.exitTick = some e ∧ e + ticksUs (10 * c.relLimit) ≤ d.ticks) :
    d.releaseGapFx n = d.fallback n 0x82 0xFFFFFFFF false := by
  unfold releaseGapFx
  dsimp only
  rw [cfg, last]
  rcases exit with none | ⟨e, some, after⟩
  · rw [none]
    exact if_pos (decide_eq_true late)
  · rw [some]
    exact if_pos (decide_eq_true (by omega))

end

/-! ### The Quoins' CAN FD controllers (R414, R425, R428) -/

theorem Dev.quoin_setQuoin (d : Dev) (q : Nat) (x : Quoin) : (d.setQuoin q x).quoin q = x := by
  unfold setQuoin quoin
  by_cases h : q = 0
  · rw [if_pos h, if_pos h]
  · rw [if_neg h, if_neg h]

theorem Dev.quoin_setQuoin_other {q : Nat} (h : q < 2) (d : Dev) (x : Quoin) : (d.setQuoin q x).quoin (1 - q) = d.quoin (1 - q) := by
  obtain rfl | rfl : q = 0 ∨ q = 1 := by omega
  · rfl
  · rfl

theorem Dev.setQuoin_setQuoin (d : Dev) (q : Nat) (x y : Quoin) : (d.setQuoin q x).setQuoin q y = d.setQuoin q y := by
  unfold setQuoin
  by_cases h : q = 0
  · simp only [if_pos h]
  · simp only [if_neg h]

theorem Dev.setQuoin_qn (d : Dev) (q : Nat) (x : Quoin) : d.setQuoin q x = { d with qn := (d.setQuoin q x).qn } := by
  unfold setQuoin
  split <;> rfl

/-- A STATUS goes between the messages that stood before it and those that stay behind it (R425). -/
theorem canInsert_status (queue : List CanMsg) {m : CanMsg} (h : m.off = 0) : ∃ pre post, queue = pre ++ post ∧ canInsert queue m = pre ++ [m] ++ post := by
  unfold canInsert
  rw [if_pos h]
  extract_lets k
  refine ⟨queue.take k ++ (queue.drop k).takeWhile (fun x => x.off == 0), (queue.drop k).dropWhile (fun x => x.off == 0), ?_, rfl⟩
  rw [List.append_assoc, List.takeWhile_append_dropWhile, List.take_append_drop]

section
variable {d : Dev} {q ctl : Nat}

theorem Dev.canSentFx_cons {m : CanMsg} {rest : List CanMsg} (quiet : d.out = []) (live : (d.quoin q).live = true)
    (on : bitOf (d.quoin q).busOff ctl = false) (queue : (if ctl = 0 then (d.quoin q).canA else (d.quoin q).canB) = m :: rest) :
    d.canSentFx q ctl = { d.setQuoin q (if ctl = 0 then { d.quoin q with canA := rest } else { d.quoin q with canB := rest }) with
      out := [.can q ctl (d.canBase q + m.off) m.bytes] } := by
  unfold canSentFx
  dsimp only
  rw [queue]
  dsimp only
  rw [if_neg (by rw [live, on]; decide), put, (d.setQuoin_told q _).out, quiet]
  rfl

/-- A message of a Quoin that runs counts, and waits at each controller that is not in bus-off. -/
theorem Dev.canQueue_of_live (live : (d.quoin q).live = true) (off stream : Nat) (last : Bool) (content : List Byte) :
    ∃ (m : CanMsg) (lost : Nat), m.off = off ∧ d.canQueue q off stream last content = d.setQuoin q { d.quoin q with
      counters := FMap.set 0 (d.quoin q).counters off ((FMap.get 0 (d.quoin q).counters off + 1) % 256),
      canA := if bitOf (d.quoin q).busOff 0 then (d.quoin q).canA else canInsert (d.quoin q).canA m,
      canB := if bitOf (d.quoin q).busOff 1 then (d.quoin q).canB else canInsert (d.quoin q).canB m,
      canLost := min 255 ((d.quoin q).canLost + lost) } := by
  unfold canQueue
  dsimp only
  rw [if_neg (by rw [live]; decide)]
  exact ⟨_, _, rfl, rfl⟩

theorem Dev.statusMsg_of_live (live : (d.quoin q).live = true) : ∃ x : Quoin, d.statusMsg q = d.setQuoin q x ∧ x.statusTick = (d.quoin q).statusTick ∧
    FMap.get 0 x.counters 0 = (FMap.get 0 (d.quoin q).counters 0 + 1) % 256 ∧
    (bitOf (d.quoin q).busOff 0 = false → ∃ m pre post, (d.quoin q).canA = pre ++ post ∧ x.canA = pre ++ [m] ++ post ∧ m.off = 0) := by
  obtain ⟨m, lost, status, queued⟩ := canQueue_of_live live 0 0 true _
  refine ⟨_, queued, rfl, FMap.get_set_self _ _ _ _, fun on => ?_⟩
  obtain ⟨pre, post, before, after⟩ := canInsert_status (d.quoin q).canA status
  exact ⟨m, pre, post, before, (if_neg (by rw [on]; decide)).trans after, status⟩

/-- R414: a period's STATUS starts the next period. -/
theorem Dev.statusPeriodFx_of_due (live : (d.quoin q).live = true)
    (due : (d.quoin q).statusTick + ticksMs (10 * max 1 (d.rf (QN_CAN_CFG q) 15 8)) ≤ d.ticks) :
    ∃ x : Quoin, d.statusPeriodFx q = d.setQuoin q x ∧ x.statusTick = d.ticks ∧
      FMap.get 0 x.counters 0 = (FMap.get 0 (d.quoin q).counters 0 + 1) % 256 ∧
      (bitOf (d.quoin q).busOff 0 = false → ∃ m pre post, (d.quoin q).canA = pre ++ post ∧ x.canA = pre ++ [m] ++ post ∧ m.off = 0) := by
  obtain ⟨y, timed⟩ : ∃ y : Quoin, y = { d.quoin q with statusTick := d.ticks } := ⟨_, rfl⟩
  obtain ⟨x, told, tick, counted, queued⟩ := statusMsg_of_live (d := d.setQuoin q y) (q := q) (by rw [quoin_setQuoin, timed]; exact live)
  rw [quoin_setQuoin] at tick counted queued
  have waits : ¬ (!(d.quoin q).live || decide (d.ticks < (d.quoin q).statusTick + ticksMs (10 * max 1 (d.rf (QN_CAN_CFG q) 15 8)))) = true := by
    rw [live, decide_eq_false (Nat.not_lt.mpr due)]
    decide
  subst timed
  refine ⟨x, ?_, tick, counted, queued⟩
  unfold statusPeriodFx
  dsimp only
  rw [if_neg waits, told, setQuoin_setQuoin]

theorem Dev.busOffFx_enter (live : (d.quoin q).live = true) (c : ctl < 2) (on : bitOf (d.quoin q).busOff ctl = false) :
    ∃ x : Quoin, d.busOffFx q ctl true = d.setQuoin q x ∧ x.busOff = (d.quoin q).busOff + 2 ^ ctl ∧
      (ctl = 0 → x.canA = [] ∧ x.canB = (d.quoin q).canB ∧ x.canLost = min 255 ((d.quoin q).canLost + (d.quoin q).canA.length)) ∧
      (ctl = 1 → x.canB = [] ∧ x.canA = (d.quoin q).canA ∧ x.canLost = min 255 ((d.quoin q).canLost + (d.quoin q).canB.length)) := by
  have enters : ¬ ((!(d.quoin q).live) = true ∨ 2 ≤ ctl ∨ bitOf (d.quoin q).busOff ctl = true) := by
    rw [live, on]
    simp [c]
  unfold busOffFx
  dsimp only
  rw [if_neg enters]
  obtain rfl | rfl : ctl = 0 ∨ ctl = 1 := by omega
  · exact ⟨_, rfl, rfl, fun _ => ⟨rfl, rfl, rfl⟩, nofun⟩
  · exact ⟨_, rfl, rfl, nofun, fun _ => ⟨rfl, rfl, rfl⟩⟩

theorem Dev.busOffFx_leave (live : (d.quoin q).live = true) (c : ctl < 2) (off : bitOf (d.quoin q).busOff ctl = true) :
    d.busOffFx q ctl false = d.setQuoin q { d.quoin q with busOff := (d.quoin q).busOff - 2 ^ ctl } := by
  have leaves : ¬ ((!(d.quoin q).live) = true ∨ 2 ≤ ctl ∨ bitOf (d.quoin q).busOff ctl = false) := by
    rw [live, off]
    simp [c]
  unfold busOffFx
  dsimp only
  rw [if_neg leaves]
  rfl

end

/-! ### The statement -/

theorem recordClose_answers {s : State} {n : Nat} {P : Dev → Prop} (h : P (s.dev.fresh.recordCloseFx n)) : s.AnswersSettled (exec (.recordClose n) s) P :=
  ans_set (g := fun d => d.recordCloseFx n) h

theorem canBusOff_answers {s : State} {q ctl : Nat} {enter : Bool} {P : Dev → Prop} (quoin : q < 2) (h : P (s.dev.fresh.busOffFx q ctl enter)) :
    s.AnswersSettled (exec (.canBusOff q ctl enter) s) P :=
  ans_setIf (g := fun d => d.busOffFx q ctl enter) (decide_eq_true quoin) h

/-- Settles O49: a record passes, becomes INVALID or is released by what stands against it, and the controllers work through their queues. -/
theorem recordResults : Obligations.RecordResults := by
  unfold Obligations.RecordResults
  intro s
  refine ⟨fun n c k cfg check => ⟨fun a b live => ⟨fun valid sound => ?passes, fun invalid => ?invalid, fun valid faulty => ?faulty⟩,
      fun a b => ?released, fun waits late => ?timeout⟩, fun n c t cfg safety before last late exit => ?gap, fun q c m rest quoin ctl driven live on queue => ?sent,
    fun q quoin live due => ?status, fun q c quoin ctl live => ⟨fun on => ?enter, fun off => ?leave⟩⟩
  case passes => exact recordClose_answers (Dev.recordCloseFx_passes (d := s.dev.fresh) cfg check a b live valid sound)
  case invalid => exact recordClose_answers (Dev.recordCloseFx_invalid (d := s.dev.fresh) cfg check a b live invalid)
  case faulty => exact recordClose_answers (Dev.recordCloseFx_faulty (d := s.dev.fresh) cfg check a b live valid faulty)
  case timeout => exact ans_set (g := fun d => d.verdictTimeoutFx n) (Dev.verdictTimeoutFx_invalid (d := s.dev.fresh) cfg check waits late)
  case released =>
    refine ans_set (g := fun d => d.recordReleaseFx n) ?_
    obtain ⟨here, others, mem, fs, out, silent⟩ := Dev.recordReleaseFx_spec (d := s.dev.fresh) cfg check a b
    replace out : (s.dev.fresh.recordReleaseFx n).out = fs.map (Out.eth c.port) := out
    refine ⟨here, others, mem, fun quiet => ?_, fun o ho => ?_⟩
    · rw [out, silent quiet, List.map_nil]
    · rw [out] at ho
      obtain ⟨bs, -, frame⟩ := List.mem_map.mp ho
      exact ⟨bs, frame.symm⟩
  case gap =>
    have entered := Dev.fallback_entered (d := s.dev.fresh) (reason := 0x82) (seq := 0xFFFFFFFF) (storage := false) cfg safety before
    refine ans_set (g := fun d => d.releaseGapFx n) ?_
    rw [Dev.releaseGapFx_of_late (d := s.dev.fresh) cfg last late exit]
    exact entered.fallback rfl
  case sent =>
    refine ans_runIf (g := fun d => if d.canDriven q then d else d.canSentFx q c) (decide_eq_true quoin) ?_
    rw [if_neg (by rw [show s.dev.fresh.canDriven q = false from driven]; decide), Dev.canSentFx_cons (d := s.dev.fresh) rfl live on queue]
    exact ⟨rfl, rfl⟩
  case status =>
    refine ans_runIf (g := fun d => d.statusPeriodFx q) (decide_eq_true quoin) ?_
    obtain ⟨x, told, tick, counted, queued⟩ := Dev.statusPeriodFx_of_due (d := s.dev.fresh) live due
    rw [told, Dev.quoin_setQuoin]
    exact ⟨tick, counted, queued, Dev.quoin_setQuoin_other quoin _ x, Dev.setQuoin_qn _ _ _⟩
  case enter =>
    refine canBusOff_answers quoin ?_
    obtain ⟨x, entered, off, first, second⟩ := Dev.busOffFx_enter (d := s.dev.fresh) live ctl on
    rw [entered, Dev.quoin_setQuoin]
    exact ⟨off, first, second⟩
  case leave => exact canBusOff_answers quoin (Dev.busOffFx_leave (d := s.dev.fresh) live ctl off)

end Sys2Proof.Machine
end

section
/-! SUPPORT. The online test (R519, R520, R529): what its three commands and the end of a test leave. -/
namespace Sys2Proof.Machine

/-- Beside the cores and the engines, the devices are the same. -/
structure Dev.UnitsOnly (d e : Dev) : Prop where
  eq : e = { d with cores := e.cores, engs := e.engs }

namespace Dev.UnitsOnly

variable {d e : Dev}

theorem refl (d : Dev) : d.UnitsOnly d := ⟨rfl⟩
theorem trans {f : Dev} (h : d.UnitsOnly e) (k : e.UnitsOnly f) : d.UnitsOnly f := by
  obtain ⟨h⟩ := h
  obtain ⟨k⟩ := k
  constructor
  rw [k, h]
theorem foldl {β : Type} {f : Dev → β → Dev} (h : ∀ (d : Dev) b, d.UnitsOnly (f d b)) (l : List β) (d : Dev) : d.UnitsOnly (l.foldl f d) :=
  List.foldlRecOn (motive := fun e => d.UnitsOnly e) l f (refl d) fun e before b _ => before.trans (h e b)
theorem dbg (h : d.UnitsOnly e) : e.dbg = d.dbg := by rw [h.eq]

end Dev.UnitsOnly

namespace Dev

variable {d e : Dev} {u q : Nat} {x : OtUnit} {w : Writer}

/-! ### The state of a unit -/

theorem ot_of_dbg (h : e.dbg = d.dbg) (u : Nat) : e.ot u = d.ot u := by rw [ot, h, ot]

/-- What has the test units of `d` with one set shows that one as set and the others as before. -/
theorem ot_of_setOt (h : e.dbg = (d.setOt u x).dbg) : e.ot u = x ∧ ∀ v, v ≠ u → e.ot v = d.ot v :=
  ⟨(ot_of_dbg h u).trans (FMap.get_set_self _ _ _ _), fun v other => (ot_of_dbg h v).trans (FMap.get_set_ne _ _ _ other)⟩

/-! ### What leaves the test units as they are -/

theorem foldl_dbg {β : Type} {f : Dev → β → Dev} (h : ∀ d b, (f d b).dbg = d.dbg) (l : List β) (d : Dev) : (l.foldl f d).dbg = d.dbg :=
  List.foldlRecOn (motive := fun e => e.dbg = d.dbg) l f rfl fun e before b _ => (h e b).trans before

theorem Told.dbg (h : d.Told e) : e.dbg = d.dbg := by rw [h.eq]
theorem emit_dbg (d : Dev) (b : Block) (code sev a0 a1 : Nat) : (d.emit b code sev a0 a1).dbg = d.dbg := (d.emit_told b code sev a0 a1).dbg

theorem markTest_unitsOnly (d : Dev) (p : Nat) (on : Bool) : d.UnitsOnly (d.markTest p on) := by
  unfold markTest
  split
  · exact .foldl (fun _ _ => ⟨rfl⟩) _ d
  · split
    · exact ⟨rfl⟩
    · exact .refl d

theorem otMark_unitsOnly (d : Dev) (u : Nat) (on : Bool) : d.UnitsOnly (d.otMark u on) := by
  unfold otMark
  split
  · exact iteInduction (motive := d.UnitsOnly) (fun _ => d.markTest_unitsOnly _ on) fun _ => .refl d
  · exact .refl d

theorem domainUp_dbg (d : Dev) (k : Nat) : (d.domainUp k).dbg = d.dbg := by
  have marked (e : Dev) (p : Nat) : (if e.wrapped (placeUnit p) then e.markTest p true else e).dbg = e.dbg := by
    split
    · exact (e.markTest_unitsOnly p true).dbg
    · rfl
  unfold domainUp
  dsimp only
  split
  · rfl
  · split
    · rfl
    · refine (foldl_dbg marked _ _).trans ?_
      split
      · exact foldl_dbg (f := fun d g => d.setCore g { Core.off with st := .idle }) (fun _ _ => rfl) _ (d.setDomain k true)
      · rfl

theorem startLinkTest_dbg (d : Dev) (n p : Nat) : (d.startLinkTest n p).dbg = d.dbg := by
  unfold startLinkTest
  dsimp only
  split <;> rfl

/-! ### The commands (R519, R520, R529) -/

theorem writeReg_otCmd (serves : d.serves .key = true) (expert : d.expertFor w = true) (v : W32) : d.writeReg w KEY_OT_CMD v = d.otCmd v.toNat := by
  have through := writeReg_reg (w := w) (v := v) (b := .key) (o := 0x804) rfl serves (fun host => nomatch host.1) (by decide)
    (show findReg keyRegs 0x804 = some ⟨0x804, 0x4, 1, .exp, 0x0, 0x3⟩ from rfl)
  exact through.trans (regAccess_through (.inr (.inr (.inr ⟨rfl, expert⟩))))

section
variable (serves : d.serves .key = true) (expert : d.expertFor w = true)
include serves expert

theorem writeReg_isolate : d.writeReg w KEY_OT_CMD 1 = d.isolateFx := writeReg_otCmd serves expert 1
theorem writeReg_test : d.writeReg w KEY_OT_CMD 2 = d.testFx := writeReg_otCmd serves expert 2
theorem writeReg_release : d.writeReg w KEY_OT_CMD 3 = d.releaseFx := writeReg_otCmd serves expert 3

end

theorem isolateFx_of_allowed (idle : (d.ot d.otSel).st ≠ .underTest) (allowed : d.otAllowed d.otSel = true) :
    d.isolateFx = ((d.setOt d.otSel { st := .isolated, released := false, result := 0, detail := 0 }).otMark d.otSel true).emit .key 0x0F01 1 d.otSel 1 := by
  unfold isolateFx
  dsimp only
  rw [if_neg idle, if_neg (by rw [allowed]; decide)]

theorem isolateFx_of_barred (idle : (d.ot d.otSel).st ≠ .underTest) (barred : d.otAllowed d.otSel = false) :
    d.isolateFx = d.setOt d.otSel { d.ot d.otSel with result := 3 } := by
  unfold isolateFx
  dsimp only
  rw [if_neg idle, if_pos (by rw [barred]; decide)]

/-- A unit that is isolated closes, and a record says so. -/
theorem isolated_spec (d : Dev) (u a0 a1 : Nat) (x : OtUnit) {e : Dev} (h : e = ((d.setOt u x).otMark u true).emit .key 0x0F01 1 a0 a1) :
    e.ot u = x ∧ (∀ v, v ≠ u → e.ot v = d.ot v) ∧
      e = { d with dbg := { d.dbg with ot := e.dbg.ot }, cores := e.cores, engs := e.engs, jfe := e.jfe } := by
  have closed := (d.setOt u x).otMark_unitsOnly u true
  obtain ⟨unit, others⟩ := ot_of_setOt (e := e) (by rw [h]; exact (emit_dbg _ _ _ _ _ _).trans closed.dbg)
  obtain ⟨_, _, told⟩ := ((d.setOt u x).otMark u true).emit_eq .key 0x0F01 1 a0 a1
  refine ⟨unit, others, ?_⟩
  rw [h, told, closed.eq]
  rfl

theorem testFx_dbg (isolated : (d.ot d.otSel).st = .isolated) :
    d.testFx.dbg = (d.setOt d.otSel { d.ot d.otSel with st := .underTest, released := false }).dbg := by
  unfold testFx
  extract_lets u
  rw [show (d.ot u).st = .isolated from isolated]
  exact iteInduction (motive := fun e : Dev => e.dbg = (d.setOt u _).dbg) (fun _ => domainUp_dbg _ _) fun _ => (otMark_unitsOnly _ _ _).dbg

theorem testFx_of_inService (inService : (d.ot d.otSel).st = .inService) : d.testFx = d.setOt d.otSel { d.ot d.otSel with result := 3 } := by
  unfold testFx
  dsimp only
  rw [inService]

/-- Is a unit fenced, so that its release opens it to tests alone (log entry 88)? -/
def otShut (d : Dev) (u : Nat) : Bool :=
  match unitKind u with
  | 1 => d.clusterFenced (unitDie u) (unitNum u)
  | 2 => d.engFenced (unitDie u) (unitNum u)
  | 3 => d.linkShut (unitDie u) (unitNum u)
  | _ => d.layerOut (2 * unitDie u + unitNum u / 8) (unitNum u % 8)

theorem otShut_cluster (cluster : unitKind u = 1) : d.otShut u = d.clusterFenced (unitDie u) (unitNum u) := by
  unfold otShut
  rw [cluster]
  rfl

theorem releaseFx_dbg (isolated : (d.ot d.otSel).st = .isolated) (closed : (d.ot d.otSel).released = false) :
    d.releaseFx.dbg = (d.setOt d.otSel { d.ot d.otSel with st := if d.otShut d.otSel then .isolated else .inService, released := d.otShut d.otSel }).dbg := by
  have may : ¬ ((d.ot d.otSel).st ≠ .isolated ∨ (d.ot d.otSel).released = true) := by rw [isolated, closed]; decide
  unfold releaseFx
  extract_lets u shut x d1
  have opened : d1.dbg = (d.setOt u { d.ot u with st := if shut then .isolated else .inService, released := shut }).dbg := (otMark_unitsOnly _ _ _).dbg
  rw [if_neg may]
  refine Eq.trans ?_ opened
  split
  · exact emit_dbg _ _ _ _ _ _
  · split
    · exact startLinkTest_dbg _ _ _
    · rfl

theorem releaseFx_spec (isolated : (d.ot d.otSel).st = .isolated) (closed : (d.ot d.otSel).released = false) :
    (d.releaseFx.ot d.otSel).result = (d.ot d.otSel).result ∧
    (unitKind d.otSel = 1 → if d.clusterFenced (unitDie d.otSel) (unitNum d.otSel) = true
      then d.releaseFx.ot d.otSel = { d.ot d.otSel with st := .isolated, released := true }
      else d.releaseFx.ot d.otSel = { d.ot d.otSel with st := .inService, released := false }) ∧
    ∀ v, v ≠ d.otSel → d.releaseFx.ot v = d.ot v := by
  obtain ⟨unit, others⟩ := ot_of_setOt (releaseFx_dbg isolated closed)
  refine ⟨by rw [unit], fun cluster => ?_, others⟩
  rw [otShut_cluster cluster] at unit
  cases fenced : d.clusterFenced (unitDie d.otSel) (unitNum d.otSel) <;> (rw [fenced] at unit; exact unit)

/-! ### A failing unit is fenced (R418, R520) -/

theorem canQueue_fences (d : Dev) (q off stream : Nat) (last : Bool) (content : List Byte) :
    ((d.canQueue q off stream last content).quoin q).fences = (d.quoin q).fences := by
  unfold canQueue
  dsimp only
  split
  · rfl
  · rw [quoin_setQuoin]

theorem canQueue_quoin_other (h : q < 2) (d : Dev) (off stream : Nat) (last : Bool) (content : List Byte) :
    (d.canQueue q off stream last content).quoin (1 - q) = d.quoin (1 - q) := by
  unfold canQueue
  dsimp only
  split
  · rfl
  · exact quoin_setQuoin_other h _ _

theorem quoin_of_qn (h : e.qn = d.qn) (q : Nat) : e.quoin q = d.quoin q := by rw [quoin, h, quoin]
theorem setFence_qn (d : Dev) (u : Nat) : (d.setFence u).qn = d.qn := by
  unfold setFence
  split <;> rfl
theorem setFence_dbg (d : Dev) (u : Nat) : (d.setFence u).dbg = d.dbg := by
  unfold setFence
  split <;> rfl

/-- A Quoin that runs holds the fence it has declared. -/
theorem declareFence_holds (live : (d.quoin q).live = true) (u cause : Nat) : FMap.get false ((d.declareFence q u cause).quoin q).fences u = true := by
  unfold declareFence
  dsimp only
  split
  · next before => simpa [live] using before
  · rw [statusMsg, canQueue_fences, quoin_of_qn (setFence_qn _ _), quoin_of_qn (emit_qn _ _ _ _ _ _), quoin_setQuoin]
    exact FMap.get_set_self false _ u true

theorem declareFence_quoin_other (h : q < 2) (d : Dev) (u cause : Nat) : (d.declareFence q u cause).quoin (1 - q) = d.quoin (1 - q) := by
  unfold declareFence
  dsimp only
  split
  · rfl
  · rw [statusMsg, canQueue_quoin_other h, quoin_of_qn (setFence_qn _ _), quoin_of_qn (emit_qn _ _ _ _ _ _), quoin_setQuoin_other h]

theorem declareFence_dbg (d : Dev) (q u cause : Nat) : (d.declareFence q u cause).dbg = d.dbg := by
  unfold declareFence
  dsimp only
  split
  · rfl
  · rw [(statusMsg_told _ q).dbg, setFence_dbg, emit_dbg, (setQuoin_told _ q _).dbg]

/-- A fence that both declare stands at the first when that one runs. -/
theorem declareBoth_holds (live : d.qn.a.live = true) (u cause : Nat) : FMap.get false (d.declareBoth u cause).qn.a.fences u = true := by
  have kept : (d.declareBoth u cause).qn.a = (d.declareFence 0 u cause).qn.a := declareFence_quoin_other (q := 1) (by decide) _ u cause
  rw [kept]
  exact declareFence_holds (q := 0) live u cause

theorem declareBoth_dbg (d : Dev) (u cause : Nat) : (d.declareBoth u cause).dbg = d.dbg := (declareFence_dbg _ 1 u cause).trans (declareFence_dbg d 0 u cause)

/-! ### The end of a test (R520) -/

section
variable {n k j : Nat} (tested : (d.ot (unitNo n k j)).st = .underTest) (det : Nat)
include tested

/-- A unit that passed is isolated again, with a record. -/
theorem otDoneFx_pass : d.otDoneFx n k j true det =
    (d.setOt (unitNo n k j) { d.ot (unitNo n k j) with st := .isolated, result := 1, detail := 0 }).emit .key 0x0F02 0 (unitNo n k j) 1 := by
  unfold otDoneFx
  dsimp only
  rw [if_neg (by rw [tested]; decide)]
  rfl

/-- A unit that failed is isolated again, with a record, and fenced. -/
theorem otDoneFx_fail : d.otDoneFx n k j false det =
    ((d.setOt (unitNo n k j) { d.ot (unitNo n k j) with st := .isolated, result := 2, detail := det % 65536 }).emit
      .key 0x0F02 2 (unitNo n k j) (2 + 65536 * (det % 65536))).declareBoth (unitNo n k j) 2 := by
  unfold otDoneFx
  dsimp only
  rw [if_neg (by rw [tested]; decide)]
  rfl

theorem otDoneFx_pass_spec {e : Dev} (done : e = d.otDoneFx n k j true det) :
    e.ot (unitNo n k j) = { d.ot (unitNo n k j) with st := .isolated, result := 1, detail := 0 } ∧ e.fences = d.fences ∧
      e = { d with dbg := { d.dbg with ot := e.dbg.ot }, jfe := e.jfe } := by
  rw [otDoneFx_pass tested] at done
  obtain ⟨unit, -⟩ := ot_of_setOt (e := e) (by rw [done]; exact emit_dbg _ _ _ _ _ _)
  obtain ⟨_, _, told⟩ := emit_eq (d.setOt (unitNo n k j) { d.ot (unitNo n k j) with st := .isolated, result := 1, detail := 0 }) .key 0x0F02 0 (unitNo n k j) 1
  rw [← done] at told
  refine ⟨unit, ?_, ?_⟩ <;> rw [told] <;> rfl

theorem otDoneFx_fail_spec : (d.otDoneFx n k j false det).ot (unitNo n k j) = { d.ot (unitNo n k j) with st := .isolated, result := 2, detail := det % 65536 } ∧
    (d.qn.a.live = true → FMap.get false (d.otDoneFx n k j false det).qn.a.fences (unitNo n k j) = true) := by
  rw [otDoneFx_fail tested]
  refine ⟨(ot_of_setOt ((declareBoth_dbg _ _ _).trans (emit_dbg _ _ _ _ _ _))).1, fun live => declareBoth_holds ?_ _ _⟩
  rw [emit_qn]
  exact live

end

end Dev
end Sys2Proof.Machine
end

section
/-! SUPPORT. Gauge (R521–R527): the counters' mode, the dump ring, snapshots and the central reader. -/
namespace Sys2Proof.Machine

/-! ### Counters that are read draw free values alone (log entry 60) -/

/-- Beside the free values drawn, the devices are the same. -/
structure Dev.DrawsOnly (d e : Dev) : Prop where
  eq : e = { d with freeCtr := e.freeCtr }

namespace Dev.DrawsOnly

variable {d e : Dev}

theorem refl (d : Dev) : d.DrawsOnly d := ⟨rfl⟩
theorem trans {f : Dev} (h : d.DrawsOnly e) (k : e.DrawsOnly f) : d.DrawsOnly f := by
  obtain ⟨h⟩ := h
  obtain ⟨k⟩ := k
  constructor
  rw [k, h]
theorem foldl {α β : Type} {f : α × Dev → β → α × Dev} (h : ∀ (a : α × Dev) b, a.2.DrawsOnly (f a b).2) (l : List β) (x : α) (d : Dev) :
    d.DrawsOnly (l.foldl f (x, d)).2 :=
  List.foldlRecOn (motive := fun r => d.DrawsOnly r.2) l f (refl d) fun r before b _ => before.trans (h r b)
theorem gau (h : d.DrawsOnly e) : e.gau = d.gau := by rw [h.eq]
theorem regs (h : d.DrawsOnly e) : e.regs = d.regs := by rw [h.eq]
theorem out (h : d.DrawsOnly e) : e.out = d.out := by rw [h.eq]

end Dev.DrawsOnly

namespace Dev

variable {d e : Dev} {w : Writer} {v : W32} {periodic : Bool}

theorem blkCounter_drawsOnly (d : Dev) (b : Block) (i : Nat) : d.DrawsOnly (d.blkCounter b i).2 := by
  unfold blkCounter
  dsimp only
  split
  · exact .refl d
  · split
    · exact ⟨rfl⟩
    · exact .refl d

theorem blkCounter_of_exact {b : Block} {i : Nat} (on : d.rbit GAU_CFG 0 = true) (exact : blkTimed b (FMap.get 0 d.gau.blkEvt (16 * b.id + i)) = false) :
    d.blkCounter b i = (FMap.get 0 d.gau.blk (16 * b.id + i), d) := by
  unfold blkCounter
  dsimp only
  rw [if_neg (by rw [on]; decide), if_neg (by rw [exact]; decide)]

theorem coreCounter_drawsOnly (d : Dev) (g j : Nat) : d.DrawsOnly (d.coreCounter g j).2 := by
  unfold coreCounter
  dsimp only
  split
  · exact .refl d
  · split
    · exact .refl d
    · split
      · exact ⟨rfl⟩
      · exact .refl d

theorem blkRecord_drawsOnly (d : Dev) (b : Block) : d.DrawsOnly (d.blkRecord b).2 := by
  unfold blkRecord
  dsimp only
  refine .foldl (fun acc i => ?_) _ _ d
  exact acc.2.blkCounter_drawsOnly b i

theorem coreRecord_drawsOnly (d : Dev) (g : Nat) : d.DrawsOnly (d.coreRecord g).2 := by
  unfold coreRecord
  refine .foldl (fun acc j => ?_) _ _ d
  dsimp only
  split
  · exact acc.2.coreCounter_drawsOnly g j
  · exact .refl acc.2

/-! ### What a write outside the registers leaves -/

theorem locWr_gau_regs (d : Dev) (loc : Bool) (a : Nat) (bs : List Byte) : (d.locWr loc a bs).gau = d.gau ∧ (d.locWr loc a bs).regs = d.regs := by
  unfold locWr
  split
  · exact ⟨rfl, rfl⟩
  · split
    · rw [(d.wr_memOnly View.plain a bs).eq]
      exact ⟨rfl, rfl⟩
    · exact ⟨rfl, rfl⟩

theorem limited_emit_eq (d : Dev) (key gap : Nat) (b : Block) (code sev : Nat) (a0 a1 : Nat → Nat) :
    ∃ r j, d.limited key gap (fun k d => d.emit b code sev (a0 k) (a1 k)) = { d with rate := r, jfe := j } := by
  have told (r : FMap (Option (Nat × Nat))) (k : Nat) : ∃ j, Dev.emit { d with rate := r } b code sev (a0 k) (a1 k) = { d with rate := r, jfe := j } := by
    obtain ⟨_, _, h⟩ := Dev.emit_eq { d with rate := r } b code sev (a0 k) (a1 k)
    exact ⟨_, h⟩
  unfold limited
  split
  · split
    · exact ⟨_, d.jfe, rfl⟩
    · exact ⟨_, told _ _⟩
  · exact ⟨_, told _ _⟩

/-! ### Registers of the block (R527) -/

theorem rn_setNat {n : Nat} (d : Dev) (k : Nat) (word : n < 2 ^ 32) : (d.setNat k n).rn k = n := by
  rw [rn, setNat, reg_setReg, BitVec.toNat_ofNat, Nat.mod_eq_of_lt word]

theorem rf_lowest (d : Dev) (k : Nat) : d.rf k 0 0 = d.rn k % 2 := rfl

section
variable (serves : d.serves .gau = true)
include serves

/-- No register of the block is locked or of expert level, so a write reaches its rule. -/
theorem writeReg_gau {o : Nat} {r : RegDef} (block : blockAt d.hw (Block.gau.base + o) = some .gau) (own : o ≠ 0xC) (found : findReg gauRegs o = some r)
    (acc : r.acc = .rw ∨ r.acc = .wo) : d.writeReg w (Block.gau.base + o) v = d.gauWrite o r v := by
  rw [writeReg_reg block serves (fun host => nomatch host.1) own found]
  exact regAccess_through (acc.imp_right .inl)

theorem writeReg_gauCfg : d.writeReg w GAU_CFG v = d.gauCfgWrite v := writeReg_gau serves (o := 0x10) rfl (by decide) rfl (.inl rfl)

theorem writeReg_snapCmd : d.writeReg w GAU_SNAP_CMD 1 = d.snapshotFx false := writeReg_gau serves (o := 0x30) rfl (by decide) rfl (.inr rfl)

theorem writeReg_dumpCfg : d.writeReg w GAU_DUMP_CFG v = d.dumpCfgWrite v := writeReg_gau serves (o := 0x40) rfl (by decide) rfl (.inl rfl)

end

/-! ### The mode (R523) -/

theorem mode_and_run (n : Nat) : n % 2 + 2 * bitsOf n 1 1 = n % 4 := by
  rw [bitsOf, Nat.shiftRight_eq_div_pow]
  omega

theorem mode_and_run_lt (m n : Nat) : m % 2 + 2 * bitsOf n 1 1 < 2 ^ 32 := by
  rw [bitsOf]
  omega

/-- A changed mode zeroes the counters, but not the cycle counters (log entry 87). -/
theorem gauCfgWrite_of_off (off : d.dumpOn = false) : d.gauCfgWrite v = { d.setNat GAU_CFG (v.toNat % 4) with
    gau := if v.toNat % 2 = d.rn GAU_CFG % 2 then d.gau else { d.gau with core := [], blk := [], wrapped := [] } } := by
  unfold gauCfgWrite
  extract_lets mode d1
  have written : mode = v.toNat % 2 := if_neg (by rw [off]; decide)
  have stored : d1 = d.setNat GAU_CFG (v.toNat % 4) := by
    unfold d1
    rw [written, mode_and_run]
  rw [stored, written, rf_lowest]
  split <;> rfl

theorem gauCfgWrite_of_on (on : d.dumpOn = true) : d.gauCfgWrite v = d.setNat GAU_CFG (d.rn GAU_CFG % 2 + 2 * bitsOf v.toNat 1 1) := by
  unfold gauCfgWrite
  dsimp only
  rw [if_pos on, if_pos rfl, rf_lowest]

/-! ### The dump ring (R524–R526) -/

theorem dumpCfgWrite_stops (on : d.dumpOn = true) (stop : bitOf v.toNat 31 = false) : d.dumpCfgWrite v = d.setReg GAU_DUMP_CFG (d.reg GAU_DUMP_CFG &&& 0x7FFFFFFF) := by
  unfold dumpCfgWrite
  dsimp only
  rw [if_pos on, if_neg (by rw [stop]; decide)]
  rfl

/-- A set bit 31 is what enabling the ring adds to the other fields written. -/
theorem enabled_fields (set : bitOf v.toNat 31 = true) : v &&& 0x400FFF0F ||| BitVec.ofNat 32 (2 ^ 31) = v &&& 0xC00FFF0F := by
  have bit : v &&& BitVec.ofNat 32 (2 ^ 31) = BitVec.ofNat 32 (2 ^ 31) := by
    have top : v.getLsbD 31 = true := (BitVec.testBit_toNat v).symm.trans ((bitOf_eq_testBit _ _).symm.trans set)
    rw [show BitVec.ofNat 32 (2 ^ 31) = BitVec.twoPow 32 31 from rfl, BitVec.and_twoPow, top, if_pos rfl]
  calc v &&& 0x400FFF0F ||| BitVec.ofNat 32 (2 ^ 31) = (v &&& 0x400FFF0F) ||| (v &&& BitVec.ofNat 32 (2 ^ 31)) := by rw [bit]
    _ = v &&& (0x400FFF0F ||| BitVec.ofNat 32 (2 ^ 31)) := BitVec.and_or_distrib_left.symm
    _ = v &&& 0xC00FFF0F := rfl

theorem dumpCfgWrite_starts (off : d.dumpOn = false) (set : bitOf v.toNat 31 = true) (host : bitOf v.toNat 30 = false) (low : 2 ≤ v.toNat % 16)
    (high : v.toNat % 16 ≤ 10) (fits : d.snapBytes ≤ bitsOf v.toNat 19 8 * 4096) :
    d.dumpCfgWrite v = { (d.setReg GAU_DUMP_CFG (v &&& 0x400FFF0F)).orBits GAU_DUMP_CFG (2 ^ 31) with gau := { d.gau with seq := 0xFFFFFFFF } } := by
  unfold dumpCfgWrite
  dsimp only
  rw [if_neg (by rw [off]; decide), if_neg (by rw [set]; decide), if_neg (by omega), if_neg (by rw [host, Bool.false_and]; decide)]
  rfl

theorem dumpCfgWrite_refused (off : d.dumpOn = false) (set : bitOf v.toNat 31 = true) (range : v.toNat % 16 < 2 ∨ 10 < v.toNat % 16) :
    d.dumpCfgWrite v = (d.setReg GAU_DUMP_CFG (v &&& 0x400FFF0F)).emit .gau 0x1002 1 1 d.snapBytes := by
  unfold dumpCfgWrite
  dsimp only
  rw [if_neg (by rw [off]; decide), if_neg (by rw [set]; decide), if_pos (range.imp_right .inl)]

theorem dumpCfgWrite_starts_reg (set : bitOf v.toNat 31 = true) :
    ((d.setReg GAU_DUMP_CFG (v &&& 0x400FFF0F)).orBits GAU_DUMP_CFG (2 ^ 31)).reg GAU_DUMP_CFG = v &&& 0xC00FFF0F := by
  rw [orBits, reg_setReg, reg_setReg, enabled_fields set]

/-- A refused ring stays off, and an event tells so. -/
theorem dumpCfgWrite_refused_spec {e : Dev} (off : d.dumpOn = false) (set : bitOf v.toNat 31 = true) (range : v.toNat % 16 < 2 ∨ 10 < v.toNat % 16)
    (wrote : e = d.dumpCfgWrite v) : e.reg GAU_DUMP_CFG = v &&& 0x400FFF0F ∧ e = { d with regs := e.regs, jfe := e.jfe } ∧
      (d.keystoneUp = true → ∃ x : Event, e.jfe.ev = d.jfe.ev ++ [x] ∧ x.code = 0x1002) := by
  rw [dumpCfgWrite_refused off set range] at wrote
  subst wrote
  obtain ⟨reg, -, -⟩ := (d.setReg GAU_DUMP_CFG (v &&& 0x400FFF0F)).emit_seq .gau 0x1002 1 1 d.snapBytes GAU_DUMP_CFG
  refine ⟨reg.trans (reg_setReg _ _ _), ?_, fun up => ?_⟩
  · obtain ⟨_, _, told⟩ := (d.setReg GAU_DUMP_CFG (v &&& 0x400FFF0F)).emit_eq .gau 0x1002 1 1 d.snapBytes
    rw [told]
    rfl
  · obtain ⟨x, told, -, code, -⟩ := (d.setReg GAU_DUMP_CFG (v &&& 0x400FFF0F)).emit_up .gau 0x1002 1 1 d.snapBytes up
    exact ⟨x, by rw [told]; rfl, code⟩

/-! ### Snapshots (R524) -/

theorem snapSkip_eq (d : Dev) (why : Nat) : ∃ r j, d.snapSkip why =
    { d with gau := { d.gau with skipped := min 0xFFFFFFFF (d.gau.skipped + 1), skippedNow := min 0xFFFFFFFF (d.gau.skippedNow + 1) }, rate := r, jfe := j } :=
  limited_emit_eq _ _ _ .gau 0x1001 1 (· + 1) fun _ => why

theorem snapshotFx_of_off (off : d.dumpOn = false) : d.snapshotFx periodic = d.snapSkip 3 := by
  unfold snapshotFx
  dsimp only
  rw [if_pos (by rw [off]; rfl)]

theorem snapshotFx_of_full (on : d.dumpOn = true) (full : 2 ^ d.rf GAU_DUMP_CFG 3 0 < sub32 (d.gau.seq + 1).toNat (d.rn GAU_DUMP_CONSUMED)) :
    d.snapshotFx periodic = d.snapSkip 1 := by
  unfold snapshotFx
  dsimp only
  rw [if_neg (by rw [on]; decide), if_pos full]

/-- A snapshot that has room is written under the next SEQ. -/
theorem snapshotFx_of_room (on : d.dumpOn = true) (room : sub32 (d.gau.seq + 1).toNat (d.rn GAU_DUMP_CONSUMED) ≤ 2 ^ d.rf GAU_DUMP_CFG 3 0) :
    (d.snapshotFx periodic).gau = { d.gau with seq := d.gau.seq + 1, skippedNow := 0, wrapped := [] } ∧ (d.snapshotFx periodic).regs = d.regs := by
  unfold snapshotFx
  extract_lets seq lg blocks rs count flags hd base loc d1
  have read : d.DrawsOnly rs.2 := by
    unfold rs
    split
    · refine .foldl (fun acc b => ?_) _ _ d
      dsimp only
      exact acc.2.blkRecord_drawsOnly b
    · refine .foldl (fun acc g => ?_) _ _ d
      dsimp only
      exact acc.2.coreRecord_drawsOnly g
  obtain ⟨records, records'⟩ := rs.2.locWr_gau_regs loc (base + 64) rs.1
  obtain ⟨header, header'⟩ := (rs.2.locWr loc (base + 64) rs.1).locWr_gau_regs loc base hd
  have gau : d1.gau = d.gau := (header.trans records).trans read.gau
  have regs : d1.regs = d.regs := (header'.trans records').trans read.regs
  rw [if_neg (by rw [on]; decide), if_neg (Nat.not_lt.mpr room)]
  exact ⟨congrArg (fun g : Gauge => { g with seq := seq, skippedNow := 0, wrapped := [] }) gau, regs⟩

theorem snapshotFx_lastSnapNs (d : Dev) (periodic : Bool) : (d.snapshotFx periodic).gau.lastSnapNs = d.gau.lastSnapNs := by
  have skipped (why : Nat) : (d.snapSkip why).gau.lastSnapNs = d.gau.lastSnapNs := by
    obtain ⟨_, _, h⟩ := d.snapSkip_eq why
    rw [h]
  cases on : d.dumpOn with
  | false => rw [snapshotFx_of_off on, skipped]
  | true =>
    rcases Nat.lt_or_ge (2 ^ d.rf GAU_DUMP_CFG 3 0) (sub32 (d.gau.seq + 1).toNat (d.rn GAU_DUMP_CONSUMED)) with full | room
    · rw [snapshotFx_of_full on full, skipped]
    · rw [(snapshotFx_of_room on room).1]

theorem snapPeriodFx_of_due (period : d.rf GAU_SNAP_PERIOD 9 0 ≠ 0)
    (due : d.now / (1000 * d.rf GAU_SNAP_PERIOD 9 0) ≠ d.gau.lastSnapNs / (1000 * d.rf GAU_SNAP_PERIOD 9 0)) :
    d.snapPeriodFx = ({ d with gau := { d.gau with lastSnapNs := d.now } } : Dev).snapshotFx true := by
  unfold snapPeriodFx
  dsimp only
  rw [if_neg (not_or.mpr ⟨period, due⟩)]

/-- A periodic snapshot notes its time, whether it is written or skipped. -/
theorem snapPeriodFx_spec (period : d.rf GAU_SNAP_PERIOD 9 0 ≠ 0)
    (due : d.now / (1000 * d.rf GAU_SNAP_PERIOD 9 0) ≠ d.gau.lastSnapNs / (1000 * d.rf GAU_SNAP_PERIOD 9 0)) :
    d.snapPeriodFx.gau.lastSnapNs = d.now ∧ (d.dumpOn = false → d.snapPeriodFx.gau.skipped = min 0xFFFFFFFF (d.gau.skipped + 1)) ∧
    (d.dumpOn = true → sub32 (d.gau.seq + 1).toNat (d.rn GAU_DUMP_CONSUMED) ≤ 2 ^ d.rf GAU_DUMP_CFG 3 0 → d.snapPeriodFx.gau.seq = d.gau.seq + 1) := by
  rw [snapPeriodFx_of_due period due]
  refine ⟨snapshotFx_lastSnapNs _ true, fun off => ?_, fun on room => ?_⟩
  · obtain ⟨_, _, skips⟩ := snapSkip_eq { d with gau := { d.gau with lastSnapNs := d.now } } 3
    rw [snapshotFx_of_off (d := { d with gau := { d.gau with lastSnapNs := d.now } }) off, skips]
  · rw [(snapshotFx_of_room (d := { d with gau := { d.gau with lastSnapNs := d.now } }) on room).1]

/-! ### The central reader (R522, R527) -/

/-- The counter that GAU_READ_SEL names, as it reads now. -/
def selCounter (d : Dev) : Nat × Dev :=
  if d.rbit GAU_CFG 0 then (match d.blkSel with
    | some b => d.blkCounter b (bitsOf (d.rn GAU_READ_SEL) 19 16)
    | none => (0, d))
  else if 8 < bitsOf (d.rn GAU_READ_SEL) 19 16 ∨ 1024 * d.hw.dies ≤ d.rn GAU_READ_SEL % 4096 then (0, d)
  else d.coreCounter (d.rn GAU_READ_SEL % 4096) (bitsOf (d.rn GAU_READ_SEL) 19 16)

/-- The lower half is answered, the upper one latched. -/
theorem gauReadFx_eq (d : Dev) : d.gauReadFx =
    (d.selCounter.1 % 2 ^ 32, { d.selCounter.2 with gau := { d.selCounter.2.gau with readHi := BitVec.ofNat 32 (d.selCounter.1 / 2 ^ 32) } }) := rfl

theorem selCounter_drawsOnly (d : Dev) : d.DrawsOnly d.selCounter.2 := by
  unfold selCounter
  split
  · split
    · exact d.blkCounter_drawsOnly _ _
    · exact .refl d
  · split
    · exact .refl d
    · exact d.coreCounter_drawsOnly _ _

theorem selCounter_of_block {b : Block} (on : d.rbit GAU_CFG 0 = true) (selected : d.blkSel = some b)
    (exact : blkTimed b (FMap.get 0 d.gau.blkEvt (16 * b.id + bitsOf (d.rn GAU_READ_SEL) 19 16)) = false) :
    d.selCounter.1 = FMap.get 0 d.gau.blk (16 * b.id + bitsOf (d.rn GAU_READ_SEL) 19 16) := by
  unfold selCounter
  rw [if_pos on, selected]
  exact congrArg Prod.fst (blkCounter_of_exact on exact)

/-- What the reader answers, and what it latches. -/
theorem gauRead_spec {e : Dev} (quiet : d.out = []) (told : e = d.gauReadFx.2.put (.reply (leBytes 4 d.gauReadFx.1))) :
    (∃ n, e.out = [.reply (leBytes 4 (n % 2 ^ 32))] ∧ e.gau.readHi = BitVec.ofNat 32 (n / 2 ^ 32)) ∧ e.regs = d.regs ∧
    ∀ b, d.rbit GAU_CFG 0 = true → d.blkSel = some b → blkTimed b (FMap.get 0 d.gau.blkEvt (16 * b.id + bitsOf (d.rn GAU_READ_SEL) 19 16)) = false →
      e.out = [.reply (leBytes 4 (FMap.get 0 d.gau.blk (16 * b.id + bitsOf (d.rn GAU_READ_SEL) 19 16) % 2 ^ 32))] := by
  rw [gauReadFx_eq] at told
  subst told
  have drawn := d.selCounter_drawsOnly
  have answered : d.selCounter.2.out ++ [Out.reply (leBytes 4 (d.selCounter.1 % 2 ^ 32))] = [.reply (leBytes 4 (d.selCounter.1 % 2 ^ 32))] := by
    rw [drawn.out, quiet, List.nil_append]
  refine ⟨⟨d.selCounter.1, answered, rfl⟩, drawn.regs, fun b on selected exact => ?_⟩
  rw [← selCounter_of_block on selected exact]
  exact answered

end Dev

/-! ### The statement -/

/-- What a write that is carried out with its consequences leads to is what its command answers. -/
theorem State.writeSettle_answers {s : State} {w : Writer} {off : Nat} {v : W32} {P : Dev → Prop} {d : Dev} (wrote : s.dev.fresh.writeReg w off v = d) (h : P d) :
    s.AnswersSettled (s.writeSettle w off v) P :=
  ans_set (wrote.symm ▸ h)

/-- Settles O55: each command is a write that its block lets through, and does what its register's rule says; a test that ends fences a unit that failed. -/
theorem onlineTestAndGaugeResults : Obligations.OnlineTestAndGaugeResults := by
  unfold Obligations.OnlineTestAndGaugeResults
  intro s d
  refine ⟨fun w u serves expert selected => ?units, fun n k j det u named tested => ⟨?passed, ?failed⟩, fun w v serves => ?gauge,
    fun p named period due => ?period, ?read⟩
  case units =>
    obtain rfl : u = s.dev.fresh.otSel := selected
    replace serves : s.dev.fresh.serves .key = true := serves
    replace expert : s.dev.fresh.expertFor w = true := expert
    refine ⟨fun idle allowed => ?isolated, fun idle barred => ?barred, fun isolated => ?tested, fun inService => ?untested, fun isolated closed => ?released⟩
    case isolated =>
      refine State.writeSettle_answers ((Dev.writeReg_isolate serves expert).trans (Dev.isolateFx_of_allowed idle allowed)) ?_
      exact Dev.isolated_spec s.dev.fresh _ _ _ _ rfl
    case barred => exact State.writeSettle_answers ((Dev.writeReg_isolate serves expert).trans (Dev.isolateFx_of_barred idle barred)) rfl
    case tested => exact State.writeSettle_answers (Dev.writeReg_test serves expert) (Dev.ot_of_setOt (Dev.testFx_dbg (d := s.dev.fresh) isolated))
    case untested => exact State.writeSettle_answers ((Dev.writeReg_test serves expert).trans (Dev.testFx_of_inService inService)) rfl
    case released => exact State.writeSettle_answers (Dev.writeReg_release serves expert) (Dev.releaseFx_spec (d := s.dev.fresh) isolated closed)
  case passed =>
    subst named
    exact ans_set (g := fun d => d.otDoneFx n k j true det) (Dev.otDoneFx_pass_spec (d := s.dev.fresh) tested det rfl)
  case failed =>
    subst named
    exact ans_set (g := fun d => d.otDoneFx n k j false det) (Dev.otDoneFx_fail_spec (d := s.dev.fresh) tested det)
  case gauge =>
    replace serves : s.dev.fresh.serves .gau = true := serves
    refine ⟨fun (off : s.dev.fresh.dumpOn = false) => ?mode, fun (on : s.dev.fresh.dumpOn = true) => ?kept, fun (off : s.dev.fresh.dumpOn = false) => ?skipped,
      fun (on : s.dev.fresh.dumpOn = true) room => ?written, fun (on : s.dev.fresh.dumpOn = true) stop => ?stops,
      fun (off : s.dev.fresh.dumpOn = false) set host low high fits => ?starts, fun (off : s.dev.fresh.dumpOn = false) set range => ?refused⟩
    case mode =>
      refine State.write_answers ((Dev.writeReg_gauCfg serves).trans (Dev.gauCfgWrite_of_off off)) ?_
      exact ⟨Dev.rn_setNat s.dev.fresh _ (by omega), fun r other => Dev.reg_setReg_ne s.dev.fresh _ other, rfl⟩
    case kept =>
      refine State.write_answers ((Dev.writeReg_gauCfg serves).trans (Dev.gauCfgWrite_of_on on)) ?_
      exact ⟨Dev.rn_setNat s.dev.fresh _ (Dev.mode_and_run_lt _ _), rfl⟩
    case skipped =>
      obtain ⟨r, f, skips⟩ := s.dev.fresh.snapSkip_eq 3
      exact State.write_answers ((Dev.writeReg_snapCmd serves).trans ((Dev.snapshotFx_of_off off).trans skips)) ⟨rfl, rfl, rfl⟩
    case written =>
      obtain ⟨gau, regs⟩ := Dev.snapshotFx_of_room (d := s.dev.fresh) (periodic := false) on room
      refine State.write_answers (Dev.writeReg_snapCmd serves) ?_
      rw [gau]
      exact ⟨rfl, rfl, rfl, rfl, regs⟩
    case stops => exact State.write_answers ((Dev.writeReg_dumpCfg serves).trans (Dev.dumpCfgWrite_stops on stop)) ⟨Dev.reg_setReg _ _ _, rfl⟩
    case starts =>
      refine State.write_answers ((Dev.writeReg_dumpCfg serves).trans (Dev.dumpCfgWrite_starts off set host low high fits)) ?_
      exact ⟨Dev.dumpCfgWrite_starts_reg (d := s.dev.fresh) set, rfl, rfl⟩
    case refused => exact State.write_answers (Dev.writeReg_dumpCfg serves) (Dev.dumpCfgWrite_refused_spec (d := s.dev.fresh) off set range rfl)
  case period =>
    subst named
    exact ans_run (Dev.snapPeriodFx_spec (d := s.dev.fresh) period due)
  case read => exact ans_run (g := fun d => d.gauReadFx.2.put (.reply (leBytes 4 d.gauReadFx.1))) (Dev.gauRead_spec (d := s.dev.fresh) rfl rfl)

end Sys2Proof.Machine
end

section
/-! SUPPORT. The command in front of the queue. -/
namespace Sys2Proof.Machine

/-- Settles O1: by the definition of a step. -/
theorem stepRunsTheFrontCommand : Obligations.StepRunsTheFrontCommand := fun _ _ => rfl

end Sys2Proof.Machine
end

section
/-! SUPPORT. The host rings (R164–R189): what a write of their registers does, the acceptance of descriptors, and the records written. -/
namespace Sys2Proof.Machine

/-! ### Registers and their fields -/

theorem Dev.reg_orBits (d : Dev) (k m : Nat) : (d.orBits k m).reg k = d.reg k ||| BitVec.ofNat 32 m := Dev.reg_setReg _ _ _

theorem Dev.reg_orBits_ne (d : Dev) {k j : Nat} (m : Nat) (n : j ≠ k) : (d.orBits k m).reg j = d.reg j := Dev.reg_setReg_ne _ _ n

theorem Dev.reg_setNat (d : Dev) (k v : Nat) : (d.setNat k v).reg k = BitVec.ofNat 32 v := Dev.reg_setReg _ _ _

theorem Dev.reg_setNat_ne (d : Dev) {k j : Nat} (v : Nat) (n : j ≠ k) : (d.setNat k v).reg j = d.reg j := Dev.reg_setReg_ne _ _ n

theorem Dev.reg_clearBits_ne (d : Dev) {k j : Nat} (m : Nat) (n : j ≠ k) : (d.clearBits k m).reg j = d.reg j := Dev.reg_setReg_ne _ _ n

theorem Dev.rbit_congr {d e : Dev} {k : Nat} (h : e.reg k = d.reg k) (i : Nat) : e.rbit k i = d.rbit k i := by rw [Dev.rbit, Dev.rn, h]; rfl

theorem Dev.rbit_setReg_ne (d : Dev) {k j : Nat} (v : W32) (n : j ≠ k) (i : Nat) : (d.setReg k v).rbit j i = d.rbit j i :=
  Dev.rbit_congr (Dev.reg_setReg_ne d v n) i

theorem Dev.rbit_orBits_same (d : Dev) (k : Nat) {i : Nat} (word : i < 32) : (d.orBits k (2 ^ i)).rbit k i = true := by
  rw [Dev.rbit_eq_getLsbD, Dev.reg_orBits, BitVec.getLsbD_or, BitVec.getLsbD_ofNat, Nat.testBit_two_pow_self]
  simp [word]

theorem bitOf_toNat (v : W32) (i : Nat) : bitOf v.toNat i = v.getLsbD i := (bitOf_eq_testBit _ _).trans (BitVec.testBit_toNat v)

/-! ### A register of the block that is written (R166, R168) -/

section
variable {d : Dev} {w : Writer} {v : W32} (serves : d.serves .host = true)
include serves

theorem Dev.writeReg_host_rw {o : Nat} {r : RegDef} (low : o < 0x4000) (own : o ≠ 0xC) (found : findReg hostRegs o = some r) (acc : r.acc = .rw) :
    d.writeReg w (0x20000 + o) v = d.hostWrite o r v := by
  have block : blockAt d.hw (Block.host.base + o) = some .host := by
    have h : (0x20000 + o) / 0x10000 = 2 := by omega
    simp [blockAt, Block.base, h]
  exact (Dev.writeReg_reg block serves (by omega) own found).trans (Dev.regAccess_through (.inl acc))

theorem Dev.writeReg_ringCfg {r : Nat} (ring : r < 3) : d.writeReg w (ringCfg r) v = d.ringCfgWrite r v := by
  match r, ring with
  | 0, _ => exact Dev.writeReg_host_rw serves (o := 0x28) (by decide) (by decide) (r := ⟨0x28, 0x4, 1, .rw, 0x0, 0xC00001F1⟩) (by decide) rfl
  | 1, _ => exact Dev.writeReg_host_rw serves (o := 0x38) (by decide) (by decide) (r := ⟨0x38, 0x4, 1, .rw, 0x0, 0x800001F1⟩) (by decide) rfl
  | 2, _ => exact Dev.writeReg_host_rw serves (o := 0x48) (by decide) (by decide) (r := ⟨0x48, 0x4, 1, .rw, 0x0, 0x800001F1⟩) (by decide) rfl

theorem Dev.writeReg_winBaseLo : d.writeReg w HOST_WIN_BASE_LO v = d.winWrite false v :=
  Dev.writeReg_host_rw serves (o := 0x14) (by decide) (by decide) (r := ⟨0x14, 0x4, 1, .rw, 0x0, 0xC0000000⟩) (by decide) rfl

theorem Dev.writeReg_winBaseHi : d.writeReg w HOST_WIN_BASE_HI v = d.winWrite true v :=
  Dev.writeReg_host_rw serves (o := 0x18) (by decide) (by decide) (r := ⟨0x18, 0x4, 1, .rw, 0x0, 0xFFFF⟩) (by decide) rfl

end

/-! ### Enabling a ring (R168, R187, R189) -/

theorem ringCfg_ne (r : Nat) : ringCfg r ≠ JFE_LAST_ACCEPTED_SEQ ∧ ringCfg r ≠ JFE_LAST_COMPLETED_CSEQ ∧ ringCfg r + 4 ≠ ringCfg r := by
  simp only [ringCfg, HOST_SQ_CFG, JFE_LAST_ACCEPTED_SEQ, JFE_LAST_COMPLETED_CSEQ]
  omega

/-- The ring is on, its START latched: every field but the ring's own START and number stays. -/
theorem Dev.ringStartUp_of_free {d : Dev} {r : Nat} (ring : r < 3) (free : d.ringFault r = none) :
    (d.ringStartUp r).ringOn r = true ∧
    (r = 0 → (d.ringStartUp r).jfe.sqStart = d.reg (ringCfg 0 + 4) ∧ (d.ringStartUp r).jfe.expected = d.reg (ringCfg 0 + 4) ∧
      (d.ringStartUp r).reg JFE_LAST_ACCEPTED_SEQ = d.reg (ringCfg 0 + 4) - 1) ∧
    (r = 1 → (d.ringStartUp r).jfe.cqStart = d.reg (ringCfg 1 + 4) ∧ (d.ringStartUp r).jfe.lastCseq = d.reg (ringCfg 1 + 4) - 1 ∧
      (d.ringStartUp r).reg JFE_LAST_COMPLETED_CSEQ = d.reg (ringCfg 1 + 4) - 1) ∧
    (r = 2 → (d.ringStartUp r).jfe.eqStart = d.reg (ringCfg 2 + 4)) ∧
    d.ringStartUp r = { d with regs := (d.ringStartUp r).regs, jfe := (d.ringStartUp r).jfe } ∧
    (d.ringStartUp r).jfe.accepted = d.jfe.accepted ∧ (d.ringStartUp r).jfe.cq = d.jfe.cq ∧ (d.ringStartUp r).jfe.ev = d.jfe.ev := by
  obtain ⟨accepted, completed, -⟩ := ringCfg_ne r
  have on : (d.orBits (ringCfg r) (2 ^ 31)).rbit (ringCfg r) 31 = true := d.rbit_orBits_same _ (by decide)
  simp only [Dev.ringStartUp, free, Dev.ringOn]
  match r, ring with
  | 0, _ => exact ⟨(Dev.rbit_setReg_ne _ _ accepted _).trans on, fun _ => ⟨rfl, rfl, Dev.reg_setReg _ _ _⟩, nofun, nofun, rfl, rfl, rfl, rfl⟩
  | 1, _ => exact ⟨(Dev.rbit_setReg_ne _ _ completed _).trans on, nofun, fun _ => ⟨rfl, rfl, Dev.reg_setReg _ _ _⟩, nofun, rfl, rfl, rfl, rfl⟩
  | 2, _ => exact ⟨on, nofun, nofun, fun _ => rfl, rfl, rfl, rfl, rfl⟩

theorem Dev.ringStartUp_of_fault {d : Dev} {r : Nat} {x : Nat × Nat} (fault : d.ringFault r = some x) :
    d.ringStartUp r = (d.emit .host 0x0408 2 x.1 x.2).msix 18 := by
  simp only [Dev.ringStartUp, fault, Dev.noteRecord, Nat.reduceLeDiff, if_true]

theorem Dev.ringCfgWrite_of_off {d : Dev} {r : Nat} {v : W32} (off : d.ringOn r = false) (enable : v.getLsbD 31 = true) :
    d.ringCfgWrite r v = (d.setNat (ringCfg r) ((if r = 0 ∧ v.getLsbD 30 then 2 ^ 30 else 0) + bitsOf v.toNat 8 4 * 16 + v.toNat % 2)).ringStartUp r := by
  simp only [Dev.ringCfgWrite, off, bitOf_toNat, enable, Bool.false_eq_true, if_false, if_true]

/-- While the ring is on, ENABLE stays 1 where it is written so, PAUSE follows the write, and the rest holds. -/
theorem Dev.ringCfgWrite_of_on {d : Dev} {v : W32} (on : d.ringOn 0 = true) (enable : v.getLsbD 31 = true) :
    (d.ringCfgWrite 0 v).rbit HOST_SQ_CFG 30 = v.getLsbD 30 ∧ (d.ringCfgWrite 0 v).ringOn 0 = true ∧
    (d.ringCfgWrite 0 v).rf HOST_SQ_CFG 8 0 = d.rf HOST_SQ_CFG 8 0 ∧ (∀ k, k ≠ HOST_SQ_CFG → (d.ringCfgWrite 0 v).reg k = d.reg k) ∧
    d.ringCfgWrite 0 v = { d with regs := (d.ringCfgWrite 0 v).regs } := by
  have write : d.ringCfgWrite 0 v = d.setNat HOST_SQ_CFG (2 ^ 31 + (if v.getLsbD 30 then 2 ^ 30 else 0) + d.rn HOST_SQ_CFG % 512) := by
    simp only [Dev.ringCfgWrite, on, bitOf_toNat, enable, if_true, true_and]
    rfl
  have value : (d.ringCfgWrite 0 v).rn HOST_SQ_CFG = 2 ^ 31 + (if v.getLsbD 30 then 2 ^ 30 else 0) + d.rn HOST_SQ_CFG % 512 := by
    rw [write, Dev.rn, Dev.reg_setNat, BitVec.toNat_ofNat, Nat.mod_eq_of_lt]
    split <;> omega
  refine ⟨?_, ?_, ?_, fun k other => ?_, ?_⟩
  · rw [Dev.rbit, value, bitOf, Nat.shiftRight_eq_div_pow]
    cases v.getLsbD 30 with
    | true =>
      rw [if_pos rfl, beq_iff_eq]
      omega
    | false =>
      rw [if_neg Bool.false_ne_true, beq_eq_false_iff_ne]
      omega
  · rw [Dev.ringOn, ringCfg, Nat.mul_zero, Nat.add_zero, Dev.rbit, value, bitOf, Nat.shiftRight_eq_div_pow, beq_iff_eq]
    split <;> omega
  · rw [Dev.rf, value, Dev.rf, bitsOf, bitsOf, Nat.shiftRight_zero, Nat.shiftRight_zero]
    split <;> omega
  · rw [write, Dev.reg_setNat_ne _ _ other]
  · rw [write]
    rfl

/-! ### The window base (R166) -/

theorem Dev.winWrite_hi {d : Dev} {v : W32} (inside : v.toNat % 65536 ≤ 0x1F) :
    (d.winWrite true v).reg HOST_WIN_BASE_HI = v &&& 0xFFFF ∧
    (d.winWrite true v).link.winBase = (d.reg HOST_WIN_BASE_LO).toNat + 2 ^ 32 * (v.toNat % 65536) ∧
    d.winWrite true v = { d with regs := (d.winWrite true v).regs, link := { d.link with winBase := (d.winWrite true v).link.winBase } } := by
  have low : BitVec.ofNat 32 (v.toNat % 65536) = v &&& 0xFFFF := by
    apply BitVec.eq_of_toNat_eq
    rw [BitVec.toNat_ofNat, BitVec.toNat_and]
    exact (Nat.mod_eq_of_lt (by omega)).trans (Nat.and_two_pow_sub_one_eq_mod v.toNat 16).symm
  simp only [Dev.winWrite, Bool.not_true, Bool.false_eq_true, if_false, if_neg (Nat.not_lt.mpr inside)]
  refine ⟨(Dev.reg_setNat _ _ _).trans low, ?_, rfl⟩
  rw [Dev.rpair, Dev.rn, Dev.rn, Dev.reg_setNat, Dev.reg_setNat_ne _ _ (by decide), BitVec.toNat_ofNat, Nat.mod_eq_of_lt (a := v.toNat % 65536) (by omega)]

theorem Dev.winWrite_outside {d : Dev} {v : W32} (outside : 0x1F < v.toNat % 65536) : d.winWrite true v = d := by
  simp only [Dev.winWrite, Bool.not_true, Bool.false_eq_true, if_false, if_pos outside]

/-! ### Message-signalled interrupts (R184, R185) -/

/-- A vector is sent, or waits in its pending bit. -/
theorem Dev.msix_cases (d : Dev) (v : Nat) : d.msix v = d.orBits (0x25000 + v / 32 * 4) (2 ^ (v % 32)) ∨ d.msix v = d.put (.msix v) := by
  unfold Dev.msix
  split
  · exact .inl rfl
  · exact .inr rfl

theorem Dev.msix_sent {d : Dev} {v : Nat} (open_ : d.msixMasked v = false) (up : d.link.up = true) (d0 : d.link.d3 = false) (bme : d.link.bme = true) :
    d.msix v = d.put (.msix v) := by
  simp only [Dev.msix, open_, up, d0, bme, Bool.not_true, Bool.or_false, Bool.false_eq_true, if_false]

/-- What a record's note to its vector may change: the pending bits and the outputs, and the counts of the vectors. -/
structure Dev.Noted (d e : Dev) : Prop where
  hostMem : e.hostMem = d.hostMem
  ctx (c : Nat) : e.ctx c = d.ctx c
  accepted : e.jfe.accepted = d.jfe.accepted
  cq : e.jfe.cq = d.jfe.cq
  held : e.jfe.held = d.jfe.held
  lastCseq : e.jfe.lastCseq = d.jfe.lastCseq
  ev : e.jfe.ev = d.jfe.ev
  lost : e.jfe.lost = d.jfe.lost
  reg (k : Nat) : k < 0x25000 → e.reg k = d.reg k

theorem Dev.Noted.refl (d : Dev) : d.Noted d := ⟨rfl, fun _ => rfl, rfl, rfl, rfl, rfl, rfl, rfl, fun _ _ => rfl⟩

theorem Dev.msix_noted (d : Dev) (v : Nat) : d.Noted (d.msix v) := by
  rcases d.msix_cases v with h | h <;> rw [h]
  · exact ⟨rfl, fun _ => rfl, rfl, rfl, rfl, rfl, rfl, rfl, fun k low => d.reg_orBits_ne _ (by omega)⟩
  · exact ⟨rfl, fun _ => rfl, rfl, rfl, rfl, rfl, rfl, rfl, fun _ _ => rfl⟩

theorem Dev.signal_noted (d : Dev) (v : Nat) : d.Noted (d.signal v) := by
  obtain ⟨hostMem, ctx, accepted, cq, held, lastCseq, ev, lost, reg⟩ :=
    Dev.msix_noted { d with jfe := { d.jfe with coalCount := FMap.set 0 d.jfe.coalCount v 0, coalTick := FMap.set none d.jfe.coalTick v none } } v
  exact ⟨hostMem, ctx, accepted, cq, held, lastCseq, ev, lost, reg⟩

theorem Dev.noteRecord_noted (d : Dev) (v : Nat) (notify : Bool) : d.Noted (d.noteRecord v notify) := by
  unfold Dev.noteRecord
  split
  · exact d.msix_noted v
  · dsimp only
    split
    · exact d.signal_noted v
    · exact ⟨rfl, fun _ => rfl, rfl, rfl, rfl, rfl, rfl, rfl, fun _ _ => rfl⟩

/-! ### Acceptance of descriptors (R169–R172) -/

theorem Dev.ringCount_gau (d : Dev) (ev n : Nat) : d.ringCount ev n = { d with gau := (d.ringCount ev n).gau } := by
  rw [Dev.ringCount, Dev.blkCount_gau, Dev.blkCount_gau d]

theorem Dev.ringCount_jfe (d : Dev) (ev n : Nat) : (d.ringCount ev n).jfe = d.jfe := by rw [Dev.ringCount_gau]

theorem Dev.ringCount_reg (d : Dev) (ev n k : Nat) : (d.ringCount ev n).reg k = d.reg k := by rw [Dev.ringCount_gau]; rfl

theorem Dev.emit_accepted (d : Dev) (b : Block) (code sev a0 a1 : Nat) : (d.emit b code sev a0 a1).jfe.accepted = d.jfe.accepted := by
  obtain ⟨_, _, h⟩ := d.emit_eq b code sev a0 a1
  rw [h]

theorem Dev.accept_accepted (d : Dev) (bs : List Byte) : ∃ l, (d.accept bs).jfe.accepted = d.jfe.accepted ++ l := by
  unfold Dev.accept
  dsimp only
  split
  · exact ⟨[], (List.append_nil _).symm⟩
  · split
    · exact ⟨[], (List.append_nil _).symm⟩
    · exact ⟨_, rfl⟩

/-- The device that has taken the descriptor expected, before it is accepted. -/
def Dev.taking (d : Dev) : Dev :=
  ((({ d with jfe := { d.jfe with expected := d.jfe.expected + 1, seqTold := [] } }).ringCount 1 1).setReg JFE_LAST_ACCEPTED_SEQ d.jfe.expected).clearBits
    JFE_ACCEPT_STATUS (2 ^ 27)

theorem Dev.taking_jfe (d : Dev) : d.taking.jfe = { d.jfe with expected := d.jfe.expected + 1, seqTold := [] } := Dev.ringCount_jfe _ 1 1

theorem Dev.taking_lastAccepted (d : Dev) : d.taking.reg JFE_LAST_ACCEPTED_SEQ = d.jfe.expected :=
  (Dev.reg_clearBits_ne _ _ (by decide)).trans (Dev.reg_setReg _ _ _)

theorem Dev.pollLoop_takes {d : Dev} {n : Nat} {any : Bool} {bs : List Byte} (runs : d.blocked = false) (room : d.holdFull = false)
    (read : d.locRd (d.ringLoc 0) (d.ringSlot 0 d.jfe.expected.toNat) 64 = bs) (seq : descSeq bs = d.jfe.expected) :
    d.pollLoop (n + 1) any = (d.taking.accept bs).pollLoop n true := by
  simp only [Dev.pollLoop, runs, room, Bool.or_self, Bool.false_eq_true, if_false, read, seq, if_true]
  rfl

/-- A poll takes no accepted descriptor away. -/
theorem Dev.pollLoop_accepted : ∀ (n : Nat) (d : Dev) (any : Bool), ∃ l, (d.pollLoop n any).1.jfe.accepted = d.jfe.accepted ++ l
  | 0, d, _ => ⟨[], (List.append_nil _).symm⟩
  | n + 1, d, any => by
    unfold Dev.pollLoop
    dsimp only
    split
    · exact ⟨[], (List.append_nil _).symm⟩
    · split
      · obtain ⟨l, one⟩ := d.taking.accept_accepted (d.locRd (d.ringLoc 0) (d.ringSlot 0 d.jfe.expected.toNat) 64)
        obtain ⟨m, more⟩ := Dev.pollLoop_accepted n (d.taking.accept (d.locRd (d.ringLoc 0) (d.ringSlot 0 d.jfe.expected.toNat) 64)) true
        exact ⟨l ++ m, by rw [← List.append_assoc, ← congrArg (fun j : Jfe => j.accepted ++ l) d.taking_jfe, ← one]; exact more⟩
      · split
        · exact ⟨[], (List.append_nil _).symm⟩
        · refine ⟨[], ?_⟩
          rw [List.append_nil]
          split
          · rfl
          · rw [(Dev.noteRecord_noted _ _ _).accepted, Dev.emit_accepted]
            rfl

theorem Dev.locWr_jfe_regs (d : Dev) (loc : Bool) (a : Nat) (bs : List Byte) :
    (d.locWr loc a bs).jfe = { d.jfe with squash := (d.locWr loc a bs).jfe.squash } ∧ (d.locWr loc a bs).regs = d.regs ∧ (d.locWr loc a bs).hw = d.hw := by
  unfold Dev.locWr
  split
  · exact ⟨rfl, rfl, rfl⟩
  · split
    · have only := d.wr_memOnly View.plain a bs
      exact ⟨by rw [only.eq], by rw [only.eq], by rw [only.eq]⟩
    · exact ⟨rfl, rfl, rfl⟩

theorem Dev.accept_known {d : Dev} {bs : List Byte} (format : descFormat bs = 1) (known : descKnown (descType bs) = true) :
    d.accept bs = { d with jfe := { d.jfe with accepted := d.jfe.accepted ++ [{ seq := descSeq bs, bytes := bs }] } } := by
  simp only [Dev.accept, format, known, ne_eq, not_true_eq_false, if_false, Bool.not_true, Bool.false_eq_true]

theorem Dev.pollLoop_any : ∀ (n : Nat) (d : Dev), (d.pollLoop n true).2 = true
  | 0, _ => rfl
  | n + 1, d => by
    unfold Dev.pollLoop
    dsimp only
    split
    · rfl
    · split
      · exact Dev.pollLoop_any n _
      · split <;> rfl

/-- A poll that finds the descriptor expected accepts it first; what else it accepts follows it. -/
theorem Dev.poll_accepts {d : Dev} {bs : List Byte} (on : d.ringOn 0 = true) (runs : d.rbit HOST_SQ_CFG 30 = false) (link : d.ringLink 0 = true)
    (free : d.blocked = false) (room : d.holdFull = false) (batch : 0 < d.rf JFE_ACCEPT_BATCH 5 0)
    (read : bs = d.locRd (d.ringLoc 0) (d.ringSlot 0 d.jfe.expected.toNat) 64) (seq : descSeq bs = d.jfe.expected) (format : descFormat bs = 1)
    (known : descKnown (descType bs) = true) :
    (∃ l, d.poll.jfe.accepted = d.jfe.accepted ++ { seq := d.jfe.expected, bytes := bs } :: l) ∧
      (d.rf JFE_ACCEPT_BATCH 5 0 = 1 → d.poll.jfe.expected = d.jfe.expected + 1 ∧ d.poll.reg JFE_LAST_ACCEPTED_SEQ = d.jfe.expected) := by
  obtain ⟨n, more⟩ := Nat.exists_eq_add_of_lt batch
  rw [Nat.zero_add] at more
  have first : d.taking.accept bs = { d.taking with jfe := { d.taking.jfe with accepted := d.jfe.accepted ++ [{ seq := d.jfe.expected, bytes := bs }] } } := by
    rw [Dev.accept_known format known, seq, Dev.taking_jfe]
  obtain ⟨e, he⟩ : ∃ e, e = (Dev.pollLoop n (d.taking.accept bs) true).1 := ⟨_, rfl⟩
  have done : d.poll = e.rcbWrite 0 (e.rn JFE_LAST_ACCEPTED_SEQ) := by
    simp only [Dev.poll, on, runs, link, Bool.not_true, Bool.or_self, Bool.false_eq_true, if_false, more,
      Dev.pollLoop_takes (n := n) (any := false) free room read.symm seq, Dev.pollLoop_any, if_true, he]
  obtain ⟨jfe, regs, hw⟩ := e.locWr_jfe_regs e.rcbLoc (e.rcbBase + 0) (leBytes 4 (e.rn JFE_LAST_ACCEPTED_SEQ))
  constructor
  · obtain ⟨l, rest⟩ := Dev.pollLoop_accepted n (d.taking.accept bs) true
    refine ⟨l, ?_⟩
    rw [done, Dev.rcbWrite, jfe]
    dsimp only
    rw [he, rest, first, List.append_assoc, List.singleton_append]
  · intro one
    have zero : n = 0 := by omega
    subst zero
    have last : e = d.taking.accept bs := he
    constructor
    · rw [done, Dev.rcbWrite, jfe]
      dsimp only
      rw [last, first]
      dsimp only
      rw [Dev.taking_jfe]
    · rw [done, Dev.rcbWrite, Dev.reg_congr regs hw, last, first]
      exact d.taking_lastAccepted

/-! ### Completion records (R180, R181) -/

/-- What a context's entry leaves of the rings: their registers and places, host memory, and the records that wait. -/
structure Dev.SameRings (d e : Dev) : Prop where
  regs : e.regs = d.regs
  hw : e.hw = d.hw
  link : e.link = d.link
  hostMem : e.hostMem = d.hostMem
  cq : e.jfe.cq = d.jfe.cq
  lastCseq : e.jfe.lastCseq = d.jfe.lastCseq
  start (r : Nat) : e.ringStart r = d.ringStart r

theorem Dev.SameRings.refl (d : Dev) : d.SameRings d := ⟨rfl, rfl, rfl, rfl, rfl, rfl, fun _ => rfl⟩

theorem Dev.SameRings.trans {d e f : Dev} (h : d.SameRings e) (k : e.SameRings f) : d.SameRings f :=
  ⟨k.regs.trans h.regs, k.hw.trans h.hw, k.link.trans h.link, k.hostMem.trans h.hostMem, k.cq.trans h.cq, k.lastCseq.trans h.lastCseq,
    fun r => (k.start r).trans (h.start r)⟩

theorem Dev.MemOnly.sameRings {d e : Dev} (h : d.MemOnly e) : d.SameRings e := by
  obtain ⟨h⟩ := h
  exact ⟨by rw [h], by rw [h], by rw [h], by rw [h], by rw [h], by rw [h], fun r => by rw [h]; rfl⟩

theorem Dev.MemOnly.jfe {d e : Dev} (h : d.MemOnly e) : e.jfe = { d.jfe with squash := e.jfe.squash } := congrArg Dev.jfe h.eq

theorem Dev.putCtx_sameRings (d : Dev) (c : Nat) (x : Ctx) : d.SameRings (d.putCtx c x) := by
  have same := (d.putCtx_memOnly c x).sameRings
  exact ⟨same.regs, same.hw, same.link, same.hostMem, same.cq, same.lastCseq, same.start⟩

theorem Dev.putCtx_held (d : Dev) (c : Nat) (x : Ctx) : (d.putCtx c x).jfe.held = d.jfe.held := by
  rw [(d.putCtx_memOnly c x).jfe]
  rfl

theorem Dev.ctx_putCtx_same (d : Dev) (c : Nat) (x : Ctx) : (d.putCtx c x).ctx c = x := by
  rw [(d.putCtx_memOnly c x).ctx]
  exact FMap.get_set_self _ _ _ _

/-- A record with a place in the hold buffer enters it; the context that it ends becomes FREE. -/
theorem Dev.admitRecord_enters {d : Dev} {k : Completion} {rest : List Completion} (queue : d.jfe.cq = k :: rest) (empty : d.jfe.held = 0) :
    d.SameRings d.admitRecord ∧ d.admitRecord.jfe.held = 1 ∧
      (k.ctx < 4096 → (d.ctx k.ctx).state = .ending → (d.ctx k.ctx).seq = k.seq → d.admitRecord.ctx k.ctx = { d.ctx k.ctx with state := .free }) := by
  obtain ⟨h, hh⟩ : ∃ h : Dev, h = { d with jfe := { d.jfe with held := 1 } } := ⟨_, rfl⟩
  have same : d.SameRings h := by
    rw [hh]
    exact ⟨rfl, rfl, rfl, rfl, rfl, rfl, fun _ => rfl⟩
  have held : h.jfe.held = 1 := by rw [hh]
  have enters : d.admitRecord =
      if k.ctx < 4096 ∧ (d.ctx k.ctx).state = .ending ∧ (d.ctx k.ctx).seq = k.seq then h.putCtx k.ctx { d.ctx k.ctx with state := .free } else h := by
    simp only [Dev.admitRecord, Dev.holdFull, empty, queue, Nat.reduceLeDiff, decide_false, Bool.false_eq_true, if_false, List.getElem?_cons_zero, Nat.zero_add, hh]
    rfl
  rw [enters]
  refine ⟨?_, ?_, fun low ending seq => ?_⟩
  · split
    · exact same.trans (h.putCtx_sameRings _ _)
    · exact same
  · split
    · exact (h.putCtx_held _ _).trans held
    · exact held
  · rw [if_pos ⟨low, ending, seq⟩, Dev.ctx_putCtx_same]

/-- The device with the record in the ring's slot and the CSEQ in the control block, both in host memory. -/
def Dev.recorded (d : Dev) (k : Completion) (rest : List Completion) (c : W32) : Dev :=
  ((Dev.hostPut { d with jfe := { d.jfe with cq := rest, held := 0, lastCseq := c } } (d.ringSlot 1 c.toNat) (k.bytes c)).setReg JFE_LAST_COMPLETED_CSEQ c).hostPut
    (d.rcbBase + 4) (leBytes 4 c.toNat)

theorem Dev.recorded_hostMem (d : Dev) (k : Completion) (rest : List Completion) (c : W32) : (d.recorded k rest c).hostMem =
    FMap.setMany 0 (FMap.setMany 0 d.hostMem (d.ringSlot 1 c.toNat) (k.bytes c)) (d.rcbBase + 4) (leBytes 4 c.toNat) := rfl

theorem Dev.recorded_eq {d : Dev} {k : Completion} {rest : List Completion} {c : W32} (host : d.rcbLoc = false) (hostRing : d.ringLoc 1 = false) :
    ((Dev.locWr { d with jfe := { d.jfe with cq := rest, held := 0, lastCseq := c } } (d.ringLoc 1) (d.ringSlot 1 c.toNat) (k.bytes c)).setReg
      JFE_LAST_COMPLETED_CSEQ c).rcbWrite 4 c.toNat = d.recorded k rest c := by
  obtain ⟨p, hp⟩ : ∃ p : Dev, p = (Dev.hostPut { d with jfe := { d.jfe with cq := rest, held := 0, lastCseq := c } } (d.ringSlot 1 c.toNat) (k.bytes c)).setReg
    JFE_LAST_COMPLETED_CSEQ c := ⟨_, rfl⟩
  have reg (r : Nat) (other : r ≠ JFE_LAST_COMPLETED_CSEQ) : p.reg r = d.reg r := by
    rw [hp]
    exact Dev.reg_setReg_ne _ _ other
  have base : p.rcbBase = d.rcbBase := by
    rw [Dev.rcbBase, Dev.rn, Dev.rn, reg _ (by decide), reg _ (by decide)]
    rfl
  have loc : p.rcbLoc = false := (Dev.rbit_congr (reg _ (by decide)) _).trans host
  have first : (Dev.locWr { d with jfe := { d.jfe with cq := rest, held := 0, lastCseq := c } } (d.ringLoc 1) (d.ringSlot 1 c.toNat) (k.bytes c)).setReg
      JFE_LAST_COMPLETED_CSEQ c = p := by
    rw [hostRing, hp]
    rfl
  rw [first, Dev.rcbWrite, loc, base, Dev.recorded, ← hp]
  rfl

/-- The oldest held record is written, and the context that it ended has its CSEQ. -/
theorem Dev.writeRecord_writes {d : Dev} {k : Completion} {rest : List Completion} {c : W32} (queue : d.jfe.cq = k :: rest) (held : d.jfe.held = 1)
    (on : d.ringOn 1 = true) (link : d.ringLink 1 = true) (host : d.rcbLoc = false) (hostRing : d.ringLoc 1 = false) (next : c = d.jfe.lastCseq + 1)
    (room : sub32 c.toNat (d.rcbRead 8) ≤ d.ringN 1) :
    ∃ f, d.writeRecord = (f.ringCount 2 1).noteRecord (f.vectorOf k.part) k.notify ∧ (d.recorded k rest c).SameRings f ∧ f.jfe.held = 0 ∧
      (k.ctx < 4096 → (d.ctx k.ctx).state = .free → (d.ctx k.ctx).seq = k.seq → f.ctx k.ctx = { d.ctx k.ctx with cseq := c }) := by
  obtain ⟨w, hw⟩ : ∃ w : Dev, w = d.recorded k rest c := ⟨_, rfl⟩
  have go : ¬ (d.jfe.held = 0 ∨ (!d.ringOn 1) = true ∨ (!d.ringLink 1) = true ∨ d.ringN 1 < sub32 c.toNat (d.rcbRead 8)) := by
    rintro (none | off | down | full)
    · exact absurd (held.symm.trans none) (by decide)
    · exact absurd off (by rw [on]; decide)
    · exact absurd down (by rw [link]; decide)
    · exact Nat.not_lt.mpr room full
  have ctx : w.ctx k.ctx = d.ctx k.ctx := by rw [hw]; rfl
  refine ⟨if k.ctx < 4096 ∧ (w.ctx k.ctx).state = .free ∧ (w.ctx k.ctx).seq = k.seq then w.putCtx k.ctx { w.ctx k.ctx with cseq := c } else w, ?_, ?_, ?_, ?_⟩
  · have less : d.jfe.held - 1 = 0 := by rw [held]
    simp only [Dev.writeRecord, queue, ← next, if_neg go, less, Dev.recorded_eq host hostRing, hw]
  · rw [← hw]
    split
    · exact w.putCtx_sameRings _ _
    · exact Dev.SameRings.refl w
  · have none : w.jfe.held = 0 := by
      rw [hw]
      rfl
    split
    · exact (w.putCtx_held _ _).trans none
    · exact none
  · intro low free seq
    rw [if_pos ⟨low, (congrArg Ctx.state ctx).trans free, (congrArg Ctx.seq ctx).trans seq⟩, Dev.ctx_putCtx_same, ctx]

theorem Dev.ringCount_noteRecord_noted (d : Dev) (v : Nat) (notify : Bool) : d.Noted ((d.ringCount 2 1).noteRecord v notify) := by
  have counted := d.ringCount_gau 2 1
  obtain ⟨g, hg⟩ : ∃ g, g = (d.ringCount 2 1).gau := ⟨_, rfl⟩
  rw [counted, ← hg]
  obtain ⟨hostMem, ctx, accepted, cq, held, lastCseq, ev, lost, reg⟩ := Dev.noteRecord_noted { d with gau := g } v notify
  exact ⟨hostMem, ctx, accepted, cq, held, lastCseq, ev, lost, reg⟩

theorem Dev.SameRings.reg {d e : Dev} (h : d.SameRings e) (k : Nat) : e.reg k = d.reg k := Dev.reg_congr h.regs h.hw k

theorem Dev.SameRings.ringSlot {d e : Dev} (h : d.SameRings e) (r n : Nat) : e.ringSlot r n = d.ringSlot r n := by
  simp only [Dev.ringSlot, Dev.ringBase, h.start, Dev.ringN, Dev.rf, Dev.rn, h.reg]

theorem Dev.SameRings.rcbBase {d e : Dev} (h : d.SameRings e) : e.rcbBase = d.rcbBase := by simp only [Dev.rcbBase, Dev.rn, h.reg]

/-- COMPLETION_RECORD_WRITE with an empty hold buffer and room in the ring (R180, R181). -/
theorem Dev.recordStep_writes {d : Dev} {k : Completion} {rest : List Completion} {c : W32} (queue : d.jfe.cq = k :: rest) (empty : d.jfe.held = 0)
    (on : d.ringOn 1 = true) (link : d.ringLink 1 = true) (host : d.rcbLoc = false) (hostRing : d.ringLoc 1 = false) (next : c = d.jfe.lastCseq + 1)
    (room : sub32 c.toNat (d.rcbRead 8) ≤ d.ringN 1) :
    d.recordStep.jfe.cq = rest ∧ d.recordStep.jfe.held = 0 ∧ d.recordStep.jfe.lastCseq = c ∧ d.recordStep.reg JFE_LAST_COMPLETED_CSEQ = c ∧
      (k.ctx < 4096 → (d.ctx k.ctx).state = .ending → (d.ctx k.ctx).seq = k.seq →
        (d.recordStep.ctx k.ctx).state = .free ∧ (d.recordStep.ctx k.ctx).cseq = c) ∧
      d.recordStep.hostMem = ((d.hostPut (d.ringSlot 1 c.toNat) (k.bytes c)).hostPut (d.rcbBase + 4) (leBytes 4 c.toNat)).hostMem := by
  obtain ⟨enters, one, freed⟩ := Dev.admitRecord_enters queue empty
  obtain ⟨a, ha⟩ : ∃ a, a = d.admitRecord := ⟨_, rfl⟩
  rw [← ha] at enters one freed
  have reg (r : Nat) : a.reg r = d.reg r := enters.reg r
  have rcb : a.rcbRead 8 = d.rcbRead 8 := by
    have loc : a.rcbLoc = false := (Dev.rbit_congr (reg _) _).trans host
    simp only [Dev.rcbRead, host, loc, enters.rcbBase, Dev.locRd, Dev.hostBytes, enters.hostMem, Bool.not_false, if_true]
  obtain ⟨f, writes, same, none, ctx⟩ := Dev.writeRecord_writes (d := a) (k := k) (rest := rest) (c := c) (enters.cq.trans queue) one
    ((Dev.rbit_congr (reg _) _).trans on) (by rw [← link, Dev.ringLink, Dev.ringLink, enters.link, Dev.ringLoc, Dev.ringLoc, Dev.rbit_congr (reg _)])
    ((Dev.rbit_congr (reg _) _).trans host) ((Dev.rbit_congr (reg _) _).trans hostRing) (by rw [enters.lastCseq]; exact next)
    (by rw [rcb, Dev.ringN, Dev.rf, Dev.rn, reg]; exact room)
  obtain ⟨g, hg⟩ : ∃ g, g = a.writeRecord := ⟨_, rfl⟩
  have noted : f.Noted g := by
    rw [hg, writes]
    exact f.ringCount_noteRecord_noted _ _
  have step : d.recordStep = { g with jfe := { g.jfe with stallTold := false } } := by
    have roomy : g.holdFull = false := by
      rw [Dev.holdFull, noted.held, none]
      rfl
    simp only [Dev.recordStep, ← ha, ← hg, roomy, Bool.not_false, if_true]
  rw [step]
  refine ⟨noted.cq.trans same.cq, noted.held.trans none, noted.lastCseq.trans same.lastCseq, ?_, fun low ending seq => ?_, ?_⟩
  · exact (noted.reg _ (by decide)).trans ((same.reg _).trans (Dev.reg_setReg _ _ _))
  · have now := freed low ending seq
    have e : g.ctx k.ctx = { a.ctx k.ctx with cseq := c } := (noted.ctx _).trans (ctx low (by rw [now]) (by rw [now]; exact seq))
    rw [now] at e
    exact ⟨congrArg Ctx.state e, congrArg Ctx.cseq e⟩
  · refine noted.hostMem.trans (same.hostMem.trans ?_)
    rw [Dev.recorded_hostMem, enters.rcbBase, enters.ringSlot, enters.hostMem, Dev.hostPut_hostMem, Dev.hostPut_hostMem]

/-! ### Event records (R21, R183) -/

theorem Dev.writeEvent_writes {d : Dev} {x : Event} (host : d.rcbLoc = false) (hostRing : d.ringLoc 2 = false) :
    Dev.Noted ((d.hostPut (d.ringSlot 2 x.seq.toNat) x.bytes).hostPut (d.rcbBase + 0xC) (leBytes 4 x.seq.toNat)) (d.writeEvent x) := by
  obtain ⟨p, hp⟩ : ∃ p, p = d.hostPut (d.ringSlot 2 x.seq.toNat) x.bytes := ⟨_, rfl⟩
  have slot : d.locWr (d.ringLoc 2) (d.ringSlot 2 x.seq.toNat) x.bytes = p := by
    rw [hostRing, hp]
    rfl
  have base : p.rcbBase = d.rcbBase := by
    rw [hp]
    rfl
  have loc : p.rcbLoc = false := by
    rw [hp]
    exact host
  have write : p.rcbWrite 0xC x.seq.toNat = p.hostPut (d.rcbBase + 0xC) (leBytes 4 x.seq.toNat) := by
    rw [Dev.rcbWrite, loc, base]
    rfl
  rw [Dev.writeEvent, slot, write, ← hp]
  exact Dev.noteRecord_noted _ _ _

/-- EVENT_RECORD_WRITE, where no discard waits to be told: the oldest record is written, or discarded where the ring is full. -/
theorem Dev.eventStep_of_untold {d : Dev} {x : Event} {rest : List Event} (queue : d.jfe.ev = x :: rest) (told : d.jfe.lost = 0) (on : d.ringOn 2 = true)
    (link : d.ringLink 2 = true) :
    d.eventStep = if sub32 x.seq.toNat (d.rcbRead 0x10) ≤ d.ringN 2 then Dev.writeEvent { d with jfe := { d.jfe with ev := rest } } x
      else { d with jfe := { d.jfe with ev := rest, lost := 1, lostFirst := x.seq } } := by
  simp only [Dev.eventStep, on, link, Bool.not_true, Bool.or_self, Bool.false_eq_true, if_false, queue, told, ne_eq, not_true_eq_false, false_and,
    decide_eq_true_eq, Nat.zero_add, if_true]

theorem Dev.eventStep_writes {d : Dev} {x : Event} {rest : List Event} (queue : d.jfe.ev = x :: rest) (told : d.jfe.lost = 0) (on : d.ringOn 2 = true)
    (link : d.ringLink 2 = true) (host : d.rcbLoc = false) (hostRing : d.ringLoc 2 = false) (room : sub32 x.seq.toNat (d.rcbRead 0x10) ≤ d.ringN 2) :
    d.eventStep.jfe.ev = rest ∧ d.eventStep.jfe.lost = 0 ∧
      d.eventStep.hostMem = ((d.hostPut (d.ringSlot 2 x.seq.toNat) x.bytes).hostPut (d.rcbBase + 0xC) (leBytes 4 x.seq.toNat)).hostMem := by
  rw [Dev.eventStep_of_untold queue told on link, if_pos room]
  have noted := Dev.writeEvent_writes (d := { d with jfe := { d.jfe with ev := rest } }) (x := x) host hostRing
  exact ⟨noted.ev, noted.lost.trans told, noted.hostMem⟩

/-! ### Coalescing (R185) -/

theorem Dev.coalesceFx_due {d : Dev} {v t : Nat} (low : v < 17) (oldest : FMap.get none d.jfe.coalTick v = some t)
    (due : t + ticksUs (d.rf (HOST_COAL v) 25 16) ≤ d.ticks) : d.coalesceFx v = d.signal v := by
  simp only [Dev.coalesceFx, oldest, low, due, and_self, if_true]

/-! ### The statement -/

/-- Settles O36: each command is one of the operations above, on the device without the last command's outputs. -/
theorem ringAndRecordResults : Obligations.RingAndRecordResults := by
  unfold Obligations.RingAndRecordResults
  intro s host
  replace host : s.dev.fresh.serves .host = true := host
  refine ⟨fun w r v ring off enable => ⟨fun free => ?on, fun x fault => ?refused⟩, fun w v on enable => ?pause, fun w v => ?low, fun w v => ?high,
    fun q a on runs link free room batch read seq format known => ?poll, fun q k rest queue empty on link rcb ring room => ?completion,
    fun q x rest queue told on link rcb ring => ⟨fun room => ?event, fun full => ?discard⟩, fun v t low oldest due open_ up d0 bme => ?coalesce⟩
  case on =>
    obtain ⟨on, sq, cq, eq, frame, accepted, records, events⟩ := Dev.ringStartUp_of_free (d := s.dev.fresh.setNat (ringCfg r) _) ring free
    refine ans_run (g := fun d => if 3 ≤ r then d else d.writeReg w (ringCfg r) v) ?_
    rw [if_neg (by omega), Dev.writeReg_ringCfg host ring, Dev.ringCfgWrite_of_off (d := s.dev.fresh) off enable]
    have start (r : Nat) (n : Nat) : (s.dev.fresh.setNat (ringCfg r) n).reg (ringCfg r + 4) = s.dev.fresh.reg (ringCfg r + 4) :=
      Dev.reg_setNat_ne _ _ (ringCfg_ne r).2.2
    refine ⟨on, fun h => ?_, fun h => ?_, fun h => ?_, frame, accepted, records, events⟩
    · subst h
      obtain ⟨a, b, c⟩ := sq rfl
      rw [start] at a b c
      exact ⟨a, b, c⟩
    · subst h
      obtain ⟨a, b, c⟩ := cq rfl
      rw [start] at a b c
      exact ⟨a, b, c⟩
    · subst h
      exact (eq rfl).trans (start 2 _)
  case refused =>
    refine ans_run (g := fun d => if 3 ≤ r then d else d.writeReg w (ringCfg r) v) ?_
    rw [if_neg (by omega), Dev.writeReg_ringCfg host ring, Dev.ringCfgWrite_of_off (d := s.dev.fresh) off enable]
    exact Dev.ringStartUp_of_fault fault
  case pause =>
    refine ans_run (g := fun d => d.writeReg w (ringCfg 0) v) ?_
    rw [Dev.writeReg_ringCfg host (by decide)]
    exact Dev.ringCfgWrite_of_on on enable
  case low =>
    refine ans_run (g := fun d => d.writeReg w HOST_WIN_BASE_LO v) ?_
    rw [Dev.writeReg_winBaseLo host]
    exact ⟨rfl, Dev.reg_setReg _ _ _, rfl⟩
  case high =>
    refine ans_run (g := fun d => d.writeReg w HOST_WIN_BASE_HI v) ?_
    rw [Dev.writeReg_winBaseHi host]
    exact ⟨Dev.winWrite_outside, Dev.winWrite_hi⟩
  case poll => exact ans_run (g := fun d => (d.hostTake q).poll) (Dev.poll_accepts (d := s.dev.fresh.hostTake q) on runs link free room batch read seq format known)
  case completion => exact ans_set (g := fun d => (d.hostTake q).recordStep) (Dev.recordStep_writes (d := s.dev.fresh.hostTake q) queue empty on link rcb ring rfl room)
  case event => exact ans_run (g := fun d => (d.hostTake q).eventStep) (Dev.eventStep_writes (d := s.dev.fresh.hostTake q) queue told on link rcb ring room)
  case discard =>
    exact ans_run (g := fun d => (d.hostTake q).eventStep) ((Dev.eventStep_of_untold (d := s.dev.fresh.hostTake q) queue told on link).trans (if_neg (Nat.not_le.mpr full)))
  case coalesce =>
    exact ans_run (g := fun d => d.coalesceFx v) ((Dev.coalesceFx_due (d := s.dev.fresh) low oldest due).trans (Dev.msix_sent open_ up d0 bme))

end Sys2Proof.Machine
end

section
/-! SUPPORT. What leaves the frame that runs as it is (R144, R209): the Quadrille, the frame's origin and counts, and the bindings that wait. -/
namespace Sys2Proof.Machine

/-- The frame that runs, and what waits for the next, are the same. -/
structure Dev.SameFrame (d e : Dev) : Prop where
  quad : e.jfe.quad = d.jfe.quad
  quadNext : e.jfe.quadNext = d.jfe.quadNext
  origin : e.jfe.origin = d.jfe.origin
  frameCount : e.jfe.frameCount = d.jfe.frameCount
  frames : e.jfe.frames = d.jfe.frames
  done : e.jfe.done = d.jfe.done
  warmup : e.jfe.warmup = d.jfe.warmup
  waiting : e.jfe.waiting = d.jfe.waiting
  opened : e.jfe.opened = d.jfe.opened

/-- A part has at most four Course dies (R23). -/
theorem Hw.dies_le (h : Hw) : h.dies ≤ 4 := by
  unfold Hw.dies
  split <;> decide

namespace Dev

variable {d e f : Dev}

theorem SameFrame.trans (h : d.SameFrame e) (k : e.SameFrame f) : d.SameFrame f :=
  ⟨k.quad.trans h.quad, k.quadNext.trans h.quadNext, k.origin.trans h.origin, k.frameCount.trans h.frameCount, k.frames.trans h.frames,
    k.done.trans h.done, k.warmup.trans h.warmup, k.waiting.trans h.waiting, k.opened.trans h.opened⟩

/-- A change outside the job front-end. -/
theorem SameFrame.of_jfe (h : e.jfe = d.jfe) : d.SameFrame e := by
  constructor <;> rw [h]

theorem SameFrame.after (k : e.SameFrame f) (h : e.jfe = d.jfe) : d.SameFrame f := (SameFrame.of_jfe h).trans k

theorem SameFrame.refl (d : Dev) : d.SameFrame d := .of_jfe rfl

theorem SameFrame.foldl {β : Type} {g : Dev → β → Dev} (h : ∀ (d : Dev) b, d.SameFrame (g d b)) (l : List β) (d : Dev) : d.SameFrame (l.foldl g d) :=
  List.foldlRecOn (motive := fun e => d.SameFrame e) l g (.refl d) fun e he b _ => he.trans (h e b)

theorem SameFrame.doneIf {p : Prop} [Decidable p] (h : d.SameFrame e) : d.SameFrame (if p then e else d) := by
  split
  · exact h
  · exact .refl d

theorem SameFrame.doneUnless {p : Prop} [Decidable p] (h : d.SameFrame e) : d.SameFrame (if p then d else e) := by
  split
  · exact .refl d
  · exact h

theorem SafetyOnly.sameFrame (h : d.SafetyOnly e) : d.SameFrame e := by
  have jfe : e.jfe = { d.jfe with squash := e.jfe.squash, ev := e.jfe.ev, evSeq := e.jfe.evSeq } := congrArg Dev.jfe h.eq
  constructor <;> rw [jfe]

theorem MemOnly.sameFrame (h : d.MemOnly e) : d.SameFrame e := h.safetyOnly.sameFrame

theorem emit_sameFrame (d : Dev) (b : Block) (code sev a0 a1 : Nat) : d.SameFrame (d.emit b code sev a0 a1) :=
  (d.emit_safetyOnly b code sev a0 a1).sameFrame

theorem quoinEvent_safetyOnly (d : Dev) (code sev a0 a1 : Nat) : d.SafetyOnly (d.quoinEvent code sev a0 a1) :=
  d.eachQuoin_safetyOnly fun d _ => d.emit_safetyOnly _ _ _ _ _

/-! ### Contexts that end, and semaphores that are given back (R109, R148) -/

theorem limited_sameFrame (d : Dev) (key gap : Nat) {g : Nat → Dev → Dev} (h : ∀ n (d : Dev), d.SameFrame (g n d)) : d.SameFrame (d.limited key gap g) := by
  unfold limited
  split
  · split
    · exact .of_jfe rfl
    · exact (h _ _).after rfl
  · exact (h _ _).after rfl

theorem putCore_jfe (d : Dev) (g : Nat) (k : Core) : (d.putCore g k).jfe = d.jfe := by rw [putCore_cores]

theorem haltCore_sameFrame (d : Dev) (g cause : Nat) : d.SameFrame (d.haltCore g cause) :=
  (limited_sameFrame _ _ _ fun _ d => d.emit_sameFrame _ _ _ _ _).after (d.putCore_jfe g _)

theorem arrive_sameFrame (d : Dev) (g : Nat) : d.SameFrame (d.arrive g) := by
  unfold arrive
  dsimp only
  split
  · exact d.haltCore_sameFrame g 2
  · exact .refl d

theorem wake_sameFrame (d : Dev) (g : Nat) (r : Regs → Regs) : d.SameFrame (d.wake g r) :=
  (arrive_sameFrame _ g).after (d.putCore_jfe g _)

theorem grantSem_sameFrame (d : Dev) (n : Nat) : d.SameFrame (d.grantSem n) := by
  unfold grantSem
  dsimp only
  split
  · exact (wake_sameFrame _ _ _).after (by rw [blkCount_gau]; rfl)
  · exact .refl d

theorem releaseSem_sameFrame (d : Dev) (n : Nat) (poison : Bool) : d.SameFrame (d.releaseSem n poison) :=
  (grantSem_sameFrame _ n).after rfl

theorem setCtx_sameFrame (d : Dev) (c : Nat) (x : Ctx) : d.SameFrame (d.setCtx c x) := ⟨rfl, rfl, rfl, rfl, rfl, rfl, rfl, rfl, rfl⟩

theorem putCtx_sameFrame (d : Dev) (c : Nat) (x : Ctx) : d.SameFrame (d.putCtx c x) := (d.setCtx_sameFrame c x).trans (d.putCtx_memOnly c x).sameFrame

theorem leaveEpoch_sameFrame (d : Dev) (c : Nat) : d.SameFrame (d.leaveEpoch c) := by
  unfold leaveEpoch
  split
  · exact ⟨rfl, rfl, rfl, rfl, rfl, rfl, rfl, rfl, rfl⟩
  · exact .refl d

theorem complete_sameFrame (d : Dev) (k : Completion) : d.SameFrame (d.complete k) := ⟨rfl, rfl, rfl, rfl, rfl, rfl, rfl, rfl, rfl⟩

theorem dropSaves_sameFrame (d : Dev) (c : Nat) : d.SameFrame (d.dropSaves c) := ⟨rfl, rfl, rfl, rfl, rfl, rfl, rfl, rfl, rfl⟩

theorem dropTickets_sameFrame (d : Dev) (c : Nat) : d.SameFrame (d.dropTickets c) := .of_jfe rfl

theorem endCtx_sameFrame (d : Dev) (c : Nat) (status : BitVec 8) : d.SameFrame (d.endCtx c status) := by
  unfold endCtx
  dsimp only
  refine SameFrame.trans ?_ (resolverGone_memOnly _ _).sameFrame
  refine SameFrame.trans ?_ (complete_sameFrame _ _)
  refine SameFrame.trans ?_ (putCtx_sameFrame _ c _)
  refine SameFrame.trans ?_ (dropTickets_sameFrame _ c)
  refine SameFrame.trans ?_ (dropSaves_sameFrame _ c)
  refine SameFrame.trans ?_ (leaveEpoch_sameFrame _ c)
  exact (d.closeUnclosed_safetyOnly _ _ _).sameFrame.trans (writerLost_memOnly _ c status).sameFrame

theorem rerun_sameFrame (d : Dev) (c : Nat) : d.SameFrame (d.rerun c) := by
  unfold rerun
  dsimp only
  generalize hd2 : emit _ _ _ _ _ _ = d2
  have reset : d.SameFrame d2 := by
    rw [← hd2]
    refine SameFrame.trans ?_ (emit_sameFrame _ _ _ _ _ _)
    refine SameFrame.trans ?_ (putCtx_sameFrame _ _ _)
    exact ((leaveEpoch_sameFrame d c).trans (dropSaves_sameFrame _ c)).trans (dropTickets_sameFrame _ c)
  split
  · exact reset.trans (endCtx_sameFrame _ _ _)
  · exact reset

theorem endOrRerun_sameFrame (d : Dev) (c : Nat) (status : BitVec 8) : d.SameFrame (d.endOrRerun c status) := by
  unfold endOrRerun
  dsimp only
  split
  · exact d.rerun_sameFrame c
  · exact d.endCtx_sameFrame c status

theorem giveUp_sameFrame (d : Dev) (c : Nat) (status : BitVec 8) : d.SameFrame (((d.voidReservations c).dropEngines c).completeTickets c status) :=
  .of_jfe (d.giveUp_frame c status).1

theorem bump_sameFrame (d : Dev) (a n : Nat) : d.SameFrame (d.bump a n) := .of_jfe rfl

theorem recordsEdited_sameFrame (d : Dev) (q : List Completion) : d.SameFrame { d with jfe := { d.jfe with cq := q } } :=
  ⟨rfl, rfl, rfl, rfl, rfl, rfl, rfl, rfl, rfl⟩

theorem trigger_sameFrame (d : Dev) (c : Nat) (status : BitVec 8) (storage : Bool) : d.SameFrame (d.trigger c status storage) := by
  have stopped (l : List Nat) (d : Dev) : d.SameFrame (l.foldl (fun d g => (d.stopCore g).detach g) d) := .of_jfe (stopAll_stops l d).ctxs
  unfold trigger
  dsimp only
  split
  · exact .refl d
  · exact SameFrame.doneIf (setCtx_sameFrame _ _ _)
  · refine SameFrame.doneIf ?_
    exact (putCtx_sameFrame _ _ _).trans (recordsEdited_sameFrame _ _)
  · split
    · refine SameFrame.trans ?_ (giveUp_sameFrame _ c status)
      have down (x : Ctx) : d.SameFrame ((d.writerLost c status).putCtx c x) :=
        (writerLost_memOnly _ _ _).sameFrame.trans (putCtx_sameFrame _ c x)
      split
      · exact ((down _).trans (stopped _ _)).trans (bump_sameFrame _ _ _)
      · exact (down _).trans (stopped _ _)
    · exact (setCtx_sameFrame _ _ _).trans (endOrRerun_sameFrame _ _ _)

/-! ### What a frame boundary does (R140, R144, R209, R354, R424, R450, R460) -/

theorem applyPart_sameFrame (d : Dev) (p : Part) : d.SameFrame (d.applyPart p) := by
  unfold applyPart
  dsimp only
  have checked (d : Dev) (c : Nat) :
      d.SameFrame (if (d.ctx c).state = .queued ∧ (d.ctx c).part = p.index ∧ !d.stillFits c then d.endCtx c stInvalidDesc else d) := by
    split
    · exact d.endCtx_sameFrame _ _
    · exact .refl d
  refine SameFrame.trans ?_ (SameFrame.foldl (fun d (e : Nat × Ctx) => checked d e.1) _ _)
  refine SameFrame.trans ?_ (SameFrame.foldl (fun d n => d.releaseSem_sameFrame n false) _ _)
  exact ⟨rfl, rfl, rfl, rfl, rfl, rfl, rfl, rfl, rfl⟩

theorem portPools_sameFrame (d : Dev) (n p : Nat) : d.SameFrame (d.portPools n p) := by
  unfold portPools
  dsimp only
  split
  · exact d.emit_sameFrame _ _ _ _ _
  · exact .of_jfe rfl

theorem applyPools_sameFrame (d : Dev) : d.SameFrame d.applyPools :=
  SameFrame.foldl (fun d n => SameFrame.foldl (fun d p => d.portPools_sameFrame n p) _ d) _ d

theorem endIsolation_sameFrame (d : Dev) (u : Nat) : d.SameFrame (d.endIsolation u) := by
  unfold endIsolation
  split
  · exact (emit_sameFrame _ _ _ _ _ _).after rfl
  · exact .refl d

theorem linkUpAgain_sameFrame (d : Dev) (n p : Nat) : d.SameFrame (d.linkUpAgain n p) := (emit_sameFrame _ _ _ _ _ _).after rfl

theorem layerBack_jfe (d : Dev) (s l : Nat) : (d.layerBack s l).jfe = d.jfe := by
  unfold layerBack
  dsimp only
  split <;> rfl

theorem SameFrame.toldIf (h : d.SameFrame e) {told : Prop} [Decidable told] {code sev a0 a1 : Nat} :
    d.SameFrame (if told then e.quoinEvent code sev a0 a1 else e) := by
  split
  · exact h.trans (quoinEvent_safetyOnly _ _ _ _ _).sameFrame
  · exact h

theorem readmit_sameFrame (d : Dev) (u : Nat) : d.SameFrame (d.readmit u) := by
  unfold readmit
  dsimp only
  generalize hd1 : endIsolation _ u = d1
  have lifted : d.SameFrame d1 := by
    rw [← hd1]
    refine SameFrame.trans ?_ (endIsolation_sameFrame _ u)
    refine SameFrame.after (SameFrame.foldl (g := fun d u => d.liftFence u) (fun _ _ => .of_jfe rfl) _ _) rfl
  refine lifted.trans (SameFrame.toldIf ?_)
  split
  · exact .of_jfe rfl
  · split <;> exact .of_jfe rfl
  · split
    · exact d1.linkUpAgain_sameFrame _ _
    · exact .refl d1
  · split
    · exact .of_jfe (d1.layerBack_jfe _ _)
    · exact .refl d1
  · split <;> exact .of_jfe rfl
  · exact .refl d1

theorem testAnswer_sameFrame (d : Dev) (r : PavReq) (code : Nat) : d.SameFrame (d.testAnswer r code) :=
  (d.emit_sameFrame _ _ _ _ _).trans (complete_sameFrame _ _)

theorem endTest_sameFrame (d : Dev) (r : PavReq) (code : Nat) : d.SameFrame (d.endTest r code) := (testAnswer_sameFrame _ r code).after rfl

theorem mirrorsBack_jfe (d : Dev) : d.mirrorsBack.jfe = d.jfe := by
  refine List.foldlRecOn (motive := fun e : Dev => e.jfe = d.jfe) _ _ rfl fun e he m _ => ?_
  split
  · split
    · exact he
    · split
      · exact he
      · exact he
      · exact he
  · exact he

theorem testBoundary_sameFrame (d : Dev) : d.SameFrame d.testBoundary := by
  refine SameFrame.foldl (fun d r => ?_) _ d
  dsimp only
  split
  · refine SameFrame.trans ?_ (.of_jfe (mirrorsBack_jfe _))
    exact (SameFrame.foldl readmit_sameFrame _ _).trans (endTest_sameFrame _ _ _)
  · split
    · exact .refl d
    · split
      · exact d.endTest_sameFrame _ _
      · exact .of_jfe rfl

theorem setQuoin_jfe (d : Dev) (q : Nat) (x : Quoin) : (d.setQuoin q x).jfe = d.jfe := by
  unfold setQuoin
  split <;> rfl

theorem leaveSafe_sameFrame (d : Dev) (q : Nat) : d.SameFrame (d.leaveSafe q) := (emit_sameFrame _ _ _ _ _ _).after (d.setQuoin_jfe q _)

theorem takeTable_sameFrame (d : Dev) (t : StreamTable) : d.SameFrame (d.takeTable t) :=
  (quoinEvent_safetyOnly _ _ _ _ _).sameFrame.after ((setQuoin_jfe _ 1 _).trans ((setQuoin_jfe _ 0 _).trans rfl))

theorem settleLoss_jfe (d : Dev) : d.settleLoss.jfe = d.jfe := by
  unfold settleLoss
  split <;> rfl

/-- The device with the stream table that both Quoins wait for, where they hold the same. -/
def tableTaken (d : Dev) : Dev := match d.qn.a.pending, d.qn.b.pending with
  | some s, some t => if s.digest = t.digest ∧ d.qn.a.live ∧ d.qn.b.live then d.takeTable s else d
  | _, _ => d

theorem tableTaken_sameFrame (d : Dev) : d.SameFrame d.tableTaken := by
  unfold tableTaken
  split
  · split
    · exact d.takeTable_sameFrame _
    · exact .refl d
  · exact .refl d

/-- Both Quoins are asked to leave the safe state. -/
def exitDue (d : Dev) : Bool := d.qn.a.live && d.qn.b.live && d.qn.a.exitAsked && d.qn.b.exitAsked

/-- The safe state is left at both Quoins. -/
def safeLeft (d : Dev) : Dev :=
  (Dev.statusBoth { (d.leaveSafe 0).leaveSafe 1 with qn := { ((d.leaveSafe 0).leaveSafe 1).qn with exitTick := some ((d.leaveSafe 0).leaveSafe 1).ticks } }).settleLoss

/-- Both Quoins refuse to leave it. -/
def exitRefused (d : Dev) : Dev :=
  (d.modQuoin 0 (fun x => { x with exitAsked := false, result := 5 })).modQuoin 1 (fun x => { x with exitAsked := false, result := 5 })

theorem quoinBoundary_eq (d : Dev) : d.quoinBoundary =
    if !d.tableTaken.exitDue then d.tableTaken
    else if d.tableTaken.exitOk 0 && d.tableTaken.exitOk 1 then d.tableTaken.safeLeft else d.tableTaken.exitRefused := rfl

theorem safeLeft_sameFrame (d : Dev) : d.SameFrame d.safeLeft := by
  refine SameFrame.trans ?_ (.of_jfe (settleLoss_jfe _))
  refine SameFrame.trans ?_ (statusBoth_safetyOnly _).sameFrame
  exact ((d.leaveSafe_sameFrame 0).trans (leaveSafe_sameFrame _ 1)).trans (.of_jfe rfl)

theorem quoinBoundary_sameFrame (d : Dev) : d.SameFrame d.quoinBoundary := by
  rw [quoinBoundary_eq]
  refine d.tableTaken_sameFrame.trans ?_
  split
  · exact .refl _
  · split
    · exact safeLeft_sameFrame _
    · exact .of_jfe ((setQuoin_jfe _ 1 _).trans (setQuoin_jfe _ 0 _))

/-! ### Power that a switch lets go of (R460) -/

theorem domainDown_jfe {k : Nat} (gated : k < 40) (d : Dev) : (d.domainDown k).jfe = d.jfe := by
  unfold domainDown
  dsimp only
  rw [if_neg (Nat.not_le.mpr gated)]
  generalize hd2 : (if k % 10 = 9 then d.setDomain k false else _) = d2
  have uncovered : d2.jfe = d.jfe := by
    rw [← hd2]
    split
    · rfl
    · exact List.foldlRecOn (motive := fun e : Dev => e.jfe = d.jfe) _ _ rfl fun e he p _ => he
  rw [← uncovered]
  split
  · exact List.foldlRecOn (motive := fun e : Dev => e.jfe = d2.jfe) _ _ rfl fun e he g _ => he
  · split
    · exact List.foldlRecOn (motive := fun e : Dev => e.jfe = d2.jfe) _ _ rfl fun e he g _ => he
    · rfl

theorem regate_jfe (d : Dev) (off : Nat → Bool) : (d.regate off).jfe = d.jfe := by
  unfold regate
  split
  · rfl
  · refine List.foldlRecOn (motive := fun e : Dev => e.jfe = d.jfe) _ _ rfl fun e he k hk => ?_
    have gated : k < 40 := by
      simp only [gatedDomains, List.mem_flatMap, List.mem_range, List.mem_map] at hk
      obtain ⟨n, hn, j, hj, rfl⟩ := hk
      have := d.hw.dies_le
      omega
    dsimp only
    split
    · split
      · exact he
      · exact he
    · split
      · exact (domainDown_jfe gated _).trans he
      · exact he

end Dev

end Sys2Proof.Machine
end

section
/-! SUPPORT. Figures and major-frame boundaries (R144–R147, R209): what the commands of the frame leave. -/
namespace Sys2Proof.Machine

namespace Dev

variable {d e : Dev}

/-! ### The boundary (R144, R209) -/

theorem decideBoth_safetyOnly (d : Dev) (reason : Nat) : d.SafetyOnly (d.decideBoth reason) :=
  (d.decideSafe_safetyOnly 0 reason).trans (decideSafe_safetyOnly _ 1 reason)

theorem stageBw_jfe (d : Dev) : d.stageBw.jfe = d.jfe := rfl

theorem recomputeStack_sameFrame (d : Dev) (k : Nat) : d.SameFrame (d.recomputeStack k) := by
  unfold recomputeStack
  extract_lets cap g0 g crit old d1 d2 wasCrit load d3 any qn d4
  have told : d.SameFrame d2 := SameFrame.after (SameFrame.foldl (fun d k => SameFrame.doneUnless (d.emit_sameFrame _ _ _ _ _)) _ d1) rfl
  clear_value d2
  have raised : d.SameFrame d3 := told.trans (d2.emit_sameFrame _ _ _ _ _)
  clear_value d3
  have critical : d.SameFrame d4 := raised.trans (.of_jfe rfl)
  clear_value d4
  split
  · exact told
  · split
    · exact critical.trans (decideBoth_safetyOnly _ _).sameFrame
    · exact critical

/-- The frame that begins, before the Quadrille: its origin, and the bindings that waited. -/
def frameBegun (d : Dev) : Dev :=
  let gone (e : Epoch) : Bool := e.state == EpochState.confirmed || e.state == EpochState.squashed
  let es := FMap.mapAll Epoch.free (fun _ (e : Epoch) => if gone e then Epoch.free else e) d.jfe.epochs
  Dev.applyWaiting { d with jfe := { d.jfe with epochs := es, origin := d.nextOrigin, done := [], frames := d.jfe.frames + 1 }, poisonTold := [] }

theorem frameCore_eq (d : Dev) : d.frameCore = match d.switchTo with
    | some q => d.frameBegun.switchQuad q
    | none => { d.frameBegun with jfe := { d.frameBegun.jfe with frameCount := d.frameBegun.jfe.frameCount + 1, warmup := d.frameBegun.jfe.warmup - 1 } } := rfl

theorem frameBegun_frame (d : Dev) : SameFrame { d with jfe := { d.jfe with origin := d.nextOrigin, done := [], frames := d.jfe.frames + 1, waiting := [] } } d.frameBegun := by
  unfold frameBegun applyWaiting
  dsimp only
  refine SameFrame.trans ?_ (SameFrame.foldl applyPart_sameFrame _ _)
  exact ⟨rfl, rfl, rfl, rfl, rfl, rfl, rfl, rfl, rfl⟩

theorem switchQuad_frame (d : Dev) (q : Quadrille) :
    SameFrame { d with jfe := { d.jfe with quad := some q, quadNext := none, frameCount := 0, warmup := 8 } } (d.switchQuad q) := by
  unfold switchQuad
  dsimp only
  refine SameFrame.trans ?_ (SameFrame.foldl (fun d _ => SameFrame.doneIf (d.endCtx_sameFrame _ _)) _ _)
  refine SameFrame.trans ?_ (SameFrame.foldl recomputeStack_sameFrame _ _)
  refine SameFrame.trans ?_ (.of_jfe (stageBw_jfe _))
  obtain ⟨-, -, origin, -, frames, done, -, waiting, opened⟩ := d.emit_sameFrame .jfe 0x0306 0 d.jfe.frameCount.toNat q.figures.length
  exact ⟨rfl, rfl, origin, rfl, frames, done, rfl, waiting, opened⟩

/-- What a boundary does after the frame has begun. -/
theorem frameFx_eq (due : d.boundaryDue = true) : ∃ f : Dev, d.frameCore.SameFrame f ∧ d.frameFx = f := by
  refine ⟨_, ?_, rfl⟩
  unfold frameFx
  rw [due]
  have ends : d.frameCore.SameFrame d.frameCore.applyPools.testBoundary.quoinBoundary :=
    (d.frameCore.applyPools_sameFrame.trans (testBoundary_sameFrame _)).trans (quoinBoundary_sameFrame _)
  rw [if_neg (by decide)]
  split
  · exact ends.trans (.of_jfe (regate_jfe _ _))
  · exact ends

theorem frameFx_frame (due : d.boundaryDue = true) :
    d.frameFx.jfe.origin = d.nextOrigin ∧ d.frameFx.jfe.done = [] ∧ d.frameFx.jfe.frames = d.jfe.frames + 1 ∧ d.frameFx.jfe.waiting = [] ∧
      (d.switchTo = none → d.frameFx.jfe.quad = d.jfe.quad ∧ d.frameFx.jfe.frameCount = d.jfe.frameCount + 1 ∧ d.frameFx.jfe.warmup = d.jfe.warmup - 1) ∧
      (∀ q, d.switchTo = some q → d.frameFx.jfe.quad = some q ∧ d.frameFx.jfe.quadNext = none ∧ d.frameFx.jfe.frameCount = 0 ∧ d.frameFx.jfe.warmup = 8) := by
  obtain ⟨f, same, eq⟩ := frameFx_eq due
  obtain ⟨bquad, -, borigin, bcount, bframes, bdone, bwarmup, bwaiting, -⟩ := d.frameBegun_frame
  rw [eq]
  cases switch : d.switchTo with
  | none =>
    rw [frameCore_eq, switch] at same
    exact ⟨same.origin.trans borigin, same.done.trans bdone, same.frames.trans bframes, same.waiting.trans bwaiting,
      fun _ => ⟨same.quad.trans bquad, same.frameCount.trans (congrArg (· + 1) bcount), same.warmup.trans (congrArg (· - 1) bwarmup)⟩, nofun⟩
  | some q =>
    rw [frameCore_eq, switch] at same
    obtain ⟨squad, snext, sorigin, scount, sframes, sdone, swarmup, swaiting, -⟩ := d.frameBegun.switchQuad_frame q
    refine ⟨same.origin.trans (sorigin.trans borigin), same.done.trans (sdone.trans bdone), same.frames.trans (sframes.trans bframes),
      same.waiting.trans (swaiting.trans bwaiting), nofun, fun r hr => ?_⟩
    rw [← Option.some.inj hr]
    exact ⟨same.quad.trans squad, same.quadNext.trans snext, same.frameCount.trans scount, same.warmup.trans swarmup⟩

end Dev

/-! ### Figures (R146, R147) -/

theorem CtxState.executes_iff {s : CtxState} : s.executes = true ↔ s = .running ∨ s = .yielding := by
  cases s <;> simp [CtxState.executes]

namespace Dev

variable {d : Dev}

theorem eachCtx_nil (h : d.ctxList = []) (f : Dev → Nat → Dev) : d.eachCtx f = d := by rw [eachCtx, h, List.foldl_nil]

theorem eachCtx_one {c : Nat} {x : Ctx} (h : d.ctxList = [(c, x)]) (f : Dev → Nat → Dev) : d.eachCtx f = f d c := by
  rw [eachCtx, h, List.foldl_cons, List.foldl_nil]

/-- A fold whose steps do nothing. -/
theorem foldl_still {β : Type} {f : Dev → β → Dev} {l : List β} (h : ∀ b ∈ l, f d b = d) : l.foldl f d = d :=
  List.foldlRecOn (motive := fun e => e = d) l f rfl fun _ same b mem => same ▸ h b mem

/-- The figure is open, and will not open again in this frame. -/
def withOpened (d : Dev) (i : Nat) : Dev := { d with jfe := { d.jfe with opened := d.jfe.opened ++ [i], done := d.jfe.done ++ [i] } }

section
variable {i : Nat} {f : Figure} (fig : d.figure i = some f)
include fig

section
variable (closed : i ∉ d.jfe.opened) (fresh : i ∉ d.jfe.done) (long : f.length ≠ 0) (due : d.jfe.origin + f.start ≤ d.clock)
include closed fresh long due

theorem figureOpenFx_of_other (other : f.type ≠ 0 ∨ d.ctxList = []) : d.figureOpenFx i = d.withOpened i := by
  simp only [figureOpenFx, fig, List.contains_eq_mem, closed, fresh, Nat.not_lt.2 due, decide_false, Bool.or_self, beq_eq_false_iff_ne.2 long,
    Bool.false_eq_true, if_false]
  split
  · rfl
  · next compute =>
    have none : (d.withOpened i).ctxList = [] := other.resolve_left fun h => compute h
    refine Eq.trans (congrArg (fun e => Dev.eachCtx e _) (eachCtx_nil none _)) ?_
    exact eachCtx_nil none _

theorem figureOpenFx_of_one {c : Nat} {x : Ctx} (compute : f.type = 0) (one : d.ctxList = [(c, x)]) (ctx : d.ctx c = x) (queued : x.state = .queued) :
    d.figureOpenFx i = if x.inv.figure = i ∨ (x.inv.figure = 0xFF ∧ f.covers x = true) then (d.withOpened i).release c i else d.withOpened i := by
  have same : (d.withOpened i).ctxList = [(c, x)] := one
  have found : (d.withOpened i).ctx c = x := ctx
  simp only [figureOpenFx, fig, List.contains_eq_mem, closed, fresh, Nat.not_lt.2 due, decide_false, Bool.or_self, beq_eq_false_iff_ne.2 long,
    Bool.false_eq_true, if_false, compute, ne_eq, not_true_eq_false]
  refine Eq.trans (congrArg (fun e => Dev.eachCtx e _) ((eachCtx_one same _).trans ?_)) ((eachCtx_one same _).trans ?_)
  · rw [found, queued]
    rfl
  · rw [found, queued]
    simp only [beq_self_eq_true, Bool.true_and, Bool.or_eq_true, Bool.and_eq_true, beq_iff_eq]

end

/-- The figure is closed. -/
def withClosed (d : Dev) (i : Nat) : Dev := { d with jfe := { d.jfe with opened := d.jfe.opened.erase i } }

/-- No epoch that the figure opened is left to squash. -/
def NoneOpened (d : Dev) (i : Nat) : Prop := ∀ e ∈ d.jfe.epochs, e.2.state ≠ .opened ∨ e.2.figure ≠ i

omit fig in
theorem squashEach_still (none : d.NoneOpened i) :
    d.jfe.epochs.foldl (fun (d : Dev) (e : Nat × Epoch) => if e.2.state == EpochState.opened && e.2.figure == i then d.squash e.1 0x02 else d) (d.withClosed i) =
      d.withClosed i := by
  refine foldl_still fun e mem => if_neg ?_
  rw [Bool.and_eq_true, beq_iff_eq, beq_iff_eq]
  exact fun both => (none e mem).elim (fun h => h both.1) fun h => h both.2

section
variable (opened : i ∈ d.jfe.opened) (due : d.jfe.origin + f.start + f.length ≤ d.clock)
include opened due

theorem figureCloseFx_of_other (other : f.type ≠ 0 ∨ (d.ctxList = [] ∧ d.NoneOpened i)) : d.figureCloseFx i = d.withClosed i := by
  simp only [figureCloseFx, fig, List.contains_eq_mem, opened, Nat.not_lt.2 due, decide_true, decide_false, Bool.not_true, Bool.or_self, Bool.false_eq_true,
    if_false]
  split
  · rfl
  · next compute =>
    obtain ⟨none, still⟩ := other.resolve_left fun h => compute h
    have empty : (d.withClosed i).ctxList = [] := none
    exact (congrArg (fun e => Dev.eachCtx e _) (squashEach_still still)).trans (eachCtx_nil empty _)

theorem figureCloseFx_of_one {c : Nat} {x : Ctx} (compute : f.type = 0) (still : d.NoneOpened i) (one : d.ctxList = [(c, x)]) (ctx : d.ctx c = x)
    (inFigure : x.figure = some i) (executes : x.state.executes = true) : d.figureCloseFx i = (d.withClosed i).trigger c stDroppedLate := by
  have same : (d.withClosed i).ctxList = [(c, x)] := one
  have found : (d.withClosed i).ctx c = x := ctx
  have due' : x.figure = some i ∧ x.state.released = true ∧ x.state ≠ .draining := by
    refine ⟨inFigure, ?_⟩
    rcases CtxState.executes_iff.1 executes with h | h <;> rw [h] <;> exact ⟨rfl, nofun⟩
  simp only [figureCloseFx, fig, List.contains_eq_mem, opened, Nat.not_lt.2 due, decide_true, decide_false, Bool.not_true, Bool.or_self, Bool.false_eq_true,
    if_false, compute, ne_eq, not_true_eq_false]
  refine (congrArg (fun e => Dev.eachCtx e _) (squashEach_still still)).trans ((eachCtx_one same _).trans ?_)
  rw [found, if_pos due']

end
end

/-! ### Zeroing (R54) -/

theorem keepOthers_get (m : FMap Nat) (g : Nat) {j : Nat} (k : j < 16) : FMap.get 0 (FMap.keep (fun i _ => i / 16 != g) m) (16 * g + j) = 0 := by
  have own : (16 * g + j) / 16 = g := by omega
  refine (FMap.get_filter_key 0 (fun i => i / 16 == g) _ m).trans (if_pos ?_)
  rw [own, beq_self_eq_true]

/-- A core after zeroing. -/
def zeroedCore (x : Core) : Core := { x with st := .idle, regs := Regs.zero, ls := [], lsGen := 0, dma := [], fresh := true, ckpt := none }

/-- A core is zeroed, its breakpoints and its counters with it. -/
def zeroed (d : Dev) (g : Nat) : Dev :=
  { d with
    cores := FMap.set Core.off d.cores g (zeroedCore (d.core g))
    dbg := { d.dbg with points := FMap.set Points.none d.dbg.points g Points.none }
    gau := { d.gau with core := FMap.keep (fun j _ => j / 16 != g) d.gau.core, wrapped := FMap.keep (fun j _ => j / 16 != g) d.gau.wrapped } }

theorem zeroingDoneFx_eq {g : Nat} (zeroing : (d.core g).st = .zeroing) : d.zeroingDoneFx g = d.zeroed g := by
  unfold zeroingDoneFx
  dsimp only
  rw [if_neg (by rw [zeroing]; decide)]
  rfl

theorem zeroed_core (d : Dev) (g : Nat) : (d.zeroed g).core g = zeroedCore (d.core g) :=
  FMap.get_set_self Core.off d.cores g (zeroedCore (d.core g))

theorem zeroed_core_ne (d : Dev) {g h : Nat} (ne : h ≠ g) : (d.zeroed g).core h = d.core h :=
  FMap.get_set_ne Core.off d.cores (zeroedCore (d.core g)) ne

theorem zeroed_points (d : Dev) (g : Nat) : FMap.get Points.none (d.zeroed g).dbg.points g = Points.none :=
  FMap.get_set_self Points.none d.dbg.points g Points.none

/-! ### SPEC_ENABLE (R193) -/

theorem writeReg_specCfg {w : Writer} {v : W32} (serves : d.serves .jfe = true) (unlocked : d.rbit 0x1000C 0 = false) :
    d.writeReg w JFE_SPEC_CFG v = d.specCfgWrite v := by
  have through := writeReg_reg (d := d) (w := w) (v := v) (b := .jfe) (o := 0x140) (r := ⟨0x140, 0x4, 1, .rwl, 0x0, 0x1⟩) rfl serves (fun h => nomatch h.1)
    (by decide) (by decide)
  exact through.trans (regAccess_through (.inr (.inr (.inl ⟨rfl, unlocked⟩))))

theorem setNat_regs (d : Dev) (k n : Nat) : d.setNat k n = { d with regs := (d.setNat k n).regs } := rfl

theorem specCfgWrite_refused {v : W32} (on : v.getLsbD 0 = true) (off : d.rbit JFE_SPEC_CFG 0 = false) (bad : d.specBad = true) : d.specCfgWrite v = d := by
  simp only [specCfgWrite, on, off, bad, Bool.not_false, Bool.and_self, if_true]

theorem specCfgWrite_taken {v : W32} (ok : v.getLsbD 0 = false ∨ d.rbit JFE_SPEC_CFG 0 = true ∨ d.specBad = false) :
    d.specCfgWrite v = d.setNat JFE_SPEC_CFG (v.toNat % 2) := by
  refine if_neg ?_
  rw [Bool.and_eq_true, Bool.and_eq_true, Bool.not_eq_true']
  rintro ⟨⟨on, off⟩, bad⟩
  rcases ok with h | h | h
  · exact absurd (h.symm.trans on) (by decide)
  · exact absurd (h.symm.trans off) (by decide)
  · exact absurd (h.symm.trans bad) (by decide)

theorem lowBit_word (v : W32) : BitVec.ofNat 32 (v.toNat % 2) = v &&& 1 := by
  refine BitVec.eq_of_toNat_eq ?_
  rw [BitVec.toNat_ofNat, BitVec.toNat_and]
  exact (Nat.mod_eq_of_lt (by omega)).trans (Nat.and_one_is_mod _).symm

end Dev

/-! ### JOB_START (R54, R76, R146) -/

theorem mem_coresOf {mask g : Nat} : g ∈ coresOf mask ↔ g < 4096 ∧ bitOf mask (g / 128) = true := by
  have place (k i : Nat) (low : i < 128) : k / 8 * 1024 + k % 8 * 128 + i = g ↔ k = g / 128 ∧ i = g % 128 := by omega
  simp only [coresOf, List.mem_flatMap, List.mem_range]
  constructor
  · rintro ⟨k, bound, mem⟩
    split at mem
    · next bit =>
      obtain ⟨i, low, eq⟩ := List.mem_map.1 mem
      obtain ⟨rfl, -⟩ := (place k i (List.mem_range.1 low)).1 eq
      exact ⟨by omega, bit⟩
    · exact absurd mem List.not_mem_nil
  · rintro ⟨bound, bit⟩
    refine ⟨g / 128, by omega, ?_⟩
    rw [if_pos bit]
    exact List.mem_map.2 ⟨g % 128, List.mem_range.2 (by omega), (place _ _ (by omega)).2 ⟨rfl, rfl⟩⟩

theorem nodup_coresOf (mask : Nat) : (coresOf mask).Nodup := by
  refine List.nodup_flatMap.2 ⟨fun k _ => ?_, List.nodup_range.imp fun {a b} ne => ?_⟩
  · split
    · exact List.nodup_range.map fun i j eq => by omega
    · exact List.nodup_nil
  · intro g left right
    dsimp only at left right
    split at left
    · split at right
      · obtain ⟨i, hi, eq⟩ := List.mem_map.1 left
        obtain ⟨j, hj, eq'⟩ := List.mem_map.1 right
        rw [List.mem_range] at hi hj
        omega
      · exact absurd right List.not_mem_nil
    · exact absurd left List.not_mem_nil

namespace Dev

variable {d e f : Dev}

/-- The cores, the joined couples and the contexts are the same. -/
structure SameCores (d e : Dev) : Prop where
  cores : e.cores = d.cores
  joined : e.joined = d.joined
  ctxs : e.jfe.ctxs = d.jfe.ctxs

theorem SameCores.trans (h : d.SameCores e) (k : e.SameCores f) : d.SameCores f :=
  ⟨k.cores.trans h.cores, k.joined.trans h.joined, k.ctxs.trans h.ctxs⟩

theorem SameCores.after (k : e.SameCores f) (cores : e.cores = d.cores) (joined : e.joined = d.joined) (ctxs : e.jfe.ctxs = d.jfe.ctxs) : d.SameCores f :=
  SameCores.trans ⟨cores, joined, ctxs⟩ k

theorem SafetyOnly.sameCores (h : d.SafetyOnly e) : d.SameCores e := by
  constructor
  · exact (congrArg Dev.cores h.eq :)
  · exact (congrArg Dev.joined h.eq :)
  · exact (congrArg (fun x : Dev => x.jfe.ctxs) h.eq :)

theorem limited_sameCores (d : Dev) (key gap : Nat) {g : Nat → Dev → Dev} (h : ∀ n (d : Dev), d.SameCores (g n d)) : d.SameCores (d.limited key gap g) := by
  unfold limited
  split
  · split
    · exact ⟨rfl, rfl, rfl⟩
    · exact (h _ _).after rfl rfl rfl
  · exact (h _ _).after rfl rfl rfl

theorem SameCores.core (h : d.SameCores e) (g : Nat) : e.core g = d.core g := by rw [Dev.core, h.cores]; rfl

theorem SameCores.ctx (h : d.SameCores e) (c : Nat) : e.ctx c = d.ctx c := by rw [Dev.ctx, h.ctxs]; rfl

theorem isFollow_congr (h : e.joined = d.joined) (g : Nat) : e.isFollow g = d.isFollow g := by
  rw [isFollow, isFollow, isJoined_congr h]

/-- Core `g`, and its follow with it, has changed to `k`. -/
structure CoreSet (d : Dev) (g : Nat) (k : Core) (e : Dev) : Prop where
  core : e.core g = k
  others : ∀ h, h ≠ g → d.isFollow h = false → e.core h = d.core h
  joined : e.joined = d.joined
  ctxs : e.jfe.ctxs = d.jfe.ctxs

theorem lead_even {g : Nat} (lead : d.isFollow g = false) (joined : d.isJoined g = true) : g % 2 = 0 := by
  rw [isFollow, joined, Bool.and_true, beq_eq_false_iff_ne] at lead
  omega

theorem putCore_sets {g : Nat} (lead : d.isFollow g = false) (k : Core) : d.CoreSet g k (d.putCore g k) where
  core := (d.put_putCore g k (lead_even lead)).core
  others h ne leads := by
    refine d.core_putCore_ne k ne ?_
    rintro ⟨joined, rfl⟩
    have even := lead_even lead joined
    have twin : d.isJoined (g + 1) = true := by
      rw [isJoined] at joined ⊢
      rwa [show (g + 1) / 2 = g / 2 by omega]
    rw [isFollow, twin, Bool.and_true, beq_eq_false_iff_ne] at leads
    omega
  joined := by rw [putCore_cores]
  ctxs := by rw [putCore_jfe]

theorem CoreSet.after {g : Nat} {k : Core} (h : d.CoreSet g k e) (s : e.SameCores f) : d.CoreSet g k f :=
  ⟨(s.core g).trans h.core, fun b ne lead => (s.core b).trans (h.others b ne lead), s.joined.trans h.joined, s.ctxs.trans h.ctxs⟩

/-- A core that comes to its next instruction may be halted, and is otherwise as it was. -/
theorem arrive_sets {g : Nat} (lead : d.isFollow g = false) : ∃ halted, d.CoreSet g { d.core g with halted := halted } (d.arrive g) := by
  unfold arrive
  dsimp only
  split
  · refine ⟨true, (putCore_sets lead _).after ?_⟩
    exact (limited_sameCores _ _ _ fun _ d => (d.emit_safetyOnly _ _ _ _ _).sameCores).after rfl rfl rfl
  · exact ⟨(d.core g).halted, rfl, fun _ _ _ => rfl, rfl, rfl⟩

end Dev

/-- What a core of a job that starts is: at the entry with the generator seeded, with what it had where it had been zeroed. -/
structure Core.Started (old : Core) (c : Nat) (entry : BitVec 48) (lfsr : BitVec 64) (k : Core) : Prop where
  st : k.st = .running
  ctx : k.ctx = some c
  pc : k.pc = entry
  flags : k.regs.flags = 0
  seeded : k.regs.lfsr = lfsr
  wait : k.wait = .none
  dma : k.dma = []
  kept : old.fresh = true → k.ls = old.ls ∧ ∀ n, k.regs.getS n = old.regs.getS n

theorem Core.begin_started (old : Core) (draw c part : Nat) (entry : BitVec 48) (lfsr : BitVec 64) (halted : Bool) :
    old.Started c entry lfsr { old.begin draw c part entry lfsr with halted := halted } where
  st := rfl
  ctx := rfl
  pc := rfl
  flags := rfl
  seeded := rfl
  wait := rfl
  dma := rfl
  kept fresh := by
    simp only [Core.begin, fresh, if_true, true_and]
    exact fun _ => rfl

namespace Dev

/-- JOB_START on one core. -/
def startCore (c part : Nat) (entry : BitVec 48) (seed : BitVec 64) (d : Dev) (g : Nat) : Dev :=
  (({ d with freeCtr := d.freeCtr + 1 }).putCore g ((d.core g).begin d.freeCtr c part entry (seedOf seed g))).arrive g

variable {c part : Nat} {entry : BitVec 48} {seed : BitVec 64} {d : Dev}

theorem startCore_sets {g : Nat} (lead : d.isFollow g = false) :
    ∃ k, (d.core g).Started c entry (seedOf seed g) k ∧ d.CoreSet g k (startCore c part entry seed d g) := by
  have put := putCore_sets (d := { d with freeCtr := d.freeCtr + 1 }) lead ((d.core g).begin d.freeCtr c part entry (seedOf seed g))
  obtain ⟨halted, arrived⟩ := arrive_sets ((isFollow_congr put.joined g).trans lead)
  rw [put.core] at arrived
  refine ⟨_, Core.begin_started _ _ _ _ _ _ halted, arrived.core, fun h ne leads => ?_, arrived.joined.trans put.joined, arrived.ctxs.trans put.ctxs⟩
  exact (arrived.others h ne ((isFollow_congr put.joined h).trans leads)).trans (put.others h ne leads)

/-- Every core of the list has started; the other leads are as they were. -/
theorem startCores {l : List Nat} (nodup : l.Nodup) : ∀ {d : Dev}, (∀ g ∈ l, d.isFollow g = false) →
    (∀ g ∈ l, (d.core g).Started c entry (seedOf seed g) ((l.foldl (startCore c part entry seed) d).core g)) ∧
    (∀ h, h ∉ l → d.isFollow h = false → (l.foldl (startCore c part entry seed) d).core h = d.core h) ∧
    (l.foldl (startCore c part entry seed) d).joined = d.joined ∧ (l.foldl (startCore c part entry seed) d).jfe.ctxs = d.jfe.ctxs := by
  induction nodup with
  | nil => exact fun _ => ⟨fun _ mem => absurd mem List.not_mem_nil, fun _ _ _ => rfl, rfl, rfl⟩
  | @cons g l new nodup ih =>
    intro d leads
    have lead := leads g List.mem_cons_self
    obtain ⟨k, started, set⟩ := startCore_sets (c := c) (part := part) (entry := entry) (seed := seed) lead
    have rest (h : Nat) : (startCore c part entry seed d g).isFollow h = d.isFollow h := isFollow_congr set.joined h
    obtain ⟨all, others, joined, ctxs⟩ := ih (d := startCore c part entry seed d g) fun h mem => (rest h).trans (leads h (List.mem_cons_of_mem _ mem))
    have out : g ∉ l := fun mem => new g mem rfl
    rw [List.foldl_cons]
    refine ⟨fun h mem => ?_, fun h off lead' => ?_, joined.trans set.joined, ctxs.trans set.ctxs⟩
    · rcases List.mem_cons.1 mem with rfl | mem
      · rw [others h out ((rest h).trans lead), set.core]
        exact started
      · have ne : h ≠ g := fun eq => out (eq ▸ mem)
        have same := set.others h ne (leads h (List.mem_cons_of_mem _ mem))
        exact same ▸ all h mem
    · obtain ⟨ne, off⟩ := not_or.1 (mt List.mem_cons.2 off)
      exact (others h off ((rest h).trans lead')).trans (set.others h ne lead')

theorem openRecords_safetyOnly (d : Dev) (c : Nat) : d.SafetyOnly (d.openRecords c) := by
  unfold openRecords
  refine SafetyOnly.foldl (fun d p => ?_) _ _
  split
  · exact ((wr_memOnly _ _ _ _).trans (wr_memOnly _ _ _ _)).safetyOnly.trans (modStream_safetyOnly _ _ _)
  · exact .refl d

/-- The leads of the cores that a job is placed on. -/
def startList (d : Dev) (c : Nat) : List Nat := (coresOf (d.ctx c).inv.clusters).filter (fun g => !d.isFollow g)

/-- The context that starts. -/
def startedCtx (d : Dev) (c : Nat) : Ctx := { d.ctx c with state := .running, startNs := some d.clock, coresLeft := (d.startList c).length, rerunWait := false }

theorem jobStartFx_of_job (may : d.canStart c = true) (job : (d.ctx c).isPlan = false) :
    d.jobStartFx c = Dev.openRecords ((d.startList c).foldl (startCore c (d.ctx c).part
      (BitVec.ofNat 48 (Dev.model (d.putCtx c (d.startedCtx c)) (d.ctx c).inv.model).entry) (d.ctx c).inv.seed) (d.putCtx c (d.startedCtx c))) c := by
  unfold jobStartFx
  dsimp only
  rw [if_neg (by rw [may]; decide), if_neg (by rw [job]; decide)]
  rfl

theorem jobStarted (may : d.canStart c = true) (job : (d.ctx c).isPlan = false) :
    ((d.jobStartFx c).ctx c).state = .running ∧ ((d.jobStartFx c).ctx c).startNs = some d.clock ∧ (∀ b, b ≠ c → (d.jobStartFx c).ctx b = d.ctx b) ∧
    ∀ g ∈ coresOf (d.ctx c).inv.clusters, d.isFollow g = false →
      (d.core g).Started c (BitVec.ofNat 48 (d.model (d.ctx c).inv.model).entry) (seedOf (d.ctx c).inv.seed g) ((d.jobStartFx c).core g) := by
  rw [jobStartFx_of_job may job]
  obtain ⟨put, hput⟩ : ∃ put, put = d.putCtx c (d.startedCtx c) := ⟨_, rfl⟩
  have mem := d.putCtx_memOnly c (d.startedCtx c)
  have self := d.ctx_putCtx_same c (d.startedCtx c)
  have others (b : Nat) (ne : b ≠ c) := d.ctx_putCtx_ne (d.startedCtx c) ne
  rw [← hput] at mem self others ⊢
  have follow (g : Nat) : put.isFollow g = d.isFollow g := isFollow_congr (by rw [mem.eq]; rfl) g
  have core (g : Nat) : put.core g = d.core g := mem.core g
  have model (h : Nat) : put.model h = d.model h := by rw [mem.eq]; rfl
  rw [model]
  obtain ⟨started, -, -, ctxs⟩ := startCores (c := c) (part := (d.ctx c).part) (entry := BitVec.ofNat 48 (d.model (d.ctx c).inv.model).entry)
    (seed := (d.ctx c).inv.seed) (l := d.startList c) ((nodup_coresOf _).filter _) (d := put) fun g mem => by
      rw [follow]
      exact (Bool.not_eq_true' _).mp (List.mem_filter.1 mem).2
  have rest := (openRecords_safetyOnly ((d.startList c).foldl (startCore c (d.ctx c).part (BitVec.ofNat 48 (d.model (d.ctx c).inv.model).entry)
    (d.ctx c).inv.seed) put) c).sameCores
  have ctx (b : Nat) : ((d.startList c).foldl (startCore c (d.ctx c).part (BitVec.ofNat 48 (d.model (d.ctx c).inv.model).entry)
    (d.ctx c).inv.seed) put).ctx b = put.ctx b := by rw [Dev.ctx, ctxs]; rfl
  refine ⟨?_, ?_, fun b ne => (rest.ctx b).trans ((ctx b).trans (others b ne)), fun g mem lead => ?_⟩
  · rw [rest.ctx, ctx, self]
    rfl
  · rw [rest.ctx, ctx, self]
    rfl
  · rw [rest.core, ← core]
    exact started g (List.mem_filter.2 ⟨mem, by rw [lead]; rfl⟩)

theorem ctx_congr {e : Dev} (h : e.jfe.ctxs = d.jfe.ctxs) (b : Nat) : e.ctx b = d.ctx b := by
  rw [Dev.ctx, h]
  rfl

/-- The command of a PLAN request that starts. -/
def planCmd (d : Dev) (c : Nat) : EngCmd :=
  { ctx := c, part := (d.ctx c).part, addr := (d.ctx c).inv.command, ticket := none, order := (d.putCtx c (d.startedCtx c)).jfe.order, firstStart := none,
    restarts := 0, core := none }

/-- The command has entered Cairn's queue, and the order of acceptance moved on. -/
def planQueued (d : Dev) (k : EngCmd) : Dev := { d.pushCairn k with jfe := { d.jfe with order := d.jfe.order + 1 } }

theorem planQueued_ctx (d : Dev) (k : EngCmd) (c : Nat) : (d.planQueued k).ctx c = d.ctx c := ctx_congr rfl c

theorem planQueued_queue (d : Dev) (k : EngCmd) : FMap.get [] (d.planQueued k).crn.queues k.part = FMap.get [] d.crn.queues k.part ++ [k] :=
  FMap.get_set_self _ _ _ _

theorem jobStartFx_of_plan (may : d.canStart c = true) (plan : (d.ctx c).isPlan = true) :
    d.jobStartFx c = (d.putCtx c (d.startedCtx c)).planQueued (d.planCmd c) := by
  unfold jobStartFx
  dsimp only
  rw [if_neg (by rw [may]; decide), if_pos plan]
  rfl

theorem planStarted (may : d.canStart c = true) (plan : (d.ctx c).isPlan = true) :
    ((d.jobStartFx c).ctx c).state = .running ∧
    FMap.get [] (d.jobStartFx c).crn.queues (d.ctx c).part = FMap.get [] d.crn.queues (d.ctx c).part ++ [d.planCmd c] := by
  have crn : (d.putCtx c (d.startedCtx c)).crn = d.crn := by rw [(d.putCtx_memOnly c _).eq]; rfl
  rw [jobStartFx_of_plan may plan, planQueued_ctx, ctx_putCtx_same]
  refine ⟨rfl, (planQueued_queue _ (d.planCmd c)).trans ?_⟩
  rw [crn]
  rfl

end Dev

namespace Dev

/-! ### Couple hand-overs (R433–R435) -/

/-- A device whose cores, joined couples, comparators and pending injections are others. -/
def withCouples (d : Dev) (cores : FMap Core) (joined : FMap Bool) (couples : FMap Couple) (inject : FMap (Option Nat)) : Dev :=
  { d with cores := cores, joined := joined, pav := { d.pav with couples := couples, inject := inject } }

/-- Joining couple `i`: the follow takes the lead's state, and the comparator is armed. -/
def joinCouple (d : Dev) (i : Nat) : Dev :=
  d.withCouples (FMap.set Core.off d.cores (2 * i + 1) { d.core (2 * i) with ceTicks := (d.core (2 * i + 1)).ceTicks }) (FMap.set false d.joined i true)
    (FMap.set Couple.reset d.pav.couples i { d.couple i with armed := true }) d.pav.inject

/-- A follow whose state is discarded. -/
def splitFollow (x : Core) : Core := { Core.off with st := .idle, lastPart := none, ceTicks := x.ceTicks, lastTime := x.lastTime }

/-- Splitting couple `i`: the comparator is disarmed, the follow's state and a pending injection are dropped. -/
def splitCouple (d : Dev) (i : Nat) : Dev :=
  if FMap.get false d.joined i then
    d.withCouples (FMap.set Core.off d.cores (2 * i + 1) (splitFollow (d.core (2 * i + 1)))) (FMap.set false d.joined i false) (FMap.set Couple.reset d.pav.couples i { d.couple i with armed := false }) (FMap.set none d.pav.inject i none)
  else d

variable {d : Dev} {k : Nat}

theorem joinFx_eq (due : d.handoverDue k true = true) : d.joinFx k [] = (List.range 64).foldl (fun d j => d.joinCouple (64 * k + j)) d := by
  unfold joinFx
  dsimp only
  rw [if_neg (by rw [due]; decide), if_neg (by decide)]
  rfl

theorem splitFx_eq (due : d.handoverDue k false = true) : d.splitFx k = (List.range 64).foldl (fun d j => d.splitCouple (64 * k + j)) d := by
  unfold splitFx
  rw [if_neg (by rw [due]; decide)]
  congr 1
  funext e j
  unfold splitCouple
  dsimp only
  cases FMap.get false e.joined (64 * k + j) <;> rfl

/-- What hand-overs of the first `n` couples of cluster `k` leave: `done` of each of these couples, and the others and the leads as they were. -/
structure Handed (done : Dev → Nat → Dev → Prop) (d : Dev) (k n : Nat) (e : Dev) : Prop where
  done : ∀ j, j < n → done d (64 * k + j) e
  joined : ∀ i, (∀ j, j < n → i ≠ 64 * k + j) → FMap.get false e.joined i = FMap.get false d.joined i
  couple : ∀ i, (∀ j, j < n → i ≠ 64 * k + j) → e.couple i = d.couple i
  follow : ∀ i, (∀ j, j < n → i ≠ 64 * k + j) → e.core (2 * i + 1) = d.core (2 * i + 1)
  lead : ∀ i, e.core (2 * i) = d.core (2 * i)
  rest : e = d.withCouples e.cores e.joined e.pav.couples e.pav.inject

/-- A step that works on couple `i` alone. -/
structure CoupleStep (d : Dev) (i : Nat) (e : Dev) : Prop where
  joined : ∀ h, h ≠ i → FMap.get false e.joined h = FMap.get false d.joined h
  couple : ∀ h, h ≠ i → e.couple h = d.couple h
  inject : ∀ h, h ≠ i → FMap.get none e.pav.inject h = FMap.get none d.pav.inject h
  follow : ∀ h, h ≠ i → e.core (2 * h + 1) = d.core (2 * h + 1)
  lead : ∀ h, e.core (2 * h) = d.core (2 * h)
  rest : e = d.withCouples e.cores e.joined e.pav.couples e.pav.inject

theorem handed_foldl {done : Dev → Nat → Dev → Prop} {step : Dev → Nat → Dev} (local_ : ∀ d i, CoupleStep d i (step d i))
    (fresh : ∀ d e i, FMap.get false e.joined i = FMap.get false d.joined i → e.couple i = d.couple i → e.core (2 * i + 1) = d.core (2 * i + 1) →
      e.core (2 * i) = d.core (2 * i) → done d i (step e i))
    (stays : ∀ d e f i h, h ≠ i → CoupleStep e i f → done d h e → done d h f) :
    ∀ n, Handed done d k n ((List.range n).foldl (fun d j => step d (64 * k + j)) d) := by
  intro n
  induction n with
  | zero => exact ⟨nofun, fun _ _ => rfl, fun _ _ => rfl, fun _ _ => rfl, fun _ => rfl, rfl⟩
  | succ n ih =>
    rw [List.range_succ, List.foldl_append, List.foldl_cons, List.foldl_nil]
    generalize (List.range n).foldl (fun d j => step d (64 * k + j)) d = e at ih
    have work := local_ e (64 * k + n)
    have new (j : Nat) (low : j < n) : 64 * k + n ≠ 64 * k + j := by omega
    refine ⟨fun j low => ?_, fun i off => ?_, fun i off => ?_, fun i off => ?_, fun i => (work.lead i).trans (ih.lead i), ?_⟩
    · rcases Nat.lt_succ_iff_lt_or_eq.1 low with low | rfl
      · exact stays d e _ _ _ (by omega) work (ih.done j low)
      · exact fresh d e _ (ih.joined _ new) (ih.couple _ new) (ih.follow _ new) (ih.lead _)
    · exact (work.joined i (off n (by omega))).trans (ih.joined i fun j low => off j (by omega))
    · exact (work.couple i (off n (by omega))).trans (ih.couple i fun j low => off j (by omega))
    · exact (work.follow i (off n (by omega))).trans (ih.follow i fun j low => off j (by omega))
    · rw [work.rest, ih.rest]
      rfl

theorem withCouples_step {cores : FMap Core} {joined : FMap Bool} {couples : FMap Couple} {inject : FMap (Option Nat)} {i : Nat} (x : Core) (b : Bool) (c : Couple)
    (hc : cores = FMap.set Core.off d.cores (2 * i + 1) x) (hj : joined = FMap.set false d.joined i b) (hp : couples = FMap.set Couple.reset d.pav.couples i c)
    (hi : ∀ h, h ≠ i → FMap.get none inject h = FMap.get none d.pav.inject h) : CoupleStep d i (d.withCouples cores joined couples inject) := by
  subst hc hj hp
  exact ⟨fun h ne => FMap.get_set_ne _ _ _ ne, fun h ne => FMap.get_set_ne _ _ _ ne, hi, fun h ne => FMap.get_set_ne _ _ _ (by omega),
    fun h => FMap.get_set_ne _ _ _ (by omega), rfl⟩

theorem joinCouple_step (d : Dev) (i : Nat) : CoupleStep d i (d.joinCouple i) := withCouples_step _ _ _ rfl rfl rfl fun _ _ => rfl

theorem splitCouple_step (d : Dev) (i : Nat) : CoupleStep d i (d.splitCouple i) := by
  unfold splitCouple
  split
  · exact withCouples_step _ _ _ rfl rfl rfl fun h ne => FMap.get_set_ne _ _ _ ne
  · exact ⟨fun _ _ => rfl, fun _ _ => rfl, fun _ _ => rfl, fun _ _ => rfl, fun _ => rfl, rfl⟩

/-- Couple `i` is joined. -/
structure CoupleJoined (d : Dev) (i : Nat) (e : Dev) : Prop where
  joined : FMap.get false e.joined i = true
  armed : (e.couple i).armed = true
  follow : e.core (2 * i + 1) = { d.core (2 * i) with ceTicks := (d.core (2 * i + 1)).ceTicks }

/-- Couple `i` is split; where it had been joined, its follow has lost its state. -/
structure CoupleSplit (d : Dev) (i : Nat) (e : Dev) : Prop where
  joined : FMap.get false e.joined i = false
  dropped : FMap.get false d.joined i = true → (e.couple i).armed = false ∧ FMap.get none e.pav.inject i = none ∧ (e.core (2 * i + 1)).st = .idle ∧
    (e.core (2 * i + 1)).regs = Regs.zero ∧ (e.core (2 * i + 1)).lastPart = none

theorem joinFx_hands (due : d.handoverDue k true = true) : Handed CoupleJoined d k 64 (d.joinFx k []) := by
  rw [joinFx_eq due]
  refine handed_foldl joinCouple_step (fun d e i _ _ follow lead => ?_) (fun d e f i h ne work done => ?_) 64
  · refine ⟨FMap.get_set_self false e.joined i true,
      congrArg Couple.armed (FMap.get_set_self Couple.reset e.pav.couples i { e.couple i with armed := true }), ?_⟩
    rw [← follow, ← lead]
    exact FMap.get_set_self Core.off e.cores (2 * i + 1) _
  · exact ⟨(work.joined h ne).trans done.joined, (congrArg Couple.armed (work.couple h ne)).trans done.armed, (work.follow h ne).trans done.follow⟩

theorem joinFx_inject (due : d.handoverDue k true = true) : (d.joinFx k []).pav.inject = d.pav.inject := by
  rw [joinFx_eq due]
  exact List.foldlRecOn (motive := fun e : Dev => e.pav.inject = d.pav.inject) _ _ rfl fun _ same _ _ => same

theorem splitFx_hands (due : d.handoverDue k false = true) : Handed CoupleSplit d k 64 (d.splitFx k) := by
  rw [splitFx_eq due]
  refine handed_foldl splitCouple_step (fun d e i joined couple follow lead => ?_) (fun d e f i h ne work done => ?_) 64
  · unfold splitCouple
    split
    · refine ⟨FMap.get_set_self false e.joined i false, fun _ =>
        ⟨congrArg Couple.armed (FMap.get_set_self Couple.reset e.pav.couples i { e.couple i with armed := false }), ?_, ?_⟩⟩
      · exact FMap.get_set_self none e.pav.inject i none
      · have set := FMap.get_set_self Core.off e.cores (2 * i + 1) (splitFollow (e.core (2 * i + 1)))
        exact ⟨congrArg Core.st set, congrArg Core.regs set, congrArg Core.lastPart set⟩
    · next off =>
      have off : FMap.get false e.joined i = false := by simpa using off
      exact ⟨off, fun on => absurd (on.symm.trans (joined.symm.trans off)) (by decide)⟩
  · refine ⟨(work.joined h ne).trans done.joined, fun on => ?_⟩
    rw [work.couple h ne, work.inject h ne, work.follow h ne]
    exact done.dropped on

end Dev
/-! ### The statement -/

/-- Settles O38: each command is one of the operations above, on the device without the last command's outputs. -/
theorem figureAndStartResults : Obligations.FigureAndStartResults := by
  unfold Obligations.FigureAndStartResults
  intro s d
  refine ⟨fun i f fig closed done long due => ⟨fun other => ?opens, fun c x compute one ctx queued => ⟨fun released => ?releases, fun left => ?leaves⟩⟩,
    fun i f fig opened due => ⟨fun other => ?closes, fun c x compute still one ctx inFigure executes => ?drops⟩, fun due => ?boundary,
    fun c may job => ?starts, fun c may plan => ?plans, fun g core zeroing => ?zeroed, fun k cluster due => ?joins, fun k cluster due => ?splits,
    fun w v serves unlocked => ?spec⟩
  case opens => exact ans_set (g := fun d => d.figureOpenFx i) (Dev.figureOpenFx_of_other (d := s.dev.fresh) fig closed done long due other)
  case releases =>
    exact ans_set (g := fun d => d.figureOpenFx i)
      ((Dev.figureOpenFx_of_one (d := s.dev.fresh) fig closed done long due compute one ctx queued).trans (if_pos released))
  case leaves =>
    exact ans_set (g := fun d => d.figureOpenFx i)
      ((Dev.figureOpenFx_of_one (d := s.dev.fresh) fig closed done long due compute one ctx queued).trans (if_neg left))
  case closes => exact ans_set (g := fun d => d.figureCloseFx i) (Dev.figureCloseFx_of_other (d := s.dev.fresh) fig opened due other)
  case drops =>
    refine ans_set (g := fun d => d.figureCloseFx i) ?_
    rw [Dev.figureCloseFx_of_one (d := s.dev.fresh) fig opened due compute still one ctx inFigure executes]
    obtain ⟨holds, running⟩ := CtxState.holds_of_executes executes
    have ctx' : (s.dev.fresh.withClosed i).ctx c = x := ctx
    obtain ⟨state, ending, -⟩ := Dev.trigger_holds (s.dev.fresh.withClosed i) c stDroppedLate false (by rw [ctx']; exact holds) (by rw [ctx']; exact running)
    exact ⟨(Dev.trigger_sameFrame _ _ _ _).opened, state, ending⟩
  case boundary => exact ans_set (g := fun d => d.frameFx) (Dev.frameFx_frame (d := s.dev.fresh) due)
  case starts =>
    obtain ⟨running, start, others, cores⟩ := Dev.jobStarted (d := s.dev.fresh) may job
    refine ans_set (g := fun d => d.jobStartFx c) ⟨running, start, others, fun g mem lead => ?_⟩
    obtain ⟨st, ctx, pc, flags, seeded, wait, dma, kept⟩ := cores g mem lead
    exact ⟨st, ctx, pc, flags, seeded, wait, dma, kept⟩
  case plans =>
    obtain ⟨running, queue⟩ := Dev.planStarted (d := s.dev.fresh) may plan
    exact ans_set (g := fun d => d.jobStartFx c) ⟨running, _, queue, rfl, rfl, rfl⟩
  case zeroed =>
    refine ans_setIf (g := fun d => d.zeroingDoneFx g) core ?_
    rw [Dev.zeroingDoneFx_eq (d := s.dev.fresh) zeroing]
    exact ⟨Dev.zeroed_core _ g, fun h ne => Dev.zeroed_core_ne _ ne, Dev.zeroed_points _ g, fun j low => Dev.keepOthers_get _ g low, rfl⟩
  case joins =>
    obtain ⟨done, joined, couple, follow, lead, rest⟩ := Dev.joinFx_hands (d := s.dev.fresh) due
    have inject := Dev.joinFx_inject (d := s.dev.fresh) due
    refine ans_setIf (g := fun d => d.joinFx k []) cluster ⟨fun j low => ?_, fun i off => ⟨joined i off, couple i off, follow i off⟩, ?_⟩
    · obtain ⟨isJoined, armed, state⟩ := done j low
      exact ⟨isJoined, armed, lead _, state⟩
    · rw [inject] at rest
      exact rest
  case splits =>
    obtain ⟨done, -, -, -, lead, rest⟩ := Dev.splitFx_hands (d := s.dev.fresh) due
    refine ans_setIf (g := fun d => d.splitFx k) cluster ⟨fun j low => ?_, rest⟩
    obtain ⟨split, dropped⟩ := done j low
    exact ⟨split, lead _, dropped⟩
  case spec =>
    refine ans_set (g := fun d => d.writeReg w JFE_SPEC_CFG v) ?_
    rw [Dev.writeReg_specCfg (d := s.dev.fresh) serves unlocked]
    refine ⟨Dev.specCfgWrite_refused (d := s.dev.fresh), fun ok => ?_⟩
    rw [Dev.specCfgWrite_taken (d := s.dev.fresh) ok, Dev.reg_setNat, Dev.lowBit_word]
    exact ⟨rfl, Dev.setNat_regs _ _ _⟩

end Sys2Proof.Machine
end

section
/-! SUPPORT. What the engines compute from, and what leaves it as it is: the queues of the engines, their registers and outputs (R215–R217). -/
namespace Sys2Proof.Machine

/-- Devices in which every master reads the same, and meets the same fences and lost layers. -/
structure Dev.ReadsAlike (d e : Dev) : Prop extends d.StoresAlike e where
  hw : e.hw = d.hw
  jfe : e.jfe = d.jfe
  mirrorDue : e.mirrorDue = d.mirrorDue
  seqs : e.seqs = d.seqs
  sec : e.sec = d.sec
  fences : e.fences = d.fences
  stackTbl : e.stackTbl = d.stackTbl
  linear : ∀ n, e.linear n = d.linear n

namespace Dev.ReadsAlike

variable {d e f : Dev}

theorem trans (h : d.ReadsAlike e) (k : e.ReadsAlike f) : d.ReadsAlike f where
  toStoresAlike := h.toStoresAlike.trans k.toStoresAlike
  hw := k.hw.trans h.hw
  jfe := k.jfe.trans h.jfe
  mirrorDue := k.mirrorDue.trans h.mirrorDue
  seqs := k.seqs.trans h.seqs
  sec := k.sec.trans h.sec
  fences := k.fences.trans h.fences
  stackTbl := k.stackTbl.trans h.stackTbl
  linear n := (k.linear n).trans (h.linear n)

section
variable (h : d.ReadsAlike e)
include h

/-! ### Memory (R197, R325) -/

theorem served (a : Nat) : e.served a = d.served a := by
  simp only [Dev.served, Dev.mirrorAt, h.mirrors, h.mirrorDue]

theorem cell (a : Nat) : e.cell a = d.cell a := by rw [Dev.cell, h.mem, h.mask]; rfl

theorem cells (a n : Nat) : e.cells a n = d.cells a n := by simp only [Dev.cells, h.cell]

theorem readsShadow (v : View) (l : Nat) : e.readsShadow v l = d.readsShadow v l := by simp only [Dev.readsShadow, h.tag]

theorem rdByte (v : View) (a : Nat) : e.rdByte v a = d.rdByte v a := by
  simp only [Dev.rdByte, h.served, h.readsShadow, h.shadow, h.cell]

theorem rd (v : View) : e.rd v = d.rd v := by
  funext a n
  simp only [Dev.rd, h.rdByte]

theorem ctx (c : Nat) : e.ctx c = d.ctx c := by rw [Dev.ctx, h.jfe]; rfl

theorem epoch (c : Nat) : e.epoch c = d.epoch c := by rw [Dev.epoch, h.jfe]; rfl

theorem viewOf (c : Nat) : e.viewOf c = d.viewOf c := by simp only [Dev.viewOf, h.ctx, h.epoch]

theorem model (m : Nat) : e.model m = d.model m := by rw [Dev.model, h.jfe]; rfl

theorem part (p : Nat) : e.part p = d.part p := by rw [Dev.part, h.jfe]; rfl

theorem cryptOf (c : Nat) : e.cryptOf c = d.cryptOf c := by simp only [Dev.cryptOf, h.ctx, h.model, h.sec]

theorem rdFor (c : Nat) : e.rdFor c = d.rdFor c := by
  funext a n
  simp only [Dev.rdFor, h.viewOf, h.rd, h.cryptOf, Dev.decryptRead, h.cells]

/-! ### Fences and lost lines (R158, R317, R320) -/

theorem dieFenced (n : Nat) : e.dieFenced n = d.dieFenced n := by rw [Dev.dieFenced, Dev.fenced, h.fences]; rfl

theorem layerAt (a : Nat) : e.layerAt a = d.layerAt a := by simp only [Dev.layerAt, Dev.stackOf, Dev.stack, h.linear, h.stackTbl]

theorem accessStatus (c a n : Nat) (read : Bool) : e.accessStatus (e.viewOf c) a n read = d.accessStatus (d.viewOf c) a n read := by
  simp only [Dev.accessStatus, Dev.fencedIn, Dev.memFenced, Dev.poisonedIn, h.viewOf, h.hw, h.served, h.dieFenced, h.layerAt, h.readsShadow, h.poison]

/-! ### What an engine checks and computes (R215, R226–R266) -/

theorem rangeOk (p : Nat) : e.rangeOk p = d.rangeOk p := by
  funext a n need
  simp only [Dev.rangeOk, h.part, h.hw]

theorem declaredSeq (c n : Nat) : e.declaredSeq c n = d.declaredSeq c n := by simp only [Dev.declaredSeq, Dev.seqOf, h.ctx, h.seqs]

theorem lenSeen (c r : Nat) : e.lenSeen c r = d.lenSeen c r := by simp only [Dev.lenSeen, h.viewOf]

theorem engBytes (x : Nat) (k : EngCmd) : e.engBytes x k = d.engBytes x k := by rw [Dev.engBytes, h.rdFor]; rfl

theorem engChecks (n x : Nat) (k : EngCmd) (bs : List Byte) : e.engChecks n x k bs (e.rangeOk k.part) = d.engChecks n x k bs (d.rangeOk k.part) := by
  simp only [Dev.engChecks, Dev.traceryChecks, Dev.classOf, h.hw, h.part, h.rangeOk, h.declaredSeq, h.lenSeen, h.rd]

theorem trcSeq (x : Nat) (k : EngCmd) (bs : List Byte) : e.trcSeq x k bs = d.trcSeq x k bs := by simp only [Dev.trcSeq, h.declaredSeq]

theorem homeFenced (x : Nat) (k : EngCmd) (bs : List Byte) : e.homeFenced x k bs = d.homeFenced x k bs := by
  simp only [Dev.homeFenced, h.trcSeq, h.dieFenced]

theorem engOut (x : Nat) (k : EngCmd) (bs : List Byte) : e.engOut x k bs = d.engOut x k bs := by
  simp only [Dev.engOut, h.rdFor, h.trcSeq, h.rangeOk, Dev.attLen, h.lenSeen, h.rd, Dev.firstLen, Dev.seqOf, h.seqs]

end

end Dev.ReadsAlike
/-! ### Checks that pass (R213) -/

theorem firstBad_none : ∀ {cs : List Check}, firstBad cs = none → ∀ c ∈ cs, c.1 = false
  | [], _, _, mem => absurd mem List.not_mem_nil
  | (b, st, f) :: cs, h, c, mem => by
    unfold firstBad at h
    split at h
    · exact nomatch h
    · next pass =>
      rcases List.mem_cons.1 mem with rfl | mem
      · exact Bool.eq_false_iff.2 pass
      · exact firstBad_none h c mem

/-- The operation code of a command that passes its checks is one of its engine's. -/
theorem headerChecks_known {bs : List Byte} {e len : Nat} {known : Bool} {cs : List Check} (pass : firstBad (headerChecks bs e len known ++ cs) = none) :
    known = true := by
  have unknown := firstBad_none pass (!known, vDesc, 2) (List.mem_append_left _ (by simp [headerChecks]))
  exact (Bool.not_eq_false' _).mp unknown

namespace Dev

variable {d : Dev} {n e : Nat} {k : EngCmd} {bs : List Byte} {ok : Nat → Nat → Nat → Bool}

theorem engOpOf_of_pass (engine : e < 4) (pass : d.engChecks n e k bs ok = none) : fieldAt bs 2 1 = engOpOf e bs := by
  have known : (decide (1 ≤ fieldAt bs 2 1) && decide (fieldAt bs 2 1 ≤ engOps e)) = true := by
    match e, engine with
    | 0, _ =>
      simp only [engChecks, windowChecks, if_true, List.append_assoc] at pass
      exact headerChecks_known pass
    | 1, _ =>
      simp only [engChecks, plinthChecks, Nat.one_ne_zero, if_true, if_false, List.append_assoc] at pass
      exact headerChecks_known pass
    | 2, _ =>
      simp only [engChecks, sieveChecks, OfNat.ofNat_ne_zero, OfNat.ofNat_ne_one, if_true, if_false, List.append_assoc] at pass
      exact headerChecks_known pass
    | 3, _ =>
      have form : firstBad (traceryFormChecks bs) = none := by
        simp only [engChecks, traceryChecks, OfNat.ofNat_ne_zero, OfNat.ofNat_ne_one, Nat.reduceEqDiff, if_false] at pass
        split at pass
        · exact nomatch pass
        · assumption
      simp only [traceryFormChecks, List.append_assoc] at form
      exact headerChecks_known form
  rw [Bool.and_eq_true, decide_eq_true_eq, decide_eq_true_eq] at known
  unfold engOpOf
  exact (if_pos known).symm

/-! ### Taking a command (R113, R217) -/

theorem reg_bump (d : Dev) (a i : Nat) : (d.bump a i).rn a = min (d.rn a + i) 0xFFFFFFFF := by
  rw [rn, bump, reg_setNat, BitVec.toNat_ofNat]
  exact Nat.mod_eq_of_lt (by omega)

theorem reg_bump_ne (d : Dev) {a b : Nat} (i : Nat) (ne : b ≠ a) : (d.bump a i).reg b = d.reg b := reg_setNat_ne _ _ ne

theorem engBase_ne_cfg (m n : Nat) {e o : Nat} (engine : e < 4) (low : o < 0x10000) : MRT_DRAM_CFG m ≠ (Block.eng n e).base + o := by
  unfold MRT_DRAM_CFG Block.base dieSlot
  dsimp only
  omega

/-- A register that does not decide how DRAM interleaves may change. -/
theorem setReg_readsAlike (d : Dev) {a : Nat} (v : W32) (h : ∀ m, MRT_DRAM_CFG m ≠ a) : d.ReadsAlike (d.setReg a v) := by
  have linear (m : Nat) : (d.setReg a v).linear m = d.linear m := by
    unfold Dev.linear Dev.rbit Dev.rn
    rw [reg_setReg_ne _ _ (h m)]
  exact ⟨⟨rfl, rfl, rfl, rfl, rfl, mask_of_linear (e := d.setReg a v) rfl linear⟩, rfl, rfl, rfl, rfl, rfl, rfl, rfl, linear⟩

theorem fresh_readsAlike (d : Dev) : d.ReadsAlike d.fresh := by
  have linear (m : Nat) : d.fresh.linear m = d.linear m := rbit_congr (reg_congr rfl rfl _) 0
  exact ⟨⟨rfl, rfl, rfl, rfl, rfl, mask_of_linear rfl linear⟩, rfl, rfl, rfl, rfl, rfl, rfl, rfl, linear⟩

theorem setEng_readsAlike (d : Dev) (n e : Nat) (x : Eng) : d.ReadsAlike (d.setEng n e x) := by
  have linear (m : Nat) : (d.setEng n e x).linear m = d.linear m := rbit_congr (reg_congr rfl rfl _) 0
  exact ⟨⟨rfl, rfl, rfl, rfl, rfl, mask_of_linear rfl linear⟩, rfl, rfl, rfl, rfl, rfl, rfl, rfl, linear⟩

theorem engPop_readsAlike (d : Dev) (n e p : Nat) : d.ReadsAlike (d.engPop n e p) := by
  unfold engPop
  exact d.setEng_readsAlike n e _

theorem engBufErrors_readsAlike (d : Dev) {g : EngIssue} (engine : e < 4) (k : EngCmd) (good : g.bufUe = none) : d.ReadsAlike (d.engBufErrors n e g k) := by
  unfold engBufErrors
  rw [good]
  dsimp only
  split
  · exact ⟨.refl d, rfl, rfl, rfl, rfl, rfl, rfl, rfl, fun _ => rfl⟩
  · exact (setReg_readsAlike d _ fun m => engBase_ne_cfg m n engine (by decide)).trans (setReg_readsAlike _ _ fun m => engBase_ne_cfg m n engine (by decide))

theorem bump_engs (d : Dev) (a i : Nat) : (d.bump a i).engs = d.engs := rfl

theorem orBits_engs (d : Dev) (a m : Nat) : (d.orBits a m).engs = d.engs := rfl

theorem engBufErrors_engs (d : Dev) {g : EngIssue} (k : EngCmd) (good : g.bufUe = none) : (d.engBufErrors n e g k).engs = d.engs := by
  unfold engBufErrors
  rw [good]
  dsimp only
  split
  · rfl
  · exact (bump_engs _ _ _).trans (orBits_engs d _ _)

/-! ### A command that runs (R216) -/

theorem streamConflict_memOnly (d : Dev) (c r : Nat) : d.MemOnly (d.streamConflict c r).2 := by
  unfold streamConflict
  dsimp only
  split
  · exact .refl d
  · split
    · split
      · exact .refl d
      · exact d.askSquash_memOnly _ _
    · exact d.askSquash_memOnly _ _

theorem cutStream_engs (d : Dev) (c sn st len : Nat) : (d.cutStream c sn st len).engs = d.engs := by
  unfold cutStream
  split
  · rfl
  · next q _ =>
    have conflict : (d.streamConflict c (q.record (d.rd View.plain) st)).2.engs = d.engs := by rw [(streamConflict_memOnly _ _ _).eq]
    dsimp only
    split
    · exact conflict
    · dsimp only
      rw [(wr_memOnly _ _ _ _).eq]
      exact conflict

theorem engCut_engs (d : Dev) (e : Nat) (k : EngCmd) (bs : List Byte) : (d.engCut e k bs).engs = d.engs := by
  have cut (c sn len : Nat) : (d.cutSeq c sn len).engs = d.engs := by
    unfold cutSeq
    split
    · exact List.foldlRecOn (motive := fun e : Dev => e.engs = d.engs) _ _ rfl fun e same st _ => (e.cutStream_engs _ _ _ _).trans same
    · rfl
  unfold engCut
  split
  · exact cut _ _ _
  · split
    · exact cut _ _ _
    · rfl

theorem scramble_engs (d : Dev) (v : View) (rs : List (Nat × Nat)) : (d.scramble v rs).engs = d.engs :=
  List.foldlRecOn (motive := fun e : Dev => e.engs = d.engs) rs _ rfl fun e same r _ => by
    dsimp only
    rw [(wr_memOnly _ _ _ _).eq]
    exact same

theorem jobWrites_engs (d : Dev) (c : Nat) (ws : List (Nat × List Byte)) : (d.jobWrites c ws).engs = d.engs := by
  rw [(d.jobWrites_safetyOnly c ws).eq]

/-- What is stored by a command that passed its checks. -/
def engStored (d : Dev) (e : Nat) (k : EngCmd) (bs : List Byte) : Dev :=
  Dev.scramble (Dev.jobWrites (d.engCut e k bs) k.ctx (d.engOut e k bs).stores) (d.viewOf k.ctx) (d.engOut e k bs).undef

theorem engStored_engs (d : Dev) (e : Nat) (k : EngCmd) (bs : List Byte) : (d.engStored e k bs).engs = d.engs :=
  (scramble_engs _ _ _).trans ((jobWrites_engs _ _ _).trans (engCut_engs _ _ _ _))

/-- The run of a command that has stored what it computed. -/
def runOf (k : EngCmd) (o : EngOut) : EngRun := { cmd := k, status := o.status, outs := o.stores.map (fun s => (s.1, s.2.length)) ++ o.undef }

/-- What an engine shows of a command that it runs: what it stored stands, the queues are as they were, and the saturations are counted. -/
structure EngRuns (d m : Dev) (n e : Nat) (k : EngCmd) (o : EngOut) (x : Dev) : Prop where
  mem : x.mem = m.mem
  tags : x.tags = m.tags
  shadow : x.shadow = m.shadow
  seqs : x.seqs = m.seqs
  run : (x.eng n e).run = some (runOf k o)
  queues : (x.eng n e).queues = (d.eng n e).queues
  saturations : x.rn ((Block.eng n e).base + 0x2C) = min (m.rn ((Block.eng n e).base + 0x2C) + o.sat) 0xFFFFFFFF

/-- The record of a truncation, where there was one. -/
def tellKept (d : Dev) (b : Block) (c : Nat) (truncated : Option Nat) : Dev := match truncated with
  | some kept => d.emit b 0x0503 0 c kept
  | none => d

theorem tellKept_eq (d : Dev) (b : Block) (c : Nat) (truncated : Option Nat) :
    ∃ evs i, d.tellKept b c truncated = { d with jfe := { d.jfe with ev := evs, evSeq := i } } := by
  cases truncated with
  | some kept => exact d.emit_eq _ _ _ _ _
  | none => exact ⟨d.jfe.ev, d.jfe.evSeq, rfl⟩

/-- The engine is busy with the command. -/
def engBusyWith (d : Dev) (n e : Nat) (k : EngCmd) (o : EngOut) : Dev := d.setEng n e { d.eng n e with run := some (runOf k o) }

theorem engRun_eq (d : Dev) (n e : Nat) (k : EngCmd) (bs : List Byte) :
    d.engRun n e k bs = Dev.engBusyWith (Dev.tellKept ((d.engStored e k bs).bump ((Block.eng n e).base + 0x2C) (d.engOut e k bs).sat) (.eng n e) k.ctx (d.engOut e k bs).truncated)
      n e k (d.engOut e k bs) := by
  unfold engRun engBusyWith tellKept engStored
  rfl

theorem eng_congr {d e : Dev} (h : e.engs = d.engs) (n i : Nat) : e.eng n i = d.eng n i := by
  rw [Dev.eng, h]
  rfl

theorem engBusyWith_runs (d : Dev) (n e : Nat) (k : EngCmd) (o : EngOut) : ((d.engBusyWith n e k o).eng n e).run = some (runOf k o) ∧
    ((d.engBusyWith n e k o).eng n e).queues = (d.eng n e).queues := by
  have set : (d.engBusyWith n e k o).eng n e = { d.eng n e with run := some (runOf k o) } := FMap.get_set_self Eng.idle d.engs _ _
  rw [set]
  exact ⟨rfl, rfl⟩

theorem engBusyWith_reg (d : Dev) (n e : Nat) (k : EngCmd) (o : EngOut) (a : Nat) : (d.engBusyWith n e k o).reg a = d.reg a := reg_congr rfl rfl a

theorem engRun_runs (d : Dev) (n e : Nat) (k : EngCmd) (bs : List Byte) : EngRuns d (d.engStored e k bs) n e k (d.engOut e k bs) (d.engRun n e k bs) := by
  rw [engRun_eq]
  generalize d.engOut e k bs = o
  have engs := d.engStored_engs e k bs
  generalize d.engStored e k bs = m at engs ⊢
  have counted := m.reg_bump ((Block.eng n e).base + 0x2C) o.sat
  have bumped := (CountOnly.bump m ((Block.eng n e).base + 0x2C) o.sat).eq
  generalize m.bump ((Block.eng n e).base + 0x2C) o.sat = y at counted bumped ⊢
  obtain ⟨evs, i, told⟩ := y.tellKept_eq (.eng n e) k.ctx o.truncated
  generalize y.tellKept (.eng n e) k.ctx o.truncated = z at told ⊢
  obtain ⟨run, queues⟩ := z.engBusyWith_runs n e k o
  refine ⟨?_, ?_, ?_, ?_, run, queues.trans ?_, ?_⟩
  · exact (congrArg Dev.mem told :).trans (congrArg Dev.mem bumped :)
  · exact (congrArg Dev.tags told :).trans (congrArg Dev.tags bumped :)
  · exact (congrArg Dev.shadow told :).trans (congrArg Dev.shadow bumped :)
  · exact (congrArg Dev.seqs told :).trans (congrArg Dev.seqs bumped :)
  · have engs' : z.engs = d.engs := ((congrArg Dev.engs told :).trans (congrArg Dev.engs bumped :)).trans engs
    rw [eng_congr engs']
  · rw [← counted]
    have regs : z.regs = y.regs := (congrArg Dev.regs told :)
    have hw : z.hw = y.hw := (congrArg Dev.hw told :)
    have same := reg_congr regs hw ((Block.eng n e).base + 0x2C)
    exact congrArg BitVec.toNat ((z.engBusyWith_reg n e k o _).trans same)

end Dev
namespace Dev

variable {d : Dev} {n e : Nat} {k : EngCmd} {g : EngIssue}

/-! ### A command that is refused (R215) -/

/-- A refused command beside registers, counters, records and its ticket leaves the device as it was. -/
structure EngRefused (d : Dev) (n e : Nat) (k : EngCmd) (st field : Nat) (x : Dev) : Prop where
  mem : x.mem = d.mem
  cores : x.cores = d.cores
  engs : x.engs = d.engs
  reject : x.reg ((Block.eng n e).base + 0x34) = BitVec.ofNat 32 (st * 2 ^ 24 + k.ctx * 4096 + field)
  completes : d.Completes x k st
  told : d.keystoneUp = true → ∃ ev : Event, x.jfe.ev = d.jfe.ev ++ [ev] ∧ ev.code = 0x0501 ∧ ev.arg0 = BitVec.ofNat 32 k.ctx

theorem blkCount_reg (d : Dev) (b : Block) (ev i a : Nat) : (d.blkCount b ev i).reg a = d.reg a := by
  have eq := d.blkCount_gau b ev i
  have regs : (d.blkCount b ev i).regs = d.regs := (congrArg Dev.regs eq :)
  have hw : (d.blkCount b ev i).hw = d.hw := (congrArg Dev.hw eq :)
  exact reg_congr regs hw a

theorem engEnded_reg (d : Dev) (n e status : Nat) {a : Nat} (count : a ≠ (Block.eng n e).base + 0x24) (errors : a ≠ (Block.eng n e).base + 0x28) :
    (d.engEnded n e status).reg a = d.reg a := by
  have counted : ((d.bump ((Block.eng n e).base + 0x24) 1).blkCount (.eng n e) 1 1).reg a = d.reg a := (blkCount_reg _ _ _ _ _).trans (reg_bump_ne d 1 count)
  unfold engEnded
  dsimp only
  split
  · exact counted
  · exact (reg_bump_ne _ 1 errors).trans counted

theorem completeTicket_reg (d : Dev) (c : Nat) (t : Option Nat) (st : BitVec 8) (a : Nat) : (d.completeTicket c t st).reg a = d.reg a := by
  have eq := d.completeTicket_rest c t st
  have regs : (d.completeTicket c t st).regs = d.regs := (congrArg Dev.regs eq :)
  have hw : (d.completeTicket c t st).hw = d.hw := (congrArg Dev.hw eq :)
  exact reg_congr regs hw a

theorem emit_reg (d : Dev) (b : Block) (code sev a0 a1 a : Nat) : (d.emit b code sev a0 a1).reg a = d.reg a := by
  obtain ⟨_, _, eq⟩ := d.emit_eq b code sev a0 a1
  have regs : (d.emit b code sev a0 a1).regs = d.regs := (congrArg Dev.regs eq :)
  have hw : (d.emit b code sev a0 a1).hw = d.hw := (congrArg Dev.hw eq :)
  exact reg_congr regs hw a

theorem CountOnly.setNat (d : Dev) (a v : Nat) : d.CountOnly (d.setNat a v) := ⟨rfl⟩

theorem engReject_refuses (d : Dev) (n e : Nat) (k : EngCmd) (st field : Nat) : d.EngRefused n e k st field (d.engReject n e k st field) := by
  unfold engReject
  dsimp only
  have set := reg_setNat d ((Block.eng n e).base + 0x34) (st * 2 ^ 24 + k.ctx * 4096 + field)
  have only : d.CountOnly (d.setNat ((Block.eng n e).base + 0x34) (st * 2 ^ 24 + k.ctx * 4096 + field)) := .setNat _ _ _
  generalize d.setNat ((Block.eng n e).base + 0x34) (st * 2 ^ 24 + k.ctx * 4096 + field) = d1 at set only ⊢
  have reg2 := d1.emit_reg (.eng n e) 0x0501 1 k.ctx (st * 2 ^ 24 + k.ctx * 4096 + field) ((Block.eng n e).base + 0x34)
  have told := d1.emit_up (.eng n e) 0x0501 1 k.ctx (st * 2 ^ 24 + k.ctx * 4096 + field)
  obtain ⟨evs, i, eq⟩ := d1.emit_eq (.eng n e) 0x0501 1 k.ctx (st * 2 ^ 24 + k.ctx * 4096 + field)
  generalize d1.emit (.eng n e) 0x0501 1 k.ctx (st * 2 ^ 24 + k.ctx * 4096 + field) = d2 at reg2 told eq ⊢
  have reg3 := d2.engEnded_reg n e st (a := (Block.eng n e).base + 0x34) (by omega) (by omega)
  have ended := (d2.engEnded_countOnly n e st).eq
  generalize d2.engEnded n e st = d3 at reg3 ended ⊢
  have reg4 := d3.completeTicket_reg k.ctx k.ticket (BitVec.ofNat 8 st) ((Block.eng n e).base + 0x34)
  have rest := d3.completeTicket_rest k.ctx k.ticket (BitVec.ofNat 8 st)
  have tickets : d3.tickets = d.tickets := ((congrArg Dev.tickets ended :).trans (congrArg Dev.tickets eq :)).trans (congrArg Dev.tickets only.eq :)
  have completes := completeTicket_completes tickets k st
  generalize d3.completeTicket k.ctx k.ticket (BitVec.ofNat 8 st) = d4 at reg4 rest completes ⊢
  refine ⟨?_, ?_, ?_, ((reg4.trans reg3).trans reg2).trans set, completes, fun up => ?_⟩
  · exact ((congrArg Dev.mem rest :).trans (congrArg Dev.mem ended :)).trans ((congrArg Dev.mem eq :).trans (congrArg Dev.mem only.eq :))
  · exact ((congrArg Dev.cores rest :).trans (congrArg Dev.cores ended :)).trans ((congrArg Dev.cores eq :).trans (congrArg Dev.cores only.eq :))
  · exact ((congrArg Dev.engs rest :).trans (congrArg Dev.engs ended :)).trans ((congrArg Dev.engs eq :).trans (congrArg Dev.engs only.eq :))
  · have up' : d1.keystoneUp = true := by
      rw [keystoneUp, (congrArg Dev.sec only.eq :)]
      exact up
    obtain ⟨ev, eq', -, code, -, arg, -⟩ := told up'
    have jfe : d4.jfe = d2.jfe := (congrArg Dev.jfe rest :).trans (congrArg Dev.jfe ended :)
    have before : d1.jfe = d.jfe := (congrArg Dev.jfe only.eq :)
    refine ⟨ev, ?_, code, arg⟩
    rw [jfe, eq', before]

/-! ### An engine that starts -/

theorem engStart_eq {s : State} (free : s.dev.engFree g.die e = true) (turn : s.dev.engTurn g.die e g.part = true) (head : s.dev.engHead g.die e g.part = some k) :
    s.dev.fresh.engStart e (engOpOf e (s.dev.engBytes e k)) g = (s.dev.fresh.engPop g.die e g.part).engWork g.die e g k := by
  have free' : s.dev.fresh.engFree g.die e = true := free
  have turn' : s.dev.fresh.engTurn g.die e g.part = true := turn
  have head' : s.dev.fresh.engHead g.die e g.part = some k := head
  unfold engStart
  rw [free', turn', head']
  dsimp only
  rw [if_neg (by decide), s.dev.fresh_readsAlike.engBytes, if_pos rfl]

section
variable {st : Nat} {q : Dev} (alike : d.ReadsAlike q) (access : d.accessStatus (d.viewOf k.ctx) k.addr (cmdBytes e) true = none)
  (home : d.homeFenced e k (d.engBytes e k) = false)
include alike access home

theorem engWork_refused {field : Nat} (bad : d.engChecks n e k (d.engBytes e k) (d.rangeOk k.part) = some (st, field)) :
    q.engWork n e g k = q.engReject n e k st field := by
  unfold engWork
  dsimp only
  rw [alike.accessStatus, access]
  dsimp only
  rw [alike.engBytes, alike.engChecks, bad]
  dsimp only
  rw [alike.homeFenced, home]
  exact if_neg (by decide)

theorem engWork_runs (good : d.engChecks n e k (d.engBytes e k) (d.rangeOk k.part) = none) (mem : g.mem = []) (buf : g.bufUe = none)
    (meets : q.engMemory n e k (d.engBytes e k) = none) : q.engWork n e g k = (q.engBufErrors n e g k).engRun n e k (d.engBytes e k) := by
  unfold engWork
  dsimp only
  rw [alike.accessStatus, access]
  dsimp only
  rw [alike.engBytes, alike.engChecks, good]
  dsimp only
  rw [alike.homeFenced, home, if_neg (by decide), mem, List.filter_nil, List.foldl_nil, meets]
  dsimp only
  rw [buf]

end

end Dev
/-! ### The statement -/

/-- The engine commands: engine, operation and instruction. -/
def engCommands : List (Nat × Nat × (EngIssue → Instr)) :=
  [(0, 1, .conv), (0, 2, .convTransposed), (0, 3, .pool), (0, 4, .resample), (1, 1, .ingest), (1, 2, .plinthConv), (1, 3, .ingestConv), (2, 1, .detect),
    (2, 2, .suppress), (3, 1, .attend), (3, 2, .verify), (3, 3, .truncate), (3, 4, .attendBwd)]

/-- Every engine command starts its operation at its engine. -/
theorem exec_engCommand {p : Nat × Nat × (EngIssue → Instr)} (mem : p ∈ engCommands) (g : EngIssue) (s : State) :
    p.1 < 4 ∧ exec (p.2.2 g) s = s.runIf (s.dev.hw.hasDie g.die) (fun d => (d.engStart p.1 p.2.1 g).settle) := by
  simp only [engCommands, List.mem_cons, List.not_mem_nil, or_false] at mem
  rcases mem with rfl | rfl | rfl | rfl | rfl | rfl | rfl | rfl | rfl | rfl | rfl | rfl | rfl <;> exact ⟨by decide, rfl⟩

/-- What a command with a known operation code computes. -/
theorem Dev.engOut_spec (d : Dev) {e op : Nat} {k : EngCmd} {bs : List Byte} (known : fieldAt bs 2 1 = op) :
    (e = 0 → op ≤ 2 → 1 ≤ op → d.engOut e k bs = runConv bs (d.rdFor k.ctx)) ∧ (e = 0 → op = 3 → d.engOut e k bs = runPool bs (d.rdFor k.ctx)) ∧
    (e = 0 → op = 4 → d.engOut e k bs = runResample bs (d.rdFor k.ctx)) ∧ (e = 1 → op = 1 → d.engOut e k bs = runIngest bs (d.rdFor k.ctx)) ∧
    (e = 1 → op = 2 → d.engOut e k bs = runPlinthConv bs (d.rdFor k.ctx)) ∧ (e = 1 → op = 3 → d.engOut e k bs = runIngestConv bs (d.rdFor k.ctx)) ∧
    (e = 2 → d.engOut e k bs = runSieve bs (d.rdFor k.ctx)) ∧ (e = 3 → op = 4 → d.engOut e k bs = runAttendBwd bs (d.rdFor k.ctx)) ∧
    (e = 3 → op = 1 → tPaged bs = false → d.engOut e k bs = runAttendDense bs (d.rdFor k.ctx)) := by
  refine ⟨?_, ?_, ?_, ?_, ?_, ?_, ?_, ?_, ?_⟩
  · rintro rfl high low
    simp only [Dev.engOut, known, if_true]
    exact if_pos (by omega)
  · rintro rfl rfl
    simp [Dev.engOut, known]
  · rintro rfl rfl
    simp [Dev.engOut, known]
  · rintro rfl rfl
    simp [Dev.engOut, known]
  · rintro rfl rfl
    simp [Dev.engOut, known]
  · rintro rfl rfl
    simp [Dev.engOut, known]
  · rintro rfl
    simp [Dev.engOut]
  · rintro rfl rfl
    simp [Dev.engOut, known]
  · rintro rfl rfl dense
    simp [Dev.engOut, Dev.trcSeq, tOp, known, dense]

theorem engOpOf_pos (e : Nat) (bs : List Byte) : 1 ≤ engOpOf e bs := by
  unfold engOpOf
  dsimp only
  split
  · next known => exact known.1
  · exact Nat.le_refl 1

theorem Dev.run_of_free {d : Dev} {n e : Nat} (free : d.engFree n e = true) : (d.eng n e).run = none := by
  simp only [Dev.engFree, Bool.and_eq_true, Option.isNone_iff_eq_none] at free
  exact free.2

theorem Dev.engPop_setEng (d : Dev) (n e p : Nat) : ∃ x : Eng, d.engPop n e p = d.setEng n e x ∧ x.run = (d.eng n e).run ∧
    x.queues = FMap.modify [] (d.eng n e).queues p (fun q => q.drop 1) := ⟨_, rfl, rfl, rfl⟩

theorem Dev.eng_setEng (d : Dev) (n e : Nat) (x : Eng) : (d.setEng n e x).eng n e = x := FMap.get_set_self Eng.idle d.engs (4 * n + e) x

theorem Dev.engPop_run (d : Dev) (n e p : Nat) : ((d.engPop n e p).eng n e).run = (d.eng n e).run := by
  obtain ⟨x, eq, run, -⟩ := d.engPop_setEng n e p
  rw [eq, Dev.eng_setEng, run]

theorem Dev.engPop_queue (d : Dev) (n e p : Nat) : FMap.get [] ((d.engPop n e p).eng n e).queues p = (FMap.get [] (d.eng n e).queues p).drop 1 := by
  obtain ⟨x, eq, -, queues⟩ := d.engPop_setEng n e p
  rw [eq, Dev.eng_setEng, queues]
  exact FMap.get_set_self _ _ _ _

/-- Settles O41: the engine takes the command; what it refuses or runs is one of the operations above. -/
theorem engineOperationResults : Obligations.EngineOperationResults := by
  unfold Obligations.EngineOperationResults
  intro s g k p mem e op n bs base q die free turn head opIs access home
  obtain ⟨engine, command⟩ := exec_engCommand mem g s
  have alike : s.dev.ReadsAlike q := s.dev.fresh_readsAlike.trans (Dev.engPop_readsAlike _ _ _ _)
  have started : s.dev.fresh.engStart e op g = q.engWork n e g k := by
    rw [← opIs]
    exact Dev.engStart_eq free turn head
  rw [command]
  refine ⟨fun good mem_ buf meets => ?runs, fun st f bad => ?refused⟩
  case runs =>
    have known : fieldAt bs 2 1 = op := (Dev.engOpOf_of_pass engine good).trans opIs
    have positive : 1 ≤ op := by
      rw [← opIs]
      exact engOpOf_pos e bs
    have errors := Dev.engBufErrors_readsAlike (n := n) (e := e) q engine k buf
    obtain ⟨mem, tags, shadow, seqs, run, queues, sat⟩ := (q.engBufErrors n e g k).engRun_runs n e k bs
    have out := (alike.trans errors).engOut e k bs
    have stored : (q.engBufErrors n e g k).engStored e k bs = Dev.scramble (Dev.jobWrites ((q.engBufErrors n e g k).engCut e k bs) k.ctx (s.dev.engOut e k bs).stores)
        (s.dev.viewOf k.ctx) (s.dev.engOut e k bs).undef := by
      rw [Dev.engStored, out, (alike.trans errors).viewOf]
    have engs : (q.engBufErrors n e g k).eng n e = q.eng n e := Dev.eng_congr (q.engBufErrors_engs k buf) n e
    rw [out] at run sat
    rw [engs] at queues
    refine ans_setIf (g := fun d => d.engStart e op g) die ?_
    rw [started, Dev.engWork_runs alike access home good mem_ buf meets]
    obtain ⟨conv, pool, resample, ingest, plinth, both, sieve, bwd, dense⟩ := s.dev.engOut_spec (e := e) (k := k) known
    exact ⟨_, _, rfl, fun h0 low => conv h0 low positive, pool, resample, ingest, plinth, both, sieve, bwd, dense, stored, mem, tags, shadow, seqs, run,
      (congrArg (FMap.get [] · g.part) queues).trans (Dev.engPop_queue s.dev.fresh n e g.part), sat⟩
  case refused =>
    refine ans_setIf (g := fun d => d.engStart e op g) die ?_
    rw [started, Dev.engWork_refused alike access home bad]
    obtain ⟨mem, cores, engs, reject, completes, told⟩ := q.engReject_refuses n e k st f
    refine ⟨mem, cores, ?_, reject, completes, told⟩
    rw [Dev.eng_congr engs]
    exact (Dev.engPop_run s.dev.fresh n e g.part).trans (Dev.run_of_free free)

end Sys2Proof.Machine
end

section
/-! SUPPORT. Cairn's commands (R272, R273, R281–R302): what their end leaves as it was, how they start, what a slice boundary commits, and how a fallback
is handed over. -/
namespace Sys2Proof.Machine

/-- Cairn is the same, and so are the registers but for the counters of plans. -/
structure Dev.CrnAside (d e : Dev) : Prop where
  crn : e.crn = d.crn
  reg : ∀ a, a ≠ CRN_PLAN_COUNT → a ≠ CRN_NOPATH_COUNT → a ≠ CRN_TIMEOUT_COUNT → e.reg a = d.reg a

namespace Dev

variable {d e f : Dev}

theorem CrnAside.refl (d : Dev) : d.CrnAside d := ⟨rfl, fun _ _ _ _ => rfl⟩

theorem CrnAside.trans (h : d.CrnAside e) (k : e.CrnAside f) : d.CrnAside f :=
  ⟨k.crn.trans h.crn, fun a n1 n2 n3 => (k.reg a n1 n2 n3).trans (h.reg a n1 n2 n3)⟩

theorem CrnAside.of_same (crn : e.crn = d.crn) (regs : e.regs = d.regs) (hw : e.hw = d.hw) : d.CrnAside e := ⟨crn, fun a _ _ _ => reg_congr regs hw a⟩

theorem SafetyOnly.crnAside (h : d.SafetyOnly e) : d.CrnAside e :=
  .of_same h.crn (congrArg Dev.regs h.eq :) (congrArg Dev.hw h.eq :)

theorem MemOnly.crnAside (h : d.MemOnly e) : d.CrnAside e := h.safetyOnly.crnAside

theorem leaveEpoch_crnAside (d : Dev) (c : Nat) : d.CrnAside (d.leaveEpoch c) := by
  unfold leaveEpoch
  split
  · exact .of_same rfl rfl rfl
  · exact .refl d

theorem setCtx_crnAside (d : Dev) (c : Nat) (x : Ctx) : d.CrnAside (d.setCtx c x) := .of_same rfl rfl rfl

theorem complete_crnAside (d : Dev) (k : Completion) : d.CrnAside (d.complete k) := .of_same rfl rfl rfl

theorem dropTickets_crnAside (d : Dev) (c : Nat) : d.CrnAside (d.dropTickets c) := .of_same rfl rfl rfl

theorem dropSaves_crnAside (d : Dev) (c : Nat) : d.CrnAside (d.dropSaves c) := .of_same rfl rfl rfl

theorem endCtx_crnAside (d : Dev) (c : Nat) (status : BitVec 8) : d.CrnAside (d.endCtx c status) := by
  unfold endCtx
  dsimp only
  refine CrnAside.trans ?_ (resolverGone_memOnly _ _).crnAside
  refine CrnAside.trans ?_ (complete_crnAside _ _)
  refine CrnAside.trans ?_ (putCtx_memOnly _ _ _).crnAside
  refine CrnAside.trans ?_ (setCtx_crnAside _ _ _)
  refine CrnAside.trans ?_ (dropTickets_crnAside _ c)
  refine CrnAside.trans ?_ (dropSaves_crnAside _ c)
  exact ((d.closeUnclosed_safetyOnly _ _ _).crnAside.trans (writerLost_memOnly _ c status).crnAside).trans (leaveEpoch_crnAside _ c)

theorem bump_crnAside {a : Nat} (d : Dev) (n : Nat) (count : a = CRN_PLAN_COUNT ∨ a = CRN_NOPATH_COUNT ∨ a = CRN_TIMEOUT_COUNT) : d.CrnAside (d.bump a n) :=
  ⟨rfl, fun b n1 n2 n3 => reg_bump_ne d n (by rcases count with rfl | rfl | rfl <;> assumption)⟩

theorem planFailed_safetyOnly (d : Dev) (k : EngCmd) (st : Nat) : d.SafetyOnly (d.planFailed k st) := by
  refine (Dev.emit_safetyOnly d _ _ _ _ _).trans (.foldl (fun e b => ?_) _ _)
  split
  · exact Dev.fallback_safetyOnly _ _ _ _ _
  · exact .refl e

theorem planCounts_crnAside (d : Dev) (k : EngCmd) (st : Nat) : d.CrnAside (d.planCounts k st) := by
  have plans := d.bump_crnAside 1 (.inl rfl)
  have counted : d.CrnAside (if st = 8 then (d.bump CRN_PLAN_COUNT 1).bump CRN_NOPATH_COUNT 1
      else if st = 9 then (d.bump CRN_PLAN_COUNT 1).bump CRN_TIMEOUT_COUNT 1 else d.bump CRN_PLAN_COUNT 1) := by
    split
    · exact plans.trans (bump_crnAside _ 1 (.inr (.inl rfl)))
    · split
      · exact plans.trans (bump_crnAside _ 1 (.inr (.inr rfl)))
      · exact plans
  unfold planCounts
  dsimp only
  split
  · exact counted.trans (planFailed_safetyOnly _ k st).crnAside
  · exact counted

theorem completeTicket_crnAside (d : Dev) (c : Nat) (t : Option Nat) (st : BitVec 8) : d.CrnAside (d.completeTicket c t st) := by
  have eq := d.completeTicket_rest c t st
  exact .of_same (congrArg Dev.crn eq :) (congrArg Dev.regs eq :) (congrArg Dev.hw eq :)

/-- The end of a command leaves Cairn as it was. -/
theorem crnEnd_crnAside (d : Dev) (k : EngCmd) (bs tail : List Byte) (h : ResultHead) : d.CrnAside (d.crnEnd k bs tail h) := by
  have wrote : d.CrnAside (if d.crnResultOk k bs then
      (if tail.isEmpty then d else d.jobWrites k.ctx [(cResult bs + 64, tail)]).jobWrites k.ctx [(cResult bs, h.bytes)] else d) := by
    split
    · refine .trans ?_ (Dev.jobWrites_safetyOnly _ _ _).crnAside
      split
      · exact .refl d
      · exact (Dev.jobWrites_safetyOnly _ _ _).crnAside
    · exact .refl d
  unfold crnEnd
  dsimp only
  generalize (if d.crnResultOk k bs then
      (if tail.isEmpty then d else d.jobWrites k.ctx [(cResult bs + 64, tail)]).jobWrites k.ctx [(cResult bs, h.bytes)] else d) = x at wrote ⊢
  have counted : d.CrnAside (if cOp bs = 4 then x.planCounts k h.status else x) := by
    split
    · exact wrote.trans (Dev.planCounts_crnAside x k h.status)
    · exact wrote
  generalize (if cOp bs = 4 then x.planCounts k h.status else x) = y at counted ⊢
  split
  · exact counted.trans (completeTicket_crnAside _ _ _ _)
  · exact counted.trans ((setCtx_crnAside _ _ _).trans (endCtx_crnAside _ _ _))

end Dev
namespace Dev

/-! ### A command is taken (R272, R273) -/

theorem ReadsAlike.accessStatus_plain {d e : Dev} (h : d.ReadsAlike e) (a n : Nat) (read : Bool) :
    e.accessStatus View.plain a n read = d.accessStatus View.plain a n read := by
  simp only [Dev.accessStatus, Dev.fencedIn, Dev.memFenced, Dev.poisonedIn, h.hw, h.served, h.dieFenced, h.layerAt, h.readsShadow, h.poison]

theorem ReadsAlike.classOf {d e : Dev} (h : d.ReadsAlike e) (p : Nat) : e.classOf p = d.classOf p := by
  rw [Dev.classOf, h.part]
  rfl

/-- The devices agree in what Cairn judges a command by. -/
structure CrnAlike (d e : Dev) : Prop extends d.ReadsAlike e where
  regs : e.regs = d.regs
  world : e.crn.world = d.crn.world
  roadmap : e.crn.roadmap = d.crn.roadmap

theorem crnPop_alike (d : Dev) (p : Nat) : d.CrnAlike (d.fresh.crnPop p) := by
  have linear (m : Nat) : (d.fresh.crnPop p).linear m = d.linear m := rbit_congr (reg_congr rfl rfl _) 0
  exact ⟨⟨⟨rfl, rfl, rfl, rfl, rfl, mask_of_linear rfl linear⟩, rfl, rfl, rfl, rfl, rfl, rfl, rfl, linear⟩, rfl, rfl, rfl⟩

variable {d e : Dev} {k : EngCmd} {g : EngIssue} {bs : List Byte}

section
variable (h : d.CrnAlike e)
include h

theorem CrnAlike.rbit (a i : Nat) : e.rbit a i = d.rbit a i := rbit_congr (reg_congr h.regs h.hw a) i

theorem CrnAlike.crnPermitted (k : EngCmd) (op : Nat) : e.crnPermitted k op = d.crnPermitted k op := by
  simp only [Dev.crnPermitted, h.toReadsAlike.classOf, h.rbit]

theorem CrnAlike.crnBar (k : EngCmd) (bs : List Byte) : e.crnBar k bs = d.crnBar k bs := by
  simp only [Dev.crnBar, h.hw, h.rangeOk, h.crnPermitted, h.world, h.roadmap]

theorem CrnAlike.crnPrepare (bs : List Byte) : e.crnPrepare bs = d.crnPrepare bs := by
  simp only [Dev.crnPrepare, h.rd, h.world]

end

theorem crnOpOf_of_known {op : Nat} (opIs : cOp bs = op) (known : 1 ≤ op ∧ op ≤ 5) : crnOpOf bs = op := by
  subst opIs
  exact if_pos known

/-- Is the path free that a command of this operation takes? -/
def crnFree (d : Dev) (world : Bool) : Bool := if world then d.crn.worldRun.isNone else d.crn.check.isNone

theorem crnStart_eq {op : Nat} (on : d.crnOn = true) (free : d.crnFree (onWorldPath op) = true) (best : d.crnBest (onWorldPath op) = some k)
    (own : k.part = g.part) (opIs : crnOpOf (d.crnBytes k) = op) : d.crnStart op g = (d.crnPop k.part).crnWork g k (d.crnBytes k) := by
  have idle : (if onWorldPath op then d.crn.worldRun.isSome else d.crn.check.isSome) = false := by
    unfold crnFree at free
    split at free
    · next h =>
      rw [if_pos h]
      simpa using free
    · next h =>
      rw [if_neg h]
      simpa using free
  unfold crnStart
  dsimp only
  rw [on, idle, if_neg (by decide), best]
  exact if_pos ⟨own, opIs⟩

section
variable (here : absentRange d.hw k.addr 256 = false) (access : d.accessStatus View.plain k.addr 256 true = none)
include here access

theorem crnWork_refused {st f : Nat} (bar : d.crnBar k bs = some (.status st f)) : d.crnWork g k bs = d.crnReject k bs st f := by
  unfold crnWork
  dsimp only
  rw [here, if_neg (by decide), access]
  dsimp only
  rw [bar]

theorem crnWork_starts (bar : d.crnBar k bs = none)
    (areas : ∀ a ∈ (k.addr, 256, 0) :: (cairnAreas bs).map (fun r => (r.2.1, r.2.2.1, r.2.2.2)), d.accessStatus View.plain a.1 a.2.1 (a.2.2 == 0) = none)
    (mem : g.mem = []) (ce : g.bufCe = 0) (ue : g.bufUe = none) :
    d.crnWork g k bs = if onWorldPath (cOp bs) then d.crnStartWorld k bs else d.crnStartCheck k bs := by
  have clear : ((k.addr, 256, 0) :: (cairnAreas bs).map (fun r => (r.2.1, r.2.2.1, r.2.2.2))).findSome?
      (fun r => (d.accessStatus View.plain r.1 r.2.1 (r.2.2 == 0)).map (fun st => (r, st))) = none := by
    rw [List.findSome?_eq_none_iff]
    intro r mem
    rw [areas r mem]
    rfl
  unfold crnWork
  dsimp only
  rw [here, if_neg (by decide), access]
  dsimp only
  rw [bar]
  dsimp only
  rw [mem, List.filter_nil, List.foldl_nil, clear]
  dsimp only
  rw [if_pos ce, ue]

end

/-! ### What a command that starts leaves (R273, R281, R288) -/

theorem crnStartWorld_prepared {p : Prepared} (ok : d.crnPrepare bs = .ok p) :
    d.crnStartWorld k bs = { d with crn := { d.crn with worldRun := some { cmd := k, bytes := bs, prep := p, committed := false } } } := by
  unfold crnStartWorld
  rw [ok]

theorem crnStartWorld_failed {st : Nat} (bad : d.crnPrepare bs = .error st) (ticket : k.ticket ≠ none) :
    (d.crnStartWorld k bs).crn = d.crn ∧ d.Completes (d.crnStartWorld k bs) k st := by
  unfold crnStartWorld
  rw [bad]
  exact d.crnCycles.2.crnEnd_spec ticket bs [] { d.crnHead k bs st with cycles := d.crnCycles.1 }

theorem crnReject_spec (ticket : k.ticket ≠ none) (st f : Nat) : (d.crnReject k bs st f).crn = d.crn ∧ d.Completes (d.crnReject k bs st f) k st ∧
    (d.crnReject k bs st f).reg CRN_LAST_REJECT = BitVec.ofNat 32 (st * 2 ^ 24 + k.ctx * 4096 + f) := by
  unfold crnReject
  dsimp only
  have set := reg_setNat d CRN_LAST_REJECT (st * 2 ^ 24 + k.ctx * 4096 + f)
  have only := (CountOnly.setNat d CRN_LAST_REJECT (st * 2 ^ 24 + k.ctx * 4096 + f)).eq
  generalize d.setNat CRN_LAST_REJECT (st * 2 ^ 24 + k.ctx * 4096 + f) = d1 at set only ⊢
  have told := d1.emit_safetyOnly .crn 0x0601 1 k.ctx (st * 2 ^ 24 + k.ctx * 4096 + f)
  have reg := d1.emit_reg .crn 0x0601 1 k.ctx (st * 2 ^ 24 + k.ctx * 4096 + f) CRN_LAST_REJECT
  generalize d1.emit .crn 0x0601 1 k.ctx (st * 2 ^ 24 + k.ctx * 4096 + f) = d2 at told reg ⊢
  have aside := d2.crnEnd_crnAside k bs [] (d.crnHead k bs st)
  obtain ⟨crn, completes⟩ := d2.crnEnd_spec ticket bs [] (d.crnHead k bs st)
  have tickets : d2.tickets = d.tickets := told.tickets.trans (congrArg Dev.tickets only :)
  refine ⟨crn.trans (told.crn.trans (congrArg Dev.crn only :)), fun t tk issued held => completes t tk issued ?_, ?_⟩
  · rw [← held]
    unfold Dev.ticket
    rw [tickets]
  · exact ((aside.reg _ (by decide) (by decide) (by decide)).trans reg).trans set

/-- The check that a command starts. -/
structure CheckStarts (d : Dev) (k : EngCmd) (bs : List Byte) (r : CrnRun) : Prop where
  bytes : r.bytes = bs
  ctx : r.cmd.ctx = k.ctx
  ticket : r.cmd.ticket = k.ticket
  delivery : r.delivery = none
  committed : r.committed = false
  epochWait : r.epochWait = (!bitOf (fieldAt bs 3 1) 1 && epochNewer (fieldAt bs 0x12 2) d.crn.epoch)

theorem crnStartCheck_starts (d : Dev) (k : EngCmd) (bs : List Byte) : ∃ r, CheckStarts d k bs r ∧ (d.crnStartCheck k bs).crn.check = some r ∧
    (d.crnStartCheck k bs).crn.pq = [] ∧ (d.crnStartCheck k bs).mem = d.mem ∧ (d.crnStartCheck k bs).crn.queues = d.crn.queues :=
  ⟨_, ⟨rfl, rfl, rfl, rfl, rfl, rfl⟩, rfl, rfl, rfl, rfl⟩

end Dev
/-- The edge as a world commit leaves it: UNKNOWN where the change may have affected it. -/
def REdge.afterChange (e : REdge) (load : Bool) (changed : List Aabb) : REdge :=
  if e.state != 0 && (load || changed.any (edgeAffected e)) then { e with state := 0 } else e

/-- The roadmap as a world commit leaves it. -/
def Roadmap.afterChange (m : Roadmap) (load : Bool) (changed : List Aabb) : Roadmap := { m with edges := m.edges.map (fun e => e.afterChange load changed) }

theorem REdge.afterChange_eq (e : REdge) (load : Bool) (changed : List Aabb) :
    e.afterChange load changed = if load = true ∨ e.state = 0 ∨ (∃ a ∈ changed, edgeAffected e a = true) then { e with state := 0 } else e := by
  unfold REdge.afterChange
  by_cases unknown : e.state = 0
  · rw [if_neg (by simp [unknown]), if_pos (.inr (.inl unknown)), ← unknown]
  · simp only [bne_iff_ne, ne_eq, unknown, not_false_eq_true, Bool.and_eq_true, Bool.or_eq_true, List.any_eq_true, true_and, false_or]

namespace Dev

variable {d : Dev}

/-! ### A slice boundary (R282, R283, R286) -/

theorem crnBatch_crn (d : Dev) : ∃ b, d.crnBatch.crn = { d.crn with batch := b } := by
  unfold crnBatch
  split
  · exact ⟨d.crn.batch, rfl⟩
  · exact ⟨_, rfl⟩

theorem crnPreempt_idle (idle : d.crn.check = none) : d.crnPreempt = d := by
  unfold crnPreempt
  rw [idle]

theorem crnProbe_crn (d : Dev) : ∃ p, d.crnProbe.crn = { d.crn with probe := p } := by
  unfold crnProbe
  split
  · exact ⟨d.crn.probe, rfl⟩
  · refine ⟨false, ?_⟩
    dsimp only
    split
    · rfl
    · split <;> rfl
    · rfl

/-- With the check path idle, what follows the commit changes the next batch and the probe alone. -/
theorem crnSlice_idle (on : d.crnOn = true) (idle : d.crnCommit.crn.check = none) : ∃ b p, d.crnSliceFx.crn = { d.crnCommit.crn with batch := b, probe := p } := by
  obtain ⟨b, batch⟩ := d.crnCommit.crnBatch_crn
  obtain ⟨p, probe⟩ := d.crnCommit.crnBatch.crnProbe_crn
  refine ⟨b, p, ?_⟩
  unfold crnSliceFx
  rw [if_pos on, crnPreempt_idle (by rw [batch]; exact idle), probe, batch]

theorem emit_crn (d : Dev) (b : Block) (code sev a0 a1 : Nat) : (d.emit b code sev a0 a1).crn = d.crn := (d.emit_safetyOnly b code sev a0 a1).crn

theorem crnCommit_world {r : CrnWorldRun} {w : World} {ch : List Aabb} {load : Bool} (run : d.crn.worldRun = some r) (new : r.committed = false)
    (prep : r.prep = .world w ch load) (idle : d.crn.check = none) :
    d.crnCommit.crn = { d.crn with world := some w, roadmap := d.crn.roadmap.map (fun m => m.afterChange load ch),
                                   epoch := (d.crn.epoch + 1) % 65536, sweepOwed := d.crn.sweepOwed || load, worldRun := some { r with committed := true }, check := none } := by
  unfold crnCommit
  dsimp only
  rw [run]
  dsimp only
  rw [new, if_neg (by decide), prep]
  dsimp only
  rw [emit_crn, idle]
  rfl

theorem crnCommit_roadmap {r : CrnWorldRun} {m : Roadmap} (run : d.crn.worldRun = some r) (new : r.committed = false) (prep : r.prep = .roadmap m)
    (idle : d.crn.check = none) :
    d.crnCommit.crn = { d.crn with roadmap := some m, sweepOwed := true, worldRun := some { r with committed := true }, check := none, batch := [] } := by
  unfold crnCommit
  dsimp only
  rw [run]
  dsimp only
  rw [new, if_neg (by decide), prep]
  dsimp only
  rw [emit_crn, idle]
  rfl

/-! ### Edge batches (R285) -/

/-- The roadmap with verdicts for the listed edges that are UNKNOWN. -/
def judgedRoad (d : Dev) (w : World) (m : Roadmap) (es : List Nat) : Roadmap :=
  { m with edges := m.edges.zipIdx.map (fun e =>
      if e.1.state == 0 && es.contains e.2 then { e.1 with state := edgeVerdict w m e.1, epoch := d.crn.epoch } else e.1) }

theorem edgeVerdicts_roadmap {w : World} {m : Roadmap} (world : d.crn.world = some w) (roadmap : d.crn.roadmap = some m) (es : List Nat) :
    (d.edgeVerdicts es).2.crn.roadmap = some (d.judgedRoad w m es) := by
  unfold edgeVerdicts
  rw [world, roadmap]
  dsimp only
  rw [blkCount_gau]
  rfl

theorem judgedRoad_edge (d : Dev) (w : World) {m : Roadmap} (es : List Nat) {i : Nat} {e : REdge} (at_ : m.edges[i]? = some e) :
    (d.judgedRoad w m es).edges[i]? = some (if e.state = 0 ∧ i ∈ es then { e with state := edgeVerdict w m e, epoch := d.crn.epoch } else e) := by
  unfold judgedRoad
  rw [List.getElem?_map, List.getElem?_zipIdx, at_]
  simp only [Option.map_some, Nat.zero_add, Bool.and_eq_true, beq_iff_eq, List.contains_eq_mem, decide_eq_true_eq]

theorem edgeBatchFx_spec {w : World} {m : Roadmap} (due : d.crn.batch ≠ []) (world : d.crn.world = some w) (roadmap : d.crn.roadmap = some m) :
    d.edgeBatchFx.crn.batch = [] ∧ d.edgeBatchFx.crn.roadmap = some (d.judgedRoad w m d.crn.batch) := by
  have some_ : d.crn.batch.isEmpty = false := List.isEmpty_eq_false_iff.2 due
  unfold edgeBatchFx
  rw [some_, if_neg (by decide)]
  exact ⟨rfl, edgeVerdicts_roadmap world roadmap _⟩

/-! ### Checks that end (R294, R295) -/

theorem checkEnd_spec {r : CrnRun} (ticket : r.cmd.ticket ≠ none) (st flags : Nat) :
    (d.checkEnd r st flags).crn.check = none ∧ d.Completes (d.checkEnd r st flags) r.cmd st := by
  unfold checkEnd
  dsimp only
  obtain ⟨crn, completes⟩ := (Dev.crnCycles { d with crn := { d.crn with check := none } }).2.crnEnd_spec ticket r.bytes
    (if cOp r.bytes = 4 then List.replicate 1280 0 else [])
    { d.crnHead r.cmd r.bytes st with flags := flags + (if r.full then 1 else 0) + (if r.advanced then 4 else 0),
                                      cycles := (Dev.crnCycles { d with crn := { d.crn with check := none } }).1, edges := r.edges }
  exact ⟨by rw [crn]; rfl, completes⟩

/-- A PLAN that its end time cuts short ends with what it has found, and no further edge is judgedRoad first. -/
theorem planEnd_cut {r : CrnRun} (w : World) (ticket : r.cmd.ticket ≠ none) (res : List Nat) : (d.planEnd r w (some res)).crn.check = none ∧
    d.Completes (d.planEnd r w (some res)) r.cmd (planOutcome w d.crn.roadmap (parsePlan r.bytes (d.rd View.plain)) (some res)).status := by
  let p := parsePlan r.bytes (d.rd View.plain)
  let o := planOutcome w d.crn.roadmap p (some res)
  let v2 := d.edgeVerdicts o.looked
  let c := Dev.crnCycles { v2.2 with crn := { v2.2.crn with check := none } }
  let re := if r.committed then c.2.draw else (0, c.2)
  let e := if o.dropped = 0 then re.2 else re.2.emit .crn 0x0608 1 r.cmd.ctx o.dropped
  have drawn : c.2.SameWork re.2 := by
    unfold re
    split <;> exact ⟨rfl, rfl⟩
  have told : re.2.SameWork e := by
    unfold e
    split
    · exact .refl _
    · exact (Dev.emit_safetyOnly _ _ _ _ _ _).sameWork
  have work : c.2.SameWork e := drawn.trans told
  have tickets : e.tickets = d.tickets := work.tickets.trans (Dev.edgeVerdicts_tickets _ _)
  let head := v2.2.planHead r p o w c.1 (if r.committed then re.1.toNat % 65536 else 0) (r.edges + 0 + v2.1)
  obtain ⟨crn, completes⟩ := e.crnEnd_spec ticket r.bytes (planTail o) head
  have fx : d.planEnd r w (some res) = e.crnEnd r.cmd r.bytes (planTail o) head := rfl
  rw [fx, crn, work.crn]
  refine ⟨rfl, fun t tk issued held => completes t tk issued ?_⟩
  rw [← held]
  unfold Dev.ticket
  rw [tickets]

section
variable {r : CrnRun} {w : World} (run : d.crn.check = some r) (world : d.crn.world = some w) (open_ : r.delivery = none)
  (due : d.crnEndAt r.cmd r.bytes ≤ d.clock)
include run world open_ due

theorem planEndTimeFx_eq (res : List Nat) :
    d.planEndTimeFx res = if cOp r.bytes = 4 ∧ !r.epochWait then d.planEnd r w (some res) else d.checkEnd r 9 (if r.epochWait then 8 else 0) := by
  unfold planEndTimeFx
  dsimp only
  rw [run, world]
  dsimp only
  rw [open_, if_neg (by simp [due])]

end

end Dev
namespace Dev

variable {d : Dev}

/-! ### A fallback is handed over (R302) -/

/-- A ticket that is held waits still. -/
def TicketPending (d : Dev) (k : EngCmd) : Prop := ∀ tk, k.ticket.bind (d.ticket k.ctx) = some tk → tk.st = .pending

/-- A STORE_FALLBACK that ends leaves the check path, and completes the ticket that waits. -/
theorem deliveryEnd_spec {r : CrnRun} (pending : d.TicketPending r.cmd) (st : Nat) :
    (d.deliveryEnd r st).crn = { d.crn with check := none } ∧ d.Completes (d.deliveryEnd r st) r.cmd st := by
  unfold deliveryEnd
  dsimp only
  generalize hc : Dev.crnCycles { d with crn := { d.crn with check := none } } = c
  have crn : c.2.crn = { d.crn with check := none } := by rw [← hc]; rfl
  have tickets : c.2.tickets = d.tickets := by rw [← hc]; rfl
  cases held : r.cmd.ticket.bind (d.ticket r.cmd.ctx) with
  | none =>
    refine ⟨crn, fun t tk issued has => ?_⟩
    rw [issued, Option.bind_some, has] at held
    exact nomatch held
  | some t =>
    dsimp only
    rw [if_pos (pending t held)]
    have ticket : r.cmd.ticket ≠ none := by
      intro h
      rw [h] at held
      exact nomatch held
    obtain ⟨crn', completes⟩ := c.2.crnEnd_spec ticket r.bytes []
      { d.crnHead r.cmd r.bytes st with flags := if r.advanced then 4 else 0, checked := 1, cycles := c.1 }
    refine ⟨crn'.trans crn, fun t tk issued has => completes t tk issued ?_⟩
    rw [← has]
    unfold Dev.ticket
    rw [tickets]

theorem SafetyOnly.ticketPending {e : Dev} (h : d.SafetyOnly e) {k : EngCmd} (pending : d.TicketPending k) : e.TicketPending k := by
  intro tk held
  refine pending tk ?_
  rw [← held]
  unfold Dev.ticket
  rw [h.tickets]

theorem SafetyOnly.completes {e f : Dev} (h : d.SafetyOnly e) {k : EngCmd} {st : Nat} (done : e.Completes f k st) : d.Completes f k st := by
  intro t tk issued held
  refine done t tk issued ?_
  rw [← held]
  unfold Dev.ticket
  rw [h.tickets]

theorem modQuoin_safetyOnly (d : Dev) (q : Nat) (f : Quoin → Quoin) : d.SafetyOnly (d.modQuoin q f) := setQuoin_safetyOnly _ _ _

theorem takeSlot_safetyOnly (d : Dev) (q n : Nat) (s : Slot) : d.SafetyOnly (d.takeSlot q n s) := setQuoin_safetyOnly _ _ _

theorem resendFallback_safetyOnly (d : Dev) (n : Nat) : d.SafetyOnly (d.resendFallback n) := by
  unfold resendFallback
  refine .foldl (fun d s => ?_) _ _
  dsimp only
  split
  · split
    · exact (sendFallback_safetyOnly _ _ _).trans (decideBoth_safetyOnly _ _)
    · exact sendFallback_safetyOnly _ _ _
  · exact .refl d

theorem fallbackTimeoutFx_spec {r : CrnRun} {t : Nat} {a b : Bool} (run : d.crn.check = some r) (delivery : r.delivery = some (t, a, b))
    (late : t + ticksUs 100 ≤ d.ticks) (pending : d.TicketPending r.cmd) :
    d.fallbackTimeoutFx.crn.check = none ∧ d.Completes d.fallbackTimeoutFx r.cmd 0x97 := by
  have fx : ∃ e, d.SafetyOnly e ∧ d.fallbackTimeoutFx = e.deliveryEnd r 0x97 := by
    unfold fallbackTimeoutFx
    rw [run]
    dsimp only
    rw [delivery]
    dsimp only
    rw [if_neg (Nat.not_lt.2 late)]
    refine ⟨_, ?_, rfl⟩
    generalize (if a && d.partnerSilent 0 then some 0 else if b && d.partnerSilent 1 then some 1 else none : Option Nat) = alone
    have told (done : Bool) (e : Dev) (who : Nat) (safe : d.SafetyOnly e) : d.SafetyOnly (if done then e else e.emit .crn 0x0606 3 who (d.fallbackSlot r).1) := by
      split
      · exact safe
      · exact safe.trans (emit_safetyOnly _ _ _ _ _ _)
    have both := told b _ 13 (told a d 12 (.refl d))
    split
    · exact both.trans ((takeSlot_safetyOnly _ _ _ _).trans (resendFallback_safetyOnly _ _))
    · exact both
  obtain ⟨e, safe, eq⟩ := fx
  obtain ⟨crn, completes⟩ := e.deliveryEnd_spec (safe.ticketPending pending) 0x97
  rw [eq, crn]
  exact ⟨rfl, safe.completes completes⟩

/-! ### Both Quoins acknowledge (R302) -/

theorem jobWrites_memOnly_of_streamless (none_ : d.streamList = []) (c : Nat) (ws : List (Nat × List Byte)) : d.MemOnly (d.jobWrites c ws) := by
  unfold jobWrites
  dsimp only
  rw [none_, List.filterMap_nil, List.foldl_nil, List.foldl_nil]
  exact .foldl (fun d w => wr_memOnly _ _ _ _) _ _

theorem streamList_congr {e : Dev} (h : e.qn.table = d.qn.table) : e.streamList = d.streamList := by
  simp only [streamList, streamCfg, h]

theorem MemOnly.streamList {e : Dev} (h : d.MemOnly e) : e.streamList = d.streamList := streamList_congr (by rw [h.eq])

theorem bump_qn (d : Dev) (a n : Nat) : (d.bump a n).qn = d.qn := rfl

/-- Where no stream is set up, a command that ends without a finding leaves the Quoins as they were. -/
theorem crnEnd_qn {k : EngCmd} (none_ : d.streamList = []) (ticket : k.ticket ≠ none) (bs tail : List Byte) {h : ResultHead} (good : h.status = 0) :
    (d.crnEnd k bs tail h).qn = d.qn := by
  obtain ⟨t, issued⟩ := Option.ne_none_iff_exists'.1 ticket
  have wrote : d.MemOnly (if d.crnResultOk k bs then
      (if tail.isEmpty then d else d.jobWrites k.ctx [(cResult bs + 64, tail)]).jobWrites k.ctx [(cResult bs, h.bytes)] else d) := by
    have first : d.MemOnly (if tail.isEmpty then d else d.jobWrites k.ctx [(cResult bs + 64, tail)]) := by
      split
      · exact .refl d
      · exact jobWrites_memOnly_of_streamless none_ _ _
    split
    · exact first.trans (jobWrites_memOnly_of_streamless (first.streamList.trans none_) _ _)
    · exact .refl d
  unfold crnEnd
  dsimp only
  generalize (if d.crnResultOk k bs then
      (if tail.isEmpty then d else d.jobWrites k.ctx [(cResult bs + 64, tail)]).jobWrites k.ctx [(cResult bs, h.bytes)] else d) = x at wrote ⊢
  have qn : x.qn = d.qn := by rw [wrote.eq]
  have counted : (if cOp bs = 4 then x.planCounts k h.status else x).qn = d.qn := by
    rw [good]
    split
    · exact (bump_qn x CRN_PLAN_COUNT 1).trans qn
    · exact qn
  generalize (if cOp bs = 4 then x.planCounts k h.status else x) = y at counted ⊢
  rw [issued]
  dsimp only
  rw [completeTicket_rest]
  exact counted

theorem deliveryEnd_qn {r : CrnRun} (none_ : d.streamList = []) : (d.deliveryEnd r 0).qn = d.qn := by
  unfold deliveryEnd
  dsimp only
  generalize hc : Dev.crnCycles { d with crn := { d.crn with check := none } } = c
  have qn : c.2.qn = d.qn := by rw [← hc]; rfl
  split
  next t held =>
    split
    · have ticket : r.cmd.ticket ≠ none := by
        intro h
        rw [h] at held
        exact nomatch held
      exact (crnEnd_qn ((streamList_congr (congrArg _ qn)).trans none_) ticket _ _ rfl).trans qn
    · exact qn
  next => exact qn

theorem resendFallback_of_streamless (none_ : d.streamList = []) (n : Nat) : d.resendFallback n = d := by
  unfold resendFallback
  rw [none_]
  rfl

/-- Both Quoins hold the record in slot `n`. -/
def slotTaken (d : Dev) (n : Nat) (s : Slot) : Dev :=
  let ok (x : Quoin) : Quoin := { x with slotBad := FMap.set false x.slotBad n false }
  (((d.takeSlot 0 n s).takeSlot 1 n s).modQuoin 0 ok).modQuoin 1 ok

theorem slotTaken_safetyOnly (d : Dev) (n : Nat) (s : Slot) : d.SafetyOnly (d.slotTaken n s) := by
  unfold slotTaken
  exact ((takeSlot_safetyOnly _ _ _ _).trans (takeSlot_safetyOnly _ _ _ _)).trans ((modQuoin_safetyOnly _ _ _).trans (modQuoin_safetyOnly _ _ _))

theorem slotTaken_slots (d : Dev) (n : Nat) (s : Slot) : FMap.get none (d.slotTaken n s).qn.a.slots n = some s ∧
    FMap.get none (d.slotTaken n s).qn.b.slots n = some s ∧ (d.slotTaken n s).qn.table = d.qn.table :=
  ⟨FMap.get_set_self none d.qn.a.slots n (some s), FMap.get_set_self none d.qn.b.slots n (some s), rfl⟩

section
variable {r : CrnRun} {t q : Nat} {a b : Bool} (run : d.crn.check = some r) (delivery : r.delivery = some (t, a, b)) (live : (d.quoin q).live = true)
include run delivery live

theorem fallbackAckFx_one (one : (a || q == 0) = false ∨ (b || q != 0) = false) :
    d.fallbackAckFx q = { d with crn := { d.crn with check := some { r with delivery := some (t, a || q == 0, b || q != 0) } } } := by
  unfold fallbackAckFx
  rw [run]
  dsimp only
  rw [delivery]
  dsimp only
  rw [live, if_neg (by decide), if_neg (by rcases one with h | h <;> rw [h] <;> simp)]

theorem fallbackAckFx_both (first : (a || q == 0) = true) (second : (b || q != 0) = true) (none_ : d.streamList = []) (pending : d.TicketPending r.cmd) :
    (d.fallbackAckFx q).crn.check = none ∧ FMap.get none (d.fallbackAckFx q).qn.a.slots (d.fallbackSlot r).1 = some (d.fallbackSlot r).2 ∧
    FMap.get none (d.fallbackAckFx q).qn.b.slots (d.fallbackSlot r).1 = some (d.fallbackSlot r).2 ∧ d.Completes (d.fallbackAckFx q) r.cmd 0 := by
  obtain ⟨slotA, slotB, table⟩ := d.slotTaken_slots (d.fallbackSlot r).1 (d.fallbackSlot r).2
  have taken := d.slotTaken_safetyOnly (d.fallbackSlot r).1 (d.fallbackSlot r).2
  have fx : d.fallbackAckFx q = Dev.deliveryEnd (Dev.resendFallback (Dev.emit (d.slotTaken (d.fallbackSlot r).1 (d.fallbackSlot r).2) .crn 0x0605 0 r.cmd.ctx
      ((d.fallbackSlot r).1 + 65536 * (d.fallbackSlot r).2.epoch)) (d.fallbackSlot r).1) r 0 := by
    unfold fallbackAckFx
    rw [run]
    dsimp only
    rw [delivery]
    dsimp only
    rw [live, if_neg (by decide), first, second]
    rfl
  generalize d.slotTaken (d.fallbackSlot r).1 (d.fallbackSlot r).2 = d1 at slotA slotB table taken fx
  have qn := d1.emit_qn .crn 0x0605 0 r.cmd.ctx ((d.fallbackSlot r).1 + 65536 * (d.fallbackSlot r).2.epoch)
  have safe := taken.trans (d1.emit_safetyOnly .crn 0x0605 0 r.cmd.ctx ((d.fallbackSlot r).1 + 65536 * (d.fallbackSlot r).2.epoch))
  generalize d1.emit .crn 0x0605 0 r.cmd.ctx ((d.fallbackSlot r).1 + 65536 * (d.fallbackSlot r).2.epoch) = d2 at qn safe fx
  have streamless : d2.streamList = [] := (streamList_congr ((congrArg _ qn).trans table)).trans none_
  rw [resendFallback_of_streamless streamless] at fx
  obtain ⟨crn, completes⟩ := d2.deliveryEnd_spec (safe.ticketPending pending) 0
  have same := (d2.deliveryEnd_qn (r := r) streamless).trans qn
  rw [fx, crn, same]
  exact ⟨rfl, slotA, slotB, safe.completes completes⟩

end

/-! ### Cairn is fenced, or loses its store (R301) -/

theorem setFence_fenced (d : Dev) (u : Nat) : (d.setFence u).fenced u = true := by
  unfold setFence
  split
  · assumption
  · exact FMap.get_set_self false d.fences u true

theorem declareFence_fenced {q u : Nat} (live : (d.quoin q).live = true) (new : FMap.get false (d.quoin q).fences u = false) (cause : Nat) :
    (d.declareFence q u cause).fenced u = true := by
  unfold declareFence
  dsimp only
  rw [live, new, if_neg (by decide)]
  have told := (statusMsg_told (Dev.setFence (Dev.emit (d.setQuoin q { d.quoin q with fences := FMap.set false (d.quoin q).fences u true }) (.qn q) 0x0B03 3 u cause) u) q).eq
  rw [Dev.fenced, (congrArg Dev.fences told :)]
  exact setFence_fenced _ u

theorem setFence_keeps {v : Nat} (on : d.fenced v = true) (u : Nat) : (d.setFence u).fenced v = true := by
  unfold setFence
  split
  · exact on
  · by_cases same : v = u
    · rw [same]
      exact FMap.get_set_self false d.fences u true
    · exact (FMap.get_set_ne false d.fences true same).trans on

theorem declareFence_keeps (d : Dev) (q : Nat) {u v : Nat} (cause : Nat) (on : d.fenced v = true) : (d.declareFence q u cause).fenced v = true := by
  unfold declareFence
  dsimp only
  split
  · exact on
  · have told := (statusMsg_told (Dev.setFence (Dev.emit (d.setQuoin q { d.quoin q with fences := FMap.set false (d.quoin q).fences u true }) (.qn q) 0x0B03 3 u cause) u) q).eq
    rw [Dev.fenced, (congrArg Dev.fences told :)]
    have before := ((setQuoin_told d q { d.quoin q with fences := FMap.set false (d.quoin q).fences u true }).trans (emit_told _ (.qn q) 0x0B03 3 u cause)).eq
    refine setFence_keeps ?_ u
    rw [Dev.fenced, (congrArg Dev.fences before :)]
    exact on

theorem declareBoth_fenced {u : Nat} (live : d.qn.a.live = true) (new : FMap.get false d.qn.a.fences u = false) (cause : Nat) : (d.declareBoth u cause).fenced u = true :=
  declareFence_keeps _ 1 cause (declareFence_fenced (q := 0) live new cause)

theorem declareBoth_holds_second {u : Nat} (live : d.qn.b.live = true) (cause : Nat) : FMap.get false (d.declareBoth u cause).qn.b.fences u = true := by
  have same : (d.declareFence 0 u cause).qn.b = d.qn.b := declareFence_quoin_other (q := 0) (by decide) d u cause
  refine declareFence_holds (q := 1) (d := d.declareFence 0 u cause) ?_ u cause
  rw [quoin, if_neg (by decide), same]
  exact live

/-- Cairn without its commands, its world and its roadmap. -/
def crnEmptied (d : Dev) : Dev :=
  { d with crn := { d.crn with check := none, worldRun := none, world := none, roadmap := none, sweepOwed := false, batch := [] } }

/-- A check that ends with a status, where one ran. -/
def endCheck (d : Dev) (st : Nat) : Option CrnRun → Dev
  | some r => d.crnEnd r.cmd r.bytes [] (d.crnHead r.cmd r.bytes st)
  | none => d

/-- A world command that ends with a status, where one ran. -/
def endWorld (d : Dev) (st : Nat) : Option CrnWorldRun → Dev
  | some r => d.crnEnd r.cmd r.bytes [] (d.crnHead r.cmd r.bytes st)
  | none => d

theorem crnClear_eq (d : Dev) (st : Nat) : d.crnClear st = (d.crnEmptied.endCheck st d.crn.check).endWorld st d.crn.worldRun := rfl

theorem crnClear_aside (d : Dev) (st : Nat) : d.crnEmptied.CrnAside (d.crnClear st) := by
  have first : d.crnEmptied.CrnAside (d.crnEmptied.endCheck st d.crn.check) := by
    cases d.crn.check with
    | some r => exact crnEnd_crnAside _ _ _ _ _
    | none => exact .refl _
  rw [crnClear_eq]
  refine first.trans ?_
  cases d.crn.worldRun with
  | some r => exact crnEnd_crnAside _ _ _ _ _
  | none => exact .refl _

theorem crnEmptied_reg (d : Dev) (a : Nat) : d.crnEmptied.reg a = d.reg a := reg_congr rfl rfl a

/-- An uncorrected error of the world store is flagged, and clears what Cairn holds but for the epoch. -/
theorem crnStoreUe_spec (d : Dev) (a : Nat) : (d.crnStoreUe a).crn.world = none ∧ (d.crnStoreUe a).crn.roadmap = none ∧ (d.crnStoreUe a).crn.check = none ∧
    (d.crnStoreUe a).crn.worldRun = none ∧ (d.crnStoreUe a).crn.epoch = d.crn.epoch ∧ (d.crnStoreUe a).rbit CRN_ERR_STATUS 1 = true := by
  unfold crnStoreUe
  extract_lets owners
  generalize (if owners.isEmpty then [0xFFFFFFFF] else owners) = told
  have flagged := d.rbit_orBits_same CRN_ERR_STATUS (i := 1) (by decide)
  have crn : (d.orBits CRN_ERR_STATUS 2).crn = d.crn := rfl
  generalize d.orBits CRN_ERR_STATUS 2 = d1 at flagged crn ⊢
  have aside : d1.CrnAside (told.foldl (fun (d : Dev) c => d.emit .crn 0x0607 2 a c) d1) :=
    SafetyOnly.crnAside (.foldl (fun d c => d.emit_safetyOnly _ _ _ _ _) _ _)
  generalize told.foldl (fun (d : Dev) c => d.emit .crn 0x0607 2 a c) d1 = d2 at aside ⊢
  have cleared := d2.crnClear_aside stMemoryUncorrectable.toNat
  have same := (cleared.reg CRN_ERR_STATUS (by decide) (by decide) (by decide)).trans ((d2.crnEmptied_reg _).trans
    (aside.reg CRN_ERR_STATUS (by decide) (by decide) (by decide)))
  rw [cleared.crn]
  exact ⟨rfl, rfl, rfl, rfl, (congrArg Cairn.epoch (aside.crn.trans crn) :), (rbit_congr same 1).trans flagged⟩

end Dev
/-! ### The statement -/

/-- Cairn's commands: operation and instruction. -/
def crnCommands : List (Nat × (EngIssue → Instr)) := [(1, .worldLoad), (2, .worldUpdate), (3, .roadmapLoad), (4, .plan), (5, .storeFallback)]

theorem exec_crnCommand {p : Nat × (EngIssue → Instr)} (mem : p ∈ crnCommands) (g : EngIssue) (s : State) :
    (1 ≤ p.1 ∧ p.1 ≤ 5) ∧ exec (p.2 g) s = s.run (fun d => (d.crnStart p.1 g).settle) := by
  simp only [crnCommands, List.mem_cons, List.not_mem_nil, or_false] at mem
  rcases mem with rfl | rfl | rfl | rfl | rfl <;> exact ⟨by decide, rfl⟩

theorem onWorldPath_iff {op : Nat} (known : 1 ≤ op ∧ op ≤ 5) : onWorldPath op = true ↔ op ≤ 3 := by
  simp only [onWorldPath, known.1, decide_true, Bool.true_and, decide_eq_true_eq]

section
variable {s : State} {g : EngIssue} {k : EngCmd} {op : Nat}
  (on : s.dev.crnOn = true) (free : s.dev.crnFree (onWorldPath op) = true) (best : s.dev.crnBest (onWorldPath op) = some k) (own : k.part = g.part)
  (known : 1 ≤ op ∧ op ≤ 5) (opIs : cOp (s.dev.crnBytes k) = op)
include on free best own known opIs

theorem crnStart_fresh : s.dev.fresh.crnStart op g = (s.dev.fresh.crnPop k.part).crnWork g k (s.dev.crnBytes k) := by
  have bytes : s.dev.fresh.crnBytes k = s.dev.crnBytes k := by
    rw [Dev.crnBytes, s.dev.fresh_readsAlike.rd]
    rfl
  have on' : s.dev.fresh.crnOn = true := on
  have free' : s.dev.fresh.crnFree (onWorldPath op) = true := free
  have best' : s.dev.fresh.crnBest (onWorldPath op) = some k := best
  have opOf : crnOpOf (s.dev.fresh.crnBytes k) = op := by
    rw [bytes]
    exact Dev.crnOpOf_of_known opIs known
  rw [Dev.crnStart_eq on' free' best' own opOf, bytes]

end

/-- A world command that starts: it runs with what it has prepared, or ends with the status. -/
theorem worldStarts_spec {s : State} {k : EngCmd} {bs : List Byte} {e : Dev} {world : Bool} (alike : s.dev.CrnAlike e) (pop : e = s.dev.fresh.crnPop k.part)
    (free : s.dev.crnFree world = true) (path : world = true) :
    (k.ticket ≠ none → (e.crnStartWorld k bs).crn.queues = FMap.modify [] s.dev.crn.queues k.part (fun q => q.drop 1)) ∧
    (∀ pr, s.dev.crnPrepare bs = .ok pr → (e.crnStartWorld k bs).crn.worldRun = some { cmd := k, bytes := bs, prep := pr, committed := false } ∧
      (e.crnStartWorld k bs).mem = s.dev.mem) ∧
    ∀ st, k.ticket ≠ none → s.dev.crnPrepare bs = .error st → (e.crnStartWorld k bs).crn.worldRun = none ∧ s.dev.Completes (e.crnStartWorld k bs) k st := by
  have idle : s.dev.crn.worldRun = none := by
    rw [Dev.crnFree, if_pos path] at free
    exact Option.isNone_iff_eq_none.1 free
  have prepare := alike.crnPrepare bs
  subst pop
  refine ⟨fun ticket => ?_, fun pr ok => ?_, fun st ticket bad => ?_⟩
  · cases outcome : s.dev.crnPrepare bs with
    | error st => rw [(Dev.crnStartWorld_failed (prepare.trans outcome) ticket).1]; rfl
    | ok pr => rw [Dev.crnStartWorld_prepared (prepare.trans outcome)]; rfl
  · rw [Dev.crnStartWorld_prepared (prepare.trans ok)]
    exact ⟨rfl, rfl⟩
  · obtain ⟨crn, completes⟩ := Dev.crnStartWorld_failed (prepare.trans bad) ticket
    rw [crn]
    exact ⟨idle, completes⟩

theorem Dev.ReadsAlike.fallbackSlot {d e : Dev} (h : d.ReadsAlike e) (crn : e.crn = d.crn) (r : CrnRun) : e.fallbackSlot r = d.fallbackSlot r := by
  simp only [Dev.fallbackSlot, Dev.fallbackPlan, h.rd, crn]

/-- Settles O43: each command is one of the operations above, on the device without the last command's outputs. -/
theorem cairnCommandResults : Obligations.CairnCommandResults := by
  unfold Obligations.CairnCommandResults
  intro s d done
  refine ⟨fun g k p mem => ?start,
    fun r w ch load on run new prep idle => ?commits, fun r m on run new prep idle quiet => ?roadmap, fun w m batch world roadmap => ?batch,
    fun r w res run world open_ due ticket => ?ends, fun r t a b q run delivery which live => ⟨fun one => ?acknowledged, fun first second none_ pending => ?taken⟩,
    fun r t a b run delivery late pending => ?timeout, fun liveA liveB up new => ?fenced, fun a on => ?store⟩
  case start =>
    dsimp only
    intro on free best own opIs here access mem_ ce ue
    obtain ⟨known, command⟩ := exec_crnCommand mem g s
    rw [command]
    have alike := s.dev.crnPop_alike k.part
    have taken := crnStart_fresh (g := g) on free best own known opIs
    have here' : absentRange (s.dev.fresh.crnPop k.part).hw k.addr 256 = false := here
    have access' := (alike.accessStatus_plain k.addr 256 true).trans access
    refine ⟨fun bar areas => ?_, fun st f ticket bar => ?_⟩
    · have started := Dev.crnWork_starts (g := g) here' access' ((alike.crnBar k _).trans bar)
        (fun a mem => (alike.accessStatus_plain a.1 a.2.1 _).trans (areas a mem)) mem_ ce ue
      rw [opIs] at started
      by_cases world : p.1 ≤ 3
      · rw [if_pos ((onWorldPath_iff known).2 world)] at started
        obtain ⟨queues, runs, fails⟩ := worldStarts_spec (s := s) (k := k) alike rfl free ((onWorldPath_iff known).2 world)
        exact ⟨ans_set (g := fun d => d.crnStart p.1 g) (by rw [taken, started]; exact fun ticket => queues (ticket world)),
          ans_set (g := fun d => d.crnStart p.1 g) (by
            rw [taken, started]
            exact ⟨fun pr _ => runs pr, fun st _ => fails st, fun high => absurd world (by omega)⟩)⟩
      · rw [if_neg (mt (onWorldPath_iff known).1 world)] at started
        obtain ⟨r, ⟨bytes, ctx, ticket, delivery, committed, epochWait⟩, check, pq, same, queues⟩ :=
          (s.dev.fresh.crnPop k.part).crnStartCheck_starts k (s.dev.crnBytes k)
        exact ⟨ans_set (g := fun d => d.crnStart p.1 g) (by rw [taken, started]; exact fun _ => queues),
          ans_set (g := fun d => d.crnStart p.1 g) (by
            rw [taken, started]
            exact ⟨fun _ low => absurd low world, fun _ low => absurd low world,
              fun _ => ⟨r, check, bytes, ctx, ticket, delivery, committed, epochWait, pq, same⟩⟩)⟩
    · refine ans_set (g := fun d => d.crnStart p.1 g) ?_
      rw [taken, Dev.crnWork_refused here' access' ((alike.crnBar k _).trans bar)]
      obtain ⟨crn, completes, reject⟩ := (s.dev.fresh.crnPop k.part).crnReject_spec (bs := s.dev.crnBytes k) ticket st f
      rw [crn]
      exact ⟨completes, rfl, rfl, reject⟩
  case commits =>
    obtain ⟨b, p, eq⟩ := Dev.crnSlice_idle (d := s.dev.fresh) on (by rw [Dev.crnCommit_world (d := s.dev.fresh) run new prep idle])
    rw [Dev.crnCommit_world (d := s.dev.fresh) run new prep idle] at eq
    refine ans_set (g := fun d => d.crnSliceFx) ?_
    rw [eq]
    refine ⟨rfl, rfl, rfl, fun m known => ⟨m.afterChange load ch, congrArg (Option.map (·.afterChange load ch)) known, rfl, List.length_map .., fun i e at_ => ?_⟩⟩
    rw [Roadmap.afterChange, List.getElem?_map, at_, ← REdge.afterChange_eq]
    rfl
  case roadmap =>
    obtain ⟨b, p, eq⟩ := Dev.crnSlice_idle (d := s.dev.fresh) on (by rw [Dev.crnCommit_roadmap (d := s.dev.fresh) run new prep idle])
    rw [Dev.crnCommit_roadmap (d := s.dev.fresh) run new prep idle] at eq
    refine ans_set (g := fun d => d.crnSliceFx) ?_
    rw [eq]
    exact ⟨rfl, rfl, rfl, rfl⟩
  case batch =>
    obtain ⟨empty, judged⟩ := Dev.edgeBatchFx_spec (d := s.dev.fresh) batch world roadmap
    exact ans_set (g := fun d => d.edgeBatchFx) ⟨empty, _, judged, fun i e at_ => s.dev.fresh.judgedRoad_edge w _ at_⟩
  case ends =>
    refine ans_set (g := fun d => d.planEndTimeFx res) ?_
    rw [Dev.planEndTimeFx_eq (d := s.dev.fresh) run world open_ due res]
    split
    next plan =>
      obtain ⟨left, completes⟩ := s.dev.fresh.planEnd_cut w ticket res
      have judged := s.dev.fresh_readsAlike.rd View.plain
      rw [judged] at completes
      refine ⟨left, fun other => ?_, fun _ _ => completes⟩
      rcases other with op | wait
      · exact absurd plan.1 op
      · exact absurd (wait ▸ plan.2) (by decide)
    next other =>
      obtain ⟨left, completes⟩ := s.dev.fresh.checkEnd_spec ticket 9 (if r.epochWait then 8 else 0)
      exact ⟨left, fun _ => completes, fun op wait => absurd ⟨op, by rw [wait]; rfl⟩ other⟩
  case acknowledged =>
    exact ans_setIf (g := fun d => d.fallbackAckFx q) (decide_eq_true which) (Dev.fallbackAckFx_one (d := s.dev.fresh) run delivery live one)
  case taken =>
    have slot := s.dev.fresh_readsAlike.fallbackSlot rfl r
    have handed := Dev.fallbackAckFx_both (d := s.dev.fresh) run delivery live first second none_ pending
    rw [slot] at handed
    exact ans_setIf (g := fun d => d.fallbackAckFx q) (decide_eq_true which) handed
  case timeout => exact ans_set (g := fun d => d.fallbackTimeoutFx) (Dev.fallbackTimeoutFx_spec (d := s.dev.fresh) run delivery late pending)
  case fenced =>
    exact ans_set (g := fun d => d.cairnFenceFx none) ⟨Dev.declareBoth_fenced (d := s.dev.fresh) liveA new 3, Dev.declareBoth_holds (d := s.dev.fresh) liveA _ 3,
      Dev.declareBoth_holds_second (d := s.dev.fresh) liveB 3⟩
  case store =>
    refine ans_set (g := fun d => d.cairnFenceFx (some a)) ?_
    have on' : s.dev.fresh.domainOn 44 = true := on
    rw [Dev.cairnFenceFx, if_pos on']
    exact s.dev.fresh.crnStoreUe_spec a

end Sys2Proof.Machine
end

section
/-! SUPPORT. Sensor ingest (R366–R384): the streams' enable bits, the packets of a Hod queue, and what becomes of those that are lost. -/
namespace Sys2Proof.Machine

/-! ### A register of a block that is neither locked nor of expert level (R6) -/

theorem Dev.writeReg_through {d : Dev} {w : Writer} {b : Block} {o : Nat} {r : RegDef} {v : W32} (serves : d.serves b = true) (block : blockAt d.hw (b.base + o) = some b)
    (plain : b ≠ .host) (own : o ≠ 0xC) (found : findReg b.regs o = some r) (acc : r.acc = .rw ∨ r.acc = .wo) :
    d.writeReg w (b.base + o) v = d.regEffect w b o r v :=
  (Dev.writeReg_reg block serves (fun host => plain host.1) own found).trans (Dev.regAccess_through (acc.imp_right .inl))

/-! ### Enable bits (R366) -/

/-- The devices' registers agree in bit 31, and wholly where it is 1. -/
structure Dev.EnabledAlike (d e : Dev) : Prop where
  bit (a : Nat) : bitOf (e.rn a) 31 = bitOf (d.rn a) 31
  value (a : Nat) : bitOf (d.rn a) 31 = true → e.rn a = d.rn a

namespace Dev.EnabledAlike

variable {d e : Dev} (h : d.EnabledAlike e)
include h

theorem streamsOn : e.streamsOn = d.streamsOn := by simp only [Dev.streamsOn, Dev.slotCfg, Dev.filtCfg, h.bit]

theorem slotOf (p vc : Nat) : e.slotOf p vc = d.slotOf p vc := by
  have same (a : Nat) : (bitOf (e.rn a) 31 && bitsOf (e.rn a) 11 8 == vc) = (bitOf (d.rn a) 31 && bitsOf (d.rn a) 11 8 == vc) := by
    rw [h.bit]
    cases on : bitOf (d.rn a) 31 with
    | false => rfl
    | true => rw [h.value a on]
  simp only [Dev.slotOf, Dev.slotCfg, same]

end Dev.EnabledAlike

theorem Dev.setReg_enabledAlike {d : Dev} {k : Nat} {v : W32} (off : bitOf (d.rn k) 31 = false) (new : bitOf v.toNat 31 = false) : d.EnabledAlike (d.setReg k v) := by
  have other {a : Nat} (ne : a ≠ k) : (d.setReg k v).rn a = d.rn a := congrArg BitVec.toNat (Dev.reg_setReg_ne d v ne)
  constructor
  · intro a
    by_cases same : a = k
    · rw [same, off, Dev.rn, Dev.reg_setReg, new]
    · rw [other same]
  · intro a on
    refine other fun same => ?_
    rw [same, off] at on
    exact nomatch on

/-- A mask without bit 31 gives a word without it. -/
theorem bitOf_masked {v m : W32} (mask : m.getLsbD 31 = false) : bitOf (v &&& m).toNat 31 = false := by
  rw [bitOf_toNat, BitVec.getLsbD_and, mask, Bool.and_false]

/-- A word whose bit 31 is 1, under two masks that differ in it. -/
theorem masked_or_enable {v m : W32} (on : bitOf v.toNat 31 = true) : (v &&& m) ||| BitVec.ofNat 32 (2 ^ 31) = v &&& (m ||| BitVec.twoPow 32 31) := by
  rw [bitOf_toNat] at on
  rw [BitVec.and_or_distrib_left, BitVec.and_twoPow, if_pos on]
  rfl

/-! ### Slots and filters that are enabled (R366, R368) -/

/-- What a write of a slot's configuration leaves before it is enabled. -/
def Dev.slotHeld (d : Dev) (p l : Nat) (v : W32) : Dev := d.setReg (slotKey p l 0x34) (v &&& 0x401F0F3F)

section
variable {d : Dev} {p l : Nat} {v : W32} (off : bitOf (d.slotCfg p l) 31 = false) (enable : bitOf v.toNat 31 = true)
include off

theorem Dev.slotHeld_enabledAlike (v : W32) : d.EnabledAlike (d.slotHeld p l v) := Dev.setReg_enabledAlike off (bitOf_masked (by decide))

include enable

theorem Dev.slotWrite_enabled (few : d.streamsOn < 24) (single : d.slotOf p (bitsOf v.toNat 11 8) = none) :
    d.slotWrite p l v = (d.setReg (slotKey p l 0x34) (v &&& 0x401F0F3F)).orBits (slotKey p l 0x34) (2 ^ 31) := by
  have alike := Dev.slotHeld_enabledAlike off v
  rw [← alike.streamsOn] at few
  rw [← alike.slotOf] at single
  unfold Dev.slotWrite
  dsimp only
  rw [off, if_neg Bool.false_ne_true, enable]
  change (if 24 ≤ (d.slotHeld p l v).streamsOn then _ else if ((d.slotHeld p l v).slotOf p (bitsOf v.toNat 11 8)).isSome = true then _ else _) = _
  rw [if_neg (by omega), single]
  rfl

theorem Dev.slotWrite_refused (bar : 24 ≤ d.streamsOn ∨ d.slotOf p (bitsOf v.toNat 11 8) ≠ none) :
    ∃ b a1, d.slotWrite p l v = (d.slotHeld p l v).emit b (if 24 ≤ d.streamsOn then 0x0A01 else 0x0A05) 1 (slotSource p l) a1 := by
  have alike := Dev.slotHeld_enabledAlike off v
  unfold Dev.slotWrite
  dsimp only
  rw [off, if_neg Bool.false_ne_true, enable]
  change ∃ b a1, (if 24 ≤ (d.slotHeld p l v).streamsOn then (d.slotHeld p l v).emit .hod 0x0A01 1 (slotSource p l) 24
    else if ((d.slotHeld p l v).slotOf p (bitsOf v.toNat 11 8)).isSome = true then (d.slotHeld p l v).emit .aphy 0x0A05 1 (slotSource p l) 3 else _) = _
  rw [alike.streamsOn, alike.slotOf]
  by_cases many : 24 ≤ d.streamsOn
  · exact ⟨_, _, by rw [if_pos many, if_pos many]⟩
  · have second := Option.isSome_iff_ne_none.2 (bar.resolve_left many)
    exact ⟨_, _, by rw [if_neg many, if_pos second, if_neg many]⟩

end

theorem Dev.filtWrite_enabled {d : Dev} {p f : Nat} {v : W32} (off : bitOf (d.filtCfg p f) 31 = false) (enable : bitOf v.toNat 31 = true) (few : d.streamsOn < 24) :
    d.filtWrite p f v = (d.setReg (filtKey p f 0x44) (v &&& 0x001F3FFF)).orBits (filtKey p f 0x44) (2 ^ 31) := by
  have alike : d.EnabledAlike (d.setReg (filtKey p f 0x44) (v &&& 0x001F3FFF)) := Dev.setReg_enabledAlike off (bitOf_masked (by decide))
  rw [← alike.streamsOn] at few
  unfold Dev.filtWrite
  dsimp only
  rw [off, if_neg Bool.false_ne_true, enable, if_neg (by decide : ¬ (!true) = true), if_neg (by omega)]

/-- A register set and its enable bit with it. -/
theorem Dev.enabled_spec {d : Dev} {k : Nat} {v m whole : W32} (on : bitOf v.toNat 31 = true) (mask : m ||| BitVec.twoPow 32 31 = whole) :
    ((d.setReg k (v &&& m)).orBits k (2 ^ 31)).reg k = v &&& whole ∧ (∀ r, r ≠ k → ((d.setReg k (v &&& m)).orBits k (2 ^ 31)).reg r = d.reg r) ∧
    (d.setReg k (v &&& m)).orBits k (2 ^ 31) = { d with regs := ((d.setReg k (v &&& m)).orBits k (2 ^ 31)).regs } := by
  refine ⟨?_, fun r ne => (Dev.reg_orBits_ne _ _ ne).trans (Dev.reg_setReg_ne d _ ne), Dev.setReg_setReg_regsOnly ..⟩
  rw [Dev.reg_orBits, Dev.reg_setReg, masked_or_enable on, mask]

/-! ### A Hod queue's state (R377–R383) -/

theorem Dev.hodQ_congr {d e : Dev} (h : e.hod = d.hod) (q : Nat) : e.hodQ q = d.hodQ q := by rw [Dev.hodQ, h]; rfl

theorem Dev.hodQ_setHodQ (d : Dev) (q : Nat) (x : HodQ) : (d.setHodQ q x).hodQ q = x := FMap.get_set_self HodQ.reset d.hod q x

theorem Dev.hodQ_setHodQ_ne (d : Dev) {q j : Nat} (x : HodQ) (ne : j ≠ q) : (d.setHodQ q x).hodQ j = d.hodQ j := FMap.get_set_ne HodQ.reset d.hod x ne

theorem Dev.hodPkt_eq {d : Dev} {q : Nat} {x : HodQ} (h : d.hodQ q = x) (src : Nat) : d.hodPkt q src = x.opened.find? (fun p => p.source == src) := by
  rw [Dev.hodPkt, h]

theorem hodPkt_source {d : Dev} {q src : Nat} {k : OpenPkt} (h : d.hodPkt q src = some k) : k.source = src := by
  rw [Dev.hodPkt] at h
  have := List.find?_some h
  exact eq_of_beq this

/-- The packets of the other sources. -/
def HodQ.without (x : HodQ) (src : Nat) : HodQ := { x with opened := x.opened.filter (fun p => p.source != src), lostBefore := true }

theorem find_without (l : List OpenPkt) (src : Nat) : (l.filter (fun p => p.source != src)).find? (fun p => p.source == src) = none := by
  refine List.find?_eq_none.2 fun p mem same => ?_
  have other : (p.source != src) = true := (List.mem_filter.1 mem).2
  rw [bne, same] at other
  exact nomatch other

theorem find_filter_none {l : List OpenPkt} {src : Nat} (keep : OpenPkt → Bool) (absent : l.find? (fun p => p.source == src) = none) :
    (l.filter keep).find? (fun p => p.source == src) = none :=
  List.find?_eq_none.2 fun p mem => List.find?_eq_none.1 absent p (List.mem_filter.1 mem).1

/-! ### A packet that is rewound (R381) -/

/-- What a rewind changes: the source's packet is gone, the loss is noted and counted. -/
structure Dev.Rewound (d x : Dev) (q src : Nat) : Prop where
  queue : x.hodQ q = (d.hodQ q).without src
  others (j : Nat) : j ≠ q → x.hodQ j = d.hodQ j
  count : x.rn (hodKey q 0x60) = min (d.rn (hodKey q 0x60) + 1) 0xFFFFFFFF
  regs (a : Nat) : a ≠ hodKey q 0x60 → x.reg a = d.reg a
  aphy : x.aphy = d.aphy

/-- The bytes of a rewound packet are undefined. -/
def Dev.spoiled (d : Dev) (a n : Nat) : Dev := (d.drawBytes n).2.wr View.plain a (d.drawBytes n).1

theorem Dev.spoiled_kept (d : Dev) (a n : Nat) : (d.spoiled a n).hod = d.hod ∧ (d.spoiled a n).regs = d.regs ∧ (d.spoiled a n).hw = d.hw ∧ (d.spoiled a n).aphy = d.aphy := by
  unfold Dev.spoiled
  rw [(Dev.wr_memOnly _ _ _ _).eq]
  exact ⟨rfl, rfl, rfl, rfl⟩

/-- A loss is noted at its queue and counted. -/
def Dev.lossNoted (d : Dev) (q off : Nat) : Dev := (d.setHodQ q { d.hodQ q with lostBefore := true }).bump (hodKey q off) 1

theorem Dev.lossNoted_spec (d : Dev) (q off : Nat) :
    (d.lossNoted q off).hodQ q = { d.hodQ q with lostBefore := true } ∧ (∀ j, j ≠ q → (d.lossNoted q off).hodQ j = d.hodQ j) ∧
    (d.lossNoted q off).rn (hodKey q off) = min (d.rn (hodKey q off) + 1) 0xFFFFFFFF ∧ ∀ a, a ≠ hodKey q off → (d.lossNoted q off).reg a = d.reg a := by
  have regs (a : Nat) : (d.setHodQ q { d.hodQ q with lostBefore := true }).reg a = d.reg a := Dev.reg_congr rfl rfl a
  refine ⟨d.hodQ_setHodQ q _, fun j ne => d.hodQ_setHodQ_ne _ ne, ?_, fun a ne => (Dev.reg_bump_ne _ _ ne).trans (regs a)⟩
  unfold Dev.lossNoted
  rw [Dev.reg_bump, Dev.rn, regs]
  rfl

/-- What the Gauge and the record queue tell of a loss. -/
structure Dev.Telling (d x : Dev) : Prop where
  eq : x = { d with gau := x.gau, rate := x.rate, jfe := x.jfe }

namespace Dev.Telling

theorem trans {d e f : Dev} (h : d.Telling e) (k : e.Telling f) : d.Telling f := by
  obtain ⟨h⟩ := h
  obtain ⟨k⟩ := k
  constructor
  rw [k, h]

theorem blkCount (d : Dev) (b : Block) (ev n : Nat) : d.Telling (d.blkCount b ev n) := by
  constructor
  rw [Dev.blkCount_gau]

theorem limited (d : Dev) (key gap : Nat) (b : Block) (code sev : Nat) (a0 a1 : Nat → Nat) :
    d.Telling (d.limited key gap (fun k d => d.emit b code sev (a0 k) (a1 k))) := by
  obtain ⟨r, j, eq⟩ := Dev.limited_emit_eq d key gap b code sev a0 a1
  rw [eq]
  exact ⟨rfl⟩

theorem emit (d : Dev) (b : Block) (code sev a0 a1 : Nat) : d.Telling (d.emit b code sev a0 a1) := by
  obtain ⟨_, _, eq⟩ := d.emit_eq b code sev a0 a1
  rw [eq]
  exact ⟨rfl⟩

variable {d e : Dev} (h : d.Telling e)
include h

theorem hod : e.hod = d.hod := (congrArg Dev.hod h.eq :)
theorem hodQ (q : Nat) : e.hodQ q = d.hodQ q := Dev.hodQ_congr h.hod q
theorem reg (a : Nat) : e.reg a = d.reg a := Dev.reg_congr (congrArg Dev.regs h.eq :) (congrArg Dev.hw h.eq :) a
theorem rn (a : Nat) : e.rn a = d.rn a := congrArg BitVec.toNat (h.reg a)
theorem aphy : e.aphy = d.aphy := (congrArg Dev.aphy h.eq :)
theorem mem : e.mem = d.mem := (congrArg Dev.mem h.eq :)

end Dev.Telling

theorem Dev.hodRewind_eq (d : Dev) (q : Nat) (p : OpenPkt) (reason : Nat) :
    ∃ a n, (Dev.lossNoted ((d.hodTake q p.source).spoiled a n) q 0x60).Telling (d.hodRewind q p reason) := by
  refine ⟨((d.hodTake q p.source).hodData q).1 + ((d.hodTake q p.source).hodStart q).1, min ((d.hodTake q p.source).hodMax q) (up64 p.bytes.length), ?_⟩
  unfold Dev.hodRewind Dev.lossNoted Dev.spoiled
  dsimp only
  generalize Dev.bump _ _ _ = e
  exact ((Dev.Telling.blkCount e .hod 3 1).trans (.blkCount _ _ 3 1)).trans (.limited _ _ _ .hod 0x0A02 1 (fun _ => q + 256 * reason) (fun n => n + 1))

theorem Dev.hodRewind_rewound (d : Dev) (q : Nat) (p : OpenPkt) (reason : Nat) : d.Rewound (d.hodRewind q p reason) q p.source := by
  obtain ⟨a, n, telling⟩ := d.hodRewind_eq q p reason
  obtain ⟨hod, regs, hw, aphy⟩ := (d.hodTake q p.source).spoiled_kept a n
  have taken : (d.hodTake q p.source).hodQ q = { d.hodQ q with opened := (d.hodQ q).opened.filter (fun x => x.source != p.source) } := d.hodQ_setHodQ q _
  have reg (b : Nat) : ((d.hodTake q p.source).spoiled a n).reg b = d.reg b := Dev.reg_congr regs hw b
  have aphy' : ((d.hodTake q p.source).spoiled a n).aphy = d.aphy := aphy
  have others (j : Nat) (ne : j ≠ q) : ((d.hodTake q p.source).spoiled a n).hodQ j = d.hodQ j := (Dev.hodQ_congr hod j).trans (d.hodQ_setHodQ_ne _ ne)
  have queue := (Dev.hodQ_congr hod q).trans taken
  generalize (d.hodTake q p.source).spoiled a n = y at *
  obtain ⟨noted, rest, count, other⟩ := y.lossNoted_spec q 0x60
  refine ⟨?_, fun j ne => ?_, ?_, fun b ne => ?_, ?_⟩
  · rw [telling.hodQ, noted, queue]
    rfl
  · rw [telling.hodQ, rest j ne, others j ne]
  · rw [telling.rn, count, Dev.rn, Dev.rn, reg]
  · rw [telling.reg, other b ne, reg]
  · exact telling.aphy.trans aphy'

/-! ### A packet that has no room (R382) -/

theorem Dev.hodDrop_eq (d : Dev) (q : Nat) : (d.lossNoted q 0x5C).Telling (d.hodDrop q) :=
  (Dev.Telling.blkCount _ .hod 4 1).trans (.limited _ _ _ .hod 0x0A03 1 (fun _ => q) (fun n => n + 1))

/-! ### A port's packets that are lost (R370) -/

theorem Dev.Rewound.lost {d x : Dev} {q src : Nat} (h : d.Rewound x q src) : x.hodPkt q src = none := by
  rw [Dev.hodPkt_eq h.queue]
  exact find_without _ _

theorem Dev.Rewound.stays {d x : Dev} {q src : Nat} (h : d.Rewound x q src) {j t : Nat} (absent : d.hodPkt j t = none) : x.hodPkt j t = none := by
  by_cases same : j = q
  · subst same
    rw [Dev.hodPkt_eq h.queue]
    exact find_filter_none _ absent
  · rw [Dev.hodPkt_eq (h.others j same)]
    exact absent

/-- What losing a port's packets may change: no register but the queues' counts, and no packet opens. -/
structure Dev.Losing (d x : Dev) : Prop where
  regs (a : Nat) : (∀ q, a ≠ hodKey q 0x60) → x.reg a = d.reg a
  aphy : x.aphy = d.aphy
  stays (j t : Nat) : d.hodPkt j t = none → x.hodPkt j t = none

theorem Dev.Losing.refl (d : Dev) : d.Losing d := ⟨fun _ _ => rfl, rfl, fun _ _ h => h⟩

theorem Dev.Losing.trans {d e f : Dev} (h : d.Losing e) (k : e.Losing f) : d.Losing f :=
  ⟨fun a out => (k.regs a out).trans (h.regs a out), k.aphy.trans h.aphy, fun j t none => k.stays j t (h.stays j t none)⟩

theorem Dev.loseOpen_losing (d : Dev) (q src : Nat) : d.Losing (d.loseOpen q src).1 ∧ (d.loseOpen q src).1.hodPkt q src = none := by
  unfold Dev.loseOpen
  split
  · next p found =>
    have rewound := d.hodRewind_rewound q p 5
    rw [hodPkt_source found] at rewound
    dsimp only
    generalize d.hodRewind q p 5 = x at rewound ⊢
    exact ⟨⟨fun a out => rewound.regs a (out q), rewound.aphy, fun j t => rewound.stays⟩, rewound.lost⟩
  · next gone => exact ⟨.refl d, gone⟩

theorem slotKey_ne_hodKey (p l q : Nat) {o i : Nat} (ho : o < 0x1000) (hi : i < 0x1000) (ne : o ≠ i) : slotKey p l o ≠ hodKey q i := by
  unfold slotKey hodKey
  omega

theorem Dev.Losing.slotCfg {d x : Dev} (h : d.Losing x) (p l : Nat) : x.slotCfg p l = d.slotCfg p l :=
  congrArg BitVec.toNat (h.regs _ fun q => slotKey_ne_hodKey p l q (by decide) (by decide) (by decide))

/-- The open packets of a port's slots are lost, one by one; the count is the second part. -/
def Dev.loseSlots (d : Dev) (p : Nat) (ls : List Nat) : Dev × Nat :=
  ls.foldl (fun (x : Dev × Nat) s => ((x.1.loseOpen (slotQueue (x.1.slotCfg p s)) (slotSource p s)).1,
    x.2 + (x.1.loseOpen (slotQueue (x.1.slotCfg p s)) (slotSource p s)).2)) (d, 0)

theorem Dev.loseSlots_losing (d : Dev) (p : Nat) (ls : List Nat) :
    d.Losing (d.loseSlots p ls).1 ∧ ∀ l ∈ ls, (d.loseSlots p ls).1.hodPkt (slotQueue (d.slotCfg p l)) (slotSource p l) = none := by
  induction ls using List.reverseRecOn with
  | nil => exact ⟨.refl d, fun l mem => absurd mem List.not_mem_nil⟩
  | append_singleton ls l ih =>
    obtain ⟨losing, lost⟩ := ih
    have last : (d.loseSlots p (ls ++ [l])).1 = ((d.loseSlots p ls).1.loseOpen (slotQueue (d.slotCfg p l)) (slotSource p l)).1 := by
      rw [← losing.slotCfg p l]
      simp only [Dev.loseSlots, List.foldl_append, List.foldl_cons, List.foldl_nil]
    obtain ⟨step, gone⟩ := (d.loseSlots p ls).1.loseOpen_losing (slotQueue (d.slotCfg p l)) (slotSource p l)
    rw [last]
    refine ⟨losing.trans step, fun k mem => ?_⟩
    rcases List.mem_append.1 mem with before | this
    · exact step.stays _ _ (lost k before)
    · rw [List.mem_singleton.1 this]
      exact gone

/-! ### The I2C transfer buffer (R371) -/

theorem leNat_lt : ∀ bs : List Byte, leNat bs < 256 ^ bs.length
  | [] => by decide
  | b :: bs => by
    have low := b.isLt
    have high := leNat_lt bs
    rw [List.length_cons, Nat.pow_succ, leNat]
    omega

/-- Four bytes at a time give the list again. -/
theorem flatMap_pieces (bs : List Byte) : ∀ n, (List.range n).flatMap (fun i => (bs.drop (4 * i)).take 4) = bs.take (4 * n)
  | 0 => rfl
  | n + 1 => by
    rw [List.range_succ, List.flatMap_append, flatMap_pieces bs n, List.flatMap_singleton, ← List.take_add]
    rfl

/-- The buffer's registers take the bytes of a list, four each. -/
def Dev.i2cFill (d : Dev) (p : Nat) (bs : List Byte) (n : Nat) : Dev :=
  (List.range n).foldl (fun d i => d.setNat (aphyKey p (0x100 + 4 * i)) (leNat ((bs.drop (4 * i)).take 4))) d

theorem Dev.i2cFill_succ (d : Dev) (p : Nat) (bs : List Byte) (n : Nat) :
    d.i2cFill p bs (n + 1) = (d.i2cFill p bs n).setNat (aphyKey p (0x100 + 4 * n)) (leNat ((bs.drop (4 * n)).take 4)) := by
  simp only [Dev.i2cFill, List.range_succ, List.foldl_append, List.foldl_cons, List.foldl_nil]

theorem Dev.i2cFill_regsOnly (d : Dev) (p : Nat) (bs : List Byte) (n : Nat) : d.i2cFill p bs n = { d with regs := (d.i2cFill p bs n).regs } :=
  List.foldlRecOn (motive := fun e : Dev => e = { d with regs := e.regs }) _ _ rfl fun e same i _ => by
    rw [same]
    rfl

theorem aphyKey_ne (p : Nat) {o i : Nat} (ne : o ≠ i) : aphyKey p o ≠ aphyKey p i := by
  unfold aphyKey
  omega

theorem Dev.i2cFill_other (d : Dev) {p : Nat} {a : Nat} (bs : List Byte) : ∀ n, (∀ i, i < n → a ≠ aphyKey p (0x100 + 4 * i)) → (d.i2cFill p bs n).reg a = d.reg a
  | 0, _ => rfl
  | n + 1, out => by
    rw [Dev.i2cFill_succ, Dev.reg_setNat_ne _ _ (out n (Nat.lt_succ_self n)), Dev.i2cFill_other d bs n fun i before => out i (Nat.lt_succ_of_lt before)]

theorem Dev.i2cFill_word (d : Dev) (p : Nat) (bs : List Byte) {n i : Nat} (inside : i < n) :
    (d.i2cFill p bs n).rn (aphyKey p (0x100 + 4 * i)) = leNat ((bs.drop (4 * i)).take 4) := by
  induction n with
  | zero => exact absurd inside (Nat.not_lt_zero i)
  | succ n ih =>
    rw [Dev.i2cFill_succ]
    rcases Nat.lt_succ_iff_lt_or_eq.1 inside with before | rfl
    · rw [Dev.rn, Dev.reg_setNat_ne _ _ (aphyKey_ne p (by omega)), ← Dev.rn, ih before]
    · refine Dev.rn_setNat _ _ (Nat.lt_of_lt_of_le (leNat_lt _) ?_)
      exact (Nat.pow_le_pow_right (by decide) (List.length_take_le 4 _)).trans_eq rfl

/-- The whole buffer of a device whose registers hold the list's words. -/
theorem Dev.i2cBytes_of_words {d : Dev} {p : Nat} {bs : List Byte} (full : bs.length = 64)
    (words : ∀ i, i < 16 → d.rn (aphyKey p (0x100 + 4 * i)) = leNat ((bs.drop (4 * i)).take 4)) (n : Nat) : d.i2cBytes p n = bs.take n := by
  have word {i : Nat} (inside : i < 16) : leBytes 4 (d.rn (aphyKey p (0x100 + 4 * i))) = (bs.drop (4 * i)).take 4 := by
    have length : ((bs.drop (4 * i)).take 4).length = 4 := by
      rw [List.length_take, List.length_drop, full]
      omega
    have again := leBytes_leNat ((bs.drop (4 * i)).take 4)
    rw [length] at again
    rw [words i inside, again]
  have all : (List.range 16).flatMap (fun i => leBytes 4 (d.rn (aphyKey p (0x100 + 4 * i)))) = (List.range 16).flatMap (fun i => (bs.drop (4 * i)).take 4) :=
    List.flatMap_congr fun i mem => word (List.mem_range.1 mem)
  rw [Dev.i2cBytes, all, flatMap_pieces, List.take_of_length_le (l := bs) (by omega)]

theorem Dev.i2cBytes_congr {d e : Dev} {p : Nat} (h : ∀ i, i < 16 → e.reg (aphyKey p (0x100 + 4 * i)) = d.reg (aphyKey p (0x100 + 4 * i))) (n : Nat) :
    e.i2cBytes p n = d.i2cBytes p n := by
  have all : (List.range 16).flatMap (fun i => leBytes 4 (e.rn (aphyKey p (0x100 + 4 * i)))) =
      (List.range 16).flatMap (fun i => leBytes 4 (d.rn (aphyKey p (0x100 + 4 * i)))) :=
    List.flatMap_congr fun i mem => by rw [Dev.rn, h i (List.mem_range.1 mem), ← Dev.rn]
  rw [Dev.i2cBytes, Dev.i2cBytes, all]

theorem Dev.i2cBytes_length (d : Dev) (p : Nat) : (d.i2cBytes p 64).length = 64 := by
  have length : ((List.range 16).flatMap (fun i => leBytes 4 (d.rn (aphyKey p (0x100 + 4 * i))))).length = 64 := by
    simp [List.length_flatMap, leBytes_len]
  rw [Dev.i2cBytes, List.length_take, length]
  rfl

/-! ### The end of a transaction (R371) -/

/-- A transaction has ended with a result; the received bytes stand in the buffer from byte 0. -/
structure Dev.I2cEnded (d x : Dev) (p result : Nat) (data : List Byte) : Prop where
  status : x.reg (aphyKey p 0x44) = BitVec.ofNat 32 result
  idle : x.aphyPort p = { d.aphyPort p with i2c := none }
  bytes (n : Nat) : x.i2cBytes p n = (patch (d.i2cBytes p 64) 0 (data.take 64)).take n
  same : x = { d with regs := x.regs, aphy := x.aphy }

theorem Dev.aphyPort_setAphy (d : Dev) (p : Nat) (x : Aphy) : (d.setAphy p x).aphyPort p = x := FMap.get_set_self Aphy.reset d.aphy p x

theorem Dev.aphyPort_congr {d e : Dev} (h : e.aphy = d.aphy) (p : Nat) : e.aphyPort p = d.aphyPort p := by rw [Dev.aphyPort, h]; rfl

/-- The result of a transaction stands, and the port is free. -/
def Dev.i2cClosed (d : Dev) (p result : Nat) : Dev := (d.setNat (aphyKey p 0x44) result).setAphy p { d.aphyPort p with i2c := none }

theorem Dev.i2cClosed_spec (d : Dev) (p result : Nat) : (d.i2cClosed p result).reg (aphyKey p 0x44) = BitVec.ofNat 32 result ∧
    (∀ a, a ≠ aphyKey p 0x44 → (d.i2cClosed p result).reg a = d.reg a) ∧ (d.i2cClosed p result).aphyPort p = { d.aphyPort p with i2c := none } ∧
    d.i2cClosed p result = { d with regs := (d.i2cClosed p result).regs, aphy := (d.i2cClosed p result).aphy } := by
  have reg (a : Nat) : (d.i2cClosed p result).reg a = (d.setNat (aphyKey p 0x44) result).reg a := Dev.reg_congr rfl rfl a
  exact ⟨(reg _).trans (d.reg_setNat _ _), fun a ne => (reg a).trans (d.reg_setNat_ne _ ne), Dev.aphyPort_setAphy _ _ _, rfl⟩

theorem Dev.i2cEnd_ended (d : Dev) (p result : Nat) (data : List Byte) : d.I2cEnded (d.i2cEnd p result data) p result data := by
  have shape : d.i2cEnd p result data = (d.i2cFill p (patch (d.i2cBytes p 64) 0 (data.take 64)) 16).i2cClosed p result := rfl
  have full : (patch (d.i2cBytes p 64) 0 (data.take 64)).length = 64 := by
    rw [patch, List.take_zero, List.nil_append, List.length_append, List.length_drop, d.i2cBytes_length, List.length_take]
    omega
  rw [shape]
  clear shape
  have words (i : Nat) := d.i2cFill_word p (patch (d.i2cBytes p 64) 0 (data.take 64)) (n := 16) (i := i)
  have only := d.i2cFill_regsOnly p (patch (d.i2cBytes p 64) 0 (data.take 64)) 16
  generalize d.i2cFill p (patch (d.i2cBytes p 64) 0 (data.take 64)) 16 = y at words only ⊢
  obtain ⟨status, regs, port, same⟩ := y.i2cClosed_spec p result
  have aphy : y.aphy = d.aphy := (congrArg Dev.aphy only :)
  refine ⟨status, ?_, fun n => ?_, ?_⟩
  · rw [port, Dev.aphyPort_congr aphy]
  · refine Dev.i2cBytes_of_words full (fun i inside => ?_) n
    rw [Dev.rn, regs _ (aphyKey_ne p (by omega)), ← Dev.rn, words i inside]
  · generalize y.i2cClosed p result = x at same ⊢
    rw [same, only]

/-- The buffer after a transaction that received `data`: the bytes received, then those that stood there. -/
theorem Dev.I2cEnded.received {d x : Dev} {p result : Nat} {data : List Byte} (h : d.I2cEnded x p result data) (fits : data.length ≤ 64) :
    x.i2cBytes p data.length = data ∧ ∀ i, data.length ≤ i → i < 64 → (x.i2cBytes p 64)[i]? = (d.i2cBytes p 64)[i]? := by
  have whole : data.take 64 = data := List.take_of_length_le fits
  refine ⟨?_, fun i past inside => ?_⟩
  · rw [h.bytes, whole, patch, List.take_zero, List.nil_append, List.take_left']
    rfl
  · rw [h.bytes, whole, patch, List.take_zero, List.nil_append, List.getElem?_take, if_pos inside, List.getElem?_append_right past, List.getElem?_drop]
    congr 1
    omega

/-! ### Packets of a camera (R369, R378) -/

/-- The packet of a frame that has just begun. -/
def newPkt (src stamp info tick : Nat) : OpenPkt := { source := src, bytes := [], lines := 0, damaged := false, stamp := stamp, info := info, last := tick }

/-- The packet opens behind those that are open. -/
def Dev.hodOpened (d : Dev) (q : Nat) (k : OpenPkt) : Dev := d.setHodQ q { d.hodQ q with opened := (d.hodQ q).opened ++ [k] }

theorem Dev.readRelease_hodQ (d : Dev) (q : Nat) : (d.readRelease q).hodQ q =
    { d.hodQ q with released := leNat (d.rd View.plain (d.hodRelease q) 4),
                    held := (d.hodQ q).held.filter (fun h => decide (2 ^ 31 ≤ sub32 (leNat (d.rd View.plain (d.hodRelease q) 4)) h.1)) } := d.hodQ_setHodQ q _

theorem Dev.readRelease_hodQ_ne (d : Dev) {q j : Nat} (ne : j ≠ q) : (d.readRelease q).hodQ j = d.hodQ j := d.hodQ_setHodQ_ne _ ne

section
variable {d : Dev} {q src stamp info : Nat} (enabled : (d.hodQ q).enabled = true)
include enabled

theorem Dev.hodOpen_room (room : (d.readRelease q).hodRoom q = true) :
    d.hodOpen q src stamp info = (d.readRelease q).hodOpened q (newPkt src stamp info d.ticks) := by
  unfold Dev.hodOpen
  dsimp only
  rw [enabled, room, if_neg (by decide : ¬ (!true) = true), if_pos rfl]
  rfl

theorem Dev.hodOpen_full (full : (d.readRelease q).hodRoom q = false) : d.hodOpen q src stamp info = (d.readRelease q).hodDrop q := by
  unfold Dev.hodOpen
  dsimp only
  rw [enabled, full, if_neg (by decide : ¬ (!true) = true), if_neg Bool.false_ne_true]

end

theorem Dev.hodOpened_spec (d : Dev) (q : Nat) (k : OpenPkt) : (((d.readRelease q).hodOpened q k).hodQ q).opened = (d.hodQ q).opened ++ [k] ∧
    (∀ j, j ≠ q → ((d.readRelease q).hodOpened q k).hodQ j = d.hodQ j) ∧
    (d.readRelease q).hodOpened q k = { d with hod := ((d.readRelease q).hodOpened q k).hod } := by
  refine ⟨?_, fun j ne => (Dev.hodQ_setHodQ_ne _ _ ne).trans (d.readRelease_hodQ_ne ne), rfl⟩
  rw [Dev.hodOpened, Dev.hodQ_setHodQ, Dev.readRelease_hodQ]

/-! ### Headers that can be read (R369) -/

section
variable {d : Dev} {p vc : Nat} (link : (d.aphyPort p).link = true)
include link

theorem Dev.frameStartFx_unknown {num : Nat} (slot : d.slotOf p vc = none) : d.frameStartFx p vc num .good = d.csiDiscard p := by
  unfold Dev.frameStartFx
  rw [link, if_neg (by decide : ¬ (!true) = true)]
  dsimp only [Dev.csiHeader]
  rw [if_neg (by decide : ¬ (!true) = true), slot]

variable {l : Nat} (slot : d.slotOf p vc = some l)
include slot

theorem Dev.frameStartFx_opens {num : Nat} (idle : d.hodPkt (slotQueue (d.slotCfg p l)) (slotSource p l) = none) :
    d.frameStartFx p vc num .good = (d.blkCount .aphy 1 1).hodOpen (slotQueue (d.slotCfg p l)) (slotSource p l)
      (stampLess d.nowFx 1184 (d.rn (slotKey p l 0x3C))) (num % 65536 + 65536 * (d.slotCfg p l % 64) + 2 ^ 22 * vc) := by
  unfold Dev.frameStartFx
  rw [link, if_neg (by decide : ¬ (!true) = true)]
  dsimp only [Dev.csiHeader]
  rw [if_neg (by decide : ¬ (!true) = true), slot]
  dsimp only
  rw [idle]

theorem Dev.longPacketFx_line {dt : Nat} {data : List Byte} {k : OpenPkt} (type : d.slotCfg p l % 64 = dt) (dense : bitOf (d.slotCfg p l) 30 = false)
    (pkt : d.hodPkt (slotQueue (d.slotCfg p l)) (slotSource p l) = some k) (room : k.lines < d.rn (slotKey p l 0x38) / 65536)
    (fits : k.bytes.length + data.length ≤ d.hodMax (slotQueue (d.slotCfg p l))) :
    ∃ g, d.longPacketFx p vc dt .good data true false = Dev.hodPut { d with gau := g } (slotQueue (d.slotCfg p l))
      { k with bytes := k.bytes ++ data, lines := k.lines + 1, last := d.ticks, damaged := k.damaged || data.length != d.rn (slotKey p l 0x38) % 65536 } := by
  obtain ⟨g, counted⟩ : ∃ g, (d.blkCount .aphy 1 1).blkCount .aphy 2 data.length = { d with gau := g } := by
    rw [Dev.blkCount_gau (d.blkCount .aphy 1 1), Dev.blkCount_gau d]
    exact ⟨_, rfl⟩
  refine ⟨g, ?_⟩
  unfold Dev.longPacketFx
  rw [link, if_neg (by decide : ¬ (!true) = true)]
  dsimp only [Dev.csiHeader]
  rw [if_neg (by decide : ¬ (!true) = true), slot, Option.filter_some_pos (by rw [type]; exact beq_self_eq_true dt)]
  dsimp only
  rw [if_pos rfl, counted]
  have pkt' : Dev.hodPkt { d with gau := g } (slotQueue (d.slotCfg p l)) (slotSource p l) = some k := pkt
  rw [pkt', dense]
  have extra : decide (d.rn (slotKey p l 0x38) / 65536 ≤ k.lines) = false := decide_eq_false (by omega)
  have within : ¬ Dev.hodMax { d with gau := g } (slotQueue (d.slotCfg p l)) < (k.bytes ++ data).length := by
    rw [List.length_append]
    exact Nat.not_lt.2 fits
  simp only [extra, Bool.false_eq_true, if_false, List.replicate_zero, List.append_nil, within, Bool.or_false, Bool.not_true]

end

theorem find_put {k k' : OpenPkt} {src : Nat} (same : k'.source = src) : ∀ {l : List OpenPkt}, l.find? (fun p => p.source == src) = some k →
    (l.map (fun x => if x.source = k'.source then k' else x)).find? (fun p => p.source == src) = some k'
  | [], h => nomatch h
  | x :: l, h => by
    rw [List.map_cons]
    by_cases this : x.source = src
    · rw [if_pos (this.trans same.symm)]
      exact List.find?_cons_of_pos (by rw [same]; exact beq_self_eq_true src)
    · rw [List.find?_cons_of_neg (by simpa using this)] at h
      rw [if_neg (by rw [same]; exact this), List.find?_cons_of_neg (by simpa using this)]
      exact find_put same h

theorem Dev.hodPut_hodPkt {d : Dev} {q src : Nat} {k k' : OpenPkt} (pkt : d.hodPkt q src = some k) (same : k'.source = src) : (d.hodPut q k').hodPkt q src = some k' := by
  unfold Dev.hodPut
  rw [Dev.hodPkt_eq (d.hodQ_setHodQ q _)]
  exact find_put same pkt

/-! ### The end of a frame (R369, R379–R381) -/

theorem Dev.frameEndFx_whole {d : Dev} {p vc l q : Nat} {k : OpenPkt} (link : (d.aphyPort p).link = true) (slot : d.slotOf p vc = some l)
    (queue : q = slotQueue (d.slotCfg p l)) (pkt : d.hodPkt q (slotSource p l) = some k) (lines : k.lines = d.rn (slotKey p l 0x38) / 65536) :
    d.frameEndFx p vc .good = d.hodFinish q k := by
  subst queue
  unfold Dev.frameEndFx
  rw [link, if_neg (by decide : ¬ (!true) = true)]
  dsimp only [Dev.csiHeader]
  rw [if_neg (by decide : ¬ (!true) = true), slot]
  dsimp only
  rw [pkt]
  dsimp only
  rw [← lines, Nat.sub_self, if_pos (.inl rfl), bne_self_eq_false, Bool.or_false]

/-- The bytes of a packet as they stand in the data area: filled up to whole lines. -/
def pktLines (k : OpenPkt) : List Byte := k.bytes ++ List.replicate (up64 k.bytes.length - k.bytes.length) 0

/-- The data lines, then the descriptor of a packet that commits. -/
def Dev.hodStored (d : Dev) (q : Nat) (x : HodQ) (off : Nat × Bool) (k : OpenPkt) : Dev :=
  (d.wr View.plain ((d.hodData q).1 + off.1) (pktLines k)).wr View.plain ((d.hodRing q).1 + 32 * (x.seq % d.hodSlots q))
    (hodDescriptor x.seq k.source ((if off.2 then 1 else 0) + (if x.lostBefore then 4 else 0)) ((k.bytes.length - 1) % 64 + 1) off.1 k.bytes.length k.stamp k.info)

/-- The queue after a packet that has committed. -/
def HodQ.after (x : HodQ) (off : Nat) (k : OpenPkt) : HodQ :=
  { x with seq := add32 x.seq 1, w := off + up64 k.bytes.length, held := x.held ++ [(x.seq, off, up64 k.bytes.length)], lostBefore := false }

theorem Dev.hodWrite_eq {d : Dev} {q : Nat} {k : OpenPkt} (good : k.damaged = false) (some_ : k.bytes ≠ []) (quiet : d.hodNotify q = 0) :
    (Dev.setHodQ (d.hodStored q (d.hodQ q) (d.hodStart q) k) q ((d.hodQ q).after (d.hodStart q).1 k)).Telling (d.hodWrite q k) := by
  have memOnly (a : Nat) (bs : List Byte) := d.wr_memOnly View.plain a bs
  have length : k.bytes.length ≠ 0 := fun h => some_ (List.length_eq_zero_iff.1 h)
  unfold Dev.hodWrite Dev.tailOf
  obtain ⟨off, wrap⟩ := d.hodStart q
  dsimp only
  rw [if_neg length, good, quiet, if_neg (fun h => h.1 rfl)]
  dsimp only
  rw [if_neg Bool.false_ne_true, Nat.add_zero]
  exact (Dev.Telling.blkCount _ .hod 1 1).trans (.blkCount _ .hod 2 _)

/-! ### Packets that commit or are rewound at their end (R380, R381) -/

/-- What a commit leaves: the packet's lines and descriptor in memory, and its place at the queue. -/
structure Dev.Committed (d x : Dev) (q : Nat) (k : OpenPkt) : Prop where
  queue : x.hodQ q = { (d.hodQ q).after (d.hodStart q).1 k with opened := (d.hodQ q).opened.filter (fun p => p.source != k.source) }
  others (j : Nat) : j ≠ q → x.hodQ j = d.hodQ j
  mem : x.mem = (d.hodStored q (d.hodQ q) (d.hodStart q) k).mem

theorem Dev.hodTake_alike (d : Dev) (q src : Nat) : (d.hodTake q src).hodRoom q = d.hodRoom q ∧ (d.hodTake q src).hodStart q = d.hodStart q ∧
    (d.hodTake q src).hodQ q = { d.hodQ q with opened := (d.hodQ q).opened.filter (fun p => p.source != src) } := by
  have queue : (d.hodTake q src).hodQ q = { d.hodQ q with opened := (d.hodQ q).opened.filter (fun p => p.source != src) } := d.hodQ_setHodQ q _
  have start : (d.hodTake q src).hodStart q = d.hodStart q := by
    unfold Dev.hodStart
    rw [queue]
    rfl
  refine ⟨?_, start, queue⟩
  unfold Dev.hodRoom
  rw [start, queue]
  rfl

theorem Dev.hodStored_alike {d e : Dev} {q : Nat} (alike : d.StoresAlike e) (regs : e.regs = d.regs) (hw : e.hw = d.hw) (x : HodQ) (off : Nat × Bool) (k : OpenPkt) :
    (d.hodStored q x off k).StoresAlike (e.hodStored q x off k) := by
  have reg (a : Nat) : e.rn a = d.rn a := congrArg BitVec.toNat (Dev.reg_congr regs hw a)
  have data : e.hodData q = d.hodData q := by simp only [Dev.hodData, Dev.rpair, reg]
  have ring : e.hodRing q = d.hodRing q := by simp only [Dev.hodRing, Dev.rpair, Dev.rf, reg]
  have slots : e.hodSlots q = d.hodSlots q := by simp only [Dev.hodSlots, Dev.rf, reg]
  unfold Dev.hodStored
  rw [data, ring, slots]
  exact (alike.wr _ _).wr _ _

theorem Dev.hodStored_hod (d : Dev) (q : Nat) (x : HodQ) (off : Nat × Bool) (k : OpenPkt) : (d.hodStored q x off k).hod = d.hod := by
  have memOnly : d.MemOnly (d.hodStored q x off k) := (d.wr_memOnly _ _ _).trans (Dev.wr_memOnly _ _ _ _)
  rw [memOnly.eq]

theorem Dev.hodCommit_committed {d : Dev} {q : Nat} {k : OpenPkt} (good : k.damaged = false) (some_ : k.bytes ≠ []) (fits : k.bytes.length ≤ d.hodMax q)
    (room : d.hodRoom q = true) (quiet : d.hodNotify q = 0) : d.Committed (d.hodCommit q k) q k := by
  obtain ⟨room', start, queue⟩ := d.hodTake_alike q k.source
  have alike : d.StoresAlike (d.hodTake q k.source) := ⟨rfl, rfl, rfl, rfl, rfl, fun _ => rfl⟩
  have stored := (Dev.hodStored_alike (q := q) alike rfl rfl ((d.hodTake q k.source).hodQ q) (d.hodStart q) k).mem
  have hod := (d.hodTake q k.source).hodStored_hod q ((d.hodTake q k.source).hodQ q) (d.hodStart q) k
  have others (j : Nat) (ne : j ≠ q) : (d.hodTake q k.source).hodQ j = d.hodQ j := d.hodQ_setHodQ_ne _ ne
  have writes : d.hodCommit q k = (d.hodTake q k.source).hodWrite q k := by
    have fits' : ¬ (d.hodTake q k.source).hodMax q < k.bytes.length := Nat.not_lt.2 fits
    unfold Dev.hodCommit
    dsimp only
    rw [if_neg fits', room', if_pos room]
  have telling := Dev.hodWrite_eq (d := d.hodTake q k.source) good some_ quiet
  rw [start] at telling
  rw [writes]
  clear writes
  generalize d.hodTake q k.source = e at *
  generalize e.hodStored q (e.hodQ q) (d.hodStart q) k = m at *
  refine ⟨?_, fun j ne => ?_, ?_⟩
  · rw [telling.hodQ, Dev.hodQ_setHodQ, queue]
    rfl
  · rw [telling.hodQ, Dev.hodQ_setHodQ_ne _ _ ne, Dev.hodQ_congr hod, others j ne]
  · rw [telling.mem]
    refine Eq.trans (b := m.mem) rfl (stored.trans ?_)
    rw [queue]
    rfl

theorem Dev.hodFinish_commits {d : Dev} {q : Nat} {k : OpenPkt} (good : k.damaged = false) : d.hodFinish q k = d.hodCommit q k := by
  rw [Dev.hodFinish, good, Bool.false_and, if_neg Bool.false_ne_true]

theorem Dev.hodFinish_rewinds {d : Dev} {q : Nat} {k : OpenPkt} (bad : k.damaged = true) (drops : d.hodKeeps q = false) : d.hodFinish q k = d.hodRewind q k 1 := by
  rw [Dev.hodFinish, bad, drops, if_pos (by decide)]

/-! ### A port whose link drops (R370) -/

/-- The port has no link. -/
def Dev.portDown (d : Dev) (p : Nat) : Dev := d.setAphy p { d.aphyPort p with link := false, gear := 0 }

/-- What the loss of a link leaves. -/
structure Dev.PortLost (d x : Dev) (p : Nat) : Prop where
  link : (x.aphyPort p).link = false
  gear : (x.aphyPort p).gear = 0
  i2c : (x.aphyPort p).i2c = none
  lost (l : Nat) : l < 4 → x.hodPkt (slotQueue (d.slotCfg p l)) (slotSource p l) = none
  aborted : (d.aphyPort p).i2c ≠ none → x.rn (aphyKey p 0x44) = 3

theorem Dev.aphyDownFx_lost {d : Dev} {p : Nat} (link : (d.aphyPort p).link = true) (data : List Byte) : d.PortLost (d.aphyDownFx p data) p := by
  obtain ⟨losing, lost⟩ := d.loseSlots_losing p (List.range 4)
  have shape : d.aphyDownFx p data = Dev.emit (Dev.portDown (if (d.aphyPort p).i2c.isSome then (d.loseSlots p (List.range 4)).1.i2cEnd p 3 (data.take (d.i2cReads p))
      else (d.loseSlots p (List.range 4)).1) p) .aphy 0x0A06 1 p (d.loseSlots p (List.range 4)).2 := by
    unfold Dev.aphyDownFx
    dsimp only
    rw [link, if_neg (by decide : ¬ (!true) = true)]
    rfl
  rw [shape]
  clear shape
  generalize d.loseSlots p (List.range 4) = y at *
  have port := Dev.aphyPort_congr losing.aphy p
  obtain ⟨z, named, idle, hod, status⟩ : ∃ z, (if (d.aphyPort p).i2c.isSome then y.1.i2cEnd p 3 (data.take (d.i2cReads p)) else y.1) = z ∧ (z.aphyPort p).i2c = none ∧
      z.hod = y.1.hod ∧ ((d.aphyPort p).i2c ≠ none → z.rn (aphyKey p 0x44) = 3) := by
    cases running : (d.aphyPort p).i2c with
    | none =>
      refine ⟨y.1, if_neg Bool.false_ne_true, ?_, rfl, fun busy => absurd rfl busy⟩
      rw [port, running]
    | some t =>
      have ended := y.1.i2cEnd_ended p 3 (data.take (d.i2cReads p))
      refine ⟨_, if_pos rfl, ?_, (congrArg Dev.hod ended.same :), fun _ => congrArg BitVec.toNat ended.status⟩
      rw [ended.idle]
  rw [named]
  have telling := Dev.Telling.emit (z.portDown p) .aphy 0x0A06 1 p y.2
  have down := (Dev.aphyPort_congr telling.aphy p).trans (Dev.aphyPort_setAphy z p _)
  refine ⟨?_, ?_, ?_, fun l slot => ?_, fun busy => ?_⟩
  · rw [down]
  · rw [down]
  · rw [down]
    exact idle
  · rw [Dev.hodPkt_eq (telling.hodQ _)]
    have same : (z.portDown p).hodQ (slotQueue (d.slotCfg p l)) = y.1.hodQ (slotQueue (d.slotCfg p l)) := Dev.hodQ_congr hod _
    rw [same]
    exact lost l (List.mem_range.2 slot)
  · rw [telling.rn]
    have same : (z.portDown p).reg (aphyKey p 0x44) = z.reg (aphyKey p 0x44) := Dev.reg_congr rfl rfl _
    rw [Dev.rn, same]
    exact status busy

/-! ### Enabling a queue (R377) -/

theorem Dev.hodFencedPart_memOnly {d e : Dev} (h : d.MemOnly e) (q : Nat) (x : HodQ) : (e.setHodQ q x).hodFencedPart q = d.hodFencedPart q := by
  rw [h.eq]
  rfl

theorem Dev.hodStartUp_spec {d : Dev} {q : Nat} (clear : d.hodFencedPart q = none) :
    (d.hodStartUp q).hodQ q = { HodQ.reset with enabled := true } ∧ (∀ j, j ≠ q → (d.hodStartUp q).hodQ j = d.hodQ j) ∧ (d.hodStartUp q).regs = d.regs := by
  obtain ⟨m, memOnly, shape⟩ : ∃ m, d.MemOnly m ∧ d.hodStartUp q = (m.setHodQ q { HodQ.reset with enabled := true }).hodFence q := by
    have cleared := Dev.MemOnly.foldl (f := fun (e : Dev) i => e.wr View.plain ((e.hodRing q).1 + 32 * i) (leBytes 4 (2 ^ 32 + i - d.hodSlots q)))
      (fun e i => e.wr_memOnly _ _ _) (List.range (d.hodSlots q)) d
    unfold Dev.hodStartUp
    dsimp only
    generalize List.foldl _ d _ = y at cleared ⊢
    exact ⟨_, cleared.trans (y.wr_memOnly View.plain (y.hodRelease q) (leBytes 4 0xFFFFFFFF)), rfl⟩
  have stays : (m.setHodQ q { HodQ.reset with enabled := true }).hodFence q = m.setHodQ q { HodQ.reset with enabled := true } := by
    unfold Dev.hodFence
    rw [Dev.hodFencedPart_memOnly memOnly, clear]
  have hod : m.hod = d.hod := (congrArg Dev.hod memOnly.eq :)
  have regs : m.regs = d.regs := (congrArg Dev.regs memOnly.eq :)
  rw [shape, stays]
  exact ⟨m.hodQ_setHodQ q _, fun j ne => (m.hodQ_setHodQ_ne _ ne).trans (Dev.hodQ_congr hod j), regs⟩

/-! ### Writes of the ingest blocks (R398, R399) -/

theorem State.streamEnable_answers {s : State} {w : Writer} {off : Nat} {v : W32} {P : Dev → Prop} {x : Dev} (stream : off = APHY_VC_CFG ∨ off = ETH_FILT_ACTION)
    (wrote : s.dev.fresh.writeReg w off v = x) (h : P x) : s.Answers (exec (.streamEnable w off v) s) P :=
  ans_run (g := fun d => if off = APHY_VC_CFG ∨ off = ETH_FILT_ACTION then d.writeReg w off v else d) (by rw [if_pos stream, wrote]; exact h)

section
variable {d : Dev} {w : Writer} {v : W32}

theorem Dev.writeReg_vcCfg {p l : Nat} (serves : d.serves .aphy = true) (port : p = d.rf APHY_PORT_SEL 3 0) (slot : l = d.rf APHY_VC_SEL 1 0) :
    d.writeReg w APHY_VC_CFG v = d.slotWrite p l v := by
  subst port slot
  exact Dev.writeReg_through (b := .aphy) (o := 0x34) (r := ⟨0x34, 0x4, 1, .rw, 0x0, 0xC01F0F3F⟩) serves rfl (by decide) (by decide) (by decide) (.inl rfl)

theorem Dev.writeReg_i2cCmd {p : Nat} (serves : d.serves .aphy = true) (port : p = d.rf APHY_PORT_SEL 3 0) : d.writeReg w APHY_I2C_CMD v = d.i2cFx p v := by
  subst port
  exact Dev.writeReg_through (b := .aphy) (o := 0x40) (r := ⟨0x40, 0x4, 1, .rw, 0x0, 0x807F7F7F⟩) serves rfl (by decide) (by decide) (by decide) (.inl rfl)

theorem Dev.writeReg_filtAction {p f : Nat} (serves : d.serves .eth = true) (port : p = d.rf ETH_PORT_SEL 2 0) (known : p < 6) (filter : f = d.rf ETH_FILT_SEL 2 0) :
    d.writeReg w ETH_FILT_ACTION v = d.filtWrite p f v := by
  subst port filter
  have through := Dev.writeReg_through (d := d) (w := w) (v := v) (b := .eth) (o := 0x44) (r := ⟨0x44, 0x4, 1, .rw, 0x0, 0x801F3FFF⟩) serves rfl (by decide) (by decide) (by decide) (.inl rfl)
  refine through.trans ?_
  change d.ethWrite 0x44 _ v = _
  unfold Dev.ethWrite
  dsimp only
  rw [if_neg (by decide), if_neg (by omega), if_neg (by decide), if_neg (fun h => absurd h.1 (by decide)), if_neg (by decide), if_pos rfl]

theorem Dev.writeReg_hodCfg {q : Nat} (serves : d.serves .hod = true) (queue : q = d.rf HOD_Q_SEL 4 0) : d.writeReg w HOD_Q_CFG v = d.hodCfgWrite q v := by
  subst queue
  exact Dev.writeReg_through (b := .hod) (o := 0x20) (r := ⟨0x20, 0x4, 1, .rw, 0x0, 0xC1F0001F⟩) serves rfl (by decide) (by decide) (by decide) (.inl rfl)

end

theorem Dev.slotWrite_disables {d : Dev} {p l : Nat} {v : W32} (on : bitOf (d.slotCfg p l) 31 = true) (disable : bitOf v.toNat 31 = false) :
    (d.slotWrite p l v).reg (slotKey p l 0x34) = d.reg (slotKey p l 0x34) &&& 0x7FFFFFFF ∧
    (d.slotWrite p l v).hodPkt (slotQueue (d.slotCfg p l)) (slotSource p l) = none := by
  obtain ⟨losing, lost⟩ := d.loseOpen_losing (slotQueue (d.slotCfg p l)) (slotSource p l)
  have kept := losing.regs (slotKey p l 0x34) fun q => slotKey_ne_hodKey p l q (by decide) (by decide) (by decide)
  unfold Dev.slotWrite
  dsimp only
  rw [on, if_pos rfl, disable, if_neg Bool.false_ne_true]
  generalize (d.loseOpen (slotQueue (d.slotCfg p l)) (slotSource p l)).1 = y at kept lost ⊢
  refine ⟨?_, lost⟩
  rw [← kept]
  exact Dev.reg_setReg y _ _

/-- The device after a command that starts a transaction. -/
def Dev.i2cStarted (d : Dev) (p : Nat) (v : W32) (bs : List Byte) : Dev :=
  (((d.setReg (aphyKey p 0x40) (v &&& 0x807F7F7F)).setNat (aphyKey p 0x44) (2 ^ 31)).setAphy p { d.aphyPort p with i2c := some (d.ticks, bs) }).put
    (.i2c p (bitsOf v.toNat 22 16) bs (bitsOf v.toNat 14 8))

section
variable {d : Dev} {p : Nat} {v : W32} (idle : (d.aphyPort p).i2c = none) (writes : bitsOf v.toNat 6 0 ≤ 64) (reads : bitsOf v.toNat 14 8 ≤ 64)
  (go : bitOf v.toNat 31 = true)
include idle writes reads go

theorem Dev.i2cFx_starts (link : (d.aphyPort p).link = true) : d.i2cFx p v = d.i2cStarted p v (d.i2cBytes p (bitsOf v.toNat 6 0)) := by
  have bytes := Dev.i2cBytes_congr (d := d) (e := d.setReg (aphyKey p 0x40) (v &&& 0x807F7F7F)) (p := p)
    (fun i _ => d.reg_setReg_ne _ (aphyKey_ne p (by omega))) (bitsOf v.toNat 6 0)
  have allowed : ((d.aphyPort p).i2c.isSome || decide (64 < bitsOf v.toNat 6 0) || decide (64 < bitsOf v.toNat 14 8)) = false := by
    rw [idle, decide_eq_false (Nat.not_lt.2 writes), decide_eq_false (Nat.not_lt.2 reads)]
    rfl
  unfold Dev.i2cFx
  dsimp only
  rw [allowed, if_neg Bool.false_ne_true, go, if_neg (by decide : ¬ (!true) = true), if_neg (by rw [link]; decide : ¬ (!(d.aphyPort p).link) = true), bytes]
  rfl

theorem Dev.i2cFx_unlinked (link : (d.aphyPort p).link = false) :
    d.i2cFx p v = (d.setReg (aphyKey p 0x40) (v &&& 0x807F7F7F)).setNat (aphyKey p 0x44) 3 := by
  have allowed : ((d.aphyPort p).i2c.isSome || decide (64 < bitsOf v.toNat 6 0) || decide (64 < bitsOf v.toNat 14 8)) = false := by
    rw [idle, decide_eq_false (Nat.not_lt.2 writes), decide_eq_false (Nat.not_lt.2 reads)]
    rfl
  unfold Dev.i2cFx
  dsimp only
  rw [allowed, if_neg Bool.false_ne_true, go, if_neg (by decide : ¬ (!true) = true), link, if_pos (by decide : (!false) = true)]

end

theorem Dev.i2cStarted_spec (d : Dev) (p : Nat) (v : W32) (bs : List Byte) : (d.i2cStarted p v bs).rn (aphyKey p 0x44) = 2 ^ 31 ∧
    ((d.i2cStarted p v bs).aphyPort p).i2c = some (d.ticks, bs) ∧ (d.i2cStarted p v bs).out = d.out ++ [.i2c p (bitsOf v.toNat 22 16) bs (bitsOf v.toNat 14 8)] ∧
    d.i2cStarted p v bs = { d with regs := (d.i2cStarted p v bs).regs, aphy := (d.i2cStarted p v bs).aphy, out := (d.i2cStarted p v bs).out } := by
  obtain ⟨z, named, only, status⟩ : ∃ z, (d.setReg (aphyKey p 0x40) (v &&& 0x807F7F7F)).setNat (aphyKey p 0x44) (2 ^ 31) = z ∧ z = { d with regs := z.regs } ∧
      z.reg (aphyKey p 0x44) = BitVec.ofNat 32 (2 ^ 31) := ⟨(d.setReg (aphyKey p 0x40) (v &&& 0x807F7F7F)).setNat (aphyKey p 0x44) (2 ^ 31), rfl, Dev.setReg_setReg_regsOnly .., Dev.reg_setNat _ _ _⟩
  have shape : d.i2cStarted p v bs = (z.setAphy p { d.aphyPort p with i2c := some (d.ticks, bs) }).put (.i2c p (bitsOf v.toNat 22 16) bs (bitsOf v.toNat 14 8)) := by
    rw [← named]
    rfl
  rw [shape]
  clear shape named
  refine ⟨congrArg BitVec.toNat ((Dev.reg_congr rfl rfl _).trans status), congrArg Aphy.i2c (z.aphyPort_setAphy p _), ?_, ?_⟩
  · rw [only]
    rfl
  · rw [only]
    rfl

/-! ### Records and counts -/

/-- A register set, and a record of it. -/
theorem Dev.setReg_told (d : Dev) (k : Nat) (v : W32) (b : Block) (code sev a0 a1 : Nat) :
    ((d.setReg k v).emit b code sev a0 a1).reg k = v ∧
    (d.setReg k v).emit b code sev a0 a1 = { d with regs := ((d.setReg k v).emit b code sev a0 a1).regs, jfe := ((d.setReg k v).emit b code sev a0 a1).jfe } ∧
    (d.setReg k v).emit b code sev a0 a1 = { d.setReg k v with jfe := ((d.setReg k v).emit b code sev a0 a1).jfe } ∧
    (d.keystoneUp = true → ∃ e : Event, ((d.setReg k v).emit b code sev a0 a1).jfe.ev = d.jfe.ev ++ [e] ∧ e.code = BitVec.ofNat 16 code ∧
      e.arg0 = BitVec.ofNat 32 a0 ∧ e.arg1 = BitVec.ofNat 32 a1) := by
  obtain ⟨y, named, only, set, up, ev⟩ : ∃ y, d.setReg k v = y ∧ y = { d with regs := y.regs } ∧ y.reg k = v ∧ y.keystoneUp = d.keystoneUp ∧ y.jfe.ev = d.jfe.ev :=
    ⟨d.setReg k v, rfl, Dev.setReg_regsOnly .., Dev.reg_setReg .., rfl, rfl⟩
  rw [named]
  obtain ⟨evs, n, eq⟩ := y.emit_eq b code sev a0 a1
  refine ⟨?_, ?_, ?_, fun on => ?_⟩
  · rw [eq]
    exact set
  · rw [eq]
    dsimp only
    rw [only]
  · rw [eq]
  · obtain ⟨e, told, -, code, -, arg0, arg1⟩ := y.emit_up b code sev a0 a1 (up.trans on)
    rw [told]
    exact ⟨e, congrArg (· ++ [e]) ev, code, arg0, arg1⟩

/-- A header that no slot takes is counted. -/
theorem Dev.csiDiscard_spec (d : Dev) (p : Nat) : (d.csiDiscard p).rn (aphyKey p 0x24) = min (d.rn (aphyKey p 0x24) + 1) 0xFFFFFFFF ∧
    (∀ r, r ≠ aphyKey p 0x24 → (d.csiDiscard p).reg r = d.reg r) ∧ d.csiDiscard p = { d with regs := (d.csiDiscard p).regs, gau := (d.csiDiscard p).gau } := by
  refine ⟨?_, fun r ne => (Dev.blkCount_reg _ .aphy 4 1 r).trans (Dev.reg_bump_ne d _ ne), ((Dev.CountOnly.bump d _ 1).trans (.blkCount _ .aphy 4 1)).eq⟩
  exact (congrArg BitVec.toNat (Dev.blkCount_reg _ .aphy 4 1 _)).trans (d.reg_bump _ 1)

/-! ### A frame that begins (R369, R382) -/

theorem Dev.readRelease_gau (d : Dev) (g : Gauge) (q : Nat) : Dev.readRelease { d with gau := g } q = { d.readRelease q with gau := g } := rfl

/-- What the start of a frame leaves of its queue, where there is room and where there is none. -/
theorem Dev.frameStart_spec {d e : Dev} {q src stamp info : Nat} (enabled : (d.hodQ q).enabled = true) (counted : ∃ g, e = { d with gau := g }) :
    ((d.readRelease q).hodRoom q = true → e.hodOpen q src stamp info = (e.readRelease q).hodOpened q (newPkt src stamp info d.ticks)) ∧
    ((d.readRelease q).hodRoom q = false → ((e.hodOpen q src stamp info).hodQ q).opened = (d.hodQ q).opened ∧ ((e.hodOpen q src stamp info).hodQ q).lostBefore = true ∧
      (e.hodOpen q src stamp info).rn (hodKey q 0x5C) = min (d.rn (hodKey q 0x5C) + 1) 0xFFFFFFFF ∧ (e.hodOpen q src stamp info).mem = d.mem) := by
  obtain ⟨g, rfl⟩ := counted
  have enabled' : (Dev.hodQ { d with gau := g } q).enabled = true := enabled
  have same : (Dev.readRelease { d with gau := g } q).hodRoom q = (d.readRelease q).hodRoom q := by
    rw [Dev.readRelease_gau]
    rfl
  refine ⟨fun room => Dev.hodOpen_room enabled' (same.trans room), fun full => ?_⟩
  rw [Dev.hodOpen_full enabled' (same.trans full)]
  have telling := Dev.hodDrop_eq (Dev.readRelease { d with gau := g } q) q
  obtain ⟨noted, -, count, -⟩ := (Dev.readRelease { d with gau := g } q).lossNoted_spec q 0x5C
  have queue := Dev.readRelease_hodQ { d with gau := g } q
  have reg : (Dev.readRelease { d with gau := g } q).reg (hodKey q 0x5C) = d.reg (hodKey q 0x5C) := Dev.reg_congr rfl rfl _
  have mem : (Dev.lossNoted (Dev.readRelease { d with gau := g } q) q 0x5C).mem = d.mem := rfl
  refine ⟨?_, ?_, ?_, telling.mem.trans mem⟩
  · rw [telling.hodQ, noted, queue]
    rfl
  · rw [telling.hodQ, noted]
  · rw [telling.rn, count, Dev.rn, reg]
    rfl

/-- The packet that is the only one open, and what is left when it is gone. -/
theorem hodPkt_single {d : Dev} {q src : Nat} {k : OpenPkt} (opened : (d.hodQ q).opened = [k]) (source : k.source = src) :
    d.hodPkt q src = some k ∧ (d.hodQ q).opened.filter (fun p => p.source != k.source) = [] := by
  rw [Dev.hodPkt, opened]
  refine ⟨List.find?_cons_of_pos (by rw [source]; exact beq_self_eq_true src), ?_⟩
  rw [List.filter_cons_of_neg (by rw [bne_self_eq_false]; exact Bool.false_ne_true), List.filter_nil]

/-! ### Release polls (R382) -/

theorem Dev.hodTellDrops_telling (d : Dev) (q : Nat) : d.Telling (d.hodTellDrops q) := by
  unfold Dev.hodTellDrops
  split
  · split
    · exact ⟨rfl⟩
    · obtain ⟨_, _, eq⟩ := d.emit_eq .hod 0x0A03 1 q _
      rw [eq]
      exact ⟨rfl⟩
  · exact ⟨rfl⟩

/-! ### Ends of transactions and of packets that wait too long (R371, R381) -/

section
variable {d : Dev} {p t : Nat} {bs data : List Byte} (running : (d.aphyPort p).i2c = some (t, bs))
include running

theorem Dev.i2cDoneFx_answered (asked : data.length = d.i2cReads p) : d.i2cDoneFx p false data = d.i2cEnd p 0 data := by
  unfold Dev.i2cDoneFx
  rw [running, if_neg (by simp [asked]), if_neg Bool.false_ne_true, List.take_of_length_le (Nat.le_of_eq asked)]

theorem Dev.i2cDoneFx_nack : d.i2cDoneFx p true [] = d.i2cEnd p 1 [] := by
  unfold Dev.i2cDoneFx
  rw [running, if_neg (by simp), if_pos rfl, List.take_nil]

theorem Dev.i2cTimeoutFx_late (late : t + ticksMs 10 ≤ d.ticks) : d.i2cTimeoutFx p data = d.i2cEnd p 2 (data.take (d.i2cReads p)) := by
  unfold Dev.i2cTimeoutFx
  rw [running]
  exact if_pos late

end

theorem Dev.hodStallFx_late {d : Dev} {q src : Nat} {k : OpenPkt} (pkt : d.hodPkt q src = some k) (late : k.last + ticksUs (d.rf (hodKey q 0x50) 15 0) ≤ d.ticks) :
    d.hodStallFx q src = d.hodRewind q k 3 := by
  unfold Dev.hodStallFx
  rw [pkt]
  exact if_pos late

theorem Dev.hodPollFx_short {d : Dev} {q : Nat} (enabled : (d.hodQ q).enabled = true) (full : d.hodRoom q = false) :
    (d.readRelease q).Telling (d.hodPollFx q) := by
  unfold Dev.hodPollFx
  rw [enabled, full, if_neg (by decide)]
  exact Dev.hodTellDrops_telling _ q

/-! ### A write of a queue's configuration (R377) -/

section
variable {d e : Dev} {q : Nat} {v : W32} (off : (d.hodQ q).enabled = false) (on : bitOf v.toNat 31 = true) (named : e = d.setReg (hodKey q 0x20) (v &&& 0x41F0001F))
include off on named

theorem Dev.hodCfgWrite_starts (good : e.hodFault q = 0) : d.hodCfgWrite q v = e.hodStartUp q := by
  subst named
  unfold Dev.hodCfgWrite
  dsimp only
  rw [off, if_neg Bool.false_ne_true, on, if_neg (by decide : ¬ (!true) = true), if_neg (fun bad => bad good)]

theorem Dev.hodCfgWrite_refused (bad : e.hodFault q ≠ 0) : d.hodCfgWrite q v = e.emit .hod 0x0A05 1 q (e.hodFault q) := by
  subst named
  unfold Dev.hodCfgWrite
  dsimp only
  rw [off, if_neg Bool.false_ne_true, on, if_neg (by decide : ¬ (!true) = true), if_pos bad]

end

/-- Settles O47: each command is one of the operations above, on the device without the last command's outputs. -/
theorem cameraAndQueueResults : Obligations.CameraAndQueueResults := by
  unfold Obligations.CameraAndQueueResults
  intro s d
  refine ⟨fun w v p l k serves port slot key => ⟨fun off on few single => ?enabled, fun off on bar => ?refused, fun on off => ?disabled⟩,
    fun w v p f k serves port known filter key off on few => ?filter, fun p vc num link => ⟨fun slot => ?unknown, fun l q slot queue enabled idle => ⟨fun room => ?opened, fun full => ?dropped⟩⟩,
    fun p vc dt data l q k shape link slot type queue pkt shaped room dense fits => ?line,
    fun p vc l q k y off link slot queue state opened source start lines => ⟨fun good some_ fits room quiet => ?committed, fun bad drops => ?rewound⟩,
    fun p data link => ?down, fun p gear port link enabled low high most => ?up, fun w v p serves port idle writes reads go => ⟨fun link => ?started, fun link => ?unlinked⟩,
    fun p t bs running => ⟨fun data asked fits => ?received, ?nack, fun data late => ?timeout⟩,
    fun w v q serves queue => ⟨fun off on e named => ⟨fun good clear => ?queueOn, fun fault => ?queueRefused⟩, fun on off => ?queueOff⟩,
    fun q src k pkt late => ?stall, fun q enabled full => ?poll⟩
  case enabled =>
    subst key
    exact State.streamEnable_answers (.inl rfl) ((Dev.writeReg_vcCfg (d := s.dev.fresh) serves port slot).trans (Dev.slotWrite_enabled (d := s.dev.fresh) off on few single))
      (Dev.enabled_spec on (by decide))
  case refused =>
    subst key
    obtain ⟨b, a1, eq⟩ := Dev.slotWrite_refused (d := s.dev.fresh) off on bar
    obtain ⟨reg, same, -, told⟩ := s.dev.fresh.setReg_told (slotKey p l 0x34) (v &&& 0x401F0F3F) b (if 24 ≤ s.dev.fresh.streamsOn then 0x0A01 else 0x0A05) 1 (slotSource p l) a1
    refine State.streamEnable_answers (.inl rfl) ((Dev.writeReg_vcCfg (d := s.dev.fresh) serves port slot).trans eq) ⟨reg, same, fun up => ?_⟩
    obtain ⟨e, ev, code, -⟩ := told up
    refine ⟨e, ev, code.trans ?_⟩
    change BitVec.ofNat 16 (if 24 ≤ s.dev.streamsOn then _ else _) = _
    split <;> rfl
  case disabled =>
    subst key
    exact State.streamEnable_answers (.inl rfl) (Dev.writeReg_vcCfg (d := s.dev.fresh) serves port slot) (Dev.slotWrite_disables (d := s.dev.fresh) on off)
  case filter =>
    subst key
    exact State.streamEnable_answers (.inr rfl) ((Dev.writeReg_filtAction (d := s.dev.fresh) serves port known filter).trans (Dev.filtWrite_enabled (d := s.dev.fresh) off on few))
      (Dev.enabled_spec on (by decide))
  case unknown =>
    refine ans_run (g := fun d => d.frameStartFx p vc num .good) ?_
    rw [Dev.frameStartFx_unknown (d := s.dev.fresh) link slot]
    exact s.dev.fresh.csiDiscard_spec p
  case opened =>
    subst queue
    refine ans_run (g := fun d => d.frameStartFx p vc num .good) ?_
    obtain ⟨g, counted⟩ : ∃ g, s.dev.fresh.blkCount .aphy 1 1 = { s.dev.fresh with gau := g } := ⟨_, Dev.blkCount_gau ..⟩
    rw [Dev.frameStartFx_opens (d := s.dev.fresh) link slot idle, counted, (Dev.frameStart_spec (d := s.dev.fresh) (q := slotQueue (s.dev.fresh.slotCfg p l)) enabled ⟨g, rfl⟩).1 room]
    obtain ⟨opened, others, same⟩ := Dev.hodOpened_spec { s.dev.fresh with gau := g } (slotQueue (s.dev.fresh.slotCfg p l)) (newPkt (slotSource p l)
      (stampLess s.dev.fresh.nowFx 1184 (s.dev.fresh.rn (slotKey p l 0x3C))) (num % 65536 + 65536 * (s.dev.fresh.slotCfg p l % 64) + 2 ^ 22 * vc) s.dev.fresh.ticks)
    exact ⟨_, opened, rfl, rfl, rfl, rfl, rfl, rfl, rfl, same, others⟩
  case dropped =>
    subst queue
    refine ans_run (g := fun d => d.frameStartFx p vc num .good) ?_
    rw [Dev.frameStartFx_opens (d := s.dev.fresh) link slot idle]
    exact (Dev.frameStart_spec (d := s.dev.fresh) enabled ⟨_, Dev.blkCount_gau ..⟩).2 full
  case line =>
    subst queue shape
    have source : k.source = slotSource p l := hodPkt_source pkt
    obtain ⟨g, eq⟩ := Dev.longPacketFx_line (d := s.dev.fresh) (data := data) link slot type dense pkt room fits
    refine ans_run (g := fun d => d.longPacketFx p vc dt .good data true false) ?_
    rw [eq]
    exact ⟨Dev.hodPut_hodPkt (d := { s.dev.fresh with gau := g }) (k := k) pkt source, rfl⟩
  case committed =>
    subst state start
    obtain ⟨pkt, gone⟩ := hodPkt_single (d := s.dev.fresh) opened source
    refine ans_set (g := fun d => d.frameEndFx p vc .good) ?_
    rw [Dev.frameEndFx_whole (d := s.dev.fresh) link slot queue pkt lines, Dev.hodFinish_commits good]
    have committed := Dev.hodCommit_committed (d := s.dev.fresh) good some_ fits room quiet
    refine ⟨?_, committed.mem, committed.others⟩
    rw [committed.queue, gone]
    rfl
  case rewound =>
    subst state start
    obtain ⟨pkt, gone⟩ := hodPkt_single (d := s.dev.fresh) opened source
    refine ans_set (g := fun d => d.frameEndFx p vc .good) ?_
    rw [Dev.frameEndFx_whole (d := s.dev.fresh) link slot queue pkt lines, Dev.hodFinish_rewinds (d := s.dev.fresh) bad drops]
    have rewound := s.dev.fresh.hodRewind_rewound q k 1
    rw [rewound.queue]
    exact ⟨gone, rfl, rfl, rfl, rewound.count⟩
  case down =>
    have lost := Dev.aphyDownFx_lost (d := s.dev.fresh) link data
    exact ans_run (g := fun d => d.aphyDownFx p data) ⟨lost.link, lost.gear, lost.i2c, lost.lost, lost.aborted⟩
  case up =>
    refine ans_run (g := fun d => d.aphyUpFx p gear) ?_
    have known : ¬ (16 ≤ p ∨ (s.dev.aphyPort p).link = true ∨ (!s.dev.rbit (aphyKey p 0x14) 31) = true ∨ gear = 0 ∨ 5 < gear ∨ s.dev.rf (aphyKey p 0x14) 2 0 < gear) := by
      rw [link, enabled, Bool.not_true]
      simp only [Bool.false_eq_true, false_or]
      omega
    exact if_neg known
  case started =>
    refine State.write_answers ((Dev.writeReg_i2cCmd (d := s.dev.fresh) serves port).trans (Dev.i2cFx_starts (d := s.dev.fresh) idle writes reads go link)) ?_
    exact s.dev.fresh.i2cStarted_spec p v _
  case unlinked =>
    refine State.write_answers ((Dev.writeReg_i2cCmd (d := s.dev.fresh) serves port).trans (Dev.i2cFx_unlinked (d := s.dev.fresh) idle writes reads go link)) ?_
    exact ⟨congrArg BitVec.toNat (Dev.reg_setNat _ _ 3), Dev.setReg_setReg_regsOnly ..⟩
  case received =>
    have ended := s.dev.fresh.i2cEnd_ended p 0 data
    obtain ⟨bytes, rest⟩ := ended.received fits
    refine ans_run (g := fun d => d.i2cDoneFx p false data) ?_
    rw [Dev.i2cDoneFx_answered (d := s.dev.fresh) running asked]
    exact ⟨congrArg BitVec.toNat ended.status, congrArg Aphy.i2c ended.idle, bytes, rest, ended.same⟩
  case nack =>
    refine ans_run (g := fun d => d.i2cDoneFx p true []) ?_
    rw [Dev.i2cDoneFx_nack (d := s.dev.fresh) running]
    have ended := s.dev.fresh.i2cEnd_ended p 1 []
    exact ⟨congrArg BitVec.toNat ended.status, congrArg Aphy.i2c ended.idle, ended.same⟩
  case timeout =>
    refine ans_run (g := fun d => d.i2cTimeoutFx p data) ?_
    rw [Dev.i2cTimeoutFx_late (d := s.dev.fresh) running late]
    have ended := s.dev.fresh.i2cEnd_ended p 2 (data.take (s.dev.fresh.i2cReads p))
    exact ⟨congrArg BitVec.toNat ended.status, congrArg Aphy.i2c ended.idle, ended.same⟩
  case queueOn =>
    have named' : e = s.dev.fresh.setReg (hodKey q 0x20) (v &&& 0x41F0001F) := named
    obtain ⟨state, others, regs⟩ := Dev.hodStartUp_spec clear
    refine State.write_answers ((Dev.writeReg_hodCfg (d := s.dev.fresh) serves queue).trans (Dev.hodCfgWrite_starts (d := s.dev.fresh) off on named' good)) ⟨state, fun j ne => ?_, regs⟩
    rw [others j ne, named']
    rfl
  case queueRefused =>
    have named' : e = s.dev.fresh.setReg (hodKey q 0x20) (v &&& 0x41F0001F) := named
    refine State.write_answers ((Dev.writeReg_hodCfg (d := s.dev.fresh) serves queue).trans (Dev.hodCfgWrite_refused (d := s.dev.fresh) off on named' fault)) ?_
    obtain ⟨-, -, same, told⟩ := s.dev.fresh.setReg_told (hodKey q 0x20) (v &&& 0x41F0001F) .hod 0x0A05 1 q (e.hodFault q)
    rw [← named'] at same told
    exact ⟨same, told⟩
  case queueOff =>
    refine State.write_answers ((Dev.writeReg_hodCfg (d := s.dev.fresh) serves queue).trans ?_) rfl
    have on' : (s.dev.fresh.hodQ q).enabled = true := on
    unfold Dev.hodCfgWrite
    rw [on', off, if_pos rfl, if_neg Bool.false_ne_true]
    rfl
  case stall =>
    refine ans_run (g := fun d => d.hodStallFx q src) ?_
    rw [Dev.hodStallFx_late (d := s.dev.fresh) pkt late]
    have rewound := s.dev.fresh.hodRewind_rewound q k 3
    rw [hodPkt_source pkt] at rewound
    refine ⟨rewound.lost, ?_, ?_, ?_, rewound.count⟩ <;> rw [rewound.queue] <;> rfl
  case poll =>
    refine ans_run (g := fun d => d.hodPollFx q) fun r named => ?_
    have telling := Dev.hodPollFx_short (d := s.dev.fresh) enabled full
    rw [telling.hodQ, telling.mem, Dev.readRelease_hodQ, named]
    exact ⟨rfl, rfl⟩

end Sys2Proof.Machine
end

section
/-! SUPPORT. Plumb time (R385–R394): steps of the time and changes of the sync state, and what they leave. -/
namespace Sys2Proof.Machine

/-! ### Steps of the time (R386, R145) -/

theorem Dev.setTrig_eq (d : Dev) (i : Nat) (x : Trig) : ∃ t, d.setTrig i x = { d with plb := { d.plb with trigs := t } } := ⟨_, rfl⟩

/-- A step changes the triggers and tells of what it skips. -/
structure Dev.TrigsOnly (d e : Dev) : Prop where
  eq : e = { d with plb := { d.plb with trigs := e.plb.trigs }, jfe := e.jfe }

namespace Dev.TrigsOnly

theorem refl (d : Dev) : d.TrigsOnly d := ⟨rfl⟩

theorem trans {d e f : Dev} (h : d.TrigsOnly e) (k : e.TrigsOnly f) : d.TrigsOnly f := by
  obtain ⟨h⟩ := h
  obtain ⟨k⟩ := k
  constructor
  rw [k, h]

theorem setTrig (d : Dev) (i : Nat) (x : Trig) : d.TrigsOnly (d.setTrig i x) := ⟨rfl⟩

theorem emit (d : Dev) (b : Block) (code sev a0 a1 : Nat) : d.TrigsOnly (d.emit b code sev a0 a1) := by
  obtain ⟨_, _, eq⟩ := d.emit_eq b code sev a0 a1
  rw [eq]
  exact ⟨rfl⟩

theorem trigStep (d : Dev) (i : Nat) : d.TrigsOnly (d.trigStep i) := by
  unfold Dev.trigStep
  dsimp only
  split
  · exact .refl d
  · split
    · exact .refl d
    · split
      · split
        · exact (TrigsOnly.setTrig d i _).trans (.emit _ _ _ _ _ _)
        · exact .setTrig d i _
      · split
        · exact .setTrig d i _
        · exact .refl d

theorem foldl {β : Type} {f : Dev → β → Dev} (h : ∀ (d : Dev) b, d.TrigsOnly (f d b)) : ∀ (l : List β) (d : Dev), d.TrigsOnly (l.foldl f d)
  | [], d => refl d
  | b :: l, d => (h d b).trans (foldl h l (f d b))

end Dev.TrigsOnly

theorem Dev.stepTime_trigs (d : Dev) (ns : Nat) (frac : BitVec 32) :
    Dev.TrigsOnly { d with plb := { d.plb with ns := BitVec.ofNat 64 ns, frac := frac } } (d.stepTime ns frac) := by
  have stepped (e : Dev) : e.TrigsOnly ((List.range 16).foldl Dev.trigStep e) := Dev.TrigsOnly.foldl Dev.TrigsOnly.trigStep _ e
  have told := Dev.TrigsOnly.emit { d with plb := { d.plb with ns := BitVec.ofNat 64 ns, frac := frac } } .plb 0x0A0A 1
    ((ns + 2 ^ 64 - d.now) % 2 ^ 64 % 2 ^ 32) ((ns + 2 ^ 64 - d.now) % 2 ^ 64 / 2 ^ 32)
  unfold Dev.stepTime
  dsimp only
  split
  · exact (told.trans (.emit _ _ _ _ _ _)).trans (stepped _)
  · exact told.trans (stepped _)

/-! ### Changes of the sync state (R388) -/

theorem Dev.setSync_eq (d : Dev) (s : SyncSt) :
    ∃ t g j q, d.setSync s = { d with plb := { d.plb with sync := s, syncSince := t, good := g }, jfe := j, qn := q } := by
  unfold Dev.setSync
  split
  · next same =>
    subst same
    exact ⟨d.plb.syncSince, d.plb.good, d.jfe, d.qn, rfl⟩
  · obtain ⟨evs, n, told⟩ := Dev.emit_eq { d with plb := { d.plb with sync := s, syncSince := d.ticks, good := 0 } } .plb 0x0A09 1 s.code (satNs d.plb.offset)
    rw [told, (Dev.statusBoth_told _).eq]
    exact ⟨_, _, _, _, rfl⟩

/-- The state that a valid sync of offset `o` leads to (R388). -/
def SyncSt.next (p : Plumb) (thr : Nat) (o : Int) : SyncSt :=
  match p.sync with
  | .freeRun => .acquiring
  | .holdover => .acquiring
  | .acquiring => if o.natAbs ≤ thr ∧ 15 ≤ p.good then .locked else .acquiring
  | .locked => if 10 * thr < o.natAbs then .acquiring else .locked

theorem Dev.syncNext_spec (d : Dev) (o : Int) : (d.syncNext o).plb.sync = SyncSt.next d.plb (d.rf PLB_LOCK_THRESHOLD 13 0) o ∧ (d.syncNext o).plb.offset = d.plb.offset := by
  have set (e : Dev) (s : SyncSt) : (e.setSync s).plb.sync = s ∧ (e.setSync s).plb.offset = e.plb.offset := by
    obtain ⟨t, g, j, q, eq⟩ := e.setSync_eq s
    rw [eq]
    exact ⟨rfl, rfl⟩
  unfold Dev.syncNext SyncSt.next
  dsimp only
  cases state : d.plb.sync with
  | freeRun => exact set d .acquiring
  | holdover => exact set d .acquiring
  | acquiring =>
    dsimp only
    by_cases near : o.natAbs ≤ d.rf PLB_LOCK_THRESHOLD 13 0
    · rw [if_pos near]
      by_cases enough : 16 ≤ d.plb.good + 1
      · rw [if_pos enough, if_pos ⟨near, by omega⟩]
        exact set _ .locked
      · rw [if_neg enough, if_neg (by omega)]
        exact ⟨rfl, rfl⟩
    · rw [if_neg near, if_neg (by decide), if_neg (fun h => near h.1)]
      exact ⟨rfl, rfl⟩
  | locked =>
    dsimp only
    split
    · exact set d .acquiring
    · exact ⟨state, rfl⟩

theorem Dev.correct_spec (d : Dev) (o : Int) : (d.correct o).plb.sync = d.plb.sync ∧ (d.correct o).plb.offset = d.plb.offset := by
  unfold Dev.correct
  split
  · rw [(d.stepTime_trigs _ _).eq]
    exact ⟨rfl, rfl⟩
  · exact ⟨rfl, rfl⟩

theorem Dev.syncFx_spec (d : Dev) (o : Int) : (d.syncFx o).plb.offset = o ∧ (d.syncFx o).plb.sync = SyncSt.next d.plb (d.rf PLB_LOCK_THRESHOLD 13 0) o := by
  obtain ⟨sync, offset⟩ := Dev.syncNext_spec { d with plb := { d.plb with offset := o, history := (d.plb.incr :: d.plb.history).take 64 } } o
  obtain ⟨sync', offset'⟩ := (Dev.syncNext { d with plb := { d.plb with offset := o, history := (d.plb.incr :: d.plb.history).take 64 } } o).correct_spec o
  exact ⟨offset'.trans offset, sync'.trans sync⟩

theorem Dev.holdover_eq {d : Dev} (locked : d.plb.sync = .locked) : ∃ t g j q, d.holdover =
    { d with plb := { d.plb with incr := d.plb.history.foldl (· + ·) 0 / max 1 d.plb.history.length, slew := none, sync := .holdover, syncSince := t, good := g },
             jfe := j, qn := q } := by
  unfold Dev.holdover
  rw [if_neg (fun h => h locked)]
  exact Dev.setSync_eq _ .holdover

theorem Dev.holdover_else {d : Dev} (other : d.plb.sync ≠ .locked) : d.holdover = d := if_pos other

/-! ### A write of the block (R385–R388) -/

theorem findReg_trigCtl {i : Nat} (known : i < 16) : findReg plbRegs (0x110 + 0x20 * i) = some ⟨0x110, 0x20, 16, .rw, 0x0, 0xF000FFFF⟩ := by
  have all : ∀ j : Fin 16, findReg plbRegs (0x110 + 0x20 * j.val) = some ⟨0x110, 0x20, 16, .rw, 0x0, 0xF000FFFF⟩ := by decide
  exact all ⟨i, known⟩

section
variable {d : Dev} {w : Writer} {v : W32} (serves : d.serves .plb = true)
include serves

theorem Dev.writeReg_incrFrac : d.writeReg w PLB_INCR_FRAC v = d.incrWrite v := by
  refine (Dev.writeReg_through (w := w) (v := v) (b := .plb) (o := 0x20) (r := ⟨0x20, 0x4, 1, .rw, 0x80000000, 0xFFFFFFFF⟩) serves rfl (by decide) (by decide)
    (by decide) (.inl rfl)).trans ?_
  change d.plbWrite 0x20 ⟨0x20, 0x4, 1, .rw, 0x80000000, 0xFFFFFFFF⟩ v = _
  unfold Dev.plbWrite
  generalize d.incrWrite v = x
  simp

theorem Dev.writeReg_plbCmd : d.writeReg w PLB_CMD v = d.plbCmd v.toNat :=
  Dev.writeReg_through (b := .plb) (o := 0x2C) (r := ⟨0x2C, 0x4, 1, .wo, 0x0, 0x3⟩) serves rfl (by decide) (by decide) (by decide) (.inr rfl)

theorem Dev.writeReg_plbCfg (unlocked : d.rbit (Block.plb.base + 0xC) 0 = false) : d.writeReg w PLB_CFG v = d.plbCfgWrite v :=
  (Dev.writeReg_reg (b := .plb) (o := 0x30) (r := ⟨0x30, 0x4, 1, .rwl, 0x0, 0x1F⟩) rfl serves (fun host => nomatch host.1) (by decide) (by decide)).trans
    (Dev.regAccess_through (.inr (.inr (.inl ⟨rfl, unlocked⟩))))

theorem Dev.writeReg_trigCtl {i : Nat} (known : i < 16) : d.writeReg w (PLB_TRIG_CTL i) v = d.trigCtlWrite i v := by
  have block : blockAt d.hw (Block.plb.base + (0x110 + 0x20 * i)) = some .plb := by
    have h : (0x30000 + (0x110 + 0x20 * i)) / 0x10000 = 3 := by omega
    simp [blockAt, Block.base, h]
  have through := Dev.writeReg_through (w := w) (v := v) serves block (by decide) (by omega) (findReg_trigCtl known) (.inl rfl)
  have address : PLB_TRIG_CTL i = Block.plb.base + (0x110 + 0x20 * i) := by
    change 0x30110 + 0x20 * i = 0x30000 + (0x110 + 0x20 * i)
    omega
  rw [address, through]
  change d.plbWrite (0x110 + 0x20 * i) _ v = _
  unfold Dev.plbWrite
  dsimp only
  have number : (0x110 + 0x20 * i - 0x100) / 0x20 = i := by omega
  have place : (0x110 + 0x20 * i) % 0x20 = 0x10 := by omega
  rw [if_pos (by omega), number, if_pos place]

end

/-! ### A packet that arrives at once (R374, R379) -/

/-- Memory, and the supply of free values, may differ. -/
structure Dev.HodAside (d e : Dev) : Prop where
  hod : e.hod = d.hod
  regs : e.regs = d.regs
  hw : e.hw = d.hw

theorem Dev.HodAside.wr {d e : Dev} (h : d.HodAside e) (v : View) (a : Nat) (bs : List Byte) : d.HodAside (e.wr v a bs) := by
  rw [(e.wr_memOnly v a bs).eq]
  exact ⟨h.hod, h.regs, h.hw⟩

theorem Dev.hodWrite_spec (d : Dev) (q : Nat) (k : OpenPkt) :
    ∃ m, d.HodAside m ∧ (m.setHodQ q ((d.hodQ q).after (d.hodStart q).1 k)).Telling (d.hodWrite q k) := by
  have tail (e : Dev) (n : Nat) (h : d.HodAside e) : d.HodAside (e.tailOf n).2 := by
    unfold Dev.tailOf
    split
    · exact ⟨h.hod, h.regs, h.hw⟩
    · exact h
  have start : d.HodAside d := ⟨rfl, rfl, rfl⟩
  unfold Dev.hodWrite
  obtain ⟨off, wrap⟩ := d.hodStart q
  dsimp only
  generalize (k.bytes ++ List.replicate (up64 k.bytes.length - k.bytes.length) 0) = lines
  have drawn := tail _ k.bytes.length (start.wr View.plain ((d.hodData q).1 + off) lines)
  generalize (Dev.wr d View.plain ((d.hodData q).1 + off) lines).tailOf k.bytes.length = t at drawn ⊢
  obtain ⟨t, e⟩ := t
  dsimp only at drawn ⊢
  have written := drawn.wr View.plain ((d.hodRing q).1 + 32 * ((d.hodQ q).seq % d.hodSlots q))
    (hodDescriptor (d.hodQ q).seq k.source ((if wrap then 1 else 0) + (if k.damaged then 2 else 0) + (if (d.hodQ q).lostBefore then 4 else 0)) t off k.bytes.length k.stamp k.info)
  generalize Dev.wr e View.plain _ _ = y at written ⊢
  split
  · exact ⟨_, written.wr _ _ _, (Dev.Telling.blkCount _ .hod 1 1).trans (.blkCount _ .hod 2 _)⟩
  · exact ⟨_, written, (Dev.Telling.blkCount _ .hod 1 1).trans (.blkCount _ .hod 2 _)⟩

/-- The queue after a packet that came whole. -/
theorem Dev.hodCommit_queue {d : Dev} {q : Nat} {k : OpenPkt} (fits : k.bytes.length ≤ d.hodMax q) (room : d.hodRoom q = true) :
    (d.hodCommit q k).hodQ q = { (d.hodQ q).after (d.hodStart q).1 k with opened := (d.hodQ q).opened.filter (fun p => p.source != k.source) } ∧
    ∀ a, (d.hodCommit q k).reg a = d.reg a := by
  obtain ⟨room', start, queue⟩ := d.hodTake_alike q k.source
  have writes : d.hodCommit q k = (d.hodTake q k.source).hodWrite q k := by
    have fits' : ¬ (d.hodTake q k.source).hodMax q < k.bytes.length := Nat.not_lt.2 fits
    unfold Dev.hodCommit
    dsimp only
    rw [if_neg fits', room', if_pos room]
  obtain ⟨m, aside, telling⟩ := (d.hodTake q k.source).hodWrite_spec q k
  rw [writes]
  refine ⟨?_, fun a => ?_⟩
  · rw [telling.hodQ, Dev.hodQ_setHodQ, queue, start]
    rfl
  · rw [telling.reg]
    have same : (m.setHodQ q (((d.hodTake q k.source).hodQ q).after ((d.hodTake q k.source).hodStart q).1 k)).reg a = m.reg a := Dev.reg_congr rfl rfl a
    exact same.trans (Dev.reg_congr aside.regs aside.hw a)

/-- A packet's source has no other packet open. -/
theorem filter_of_absent {l : List OpenPkt} {src : Nat} (absent : l.find? (fun p => p.source == src) = none) (k : OpenPkt) (source : k.source = src) :
    (l ++ [k]).filter (fun p => p.source != src) = l := by
  have keep : l.filter (fun p => p.source != src) = l := List.filter_eq_self.2 fun p mem => by
    have other := List.find?_eq_none.1 absent p mem
    rw [bne, Bool.eq_false_iff.2 other]
    rfl
  rw [List.filter_append, keep, List.filter_cons_of_neg (by rw [source, bne_self_eq_false]; exact Bool.false_ne_true), List.filter_nil, List.append_nil]

theorem find_appended {l : List OpenPkt} {src : Nat} (absent : l.find? (fun p => p.source == src) = none) (k : OpenPkt) (source : k.source = src) :
    (l ++ [k]).find? (fun p => p.source == src) = some k := by
  rw [List.find?_append, absent, Option.none_or, List.find?_cons_of_pos (by rw [source]; exact beq_self_eq_true src)]

/-- The queue after a packet of `n` bytes that came whole. -/
def HodQ.tookWhole (x : HodQ) (off n released : Nat) (held : List (Nat × Nat × Nat)) : HodQ :=
  { x with seq := add32 x.seq 1, w := off + up64 n, held := held ++ [(x.seq, off, up64 n)], released := released, lostBefore := false }

theorem Dev.hodWhole_spec {d : Dev} {q src stamp info : Nat} {bytes : List Byte} (enabled : (d.hodQ q).enabled = true) (absent : d.hodPkt q src = none)
    (room : (d.readRelease q).hodRoom q = true) (fits : bytes.length ≤ d.hodMax q) :
    (∃ released held, (d.hodWhole q src stamp info bytes false false).hodQ q = (d.hodQ q).tookWhole (d.hodStart q).1 bytes.length released held) ∧
    ∀ a, (d.hodWhole q src stamp info bytes false false).reg a = d.reg a := by
  obtain ⟨k, named⟩ : ∃ k, newPkt src stamp info d.ticks = k := ⟨_, rfl⟩
  have source : k.source = src := by rw [← named]; rfl
  obtain ⟨opened, others, same⟩ := d.hodOpened_spec q k
  have queue : ((d.readRelease q).hodOpened q k).hodQ q = { (d.readRelease q).hodQ q with opened := ((d.readRelease q).hodQ q).opened ++ [k] } := Dev.hodQ_setHodQ _ q _
  rw [Dev.readRelease_hodQ] at queue
  have found : ((d.readRelease q).hodOpened q k).hodPkt q src = some k := by
    rw [Dev.hodPkt_eq queue]
    exact find_appended absent k source
  have room' : ((d.readRelease q).hodOpened q k).hodRoom q = true := by
    have alike : ((d.readRelease q).hodOpened q k).hodRoom q = (d.readRelease q).hodRoom q := by
      unfold Dev.hodRoom Dev.hodStart
      rw [queue, Dev.readRelease_hodQ]
      rfl
    exact alike.trans room
  have start : ((d.readRelease q).hodOpened q k).hodStart q = d.hodStart q := by
    unfold Dev.hodStart
    rw [queue]
    rfl
  have whole : d.hodWhole q src stamp info bytes false false = ((d.readRelease q).hodOpened q k).hodCommit q { k with bytes := bytes, damaged := false } := by
    unfold Dev.hodWhole
    dsimp only
    rw [Dev.hodOpen_room enabled room, named, found]
    dsimp only
    rw [if_neg Bool.false_ne_true, Dev.hodFinish_commits rfl]
  have max : ((d.readRelease q).hodOpened q k).hodMax q = d.hodMax q := rfl
  have reg (a : Nat) : ((d.readRelease q).hodOpened q k).reg a = d.reg a := Dev.reg_congr rfl rfl a
  rw [whole]
  generalize (d.readRelease q).hodOpened q k = e at *
  obtain ⟨state, regs⟩ := Dev.hodCommit_queue (d := e) (k := { k with bytes := bytes, damaged := false }) (fits.trans_eq max.symm) room'
  refine ⟨⟨leNat (d.rd View.plain (d.hodRelease q) 4), (d.hodQ q).held.filter (fun h => decide (2 ^ 31 ≤ sub32 (leNat (d.rd View.plain (d.hodRelease q) 4)) h.1)),
    state.trans ?_⟩, fun a => (regs a).trans (reg a)⟩
  rw [queue, start, source, filter_of_absent absent k source]
  rfl

/-! ### Frames that are received (R374) -/

/-- A good frame is counted. -/
def Dev.ethTaken (d : Dev) (p n : Nat) : Dev := ((d.blkCount .eth 1 1).blkCount .eth 2 n).bump (ethKey p 0x2C) 1

section
variable {d : Dev} {p : Nat} {bs : List Byte} (port : p < 6) (link : (d.ethPort p).link = true) (long : 64 ≤ bs.length + 4) (short : bs.length + 4 ≤ 9216)
  (type : etherType bs ≠ 0x8808)
include port link long short type

theorem Dev.ethReceive_good (full : Bool) (ptp : Dev → Dev) : d.ethReceive p bs true full ptp = if d.isPtp p bs then ptp (d.ethTaken p bs.length)
    else match d.filtFor p bs with
      | some f => (d.ethTaken p bs.length).ethToQueue p f bs full false
      | none => ((d.ethTaken p bs.length).bump (ethKey p 0x30) 1).blkCount .eth 4 1 := by
  unfold Dev.ethReceive
  dsimp only
  rw [if_neg (by rw [link]; simp; omega), if_neg (by omega), if_neg (by decide : ¬ (!true) = true), if_neg (fun h => type h.1)]
  rfl

end

theorem Dev.ethTaken_countOnly (d : Dev) (p n : Nat) : d.CountOnly (d.ethTaken p n) :=
  ((Dev.CountOnly.blkCount d .eth 1 1).trans (.blkCount _ .eth 2 n)).trans (.bump _ _ _)

theorem Dev.ethTaken_reg (d : Dev) (p n : Nat) : (d.ethTaken p n).rn (ethKey p 0x2C) = min (d.rn (ethKey p 0x2C) + 1) 0xFFFFFFFF ∧
    ∀ a, a ≠ ethKey p 0x2C → (d.ethTaken p n).reg a = d.reg a := by
  have before (a : Nat) : ((d.blkCount .eth 1 1).blkCount .eth 2 n).reg a = d.reg a := (Dev.blkCount_reg _ _ _ _ a).trans (Dev.blkCount_reg _ _ _ _ a)
  refine ⟨?_, fun a ne => (Dev.reg_bump_ne _ _ ne).trans (before a)⟩
  rw [Dev.ethTaken, Dev.reg_bump, Dev.rn, before]
  rfl

theorem ethKey_ne (p : Nat) {o i : Nat} (ne : o ≠ i) : ethKey p o ≠ ethKey p i := by
  unfold ethKey
  omega

/-- A frame that no filter takes is counted besides. -/
theorem Dev.ethDropped_spec (d : Dev) (p n : Nat) : ∀ x, x = ((d.ethTaken p n).bump (ethKey p 0x30) 1).blkCount .eth 4 1 →
    x.rn (ethKey p 0x2C) = min (d.rn (ethKey p 0x2C) + 1) 0xFFFFFFFF ∧ x.rn (ethKey p 0x30) = min (d.rn (ethKey p 0x30) + 1) 0xFFFFFFFF ∧
    x = { d with regs := x.regs, gau := x.gau } := by
  obtain ⟨count, rest⟩ := d.ethTaken_reg p n
  have only := ((d.ethTaken_countOnly p n).trans (.bump _ (ethKey p 0x30) 1)).trans (.blkCount _ .eth 4 1)
  intro x named
  subst named
  refine ⟨?_, ?_, only.eq⟩
  · rw [Dev.rn, Dev.blkCount_reg, Dev.reg_bump_ne _ _ (ethKey_ne p (by decide)), ← Dev.rn, count]
  · rw [Dev.rn, Dev.blkCount_reg, ← Dev.rn, Dev.reg_bump, Dev.rn, rest _ (ethKey_ne p (by decide))]
    rfl

/-! ### A filter's queue (R374, R379) -/

theorem Dev.gau_readsAlike (d : Dev) (g : Gauge) : d.ReadsAlike { d with gau := g } := by
  have linear (m : Nat) : Dev.linear { d with gau := g } m = d.linear m := Dev.rbit_congr (Dev.reg_congr rfl rfl _) 0
  exact ⟨⟨rfl, rfl, rfl, rfl, rfl, mask_of_linear rfl linear⟩, rfl, rfl, rfl, rfl, rfl, rfl, rfl, linear⟩

theorem ethKey_ne_cfg (m p : Nat) {o : Nat} (low : o < 0x1000) (other : o ≠ 0x10) : MRT_DRAM_CFG m ≠ ethKey p o := by
  unfold MRT_DRAM_CFG ethKey dieSlot
  omega

theorem Dev.ethTaken_readsAlike (d : Dev) (p n : Nat) : d.ReadsAlike (d.ethTaken p n) := by
  obtain ⟨g, counted⟩ : ∃ g, (d.blkCount .eth 1 1).blkCount .eth 2 n = { d with gau := g } := by
    rw [Dev.blkCount_gau (d.blkCount .eth 1 1), Dev.blkCount_gau d]
    exact ⟨_, rfl⟩
  rw [Dev.ethTaken, counted]
  exact (d.gau_readsAlike g).trans (Dev.setReg_readsAlike _ _ fun m => ethKey_ne_cfg m p (by decide) (by decide))

/-- Queues that look alike have the same room, and start their packets at the same place. -/
theorem Dev.hodRoom_alike {d e : Dev} {q : Nat} (reads : d.ReadsAlike e) (hod : e.hod = d.hod) (reg : ∀ o, o < 0x1000 → e.reg (hodKey q o) = d.reg (hodKey q o)) :
    (e.readRelease q).hodRoom q = (d.readRelease q).hodRoom q ∧ e.hodMax q = d.hodMax q ∧ e.hodStart q = d.hodStart q := by
  have rn (o : Nat) (low : o < 0x1000) : e.rn (hodKey q o) = d.rn (hodKey q o) := congrArg BitVec.toNat (reg o low)
  have max : e.hodMax q = d.hodMax q := by simp (disch := decide) only [Dev.hodMax, Dev.rf, rn]
  have data : e.hodData q = d.hodData q := by simp (disch := decide) only [Dev.hodData, Dev.rpair, rn]
  have slots : e.hodSlots q = d.hodSlots q := by simp (disch := decide) only [Dev.hodSlots, Dev.rf, rn]
  have word : e.hodRelease q = d.hodRelease q := by simp (disch := decide) only [Dev.hodRelease, Dev.rpair, rn]
  have queue : (e.readRelease q).hodQ q = (d.readRelease q).hodQ q := by
    rw [Dev.readRelease_hodQ, Dev.readRelease_hodQ, Dev.hodQ_congr hod, word, reads.rd]
  have start (f g : Dev) (h : f.hodQ q = g.hodQ q) (m : f.hodMax q = g.hodMax q) (t : f.hodData q = g.hodData q) : f.hodStart q = g.hodStart q := by
    unfold Dev.hodStart
    rw [h, m, t]
  have start' := start (e.readRelease q) (d.readRelease q) queue max data
  refine ⟨?_, max, start e d (Dev.hodQ_congr hod q) max data⟩
  have slots' : (e.readRelease q).hodSlots q = (d.readRelease q).hodSlots q := slots
  have max' : (e.readRelease q).hodMax q = (d.readRelease q).hodMax q := max
  unfold Dev.hodRoom
  rw [queue, start', slots', max']

/-- A good frame that a filter takes commits at its queue. -/
theorem Dev.ethToQueue_spec {d : Dev} {p f q : Nat} {bs : List Byte} (queue : q = slotQueue (d.filtCfg p f)) (enabled : (d.hodQ q).enabled = true)
    (absent : d.hodPkt q (filtSource p f) = none) (room : (d.readRelease q).hodRoom q = true) (fits : bs.length - d.filtCfg p f % 2 ^ 14 ≤ d.hodMax q) :
    (∃ released held, (((d.ethTaken p bs.length).ethToQueue p f bs false false).hodQ q) =
      (d.hodQ q).tookWhole (d.hodStart q).1 (bs.length - d.filtCfg p f % 2 ^ 14) released held) ∧
    ((d.ethTaken p bs.length).ethToQueue p f bs false false).rn (ethKey p 0x2C) = min (d.rn (ethKey p 0x2C) + 1) 0xFFFFFFFF := by
  obtain ⟨count, rest⟩ := d.ethTaken_reg p bs.length
  have hod : (d.ethTaken p bs.length).hod = d.hod := (congrArg Dev.hod (d.ethTaken_countOnly p bs.length).eq :)
  have inner : q < 32 := by
    rw [queue]
    exact Nat.mod_lt _ (by decide)
  have cfg : (d.ethTaken p bs.length).filtCfg p f = d.filtCfg p f := congrArg BitVec.toNat (rest _ (by unfold filtKey ethKey; omega))
  obtain ⟨room', max, start⟩ := Dev.hodRoom_alike (q := q) (d.ethTaken_readsAlike p bs.length) hod fun o low => rest _ (by unfold hodKey ethKey; omega)
  unfold Dev.ethToQueue
  dsimp only
  rw [cfg, ← queue]
  generalize d.ethTaken p bs.length = e at *
  have enabled' : (e.hodQ q).enabled = true := (congrArg HodQ.enabled (Dev.hodQ_congr hod q)).trans enabled
  have absent' : e.hodPkt q (filtSource p f) = none := (Dev.hodPkt_eq (Dev.hodQ_congr hod q) _).trans absent
  have fits' : (bs.drop (d.filtCfg p f % 2 ^ 14)).length ≤ e.hodMax q := by
    rw [List.length_drop, max]
    exact fits
  obtain ⟨⟨released, held, state⟩, regs⟩ := Dev.hodWhole_spec (stamp := stampLess e.nowFx (ingressTenths p (e.ethPort p).rate + e.rf (ethKey p 0x24) 15 0) (e.rn (filtKey p f 0x48)))
    (info := if tagged bs then netField bs 14 2 + 65536 else 0) enabled' absent' (room'.trans room) fits'
  refine ⟨⟨released, held, ?_⟩, ?_⟩
  · rw [state, Dev.hodQ_congr hod, start, List.length_drop]
  · rw [Dev.rn, regs]
    exact count

/-! ### Links and host frames (R375) -/

theorem Dev.ethPort_setEth (d : Dev) (p : Nat) (x : EthPort) : (d.setEth p x).ethPort p = x := FMap.get_set_self EthPort.reset d.eth p x

theorem Dev.ethPort_setEth_ne (d : Dev) {p q : Nat} (x : EthPort) (ne : q ≠ p) : (d.setEth p x).ethPort q = d.ethPort q := FMap.get_set_ne EthPort.reset d.eth x ne

theorem Dev.ethPort_congr {d e : Dev} (h : e.eth = d.eth) (p : Nat) : e.ethPort p = d.ethPort p := by rw [Dev.ethPort, h]; rfl

theorem Dev.hostTxEnd_spec (d : Dev) (p : Nat) (sent : Bool) : (d.hostTxEnd p sent).ethPort p = { d.ethPort p with hostTx := false } ∧
    (∀ q, q ≠ p → (d.hostTxEnd p sent).ethPort q = d.ethPort q) ∧ (d.hostTxEnd p sent).reg (ethKey p 0x58) = (if sent then 0x80000000 else 0x40000000) ∧
    (d.hostTxEnd p sent).reg (ethKey p 0x54) = d.reg (ethKey p 0x54) &&& 0x7FFFFFFF ∧
    d.hostTxEnd p sent = { d with regs := (d.hostTxEnd p sent).regs, eth := (d.hostTxEnd p sent).eth } := by
  obtain ⟨y, named, port, others, reg, only⟩ : ∃ y, d.setEth p { d.ethPort p with hostTx := false } = y ∧ y.ethPort p = { d.ethPort p with hostTx := false } ∧
      (∀ q, q ≠ p → y.ethPort q = d.ethPort q) ∧ (∀ a, y.reg a = d.reg a) ∧ y = { d with eth := y.eth } :=
    ⟨_, rfl, d.ethPort_setEth p _, fun q ne => d.ethPort_setEth_ne _ ne, fun a => Dev.reg_congr rfl rfl a, rfl⟩
  have shape : d.hostTxEnd p sent = (y.clearBits (ethKey p 0x54) (2 ^ 31)).setReg (ethKey p 0x58) (if sent then 0x80000000 else 0x40000000) := by
    rw [← named]
    rfl
  rw [shape]
  refine ⟨port, others, Dev.reg_setReg _ _ _, ?_, ?_⟩
  · rw [Dev.reg_setReg_ne _ _ (ethKey_ne p (by decide)), ← reg]
    exact Dev.reg_setReg y _ _
  · refine (Dev.setReg_setReg_regsOnly y _ _ _ _).trans ?_
    rw [only]
    rfl

theorem Dev.ethDownFx_spec {d : Dev} {p : Nat} (link : (d.ethPort p).link = true) : ((d.ethDownFx p).ethPort p).link = false ∧ ((d.ethDownFx p).ethPort p).hostTx = false ∧
    (∀ q, q ≠ p → (d.ethDownFx p).ethPort q = d.ethPort q) ∧ (d.ptpSource = some p → d.plb.sync = .locked → (d.ethDownFx p).plb.sync = .holdover) := by
  obtain ⟨y, idle, others, plb, named⟩ : ∃ y, (y.ethPort p).hostTx = false ∧ (∀ q, q ≠ p → y.ethPort q = d.ethPort q) ∧ y.plb = d.plb ∧
      (if (d.ethPort p).hostTx then d.hostTxEnd p false else d) = y := by
    by_cases busy : (d.ethPort p).hostTx = true
    · obtain ⟨port, others, -, -, only⟩ := d.hostTxEnd_spec p false
      exact ⟨_, congrArg EthPort.hostTx port, others, (congrArg Dev.plb only :), if_pos busy⟩
    · exact ⟨d, Bool.eq_false_iff.2 busy, fun _ _ => rfl, rfl, if_neg busy⟩
  obtain ⟨z, closed, core⟩ : ∃ z, z = y.setEth p { y.ethPort p with link := false, rate := 0 } ∧ d.ethDownCore p = z.emit .eth 0x0A08 1 p 0 := by
    unfold Dev.ethDownCore
    rw [named]
    exact ⟨_, rfl, rfl⟩
  obtain ⟨evs, n, told⟩ := z.emit_eq .eth 0x0A08 1 p 0
  have eth : (d.ethDownCore p).eth = z.eth := by rw [core, told]
  have sync : (d.ethDownCore p).plb = d.plb := by
    rw [core, told]
    dsimp only
    rw [closed]
    exact plb
  have kept : (d.ethDownFx p).eth = (d.ethDownCore p).eth ∧ (d.ptpSource = some p → d.plb.sync = .locked → (d.ethDownFx p).plb.sync = .holdover) := by
    unfold Dev.ethDownFx
    dsimp only
    rw [link, if_neg (by decide : ¬ (!true) = true)]
    generalize d.ethDownCore p = w at sync ⊢
    split
    · by_cases locked : w.plb.sync = .locked
      · obtain ⟨t, g, j, q, eq⟩ := Dev.holdover_eq locked
        rw [eq]
        exact ⟨rfl, fun _ _ => rfl⟩
      · rw [Dev.holdover_else locked]
        exact ⟨rfl, fun _ was => absurd (sync ▸ was) locked⟩
    · next other => exact ⟨rfl, fun source => absurd source other⟩
  have port : (d.ethDownFx p).ethPort p = { y.ethPort p with link := false, rate := 0 } := by
    rw [Dev.ethPort_congr (kept.1.trans eth), closed, Dev.ethPort_setEth]
  refine ⟨by rw [port], by rw [port]; exact idle, fun q ne => ?_, kept.2⟩
  rw [Dev.ethPort_congr (kept.1.trans eth), closed, Dev.ethPort_setEth_ne _ _ ne, others q ne]

/-! ### Host frames (R375) -/

theorem hostTx_length (v : W32) : bitsOf (v &&& 0x80003FFF).toNat 13 0 = v.toNat % 2 ^ 14 := by
  have low : (v &&& 0x80003FFF).toNat % 2 ^ 14 = v.toNat % 2 ^ 14 := by
    rw [BitVec.toNat_and, Nat.and_mod_two_pow, show (0x80003FFF : W32).toNat % 2 ^ 14 = 2 ^ 14 - 1 from by decide, Nat.and_two_pow_sub_one_eq_mod, Nat.mod_mod]
  simpa [bitsOf] using low

/-- A host frame is taken up. -/
def Dev.hostTxTaken (d : Dev) (p : Nat) (v : W32) : Dev :=
  Dev.setEth ((d.setReg (ethKey p 0x54) (v &&& 0x80003FFF)).setReg (ethKey p 0x58) 0) p { d.ethPort p with hostTx := true }

theorem Dev.hostTxTaken_spec (d : Dev) (p : Nat) (v : W32) : ((d.hostTxTaken p v).ethPort p).hostTx = true ∧ (d.hostTxTaken p v).reg (ethKey p 0x58) = 0 ∧
    (d.hostTxTaken p v).reg (ethKey p 0x54) = v &&& 0x80003FFF ∧
    d.hostTxTaken p v = { d with regs := (d.hostTxTaken p v).regs, eth := (d.hostTxTaken p v).eth } := by
  obtain ⟨z, named, only, result, control⟩ : ∃ z, (d.setReg (ethKey p 0x54) (v &&& 0x80003FFF)).setReg (ethKey p 0x58) 0 = z ∧ z = { d with regs := z.regs } ∧
      z.reg (ethKey p 0x58) = 0 ∧ z.reg (ethKey p 0x54) = v &&& 0x80003FFF :=
    ⟨(d.setReg (ethKey p 0x54) (v &&& 0x80003FFF)).setReg (ethKey p 0x58) 0, rfl, Dev.setReg_setReg_regsOnly .., Dev.reg_setReg _ _ _,
      (Dev.reg_setReg_ne _ _ (ethKey_ne p (by decide))).trans (Dev.reg_setReg _ _ _)⟩
  have shape : d.hostTxTaken p v = z.setEth p { d.ethPort p with hostTx := true } := by
    rw [← named]
    rfl
  rw [shape]
  clear shape named
  refine ⟨congrArg EthPort.hostTx (z.ethPort_setEth p _), (Dev.reg_congr rfl rfl _).trans result, (Dev.reg_congr rfl rfl _).trans control, ?_⟩
  rw [only]
  rfl

section
variable {d : Dev} {p : Nat} {v : W32} {r : Nat × Nat} (idle : (d.ethPort p).hostTx = false) (go : bitOf v.toNat 31 = true)
  (range : r = ((d.hostTxRange p).1, v.toNat % 2 ^ 14))
include idle go range

/-- A write that asks for a frame: it is taken up, or dropped at once. -/
theorem Dev.hostTxFx_eq : d.hostTxFx p v = if (d.ethPort p).link = false ∨ r.2 < 60 ∨ 9216 < r.2 ∨ inDram d.hw r.1 r.2 = false then
      (d.setReg (ethKey p 0x54) (v &&& 0x80003FFF)).hostTxEnd p false
    else d.hostTxTaken p v := by
  obtain ⟨e, named⟩ : ∃ e, d.setReg (ethKey p 0x54) (v &&& 0x80003FFF) = e := ⟨_, rfl⟩
  have size : (e.hostTxRange p) = r := by
    rw [range, ← named]
    have rn (o : Nat) (ne : o ≠ 0x54) : (d.setReg (ethKey p 0x54) (v &&& 0x80003FFF)).rn (ethKey p o) = d.rn (ethKey p o) :=
      congrArg BitVec.toNat (d.reg_setReg_ne _ (ethKey_ne p ne))
    have len : (d.setReg (ethKey p 0x54) (v &&& 0x80003FFF)).rf (ethKey p 0x54) 13 0 = v.toNat % 2 ^ 14 := by
      rw [Dev.rf, Dev.rn, Dev.reg_setReg, hostTx_length]
    unfold Dev.hostTxRange
    rw [len, Dev.rf, Dev.rf, rn 0x4C (by decide), rn 0x50 (by decide)]
    rfl
  have port : e.ethPort p = d.ethPort p := Dev.ethPort_congr (by rw [← named]; rfl) p
  unfold Dev.hostTxFx
  rw [idle, if_neg Bool.false_ne_true, go, named]
  dsimp only
  rw [if_neg (by decide : ¬ (!true) = true), size, port]
  by_cases bad : (d.ethPort p).link = false ∨ r.2 < 60 ∨ 9216 < r.2 ∨ inDram d.hw r.1 r.2 = false
  · rw [if_pos bad, if_pos (by simpa [or_assoc] using bad)]
  · rw [if_neg bad, if_neg (by simpa [or_assoc] using bad), Dev.hostTxTaken, named]

end

/-- A host frame that was sent. -/
theorem Dev.hostSent_spec (d : Dev) (p : Nat) (o : Out) : ((d.put o).hostTxEnd p true).out = d.out ++ [o] ∧ ((d.put o).hostTxEnd p true).reg (ethKey p 0x58) = 0x80000000 ∧
    (((d.put o).hostTxEnd p true).ethPort p).hostTx = false ∧
    (d.put o).hostTxEnd p true = { d with regs := ((d.put o).hostTxEnd p true).regs, eth := ((d.put o).hostTxEnd p true).eth, out := ((d.put o).hostTxEnd p true).out } := by
  obtain ⟨free, -, result, -, only⟩ := (d.put o).hostTxEnd_spec p true
  generalize (d.put o).hostTxEnd p true = x at *
  have out : x.out = d.out ++ [o] := (congrArg Dev.out only :)
  refine ⟨out, result, congrArg EthPort.hostTx free, ?_⟩
  rw [out]
  exact only

theorem Dev.hostSentFx_eq {d : Dev} {p : Nat} {r : Nat × Nat} (busy : (d.ethPort p).hostTx = true) (range : r = d.hostTxRange p)
    (whole : d.poisonedIn View.plain r.1 r.2 = none) (clear : d.fencedIn r.1 r.2 = false) :
    d.hostSentFx p = (d.put (.eth p (d.rd View.plain r.1 r.2))).hostTxEnd p true := by
  have read : d.macRead (d.hostTxRange p).1 (d.hostTxRange p).2 = (d.rd View.plain r.1 r.2, d) := by
    unfold Dev.macRead
    rw [← range, whole, clear]
    rfl
  unfold Dev.hostSentFx
  rw [busy, read]
  rfl

/-! ### Writes of the block (R398) -/

section
variable {d : Dev} {w : Writer} {v : W32}

theorem Dev.writeReg_hostTx {p : Nat} (serves : d.serves .eth = true) (port : p = d.rf ETH_PORT_SEL 2 0) (known : p < 6) : d.writeReg w ETH_HOST_TX_CTL v = d.hostTxFx p v := by
  subst port
  have through := Dev.writeReg_through (d := d) (w := w) (v := v) (b := .eth) (o := 0x54) (r := ⟨0x54, 0x4, 1, .rw, 0x0, 0x80003FFF⟩) serves rfl (by decide) (by decide) (by decide) (.inl rfl)
  refine through.trans ?_
  change d.ethWrite 0x54 _ v = _
  unfold Dev.ethWrite
  dsimp only
  rw [if_neg (by decide), if_neg (by omega), if_neg (by decide), if_neg (fun h => absurd h.1 (by decide)), if_neg (by decide), if_neg (by decide), if_neg (by decide),
    if_pos rfl]

end

/-! ### The counter (R385, R386) -/

theorem sext_toInt {n : Nat} : sext 64 n = (BitVec.ofNat 64 n).toInt := by
  rw [BitVec.toInt_eq_toNat_cond, BitVec.toNat_ofNat, sext]
  by_cases low : n % 2 ^ 64 < 2 ^ (64 - 1)
  · rw [if_pos low, if_pos (by omega)]
  · rw [if_neg low, if_neg (by omega)]

theorem Dev.incrWrite_taken {d : Dev} {v : W32} {n : Nat} (pair : n = d.rn PLB_INCR_NS * 2 ^ 32 + v.toNat) (low : 24975 * 2 ^ 32 ≤ 10000 * n) (high : 10000 * n ≤ 25025 * 2 ^ 32) :
    d.incrWrite v = { d.setReg PLB_INCR_FRAC v with plb := { d.plb with incr := n } } := by
  subst pair
  unfold Dev.incrWrite
  exact if_pos ⟨low, high⟩

theorem Dev.incrWrite_ignored {d : Dev} {v : W32} {n : Nat} (pair : n = d.rn PLB_INCR_NS * 2 ^ 32 + v.toNat) (out : 10000 * n < 24975 * 2 ^ 32 ∨ 25025 * 2 ^ 32 < 10000 * n) :
    d.incrWrite v = d := by
  subst pair
  unfold Dev.incrWrite
  exact if_neg fun h => by
    obtain ⟨low, high⟩ := h
    omega

/-! ### Triggers (R392, R372) -/

theorem Dev.trig_setTrig (d : Dev) (i : Nat) (x : Trig) : (d.setTrig i x).trig i = x := FMap.get_set_self Trig.reset d.plb.trigs i x

theorem Dev.armTrigger_future {d : Dev} {i : Nat} (future : d.now ≤ d.trigStart i) :
    d.armTrigger i = d.setTrig i { next := some (d.trigStart i), fired := 0, late := false, pulse := (d.trig i).pulse, armed := d.clock } := by
  unfold Dev.armTrigger
  dsimp only
  rw [Dev.firingsBefore, if_pos future, if_pos rfl]
  rfl

theorem Dev.trigCtlWrite_arms {d : Dev} {i : Nat} {v : W32} (off : d.trigArmed i = false) (on : bitOf v.toNat 31 = true)
    (good : (d.setReg (PLB_TRIG_CTL i) (v &&& 0x7000FFFF)).trigOk i = true) :
    d.trigCtlWrite i v = ((d.setReg (PLB_TRIG_CTL i) (v &&& 0x7000FFFF)).orBits (PLB_TRIG_CTL i) (2 ^ 31)).armTrigger i := by
  unfold Dev.trigCtlWrite
  dsimp only
  rw [off, if_neg Bool.false_ne_true, on, good, if_pos (by decide)]

theorem trigStart_congr {d e : Dev} {i : Nat} (h : ∀ a, a ≠ PLB_TRIG_CTL i → e.reg a = d.reg a) : e.trigStart i = d.trigStart i := by
  have rn (a : Nat) (ne : a ≠ PLB_TRIG_CTL i) : e.rn a = d.rn a := congrArg BitVec.toNat (h a ne)
  unfold Dev.trigStart Dev.rpair
  rw [rn _ (by unfold PLB_TRIG_START_LO PLB_TRIG_CTL; omega), rn _ (by unfold PLB_TRIG_START_HI PLB_TRIG_CTL; omega)]

/-- A trigger armed before its first firing time. -/
theorem Dev.armed_spec {d : Dev} {i : Nat} {v : W32} (on : bitOf v.toNat 31 = true) (future : d.now ≤ d.trigStart i) :
    ∀ x, x = ((d.setReg (PLB_TRIG_CTL i) (v &&& 0x7000FFFF)).orBits (PLB_TRIG_CTL i) (2 ^ 31)).armTrigger i → x.reg (PLB_TRIG_CTL i) = v &&& 0xF000FFFF ∧
    x.trig i = { next := some (d.trigStart i), fired := 0, late := false, pulse := (d.trig i).pulse, armed := d.clock } ∧ x = { d with regs := x.regs, plb := x.plb } := by
  obtain ⟨reg, rest, only⟩ := Dev.enabled_spec (d := d) (k := PLB_TRIG_CTL i) (m := 0x7000FFFF) (whole := 0xF000FFFF) on (by decide)
  generalize (d.setReg (PLB_TRIG_CTL i) (v &&& 0x7000FFFF)).orBits (PLB_TRIG_CTL i) (2 ^ 31) = e at reg rest only ⊢
  have start := trigStart_congr rest
  have plb : e.plb = d.plb := (congrArg Dev.plb only :)
  have trig : e.trig i = d.trig i := by rw [Dev.trig, plb]; rfl
  have clock : e.clock = d.clock := by rw [Dev.clock, plb]; rfl
  have now : e.now = d.now := by rw [Dev.now, plb]; rfl
  have armed := Dev.armTrigger_future (d := e) (i := i) (by rw [now, start]; exact future)
  intro x named
  rw [armed, start, trig, clock] at named
  subst named
  refine ⟨(Dev.reg_congr rfl rfl _).trans reg, Dev.trig_setTrig e i _, ?_⟩
  rw [only]
  rfl

/-- What the messages and pins of a firing change. -/
structure Dev.Sends (d e : Dev) : Prop where
  eq : e = { d with jfe := e.jfe, out := e.out }
  grows (o : Out) : o ∈ d.out → o ∈ e.out

namespace Dev.Sends

theorem refl (d : Dev) : d.Sends d := ⟨rfl, fun _ h => h⟩

theorem trans {d e f : Dev} (h : d.Sends e) (k : e.Sends f) : d.Sends f := by
  refine ⟨?_, fun o mem => k.grows o (h.grows o mem)⟩
  obtain ⟨h, -⟩ := h
  obtain ⟨k, -⟩ := k
  rw [k, h]

theorem put (d : Dev) (o : Out) : d.Sends (d.put o) := ⟨rfl, fun _ mem => List.mem_append_left _ mem⟩

theorem emit (d : Dev) (b : Block) (code sev a0 a1 : Nat) : d.Sends (d.emit b code sev a0 a1) := by
  obtain ⟨_, _, eq⟩ := d.emit_eq b code sev a0 a1
  rw [eq]
  exact ⟨rfl, fun _ h => h⟩

theorem sendTrigger (d : Dev) (i fire p : Nat) : d.Sends (d.sendTrigger i fire p) := by
  unfold Dev.sendTrigger
  split
  · exact put d _
  · exact emit d _ _ _ _ _

/-- A port with a link whose time has come gets the message, whatever has been sent before. -/
theorem sent {d e : Dev} {i fire p : Nat} (h : d.Sends e) (link : (d.aphyPort p).link = true)
    (due : (d.trig i).armed + d.rf (aphyKey p 0x28) 15 0 ≤ d.ofPlumb fire) : .aphyTrigger p i ∈ (e.sendTrigger i fire p).out := by
  have ready : ((e.aphyPort p).link && decide ((e.trig i).armed + e.rf (aphyKey p 0x28) 15 0 ≤ e.ofPlumb fire)) = true := by
    rw [h.eq]
    exact Bool.and_eq_true_iff.2 ⟨link, decide_eq_true due⟩
  unfold Dev.sendTrigger
  rw [if_pos ready]
  exact List.mem_append_right _ (List.mem_singleton_self _)

/-- Every port of the list gets its message. -/
theorem all {d : Dev} {i fire : Nat} : ∀ (ps : List Nat) {e : Dev}, d.Sends e → d.Sends (ps.foldl (fun d p => d.sendTrigger i fire p) e) ∧
    (∀ o, o ∈ e.out → o ∈ (ps.foldl (fun d p => d.sendTrigger i fire p) e).out) ∧
    ∀ p ∈ ps, (d.aphyPort p).link = true → (d.trig i).armed + d.rf (aphyKey p 0x28) 15 0 ≤ d.ofPlumb fire →
      .aphyTrigger p i ∈ (ps.foldl (fun d p => d.sendTrigger i fire p) e).out
  | [], e, h => ⟨h, fun _ mem => mem, fun p mem => absurd mem List.not_mem_nil⟩
  | q :: ps, e, h => by
    have step := Sends.sendTrigger e i fire q
    obtain ⟨sends, grows, rest⟩ := all ps (h.trans step)
    refine ⟨sends, fun o mem => grows o (step.grows o mem), fun p mem link due => ?_⟩
    rcases List.mem_cons.1 mem with rfl | mem
    · exact grows _ (h.sent link due)
    · exact rest p mem link due

end Dev.Sends

theorem Dev.trigFireFx_spec {d : Dev} {i t : Nat} (next : (d.trig i).next = some t) (armed : d.trigArmed i = true) (due : t ≤ d.now) :
    (d.trigFireFx i).trig i = { d.trig i with next := if d.trigPeriodic i then some (t + d.trigPeriod i) else none, fired := min 0xFFFFFFFF ((d.trig i).fired + 1),
                                              pulse := (d.trig i).pulse || d.rbit (PLB_TRIG_CTL i) 28 } ∧
    (∀ p, p < 16 → d.rbit (PLB_TRIG_CTL i) p = true → (d.aphyPort p).link = true → (d.trig i).armed + d.rf (aphyKey p 0x28) 15 0 ≤ d.ofPlumb t →
      .aphyTrigger p i ∈ (d.trigFireFx i).out) ∧
    (d.rbit (PLB_TRIG_CTL i) 28 = true → .pin i (!d.rbit (PLB_TRIG_CTL i) 29) ∈ (d.trigFireFx i).out) ∧
    d.trigFireFx i = { d with plb := (d.trigFireFx i).plb, jfe := (d.trigFireFx i).jfe, out := (d.trigFireFx i).out } := by
  obtain ⟨e, named, start, pinned⟩ : ∃ e, (if d.rbit (PLB_TRIG_CTL i) 28 then d.drivePin i true else d) = e ∧ d.Sends e ∧
      (d.rbit (PLB_TRIG_CTL i) 28 = true → .pin i (!d.rbit (PLB_TRIG_CTL i) 29) ∈ e.out) := by
    refine ⟨_, rfl, ?_, fun pin => ?_⟩
    · split
      · exact .put d _
      · exact .refl d
    · rw [if_pos pin, Dev.drivePin, Bool.true_bne]
      exact List.mem_append_right _ (List.mem_singleton_self _)
  obtain ⟨sends, grows, messages⟩ := Dev.Sends.all (i := i) (fire := t) ((List.range 16).filter (fun p => d.rbit (PLB_TRIG_CTL i) p)) start
  unfold Dev.trigFireFx
  dsimp only
  rw [next]
  dsimp only
  rw [armed, decide_eq_false (Nat.not_lt.2 due), if_neg (by decide), named]
  generalize List.foldl _ e _ = y at sends grows messages ⊢
  refine ⟨y.trig_setTrig i _, fun p known bit => messages p (List.mem_filter.2 ⟨List.mem_range.2 known, bit⟩), fun pin => grows _ (pinned pin), ?_⟩
  rw [sends.eq]
  rfl

/-! ### Captures (R394) -/

theorem Dev.captureFx_plain {d : Dev} {i : Nat} {rising : Bool} (known : i < 8) (on : bitOf (d.rn (PLB_CAP_CFG i)) 31 = true)
    (edge : bitOf (d.rn (PLB_CAP_CFG i)) (if rising then 29 else 30) = true) (alone : bitOf (d.rn (PLB_CAP_CFG i)) 28 = false) (other : d.rf PLB_CFG 3 0 ≠ 8 + i) :
    d.captureFx i rising = d.pushStamp i := by
  unfold Dev.captureFx
  dsimp only
  rw [if_neg (by rw [on, edge]; simp; omega), alone, if_neg Bool.false_ne_true, if_neg other]

theorem Dev.pushStamp_room {d : Dev} {i : Nat} (room : (d.caps i).length < 16) : (d.pushStamp i).caps i = d.caps i ++ [d.now] ∧
    (∀ j, j ≠ i → (d.pushStamp i).caps j = d.caps j) ∧ d.pushStamp i = { d with plb := { d.plb with caps := (d.pushStamp i).plb.caps } } := by
  have stored : d.pushStamp i = { d with plb := { d.plb with caps := FMap.set [] d.plb.caps i (d.caps i ++ [d.now]) } } := if_neg (Nat.not_le.2 room)
  rw [stored]
  exact ⟨FMap.get_set_self [] d.plb.caps i _, fun j ne => FMap.get_set_ne [] d.plb.caps _ ne, rfl⟩

theorem Dev.pushStamp_full {d : Dev} {i : Nat} (full : 16 ≤ (d.caps i).length) : (d.pushStamp i).caps i = d.caps i ∧ FMap.get false (d.pushStamp i).plb.capOver i = true ∧
    d.pushStamp i = { d with plb := { d.plb with capOver := (d.pushStamp i).plb.capOver }, jfe := (d.pushStamp i).jfe } := by
  have lost : d.pushStamp i = Dev.emit { d with plb := { d.plb with capOver := FMap.set false d.plb.capOver i true } } .plb 0x0A0C 1 i 1 := if_pos full
  obtain ⟨evs, n, told⟩ := Dev.emit_eq { d with plb := { d.plb with capOver := FMap.set false d.plb.capOver i true } } .plb 0x0A0C 1 i 1
  rw [lost, told]
  exact ⟨rfl, FMap.get_set_self false d.plb.capOver i true, rfl⟩

theorem Dev.capRead_some {d : Dev} {i t : Nat} {q : List Nat} (caps : d.caps i = t :: q) :
    d.capRead i = (BitVec.ofNat 32 t, { d with plb := { d.plb with caps := FMap.set [] d.plb.caps i q, capHi := FMap.set 0 d.plb.capHi i (t / 2 ^ 32) } }) := by
  unfold Dev.capRead
  rw [caps]

theorem Dev.capRead_none {d : Dev} {i : Nat} (caps : d.caps i = []) : d.capRead i = (0, d) := by
  unfold Dev.capRead
  rw [caps]

section
variable {d : Dev} {p : Nat} {bs : List Byte} {full : Bool} {y : Option Int} (port : p < 6) (link : (d.ethPort p).link = true)
  (long : 64 ≤ bs.length + 4) (short : bs.length + 4 ≤ 9216) (type : etherType bs ≠ 0x8808)
include port link long short type

theorem Dev.ethFrameFx_ptp (ptp : d.isPtp p bs = true) : d.ethFrameFx p bs true full y = (d.ethTaken p bs.length).ptpTake p bs y := by
  unfold Dev.ethFrameFx
  rw [Dev.ethReceive_good port link long short type, if_pos ptp]

theorem Dev.ethFrameFx_unmatched (plain : d.isPtp p bs = false) (unmatched : d.filtFor p bs = none) :
    d.ethFrameFx p bs true full y = ((d.ethTaken p bs.length).bump (ethKey p 0x30) 1).blkCount .eth 4 1 := by
  unfold Dev.ethFrameFx
  rw [Dev.ethReceive_good port link long short type, if_neg (Bool.eq_false_iff.1 plain), unmatched]

theorem Dev.ethFrameFx_matched {f : Nat} (plain : d.isPtp p bs = false) (matched : d.filtFor p bs = some f) :
    d.ethFrameFx p bs true full y = (d.ethTaken p bs.length).ethToQueue p f bs full false := by
  unfold Dev.ethFrameFx
  rw [Dev.ethReceive_good port link long short type, if_neg (Bool.eq_false_iff.1 plain), matched]

end

theorem Dev.ethTaken_const (d : Dev) (p n : Nat) {a : Nat} (low : a < 0x5000000) : (d.ethTaken p n).rn a = d.rn a :=
  congrArg BitVec.toNat ((d.ethTaken_reg p n).2 a (by unfold ethKey; omega))

/-- A valid sync from the source sets the offset and moves the sync state. -/
theorem Dev.ethSynced_spec {d : Dev} {p : Nat} {bs : List Byte} {o : Int} (sync : netField bs (ptpAt bs) 1 % 16 ≠ 1) (delay : netField bs (ptpAt bs) 1 % 16 ≠ 2)
    (source : d.ptpSource = some p) : ((d.ethTaken p bs.length).ptpTake p bs (some o)).plb.offset = o ∧
    ((d.ethTaken p bs.length).ptpTake p bs (some o)).plb.sync = SyncSt.next d.plb (d.rf PLB_LOCK_THRESHOLD 13 0) o := by
  have source' : (d.ethTaken p bs.length).ptpSource = some p := by
    rw [← source]
    unfold Dev.ptpSource Dev.rf
    rw [d.ethTaken_const p bs.length (by decide)]
  have threshold : (d.ethTaken p bs.length).rf PLB_LOCK_THRESHOLD 13 0 = d.rf PLB_LOCK_THRESHOLD 13 0 := by
    unfold Dev.rf
    rw [d.ethTaken_const p bs.length (by decide)]
  have plb : (d.ethTaken p bs.length).plb = d.plb := (congrArg Dev.plb (d.ethTaken_countOnly p bs.length).eq :)
  obtain ⟨offset, state⟩ := (d.ethTaken p bs.length).syncFx_spec o
  unfold Dev.ptpTake
  dsimp only
  rw [if_neg sync, if_neg delay, if_pos source', ← threshold, ← plb]
  exact ⟨offset, state⟩

theorem Dev.ethAnswered_out {d : Dev} {p : Nat} {bs : List Byte} {y : Option Int} (pdelay : netField bs (ptpAt bs) 1 % 16 = 2) :
    ((d.ethTaken p bs.length).ptpTake p bs y).out = d.out ++ [.ptp p 4] := by
  have out : (d.ethTaken p bs.length).out = d.out := (congrArg Dev.out (d.ethTaken_countOnly p bs.length).eq :)
  unfold Dev.ptpTake
  dsimp only
  rw [if_neg (by omega), if_pos pdelay, ← out]
  rfl

theorem Dev.plbCmd_set (d : Dev) : d.plbCmd (1 : W32).toNat = d.stepTime d.plbOperand 0 := rfl

theorem Dev.plbCmd_add (d : Dev) : d.plbCmd (2 : W32).toNat = d.stepTime ((d.now + d.plbOperand) % 2 ^ 64) d.plb.frac := rfl

theorem Dev.plbCmd_slew (d : Dev) : d.plbCmd (3 : W32).toNat = { d with plb := { d.plb with slew := some (sext 64 d.plbOperand * (2 ^ 32 : Nat)) } } := rfl

theorem Dev.stepTime_spec (d : Dev) (ns : Nat) (frac : BitVec 32) : (d.stepTime ns frac).plb.ns = BitVec.ofNat 64 ns ∧ (d.stepTime ns frac).plb.frac = frac ∧
    (d.stepTime ns frac).plb.run = d.plb.run ∧ d.stepTime ns frac = { d with plb := (d.stepTime ns frac).plb, jfe := (d.stepTime ns frac).jfe } := by
  obtain ⟨eq⟩ := d.stepTime_trigs ns frac
  generalize d.stepTime ns frac = x at eq ⊢
  rw [eq]
  exact ⟨rfl, rfl, rfl, rfl⟩

theorem plb_ofNat_add (a : W64) (n : Nat) : BitVec.ofNat 64 ((a.toNat + n) % 2 ^ 64) = a + BitVec.ofNat 64 n := by
  apply BitVec.eq_of_toNat_eq
  simp [BitVec.toNat_add]

theorem Dev.holdoverFx_late {d : Dev} (state : d.plb.sync = .holdover) (late : d.plb.syncSince + ticksMs (1000 * d.rf PLB_HOLDOVER 11 0) ≤ d.ticks) :
    d.holdoverFx = d.setSync .freeRun := if_pos ⟨state, late⟩

theorem leBytes_zero : leBytes 4 (0 : W32).toNat = [0, 0, 0, 0] := by decide

/-- Settles O48: each command is one of the operations above, on the device without the last command's outputs. -/
theorem ethernetAndTimeResults : Obligations.EthernetAndTimeResults := by
  unfold Obligations.EthernetAndTimeResults
  intro s d
  refine ⟨fun p bs full y port link long short type => ⟨fun plain none_ => ?unmatched, fun f q plain match_ queue enabled absent room fits whole => ?matched,
      fun o ptp sync delay offset source => ?synced, fun ptp pdelay => ?answered⟩,
    fun p link => ?down, fun p rate port link enabled ok => ?up, fun w v p r serves port known idle go range => ⟨fun link low high inside => ?taken, fun bad => ?refused⟩,
    fun p r busy range whole clear => ?sent, fun w v n serves pair => ⟨fun low high => ?incr, fun out => ?ignored⟩, ?read,
    fun w serves n pair => ⟨?set, ?add, ?slew⟩, fun w v serves unlocked => ?source, fun locked => ?lost, fun state late => ?expired,
    fun p port on link kind kinds => ?interval, fun done => ?slewed, fun w i v known serves off on good future => ?arm, fun i t known next armed due => ?fire,
    fun i pulse => ?pulse, fun i rising known on edge alone other => ⟨fun room => ?stamped, fun full => ?overflow⟩, fun i => ⟨fun t q caps => ?stamp, fun caps => ?empty⟩⟩
  case unmatched =>
    refine ans_set (g := fun d => d.ethFrameFx p bs true full y) ?_
    rw [Dev.ethFrameFx_unmatched (d := s.dev.fresh) port link long short type plain none_]
    exact s.dev.fresh.ethDropped_spec p bs.length _ rfl
  case matched =>
    subst whole
    refine ans_set (g := fun d => d.ethFrameFx p bs true false y) ?_
    rw [Dev.ethFrameFx_matched (d := s.dev.fresh) port link long short type plain match_]
    obtain ⟨⟨released, held, state⟩, count⟩ := Dev.ethToQueue_spec (d := s.dev.fresh) queue enabled absent room fits
    rw [state]
    exact ⟨rfl, rfl, rfl, rfl, count⟩
  case synced =>
    subst offset
    refine ans_set (g := fun d => d.ethFrameFx p bs true full (some o)) ?_
    rw [Dev.ethFrameFx_ptp (d := s.dev.fresh) port link long short type ptp]
    obtain ⟨set, state⟩ := Dev.ethSynced_spec (d := s.dev.fresh) (o := o) sync delay source
    rw [state]
    refine ⟨set, fun free => ?_, fun locked => ?_, fun acquiring => ?_⟩
    · unfold SyncSt.next
      rcases free with free | free <;> rw [show s.dev.fresh.plb.sync = _ from free]
    · unfold SyncSt.next
      rw [show s.dev.fresh.plb.sync = _ from locked]
      rfl
    · unfold SyncSt.next
      rw [show s.dev.fresh.plb.sync = _ from acquiring]
      rfl
  case answered =>
    refine ans_set (g := fun d => d.ethFrameFx p bs true full y) ?_
    rw [Dev.ethFrameFx_ptp (d := s.dev.fresh) port link long short type ptp]
    exact Dev.ethAnswered_out (d := s.dev.fresh) pdelay
  case down => exact ans_run (g := fun d => d.ethDownFx p) (Dev.ethDownFx_spec (d := s.dev.fresh) link)
  case up =>
    refine ans_run (g := fun d => d.ethUpFx p rate) ?_
    exact if_neg (by rw [show (s.dev.fresh.ethPort p).link = false from link, show s.dev.fresh.rbit (ethKey p 0x14) 31 = true from enabled, ok]; simp; omega)
  case taken =>
    refine State.write_answers ((Dev.writeReg_hostTx (d := s.dev.fresh) serves port known).trans (Dev.hostTxFx_eq (d := s.dev.fresh) idle go range)) ?_
    rw [if_neg (by rw [show (s.dev.fresh.ethPort p).link = true from link, show inDram s.dev.fresh.hw r.1 r.2 = true from inside]; simp; omega)]
    exact s.dev.fresh.hostTxTaken_spec p v
  case refused =>
    refine State.write_answers ((Dev.writeReg_hostTx (d := s.dev.fresh) serves port known).trans ((Dev.hostTxFx_eq (d := s.dev.fresh) idle go range).trans (if_pos bad))) ?_
    obtain ⟨free, -, result, control, -⟩ := (s.dev.fresh.setReg (ethKey p 0x54) (v &&& 0x80003FFF)).hostTxEnd_spec p false
    refine ⟨result, control.trans ?_, congrArg EthPort.hostTx free⟩
    rw [Dev.reg_setReg, BitVec.and_assoc]
    rfl
  case sent =>
    refine ans_run (g := fun d => d.hostSentFx p) ?_
    rw [Dev.hostSentFx_eq (d := s.dev.fresh) busy range whole clear]
    exact s.dev.fresh.hostSent_spec p _
  case incr =>
    refine State.write_answers ((Dev.writeReg_incrFrac (d := s.dev.fresh) serves).trans (Dev.incrWrite_taken (d := s.dev.fresh) pair low high)) ?_
    exact ⟨(Dev.reg_congr rfl rfl _).trans (s.dev.fresh.reg_setReg PLB_INCR_FRAC v), rfl, rfl⟩
  case ignored => exact State.write_answers ((Dev.writeReg_incrFrac (d := s.dev.fresh) serves).trans (Dev.incrWrite_ignored (d := s.dev.fresh) pair out)) rfl
  case read =>
    refine ans_run (g := fun d => d.timeRead.2.put (.reply (leBytes 4 d.timeRead.1.toNat))) ⟨?_, rfl⟩
    change [Out.reply (leBytes 4 (BitVec.ofNat 32 s.dev.plb.ns.toNat).toNat)] = _
    rw [BitVec.toNat_ofNat]
  case set =>
    have operand : s.dev.fresh.plbOperand = n := pair.symm
    have stepped := s.dev.fresh.stepTime_spec n 0
    rw [← operand] at stepped
    rw [← operand]
    exact State.write_answers ((Dev.writeReg_plbCmd (d := s.dev.fresh) serves).trans (Dev.plbCmd_set _)) stepped
  case add =>
    have operand : s.dev.fresh.plbOperand = n := pair.symm
    obtain ⟨ns, frac, run, only⟩ := s.dev.fresh.stepTime_spec ((s.dev.fresh.now + n) % 2 ^ 64) s.dev.fresh.plb.frac
    refine State.write_answers ((Dev.writeReg_plbCmd (d := s.dev.fresh) serves).trans (Dev.plbCmd_add _)) ?_
    rw [operand]
    exact ⟨ns.trans (plb_ofNat_add _ n), frac, run, only⟩
  case slew =>
    have operand : s.dev.fresh.plbOperand = n := pair.symm
    refine State.write_answers ((Dev.writeReg_plbCmd (d := s.dev.fresh) serves).trans (Dev.plbCmd_slew _)) ?_
    rw [operand, sext_toInt]
    rfl
  case source =>
    obtain ⟨t, g, j, q, eq⟩ := (s.dev.fresh.setReg PLB_CFG (v &&& 0x1F)).setSync_eq .freeRun
    refine State.write_answers ((Dev.writeReg_plbCfg (d := s.dev.fresh) serves unlocked).trans eq) ⟨?_, rfl, rfl, rfl⟩
    exact (Dev.reg_congr rfl rfl _).trans (s.dev.fresh.reg_setReg PLB_CFG (v &&& 0x1F))
  case lost =>
    obtain ⟨t, g, j, q, eq⟩ := Dev.holdover_eq (d := s.dev.fresh) locked
    refine ans_run (g := fun d => d.holdover) ?_
    rw [eq]
    refine ⟨rfl, rfl, fun some_ => ?_, rfl⟩
    have length : 0 < s.dev.plb.history.length := List.length_pos_iff.2 some_
    change s.dev.plb.history.foldl (· + ·) 0 / max 1 s.dev.plb.history.length = _
    rw [Nat.max_eq_right length, List.sum_eq_foldl]
  case expired =>
    obtain ⟨t, g, j, q, eq⟩ := s.dev.fresh.setSync_eq .freeRun
    refine ans_run (g := fun d => d.holdoverFx) ?_
    rw [Dev.holdoverFx_late (d := s.dev.fresh) state late, eq]
    exact ⟨rfl, rfl, rfl⟩
  case interval =>
    refine ans_run (g := fun d => d.ptpIntervalFx p kind) ?_
    refine (if_pos ⟨port, on, link, ?_⟩ : s.dev.fresh.ptpIntervalFx p kind = s.dev.fresh.put (.ptp p kind))
    rcases kinds with ⟨sync, other⟩ | ⟨delay, receiver⟩ | pdelay
    · exact .inl ⟨sync, by rw [show s.dev.fresh.ptpSource = s.dev.ptpSource from rfl]; simpa using other⟩
    · exact .inr (.inl ⟨delay, by rw [show s.dev.fresh.ptpSource = s.dev.ptpSource from rfl, receiver]; exact beq_self_eq_true _⟩)
    · exact .inr (.inr pdelay)
  case slewed => exact ans_run (g := fun d => d.slewDoneFx) (if_pos done)
  case arm =>
    have wrote := (Dev.writeReg_trigCtl (d := s.dev.fresh) (w := w) serves known).trans (Dev.trigCtlWrite_arms (d := s.dev.fresh) off on good)
    refine ans_run (g := fun d => if 16 ≤ i then d else d.writeReg w (PLB_TRIG_CTL i) v) ?_
    rw [if_neg (Nat.not_le.2 known)]
    exact Dev.armed_spec (d := s.dev.fresh) on future _ wrote
  case fire =>
    obtain ⟨state, messages, pin, only⟩ := Dev.trigFireFx_spec (d := s.dev.fresh) next armed due
    refine ans_run (g := fun d => d.trigFireFx i) ?_
    refine ⟨congrArg Trig.next state, congrArg Trig.fired state, messages, fun on => ⟨pin on, ?_⟩, only⟩
    rw [state]
    change ((s.dev.trig i).pulse || s.dev.rbit (PLB_TRIG_CTL i) 28) = true
    rw [on, Bool.or_true]
  case pulse =>
    refine ans_run (g := fun d => d.pulseEndFx i) ?_
    rw [Dev.pulseEndFx, if_pos (show (s.dev.fresh.trig i).pulse = true from pulse)]
    refine ⟨?_, Dev.trig_setTrig _ i _, rfl⟩
    change [Out.pin i (false != s.dev.rbit (PLB_TRIG_CTL i) 29)] = _
    rw [Bool.false_bne]
  case stamped =>
    refine ans_set (g := fun d => d.captureFx i rising) ?_
    rw [Dev.captureFx_plain (d := s.dev.fresh) known on edge alone other]
    exact Dev.pushStamp_room (d := s.dev.fresh) room
  case overflow =>
    refine ans_set (g := fun d => d.captureFx i rising) ?_
    rw [Dev.captureFx_plain (d := s.dev.fresh) known on edge alone other]
    exact Dev.pushStamp_full (d := s.dev.fresh) full
  case stamp =>
    refine ans_run (g := fun d => (d.capRead i).2.put (.reply (leBytes 4 (d.capRead i).1.toNat))) ?_
    rw [Dev.capRead_some (d := s.dev.fresh) caps]
    refine ⟨?_, FMap.get_set_self [] s.dev.plb.caps i q, FMap.get_set_self 0 s.dev.plb.capHi i _, rfl⟩
    change [Out.reply (leBytes 4 (BitVec.ofNat 32 t).toNat)] = _
    rw [BitVec.toNat_ofNat]
  case empty =>
    refine ans_run (g := fun d => (d.capRead i).2.put (.reply (leBytes 4 (d.capRead i).1.toNat))) ?_
    rw [Dev.capRead_none (d := s.dev.fresh) caps]
    dsimp only
    rw [leBytes_zero]
    rfl

end Sys2Proof.Machine
end

section
/-! SUPPORT. Throttle states and the power limit (R455–R457, R474–R480): what a step, a confirmed voltage and a stop of the flow leave. -/
namespace Sys2Proof.Machine

theorem Dev.diePower_setDiePower (d : Dev) (n : Nat) (x : DiePower) : (d.setDiePower n x).diePower n = x := FMap.get_set_self DiePower.reset d.pwr.dies n x

theorem Dev.diePower_setDiePower_ne (d : Dev) {n m : Nat} (x : DiePower) (ne : m ≠ n) : (d.setDiePower n x).diePower m = d.diePower m :=
  FMap.get_set_ne DiePower.reset d.pwr.dies x ne

theorem Dev.diePower_congr {d e : Dev} (h : e.pwr.dies = d.pwr.dies) (n : Nat) : e.diePower n = d.diePower n := by rw [Dev.diePower, h]; rfl

theorem Dev.emit_diePower (d : Dev) (b : Block) (code sev a0 a1 n : Nat) : (d.emit b code sev a0 a1).diePower n = d.diePower n := by
  obtain ⟨ev, seq, told⟩ := d.emit_eq b code sev a0 a1
  rw [told]
  rfl

/-! ### Telling a change -/

/-- The changes of a die's throttle state stay told or owed, and nothing else of the device is another. -/
structure Dev.ThrottleTold (d e : Dev) (n : Nat) : Prop where
  eq : e = { d with pwr := { d.pwr with dies := e.pwr.dies }, jfe := { d.jfe with ev := e.jfe.ev, evSeq := e.jfe.evSeq } }
  here : ∃ o t, e.diePower n = { d.diePower n with owed := o, toldTick := t }
  others : ∀ k, k ≠ n → e.diePower k = d.diePower k

theorem Dev.tellThrottle_told (d : Dev) (n : Nat) : d.ThrottleTold (d.tellThrottle n) n := by
  have owed : d.ThrottleTold (d.setDiePower n { d.diePower n with owed := true }) n :=
    ⟨rfl, ⟨true, (d.diePower n).toldTick, d.diePower_setDiePower n _⟩, fun k ne => d.diePower_setDiePower_ne _ ne⟩
  have told : d.ThrottleTold ((d.setDiePower n { d.diePower n with owed := false, toldTick := some d.ticks }).emit .pwr 0x0D01 0
      (n + 16 * (d.diePower n).state) d.causeReg) n := by
    obtain ⟨ev, seq, eq⟩ := (d.setDiePower n { d.diePower n with owed := false, toldTick := some d.ticks }).emit_eq .pwr 0x0D01 0 (n + 16 * (d.diePower n).state) d.causeReg
    refine ⟨?_, ⟨false, some d.ticks, ?_⟩, fun k ne => ?_⟩
    · rw [eq]
      rfl
    · rw [Dev.emit_diePower, Dev.diePower_setDiePower]
    · rw [Dev.emit_diePower, Dev.diePower_setDiePower_ne _ _ ne]
  unfold Dev.tellThrottle
  dsimp only
  split
  · split
    · exact owed
    · exact told
  · exact told

/-- R456: with its voltage confirmed, the faster state holds. -/
theorem Dev.raiseDoneFx_spec {d : Dev} {n t : Nat} (raising : (d.diePower n).raising = some t) : ((d.raiseDoneFx n).diePower n).state = t ∧
    ((d.raiseDoneFx n).diePower n).raising = none ∧ (∀ m, m ≠ n → (d.raiseDoneFx n).diePower m = d.diePower m) ∧
    d.raiseDoneFx n = { d with pwr := { d.pwr with dies := (d.raiseDoneFx n).pwr.dies }, jfe := (d.raiseDoneFx n).jfe } := by
  have shape : d.raiseDoneFx n = (d.setDiePower n { d.diePower n with state := t, raising := none }).tellThrottle n := by
    unfold Dev.raiseDoneFx
    rw [raising]
  obtain ⟨eq, ⟨o, told, same⟩, others⟩ := Dev.tellThrottle_told (d.setDiePower n { d.diePower n with state := t, raising := none }) n
  rw [shape]
  refine ⟨?_, ?_, fun k ne => ?_, ?_⟩
  · rw [same, Dev.diePower_setDiePower]
  · rw [same, Dev.diePower_setDiePower]
  · rw [others k ne, Dev.diePower_setDiePower_ne _ _ ne]
  · rw [eq]
    rfl

/-! ### What the throttle states alone are -/

/-- Beside the throttle states, what is put out and the records that wait, the devices are the same; no die's power is another. -/
structure Dev.Throttled (d e : Dev) : Prop where
  eq : e = { d with out := e.out, pwr := { d.pwr with dies := e.pwr.dies }, jfe := { d.jfe with ev := e.jfe.ev, evSeq := e.jfe.evSeq } }
  power : ∀ n, (e.diePower n).power = (d.diePower n).power
  slower : d.pwr.flowStop = true → ∀ n, 4 ≤ (d.diePower n).state → 4 ≤ (e.diePower n).state

namespace Dev.Throttled

variable {d e : Dev}

theorem refl (d : Dev) : d.Throttled d := ⟨rfl, fun _ => rfl, fun _ _ h => h⟩

theorem flowStop (h : d.Throttled e) : e.pwr.flowStop = d.pwr.flowStop := by rw [h.eq]

theorem trans {f : Dev} (h : d.Throttled e) (k : e.Throttled f) : d.Throttled f where
  eq := by
    rw [k.eq, h.eq]
  power n := (k.power n).trans (h.power n)
  slower stop n slow := k.slower (h.flowStop.trans stop) n (h.slower stop n slow)

theorem foldl {β : Type} {g : Dev → β → Dev} (h : ∀ (d : Dev) b, d.Throttled (g d b)) : ∀ (l : List β) (d : Dev), d.Throttled (l.foldl g d)
  | [], d => refl d
  | b :: l, d => (h d b).trans (foldl h l (g d b))

theorem tellThrottle (d : Dev) (n : Nat) : d.Throttled (d.tellThrottle n) := by
  obtain ⟨eq, ⟨o, t, same⟩, others⟩ := d.tellThrottle_told n
  have each (k : Nat) : ((d.tellThrottle n).diePower k).power = (d.diePower k).power ∧ ((d.tellThrottle n).diePower k).state = (d.diePower k).state := by
    by_cases at_ : k = n
    · subst at_
      rw [same]
      exact ⟨rfl, rfl⟩
    · rw [others k at_]
      exact ⟨rfl, rfl⟩
  refine ⟨?_, fun k => (each k).1, fun _ k slow => (each k).2 ▸ slow⟩
  rw [eq]

theorem setDiePower (d : Dev) (n : Nat) (x : DiePower) (power : x.power = (d.diePower n).power) (slower : d.pwr.flowStop = true → 4 ≤ (d.diePower n).state → 4 ≤ x.state) :
    d.Throttled (d.setDiePower n x) := by
  refine ⟨rfl, fun k => ?_, fun stop k slow => ?_⟩
  · by_cases at_ : k = n
    · rw [at_, Dev.diePower_setDiePower, power]
    · rw [Dev.diePower_setDiePower_ne _ _ at_]
  · by_cases at_ : k = n
    · rw [at_] at slow ⊢
      rw [Dev.diePower_setDiePower]
      exact slower stop slow
    · rw [Dev.diePower_setDiePower_ne _ _ at_]
      exact slow

theorem put (d : Dev) (o : Out) : d.Throttled (d.put o) := ⟨rfl, fun _ => rfl, fun _ _ slow => slow⟩

theorem applyState (d : Dev) (n : Nat) : d.Throttled (d.applyState n) := by
  unfold Dev.applyState
  dsimp only
  split
  · next faster => exact (setDiePower d n { d.diePower n with state := _, raising := none } rfl fun _ slow => le_trans slow faster.le).trans (tellThrottle _ n)
  · split
    · split
      · exact refl d
      · exact (setDiePower d n { d.diePower n with raising := some _ } rfl fun _ slow => slow).trans (put _ _)
    · exact setDiePower d n { d.diePower n with raising := none } rfl fun _ slow => slow

theorem applyStates (d : Dev) : d.Throttled d.applyStates := foldl applyState _ d

end Dev.Throttled

/-! ### A stop of the flow (R474) -/

/-- While the flow is stopped every die is asked for T4. -/
theorem Dev.throttleCauses_stop {d : Dev} (stop : d.pwr.flowStop = true) (n : Nat) : 4 ≤ (d.throttleCauses n).foldl max 0 := by
  unfold Dev.throttleCauses
  rw [stop]
  simp only [List.foldl_cons, List.foldl_nil, if_true]
  omega

theorem Dev.applyState_stop {d : Dev} (stop : d.pwr.flowStop = true) (n : Nat) : 4 ≤ ((d.applyState n).diePower n).state := by
  have want := d.throttleCauses_stop stop n
  by_cases slow : 4 ≤ (d.diePower n).state
  · exact (Throttled.applyState d n).slower stop n slow
  · have faster : (d.diePower n).state < (d.throttleCauses n).foldl max 0 := by omega
    unfold Dev.applyState
    dsimp only
    rw [if_pos faster]
    refine (Throttled.tellThrottle _ n).slower ?stop n ?_
    case stop => exact stop
    rw [Dev.diePower_setDiePower]
    exact want

theorem Dev.applyStates_stop {d : Dev} (stop : d.pwr.flowStop = true) : ∀ n ∈ powerDies d.hw, 4 ≤ ((d.applyStates).diePower n).state := by
  unfold Dev.applyStates
  generalize powerDies d.hw = l
  induction l generalizing d with
  | nil => simp
  | cons m l ih =>
    have step := Throttled.applyState d m
    have still : (d.applyState m).pwr.flowStop = true := step.flowStop.trans stop
    intro n mem
    rcases List.mem_cons.mp mem with same | later
    · rw [same]
      exact (Throttled.foldl Throttled.applyState l (d.applyState m)).slower still m (Dev.applyState_stop stop m)
    · exact ih still n later

/-- P_allow comes of what the throttle states leave alone. -/
theorem Dev.pAllow_congr {d e : Dev} (regs : e.regs = d.regs) (hw : e.hw = d.hw) (sent : e.pwr.sent = d.pwr.sent) (odd : e.pwr.implausible = d.pwr.implausible)
    (stop : e.pwr.flowStop = d.pwr.flowStop) (worst : e.pwr.worstCase = d.pwr.worstCase) : e.pAllow = d.pAllow := by
  have limit : e.rf PWR_SW_LIMIT 15 0 = d.rf PWR_SW_LIMIT 15 0 := by rw [Dev.rf, Dev.rn, Dev.reg_congr regs hw]; rfl
  have input (i : Nat) : e.sent i = d.sent i := by rw [Dev.sent, sent]; rfl
  have table : e.pTab = d.pTab := by rw [Dev.pTab, hw, input, input, odd]; rfl
  unfold Dev.pAllow
  rw [limit, table, stop, worst]

theorem Dev.Throttled.pAllow {d e : Dev} (h : d.Throttled e) : e.pAllow = d.pAllow := by
  obtain ⟨eq, -, -⟩ := h
  exact Dev.pAllow_congr (congrArg Dev.regs eq :) (congrArg Dev.hw eq :) (congrArg (·.pwr.sent) eq :) (congrArg (·.pwr.implausible) eq :)
    (congrArg (·.pwr.flowStop) eq :) (congrArg (·.pwr.worstCase) eq :)

theorem Dev.pAllow_stop {d : Dev} (stop : d.pwr.flowStop = true) : d.pAllow ≤ 42000 := by
  unfold Dev.pAllow
  rw [stop]
  simp only [List.foldl_cons, List.foldl_nil, Bool.true_or, if_true]
  omega

/-! ### The coolant's timers and models (R471, R474, R475, R480) -/

theorem Dev.thermalCheck_safetyOnly (d : Dev) : d.SafetyOnly d.thermalCheck := by
  unfold Dev.thermalCheck
  dsimp only
  split
  · split
    · exact .refl d
    · exact Dev.SafetyOnly.trans ⟨rfl⟩ (decideBoth_safetyOnly _ 0x06)
  · split
    · exact ⟨rfl⟩
    · exact .refl d

/-- Beside a safe state, only the flow's stop and its timers and models are others. -/
structure Dev.Cooled (d e : Dev) : Prop where
  eq : e = { d with out := e.out, mem := e.mem, tags := e.tags, shadow := e.shadow, poison := e.poison, qn := e.qn,
                    jfe := { d.jfe with squash := e.jfe.squash, ev := e.jfe.ev, evSeq := e.jfe.evSeq },
                    pwr := { d.pwr with implausSince := e.pwr.implausSince, implausible := e.pwr.implausible, sentSince := e.pwr.sentSince,
                                        flowGood := e.pwr.flowGood, flowStop := e.pwr.flowStop, worstCase := e.pwr.worstCase, flowLow := e.pwr.flowLow,
                                        flows := e.pwr.flows } }

namespace Dev.Cooled

variable {d e : Dev}

theorem refl (d : Dev) : d.Cooled d := ⟨rfl⟩

theorem trans {f : Dev} (h : d.Cooled e) (k : e.Cooled f) : d.Cooled f := by
  obtain ⟨h⟩ := h
  obtain ⟨k⟩ := k
  constructor
  rw [k, h]

theorem of_safetyOnly (h : d.SafetyOnly e) : d.Cooled e := by
  obtain ⟨h⟩ := h
  constructor
  rw [h]

theorem emit (d : Dev) (b : Block) (code sev a0 a1 : Nat) : d.Cooled (d.emit b code sev a0 a1) := of_safetyOnly (d.emit_safetyOnly b code sev a0 a1)

theorem sent (h : d.Cooled e) : e.pwr.sent = d.pwr.sent := by rw [h.eq]

theorem toldIf (h : d.Cooled e) {p : Prop} [Decidable p] (b : Block) (code sev a0 a1 : Nat) : d.Cooled (if p then e.emit b code sev a0 a1 else e) := by
  split
  · exact h.trans (emit _ _ _ _ _ _)
  · exact h

theorem coolantTimers (d : Dev) : d.Cooled d.coolantTimers := toldIf ⟨rfl⟩ _ _ _ _ _

theorem flowLowCheck (d : Dev) : d.Cooled d.flowLowCheck := by
  unfold Dev.flowLowCheck
  dsimp only
  split
  · exact trans ⟨rfl⟩ (emit _ _ _ _ _ _)
  · split
    · exact ⟨rfl⟩
    · exact refl d

/-- The model of the worst case lifts. -/
theorem modelLifted (d : Dev) {p : Prop} [Decidable p] : d.Cooled (if p then { d with pwr := { d.pwr with worstCase := false } }.emit .pwr 0x0D08 0 (d.pTab / 700) 0 else d) := by
  split
  · exact trans ⟨rfl⟩ (emit _ _ _ _ _ _)
  · exact refl d

/-- The stop of the flow clears. -/
theorem flowClears (d : Dev) {p : Prop} [Decidable p] :
    d.Cooled (if p then { d with pwr := { d.pwr with flowStop := false, flowGood := none } }.thermalCheck else d) := by
  split
  · exact trans ⟨rfl⟩ (of_safetyOnly (Dev.thermalCheck_safetyOnly _))
  · exact refl d

theorem liftModels (d : Dev) : d.Cooled d.liftModels := (flowClears d).trans (modelLifted _)

end Dev.Cooled

/-! ### The step of the control (R477–R479) -/

/-- The limit moves by at most its ramp, and what P_allow comes of stays. -/
theorem Dev.powerState_spec (d : Dev) : ∃ l s t, d.powerState = { d with pwr := { d.pwr with pLim := min d.pAllow (d.pwr.pLim + d.rf PWR_RAMP 3 0), lowSince := l, pstate := s, pTick := t } } := by
  unfold Dev.powerState
  dsimp only
  split
  · exact ⟨_, _, _, rfl⟩
  · split <;> split <;> exact ⟨_, _, _, rfl⟩

/-- Die index of the power at place `i` of a part's list: the Keystone's comes last. -/
def Hw.powerPlace (h : Hw) (i : Nat) : Nat := if i = h.dies then 4 else i

theorem Hw.powerPlace_ne (h : Hw) {i j : Nat} (lt : i < j) (le : j ≤ h.dies) : h.powerPlace i ≠ h.powerPlace j := by
  have four := h.dies_le
  unfold Hw.powerPlace
  split <;> split <;> omega

/-- The dies' powers as they come in. -/
def Dev.powersTaken (d : Dev) (ps : List Nat) (k : Nat) : Dev :=
  (List.range k).foldl (fun d i => d.setDiePower (d.hw.powerPlace i) { d.diePower (d.hw.powerPlace i) with power := ps.getD i 0 }) d

theorem Dev.powersTaken_spec (d : Dev) (ps : List Nat) : ∀ k, k ≤ d.hw.dies + 1 →
    (∃ m, d.powersTaken ps k = { d with pwr := { d.pwr with dies := m } }) ∧ ∀ i, i < k → ((d.powersTaken ps k).diePower (d.hw.powerPlace i)).power = ps.getD i 0
  | 0, _ => ⟨⟨d.pwr.dies, rfl⟩, fun i none => absurd none (Nat.not_lt_zero i)⟩
  | k + 1, le => by
    obtain ⟨⟨m, eq⟩, taken⟩ := d.powersTaken_spec ps k (by omega)
    have shape : d.powersTaken ps (k + 1) = (d.powersTaken ps k).setDiePower (d.hw.powerPlace k)
        { (d.powersTaken ps k).diePower (d.hw.powerPlace k) with power := ps.getD k 0 } := by
      have hw : (d.powersTaken ps k).hw = d.hw := (congrArg Dev.hw eq :)
      rw [← hw]
      unfold Dev.powersTaken
      rw [List.range_succ, List.foldl_append]
      rfl
    refine ⟨⟨_, shape.trans (by rw [eq]; rfl)⟩, fun i lt => ?_⟩
    rw [shape]
    by_cases last : i = k
    · rw [last, Dev.diePower_setDiePower]
    · rw [Dev.diePower_setDiePower_ne _ _ (d.hw.powerPlace_ne (by omega) (by omega))]
      exact taken i (by omega)

/-- R477, R478: the powers are taken in, the limit moves, and the cores do not notice. -/
theorem Dev.powerStepFx_spec (d : Dev) (ps : List Nat) : (∀ i, i < d.hw.dies + 1 → ((d.powerStepFx ps).diePower (d.hw.powerPlace i)).power = ps.getD i 0) ∧
    (d.powerStepFx ps).pwr.package = (ps.take (d.hw.dies + 1)).sum ∧
    (d.powerStepFx ps).pwr.pLim = min (d.powerStepFx ps).pAllow (d.pwr.pLim + d.rf PWR_RAMP 3 0) ∧ (d.powerStepFx ps).cores = d.cores := by
  obtain ⟨⟨m, eq⟩, taken⟩ := d.powersTaken_spec ps (d.hw.dies + 1) le_rfl
  have shape : ∃ e f : Dev, Dev.Cooled { d with pwr := { d.pwr with dies := m, package := (ps.take (d.hw.dies + 1)).sum } } e ∧ f = e.powerState ∧ f.Throttled (d.powerStepFx ps) := by
    refine ⟨_, _, (Cooled.coolantTimers _).trans (Cooled.liftModels _), rfl, ?_⟩
    have whole : (d.powersTaken ps (d.hw.dies + 1)) = (List.range (d.hw.dies + 1)).foldl (fun d i =>
        let n := if i = d.hw.dies then 4 else i
        d.setDiePower n { d.diePower n with power := ps.getD i 0 }) d := rfl
    unfold Dev.powerStepFx
    dsimp only
    rw [eq] at whole
    rw [← whole]
    refine (Throttled.applyStates _).trans (.foldl (fun e n => ?_) _ _)
    split
    · exact Throttled.tellThrottle e n
    · exact .refl e
  obtain ⟨e, f, cooled, moved, told⟩ := shape
  obtain ⟨l, s, t, limit⟩ := e.powerState_spec
  rw [limit] at moved
  generalize d.powerStepFx ps = x at told ⊢
  obtain ⟨cooled⟩ := cooled
  have regs : e.regs = d.regs := (congrArg Dev.regs cooled :)
  have hw : e.hw = d.hw := (congrArg Dev.hw cooled :)
  have dies : f.pwr.dies = m := (congrArg (·.pwr.dies) moved : f.pwr.dies = e.pwr.dies).trans (congrArg (·.pwr.dies) cooled :)
  have allow : f.pAllow = e.pAllow := by
    rw [moved]
    exact Dev.pAllow_congr rfl rfl rfl rfl rfl rfl
  refine ⟨fun i lt => ?_, ?_, ?_, ?_⟩
  · rw [told.power, Dev.diePower, dies, ← taken i lt, eq]
    rfl
  · rw [told.eq, moved, cooled]
  · rw [told.pAllow, allow, told.eq, moved]
    have same : e.rf PWR_RAMP 3 0 = d.rf PWR_RAMP 3 0 := by rw [Dev.rf, Dev.rn, Dev.reg_congr regs hw]; rfl
    have before : e.pwr.pLim = d.pwr.pLim := by rw [cooled]
    rw [← same, ← before]
  · rw [told.eq, moved, cooled]

/-! ### Coolant inputs (R469–R474) -/

theorem Dev.sent_setSent (d : Dev) (i : Nat) (x : SentIn) : (d.setSent i x).sent i = x := FMap.get_set_self SentIn.reset d.pwr.sent i x

theorem Dev.sent_setSent_ne (d : Dev) {i j : Nat} (x : SentIn) (ne : j ≠ i) : (d.setSent i x).sent j = d.sent j := FMap.get_set_ne SentIn.reset d.pwr.sent x ne

theorem Dev.sent_congr {d e : Dev} (h : e.pwr.sent = d.pwr.sent) (i : Nat) : e.sent i = d.sent i := by rw [Dev.sent, h]; rfl

/-- R474: the flow stops: every die is asked for T4, and the limit falls to 60 W. -/
structure Dev.FlowStopped (d e : Dev) : Prop where
  sent : e.pwr.sent = d.pwr.sent
  stop : e.pwr.flowStop = true
  slow : ∀ n ∈ powerDies d.hw, 4 ≤ (e.diePower n).state
  limit : e.pwr.pLim ≤ 42000

theorem Dev.flowStopFx_sent (d : Dev) (cause input : Nat) : (d.flowStopFx cause input).pwr.sent = d.pwr.sent := by
  unfold Dev.flowStopFx
  dsimp only
  split
  · rfl
  · obtain ⟨_, _, told⟩ := Dev.emit_eq { d with pwr := { d.pwr with flowGood := none, flowStop := true } } .pwr 0x0D05 3 cause input
    rw [(Dev.thermalCheck_safetyOnly _).eq]
    unfold Dev.lowerLimit
    rw [(Throttled.applyStates _).eq, told]

theorem Dev.flowStopFx_stops {d : Dev} (runs : d.pwr.flowStop = false) (cause input : Nat) : d.FlowStopped (d.flowStopFx cause input) := by
  have off : ¬ d.pwr.flowStop = true := by rw [runs]; decide
  obtain ⟨ev, seq, told⟩ := Dev.emit_eq { d with pwr := { d.pwr with flowGood := none, flowStop := true } } .pwr 0x0D05 3 cause input
  have shape : d.flowStopFx cause input = ((Dev.emit { d with pwr := { d.pwr with flowGood := none, flowStop := true } } .pwr 0x0D05 3 cause input).applyStates.lowerLimit).thermalCheck :=
    if_neg off
  rw [told] at shape
  generalize stopped : ({ d with pwr := { d.pwr with flowGood := none, flowStop := true }, jfe := { d.jfe with ev := ev, evSeq := seq } } : Dev) = e at shape
  have stop : e.pwr.flowStop = true := by rw [← stopped]
  have hw : e.hw = d.hw := by rw [← stopped]
  have slow := Dev.applyStates_stop stop
  have after := Throttled.applyStates e
  have still : e.applyStates.pwr.flowStop = true := after.flowStop.trans stop
  have allow := Dev.pAllow_stop still
  refine ⟨d.flowStopFx_sent cause input, ?_, fun n mem => ?_, ?_⟩
  all_goals rw [shape]
  · rw [(Dev.thermalCheck_safetyOnly _).eq]
    exact still
  · rw [Dev.diePower_congr (congrArg (·.pwr.dies) (Dev.thermalCheck_safetyOnly _).eq :)]
    exact slow n (hw ▸ mem)
  · rw [(Dev.thermalCheck_safetyOnly _).eq]
    exact le_trans (Nat.min_le_right _ _) allow

/-- R469: a frame in range gives its input a value. -/
theorem Dev.sentFrameFx_taken {d : Dev} {i status raw : Nat} (known : i < 3) (on : d.rbit (THM_SENT_CFG i) 31 = true) (fine : status % 4 = 0) (low : raw ≠ 0) (high : raw ≤ 4088) :
    (d.sentFrameFx i status raw true true).pwr.sent = (d.setSent i { value := d.sentValue i raw, valid := true, lost := false, lastTick := d.ticks }).pwr.sent := by
  have enabled : ¬ (3 ≤ i ∨ (!d.rbit (THM_SENT_CFG i) 31) = true) := by
    rw [on]
    simp only [Bool.not_true, Bool.false_eq_true, or_false]
    omega
  have good : ¬ (!true || !true || status % 4 != 0 || raw == 0 || decide (4088 < raw)) = true := by simp [fine, low, high]
  unfold Dev.sentFrameFx
  rw [if_neg enabled, if_neg good]
  dsimp only
  split
  · exact (Cooled.coolantTimers _).sent
  · refine (Cooled.coolantTimers _).sent.trans ?_
    split
    · exact (Dev.flowStopFx_sent _ 1 0).trans (Cooled.flowLowCheck _).sent
    · exact (Cooled.flowLowCheck _).sent

/-- R469: a frame out of range is counted. -/
theorem Dev.sentFrameFx_bad {d : Dev} {i status raw : Nat} {c t : Bool} (known : i < 3) (on : d.rbit (THM_SENT_CFG i) 31 = true)
    (bad : c = false ∨ t = false ∨ status % 4 ≠ 0 ∨ raw = 0 ∨ 4088 < raw) : d.sentFrameFx i status raw c t = d.bump THM_SENT_ERR_COUNT 1 := by
  have enabled : ¬ (3 ≤ i ∨ (!d.rbit (THM_SENT_CFG i) 31) = true) := by
    rw [on]
    simp only [Bool.not_true, Bool.false_eq_true, or_false]
    omega
  have refused : (!c || !t || status % 4 != 0 || raw == 0 || decide (4088 < raw)) = true := by
    simp only [Bool.or_eq_true, Bool.not_eq_true', bne_iff_ne, beq_iff_eq, decide_eq_true_eq]
    tauto
  exact (if_neg enabled).trans (if_pos refused)

theorem Dev.toldIf_pwr (d : Dev) {p : Prop} [Decidable p] (b : Block) (code sev a0 a1 : Nat) : (if p then d.emit b code sev a0 a1 else d).pwr = d.pwr := by
  split
  · obtain ⟨_, _, told⟩ := d.emit_eq b code sev a0 a1
    rw [told]
  · rfl

/-- R470, R474: an input without a frame for 3 ms is lost, and the flow stops. -/
theorem Dev.sentLostFx_spec {d : Dev} {i : Nat} (known : i < 3) (on : d.rbit (THM_SENT_CFG i) 31 = true) (held : (d.sent i).lost = false)
    (late : (d.sent i).lastTick + ticksMs 3 ≤ d.ticks) (runs : d.pwr.flowStop = false) :
    (d.sentLostFx i).sent i = { d.sent i with valid := false, lost := true } ∧ (d.sentLostFx i).pwr.flowStop = true ∧
    (∀ n ∈ powerDies d.hw, 4 ≤ ((d.sentLostFx i).diePower n).state) ∧ (d.sentLostFx i).pwr.pLim ≤ 42000 := by
  have due : ¬ (3 ≤ i ∨ (!d.rbit (THM_SENT_CFG i) 31) = true ∨ (d.sent i).lost = true ∨ d.ticks < (d.sent i).lastTick + ticksMs 3) := by
    rw [on, held]
    simp only [Bool.not_true, Bool.false_eq_true, false_or]
    omega
  have shape : d.sentLostFx i = ((d.setSent i { d.sent i with valid := false, lost := true }).coolantTimers).flowStopFx 2 i := if_neg due
  have timers := Cooled.coolantTimers (d.setSent i { d.sent i with valid := false, lost := true })
  have before : ((d.setSent i { d.sent i with valid := false, lost := true }).coolantTimers).pwr.flowStop = false := by
    exact (congrArg Power.flowStop (Dev.toldIf_pwr _ _ _ _ _ _)).trans runs
  rw [shape]
  have stopped := Dev.flowStopFx_stops before 2 i
  have hw : ((d.setSent i { d.sent i with valid := false, lost := true }).coolantTimers).hw = d.hw := (congrArg Dev.hw timers.eq :)
  refine ⟨?_, stopped.stop, hw ▸ stopped.slow, stopped.limit⟩
  rw [Dev.sent_congr (stopped.sent.trans timers.sent), Dev.sent_setSent]

/-! ### Rails (R476) -/

theorem Dev.avsReadFx_some {d : Dev} {b r : Nat} (present : ¬ (2 ≤ b ∨ 5 ≤ r ∨ (b = 0 ∧ r < 4 ∧ d.hw.dies ≤ r))) (c : Nat) : d.avsReadFx b r (some c) =
    { d with pwr := { d.pwr with railFails := FMap.set 0 d.pwr.railFails (8 * b + r) 0, railCur := FMap.set 0 d.pwr.railCur (8 * b + r) c } } := if_neg present

/-- A transaction has failed once more. -/
def Dev.railFailed (d : Dev) (k : Nat) : Dev := { d with pwr := { d.pwr with railFails := FMap.set 0 d.pwr.railFails k (FMap.get 0 d.pwr.railFails k + 1) } }

/-- The rail counts at its maximum. -/
def Dev.railAssumed (d : Dev) (k : Nat) : Dev := { d with pwr := { d.pwr with railCur := FMap.set 0 d.pwr.railCur k (Dev.avsReadFx.railMax d.hw k) } }

theorem Dev.avsReadFx_none {d : Dev} {b r : Nat} (present : ¬ (2 ≤ b ∨ 5 ≤ r ∨ (b = 0 ∧ r < 4 ∧ d.hw.dies ≤ r))) : d.avsReadFx b r none =
    (if FMap.get 0 d.pwr.railFails (8 * b + r) + 1 = 3 then ((d.railFailed (8 * b + r)).railAssumed (8 * b + r)).emit .pwr 0x0D0B 2 b r
    else d.railFailed (8 * b + r)) := if_neg present

end Sys2Proof.Machine
end

section
/-! SUPPORT. Power domains (R458–R461) and standby (R321, R322, R462): what gaining and losing power leaves of the stacks, the power manager and the
blocks' registers. -/
namespace Sys2Proof.Machine

/-- The devices agree in their stacks, in what the power manager and Nguldoel hold, and in the registers below those of queues and ports. -/
structure Dev.PowerStill (d e : Dev) : Prop where
  hw : e.hw = d.hw
  stackTbl : e.stackTbl = d.stackTbl
  pwr : e.pwr = d.pwr
  sec : e.sec = d.sec
  low (a : Nat) : a < 0x4000000 → e.reg a = d.reg a

namespace Dev.PowerStill

variable {d e : Dev}

theorem refl (d : Dev) : d.PowerStill d := ⟨rfl, rfl, rfl, rfl, fun _ _ => rfl⟩

theorem trans {f : Dev} (h : d.PowerStill e) (k : e.PowerStill f) : d.PowerStill f :=
  ⟨k.hw.trans h.hw, k.stackTbl.trans h.stackTbl, k.pwr.trans h.pwr, k.sec.trans h.sec, fun a small => (k.low a small).trans (h.low a small)⟩

theorem of_eq (hw : e.hw = d.hw) (stackTbl : e.stackTbl = d.stackTbl) (pwr : e.pwr = d.pwr) (sec : e.sec = d.sec) (regs : e.regs = d.regs) : d.PowerStill e :=
  ⟨hw, stackTbl, pwr, sec, fun a _ => Dev.reg_congr regs hw a⟩

theorem foldl {β : Type} {g : Dev → β → Dev} (h : ∀ (d : Dev) b, d.PowerStill (g d b)) : ∀ (l : List β) (d : Dev), d.PowerStill (l.foldl g d)
  | [], d => refl d
  | b :: l, d => (h d b).trans (foldl h l (g d b))

theorem safetyOnly (h : d.SafetyOnly e) : d.PowerStill e := by
  obtain ⟨h⟩ := h
  refine of_eq ?_ ?_ ?_ ?_ ?_ <;> rw [h]

theorem emit (d : Dev) (b : Block) (code sev a0 a1 : Nat) : d.PowerStill (d.emit b code sev a0 a1) := safetyOnly (d.emit_safetyOnly b code sev a0 a1)

theorem telling (h : d.Telling e) : d.PowerStill e := by
  obtain ⟨h⟩ := h
  refine of_eq ?_ ?_ ?_ ?_ ?_ <;> rw [h]

theorem setHigh (d : Dev) {k : Nat} (v : W32) (high : 0x4000000 ≤ k) : d.PowerStill (d.setReg k v) :=
  ⟨rfl, rfl, rfl, rfl, fun _ small => Dev.reg_setReg_ne _ _ (by omega)⟩

theorem setAphyNat (d : Dev) (p o v : Nat) : d.PowerStill (d.setNat (aphyKey p o) v) := setHigh d _ (by unfold aphyKey; omega)

theorem setAphy (d : Dev) (p : Nat) (x : Aphy) : d.PowerStill (d.setAphy p x) := of_eq rfl rfl rfl rfl rfl

/-! ### A port whose link drops (R370) -/

theorem hodRewind (d : Dev) (q : Nat) (p : OpenPkt) (reason : Nat) : d.PowerStill (d.hodRewind q p reason) := by
  obtain ⟨a, n, told⟩ := d.hodRewind_eq q p reason
  refine PowerStill.trans ?_ (telling told)
  obtain ⟨-, regs, hw, -⟩ := (d.hodTake q p.source).spoiled_kept a n
  have spoiled : (d.hodTake q p.source).PowerStill ((d.hodTake q p.source).spoiled a n) := by
    refine of_eq hw ?_ ?_ ?_ regs
    all_goals
      unfold Dev.spoiled
      rw [(Dev.wr_memOnly _ _ _ _).eq]
      rfl
  refine (of_eq rfl rfl rfl rfl rfl : d.PowerStill (d.hodTake q p.source)).trans (spoiled.trans ?_)
  refine PowerStill.trans (e := Dev.setHodQ _ q _) (of_eq rfl rfl rfl rfl rfl) (setHigh _ _ (k := hodKey q 0x60) ?_)
  unfold hodKey
  omega

theorem loseOpen (d : Dev) (q src : Nat) : d.PowerStill (d.loseOpen q src).1 := by
  unfold Dev.loseOpen
  split
  · next p _ =>
    have rewound := hodRewind d q p 5
    generalize d.hodRewind q p 5 = x at rewound ⊢
    exact rewound
  · exact refl d

theorem i2cEnd (d : Dev) (p result : Nat) (data : List Byte) : d.PowerStill (d.i2cEnd p result data) := by
  have shape : d.i2cEnd p result data = (d.i2cFill p (patch (d.i2cBytes p 64) 0 (data.take 64)) 16).i2cClosed p result := rfl
  rw [shape]
  generalize patch (d.i2cBytes p 64) 0 (data.take 64) = bs
  have filled : d.PowerStill (d.i2cFill p bs 16) := foldl (fun d i => setAphyNat d p (0x100 + 4 * i) (leNat ((bs.drop (4 * i)).take 4))) _ _
  generalize d.i2cFill p bs 16 = e at filled ⊢
  unfold Dev.i2cClosed
  have told := setAphyNat e p 0x44 result
  generalize e.setNat (aphyKey p 0x44) result = f at told ⊢
  exact (filled.trans told).trans (setAphy _ _ _)

theorem aphyDownFx (d : Dev) (p : Nat) (data : List Byte) : d.PowerStill (d.aphyDownFx p data) := by
  unfold Dev.aphyDownFx
  dsimp only
  split
  · exact refl d
  · refine PowerStill.trans ?_ (emit _ _ _ _ _ _)
    refine PowerStill.trans ?_ (setAphy _ _ _)
    have lost := List.foldlRecOn (motive := fun (r : Dev × Nat) => d.PowerStill r.1) (List.range 4)
      (fun x s => ((x.1.loseOpen (slotQueue (x.1.slotCfg p s)) (slotSource p s)).1, x.2 + (x.1.loseOpen (slotQueue (x.1.slotCfg p s)) (slotSource p s)).2)) (b := (d, 0))
      (refl d) fun r hr s _ => hr.trans (loseOpen _ _ _)
    split
    · exact lost.trans (i2cEnd _ _ _ _)
    · exact lost

/-! ### Domains -/

theorem setSlice_uncover (d : Dev) (p : Nat) (x : Option PavSlice) (us : List Nat) : d.PowerStill ((d.setSlice p x).uncover us) := of_eq rfl rfl rfl rfl rfl

theorem domainDown (d : Dev) (k : Nat) : (d.setDomain k false).PowerStill (d.domainDown k) := by
  unfold Dev.domainDown
  dsimp only
  generalize d.setDomain k false = e
  split
  · split
    · exact of_eq rfl rfl rfl rfl rfl
    · split
      · exact foldl (fun d p => aphyDownFx d p []) _ _
      · exact refl e
  · have places : e.PowerStill (if k % 10 = 9 then e else (domainPlaces k).foldl (fun d p => (d.setSlice p none).uncover (unitsAt p)) e) := by
      split
      · exact refl e
      · exact foldl (fun d p => setSlice_uncover d p none _) _ _
    generalize (if k % 10 = 9 then e else (domainPlaces k).foldl (fun d p => (d.setSlice p none).uncover (unitsAt p)) e) = f at places ⊢
    split
    · refine places.trans (foldl (fun d g => ?_) _ _)
      exact of_eq rfl rfl rfl rfl rfl
    · split
      · refine places.trans (foldl (fun d g => ?_) _ _)
        exact of_eq rfl rfl rfl rfl rfl
      · exact places

theorem dropContents (d : Dev) (p : Nat → Bool) (undef : Bool) : d.PowerStill (d.dropContents p undef) := of_eq rfl rfl rfl rfl rfl

theorem markTest (d : Dev) (p : Nat) (on : Bool) : d.PowerStill (d.markTest p on) := by
  unfold Dev.markTest
  split
  · refine foldl (fun d g => ?_) _ _
    exact of_eq rfl rfl rfl rfl rfl
  · split
    · exact of_eq rfl rfl rfl rfl rfl
    · exact refl d

theorem domainUp (d : Dev) (k : Nat) : (d.setDomain k true).PowerStill (d.domainUp k) := by
  unfold Dev.domainUp
  dsimp only
  generalize d.setDomain k true = e
  split
  · exact refl e
  · split
    · exact of_eq rfl rfl rfl rfl rfl
    · have cores (g : Gauge) : e.PowerStill { (clusterCores (8 * (k / 10) + k % 10)).foldl (fun d g => d.setCore g { Core.off with st := .idle }) e with gau := g } := by
        refine PowerStill.trans (e := (clusterCores (8 * (k / 10) + k % 10)).foldl (fun d g => d.setCore g { Core.off with st := .idle }) e) (foldl (fun d g => ?_) _ _) ?_
        · exact of_eq rfl rfl rfl rfl rfl
        · exact of_eq rfl rfl rfl rfl rfl
      refine PowerStill.trans ?_ (foldl (fun d p => ?_) _ _)
      · split
        · exact cores _
        · exact refl e
      · split
        · exact markTest d p true
        · exact refl d

end Dev.PowerStill
/-! ### A domain that comes up (R459) -/

theorem Dev.domainOnFx_spec {d : Dev} {k : Nat} (ramps : d.pwr.ramping.contains k = true)
    (parent : d.domainOn (if k < 40 then (if k % 10 = 9 then 40 else k / 10 * 10 + 9) else 40) = true)
    (first : ((d.pwr.ramping.filter (fun j => domainDie j == domainDie k)).take 2).contains k = true) :
    FMap.get false (d.domainOnFx k).pwr.domains k = true ∧ (∀ j, j ≠ k → FMap.get false (d.domainOnFx k).pwr.domains j = FMap.get false d.pwr.domains j) ∧
    (d.domainOnFx k).pwr.ramping = d.pwr.ramping.filter (fun j => j ≠ k) := by
  have due : ¬ (!d.pwr.ramping.contains k || !d.domainOn (if k < 40 then (if k % 10 = 9 then 40 else k / 10 * 10 + 9) else 40) ||
      !((d.pwr.ramping.filter (fun j => domainDie j == domainDie k)).take 2).contains k) = true := by
    rw [ramps, parent, first]
    decide
  have shape : d.domainOnFx k = Dev.domainUp { d with pwr := { d.pwr with ramping := d.pwr.ramping.filter (· != k) } } k := if_neg due
  rw [shape, (PowerStill.domainUp _ k).pwr]
  refine ⟨FMap.get_set_self false d.pwr.domains k true, fun j ne => FMap.get_set_ne false d.pwr.domains true ne, ?_⟩
  refine List.filter_congr fun j _ => ?_
  by_cases same : j = k <;> simp [same]

/-! ### Many domains -/

/-- Beside which domains have power, what the domains' switching leaves alone is the same. -/
structure Dev.Switched (d e : Dev) : Prop where
  still : Dev.PowerStill { d with pwr := { d.pwr with domains := e.pwr.domains } } e

namespace Dev.Switched

variable {d e f : Dev}

theorem refl (d : Dev) : d.Switched d := ⟨.refl d⟩

theorem trans (h : d.Switched e) (k : e.Switched f) : d.Switched f where
  still := ⟨k.still.hw.trans h.still.hw, k.still.stackTbl.trans h.still.stackTbl, k.still.pwr.trans (by rw [h.still.pwr]), k.still.sec.trans h.still.sec,
    fun a small => (k.still.low a small).trans (h.still.low a small)⟩

theorem of_still {k : Nat} {on : Bool} (h : (d.setDomain k on).PowerStill e) : d.Switched e where
  still := by
    have same : e.pwr.domains = FMap.set false d.pwr.domains k on := congrArg Power.domains h.pwr
    rw [same]
    exact h

theorem foldl {g : Dev → Nat → Dev} (h : ∀ (d : Dev) k, d.Switched (g d k)) : ∀ (l : List Nat) (d : Dev), d.Switched (l.foldl g d)
  | [], d => refl d
  | k :: l, d => (h d k).trans (foldl h l (g d k))

theorem allDown : ∀ (l : List Nat) (d : Dev), d.Switched (l.foldl Dev.domainDown d) := foldl fun d k => of_still (PowerStill.domainDown d k)

theorem allUp : ∀ (l : List Nat) (d : Dev), d.Switched (l.foldl Dev.domainUp d) := foldl fun d k => of_still (PowerStill.domainUp d k)

end Dev.Switched

theorem Dev.domainDown_domains (d : Dev) (k : Nat) : (d.domainDown k).pwr.domains = FMap.set false d.pwr.domains k false := congrArg Power.domains (PowerStill.domainDown d k).pwr

/-- Each domain of a list has lost its power, and one without power has gained none. -/
theorem Dev.allDown_off {k : Nat} : ∀ (l : List Nat) (d : Dev), k ∈ l ∨ FMap.get false d.pwr.domains k = false →
    FMap.get false (l.foldl Dev.domainDown d).pwr.domains k = false
  | [], d, h => h.elim (fun mem => absurd mem List.not_mem_nil) id
  | j :: l, d, h => by
    refine allDown_off l (d.domainDown j) ?_
    rw [Dev.domainDown_domains]
    by_cases same : k = j
    · rw [same]
      exact .inr (FMap.get_set_self ..)
    · rw [FMap.get_set_ne _ _ _ same]
      exact h.imp_left fun mem => (List.mem_cons.1 mem).resolve_left same

/-! ### Stacks, one after another -/

/-- Only the stack is another, of what the stacks' switching reads. -/
structure Dev.StackOnly (d e : Dev) (s : Nat) : Prop where
  hw : e.hw = d.hw
  pwr : e.pwr = d.pwr
  regs : e.regs = d.regs
  others (t : Nat) : t ≠ s → e.stack t = d.stack t

/-- Each of the first stacks is as its own step leaves it; the rest are as they were. -/
theorem Dev.foldl_stacks {g : Dev → Nat → Dev} (one : ∀ (d : Dev) s, d.StackOnly (g d s) s) (d : Dev) : ∀ n,
    ((List.range n).foldl g d).hw = d.hw ∧ ((List.range n).foldl g d).pwr = d.pwr ∧ ((List.range n).foldl g d).regs = d.regs ∧
    (∀ t, n ≤ t → ((List.range n).foldl g d).stack t = d.stack t) ∧
    ∀ t, t < n → ∃ e : Dev, e.hw = d.hw ∧ e.regs = d.regs ∧ e.stack t = d.stack t ∧ ((List.range n).foldl g d).stack t = (g e t).stack t
  | 0 => ⟨rfl, rfl, rfl, fun _ _ => rfl, fun t none => absurd none (Nat.not_lt_zero t)⟩
  | n + 1 => by
    obtain ⟨hw, pwr, regs, rest, done⟩ := foldl_stacks one d n
    rw [List.range_succ, List.foldl_append, List.foldl_cons, List.foldl_nil]
    have step := one ((List.range n).foldl g d) n
    refine ⟨step.hw.trans hw, step.pwr.trans pwr, step.regs.trans regs, fun t after => ?_, fun t before => ?_⟩
    · rw [step.others t (by omega), rest t (by omega)]
    · by_cases last : t = n
      · subst last
        exact ⟨_, hw, regs, rest t le_rfl, rfl⟩
      · obtain ⟨e, hw', regs', same, left⟩ := done t (by omega)
        exact ⟨e, hw', regs', same, (step.others t last).trans left⟩

theorem Dev.stack_setStack (d : Dev) (s : Nat) (x : Stack) : (d.setStack s x).stack s = x := FMap.get_set_self Stack.reset d.stackTbl s x

theorem Dev.stack_setStack_ne (d : Dev) {s t : Nat} (x : Stack) (ne : t ≠ s) : (d.setStack s x).stack t = d.stack t := FMap.get_set_ne Stack.reset d.stackTbl x ne

theorem Dev.stack_congr {d e : Dev} (h : e.stackTbl = d.stackTbl) (s : Nat) : e.stack s = d.stack s := by rw [Dev.stack, h]; rfl

theorem Dev.StackOnly.setStack (d : Dev) (s : Nat) (x : Stack) : d.StackOnly (d.setStack s x) s := ⟨rfl, rfl, rfl, fun _ ne => d.stack_setStack_ne x ne⟩

theorem Dev.StackOnly.trans {d e f : Dev} {s : Nat} (h : d.StackOnly e s) (k : e.StackOnly f s) : d.StackOnly f s :=
  ⟨k.hw.trans h.hw, k.pwr.trans h.pwr, k.regs.trans h.regs, fun t ne => (k.others t ne).trans (h.others t ne)⟩

theorem Dev.emit_stackTbl (d : Dev) (b : Block) (code sev a0 a1 : Nat) : (d.emit b code sev a0 a1).stackTbl = d.stackTbl := (PowerStill.emit d b code sev a0 a1).stackTbl

theorem Dev.StackOnly.emit (d : Dev) (s : Nat) (b : Block) (code sev a0 a1 : Nat) : d.StackOnly (d.emit b code sev a0 a1) s := by
  obtain ⟨_, _, told⟩ := d.emit_eq b code sev a0 a1
  rw [told]
  exact ⟨rfl, rfl, rfl, fun _ _ => rfl⟩

/-! ### Self-refresh (R322, R338) -/

/-- The layers that standby powers down. -/
def Dev.layersDown (d : Dev) (s : Nat) : Nat := 255 - d.rf (SMC_PASR_KEEP (s / 2) (s % 2)) 7 0

/-- A running migration ends. -/
def Dev.migrationEnded (d : Dev) (s : Nat) : Dev :=
  if (d.stack s).spare = .migrating then
    (d.setStack s { d.stack s with mig := 524288, spare := .inUse, layers := (d.stack s).layers.set (d.stack s).spareLayer .spared }).emit (smcOf s) 0x0704 1
      (d.stack s).spareLayer ((d.ticks - (d.stack s).migStart) / 400)
  else d

theorem Dev.migrationEnded_only (d : Dev) (s : Nat) : d.StackOnly (d.migrationEnded s) s := by
  unfold Dev.migrationEnded
  split
  · exact (StackOnly.setStack _ _ _).trans (.emit _ _ _ _ _ _ _)
  · exact ⟨rfl, rfl, rfl, fun _ _ => rfl⟩

theorem Dev.migrationEnded_spare {d : Dev} {s : Nat} (runs : (d.stack s).spare = .migrating) : ((d.migrationEnded s).stack s).spare = .inUse := by
  unfold Dev.migrationEnded
  rw [if_pos runs, Dev.stack_congr (Dev.emit_stackTbl _ _ _ _ _ _), Dev.stack_setStack]

theorem Dev.selfRefresh_eq (d : Dev) (s : Nat) : d.selfRefresh s = (d.migrationEnded s).setStack s { (d.migrationEnded s).stack s with selfRefresh := true, down := d.layersDown s } := rfl

theorem Dev.selfRefresh_only (d : Dev) (s : Nat) : d.StackOnly (d.selfRefresh s) s := by
  rw [Dev.selfRefresh_eq]
  exact (d.migrationEnded_only s).trans (.setStack _ _ _)

theorem Dev.stackBack_eq (d : Dev) (s : Nat) : ∃ e : Dev, e.hw = d.hw ∧ e.regs = d.regs ∧ e.pwr = d.pwr ∧ e.stackTbl = d.stackTbl ∧
    (d.stackBack s = e.setStack s { d.stack s with selfRefresh := false, lost := (d.stack s).down, down := 0 } ∨ ∃ a0 a1 c,
      d.stackBack s = Dev.emit { e.setStack s { d.stack s with selfRefresh := false, lost := (d.stack s).down, down := 0 } with freeCtr := c } (smcOf s) 0x0709 1 a0 a1) := by
  refine ⟨d.dropContents (fun k => k / 8 == s && bitOf (d.stack s).down (k % 8)) false, rfl, rfl, rfl, rfl, ?_⟩
  unfold Dev.stackBack
  dsimp only
  split
  · exact .inl rfl
  · exact .inr ⟨_, _, _, rfl⟩

theorem Dev.stackBack_spec (d : Dev) (s : Nat) : d.StackOnly (d.stackBack s) s ∧
    (d.stackBack s).stack s = { d.stack s with selfRefresh := false, lost := (d.stack s).down, down := 0 } := by
  obtain ⟨e, hw, regs, pwr, table, shape⟩ := d.stackBack_eq s
  have start : d.StackOnly e s := ⟨hw, pwr, regs, fun t _ => Dev.stack_congr table t⟩
  have set := start.trans (.setStack e s { d.stack s with selfRefresh := false, lost := (d.stack s).down, down := 0 })
  rcases shape with shape | ⟨a0, a1, c, shape⟩
  · rw [shape]
    exact ⟨set, Dev.stack_setStack _ _ _⟩
  · rw [shape]
    have here := Dev.stack_setStack e s { d.stack s with selfRefresh := false, lost := (d.stack s).down, down := 0 }
    generalize e.setStack s { d.stack s with selfRefresh := false, lost := (d.stack s).down, down := 0 } = f at set here ⊢
    have drawn : f.StackOnly { f with freeCtr := c } s := ⟨rfl, rfl, rfl, fun _ _ => rfl⟩
    refine ⟨(set.trans drawn).trans (.emit _ _ _ _ _ _ _), ?_⟩
    rw [Dev.stack_congr (Dev.emit_stackTbl _ _ _ _ _ _)]
    exact here

/-! ### ENTER and LEAVE (R462) -/

/-- The domains that standby takes down. -/
def Hw.standbyDomains (h : Hw) : List Nat := List.range (10 * h.dies) ++ [42, 44]

/-- The stacks are in self-refresh. -/
structure Dev.StandbyEntered (d x : Dev) : Prop where
  standby : x.pwr.standby = true
  ramping : x.pwr.ramping = []
  off (k : Nat) : k < 10 * d.hw.dies → FMap.get false x.pwr.domains k = false
  refresh (t : Nat) : t < 2 * d.hw.dies → (x.stack t).selfRefresh = true ∧ (x.stack t).down = 255 - d.rf (SMC_PASR_KEEP (t / 2) (t % 2)) 7 0 ∧
    ((d.stack t).spare = .migrating → (x.stack t).spare = .inUse)

/-- The domains are down, and the stacks about to follow. -/
def Dev.standbyDown (d : Dev) : Dev :=
  { d.hw.standbyDomains.foldl Dev.domainDown d with
    tags := [], shadow := [], pwr := { (d.hw.standbyDomains.foldl Dev.domainDown d).pwr with standby := true, ramping := [] } }

/-- What is in no stack is lost, and standby told. -/
def Dev.standbyTold (d : Dev) : Dev :=
  let r := ((d.dropContents (fun k => decide (64 ≤ k)) true).charge 3).draw
  r.2.emit .pwr 0x0D0A 0 1 (r.1.toNat % 2 ^ 32)

theorem Dev.standbyTold_still (d : Dev) : d.PowerStill d.standbyTold := by
  unfold Dev.standbyTold
  have lost : d.PowerStill _ := (PowerStill.dropContents d (fun k => decide (64 ≤ k)) true).trans (.safetyOnly (Dev.charge_safetyOnly _ 3))
  generalize (d.dropContents (fun k => decide (64 ≤ k)) true).charge 3 = e at lost ⊢
  exact (lost.trans (f := e.draw.2) (.of_eq rfl rfl rfl rfl rfl)).trans (.emit _ _ _ _ _ _)

theorem Dev.standbyEnterFx_eq {d : Dev} (out : d.pwr.standby = false) (idle : d.jfe.quad = none) (free : d.ctxList = []) :
    d.standbyEnterFx = ((List.range (2 * d.hw.dies)).foldl Dev.selfRefresh d.standbyDown).standbyTold := by
  unfold Dev.standbyEnterFx
  rw [out, idle, free]
  rfl

theorem SMC_PASR_KEEP_low {t n : Nat} (known : t < 2 * n) (dies : n ≤ 4) : SMC_PASR_KEEP (t / 2) (t % 2) < 0x4000000 := by
  unfold SMC_PASR_KEEP dieSlot
  omega

theorem Dev.standbyEnterFx_enters {d : Dev} (out : d.pwr.standby = false) (idle : d.jfe.quad = none) (free : d.ctxList = []) : d.StandbyEntered d.standbyEnterFx := by
  rw [Dev.standbyEnterFx_eq out idle free]
  have switched := (Switched.allDown d.hw.standbyDomains d).still
  have off (k : Nat) (gated : k < 10 * d.hw.dies) : FMap.get false (d.hw.standbyDomains.foldl Dev.domainDown d).pwr.domains k = false :=
    Dev.allDown_off _ d (.inl (List.mem_append_left _ (List.mem_range.2 gated)))
  have down : d.standbyDown.hw = d.hw ∧ d.standbyDown.stackTbl = d.stackTbl ∧ (∀ a, a < 0x4000000 → d.standbyDown.reg a = d.reg a) :=
    ⟨switched.hw, switched.stackTbl, fun a small => switched.low a small⟩
  have held : d.standbyDown.pwr = { (d.hw.standbyDomains.foldl Dev.domainDown d).pwr with standby := true, ramping := [] } := rfl
  generalize d.hw.standbyDomains.foldl Dev.domainDown d = e at off held
  generalize d.standbyDown = f at down held ⊢
  obtain ⟨hw, stackTbl, low⟩ := down
  obtain ⟨-, pwr, -, -, done⟩ := Dev.foldl_stacks Dev.selfRefresh_only f (2 * d.hw.dies)
  generalize (List.range (2 * d.hw.dies)).foldl Dev.selfRefresh f = g at pwr done ⊢
  have told := g.standbyTold_still
  generalize g.standbyTold = x at told ⊢
  have same : x.pwr = { e.pwr with standby := true, ramping := [] } := told.pwr.trans (pwr.trans held)
  refine ⟨by rw [same], by rw [same], fun k gated => ?_, fun t known => ?_⟩
  · rw [same]
    exact off k gated
  · obtain ⟨m, hw', regs', before, after⟩ := done t known
    have keep : m.rf (SMC_PASR_KEEP (t / 2) (t % 2)) 7 0 = d.rf (SMC_PASR_KEEP (t / 2) (t % 2)) 7 0 := by
      rw [Dev.rf, Dev.rn, Dev.reg_congr regs' hw', low _ (SMC_PASR_KEEP_low known d.hw.dies_le)]
      rfl
    have start : m.stack t = d.stack t := before.trans (Dev.stack_congr stackTbl t)
    rw [Dev.stack_congr told.stackTbl, after, Dev.selfRefresh_eq, Dev.stack_setStack]
    exact ⟨rfl, congrArg (255 - ·) keep, fun runs => Dev.migrationEnded_spare (start ▸ runs)⟩

/-- R462: standby is refused under a Quadrille or a context. -/
theorem Dev.standbyEnterFx_refused {d : Dev} (out : d.pwr.standby = false) (busy : d.jfe.quad ≠ none ∨ d.ctxList ≠ []) :
    d.standbyEnterFx = d.emit .pwr 0x0D09 1 (if d.jfe.quad = none then 2 else 1) 0 := by
  unfold Dev.standbyEnterFx
  rw [out, if_neg (by decide : ¬ false = true)]
  cases quad : d.jfe.quad with
  | some q => rfl
  | none =>
    have ctx : (!d.ctxList.isEmpty) = true := by
      rcases busy with busy | busy
      · exact absurd quad busy
      · cases h : d.ctxList with
        | nil => exact absurd h busy
        | cons x l => rfl
    rw [ctx]
    rfl

theorem Dev.resyncLost_still (d : Dev) (lost : Nat → Bool) : d.PowerStill (d.resyncLost lost) := by
  unfold Dev.resyncLost
  refine .foldl (fun d e => ?_) _ _
  dsimp only
  split
  · split
    · exact .refl d
    · exact .of_eq rfl rfl rfl rfl rfl
  · exact .refl d

/-- The domains that LEAVE powers again. -/
def Dev.standbyUp (d : Dev) : Dev :=
  ((List.range (10 * d.hw.dies)).filter (fun k => !(d.diePower (k / 10)).shut && (k % 10 == 9 || !d.domainFenced k)) ++ [42, 44]).foldl Dev.domainUp
    { d with pwr := { d.pwr with standby := false } }

/-- Mirrors resync, and the end of standby is told. -/
def Dev.standbyLeft (d : Dev) (lost : Nat → Bool) : Dev :=
  let r := (d.resyncLost lost).settleLoss.draw
  r.2.emit .pwr 0x0D0A 0 0 (r.1.toNat % 2 ^ 32)

theorem Dev.standbyLeft_still (d : Dev) (lost : Nat → Bool) : d.PowerStill (d.standbyLeft lost) := by
  unfold Dev.standbyLeft
  have settled : d.PowerStill (d.resyncLost lost).settleLoss := by
    refine (d.resyncLost_still lost).trans ?_
    unfold Dev.settleLoss
    split
    · exact .refl _
    · exact .of_eq rfl rfl rfl rfl rfl
  generalize (d.resyncLost lost).settleLoss = e at settled ⊢
  exact (settled.trans (f := e.draw.2) (.of_eq rfl rfl rfl rfl rfl)).trans (.emit _ _ _ _ _ _)

theorem Dev.standbyLeaveFx_eq {d : Dev} (on : d.pwr.standby = true) : ∃ lost,
    d.standbyLeaveFx = ((List.range (2 * d.hw.dies)).foldl Dev.stackBack d.standbyUp).standbyLeft lost := by
  refine ⟨fun k => bitOf (d.stack (k / 8)).down (k % 8), ?_⟩
  unfold Dev.standbyLeaveFx
  rw [on]
  rfl

theorem Dev.standbyLeaveFx_leaves {d : Dev} (on : d.pwr.standby = true) : d.standbyLeaveFx.pwr.standby = false ∧ ∀ t, t < 2 * d.hw.dies →
    (d.standbyLeaveFx.stack t).selfRefresh = false ∧ (d.standbyLeaveFx.stack t).lost = (d.stack t).down ∧ (d.standbyLeaveFx.stack t).down = 0 := by
  obtain ⟨lost, shape⟩ := Dev.standbyLeaveFx_eq on
  rw [shape]
  have switched : Dev.Switched _ d.standbyUp := Switched.allUp _ _
  have still := switched.still
  have standby : d.standbyUp.pwr.standby = false := by rw [still.pwr]
  have stackTbl : d.standbyUp.stackTbl = d.stackTbl := still.stackTbl
  clear switched still
  generalize d.standbyUp = f at standby stackTbl ⊢
  obtain ⟨-, pwr, -, -, done⟩ := Dev.foldl_stacks (fun d s => (d.stackBack_spec s).1) f (2 * d.hw.dies)
  generalize (List.range (2 * d.hw.dies)).foldl Dev.stackBack f = g at pwr done ⊢
  have told := g.standbyLeft_still lost
  generalize g.standbyLeft lost = x at told ⊢
  refine ⟨(congrArg Power.standby (told.pwr.trans pwr)).trans standby, fun t known => ?_⟩
  obtain ⟨m, -, -, before, after⟩ := done t known
  rw [Dev.stack_congr told.stackTbl, after, (m.stackBack_spec t).2, before, Dev.stack_congr stackTbl]
  exact ⟨rfl, rfl, rfl⟩

/-! ### What a fence of a unit changes (R417, R418) -/

/-- Beside the fences, the Quoins' own state and the records that wait, the devices are the same. -/
structure Dev.FenceOnly (d e : Dev) : Prop where
  eq : e = { d with qn := { d.qn with a := e.qn.a, b := e.qn.b, loss := e.qn.loss }, jfe := { d.jfe with ev := e.jfe.ev, evSeq := e.jfe.evSeq },
                    fences := e.fences, newFences := e.newFences }

namespace Dev.FenceOnly

variable {d e : Dev}

theorem refl (d : Dev) : d.FenceOnly d := ⟨rfl⟩

theorem trans {f : Dev} (h : d.FenceOnly e) (k : e.FenceOnly f) : d.FenceOnly f := by
  obtain ⟨h⟩ := h
  obtain ⟨k⟩ := k
  constructor
  rw [k, h]

theorem told (h : d.Told e) : d.FenceOnly e := by
  obtain ⟨h⟩ := h
  constructor
  rw [h]

theorem setFence (d : Dev) (u : Nat) : d.FenceOnly (d.setFence u) := by
  unfold Dev.setFence
  split
  · exact refl d
  · exact ⟨rfl⟩

theorem declareFence (d : Dev) (q u cause : Nat) : d.FenceOnly (d.declareFence q u cause) := by
  unfold Dev.declareFence
  dsimp only
  split
  · exact refl d
  · exact (((told (Dev.setQuoin_told _ _ _)).trans (told (Dev.emit_told _ _ _ _ _ _))).trans (setFence _ u)).trans (told (Dev.statusMsg_told _ q))

theorem declareBoth (d : Dev) (u cause : Nat) : d.FenceOnly (d.declareBoth u cause) := (declareFence d 0 u cause).trans (declareFence _ 1 u cause)

theorem still (h : d.FenceOnly e) : d.PowerStill e := by
  obtain ⟨h⟩ := h
  refine .of_eq ?_ ?_ ?_ ?_ ?_ <;> rw [h]

end Dev.FenceOnly

/-! ### Thermal sensors (R464, R465) -/

theorem Dev.sensor_congr {d e : Dev} (h : e.pwr.sensors = d.pwr.sensors) (n p s : Nat) : e.sensor n p s = d.sensor n p s := by rw [Dev.sensor, h]; rfl

theorem Dev.sensor_setSensor (d : Dev) (n p s : Nat) (x : Sensor) : (d.setSensor n p s x).sensor n p s = x := FMap.get_set_self Sensor.reset d.pwr.sensors _ x

theorem Dev.emit_pwr (d : Dev) (b : Block) (code sev a0 a1 : Nat) : (d.emit b code sev a0 a1).pwr = d.pwr := (PowerStill.emit d b code sev a0 a1).pwr

theorem Dev.emit_ticks (d : Dev) (b : Block) (code sev a0 a1 : Nat) : (d.emit b code sev a0 a1).ticks = d.ticks := by
  obtain ⟨_, _, told⟩ := d.emit_eq b code sev a0 a1
  rw [told]

/-- A sensor that has given a sample just now is as it was, and it is still now. -/
structure Dev.SensorHeld (d e : Dev) (n p s : Nat) : Prop where
  ticks : e.ticks = d.ticks
  held : (d.sensor n p s).lastTick = d.ticks → e.sensor n p s = d.sensor n p s

namespace Dev.SensorHeld

variable {d e : Dev} {n p s : Nat}

theorem refl (d : Dev) : d.SensorHeld d n p s := ⟨rfl, fun _ => rfl⟩

theorem trans {f : Dev} (h : d.SensorHeld e n p s) (k : e.SensorHeld f n p s) : d.SensorHeld f n p s where
  ticks := k.ticks.trans h.ticks
  held now := by
    have same := h.held now
    exact (k.held (by rw [same, now, h.ticks])).trans same

theorem foldl {g : Dev → Nat → Dev} (h : ∀ (d : Dev) b, d.SensorHeld (g d b) n p s) : ∀ (l : List Nat) (d : Dev), d.SensorHeld (l.foldl g d) n p s
  | [], d => refl d
  | b :: l, d => (h d b).trans (foldl h l (g d b))

theorem senseLoss (d : Dev) (m q r : Nat) : d.SensorHeld (d.senseLoss m q r) n p s := by
  unfold Dev.senseLoss
  dsimp only
  split
  · exact refl d
  · next silent =>
    have old : (d.sensor m q r).lastTick + ticksMs 10 ≤ d.ticks := by
      rw [not_or] at silent
      omega
    refine ⟨Dev.emit_ticks _ _ _ _ _ _, fun now => ?_⟩
    rw [Dev.sensor_congr (congrArg Power.sensors (Dev.emit_pwr _ _ _ _ _ _))]
    refine FMap.get_set_ne Sensor.reset d.pwr.sensors _ fun same => ?_
    have one : d.sensor n p s = d.sensor m q r := by rw [Dev.sensor, same]; rfl
    rw [one] at now
    unfold ticksMs at old
    omega

end Dev.SensorHeld

/-! ### What sees the sensors, and changes none -/

/-- No sensor is another. -/
def Dev.SensorsSame (d e : Dev) : Prop := e.pwr.sensors = d.pwr.sensors

namespace Dev.SensorsSame

variable {d e : Dev}

theorem refl (d : Dev) : d.SensorsSame d := rfl

theorem trans {f : Dev} (h : d.SensorsSame e) (k : e.SensorsSame f) : d.SensorsSame f := Eq.trans k h

theorem foldl {g : Dev → Nat → Dev} (h : ∀ (d : Dev) b, d.SensorsSame (g d b)) : ∀ (l : List Nat) (d : Dev), d.SensorsSame (l.foldl g d)
  | [], d => refl d
  | b :: l, d => (h d b).trans (foldl h l (g d b))

theorem still (h : d.PowerStill e) : d.SensorsSame e := congrArg Power.sensors h.pwr

theorem emit (d : Dev) (b : Block) (code sev a0 a1 : Nat) : d.SensorsSame (d.emit b code sev a0 a1) := still (.emit ..)

theorem pairStep (d : Dev) (n p : Nat) : d.SensorsSame (d.pairStep n p) := by
  unfold Dev.pairStep
  dsimp only
  split
  · split
    · rfl
    · split
      · exact trans rfl (emit _ _ _ _ _ _)
      · rfl
  · rfl

theorem domainDown (d : Dev) (k : Nat) : d.SensorsSame (d.domainDown k) := trans (e := d.setDomain k false) rfl (still (PowerStill.domainDown d k))

theorem shutDown (d : Dev) (n : Nat) : d.SensorsSame (d.shutDown n) := by
  unfold Dev.shutDown
  dsimp only
  refine trans ?_ (still (FenceOnly.declareBoth _ _ _).still)
  refine trans (trans rfl (emit (d.setDiePower n { d.diePower n with shut := true }) .pwr 0x0D07 3 n (wrap 16 (d.diePower n).junction))) ?_
  generalize Dev.emit _ _ _ _ _ _ = e
  have down : e.SensorsSame ((List.range 10).foldl (fun d r => d.domainDown (10 * n + r)) e) :=
    foldl (fun d r => domainDown d (10 * n + r)) _ _
  exact down

theorem shutIf (h : d.SensorsSame e) {q : Prop} [Decidable q] (n : Nat) : d.SensorsSame (if q then e.shutDown n else e) := by
  split
  · exact h.trans (shutDown e n)
  · exact h

theorem zoned (d : Dev) (n : Nat) (x : DiePower) {q : Prop} [Decidable q] :
    d.SensorsSame (if q then (d.setDiePower n x).shutDown n else d.setDiePower n x) := shutIf (e := d.setDiePower n x) rfl n

theorem dieThermal (d : Dev) (n : Nat) : d.SensorsSame (d.dieThermal n) := by
  unfold Dev.dieThermal
  split
  · rfl
  · exact zoned d n _

theorem throttled (h : d.Throttled e) : d.SensorsSame e := by
  obtain ⟨eq, -, -⟩ := h
  exact (congrArg (·.pwr.sensors) eq :)

end Dev.SensorsSame

/-- A sample alone: the loss of sensors is seen next, then the pairs and the zones. -/
theorem Dev.thermalFx_one {d : Dev} {n p c : Nat} {v : Int} (die : n ∈ powerDies d.hw) (pair : p < pairsOf n) (one : c < 2) :
    ∃ e : Dev, (d.sample n p c v).SensorHeld e n p c ∧ e.SensorsSame (d.thermalFx [(n, p, c, v)]) := by
  have here : ([(n, p, c, v)] : List (Nat × Nat × Nat × Int)).filter (fun s => (powerDies d.hw).contains s.1 && decide (s.2.1 < pairsOf s.1) && decide (s.2.2.1 < 2)) = [(n, p, c, v)] := by
    have two : c ≤ 1 := by omega
    simp [die, pair, two]
  unfold Dev.thermalFx
  dsimp only
  rw [here, List.foldl_cons, List.foldl_nil]
  refine ⟨(powerDies d.hw).foldl (fun d n => (List.range (pairsOf n)).foldl (fun d p => (d.senseLoss n p 0).senseLoss n p 1) d) (d.sample n p c v), ?held, ?same⟩
  case held => exact SensorHeld.foldl (fun d m => SensorHeld.foldl (fun d q => (SensorHeld.senseLoss d m q 0).trans (SensorHeld.senseLoss _ m q 1)) _ _) (powerDies d.hw) _
  refine .trans ?_ (.still (.safetyOnly (Dev.thermalCheck_safetyOnly _)))
  refine .trans ?_ (.throttled (Throttled.applyStates _))
  refine .trans ?_ (.foldl SensorsSame.dieThermal _ _)
  exact SensorsSame.trans (.foldl (fun d m => .foldl (fun d q => SensorsSame.pairStep d m q) _ _) (powerDies d.hw) _) rfl

/-- R464: a sample in range, near enough to the last, is taken. -/
theorem Dev.sample_taken {d : Dev} {n p c : Nat} {v : Int} (low : -640 ≤ v) (high : v ≤ 2400)
    (near : ∀ l, (d.sensor n p c).last = some l → (v - l).natAbs * 400000000 ≤ 800 * (d.ticks - (d.sensor n p c).lastTick) + 16 * 400000000) :
    (d.sample n p c v).ticks = d.ticks ∧ ∃ run, run = (if (d.sensor n p c).lost then (d.sensor n p c).run + 1 else 0) ∧ (d.sample n p c v).sensor n p c =
      { last := some v, lastTick := d.ticks, lost := (d.sensor n p c).lost && decide (run < 100), run := if 100 ≤ run then 0 else run } := by
  obtain ⟨r, run⟩ : ∃ r, r = (if (d.sensor n p c).lost then (d.sensor n p c).run + 1 else 0) := ⟨_, rfl⟩
  have taken : d.sample n p c v =
      d.setSensor n p c { last := some v, lastTick := d.ticks, lost := (d.sensor n p c).lost && decide (r < 100), run := if 100 ≤ r then 0 else r } := by
    rw [run]
    unfold Dev.sample
    dsimp only
    refine if_neg ?_
    rw [not_or, not_or]
    refine ⟨by omega, by omega, ?_⟩
    cases last : (d.sensor n p c).last with
    | none => simp
    | some l => simpa using near l last
  rw [taken]
  exact ⟨rfl, r, run, Dev.sensor_setSensor ..⟩

theorem Dev.writeReg_standby {d : Dev} {w : Writer} {v : W32} (serves : d.serves .pwr = true) : d.writeReg w PWR_STANDBY_CMD v = d.standbyCmd v.toNat :=
  Dev.writeReg_through (b := .pwr) (o := 0x30) (r := ⟨0x30, 0x4, 1, .wo, 0x0, 0x3⟩) serves rfl (by decide) (by decide) (by decide) (.inr rfl)

theorem Dev.powerStepFx_powers (d : Dev) (ps : List Nat) : (∀ n, n < d.hw.dies → ((d.powerStepFx ps).diePower n).power = ps.getD n 0) ∧
    ((d.powerStepFx ps).diePower 4).power = ps.getD d.hw.dies 0 := by
  obtain ⟨powers, -⟩ := d.powerStepFx_spec ps
  have course (n : Nat) (lt : n < d.hw.dies) : d.hw.powerPlace n = n := if_neg (Nat.ne_of_lt lt)
  have last : d.hw.powerPlace d.hw.dies = 4 := if_pos rfl
  have keystone := powers d.hw.dies (Nat.lt_succ_self _)
  rw [last] at keystone
  refine ⟨fun n lt => ?_, keystone⟩
  have own := powers n (Nat.lt_succ_of_lt lt)
  rwa [course n lt] at own

theorem Dev.standbyCmd_enter (d : Dev) : d.standbyCmd (1 : W32).toNat = d.standbyEnterFx := rfl

theorem Dev.standbyCmd_leave (d : Dev) : d.standbyCmd (2 : W32).toNat = d.standbyLeaveFx := rfl

/-- A record changes the record queue alone, and joins it at its end. -/
theorem Dev.emit_noted (d : Dev) (b : Block) (code sev a0 a1 : Nat) : d.emit b code sev a0 a1 = { d with jfe := (d.emit b code sev a0 a1).jfe } ∧
    (d.keystoneUp = true → ∃ e : Event, (d.emit b code sev a0 a1).jfe.ev = d.jfe.ev ++ [e] ∧ e.code = BitVec.ofNat 16 code ∧ e.arg0 = BitVec.ofNat 32 a0) := by
  constructor
  · obtain ⟨_, _, told⟩ := d.emit_eq b code sev a0 a1
    rw [told]
  · intro up
    unfold Dev.emit
    rw [if_pos up]
    exact ⟨_, rfl, rfl, rfl⟩

/-- The rail is one of the part's. -/
theorem avsPresent {h : Hw} {b r : Nat} (bus : b < 2) (rail : r < 5) (course : b = 0 → r < 4 → r < h.dies) : ¬ (2 ≤ b ∨ 5 ≤ r ∨ (b = 0 ∧ r < 4 ∧ h.dies ≤ r)) := by omega

section
variable {d : Dev} {b r : Nat} (present : ¬ (2 ≤ b ∨ 5 ≤ r ∨ (b = 0 ∧ r < 4 ∧ d.hw.dies ≤ r)))
include present

theorem Dev.avsReadFx_read (c : Nat) : FMap.get 0 (d.avsReadFx b r (some c)).pwr.railCur (8 * b + r) = c ∧
    FMap.get 0 (d.avsReadFx b r (some c)).pwr.railFails (8 * b + r) = 0 ∧
    (∀ j, j ≠ 8 * b + r → FMap.get 0 (d.avsReadFx b r (some c)).pwr.railCur j = FMap.get 0 d.pwr.railCur j) ∧ d.avsReadFx b r (some c) =
      { d with pwr := { d.pwr with railFails := (d.avsReadFx b r (some c)).pwr.railFails, railCur := (d.avsReadFx b r (some c)).pwr.railCur } } := by
  rw [Dev.avsReadFx_some present]
  exact ⟨FMap.get_set_self 0 d.pwr.railCur _ c, FMap.get_set_self 0 d.pwr.railFails _ 0, fun j ne => FMap.get_set_ne 0 d.pwr.railCur c ne, rfl⟩

theorem Dev.avsReadFx_fails (early : FMap.get 0 d.pwr.railFails (8 * b + r) ≠ 2) :
    FMap.get 0 (d.avsReadFx b r none).pwr.railFails (8 * b + r) = FMap.get 0 d.pwr.railFails (8 * b + r) + 1 ∧
    d.avsReadFx b r none = { d with pwr := { d.pwr with railFails := (d.avsReadFx b r none).pwr.railFails } } := by
  rw [(Dev.avsReadFx_none present).trans (if_neg (by omega))]
  exact ⟨FMap.get_set_self 0 d.pwr.railFails (8 * b + r) (FMap.get 0 d.pwr.railFails (8 * b + r) + 1), rfl⟩

theorem Dev.avsReadFx_gone (third : FMap.get 0 d.pwr.railFails (8 * b + r) = 2) :
    FMap.get 0 (d.avsReadFx b r none).pwr.railCur (8 * b + r) = Dev.avsReadFx.railMax d.hw (8 * b + r) ∧
    (d.keystoneUp = true → ∃ e : Event, (d.avsReadFx b r none).jfe.ev = d.jfe.ev ++ [e] ∧ e.code = 0x0D0B) := by
  rw [(Dev.avsReadFx_none present).trans (if_pos (by omega))]
  refine ⟨?_, fun up => ?_⟩
  · rw [Dev.emit_pwr]
    exact FMap.get_set_self 0 d.pwr.railCur (8 * b + r) (Dev.avsReadFx.railMax d.hw (8 * b + r))
  · obtain ⟨e, ev, code, -⟩ := (Dev.emit_noted ((d.railFailed (8 * b + r)).railAssumed (8 * b + r)) .pwr 0x0D0B 2 b r).2 up
    exact ⟨e, ev, code⟩

end

theorem Dev.bump_spec (d : Dev) (k : Nat) : (d.bump k 1).rn k = min (d.rn k + 1) 0xFFFFFFFF ∧ (∀ j, j ≠ k → (d.bump k 1).reg j = d.reg j) ∧
    d.bump k 1 = { d with regs := (d.bump k 1).regs } := ⟨Dev.reg_bump d k 1, fun _ ne => Dev.reg_bump_ne d 1 ne, rfl⟩

/-- Settles O52: each command is what its part of the power manager does on a fresh step; the stop of the flow, the switching of domains and the samples
each leave what the others hold. -/
theorem powerResults : Obligations.PowerResults := by
  unfold Obligations.PowerResults
  dsimp only
  intro s
  refine ⟨fun ps => ?step, fun n t present raising => ?raise, fun k present ramps parent first => ?domain, fun w serves => ⟨fun out idle free => ?enter,
    fun out busy => ?refuse, fun on => ?leave⟩, fun n p c v die pair one low high near => ?sample,
    fun i status raw known on => ⟨fun fine some_ high => ?frame, fun c t bad => ?bad, fun held late runs => ?lost⟩,
    fun b r k bus rail course key => ⟨fun c => ?read, fun early => ?fails, fun third => ?gone⟩⟩
  case step =>
    obtain ⟨-, package, limit, cores⟩ := s.dev.fresh.powerStepFx_spec ps
    obtain ⟨course, keystone⟩ := s.dev.fresh.powerStepFx_powers ps
    exact ans_set (g := fun d => d.powerStepFx ps) ⟨course, keystone, package, limit, cores⟩
  case raise =>
    refine ans_runIf (g := fun d => d.raiseDoneFx n) ?_ (Dev.raiseDoneFx_spec (d := s.dev.fresh) raising)
    rcases present with present | present
    · rw [present]; rfl
    · rw [present]; simp
  case domain => exact ans_setIf (g := fun d => d.domainOnFx k) present (Dev.domainOnFx_spec (d := s.dev.fresh) ramps parent first)
  case enter =>
    have entered := Dev.standbyEnterFx_enters (d := s.dev.fresh) out idle free
    exact State.writeSettle_answers ((Dev.writeReg_standby (d := s.dev.fresh) serves).trans (Dev.standbyCmd_enter s.dev.fresh)) ⟨entered.standby, entered.ramping, entered.off, entered.refresh⟩
  case refuse =>
    obtain ⟨only, up⟩ := s.dev.fresh.emit_noted .pwr 0x0D09 1 (if s.dev.jfe.quad = none then 2 else 1) 0
    refine State.writeSettle_answers (((Dev.writeReg_standby (d := s.dev.fresh) serves).trans (Dev.standbyCmd_enter s.dev.fresh)).trans (Dev.standbyEnterFx_refused (d := s.dev.fresh) out busy)) ⟨only, fun alive => ?_⟩
    obtain ⟨e, ev, code, arg⟩ := up alive
    refine ⟨e, ev, code, arg.trans ?_⟩
    split <;> rfl
  case leave => exact State.writeSettle_answers ((Dev.writeReg_standby (d := s.dev.fresh) serves).trans (Dev.standbyCmd_leave s.dev.fresh)) (Dev.standbyLeaveFx_leaves (d := s.dev.fresh) on)
  case sample =>
    have known : n ∈ powerDies s.dev.fresh.hw := by
      rcases die with die | die
      · exact List.mem_append_left _ (List.mem_range.2 die)
      · exact List.mem_append_right _ (List.mem_singleton.2 die)
    obtain ⟨e, held, same⟩ := Dev.thermalFx_one (d := s.dev.fresh) (v := v) known pair one
    obtain ⟨ticks, run, runs, taken⟩ := Dev.sample_taken (d := s.dev.fresh) low high near
    have sensor := (Dev.sensor_congr same n p c).trans ((held.held (by rw [taken, ticks])).trans taken)
    refine ans_set (g := fun d => d.thermalFx [(n, p, c, v)]) ?_
    rw [sensor]
    refine ⟨rfl, rfl, fun held => ?_, fun lost => ?_⟩
    · rw [runs, show (s.dev.fresh.sensor n p c).lost = false from held]
      exact ⟨rfl, rfl⟩
    · rw [runs, show (s.dev.fresh.sensor n p c).lost = true from lost]
      rfl
  case frame =>
    have taken := Dev.sentFrameFx_taken (d := s.dev.fresh) known on fine some_ high
    exact ans_set (g := fun d => d.sentFrameFx i status raw true true) ⟨(Dev.sent_congr taken i).trans (Dev.sent_setSent ..), fun j ne => (Dev.sent_congr taken j).trans (Dev.sent_setSent_ne _ _ ne)⟩
  case bad =>
    refine ans_set (g := fun d => d.sentFrameFx i status raw c t) ?_
    rw [Dev.sentFrameFx_bad (d := s.dev.fresh) known on bad]
    exact s.dev.fresh.bump_spec THM_SENT_ERR_COUNT
  case lost => exact ans_set (g := fun d => d.sentLostFx i) (Dev.sentLostFx_spec (d := s.dev.fresh) known on held late runs)
  all_goals subst key
  case read => exact ans_set (g := fun d => d.avsReadFx b r (some c)) (Dev.avsReadFx_read (d := s.dev.fresh) (avsPresent bus rail course) c)
  case fails => exact ans_set (g := fun d => d.avsReadFx b r none) (Dev.avsReadFx_fails (d := s.dev.fresh) (avsPresent bus rail course) early)
  case gone => exact ans_set (g := fun d => d.avsReadFx b r none) (Dev.avsReadFx_gone (d := s.dev.fresh) (avsPresent bus rail course) third)

end Sys2Proof.Machine
end

section
/-! SUPPORT. Reasons of a safe state (R422, R423): a Quoin that runs holds the reason it decides, and loses none by what follows. -/
namespace Sys2Proof.Machine

/-- The Quoins run as before, and hold the reasons they held. -/
structure Dev.ReasonsKept (d e : Dev) : Prop where
  powered (q : Nat) : (e.quoin q).powered = (d.quoin q).powered
  live (q : Nat) : (e.quoin q).live = (d.quoin q).live
  reasons (q : Nat) : (d.quoin q).reasons ⊆ (e.quoin q).reasons

namespace Dev.ReasonsKept

variable {d e : Dev}

theorem refl (d : Dev) : d.ReasonsKept d := ⟨fun _ => rfl, fun _ => rfl, fun _ => List.Subset.refl _⟩

theorem trans {f : Dev} (h : d.ReasonsKept e) (k : e.ReasonsKept f) : d.ReasonsKept f :=
  ⟨fun q => (k.powered q).trans (h.powered q), fun q => (k.live q).trans (h.live q), fun q => List.Subset.trans (h.reasons q) (k.reasons q)⟩

theorem foldl {β : Type} {g : Dev → β → Dev} (h : ∀ (d : Dev) b, d.ReasonsKept (g d b)) : ∀ (l : List β) (d : Dev), d.ReasonsKept (l.foldl g d)
  | [], d => refl d
  | b :: l, d => (h d b).trans (foldl h l (g d b))

theorem of_quoins (a : e.qn.a = d.qn.a) (b : e.qn.b = d.qn.b) : d.ReasonsKept e := by
  have same (q : Nat) : e.quoin q = d.quoin q := by rw [Dev.quoin, Dev.quoin, a, b]
  exact ⟨fun q => by rw [same], fun q => by rw [same], fun q => by rw [same]; exact List.Subset.refl _⟩

theorem setQuoin {q : Nat} {x : Quoin} (powered : x.powered = (d.quoin q).powered) (live : x.live = (d.quoin q).live) (reasons : (d.quoin q).reasons ⊆ x.reasons) :
    d.ReasonsKept (d.setQuoin q x) := by
  have each (k : Nat) : (d.setQuoin q x).quoin k = x ∧ d.quoin k = d.quoin q ∨ (d.setQuoin q x).quoin k = d.quoin k := by
    unfold Dev.setQuoin Dev.quoin
    by_cases first : q = 0 <;> by_cases zero : k = 0 <;> simp [first, zero]
  refine ⟨fun k => ?_, fun k => ?_, fun k => ?_⟩
  · rcases each k with ⟨new, old⟩ | same
    · rw [new, old, powered]
    · rw [same]
  · rcases each k with ⟨new, old⟩ | same
    · rw [new, old, live]
    · rw [same]
  · rcases each k with ⟨new, old⟩ | same
    · rw [new, old]
      exact reasons
    · rw [same]
      exact List.Subset.refl _

theorem emit (d : Dev) (b : Block) (code sev a0 a1 : Nat) : d.ReasonsKept (d.emit b code sev a0 a1) :=
  of_quoins (congrArg Quoins.a (Dev.emit_qn d b code sev a0 a1)) (congrArg Quoins.b (Dev.emit_qn d b code sev a0 a1))

theorem memOnly (h : d.MemOnly e) : d.ReasonsKept e := of_quoins (by rw [h.eq]) (by rw [h.eq])

theorem modStream (d : Dev) (n : Nat) (f : StreamSt → StreamSt) : d.ReasonsKept (d.modStream n f) := of_quoins rfl rfl

theorem charge (d : Dev) (k : Nat) : d.ReasonsKept (d.charge k) := by
  unfold Dev.charge
  split
  · exact of_quoins rfl rfl
  · exact refl d

theorem eachQuoin (d : Dev) {g : Dev → Nat → Dev} (h : ∀ (d : Dev) q, d.ReasonsKept (g d q)) : d.ReasonsKept (d.eachQuoin g) := by
  have one (b : Bool) (d : Dev) (q : Nat) : d.ReasonsKept (if b then g d q else d) := by
    cases b with
    | true => exact h d q
    | false => exact refl d
  exact (one _ d 0).trans (one _ _ 1)

theorem canQueue (d : Dev) (q off stream : Nat) (last : Bool) (content : List Byte) : d.ReasonsKept (d.canQueue q off stream last content) := by
  unfold Dev.canQueue
  dsimp only
  split
  · exact refl d
  · exact setQuoin rfl rfl (List.Subset.refl _)

theorem statusMsg (d : Dev) (q : Nat) : d.ReasonsKept (d.statusMsg q) := canQueue d _ _ _ _ _

theorem canFallback (d : Dev) (q n : Nat) (c : StreamCfg) : d.ReasonsKept (d.canFallback q n c) := by
  unfold Dev.canFallback
  dsimp only
  split
  · exact canQueue d _ _ _ _ _
  · exact (canQueue d _ _ _ _ _).trans (foldl (fun d _ => canQueue d _ _ _ _ _) _ _)

theorem sendFallback (d : Dev) (n : Nat) (c : StreamCfg) : d.ReasonsKept (d.sendFallback n c).1 := by
  unfold Dev.sendFallback
  dsimp only
  have can (a0 a1 : Nat → Nat) : d.ReasonsKept (d.eachQuoin fun d q => (d.canFallback q n c).emit (.qn q) 0x0B06 3 (a0 q) (a1 q)) :=
    eachQuoin d fun d q => (canFallback d q n c).trans (emit _ _ _ _ _ _)
  have sent (e : Dev) (seq ns : Nat) (bs : List Byte) : e.ReasonsKept (e.sendRecord n c seq ns bs) := by
    obtain ⟨fs, h, -⟩ := e.sendRecord_eq n c seq ns bs
    rw [h]
    exact of_quoins rfl rfl
  split
  · exact (can _ _).trans (sent _ _ _ _)
  · exact can _ _

theorem enterFallback (d : Dev) (n reason seq : Nat) : d.ReasonsKept (d.enterFallback n reason seq).1 := by
  unfold Dev.enterFallback
  split
  · split
    · exact refl d
    · exact (modStream d n _).trans (sendFallback _ _ _)
  · exact refl d

theorem addReason (d : Dev) (q r decider : Nat) : d.ReasonsKept (d.addReason q r decider) := by
  unfold Dev.addReason
  dsimp only
  split
  · exact refl d
  · next may =>
    have live : (d.quoin q).live = true := by
      cases on : (d.quoin q).live with
      | true => rfl
      | false => exact absurd (by rw [on]; rfl) may
    refine (charge d (safeLoss (reasonEff r))).trans (ReasonsKept.trans ?_ (emit _ (.qn q) 0x0B01 3 (reasonShown r) (12 + decider)))
    have same : ∀ k, (d.charge (safeLoss (reasonEff r))).quoin k = d.quoin k := fun k => by
      unfold Dev.charge
      split <;> rfl
    split
    · next runs =>
      refine setQuoin (by rw [same]; rfl) ?_ (by rw [same]; exact List.subset_append_left _ _)
      rw [same]
      unfold Quoin.live at live ⊢
      simp [Quoin.withReasons, runs]
    · exact setQuoin (by rw [same]; rfl) (by rw [same]; rfl) (by rw [same]; exact List.subset_append_left _ _)

theorem safeStreams (d : Dev) : d.ReasonsKept d.safeStreams.1 := by
  unfold Dev.safeStreams
  refine List.foldlRecOn (motive := fun (r : Dev × Bool) => d.ReasonsKept r.1) _ _ (refl d) fun r hr p _ => hr.trans ?_
  dsimp only
  split
  · exact refl _
  · refine .trans ?_ (enterFallback _ _ _ _)
    split
    · exact ((memOnly (Dev.wr_memOnly _ _ _ _)).trans (modStream _ _ _)).trans (eachQuoin _ fun _ _ => emit _ _ _ _ _ _)
    · exact refl _

theorem decideSafe (d : Dev) (q reason : Nat) : d.ReasonsKept (d.decideSafe q reason) := by
  unfold Dev.decideSafe
  dsimp only
  split
  · exact refl d
  · have added := (addReason d q reason q).trans (safeStreams _)
    generalize (d.addReason q reason q).safeStreams = x at added ⊢
    refine ReasonsKept.trans ?_ (statusMsg _ q)
    split
    · exact added.trans (addReason _ _ _ _)
    · exact added

theorem decideBoth (d : Dev) (reason : Nat) : d.ReasonsKept (d.decideBoth reason) := (decideSafe d 0 reason).trans (decideSafe _ 1 reason)

end Dev.ReasonsKept

/-! ### The reason decided -/

/-- The Quoin holds the reason. -/
def Dev.Holds (d : Dev) (q r : Nat) : Prop := ∃ t ∈ (d.quoin q).reasons, reasonEff t = r

theorem Dev.Holds.kept {d e : Dev} {q r : Nat} (h : d.Holds q r) (k : d.ReasonsKept e) : e.Holds q r := by
  obtain ⟨t, mem, same⟩ := h
  exact ⟨t, k.reasons q mem, same⟩

theorem Dev.addReason_holds {d : Dev} {q : Nat} (live : (d.quoin q).live = true) (r decider : Nat) : (d.addReason q r decider).Holds q (reasonEff r) := by
  unfold Dev.addReason
  dsimp only
  split
  · next barred =>
    rw [live, Bool.not_true, Bool.false_or, List.any_eq_true] at barred
    obtain ⟨t, mem, same⟩ := barred
    exact ⟨t, mem, eq_of_beq same⟩
  · refine Holds.kept ?_ (ReasonsKept.emit _ _ _ _ _ _)
    refine ⟨r, ?_, rfl⟩
    rw [Dev.quoin_setQuoin]
    exact List.mem_append_right _ (List.mem_singleton.2 rfl)

theorem Dev.decideSafe_holds {d : Dev} {q : Nat} (live : (d.quoin q).live = true) (r : Nat) : (d.decideSafe q r).Holds q (reasonEff r) := by
  have added := (Dev.addReason_holds live r q).kept (ReasonsKept.safeStreams _)
  unfold Dev.decideSafe
  dsimp only
  rw [if_neg (by rw [live]; decide)]
  refine Holds.kept ?_ (ReasonsKept.statusMsg _ q)
  split
  · exact added.kept (ReasonsKept.addReason _ _ _ _)
  · exact added

theorem Dev.decideBoth_holds {d : Dev} {q : Nat} (known : q < 2) (live : (d.quoin q).live = true) (r : Nat) : (d.decideBoth r).Holds q (reasonEff r) := by
  unfold Dev.decideBoth
  obtain rfl | rfl : q = 0 ∨ q = 1 := by omega
  · exact (Dev.decideSafe_holds live r).kept (ReasonsKept.decideSafe _ 1 r)
  · exact Dev.decideSafe_holds (((ReasonsKept.decideSafe d 0 r).live 1).trans live) r

end Sys2Proof.Machine
end

section
/-! SUPPORT. Nguldoel (R484–R504, R541, R542): alarms and their answers, the commands of NGD_CMD, the Quoins' rails and start-up. -/
namespace Sys2Proof.Machine

/-! ### Keys leave (R497, R499, R501) -/

/-- Beside a safe state, only the keys, the flash, the retired hardware keys and the strongest answer are others. -/
structure Dev.Answered (d e : Dev) : Prop where
  eq : e = { d with out := e.out, mem := e.mem, tags := e.tags, shadow := e.shadow, poison := e.poison, qn := e.qn,
                    jfe := { d.jfe with squash := e.jfe.squash, ev := e.jfe.ev, evSeq := e.jfe.evSeq },
                    sec := { d.sec with keys := e.sec.keys, modelKeys := e.sec.modelKeys, installed := e.sec.installed, flash := e.sec.flash,
                                        zeroized := e.sec.zeroized, action := e.sec.action,
                                        fuses := { d.sec.fuses with hukRetired := e.sec.fuses.hukRetired } } }

namespace Dev.Answered

variable {d e : Dev}

theorem refl (d : Dev) : d.Answered d := ⟨rfl⟩

theorem trans {f : Dev} (h : d.Answered e) (k : e.Answered f) : d.Answered f := by
  obtain ⟨h⟩ := h
  obtain ⟨k⟩ := k
  constructor
  rw [k, h]

theorem safetyOnly (h : d.SafetyOnly e) : d.Answered e := by
  obtain ⟨h⟩ := h
  constructor
  rw [h]

theorem emit (d : Dev) (b : Block) (code sev a0 a1 : Nat) : d.Answered (d.emit b code sev a0 a1) := safetyOnly (d.emit_safetyOnly b code sev a0 a1)

theorem regs (h : d.Answered e) : e.regs = d.regs := by rw [h.eq]
theorem hw (h : d.Answered e) : e.hw = d.hw := by rw [h.eq]
theorem alarms (h : d.Answered e) : e.sec.alarms = d.sec.alarms := by rw [h.eq]
theorem boot (h : d.Answered e) : e.sec.boot = d.sec.boot := by rw [h.eq]
theorem provisioned (h : d.Answered e) : e.sec.fuses.provisioned = d.sec.fuses.provisioned := by rw [h.eq]

theorem dropKeys (d : Dev) (why : Nat) : d.Answered (d.dropKeys why) := by
  unfold Dev.dropKeys
  exact trans (e := { d with sec := { d.sec with keys := false, modelKeys := [], installed := false } }) ⟨rfl⟩ (emit _ _ _ _ _ _)

end Dev.Answered

theorem Dev.emit_sec (d : Dev) (b : Block) (code sev a0 a1 : Nat) : (d.emit b code sev a0 a1).sec = d.sec := (PowerStill.emit d b code sev a0 a1).sec

/-- R499: once zeroized the keys are gone; the next time nothing is left to do. -/
structure Dev.Zeroized (d e : Dev) : Prop where
  answered : d.Answered e
  zeroized : e.sec.zeroized = true
  action : e.sec.action = d.sec.action
  quoins : e.qn = d.qn
  gone : d.sec.zeroized = false → e.sec.keys = false ∧ e.sec.modelKeys = []

/-- A hardware key is used no more. -/
def Dev.hukRetires (d : Dev) (g : Nat) : Dev :=
  { d with sec := { d.sec with zeroized := true, fuses := { d.sec.fuses with hukRetired := d.sec.fuses.hukRetired ||| 2 ^ g } } }

theorem Dev.zeroize_zeroizes (d : Dev) : d.Zeroized d.zeroize := by
  cases was : d.sec.zeroized with
  | true =>
    have same : d.zeroize = d := if_pos was
    rw [same]
    exact ⟨.refl d, was, rfl, rfl, fun fresh => absurd (was.symm.trans fresh) (by decide)⟩
  | false =>
    have shape : d.zeroize = (((d.dropKeys 4).flashProgram keyStoreBase 0x10000 []).hukRetires d.sec.identity).emit .ngd 0x0E04 3 d.sec.identity 0 :=
      if_neg (by rw [was]; decide)
    have dropped := Answered.dropKeys d 4
    have sec : (d.dropKeys 4).sec = { d.sec with keys := false, modelKeys := [], installed := false } := Dev.emit_sec _ _ _ _ _ _
    have qn : (d.dropKeys 4).qn = d.qn := Dev.emit_qn _ _ _ _ _ _
    rw [shape]
    generalize d.dropKeys 4 = e at dropped sec qn ⊢
    refine ⟨(dropped.trans ⟨rfl⟩).trans (.emit _ _ _ _ _ _), ?_, ?_, ?_, fun _ => ?_⟩
    · rw [Dev.emit_sec]
      rfl
    · rw [Dev.emit_sec]
      exact (congrArg Security.action sec :)
    · exact (Dev.emit_qn _ _ _ _ _ _).trans qn
    · rw [Dev.emit_sec]
      exact ⟨(congrArg Security.keys sec :), (congrArg Security.modelKeys sec :)⟩

/-! ### Alarms (R498, R499) -/

theorem Dev.alarmResponse_le (d : Dev) (s : Nat) : d.alarmResponse s ≤ 2 := by
  unfold Dev.alarmResponse
  split
  · exact Nat.min_le_left _ _
  · exact Nat.zero_le 2

/-- An alarm has its answer. -/
structure Dev.AlarmAnswered (d e : Dev) (s : Nat) : Prop where
  answered : d.Answered e
  action : e.sec.action = max d.sec.action (d.alarmResponse s + 1)
  reasons : 1 ≤ d.alarmResponse s → ∀ q, q < 2 → (d.quoin q).live = true → e.Holds q 8
  zeroized : d.alarmResponse s = 2 → e.sec.zeroized = true ∧ (d.sec.zeroized = false → e.sec.keys = false ∧ e.sec.modelKeys = [])

theorem Dev.answerAlarm_answers (d : Dev) (s : Nat) : d.AlarmAnswered (d.answerAlarm s) s := by
  unfold Dev.answerAlarm
  dsimp only
  have told : d.Answered _ := Answered.trans (e := { d with sec := { d.sec with action := max d.sec.action (d.alarmResponse s + 1) } }) ⟨rfl⟩ (.emit _ .ngd 0x0E03 3 s (d.alarmResponse s))
  have sec := Dev.emit_sec { d with sec := { d.sec with action := max d.sec.action (d.alarmResponse s + 1) } } .ngd 0x0E03 3 s (d.alarmResponse s)
  have quoins := Dev.emit_qn { d with sec := { d.sec with action := max d.sec.action (d.alarmResponse s + 1) } } .ngd 0x0E03 3 s (d.alarmResponse s)
  generalize Dev.emit { d with sec := { d.sec with action := max d.sec.action (d.alarmResponse s + 1) } } .ngd 0x0E03 3 s (d.alarmResponse s) = e at told sec quoins ⊢
  have decided : e.Answered (if 1 ≤ d.alarmResponse s then e.decideBoth 0x08 else e) ∧ (if 1 ≤ d.alarmResponse s then e.decideBoth 0x08 else e).sec = e.sec ∧
      (1 ≤ d.alarmResponse s → ∀ q, q < 2 → (d.quoin q).live = true → (if 1 ≤ d.alarmResponse s then e.decideBoth 0x08 else e).Holds q 8) := by
    by_cases fences : 1 ≤ d.alarmResponse s
    · rw [if_pos fences]
      have safe := Dev.decideBoth_safetyOnly e 0x08
      refine ⟨.safetyOnly safe, (congrArg Dev.sec safe.eq :), fun _ q known live => Dev.decideBoth_holds known ?_ 0x08⟩
      rw [Dev.quoin_of_qn quoins]
      exact live
    · rw [if_neg fences]
      exact ⟨.refl e, rfl, fun on => absurd on fences⟩
  obtain ⟨answered, sec', holds⟩ := decided
  generalize (if 1 ≤ d.alarmResponse s then e.decideBoth 0x08 else e) = f at answered sec' holds ⊢
  have kept := sec'.trans sec
  by_cases zero : d.alarmResponse s = 2
  · rw [if_pos zero]
    have z := f.zeroize_zeroizes
    refine ⟨(told.trans answered).trans z.answered, z.action.trans (congrArg Security.action kept), fun on q known live => ?_, fun _ => ⟨z.zeroized, fun fresh => ?_⟩⟩
    · exact (holds on q known live).kept (.of_quoins (congrArg Quoins.a z.quoins) (congrArg Quoins.b z.quoins))
    · exact z.gone ((congrArg Security.zeroized kept).trans fresh)
  · rw [if_neg zero]
    exact ⟨told.trans answered, congrArg Security.action kept, holds, fun two => absurd two zero⟩

/-- An alarm is counted and latched. -/
def Dev.latched (d : Dev) (s : Nat) : Dev := Dev.orBits { d with sec := { d.sec with alarms := min 0xFFFFFFFF (d.sec.alarms + 1) } } NGD_ALARM_LATCHED (2 ^ s)

theorem Dev.latched_spec (d : Dev) {s : Nat} (known : s < 6) : (d.latched s).rbit NGD_ALARM_LATCHED s = true ∧
    (d.latched s).sec = { d.sec with alarms := min 0xFFFFFFFF (d.sec.alarms + 1) } ∧ (d.latched s).mem = d.mem ∧ (d.latched s).qn = d.qn :=
  ⟨Dev.rbit_orBits_same _ _ (by omega), rfl, rfl, rfl⟩

/-- What an alarm leaves. -/
structure Dev.AlarmRaised (d e : Dev) (s : Nat) : Prop where
  latched : e.rbit NGD_ALARM_LATCHED s = true
  alarms : e.sec.alarms = min 0xFFFFFFFF (d.sec.alarms + 1)
  early : d.sec.fusesRead = false → s ∈ e.sec.early ∧ e.mem = d.mem
  action : d.sec.fusesRead = true → e.sec.action = max d.sec.action (d.alarmResponse s + 1)
  reasons : d.sec.fusesRead = true → 1 ≤ d.alarmResponse s → ∀ q, q < 2 → (d.quoin q).live = true → e.Holds q 8
  zeroized : d.sec.fusesRead = true → d.alarmResponse s = 2 → e.sec.zeroized = true ∧ (d.sec.zeroized = false → e.sec.keys = false ∧ e.sec.modelKeys = [])

theorem Dev.alarm_raises (d : Dev) {s : Nat} (known : s < 6) : d.AlarmRaised (d.alarm s) s := by
  obtain ⟨bit, sec, mem, quoins⟩ := d.latched_spec known
  have shape : d.alarm s = if d.sec.fusesRead then (d.latched s).answerAlarm s
      else { d.latched s with sec := { (d.latched s).sec with early := if (d.latched s).sec.early.contains s then (d.latched s).sec.early else (d.latched s).sec.early ++ [s] } } := by
    unfold Dev.alarm
    rw [if_neg (by omega)]
    rfl
  rw [shape]
  clear shape
  generalize d.latched s = e at bit sec mem quoins ⊢
  cases read : d.sec.fusesRead with
  | false =>
    have unread {p : Prop} (on : d.sec.fusesRead = true) : p := absurd (read.symm.trans on) (by decide)
    refine ⟨bit, (congrArg Security.alarms sec :), fun _ => ⟨?_, mem⟩, unread, unread, unread⟩
    change s ∈ if e.sec.early.contains s then e.sec.early else e.sec.early ++ [s]
    split
    · next listed => exact List.contains_iff_mem.1 listed
    · exact List.mem_append_right _ (List.mem_singleton.2 rfl)
  | true =>
    rw [if_pos rfl]
    have a := e.answerAlarm_answers s
    have response : e.alarmResponse s = d.alarmResponse s := by
      unfold Dev.alarmResponse
      rw [sec]
    refine ⟨?_, a.answered.alarms.trans (congrArg Security.alarms sec :), fun off => absurd (read.symm.trans off) (by decide), fun _ => ?_, fun _ on q known live => ?_, fun _ two => ?_⟩
    · exact (Dev.rbit_congr (Dev.reg_congr a.answered.regs a.answered.hw _) s).trans bit
    · rw [a.action, response, sec]
    · exact a.reasons (response ▸ on) q known (by rw [Dev.quoin_of_qn quoins]; exact live)
    · obtain ⟨zero, gone⟩ := a.zeroized (response.trans two)
      exact ⟨zero, fun fresh => gone ((congrArg Security.zeroized sec :).trans fresh)⟩

/-! ### Quotes and certificates (R492, R493) -/

theorem Dev.quoteFx_keyless {d : Dev} (none_ : d.sec.keys = false) : d.quoteFx = d.ngdDone 1 0 := by rw [Dev.quoteFx, none_]; rfl

theorem Dev.certsFx_keyless {d : Dev} (none_ : d.sec.keys = false) : d.certsFx = d.ngdDone 1 0 := by rw [Dev.certsFx, none_]; rfl

section
variable {d : Dev} (keys : d.sec.keys = true)
include keys

theorem Dev.quoteFx_badBuffer (bad : d.argOk = false) : d.quoteFx = d.ngdDone 2 0 :=
  (if_neg (by rw [keys]; decide)).trans (if_pos (by rw [bad]; decide))

theorem Dev.certsFx_badBuffer (bad : d.argOk = false) : d.certsFx = d.ngdDone 2 0 :=
  (if_neg (by rw [keys]; decide)).trans (if_pos (by rw [bad]; decide))

theorem Dev.quoteFx_out (good : d.argOk = true) : d.quoteFx = d.ngdOut (d.quoteBody (d.argRd 32) ++ d.sign 1 (sha256 (d.quoteBody (d.argRd 32)))) :=
  (if_neg (by rw [keys]; decide)).trans (if_neg (by rw [good]; decide))

theorem Dev.certsFx_out (good : d.argOk = true) : d.certsFx = d.ngdOut ((List.range 3).flatMap (fun k =>
    leBytes 4 (Config.certificate d.sec.identity k).length ++ Config.certificate d.sec.identity k)) :=
  (if_neg (by rw [keys]; decide)).trans (if_neg (by rw [good]; decide))

end

theorem Dev.ngdOut_long {d : Dev} {bs : List Byte} (long : d.argSize < bs.length) : d.ngdOut bs = d.ngdDone 5 0 := if_pos long

theorem Dev.ngdOut_fits {d : Dev} {bs : List Byte} (fits : bs.length ≤ d.argSize) : (d.ngdOut bs).sec = (d.ngdDone 0 bs.length).sec ∧
    (d.ngdOut bs).mem = (d.wr View.plain d.argBase bs).mem := by
  rw [Dev.ngdOut, if_neg (Nat.not_lt.2 fits)]
  refine ⟨?_, rfl⟩
  have sec : (d.wr View.plain d.argBase bs).sec = d.sec := by rw [(Dev.wr_memOnly _ _ _ _).eq]
  generalize d.wr View.plain d.argBase bs = e at sec ⊢
  rw [Dev.ngdDone, sec]
  rfl

/-! ### Images and versions (R487, R489, R490) -/

theorem Dev.flashFx_image {d : Dev} {p : Nat} {rd : Nat → List Byte} (part : p = d.rf NGD_ARG_PARAM 2 0) (low : 1 ≤ p) (high : p ≤ 3) (good : d.argOk = true)
    (reads : rd = fun n => if n ≤ d.argSize then d.rd View.plain d.argBase n else List.replicate n 0) :
    d.flashFx = if imageCheck d.sec.fuses p d.argSize rd ≠ 0 then d.ngdDone (imageResult (imageCheck d.sec.fuses p d.argSize rd)) 0
      else ((d.flashProgram (slotBase p (if p = 3 then 0 else if bitOf d.sec.boot.slots (p - 1) then 0 else 1)) (slotSize p) (rd (imageSize (rd 0x80)))).ngdDone 0 0).emit
        .ngd 0x0E07 0 p (fieldAt (rd 0x80) 8 4) := by
  have known : ¬ (p < 1 ∨ 4 < p ∨ (!d.argOk) = true) := by
    rw [good]
    simp only [Bool.not_true, Bool.false_eq_true, or_false]
    omega
  have image : ¬ p = 4 := by omega
  obtain rfl : rd = fun n => if 0 + n ≤ d.argSize then d.rd View.plain (d.argBase + 0) n else List.replicate n 0 := by
    rw [reads]
    simp only [Nat.zero_add, Nat.add_zero]
  unfold Dev.flashFx
  rw [← part]
  dsimp only
  rw [if_neg known, if_neg image]

theorem Dev.flashFx_bad {d : Dev} {p : Nat} {rd : Nat → List Byte} (part : p = d.rf NGD_ARG_PARAM 2 0) (low : 1 ≤ p) (high : p ≤ 3) (good : d.argOk = true)
    (reads : rd = fun n => if n ≤ d.argSize then d.rd View.plain d.argBase n else List.replicate n 0) (fails : imageCheck d.sec.fuses p d.argSize rd ≠ 0) :
    d.flashFx = d.ngdDone (imageResult (imageCheck d.sec.fuses p d.argSize rd)) 0 := (Dev.flashFx_image part low high good reads).trans (if_pos fails)

theorem Dev.emit_rest (d : Dev) (b : Block) (code sev a0 a1 : Nat) : d.emit b code sev a0 a1 = { d with jfe := (d.emit b code sev a0 a1).jfe } := (d.emit_noted b code sev a0 a1).1

theorem Dev.flashFx_programs {d : Dev} {p : Nat} {rd : Nat → List Byte} (part : p = d.rf NGD_ARG_PARAM 2 0) (low : 1 ≤ p) (high : p ≤ 3) (good : d.argOk = true)
    (reads : rd = fun n => if n ≤ d.argSize then d.rd View.plain d.argBase n else List.replicate n 0) (passes : imageCheck d.sec.fuses p d.argSize rd = 0) :
    d.flashFx.sec.result = 0 ∧ d.flashFx.mem = d.mem ∧ ∀ b, b = slotBase p (if p = 3 then 0 else if bitOf d.sec.boot.slots (p - 1) then 0 else 1) →
      d.flashFx.sec.flash = (d.flashProgram b (slotSize p) (rd (imageSize (rd 0x80)))).sec.flash ∧
      d.flashFx = { d with sec := { d.sec with flash := d.flashFx.sec.flash, result := 0, outSize := 0 }, jfe := d.flashFx.jfe } := by
  have shape := (Dev.flashFx_image part low high good reads).trans (if_neg fun fails => fails passes)
  generalize place : slotBase p (if p = 3 then 0 else if bitOf d.sec.boot.slots (p - 1) then 0 else 1) = b0 at shape ⊢
  obtain ⟨e, programmed⟩ : ∃ e, e = (d.flashProgram b0 (slotSize p) (rd (imageSize (rd 0x80)))).ngdDone 0 0 := ⟨_, rfl⟩
  rw [← programmed, Dev.emit_rest] at shape
  generalize (e.emit .ngd 0x0E07 0 p (fieldAt (rd 0x80) 8 4)).jfe = j at shape
  rw [shape, programmed]
  refine ⟨rfl, rfl, fun b at_ => ?_⟩
  rw [at_]
  exact ⟨rfl, rfl⟩

theorem Dev.svnFx_spec (d : Dev) : d.svnFx.sec.fuses = { d.sec.fuses with minSvnS1 := max d.sec.fuses.minSvnS1 d.sec.stage1.svn, minSvnMain := max d.sec.fuses.minSvnMain d.sec.main.svn, minKey := max d.sec.fuses.minKey (min d.sec.stage1.key d.sec.main.key), minSvnQuoin := max d.sec.fuses.minSvnQuoin (min d.sec.quoinA.svn d.sec.quoinB.svn) } ∧
    d.svnFx.sec.result = 0 ∧ d.svnFx.mem = d.mem := by
  unfold Dev.svnFx
  dsimp only
  rw [Dev.emit_rest]
  exact ⟨rfl, rfl, rfl⟩

/-! ### Quoin firmware, provisioning and model keys (R491, R502) -/

theorem Dev.quoinUpdateFx_refused {d : Dev} (runs : d.qn.a.st ≠ .safe ∨ d.qn.b.st ≠ .safe) : d.quoinUpdateFx = d.ngdDone 7 0 := by
  unfold Dev.quoinUpdateFx
  dsimp only
  refine if_pos ?_
  rcases runs with runs | runs <;> simp [runs]

theorem Dev.quoinUpdateFx_takes {d : Dev} {rd : Nat → List Byte} (reads : rd = fun n => d.flashRd (slotBase 3 0) n) (a : d.qn.a.st = .safe) (b : d.qn.b.st = .safe)
    (ra : reasonEff d.qn.a.reason = 1 ∨ reasonEff d.qn.a.reason = 0x0D) (rb : reasonEff d.qn.b.reason = 1 ∨ reasonEff d.qn.b.reason = 0x0D)
    (passes : imageCheck d.sec.fuses 3 (slotSize 3) rd = 0) :
    d.quoinUpdateFx = { d with sec := { d.sec with result := 0, outSize := 0, quoinNextA := some (runImage rd), quoinNextB := some (runImage rd) } } := by
  subst reads
  unfold Dev.quoinUpdateFx
  dsimp only
  refine if_neg ?_
  rw [a, b, passes]
  rcases ra with ra | ra <;> rcases rb with rb | rb <;> rw [ra, rb] <;> decide

theorem Dev.provisionFx_again {d : Dev} (done : d.lifecycle ≠ 0) : d.provisionFx = d.ngdDone 1 0 := if_pos done

theorem Dev.provisionFx_takes {d : Dev} {bs : List Byte} (reads : bs = d.rd View.plain d.argBase 256) (fresh : d.lifecycle = 0) (good : d.argOk = true) (size : 256 ≤ d.argSize)
    (version : fieldAt bs 0 1 = 1) (zero : zeroAt bs 1 15 = true) (response : fieldAt bs 0xB0 2 < 4096) (rest : zeroAt bs 0xB2 78 = true) :
    d.provisionFx = { d with sec := { d.sec with result := 0, outSize := 0, fuses := { d.sec.fuses with provisioned := true, modelKeys := [(bs.drop 0x10).take 64, (bs.drop 0x50).take 64], debugKeyHash := (bs.drop 0x90).take 32, alarmResponse := fieldAt bs 0xB0 2 } } } := by
  have short : ¬ (!d.argOk || decide (d.argSize < 256)) = true := by
    rw [good]
    simpa using size
  have wrong : ¬ (fieldAt bs 0 1 ≠ 1 ∨ (!zeroAt bs 1 15) = true ∨ 4096 ≤ fieldAt bs 0xB0 2 ∨ (!zeroAt bs 0xB2 78) = true) := by
    rw [version, zero, rest]
    simp only [Bool.not_true, Bool.false_eq_true, false_or, or_false, ne_eq, not_true_eq_false]
    omega
  have same : d.argRd 256 = bs := reads.symm
  unfold Dev.provisionFx
  rw [same]
  dsimp only
  rw [if_neg (not_not.2 fresh), if_neg short, if_neg wrong]
  rfl

theorem Dev.argParam_slot {d : Dev} {k : Nat} (slot : k = d.rn NGD_ARG_PARAM % 2) : d.rf NGD_ARG_PARAM 0 0 = k := by
  rw [slot, Dev.rf, bitsOf]
  simp

/-- May the model key of the slot sign? -/
def Dev.keyUsable (d : Dev) (i : Nat) : Bool := !(d.sec.fuses.modelKeys.getD i []).all (· == 0) && !bitOf d.sec.fuses.revoked i

theorem Dev.revokeFx_eq {d : Dev} {k : Nat} (slot : k = d.rn NGD_ARG_PARAM % 2) : d.revokeFx =
    if (!d.keyUsable k || !d.argOk || decide (d.argSize < 64)) = true then d.ngdDone 2 0
    else if (!d.keyUsable (1 - k)) = true then d.ngdDone 1 0
    else if (!ecdsaVerify (d.sec.fuses.modelKeys.getD (1 - k) []) (sha256 (d.deviceId ++ leBytes 1 k)) (d.argRd 64)) = true then d.ngdDone 3 0
    else { d with sec := { d.sec with fuses := { d.sec.fuses with revoked := d.sec.fuses.revoked ||| 2 ^ k } } }.ngdDone 0 0 := by
  unfold Dev.revokeFx
  rw [Dev.argParam_slot slot]
  rfl

theorem Dev.revokeFx_unusable {d : Dev} {k : Nat} (slot : k = d.rn NGD_ARG_PARAM % 2)
    (bad : (d.sec.fuses.modelKeys.getD k []).all (· == 0) = true ∨ bitOf d.sec.fuses.revoked k = true) : d.revokeFx = d.ngdDone 2 0 := by
  have barred : d.keyUsable k = false := by
    unfold Dev.keyUsable
    rcases bad with bad | bad
    · rw [bad]; rfl
    · rw [bad, Bool.not_true, Bool.and_false]
  rw [Dev.revokeFx_eq slot, barred]
  rfl

theorem Dev.revokeFx_signed {d : Dev} {k : Nat} (slot : k = d.rn NGD_ARG_PARAM % 2) (keyed : (d.sec.fuses.modelKeys.getD k []).all (· == 0) = false)
    (valid : bitOf d.sec.fuses.revoked k = false) (good : d.argOk = true) (size : 64 ≤ d.argSize) (signs : (d.sec.fuses.modelKeys.getD (1 - k) []).all (· == 0) = false)
    (signer : bitOf d.sec.fuses.revoked (1 - k) = false) :
    d.revokeFx = if ecdsaVerify (d.sec.fuses.modelKeys.getD (1 - k) []) (sha256 (d.deviceId ++ leBytes 1 k)) (d.argRd 64) = true
      then { d with sec := { d.sec with result := 0, outSize := 0, fuses := { d.sec.fuses with revoked := d.sec.fuses.revoked ||| 2 ^ k } } } else d.ngdDone 3 0 := by
  have own : d.keyUsable k = true := by rw [Dev.keyUsable, keyed, valid]; rfl
  have other : d.keyUsable (1 - k) = true := by rw [Dev.keyUsable, signs, signer]; rfl
  have fits : ¬ (!d.keyUsable k || !d.argOk || decide (d.argSize < 64)) = true := by
    rw [own, good]
    simpa using size
  rw [Dev.revokeFx_eq slot, if_neg fits, other, if_neg (by decide)]
  cases ecdsaVerify (d.sec.fuses.modelKeys.getD (1 - k) []) (sha256 (d.deviceId ++ leBytes 1 k)) (d.argRd 64) with
  | true => rfl
  | false => rfl

/-! ### Challenges and responses (R501) -/

/-- The first words of a challenge stand in their registers. -/
def Dev.challengeShown (d : Dev) (bs : List Byte) (n : Nat) : Dev := (List.range n).foldl (fun d i => d.setNat (NGD_DEBUG_CHALLENGE i) (fieldAt bs (4 * i) 4)) d

theorem Dev.challengeShown_succ (d : Dev) (bs : List Byte) (n : Nat) :
    d.challengeShown bs (n + 1) = (d.challengeShown bs n).setNat (NGD_DEBUG_CHALLENGE n) (fieldAt bs (4 * n) 4) := by
  simp only [Dev.challengeShown, List.range_succ, List.foldl_append, List.foldl_cons, List.foldl_nil]

theorem fieldAt_lt (bs : List Byte) (off : Nat) : fieldAt bs off 4 < 2 ^ 32 :=
  Nat.lt_of_lt_of_le (leNat_lt _) ((Nat.pow_le_pow_right (by decide) (List.length_take_le 4 _)).trans_eq rfl)

theorem Dev.challengeShown_word (d : Dev) (bs : List Byte) {n j : Nat} (inside : j < n) : (d.challengeShown bs n).rn (NGD_DEBUG_CHALLENGE j) = fieldAt bs (4 * j) 4 := by
  induction n with
  | zero => exact absurd inside (Nat.not_lt_zero j)
  | succ n ih =>
    rw [Dev.challengeShown_succ]
    rcases Nat.lt_succ_iff_lt_or_eq.1 inside with before | rfl
    · have other : NGD_DEBUG_CHALLENGE j ≠ NGD_DEBUG_CHALLENGE n := by
        unfold NGD_DEBUG_CHALLENGE
        omega
      rw [Dev.rn, Dev.reg_setNat_ne _ _ other, ← Dev.rn, ih before]
    · exact Dev.rn_setNat _ _ (fieldAt_lt _ _)

theorem Dev.challengeShown_sec (d : Dev) (bs : List Byte) : ∀ n, (d.challengeShown bs n).sec = d.sec
  | 0 => rfl
  | n + 1 => by
    rw [Dev.challengeShown_succ]
    exact Dev.challengeShown_sec d bs n

theorem Dev.challengeFx_spec (d : Dev) : ∃ bs, d.challengeFx.sec.challenge = some (bs, d.ticks) ∧ bs.length = 32 ∧
    (∀ j, j < 8 → d.challengeFx.rn (NGD_DEBUG_CHALLENGE j) = fieldAt bs (4 * j) 4) ∧
    d.challengeFx.sec = { d.sec with challenge := some (bs, d.ticks), result := 0, outSize := 0 } := by
  obtain ⟨r, drawn⟩ : ∃ r, r = d.drawBytes 32 := ⟨_, rfl⟩
  have length : r.1.length = 32 := by
    rw [drawn]
    exact (List.length_map _).trans List.length_range
  have sec : r.2.sec = d.sec := by
    rw [drawn]
    rfl
  have shape : d.challengeFx = (Dev.challengeShown { r.2 with sec := { r.2.sec with challenge := some (r.1, d.ticks) } } r.1 8).ngdDone 0 0 := by
    rw [drawn]
    rfl
  have held := Dev.challengeShown_sec { r.2 with sec := { r.2.sec with challenge := some (r.1, d.ticks) } } r.1 8
  have word (j : Nat) (inside : j < 8) := Dev.challengeShown_word { r.2 with sec := { r.2.sec with challenge := some (r.1, d.ticks) } } r.1 inside
  rw [shape]
  generalize Dev.challengeShown { r.2 with sec := { r.2.sec with challenge := some (r.1, d.ticks) } } r.1 8 = e at held word ⊢
  have all : (e.ngdDone 0 0).sec = { d.sec with challenge := some (r.1, d.ticks), result := 0, outSize := 0 } := by
    rw [Dev.ngdDone, held, sec]
  exact ⟨r.1, by rw [all], length, fun j inside => (congrArg BitVec.toNat (Dev.reg_congr rfl rfl _) : (e.ngdDone 0 0).rn _ = e.rn _).trans (word j inside), all⟩

/-! ### What an alarm leaves to the debug port -/

/-- Nguldoel's commands and its debug port are as they were. -/
structure Security.PortKept (x y : Security) : Prop where
  failures : y.failures = x.failures
  lockedOut : y.lockedOut = x.lockedOut
  result : y.result = x.result
  portLevel : y.debug = x.debug
  challenge : y.challenge = x.challenge
  boot : y.boot = x.boot
  provisioned : y.fuses.provisioned = x.fuses.provisioned

theorem Security.PortKept.trans {x y z : Security} (h : x.PortKept y) (k : y.PortKept z) : x.PortKept z :=
  ⟨k.failures.trans h.failures, k.lockedOut.trans h.lockedOut, k.result.trans h.result, k.portLevel.trans h.portLevel, k.challenge.trans h.challenge, k.boot.trans h.boot,
    k.provisioned.trans h.provisioned⟩

theorem Dev.Answered.portKept {d e : Dev} (h : d.Answered e) : d.sec.PortKept e.sec := by
  obtain ⟨h⟩ := h
  constructor <;> rw [h]

theorem Dev.alarm_portKept (d : Dev) (s : Nat) : d.sec.PortKept (d.alarm s).sec := by
  unfold Dev.alarm
  split
  · exact ⟨rfl, rfl, rfl, rfl, rfl, rfl, rfl⟩
  · dsimp only
    have latched : d.sec.PortKept (d.latched s).sec := ⟨rfl, rfl, rfl, rfl, rfl, rfl, rfl⟩
    change d.sec.PortKept (if d.sec.fusesRead then (d.latched s).answerAlarm s else _).sec
    split
    · exact latched.trans (Dev.answerAlarm_answers _ s).answered.portKept
    · exact ⟨rfl, rfl, rfl, rfl, rfl, rfl, rfl⟩

/-! ### Responses -/

/-- A response has failed. -/
structure Dev.UnlockFailed (d e : Dev) (result : Nat) : Prop where
  failures : e.sec.failures = d.sec.failures + 1
  result : e.sec.result = result
  portLevel : e.sec.debug = d.sec.debug
  challenge : e.sec.challenge = d.sec.challenge
  third : d.sec.failures = 2 → e.sec.lockedOut = true ∧ e.rbit NGD_ALARM_LATCHED 4 = true

theorem Dev.unlockFail_fails (d : Dev) (why result : Nat) : d.UnlockFailed (d.unlockFail why result) result := by
  unfold Dev.unlockFail
  dsimp only
  have sec := Dev.emit_sec (({ d with sec := { d.sec with failures := d.sec.failures + 1, lockedOut := d.sec.lockedOut || d.sec.failures + 1 == 3 } }).ngdDone result 0) .ngd 0x0E06 2
    (d.sec.failures + 1) why
  generalize Dev.emit (({ d with sec := { d.sec with failures := d.sec.failures + 1, lockedOut := d.sec.lockedOut || d.sec.failures + 1 == 3 } }).ngdDone result 0) .ngd 0x0E06 2
    (d.sec.failures + 1) why = e at sec ⊢
  have kept : e.sec.PortKept (if d.sec.failures + 1 = 3 then e.alarm 4 else e).sec := by
    split
    · exact e.alarm_portKept 4
    · exact ⟨rfl, rfl, rfl, rfl, rfl, rfl, rfl⟩
  refine ⟨kept.failures.trans ?_, kept.result.trans ?_, kept.portLevel.trans ?_, kept.challenge.trans ?_, fun two => ⟨kept.lockedOut.trans ?_, ?_⟩⟩
  case refine_6 =>
    rw [if_pos (by omega)]
    exact (e.alarm_raises (by decide : 4 < 6)).latched
  all_goals rw [sec]
  case refine_5 =>
    change (d.sec.lockedOut || d.sec.failures + 1 == 3) = true
    rw [two, Bool.or_eq_true]
    exact .inr rfl
  all_goals rfl

section
variable {d : Dev} (open_ : d.sec.lockedOut = false) (good : d.argOk = true) (size : 132 ≤ d.argSize)
include open_ good size

theorem Dev.responseFx_reads : d.responseFx = d.respond (d.argRd 132) := by
  have fits : ¬ (!d.argOk || decide (d.argSize < 132)) = true := by
    rw [good]
    simpa using size
  exact (if_neg (by rw [open_]; decide)).trans (if_neg fits)

theorem Dev.responseFx_late (late : d.sec.challenge = none ∨ ∃ c t, d.sec.challenge = some (c, t) ∧ t + ticksMs 60000 < d.ticks) :
    Dev.UnlockFailed { d with sec := { d.sec with challenge := none } } d.responseFx 1 := by
  rw [Dev.responseFx_reads open_ good size]
  unfold Dev.respond
  dsimp only
  rcases late with none_ | ⟨c, t, some_, past⟩
  · rw [none_]
    exact Dev.unlockFail_fails _ 1 1
  · rw [some_]
    dsimp only
    rw [if_pos past]
    exact Dev.unlockFail_fails _ 1 1

theorem Dev.responseFx_opens {c : List Byte} {t : Nat} (asked : d.sec.challenge = some (c, t)) (soon : d.ticks ≤ t + ticksMs 60000)
    (keyed : d.sec.fuses.debugKeyHash.all (· == 0) = false) (key : sha256 (((d.argRd 132).drop 4).take 64) = d.sec.fuses.debugKeyHash)
    (signed : ecdsaVerify (((d.argRd 132).drop 4).take 64) (sha256 (c ++ d.deviceId ++ leBytes 1 1)) (((d.argRd 132).drop 68).take 64) = true)
    (level : fieldAt (d.argRd 132) 0 1 = 1) (zero : zeroAt (d.argRd 132) 1 3 = true) :
    d.responseFx = Dev.unlock { d with sec := { d.sec with challenge := none } } 1 := by
  rw [Dev.responseFx_reads open_ good size]
  generalize d.argRd 132 = bs at key signed level zero ⊢
  unfold Dev.respond
  dsimp only
  rw [asked]
  dsimp only
  have known : ¬ (fieldAt bs 0 1 < 1 ∨ 2 < fieldAt bs 0 1 ∨ (!zeroAt bs 1 3) = true) := by
    rw [level, zero]
    decide
  have fits : ¬ (d.sec.fuses.debugKeyHash.all (· == 0) || decide (sha256 ((bs.drop 4).take 64) ≠ d.sec.fuses.debugKeyHash)) = true := by
    rw [keyed, key]
    simp
  rw [if_neg (Nat.not_lt.2 soon), if_neg known, if_neg fits, level, signed]
  rfl

end

theorem Dev.unlock_one (d : Dev) : (d.unlock 1).sec = { d.sec with debug := max d.sec.debug 1, result := 0, outSize := 0 } ∧ (d.unlock 1).mem = d.mem := by
  have shape : d.unlock 1 = (({ d with sec := { d.sec with debug := max d.sec.debug 1 } } : Dev).ngdDone 0 0).emit .ngd 0x0E05 1 1 0 := by
    unfold Dev.unlock
    dsimp only
    rw [if_neg (by decide)]
  rw [shape]
  refine ⟨Dev.emit_sec _ _ _ _ _ _, ?_⟩
  rw [Dev.emit_rest]
  rfl

/-! ### What start-up leaves of itself (R503, R504) -/

/-- While no context exists, none comes into being, the main rails stay in their windows, and so does the part's life cycle in its fuses. -/
structure Dev.Booting (d e : Dev) : Prop where
  kept : d.ctxList = [] → e.ctxList = [] ∧ e.sec.boot.rails = d.sec.boot.rails ∧ e.sec.fuses.provisioned = d.sec.fuses.provisioned

/-- The comparators of the couples are tested. -/
def Dev.couplesTested (d : Dev) (b : BootInput) : Dev :=
  b.couples.foldl (fun d c =>
    if c.1 < 512 * d.hw.dies then (d.setCouple c.1 { d.couple c.1 with lanes := 2 ^ (c.2 % 12) }).pairFence c.1 3 true else d) d

namespace Dev.Booting

variable {d e : Dev}

theorem of_eq (ctxs : e.jfe.ctxs = d.jfe.ctxs) (boot : e.sec.boot.rails = d.sec.boot.rails) (fuses : e.sec.fuses.provisioned = d.sec.fuses.provisioned) : d.Booting e where
  kept free := ⟨(show e.ctxList = d.ctxList by rw [Dev.ctxList, ctxs]; rfl).trans free, boot, fuses⟩

theorem refl (d : Dev) : d.Booting d := of_eq rfl rfl rfl

theorem trans {f : Dev} (h : d.Booting e) (k : e.Booting f) : d.Booting f where
  kept free := by
    obtain ⟨free', boot, fuses⟩ := h.kept free
    obtain ⟨free'', boot', fuses'⟩ := k.kept free'
    exact ⟨free'', boot'.trans boot, fuses'.trans fuses⟩

theorem foldl {β : Type} {g : Dev → β → Dev} (h : ∀ (d : Dev) b, d.Booting (g d b)) : ∀ (l : List β) (d : Dev), d.Booting (l.foldl g d)
  | [], d => refl d
  | b :: l, d => (h d b).trans (foldl h l (g d b))

theorem doneIf (h : d.Booting e) {p : Prop} [Decidable p] : d.Booting (if p then e else d) := by
  split
  · exact h
  · exact refl d

theorem safetyOnly (h : d.SafetyOnly e) : d.Booting e := by
  obtain ⟨h⟩ := h
  refine of_eq ?_ ?_ ?_ <;> rw [h]

theorem fenceOnly (h : d.FenceOnly e) : d.Booting e := by
  obtain ⟨h⟩ := h
  refine of_eq ?_ ?_ ?_ <;> rw [h]

theorem throttled (h : d.Throttled e) : d.Booting e := by
  obtain ⟨h, -, -⟩ := h
  refine of_eq ?_ ?_ ?_ <;> rw [h]

theorem emit (d : Dev) (b : Block) (code sev a0 a1 : Nat) : d.Booting (d.emit b code sev a0 a1) := safetyOnly (d.emit_safetyOnly b code sev a0 a1)

theorem declareBoth (d : Dev) (u cause : Nat) : d.Booting (d.declareBoth u cause) := fenceOnly (.declareBoth d u cause)

theorem answered (h : d.Answered e) : d.Booting e := by
  obtain ⟨h⟩ := h
  refine of_eq ?_ ?_ ?_ <;> rw [h]

theorem answerAlarm (d : Dev) (s : Nat) : d.Booting (d.answerAlarm s) := answered (Dev.answerAlarm_answers d s).answered

theorem alarm (d : Dev) (s : Nat) : d.Booting (d.alarm s) := by
  unfold Dev.alarm
  split
  · exact refl d
  · have latched : d.Booting (d.latched s) := of_eq rfl rfl rfl
    change d.Booting (if d.sec.fusesRead then (d.latched s).answerAlarm s else _)
    split
    · exact latched.trans (answerAlarm _ s)
    · exact of_eq rfl rfl rfl

/-! ### Domains, stacks and links -/

theorem markTest (d : Dev) (p : Nat) (on : Bool) : d.Booting (d.markTest p on) := by
  unfold Dev.markTest
  split
  · refine foldl (fun d g => ?_) _ _
    exact of_eq rfl rfl rfl
  · split
    · exact of_eq rfl rfl rfl
    · exact refl d

theorem domainUp (d : Dev) (k : Nat) : d.Booting (d.domainUp k) := by
  unfold Dev.domainUp
  dsimp only
  refine trans (e := d.setDomain k true) (of_eq rfl rfl rfl) ?_
  generalize d.setDomain k true = e
  split
  · exact refl e
  · split
    · exact of_eq rfl rfl rfl
    · refine trans ?_ (foldl (fun d p => doneIf (markTest d p true)) _ _)
      split
      · refine trans (e := (clusterCores (8 * (k / 10) + k % 10)).foldl (fun d g => d.setCore g { Core.off with st := .idle }) e) (foldl (fun d g => ?_) _ _) ?_
        · exact of_eq rfl rfl rfl
        · exact of_eq rfl rfl rfl
      · exact refl e

theorem mirrorsLost (d : Dev) : d.Booting d.mirrorsLost := by
  unfold Dev.mirrorsLost
  refine foldl (fun d m => ?_) _ _
  split
  · unfold Dev.mirrorTo
    split
    · exact refl d
    · refine trans ?_ (emit _ _ _ _ _ _)
      exact of_eq rfl rfl rfl
  · exact refl d

theorem fenceLayer (d : Dev) (s l : Nat) (failed : Bool) : d.Booting (d.fenceLayer s l failed) := by
  unfold Dev.fenceLayer
  dsimp only
  refine trans ?_ (mirrorsLost _)
  refine trans ?_ (of_eq (d := Dev.declareBoth _ (layerUnit s l) 3) rfl rfl rfl)
  exact ((of_eq rfl rfl rfl : d.Booting (d.setStack s _)).trans (emit _ _ _ _ _ _)).trans (declareBoth _ _ _)

theorem trainStack (d : Dev) (b : BootInput) (s : Nat) : d.Booting (d.trainStack b s) := by
  unfold Dev.trainStack
  dsimp only
  split
  · exact (of_eq rfl rfl rfl : d.Booting (d.setStack s _)).trans (foldl (fun d l => fenceLayer d s l false) _ _)
  · exact of_eq rfl rfl rfl

theorem stopLink (d : Dev) (n p : Nat) (st : PortSt) : d.Booting (d.stopLink n p st) := of_eq rfl rfl rfl

theorem linkReport (d : Dev) (n p : Nat) (lane : Option Nat) (cause : Nat) : d.Booting (d.linkReport n p lane cause) := by
  unfold Dev.linkReport Dev.linkFail
  dsimp only
  exact (((of_eq rfl rfl rfl : d.Booting (d.setPort n p _)).trans (stopLink _ n p .fenced)).trans (emit _ _ _ _ _ _)).trans (declareBoth _ _ _)

theorem trainLink (d : Dev) (b : BootInput) (l : Nat × Nat) : d.Booting (d.trainLink b l) := by
  obtain ⟨n, p⟩ := l
  unfold Dev.trainLink
  dsimp only
  split
  · exact of_eq rfl rfl rfl
  · split
    · exact stopLink d n p .fenced
    · split
      · exact linkReport d n p none 5
      · split
        · refine trans ?_ (alarm _ 3)
          refine trans ?_ (declareBoth _ _ _)
          refine trans ?_ (emit _ _ _ _ _ _)
          exact of_eq rfl rfl rfl
        · exact of_eq rfl rfl rfl

theorem trainDies (d : Dev) (b : BootInput) : d.Booting (d.trainDies b) := by
  unfold Dev.trainDies
  dsimp only
  refine trans ?_ (emit _ _ _ _ _ _)
  refine trans ?_ (e := Dev.setNat _ KEY_FEATURE_LEVEL d.hw.featureLevel) (of_eq rfl rfl rfl)
  refine trans ?_ (e := (linksOf d.hw).foldl (fun d l => d.trainLink b l) _) (of_eq rfl rfl rfl)
  refine trans ?_ (foldl (fun d l => trainLink d b l) _ _)
  refine trans ?_ (foldl (fun d n => (trainStack d b (2 * n)).trans (trainStack _ b (2 * n + 1))) _ _)
  refine trans ?_ (foldl (fun d n => foldl domainUp _ d) _ _)
  exact foldl (fun d n => doneIf (declareBoth d _ 3)) _ _

theorem raiseDone (d : Dev) (n : Nat) : d.Booting (d.raiseDoneFx n) := by
  unfold Dev.raiseDoneFx
  split
  · exact (of_eq rfl rfl rfl : d.Booting (d.setDiePower n _)).trans (throttled (.tellThrottle _ n))
  · exact refl d

/-! ### The full pass and the log -/

theorem judge (d : Dev) (g : Nat) (b : CoreBands) : d.Booting (d.judge g b) := by
  unfold Dev.judge
  dsimp only
  refine trans (e := { d with pav := { d.pav with bands := FMap.set CoreBands.clear d.pav.bands g b } }) (of_eq rfl rfl rfl) ?_
  split
  · exact declareBoth _ _ 2
  · refine doneIf ?_
    unfold Dev.tellBand
    dsimp only
    rw [if_pos rfl]
    exact (emit _ _ _ _ _ _).trans (of_eq rfl rfl rfl)

theorem failCore (d : Dev) (g : Nat) (x : PavSlice) : d.Booting (d.failCore g x) := ((emit _ _ _ _ _ _).trans (emit _ _ _ _ _ _)).trans (judge _ _ _)

theorem failEngine (d : Dev) (p : Nat) (x : PavSlice) : d.Booting (d.failEngine p x) := by
  unfold Dev.failEngine
  split
  · exact declareBoth _ _ _
  · refine trans (trans ?_ (emit _ _ _ _ _ _)) (declareBoth _ _ _)
    exact of_eq rfl rfl rfl

/-- A couple is fenced; no job is there to end. -/
theorem pairFence (d : Dev) (i cause : Nat) (disable : Bool) : d.Booting (d.pairFence i cause disable) := by
  unfold Dev.pairFence
  dsimp only
  refine trans (e := d.setCouple i { d.couple i with pairFenced := true, cmpDisabled := (d.couple i).cmpDisabled || disable }) (of_eq rfl rfl rfl) ?_
  generalize d.setCouple i { d.couple i with pairFenced := true, cmpDisabled := (d.couple i).cmpDisabled || disable } = e
  split
  · exact refl e
  · refine trans (emit e (.pav (i / 512)) 0x0C02 3 (2 * i) cause) ⟨fun free => ?_⟩
    rw [Dev.eachCtx_nil free]
    exact (refl _).kept free

/-- A couple's comparator has missed an injection. -/
theorem coupleMissed (d : Dev) (i : Nat) (x : Couple) {p : Prop} [Decidable p] : d.Booting (if p then (d.setCouple i x).pairFence i 3 true else d) := by
  split
  · exact trans (e := d.setCouple i x) (of_eq rfl rfl rfl) (pairFence _ _ _ _)
  · exact refl d

theorem couplesTested (d : Dev) (b : BootInput) : d.Booting (d.couplesTested b) :=
  foldl (fun d (c : Nat × Nat) => coupleMissed d c.1 _) _ _

/-- A unit that ran has failed. -/
theorem unitFailed (d : Dev) (u : Nat) (x : PavSlice) {p q : Prop} [Decidable p] [Decidable q] :
    d.Booting (if p then d else if q then d.failCore u x else d.failEngine (unitPlace u) x) := by
  split
  · exact refl d
  · split
    · exact failCore d u x
    · exact failEngine d _ x

theorem startPass (d : Dev) (b : BootInput) : d.Booting (d.startPass b) := by
  unfold Dev.startPass
  dsimp only
  refine trans ?_ (foldl (fun e f => ?_) _ _)
  · exact (couplesTested d b).trans (of_eq rfl rfl rfl)
  · exact unitFailed e f.1 _

theorem takeLog (d : Dev) (rd : Nat → Nat → List Byte) : d.Booting (d.takeLog rd) := by
  unfold Dev.takeLog
  dsimp only
  refine trans (foldl (fun d e => ?_) (((List.range (fieldAt (rd 0 64) 6 2)).map (fun i => rd (64 + 16 * i) 16)).map parseLogEntry) d) (of_eq rfl rfl rfl)
  split
  · exact refl d
  · exact judge _ _ _

theorem bootLog (d : Dev) : d.Booting d.bootLog := by
  unfold Dev.bootLog
  dsimp only
  split
  · exact emit _ _ _ _ _ _
  · split
    · exact takeLog _ _
    · exact emit _ _ _ _ _ _

theorem loadImage (d : Dev) (type : Nat) : d.Booting (d.loadImage type).1 := by
  unfold Dev.loadImage
  dsimp only
  generalize (if fieldAt (d.flashRd (slotBase type 0) 0x80) 8 4 < fieldAt (d.flashRd (slotBase type 1) 0x80) 8 4 then 1 else 0) = first
  split
  · exact refl d
  · split
    · exact emit _ _ _ _ _ _
    · exact (emit _ _ _ _ _ _).trans (emit _ _ _ _ _ _)

theorem bootKeys (d : Dev) (b : BootInput) : d.Booting (d.bootKeys b) := by
  unfold Dev.bootKeys
  split
  · exact emit _ _ _ _ _ _
  · split
    · exact emit _ _ _ _ _ _
    · exact of_eq rfl rfl rfl

end Dev.Booting

/-- Start-up has come to an end. -/
structure Dev.BootEnded (d e : Dev) : Prop where
  rails : e.sec.boot.rails = d.sec.boot.rails
  provisioned : e.sec.fuses.provisioned = d.sec.fuses.provisioned
  stage : e.sec.boot.stage ∈ [0x80, 0xE1, 0xE2, 0xE3, 0xE4]

/-- Start-up ends, whatever it does, if no context exists. -/
def Dev.Ends (d e : Dev) : Prop := d.ctxList = [] → d.BootEnded e

theorem Dev.bootEnds_ends (d : Dev) (b : BootInput) {stage : Nat} (detail : Nat) (last : stage ∈ [0x80, 0xE1, 0xE2, 0xE3, 0xE4]) : d.Ends (d.bootEnds b stage detail) :=
  fun _ => ⟨rfl, rfl, last⟩

theorem Dev.Booting.ends {d e f : Dev} (h : d.Booting e) (k : e.Ends f) : d.Ends f := fun free => by
  obtain ⟨free', boot, fuses⟩ := h.kept free
  obtain ⟨rails, provisioned, stage⟩ := k free'
  exact ⟨rails.trans boot, provisioned.trans fuses, stage⟩

theorem Dev.Ends.told {d e : Dev} (h : d.Ends e) (b : Block) (code sev a0 a1 : Nat) : d.Ends (e.emit b code sev a0 a1) := fun free => by
  obtain ⟨rails, provisioned, stage⟩ := h free
  refine ⟨?_, ?_, ?_⟩ <;> rw [Dev.emit_sec]
  · exact rails
  · exact provisioned
  · exact stage

theorem Dev.bootTrain_ends (d : Dev) (b : BootInput) : d.Ends (d.bootTrain b) := by
  unfold Dev.bootTrain
  dsimp only
  refine (Booting.trainDies d b).ends ?_
  generalize d.trainDies b = e
  split
  · exact Booting.ends (e := e.draw.2) (.of_eq rfl rfl rfl) (Dev.bootEnds_ends _ b _ (by decide))
  · refine Dev.Ends.told ?_ _ _ _ _ _
    have up : e.Booting ((powerDies d.hw).foldl Dev.raiseDoneFx e.applyStates) :=
      (Booting.throttled (.applyStates e)).trans (.foldl Booting.raiseDone _ _)
    exact ((up.trans (.startPass _ b)).trans (.bootLog _)).ends (Dev.bootEnds_ends (stage := 0x80) _ b 0 (by decide))

theorem Dev.bootMain_ends (d : Dev) (b : BootInput) : d.Ends (d.bootMain b) := by
  have loaded := Booting.loadImage d 2
  unfold Dev.bootMain
  split
  · next e image =>
    rw [image] at loaded
    exact loaded.ends (Dev.bootEnds_ends (stage := 0xE1) _ b 2 (by decide))
  · next e slot fell img image =>
    rw [image] at loaded
    refine loaded.ends ?_
    refine Booting.ends ?_ (Dev.bootTrain_ends _ b)
    refine Booting.trans ?_ (.foldl Booting.domainUp _ _)
    exact .of_eq rfl rfl rfl

theorem Dev.bootStage1_ends (d : Dev) (b : BootInput) : d.Ends (d.bootStage1 b) := by
  have loaded := Booting.loadImage d 1
  unfold Dev.bootStage1
  split
  · next e image =>
    rw [image] at loaded
    exact loaded.ends (Dev.bootEnds_ends (stage := 0xE1) _ b 1 (by decide))
  · next e slot fell img image =>
    rw [image] at loaded
    refine loaded.ends ?_
    refine Booting.ends ?_ (Dev.bootMain_ends _ b)
    refine Booting.trans ?_ (.bootKeys _ b)
    exact .of_eq rfl rfl rfl

theorem Dev.bootUp_ends (d : Dev) (b : BootInput) : d.Ends (d.bootUp b) := by
  unfold Dev.bootUp
  dsimp only
  have read : d.Booting (d.sec.early.foldl Dev.answerAlarm ([40, 45, 41].foldl Dev.domainUp
      { d.setStage 0x10 0 with sec := { (d.setStage 0x10 0).sec with fusesRead := true, early := [] } })) := by
    refine Booting.trans ?_ (.foldl Booting.answerAlarm _ _)
    refine Booting.trans ?_ (.foldl Booting.domainUp _ _)
    exact .of_eq rfl rfl rfl
  generalize d.sec.early.foldl Dev.answerAlarm ([40, 45, 41].foldl Dev.domainUp
      { d.setStage 0x10 0 with sec := { (d.setStage 0x10 0).sec with fusesRead := true, early := [] } }) = e at read ⊢
  refine read.ends ?_
  split
  · exact (Booting.alarm e 5).ends (Dev.bootEnds_ends (stage := 0xE4) _ b 0 (by decide))
  · split
    · exact Dev.bootEnds_ends (stage := 0xE3) e b 0 (by decide)
    · exact e.bootStage1_ends b

/-! ### The Quoins' rails (R403, R503, R542) -/

/-- What a Quoin's firmware boots into. -/
def Dev.quoinBooted (d : Dev) (ok : List Bool) (q : Nat) : Quoin :=
  { Quoin.off with powered := true, st := if ok.getD q false then .safe else .boot, bootTick := d.ticks, safeTick := d.ticks, railsBad := d.sec.boot.rails }

/-- A Quoin without supply boots; its inactive firmware bank becomes the one that runs. -/
def Dev.quoinStarts (d : Dev) (ok : List Bool) (q : Nat) : Dev :=
  if (d.quoin q).powered then d
  else
    let s := (d.setQuoin q (d.quoinBooted ok q)).sec
    let e : Dev := { d.setQuoin q (d.quoinBooted ok q) with
      sec := if q = 0 then { s with quoinA := s.quoinNextA.getD s.quoinA, quoinNextA := none } else { s with quoinB := s.quoinNextB.getD s.quoinB, quoinNextB := none } }
    if d.sec.boot.rails then e.decideSafe q 0x05 else e

theorem Dev.quoinRailsFx_eq (d : Dev) (ok : List Bool) : d.quoinRailsFx ok =
    ((if !d.qn.a.powered && !d.qn.b.powered then { d with qn := Quoins.reset, fences := [], pav := { d.pav with bands := [] } } else d).quoinStarts ok 0).quoinStarts ok 1 := rfl

/-- One Quoin has its supply again, before the main rails. -/
structure Dev.QuoinStarted (d e : Dev) (ok : List Bool) (q : Nat) : Prop where
  ticks : e.ticks = d.ticks
  rails : e.sec.boot.rails = false
  kept : (d.quoin q).powered = true → e.quoin q = d.quoin q
  booted : (d.quoin q).powered = false → e.quoin q = d.quoinBooted ok q
  other : e.quoin (1 - q) = d.quoin (1 - q)

theorem Dev.quoinStarts_started {d : Dev} {q : Nat} (known : q < 2) (low : d.sec.boot.rails = false) (ok : List Bool) : d.QuoinStarted (d.quoinStarts ok q) ok q := by
  unfold Dev.quoinStarts
  split
  · next on => exact ⟨rfl, low, fun _ => rfl, fun off => absurd (on.symm.trans off) (by decide), rfl⟩
  · next off =>
    dsimp only
    rw [low, if_neg (by decide)]
    have set := d.quoin_setQuoin q (d.quoinBooted ok q)
    have other := d.quoin_setQuoin_other known (d.quoinBooted ok q)
    have rest : (d.setQuoin q (d.quoinBooted ok q)).ticks = d.ticks ∧ (d.setQuoin q (d.quoinBooted ok q)).sec = d.sec := by
      unfold Dev.setQuoin
      split <;> exact ⟨rfl, rfl⟩
    generalize d.setQuoin q (d.quoinBooted ok q) = e at set other rest ⊢
    refine ⟨rest.1, ?_, fun on => absurd on off, fun _ => set, other⟩
    split <;> exact (congrArg (·.boot.rails) rest.2).trans low

/-- R403: each Quoin that was without supply boots. -/
theorem Dev.quoinRailsFx_boots {d : Dev} (low : d.sec.boot.rails = false) (ok : List Bool) : ∀ q, q < 2 → ((d.quoinRailsFx ok).quoin q).powered = true ∧
    ((d.quoin q).powered = true → (d.quoinRailsFx ok).quoin q = d.quoin q) ∧ ((d.quoin q).powered = false → ((d.quoinRailsFx ok).quoin q).st = (if ok.getD q false then .safe else .boot) ∧
      ((d.quoinRailsFx ok).quoin q).reasons = [1] ∧ ((d.quoinRailsFx ok).quoin q).bootTick = d.ticks) := by
  rw [Dev.quoinRailsFx_eq]
  obtain ⟨e, named⟩ : ∃ e, e = (if !d.qn.a.powered && !d.qn.b.powered then { d with qn := Quoins.reset, fences := [], pav := { d.pav with bands := [] } } else d) := ⟨_, rfl⟩
  have start : e.ticks = d.ticks ∧ e.sec = d.sec ∧ ∀ q, (e.quoin q).powered = (d.quoin q).powered ∧ ((d.quoin q).powered = true → e.quoin q = d.quoin q) := by
    rw [named]
    split
    · next cold =>
      obtain ⟨a, b⟩ : d.qn.a.powered = false ∧ d.qn.b.powered = false := by simpa using cold
      have off (q : Nat) : (d.quoin q).powered = false := by
        unfold Dev.quoin
        split
        · exact a
        · exact b
      refine ⟨rfl, rfl, fun q => ⟨?_, fun on => absurd ((off q).symm.trans on) (by decide)⟩⟩
      rw [off]
      unfold Dev.quoin
      split <;> rfl
    · exact ⟨rfl, rfl, fun q => ⟨rfl, fun _ => rfl⟩⟩
  rw [← named]
  clear named
  obtain ⟨ticks, sec, quoins⟩ := start
  have first := Dev.quoinStarts_started (by decide : 0 < 2) ((congrArg (·.boot.rails) sec).trans low) ok
  have second := Dev.quoinStarts_started (by decide : 1 < 2) first.rails ok
  generalize e.quoinStarts ok 0 = f at first second ⊢
  generalize f.quoinStarts ok 1 = x at second ⊢
  have zero : x.quoin 0 = f.quoin 0 := second.other
  have one : f.quoin 1 = e.quoin 1 := first.other
  intro q known
  obtain ⟨powered, same⟩ := quoins q
  have each : ((d.quoin q).powered = true → x.quoin q = e.quoin q) ∧
      ((d.quoin q).powered = false → (x.quoin q).powered = true ∧ (x.quoin q).st = (if ok.getD q false then .safe else .boot) ∧ (x.quoin q).reasons = [1] ∧ (x.quoin q).bootTick = d.ticks) := by
    obtain rfl | rfl : q = 0 ∨ q = 1 := by omega
    · refine ⟨fun on => zero.trans (first.kept (powered.trans on)), fun off => ?_⟩
      rw [zero, first.booted (powered.trans off)]
      exact ⟨rfl, rfl, rfl, ticks⟩
    · refine ⟨fun on => (second.kept ((congrArg Quoin.powered one).trans (powered.trans on))).trans one, fun off => ?_⟩
      rw [second.booted ((congrArg Quoin.powered one).trans (powered.trans off))]
      exact ⟨rfl, rfl, rfl, first.ticks.trans ticks⟩
  obtain ⟨kept, booted⟩ := each
  cases was : (d.quoin q).powered with
  | true => exact ⟨by rw [kept was, powered, was], fun _ => (kept was).trans (same was), nofun⟩
  | false => exact ⟨(booted was).1, nofun, fun _ => (booted was).2⟩

/-! ### The reset of the Keystone (R164, R504) -/

/-- The Keystone and the Course dies are as after power-on; what the Quoins, the fuses and the flash hold stays. -/
structure Dev.KeystoneReset (d e : Dev) : Prop where
  stage : e.sec.boot.stage = 0
  free : e.ctxList = []
  cores : e.cores = []
  fuses : e.sec.fuses = d.sec.fuses
  flash : e.sec.flash = d.sec.flash
  perst : e.sec.boot.perst = d.sec.boot.perst
  a : e.qn.a = d.qn.a
  b : e.qn.b = d.qn.b

theorem Dev.keystoneReset_resets (d : Dev) : d.KeystoneReset d.keystoneReset := ⟨rfl, rfl, rfl, rfl, rfl, rfl, rfl, rfl⟩

theorem Dev.quoin_of_sides {d e : Dev} (a : e.qn.a = d.qn.a) (b : e.qn.b = d.qn.b) (q : Nat) : e.quoin q = d.quoin q := by rw [Dev.quoin, Dev.quoin, a, b]

/-- R422: a Quoin without supply is gone for its partner, which decides so. -/
theorem Dev.quoinRailLossFx_spec {d : Dev} {q : Nat} (known : q < 2) (on : (d.quoin q).powered = true) :
    ((d.quoinRailLossFx q).quoin q).powered = false ∧ (d.quoinRailLossFx q).sec.boot.stage = 0 ∧ (d.quoinRailLossFx q).ctxList = [] ∧ (d.quoinRailLossFx q).cores = [] ∧
    (d.quoinRailLossFx q).sec.fuses = d.sec.fuses ∧ (d.quoinRailLossFx q).sec.flash = d.sec.flash ∧
    ((d.quoin (1 - q)).live = true → ∀ r ∈ [3, 9], ∃ t ∈ ((d.quoinRailLossFx q).quoin (1 - q)).reasons, reasonEff t = r) := by
  have shape : d.quoinRailLossFx q = (((d.setQuoin q Quoin.off).decideSafe (1 - q) 0x03).decideSafe (1 - q) 0x09).keystoneReset := by
    refine if_neg ?_
    rw [on]
    simp only [Bool.not_true, Bool.false_eq_true, or_false]
    omega
  have lost := d.quoin_setQuoin q Quoin.off
  have partner := d.quoin_setQuoin_other known Quoin.off
  have set := d.setQuoin_safetyOnly q Quoin.off
  rw [shape]
  clear shape
  generalize d.setQuoin q Quoin.off = e at lost partner set ⊢
  have first := e.decideSafe_safetyOnly (1 - q) 0x03
  have kept := ReasonsKept.decideSafe e (1 - q) 0x03
  have third (live : (e.quoin (1 - q)).live = true) := Dev.decideSafe_holds live 0x03
  generalize e.decideSafe (1 - q) 0x03 = f at first kept third ⊢
  have second := f.decideSafe_safetyOnly (1 - q) 0x09
  have kept' := ReasonsKept.decideSafe f (1 - q) 0x09
  have ninth (live : (f.quoin (1 - q)).live = true) := Dev.decideSafe_holds live 0x09
  generalize f.decideSafe (1 - q) 0x09 = g at second kept' ninth ⊢
  have sec : g.sec = d.sec := (congrArg Dev.sec ((set.trans first).trans second).eq :)
  have reset := g.keystoneReset_resets
  generalize g.keystoneReset = x at reset ⊢
  have quoins := Dev.quoin_of_sides reset.a reset.b
  refine ⟨?_, reset.stage, reset.free, reset.cores, reset.fuses.trans (congrArg Security.fuses sec), reset.flash.trans (congrArg Security.flash sec), fun live r mem => ?_⟩
  · rw [quoins, kept'.powered, kept.powered, lost]
    rfl
  · have on' : (e.quoin (1 - q)).live = true := by rw [partner]; exact live
    rw [quoins]
    rcases List.mem_cons.1 mem with three | mem
    · rw [three]
      exact (third on').kept kept'
    · rw [List.mem_singleton.1 mem]
      exact ninth ((kept.live _).trans on')

/-! ### The main rails (R503, R541) -/

/-- The reasons that a supply cycle leaves, at a Quoin whose rails rose in order or not. -/
def Quoin.cycled (x : Quoin) (rails ordered : Bool) : Quoin :=
  let rs := x.reasons.filter (fun r => !([3, 4, 5] : List Nat).contains (reasonEff r))
  { x.withReasons (if rails && !rs.any (fun r => reasonEff r == 1) && x.st == .safe then rs ++ [0x01] else rs) with railsBad := !ordered }

theorem Quoin.cycled_releases (x : Quoin) (rails : Bool) (live : x.live = true) : (x.cycled rails true).releases = true := by
  have none_ (rs : List Nat) (kept : rs = x.reasons.filter (fun r => !([3, 4, 5] : List Nat).contains (reasonEff r))) : rs.any (fun r => reasonEff r == 0x03) = false := by
    rw [List.any_eq_false]
    intro r mem three
    rw [kept, List.mem_filter] at mem
    rw [eq_of_beq three] at mem
    exact absurd mem.2 (by decide)
  unfold Quoin.releases Quoin.cycled
  dsimp only
  have gone := none_ _ rfl
  generalize x.reasons.filter (fun r => !([3, 4, 5] : List Nat).contains (reasonEff r)) = rs at gone ⊢
  have live' (l : List Nat) : Quoin.live { x.withReasons l with railsBad := !true } = true := live
  rw [live']
  split
  · change (true && !false && !(rs ++ [1]).any (fun r => reasonEff r == 0x03)) = true
    rw [List.any_append, gone]
    decide
  · change (true && !false && !rs.any (fun r => reasonEff r == 0x03)) = true
    rw [gone]
    decide

/-- The package as the main rails find it. -/
def Dev.mainRailsUp (d : Dev) (ordered : Bool) : Dev :=
  let d1 := d.keystoneReset
  { d1 with mem := [], dramGen := [], dbg := Debug.reset,
            qn := { d1.qn with a := if d1.qn.a.powered then d1.qn.a.cycled d.sec.boot.rails ordered else d1.qn.a, b := if d1.qn.b.powered then d1.qn.b.cycled d.sec.boot.rails ordered else d1.qn.b },
            sec := { d1.sec with failures := 0, boot := { d1.sec.boot with rails := true, railsTick := d.ticks } } }

theorem Dev.mainRailsFx_eq (d : Dev) (ordered : Bool) (b : BootInput) : d.mainRailsFx ordered b = if ordered then (d.mainRailsUp ordered).tryBoot b else (d.mainRailsUp ordered).decideBoth 0x05 := rfl

theorem Dev.mainRailsUp_spec (d : Dev) (ordered : Bool) : (d.mainRailsUp ordered).sec.boot.stage = 0 ∧ (d.mainRailsUp ordered).ctxList = [] ∧ (d.mainRailsUp ordered).cores = [] ∧
    (d.mainRailsUp ordered).sec.boot.rails = true ∧ (d.mainRailsUp ordered).sec.boot.perst = d.sec.boot.perst ∧
    (d.mainRailsUp ordered).sec.fuses = d.sec.fuses := ⟨rfl, rfl, rfl, rfl, rfl, rfl⟩

theorem Quoin.live_powered {x : Quoin} (live : x.live = true) : x.powered = true := (Bool.and_eq_true_iff.1 live).1

theorem Dev.mainRailsUp_releases {d : Dev} (a : d.qn.a.live = true) (b : d.qn.b.live = true) :
    (d.mainRailsUp true).qn.a.releases = true ∧ (d.mainRailsUp true).qn.b.releases = true := by
  refine ⟨?_, ?_⟩
  · have shape : (d.mainRailsUp true).qn.a = d.qn.a.cycled d.sec.boot.rails true := if_pos (Quoin.live_powered a)
    rw [shape]
    exact Quoin.cycled_releases _ _ a
  · have shape : (d.mainRailsUp true).qn.b = d.qn.b.cycled d.sec.boot.rails true := if_pos (Quoin.live_powered b)
    rw [shape]
    exact Quoin.cycled_releases _ _ b

/-- The main rails have been valid for 1 ms. -/
def Dev.railsAwaited (d : Dev) : Dev :=
  { d with ticks := max d.ticks (d.sec.boot.railsTick + ticksMs 1),
           sec := { d.sec with boot := { d.sec.boot with since := max d.ticks (d.sec.boot.railsTick + ticksMs 1) } } }

theorem Dev.tryBoot_eq (d : Dev) (b : BootInput) : d.tryBoot b =
    if d.sec.boot.stage ≠ 0 ∨ (!d.sec.boot.perst) = true ∨ (!d.sec.boot.rails) = true ∨ (!d.qn.a.releases) = true ∨ (!d.qn.b.releases) = true then d
    else d.railsAwaited.bootUp b := rfl

theorem Dev.railsAwaited_boots (d : Dev) (free : d.ctxList = []) (b : BootInput) : d.BootEnded (d.railsAwaited.bootUp b) := by
  obtain ⟨rails, provisioned, stage⟩ := Dev.bootUp_ends d.railsAwaited b free
  exact ⟨rails, provisioned, stage⟩

/-- While PERST# is asserted the Keystone stays in reset. -/
theorem Dev.tryBoot_held {d : Dev} (low : d.sec.boot.perst = false) (b : BootInput) : d.tryBoot b = d := by
  unfold Dev.tryBoot
  refine if_pos ?_
  rw [low]
  simp

/-- R503: the Keystone leaves reset, or stays in it; the main rails and the life cycle do not change. -/
theorem Dev.tryBoot_keeps {d : Dev} (free : d.ctxList = []) (b : BootInput) : (d.tryBoot b).sec.boot.rails = d.sec.boot.rails ∧
    (d.tryBoot b).sec.fuses.provisioned = d.sec.fuses.provisioned := by
  have ended := d.railsAwaited_boots free b
  rw [Dev.tryBoot_eq]
  split
  · exact ⟨rfl, rfl⟩
  · exact ⟨ended.rails, ended.provisioned⟩

theorem Dev.tryBoot_boots {d : Dev} (free : d.ctxList = []) (reset : d.sec.boot.stage = 0) (perst : d.sec.boot.perst = true) (rails : d.sec.boot.rails = true)
    (releases : d.qn.a.releases = true ∧ d.qn.b.releases = true) (b : BootInput) : (d.tryBoot b).sec.boot.stage ∈ [0x80, 0xE1, 0xE2, 0xE3, 0xE4] := by
  have held : ¬ (d.sec.boot.stage ≠ 0 ∨ (!d.sec.boot.perst) = true ∨ (!d.sec.boot.rails) = true ∨ (!d.qn.a.releases) = true ∨ (!d.qn.b.releases) = true) := by
    rw [reset, perst, rails, releases.1, releases.2]
    decide
  rw [Dev.tryBoot_eq, if_neg held]
  exact (d.railsAwaited_boots free b).stage

theorem Dev.mainRailsFx_spec (d : Dev) (ordered : Bool) (b : BootInput) : (d.mainRailsFx ordered b).sec.boot.rails = true ∧
    (d.mainRailsFx ordered b).sec.fuses.provisioned = d.sec.fuses.provisioned ∧
    (ordered = false ∨ d.sec.boot.perst = false → (d.mainRailsFx ordered b).sec.boot.stage = 0 ∧ (d.mainRailsFx ordered b).ctxList = [] ∧ (d.mainRailsFx ordered b).cores = []) ∧
    (ordered = true → d.sec.boot.perst = true → d.qn.a.live = true → d.qn.b.live = true → (d.mainRailsFx ordered b).sec.boot.stage ∈ [0x80, 0xE1, 0xE2, 0xE3, 0xE4]) := by
  obtain ⟨stage, free, cores, rails, perst, fuses⟩ := d.mainRailsUp_spec ordered
  rw [Dev.mainRailsFx_eq]
  cases ordered with
  | false =>
    rw [if_neg (by decide)]
    generalize d.mainRailsUp false = e at stage free cores rails fuses ⊢
    have safe := Dev.decideBoth_safetyOnly e 0x05
    have ctxs := (Booting.safetyOnly safe).kept free
    have sec : (e.decideBoth 0x05).sec = e.sec := (congrArg Dev.sec safe.eq :)
    have same : (e.decideBoth 0x05).cores = e.cores := (congrArg Dev.cores safe.eq :)
    generalize e.decideBoth 0x05 = x at ctxs sec same ⊢
    rw [sec]
    exact ⟨rails, congrArg Fuses.provisioned fuses, fun _ => ⟨stage, ctxs.1, same.trans cores⟩, nofun⟩
  | true =>
    rw [if_pos rfl]
    have releases (la : d.qn.a.live = true) (lb : d.qn.b.live = true) := Dev.mainRailsUp_releases la lb
    generalize d.mainRailsUp true = e at stage free cores rails perst fuses releases ⊢
    obtain ⟨rails', provisioned⟩ := Dev.tryBoot_keeps free b
    refine ⟨rails'.trans rails, provisioned.trans (congrArg Fuses.provisioned fuses), fun low => ?_, fun _ high la lb => Dev.tryBoot_boots free stage (perst.trans high) rails (releases la lb) b⟩
    have held : e.sec.boot.perst = false := perst.trans (low.resolve_left (by decide))
    rw [Dev.tryBoot_held held]
    exact ⟨stage, free, cores⟩

/-! ### Commands (R506) -/

theorem Dev.writeReg_ngd {d : Dev} {w : Writer} {v : W32} (serves : d.serves .ngd = true) : d.writeReg w NGD_CMD v = d.ngdCmd v :=
  Dev.writeReg_through (b := .ngd) (o := 0x14) (r := ⟨0x14, 0x4, 1, .wo, 0x0, 0xF0000000⟩) serves rfl (by decide) (by decide) (by decide) (.inr rfl)

theorem Dev.serves_ngd {d : Dev} (serves : d.serves .ngd = true) : d.ngdServes = true := by
  unfold Dev.serves at serves
  unfold Dev.ngdServes
  simp only [Bool.or_eq_true, Bool.and_eq_true, beq_iff_eq, decide_eq_true_eq] at serves ⊢
  omega

section
variable {d : Dev} {w : Writer} (serves : d.serves .ngd = true)
include serves

/-- Where the block serves, the upper four bits choose the command. -/
theorem Dev.writeReg_ngdCmd {v : W32} {e : Dev} (chosen : d.ngdServes = true → d.ngdCmd v = e) : d.writeReg w NGD_CMD v = e :=
  (Dev.writeReg_ngd serves).trans (chosen (Dev.serves_ngd serves))

theorem Dev.writeReg_quote : d.writeReg w NGD_CMD 0x10000000 = d.quoteFx :=
  Dev.writeReg_ngdCmd serves fun on => by rw [Dev.ngdCmd, on]; rfl

theorem Dev.writeReg_certs : d.writeReg w NGD_CMD 0x20000000 = d.certsFx :=
  Dev.writeReg_ngdCmd serves fun on => by rw [Dev.ngdCmd, on]; rfl

theorem Dev.writeReg_flash : d.writeReg w NGD_CMD 0x30000000 = d.flashFx :=
  Dev.writeReg_ngdCmd serves fun on => by rw [Dev.ngdCmd, on]; rfl

theorem Dev.writeReg_svn : d.writeReg w NGD_CMD 0x40000000 = d.svnFx :=
  Dev.writeReg_ngdCmd serves fun on => by rw [Dev.ngdCmd, on]; rfl

theorem Dev.writeReg_challenge : d.writeReg w NGD_CMD 0x50000000 = d.challengeFx :=
  Dev.writeReg_ngdCmd serves fun on => by rw [Dev.ngdCmd, on]; rfl

theorem Dev.writeReg_response : d.writeReg w NGD_CMD 0x60000000 = d.responseFx :=
  Dev.writeReg_ngdCmd serves fun on => by rw [Dev.ngdCmd, on]; rfl

theorem Dev.writeReg_quoinUpdate : d.writeReg w NGD_CMD 0x70000000 = d.quoinUpdateFx :=
  Dev.writeReg_ngdCmd serves fun on => by rw [Dev.ngdCmd, on]; rfl

theorem Dev.writeReg_provision : d.writeReg w NGD_CMD 0x80000000 = d.provisionFx :=
  Dev.writeReg_ngdCmd serves fun on => by rw [Dev.ngdCmd, on]; rfl

theorem Dev.writeReg_revoke : d.writeReg w NGD_CMD 0x90000000 = d.revokeFx :=
  Dev.writeReg_ngdCmd serves fun on => by rw [Dev.ngdCmd, on]; rfl

end

theorem Dev.fuseFx_tampered {d : Dev} (read : d.sec.fusesRead = true) : d.fuseFx true = d.alarm 5 := if_pos (by rw [read]; rfl)

theorem Dev.revokeFx_outcome {d : Dev} {k : Nat} (slot : k = d.rn NGD_ARG_PARAM % 2) (keyed : (d.sec.fuses.modelKeys.getD k []).all (· == 0) = false)
    (valid : bitOf d.sec.fuses.revoked k = false) (good : d.argOk = true) (size : 64 ≤ d.argSize) (signs : (d.sec.fuses.modelKeys.getD (1 - k) []).all (· == 0) = false)
    (signer : bitOf d.sec.fuses.revoked (1 - k) = false) :
    if ecdsaVerify (d.sec.fuses.modelKeys.getD (1 - k) []) (sha256 (d.deviceId ++ leBytes 1 k)) (d.argRd 64) = true
    then d.revokeFx = { d with sec := { d.sec with result := 0, outSize := 0, fuses := { d.sec.fuses with revoked := d.sec.fuses.revoked ||| 2 ^ k } } }
    else d.revokeFx = d.ngdDone 3 0 := by
  have outcome := Dev.revokeFx_signed slot keyed valid good size signs signer
  split
  · next verified => rwa [if_pos verified] at outcome
  · next fails => rwa [if_neg fails] at outcome

/-- Settles O53: each command of NGD_CMD is a write that its block lets through; alarms, the Quoins' rails and the main rails are what they do on a fresh step. -/
theorem securityResults : Obligations.SecurityResults := by
  unfold Obligations.SecurityResults
  dsimp only
  intro s
  refine ⟨fun w serves => ⟨fun none_ i mem => ?keyless, fun keys bad i mem => ?buffer, fun keys good i bs mem => ⟨fun long => ?long, fun fits => ?fits⟩,
    fun p rd part low high good reads => ⟨fun fails => ?badImage, fun passes => ?image⟩, ?svn, ?challenge, fun locked => ?locked,
    fun open_ good size bs reads => ⟨fun late => ?late, fun c t asked soon keyed key signed level zero => ?opens⟩,
    ⟨fun runs => ?runs, fun rd reads a b ra rb passes => ?update⟩, ⟨fun done => ?again, fun bs reads fresh good size version zero response rest => ?provision⟩,
    fun k a b slot own other => ⟨fun bad => ?unusable, fun keyed valid good size signs signer => ?revoke⟩⟩,
    fun a i known kind => ?alarm, ?untampered, fun ok low => ?supply, fun q known on => ?loss, fun o b => ?rails⟩
  case keyless =>
    rcases List.mem_cons.1 mem with quote | mem
    · rw [quote]
      exact State.writeSettle_answers (Dev.writeReg_quote (d := s.dev.fresh) serves) (Dev.quoteFx_keyless (d := s.dev.fresh) none_)
    · rw [List.mem_singleton.1 mem]
      exact State.writeSettle_answers (Dev.writeReg_certs (d := s.dev.fresh) serves) (Dev.certsFx_keyless (d := s.dev.fresh) none_)
  case buffer =>
    rcases List.mem_cons.1 mem with quote | mem
    · rw [quote]
      exact State.writeSettle_answers (Dev.writeReg_quote (d := s.dev.fresh) serves) (Dev.quoteFx_badBuffer (d := s.dev.fresh) keys bad)
    · rw [List.mem_singleton.1 mem]
      exact State.writeSettle_answers (Dev.writeReg_certs (d := s.dev.fresh) serves) (Dev.certsFx_badBuffer (d := s.dev.fresh) keys bad)
  case long =>
    rcases List.mem_cons.1 mem with quote | mem
    · obtain ⟨rfl, rfl⟩ := Prod.mk.inj quote
      exact State.writeSettle_answers ((Dev.writeReg_quote (d := s.dev.fresh) serves).trans (Dev.quoteFx_out (d := s.dev.fresh) keys good)) (Dev.ngdOut_long (d := s.dev.fresh) long)
    · obtain ⟨rfl, rfl⟩ := Prod.mk.inj (List.mem_singleton.1 mem)
      exact State.writeSettle_answers ((Dev.writeReg_certs (d := s.dev.fresh) serves).trans (Dev.certsFx_out (d := s.dev.fresh) keys good)) (Dev.ngdOut_long (d := s.dev.fresh) long)
  case fits =>
    rcases List.mem_cons.1 mem with quote | mem
    · obtain ⟨rfl, rfl⟩ := Prod.mk.inj quote
      exact State.writeSettle_answers ((Dev.writeReg_quote (d := s.dev.fresh) serves).trans (Dev.quoteFx_out (d := s.dev.fresh) keys good)) (Dev.ngdOut_fits (d := s.dev.fresh) fits)
    · obtain ⟨rfl, rfl⟩ := Prod.mk.inj (List.mem_singleton.1 mem)
      exact State.writeSettle_answers ((Dev.writeReg_certs (d := s.dev.fresh) serves).trans (Dev.certsFx_out (d := s.dev.fresh) keys good)) (Dev.ngdOut_fits (d := s.dev.fresh) fits)
  case badImage => exact State.writeSettle_answers (Dev.writeReg_flash (d := s.dev.fresh) serves) (Dev.flashFx_bad (d := s.dev.fresh) part low high good reads fails)
  case image => exact State.writeSettle_answers (Dev.writeReg_flash (d := s.dev.fresh) serves) (Dev.flashFx_programs (d := s.dev.fresh) part low high good reads passes)
  case svn => exact State.writeSettle_answers (Dev.writeReg_svn (d := s.dev.fresh) serves) s.dev.fresh.svnFx_spec
  case challenge => exact State.writeSettle_answers (Dev.writeReg_challenge (d := s.dev.fresh) serves) s.dev.fresh.challengeFx_spec
  case locked => exact State.writeSettle_answers (Dev.writeReg_response (d := s.dev.fresh) serves) (show s.dev.fresh.responseFx = s.dev.fresh.ngdDone 8 0 from if_pos locked)
  case late =>
    have failed := Dev.responseFx_late (d := s.dev.fresh) open_ good size late
    exact State.writeSettle_answers (Dev.writeReg_response (d := s.dev.fresh) serves) ⟨failed.failures, failed.result, failed.portLevel, failed.challenge, failed.third⟩
  case opens =>
    subst reads
    have opened := Dev.responseFx_opens (d := s.dev.fresh) open_ good size asked soon keyed key signed level zero
    obtain ⟨sec, mem⟩ := Dev.unlock_one { s.dev.fresh with sec := { s.dev.fresh.sec with challenge := none } }
    rw [← opened] at sec mem
    refine State.writeSettle_answers (Dev.writeReg_response (d := s.dev.fresh) serves) ⟨?_, ?_, ?_, ?_, mem⟩
    all_goals rw [sec]
    all_goals rfl
  case runs => exact State.writeSettle_answers (Dev.writeReg_quoinUpdate (d := s.dev.fresh) serves) (Dev.quoinUpdateFx_refused (d := s.dev.fresh) runs)
  case update => exact State.writeSettle_answers (Dev.writeReg_quoinUpdate (d := s.dev.fresh) serves) (Dev.quoinUpdateFx_takes (d := s.dev.fresh) reads a b ra rb passes)
  case again => exact State.writeSettle_answers (Dev.writeReg_provision (d := s.dev.fresh) serves) (Dev.provisionFx_again (d := s.dev.fresh) done)
  case provision =>
    exact State.writeSettle_answers (Dev.writeReg_provision (d := s.dev.fresh) serves)
      (Dev.provisionFx_takes (d := s.dev.fresh) reads fresh good size version zero response rest)
  case unusable =>
    subst own
    exact State.writeSettle_answers (Dev.writeReg_revoke (d := s.dev.fresh) serves) (Dev.revokeFx_unusable (d := s.dev.fresh) slot bad)
  case revoke =>
    subst own other
    exact State.writeSettle_answers (Dev.writeReg_revoke (d := s.dev.fresh) serves) (Dev.revokeFx_outcome (d := s.dev.fresh) slot keyed valid good size signs signer)
  case alarm =>
    have raised := Dev.alarm_raises s.dev.fresh known
    obtain ⟨g, runs, same⟩ : ∃ g : Dev → Dev, exec i s = s.run (fun d => (g d).settle) ∧ g s.dev.fresh = s.dev.fresh.alarm a := by
      rcases kind with rfl | ⟨rfl, read, rfl⟩
      · exact ⟨fun d => d.alarm a, rfl, rfl⟩
      · exact ⟨fun d => d.fuseFx true, rfl, Dev.fuseFx_tampered (d := s.dev.fresh) read⟩
    rw [runs]
    refine ans_set ?_
    rw [same]
    exact ⟨raised.latched, raised.alarms, raised.early, fun read => ⟨raised.action read, raised.reasons read, raised.zeroized read⟩⟩
  case untampered => exact ans_set (g := fun d => d.fuseFx false) rfl
  case supply => exact ans_set (g := fun d => d.quoinRailsFx ok) (Dev.quoinRailsFx_boots (d := s.dev.fresh) low ok)
  case loss =>
    refine ans_setIf (g := fun d => d.quoinRailLossFx q) ?_ (Dev.quoinRailLossFx_spec (d := s.dev.fresh) known on)
    exact decide_eq_true known
  case rails => exact ans_set (g := fun d => d.mainRailsFx o b) (s.dev.fresh.mainRailsFx_spec o b)

end Sys2Proof.Machine
end

section
/-! SUPPORT. What the effects that become due (R109, R148–R158, R195–R206, R418, R423) leave as it is: Pavane's record of slices and Nguldoel's
state. Where start-up has not ended no domain is gated and no register is written, so no effect at all begins a slice. -/
namespace Sys2Proof.Machine

/-- Pavane's state and Nguldoel's are the same. -/
structure Dev.TestsStill (d e : Dev) : Prop where
  pav : e.pav = d.pav
  sec : e.sec = d.sec

namespace Dev

variable {d e f : Dev}

namespace TestsStill

theorem refl (d : Dev) : d.TestsStill d := ⟨rfl, rfl⟩
theorem trans (h : d.TestsStill e) (k : e.TestsStill f) : d.TestsStill f := ⟨k.pav.trans h.pav, k.sec.trans h.sec⟩
theorem after (k : e.TestsStill f) (pav : e.pav = d.pav) (sec : e.sec = d.sec) : d.TestsStill f := trans ⟨pav, sec⟩ k
theorem foldl {β : Type} {g : Dev → β → Dev} (h : ∀ (d : Dev) b, d.TestsStill (g d b)) (l : List β) (d : Dev) : d.TestsStill (l.foldl g d) :=
  List.foldlRecOn (motive := fun e => d.TestsStill e) l g (.refl d) fun e he b _ => he.trans (h e b)
theorem doneIf {p : Prop} [Decidable p] (h : d.TestsStill e) : d.TestsStill (if p then e else d) := by
  split
  · exact h
  · exact .refl d
theorem doneUnless {p : Prop} [Decidable p] (h : d.TestsStill e) : d.TestsStill (if p then d else e) := by
  split
  · exact .refl d
  · exact h
theorem either {p : Prop} [Decidable p] (h : d.TestsStill e) (k : d.TestsStill f) : d.TestsStill (if p then e else f) := by
  split
  · exact h
  · exact k

end TestsStill

theorem SafetyOnly.testsStill (h : d.SafetyOnly e) : d.TestsStill e := by
  constructor <;> rw [h.eq]

theorem MemOnly.testsStill (h : d.MemOnly e) : d.TestsStill e := h.safetyOnly.testsStill

/-! ### Records, counts and memory -/

theorem emit_testsStill (d : Dev) (b : Block) (code sev a0 a1 : Nat) : d.TestsStill (d.emit b code sev a0 a1) :=
  (d.emit_safetyOnly b code sev a0 a1).testsStill

theorem blkCount_testsStill (d : Dev) (b : Block) (ev n : Nat) : d.TestsStill (d.blkCount b ev n) := by
  rw [blkCount_gau]
  exact ⟨rfl, rfl⟩

theorem limited_testsStill (d : Dev) (key gap : Nat) {g : Nat → Dev → Dev} (h : ∀ n (d : Dev), d.TestsStill (g n d)) :
    d.TestsStill (d.limited key gap g) := by
  have noted (r) (n : Nat) : d.TestsStill (g n { d with rate := r }) := (h n { d with rate := r }).after rfl rfl
  unfold limited
  split
  · exact .either ⟨rfl, rfl⟩ (noted _ _)
  · exact noted _ _

theorem orBits_testsStill (d : Dev) (k m : Nat) : d.TestsStill (d.orBits k m) := ⟨rfl, rfl⟩

theorem bump_testsStill (d : Dev) (a n : Nat) : d.TestsStill (d.bump a n) := ⟨rfl, rfl⟩

theorem poisonNoted_testsStill (d : Dev) (m : FMap Bool) : d.TestsStill { d with poisonTold := m } := ⟨rfl, rfl⟩

theorem tellPoison_testsStill (d : Dev) (l : Nat) : d.TestsStill (d.tellPoison l) := by
  unfold tellPoison
  extract_lets a s d1
  have marked : d.TestsStill d1 := by
    unfold d1
    split
    · exact d.orBits_testsStill _ _
    · exact .refl d
  clear_value d1
  split
  · exact marked
  · exact (marked.trans (d1.poisonNoted_testsStill _)).trans (emit_testsStill _ _ _ _ _ _)

theorem noteRead_testsStill (d : Dev) (v : View) (a n : Nat) : d.TestsStill (d.noteRead v a n) := by
  unfold noteRead
  split
  · exact d.tellPoison_testsStill _
  · exact .refl d

theorem jobWrites_testsStill (d : Dev) (c : Nat) (ws : List (Nat × List Byte)) : d.TestsStill (d.jobWrites c ws) :=
  (d.jobWrites_safetyOnly c ws).testsStill

/-! ### Cores, waits and semaphores -/

theorem putCore_testsStill (d : Dev) (g : Nat) (k : Core) : d.TestsStill (d.putCore g k) := by
  rw [putCore_cores]
  exact ⟨rfl, rfl⟩

theorem haltCore_testsStill (d : Dev) (g cause : Nat) : d.TestsStill (d.haltCore g cause) :=
  have put := d.putCore_testsStill g { d.core g with halted := true }
  (limited_testsStill _ _ _ fun _ d => d.emit_testsStill _ _ _ _ _).after put.pav put.sec

theorem arrive_testsStill (d : Dev) (g : Nat) : d.TestsStill (d.arrive g) := .doneIf (d.haltCore_testsStill g 2)

theorem wake_testsStill (d : Dev) (g : Nat) (r : Regs → Regs) : d.TestsStill (d.wake g r) :=
  (d.putCore_testsStill g _).trans (arrive_testsStill _ g)

theorem advance_testsStill (d : Dev) (g : Nat) (r : Core → Core) : d.TestsStill (d.advance g r) :=
  (d.putCore_testsStill g _).trans (arrive_testsStill _ g)

theorem hold_testsStill (d : Dev) (g : Nat) (w : Wait) (remote : Bool) : d.TestsStill (d.hold g w remote) := d.putCore_testsStill g _

theorem setSem_testsStill (d : Dev) (n : Nat) (x : Sem) : d.TestsStill (d.setSem n x) := ⟨rfl, rfl⟩

theorem grantSem_testsStill (d : Dev) (n : Nat) : d.TestsStill (d.grantSem n) := by
  unfold grantSem
  dsimp only
  split
  · exact ((d.setSem_testsStill n _).trans (blkCount_testsStill _ _ _ _)).trans (wake_testsStill _ _ _)
  · exact .refl d

theorem releaseSem_testsStill (d : Dev) (n : Nat) (poison : Bool) : d.TestsStill (d.releaseSem n poison) :=
  (d.setSem_testsStill n _).trans (grantSem_testsStill _ n)

theorem modCore_testsStill (d : Dev) (g : Nat) (r : Core → Core) : d.TestsStill (d.modCore g r) := ⟨rfl, rfl⟩

theorem unwait_testsStill (d : Dev) (g : Nat) : d.TestsStill (d.unwait g) := ⟨rfl, rfl⟩

theorem stopCore_testsStill (d : Dev) (g : Nat) : d.TestsStill (d.stopCore g) := (d.unwait_testsStill g).trans (modCore_testsStill _ g _)

theorem detach_testsStill (d : Dev) (g : Nat) : d.TestsStill (d.detach g) := .doneIf ⟨rfl, rfl⟩

theorem stopAll_testsStill (d : Dev) (l : List Nat) : d.TestsStill (l.foldl (fun d g => (d.stopCore g).detach g) d) :=
  .foldl (fun d g => (d.stopCore_testsStill g).trans (detach_testsStill _ g)) l d

/-! ### Contexts that end (R109, R148) -/

theorem setCtx_testsStill (d : Dev) (c : Nat) (x : Ctx) : d.TestsStill (d.setCtx c x) := ⟨rfl, rfl⟩

theorem putCtx_testsStill (d : Dev) (c : Nat) (x : Ctx) : d.TestsStill (d.putCtx c x) :=
  (d.setCtx_testsStill c x).trans (d.putCtx_memOnly c x).testsStill

theorem setTicket_testsStill (d : Dev) (c t : Nat) (x : Option Ticket) : d.TestsStill (d.setTicket c t x) := ⟨rfl, rfl⟩

theorem completeTicket_testsStill (d : Dev) (c : Nat) (t : Option Nat) (status : BitVec 8) : d.TestsStill (d.completeTicket c t status) := by
  unfold completeTicket
  split
  · split
    · exact d.setTicket_testsStill _ _ _
    · exact .refl d
  · exact .refl d

theorem setEpoch_testsStill (d : Dev) (e : Nat) (x : Epoch) : d.TestsStill (d.setEpoch e x) := ⟨rfl, rfl⟩

theorem dropSaves_testsStill (d : Dev) (c : Nat) : d.TestsStill (d.dropSaves c) := ⟨rfl, rfl⟩

theorem dropTickets_testsStill (d : Dev) (c : Nat) : d.TestsStill (d.dropTickets c) := ⟨rfl, rfl⟩

theorem complete_testsStill (d : Dev) (k : Completion) : d.TestsStill (d.complete k) := ⟨rfl, rfl⟩

theorem giveUp_testsStill (d : Dev) (c : Nat) (status : BitVec 8) :
    d.TestsStill (((d.voidReservations c).dropEngines c).completeTickets c status) := ⟨rfl, rfl⟩

theorem recordsEdited_testsStill (d : Dev) (q : List Completion) : d.TestsStill { d with jfe := { d.jfe with cq := q } } := ⟨rfl, rfl⟩

theorem leaveEpoch_testsStill (d : Dev) (c : Nat) : d.TestsStill (d.leaveEpoch c) := .doneIf (d.setEpoch_testsStill _ _)

theorem endCtx_testsStill (d : Dev) (c : Nat) (status : BitVec 8) : d.TestsStill (d.endCtx c status) := by
  unfold endCtx
  dsimp only
  refine TestsStill.trans ?_ (resolverGone_memOnly _ _).testsStill
  refine TestsStill.trans ?_ (complete_testsStill _ _)
  refine TestsStill.trans ?_ (putCtx_testsStill _ c _)
  refine TestsStill.trans ?_ (dropTickets_testsStill _ c)
  refine TestsStill.trans ?_ (dropSaves_testsStill _ c)
  refine TestsStill.trans ?_ (leaveEpoch_testsStill _ c)
  exact (d.closeUnclosed_safetyOnly _ _ _).testsStill.trans (writerLost_memOnly _ c status).testsStill

theorem rerun_testsStill (d : Dev) (c : Nat) : d.TestsStill (d.rerun c) := by
  unfold rerun
  dsimp only
  generalize hd2 : emit _ _ _ _ _ _ = d2
  have reset : d.TestsStill d2 := by
    rw [← hd2]
    refine TestsStill.trans ?_ (emit_testsStill _ _ _ _ _ _)
    refine TestsStill.trans ?_ (putCtx_testsStill _ _ _)
    exact ((leaveEpoch_testsStill d c).trans (dropSaves_testsStill _ c)).trans (dropTickets_testsStill _ c)
  exact .either (reset.trans (endCtx_testsStill _ _ _)) reset

theorem endOrRerun_testsStill (d : Dev) (c : Nat) (status : BitVec 8) : d.TestsStill (d.endOrRerun c status) :=
  .either (d.rerun_testsStill c) (d.endCtx_testsStill c status)

theorem trigger_testsStill (d : Dev) (c : Nat) (status : BitVec 8) (storage : Bool) : d.TestsStill (d.trigger c status storage) := by
  unfold trigger
  dsimp only
  split
  · exact .refl d
  · exact .doneIf (setCtx_testsStill _ _ _)
  · exact .doneIf ((putCtx_testsStill _ _ _).trans (recordsEdited_testsStill _ _))
  · split
    · have stopped (x : Ctx) (l : List Nat) :
          d.TestsStill (l.foldl (fun d g => (d.stopCore g).detach g) ((d.writerLost c status).putCtx c x)) :=
        ((writerLost_memOnly _ _ _).testsStill.trans (putCtx_testsStill _ c x)).trans (stopAll_testsStill _ _)
      exact TestsStill.trans (.either ((stopped _ _).trans (bump_testsStill _ _ _)) (stopped _ _)) (giveUp_testsStill _ c status)
    · exact (setCtx_testsStill _ _ _).trans (endOrRerun_testsStill _ _ _)

theorem coreFault_testsStill (d : Dev) (g : Nat) (x : SedunFault) : d.TestsStill (d.coreFault g x) := by
  unfold coreFault
  dsimp only
  have told := (d.putCore_testsStill g { d.core g with fault := BitVec.ofNat 8 x.code }).trans
    (emit_testsStill _ (coreBlock g) 0x0210 2 g (x.code * 2 ^ 24 + d.codeOffset g))
  split
  · exact told.trans (trigger_testsStill _ _ _ _)
  · exact told

end Dev

namespace Dev

variable {d e f : Dev}

/-! ### Epochs (R195–R206) -/

theorem streamsSet_testsStill (d : Dev) (m : FMap (Option Seq)) : d.TestsStill { d with seqs := m } := ⟨rfl, rfl⟩

theorem mapStreams_testsStill (d : Dev) (e : Nat) (r : Nat → Nat) (void : Bool) : d.TestsStill (d.mapStreams e r void) := by
  unfold mapStreams
  refine .foldl (fun d s => ?_) _ _
  split
  · refine .foldl (fun d st => ?_) _ _
    dsimp only
    refine .doneIf ?_
    have stored (a : Nat) (bs : List Byte) : d.TestsStill (d.wr View.plain a bs) := (d.wr_memOnly _ _ _).testsStill
    split
    · split
      · exact (stored _ _).trans (streamsSet_testsStill _ _)
      · exact stored _ _
    · exact stored _ _
  · exact .refl d

theorem confirmed_testsStill (d : Dev) (m : FMap Nat) (held : List HeldWrite) :
    d.TestsStill { d with mirrorDue := m, jfe := { d.jfe with heldWrites := held } } := ⟨rfl, rfl⟩

theorem confirm_testsStill (d : Dev) (e : Nat) : d.TestsStill (d.confirm e) := by
  unfold confirm
  dsimp only
  refine TestsStill.trans ?_ (emit_testsStill _ _ _ _ _ _)
  refine TestsStill.trans ?_ (setEpoch_testsStill _ _ _)
  refine TestsStill.trans ?_ (mapStreams_testsStill _ _ _ _)
  refine TestsStill.trans ?_ (confirmed_testsStill _ _ _)
  exact .foldl (fun d l => (d.untag_memOnly l).testsStill) _ _

theorem askSquash_testsStill (d : Dev) (e reason : Nat) : d.TestsStill (d.askSquash e reason) := (d.askSquash_memOnly e reason).testsStill

theorem tagsLost_testsStill (d : Dev) (m : FMap LineTag) (held : List HeldWrite) :
    d.TestsStill { d with tags := m, jfe := { d.jfe with heldWrites := held } } := ⟨rfl, rfl⟩

theorem squash_testsStill (d : Dev) (e reason : Nat) : d.TestsStill (d.squash e reason) := by
  unfold squash
  dsimp only
  refine .doneUnless ?_
  refine TestsStill.trans ?_ (.foldl (fun d (k : Nat × Epoch) => .doneIf (d.askSquash_testsStill k.1 0x05)) _ _)
  refine TestsStill.trans ?_ (.foldl (fun d c => d.trigger_testsStill c stSpecSquashed false) _ _)
  refine TestsStill.trans ?_ (emit_testsStill _ _ _ _ _ _)
  refine TestsStill.trans ?_ (bump_testsStill _ _ _)
  refine TestsStill.trans ?_ (setEpoch_testsStill _ _ _)
  refine TestsStill.trans ?_ (mapStreams_testsStill _ _ _ _)
  exact tagsLost_testsStill d _ _

theorem openEpoch_testsStill (d : Dev) (e c : Nat) : d.TestsStill (d.openEpoch e c) := by
  unfold openEpoch
  dsimp only
  exact .either ((setEpoch_testsStill _ _ _).trans (squash_testsStill _ _ _)) (setEpoch_testsStill _ _ _)

theorem join_testsStill (d : Dev) (c : Nat) : d.TestsStill (d.join c) := by
  unfold join
  dsimp only
  have joined (x : Epoch) (r : Ctx → Ctx) : d.TestsStill ((d.setEpoch (d.ctx c).inv.writeEpoch x).modCtx c r) :=
    (setEpoch_testsStill _ _ _).trans (setCtx_testsStill _ _ _)
  exact .either ((joined _ _).trans (askSquash_testsStill _ _ _)) (joined _ _)

theorem epochReady_testsStill (d : Dev) (c : Nat) : d.TestsStill (d.epochReady c) := by
  unfold epochReady
  dsimp only
  refine .doneUnless (.either (.doneUnless (d.endOrRerun_testsStill c _)) (.either (d.endCtx_testsStill c _) (.doneUnless ?_)))
  split
  · exact d.join_testsStill c
  · exact d.setCtx_testsStill c _
  · exact d.endOrRerun_testsStill c _
  · refine .either (.doneUnless ((d.setCtx_testsStill c _).trans (emit_testsStill _ _ _ _ _ _))) ?_
    exact .either ((d.openEpoch_testsStill _ c).trans (join_testsStill _ c)) ((d.openEpoch_testsStill _ c).trans (endOrRerun_testsStill _ c _))

/-! ### Checkpoints (R153–R155) -/

theorem suspendIfSaved_testsStill (d : Dev) (c : Nat) : d.TestsStill (d.suspendIfSaved c) := by
  unfold suspendIfSaved
  dsimp only
  refine .doneIf ?_
  refine TestsStill.trans ?_ (bump_testsStill _ _ _)
  exact TestsStill.trans (.foldl (fun d g => d.modCore_testsStill g _) _ _) (putCtx_testsStill _ c _)

theorem savesSet_testsStill (d : Dev) (m : FMap (Option SaveSlot)) : d.TestsStill { d with jfe := { d.jfe with saves := m } } := ⟨rfl, rfl⟩

theorem saveCore_testsStill (d : Dev) (c g : Nat) (k : Checkpoint) : d.TestsStill (d.saveCore c g k) :=
  ((d.savesSet_testsStill _).trans (putCore_testsStill _ g _)).trans (suspendIfSaved_testsStill _ c)

theorem yldDone_testsStill (d : Dev) (g : Nat) (x : FmtC) : d.TestsStill (d.yldDone g x) := by
  unfold yldDone
  split
  · exact d.saveCore_testsStill _ g _
  · exact .refl d

theorem endDone_testsStill (d : Dev) (g : Nat) : d.TestsStill (d.endDone g) := by
  unfold endDone
  dsimp only
  refine TestsStill.trans ?_ (suspendIfSaved_testsStill _ _)
  refine TestsStill.trans ?_ (setCtx_testsStill _ _ _)
  refine TestsStill.trans ?_ (putCore_testsStill _ _ _)
  exact .foldl (fun d t => d.setTicket_testsStill _ t none) _ _

theorem request_testsStill (d : Dev) (c by_ : Nat) : d.TestsStill (d.request c by_) := by
  unfold request
  dsimp only
  split
  · exact .refl d
  · refine .doneUnless (.either (d.trigger_testsStill c _ false) ?_)
    exact (d.putCtx_testsStill c _).trans (emit_testsStill _ _ _ _ _ _)

end Dev

namespace Dev

variable {d e f : Dev}

/-! ### Instructions that are tried again (R96, R108–R114, R199, R201) -/

/-- An effect that leaves the tests as they are, where it is no fault. -/
def OpStill (d : Dev) : Except SedunFault Effect → Prop
  | .ok (_, e) => d.TestsStill e
  | .error _ => True

theorem OpStill.faultIf {p : Bool} {x : SedunFault} {r : Except SedunFault Effect} (h : d.OpStill r) : d.OpStill (faultIf p x r) := by
  cases p with
  | true => trivial
  | false => exact h

theorem drawn_testsStill (d : Dev) (n : Nat) : d.TestsStill (d.drawBytes n).2 := ⟨rfl, rfl⟩

theorem lsView_testsStill (d : Dev) (g : Nat) (ls : List Nat) : d.TestsStill (d.lsView g ls).2 := by
  unfold lsView
  dsimp only
  split
  · exact .refl d
  · exact d.drawn_testsStill _

theorem lsLoad_testsStill (d : Dev) (g a n : Nat) : d.TestsStill (d.lsLoad g a n).2 := d.lsView_testsStill g _

theorem enqueueDma_testsStill (d : Dev) (g : Nat) (e : DmaEntry) : d.TestsStill (d.enqueueDma g e) := by
  unfold enqueueDma
  have viewed : d.TestsStill (if e.writesOut then d.lsView g ((e.lsBytes.map (· / 64)).eraseDups) else (d.core g, d)).2 := by
    split
    · exact d.lsView_testsStill g _
    · exact .refl d
  revert viewed
  generalize (if e.writesOut then d.lsView g ((e.lsBytes.map (· / 64)).eraseDups) else (d.core g, d)) = p
  intro viewed
  dsimp only
  split
  · split
    · have met (c r : Nat) : d.TestsStill (p.2.streamConflict c r).2 := viewed.trans (streamConflict_memOnly _ _ _).testsStill
      split
      · exact ((met _ _).trans (streamsSet_testsStill _ _)).trans (advance_testsStill _ _ _)
      · exact (met _ _).trans (advance_testsStill _ _ _)
    · exact viewed.trans (advance_testsStill _ _ _)
  · exact viewed.trans (advance_testsStill _ _ _)

theorem dmaOp_still (d : Dev) (g : Nat) (x : FmtX) : d.OpStill (dmaOp x d g) := by
  unfold dmaOp
  split
  · trivial
  · next a _ =>
    dsimp only
    have loaded := d.lsLoad_testsStill g a 64
    split
    · trivial
    · split
      · exact d.hold_testsStill g _ _
      · split
        · exact loaded.trans (trigger_testsStill _ _ _ _)
        · exact loaded.trans (enqueueDma_testsStill _ g _)

theorem dmawOp_still (d : Dev) (g : Nat) (x : FmtX) : d.OpStill (dmawOp x d g) :=
  .faultIf (TestsStill.either (d.advance_testsStill g _) (d.hold_testsStill g _ _))

theorem fenceOp_still (d : Dev) (g : Nat) (x : FmtX) : d.OpStill (fenceOp x d g) :=
  .faultIf (TestsStill.either (d.advance_testsStill g _) (d.hold_testsStill g _ _))

theorem semrOp_still (d : Dev) (g : Nat) (x : FmtX) : d.OpStill (semrOp x d g) := by
  unfold semrOp
  split
  · trivial
  · refine .faultIf ?_
    split
    · exact d.trigger_testsStill _ _ _
    · split
      · exact d.hold_testsStill g _ _
      · exact (d.releaseSem_testsStill _ _).trans (advance_testsStill _ g _)

theorem accessStop_testsStill {g a n : Nat} {read : Bool} (h : d.accessStop g a n read = some e) : d.TestsStill e := by
  unfold accessStop at h
  dsimp only at h
  split at h
  · obtain rfl := Option.some.inj h
    exact (TestsStill.doneIf (d.noteRead_testsStill _ _ _)).trans (trigger_testsStill _ _ _ _)
  · nomatch h

theorem amoOp_still (d : Dev) (g : Nat) (x : FmtX) : d.OpStill (amoOp x d g) := by
  unfold amoOp
  dsimp only
  split
  · trivial
  · split
    · next stopped => exact accessStop_testsStill stopped
    · split
      · exact d.hold_testsStill g _ _
      · refine TestsStill.trans ?_ (advance_testsStill _ g _)
        refine TestsStill.trans ?_ (blkCount_testsStill _ _ _ _)
        split
        · exact d.jobWrites_testsStill _ _
        · exact .refl d

theorem mwaitOp_still (d : Dev) (g : Nat) (x : FmtX) : d.OpStill (mwaitOp x d g) := by
  unfold mwaitOp
  dsimp only
  split
  · trivial
  · split
    · next stopped => exact accessStop_testsStill stopped
    · split
      · exact d.advance_testsStill g _
      · exact d.hold_testsStill g _ _

theorem ticketNumbered_testsStill (d : Dev) (m : FMap Nat) : d.TestsStill { d with ticketSeq := m } := ⟨rfl, rfl⟩

theorem newTicket_testsStill (d : Dev) (g tgt die : Nat) : d.TestsStill (d.newTicket g tgt die).2 := by
  unfold newTicket
  dsimp only
  exact ((d.ticketNumbered_testsStill _).trans (setTicket_testsStill _ _ _ _)).trans (modCore_testsStill _ _ _)

theorem ordered_testsStill (d : Dev) (n : Nat) : d.TestsStill { d with jfe := { d.jfe with order := n } } := ⟨rfl, rfl⟩

theorem pushCairn_testsStill (d : Dev) (k : EngCmd) : d.TestsStill (d.pushCairn k) := ⟨rfl, rfl⟩

theorem setEng_testsStill (d : Dev) (n k : Nat) (x : Eng) : d.TestsStill (d.setEng n k x) := ⟨rfl, rfl⟩

theorem eissOp_still (d : Dev) (g : Nat) (x : FmtE) : d.OpStill (eissOp x d g) := by
  unfold eissOp
  dsimp only
  refine .faultIf (.faultIf (.faultIf (.faultIf ?_)))
  generalize (if x.tgt.toNat = 4 then 8 else eissDie x g) = die
  have numbered := d.newTicket_testsStill g x.tgt.toNat die
  generalize d.newTicket g x.tgt.toNat die = t at numbered ⊢
  split
  · exact d.hold_testsStill g _ _
  · split
    · exact (numbered.trans (completeTicket_testsStill _ _ _ _)).trans (advance_testsStill _ g _)
    · split
      · exact d.hold_testsStill g _ _
      · refine TestsStill.trans ?_ (advance_testsStill _ g _)
        refine (numbered.trans (t.2.ordered_testsStill (t.2.jfe.order + 1))).trans ?_
        generalize ({ t.2 with jfe := { t.2.jfe with order := t.2.jfe.order + 1 } } : Dev) = d2
        exact .either ((d2.pushCairn_testsStill _).trans (setCtx_testsStill _ _ _)) (d2.setEng_testsStill _ _ _)

theorem ewaitOp_still (d : Dev) (g : Nat) (x : FmtE) : d.OpStill (ewaitOp x d g) := by
  unfold ewaitOp
  split
  · trivial
  · exact d.advance_testsStill g _
  · exact d.hold_testsStill g _ _

theorem epwaitOp_still (d : Dev) (g : Nat) (x : FmtE) : d.OpStill (epwaitOp x d g) := by
  unfold epwaitOp
  split
  · trivial
  · exact TestsStill.either (d.hold_testsStill g _ _) (d.advance_testsStill g _)

theorem resolve_testsStill (d : Dev) (e : Nat) (actual : List Nat) : d.TestsStill (d.resolve e actual) :=
  .doneUnless (.either (d.setEpoch_testsStill e _) (d.askSquash_testsStill e 0x01))

theorem eprslvOp_still (d : Dev) (g : Nat) (x : FmtE) : d.OpStill (eprslvOp x d g) := by
  unfold eprslvOp
  dsimp only
  refine .faultIf (.faultIf (.faultIf (.faultIf (.faultIf ?_))))
  split
  · exact d.advance_testsStill g _
  · split
    · refine .faultIf ?_
      have loaded (a n : Nat) := d.lsLoad_testsStill g a n
      exact TestsStill.trans (.either ((loaded _ _).trans (resolve_testsStill _ _ _)) (loaded _ _)) (hold_testsStill _ g _ _)
    · split
      · exact ((d.setEpoch_testsStill _ _).trans (emit_testsStill _ _ _ _ _ _)).trans (advance_testsStill _ g _)
      · exact d.hold_testsStill g _ _

theorem setPort_testsStill (d : Dev) (n p : Nat) (x : Port) : d.TestsStill (d.setPort n p x) := ⟨rfl, rfl⟩

theorem crdbOp_still (d : Dev) (g : Nat) (x : FmtE) : d.OpStill (crdbOp x d g) := by
  unfold crdbOp
  dsimp only
  refine .faultIf (.faultIf ?_)
  split
  · exact d.advance_testsStill g _
  · split
    · exact (d.setPort_testsStill _ _ _).trans (advance_testsStill _ g _)
    · exact d.hold_testsStill g _ _

theorem again_testsStill (d : Dev) (g : Nat) {op : Dev → Nat → Except SedunFault Effect} (h : ∀ d : Dev, d.OpStill (op d g)) :
    d.TestsStill (d.again g op) := by
  unfold again
  dsimp only
  refine (d.modCore_testsStill g (fun k => { k with wait := .none, remoteSince := none })).trans ?_
  generalize d.modCore g (fun k => { k with wait := .none, remoteSince := none }) = d0
  have tried := h d0
  split
  · exact d0.coreFault_testsStill g _
  · next done =>
    rw [done] at tried
    exact .either tried (TestsStill.trans tried (modCore_testsStill _ _ _))

theorem retry_testsStill (d : Dev) (g : Nat) : d.TestsStill (d.retry g) := by
  unfold retry
  split
  case h_1 | h_2 => exact .refl d
  case h_3 x _ => exact d.again_testsStill g fun d => dmaOp_still d g x
  case h_4 x _ => exact d.again_testsStill g fun d => dmawOp_still d g x
  case h_5 x _ => exact d.again_testsStill g fun d => semrOp_still d g x
  case h_6 x _ => exact d.again_testsStill g fun d => amoOp_still d g x
  case h_7 x _ => exact d.again_testsStill g fun d => mwaitOp_still d g x
  case h_8 x _ => exact d.again_testsStill g fun d => fenceOp_still d g x
  case h_9 x _ => exact (d.modCore_testsStill g _).trans (yldDone_testsStill _ g x)
  case h_10 => exact d.endDone_testsStill g
  case h_11 x _ => exact d.again_testsStill g fun d => eissOp_still d g x
  case h_12 x _ => exact d.again_testsStill g fun d => ewaitOp_still d g x
  case h_13 x _ => exact d.again_testsStill g fun d => epwaitOp_still d g x
  case h_14 x _ => exact d.again_testsStill g fun d => eprslvOp_still d g x
  case h_15 x _ => exact d.again_testsStill g fun d => crdbOp_still d g x

end Dev

namespace Dev

variable {d e f : Dev}

/-! ### Fences (R158, R325–R327, R330, R354, R418) -/

theorem mirrorTo_testsStill (d : Dev) (key : Nat) (m : Mirror) (st : MirrorSt) : d.TestsStill (d.mirrorTo key m st) := by
  unfold mirrorTo
  dsimp only
  refine .doneUnless ?_
  exact (emit_testsStill _ _ _ _ _ _).after rfl rfl

theorem mirrorsLost_testsStill (d : Dev) : d.TestsStill d.mirrorsLost := by
  unfold mirrorsLost
  refine .foldl (fun d x => ?_) _ _
  split
  · exact d.mirrorTo_testsStill _ _ _
  · exact .refl d

theorem setFence_testsStill (d : Dev) (u : Nat) : d.TestsStill (d.setFence u) := .doneUnless ⟨rfl, rfl⟩

theorem declareFence_testsStill (d : Dev) (q u cause : Nat) : d.TestsStill (d.declareFence q u cause) := by
  unfold declareFence
  dsimp only
  refine .doneUnless ?_
  refine TestsStill.trans ?_ (canQueue_safetyOnly _ _ _ _ _ _).testsStill
  refine TestsStill.trans ?_ (setFence_testsStill _ u)
  exact ((setQuoin_safetyOnly _ _ _).trans (emit_safetyOnly _ _ _ _ _ _)).testsStill

theorem declareBoth_testsStill (d : Dev) (u cause : Nat) : d.TestsStill (d.declareBoth u cause) :=
  (d.declareFence_testsStill 0 u cause).trans (declareFence_testsStill _ 1 u cause)

theorem reroute_testsStill (d old : Dev) : d.TestsStill (d.reroute old) := by
  unfold reroute
  exact TestsStill.trans (.foldl (fun d _ => d.emit_testsStill _ _ _ _ _) _ _) (.foldl (fun d n => .doneIf (d.declareBoth_testsStill _ 3)) _ _)

theorem stopLink_testsStill (d : Dev) (n p : Nat) (st : PortSt) : d.TestsStill (d.stopLink n p st) :=
  (d.setPort_testsStill n p _).trans (setPort_testsStill _ _ _ _)

theorem linkFence_testsStill (d : Dev) (n p : Nat) : d.TestsStill (d.linkFenced_ n p) := by
  unfold linkFenced_
  dsimp only
  refine TestsStill.trans ?_ (reroute_testsStill _ _)
  refine TestsStill.trans ?_ (.foldl (fun d c => d.trigger_testsStill c stFencedResource false) _ _)
  exact .doneUnless ((d.stopLink_testsStill n p .fenced).trans (emit_testsStill _ _ _ _ _ _))

theorem planCounts_testsStill (d : Dev) (k : EngCmd) (st : Nat) : d.TestsStill (d.planCounts k st) := by
  unfold planCounts
  dsimp only
  have counted : d.TestsStill (if st = 8 then (d.bump CRN_PLAN_COUNT 1).bump CRN_NOPATH_COUNT 1
      else if st = 9 then (d.bump CRN_PLAN_COUNT 1).bump CRN_TIMEOUT_COUNT 1 else d.bump CRN_PLAN_COUNT 1) :=
    (d.bump_testsStill _ _).trans (.either (bump_testsStill _ _ _) (.doneIf (bump_testsStill _ _ _)))
  exact .either (counted.trans (planFailed_safetyOnly _ k st).testsStill) counted

theorem crnEnd_testsStill (d : Dev) (k : EngCmd) (bs tail : List Byte) (h : ResultHead) : d.TestsStill (d.crnEnd k bs tail h) := by
  unfold crnEnd
  extract_lets a d1 d2
  have written : d.TestsStill d1 :=
    .doneIf (TestsStill.trans (.doneUnless (d.jobWrites_testsStill _ _)) (jobWrites_testsStill _ _ _))
  have counted : d.TestsStill d2 := TestsStill.trans written (.doneIf (planCounts_testsStill _ k _))
  clear_value d1 d2
  split
  · exact counted.trans (completeTicket_testsStill _ _ _ _)
  · exact (counted.trans (setCtx_testsStill _ _ _)).trans (endCtx_testsStill _ _ _)

theorem crnSet_testsStill (d : Dev) (c : Cairn) : d.TestsStill { d with crn := c } := ⟨rfl, rfl⟩

theorem crnClear_testsStill (d : Dev) (st : Nat) : d.TestsStill (d.crnClear st) := by
  unfold crnClear
  extract_lets c d1 d2
  have emptied : d.TestsStill d1 := d.crnSet_testsStill _
  have ended : d.TestsStill d2 := by
    unfold d2
    split
    · exact emptied.trans (crnEnd_testsStill _ _ _ _ _)
    · exact emptied
  clear_value d2
  split
  · exact ended.trans (crnEnd_testsStill _ _ _ _ _)
  · exact ended

theorem crnFenced_testsStill (d : Dev) : d.TestsStill d.crnFenced := by
  unfold crnFenced
  dsimp only
  refine TestsStill.trans ((d.crnSet_testsStill _).trans (crnClear_testsStill _ _)) (.foldl (fun d k => ?_) _ _)
  split
  · exact d.completeTicket_testsStill _ _ _
  · exact d.endCtx_testsStill _ _

theorem setHodQ_testsStill (d : Dev) (q : Nat) (x : HodQ) : d.TestsStill (d.setHodQ q x) := ⟨rfl, rfl⟩

theorem hodFence_testsStill (d : Dev) (q : Nat) : d.TestsStill (d.hodFence q) := by
  unfold hodFence
  split
  · exact .doneUnless ((d.setHodQ_testsStill q _).trans (emit_testsStill _ _ _ _ _ _))
  · exact .refl d

theorem hodFences_testsStill (d : Dev) : d.TestsStill d.hodFences := .foldl (fun d q => d.hodFence_testsStill q) _ _

/-- Domains are gated only once start-up has ended. -/
theorem regate_of_starting (starting : d.sec.boot.stage ≠ 0x80) (off : Nat → Bool) : d.regate off = d := if_pos starting

theorem fenceApply_testsStill (u : Nat) (starting : d.sec.boot.stage ≠ 0x80) : d.TestsStill (d.fenceApply u) := by
  unfold fenceApply
  extract_lets n d1 a b d2
  have ended : d.TestsStill d1 := .foldl (fun d c => d.trigger_testsStill c stFencedResource false) _ _
  have squashed : d.TestsStill b :=
    (ended.trans (.foldl (fun d c => d.trigger_testsStill c stFencedResource false) _ _)).trans (.foldl (fun d e => d.askSquash_testsStill e 0x03) _ _)
  clear_value d1 b
  have lost : d.TestsStill d2 := by
    unfold d2
    split
    · exact TestsStill.trans ended (.doneIf d1.crnFenced_testsStill)
    · exact ended.trans (linkFence_testsStill _ _ _)
    · exact (squashed.trans b.mirrorsLost_testsStill).trans (reroute_testsStill _ _)
    · exact ended
  clear_value d2
  have fenced : d.TestsStill d2.hodFences := lost.trans d2.hodFences_testsStill
  rw [regate_of_starting (by rw [fenced.sec]; exact starting)]
  exact fenced

/-! ### What becomes due while start-up has not begun -/

/-- Start-up has not begun, and no slice runs at the place. -/
structure Untested (d : Dev) (p : Nat) : Prop where
  stage : d.sec.boot.stage = 0
  slice : d.slice p = none

variable {p : Nat}

theorem Untested.of_still (k : d.Untested p) (h : d.TestsStill e) : e.Untested p := by
  refine ⟨by rw [h.sec]; exact k.stage, ?_⟩
  have same : e.slice p = d.slice p := congrArg (fun v : Pavane => FMap.get none v.running p) h.pav
  exact same.trans k.slice

theorem squashStep_testsStill (h : d.squashStep = some e) : d.TestsStill e := by
  unfold squashStep at h
  split at h
  · nomatch h
  · obtain rfl := Option.some.inj h
    exact (squash_testsStill _ _ _).after rfl rfl

theorem fenceStep_testsStill (h : d.fenceStep = some e) (starting : d.sec.boot.stage ≠ 0x80) : d.TestsStill e := by
  unfold fenceStep at h
  split at h
  · nomatch h
  · next us _ =>
    obtain rfl := Option.some.inj h
    exact (fenceApply_testsStill (d := { d with newFences := us }) _ starting).after rfl rfl

theorem stopStep_testsStill (h : d.stopStep = some e) : d.TestsStill e := by
  unfold stopStep at h
  dsimp only at h
  split at h
  · nomatch h
  · split at h
    · nomatch h
    · obtain rfl := Option.some.inj h
      exact TestsStill.trans (.foldl (fun d e => d.askSquash_testsStill e 0x0A) _ _) (.foldl (fun d c => d.trigger_testsStill c stSafeState false) _ _)

theorem confirmStep_testsStill (h : d.confirmStep = some e) : d.TestsStill e := by
  obtain ⟨k, -, due⟩ := List.exists_of_findSome?_eq_some h
  split at due
  · split at due
    · obtain rfl := Option.some.inj due
      exact d.squash_testsStill _ _
    · split at due
      · obtain rfl := Option.some.inj due
        exact d.confirm_testsStill _
      · nomatch due
  · nomatch due

/-- A register of a block that does not serve takes no write. -/
theorem writeReg_of_starting (stage : d.sec.boot.stage = 0) (w : Writer) (off : Nat) (v : W32) : d.writeReg w off v = d := by
  have idle (b : Block) : d.serves b = false := by
    unfold serves
    rw [stage]
    rfl
  unfold writeReg
  split
  · rfl
  · next b _ => exact if_pos (by rw [idle b]; rfl)

theorem heldStep_testsStill (h : d.heldStep = some e) (stage : d.sec.boot.stage = 0) : d.TestsStill e := by
  unfold heldStep at h
  split at h
  · next x _ =>
    obtain rfl := Option.some.inj h
    rw [writeReg_of_starting (d := { d with jfe := { d.jfe with heldWrites := d.jfe.heldWrites.erase x } }) stage]
    exact ⟨rfl, rfl⟩
  · nomatch h

theorem limitStep_testsStill (h : d.limitStep = some e) : d.TestsStill e := by
  unfold limitStep at h
  split at h
  · nomatch h
  · obtain ⟨k, -, due⟩ := List.exists_of_findSome?_eq_some h
    split at due
    · obtain rfl := Option.some.inj due
      exact d.epochReady_testsStill _
    · nomatch due

theorem requestStep_testsStill (h : d.requestStep = some e) : d.TestsStill e := by
  obtain ⟨k, -, due⟩ := List.exists_of_findSome?_eq_some h
  split at due
  · obtain ⟨x, -, asked⟩ := List.exists_of_findSome?_eq_some due
    dsimp only at asked
    split at asked
    · split at asked
      · nomatch asked
      · obtain rfl := Option.some.inj asked
        exact d.request_testsStill _ _
    · nomatch asked
  · nomatch due

theorem wakeStep_testsStill (h : d.wakeStep = some e) : d.TestsStill e := by
  obtain ⟨k, -, rfl⟩ := Option.map_eq_some_iff.mp h
  exact d.retry_testsStill _

theorem zeroStep_testsStill (h : d.zeroStep = some e) : d.TestsStill e := by
  obtain ⟨k, -, due⟩ := List.exists_of_findSome?_eq_some h
  dsimp only at due
  split at due
  · split at due
    · nomatch due
    · obtain rfl := Option.some.inj due
      exact .foldl (fun d g => d.modCore_testsStill g _) _ _
  · nomatch due

theorem lostStep_untested (h : d.lostStep = some e) : e.Untested p := by
  unfold lostStep at h
  split at h
  · obtain rfl := Option.some.inj h
    exact ⟨rfl, rfl⟩
  · nomatch h

theorem nextStep_untested (h : d.nextStep = some e) (k : d.Untested p) : e.Untested p := by
  have starting : d.sec.boot.stage ≠ 0x80 := by rw [k.stage]; decide
  unfold nextStep at h
  simp only [Option.orElse_eq_orElse, Option.orElse_eq_or, Option.or_eq_some_iff] at h
  obtain squash | ⟨-, fence | ⟨-, lost | ⟨-, stop | ⟨-, confirm | ⟨-, held | ⟨-, limit | ⟨-, request | ⟨-, wake | ⟨-, zero⟩⟩⟩⟩⟩⟩⟩⟩⟩ := h
  · exact k.of_still (squashStep_testsStill squash)
  · exact k.of_still (fenceStep_testsStill fence starting)
  · exact lostStep_untested lost
  · exact k.of_still (stopStep_testsStill stop)
  · exact k.of_still (confirmStep_testsStill confirm)
  · exact k.of_still (heldStep_testsStill held k.stage)
  · exact k.of_still (limitStep_testsStill limit)
  · exact k.of_still (requestStep_testsStill request)
  · exact k.of_still (wakeStep_testsStill wake)
  · exact k.of_still (zeroStep_testsStill zero)

theorem settleLoop_untested : ∀ (n : Nat) {d : Dev}, d.Untested p → (settleLoop n d).Untested p
  | 0, _, k => k
  | n + 1, d, k => by
    unfold settleLoop
    split
    · next due => exact settleLoop_untested n (nextStep_untested due k)
    · exact k

theorem settleLoss_testsStill (d : Dev) : d.TestsStill d.settleLoss := .doneUnless ⟨rfl, rfl⟩

/-- No effect that becomes due begins a slice before start-up. -/
theorem settle_untested (k : d.Untested p) : d.settle.Untested p := (settleLoop_untested settleFuel k).of_still (settleLoss_testsStill _)

/-- Where nothing is due, only the loss charged may be taken back. -/
theorem settle_of_idle (idle : d.nextStep = none) : d.settle = d.settleLoss := by
  have stays : settleLoop (999999 + 1) d = d := by
    unfold settleLoop
    rw [idle]
  exact congrArg settleLoss stays

end Dev

/-! ### A record of slices that names a place twice -/

/-- A slice of segment 0, begun in the lowest bands. -/
def firstSlice : PavSlice := { seg := 0, startNs := 0, startTick := 0, tband := 0, aband := 0, throttle := 0, atOnce := false }

/-- Before start-up, with cluster 0 of die 1 listed twice in the record of slices: first without one, then with one. -/
def listedTwice : State := { State.reset with dev := { Dev.reset with pav := { Pavane.reset with running := [(8, none), (8, some firstSlice)] } } }

/-- The device as the change of die 0's temperature band to 1 leaves it. -/
def bandChanged : Dev := listedTwice.dev.fresh.bandFx 0 1 0

theorem listedTwice_slice : listedTwice.dev.slice 8 = none := by decide

/-- The change of band drops the entry that holds nothing, and the one behind it shows. -/
theorem bandChanged_slice : bandChanged.slice 8 = some firstSlice := by decide

theorem bandChanged_idle : bandChanged.nextStep = none := by decide

theorem bandChanged_settle_slice : bandChanged.settle.slice 8 = some firstSlice := by
  rw [Dev.settle_of_idle bandChanged_idle]
  have same := congrArg (fun v : Pavane => FMap.get none v.running 8) bandChanged.settleLoss_testsStill.pav
  exact same.trans bandChanged_slice

theorem exec_bandChange : exec (.bandChange 0 1 0) listedTwice = .next { listedTwice with dev := bandChanged.settle.keepHw listedTwice.dev.hw } := rfl

/-- Refutes O51: where the record of slices lists a place twice, a change of band at one die lets a slice appear at a place of another, because it
drops the entry that holds nothing and the one behind it then counts. -/
theorem not_pavaneResults : ¬ Obligations.PavaneResults := by
  unfold Obligations.PavaneResults
  intro h
  obtain ⟨-, -, -, band, -⟩ := h listedTwice
  obtain ⟨x, answer, -, others, -, rest⟩ := band 0 1 0 rfl (by decide) (by decide) (by decide)
  have still : x.Untested 8 := ⟨by rw [rest]; rfl, (others 8 (by decide)).trans listedTwice_slice⟩
  have settled : x.settle.slice 8 = bandChanged.settle.slice 8 := by
    rw [exec_bandChange] at answer
    injection answer with same
    exact congrArg (fun t : State => t.dev.slice 8) same.symm
  rw [(Dev.settle_untested still).slice, bandChanged_settle_slice] at settled
  nomatch settled

end Sys2Proof.Machine
end

section
/-! SUPPORT. Start-up's state under the writes of registers (R5–R11): no write of a register starts the package up or resets it. -/
namespace Sys2Proof.Machine

/-- How far start-up has come, and the slots it took, are the same. -/
def Dev.BootKept (d e : Dev) : Prop := e.sec.boot = d.sec.boot

namespace Dev

variable {d e f : Dev}

namespace BootKept

theorem refl (d : Dev) : d.BootKept d := rfl
theorem trans (h : d.BootKept e) (k : e.BootKept f) : d.BootKept f := Eq.trans k h
theorem of_sec (h : e.sec = d.sec) : d.BootKept e := congrArg Security.boot h
theorem foldl {β : Type} {g : Dev → β → Dev} (h : ∀ (d : Dev) b, d.BootKept (g d b)) (l : List β) (d : Dev) : d.BootKept (l.foldl g d) :=
  List.foldlRecOn (motive := fun e => d.BootKept e) l g (refl d) fun e he b _ => he.trans (h e b)
theorem either {p : Prop} [Decidable p] (h : d.BootKept e) (k : d.BootKept f) : d.BootKept (if p then e else f) := by
  split
  · exact h
  · exact k
theorem doneIf {p : Prop} [Decidable p] (h : d.BootKept e) : d.BootKept (if p then e else d) := either h (refl d)
theorem doneUnless {p : Prop} [Decidable p] (h : d.BootKept e) : d.BootKept (if p then d else e) := either (refl d) h

end BootKept

theorem TestsStill.bootKept (h : d.TestsStill e) : d.BootKept e := .of_sec h.sec

theorem SafetyOnly.bootKept (h : d.SafetyOnly e) : d.BootKept e := h.testsStill.bootKept

theorem PowerStill.bootKept (h : d.PowerStill e) : d.BootKept e := .of_sec h.sec

theorem Answered.bootKept (h : d.Answered e) : d.BootKept e := by
  unfold BootKept
  rw [h.eq]

theorem emit_bootKept (d : Dev) (b : Block) (code sev a0 a1 : Nat) : d.BootKept (d.emit b code sev a0 a1) := (d.emit_testsStill b code sev a0 a1).bootKept

theorem wr_bootKept (d : Dev) (v : View) (a : Nat) (bs : List Byte) : d.BootKept (d.wr v a bs) := (d.wr_memOnly v a bs).safetyOnly.bootKept

theorem setQuoin_bootKept (d : Dev) (q : Nat) (x : Quoin) : d.BootKept (d.setQuoin q x) := (d.setQuoin_safetyOnly q x).bootKept

/-! ### Registers that hold a value -/

theorem setReg_bootKept (d : Dev) (k : Nat) (v : W32) : d.BootKept (d.setReg k v) := rfl

theorem setNat_bootKept (d : Dev) (k v : Nat) : d.BootKept (d.setNat k v) := rfl

theorem orBits_bootKept (d : Dev) (k m : Nat) : d.BootKept (d.orBits k m) := rfl

theorem clearBits_bootKept (d : Dev) (k m : Nat) : d.BootKept (d.clearBits k m) := rfl

theorem putMasked_bootKept (d : Dev) (k : Nat) (r : RegDef) (v : W32) : d.BootKept (d.putMasked k r v) := rfl

theorem putWithin_bootKept (d : Dev) (k lo hi v : Nat) : d.BootKept (d.putWithin k lo hi v) := .doneIf rfl

theorem putClamped_bootKept (d : Dev) (k lo hi v : Nat) : d.BootKept (d.putClamped k lo hi v) := rfl

theorem put_bootKept (d : Dev) (o : Out) : d.BootKept (d.put o) := rfl

/-! ### The job front-end and the host's rings (R165–R193) -/

theorem jfeWrite_bootKept (d : Dev) (o : Nat) (r : RegDef) (v : W32) : d.BootKept (d.jfeWrite o r v) := by
  unfold jfeWrite
  dsimp only
  split
  · exact d.putClamped_bootKept _ _ _ _
  · exact d.putClamped_bootKept _ _ _ _
  · exact d.putWithin_bootKept _ _ _ _
  · exact d.putWithin_bootKept _ _ _ _
  · exact .doneUnless (d.setNat_bootKept _ _)
  · exact .doneUnless (d.putMasked_bootKept _ _ _)

theorem msix_bootKept (d : Dev) (v : Nat) : d.BootKept (d.msix v) := .either (d.orBits_bootKept _ _) (d.put_bootKept _)

theorem msixFlush_bootKept (d : Dev) : d.BootKept d.msixFlush := by
  unfold msixFlush
  refine .foldl (fun d v => .doneIf ?_) _ _
  exact (d.clearBits_bootKept _ _).trans (put_bootKept _ _)

theorem msixWrite_bootKept (d : Dev) (o : Nat) (v : W32) : d.BootKept (d.msixWrite o v) :=
  (BootKept.either (d.setNat_bootKept _ _) (.either (d.setReg_bootKept _ _) (d.setReg_bootKept _ _))).trans (msixFlush_bootKept _)

theorem noteRecord_bootKept (d : Dev) (v : Nat) (notify : Bool) : d.BootKept (d.noteRecord v notify) := by
  unfold noteRecord
  dsimp only
  have signalled : d.BootKept (d.signal v) := msix_bootKept _ v
  exact .either (d.msix_bootKept v) (.either signalled rfl)

theorem ringStartUp_bootKept (d : Dev) (r : Nat) : d.BootKept (d.ringStartUp r) := by
  unfold ringStartUp
  split
  · exact (d.emit_bootKept _ _ _ _ _).trans (noteRecord_bootKept _ _ _)
  · exact .either rfl (.either rfl rfl)

theorem ringCfgWrite_bootKept (d : Dev) (r : Nat) (v : W32) : d.BootKept (d.ringCfgWrite r v) := by
  unfold ringCfgWrite
  dsimp only
  exact .either (d.setNat_bootKept _ _) (.either ((d.setNat_bootKept _ _).trans (ringStartUp_bootKept _ r)) (d.setNat_bootKept _ _))

theorem winWrite_bootKept (d : Dev) (hi : Bool) (v : W32) : d.BootKept (d.winWrite hi v) := .either (d.setReg_bootKept _ _) (.doneUnless rfl)

theorem hostWrite_bootKept (d : Dev) (o : Nat) (r : RegDef) (v : W32) : d.BootKept (d.hostWrite o r v) := by
  have masked (k : Nat) : d.BootKept (d.putMasked k r v) := d.putMasked_bootKept k r v
  unfold hostWrite
  dsimp only
  refine .either (d.winWrite_bootKept _ v) (.either (.either (d.ringCfgWrite_bootKept _ v) (.doneUnless (masked _))) ?_)
  exact .either (.doneUnless (masked _)) (.either (d.setNat_bootKept _ _) (masked _))

/-! ### Engines, Cairn, memory and links -/

theorem seqsSet_bootKept (d : Dev) (m : FMap (Option Seq)) : d.BootKept { d with seqs := m } := rfl

theorem seqLoadFx_bootKept (d : Dev) (sn : Nat) : d.BootKept (d.seqLoadFx sn) := by
  unfold seqLoadFx
  dsimp only
  have status (code : Nat) : d.BootKept (d.seqStatus sn code) := d.setNat_bootKept _ _
  exact .either ((status _).trans (emit_bootKept _ _ _ _ _ _)) (((status _).trans (seqsSet_bootKept _ _)).trans (emit_bootKept _ _ _ _ _ _))

theorem seqReleaseFx_bootKept (d : Dev) (sn : Nat) : d.BootKept (d.seqReleaseFx sn) := by
  have status (code : Nat) : d.BootKept (d.seqStatus sn code) := d.setNat_bootKept _ _
  unfold seqReleaseFx
  split
  · exact status 0
  · exact .either ((status _).trans (emit_bootKept _ _ _ _ _ _)) (((status _).trans (seqsSet_bootKept _ _)).trans (emit_bootKept _ _ _ _ _ _))

theorem seqCmd_bootKept (d : Dev) (v : W32) : d.BootKept (d.seqCmd v) := by
  unfold seqCmd
  dsimp only
  split
  · exact d.seqLoadFx_bootKept _
  · exact d.seqReleaseFx_bootKept _
  · exact .refl d

theorem engWrite_bootKept (d : Dev) (n e : Nat) (w : Writer) (o : Nat) (r : RegDef) (v : W32) : d.BootKept (d.engWrite n e w o r v) := by
  have masked (k : Nat) : d.BootKept (d.putMasked k r v) := d.putMasked_bootKept k r v
  unfold engWrite
  dsimp only
  refine .either (d.putWithin_bootKept _ _ _ _) (.either (.doneUnless (.either (d.emit_bootKept _ _ _ _ _) ?_)) (masked _))
  exact .either (.doneUnless (d.setReg_bootKept _ _)) (.either (d.seqCmd_bootKept v) (masked _))

theorem crnSet_bootKept (d : Dev) (c : Cairn) : d.BootKept { d with crn := c } := rfl

theorem blkCount_bootKept (d : Dev) (b : Block) (ev n : Nat) : d.BootKept (d.blkCount b ev n) := (d.blkCount_testsStill b ev n).bootKept

theorem pqCmd_bootKept (d : Dev) (v : W32) : d.BootKept (d.pqCmd v) := by
  unfold pqCmd
  dsimp only
  refine .doneUnless ?_
  split
  · exact (d.crnSet_bootKept _).trans (blkCount_bootKept _ _ _ _)
  · split
    · exact ((d.crnSet_bootKept _).trans (setNat_bootKept _ _ _)).trans (setNat_bootKept _ _ _)
    · exact d.crnSet_bootKept _
  · exact d.crnSet_bootKept _
  · exact .refl d

theorem edgeInvalidate_bootKept (d : Dev) (v : W32) : d.BootKept (d.edgeInvalidate v) := by
  unfold edgeInvalidate
  split
  · split
    · exact .doneIf (d.crnSet_bootKept _)
    · exact .refl d
  · exact .refl d

theorem crnWrite_bootKept (d : Dev) (o : Nat) (r : RegDef) (v : W32) : d.BootKept (d.crnWrite o r v) := by
  unfold crnWrite
  split
  · exact .doneIf ((d.crnSet_bootKept _).trans (clearBits_bootKept _ _ _))
  · exact d.pqCmd_bootKept v
  · exact d.edgeInvalidate_bootKept v
  · exact d.putMasked_bootKept _ r v

theorem smcWrite_bootKept (d : Dev) (k o : Nat) (r : RegDef) (v : W32) : d.BootKept (d.smcWrite k o r v) := by
  unfold smcWrite
  split
  · exact d.putWithin_bootKept _ _ _ _
  · exact d.putWithin_bootKept _ _ _ _
  · exact d.putMasked_bootKept _ r v

theorem dropContents_bootKept (d : Dev) (p : Nat → Bool) (undef : Bool) : d.BootKept (d.dropContents p undef) := rfl

theorem dramModeFx_bootKept (d : Dev) (n : Nat) (v : W32) : d.BootKept (d.dramModeFx n v) :=
  .either (d.emit_bootKept _ _ _ _ _) (.doneUnless ((d.dropContents_bootKept _ _).trans (setNat_bootKept _ _ _)))

theorem mrtWrite_bootKept (d : Dev) (n o : Nat) (r : RegDef) (v : W32) : d.BootKept (d.mrtWrite n o r v) :=
  .either (d.dramModeFx_bootKept n v) (.doneUnless (d.putMasked_bootKept _ r v))

theorem bwrWrite_bootKept (d : Dev) (o : Nat) (r : RegDef) (v : W32) : d.BootKept (d.bwrWrite o r v) :=
  .either (.doneUnless (d.putMasked_bootKept _ r v)) (.either (d.putWithin_bootKept _ _ _ _) (.either (d.setNat_bootKept _ _) (d.putMasked_bootKept _ r v)))

theorem arcWrite_bootKept (d : Dev) (n i o : Nat) (r : RegDef) (v : W32) : d.BootKept (d.arcWrite n i o r v) :=
  .either (d.setNat_bootKept _ _) (.either (d.setNat_bootKept _ _) (.either (d.putWithin_bootKept _ _ _ _) (d.putMasked_bootKept _ r v)))

/-! ### The tests of units (R512–R516) -/

theorem markTest_bootKept (d : Dev) (p : Nat) (on : Bool) : d.BootKept (d.markTest p on) := (PowerStill.markTest d p on).bootKept

theorem setDomain_bootKept (d : Dev) (k : Nat) (on : Bool) : d.BootKept (d.setDomain k on) := rfl

theorem domainUp_bootKept (d : Dev) (k : Nat) : d.BootKept (d.domainUp k) := (d.setDomain_bootKept k true).trans (PowerStill.domainUp d k).bootKept

theorem domainDown_bootKept (d : Dev) (k : Nat) : d.BootKept (d.domainDown k) := (d.setDomain_bootKept k false).trans (PowerStill.domainDown d k).bootKept

theorem setOt_bootKept (d : Dev) (u : Nat) (x : OtUnit) : d.BootKept (d.setOt u x) := rfl

theorem otMark_bootKept (d : Dev) (u : Nat) (on : Bool) : d.BootKept (d.otMark u on) := .doneIf (.doneIf (d.markTest_bootKept _ on))

theorem isolateFx_bootKept (d : Dev) : d.BootKept d.isolateFx := by
  unfold isolateFx
  dsimp only
  refine .doneUnless (.either (d.setOt_bootKept _ _) ?_)
  exact ((d.setOt_bootKept _ _).trans (otMark_bootKept _ _ _)).trans (emit_bootKept _ _ _ _ _ _)

theorem testFx_bootKept (d : Dev) : d.BootKept d.testFx := by
  unfold testFx
  dsimp only
  split
  · exact .refl d
  · exact d.setOt_bootKept _ _
  · exact (d.setOt_bootKept _ _).trans (.either (domainUp_bootKept _ _) (otMark_bootKept _ _ _))

theorem setPort_bootKept (d : Dev) (n p : Nat) (x : Port) : d.BootKept (d.setPort n p x) := rfl

theorem startLinkTest_bootKept (d : Dev) (n p : Nat) : d.BootKept (d.startLinkTest n p) :=
  .doneUnless ((d.setPort_bootKept n p _).trans (setPort_bootKept _ _ _ _))

theorem uncover_bootKept (d : Dev) (us : List Nat) : d.BootKept (d.uncover us) := rfl

theorem releaseFx_bootKept (d : Dev) : d.BootKept d.releaseFx := by
  unfold releaseFx
  extract_lets u shut x d1
  have marked : d.BootKept d1 := (d.setOt_bootKept _ _).trans (otMark_bootKept _ _ _)
  clear_value d1
  refine .doneUnless (.either ((marked.trans (uncover_bootKept _ _)).trans (emit_bootKept _ _ _ _ _ _)) ?_)
  exact marked.trans (.doneIf (startLinkTest_bootKept _ _ _))

theorem keyWrite_bootKept (d : Dev) (o : Nat) (r : RegDef) (v : W32) : d.BootKept (d.keyWrite o r v) := by
  have commanded (n : Nat) : d.BootKept (d.otCmd n) := by
    unfold otCmd
    split
    · exact d.isolateFx_bootKept
    · exact d.testFx_bootKept
    · exact d.releaseFx_bootKept
    · exact .refl d
  exact .either (commanded _) (d.putMasked_bootKept _ r v)

end Dev

namespace Dev

variable {d e f : Dev}

/-! ### Plumb (R383–R394) -/

theorem setTrig_bootKept (d : Dev) (i : Nat) (x : Trig) : d.BootKept (d.setTrig i x) := rfl

theorem armTrigger_bootKept (d : Dev) (i : Nat) : d.BootKept (d.armTrigger i) := by
  unfold armTrigger
  dsimp only
  have told (x : Trig) (n : Nat) : d.BootKept ((d.setTrig i x).emit .plb 0x0A0B 1 i n) := (d.setTrig_bootKept i x).trans (emit_bootKept _ _ _ _ _ _)
  exact .either (d.setTrig_bootKept i _) (.either (told _ _) (told _ _))

theorem trigCtlWrite_bootKept (d : Dev) (i : Nat) (v : W32) : d.BootKept (d.trigCtlWrite i v) := by
  unfold trigCtlWrite
  dsimp only
  refine .either (.doneUnless ((d.clearBits_bootKept _ _).trans (setTrig_bootKept _ _ _))) ?_
  exact .either (((d.setReg_bootKept _ _).trans (orBits_bootKept _ _ _)).trans (armTrigger_bootKept _ _)) (d.setReg_bootKept _ _)

theorem trigStep_bootKept (d : Dev) (i : Nat) : d.BootKept (d.trigStep i) := by
  unfold BootKept
  rw [(TrigsOnly.trigStep d i).eq]

theorem timeSet_bootKept (d : Dev) (p : Plumb) : d.BootKept { d with plb := p } := rfl

theorem stepTime_bootKept (d : Dev) (ns : Nat) (frac : BitVec 32) : d.BootKept (d.stepTime ns frac) := by
  unfold stepTime
  dsimp only
  refine BootKept.trans ?_ (.foldl (fun d i => d.trigStep_bootKept i) _ _)
  have told : ∀ p a b, d.BootKept (({ d with plb := p } : Dev).emit .plb 0x0A0A 1 a b) := fun p a b => (d.timeSet_bootKept p).trans (emit_bootKept _ _ _ _ _ _)
  exact .either ((told _ _ _).trans (emit_bootKept _ _ _ _ _ _)) (told _ _ _)

theorem setSync_bootKept (d : Dev) (s : SyncSt) : d.BootKept (d.setSync s) := by
  unfold setSync
  refine .doneUnless ?_
  exact ((d.timeSet_bootKept _).trans (emit_bootKept _ _ _ _ _ _)).trans (statusBoth_safetyOnly _).bootKept

theorem holdover_bootKept (d : Dev) : d.BootKept d.holdover := .doneUnless ((d.timeSet_bootKept _).trans (setSync_bootKept _ _))

theorem plbCmd_bootKept (d : Dev) (v : Nat) : d.BootKept (d.plbCmd v) := by
  unfold plbCmd
  split
  · exact d.stepTime_bootKept _ _
  · exact d.stepTime_bootKept _ _
  · exact d.timeSet_bootKept _
  · exact .refl d

theorem plbWrite_bootKept (d : Dev) (o : Nat) (r : RegDef) (v : W32) : d.BootKept (d.plbWrite o r v) := by
  have masked (k : Nat) : d.BootKept (d.putMasked k r v) := d.putMasked_bootKept k r v
  unfold plbWrite
  dsimp only
  refine .either (.either (d.trigCtlWrite_bootKept _ v) (.doneUnless (masked _))) (.either (.either (.doneIf (d.timeSet_bootKept _)) (masked _)) ?_)
  split
  · exact .doneIf ((d.setReg_bootKept _ _).trans (timeSet_bootKept _ _))
  · exact d.plbCmd_bootKept _
  · exact (d.setReg_bootKept _ _).trans (setSync_bootKept _ _)
  · exact d.putWithin_bootKept _ _ _ _
  · exact d.putWithin_bootKept _ _ _ _
  · exact d.putWithin_bootKept _ _ _ _
  · exact .doneIf (masked _)
  · exact d.putWithin_bootKept _ _ _ _
  · exact masked _

/-! ### Hod, Ethernet and the camera ports (R366–R400) -/

theorem setHodQ_bootKept (d : Dev) (q : Nat) (x : HodQ) : d.BootKept (d.setHodQ q x) := rfl

theorem hodStartUp_bootKept (d : Dev) (q : Nat) : d.BootKept (d.hodStartUp q) := by
  unfold hodStartUp
  dsimp only
  refine BootKept.trans ?_ (hodFence_testsStill _ q).bootKept
  exact ((BootKept.foldl (fun d i => d.wr_bootKept _ _ _) _ _).trans (wr_bootKept _ _ _ _)).trans (setHodQ_bootKept _ q _)

theorem hodCfgWrite_bootKept (d : Dev) (q : Nat) (v : W32) : d.BootKept (d.hodCfgWrite q v) := by
  unfold hodCfgWrite
  dsimp only
  refine .either (.doneUnless (d.setHodQ_bootKept q _)) ?_
  have set := d.setReg_bootKept (hodKey q 0x20) (v &&& 0x41F0001F)
  exact .either set (.either (set.trans (emit_bootKept _ _ _ _ _ _)) (set.trans (hodStartUp_bootKept _ q)))

theorem hodRegWrite_bootKept (d : Dev) (o : Nat) (r : RegDef) (v : W32) : d.BootKept (d.hodRegWrite o r v) := by
  have masked (k : Nat) : d.BootKept (d.putMasked k r v) := d.putMasked_bootKept k r v
  have within (k lo hi n : Nat) : d.BootKept (d.putWithin k lo hi n) := d.putWithin_bootKept k lo hi n
  unfold hodRegWrite
  dsimp only
  refine .either (within _ _ _ _) (.either (masked _) (.either (d.hodCfgWrite_bootKept _ v) (.doneUnless ?_)))
  exact .either (.doneIf (within _ _ _ _)) (.either (within _ _ _ _) (.either (within _ _ _ _) (masked _)))

theorem setEth_bootKept (d : Dev) (p : Nat) (x : EthPort) : d.BootKept (d.setEth p x) := rfl

theorem hostTxEnd_bootKept (d : Dev) (p : Nat) (sent : Bool) : d.BootKept (d.hostTxEnd p sent) :=
  ((d.setEth_bootKept p _).trans (clearBits_bootKept _ _ _)).trans (setReg_bootKept _ _ _)

theorem hostTxFx_bootKept (d : Dev) (p : Nat) (v : W32) : d.BootKept (d.hostTxFx p v) := by
  unfold hostTxFx
  dsimp only
  have set := d.setReg_bootKept (ethKey p 0x54) (v &&& 0x80003FFF)
  refine .doneUnless (.either set (.either (set.trans (hostTxEnd_bootKept _ p _)) ?_))
  exact (set.trans (setReg_bootKept _ _ _)).trans (setEth_bootKept _ p _)

theorem ethDownFx_bootKept (d : Dev) (p : Nat) : d.BootKept (d.ethDownFx p) := by
  have down : d.BootKept (d.ethDownCore p) := by
    unfold ethDownCore
    dsimp only
    have ended : d.BootKept (if (d.ethPort p).hostTx then d.hostTxEnd p false else d) := .doneIf (d.hostTxEnd_bootKept p false)
    exact (ended.trans (setEth_bootKept _ p _)).trans (emit_bootKept _ _ _ _ _ _)
  unfold ethDownFx
  dsimp only
  exact .doneUnless (.either (down.trans (holdover_bootKept _)) down)

theorem ethCfgWrite_bootKept (d : Dev) (p : Nat) (v : W32) : d.BootKept (d.ethCfgWrite p v) :=
  .either (.doneUnless ((d.clearBits_bootKept _ _).trans (ethDownFx_bootKept _ p))) (d.setReg_bootKept _ _)

theorem filtWrite_bootKept (d : Dev) (p k : Nat) (v : W32) : d.BootKept (d.filtWrite p k v) := by
  unfold filtWrite
  dsimp only
  have set := d.setReg_bootKept (filtKey p k 0x44) (v &&& 0x001F3FFF)
  exact .either (.doneUnless (d.clearBits_bootKept _ _)) (.either set (.either (set.trans (emit_bootKept _ _ _ _ _ _)) (set.trans (orBits_bootKept _ _ _))))

theorem ethWrite_bootKept (d : Dev) (o : Nat) (r : RegDef) (v : W32) : d.BootKept (d.ethWrite o r v) := by
  have masked (k : Nat) : d.BootKept (d.putMasked k r v) := d.putMasked_bootKept k r v
  unfold ethWrite
  dsimp only
  refine .either (masked _) (.doneUnless (.either (d.ethCfgWrite_bootKept _ v) (.either (d.setReg_bootKept _ _) (.either (.doneUnless (masked _)) ?_))))
  exact .either (d.filtWrite_bootKept _ _ v) (.either (.doneUnless (masked _)) (.either (d.hostTxFx_bootKept _ v) (masked _)))

theorem aphyDownFx_bootKept (d : Dev) (p : Nat) (data : List Byte) : d.BootKept (d.aphyDownFx p data) := (PowerStill.aphyDownFx d p data).bootKept

theorem setAphy_bootKept (d : Dev) (p : Nat) (x : Aphy) : d.BootKept (d.setAphy p x) := rfl

theorem i2cFx_bootKept (d : Dev) (p : Nat) (v : W32) : d.BootKept (d.i2cFx p v) := by
  unfold i2cFx
  dsimp only
  have set := d.setReg_bootKept (aphyKey p 0x40) (v &&& 0x807F7F7F)
  refine .doneUnless (.either set (.either (set.trans (setNat_bootKept _ _ _)) ?_))
  exact ((set.trans (setNat_bootKept _ _ _)).trans (setAphy_bootKept _ p _)).trans (put_bootKept _ _)

theorem aphyCfgWrite_bootKept (d : Dev) (p : Nat) (v : W32) : d.BootKept (d.aphyCfgWrite p v) :=
  .either (.doneUnless ((d.clearBits_bootKept _ _).trans (aphyDownFx_bootKept _ p []))) (d.setReg_bootKept _ _)

theorem slotWrite_bootKept (d : Dev) (p k : Nat) (v : W32) : d.BootKept (d.slotWrite p k v) := by
  unfold slotWrite
  dsimp only
  have set := d.setReg_bootKept (slotKey p k 0x34) (v &&& 0x401F0F3F)
  refine .either (.doneUnless ((PowerStill.loseOpen d _ _).bootKept.trans (clearBits_bootKept _ _ _))) (.either set ?_)
  exact .either (set.trans (emit_bootKept _ _ _ _ _ _)) (.either (set.trans (emit_bootKept _ _ _ _ _ _)) (set.trans (orBits_bootKept _ _ _)))

theorem aphyWrite_bootKept (d : Dev) (o : Nat) (r : RegDef) (v : W32) : d.BootKept (d.aphyWrite o r v) := by
  have masked (k : Nat) : d.BootKept (d.putMasked k r v) := d.putMasked_bootKept k r v
  unfold aphyWrite
  dsimp only
  refine .either (masked _) (.either (d.aphyCfgWrite_bootKept _ v) (.either (d.slotWrite_bootKept _ _ v) (.either (.doneUnless (masked _)) ?_)))
  exact .either (d.i2cFx_bootKept _ v) (.either (.doneUnless (masked _)) (.doneUnless (.either (d.putWithin_bootKept _ _ _ _) (masked _))))

end Dev

namespace Dev

variable {d e f : Dev}

/-! ### The Quoins (R408–R430) -/

theorem qnResult_bootKept (d : Dev) (q r : Nat) : d.BootKept (d.qnResult q r) := d.setQuoin_bootKept q _

theorem loadStreamsFx_bootKept (d : Dev) (q : Nat) : d.BootKept (d.loadStreamsFx q) := by
  unfold loadStreamsFx
  dsimp only
  exact .either (d.qnResult_bootKept q 2) (.either (d.qnResult_bootKept q 2) (.either (d.qnResult_bootKept q 4) (d.setQuoin_bootKept q _)))

theorem qnCmd_bootKept (d : Dev) (q : Nat) (v : W32) : d.BootKept (d.qnCmd q v) := by
  unfold qnCmd
  refine .doneUnless ?_
  split
  · exact d.loadStreamsFx_bootKept q
  · exact .either (d.setQuoin_bootKept q _) (d.qnResult_bootKept q 5)
  · exact (d.decideSafe_safetyOnly q 0x0D).bootKept.trans (qnResult_bootKept _ q 0)
  · exact .refl d

theorem qnWrite_bootKept (d : Dev) (q o : Nat) (r : RegDef) (v : W32) : d.BootKept (d.qnWrite q o r v) :=
  .either (d.qnCmd_bootKept q v) (.either (d.putWithin_bootKept _ _ _ _) (d.putMasked_bootKept _ r v))

/-! ### Pavane (R433–R451) -/

theorem logResult_bootKept (d : Dev) (r n : Nat) : d.BootKept (d.logResult r n) := rfl

theorem pavSet_bootKept (d : Dev) (p : Pavane) : d.BootKept { d with pav := p } := rfl

theorem exportFx_bootKept (d : Dev) : d.BootKept d.exportFx :=
  .either (d.logResult_bootKept 1 0) (BootKept.trans (.doneIf (d.wr_bootKept _ _ _)) (logResult_bootKept _ 0 _))

theorem tellBand_bootKept (d : Dev) (g : Nat) (on : Bool) : d.BootKept (d.tellBand g on) := by
  have told (n : Nat) : d.BootKept (d.emit (.pav (coreDie g)) 0x0C07 2 g n) := d.emit_bootKept _ _ _ _ _
  unfold tellBand
  dsimp only
  exact .either (told _) (told _)

theorem judge_bootKept (d : Dev) (g : Nat) (b : CoreBands) : d.BootKept (d.judge g b) :=
  BootKept.trans (d.pavSet_bootKept _) (.either (declareBoth_testsStill _ _ _).bootKept (.doneIf (tellBand_bootKept _ g true)))

theorem takeLog_bootKept (d : Dev) (rd : Nat → Nat → List Byte) : d.BootKept (d.takeLog rd) := by
  unfold takeLog
  dsimp only
  refine BootKept.trans ?_ (pavSet_bootKept _ _)
  refine BootKept.trans ?_ (logResult_bootKept _ 0 _)
  exact .foldl (fun d e => .doneUnless (d.judge_bootKept _ _)) _ _

theorem passAllStates_bootKept (d : Dev) : d.BootKept d.passAllStates := d.pavSet_bootKept _

theorem importFx_bootKept (d : Dev) : d.BootKept d.importFx := by
  unfold importFx importLog
  dsimp only
  exact .either (d.logResult_bootKept 5 0) (.either (d.takeLog_bootKept _) ((d.logResult_bootKept _ 0).trans (passAllStates_bootKept _)))

theorem logCmd_bootKept (d : Dev) (v : Nat) : d.BootKept (d.logCmd v) := by
  unfold logCmd
  split
  · exact d.exportFx_bootKept
  · exact d.importFx_bootKept
  · exact .either (d.logResult_bootKept 5 0) ((d.logResult_bootKept 0 0).trans (passAllStates_bootKept _))
  · exact .refl d

theorem setCouple_bootKept (d : Dev) (i : Nat) (x : Couple) : d.BootKept (d.setCouple i x) := rfl

theorem pairFence_bootKept (d : Dev) (i cause : Nat) (disable : Bool) : d.BootKept (d.pairFence i cause disable) := by
  unfold pairFence eachCtx
  dsimp only
  have marked (x : Couple) : d.BootKept (d.setCouple i x) := d.setCouple_bootKept i x
  refine .either (marked _) ?_
  refine BootKept.trans ?_ (.foldl (fun d e => .doneIf (d.trigger_testsStill _ _ _).bootKept) _ _)
  exact (marked _).trans (emit_bootKept _ _ _ _ _ _)

theorem setCtx_bootKept (d : Dev) (c : Nat) (x : Ctx) : d.BootKept (d.setCtx c x) := rfl

theorem mismatch_bootKept (d : Dev) (g lanes : Nat) (injected : Bool) : d.BootKept (d.mismatch g lanes injected) := by
  unfold mismatch
  extract_lets i k n frames d1 d2 d3
  have told : d.BootKept d2 := ((d.setCouple_bootKept i _).trans (setNat_bootKept _ _ _)).trans (emit_bootKept _ _ _ _ _ _)
  have torn : d.BootKept d3 := by
    unfold d3
    clear_value d2
    split
    · exact (told.trans (setCtx_bootKept _ _ _)).trans (trigger_testsStill _ _ _ _).bootKept
    · exact told
  clear_value d3
  exact .either (torn.trans (pairFence_bootKept _ i 1 false)) torn

theorem injectFx_bootKept (d : Dev) (n : Nat) (v : W32) : d.BootKept (d.injectFx n v) :=
  .doneUnless (.either (d.mismatch_bootKept _ _ true) (d.pavSet_bootKept _))

theorem pavWrite_bootKept (d : Dev) (n o : Nat) (r : RegDef) (v : W32) : d.BootKept (d.pavWrite n o r v) := by
  unfold pavWrite
  dsimp only
  split
  · exact d.putClamped_bootKept _ _ _ _
  · exact d.putWithin_bootKept _ _ _ _
  · exact (d.setNat_bootKept _ _).trans (injectFx_bootKept _ n v)
  · exact .doneIf (d.logCmd_bootKept _)
  · exact .doneUnless (d.putMasked_bootKept _ r v)

/-! ### Power (R455–R480) -/

theorem applyStates_bootKept (d : Dev) : d.BootKept d.applyStates := by
  unfold BootKept
  rw [(Throttled.applyStates d).eq]

theorem setStack_bootKept (d : Dev) (k : Nat) (x : Stack) : d.BootKept (d.setStack k x) := rfl

theorem selfRefresh_bootKept (d : Dev) (k : Nat) : d.BootKept (d.selfRefresh k) := by
  unfold selfRefresh
  dsimp only
  exact BootKept.trans (.doneIf ((d.setStack_bootKept k _).trans (emit_bootKept _ _ _ _ _ _))) (setStack_bootKept _ k _)

theorem drawn_bootKept (d : Dev) : d.BootKept d.draw.2 := rfl

theorem stackBack_bootKept (d : Dev) (k : Nat) : d.BootKept (d.stackBack k) := by
  unfold stackBack
  dsimp only
  have back (x : Stack) (p : Nat → Bool) : d.BootKept ((d.dropContents p false).setStack k x) := (d.dropContents_bootKept _ _).trans (setStack_bootKept _ k x)
  exact .either (back _ _) (((back _ _).trans (drawn_bootKept _)).trans (emit_bootKept _ _ _ _ _ _))

theorem mirrorsSet_bootKept (d : Dev) (m : FMap (Option Mirror)) : d.BootKept { d with mirrors := m } := rfl

theorem resyncLost_bootKept (d : Dev) (lost : Nat → Bool) : d.BootKept (d.resyncLost lost) := by
  unfold resyncLost
  refine .foldl (fun d e => ?_) _ _
  split
  · exact .doneUnless (d.mirrorsSet_bootKept _)
  · exact .refl d

theorem standbyOn_bootKept (d : Dev) (p : Power) : d.BootKept { d with tags := [], shadow := [], pwr := p } := rfl

theorem standbyEnterFx_bootKept (d : Dev) : d.BootKept d.standbyEnterFx := by
  unfold standbyEnterFx
  dsimp only
  refine .doneUnless (.either (d.emit_bootKept _ _ _ _ _) (.either (d.emit_bootKept _ _ _ _ _) ?_))
  refine BootKept.trans ?_ (emit_bootKept _ _ _ _ _ _)
  refine BootKept.trans ?_ (drawn_bootKept _)
  refine BootKept.trans ?_ (charge_safetyOnly _ 3).bootKept
  refine BootKept.trans ?_ (dropContents_bootKept _ _ _)
  refine BootKept.trans ?_ (.foldl (fun d k => d.selfRefresh_bootKept k) _ _)
  exact BootKept.trans (.foldl (fun d k => d.domainDown_bootKept k) _ _) (standbyOn_bootKept _ _)

theorem powerSet_bootKept (d : Dev) (p : Power) : d.BootKept { d with pwr := p } := rfl

theorem standbyLeaveFx_bootKept (d : Dev) : d.BootKept d.standbyLeaveFx := by
  unfold standbyLeaveFx
  dsimp only
  refine .doneUnless ?_
  refine BootKept.trans ?_ (emit_bootKept _ _ _ _ _ _)
  refine BootKept.trans ?_ (drawn_bootKept _)
  refine BootKept.trans ?_ (settleLoss_testsStill _).bootKept
  refine BootKept.trans ?_ (resyncLost_bootKept _ _)
  refine BootKept.trans ?_ (.foldl (fun d k => d.stackBack_bootKept k) _ _)
  exact (d.powerSet_bootKept _).trans (.foldl (fun d k => d.domainUp_bootKept k) _ _)

theorem standbyCmd_bootKept (d : Dev) (v : Nat) : d.BootKept (d.standbyCmd v) := by
  unfold standbyCmd
  split
  · exact d.standbyEnterFx_bootKept
  · exact d.standbyLeaveFx_bootKept
  · exact .refl d

theorem pwrWrite_bootKept (d : Dev) (o : Nat) (r : RegDef) (v : W32) : d.BootKept (d.pwrWrite o r v) := by
  have masked (k : Nat) : d.BootKept (d.putMasked k r v) := d.putMasked_bootKept k r v
  unfold pwrWrite
  dsimp only
  refine .either ((d.setNat_bootKept _ _).trans (applyStates_bootKept _)) (.either (d.standbyCmd_bootKept _) (.either ((masked _).trans (powerSet_bootKept _ _)) ?_))
  refine .either (d.putWithin_bootKept _ _ _ _) (.either (d.setNat_bootKept _ _) (.either (d.putWithin_bootKept _ _ _ _) ?_))
  exact .either (d.setNat_bootKept _ _) (masked _)

/-! ### Nguldoel (R484–R499) -/

theorem ngdDone_bootKept (d : Dev) (r n : Nat) : d.BootKept (d.ngdDone r n) := rfl

theorem flashProgram_bootKept (d : Dev) (a size : Nat) (bs : List Byte) : d.BootKept (d.flashProgram a size bs) := rfl

theorem alarm_bootKept (d : Dev) (k : Nat) : d.BootKept (d.alarm k) := by
  unfold alarm
  extract_lets x d1
  have latched : d.BootKept d1 := rfl
  clear_value d1
  exact .doneUnless (.either (latched.trans (answerAlarm_answers d1 k).answered.bootKept) (latched.trans rfl))

theorem ngdOut_bootKept (d : Dev) (bs : List Byte) : d.BootKept (d.ngdOut bs) :=
  .either (d.ngdDone_bootKept 5 0) ((d.wr_bootKept _ _ _).trans (ngdDone_bootKept _ 0 _))

theorem flashFx_bootKept (d : Dev) : d.BootKept d.flashFx := by
  have programmed (a size k b : Nat) (bs : List Byte) : d.BootKept (((d.flashProgram a size bs).ngdDone 0 0).emit .ngd 0x0E07 0 k b) :=
    ((d.flashProgram_bootKept a size bs).trans (ngdDone_bootKept _ 0 0)).trans (emit_bootKept _ _ _ _ _ _)
  have done (r : Nat) : d.BootKept (d.ngdDone r 0) := d.ngdDone_bootKept r 0
  unfold flashFx
  dsimp only
  exact .either (done _) (.either (.either (done _) (.either (done _) (programmed _ _ _ _ _))) (.either (done _) (programmed _ _ _ _ _)))

theorem fusesSet_bootKept (d : Dev) (x : Fuses) : d.BootKept { d with sec := { d.sec with fuses := x } } := rfl

theorem svnFx_bootKept (d : Dev) : d.BootKept d.svnFx :=
  ((d.fusesSet_bootKept _).trans (ngdDone_bootKept _ 0 0)).trans (emit_bootKept _ _ _ _ _ _)

theorem challengeSet_bootKept (d : Dev) (x : Option (List Byte × Nat)) : d.BootKept { d with sec := { d.sec with challenge := x } } := rfl

theorem challengeFx_bootKept (d : Dev) : d.BootKept d.challengeFx := by
  unfold challengeFx
  dsimp only
  refine BootKept.trans ?_ (ngdDone_bootKept _ 0 0)
  refine BootKept.trans ?_ (.foldl (fun d i => d.setNat_bootKept _ _) _ _)
  exact (d.drawn_testsStill 32).bootKept.trans (challengeSet_bootKept _ _)

theorem failuresSet_bootKept (d : Dev) (n : Nat) (locked : Bool) (r : Nat) :
    d.BootKept (ngdDone { d with sec := { d.sec with failures := n, lockedOut := locked } } r 0) := rfl

theorem unlockFail_bootKept (d : Dev) (why result : Nat) : d.BootKept (d.unlockFail why result) := by
  unfold unlockFail
  extract_lets n x d1
  have failed : d.BootKept d1 := (d.failuresSet_bootKept n _ result).trans (emit_bootKept _ _ _ _ _ _)
  clear_value d1
  exact .either (failed.trans (alarm_bootKept _ 4)) failed

theorem levelSet_bootKept (d : Dev) (n : Nat) : d.BootKept (ngdDone { d with sec := { d.sec with debug := n } } 0 0) := rfl

theorem unlock_bootKept (d : Dev) (level : Nat) : d.BootKept (d.unlock level) := by
  unfold unlock
  extract_lets x d1 d2
  have opened : d.BootKept d1 := (d.levelSet_bootKept _).trans (emit_bootKept _ _ _ _ _ _)
  have keyless : d.BootKept d2 := (opened.trans (Answered.dropKeys d1 3).bootKept).trans (decideBoth_safetyOnly _ _).bootKept
  clear_value d1 d2
  exact .either (keyless.trans rfl) opened

theorem respond_bootKept (d : Dev) (bs : List Byte) : d.BootKept (d.respond bs) := by
  unfold respond
  extract_lets level key x d1
  have taken : d.BootKept d1 := d.challengeSet_bootKept none
  clear_value d1
  have failed (why result : Nat) : d.BootKept (d1.unlockFail why result) := taken.trans (unlockFail_bootKept _ _ _)
  split
  · exact failed 1 1
  · exact .either (failed _ _) (.either (taken.trans (ngdDone_bootKept _ _ _)) (.either (failed _ _) (.either (failed _ _) (taken.trans (unlock_bootKept _ _)))))

theorem responseFx_bootKept (d : Dev) : d.BootKept d.responseFx :=
  .either (d.ngdDone_bootKept _ _) (.either (d.ngdDone_bootKept _ _) (d.respond_bootKept _))

theorem quoinUpdateFx_bootKept (d : Dev) : d.BootKept d.quoinUpdateFx := .either (d.ngdDone_bootKept _ _) rfl

theorem provisionFx_bootKept (d : Dev) : d.BootKept d.provisionFx := by
  have done (r : Nat) : d.BootKept (d.ngdDone r 0) := d.ngdDone_bootKept r 0
  exact .either (done _) (.either (done _) (.either (done _) ((d.fusesSet_bootKept _).trans (ngdDone_bootKept _ 0 0))))

theorem revokeFx_bootKept (d : Dev) : d.BootKept d.revokeFx := by
  have done (r : Nat) : d.BootKept (d.ngdDone r 0) := d.ngdDone_bootKept r 0
  exact .either (done _) (.either (done _) (.either (done _) ((d.fusesSet_bootKept _).trans (ngdDone_bootKept _ 0 0))))

theorem ngdCmd_bootKept (d : Dev) (v : W32) : d.BootKept (d.ngdCmd v) := by
  have done (r : Nat) : d.BootKept (d.ngdDone r 0) := d.ngdDone_bootKept r 0
  unfold ngdCmd
  refine .doneUnless ?_
  split
  · exact .either (done _) (.either (done _) (d.ngdOut_bootKept _))
  · exact .either (done _) (.either (done _) (d.ngdOut_bootKept _))
  · exact d.flashFx_bootKept
  · exact d.svnFx_bootKept
  · exact d.challengeFx_bootKept
  · exact d.responseFx_bootKept
  · exact d.quoinUpdateFx_bootKept
  · exact d.provisionFx_bootKept
  · exact d.revokeFx_bootKept
  · exact .refl d

theorem ngdWrite_bootKept (d : Dev) (o : Nat) (r : RegDef) (v : W32) : d.BootKept (d.ngdWrite o r v) :=
  .either (d.ngdCmd_bootKept v) (.doneUnless (d.putMasked_bootKept _ r v))

/-! ### The Gauge (R517–R530) -/

theorem gauSet_bootKept (d : Dev) (x : Gauge) : d.BootKept { d with gau := x } := rfl

theorem gauCfgWrite_bootKept (d : Dev) (v : W32) : d.BootKept (d.gauCfgWrite v) := by
  have set (n : Nat) := d.setNat_bootKept GAU_CFG n
  unfold gauCfgWrite
  dsimp only
  exact .either (set _) ((set _).trans (gauSet_bootKept _ _))

theorem blkEvtWrite_bootKept (d : Dev) (j : Nat) (v : W32) : d.BootKept (d.blkEvtWrite j v) := by
  unfold blkEvtWrite
  split
  · exact .foldl (fun d i => d.gauSet_bootKept _) _ _
  · exact .refl d

theorem dumpCfgWrite_bootKept (d : Dev) (v : W32) : d.BootKept (d.dumpCfgWrite v) := by
  have set (x : W32) := d.setReg_bootKept GAU_DUMP_CFG x
  unfold dumpCfgWrite
  dsimp only
  refine .either (.doneUnless (d.clearBits_bootKept _ _)) (.either (set _) (.either ((set _).trans (emit_bootKept _ _ _ _ _ _)) ?_))
  exact .either ((set _).trans (emit_bootKept _ _ _ _ _ _)) (((set _).trans (orBits_bootKept _ _ _)).trans (gauSet_bootKept _ _))

theorem snapSkip_bootKept (d : Dev) (why : Nat) : d.BootKept (d.snapSkip why) := by
  unfold snapSkip
  dsimp only
  exact (d.gauSet_bootKept _).trans (limited_testsStill _ _ _ fun _ d => d.emit_testsStill _ _ _ _ _).bootKept

theorem blkCounter_bootKept (d : Dev) (b : Block) (i : Nat) : d.BootKept (d.blkCounter b i).2 := by
  unfold blkCounter
  dsimp only
  split
  · exact .refl d
  · split
    · exact d.drawn_bootKept
    · exact .refl d

theorem coreCounter_bootKept (d : Dev) (g j : Nat) : d.BootKept (d.coreCounter g j).2 := by
  unfold coreCounter
  split
  · exact .refl d
  · split
    · exact .refl d
    · split
      · exact d.drawn_bootKept
      · exact .refl d

/-- Bytes gathered from one device after the other. -/
theorem BootKept.gathered {β : Type} {g : List Byte × Dev → β → List Byte × Dev} (h : ∀ (a : List Byte × Dev) b, a.2.BootKept (g a b).2) (l : List β)
    (a : List Byte × Dev) : a.2.BootKept (l.foldl g a).2 :=
  List.foldlRecOn (motive := fun x => a.2.BootKept x.2) l g (.refl a.2) fun x hx b _ => hx.trans (h x b)

theorem blkRecord_bootKept (d : Dev) (b : Block) : d.BootKept (d.blkRecord b).2 := by
  unfold blkRecord
  dsimp only
  refine BootKept.gathered (fun a i => ?_) (List.range 16) ([], d)
  exact a.2.blkCounter_bootKept b i

theorem coreRecord_bootKept (d : Dev) (g : Nat) : d.BootKept (d.coreRecord g).2 := by
  unfold coreRecord
  refine BootKept.gathered (fun a j => ?_) (List.range 9) ([], d)
  dsimp only
  split
  · exact a.2.coreCounter_bootKept g j
  · exact .refl a.2

theorem locWr_bootKept (d : Dev) (loc : Bool) (a : Nat) (bs : List Byte) : d.BootKept (d.locWr loc a bs) := .either rfl (.doneIf (d.wr_bootKept _ a bs))

theorem snapshotFx_bootKept (d : Dev) (periodic : Bool) : d.BootKept (d.snapshotFx periodic) := by
  unfold snapshotFx
  extract_lets n lg blocks rs count flags hd base loc d1
  have read : d.BootKept rs.2 := by
    unfold rs
    split
    · refine BootKept.gathered (fun a b => ?_) _ ([], d)
      dsimp only
      exact a.2.blkRecord_bootKept b
    · refine BootKept.gathered (fun a g => ?_) _ ([], d)
      dsimp only
      exact a.2.coreRecord_bootKept g
  clear_value rs
  have stored : d.BootKept d1 := (read.trans (locWr_bootKept _ _ _ _)).trans (locWr_bootKept _ _ _ _)
  clear_value d1
  exact .either (d.snapSkip_bootKept 3) (.either (d.snapSkip_bootKept 1) (stored.trans (gauSet_bootKept _ _)))

theorem gauWrite_bootKept (d : Dev) (o : Nat) (r : RegDef) (v : W32) : d.BootKept (d.gauWrite o r v) := by
  unfold gauWrite
  dsimp only
  split
  · exact d.gauCfgWrite_bootKept v
  · exact d.setNat_bootKept _ _
  · exact d.setNat_bootKept _ _
  · exact d.setReg_bootKept _ _
  · exact .doneIf (d.snapshotFx_bootKept false)
  · exact d.putWithin_bootKept _ _ _ _
  · exact d.dumpCfgWrite_bootKept v
  · exact .either (d.blkEvtWrite_bootKept _ v) (.doneUnless (d.putMasked_bootKept _ r v))

/-! ### A write of a register -/

theorem regEffect_bootKept (d : Dev) (w : Writer) (b : Block) (o : Nat) (r : RegDef) (v : W32) : d.BootKept (d.regEffect w b o r v) := by
  cases b with
  | key => exact d.keyWrite_bootKept o r v
  | jfe => exact d.jfeWrite_bootKept o r v
  | host => exact d.hostWrite_bootKept o r v
  | plb => exact d.plbWrite_bootKept o r v
  | hod => exact d.hodRegWrite_bootKept o r v
  | eth => exact d.ethWrite_bootKept o r v
  | aphy => exact d.aphyWrite_bootKept o r v
  | crn => exact d.crnWrite_bootKept o r v
  | ngd => exact d.ngdWrite_bootKept o r v
  | bwr => exact d.bwrWrite_bootKept o r v
  | pwr => exact d.pwrWrite_bootKept o r v
  | gau => exact d.gauWrite_bootKept o r v
  | qn q => exact d.qnWrite_bootKept q o r v
  | crs n => exact .refl d
  | mrt n => exact d.mrtWrite_bootKept n o r v
  | smc n k => exact d.smcWrite_bootKept _ o r v
  | eng n e => exact d.engWrite_bootKept n e w o r v
  | pav n => exact d.pavWrite_bootKept n o r v
  | arc n i => exact d.arcWrite_bootKept n i o r v
  | ash n k => exact .either (d.putClamped_bootKept _ _ _ _) (d.putMasked_bootKept _ r v)

theorem refuseWrite_bootKept (d : Dev) (b : Block) (w : Writer) (o code : Nat) : d.BootKept (d.refuseWrite b w o code) :=
  (limited_testsStill _ _ _ fun _ d => d.emit_testsStill _ _ _ _ _).bootKept

theorem regAccess_bootKept (d : Dev) (w : Writer) (b : Block) (o : Nat) (r : RegDef) (v : W32) : d.BootKept (d.regAccess w b o r v) := by
  have effect := d.regEffect_bootKept w b o r v
  unfold regAccess
  dsimp only
  split
  · exact .refl d
  · exact .either (d.plbWrite_bootKept o r v) (d.setReg_bootKept _ _)
  · exact .either (d.refuseWrite_bootKept b w o _) effect
  · exact .either effect (d.refuseWrite_bootKept b w o _)
  · exact effect

theorem writeReg_bootKept (d : Dev) (w : Writer) (off : Nat) (v : W32) : d.BootKept (d.writeReg w off v) := by
  unfold writeReg
  split
  · exact .refl d
  · dsimp only
    refine .doneUnless (.either (.doneIf (d.setReg_bootKept _ _)) (.either (d.msixWrite_bootKept _ v) ?_))
    split
    · exact .refl d
    · exact d.regAccess_bootKept w _ _ _ v

end Dev

end Sys2Proof.Machine
end

section
/-! SUPPORT. What can write memory while one job is torn down, no other context is in use, and no partition or sequence is there (R147–R151, R159):
no effect that becomes due, as long as the job is not ended. And what can bind core 1 to a job while one job that holds no core is the only one in
use: core 0 alone, whose follow it may be, when it goes on after a wait. -/
namespace Sys2Proof.Machine

/-- No context but `c` is in use, and no partition or sequence is there. -/
structure Dev.Lone (d : Dev) (c : Nat) : Prop where
  others : ∀ b, b ≠ c → (d.ctx b).state = .free
  parts : ∀ p, d.part p = none
  seqs : ∀ e ∈ d.seqs, e.2 = none

/-- No context but `c` is in use, there is no partition, and core 0, which is bound to a job, neither runs nor is saved. -/
structure Dev.Hush (d : Dev) (c : Nat) : Prop where
  others : ∀ b, b ≠ c → (d.ctx b).state = .free
  parts : ∀ p, d.part p = none
  bound : (d.core 0).ctx ≠ none
  unsaved : (d.core 0).st ≠ .saved
  rests : ∀ k, (0, k) ∈ d.cores → k.st ≠ .running

/-- The contexts' states, the partitions, the sequences, start-up and memory are the same. -/
structure Dev.JobsKept (d e : Dev) : Prop where
  states : ∀ b, (e.ctx b).state = (d.ctx b).state
  parts : e.jfe.parts = d.jfe.parts
  seqs : e.seqs = d.seqs
  boot : d.BootKept e
  mem : e.mem = d.mem

/-- The cores are the same too. -/
structure Dev.JobsStill (d e : Dev) : Prop extends d.JobsKept e where
  cores : e.cores = d.cores

/-- What an effect before start-up does to context `c`: one that holds nothing holds nothing after it, and one that is DRAINING is still so or holds
nothing. Where it is still so and the only one in use, it was the only one before, and memory is the same. Where it holds nothing and is the only one in use, it
was so before, and unless core 0 acts, core 1 has been bound to no job. The core that acts, if one does, is `h`. -/
structure Dev.Traces (d : Dev) (c h : Nat) (e : Dev) : Prop where
  boot : d.BootKept e
  spent : d.sec.boot.stage = 0 → (d.ctx c).state.holds = false → (e.ctx c).state.holds = false
  torn : d.sec.boot.stage = 0 → (d.ctx c).state = .draining → (e.ctx c).state = .draining ∨ (e.ctx c).state.holds = false
  back : d.sec.boot.stage = 0 → (d.ctx c).state = .draining → e.Lone c → (e.ctx c).state = .draining → d.Lone c ∧ e.mem = d.mem
  hush : d.sec.boot.stage = 0 → (d.ctx c).state.holds = false → e.Hush c → d.Hush c
  bound : d.sec.boot.stage = 0 → (d.ctx c).state.holds = false → e.Hush c → h ≠ 0 → (e.core 1).ctx ≠ none → (d.core 1).ctx ≠ none

namespace Dev

variable {d e f : Dev} {c a : Nat}

theorem core_of_cores (h : e.cores = d.cores) (g : Nat) : e.core g = d.core g := by
  rw [core, h]
  rfl

theorem part_of_parts (h : e.jfe.parts = d.jfe.parts) (p : Nat) : e.part p = d.part p := by
  rw [part, h]
  rfl

namespace JobsKept

theorem refl (d : Dev) : d.JobsKept d := ⟨fun _ => rfl, rfl, rfl, rfl, rfl⟩
theorem trans (h : d.JobsKept e) (k : e.JobsKept f) : d.JobsKept f :=
  ⟨fun b => (k.states b).trans (h.states b), k.parts.trans h.parts, k.seqs.trans h.seqs, h.boot.trans k.boot, k.mem.trans h.mem⟩
theorem of_jfe (jfe : e.jfe = d.jfe) (seqs : e.seqs = d.seqs) (sec : e.sec = d.sec) (mem : e.mem = d.mem) : d.JobsKept e :=
  ⟨fun b => congrArg Ctx.state (ctx_of_jfe jfe b), congrArg Jfe.parts jfe, seqs, .of_sec sec, mem⟩
theorem doneIf {p : Prop} [Decidable p] (h : d.JobsKept e) : d.JobsKept (if p then e else d) := by
  split
  · exact h
  · exact refl d

/-- The same contexts are in use on both sides. -/
theorem lone (h : d.JobsKept e) (k : e.Lone c) : d.Lone c where
  others b ne := (h.states b).symm.trans (k.others b ne)
  parts p := (part_of_parts h.parts p).symm.trans (k.parts p)
  seqs x mem := k.seqs x (by rw [h.seqs]; exact mem)

/-- Of the cores alone there is more to say. -/
theorem traces (h : d.JobsKept e) (hush : e.Hush c → d.Hush c) (bound : e.Hush c → a ≠ 0 → (e.core 1).ctx ≠ none → (d.core 1).ctx ≠ none) :
    d.Traces c a e where
  boot := h.boot
  spent _ none := by rw [h.states]; exact none
  torn _ down := .inl ((h.states c).trans down)
  back _ _ lone _ := ⟨h.lone lone, h.mem⟩
  hush _ _ := hush
  bound _ _ := bound

/-- Where there is a partition, no more. -/
theorem traces_of_part (h : d.JobsKept e) {p : Nat} (there : d.part p ≠ none) : d.Traces c a e :=
  have loud (quiet : e.Hush c) : False := there ((part_of_parts h.parts p).symm.trans (quiet.parts p))
  h.traces (fun quiet => (loud quiet).elim) fun quiet => (loud quiet).elim

end JobsKept

namespace JobsStill

theorem refl (d : Dev) : d.JobsStill d := ⟨.refl d, rfl⟩
theorem trans (h : d.JobsStill e) (k : e.JobsStill f) : d.JobsStill f := ⟨h.toJobsKept.trans k.toJobsKept, k.cores.trans h.cores⟩
theorem of_jfe (jfe : e.jfe = d.jfe) (seqs : e.seqs = d.seqs) (sec : e.sec = d.sec) (mem : e.mem = d.mem) (cores : e.cores = d.cores) : d.JobsStill e :=
  ⟨.of_jfe jfe seqs sec mem, cores⟩
theorem foldl {β : Type} {g : Dev → β → Dev} (h : ∀ (d : Dev) b, d.JobsStill (g d b)) (l : List β) (d : Dev) : d.JobsStill (l.foldl g d) :=
  List.foldlRecOn (motive := fun e => d.JobsStill e) l g (.refl d) fun e he b _ => he.trans (h e b)
theorem either {p : Prop} [Decidable p] (h : d.JobsStill e) (k : d.JobsStill f) : d.JobsStill (if p then e else f) := by
  split
  · exact h
  · exact k
theorem doneIf {p : Prop} [Decidable p] (h : d.JobsStill e) : d.JobsStill (if p then e else d) := either h (refl d)
theorem doneUnless {p : Prop} [Decidable p] (h : d.JobsStill e) : d.JobsStill (if p then d else e) := either (refl d) h

theorem hush (h : d.JobsStill e) (k : e.Hush c) : d.Hush c where
  others b ne := (h.states b).symm.trans (k.others b ne)
  parts p := (part_of_parts h.parts p).symm.trans (k.parts p)
  bound := by rw [← core_of_cores h.cores]; exact k.bound
  unsaved := by rw [← core_of_cores h.cores]; exact k.unsaved
  rests x mem := k.rests x (by rw [h.cores]; exact mem)

theorem traces (h : d.JobsStill e) : d.Traces c a e :=
  h.toJobsKept.traces h.hush fun _ _ there => by rw [← core_of_cores h.cores]; exact there

end JobsStill

namespace Traces

theorem refl (d : Dev) : d.Traces c a d := (JobsStill.refl d).traces

theorem trans (h : d.Traces c a e) (k : e.Traces c a f) : d.Traces c a f where
  boot := h.boot.trans k.boot
  spent start none := k.spent ((congrArg Boot.stage h.boot).trans start) (h.spent start none)
  torn start down := by
    have start' : e.sec.boot.stage = 0 := (congrArg Boot.stage h.boot).trans start
    obtain down' | none := h.torn start down
    · exact k.torn start' down'
    · exact .inr (k.spent start' none)
  back start down lone still := by
    have start' : e.sec.boot.stage = 0 := (congrArg Boot.stage h.boot).trans start
    have down' : (e.ctx c).state = .draining := by
      obtain down' | none := h.torn start down
      · exact down'
      · have none' := k.spent start' none
        rw [still] at none'
        nomatch none'
    obtain ⟨lone', mem'⟩ := k.back start' down' lone still
    obtain ⟨lone'', mem''⟩ := h.back start down lone' down'
    exact ⟨lone'', mem'.trans mem''⟩
  hush start none quiet := h.hush start none (k.hush ((congrArg Boot.stage h.boot).trans start) (h.spent start none) quiet)
  bound start none quiet other there := by
    have start' : e.sec.boot.stage = 0 := (congrArg Boot.stage h.boot).trans start
    have none' := h.spent start none
    exact h.bound start none (k.hush start' none' quiet) other (k.bound start' none' quiet other there)

theorem foldl {β : Type} {g : Dev → β → Dev} (h : ∀ (d : Dev) b, d.Traces c a (g d b)) (l : List β) (d : Dev) : d.Traces c a (l.foldl g d) :=
  List.foldlRecOn (motive := fun e => d.Traces c a e) l g (refl d) fun e he b _ => he.trans (h e b)
theorem either {p : Prop} [Decidable p] (h : d.Traces c a e) (k : d.Traces c a f) : d.Traces c a (if p then e else f) := by
  split
  · exact h
  · exact k
theorem doneIf {p : Prop} [Decidable p] (h : d.Traces c a e) : d.Traces c a (if p then e else d) := either h (refl d)
theorem doneUnless {p : Prop} [Decidable p] (h : d.Traces c a e) : d.Traces c a (if p then d else e) := either (refl d) h

/-- A change of one context that leaves it in use, and holding nothing unless it held cores before. Where it held none the cores are the same. -/
theorem of_ctx {b : Nat} (boot : d.BootKept e) (others : ∀ j, j ≠ b → (e.ctx j).state = (d.ctx j).state) (used : (e.ctx b).state ≠ .free)
    (held : (e.ctx b).state.holds = false ∨ (d.ctx b).state.holds = true ∧ (d.ctx b).state ≠ .draining)
    (kept : (d.ctx b).state.holds = false → e.jfe.parts = d.jfe.parts ∧ e.cores = d.cores) : d.Traces c a e := by
  by_cases same : c = b
  · subst same
    have freed (none : (d.ctx c).state.holds = false) : (e.ctx c).state.holds = false := by
      obtain none' | ⟨holds, -⟩ := held
      · exact none'
      · rw [none] at holds
        nomatch holds
    have ends (down : (d.ctx c).state = .draining) : (e.ctx c).state.holds = false := by
      obtain none' | ⟨-, other⟩ := held
      · exact none'
      · exact absurd down other
    refine ⟨boot, fun _ => freed, fun _ down => .inr (ends down), fun _ down _ still => ?_, fun _ none quiet => ?_, fun _ none _ _ there => ?_⟩
    · have none := ends down
      rw [still] at none
      nomatch none
    · obtain ⟨parts, cores⟩ := kept none
      refine ⟨fun j ne => (others j ne).symm.trans (quiet.others j ne), fun p => (part_of_parts parts p).symm.trans (quiet.parts p), ?_, ?_, ?_⟩
      · rw [← core_of_cores cores]
        exact quiet.bound
      · rw [← core_of_cores cores]
        exact quiet.unsaved
      · rw [← cores]
        exact quiet.rests
    · rw [← core_of_cores (kept none).2]
      exact there
  · have kept := others c same
    refine ⟨boot, fun _ none => ?_, fun _ down => .inl (kept.trans down), fun _ _ lone _ => ?_, fun _ _ quiet => ?_, fun _ _ quiet => ?_⟩
    · rw [kept]
      exact none
    · exact absurd (lone.others b (Ne.symm same)) used
    · exact absurd (quiet.others b (Ne.symm same)) used
    · exact absurd (quiet.others b (Ne.symm same)) used

/-- A change of memory, the Quoins and the records that wait, which leaves memory as it is where there is no partition. -/
theorem of_safety (h : d.SafetyOnly e) (mem : (∀ p, d.part p = none) → e.mem = d.mem) : d.Traces c a e := by
  have jfe : e.jfe = { d.jfe with squash := e.jfe.squash, ev := e.jfe.ev, evSeq := e.jfe.evSeq } := congrArg Dev.jfe h.eq
  have states (b : Nat) : (e.ctx b).state = (d.ctx b).state := by
    rw [ctx, jfe]
    rfl
  have parts : e.jfe.parts = d.jfe.parts := by rw [jfe]
  have still : ({ d with mem := e.mem } : Dev).JobsStill e := ⟨⟨states, parts, by rw [h.eq], h.bootKept, rfl⟩, by rw [h.eq]⟩
  have stored : d.Traces c a { d with mem := e.mem } := by
    refine ⟨rfl, fun _ => id, fun _ => .inl, fun _ _ lone _ => ⟨⟨lone.others, lone.parts, lone.seqs⟩, mem lone.parts⟩, fun _ _ quiet => ?_, fun _ _ _ _ => id⟩
    exact ⟨quiet.others, quiet.parts, quiet.bound, quiet.unsaved, quiet.rests⟩
  exact stored.trans still.traces

end Traces

end Dev

namespace Dev

variable {d e f : Dev} {c a : Nat}

/-! ### Records, counts and cores -/

theorem emit_jobsStill (d : Dev) (b : Block) (code sev a0 a1 : Nat) : d.JobsStill (d.emit b code sev a0 a1) := by
  obtain ⟨_, _, h⟩ := d.emit_eq b code sev a0 a1
  rw [h]
  exact ⟨⟨fun _ => rfl, rfl, rfl, rfl, rfl⟩, rfl⟩

theorem blkCount_jobsStill (d : Dev) (b : Block) (ev n : Nat) : d.JobsStill (d.blkCount b ev n) := by
  rw [blkCount_gau]
  exact .of_jfe rfl rfl rfl rfl rfl

theorem rateSet_jobsStill (d : Dev) (m : FMap (Option (Nat × Nat))) : d.JobsStill { d with rate := m } := .of_jfe rfl rfl rfl rfl rfl

theorem limited_jobsStill (d : Dev) (key gap : Nat) {g : Nat → Dev → Dev} (h : ∀ n (d : Dev), d.JobsStill (g n d)) :
    d.JobsStill (d.limited key gap g) := by
  unfold limited
  split
  · exact .either (d.rateSet_jobsStill _) ((d.rateSet_jobsStill _).trans (h _ _))
  · exact (d.rateSet_jobsStill _).trans (h _ _)

theorem orBits_jobsStill (d : Dev) (k m : Nat) : d.JobsStill (d.orBits k m) := .of_jfe rfl rfl rfl rfl rfl

theorem bump_jobsStill (d : Dev) (a n : Nat) : d.JobsStill (d.bump a n) := .of_jfe rfl rfl rfl rfl rfl

theorem poisonNoted_jobsStill (d : Dev) (m : FMap Bool) : d.JobsStill { d with poisonTold := m } := .of_jfe rfl rfl rfl rfl rfl

theorem tellPoison_jobsStill (d : Dev) (l : Nat) : d.JobsStill (d.tellPoison l) := by
  unfold tellPoison
  extract_lets a s d1
  have marked : d.JobsStill d1 := by
    unfold d1
    split
    · exact d.orBits_jobsStill _ _
    · exact .refl d
  clear_value d1
  split
  · exact marked
  · exact (marked.trans (d1.poisonNoted_jobsStill _)).trans (emit_jobsStill _ _ _ _ _ _)

theorem noteRead_jobsStill (d : Dev) (v : View) (a n : Nat) : d.JobsStill (d.noteRead v a n) := by
  unfold noteRead
  split
  · exact d.tellPoison_jobsStill _
  · exact .refl d

/-! ### Cores -/

end Dev

/-- A core after an instruction: unbound, or bound to the same job, and in the same state or saved. -/
def Core.Bides (x y : Core) : Prop := y.ctx = none ∨ y.ctx = x.ctx ∧ (y.st = x.st ∨ y.st = .saved)

/-- A value put into a map is in it. -/
theorem FMap.mem_insert {α : Type} (k : Nat) (v : α) : ∀ m : FMap α, (k, v) ∈ FMap.insert m k v
  | [] => List.mem_singleton.mpr rfl
  | (j, x) :: m => by
    unfold FMap.insert
    split
    · exact List.mem_cons_self
    · split
      · exact List.mem_cons_self
      · exact List.mem_cons_of_mem _ (mem_insert k v m)

/-- What stands at a place of a map still does after a write there, unless it was the value read back. -/
theorem FMap.mem_insert_self {α : Type} (d : α) {k : Nat} {x v : α} : ∀ {m : FMap α}, (k, x) ∈ m → (k, x) ∈ FMap.insert m k v ∨ x = FMap.get d m k
  | (j, y) :: m, mem => by
    unfold FMap.insert FMap.get
    split
    next same =>
      obtain first | rest := List.mem_cons.mp mem
      · exact .inr (Prod.mk.inj first).2
      · exact .inl (List.mem_cons_of_mem _ rest)
    next other =>
      split
      · exact .inl (List.mem_cons_of_mem _ mem)
      · obtain first | rest := List.mem_cons.mp mem
        · exact absurd (Prod.mk.inj first).1.symm other
        · obtain stays | read := mem_insert_self d rest
          · exact .inl (List.mem_cons_of_mem _ stays)
          · exact .inr read

theorem FMap.mem_insert_ne {α : Type} {k j : Nat} {x v : α} (ne : j ≠ k) : ∀ {m : FMap α}, (j, x) ∈ m → (j, x) ∈ FMap.insert m k v
  | (i, y) :: m, mem => by
    unfold FMap.insert
    obtain first | rest := List.mem_cons.mp mem
    · obtain ⟨rfl, rfl⟩ := Prod.mk.inj first
      rw [if_neg ne]
      split
      · exact List.mem_cons_of_mem _ mem
      · exact List.mem_cons_self
    · split
      · exact List.mem_cons_of_mem _ rest
      · split
        · exact List.mem_cons_of_mem _ mem
        · exact List.mem_cons_of_mem _ (mem_insert_ne ne rest)

theorem FMap.mem_erase_ne {α : Type} {k j : Nat} {x : α} (ne : j ≠ k) : ∀ {m : FMap α}, (j, x) ∈ m → (j, x) ∈ FMap.erase m k
  | (i, y) :: m, mem => by
    unfold FMap.erase
    obtain first | rest := List.mem_cons.mp mem
    · obtain ⟨rfl, rfl⟩ := Prod.mk.inj first
      rw [if_neg ne]
      exact List.mem_cons_self
    · split
      · exact mem_erase_ne ne rest
      · exact List.mem_cons_of_mem _ (mem_erase_ne ne rest)

theorem FMap.mem_set_ne {α : Type} [DecidableEq α] (d : α) {k j : Nat} {x v : α} (ne : j ≠ k) {m : FMap α} (mem : (j, x) ∈ m) :
    (j, x) ∈ FMap.set d m k v := by
  unfold FMap.set
  split
  · exact mem_erase_ne ne mem
  · exact mem_insert_ne ne mem

namespace Dev

variable {d e f : Dev} {c a : Nat}

theorem setCore_jobsKept (d : Dev) (g : Nat) (k : Core) : d.JobsKept (d.setCore g k) := .of_jfe rfl rfl rfl rfl

/-- A write of another core hushes nothing. -/
theorem Hush.of_setCore_ne {g : Nat} {k : Core} (ne : g ≠ 0) (quiet : (d.setCore g k).Hush c) : d.Hush c where
  others := quiet.others
  parts := quiet.parts
  bound := by
    rw [← d.core_setCore_ne k (Ne.symm ne)]
    exact quiet.bound
  unsaved := by
    rw [← d.core_setCore_ne k (Ne.symm ne)]
    exact quiet.unsaved
  rests x mem := quiet.rests x (FMap.mem_set_ne _ (Ne.symm ne) mem)

/-- Where core 0 is bound and rests after an instruction, it did so before it. -/
theorem Hush.of_setCore {g : Nat} {k : Core} (bides : (d.core g).Bides k) (quiet : (d.setCore g k).Hush c) : d.Hush c := by
  by_cases zero : g = 0
  · subst zero
    obtain ⟨others, parts, bound, unsaved, rests⟩ := quiet
    rw [core_setCore_self] at bound unsaved
    obtain none | ⟨same, st | saved⟩ := bides
    · exact absurd none bound
    · refine ⟨others, parts, by rw [← same]; exact bound, by rw [← st]; exact unsaved, fun x mem runs => ?_⟩
      have put : (d.setCore 0 k).cores = FMap.insert d.cores 0 k := if_neg fun off => bound (congrArg Core.ctx off)
      rw [put] at rests
      obtain stays | read := FMap.mem_insert_self Core.off (v := k) mem
      · exact rests x stays runs
      · exact rests k (FMap.mem_insert 0 k d.cores) (st.trans ((congrArg Core.st read).symm.trans runs))
    · exact absurd saved unsaved
  · exact .of_setCore_ne zero quiet

theorem setCore_traces (d : Dev) (g : Nat) {k : Core} (bides : (d.core g).Bides k) : d.Traces c a (d.setCore g k) :=
  (d.setCore_jobsKept g k).traces (.of_setCore bides) fun _ _ there => by
    by_cases one : g = 1
    · subst one
      rw [core_setCore_self] at there
      obtain none | ⟨same, -⟩ := bides
      · exact absurd none there
      · rw [← same]
        exact there
    · rw [core_setCore_ne _ _ (Ne.symm one)] at there
      exact there

theorem modCore_traces (d : Dev) (g : Nat) {r : Core → Core} (bides : ∀ k : Core, k.Bides (r k)) : d.Traces c a (d.modCore g r) :=
  d.setCore_traces g (bides _)

theorem putCore_jobsKept (d : Dev) (g : Nat) (k : Core) : d.JobsKept (d.putCore g k) := by
  rw [putCore_cores]
  exact .of_jfe rfl rfl rfl rfl

/-- A core that acts changes, of the other cores, its follow alone; core 0 has core 1 for its follow. -/
theorem putCore_traces (d : Dev) (g : Nat) {k : Core} (bides : (d.core g).Bides k) : d.Traces c g (d.putCore g k) := by
  have own : d.Traces c g (d.setCore g k) := d.setCore_traces g bides
  unfold putCore follow
  split
  · have next (other : g ≠ 0) : 1 ≠ g + 1 := fun same => other (Nat.succ.inj same).symm
    refine own.trans ((setCore_jobsKept _ _ _).traces (.of_setCore_ne (Nat.succ_ne_zero g)) fun _ other there => ?_)
    rw [core_setCore_ne _ _ (next other)] at there
    exact there
  · exact own

theorem causeSet_jobsStill (d : Dev) (x : Debug) : d.JobsStill { d with dbg := x } := .of_jfe rfl rfl rfl rfl rfl

theorem halted_jobsStill (d : Dev) (g cause : Nat) (x : Debug) :
    d.JobsStill (({ d with dbg := x } : Dev).limited (rateKey 0x0F03 g) (ticksMs 1) (fun _ d => d.emit .key 0x0F03 1 g cause)) :=
  (d.causeSet_jobsStill x).trans (limited_jobsStill _ _ _ fun _ d => d.emit_jobsStill _ _ _ _ _)

theorem haltCore_jobsKept (d : Dev) (g cause : Nat) : d.JobsKept (d.haltCore g cause) := (d.putCore_jobsKept g _).trans (halted_jobsStill _ g cause _).toJobsKept

theorem haltCore_traces (d : Dev) (g cause : Nat) : d.Traces c g (d.haltCore g cause) :=
  (d.putCore_traces g (k := { d.core g with halted := true }) (.inr ⟨rfl, .inl rfl⟩)).trans (halted_jobsStill _ g cause _).traces

theorem arrive_jobsKept (d : Dev) (g : Nat) : d.JobsKept (d.arrive g) := .doneIf (d.haltCore_jobsKept g 2)

theorem arrive_traces (d : Dev) (g : Nat) : d.Traces c g (d.arrive g) := .doneIf (d.haltCore_traces g 2)

theorem wake_jobsKept (d : Dev) (g : Nat) (r : Regs → Regs) : d.JobsKept (d.wake g r) := (d.putCore_jobsKept g _).trans (arrive_jobsKept _ g)

theorem advance_jobsKept (d : Dev) (g : Nat) (r : Core → Core) : d.JobsKept (d.advance g r) := (d.putCore_jobsKept g _).trans (arrive_jobsKept _ g)

theorem advance_traces (d : Dev) (g : Nat) {r : Core → Core} (bides : ∀ k : Core, k.Bides (r k)) : d.Traces c g (d.advance g r) :=
  (d.putCore_traces g (k := { r (d.core g) with pc := (r (d.core g)).pc + 8 }) (bides _)).trans (arrive_traces _ g)

theorem hold_traces (d : Dev) (g : Nat) (w : Wait) (remote : Bool) : d.Traces c g (d.hold g w remote) := d.putCore_traces g (.inr ⟨rfl, .inl rfl⟩)

theorem setSem_jobsKept (d : Dev) (n : Nat) (x : Sem) : d.JobsKept (d.setSem n x) := .of_jfe rfl rfl rfl rfl

theorem grantSem_jobsKept (d : Dev) (n : Nat) : d.JobsKept (d.grantSem n) := by
  unfold grantSem
  dsimp only
  split
  · exact ((d.setSem_jobsKept n _).trans (blkCount_jobsStill _ _ _ _).toJobsKept).trans (wake_jobsKept _ _ _)
  · exact .refl d

theorem releaseSem_jobsKept (d : Dev) (n : Nat) (poison : Bool) : d.JobsKept (d.releaseSem n poison) :=
  (d.setSem_jobsKept n _).trans (grantSem_jobsKept _ n)

/-! ### Contexts that end (R109, R148) -/

/-- A context that stays in its state. -/
theorem setCtx_jobsStill (d : Dev) (b : Nat) {x : Ctx} (same : x.state = (d.ctx b).state) : d.JobsStill (d.setCtx b x) := by
  refine ⟨⟨fun j => ?_, rfl, rfl, rfl, rfl⟩, rfl⟩
  by_cases h : j = b
  · subst h
    exact (congrArg Ctx.state (FMap.get_set_self _ _ _ _)).trans same
  · exact congrArg Ctx.state (d.ctx_setCtx_ne x h)

theorem setTicket_jobsStill (d : Dev) (b t : Nat) (x : Option Ticket) : d.JobsStill (d.setTicket b t x) := .of_jfe rfl rfl rfl rfl rfl

theorem completeTicket_jobsStill (d : Dev) (b : Nat) (t : Option Nat) (status : BitVec 8) : d.JobsStill (d.completeTicket b t status) := by
  unfold completeTicket
  split
  · split
    · exact d.setTicket_jobsStill _ _ _
    · exact .refl d
  · exact .refl d

theorem setEpoch_jobsStill (d : Dev) (k : Nat) (x : Epoch) : d.JobsStill (d.setEpoch k x) := ⟨⟨fun _ => rfl, rfl, rfl, rfl, rfl⟩, rfl⟩

theorem askSquash_jobsStill (d : Dev) (k reason : Nat) : d.JobsStill (d.askSquash k reason) := ⟨⟨fun _ => rfl, rfl, rfl, rfl, rfl⟩, rfl⟩

theorem SafetyOnly.ctx (h : d.SafetyOnly e) (b : Nat) : e.ctx b = d.ctx b := by
  have jfe : e.jfe = { d.jfe with squash := e.jfe.squash, ev := e.jfe.ev, evSeq := e.jfe.evSeq } := congrArg Dev.jfe h.eq
  rw [Dev.ctx, jfe]
  rfl

theorem leaveEpoch_ctx (d : Dev) (b a : Nat) : (d.leaveEpoch b).ctx a = d.ctx a := by
  unfold leaveEpoch
  split
  · rfl
  · rfl

theorem complete_ctx (d : Dev) (k : Completion) (a : Nat) : (d.complete k).ctx a = d.ctx a := rfl

theorem dropSaves_ctx (d : Dev) (b a : Nat) : (d.dropSaves b).ctx a = d.ctx a := rfl

theorem dropTickets_ctx (d : Dev) (b a : Nat) : (d.dropTickets b).ctx a = d.ctx a := rfl

/-- The job's end leaves the context ENDING, and every other as it was. -/
theorem endCtx_ctx (d : Dev) (b : Nat) (status : BitVec 8) :
    ((d.endCtx b status).ctx b).state = .ending ∧ ∀ a, a ≠ b → (d.endCtx b status).ctx a = d.ctx a := by
  unfold endCtx
  dsimp only
  refine ⟨?_, fun a ne => ?_⟩
  · rw [(resolverGone_memOnly _ _).ctx, complete_ctx, ctx_putCtx_same]
  · rw [(resolverGone_memOnly _ _).ctx, complete_ctx, ctx_putCtx_ne _ _ ne, dropTickets_ctx, dropSaves_ctx, leaveEpoch_ctx, (writerLost_memOnly _ b status).ctx,
      (closeUnclosed_safetyOnly _ _ _ _).ctx]

/-- The partitions and the cores are the same. -/
def CoresKept (d e : Dev) : Prop := e.jfe.parts = d.jfe.parts ∧ e.cores = d.cores

theorem CoresKept.trans (h : d.CoresKept e) (k : e.CoresKept f) : d.CoresKept f := ⟨k.1.trans h.1, k.2.trans h.2⟩

theorem SafetyOnly.coresKept (h : d.SafetyOnly e) : d.CoresKept e := ⟨by rw [h.eq], by rw [h.eq]⟩

theorem JobsStill.coresKept (h : d.JobsStill e) : d.CoresKept e := ⟨h.parts, h.cores⟩

theorem setCtx_coresKept (d : Dev) (b : Nat) (x : Ctx) : d.CoresKept (d.setCtx b x) := ⟨rfl, rfl⟩

theorem putCtx_coresKept (d : Dev) (b : Nat) (x : Ctx) : d.CoresKept (d.putCtx b x) :=
  (d.setCtx_coresKept b x).trans (d.putCtx_memOnly b x).safetyOnly.coresKept

theorem setEpoch_coresKept (d : Dev) (k : Nat) (x : Epoch) : d.CoresKept (d.setEpoch k x) := ⟨rfl, rfl⟩

theorem leaveEpoch_coresKept (d : Dev) (b : Nat) : d.CoresKept (d.leaveEpoch b) := by
  unfold leaveEpoch
  split
  · exact d.setEpoch_coresKept _ _
  · exact ⟨rfl, rfl⟩

theorem dropped_coresKept (d : Dev) (b : Nat) : d.CoresKept ((d.dropSaves b).dropTickets b) := ⟨rfl, rfl⟩

theorem complete_coresKept (d : Dev) (k : Completion) : d.CoresKept (d.complete k) := ⟨rfl, rfl⟩

/-- The job's end leaves the partitions and the cores as they are. -/
theorem endCtx_coresKept (d : Dev) (b : Nat) (status : BitVec 8) : d.CoresKept (d.endCtx b status) := by
  unfold endCtx
  dsimp only
  refine CoresKept.trans ?_ (resolverGone_memOnly _ _).safetyOnly.coresKept
  refine CoresKept.trans ?_ (complete_coresKept _ _)
  refine CoresKept.trans ?_ (putCtx_coresKept _ b _)
  refine CoresKept.trans ?_ (dropped_coresKept _ b)
  refine CoresKept.trans ?_ (leaveEpoch_coresKept _ b)
  exact (d.closeUnclosed_safetyOnly _ _ _).coresKept.trans (writerLost_memOnly _ b status).safetyOnly.coresKept

theorem endCtx_traces (d : Dev) (b : Nat) (status : BitVec 8) : d.Traces c a (d.endCtx b status) := by
  obtain ⟨ended, others⟩ := d.endCtx_ctx b status
  refine .of_ctx (b := b) (d.endCtx_testsStill b status).bootKept (fun j ne => congrArg Ctx.state (others j ne)) ?_ (.inl ?_) fun _ => d.endCtx_coresKept b status <;>
    rw [ended]
  · nofun
  · rfl

end Dev

namespace Dev

variable {d e f : Dev} {c a : Nat}

/-- A job that runs again is READY or has ended, and every other context is as it was. -/
theorem rerun_ctx (d : Dev) (b : Nat) :
    (((d.rerun b).ctx b).state = .ready ∨ ((d.rerun b).ctx b).state = .ending) ∧ ∀ a, a ≠ b → (d.rerun b).ctx a = d.ctx a := by
  unfold rerun
  dsimp only
  generalize hd2 : emit _ _ _ _ _ _ = d2
  have ready : (d2.ctx b).state = .ready ∧ ∀ a, a ≠ b → d2.ctx a = d.ctx a := by
    rw [← hd2]
    refine ⟨?_, fun a ne => ?_⟩
    · rw [emit_ctx, ctx_putCtx_same]
    · rw [emit_ctx, ctx_putCtx_ne _ _ ne, dropTickets_ctx, dropSaves_ctx, leaveEpoch_ctx]
  clear hd2
  obtain ⟨ready, others⟩ := ready
  split
  · obtain ⟨ended, others'⟩ := d2.endCtx_ctx b stFencedResource
    exact ⟨.inr ended, fun a ne => (others' a ne).trans (others a ne)⟩
  · exact ⟨.inl ready, others⟩

theorem rerun_coresKept (d : Dev) (b : Nat) : d.CoresKept (d.rerun b) := by
  unfold rerun
  dsimp only
  generalize hd2 : emit _ _ _ _ _ _ = d2
  have reset : d.CoresKept d2 := by
    rw [← hd2]
    refine CoresKept.trans ?_ (emit_jobsStill _ _ _ _ _ _).coresKept
    refine CoresKept.trans ?_ (putCtx_coresKept _ _ _)
    exact (leaveEpoch_coresKept d b).trans (dropped_coresKept _ b)
  split
  · exact reset.trans (endCtx_coresKept _ _ _)
  · exact reset

theorem rerun_traces (d : Dev) (b : Nat) : d.Traces c a (d.rerun b) := by
  obtain ⟨left, others⟩ := d.rerun_ctx b
  refine .of_ctx (b := b) (d.rerun_testsStill b).bootKept (fun j ne => congrArg Ctx.state (others j ne)) ?_ (.inl ?_) (fun _ => d.rerun_coresKept b) <;>
    obtain ready | ended := left
  · rw [ready]
    nofun
  · rw [ended]
    nofun
  · rw [ready]
    rfl
  · rw [ended]
    rfl

theorem endOrRerun_traces (d : Dev) (b : Nat) (status : BitVec 8) : d.Traces c a (d.endOrRerun b status) :=
  .either (d.rerun_traces b) (d.endCtx_traces b status)

theorem recordsEdited_jobsStill (d : Dev) (q : List Completion) : d.JobsStill { d with jfe := { d.jfe with cq := q } } := ⟨⟨fun _ => rfl, rfl, rfl, rfl, rfl⟩, rfl⟩

theorem putCtx_traces (d : Dev) (b : Nat) {x : Ctx} (used : x.state ≠ .free)
    (held : x.state.holds = false ∨ (d.ctx b).state.holds = true ∧ (d.ctx b).state ≠ .draining) : d.Traces c a (d.putCtx b x) := by
  refine .of_ctx (b := b) (d.putCtx_testsStill b x).bootKept (fun j ne => congrArg Ctx.state (ctx_putCtx_ne d x ne)) ?_ ?_ fun _ => d.putCtx_coresKept b x
  · rw [ctx_putCtx_same]
    exact used
  · rw [ctx_putCtx_same]
    exact held

theorem trigger_traces (d : Dev) (b : Nat) (status : BitVec 8) (storage : Bool) : d.Traces c a (d.trigger b status storage) := by
  by_cases drains : (d.ctx b).state.holds = true ∧ (d.ctx b).state ≠ .draining
  · obtain ⟨holds, other⟩ := drains
    obtain ⟨down, -, others, -⟩ := d.trigger_holds b status storage holds other
    refine .of_ctx (b := b) (d.trigger_testsStill b status storage).bootKept (fun j ne => congrArg Ctx.state (others j ne)) ?_ (.inr ⟨holds, other⟩) fun idle => ?_
    · rw [down]
      nofun
    · rw [holds] at idle
      nomatch idle
  · unfold trigger
    dsimp only
    split
    · exact .refl d
    · exact .doneIf (d.setCtx_jobsStill b (by rfl)).traces
    · next ending =>
      refine .doneIf (Traces.trans (putCtx_traces d b ?_ (.inl ?_)) (recordsEdited_jobsStill _ _).traces)
      · exact fun free => nomatch ending.symm.trans free
      · exact congrArg CtxState.holds ending
    · next other _ =>
      split
      · next holds => exact absurd ⟨holds, other⟩ drains
      · exact (d.setCtx_jobsStill b (by rfl)).traces.trans (endOrRerun_traces _ b status)

theorem coreFault_traces (d : Dev) (g : Nat) (x : SedunFault) : d.Traces c g (d.coreFault g x) := by
  unfold coreFault
  dsimp only
  have told : d.Traces c g _ := (d.putCore_traces g (k := { d.core g with fault := BitVec.ofNat 8 x.code }) (.inr ⟨rfl, .inl rfl⟩)).trans
    (emit_jobsStill _ (coreBlock g) 0x0210 2 g (x.code * 2 ^ 24 + d.codeOffset g)).traces
  split
  · exact told.trans (trigger_traces _ _ _ _)
  · exact told

/-! ### Epochs (R195–R206) -/

/-- Where there is no sequence, no stream of one is edited. -/
theorem mapStreams_of_none (none_ : ∀ x ∈ d.seqs, x.2 = none) (k : Nat) (r : Nat → Nat) (void : Bool) : d.mapStreams k r void = d := by
  unfold mapStreams
  refine List.foldlRecOn (motive := fun e => e = d) d.seqs _ rfl fun e he x mem => ?_
  rw [none_ x mem]
  exact he

/-- The sequences that are there stay. -/
def SeqsStay (d e : Dev) : Prop := (∀ x ∈ e.seqs, x.2 = none) → ∀ x ∈ d.seqs, x.2 = none

theorem SeqsStay.trans (h : d.SeqsStay e) (k : e.SeqsStay f) : d.SeqsStay f := fun none_ => h (k none_)

theorem SeqsStay.foldl {β : Type} {g : Dev → β → Dev} (h : ∀ (d : Dev) b, d.SeqsStay (g d b)) (l : List β) (d : Dev) : d.SeqsStay (l.foldl g d) :=
  List.foldlRecOn (motive := fun e => d.SeqsStay e) l g id fun e he b _ => he.trans (h e b)

theorem SeqsStay.of_eq (h : e.seqs = d.seqs) : d.SeqsStay e := fun none_ x mem => none_ x (by rw [h]; exact mem)

/-- A sequence put in its place is there. -/
theorem seqPut_stays (d : Dev) (k : Nat) (q : Seq) : d.SeqsStay { d with seqs := FMap.set none d.seqs k (some q) } := by
  intro none_
  have there : (k, some q) ∈ FMap.set none d.seqs k (some q) := by
    unfold FMap.set
    rw [if_neg nofun]
    exact FMap.mem_insert k _ d.seqs
  nomatch none_ _ there

theorem mapStreams_stays (d : Dev) (k : Nat) (r : Nat → Nat) (void : Bool) : d.SeqsStay (d.mapStreams k r void) := by
  unfold mapStreams
  refine .foldl (fun d s => ?_) _ _
  split
  · refine .foldl (fun d st => ?_) _ _
    dsimp only
    split
    · have stored (a : Nat) (bs : List Byte) : d.SeqsStay (d.wr View.plain a bs) := .of_eq (by rw [(d.wr_memOnly _ _ _).eq])
      split
      · split
        · exact (stored _ _).trans (seqPut_stays _ _ _)
        · exact stored _ _
      · exact stored _ _
    · exact id
  · exact id

theorem wr_jfe (d : Dev) (v : View) (a : Nat) (bs : List Byte) : (d.wr v a bs).jfe = { d.jfe with squash := (d.wr v a bs).jfe.squash } :=
  congrArg Dev.jfe (d.wr_memOnly v a bs).eq

/-- Editing the streams changes no more of the job front-end than the squashes it asks for. -/
theorem mapStreams_jfe (d : Dev) (k : Nat) (r : Nat → Nat) (void : Bool) :
    (d.mapStreams k r void).jfe = { d.jfe with squash := (d.mapStreams k r void).jfe.squash } := by
  unfold mapStreams
  refine List.foldlRecOn (motive := fun e : Dev => e.jfe = { d.jfe with squash := e.jfe.squash }) _ _ rfl fun e he s _ => ?_
  split
  · refine List.foldlRecOn (motive := fun e : Dev => e.jfe = { d.jfe with squash := e.jfe.squash }) _ _ he fun e he st _ => ?_
    dsimp only
    have stored (a : Nat) (bs : List Byte) : (e.wr View.plain a bs).jfe = { d.jfe with squash := (e.wr View.plain a bs).jfe.squash } := by
      rw [wr_jfe, he]
    split
    · split
      · split
        · exact stored _ _
        · exact stored _ _
      · exact stored _ _
    · exact he
  · exact he

theorem mapStreams_cores (d : Dev) (k : Nat) (r : Nat → Nat) (void : Bool) : (d.mapStreams k r void).cores = d.cores := by
  unfold mapStreams
  refine List.foldlRecOn (motive := fun e : Dev => e.cores = d.cores) _ _ rfl fun e he s _ => ?_
  split
  · refine List.foldlRecOn (motive := fun e : Dev => e.cores = d.cores) _ _ he fun e he st _ => ?_
    dsimp only
    have stored (a : Nat) (bs : List Byte) : (e.wr View.plain a bs).cores = d.cores := (congrArg Dev.cores (e.wr_memOnly _ _ _).eq).trans he
    split
    · split
      · split
        · exact stored _ _
        · exact stored _ _
      · exact stored _ _
    · exact he
  · exact he

/-- An edit of the streams changes memory and the sequences alone, and nothing where there is no sequence. -/
theorem mapStreams_traces (d : Dev) (k : Nat) (r : Nat → Nat) (void : Bool) : d.Traces c a (d.mapStreams k r void) := by
  have jfe := d.mapStreams_jfe k r void
  have states (b : Nat) : ((d.mapStreams k r void).ctx b).state = (d.ctx b).state := by
    rw [Dev.ctx, jfe]
    rfl
  have parts : (d.mapStreams k r void).jfe.parts = d.jfe.parts := by rw [jfe]
  have boot := (d.mapStreams_testsStill k r void).bootKept
  have still : ({ d with mem := (d.mapStreams k r void).mem, seqs := (d.mapStreams k r void).seqs } : Dev).JobsStill (d.mapStreams k r void) :=
    ⟨⟨states, parts, rfl, boot, rfl⟩, d.mapStreams_cores k r void⟩
  have edited : d.Traces c a { d with mem := (d.mapStreams k r void).mem, seqs := (d.mapStreams k r void).seqs } := by
    refine ⟨rfl, fun _ => id, fun _ => .inl, fun _ _ lone _ => ?_, fun _ _ quiet => ?_, fun _ _ _ _ => id⟩
    · have seqs := d.mapStreams_stays k r void lone.seqs
      exact ⟨⟨lone.others, lone.parts, seqs⟩, by rw [mapStreams_of_none seqs]⟩
    · exact ⟨quiet.others, quiet.parts, quiet.bound, quiet.unsaved, quiet.rests⟩
  exact edited.trans still.traces

theorem untag_jobsStill (d : Dev) (l : Nat) : d.JobsStill (d.untag l) := .of_jfe rfl rfl rfl rfl rfl

theorem confirmed_jobsStill (d : Dev) (m : FMap Nat) (held : List HeldWrite) :
    d.JobsStill { d with mirrorDue := m, jfe := { d.jfe with heldWrites := held } } := ⟨⟨fun _ => rfl, rfl, rfl, rfl, rfl⟩, rfl⟩

theorem confirm_traces (d : Dev) (k : Nat) : d.Traces c a (d.confirm k) := by
  unfold confirm
  dsimp only
  refine Traces.trans ?_ (emit_jobsStill _ _ _ _ _ _).traces
  refine Traces.trans ?_ (setEpoch_jobsStill _ _ _).traces
  refine Traces.trans ?_ (mapStreams_traces _ _ _ _)
  refine Traces.trans ?_ (confirmed_jobsStill _ _ _).traces
  exact (JobsStill.foldl untag_jobsStill _ _).traces

theorem tagsLost_jobsStill (d : Dev) (m : FMap LineTag) (held : List HeldWrite) :
    d.JobsStill { d with tags := m, jfe := { d.jfe with heldWrites := held } } := ⟨⟨fun _ => rfl, rfl, rfl, rfl, rfl⟩, rfl⟩

theorem squash_traces (d : Dev) (k reason : Nat) : d.Traces c a (d.squash k reason) := by
  unfold squash
  dsimp only
  refine .doneUnless ?_
  refine Traces.trans ?_ (.foldl (fun d (x : Nat × Epoch) => .doneIf (d.askSquash_jobsStill x.1 0x05).traces) _ _)
  refine Traces.trans ?_ (.foldl (fun d b => d.trigger_traces b stSpecSquashed false) _ _)
  refine Traces.trans ?_ (emit_jobsStill _ _ _ _ _ _).traces
  refine Traces.trans ?_ (bump_jobsStill _ _ _).traces
  refine Traces.trans ?_ (setEpoch_jobsStill _ _ _).traces
  refine Traces.trans ?_ (mapStreams_traces _ _ _ _)
  exact (tagsLost_jobsStill d _ _).traces

theorem openEpoch_traces (d : Dev) (k b : Nat) : d.Traces c a (d.openEpoch k b) := by
  unfold openEpoch
  dsimp only
  have opened (x : Epoch) : d.Traces c a (d.setEpoch k x) := (d.setEpoch_jobsStill k x).traces
  exact .either ((opened _).trans (squash_traces _ _ _)) (opened _)

theorem join_traces (d : Dev) (b : Nat) : d.Traces c a (d.join b) := by
  unfold join
  dsimp only
  have joined (x : Epoch) (r : Ctx → Ctx) (same : ∀ y : Ctx, (r y).state = y.state) :
      d.JobsStill ((d.setEpoch (d.ctx b).inv.writeEpoch x).modCtx b r) :=
    (d.setEpoch_jobsStill _ x).trans (setCtx_jobsStill _ b (same _))
  exact .either ((joined _ _ fun _ => by rfl).trans (askSquash_jobsStill _ _ _)).traces (joined _ _ fun _ => by rfl).traces

theorem epochReady_traces (d : Dev) (b : Nat) : d.Traces c a (d.epochReady b) := by
  unfold epochReady
  dsimp only
  refine .doneUnless (.either (.doneUnless (d.endOrRerun_traces b _)) (.either (d.endCtx_traces b _) (.doneUnless ?_)))
  split
  · exact d.join_traces b
  · exact (d.setCtx_jobsStill b (by rfl)).traces
  · exact d.endOrRerun_traces b _
  · refine .either (.doneUnless ((d.setCtx_jobsStill b (by rfl)).trans (emit_jobsStill _ _ _ _ _ _)).traces) ?_
    exact .either ((d.openEpoch_traces _ b).trans (join_traces _ b)) ((d.openEpoch_traces _ b).trans (endOrRerun_traces _ b _))

/-! ### Checkpoints (R153–R155) -/

theorem suspendIfSaved_traces (d : Dev) (b : Nat) : d.Traces c a (d.suspendIfSaved b) := by
  unfold suspendIfSaved
  dsimp only
  split
  · next saved =>
    obtain ⟨yielding, -, -⟩ := saved
    refine Traces.trans ?_ (bump_jobsStill _ _ _).traces
    have freed : d.JobsKept ((d.coresOn b).foldl (fun d g => d.modCore g (fun k => { k with st := .idle, ctx := none })) d) :=
      List.foldlRecOn (motive := fun e => d.JobsKept e) _ _ (.refl d) fun e he g _ => he.trans (e.setCore_jobsKept g _)
    have unbound : d.Traces c a ((d.coresOn b).foldl (fun d g => d.modCore g (fun k => { k with st := .idle, ctx := none })) d) :=
      .foldl (fun d g => d.modCore_traces g fun _ => .inl rfl) _ _
    have yielding' := (freed.states b).trans yielding
    refine unbound.trans (putCtx_traces _ b (by nofun) (.inr ⟨?_, ?_⟩)) <;> rw [yielding']
    · rfl
    · nofun
  · exact .refl d

theorem savesSet_jobsStill (d : Dev) (m : FMap (Option SaveSlot)) : d.JobsStill { d with jfe := { d.jfe with saves := m } } :=
  ⟨⟨fun _ => rfl, rfl, rfl, rfl, rfl⟩, rfl⟩

theorem saveCore_traces (d : Dev) (b g : Nat) (k : Checkpoint) : d.Traces c g (d.saveCore b g k) := by
  unfold saveCore
  dsimp only
  refine Traces.trans ((d.savesSet_jobsStill _).traces.trans (putCore_traces _ g (.inr ⟨?_, .inr ?_⟩))) (suspendIfSaved_traces _ b)
  · rfl
  · rfl

theorem yldDone_traces (d : Dev) (g : Nat) (x : FmtC) : d.Traces c g (d.yldDone g x) := by
  unfold yldDone
  split
  · exact d.saveCore_traces _ g _
  · exact .refl d

theorem endDone_traces (d : Dev) (g : Nat) : d.Traces c g (d.endDone g) := by
  unfold endDone
  dsimp only
  refine Traces.trans ?_ (suspendIfSaved_traces _ _)
  refine Traces.trans ?_ (setCtx_jobsStill _ _ (by rfl)).traces
  exact (JobsStill.foldl (fun d t => d.setTicket_jobsStill _ t none) _ _).traces.trans (putCore_traces _ _ (.inl rfl))

theorem request_traces (d : Dev) (b by_ : Nat) : d.Traces c a (d.request b by_) := by
  unfold request
  dsimp only
  split
  · exact .refl d
  · split
    · exact .refl d
    · next runs =>
      have running : (d.ctx b).state = .running := by
        by_contra other
        exact runs (.inl other)
      refine .either (d.trigger_traces b _ false) (Traces.trans (putCtx_traces d b (by nofun) (.inr ⟨?_, ?_⟩)) (emit_jobsStill _ _ _ _ _ _).traces) <;> rw [running]
      · rfl
      · nofun

end Dev

namespace Dev

variable {d e f : Dev} {c a : Nat}

/-! ### Instructions that are tried again (R96, R108–R114, R199, R201) -/

/-- An effect that leaves such traces alone, where it is no fault. -/
def OpTraces (d : Dev) (c a : Nat) : Except SedunFault Effect → Prop
  | .ok (_, e) => d.Traces c a e
  | .error _ => True

theorem OpTraces.faultIf {p : Bool} {x : SedunFault} {r : Except SedunFault Effect} (h : d.OpTraces c a r) : d.OpTraces c a (faultIf p x r) := by
  cases p with
  | true => trivial
  | false => exact h

theorem drawn_jobsStill (d : Dev) (n : Nat) : d.JobsStill (d.drawBytes n).2 := .of_jfe rfl rfl rfl rfl rfl

theorem lsView_jobsStill (d : Dev) (g : Nat) (ls : List Nat) : d.JobsStill (d.lsView g ls).2 := by
  unfold lsView
  dsimp only
  split
  · exact .refl d
  · exact d.drawn_jobsStill _

theorem lsLoad_jobsStill (d : Dev) (g a n : Nat) : d.JobsStill (d.lsLoad g a n).2 := d.lsView_jobsStill g _

theorem streamConflict_jobsStill (d : Dev) (b r : Nat) : d.JobsStill (d.streamConflict b r).2 := by
  unfold streamConflict
  dsimp only
  split
  · exact .refl d
  · split
    · split
      · exact .refl d
      · exact d.askSquash_jobsStill _ _
    · exact d.askSquash_jobsStill _ _

theorem seqPut_traces (d : Dev) (k : Nat) (q : Seq) : d.Traces c a { d with seqs := FMap.set none d.seqs k (some q) } where
  hush _ _ quiet := ⟨quiet.others, quiet.parts, quiet.bound, quiet.unsaved, quiet.rests⟩
  bound _ _ _ _ := id
  boot := rfl
  spent _ none := none
  torn _ down := .inl down
  back _ _ lone _ := ⟨⟨lone.others, lone.parts, d.seqPut_stays k q lone.seqs⟩, rfl⟩

theorem enqueueDma_traces (d : Dev) (g : Nat) (x : DmaEntry) : d.Traces c g (d.enqueueDma g x) := by
  unfold enqueueDma
  have viewed : d.JobsStill (if x.writesOut then d.lsView g ((x.lsBytes.map (· / 64)).eraseDups) else (d.core g, d)).2 := by
    split
    · exact d.lsView_jobsStill g _
    · exact .refl d
  revert viewed
  generalize (if x.writesOut then d.lsView g ((x.lsBytes.map (· / 64)).eraseDups) else (d.core g, d)) = p
  intro viewed
  dsimp only
  split
  · split
    · have met (b r : Nat) : d.JobsStill (p.2.streamConflict b r).2 := viewed.trans (streamConflict_jobsStill _ _ _)
      split
      · exact ((met _ _).traces.trans (seqPut_traces _ _ _)).trans (advance_traces _ g fun _ => .inr ⟨rfl, .inl rfl⟩)
      · exact (met _ _).traces.trans (advance_traces _ g fun _ => .inr ⟨rfl, .inl rfl⟩)
    · exact viewed.traces.trans (advance_traces _ g fun _ => .inr ⟨rfl, .inl rfl⟩)
  · exact viewed.traces.trans (advance_traces _ g fun _ => .inr ⟨rfl, .inl rfl⟩)

theorem dmaOp_traces (d : Dev) (g : Nat) (x : FmtX) : d.OpTraces c g (dmaOp x d g) := by
  unfold dmaOp
  split
  · trivial
  · next a _ =>
    dsimp only
    have loaded := (d.lsLoad_jobsStill g a 64).traces (c := c) (a := g)
    split
    · trivial
    · split
      · exact d.hold_traces g _ _
      · split
        · exact loaded.trans (trigger_traces _ _ _ _)
        · exact loaded.trans (enqueueDma_traces _ g _)

theorem dmawOp_traces (d : Dev) (g : Nat) (x : FmtX) : d.OpTraces c g (dmawOp x d g) :=
  .faultIf (.either (d.advance_traces g fun _ => .inr ⟨rfl, .inl rfl⟩) (d.hold_traces g _ _))

theorem fenceOp_traces (d : Dev) (g : Nat) (x : FmtX) : d.OpTraces c g (fenceOp x d g) :=
  .faultIf (.either (d.advance_traces g fun _ => .inr ⟨rfl, .inl rfl⟩) (d.hold_traces g _ _))

theorem ok_of_faultIf {α : Type} {p : Bool} {x : SedunFault} {r : Except SedunFault α} {v : α} (h : Sys2Proof.Machine.faultIf p x r = .ok v) : p = false ∧ r = .ok v := by
  cases p with
  | true => nomatch h
  | false => exact ⟨rfl, h⟩

/-- Only a job of a partition may name a semaphore. -/
theorem part_of_semCheck {g n : Nat} {x : FmtX} {dest : Bool} (ok : d.semCheck g x dest = .ok n) : d.part (d.ctx (d.ctxOn g)).part ≠ none := by
  intro none_
  have partless : d.partOfCtx (d.ctxOn g) = none := none_
  unfold semCheck at ok
  dsimp only at ok
  obtain ⟨-, ok⟩ := ok_of_faultIf ok
  obtain ⟨-, ok⟩ := ok_of_faultIf ok
  obtain ⟨granted, -⟩ := ok_of_faultIf ok
  rw [partless] at granted
  simp at granted

theorem semrOp_traces (d : Dev) (g : Nat) (x : FmtX) : d.OpTraces c g (semrOp x d g) := by
  unfold semrOp
  split
  · trivial
  · next allowed =>
    refine .faultIf ?_
    split
    · exact d.trigger_traces _ _ _
    · split
      · exact d.hold_traces g _ _
      · exact ((d.releaseSem_jobsKept _ _).trans (advance_jobsKept _ g _)).traces_of_part (part_of_semCheck allowed)

theorem accessStop_traces {g p n : Nat} {read : Bool} (h : d.accessStop g p n read = some e) : d.Traces c a e := by
  unfold accessStop at h
  dsimp only at h
  split at h
  · obtain rfl := Option.some.inj h
    exact (JobsStill.doneIf (d.noteRead_jobsStill _ _ _)).traces.trans (trigger_traces _ _ _ _)
  · nomatch h

/-- Without a partition no atomic access is allowed. -/
theorem atomCheck_of_partless (partless : ∀ p, d.part p = none) (g : Nat) (x : FmtX) (bad write : Bool) (n a : Nat) :
    d.atomCheck g x bad write n ≠ .ok a := by
  have none_ : d.partOfCtx (d.ctxOn g) = none := partless _
  intro ok
  unfold atomCheck at ok
  obtain ⟨-, ok⟩ := ok_of_faultIf ok
  obtain ⟨-, ok⟩ := ok_of_faultIf ok
  obtain ⟨bad, -⟩ := ok_of_faultIf ok
  rw [none_] at bad
  simp at bad

theorem amoOp_traces (d : Dev) (g : Nat) (x : FmtX) : d.OpTraces c g (amoOp x d g) := by
  unfold amoOp
  dsimp only
  split
  · trivial
  · next a allowed =>
    split
    · next stopped => exact accessStop_traces stopped
    · split
      · exact d.hold_traces g _ _
      · refine Traces.trans ?_ (advance_traces _ g fun _ => .inr ⟨rfl, .inl rfl⟩)
        refine Traces.trans ?_ (blkCount_jobsStill _ _ _ _).traces
        split
        · exact .of_safety (d.jobWrites_safetyOnly _ _) fun partless => absurd allowed (atomCheck_of_partless partless g x _ _ _ a)
        · exact .refl d

theorem mwaitOp_traces (d : Dev) (g : Nat) (x : FmtX) : d.OpTraces c g (mwaitOp x d g) := by
  unfold mwaitOp
  dsimp only
  split
  · trivial
  · split
    · next stopped => exact accessStop_traces stopped
    · split
      · exact d.advance_traces g fun _ => .inr ⟨rfl, .inl rfl⟩
      · exact d.hold_traces g _ _

theorem ticketNumbered_jobsStill (d : Dev) (m : FMap Nat) : d.JobsStill { d with ticketSeq := m } := .of_jfe rfl rfl rfl rfl rfl

theorem newTicket_traces (d : Dev) (g tgt die : Nat) : d.Traces c a (d.newTicket g tgt die).2 := by
  unfold newTicket
  dsimp only
  exact ((d.ticketNumbered_jobsStill _).trans (setTicket_jobsStill _ _ _ _)).traces.trans (modCore_traces _ _ fun _ => .inr ⟨rfl, .inl rfl⟩)

theorem ordered_jobsStill (d : Dev) (n : Nat) : d.JobsStill { d with jfe := { d.jfe with order := n } } := ⟨⟨fun _ => rfl, rfl, rfl, rfl, rfl⟩, rfl⟩

theorem pushCairn_jobsStill (d : Dev) (k : EngCmd) : d.JobsStill (d.pushCairn k) := .of_jfe rfl rfl rfl rfl rfl

theorem setEng_jobsStill (d : Dev) (n k : Nat) (x : Eng) : d.JobsStill (d.setEng n k x) := .of_jfe rfl rfl rfl rfl rfl

theorem eissOp_traces (d : Dev) (g : Nat) (x : FmtE) : d.OpTraces c g (eissOp x d g) := by
  unfold eissOp
  dsimp only
  refine .faultIf (.faultIf (.faultIf (.faultIf ?_)))
  generalize (if x.tgt.toNat = 4 then 8 else eissDie x g) = die
  have numbered : d.Traces c g (d.newTicket g x.tgt.toNat die).2 := d.newTicket_traces g x.tgt.toNat die
  generalize d.newTicket g x.tgt.toNat die = t at numbered ⊢
  split
  · exact d.hold_traces g _ _
  · split
    · exact (numbered.trans (completeTicket_jobsStill _ _ _ _).traces).trans (advance_traces _ g fun _ => .inr ⟨rfl, .inl rfl⟩)
    · split
      · exact d.hold_traces g _ _
      · refine Traces.trans ?_ (advance_traces _ g fun _ => .inr ⟨rfl, .inl rfl⟩)
        refine (numbered.trans (t.2.ordered_jobsStill (t.2.jfe.order + 1)).traces).trans (JobsStill.traces ?_)
        generalize ({ t.2 with jfe := { t.2.jfe with order := t.2.jfe.order + 1 } } : Dev) = d2
        exact .either ((d2.pushCairn_jobsStill _).trans (setCtx_jobsStill _ _ (by rfl))) (d2.setEng_jobsStill _ _ _)

theorem ewaitOp_traces (d : Dev) (g : Nat) (x : FmtE) : d.OpTraces c g (ewaitOp x d g) := by
  unfold ewaitOp
  split
  · trivial
  · exact d.advance_traces g fun _ => .inr ⟨rfl, .inl rfl⟩
  · exact d.hold_traces g _ _

theorem epwaitOp_traces (d : Dev) (g : Nat) (x : FmtE) : d.OpTraces c g (epwaitOp x d g) := by
  unfold epwaitOp
  split
  · trivial
  · exact .either (d.hold_traces g _ _) (d.advance_traces g fun _ => .inr ⟨rfl, .inl rfl⟩)

theorem resolve_jobsStill (d : Dev) (k : Nat) (actual : List Nat) : d.JobsStill (d.resolve k actual) :=
  .doneUnless (.either (d.setEpoch_jobsStill k _) (d.askSquash_jobsStill k 0x01))

theorem eprslvOp_traces (d : Dev) (g : Nat) (x : FmtE) : d.OpTraces c g (eprslvOp x d g) := by
  unfold eprslvOp
  dsimp only
  refine .faultIf (.faultIf (.faultIf (.faultIf (.faultIf ?_))))
  split
  · exact d.advance_traces g fun _ => .inr ⟨rfl, .inl rfl⟩
  · split
    · refine .faultIf ?_
      have loaded (a n : Nat) := d.lsLoad_jobsStill g a n
      exact Traces.trans (JobsStill.either ((loaded _ _).trans (resolve_jobsStill _ _ _)) (loaded _ _)).traces (hold_traces _ g _ _)
    · split
      · exact ((d.setEpoch_jobsStill _ _).trans (emit_jobsStill _ _ _ _ _ _)).traces.trans (advance_traces _ g fun _ => .inr ⟨rfl, .inl rfl⟩)
      · exact d.hold_traces g _ _

theorem setPort_jobsStill (d : Dev) (n p : Nat) (x : Port) : d.JobsStill (d.setPort n p x) := .of_jfe rfl rfl rfl rfl rfl

theorem crdbOp_traces (d : Dev) (g : Nat) (x : FmtE) : d.OpTraces c g (crdbOp x d g) := by
  unfold crdbOp
  dsimp only
  refine .faultIf (.faultIf ?_)
  split
  · exact d.advance_traces g fun _ => .inr ⟨rfl, .inl rfl⟩
  · split
    · exact (d.setPort_jobsStill _ _ _).traces.trans (advance_traces _ g fun _ => .inr ⟨rfl, .inl rfl⟩)
    · exact d.hold_traces g _ _

theorem again_traces (d : Dev) (g : Nat) {op : Dev → Nat → Except SedunFault Effect} (h : ∀ d : Dev, d.OpTraces c g (op d g)) : d.Traces c g (d.again g op) := by
  unfold again
  dsimp only
  refine (d.modCore_traces g (r := fun k => { k with wait := .none, remoteSince := none }) fun _ => .inr ⟨rfl, .inl rfl⟩).trans ?_
  generalize d.modCore g (fun k => { k with wait := .none, remoteSince := none }) = d0
  have tried := h d0
  split
  · exact d0.coreFault_traces g _
  · next done =>
    rw [done] at tried
    exact .either tried (Traces.trans tried (modCore_traces _ _ fun _ => .inr ⟨rfl, .inl rfl⟩))

theorem retry_traces (d : Dev) (g : Nat) : d.Traces c g (d.retry g) := by
  unfold retry
  split
  case h_1 | h_2 => exact .refl d
  case h_3 x _ => exact d.again_traces g fun d => dmaOp_traces d g x
  case h_4 x _ => exact d.again_traces g fun d => dmawOp_traces d g x
  case h_5 x _ => exact d.again_traces g fun d => semrOp_traces d g x
  case h_6 x _ => exact d.again_traces g fun d => amoOp_traces d g x
  case h_7 x _ => exact d.again_traces g fun d => mwaitOp_traces d g x
  case h_8 x _ => exact d.again_traces g fun d => fenceOp_traces d g x
  case h_9 x _ => exact (d.modCore_traces g (r := fun k => { k with wait := .none, remoteSince := none }) fun _ => .inr ⟨rfl, .inl rfl⟩).trans (yldDone_traces _ g x)
  case h_10 => exact d.endDone_traces g
  case h_11 x _ => exact d.again_traces g fun d => eissOp_traces d g x
  case h_12 x _ => exact d.again_traces g fun d => ewaitOp_traces d g x
  case h_13 x _ => exact d.again_traces g fun d => epwaitOp_traces d g x
  case h_14 x _ => exact d.again_traces g fun d => eprslvOp_traces d g x
  case h_15 x _ => exact d.again_traces g fun d => crdbOp_traces d g x

end Dev

namespace Dev

variable {d e f : Dev} {c a : Nat}

/-! ### Fences (R158, R325–R327, R330, R354, R418) -/

theorem mirrorsSet_jobsStill (d : Dev) (m : FMap (Option Mirror)) : d.JobsStill { d with mirrors := m } := .of_jfe rfl rfl rfl rfl rfl

theorem mirrorsLost_jobsStill (d : Dev) : d.JobsStill d.mirrorsLost := by
  unfold mirrorsLost
  refine .foldl (fun d x => ?_) _ _
  split
  · unfold mirrorTo
    dsimp only
    exact .doneUnless ((d.mirrorsSet_jobsStill _).trans (emit_jobsStill _ _ _ _ _ _))
  · exact .refl d

theorem setQuoin_jobsStill (d : Dev) (q : Nat) (x : Quoin) : d.JobsStill (d.setQuoin q x) := .either (.of_jfe rfl rfl rfl rfl rfl) (.of_jfe rfl rfl rfl rfl rfl)

theorem setFence_jobsStill (d : Dev) (u : Nat) : d.JobsStill (d.setFence u) := .doneUnless (.of_jfe rfl rfl rfl rfl rfl)

theorem canQueue_jobsStill (d : Dev) (q off stream : Nat) (last : Bool) (content : List Byte) : d.JobsStill (d.canQueue q off stream last content) :=
  .doneUnless (d.setQuoin_jobsStill q _)

theorem declareFence_jobsStill (d : Dev) (q u cause : Nat) : d.JobsStill (d.declareFence q u cause) := by
  unfold declareFence
  dsimp only
  refine .doneUnless ?_
  refine JobsStill.trans ?_ (canQueue_jobsStill _ _ _ _ _ _)
  refine JobsStill.trans ?_ (setFence_jobsStill _ u)
  exact (setQuoin_jobsStill _ _ _).trans (emit_jobsStill _ _ _ _ _ _)

theorem declareBoth_jobsStill (d : Dev) (u cause : Nat) : d.JobsStill (d.declareBoth u cause) :=
  (d.declareFence_jobsStill 0 u cause).trans (declareFence_jobsStill _ 1 u cause)

theorem reroute_jobsStill (d old : Dev) : d.JobsStill (d.reroute old) := by
  unfold reroute
  exact JobsStill.trans (.foldl (fun d _ => d.emit_jobsStill _ _ _ _ _) _ _) (.foldl (fun d n => .doneIf (d.declareBoth_jobsStill _ 3)) _ _)

theorem stopLink_jobsStill (d : Dev) (n p : Nat) (st : PortSt) : d.JobsStill (d.stopLink n p st) :=
  (d.setPort_jobsStill n p _).trans (setPort_jobsStill _ _ _ _)

theorem linkFence_traces (d : Dev) (n p : Nat) : d.Traces c a (d.linkFenced_ n p) := by
  unfold linkFenced_
  dsimp only
  refine Traces.trans ?_ (reroute_jobsStill _ _).traces
  refine Traces.trans ?_ (.foldl (fun d b => d.trigger_traces b stFencedResource false) _ _)
  exact (JobsStill.doneUnless ((d.stopLink_jobsStill n p .fenced).trans (emit_jobsStill _ _ _ _ _ _))).traces

/-- A plan that ends neither without a path nor out of time is only counted. -/
theorem planCounts_jobsStill (d : Dev) (k : EngCmd) {st : Nat} (path : st ≠ 8) (time : st ≠ 9) : d.JobsStill (d.planCounts k st) := by
  unfold planCounts
  dsimp only
  rw [if_neg (by omega), if_neg path, if_neg time]
  exact d.bump_jobsStill _ _

theorem crnResultOk_of_partless (partless : ∀ p, d.part p = none) (k : EngCmd) (bs : List Byte) : d.crnResultOk k bs = false := by
  unfold crnResultOk rangeOk
  rw [partless]
  exact Bool.and_false _

theorem crnEnd_traces (d : Dev) (k : EngCmd) (bs tail : List Byte) {h : ResultHead} (path : h.status ≠ 8) (time : h.status ≠ 9) :
    d.Traces c a (d.crnEnd k bs tail h) := by
  unfold crnEnd
  extract_lets r d1 d2
  have written : d.Traces c a d1 := by
    refine .of_safety (e := d1) ?_ fun partless => ?_
    · unfold d1
      split
      · refine SafetyOnly.trans ?_ (jobWrites_safetyOnly _ _ _)
        split
        · exact .refl d
        · exact d.jobWrites_safetyOnly _ _
      · exact .refl d
    · unfold d1
      rw [if_neg (by rw [crnResultOk_of_partless partless]; decide)]
  have counted : d.Traces c a d2 := written.trans (JobsStill.doneIf (planCounts_jobsStill _ k path time)).traces
  clear_value d1 d2
  split
  · exact counted.trans (completeTicket_jobsStill _ _ _ _).traces
  · exact (counted.trans (setCtx_jobsStill _ _ (by rfl)).traces).trans (endCtx_traces _ _ _)

theorem crnSet_jobsStill (d : Dev) (x : Cairn) : d.JobsStill { d with crn := x } := .of_jfe rfl rfl rfl rfl rfl

theorem crnClear_traces (d : Dev) {st : Nat} (path : st ≠ 8) (time : st ≠ 9) : d.Traces c a (d.crnClear st) := by
  unfold crnClear
  extract_lets x d1 d2
  have emptied : d.Traces c a d1 := (d.crnSet_jobsStill _).traces
  have ended : d.Traces c a d2 := by
    unfold d2
    split
    · exact emptied.trans (crnEnd_traces _ _ _ _ path time)
    · exact emptied
  clear_value d2
  split
  · exact ended.trans (crnEnd_traces _ _ _ _ path time)
  · exact ended

theorem crnFenced_traces (d : Dev) : d.Traces c a d.crnFenced := by
  unfold crnFenced
  dsimp only
  refine Traces.trans ((d.crnSet_jobsStill _).traces.trans (crnClear_traces _ (by decide) (by decide))) (.foldl (fun d k => ?_) _ _)
  split
  · exact (d.completeTicket_jobsStill _ _ _).traces
  · exact d.endCtx_traces _ _

theorem setHodQ_jobsStill (d : Dev) (q : Nat) (x : HodQ) : d.JobsStill (d.setHodQ q x) := .of_jfe rfl rfl rfl rfl rfl

theorem hodFence_jobsStill (d : Dev) (q : Nat) : d.JobsStill (d.hodFence q) := by
  unfold hodFence
  split
  · exact .doneUnless ((d.setHodQ_jobsStill q _).trans (emit_jobsStill _ _ _ _ _ _))
  · exact .refl d

theorem hodFences_jobsStill (d : Dev) : d.JobsStill d.hodFences := .foldl (fun d q => d.hodFence_jobsStill q) _ _

/-- What does nothing before start-up, and does not start the package up. -/
theorem Traces.of_starting (boot : d.BootKept e) (idle : d.sec.boot.stage = 0 → d.JobsStill e) : d.Traces c a e where
  boot := boot
  spent start := ((idle start).traces (a := a)).spent start
  torn start := ((idle start).traces (a := a)).torn start
  back start := ((idle start).traces (a := a)).back start
  hush start := ((idle start).traces (a := a)).hush start
  bound start := ((idle start).traces (a := a)).bound start

theorem regate_bootKept (d : Dev) (off : Nat → Bool) : d.BootKept (d.regate off) := by
  unfold regate
  refine .doneUnless (.foldl (fun d k => ?_) _ _)
  dsimp only
  exact .either (.doneUnless (d.powerSet_bootKept _)) (.either ((d.powerSet_bootKept _).trans (domainDown_bootKept _ k)) (d.powerSet_bootKept _))

theorem regate_traces (d : Dev) (off : Nat → Bool) : d.Traces c a (d.regate off) := by
  refine .of_starting (d.regate_bootKept off) fun start => ?_
  rw [regate_of_starting (by rw [start]; decide)]
  exact .refl d

theorem fenceApply_traces (d : Dev) (u : Nat) : d.Traces c a (d.fenceApply u) := by
  unfold fenceApply
  extract_lets n d1 d1' b d2
  have ended : d.Traces c a d1 := .foldl (fun d b => d.trigger_traces b stFencedResource false) _ _
  have squashed : d.Traces c a b :=
    (ended.trans (.foldl (fun d b => d.trigger_traces b stFencedResource false) _ _)).trans (JobsStill.foldl (fun d k => d.askSquash_jobsStill k 0x03) _ _).traces
  clear_value d1 b
  have lost : d.Traces c a d2 := by
    unfold d2
    split
    · exact Traces.trans ended (.doneIf d1.crnFenced_traces)
    · exact ended.trans (linkFence_traces _ _ _)
    · exact squashed.trans (b.mirrorsLost_jobsStill.trans (reroute_jobsStill _ _)).traces
    · exact ended
  clear_value d2
  exact (lost.trans d2.hodFences_jobsStill.traces).trans (regate_traces _ _)

/-! ### What becomes due -/

theorem squashAsked_jobsStill (d : Dev) (l : List (Nat × Nat)) : d.JobsStill { d with jfe := { d.jfe with squash := l } } := ⟨⟨fun _ => rfl, rfl, rfl, rfl, rfl⟩, rfl⟩

theorem squashStep_traces (h : d.squashStep = some e) : d.Traces c a e := by
  unfold squashStep at h
  split at h
  · nomatch h
  · obtain rfl := Option.some.inj h
    exact (d.squashAsked_jobsStill _).traces.trans (squash_traces _ _ _)

theorem fencesTaken_jobsStill (d : Dev) (l : List Nat) : d.JobsStill { d with newFences := l } := .of_jfe rfl rfl rfl rfl rfl

theorem fenceStep_traces (h : d.fenceStep = some e) : d.Traces c a e := by
  unfold fenceStep at h
  split at h
  · nomatch h
  · obtain rfl := Option.some.inj h
    exact (d.fencesTaken_jobsStill _).traces.trans (fenceApply_traces _ _)

theorem stopStep_traces (h : d.stopStep = some e) : d.Traces c a e := by
  unfold stopStep at h
  dsimp only at h
  split at h
  · nomatch h
  · split at h
    · nomatch h
    · obtain rfl := Option.some.inj h
      exact Traces.trans (JobsStill.foldl (fun d k => d.askSquash_jobsStill k 0x0A) _ _).traces (.foldl (fun d b => d.trigger_traces b stSafeState false) _ _)

theorem confirmStep_traces (h : d.confirmStep = some e) : d.Traces c a e := by
  obtain ⟨k, -, due⟩ := List.exists_of_findSome?_eq_some h
  split at due
  · split at due
    · obtain rfl := Option.some.inj due
      exact d.squash_traces _ _
    · split at due
      · obtain rfl := Option.some.inj due
        exact d.confirm_traces _
      · nomatch due
  · nomatch due

theorem heldTaken_jobsStill (d : Dev) (l : List HeldWrite) : d.JobsStill { d with jfe := { d.jfe with heldWrites := l } } := ⟨⟨fun _ => rfl, rfl, rfl, rfl, rfl⟩, rfl⟩

theorem heldStep_traces (h : d.heldStep = some e) : d.Traces c a e := by
  unfold heldStep at h
  split at h
  · obtain rfl := Option.some.inj h
    refine (d.heldTaken_jobsStill _).traces.trans (.of_starting (writeReg_bootKept _ _ _ _) fun start => ?_)
    rw [writeReg_of_starting start]
    exact .refl _
  · nomatch h

theorem limitStep_traces (h : d.limitStep = some e) : d.Traces c a e := by
  unfold limitStep at h
  split at h
  · nomatch h
  · obtain ⟨k, -, due⟩ := List.exists_of_findSome?_eq_some h
    split at due
    · obtain rfl := Option.some.inj due
      exact d.epochReady_traces _
    · nomatch due

theorem requestStep_traces (h : d.requestStep = some e) : d.Traces c a e := by
  obtain ⟨k, -, due⟩ := List.exists_of_findSome?_eq_some h
  split at due
  · obtain ⟨x, -, asked⟩ := List.exists_of_findSome?_eq_some due
    dsimp only at asked
    split at asked
    · split at asked
      · nomatch asked
      · obtain rfl := Option.some.inj asked
        exact d.request_traces _ _
    · nomatch asked
  · nomatch due

/-- A core that goes on after a wait is one that runs. -/
theorem wakeStep_retry (h : d.wakeStep = some e) : ∃ g k, (g, k) ∈ d.cores ∧ k.st = .running ∧ e = d.retry g := by
  obtain ⟨x, found, rfl⟩ := Option.map_eq_some_iff.mp h
  have waits := List.find?_some found
  simp only [Bool.and_eq_true] at waits
  obtain ⟨⟨⟨-, runs⟩, -⟩, -⟩ := waits
  exact ⟨x.1, x.2, List.mem_of_find?_eq_some found, eq_of_beq runs, rfl⟩

/-- Cores are zeroed that are bound to no job. -/
theorem zeroed_traces (d : Dev) (part : Option Nat) (l : List Nat) (free : ∀ g ∈ l, (d.core g).ctx = none) :
    d.Traces c a (l.foldl (fun d g => d.modCore g (fun k => { k with st := .zeroing, lastPart := part })) d) := by
  induction l generalizing d with
  | nil => exact .refl d
  | cons g l ih =>
    have own : (d.core g).ctx = none := free g List.mem_cons_self
    refine (d.setCore_traces g (k := { d.core g with st := .zeroing, lastPart := part }) (.inl own)).trans (ih _ fun j mem => ?_)
    by_cases same : j = g
    · subst same
      exact (congrArg Core.ctx (core_setCore_self _ _ _)).trans own
    · exact (congrArg Core.ctx (core_setCore_ne _ _ same)).trans (free j (List.mem_cons_of_mem _ mem))

theorem zeroStep_traces (h : d.zeroStep = some e) : d.Traces c a e := by
  obtain ⟨k, -, due⟩ := List.exists_of_findSome?_eq_some h
  dsimp only at due
  split at due
  · split at due
    · nomatch due
    · obtain rfl := Option.some.inj due
      refine d.zeroed_traces _ _ fun g mem => ?_
      have idle := (List.mem_filter.mp mem).2
      simp only [Bool.and_eq_true] at idle
      exact eq_of_beq idle.2
  · nomatch due

/-- Start-up has not begun, and the context holds nothing. -/
structure Spent (d : Dev) (c : Nat) : Prop where
  stage : d.sec.boot.stage = 0
  none : (d.ctx c).state.holds = false

/-- Start-up has not begun, and the job of the context is torn down. -/
structure Torn (d : Dev) (c : Nat) : Prop where
  stage : d.sec.boot.stage = 0
  down : (d.ctx c).state = .draining

theorem Torn.not_spent (h : d.Torn c) (k : d.Spent c) : False := by
  have none := k.none
  rw [h.down] at none
  nomatch none

/-- What an effect makes of the two, of a package that has been started up, and of one where the job that holds no core is the only one in use. -/
structure Due (d : Dev) (c : Nat) (e : Dev) : Prop where
  started : d.sec.boot.stage ≠ 0 → e.sec.boot.stage ≠ 0 ∨ e.Spent c ∧ ¬e.Hush c
  spent : d.Spent c → e.Spent c
  torn : d.Torn c → e.Torn c ∨ e.Spent c
  back : d.Torn c → e.Torn c → e.Lone c → d.Lone c ∧ e.mem = d.mem
  hush : d.Spent c → e.Hush c → d.Hush c ∧ ((e.core 1).ctx ≠ none → (d.core 1).ctx ≠ none)

theorem Traces.due (h : d.Traces c a e) (apart : a ≠ 0 ∨ ¬d.Hush c) : d.Due c e := by
  have stage : e.sec.boot.stage = d.sec.boot.stage := congrArg Boot.stage h.boot
  refine ⟨fun started => .inl (by rw [stage]; exact started), fun k => ⟨stage.trans k.stage, h.spent k.stage k.none⟩, fun k => ?_,
    fun k k' lone => h.back k.stage k.down lone k'.down, fun k quiet => ?_⟩
  · obtain down | none := h.torn k.stage k.down
    · exact .inl ⟨stage.trans k.stage, down⟩
    · exact .inr ⟨stage.trans k.stage, none⟩
  · have before := h.hush k.stage k.none quiet
    obtain other | loud := apart
    · exact ⟨before, h.bound k.stage k.none quiet other⟩
    · exact absurd before loud

/-- A reset of the Keystone ends every job without more, and binds no core. -/
theorem lostStep_due (h : d.lostStep = some e) : d.Due c e := by
  unfold lostStep at h
  split at h
  · obtain rfl := Option.some.inj h
    have reset : d.keystoneReset.Spent c := ⟨rfl, rfl⟩
    have loud : ¬d.keystoneReset.Hush c := fun quiet => quiet.bound rfl
    exact ⟨fun _ => .inr ⟨reset, loud⟩, fun _ => reset, fun _ => .inr reset, fun _ torn _ => absurd reset torn.not_spent, fun _ quiet => absurd quiet loud⟩
  · nomatch h

theorem wakeStep_due (h : d.wakeStep = some e) : d.Due c e := by
  obtain ⟨g, k, mem, runs, rfl⟩ := wakeStep_retry h
  refine (d.retry_traces g).due ?_
  by_cases zero : g = 0
  · subst zero
    exact .inr fun quiet => quiet.rests k mem runs
  · exact .inl zero

theorem nextStep_due (h : d.nextStep = some e) : d.Due c e := by
  have due (traces : d.Traces c 1 e) : d.Due c e := traces.due (.inl Nat.one_ne_zero)
  unfold nextStep at h
  simp only [Option.orElse_eq_orElse, Option.orElse_eq_or, Option.or_eq_some_iff] at h
  obtain squash | ⟨-, fence | ⟨-, lost | ⟨-, stop | ⟨-, confirm | ⟨-, held | ⟨-, limit | ⟨-, request | ⟨-, wake | ⟨-, zero⟩⟩⟩⟩⟩⟩⟩⟩⟩ := h
  · exact due (squashStep_traces squash)
  · exact due (fenceStep_traces fence)
  · exact lostStep_due lost
  · exact due (stopStep_traces stop)
  · exact due (confirmStep_traces confirm)
  · exact due (heldStep_traces held)
  · exact due (limitStep_traces limit)
  · exact due (requestStep_traces request)
  · exact wakeStep_due wake
  · exact due (zeroStep_traces zero)

end Dev

namespace Dev

variable {d e : Dev} {c : Nat}

/-! ### Until nothing is due -/

theorem settleLoop_spent (n : Nat) {d : Dev} (k : d.Spent c) : (settleLoop n d).Spent c := by
  induction n generalizing d with
  | zero => exact k
  | succ n ih =>
    unfold settleLoop
    split
    next next => exact ih ((nextStep_due next).spent k)
    · exact k

/-- Once started up, a package shows no job torn down before start-up. -/
theorem settleLoop_started (n : Nat) {d : Dev} (started : d.sec.boot.stage ≠ 0) : ¬(settleLoop n d).Torn c := by
  induction n generalizing d with
  | zero => exact fun k => started k.stage
  | succ n ih =>
    unfold settleLoop
    split
    next next =>
      obtain started' | ⟨spent, -⟩ := (nextStep_due next).started started
      · exact ih started'
      · exact fun k => k.not_spent (settleLoop_spent n spent)
    · exact fun k => started k.stage

/-- Where the job is still torn down in the end, and the only one, it was so throughout, and memory is as it was. -/
theorem settleLoop_torn (n : Nat) {d : Dev} (k : d.Torn c) (torn : (settleLoop n d).Torn c) (lone : (settleLoop n d).Lone c) :
    d.Lone c ∧ (settleLoop n d).mem = d.mem := by
  induction n generalizing d with
  | zero => exact ⟨lone, rfl⟩
  | succ n ih =>
    unfold settleLoop at torn lone ⊢
    split at torn
    next e next =>
      simp only [next] at lone ⊢
      obtain k' | spent := (nextStep_due next).torn k
      · obtain ⟨lone', mem'⟩ := ih k' torn lone
        obtain ⟨lone'', mem''⟩ := (nextStep_due next).back k k' lone'
        exact ⟨lone'', mem'.trans mem''⟩
      · exact absurd (settleLoop_spent n spent) torn.not_spent
    next none =>
      rw [none] at lone
      exact ⟨lone, rfl⟩

theorem settleLoss_jobsStill (d : Dev) : d.JobsStill d.settleLoss := .doneUnless (.of_jfe rfl rfl rfl rfl rfl)

theorem JobsStill.torn (h : d.JobsStill e) (k : e.Torn c) : d.Torn c := ⟨(congrArg Boot.stage h.boot).symm.trans k.stage, (h.states c).symm.trans k.down⟩

theorem JobsStill.symm (h : d.JobsStill e) : e.JobsStill d :=
  ⟨⟨fun b => (h.states b).symm, h.parts.symm, h.seqs.symm, h.boot.symm, h.mem.symm⟩, h.cores.symm⟩

/-- Devices that differ in the part at most. -/
theorem JobsStill.of_keepHw {hw : Hw} (same : d.keepHw hw = e.keepHw hw) : d.JobsStill e := by
  exact .of_jfe (congrArg (fun d : Dev => d.jfe) same).symm (congrArg (fun d : Dev => d.seqs) same).symm (congrArg (fun d : Dev => d.sec) same).symm
    (congrArg (fun d : Dev => d.mem) same).symm (congrArg (fun d : Dev => d.cores) same).symm

/-- What settles a job that is torn down, where it is so still in the end and the only one, leaves memory as it is. -/
theorem settle_mem_of_torn (down : (d.ctx c).state = .draining) (torn : d.settle.Torn c) (lone : d.settle.Lone c) : d.settle.mem = d.mem := by
  have last := settleLoss_jobsStill (settleLoop settleFuel d)
  have torn' := last.torn torn
  by_cases start : d.sec.boot.stage = 0
  · exact last.mem.trans (settleLoop_torn settleFuel ⟨start, down⟩ torn' (last.lone lone)).2
  · exact absurd torn' (settleLoop_started settleFuel start)

end Dev

/-! ### A context table in device memory -/

/-- The job of context 5, which runs. -/
def runningJob : Ctx := { Ctx.free with state := .running }

/-- Before start-up, with the context table in the DRAM of die 0, one job running, and semaphore 0 held by it. -/
def tabled : State :=
  { State.reset with
    dev := { Dev.reset with
      regs := [(JFE_CTX_TABLE_LO, some 0x10000#32)]
      jfe := { Jfe.reset with ctxs := [(5, runningJob)] }
      sems := [(0, { Sem.free with holder := some (0, 5) })] } }

/-- The device as the parity error of semaphore 0 leaves it. -/
def parityMet : Dev := tabled.dev.fresh.semParityFx 0 0

/-- The teardown writes the job's entry. -/
theorem parityMet_mem : parityMet.mem ≠ tabled.dev.mem := by decide

theorem parityMet_idle : parityMet.nextStep = none := by decide

theorem parityMet_ctxs : parityMet.jfe.ctxs = [(5, { runningJob with state := .draining, ending := stMemoryUncorrectable, trigTick := some 0 })] := by decide

theorem parityMet_torn : parityMet.Torn 5 := ⟨by decide, by decide⟩

theorem parityMet_lone : parityMet.Lone 5 where
  others b ne := by
    unfold Dev.ctx
    rw [parityMet_ctxs]
    simp [FMap.get, Ne.symm ne]
    rfl
  parts _ := rfl
  seqs _ mem := nomatch mem

theorem parityMet_settle : parityMet.JobsStill parityMet.settle := by
  rw [Dev.settle_of_idle parityMet_idle]
  exact parityMet.settleLoss_jobsStill

theorem exec_parity : exec (.semParityError 0 0) tabled = .next { tabled with dev := parityMet.settle.keepHw tabled.dev.hw } := rfl

/-- Refutes O45: a semaphore with bad parity whose holder runs tears the job down, and where there is a context table in device memory (R161) the
teardown writes the job's entry, so memory is not as it was. Nothing that becomes due with it can have undone the write. -/
theorem not_memoryEventResults : ¬ Obligations.MemoryEventResults := by
  unfold Obligations.MemoryEventResults
  intro h
  obtain ⟨-, -, -, -, -, parity, -⟩ := h tabled
  obtain ⟨x, answer, -, -, mem, -, torn⟩ := parity 0 0 (by decide) (by decide)
  have down : (x.ctx 5).state = .draining := (torn 0 5 (by decide) (by decide)).1
  have same : x.settle.keepHw tabled.dev.hw = parityMet.settle.keepHw tabled.dev.hw := by
    rw [exec_parity] at answer
    injection answer with same
    exact congrArg State.dev same.symm
  have still := parityMet_settle.trans (Dev.JobsStill.of_keepHw same).symm
  have kept := Dev.settle_mem_of_torn down (still.symm.torn parityMet_torn) (still.symm.lone parityMet_lone)
  exact parityMet_mem (still.mem.symm.trans (kept.trans mem))

end Sys2Proof.Machine
end

section
/-! SUPPORT. A teardown that wakes the lead of a couple whose follow is bound to another job than the lead (R97, R109, R151). -/
namespace Sys2Proof.Machine

namespace Dev

variable {d e : Dev} {c : Nat}

/-! ### Until nothing is due -/

/-- Where the job that holds no core is the only one in use in the end, and core 1 is then bound, core 1 was bound from the start. -/
theorem settleLoop_bound (n : Nat) {d : Dev} (k : d.Spent c) (quiet : (settleLoop n d).Hush c) :
    d.Hush c ∧ (((settleLoop n d).core 1).ctx ≠ none → (d.core 1).ctx ≠ none) := by
  induction n generalizing d with
  | zero => exact ⟨quiet, id⟩
  | succ n ih =>
    unfold settleLoop at quiet ⊢
    split at quiet
    next e next =>
      have due := nextStep_due (c := c) next
      obtain ⟨before, bound⟩ := ih (due.spent k) quiet
      obtain ⟨before', bound'⟩ := due.hush k before
      exact ⟨before', fun there => bound' (bound there)⟩
    next none =>
      exact ⟨quiet, id⟩

/-- A package that has been started up gets back before start-up by a reset of the Keystone alone, which binds no core. -/
theorem settleLoop_loud (n : Nat) {d : Dev} (started : d.sec.boot.stage ≠ 0) (start : (settleLoop n d).sec.boot.stage = 0) : ¬(settleLoop n d).Hush c := by
  induction n generalizing d with
  | zero => exact absurd start started
  | succ n ih =>
    unfold settleLoop at start ⊢
    split at start
    next e next =>
      obtain started' | ⟨spent, loud⟩ := (nextStep_due (c := c) next).started started
      · exact ih started' start
      · exact fun quiet => loud (settleLoop_bound n spent quiet).1
    next => exact absurd start started

/-- What settles a package before start-up binds core 1 to no job, where the one job in use in the end is one that held no core. -/
theorem bound_of_settle (idle : (d.ctx c).state.holds = false) (start : d.settle.sec.boot.stage = 0) (quiet : d.settle.Hush c)
    (there : (d.settle.core 1).ctx ≠ none) : (d.core 1).ctx ≠ none := by
  have last := settleLoss_jobsStill (settleLoop settleFuel d)
  have start' := (congrArg Boot.stage last.boot).symm.trans start
  have quiet' := last.hush quiet
  have there' : ((settleLoop settleFuel d).core 1).ctx ≠ none := by
    rw [← core_of_cores last.cores]
    exact there
  by_cases started : d.sec.boot.stage = 0
  · exact (settleLoop_bound settleFuel ⟨started, idle⟩ quiet').2 there'
  · exact absurd quiet' (settleLoop_loud settleFuel started start')

end Dev

/-! ### A couple whose halves are bound to two jobs -/

/-- The job of context 5, which is torn down; it was placed on cluster 0 of die 0. -/
def drainedJob : Ctx := { Ctx.free with state := .draining, inv := { Invoke.empty with clusters := 1 } }

/-- Before start-up, with the follow of the joined couple 0 bound to context 5 and its lead to context 9; the lead waits for semaphore 0, which context 5
holds. -/
def parted : State :=
  { State.reset with
    dev := { Dev.reset with
      jfe := { Jfe.reset with ctxs := [(5, drainedJob)] }
      joined := [(0, true)]
      cores := [(0, { Core.off with st := .idle, ctx := some 9 }), (1, { Core.off with st := .idle, ctx := some 5 })]
      sems := [(0, { Sem.free with holder := some (1, 5), waiters := [0] })] } }

/-- The device as the end of the teardown leaves it. -/
def tornDown : Dev := parted.dev.fresh.teardownDone 5

theorem parted_coresOn : parted.dev.coresOn 5 = [1] := by decide

theorem tornDown_idle : tornDown.nextStep = none := by decide

/-- The lead goes on with the semaphore, and the follow follows it. -/
theorem tornDown_follow : (tornDown.core 1).ctx = some 9 := by decide

theorem tornDown_cores : tornDown.cores = [(0, { Core.off with st := .idle, ctx := some 9, pc := 8 }), (1, { Core.off with st := .idle, ctx := some 9, pc := 8 })] := by
  decide

theorem tornDown_hush : tornDown.Hush 5 where
  others b ne := by
    have ctxs : tornDown.jfe.ctxs = [(5, { drainedJob with state := .ending })] := by decide
    unfold Dev.ctx
    rw [ctxs]
    simp [FMap.get, Ne.symm ne]
    rfl
  parts _ := rfl
  bound := by decide
  unsaved := by decide
  rests k mem := by
    rw [tornDown_cores] at mem
    simp at mem
    rw [mem]
    decide

theorem tornDown_settle : tornDown.JobsStill tornDown.settle := by
  rw [Dev.settle_of_idle tornDown_idle]
  exact tornDown.settleLoss_jobsStill

theorem exec_teardown : exec (.teardownComplete 5) parted = .next { parted with dev := tornDown.settle.keepHw parted.dev.hw } := rfl

/-- Refutes O39: where the follow of a joined couple is bound to the job that ends and its lead, bound to another, waits for a semaphore of that job, the
poisoned semaphore wakes the lead, and the follow takes over what the lead holds: it stays bound, to the lead's job. -/
theorem not_jobEndResults : ¬ Obligations.JobEndResults := by
  unfold Obligations.JobEndResults
  intro h
  obtain ⟨-, -, -, teardown, -⟩ := h parted
  have left : ∀ g ∈ parted.dev.coresOn 5, (parted.dev.core g).dma = [] := by
    rw [parted_coresOn]
    decide
  obtain ⟨x, answer, ⟨ending, -, -⟩, cores, -⟩ := teardown 5 (by decide) (by decide) left
  obtain ⟨unbound, -⟩ := cores 1 (by rw [parted_coresOn]; decide)
  have same : x.settle.keepHw parted.dev.hw = tornDown.settle.keepHw parted.dev.hw := by
    rw [exec_teardown] at answer
    injection answer with same
    exact congrArg State.dev same.symm
  have still := (tornDown_settle.trans (Dev.JobsStill.of_keepHw same).symm).symm
  refine absurd unbound (Dev.bound_of_settle (c := 5) ?_ ?_ ?_ ?_)
  · rw [ending]
    rfl
  · exact (congrArg Boot.stage still.boot).symm
  · exact still.hush tornDown_hush
  · rw [← Dev.core_of_cores still.cores, tornDown_follow]
    nofun

end Sys2Proof.Machine
end
